-- ==== Sys2Proof/Word.lean ====
section
/-!
DEFINITION. The words of the model: 32-bit register words, bytes, and the sparse tables that hold keyed data.
-/
namespace Sys2Proof

/-- A 32-bit register word (R10). -/
abbrev Word := BitVec 32

/-- A byte of memory. -/
abbrev Byte := BitVec 8

/-- A sparse table: keys strictly rising, so that equal tables are equal lists. -/
abbrev Table (α : Type) := List (Nat × α)

/-- A set of numbers, strictly rising. -/
abbrev Keys := List Nat

end Sys2Proof
end

