-- ==== Sys2Proof/Syntax.lean ====
section
/-!
DEFINITION. The commands of the module, one constructor of `Instr` for each row of spec/opcode_table.json, with the
operands that the spec's rules give them. The table gives no operand and no bit (DESIGN CHOICE, log 1): what a command
meets outside the module (a host's answer, a sensor's reading, a packet, an error of a stored word) is an operand.
-/
namespace Sys2Proof

/-- A register page of Table 17-5, with its instance; the last two are the window control page of a virtual
function (R492) and the registers of the firmware Start list page for one partition (R261). -/
inductive Page
  | hub | cox | sec | fc | pm | spadWin
  | pci (port : Nat) | srn (port : Nat) | tb (c : Nat)
  | fwSl
  | part (p : Nat) | sq (p n : Nat)
  | rein (r : Nat) | skv (r : Nat) | pw (r : Nat) | sl (r : Nat)
  | hbm (s : Nat) | qf (q : Nat) | fin (q : Nat) | blk (b : Nat) | spb (b : Nat)
  | vfWin (port fn : Nat)
  | fwPart (p : Nat)
deriving DecidableEq, Repr

/-- The function through which a host reaches the module (R351): PF0 of a port, or virtual function 1 to 16 of a port. -/
inductive Via
  | pf (port : Fin 2)
  | vf (port : Fin 2) (n : Fin 17)
deriving DecidableEq, Repr

/-- Where a command of a queue comes from (R167, R176, R178): its partition, its queue, its job tag, its home quad, and
whether its job is a serving step's (R273). -/
structure Origin where
  part : Fin 16
  queue : Fin 64
  tag : BitVec 16
  quad : Fin 16
  step : Bool
deriving DecidableEq, Repr

/-- The 48-byte body of a command, offsets 0x10 to 0x3F (R176); byte 0x10 is the least significant. -/
abbrev Body := BitVec 384

/-- A 64-byte command (R176); byte 0 is the least significant. -/
abbrev Command := BitVec 512

/-- What a host answers to a request of the device (R353): its bytes, or an error completion. A write that succeeds
answers no bytes. -/
inductive HostReply
  | data (bytes : List Byte)
  | error
deriving DecidableEq, Repr

/-- A modulo-3 residue mismatch that a pass meets in a cell's column (R96); `again` where the recomputed cycle
mismatches too. -/
structure Residue where
  cell : Fin 8
  column : Fin 16
  again : Bool
deriving DecidableEq, Repr

/-- An error that a read meets in a stored word or line (R160, R334). -/
inductive Ecc
  | clean
  | corrected
  | uncorrectable
deriving DecidableEq, Repr

/-- A step of a release scrub (R347): a stack zeroes some more of its 64 MiB units, tier B its next slice, or all that is left
is zeroed. -/
inductive ScrubStep
  | units (stack : Fin 16) (n : Nat)
  | slice
  | rest
deriving DecidableEq, Repr

/-- What a pass meets in its block (R96): a residue mismatch, or an error of accumulator word `column × 256 + word`. -/
inductive PassEvent
  | residue (r : Residue)
  | acc (word : Fin 32768) (uncorrectable : Bool)
deriving DecidableEq, Repr

/-- An error of a word in a row of an engine's buffer (R438). -/
structure BufferError where
  row : Fin 4096
  uncorrectable : Bool
deriving DecidableEq, Repr

/-- An engine instance with an engine queue (R188). -/
inductive Engine
  | stroke (b : Fin 256) | burnisher (b : Fin 256)
  | fin (q : Fin 16) | dma (q : Fin 16) | sync (q : Fin 16)
  | rein (r : Fin 4) | skive (r : Fin 4)
  | startList (p : Fin 16)
deriving DecidableEq, Repr

/-- Requesters at a bank (Table 05-4). -/
inductive Requester
  | tileLoader | zeroFill | dma | rein | fin | burnisher | host | scrubber
deriving DecidableEq, Repr

/-- An access that waits at a bank (R148, R149): its requester and the requester's port, its offset in the bank, whether
it writes, and the cycles that it has waited. -/
structure BankAccess where
  requester : Requester
  port : Nat
  offset : Nat
  write : Bool
  waited : Nat
deriving DecidableEq, Repr

/-- A payload as it travels on a Serrun link (R422): its bytes, the tags of its 4 KiB units where the sender encodes them
(none: all raw), and the numbers of its 64-byte lines that are poison (R23). -/
structure Payload where
  bytes : List Byte
  tags : List Nat
  bad : Keys
deriving DecidableEq, Repr

/-- Why a packet was refused (R415, R418, R420, R425), or that the sum of a signal passed the top of its semaphore (R191, R421). -/
inductive RefusalReason
  | epoch | linkDown | remote | config | overflow
deriving DecidableEq, Repr

/-- What a Serrun packet does at its destination (R419, R420, R425); a part names its phase by `column` and `gather`. An
acknowledgement and a refusal answer transfer number `xfer` of the packet (R417). -/
inductive PacketBody
  | write (addr : Nat) (data : Payload)
  | read (addr len : Nat)
  | update (addr : Nat) (data : Payload) (ty op : Nat) (unsignedOp : Bool)
  | signal (sem add : Nat)
  | part (collId len ty op : Nat) (unsignedOp : Bool) (digest offset : Nat) (column gather : Bool) (data : Payload)
  | ack (data : Payload)
  | refusal (reason : RefusalReason)
deriving DecidableEq, Repr

/-- A Serrun packet: its source and destination in the mesh, its epoch, crew tag and transfer number (R415, R420). -/
structure Packet where
  srcX : Fin 64
  srcY : Fin 64
  dstX : Fin 64
  dstY : Fin 64
  twin : Bool
  epoch : BitVec 16
  tag : BitVec 16
  xfer : Nat
  last : Bool
  body : PacketBody
deriving DecidableEq, Repr

/-- A mirrored write from the twin (R427): bytes at a device address, the depths of the standby's free stacks and
retire queues, or a slot image with its stamp. -/
inductive Mirror
  | bytes (addr : Nat) (data : Payload)
  | depths (freeA freeB retireA retireB : Nat)
  | image (region index : Nat) (words : List Word)
deriving DecidableEq, Repr

/-- A placement message (R413, R414). -/
structure Placement where
  meshB : Bool
  dimXM1 : Fin 64
  dimYM1 : Fin 64
  x : Fin 64
  y : Fin 64
  epoch : Word
  record : List Byte
deriving DecidableEq, Repr

/-- An SPDM responder (Table 13-8). -/
inductive Responder
  | doe (via : Via)
  | pcieMctp
  | sideband
deriving DecidableEq, Repr

/-- The MCTP endpoints (R510): the sideband's, and the PCIe one of the management port. -/
inductive Endpoint
  | sideband
  | pcie
deriving DecidableEq, Repr

/-- An SPDM request (R392), as far as the module's state bears on the answer. -/
inductive SpdmRequest
  | version
  | capabilities
  | algorithms
  | digests
  | certificate
  | challenge
  | measurements (block : Nat)
  | keyExchange
  | finish (session : Nat)
  | heartbeat (session : Nat)
  | keyUpdate (session : Nat)
  | secured (session : Nat)
  | endSession (session : Nat)
  | chunkSend
  | chunkGet
  | vendor
  | other
deriving DecidableEq, Repr

/-- How much of a delivery's processing a row performs (R386): all of it, its start alone, or the end of one that started. -/
inductive Processing
  | whole
  | start
  | finish
deriving DecidableEq, Repr

/-- What FAULT_RECORD_ARRIVAL brings of a page (R434, R436): its oldest record arrives, or finds no holding space; or the page's
own memory meets an error that it corrects, or cannot read what it holds for a partition (Table 15-7). -/
inductive Arrival
  | arrived
  | dropped
  | corrected
  | unreadable (part : Fin 16)
deriving DecidableEq, Repr

/-- An access on the debug port (R399, Table 13-11). -/
inductive Jtag
  | boundaryScan
  | cox (address : Nat) (value : Option Word)
  | page (page : Page) (offset : Nat) (value : Option Word)
  | internalScan (position : Nat) (value : Option Word)
deriving DecidableEq, Repr

/-- Readings of the power sensors for a telemetry sample (R474, Table 16-8). -/
structure Readings where
  vinMv : BitVec 16
  iin : BitVec 16
  pin : BitVec 16
  conv : BitVec 16
  region0 : BitVec 16
  region1 : BitVec 16
  region2 : BitVec 16
  region3 : BitVec 16
  hbm : BitVec 16
  tierB : BitVec 16
  hub : BitVec 16
  blockMax : Byte
  hbmMax : Byte
  hubT : Byte
  plate : Byte
  energyMj : Nat
deriving DecidableEq, Repr

/-- Why a function is reset at function level (R361, Table 12-3). -/
inductive FlrCause
  | flr
  | vfEnableCleared
  | numVfsLowered (n : Fin 17)
deriving DecidableEq, Repr

/-- What a configuration read returns (R351, R352): vendor and device ID, the sizes of BAR0 and BAR2, the command register,
the power state, MSI-X message control, Max_Payload_Size and Max_Read_Request_Size as supported and as set, SR-IOV, the
uncorrectable status of Advanced Error Reporting, or a capability that Table 12-1 does not list. -/
inductive ConfigItem
  | ids | bar0 | bar2 | command | power | msix | deviceCap | deviceControl | sriov | aer | absent
deriving DecidableEq, Repr

/-- A configuration request (R382): a read, or a write of the settings that the module's state holds (R351, R353, R360); an
entry of the MSI-X table is written through it too. -/
inductive ConfigAccess
  | read (item : ConfigItem)
  | busMaster (on : Bool)
  | numVfs (n : Fin 17)
  | bar2Size (log2 : Fin 64)
  | power (d3 : Bool)
  | msix (on mask : Bool)
  | vector (n addr data : Nat) (masked : Bool)
  | deviceControl (payload readReq : Fin 8)
  | aerClear (v : BitVec 32)
deriving DecidableEq, Repr

/-- The commands of the module: one constructor for each row of spec/opcode_table.json, in the table's order. A last operand
with a default says what happens beside the command when nothing more is said: no error and no access is met, a record arrives,
the work is done whole. -/
inductive Instr
  -- the engines' commands (02 to 06)
  | nop (o : Origin)
  | strokePass (o : Origin) (blk : Fin 256) (b : Body) (events : List PassEvent)
  | accModeWaitProceed (blk : Fin 256)
  | accModeTimeout (blk : Fin 256)
  | readout (o : Origin) (blk : Fin 256) (b : Body) (events : List PassEvent)
  | quantise (o : Origin) (blk : Fin 256) (b : Body)
  | widenEventNotice (p : Fin 16)
  | stormNotice (q : Fin 16)
  | stormWindowRollover (p : Fin 16)
  | fin (o : Origin) (b : Body) (met : List BufferError)
  | finWidenItem (q : Fin 16) (met : List BufferError := [])
  | zeroFill (o : Origin) (b : Body)
  | fillComplete (bank : Fin 256)
  | dmaCopy (o : Origin) (b : Body) (host : HostReply)
  | semSignal (o : Origin) (b : Body)
  | semWait (o : Origin) (b : Body)
  | barrier (o : Origin) (b : Body)
  | waitTimeout (index : Nat)
  | eventHost (o : Origin) (b : Body) (host : HostReply)
  | weighEnough (o : Origin)
  -- the Rein engine and the page walker (08)
  | reinAttend (o : Origin) (b : Body) (met : List BufferError) (parity : List Nat)
  | kvAppend (o : Origin) (b : Body) (met : List BufferError) (parity : List Nat)
  | pageEditSet (o : Origin) (b : Body)
  | pageEditAlloc (o : Origin) (b : Body)
  | pageEditRelease (o : Origin) (b : Body)
  | pageEditShare (o : Origin) (b : Body)
  | pageEditMove (o : Origin) (b : Body)
  | walkStart (p : Fin 16) (region : Fin 4) (tag : Nat)
  | walkEnd (p : Fin 16) (walk : Nat)
  | retireQueueAdvance (p : Fin 16) (tierB : Bool)
  -- the Skive engine (10)
  | skvCompress (o : Origin) (b : Body) (met : List BufferError := [])
  | skvDecode (o : Origin) (b : Body) (met : List BufferError := [])
  | skvStage (o : Origin) (b : Body) (met : List BufferError := [])
  | slotUnitWrite (p : Fin 16) (region : Fin 4) (channel : Fin 4) (unit : Nat) (bytes : List Byte)
    (met : List BufferError := [])
  | slotUnitRead (p : Fin 16) (region : Fin 4) (channel : Fin 4) (unit : Nat) (met : List BufferError := [])
  -- the Start list (09)
  | serveSubmit (o : Origin) (b : Body) (descriptor : HostReply)
  | serveCancel (o : Origin) (b : Body) (met : Ecc := .clean)
  | servePause (o : Origin) (b : Body) (met : Ecc := .clean)
  | serveResume (o : Origin) (b : Body) (met : Ecc := .clean)
  | serveEdit (o : Origin) (b : Body) (met : Ecc := .clean)
  | serveEditComplete (p : Fin 16) (handle : Nat)
  | serveAccount (o : Origin) (b : Body)
  | serveQuery (o : Origin) (b : Body) (met : Ecc := .clean)
  | serveSample (o : Origin) (blk : Fin 256) (b : Body)
  | catchStep (p : Fin 16)
  | stepFinish (p : Fin 16)
  | accountWindowRollover (p : Fin 16) (account : Nat)
  | moveDue (p : Fin 16) (handle : Nat)
  | boathouseMoveComplete (p : Fin 16) (handle : Nat)
  | boathouseFetchComplete (p : Fin 16) (handle : Nat)
  | ttlExpiry (p : Fin 16) (handle : Nat)
  -- memory-side arithmetic (11) and Serrun (14)
  | memUpdate (o : Origin) (b : Body)
  | memFetch (o : Origin) (b : Body)
  | srnWrite (o : Origin) (b : Body)
  | srnRead (o : Origin) (b : Body)
  | srnUpdate (o : Origin) (b : Body)
  | srnAllreduce (o : Origin) (b : Body)
  | srnSignal (o : Origin) (b : Body)
  | srnPacketArrival (port : Fin 5) (pkt : Packet)
  | srnPacketForward (port : Fin 5) (pkt : Packet)
  | srnPacketDiscard (port : Fin 5) (pkt : Packet)
  | srnRefusalArrival (xfer : Nat) (reason : RefusalReason)
  | srnAckArrival (xfer : Nat) (data : Payload)
  | srnAckTimeout (xfer : Nat)
  | srnCollTimeout (xfer : Nat)
  | srnFrameCrcFail (port : Fin 5) (group : Fin 4)
  | srnRetrainComplete (port : Fin 5)
  | srnTrainingComplete (port : Fin 5)
  | crewCardReceived (port : Fin 5) (card : BitVec 512)
  | srnRetrain (port : Fin 5)
  | cableInsert (port : Fin 5) (lanes : Nat)
  | cableRemove (port : Fin 5)
  | twinRoleWrite (p : Fin 16) (value : Word)
  | twinRetireFree (p : Fin 16)
  | roleNoticeReceived (tag : BitVec 16) (role : Fin 4)
  | mirrorWriteArrival (tag : BitVec 16) (epoch : BitVec 16) (xfer : Nat) (w : Mirror)
  | twinLinkLoss
  | place (m : Placement) (via : Endpoint := .sideband)
  -- queues and scheduling (06, 07)
  | commandFetch (p : Fin 16) (n : Fin 64) (host : HostReply)
  | preemptPointReached (q : Fin 16)
  | spillComplete (q : Fin 16)
  | resumeStart (q : Fin 16)
  | restoreComplete (q : Fin 16)
  | engineDispatch (e : Engine)
  | commandRetire (o : Origin) (index : Nat)
  | bankGrant (bank : Fin 256) (waiting : List BankAccess) (met : Ecc)
  | bankScrubRead (bank : Fin 256) (met : Ecc)
  | sqDoorbell (via : Via) (p : Fin 16) (n : Fin 64) (v : Word)
  | queueEnable (via : Via) (p : Fin 16) (n : Fin 64)
  | queueResume (via : Via) (p : Fin 16) (n : Fin 64)
  | queueReset (via : Via) (p : Fin 16) (n : Fin 64) (byEnable : Bool)
  | sqCqHeadWrite (via : Via) (p : Fin 16) (n : Fin 64) (v : Word)
  | sqHostSignal (via : Via) (p : Fin 16) (n : Fin 64) (v : Word)
  | zeroFillGo (bank : Fin 256)
  | pwModelLoad (region : Fin 4) (index : Nat)
  | pwFreeWrite (region : Fin 4) (tierB : Bool) (v : Word)
  | skvCtxLoad (region : Fin 4) (p : Fin 16)
  -- external memory (11)
  | hbmRangeWrite (stack : Fin 16) (p : Fin 16) (r : Fin 4) (v : Word)
  | tbSliceWrite (v : Word)
  | girthCfgWrite (unit : Fin 17) (p : Fin 16) (v : Word)
  | girthRefill
  | retireAccept (stack : Fin 16)
  | retireCopyStart (stack : Fin 16)
  | retireCopyComplete (stack : Fin 16) (granules : Nat := 12189696)
  | patrolScrubRead (unit : Fin 17) (met : Ecc)
  | tbSelfRefreshEntry
  | tierInitComplete (tierB : Bool)
  | releaseScrubComplete (p : Fin 16) (step : ScrubStep := .rest)
  -- hosts and partitions (12)
  | create (p : Fin 16)
  | partitionCreated (p : Fin 16)
  | partitionReset (via : Via) (p : Fin 16)
  | release (p : Fin 16)
  | reclaim (via : Via) (p : Fin 16)
  | teardown (p : Fin 16)
  | holdExpiry (p : Fin 16)
  | functionLevelReset (port : Fin 2) (fn : Fin 17) (cause : FlrCause)
  | perstAssert (port : Fin 2) (hot : Bool)
  | perstDeassert (port : Fin 2) (clock : Bool := true)
  | surpriseLinkLoss (port : Fin 2)
  | linkUp (port : Fin 2) (speed : Fin 8) (width : Fin 16) (flit : Bool)
  | hostCompletionTimeout (o : Origin)
  | configRequest (port : Fin 2) (fn : Fin 17) (a : ConfigAccess)
  | bar2Read (port : Fin 2) (fn : Fin 17) (offset len : Nat)
  | bar2Write (port : Fin 2) (fn : Fin 17) (offset : Nat) (bytes : List Byte)
  | spadWindowRead (port : Fin 2) (fn : Fin 17) (offset len : Nat)
  | spadWindowWrite (port : Fin 2) (fn : Fin 17) (offset : Nat) (bytes : List Byte)
  | atomicOpRequest (port : Fin 2) (fn : Fin 17)
  -- security (13)
  | ideIntegrityFail (port : Fin 2) (fn : Fin 17)
  | ideKm (port : Fin 2) (fn : Fin 17) (session : Nat)
  | spdmRequest (r : Responder) (q : SpdmRequest)
  | secSvnCommit
  | openOperator
  | closeOperator
  | nonceNew
  | token (host : HostReply) (part : Processing := .whole)
  | supplement (host : HostReply) (part : Processing := .whole)
  | debugRead (part : Processing := .whole)
  | bootChain
  -- faults (15)
  | faultRecordArrival (source : Page) (how : Arrival := .arrived)
  | faultPulseEnd
  | graceExpiry (seq : Word)
  | fcAck (seq : Word)
  | fenceRelease (blk : Fin 256)
  | fenceTestComplete (pass : Bool)
  | d2dCrcRetry (region : Fin 4) (group : Fin 8)
  | d2dRetrainComplete (region : Fin 4) (ok : Bool)
  | coxWatchdog
  -- power (16)
  | pwrEnAssert
  | pwrEnDeassert
  | inputGood (mgmtSel : Bool) (sbAddr : Fin 8)
  | hotswapTrip
  | inputRangeExcursion (high : Bool)
  | thermalSample (blk : Fin 256) (tempC : Byte)
  | pmThermalTrip
  | pmRailTrip
  | crystalStable
  | pmCrystalFail
  | blockClockGate (blk : Fin 256)
  | blockRetainTimeout (blk : Fin 256)
  | blockOffTimeout (blk : Fin 256) (met : Bool := false)
  | blockWakeComplete (blk : Fin 256)
  | bankPowerUp (bank : Fin 256)
  | bankIdleReturn (bank : Fin 256) (met : Bool := false)
  | regionSleep (region : Fin 4)
  | regionWakeComplete (region : Fin 4)
  | standby
  | standbyEntryComplete
  | wake (via : Endpoint := .sideband)
  | alarmWake
  | wakeRestoreComplete
  | memoryTrainingComplete
  | telemetrySample (r : Readings)
  -- the management bus (18)
  | mgmtOverride (value : Option (Fin 2)) (via : Endpoint := .sideband)
  | mctpStandby (via : Endpoint := .sideband)
  | mctpToken (offset : Nat) (bytes : List Byte) (last : Bool) (part : Processing := .whole)
      (via : Endpoint := .sideband)
  | faultRead (seq : Word) (via : Endpoint := .sideband)
  | telemetryRead (via : Endpoint := .sideband)
  | status (via : Endpoint := .sideband)
  | mctpUnsupportedCmd (code : Byte) (via : Endpoint := .sideband)
  | setEndpointId (pcie : Bool) (eid : Byte)
  | i3cDynamicAddress (addr : BitVec 7)
  | rstdaa
  -- page registers (17) and the rest
  | slEnableWrite (page : Page) (on : Bool)
  | pageQuiesce (page : Page) (v : Word)
  | pageEnableWrite (page : Page) (v : Word)
  | localReset (page : Page) (v : Word)
  | irqStatClear (page : Page) (err : Bool) (v : Word)
  | irqSet (page : Page) (v : Word)
  | interruptMaskWrite (page : Page) (err : Bool) (v : Word)
  | errInject (page : Page) (v : Word)
  | countClear (page : Page) (v : Word)
  | latchingLoRead (via : Via) (offset : Nat)
  | registerWrite (via : Via) (offset : Nat) (v : Word) (be : BitVec 4)
  | srnSignalLoss (port : Fin 5)
  | srnSignalDetect (port : Fin 5)
  | functionReadinessStatus (port : Fin 2) (fn : Fin 17)
  | debugPortUnlock
  | jtagAccess (a : Jtag)
deriving DecidableEq, Repr

end Sys2Proof
end

