-- ==== Sys2Proof/Decode.lean ====
section
/-!
DEFINITION. Decoding: the rows of spec/opcode_table.json give no bits, since they are commands and events of a block, so no word
spells one. (A queue's 64-byte commands are read field by field where their meanings stand.)
-/
namespace Sys2Proof

/-- The command that a word of `nbits` bits spells by the table's bits: none, since no row gives bits. -/
def decodeTableWord (_nbits _w : Nat) : Option Instr := none

end Sys2Proof
end

