-- ==== Sys2Proof/Machine/Tables.lean ====
section
/-!
DEFINITION. Reading and writing sparse tables and key sets in their canonical form (keys strictly rising).
-/
namespace Sys2Proof.Machine

/-- The entry under key `k`. -/
def tget {α : Type} : Table α → Nat → Option α
  | [], _ => none
  | (i, a) :: m, k => if i = k then some a else tget m k

/-- The entry under key `k`, or `d` where none is listed. -/
def tgetD {α : Type} (m : Table α) (k : Nat) (d : α) : α :=
  match tget m k with
  | some a => a
  | none => d

/-- Enter `a` under key `k`, in order. -/
def tset {α : Type} : Table α → Nat → α → Table α
  | [], k, a => [(k, a)]
  | (i, b) :: m, k, a =>
    if k < i then (k, a) :: (i, b) :: m
    else if k = i then (k, a) :: m
    else (i, b) :: tset m k a

/-- Remove the entry under key `k`. -/
def tdel {α : Type} : Table α → Nat → Table α
  | [], _ => []
  | (i, b) :: m, k => if i = k then m else (i, b) :: tdel m k

/-- Keep the entries whose key satisfies `p`. -/
def tkeep {α : Type} (m : Table α) (p : Nat → Bool) : Table α := m.filter (fun e => p e.1)

/-- Apply `f` to every entry. -/
def tmap {α : Type} (m : Table α) (f : Nat → α → α) : Table α := m.map (fun e => (e.1, f e.1 e.2))

/-- Apply `f` to the entry under `k`, or to `d` where none is listed, and enter the result. -/
def tmod {α : Type} (m : Table α) (k : Nat) (d : α) (f : α → α) : Table α := tset m k (f (tgetD m k d))

/-- Is the table in canonical form? -/
def tsorted {α : Type} : Table α → Bool
  | [] => true
  | [_] => true
  | (i, _) :: (j, b) :: m => decide (i < j) && tsorted ((j, b) :: m)

/-- Add `k` to a key set. -/
def kadd : Keys → Nat → Keys
  | [], k => [k]
  | i :: m, k => if k < i then k :: i :: m else if k = i then i :: m else i :: kadd m k

/-- Remove `k` from a key set. -/
def kdel : Keys → Nat → Keys
  | [], _ => []
  | i :: m, k => if i = k then m else i :: kdel m k

/-- Is `k` in the key set? -/
def kmem (m : Keys) (k : Nat) : Bool := m.any (fun i => i == k)

/-- Is the key set in canonical form? -/
def ksorted : Keys → Bool
  | [] => true
  | [_] => true
  | i :: j :: m => decide (i < j) && ksorted (j :: m)

/-- Ceiling of `a / b`; 0 where `b` is 0. -/
def cdiv (a b : Nat) : Nat := (a + b - 1) / b

/-- Bits [hi:lo] of `w` (R9). -/
def bits (w hi lo : Nat) : Nat := w / 2 ^ lo % 2 ^ (hi + 1 - lo)

/-- Bit `n` of `w`. -/
def bit (w n : Nat) : Bool := w / 2 ^ n % 2 == 1

/-- `a + b`, stopping at `top`. -/
def satAdd (a b top : Nat) : Nat := min (a + b) top

/-- The first `n` numbers from `a`. -/
def span (a n : Nat) : List Nat := (List.range n).map (fun i => a + i)

/-- Little-endian value of a byte list (R9). -/
def ofBytes : List Byte → Nat
  | [] => 0
  | b :: l => b.toNat + 256 * ofBytes l

/-- The `n` little-endian bytes of `v` (R9). -/
def toBytes : Nat → Nat → List Byte
  | 0, _ => []
  | n + 1, v => BitVec.ofNat 8 v :: toBytes n (v / 256)

/-- Read `w`-bit two's complement. -/
def signed (w v : Nat) : Int := if v % 2 ^ w < 2 ^ (w - 1) then (v % 2 ^ w : Nat) else (v % 2 ^ w : Nat) - (2 ^ w : Nat)

/-- Two's complement of an integer in `w` bits. -/
def unsigned (w : Nat) (v : Int) : Nat := (v % (2 ^ w : Nat)).toNat

end Sys2Proof.Machine
end

