-- ==== Sys2Proof/Machine/Keccak.lean ====
section
/-!
DEFINITION. Keccak of FIPS 202: the permutation Keccak-p on 25 lanes, the noise source of R103, and SHAKE256, whose
digests the measurements and identifiers are (R377 to R392).
-/
namespace Sys2Proof.Machine

/-- Round constants of 64-bit lanes; a narrower lane takes the low bits. -/
def roundConstants : List Nat :=
  [0x0000000000000001, 0x0000000000008082, 0x800000000000808A, 0x8000000080008000, 0x000000000000808B, 0x0000000080000001,
   0x8000000080008081, 0x8000000000008009, 0x000000000000008A, 0x0000000000000088, 0x0000000080008009, 0x000000008000000A]
  ++ [0x000000008000808B, 0x800000000000008B, 0x8000000000008089, 0x8000000000008003, 0x8000000000008002,
   0x8000000000000080, 0x000000000000800A, 0x800000008000000A, 0x8000000080008081, 0x8000000000008080, 0x0000000080000001,
   0x8000000080008008]

/-- Rotation offsets, lane x + 5y. -/
def rotations : List Nat :=
  [0, 1, 62, 28, 27, 36, 44, 6, 55, 20, 3, 10, 43, 25, 39, 41, 45, 15, 21, 8, 18, 2, 61, 56, 14]

/-- Rotate a `w`-bit lane left. -/
def rotl (w n v : Nat) : Nat :=
  let k := n % w
  (v * 2 ^ k) % 2 ^ w + v / 2 ^ (w - k) % 2 ^ k

/-- Lane (x, y), both modulo 5. -/
def lane (a : List Nat) (x y : Nat) : Nat := a.getD (x % 5 + 5 * (y % 5)) 0

/-- One round on lanes of `w` bits with round constant `rc`. -/
def keccakRound (w : Nat) (a : List Nat) (rc : Nat) : List Nat :=
  let c := (List.range 5).map (fun x => lane a x 0 ^^^ lane a x 1 ^^^ lane a x 2 ^^^ lane a x 3 ^^^ lane a x 4)
  let d := (List.range 5).map (fun x => c.getD ((x + 4) % 5) 0 ^^^ rotl w 1 (c.getD ((x + 1) % 5) 0))
  let t := (List.range 25).map (fun i => a.getD i 0 ^^^ d.getD (i % 5) 0)
  let b := (List.range 25).map (fun i =>
    let x := i % 5
    let y := i / 5
    let src := (x + 3 * y) % 5 + 5 * x
    rotl w (rotations.getD src 0) (t.getD src 0))
  let e := (List.range 25).map (fun i =>
    let x := i % 5
    let y := i / 5
    lane b x y ^^^ ((2 ^ w - 1 - lane b (x + 1) y) &&& lane b (x + 2) y))
  e.set 0 (e.headD 0 ^^^ rc % 2 ^ w)

/-- Keccak-p with the given round constants. -/
def keccakP (w : Nat) (rcs : List Nat) (a : List Nat) : List Nat := rcs.foldl (keccakRound w) a

/-- A 512-bit block of a noise stream (R103): lanes 8 to 23 of Keccak-p[800,12]. -/
def noiseBlock (key counter : Nat) : List Nat :=
  let a := [key % 2 ^ 32, key / 2 ^ 32 % 2 ^ 32, counter % 2 ^ 32, counter / 2 ^ 32 % 2 ^ 32, 0x4E4F4953]
    ++ List.replicate 20 0
  ((keccakP 32 ((roundConstants.drop 10).take 12) a).drop 8).take 16

/-- Value `n` of the stream `key` with counter base `c`: 16 bits (R103). -/
def noiseValue (key c n : Nat) : Nat :=
  let l := noiseBlock key (c + n / 32)
  let i := n % 32
  l.getD (i / 2) 0 / 2 ^ (16 * (i % 2)) % 2 ^ 16

/-- Lanes of a 136-byte block of SHAKE256. -/
def blockLanes (l : List Byte) : List Nat := (List.range 17).map (fun i => ofBytes ((l.drop (8 * i)).take 8)) ++ List.replicate 8 0

/-- Absorb blocks of 136 bytes; `n` bounds their number. -/
def absorb : Nat → List Nat → List Byte → List Nat
  | 0, a, _ => a
  | n + 1, a, l =>
    if l.isEmpty then a
    else absorb n (keccakP 64 roundConstants (List.zipWith (fun x y => x ^^^ y) a (blockLanes l))) (l.drop 136)

/-- A message padded to blocks of 136 bytes, with the domain byte `d`: 0x1F for SHAKE256, 0x06 for SHA3-256. -/
def spongePad (d : Byte) (m : List Byte) : List Byte :=
  let n := 136 - m.length % 136
  if n = 1 then m ++ [d ||| 0x80] else m ++ [d] ++ List.replicate (n - 2) 0 ++ [0x80]

/-- The first `n` lanes, at most 17, that the sponge gives of a padded message, as a little-endian number. -/
def spongeLanes (n : Nat) (p : List Byte) : Nat :=
  let a := absorb (p.length / 136) (List.replicate 25 0) p
  ((a.take n).reverse).foldl (fun x y => x * 2 ^ 64 + y) 0

/-- The first 256 bits of SHAKE256 of a message. -/
def shake256 (m : List Byte) : Nat := spongeLanes 4 (spongePad 0x1F m)

/-- SHA3-256 of a message (R392). -/
def sha3 (m : List Byte) : Nat := spongeLanes 4 (spongePad 0x06 m)

/-- The first 384 bits of SHAKE256 of a message. -/
def shake384 (m : List Byte) : Nat := spongeLanes 6 (spongePad 0x1F m)

end Sys2Proof.Machine
end

