-- ==== Sys2Proof/Config.lean ====
section
/-!
DEFINITION. The values the spec leaves open, as constants without a body: nothing in Lean can evaluate one, so a
statement about a free value holds for every value of it. Each is named in the assumption log.
-/
namespace Sys2Proof.Config

/-- What byte `address` of memory reads as when its contents are undefined since draw `draw` (R155, R163, R421, R425). -/
opaque freeByte (draw address : Nat) : Byte

/-- A 48-bit accumulator word whose contents are undefined since draw `draw` (R131). -/
opaque freeAcc (draw word : Nat) : BitVec 48

/-- A free number of draw `draw`, where the spec states that a value results and not which. -/
opaque freeNat (draw : Nat) : Nat

/-- What a quotient by 0 of this dividend is, where a rule divides by a field that software may set to 0 (R291, R292). -/
opaque divByZero (dividend : Nat) : Nat

/-- A nonce of the hub's entropy source (R387). -/
opaque nonce (draw : Nat) : BitVec 128

/-- Does the SLH-DSA-SHAKE-256s signature verify (R379, R386)? The algorithm is FIPS 205's, outside the spec's text. -/
opaque slhVerify (publicKey message signature : List Byte) : Bool

/-- PK.root of an SLH-DSA-SHAKE-128f key pair from SK.seed and PK.seed (R389): FIPS 205's, outside the spec's text. -/
opaque slhRoot (skSeed pkSeed : BitVec 128) : BitVec 128

/-- A certificate of the public key `subject`, signed with the device's key pair of these seeds and root (R389, R391). -/
opaque certificate (skSeed skPrf pkSeed pkRoot subject : Nat) : List Byte

/-- The supplement as the Cox's instruction memory retains it in STANDBY, after words that the debug port wrote (R383). -/
opaque retained (supplement : List Byte) (written : List (Nat × Nat)) : List Byte

/-- The measurement M0: the digest of the ROM's contents, which the spec does not give (R382). -/
opaque romDigest : BitVec 256

/-- The bytes whose digest is M3 (R382): the fuse contents other than the unique secret, in an order the spec does not give. -/
opaque fuseBytes (digests : List (Option Nat)) (revoked minSvn lifecycle uid : Nat) : List Byte

/-- What a word of the Cox reads as over the debug port, where nothing has written it there (R399). -/
opaque coxWord (address : Nat) : Word

/-- The Murak firmware's version of ROM and supplement together (R496, Table 17-11). -/
opaque firmwareVersion (supplement : List Byte) : Word

/-- The code lengths that the Skive engine chooses for classes that occur so often (R301). -/
opaque skvLengths (counts : List Nat) : List Nat

/-- The byte mapping that the Skive engine chooses for a slot unit (Table 10-4). -/
opaque slotMap (unit : List Byte) : Bool

/-- The set, of 64, of a look-aside buffer in which a translation lies (R247). -/
opaque labSet (part seqId listGen layer block : Nat) : Fin 64

/-- The silicon stepping (Table 17-10). -/
opaque stepping : Byte

end Sys2Proof.Config
end

