-- ==== Sys2Proof/Machine/State.lean ====
section
/-!
DEFINITION. The state of the module: everything the spec gives it, as plain data. Registers are held as one sparse
table of fields (an unlisted field holds its reset value); what a register does not show has a field of its own here.
-/
namespace Sys2Proof.Machine

/-- Access codes of Table 00-3. -/
inductive Acc
  | ro | rw | w1c | w1s | wo | rwl
deriving DecidableEq, Repr

/-- A register field (R9, R10): offset in its page, bits [hi:lo], access code, reset value. -/
structure Field where
  off : Nat
  hi : Nat
  lo : Nat
  acc : Acc
  reset : Nat
deriving DecidableEq, Repr

/-- What memory that nothing has written reads as: zero, or an undefined value drawn at a power-up (R131, R163). -/
inductive Fill
  | zero
  | free (draw : Nat)
deriving DecidableEq, Repr

/-- Fault classes (Table 15-1). -/
inductive Cls
  | corrected | deferred | job | core | partition | fatal
deriving DecidableEq, Repr

/-- An error record as a level sends it (R434), before the collector numbers it. -/
structure Note where
  source : Nat
  cls : Cls
  code : Nat
  part : Option Nat
  job : Option (Nat × Nat)
  addr : Option (Nat × Nat)
  region : Nat
  detail : Nat
  stamp : Nat
deriving DecidableEq, Repr

/-- A record in the collector's log (R434, R436). -/
structure Logged where
  seq : Nat
  note : Note
  count : Nat
  last : Nat
  refSeq : Nat
deriving DecidableEq, Repr

/-- A pending record and its grace interval (R443, R444): its length and its end, the next step of Table 15-5, and what
the record concerns. -/
structure Pending where
  seq : Nat
  grace : Nat
  ends : Nat
  step : Nat
  part : Option Nat
  job : Option (Nat × Nat)
deriving DecidableEq, Repr

/-- A recurrence window (R437): its opening, its corrected count, its uncorrectable count. -/
structure Window where
  opened : Nat
  ce : Nat
  ue : Nat
deriving DecidableEq, Repr

/-- The requests that the responders support (R392). -/
inductive SpdmKind
  | getVersion | getCapabilities | negotiateAlgorithms | getDigests | getCertificate | challenge | getMeasurements
  | keyExchange | finish | heartbeat | keyUpdate | endSession | chunkSend | chunkGet | vendorDefined
deriving DecidableEq, Repr

/-- The algorithms of R392. -/
inductive SpdmAlgorithm
  | slhDsaShake128f | sha3of256 | mlKem768 | aes256Gcm
deriving DecidableEq, Repr

/-- The Golush element in the signed OpaqueData (R394). -/
structure GolushElement where
  lifecycle : Nat
  debug : Nat
  operatorPermitted : Nat
deriving DecidableEq, Repr

/-- A public key of SLH-DSA-SHAKE-128f (R389). -/
structure PublicKey where
  seed : Nat
  root : Nat
deriving DecidableEq, Repr

/-- A response (R392 to R394). A signed one names the public key that its signature verifies under, and carries the Golush
element; of the protocol's other bytes the spec states none. -/
inductive SpdmAnswer
  | version (major minor : Nat)
  | capabilities (requests : List SpdmKind)
  | algorithms (signature transcript exchange secured : SpdmAlgorithm)
  | digests (slot0 : Nat)
  | certificate (slot0 : List Byte)
  | challengeAuth (slot0 : Nat) (element : GolushElement) (key : PublicKey)
  | measurements (blocks : List (Nat × List Byte)) (element : GolushElement) (key : PublicKey)
  | keyExchange (session : Nat)
  | done
deriving DecidableEq, Repr

/-- A message that leaves the module. One over MCTP names its endpoint and that endpoint's EID, null (0) until it has one (R510);
a DOE mailbox has none, and shows 0. -/
inductive Out
  | msix (port fn vector : Nat)
  | hostWrite (port fn addr : Nat) (bytes : List Byte)
  | hostRead (port fn addr len : Nat)
  | completion (port fn : Nat) (bytes : List Byte)
  | poisoned (port fn len : Nat)
  | configDone (port fn value : Nat)
  | configRetry (port fn : Nat)
  | unsupported (port fn : Nat)
  | readiness (port fn : Nat)
  | internalError (port fn : Nat)
  | faultPin (asserted : Bool)
  | mctp (via : Endpoint) (eid code : Nat) (bytes : List Byte)
  | mctpFatal (via : Endpoint) (eid seq : Nat)
  | mctpNotReady (via : Endpoint) (eid : Nat)
  | mctpUnsupported (via : Endpoint) (eid : Nat)
  | spdm (r : Responder) (eid : Nat) (answer : SpdmAnswer)
  | spdmInvalidSession (r : Responder) (eid session : Nat)
  | spdmError (r : Responder) (eid : Nat)
  | packet (port : Nat) (p : Packet)
  | ack (port xfer : Nat) (data : Payload)
  | refusal (port xfer : Nat) (reason : RefusalReason)
  | card (port : Nat) (words : List Nat)
  | roleNotice (tag role : Nat)
  | mirror (tag epoch xfer : Nat) (w : Mirror)
  | replay (port group : Nat)
  | cableRead (port : Nat)
  | jtag (value : Nat)
  | boundaryScan
  | register (value : Nat)
deriving DecidableEq, Repr

/-- Reasons the module stops. None: the spec has no event that stops the module without an effect that it states
(a job fault, FATAL and OFF are states that it goes on in), so no command raises it; the type is empty but for this
constructor, kept so that a stop would have a name. Safe: nothing reaches it. -/
inductive Fault
  /-- Raised by no command. Safe. -/
  | none
deriving DecidableEq, Repr

/-- Reasons the model refuses a command. -/
inductive Refusal
  /-- Raised by the dispatch for a command that has no meaning yet. Safe: nothing is claimed about it. -/
  | notModelled (mnemonic : String)
deriving DecidableEq, Repr

/-! ### External memory (11) -/

/-- External memory (R318 to R346): bytes by device address (an unlisted byte reads zero), poisoned lines, and errors
stored in lines that no read has yet met (`true` where uncorrectable). -/
structure Memory where
  bytes : List Host.Cell
  poison : Keys
  latent : Table Bool
deriving DecidableEq, Repr

/-- A tier B slice entry (R322). -/
structure Slice where
  valid : Bool
  ro : Bool
  retired : Bool
  owner : Nat
deriving DecidableEq, Repr

/-- A Girth regulator (R327, R328): its credit in bytes, the bytes for which a command waits on credit alone, the bytes
granted to it meanwhile, whether it already waited at the last refill, and the granted bytes and stalled hub cycles below one
unit of its counters. -/
structure Girth where
  credit : Int
  want : Nat
  paid : Nat
  held : Bool
  bytesRest : Nat
  stallRest : Nat
deriving DecidableEq, Repr

/-- A release scrub in progress (R347): the partition, what follows it (true: RELEASING), and what is still to be zeroed: by
stack, runs of device addresses and lengths, and the slices of tier B. -/
structure Scrub where
  part : Nat
  release : Bool
  perStack : Table (List (Nat × Nat))
  slices : List Nat
deriving DecidableEq, Repr

/-! ### Scratchpads (05) -/

/-- A scratchpad bank: its bytes by offset, the ranges zero-filled since its last power-up, what every other byte
reads as (R155, R156, R163), its poisoned 64-bit words, and the errors stored in words that no read has yet met. -/
structure Bank where
  cells : List Host.Cell
  zeroed : List (Nat × Nat)
  fill : Fill
  poison : Keys
  latent : Table Bool
deriving DecidableEq, Repr

/-- A fill in progress in a bank (R156, R187): the range, whether another write has reached the bank since its start
(R158), and the command it serves (none: SPB_ZF_CTRL). -/
structure BankFill where
  bank : Nat
  first : Nat
  last : Nat
  touched : Bool
  origin : Option (Origin × Body)
deriving DecidableEq, Repr

/-! ### Blocks (02, 03, 04) -/

/-- A decoded tile in a mask buffer (R86, R88): the descriptor's address and its first four words, its image, the delta
entries that took effect (position, trit code), whether a word of it was read poisoned, and the rows of a gather image
that were (R97). -/
structure Tile where
  addr : Nat
  w0 : Nat
  w4 : Nat
  w8 : Nat
  wC : Nat
  image : List Byte
  delta : Table Nat
  poisoned : Bool
  badRows : Keys
deriving DecidableEq, Repr

/-- A pass that waits on a live set of the other mode (R132, R133): the sets that it touches, and whether they stopped
being live in the other mode before its timeout. -/
structure AccWait where
  origin : Origin
  body : Body
  events : List PassEvent
  since : Nat
  sets : List Nat
  freed : Bool
deriving DecidableEq, Repr

/-- A block: its accumulator words by column × 256 + word (an unlisted word is undefined since draw `ground`, or since the
later draw at which its set was lost, R131), its poisoned words, the job that holds each live set (partition, queue, tag; BLK_ACC_STATE shows which are live and their
mode), its resident tile (R88), and the pass that holds its Stroke issue (R132). -/
structure Block where
  words : Table (BitVec 48)
  ground : Fill
  lostAt : Table Nat
  bad : Keys
  holders : Table (Nat × Nat × Nat)
  resident : Option Tile
  wait : Option AccWait
deriving DecidableEq, Repr

/-- BF16 rung work for a Fin unit (R128): the pass that it serves, its block, the token's slot, the widen entry's words,
and the tile. -/
structure FinItem where
  origin : Origin
  body : Body
  blk : Nat
  slot : Nat
  entry : Nat × Nat × Nat × Nat
  tile : Tile
deriving DecidableEq, Repr

/-- A running claim of a noise stream (R104): its partition, key, and first and last counter; the command that made it. -/
structure Claim where
  part : Nat
  key : Nat
  first : Nat
  last : Nat
  origin : Origin
  body : Body
deriving DecidableEq, Repr

/-- Precision (04): BF16 rung work in order of arrival, stream claims, the quad that owns each widen list (by region ×
2^32 + address, R126), widen events on their way to each lead quad front, storm notices on their way, the quads that
have received one, and the start of each partition's storm window (R129, R130). -/
structure Precision where
  items : List FinItem
  claims : List Claim
  widenOwner : Table Nat
  widenSent : Table Nat
  stormSent : Keys
  stormed : Keys
  stormAt : Table Nat
deriving DecidableEq, Repr

/-! ### Jobs, queues and synchronisation (06, 07) -/

/-- How far a command's copy on one engine has come. -/
inductive Fate
  | queued | issued | done
deriving DecidableEq, Repr

/-- A command's copy on one engine (R180, R188), and the accumulator sets by which a replacement block shifts its slots,
modulo 8 (R189). -/
structure Copy where
  engine : Engine
  fate : Fate
  shift : Nat
deriving DecidableEq, Repr

/-- A fetched command of a job: its place in the job, its place among all fetched commands, its 64 bytes, its copies, whether it
has retired, whether it was discarded, the generation that its arrival counts in, where its wait was withdrawn after it
(R211), and its place among the dispatched commands, once it has been dispatched (R210, R211). -/
structure Cmd where
  index : Nat
  seq : Nat
  raw : Command
  copies : List Copy
  retired : Bool
  dropped : Bool
  arrived : Option Nat
  sent : Option Nat
deriving DecidableEq, Repr

/-- A live job (R178): fetched, without its completion record. `tack` is the TACK word of its first command; `head`
is the consumer index after END; `fault` its first JOB code and address; `mapped` the replacements
of R189 (fenced block, replacement, shift in sets modulo 8); `outcome` the status and INFO of a serving command (R264);
`endedAt` the local time at which a step job's last command ended (R273); `abort` the status of a queue reset that has
overtaken it (R199). -/
structure Job where
  id : Nat
  part : Nat
  queue : Nat
  tag : Nat
  quad : Nat
  urgent : Bool
  group : Nat
  step : Bool
  cmds : List Cmd
  ended : Bool
  irq : Bool
  head : Nat
  tack : Nat
  fault : Option (Nat × Nat)
  poisoned : Bool
  mapped : List (Nat × Nat × Nat)
  outcome : Option (Nat × Nat)
  endedAt : Option Nat
  abort : Option Nat
deriving DecidableEq, Repr

/-- A completion record held back (R175, R369). -/
structure HeldRecord where
  part : Nat
  queue : Nat
  tag : Nat
  status : Nat
  head : Nat
  info : Nat
  irq : Bool
deriving DecidableEq, Repr

/-- A barrier counter (R193). -/
structure Bar where
  count : Nat
  target : Nat
  generation : Nat
deriving DecidableEq, Repr

/-- What a waiting command waits on (R192, R193). -/
inductive WaitOn
  | sem (n thresh : Nat) (consume : Bool)
  | bar (n generation : Nat)
deriving DecidableEq, Repr

/-- A wait that is not yet satisfied, in arrival order (R192, R196). -/
structure Wait where
  origin : Origin
  body : Body
  on : WaitOn
  since : Nat
deriving DecidableEq, Repr

/-- Queues and engines (06, 07): live jobs in order of arrival, records held back, semaphores, barrier counters,
waits, the jobs that hold each engine's contexts with the turn in which each took its own, and the next turn, the engine-cycle
counts of R204 and R208, the groups ready at an engine's last boundary (R206), round-robin positions (R205; a job's as its
turn), WEIGH_ENOUGH commands that are not complete (R197), queues in ERROR that WEIGH_ENOUGH has stopped (64 × partition +
queue), chains (job, fenced block) that wait for room on a replacement (R189), commands (origin, opcode, body) that were
cancelled after their issue and that their engine has not come to (R178, R196, R199), the job whose command an engine is
carrying out (R178), and the place of the next dispatched command. -/
structure Queues where
  jobs : List Job
  nextJob : Nat
  nextSeq : Nat
  held : List HeldRecord
  sems : Table Nat
  bars : Table Bar
  waits : List Wait
  contexts : Table (List (Nat × Nat))
  nextTurn : Nat
  used : Table Nat
  raw : Table Nat
  readyGroups : Table Keys
  lastPart : Table Nat
  lastJob : Table Nat
  stops : List (Origin × Body)
  halted : Keys
  chains : List (Nat × Nat)
  cancelled : List (Origin × Nat × Body)
  hand : Option Nat
  nextSent : Nat
deriving DecidableEq, Repr

/-- A preemption switch of a quad (R209 to R224): the URGENT job, the victims, those held at their preemption point, those
whose tack lists have been read (R214), the ranges that each names (victim, start, length), whether its refusal has been
counted, what of each victim lay behind it when it became one and at each refusal (victim, the commands with PREEMPT whose
points it had passed, commands dispatched; R211, R220), the merged spill set (start, length), the spilled
accumulator sets (block, set, narrow, holder), those of them lost meanwhile (block, set), the slice base it started with, and
its start and resume times. -/
structure Switch where
  urgent : Nat
  victims : List Nat
  atPoint : List Nat
  read : List Nat
  named : List (Nat × Nat × Nat)
  spill : List (Nat × Nat)
  short : Bool
  past : List (Nat × List Nat × Nat)
  sets : List (Nat × Nat × Bool × (Nat × Nat × Nat))
  gone : List (Nat × Nat)
  base : Nat
  started : Nat
  resumed : Nat
deriving DecidableEq, Repr

/-! ### The key-value cache (08) -/

/-- A tier of a KV context (Table 08-1): frames, and the bases of the pool, the summary records, the reference counts, the
free stack and the retire queue. -/
structure Pool where
  frames : Nat
  base : Nat
  summary : Nat
  ref : Nat
  free : Nat
  retire : Nat
deriving DecidableEq, Repr

/-- A KV context (Table 08-1) as a walk read it. -/
structure KvCtx where
  models : Nat
  table : Nat
  a : Pool
  b : Pool
deriving DecidableEq, Repr

/-- A KV layout descriptor that is valid (R60, R61): KV heads, head dimension, key and value widths, positions per page,
layers. -/
structure KvLayout where
  heads : Nat
  dim : Nat
  kw : Nat
  vw : Nat
  pos : Nat
  layers : Nat
deriving DecidableEq, Repr

/-- A live walk (R246): its partition, the region of its walker, its epoch, the models loaded when it started (R231), the
context that it read or the fault that its context gives every command of it (R230), and the command whose walk it is
(none: a serving step). -/
structure Walk where
  id : Nat
  part : Nat
  region : Nat
  epoch : Nat
  models : Table KvLayout
  ctx : Option KvCtx
  fault : Nat × Nat
  cmd : Option Nat
deriving DecidableEq, Repr

/-- A look-aside entry (R247): the walk that filled it, its walker's region, its tag, its value, and whether that is poison
(R72). -/
structure LabEntry where
  walk : Nat
  region : Nat
  part : Nat
  seqId : Nat
  gen : Nat
  layer : Nat
  block : Nat
  value : Nat
  bad : Bool
deriving DecidableEq, Repr

/-- What the allocator walker keeps of a partition (R230, R246, R252, R258, R517): the epoch, the free-stack depths, the
head and tail of each retire queue as counts of entries, the models loaded and rejected, and whether its state is lost. -/
structure KvPart where
  epoch : Nat
  freeA : Nat
  freeB : Nat
  headA : Nat
  headB : Nat
  tailA : Nat
  tailB : Nat
  models : Table KvLayout
  rejected : Keys
  lost : Bool
deriving DecidableEq, Repr

/-- The key-value cache (08): partitions, live walks in the order they started, and the look-aside buffers, the entry used
last at the end. -/
structure Kv where
  parts : Table KvPart
  walks : List Walk
  nextWalk : Nat
  lab : List LabEntry
deriving DecidableEq, Repr

/-- A slot context that a Skive engine has latched (Table 10-5). -/
structure SlotCtx where
  enable : Nat
  tagA : Nat
  tagB : Nat
  spill : Nat
deriving DecidableEq, Repr

/-! ### The Start list (09) -/

/-- An event of a slot (R280): a serving command with its opcode, or a timer. -/
inductive SlotEvent
  | command (op : Nat) (o : Origin) (b : Body)
  | move
  | expiry
deriving DecidableEq, Repr

/-- What DUE times (R288): nothing, the move, or the end of the time to live. -/
inductive Timer
  | off | move | expiry
deriving DecidableEq, Repr

/-- A slot that is not FREE (Table 09-4), with what its image does not show: MAX_NEW as last given, the layout of its model
(R231), the delivery records written (R269), whether the turn's first token is still due, the final status and FAULT (R271),
whether its list pointer is lost (R284), what DUE times, the pending events, the commands that wait for a place among them
(R282), and the command of the SERVE_EDIT in progress. -/
structure Slot where
  gen : Nat
  state : Nat
  inStep : Bool
  editing : Bool
  fetching : Bool
  moving : Bool
  moveFailed : Bool
  hold : Bool
  mirror : Bool
  stepFaults : Nat
  priority : Nat
  model : Nat
  account : Nat
  variant : Nat
  length : Nat
  promptLeft : Nat
  listAddr : Nat
  listGen : Nat
  ttl : Nat
  listBlocks : Nat
  deadline : Nat
  key : Nat
  seed : Nat
  stateTime : Nat
  due : Nat
  promptAddr : Nat
  delivAddr : Nat
  period : Nat
  delivSpace : Nat
  delivLog2 : Nat
  tokens : Nat
  turnLeft : Nat
  temp : Nat
  topP : Nat
  topK : Nat
  stop0 : Nat
  stop1 : Nat
  lastToken : Nat
  reserve : Nat
  maxNew : Nat
  lay : KvLayout
  records : Nat
  first : Bool
  final : Nat
  fault : Nat
  lostList : Bool
  timer : Timer
  pend : List (Nat × SlotEvent)
  later : List (Nat × SlotEvent)
  edit : Option (Origin × Body)
deriving DecidableEq, Repr

/-- An account that the Start list has cached (Table 09-9), with the end of its window now in force (R286). -/
structure Account where
  budget : Nat
  windowUs : Nat
  origin : Nat
  used : Nat
  throttled : Bool
  chargePrompt : Bool
  decline : Bool
  total : Nat
  next : Nat
deriving DecidableEq, Repr

/-- A request in the running step (R275): its slot and generation, its entries, how many are prompt tokens, and whether it
samples. -/
structure Placed where
  slot : Nat
  gen : Nat
  count : Nat
  prompt : Nat
  sample : Bool
deriving DecidableEq, Repr

/-- The running step (R273, R276): its number, its catch stamp, its queue and home quad, the lead quad and the step area with
its MAX_TOKENS, its requests, ENTRIES and SUM_CONTEXT, its walk, its job, and the draws made so far (R279). -/
structure StepRun where
  no : Nat
  catchAt : Nat
  queue : Nat
  quad : Nat
  lead : Nat
  area : Nat
  nt : Nat
  placed : List Placed
  entries : Nat
  sum : Nat
  walk : Nat
  job : Nat
  drawn : List (Nat × Nat)
deriving DecidableEq, Repr

/-- The Start list of a partition (09): slots by region × 16,384 + index, the generations of FREE slots, recent keys by
region with the INFO of their ends, the latest last (R284), cached accounts, the running step, the last step's number, and
the limits MAX_PREFILL and CHUNK in force since the last catch (R295). -/
structure Serve where
  slots : Table Slot
  gens : Table Nat
  recent : Table (List (Nat × Nat))
  accounts : Table Account
  step : Option StepRun
  stepNo : Nat
  prefill : Nat
  chunk : Nat
deriving DecidableEq, Repr

/-! ### Hosts (12) -/

/-- An entry of a function's MSI-X table: the message's address and data, and its mask bit. -/
structure MsixEntry where
  addr : Nat
  data : Nat
  masked : Bool
deriving DecidableEq, Repr

/-- A function's settings (R351 to R353): Bus Master Enable, pending MSI-X vectors, a function-level reset not yet followed by
readiness, the BAR2 size, D3hot, MSI-X Enable and Function Mask, the MSI-X table (an entry not listed is masked), the codes of
Max_Payload_Size and Max_Read_Request_Size, and the uncorrectable status of Advanced Error Reporting. -/
structure Func where
  busMaster : Bool
  pend : Keys
  resetting : Bool
  bar2Log2 : Nat
  d3 : Bool
  msixOn : Bool
  msixMask : Bool
  vectors : Table MsixEntry
  payload : Nat
  readReq : Nat
  aer : Nat
deriving DecidableEq, Repr

/-- Hosts and partitions (12): functions by port × 32 + function, the levels of PERST_N (true: asserted), the clock that each
port has chosen (R504: true a common clock, false SRIS, none no choice yet), the ports in a warm reset, the ends of holds
(R368), and the release scrubs in progress. -/
structure Hosts where
  funcs : Table Func
  perst0 : Bool
  perst1 : Bool
  clock0 : Option Bool
  clock1 : Option Bool
  warm : Keys
  holds : Table Nat
  scrubs : List Scrub
deriving DecidableEq, Repr

/-! ### Security (13) -/

/-- A fused key slot (R380): the digest of its public key, or none, and its revoked bit. -/
structure KeySlot where
  digest : Option Nat
  revoked : Bool
deriving DecidableEq, Repr

/-- The fuses (R377, R380, R389). `lifecycle` is what the fuses say; SEC_LIFECYCLE shows the state in force. -/
structure Fuses where
  slot0 : KeySlot
  slot1 : KeySlot
  slot2 : KeySlot
  slot3 : KeySlot
  minSvn : Nat
  lifecycle : Nat
  uid : Nat
  uds : Nat
deriving DecidableEq, Repr

/-- The SPI NOR flash (Table 13-2, R342, R344, R354): two supplement copies (none: erased), which is preferred, the
retirements, the management-port override and the certificates that Golush made: its root's and the device's, for CLOSED
and for OPERATOR (R391). -/
structure Flash where
  copyA : List Byte
  copyB : List Byte
  preferB : Bool
  channels : Table Nat
  slices : Keys
  override : Option Nat
  rootCert : List Byte
  closedCert : List Byte
  operatorCert : List Byte
deriving DecidableEq, Repr

/-- An SPDM session (R392, R395). -/
structure Session where
  id : Nat
  responder : Responder
  secured : Bool
deriving DecidableEq, Repr

/-- A token or supplement that is being processed (R386): which, its checks' result, its bytes, and whether the management
controller delivered it. -/
structure TokenWork where
  isSupplement : Bool
  code : Nat
  bytes : List Byte
  mctp : Option Endpoint
deriving DecidableEq, Repr

/-- A debug read in progress (R400): its space, region and address. -/
structure DebugRead where
  scratchpad : Bool
  region : Nat
  address : Nat
deriving DecidableEq, Repr

/-- Security (13): fuses, flash, the boot chain's completion, the supplement in the Cox's instruction memory, measurements M0 to M3 as 256-bit numbers, the seeds from
which the identity in force is derived (R389), the nonce's draw time while it is valid, the delivery being processed, the debug read in progress, MCTP token chunks, SPDM
sessions, IDE streams in the Secure state and those that entered Insecure (port × 32 + function), the debug reads
per partition, and what the debug port has written in the Cox. -/
structure Security where
  fuses : Fuses
  flash : Flash
  booted : Bool
  runningB : Option Bool
  image : List Byte
  m0 : Nat
  m1 : Nat
  m2 : Nat
  m3 : Nat
  deviceSeed : Nat
  aliasSeed : Nat
  nonceAt : Option Nat
  processing : Option TokenWork
  reading : Option DebugRead
  chunks : List Byte
  sessions : List Session
  nextSession : Nat
  ideSecure : Keys
  ideInsecure : Keys
  operatorReads : Table Nat
  cox : Table Nat
  scan : Table Nat
deriving DecidableEq, Repr

/-! ### Serrun (14) -/

/-- A Serrun port (R408 to R412): the lanes of the cable in its cage, the partner's signal, the groups dropped, whether a
partner card has come since the link trained, whether the link retrains (R410), and the payload bytes below one unit of
its counters. -/
structure SrnPort where
  cable : Option Nat
  read : Bool
  signal : Bool
  dropped : Keys
  cardSeen : Bool
  retraining : Bool
  txRest : Nat
  rxRest : Nat
deriving DecidableEq, Repr

/-- A collective in progress (R423 to R425): its parameters, and the parts received and sent in each of its four phases. -/
structure Coll where
  id : Nat
  addr : Nat
  len : Nat
  ty : Nat
  op : Nat
  uns : Bool
  got : List Nat
  sent : List Nat
deriving DecidableEq, Repr

/-- What a Serrun transfer does when it is acknowledged (R421, R427); `come`: a read's data has arrived, and waits to be
written; a mirrored write holds the command with this number, or the partition's finish. -/
inductive XferKind
  | write (op : Nat)
  | read (space dst : Nat) (come : Bool)
  | signal
  | mirror (cmd : Option Nat)
  | coll (c : Coll)
deriving DecidableEq, Repr

/-- A Serrun transfer awaiting its acknowledgement (R421, R425, R427): its partition, and its command where it has one. -/
structure Xfer where
  id : Nat
  part : Nat
  who : Option (Origin × Body)
  kind : XferKind
  started : Nat
  port : Nat
deriving DecidableEq, Repr

/-- Serrun (14): ports, whether a placement has been made since cold power-up, the crew record's identifier and
rectangle, transfers in flight, the roles that twin partitions have told (by crew tag), and partitions whose retire
queues wait for R429. -/
structure Mesh where
  ports : Table SrnPort
  placedOnce : Bool
  crewId : Nat
  x0 : Nat
  y0 : Nat
  x1 : Nat
  y1 : Nat
  xfers : List Xfer
  nextXfer : Nat
  twinRoles : Table Nat
  promoted : Keys
deriving DecidableEq, Repr

/-! ### Faults (15) and power (16) -/

/-- The fault collector (15): records on their way, the log, the pending set, the end of the FAULT_N pulse, the block
under self-test, recurrence windows by resource, the spare rows used by engine buffers, and the regions whose
die-to-die link retrains (R439). -/
structure Faults where
  inbound : List Note
  log : List Logged
  pending : List Pending
  pulseEnd : Option Nat
  testing : Option Nat
  windows : Table Window
  spares : Table Nat
  d2d : Keys
deriving DecidableEq, Repr

/-- Power (16): PWR_EN, the local time of the ends of the last activity of blocks, banks, regions and tier B, the wakes in
progress, a STANDBY request that waits (R467), the source of a wake held during STANDBY entry (R470), the crystal's failure,
whether memory has been trained and each tier initialised, the instant P of the hub's latest start (R472), whether the hub
has not run since power-up (R457), the partitions retained across STANDBY (R469), whether their restore is due (R471), and
the bytes of the last telemetry sample and the number of the next. -/
structure Power where
  pwrEn : Bool
  lastBlock : Table Nat
  lastBank : Table Nat
  lastRegion : Table Nat
  lastFin : Table Nat
  lastTierB : Nat
  waking : Keys
  blockWaking : Keys
  standbyHeld : Bool
  wakeHeld : Option Nat
  crystalFailed : Bool
  trained : Bool
  tierA : Bool
  tierB : Bool
  startedAt : Nat
  cold : Bool
  kept : Keys
  restoring : Bool
  telemSeq : Nat
  sampledAt : Nat
  lastSample : List Byte
  early : Option Nat
deriving DecidableEq, Repr

/-- The management bus and straps (18): endpoint IDs, the I3C dynamic address, the sampled straps. -/
structure Bus where
  eidSideband : Nat
  eidPcie : Nat
  i3c : Option Nat
  sbAddr : Nat
deriving DecidableEq, Repr

/-- Everything the module holds, but for the commands that wait for it. -/
structure Chip where
  now : Nat
  xtal : Nat
  fresh : Nat
  out : List Out
  regs : Table Nat
  heldLo : Table Nat
  latchHi : Table Nat
  mem : Memory
  retire : Keys
  slices : Table Slice
  girth : Table Girth
  patrol : Table Nat
  patrolFrom : Table Nat
  pads : Table Bank
  fills : List BankFill
  scrubPos : Table Nat
  bankTurn : Table Nat
  blocks : Table Block
  prec : Precision
  q : Queues
  switches : Table Switch
  spillHeld : Table Nat
  kv : Kv
  slots : Table SlotCtx
  serve : Table Serve
  hosts : Hosts
  sec : Security
  mesh : Mesh
  faults : Faults
  power : Power
  bus : Bus
deriving DecidableEq, Repr

/-- The state: the module, and the commands that wait for it, first in, first out. -/
structure State extends Chip where
  pending : List Instr
deriving DecidableEq, Repr

/-! ### Reset -/

/-- A fused key slot with no key. -/
def emptySlot : KeySlot := { digest := none, revoked := false }

/-- The fuses of a part that nothing has burned (DESIGN CHOICE, log 8). -/
def blankFuses : Fuses :=
  { slot0 := emptySlot, slot1 := emptySlot, slot2 := emptySlot, slot3 := emptySlot, minSvn := 0, lifecycle := 0, uid := 0,
    uds := 0 }

/-- A flash with no supplement, no retirement and no override (DESIGN CHOICE, log 8). -/
def blankFlash : Flash :=
  { copyA := [], copyB := [], preferB := false, channels := [], slices := [], override := none, rootCert := [],
    closedCert := [], operatorCert := [] }

/-- The module right after reset: every register at its Reset column, local time 0, nothing listed in any memory, no job,
no slot, no session, links down, PERST_N asserted on both ports (DESIGN CHOICE, log 7). -/
def Chip.reset : Chip :=
  { now := 0, xtal := 0, fresh := 0, out := [], regs := [], heldLo := [], latchHi := [],
    mem := { bytes := [], poison := [], latent := [] }, retire := [], slices := [], girth := [], patrol := [], patrolFrom := [], pads := [],
    fills := [], scrubPos := [], bankTurn := [], blocks := [],
    prec := { items := [], claims := [], widenOwner := [], widenSent := [], stormSent := [], stormed := [], stormAt := [] },
    q := { jobs := [], nextJob := 0, nextSeq := 0, held := [], sems := [], bars := [], waits := [], contexts := [], nextTurn := 1, used := [],
           raw := [], readyGroups := [], lastPart := [], lastJob := [], stops := [], halted := [], chains := [],
           cancelled := [], hand := none, nextSent := 0 },
    switches := [], spillHeld := [],
    kv := { parts := [], walks := [], nextWalk := 0, lab := [] }, slots := [], serve := [],
    hosts := { funcs := [], perst0 := true, perst1 := true, clock0 := none, clock1 := none, warm := [], holds := [], scrubs := [] },
    sec := { fuses := blankFuses, flash := blankFlash, booted := false, runningB := none, image := [], m0 := 0, m1 := 0, m2 := 0, m3 := 0,
             deviceSeed := 0, aliasSeed := 0, nonceAt := none, processing := none, reading := none, chunks := [], sessions := [], nextSession := 0,
             ideSecure := [], ideInsecure := [], operatorReads := [], cox := [], scan := [] },
    mesh := { ports := [], placedOnce := false, crewId := 0, x0 := 0, y0 := 0, x1 := 0, y1 := 0, xfers := [], nextXfer := 0,
              twinRoles := [], promoted := [] },
    faults := { inbound := [], log := [], pending := [], pulseEnd := none, testing := none, windows := [], spares := [], d2d := [] },
    power := { pwrEn := true, lastBlock := [], lastBank := [], lastRegion := [], lastFin := [], lastTierB := 0,
               waking := [], blockWaking := [], standbyHeld := false, wakeHeld := none, crystalFailed := false,
               trained := false, tierA := false, tierB := false, startedAt := 0, cold := false, kept := [],
               restoring := false, telemSeq := 0, sampledAt := 0, lastSample := [],
               early := none },
    bus := { eidSideband := 0, eidPcie := 0, i3c := none, sbAddr := 0x60 } }

/-- The state right after reset: no command waits. -/
def State.reset : State := { Chip.reset with pending := [] }

end Sys2Proof.Machine
end

