-- ==== Sys2Proof/Machine/Regs.lean ====
section
/-!
DEFINITION. Every field of every register page, from the register tables of spec/ (03 to 17): its offset, its bits,
its access code (Table 00-3) and its reset value; a reset value the spec gives as a dash stands as 0 (DESIGN CHOICE, log 2).
-/
namespace Sys2Proof.Machine.Reg

/-- A field at `off`, bits [hi:lo]. -/
def fld (off hi lo : Nat) (acc : Acc) (reset : Nat) : Field := { off := off, hi := hi, lo := lo, acc := acc, reset := reset }

/-! ### common header page: 16_power_boot.md R477, 17_register_map.md R483 -/

def PWR_CTRL_OFF_MS : Field := fld 0x034 31 16 .rw 1000
def PWR_CTRL_RETAIN_US : Field := fld 0x034 15 4 .rw 100
def PWR_CTRL_GATE_EN : Field := fld 0x034 0 0 .rw 1
def PWR_STAT_WAKES : Field := fld 0x038 31 16 .ro 0
def PWR_STAT_TEMP_C : Field := fld 0x038 15 8 .ro 0
def PWR_STAT_STATE : Field := fld 0x038 1 0 .ro 0
def PAGE_ID_TYPE : Field := fld 0x000 31 16 .ro 0
def PAGE_ID_INSTANCE : Field := fld 0x000 15 8 .ro 0
def PAGE_ID_LAYOUT : Field := fld 0x000 7 0 .ro 1
def PAGE_CAP_SPECIFIC : Field := fld 0x004 31 16 .ro 0
def PAGE_CAP_PWR : Field := fld 0x004 2 2 .ro 0
def PAGE_CAP_LOCAL_RESET : Field := fld 0x004 1 1 .ro 0
def PAGE_CAP_QUIESCE : Field := fld 0x004 0 0 .ro 0
def PAGE_CTRL_VECTOR : Field := fld 0x008 26 16 .rw 0
def PAGE_CTRL_LOCAL_RESET : Field := fld 0x008 2 2 .w1s 0
def PAGE_CTRL_QUIESCE : Field := fld 0x008 1 1 .w1s 0
def PAGE_CTRL_ENABLE : Field := fld 0x008 0 0 .rw 1
def PAGE_STAT_DRAINED : Field := fld 0x00c 7 7 .ro 0
def PAGE_STAT_RESET_REFUSED : Field := fld 0x00c 6 6 .ro 0
def PAGE_STAT_STATE : Field := fld 0x00c 2 0 .ro 0
def IRQ_EN_EN : Field := fld 0x014 31 0 .rw 0
def IRQ_SET_SET : Field := fld 0x018 31 0 .w1s 0
def ERR_MASK_MASK : Field := fld 0x020 31 0 .rw 0
def ERR_INJECT_ARM : Field := fld 0x024 31 0 .w1s 0
def ERR_COUNT_CE_COUNT : Field := fld 0x028 31 0 .ro 0
def ERR_ADDR_LO_ADDR_LO : Field := fld 0x02c 31 0 .ro 0
def ERR_ADDR_HI_SPACE : Field := fld 0x030 31 30 .ro 3
def ERR_ADDR_HI_ADDR_HI : Field := fld 0x030 15 0 .ro 0

/-- Fields of the common header page, part 0. -/
def COMMON_fields0 : List Field :=
  [PWR_CTRL_OFF_MS, PWR_CTRL_RETAIN_US, PWR_CTRL_GATE_EN, PWR_STAT_WAKES, PWR_STAT_TEMP_C, PWR_STAT_STATE, PAGE_ID_TYPE, PAGE_ID_INSTANCE, PAGE_ID_LAYOUT, PAGE_CAP_SPECIFIC, PAGE_CAP_PWR, PAGE_CAP_LOCAL_RESET]
/-- Fields of the common header page, part 1. -/
def COMMON_fields1 : List Field :=
  [PAGE_CAP_QUIESCE, PAGE_CTRL_VECTOR, PAGE_CTRL_LOCAL_RESET, PAGE_CTRL_QUIESCE, PAGE_CTRL_ENABLE, PAGE_STAT_DRAINED, PAGE_STAT_RESET_REFUSED, PAGE_STAT_STATE, IRQ_EN_EN, IRQ_SET_SET, ERR_MASK_MASK, ERR_INJECT_ARM]
/-- Fields of the common header page, part 2. -/
def COMMON_fields2 : List Field :=
  [ERR_COUNT_CE_COUNT, ERR_ADDR_LO_ADDR_LO, ERR_ADDR_HI_SPACE, ERR_ADDR_HI_ADDR_HI]
/-- The fields of the common header page that stand once. -/
def COMMON_fields : List Field := COMMON_fields0 ++ COMMON_fields1 ++ COMMON_fields2

/-! ### hub page: 17_register_map.md R495 -/

def HUB_IDENT_DEVICE : Field := fld 0x040 31 16 .ro 3606
def HUB_IDENT_VENDOR : Field := fld 0x040 15 0 .ro 7996
def HUB_REVISION_ARCH_GEN : Field := fld 0x044 31 30 .ro 0
def HUB_REVISION_STEPPING : Field := fld 0x044 23 16 .ro 0
def HUB_REVISION_MAP_LAYOUT : Field := fld 0x044 15 8 .ro 1
def HUB_CONFIG_REGIONS_M1 : Field := fld 0x048 31 29 .ro 3
def HUB_CONFIG_QUADS_M1 : Field := fld 0x048 28 24 .ro 15
def HUB_CONFIG_BLOCKS_M1 : Field := fld 0x048 23 16 .ro 255
def HUB_CONFIG_STACKS_M1 : Field := fld 0x048 15 11 .ro 15
def HUB_CONFIG_TB_M1 : Field := fld 0x048 10 6 .ro 15
def HUB_CONFIG_SRN_M1 : Field := fld 0x048 5 3 .ro 4
def HUB_CONFIG_PCI_M1 : Field := fld 0x048 2 0 .ro 1
def HUB_LIMITS_PARTITIONS_LOG2 : Field := fld 0x04c 31 28 .ro 4
def HUB_LIMITS_QUEUES_LOG2 : Field := fld 0x04c 27 24 .ro 6
def HUB_LIMITS_ACCOUNTS_LOG2 : Field := fld 0x04c 23 20 .ro 12
def HUB_LIMITS_SLOTS_LOG2 : Field := fld 0x04c 19 15 .ro 14
def HUB_LIMITS_POSITIONS_LOG2 : Field := fld 0x04c 14 10 .ro 18
def HUB_CAP0_CHANNEL_RETIRE : Field := fld 0x050 15 15 .ro 1
def HUB_CAP0_TB_STANDBY_KEEP : Field := fld 0x050 14 14 .ro 1
def HUB_CAP0_IDE : Field := fld 0x050 13 13 .ro 1
def HUB_CAP0_TWIN : Field := fld 0x050 12 12 .ro 1
def HUB_CAP0_MESH : Field := fld 0x050 11 11 .ro 1
def HUB_CAP0_MEM_ADDERS : Field := fld 0x050 10 10 .ro 1
def HUB_CAP0_SLOT_FORM : Field := fld 0x050 9 9 .ro 1
def HUB_CAP0_PAGE_SKIP : Field := fld 0x050 8 8 .ro 1
def HUB_CAP0_FW_TRACKING : Field := fld 0x050 7 7 .ro 1
def HUB_CAP0_START_LIST : Field := fld 0x050 6 6 .ro 1
def HUB_CAP0_WIDEN : Field := fld 0x050 5 5 .ro 1
def HUB_CAP0_STOCHASTIC : Field := fld 0x050 4 4 .ro 1
def HUB_CAP0_MOE : Field := fld 0x050 3 3 .ro 1
def HUB_CAP0_LOOSE : Field := fld 0x050 2 2 .ro 1
def HUB_CAP0_DECLARED : Field := fld 0x050 1 1 .ro 1
def HUB_CAP0_STITCHED : Field := fld 0x050 0 0 .ro 1
def HUB_GEN_MASK_ACCEPTED : Field := fld 0x058 3 0 .ro 1
def HUB_D2D_STAT_GROUPS : Field := fld 0x05c 31 0 .ro 4294967295
def HUB_DIR_SEL_ENTRY : Field := fld 0x060 4 0 .rw 0
def HUB_DIR_DATA0_TYPE : Field := fld 0x064 31 16 .ro 0
def HUB_DIR_DATA0_COUNT : Field := fld 0x064 15 0 .ro 0
def HUB_DIR_DATA1_FIRST : Field := fld 0x068 31 16 .ro 0
def HUB_DIR_DATA1_STRIDE : Field := fld 0x068 15 0 .ro 0
def HUB_ERR_STAT_D2D_LINK_FAIL : Field := fld 0x01c 2 2 .w1c 0
def HUB_ERR_STAT_D2D_LANE_DROP : Field := fld 0x01c 1 1 .w1c 0
def HUB_ERR_STAT_D2D_CRC_RETRY : Field := fld 0x01c 0 0 .w1c 0

/-- Fields of the hub page, part 0. -/
def HUB_fields0 : List Field :=
  [HUB_IDENT_DEVICE, HUB_IDENT_VENDOR, HUB_REVISION_ARCH_GEN, HUB_REVISION_STEPPING, HUB_REVISION_MAP_LAYOUT, HUB_CONFIG_REGIONS_M1, HUB_CONFIG_QUADS_M1, HUB_CONFIG_BLOCKS_M1, HUB_CONFIG_STACKS_M1, HUB_CONFIG_TB_M1, HUB_CONFIG_SRN_M1, HUB_CONFIG_PCI_M1]
/-- Fields of the hub page, part 1. -/
def HUB_fields1 : List Field :=
  [HUB_LIMITS_PARTITIONS_LOG2, HUB_LIMITS_QUEUES_LOG2, HUB_LIMITS_ACCOUNTS_LOG2, HUB_LIMITS_SLOTS_LOG2, HUB_LIMITS_POSITIONS_LOG2, HUB_CAP0_CHANNEL_RETIRE, HUB_CAP0_TB_STANDBY_KEEP, HUB_CAP0_IDE, HUB_CAP0_TWIN, HUB_CAP0_MESH, HUB_CAP0_MEM_ADDERS, HUB_CAP0_SLOT_FORM]
/-- Fields of the hub page, part 2. -/
def HUB_fields2 : List Field :=
  [HUB_CAP0_PAGE_SKIP, HUB_CAP0_FW_TRACKING, HUB_CAP0_START_LIST, HUB_CAP0_WIDEN, HUB_CAP0_STOCHASTIC, HUB_CAP0_MOE, HUB_CAP0_LOOSE, HUB_CAP0_DECLARED, HUB_CAP0_STITCHED, HUB_GEN_MASK_ACCEPTED, HUB_D2D_STAT_GROUPS, HUB_DIR_SEL_ENTRY]
/-- Fields of the hub page, part 3. -/
def HUB_fields3 : List Field :=
  [HUB_DIR_DATA0_TYPE, HUB_DIR_DATA0_COUNT, HUB_DIR_DATA1_FIRST, HUB_DIR_DATA1_STRIDE, HUB_ERR_STAT_D2D_LINK_FAIL, HUB_ERR_STAT_D2D_LANE_DROP, HUB_ERR_STAT_D2D_CRC_RETRY]
/-- The fields of the hub page that stand once. -/
def HUB_fields : List Field := HUB_fields0 ++ HUB_fields1 ++ HUB_fields2 ++ HUB_fields3

/-! ### Cox page: 17_register_map.md R496 -/

def COX_FW_VERSION_MAJOR : Field := fld 0x040 31 24 .ro 0
def COX_FW_VERSION_MINOR : Field := fld 0x040 23 16 .ro 0
def COX_FW_VERSION_BUILD : Field := fld 0x040 15 0 .ro 0
def COX_STAT_HEARTBEAT : Field := fld 0x044 31 16 .ro 0
def COX_STAT_FW_PARTITIONS : Field := fld 0x044 4 0 .ro 0
def COX_ECC_STAT_CE : Field := fld 0x048 31 16 .ro 0
def COX_ECC_STAT_UE : Field := fld 0x048 15 0 .ro 0
def COX_COUNT_CLEAR_CLR_ECC : Field := fld 0x07c 0 0 .wo 0
def COX_ERR_STAT_WATCHDOG : Field := fld 0x01c 2 2 .w1c 0
def COX_ERR_STAT_UE : Field := fld 0x01c 1 1 .w1c 0
def COX_ERR_STAT_CE : Field := fld 0x01c 0 0 .w1c 0

/-- Fields of the Cox page, part 0. -/
def COX_fields0 : List Field :=
  [COX_FW_VERSION_MAJOR, COX_FW_VERSION_MINOR, COX_FW_VERSION_BUILD, COX_STAT_HEARTBEAT, COX_STAT_FW_PARTITIONS, COX_ECC_STAT_CE, COX_ECC_STAT_UE, COX_COUNT_CLEAR_CLR_ECC, COX_ERR_STAT_WATCHDOG, COX_ERR_STAT_UE, COX_ERR_STAT_CE]
/-- The fields of the Cox page that stand once. -/
def COX_fields : List Field := COX_fields0

/-! ### security page: 13_security.md R407 -/

def SEC_LIFECYCLE_STATE : Field := fld 0x040 1 0 .ro 0
def SEC_BOOT_STAT_COPY : Field := fld 0x044 31 30 .ro 0
def SEC_BOOT_STAT_RESULT_A : Field := fld 0x044 23 20 .ro 0
def SEC_BOOT_STAT_RESULT_B : Field := fld 0x044 19 16 .ro 0
def SEC_BOOT_STAT_KEY_SLOT : Field := fld 0x044 13 12 .ro 0
def SEC_BOOT_STAT_SVN : Field := fld 0x044 5 0 .ro 0
def SEC_FUSE_STAT_MIN_SVN : Field := fld 0x048 13 8 .ro 0
def SEC_FUSE_STAT_PROGRAMMED : Field := fld 0x048 7 4 .ro 0
def SEC_FUSE_STAT_REVOKED : Field := fld 0x048 3 0 .ro 0
def SEC_SVN_COMMIT_COMMIT : Field := fld 0x04c 0 0 .w1s 0
def SEC_CFG_LOCK : Field := fld 0x050 31 31 .rw 0
def SEC_CFG_SIDEBAND_SPDM : Field := fld 0x050 0 0 .rwl 1
def SEC_DEBUG_CTRL_CLOSE_OPERATOR : Field := fld 0x054 1 1 .w1s 0
def SEC_DEBUG_CTRL_OPEN_OPERATOR : Field := fld 0x054 0 0 .w1s 0
def SEC_DEBUG_STAT_STATE : Field := fld 0x058 31 30 .ro 0
def SEC_DEBUG_STAT_OPERATOR : Field := fld 0x058 29 29 .ro 0
def SEC_DEBUG_STAT_DEEP : Field := fld 0x058 28 28 .ro 0
def SEC_DEBUG_STAT_OPERATOR_OPENS : Field := fld 0x058 15 8 .ro 0
def SEC_DEBUG_STAT_DEEP_OPENS : Field := fld 0x058 7 0 .ro 0
def SEC_NONCE_CTRL_NEW : Field := fld 0x05c 0 0 .w1s 0
def SEC_NONCE_NONCE (n : Nat) : Field := fld (0x060 + 4 * n) 31 0 .ro 0
def SEC_TOKEN_ADDR_LO_ADDR : Field := fld 0x070 31 0 .rw 0
def SEC_TOKEN_ADDR_HI_ADDR : Field := fld 0x074 31 0 .rw 0
def SEC_TOKEN_CTRL_KIND : Field := fld 0x078 1 1 .wo 0
def SEC_TOKEN_CTRL_GO : Field := fld 0x078 0 0 .w1s 0
def SEC_TOKEN_STAT_BUSY : Field := fld 0x07c 31 31 .ro 0
def SEC_TOKEN_STAT_BOOT_RESULT : Field := fld 0x07c 7 4 .ro 0
def SEC_TOKEN_STAT_RESULT : Field := fld 0x07c 3 0 .ro 0
def SEC_UID_UID (n : Nat) : Field := fld (0x080 + 4 * n) 31 0 .ro 0
def SEC_IDE_STAT_FAILS : Field := fld 0x090 31 20 .ro 0
def SEC_IDE_STAT_SECURE : Field := fld 0x090 16 0 .ro 0
def SEC_DBG_CTRL_REGION : Field := fld 0x094 3 2 .rw 0
def SEC_DBG_CTRL_SPACE : Field := fld 0x094 1 1 .rw 0
def SEC_DBG_CTRL_GO : Field := fld 0x094 0 0 .w1s 0
def SEC_DBG_ADDR_LO_ADDR : Field := fld 0x098 31 0 .rw 0
def SEC_DBG_ADDR_HI_ADDR : Field := fld 0x09c 31 0 .rw 0
def SEC_DBG_DATA_LO_DATA : Field := fld 0x0a0 31 0 .ro 0
def SEC_DBG_DATA_HI_DATA : Field := fld 0x0a4 31 0 .ro 0
def SEC_DBG_STAT_POISON : Field := fld 0x0a8 1 1 .ro 0
def SEC_DBG_STAT_BUSY : Field := fld 0x0a8 0 0 .ro 0
def SEC_TRACE_BASE_LO_BASE : Field := fld 0x0b0 31 0 .rw 0
def SEC_TRACE_BASE_HI_BASE : Field := fld 0x0b4 31 0 .rw 0
def SEC_TRACE_CFG_ENABLE : Field := fld 0x0b8 31 31 .rw 0
def SEC_TRACE_CFG_SIZE_LOG2 : Field := fld 0x0b8 4 0 .rw 0
def SEC_TRACE_TAIL_TAIL : Field := fld 0x0bc 31 0 .ro 0
def SEC_MEAS_SEL_INDEX : Field := fld 0x0c0 2 0 .rw 0
def SEC_MEAS_DATA_DIGEST (n : Nat) : Field := fld (0x0c4 + 4 * n) 31 0 .ro 0
def SEC_IRQ_STAT_IDE_FAIL : Field := fld 0x010 2 2 .w1c 0
def SEC_IRQ_STAT_DEBUG_CHANGE : Field := fld 0x010 1 1 .w1c 0
def SEC_IRQ_STAT_TOKEN_DONE : Field := fld 0x010 0 0 .w1c 0

/-- Fields of the security page, part 0. -/
def SEC_fields0 : List Field :=
  [SEC_LIFECYCLE_STATE, SEC_BOOT_STAT_COPY, SEC_BOOT_STAT_RESULT_A, SEC_BOOT_STAT_RESULT_B, SEC_BOOT_STAT_KEY_SLOT, SEC_BOOT_STAT_SVN, SEC_FUSE_STAT_MIN_SVN, SEC_FUSE_STAT_PROGRAMMED, SEC_FUSE_STAT_REVOKED, SEC_SVN_COMMIT_COMMIT, SEC_CFG_LOCK, SEC_CFG_SIDEBAND_SPDM]
/-- Fields of the security page, part 1. -/
def SEC_fields1 : List Field :=
  [SEC_DEBUG_CTRL_CLOSE_OPERATOR, SEC_DEBUG_CTRL_OPEN_OPERATOR, SEC_DEBUG_STAT_STATE, SEC_DEBUG_STAT_OPERATOR, SEC_DEBUG_STAT_DEEP, SEC_DEBUG_STAT_OPERATOR_OPENS, SEC_DEBUG_STAT_DEEP_OPENS, SEC_NONCE_CTRL_NEW, SEC_TOKEN_ADDR_LO_ADDR, SEC_TOKEN_ADDR_HI_ADDR, SEC_TOKEN_CTRL_KIND, SEC_TOKEN_CTRL_GO]
/-- Fields of the security page, part 2. -/
def SEC_fields2 : List Field :=
  [SEC_TOKEN_STAT_BUSY, SEC_TOKEN_STAT_BOOT_RESULT, SEC_TOKEN_STAT_RESULT, SEC_IDE_STAT_FAILS, SEC_IDE_STAT_SECURE, SEC_DBG_CTRL_REGION, SEC_DBG_CTRL_SPACE, SEC_DBG_CTRL_GO, SEC_DBG_ADDR_LO_ADDR, SEC_DBG_ADDR_HI_ADDR, SEC_DBG_DATA_LO_DATA, SEC_DBG_DATA_HI_DATA]
/-- Fields of the security page, part 3. -/
def SEC_fields3 : List Field :=
  [SEC_DBG_STAT_POISON, SEC_DBG_STAT_BUSY, SEC_TRACE_BASE_LO_BASE, SEC_TRACE_BASE_HI_BASE, SEC_TRACE_CFG_ENABLE, SEC_TRACE_CFG_SIZE_LOG2, SEC_TRACE_TAIL_TAIL, SEC_MEAS_SEL_INDEX, SEC_IRQ_STAT_IDE_FAIL, SEC_IRQ_STAT_DEBUG_CHANGE, SEC_IRQ_STAT_TOKEN_DONE]
/-- The fields of the security page that stand once. -/
def SEC_fields : List Field := SEC_fields0 ++ SEC_fields1 ++ SEC_fields2 ++ SEC_fields3
/-- The array fields of the security page at offset `off`. -/
def SEC_arrayAt (off : Nat) : List Field :=
  if 0x060 ≤ off && off < 0x070 && (off - 0x060) % 4 == 0 then
    [SEC_NONCE_NONCE ((off - 0x060) / 4)]
  else
  if 0x080 ≤ off && off < 0x090 && (off - 0x080) % 4 == 0 then
    [SEC_UID_UID ((off - 0x080) / 4)]
  else
  if 0x0c4 ≤ off && off < 0x0e4 && (off - 0x0c4) % 4 == 0 then
    [SEC_MEAS_DATA_DIGEST ((off - 0x0c4) / 4)]
  else
  []

/-! ### fault collector page: 15_faults.md R452 -/

def FC_CFG_GRACE_MS : Field := fld 0x040 31 16 .rw 50
def FC_CFG_COALESCE_MS : Field := fld 0x040 15 8 .rw 10
def FC_CFG_CEILING : Field := fld 0x040 2 0 .rw 2
def FC_STAT_FATAL : Field := fld 0x044 31 31 .ro 0
def FC_STAT_PENDING : Field := fld 0x044 24 16 .ro 0
def FC_STAT_PEND_FULL : Field := fld 0x044 15 8 .ro 0
def FC_STAT_LOST : Field := fld 0x044 7 0 .ro 0
def FC_SEQ_NEXT : Field := fld 0x048 31 0 .ro 0
def FC_ACK_SEQ : Field := fld 0x04c 31 0 .wo 0
def FC_FAULT_PIN_CTRL_DRIVEN : Field := fld 0x050 9 9 .ro 0
def FC_FAULT_PIN_CTRL_ASSERT : Field := fld 0x050 8 8 .rw 0
def FC_FAULT_PIN_CTRL_MIN_CLASS : Field := fld 0x050 2 0 .rw 1
def FC_THRESH_CFG_WINDOW : Field := fld 0x054 31 16 .rw 1000
def FC_THRESH_CFG_THRESH : Field := fld 0x054 7 0 .rw 16
def FC_RING_BASE_LO_BASE : Field := fld 0x058 31 0 .rw 0
def FC_RING_BASE_HI_BASE : Field := fld 0x05c 31 0 .rw 0
def FC_RING_CFG_EN : Field := fld 0x060 31 31 .rw 0
def FC_RING_CFG_SIZE_LOG2 : Field := fld 0x060 20 16 .rw 0
def FC_RING_CFG_VECTOR : Field := fld 0x060 10 0 .rw 0
def FC_RING_TAIL_TAIL : Field := fld 0x064 31 0 .ro 0
def FC_PEND_OLDEST_SEQ : Field := fld 0x068 31 0 .ro 0
def FC_ESC_COUNT_QUEUE_STEPS : Field := fld 0x06c 31 24 .ro 0
def FC_ESC_COUNT_PARTITION_STEPS : Field := fld 0x06c 23 16 .ro 0
def FC_ESC_COUNT_SCRUB_STEPS : Field := fld 0x06c 15 8 .ro 0
def FC_ESC_COUNT_ACK_STALE : Field := fld 0x06c 7 0 .ro 0
def FC_REC_SEL_SEQ : Field := fld 0x070 31 0 .rw 0
def FC_FENCE_CTRL_RELEASE : Field := fld 0x074 8 8 .w1s 0
def FC_FENCE_CTRL_BLOCK : Field := fld 0x074 7 0 .rw 0
def FC_FENCE_STAT_FENCES : Field := fld 0x078 31 16 .ro 0
def FC_FENCE_STAT_BUSY : Field := fld 0x078 2 2 .ro 0
def FC_FENCE_STAT_RESULT : Field := fld 0x078 1 0 .ro 0
def FC_COUNT_CLEAR_CLR_ESC : Field := fld 0x07c 1 1 .wo 0
def FC_COUNT_CLEAR_CLR_STAT : Field := fld 0x07c 0 0 .wo 0
def FC_REC_DATA_WORD (n : Nat) : Field := fld (0x080 + 4 * n) 31 0 .ro 0
def FC_FENCE_FENCED (n : Nat) : Field := fld (0x0c0 + 4 * n) 31 0 .ro 0
def FC_IRQ_STAT_FENCE : Field := fld 0x010 3 3 .w1c 0
def FC_IRQ_STAT_ESCALATED : Field := fld 0x010 2 2 .w1c 0
def FC_IRQ_STAT_PENDING : Field := fld 0x010 1 1 .w1c 0
def FC_IRQ_STAT_RECORD : Field := fld 0x010 0 0 .w1c 0
def FC_ERR_STAT_INTERNAL : Field := fld 0x01c 0 0 .w1c 0

/-- Fields of the fault collector page, part 0. -/
def FC_fields0 : List Field :=
  [FC_CFG_GRACE_MS, FC_CFG_COALESCE_MS, FC_CFG_CEILING, FC_STAT_FATAL, FC_STAT_PENDING, FC_STAT_PEND_FULL, FC_STAT_LOST, FC_SEQ_NEXT, FC_ACK_SEQ, FC_FAULT_PIN_CTRL_DRIVEN, FC_FAULT_PIN_CTRL_ASSERT, FC_FAULT_PIN_CTRL_MIN_CLASS]
/-- Fields of the fault collector page, part 1. -/
def FC_fields1 : List Field :=
  [FC_THRESH_CFG_WINDOW, FC_THRESH_CFG_THRESH, FC_RING_BASE_LO_BASE, FC_RING_BASE_HI_BASE, FC_RING_CFG_EN, FC_RING_CFG_SIZE_LOG2, FC_RING_CFG_VECTOR, FC_RING_TAIL_TAIL, FC_PEND_OLDEST_SEQ, FC_ESC_COUNT_QUEUE_STEPS, FC_ESC_COUNT_PARTITION_STEPS, FC_ESC_COUNT_SCRUB_STEPS]
/-- Fields of the fault collector page, part 2. -/
def FC_fields2 : List Field :=
  [FC_ESC_COUNT_ACK_STALE, FC_REC_SEL_SEQ, FC_FENCE_CTRL_RELEASE, FC_FENCE_CTRL_BLOCK, FC_FENCE_STAT_FENCES, FC_FENCE_STAT_BUSY, FC_FENCE_STAT_RESULT, FC_COUNT_CLEAR_CLR_ESC, FC_COUNT_CLEAR_CLR_STAT, FC_IRQ_STAT_FENCE, FC_IRQ_STAT_ESCALATED, FC_IRQ_STAT_PENDING]
/-- Fields of the fault collector page, part 3. -/
def FC_fields3 : List Field :=
  [FC_IRQ_STAT_RECORD, FC_ERR_STAT_INTERNAL]
/-- The fields of the fault collector page that stand once. -/
def FC_fields : List Field := FC_fields0 ++ FC_fields1 ++ FC_fields2 ++ FC_fields3
/-- The array fields of the fault collector page at offset `off`. -/
def FC_arrayAt (off : Nat) : List Field :=
  if 0x080 ≤ off && off < 0x0c0 && (off - 0x080) % 4 == 0 then
    [FC_REC_DATA_WORD ((off - 0x080) / 4)]
  else
  if 0x0c0 ≤ off && off < 0x0e0 && (off - 0x0c0) % 4 == 0 then
    [FC_FENCE_FENCED ((off - 0x0c0) / 4)]
  else
  []

/-! ### power manager page: 16_power_boot.md R478 -/

def PM_CTRL_STANDBY : Field := fld 0x040 0 0 .w1s 0
def PM_STAT_STATE : Field := fld 0x044 31 30 .ro 2
def PM_STAT_WAKE_SOURCE : Field := fld 0x044 29 27 .ro 0
def PM_STAT_REFUSAL : Field := fld 0x044 26 24 .ro 0
def PM_STAT_ENTERING : Field := fld 0x044 23 23 .ro 0
def PM_STAT_CRYSTAL_OK : Field := fld 0x044 22 22 .ro 0
def PM_WAKE_CFG_ALARM_EN : Field := fld 0x048 2 2 .rw 0
def PM_WAKE_CFG_PERST1_EN : Field := fld 0x048 1 1 .rw 1
def PM_WAKE_CFG_PERST0_EN : Field := fld 0x048 0 0 .rw 1
def PM_ALARM_LO_ALARM : Field := fld 0x04c 31 0 .rw 0
def PM_ALARM_HI_ALARM : Field := fld 0x050 31 0 .rw 0
def PM_TIME_LO_TIME : Field := fld 0x054 31 0 .ro 0
def PM_TIME_HI_TIME : Field := fld 0x058 31 0 .ro 0
def PM_REGION_CFG_IDLE_US : Field := fld 0x05c 19 0 .rw 1000
def PM_REGION_STAT_WAKES : Field := fld 0x060 31 16 .ro 0
def PM_REGION_STAT_AWAKE : Field := fld 0x060 3 0 .ro 0
def PM_THERM_CFG_THROTTLE_C : Field := fld 0x064 23 16 .rw 95
def PM_THERM_CFG_HYST_C : Field := fld 0x064 15 8 .rw 5
def PM_TEMP_BLOCK_MAX : Field := fld 0x068 31 24 .ro 0
def PM_TEMP_HBM_MAX : Field := fld 0x068 23 16 .ro 0
def PM_TEMP_HUB_T : Field := fld 0x068 15 8 .ro 0
def PM_TEMP_PLATE : Field := fld 0x068 7 0 .ro 0
def PM_INPUT_VIN_MV : Field := fld 0x06c 31 16 .ro 0
def PM_INPUT_IIN : Field := fld 0x06c 15 0 .ro 0
def PM_POWER_PIN : Field := fld 0x070 31 16 .ro 0
def PM_POWER_PEAK_DW : Field := fld 0x070 15 0 .ro 0
def PM_ENERGY_LO_ENERGY : Field := fld 0x074 31 0 .ro 0
def PM_ENERGY_HI_ENERGY : Field := fld 0x078 31 0 .ro 0
def PM_COUNT_CLEAR_CLR_PEAK : Field := fld 0x07c 1 1 .wo 0
def PM_COUNT_CLEAR_CLR_EVENTS : Field := fld 0x07c 0 0 .wo 0
def PM_TELEM_BASE_LO_BASE : Field := fld 0x080 31 0 .rw 0
def PM_TELEM_BASE_HI_BASE : Field := fld 0x084 31 0 .rw 0
def PM_TELEM_CFG_EN : Field := fld 0x088 31 31 .rw 0
def PM_TELEM_CFG_PERIOD_MS : Field := fld 0x088 30 21 .rw 100
def PM_TELEM_CFG_SIZE_LOG2 : Field := fld 0x088 20 16 .rw 0
def PM_TELEM_CFG_VECTOR : Field := fld 0x088 10 0 .rw 0
def PM_TELEM_TAIL_TAIL : Field := fld 0x08c 31 0 .ro 0
def PM_BOOT_STAT_FW_MS : Field := fld 0x090 31 16 .ro 0
def PM_BOOT_STAT_MEM_MS : Field := fld 0x090 15 0 .ro 0
def PM_EVENTS_ENTRIES : Field := fld 0x094 31 24 .ro 0
def PM_EVENTS_REFUSALS : Field := fld 0x094 23 16 .ro 0
def PM_EVENTS_INPUT_LOW : Field := fld 0x094 15 8 .ro 0
def PM_EVENTS_INPUT_HIGH : Field := fld 0x094 7 0 .ro 0
def PM_IRQ_STAT_INPUT_RANGE : Field := fld 0x010 4 4 .w1c 0
def PM_IRQ_STAT_REFUSED : Field := fld 0x010 3 3 .w1c 0
def PM_IRQ_STAT_WAKE : Field := fld 0x010 2 2 .w1c 0
def PM_IRQ_STAT_THROTTLE : Field := fld 0x010 1 1 .w1c 0
def PM_IRQ_STAT_TELEM : Field := fld 0x010 0 0 .w1c 0
def PM_ERR_STAT_CRYSTAL_FAIL : Field := fld 0x01c 0 0 .w1c 0

/-- Fields of the power manager page, part 0. -/
def PM_fields0 : List Field :=
  [PM_CTRL_STANDBY, PM_STAT_STATE, PM_STAT_WAKE_SOURCE, PM_STAT_REFUSAL, PM_STAT_ENTERING, PM_STAT_CRYSTAL_OK, PM_WAKE_CFG_ALARM_EN, PM_WAKE_CFG_PERST1_EN, PM_WAKE_CFG_PERST0_EN, PM_ALARM_LO_ALARM, PM_ALARM_HI_ALARM, PM_TIME_LO_TIME]
/-- Fields of the power manager page, part 1. -/
def PM_fields1 : List Field :=
  [PM_TIME_HI_TIME, PM_REGION_CFG_IDLE_US, PM_REGION_STAT_WAKES, PM_REGION_STAT_AWAKE, PM_THERM_CFG_THROTTLE_C, PM_THERM_CFG_HYST_C, PM_TEMP_BLOCK_MAX, PM_TEMP_HBM_MAX, PM_TEMP_HUB_T, PM_TEMP_PLATE, PM_INPUT_VIN_MV, PM_INPUT_IIN]
/-- Fields of the power manager page, part 2. -/
def PM_fields2 : List Field :=
  [PM_POWER_PIN, PM_POWER_PEAK_DW, PM_ENERGY_LO_ENERGY, PM_ENERGY_HI_ENERGY, PM_COUNT_CLEAR_CLR_PEAK, PM_COUNT_CLEAR_CLR_EVENTS, PM_TELEM_BASE_LO_BASE, PM_TELEM_BASE_HI_BASE, PM_TELEM_CFG_EN, PM_TELEM_CFG_PERIOD_MS, PM_TELEM_CFG_SIZE_LOG2, PM_TELEM_CFG_VECTOR]
/-- Fields of the power manager page, part 3. -/
def PM_fields3 : List Field :=
  [PM_TELEM_TAIL_TAIL, PM_BOOT_STAT_FW_MS, PM_BOOT_STAT_MEM_MS, PM_EVENTS_ENTRIES, PM_EVENTS_REFUSALS, PM_EVENTS_INPUT_LOW, PM_EVENTS_INPUT_HIGH, PM_IRQ_STAT_INPUT_RANGE, PM_IRQ_STAT_REFUSED, PM_IRQ_STAT_WAKE, PM_IRQ_STAT_THROTTLE, PM_IRQ_STAT_TELEM]
/-- Fields of the power manager page, part 4. -/
def PM_fields4 : List Field :=
  [PM_ERR_STAT_CRYSTAL_FAIL]
/-- The fields of the power manager page that stand once. -/
def PM_fields : List Field := PM_fields0 ++ PM_fields1 ++ PM_fields2 ++ PM_fields3 ++ PM_fields4

/-! ### window control page: 17_register_map.md R493 -/

def HUB_SPAD_SEL_REGION : Field := fld 0x040 9 8 .rw 0
def HUB_SPAD_SEL_QUAD : Field := fld 0x040 5 2 .rw 0
def HUB_SPAD_SEL_QUARTER : Field := fld 0x040 1 0 .rw 0
def HUB_SPAD_REFUSED_COUNT : Field := fld 0x044 31 0 .ro 0

/-- Fields of the window control page, part 0. -/
def HUB_SPAD_fields0 : List Field :=
  [HUB_SPAD_SEL_REGION, HUB_SPAD_SEL_QUAD, HUB_SPAD_SEL_QUARTER, HUB_SPAD_REFUSED_COUNT]
/-- The fields of the window control page that stand once. -/
def HUB_SPAD_fields : List Field := HUB_SPAD_fields0

/-! ### PCIe port page: 12_hosts_partitions.md R376 -/

def PCI_LINK_STAT_SPEED : Field := fld 0x040 31 29 .ro 0
def PCI_LINK_STAT_WIDTH : Field := fld 0x040 27 24 .ro 0
def PCI_LINK_STAT_DL_UP : Field := fld 0x040 23 23 .ro 0
def PCI_LINK_STAT_FLIT : Field := fld 0x040 22 22 .ro 0
def PCI_LINK_STAT_MGMT : Field := fld 0x040 21 21 .ro 0
def PCI_LINK_STAT_STRAP : Field := fld 0x040 20 20 .ro 0
def PCI_LINK_STAT_OVERRIDE : Field := fld 0x040 19 19 .ro 0
def PCI_LINK_STAT_NUM_VFS : Field := fld 0x040 4 0 .ro 0
def PCI_HOLD_CFG_HOLD_TIME : Field := fld 0x044 15 0 .rw 5000
def PCI_EVENTS_LINK_DOWNS : Field := fld 0x048 31 24 .ro 0
def PCI_EVENTS_PERSTS : Field := fld 0x048 23 16 .ro 0
def PCI_EVENTS_FLRS : Field := fld 0x048 15 8 .ro 0
def PCI_EVENTS_HOLD_EXPIRED : Field := fld 0x048 7 0 .ro 0
def PCI_COUNT_CLEAR_CLR_EVENTS : Field := fld 0x07c 0 0 .wo 0
def PCI_IRQ_STAT_PERST : Field := fld 0x010 3 3 .w1c 0
def PCI_IRQ_STAT_FLR : Field := fld 0x010 2 2 .w1c 0
def PCI_IRQ_STAT_LINK_UP : Field := fld 0x010 1 1 .w1c 0
def PCI_IRQ_STAT_LINK_DOWN : Field := fld 0x010 0 0 .w1c 0
def PCI_ERR_STAT_HOST_ERROR : Field := fld 0x01c 0 0 .w1c 0

/-- Fields of the PCIe port page, part 0. -/
def PCI_fields0 : List Field :=
  [PCI_LINK_STAT_SPEED, PCI_LINK_STAT_WIDTH, PCI_LINK_STAT_DL_UP, PCI_LINK_STAT_FLIT, PCI_LINK_STAT_MGMT, PCI_LINK_STAT_STRAP, PCI_LINK_STAT_OVERRIDE, PCI_LINK_STAT_NUM_VFS, PCI_HOLD_CFG_HOLD_TIME, PCI_EVENTS_LINK_DOWNS, PCI_EVENTS_PERSTS, PCI_EVENTS_FLRS]
/-- Fields of the PCIe port page, part 1. -/
def PCI_fields1 : List Field :=
  [PCI_EVENTS_HOLD_EXPIRED, PCI_COUNT_CLEAR_CLR_EVENTS, PCI_IRQ_STAT_PERST, PCI_IRQ_STAT_FLR, PCI_IRQ_STAT_LINK_UP, PCI_IRQ_STAT_LINK_DOWN, PCI_ERR_STAT_HOST_ERROR]
/-- The fields of the PCIe port page that stand once. -/
def PCI_fields : List Field := PCI_fields0 ++ PCI_fields1

/-! ### Serrun port page: 14_mesh.md R431 -/

def SRN_LINK_STAT_STATE : Field := fld 0x040 31 29 .ro 0
def SRN_LINK_STAT_GROUPS : Field := fld 0x040 28 25 .ro 0
def SRN_LINK_STAT_HOLD_REASON : Field := fld 0x040 19 16 .ro 0
def SRN_LINK_STAT_NEG_MINOR : Field := fld 0x040 15 8 .ro 0
def SRN_LINK_CTRL_RETRAIN : Field := fld 0x044 1 1 .w1s 0
def SRN_LINK_CTRL_ENABLE : Field := fld 0x044 0 0 .rw 1
def SRN_ERR_CFG_WINDOW : Field := fld 0x048 31 16 .rw 1000
def SRN_ERR_CFG_THRESH : Field := fld 0x048 7 0 .rw 64
def SRN_CRC_RETRIES_RETRIES : Field := fld 0x04c 31 0 .ro 0
def SRN_REJECTS_STALE : Field := fld 0x050 31 24 .ro 0
def SRN_REJECTS_AHEAD : Field := fld 0x050 23 16 .ro 0
def SRN_REJECTS_CONFIG : Field := fld 0x050 15 8 .ro 0
def SRN_REJECTS_REFUSED : Field := fld 0x050 7 0 .ro 0
def SRN_TX_UNITS_UNITS : Field := fld 0x054 31 0 .ro 0
def SRN_RX_UNITS_UNITS : Field := fld 0x058 31 0 .ro 0
def SRN_LANE_STAT_DROPS : Field := fld 0x05c 31 16 .ro 0
def SRN_COUNT_CLEAR_CLR_TRAFFIC : Field := fld 0x07c 2 2 .wo 0
def SRN_COUNT_CLEAR_CLR_REJECTS : Field := fld 0x07c 1 1 .wo 0
def SRN_COUNT_CLEAR_CLR_ERR : Field := fld 0x07c 0 0 .wo 0
def SRN_PARTNER_CARD_WORD (n : Nat) : Field := fld (0x080 + 4 * n) 31 0 .ro 0
def SRN_IRQ_STAT_TWIN_CONFLICT : Field := fld 0x010 7 7 .w1c 0
def SRN_IRQ_STAT_MIRROR_LOST : Field := fld 0x010 6 6 .w1c 0
def SRN_IRQ_STAT_PLACED : Field := fld 0x010 5 5 .w1c 0
def SRN_IRQ_STAT_LANE_DROP : Field := fld 0x010 4 4 .w1c 0
def SRN_IRQ_STAT_HELD : Field := fld 0x010 3 3 .w1c 0
def SRN_IRQ_STAT_EASY : Field := fld 0x010 2 2 .w1c 0
def SRN_IRQ_STAT_LINK_UP : Field := fld 0x010 1 1 .w1c 0
def SRN_IRQ_STAT_LINK_DOWN : Field := fld 0x010 0 0 .w1c 0
def SRN_ERR_STAT_JOB_FAULT : Field := fld 0x01c 0 0 .w1c 0
def SRN_MESH_CFG_MESH_ID : Field := fld 0x100 31 31 .ro 0
def SRN_MESH_CFG_PLACED : Field := fld 0x100 30 30 .ro 0
def SRN_MESH_CFG_DIM_X_M1 : Field := fld 0x100 23 18 .ro 0
def SRN_MESH_CFG_DIM_Y_M1 : Field := fld 0x100 17 12 .ro 0
def SRN_MESH_CFG_X : Field := fld 0x100 11 6 .ro 0
def SRN_MESH_CFG_Y : Field := fld 0x100 5 0 .ro 0
def SRN_EPOCH_EPOCH : Field := fld 0x104 31 0 .ro 0
def SRN_CREW_DIGEST_DIGEST (n : Nat) : Field := fld (0x108 + 4 * n) 31 0 .ro 0
def SRN_ACK_CFG_ACK_TIMEOUT : Field := fld 0x118 31 16 .rw 10
def SRN_ACK_CFG_COLL_TIMEOUT : Field := fld 0x118 15 0 .rw 1000
def SRN_TWIN_STAT_MIRROR_LOST : Field := fld 0x11c 31 16 .w1c 0
def SRN_TWIN_STAT_CONFLICT : Field := fld 0x11c 15 0 .ro 0
def SRN_TWIN_SKIP_SKIPPED : Field := fld 0x120 31 0 .ro 0
def SRN_VERSION_MAJOR : Field := fld 0x124 23 16 .ro 1
def SRN_VERSION_MINOR : Field := fld 0x124 15 8 .ro 0
def SRN_PART_CFG_RX_EN (p : Nat) : Field := fld (0x140 + 4 * p) 31 31 .rw 0
def SRN_PART_CFG_TWIN_ROLE (p : Nat) : Field := fld (0x140 + 4 * p) 30 29 .rw 0
def SRN_PART_CFG_CREW_TAG (p : Nat) : Field := fld (0x140 + 4 * p) 15 0 .rw 0
def SRN_SHADOW_LO_ADDR_LO (p : Nat) : Field := fld (0x180 + 8 * p) 31 7 .rw 0
def SRN_SHADOW_HI_ADDR_HI (p : Nat) : Field := fld (0x184 + 8 * p) 15 0 .rw 0

/-- Fields of the Serrun port page, part 0. -/
def SRN_fields0 : List Field :=
  [SRN_LINK_STAT_STATE, SRN_LINK_STAT_GROUPS, SRN_LINK_STAT_HOLD_REASON, SRN_LINK_STAT_NEG_MINOR, SRN_LINK_CTRL_RETRAIN, SRN_LINK_CTRL_ENABLE, SRN_ERR_CFG_WINDOW, SRN_ERR_CFG_THRESH, SRN_CRC_RETRIES_RETRIES, SRN_REJECTS_STALE, SRN_REJECTS_AHEAD, SRN_REJECTS_CONFIG]
/-- Fields of the Serrun port page, part 1. -/
def SRN_fields1 : List Field :=
  [SRN_REJECTS_REFUSED, SRN_TX_UNITS_UNITS, SRN_RX_UNITS_UNITS, SRN_LANE_STAT_DROPS, SRN_COUNT_CLEAR_CLR_TRAFFIC, SRN_COUNT_CLEAR_CLR_REJECTS, SRN_COUNT_CLEAR_CLR_ERR, SRN_IRQ_STAT_TWIN_CONFLICT, SRN_IRQ_STAT_MIRROR_LOST, SRN_IRQ_STAT_PLACED, SRN_IRQ_STAT_LANE_DROP, SRN_IRQ_STAT_HELD]
/-- Fields of the Serrun port page, part 2. -/
def SRN_fields2 : List Field :=
  [SRN_IRQ_STAT_EASY, SRN_IRQ_STAT_LINK_UP, SRN_IRQ_STAT_LINK_DOWN, SRN_ERR_STAT_JOB_FAULT, SRN_MESH_CFG_MESH_ID, SRN_MESH_CFG_PLACED, SRN_MESH_CFG_DIM_X_M1, SRN_MESH_CFG_DIM_Y_M1, SRN_MESH_CFG_X, SRN_MESH_CFG_Y, SRN_EPOCH_EPOCH, SRN_ACK_CFG_ACK_TIMEOUT]
/-- Fields of the Serrun port page, part 3. -/
def SRN_fields3 : List Field :=
  [SRN_ACK_CFG_COLL_TIMEOUT, SRN_TWIN_STAT_MIRROR_LOST, SRN_TWIN_STAT_CONFLICT, SRN_TWIN_SKIP_SKIPPED, SRN_VERSION_MAJOR, SRN_VERSION_MINOR]
/-- The fields of the Serrun port page that stand once. -/
def SRN_fields : List Field := SRN_fields0 ++ SRN_fields1 ++ SRN_fields2 ++ SRN_fields3
/-- The array fields of the Serrun port page at offset `off`. -/
def SRN_arrayAt (off : Nat) : List Field :=
  if 0x080 ≤ off && off < 0x0c0 && (off - 0x080) % 4 == 0 then
    [SRN_PARTNER_CARD_WORD ((off - 0x080) / 4)]
  else
  if 0x108 ≤ off && off < 0x118 && (off - 0x108) % 4 == 0 then
    [SRN_CREW_DIGEST_DIGEST ((off - 0x108) / 4)]
  else
  if 0x140 ≤ off && off < 0x180 && (off - 0x140) % 4 == 0 then
    [SRN_PART_CFG_RX_EN ((off - 0x140) / 4), SRN_PART_CFG_TWIN_ROLE ((off - 0x140) / 4), SRN_PART_CFG_CREW_TAG ((off - 0x140) / 4)]
  else
  if 0x180 ≤ off && off < 0x200 && (off - 0x180) % 8 == 0 then
    [SRN_SHADOW_LO_ADDR_LO ((off - 0x180) / 8)]
  else
  if 0x184 ≤ off && off < 0x204 && (off - 0x184) % 8 == 0 then
    [SRN_SHADOW_HI_ADDR_HI ((off - 0x184) / 8)]
  else
  []

/-! ### tier B page: 11_memory.md R350 -/

def TB_CFG_SR_IDLE : Field := fld 0x040 31 16 .rw 0
def TB_CFG_PATROL_HOURS : Field := fld 0x040 15 8 .rw 24
def TB_CFG_STANDBY_KEEP : Field := fld 0x040 1 1 .rw 0
def TB_CFG_PATROL_EN : Field := fld 0x040 0 0 .rw 1
def TB_STAT_POWER : Field := fld 0x044 1 0 .ro 0
def TB_ECC_CFG_WINDOW : Field := fld 0x048 31 16 .rw 3600
def TB_ECC_CFG_UE_THRESH : Field := fld 0x048 15 8 .rw 4
def TB_ECC_CFG_CE_THRESH : Field := fld 0x048 7 0 .rw 128
def TB_ECC_STAT_CE : Field := fld 0x04c 31 16 .ro 0
def TB_ECC_STAT_UE : Field := fld 0x04c 15 0 .ro 0
def TB_SLICE_SEL_SLICE : Field := fld 0x050 9 0 .rw 0
def TB_SLICE_VALID : Field := fld 0x054 31 31 .rw 0
def TB_SLICE_RO : Field := fld 0x054 30 30 .rw 0
def TB_SLICE_RETIRED : Field := fld 0x054 29 29 .rw 0
def TB_SLICE_PARTITION : Field := fld 0x054 3 0 .rw 0
def TB_SLICE_STAT_CE : Field := fld 0x058 31 16 .ro 0
def TB_SLICE_STAT_UE : Field := fld 0x058 15 8 .ro 0
def TB_SLICE_STAT_REASON : Field := fld 0x058 1 0 .ro 0
def TB_FENCE_STAT_DEVICE : Field := fld 0x05c 31 16 .ro 0
def TB_FENCE_STAT_HOST : Field := fld 0x05c 15 0 .ro 0
def TB_SCRUB_STAT_SLICES_LEFT : Field := fld 0x060 31 16 .ro 0
def TB_SCRUB_STAT_BUSY : Field := fld 0x060 4 4 .ro 0
def TB_SCRUB_STAT_PARTITION : Field := fld 0x060 3 0 .ro 0
def TB_COUNT_CLEAR_CLR_GIRTH : Field := fld 0x07c 2 2 .wo 0
def TB_COUNT_CLEAR_CLR_FENCE : Field := fld 0x07c 1 1 .wo 0
def TB_COUNT_CLEAR_CLR_ECC : Field := fld 0x07c 0 0 .wo 0
def TB_GIRTH_CFG_RATE (p : Nat) : Field := fld (0x200 + 16 * p) 31 16 .rw 0
def TB_GIRTH_CFG_BURST (p : Nat) : Field := fld (0x200 + 16 * p) 15 0 .rw 256
def TB_GIRTH_BYTES_UNITS (p : Nat) : Field := fld (0x204 + 16 * p) 31 0 .ro 0
def TB_GIRTH_STALL_UNITS (p : Nat) : Field := fld (0x208 + 16 * p) 31 0 .ro 0
def TB_IRQ_STAT_SCRUB_DONE : Field := fld 0x010 1 1 .w1c 0
def TB_IRQ_STAT_SLICE_RETIRE : Field := fld 0x010 0 0 .w1c 0
def TB_ERR_STAT_ACCESS_FAULT : Field := fld 0x01c 2 2 .w1c 0
def TB_ERR_STAT_UE : Field := fld 0x01c 1 1 .w1c 0
def TB_ERR_STAT_CE : Field := fld 0x01c 0 0 .w1c 0

/-- Fields of the tier B page, part 0. -/
def TB_fields0 : List Field :=
  [TB_CFG_SR_IDLE, TB_CFG_PATROL_HOURS, TB_CFG_STANDBY_KEEP, TB_CFG_PATROL_EN, TB_STAT_POWER, TB_ECC_CFG_WINDOW, TB_ECC_CFG_UE_THRESH, TB_ECC_CFG_CE_THRESH, TB_ECC_STAT_CE, TB_ECC_STAT_UE, TB_SLICE_SEL_SLICE, TB_SLICE_VALID]
/-- Fields of the tier B page, part 1. -/
def TB_fields1 : List Field :=
  [TB_SLICE_RO, TB_SLICE_RETIRED, TB_SLICE_PARTITION, TB_SLICE_STAT_CE, TB_SLICE_STAT_UE, TB_SLICE_STAT_REASON, TB_FENCE_STAT_DEVICE, TB_FENCE_STAT_HOST, TB_SCRUB_STAT_SLICES_LEFT, TB_SCRUB_STAT_BUSY, TB_SCRUB_STAT_PARTITION, TB_COUNT_CLEAR_CLR_GIRTH]
/-- Fields of the tier B page, part 2. -/
def TB_fields2 : List Field :=
  [TB_COUNT_CLEAR_CLR_FENCE, TB_COUNT_CLEAR_CLR_ECC, TB_IRQ_STAT_SCRUB_DONE, TB_IRQ_STAT_SLICE_RETIRE, TB_ERR_STAT_ACCESS_FAULT, TB_ERR_STAT_UE, TB_ERR_STAT_CE]
/-- The fields of the tier B page that stand once. -/
def TB_fields : List Field := TB_fields0 ++ TB_fields1 ++ TB_fields2
/-- The array fields of the tier B page at offset `off`. -/
def TB_arrayAt (off : Nat) : List Field :=
  if 0x200 ≤ off && off < 0x300 && (off - 0x200) % 16 == 0 then
    [TB_GIRTH_CFG_RATE ((off - 0x200) / 16), TB_GIRTH_CFG_BURST ((off - 0x200) / 16)]
  else
  if 0x204 ≤ off && off < 0x304 && (off - 0x204) % 16 == 0 then
    [TB_GIRTH_BYTES_UNITS ((off - 0x204) / 16)]
  else
  if 0x208 ≤ off && off < 0x308 && (off - 0x208) % 16 == 0 then
    [TB_GIRTH_STALL_UNITS ((off - 0x208) / 16)]
  else
  []

/-! ### Start list page: 09_serving.md R295 -/

def SL_CFG_ENABLE : Field := fld 0x040 31 31 .rw 0
def SL_CFG_STEP_QUEUE : Field := fld 0x040 30 25 .rw 0
def SL_CFG_FAULT_LIMIT : Field := fld 0x040 24 22 .rw 3
def SL_CFG_GAIN : Field := fld 0x040 21 18 .rw 3
def SL_STAT_STEP_QUEUE_DOWN : Field := fld 0x044 18 18 .ro 0
def SL_STAT_STEP_LIVE : Field := fld 0x044 17 17 .ro 0
def SL_STAT_LIVE : Field := fld 0x044 16 0 .ro 0
def SL_PROG_LO_PROG : Field := fld 0x048 31 0 .rw 0
def SL_PROG_HI_PROG : Field := fld 0x04c 31 0 .rw 0
def SL_PROG_LEN_COMMANDS : Field := fld 0x050 15 0 .rw 0
def SL_STEP_AREA_ADDR : Field := fld 0x054 31 0 .rw 0
def SL_BATCH_LIMITS_MAX_TOKENS : Field := fld 0x058 31 16 .rw 4096
def SL_BATCH_LIMITS_MAX_DECODE : Field := fld 0x058 15 0 .rw 2048
def SL_PREFILL_LIMITS_MAX_PREFILL : Field := fld 0x05c 31 16 .rw 1200
def SL_PREFILL_LIMITS_CHUNK : Field := fld 0x05c 15 0 .rw 600
def SL_MODEL_A_A : Field := fld 0x060 31 0 .rw 0
def SL_MODEL_B_B : Field := fld 0x064 31 0 .rw 0
def SL_MODEL_C_C : Field := fld 0x068 31 0 .rw 0
def SL_MODEL_R_R : Field := fld 0x06c 23 0 .rw 65536
def SL_ADMIT_CFG_MARGIN : Field := fld 0x070 31 24 .rw 20
def SL_ADMIT_CFG_FLOOR : Field := fld 0x070 23 0 .rw 0
def SL_PAUSE_CFG_MOVE_DELAY : Field := fld 0x074 31 16 .rw 500
def SL_PAUSE_CFG_TTL_DEFAULT : Field := fld 0x074 11 0 .rw 120
def SL_FETCH_NS_NS : Field := fld 0x078 15 0 .rw 6800
def SL_COUNT_CLEAR_CLR_FAULT : Field := fld 0x07c 2 2 .wo 0
def SL_COUNT_CLEAR_CLR_BOAT : Field := fld 0x07c 1 1 .wo 0
def SL_COUNT_CLEAR_CLR_ADMIT : Field := fld 0x07c 0 0 .wo 0
def SL_ACCT_BASE_LO_BASE : Field := fld 0x080 31 0 .rw 0
def SL_ACCT_BASE_HI_BASE : Field := fld 0x084 31 0 .rw 0
def SL_STEP_LO_STEP : Field := fld 0x088 31 0 .ro 0
def SL_STEP_HI_STEP : Field := fld 0x08c 31 0 .ro 0
def SL_STEP_TIME_LAST : Field := fld 0x090 31 0 .ro 0
def SL_DECLINES_MEMORY : Field := fld 0x094 31 24 .ro 0
def SL_DECLINES_TIME : Field := fld 0x094 23 16 .ro 0
def SL_DECLINES_BUDGET : Field := fld 0x094 15 8 .ro 0
def SL_DECLINES_SLOTS : Field := fld 0x094 7 0 .ro 0
def SL_EVENTS_DUPLICATES : Field := fld 0x098 31 16 .ro 0
def SL_EVENTS_MISSED : Field := fld 0x098 15 0 .ro 0
def SL_BOAT_STAT_MOVES : Field := fld 0x09c 31 16 .ro 0
def SL_BOAT_STAT_EXPIRED : Field := fld 0x09c 15 0 .ro 0
def SL_FAULT_STAT_STEP_FAULTS : Field := fld 0x0a0 31 16 .ro 0
def SL_FAULT_STAT_MOVE_FAILED : Field := fld 0x0a0 15 8 .ro 0
def SL_FAULT_STAT_FAILED : Field := fld 0x0a0 7 0 .ro 0
def SL_SLOT_SEL_HANDLE : Field := fld 0x0a4 31 0 .rw 0
def SL_FINISH_CFG_IRQ_EN : Field := fld 0x0a8 16 16 .rw 0
def SL_FINISH_CFG_VECTOR : Field := fld 0x0a8 10 0 .rw 0
def SL_PART_SEL_PARTITION : Field := fld 0x0ac 3 0 .rw 0
def SL_FW_BASE_LO_BASE : Field := fld 0x0b0 31 0 .rw 0
def SL_FW_BASE_HI_BASE : Field := fld 0x0b4 31 0 .rw 0
def SL_SLOT_IMAGE_WORD (n : Nat) : Field := fld (0x100 + 4 * n) 31 0 .ro 0
def SL_IRQ_STAT_THROTTLE : Field := fld 0x010 4 4 .w1c 0
def SL_IRQ_STAT_MOVE_FAILED : Field := fld 0x010 3 3 .w1c 0
def SL_IRQ_STAT_DECLINE : Field := fld 0x010 2 2 .w1c 0
def SL_IRQ_STAT_STEP_FAULT : Field := fld 0x010 1 1 .w1c 0
def SL_IRQ_STAT_FINISH : Field := fld 0x010 0 0 .w1c 0
def SL_ERR_STAT_SLOT_UE : Field := fld 0x01c 2 2 .w1c 0
def SL_ERR_STAT_SLOT_CE : Field := fld 0x01c 1 1 .w1c 0
def SL_ERR_STAT_JOB_FAULT : Field := fld 0x01c 0 0 .w1c 0

/-- Fields of the Start list page, part 0. -/
def SL_fields0 : List Field :=
  [SL_CFG_ENABLE, SL_CFG_STEP_QUEUE, SL_CFG_FAULT_LIMIT, SL_CFG_GAIN, SL_STAT_STEP_QUEUE_DOWN, SL_STAT_STEP_LIVE, SL_STAT_LIVE, SL_PROG_LO_PROG, SL_PROG_HI_PROG, SL_PROG_LEN_COMMANDS, SL_STEP_AREA_ADDR, SL_BATCH_LIMITS_MAX_TOKENS]
/-- Fields of the Start list page, part 1. -/
def SL_fields1 : List Field :=
  [SL_BATCH_LIMITS_MAX_DECODE, SL_PREFILL_LIMITS_MAX_PREFILL, SL_PREFILL_LIMITS_CHUNK, SL_MODEL_A_A, SL_MODEL_B_B, SL_MODEL_C_C, SL_MODEL_R_R, SL_ADMIT_CFG_MARGIN, SL_ADMIT_CFG_FLOOR, SL_PAUSE_CFG_MOVE_DELAY, SL_PAUSE_CFG_TTL_DEFAULT, SL_FETCH_NS_NS]
/-- Fields of the Start list page, part 2. -/
def SL_fields2 : List Field :=
  [SL_COUNT_CLEAR_CLR_FAULT, SL_COUNT_CLEAR_CLR_BOAT, SL_COUNT_CLEAR_CLR_ADMIT, SL_ACCT_BASE_LO_BASE, SL_ACCT_BASE_HI_BASE, SL_STEP_LO_STEP, SL_STEP_HI_STEP, SL_STEP_TIME_LAST, SL_DECLINES_MEMORY, SL_DECLINES_TIME, SL_DECLINES_BUDGET, SL_DECLINES_SLOTS]
/-- Fields of the Start list page, part 3. -/
def SL_fields3 : List Field :=
  [SL_EVENTS_DUPLICATES, SL_EVENTS_MISSED, SL_BOAT_STAT_MOVES, SL_BOAT_STAT_EXPIRED, SL_FAULT_STAT_STEP_FAULTS, SL_FAULT_STAT_MOVE_FAILED, SL_FAULT_STAT_FAILED, SL_SLOT_SEL_HANDLE, SL_FINISH_CFG_IRQ_EN, SL_FINISH_CFG_VECTOR, SL_PART_SEL_PARTITION, SL_FW_BASE_LO_BASE]
/-- Fields of the Start list page, part 4. -/
def SL_fields4 : List Field :=
  [SL_FW_BASE_HI_BASE, SL_IRQ_STAT_THROTTLE, SL_IRQ_STAT_MOVE_FAILED, SL_IRQ_STAT_DECLINE, SL_IRQ_STAT_STEP_FAULT, SL_IRQ_STAT_FINISH, SL_ERR_STAT_SLOT_UE, SL_ERR_STAT_SLOT_CE, SL_ERR_STAT_JOB_FAULT]
/-- The fields of the Start list page that stand once. -/
def SL_fields : List Field := SL_fields0 ++ SL_fields1 ++ SL_fields2 ++ SL_fields3 ++ SL_fields4
/-- The array fields of the Start list page at offset `off`. -/
def SL_arrayAt (off : Nat) : List Field :=
  if 0x100 ≤ off && off < 0x180 && (off - 0x100) % 4 == 0 then
    [SL_SLOT_IMAGE_WORD ((off - 0x100) / 4)]
  else
  []

/-! ### partition control page: 12_hosts_partitions.md R375 -/

def HUB_PART_QUADS_QUADS : Field := fld 0x040 15 0 .rw 0
def HUB_PART_BIND_PF0 : Field := fld 0x044 31 31 .rw 0
def HUB_PART_BIND_PORT : Field := fld 0x044 30 30 .rw 0
def HUB_PART_BIND_VF : Field := fld 0x044 4 0 .rw 0
def HUB_PART_SYNC_SEM_FIRST : Field := fld 0x048 31 24 .rw 0
def HUB_PART_SYNC_SEM_LAST : Field := fld 0x048 23 16 .rw 0
def HUB_PART_SYNC_BAR_FIRST : Field := fld 0x048 15 8 .rw 0
def HUB_PART_SYNC_BAR_LAST : Field := fld 0x048 7 0 .rw 0
def HUB_PART_CFG_TENANT_RESET : Field := fld 0x04c 1 1 .rw 0
def HUB_PART_CFG_REENABLE_POLICY : Field := fld 0x04c 0 0 .rw 0
def HUB_PART_CTRL_TEARDOWN : Field := fld 0x050 4 4 .w1s 0
def HUB_PART_CTRL_RECLAIM : Field := fld 0x050 3 3 .w1s 0
def HUB_PART_CTRL_RELEASE : Field := fld 0x050 2 2 .w1s 0
def HUB_PART_CTRL_RESET : Field := fld 0x050 1 1 .w1s 0
def HUB_PART_CTRL_CREATE : Field := fld 0x050 0 0 .w1s 0
def HUB_PART_STATE_STATE : Field := fld 0x054 31 29 .ro 0
def HUB_PART_STATE_FUNC_PRESENT : Field := fld 0x054 28 28 .ro 0
def HUB_PART_STATE_LINK_UP : Field := fld 0x054 27 27 .ro 0
def HUB_PART_STATE_DROPPED : Field := fld 0x054 23 16 .ro 0
def HUB_PART_STATE_REJECTS : Field := fld 0x054 15 8 .ro 0
def HUB_PART_PENDING_LO_PENDING_LO : Field := fld 0x058 31 0 .ro 0
def HUB_PART_PENDING_HI_PENDING_HI : Field := fld 0x05c 31 0 .ro 0
def HUB_PART_WIN_LO_BASE_LO : Field := fld 0x060 31 30 .rw 0
def HUB_PART_WIN_HI_BASE_HI : Field := fld 0x064 15 0 .rw 0
def HUB_PART_HOLD_LEFT : Field := fld 0x068 15 0 .ro 0
def HUB_PART_CMD_STAT_CODE : Field := fld 0x06c 7 0 .ro 0
def HUB_PART_IRQ_STAT_HOLD_ENDED : Field := fld 0x010 3 3 .w1c 0
def HUB_PART_IRQ_STAT_HOLD_ENTERED : Field := fld 0x010 2 2 .w1c 0
def HUB_PART_IRQ_STAT_SCRUB_DONE : Field := fld 0x010 1 1 .w1c 0
def HUB_PART_IRQ_STAT_CMD_DONE : Field := fld 0x010 0 0 .w1c 0

/-- Fields of the partition control page, part 0. -/
def HUB_PART_fields0 : List Field :=
  [HUB_PART_QUADS_QUADS, HUB_PART_BIND_PF0, HUB_PART_BIND_PORT, HUB_PART_BIND_VF, HUB_PART_SYNC_SEM_FIRST, HUB_PART_SYNC_SEM_LAST, HUB_PART_SYNC_BAR_FIRST, HUB_PART_SYNC_BAR_LAST, HUB_PART_CFG_TENANT_RESET, HUB_PART_CFG_REENABLE_POLICY, HUB_PART_CTRL_TEARDOWN, HUB_PART_CTRL_RECLAIM]
/-- Fields of the partition control page, part 1. -/
def HUB_PART_fields1 : List Field :=
  [HUB_PART_CTRL_RELEASE, HUB_PART_CTRL_RESET, HUB_PART_CTRL_CREATE, HUB_PART_STATE_STATE, HUB_PART_STATE_FUNC_PRESENT, HUB_PART_STATE_LINK_UP, HUB_PART_STATE_DROPPED, HUB_PART_STATE_REJECTS, HUB_PART_PENDING_LO_PENDING_LO, HUB_PART_PENDING_HI_PENDING_HI, HUB_PART_WIN_LO_BASE_LO, HUB_PART_WIN_HI_BASE_HI]
/-- Fields of the partition control page, part 2. -/
def HUB_PART_fields2 : List Field :=
  [HUB_PART_HOLD_LEFT, HUB_PART_CMD_STAT_CODE, HUB_PART_IRQ_STAT_HOLD_ENDED, HUB_PART_IRQ_STAT_HOLD_ENTERED, HUB_PART_IRQ_STAT_SCRUB_DONE, HUB_PART_IRQ_STAT_CMD_DONE]
/-- The fields of the partition control page that stand once. -/
def HUB_PART_fields : List Field := HUB_PART_fields0 ++ HUB_PART_fields1 ++ HUB_PART_fields2

/-! ### queue page: 06_commands.md R201 -/

def SQ_DOORBELL_PI : Field := fld 0x040 31 0 .wo 0
def SQ_CFG_KIND : Field := fld 0x044 31 30 .rw 0
def SQ_CFG_LOC : Field := fld 0x044 29 29 .rw 0
def SQ_CFG_SIZE_LOG2 : Field := fld 0x044 28 24 .rw 0
def SQ_CFG_QUAD : Field := fld 0x044 23 20 .rw 0
def SQ_CFG_SHARE_GROUP : Field := fld 0x044 19 16 .rw 0
def SQ_CFG_URGENT : Field := fld 0x044 15 15 .rw 0
def SQ_CFG_MSIX : Field := fld 0x044 10 0 .rw 0
def SQ_BASE_LO_BASE : Field := fld 0x048 31 0 .rw 0
def SQ_BASE_HI_BASE : Field := fld 0x04c 31 0 .rw 0
def SQ_CQ_BASE_LO_CQ_BASE : Field := fld 0x050 31 0 .rw 0
def SQ_CQ_BASE_HI_CQ_BASE : Field := fld 0x054 31 0 .rw 0
def SQ_CQ_CFG_LOC : Field := fld 0x058 31 31 .rw 0
def SQ_CQ_CFG_SIZE_LOG2 : Field := fld 0x058 28 24 .rw 0
def SQ_CQ_HEAD_HEAD : Field := fld 0x05c 31 0 .rw 0
def SQ_CTRL_RESUME : Field := fld 0x060 2 2 .w1s 0
def SQ_CTRL_RESET : Field := fld 0x060 1 1 .w1s 0
def SQ_CTRL_ENABLE : Field := fld 0x060 0 0 .rw 0
def SQ_STAT_STATE : Field := fld 0x064 31 29 .ro 0
def SQ_STAT_CQ_FULL : Field := fld 0x064 28 28 .ro 0
def SQ_STAT_CFG_ERR : Field := fld 0x064 27 27 .ro 0
def SQ_STAT_JOBS_LIVE : Field := fld 0x064 15 8 .ro 0
def SQ_PI_PI : Field := fld 0x068 31 0 .ro 0
def SQ_CI_CI : Field := fld 0x06c 31 0 .ro 0
def SQ_CQ_TAIL_TAIL : Field := fld 0x070 31 0 .ro 0
def SQ_JOBS_SUBMITTED_SUBMITTED : Field := fld 0x074 31 0 .ro 0
def SQ_JOBS_COMPLETED_COMPLETED : Field := fld 0x078 31 0 .ro 0
def SQ_IGNORED_HOST_REJECT : Field := fld 0x07c 31 24 .ro 0
def SQ_IGNORED_DROPPED : Field := fld 0x07c 23 16 .ro 0
def SQ_IGNORED_STALE : Field := fld 0x07c 15 8 .ro 0
def SQ_IGNORED_INVALID : Field := fld 0x07c 7 0 .ro 0
def SQ_HOST_SIGNAL_SEM : Field := fld 0x080 31 16 .wo 0
def SQ_HOST_SIGNAL_ADD : Field := fld 0x080 15 0 .wo 0
def SQ_FAULT_JOB_TAG : Field := fld 0x084 31 16 .ro 0
def SQ_FAULT_CODE : Field := fld 0x084 7 0 .ro 0

/-- Fields of the queue page, part 0. -/
def SQ_fields0 : List Field :=
  [SQ_DOORBELL_PI, SQ_CFG_KIND, SQ_CFG_LOC, SQ_CFG_SIZE_LOG2, SQ_CFG_QUAD, SQ_CFG_SHARE_GROUP, SQ_CFG_URGENT, SQ_CFG_MSIX, SQ_BASE_LO_BASE, SQ_BASE_HI_BASE, SQ_CQ_BASE_LO_CQ_BASE, SQ_CQ_BASE_HI_CQ_BASE]
/-- Fields of the queue page, part 1. -/
def SQ_fields1 : List Field :=
  [SQ_CQ_CFG_LOC, SQ_CQ_CFG_SIZE_LOG2, SQ_CQ_HEAD_HEAD, SQ_CTRL_RESUME, SQ_CTRL_RESET, SQ_CTRL_ENABLE, SQ_STAT_STATE, SQ_STAT_CQ_FULL, SQ_STAT_CFG_ERR, SQ_STAT_JOBS_LIVE, SQ_PI_PI, SQ_CI_CI]
/-- Fields of the queue page, part 2. -/
def SQ_fields2 : List Field :=
  [SQ_CQ_TAIL_TAIL, SQ_JOBS_SUBMITTED_SUBMITTED, SQ_JOBS_COMPLETED_COMPLETED, SQ_IGNORED_HOST_REJECT, SQ_IGNORED_DROPPED, SQ_IGNORED_STALE, SQ_IGNORED_INVALID, SQ_HOST_SIGNAL_SEM, SQ_HOST_SIGNAL_ADD, SQ_FAULT_JOB_TAG, SQ_FAULT_CODE]
/-- The fields of the queue page that stand once. -/
def SQ_fields : List Field := SQ_fields0 ++ SQ_fields1 ++ SQ_fields2

/-! ### Rein engine page: 08_attention_kv.md R257 -/

def REIN_CFG_SKIP_EN : Field := fld 0x040 0 0 .rw 1
def REIN_STAT_JOB_TAG : Field := fld 0x044 31 16 .ro 0
def REIN_STAT_PARTITION : Field := fld 0x044 15 12 .ro 0
def REIN_STAT_CONTEXTS : Field := fld 0x044 4 0 .ro 0
def REIN_BUSY_LO_BUSY : Field := fld 0x048 31 0 .ro 0
def REIN_BUSY_HI_BUSY : Field := fld 0x04c 31 0 .ro 0
def REIN_SCORES_LO_SCORES : Field := fld 0x050 31 0 .ro 0
def REIN_SCORES_HI_SCORES : Field := fld 0x054 31 0 .ro 0
def REIN_PAGES_VISITED_VISITED : Field := fld 0x058 31 0 .ro 0
def REIN_PAGES_SKIPPED_SKIPPED : Field := fld 0x05c 31 0 .ro 0
def REIN_PAGES_READ_READ : Field := fld 0x060 31 0 .ro 0
def REIN_COND_ABSENT : Field := fld 0x064 31 16 .ro 0
def REIN_COND_EMPTY : Field := fld 0x064 15 0 .ro 0
def REIN_UNFILLED_UNFILLED : Field := fld 0x068 31 0 .ro 0
def REIN_ECC_STAT_CE : Field := fld 0x06c 31 16 .ro 0
def REIN_ECC_STAT_UE : Field := fld 0x06c 15 0 .ro 0
def REIN_COUNT_CLEAR_CLR_FMT : Field := fld 0x07c 3 3 .wo 0
def REIN_COUNT_CLEAR_CLR_ECC : Field := fld 0x07c 2 2 .wo 0
def REIN_COUNT_CLEAR_CLR_COND : Field := fld 0x07c 1 1 .wo 0
def REIN_COUNT_CLEAR_CLR_WORK : Field := fld 0x07c 0 0 .wo 0
def REIN_FMT_COUNT_COUNT (n : Nat) : Field := fld (0x080 + 4 * n) 15 0 .ro 0
def REIN_FMT_FLAGS_FLAG : Field := fld 0x100 31 1 .w1c 0
def REIN_FMT_FIRST_JOB_TAG : Field := fld 0x104 31 16 .ro 0
def REIN_FMT_FIRST_CODE : Field := fld 0x104 7 0 .ro 0
def REIN_IRQ_STAT_FMT : Field := fld 0x010 0 0 .w1c 0
def REIN_ERR_STAT_JOB_FAULT : Field := fld 0x01c 2 2 .w1c 0
def REIN_ERR_STAT_UE : Field := fld 0x01c 1 1 .w1c 0
def REIN_ERR_STAT_CE : Field := fld 0x01c 0 0 .w1c 0

/-- Fields of the Rein engine page, part 0. -/
def REIN_fields0 : List Field :=
  [REIN_CFG_SKIP_EN, REIN_STAT_JOB_TAG, REIN_STAT_PARTITION, REIN_STAT_CONTEXTS, REIN_BUSY_LO_BUSY, REIN_BUSY_HI_BUSY, REIN_SCORES_LO_SCORES, REIN_SCORES_HI_SCORES, REIN_PAGES_VISITED_VISITED, REIN_PAGES_SKIPPED_SKIPPED, REIN_PAGES_READ_READ, REIN_COND_ABSENT]
/-- Fields of the Rein engine page, part 1. -/
def REIN_fields1 : List Field :=
  [REIN_COND_EMPTY, REIN_UNFILLED_UNFILLED, REIN_ECC_STAT_CE, REIN_ECC_STAT_UE, REIN_COUNT_CLEAR_CLR_FMT, REIN_COUNT_CLEAR_CLR_ECC, REIN_COUNT_CLEAR_CLR_COND, REIN_COUNT_CLEAR_CLR_WORK, REIN_FMT_FLAGS_FLAG, REIN_FMT_FIRST_JOB_TAG, REIN_FMT_FIRST_CODE, REIN_IRQ_STAT_FMT]
/-- Fields of the Rein engine page, part 2. -/
def REIN_fields2 : List Field :=
  [REIN_ERR_STAT_JOB_FAULT, REIN_ERR_STAT_UE, REIN_ERR_STAT_CE]
/-- The fields of the Rein engine page that stand once. -/
def REIN_fields : List Field := REIN_fields0 ++ REIN_fields1 ++ REIN_fields2
/-- The array fields of the Rein engine page at offset `off`. -/
def REIN_arrayAt (off : Nat) : List Field :=
  if 0x080 ≤ off && off < 0x100 && (off - 0x080) % 4 == 0 then
    [REIN_FMT_COUNT_COUNT ((off - 0x080) / 4)]
  else
  []

/-! ### Skive engine page: 10_compression.md R317 -/

def SKV_STAT_JOB_TAG : Field := fld 0x040 31 16 .ro 0
def SKV_STAT_PARTITION : Field := fld 0x040 15 12 .ro 0
def SKV_STAT_CONTEXTS : Field := fld 0x040 4 0 .ro 0
def SKV_BUSY_LO_BUSY : Field := fld 0x044 31 0 .ro 0
def SKV_BUSY_HI_BUSY : Field := fld 0x048 31 0 .ro 0
def SKV_IN_LO_IN : Field := fld 0x04c 31 0 .ro 0
def SKV_IN_HI_IN : Field := fld 0x050 31 0 .ro 0
def SKV_OUT_LO_OUT : Field := fld 0x054 31 0 .ro 0
def SKV_OUT_HI_OUT : Field := fld 0x058 31 0 .ro 0
def SKV_UNITS_ENCODED : Field := fld 0x05c 31 16 .ro 0
def SKV_UNITS_RAW : Field := fld 0x05c 15 0 .ro 0
def SKV_COND_BLOCK_CORRUPT : Field := fld 0x060 31 24 .ro 0
def SKV_COND_INDEX_INVALID : Field := fld 0x060 23 16 .ro 0
def SKV_COND_CLASS_MISSING : Field := fld 0x060 15 8 .ro 0
def SKV_COND_KV_UNPACK : Field := fld 0x060 7 0 .ro 0
def SKV_ECC_STAT_CE : Field := fld 0x064 31 16 .ro 0
def SKV_ECC_STAT_UE : Field := fld 0x064 15 0 .ro 0
def SKV_CTX_LOAD_PARTITION : Field := fld 0x068 3 0 .wo 0
def SKV_CTX_STAT_LOADED : Field := fld 0x06c 31 16 .ro 0
def SKV_CTX_STAT_REJECTED : Field := fld 0x06c 15 0 .ro 0
def SKV_COUNT_CLEAR_CLR_ECC : Field := fld 0x07c 2 2 .wo 0
def SKV_COUNT_CLEAR_CLR_COND : Field := fld 0x07c 1 1 .wo 0
def SKV_COUNT_CLEAR_CLR_WORK : Field := fld 0x07c 0 0 .wo 0
def SKV_CTX_LO_ADDR_LO (p : Nat) : Field := fld (0x100 + 8 * p) 31 6 .rw 0
def SKV_CTX_HI_ADDR_HI (p : Nat) : Field := fld (0x104 + 8 * p) 15 0 .rw 0
def SKV_IRQ_STAT_CTX_REJECT : Field := fld 0x010 1 1 .w1c 0
def SKV_IRQ_STAT_CTX_DONE : Field := fld 0x010 0 0 .w1c 0
def SKV_ERR_STAT_SLOT_CORRUPT : Field := fld 0x01c 3 3 .w1c 0
def SKV_ERR_STAT_JOB_FAULT : Field := fld 0x01c 2 2 .w1c 0
def SKV_ERR_STAT_UE : Field := fld 0x01c 1 1 .w1c 0
def SKV_ERR_STAT_CE : Field := fld 0x01c 0 0 .w1c 0

/-- Fields of the Skive engine page, part 0. -/
def SKV_fields0 : List Field :=
  [SKV_STAT_JOB_TAG, SKV_STAT_PARTITION, SKV_STAT_CONTEXTS, SKV_BUSY_LO_BUSY, SKV_BUSY_HI_BUSY, SKV_IN_LO_IN, SKV_IN_HI_IN, SKV_OUT_LO_OUT, SKV_OUT_HI_OUT, SKV_UNITS_ENCODED, SKV_UNITS_RAW, SKV_COND_BLOCK_CORRUPT]
/-- Fields of the Skive engine page, part 1. -/
def SKV_fields1 : List Field :=
  [SKV_COND_INDEX_INVALID, SKV_COND_CLASS_MISSING, SKV_COND_KV_UNPACK, SKV_ECC_STAT_CE, SKV_ECC_STAT_UE, SKV_CTX_LOAD_PARTITION, SKV_CTX_STAT_LOADED, SKV_CTX_STAT_REJECTED, SKV_COUNT_CLEAR_CLR_ECC, SKV_COUNT_CLEAR_CLR_COND, SKV_COUNT_CLEAR_CLR_WORK, SKV_IRQ_STAT_CTX_REJECT]
/-- Fields of the Skive engine page, part 2. -/
def SKV_fields2 : List Field :=
  [SKV_IRQ_STAT_CTX_DONE, SKV_ERR_STAT_SLOT_CORRUPT, SKV_ERR_STAT_JOB_FAULT, SKV_ERR_STAT_UE, SKV_ERR_STAT_CE]
/-- The fields of the Skive engine page that stand once. -/
def SKV_fields : List Field := SKV_fields0 ++ SKV_fields1 ++ SKV_fields2
/-- The array fields of the Skive engine page at offset `off`. -/
def SKV_arrayAt (off : Nat) : List Field :=
  if 0x100 ≤ off && off < 0x180 && (off - 0x100) % 8 == 0 then
    [SKV_CTX_LO_ADDR_LO ((off - 0x100) / 8)]
  else
  if 0x104 ≤ off && off < 0x184 && (off - 0x104) % 8 == 0 then
    [SKV_CTX_HI_ADDR_HI ((off - 0x104) / 8)]
  else
  []

/-! ### page walker page: 08_attention_kv.md R258 -/

def PW_CFG_LOW_MARK : Field := fld 0x040 31 16 .rw 0
def PW_CFG_LAB_EN : Field := fld 0x040 0 0 .rw 1
def PW_STAT_WALKS_LIVE : Field := fld 0x044 31 16 .ro 0
def PW_STAT_LAB_VALID : Field := fld 0x044 9 0 .ro 0
def PW_LAB_HITS_HITS : Field := fld 0x048 31 0 .ro 0
def PW_LAB_MISSES_MISSES : Field := fld 0x04c 31 0 .ro 0
def PW_PART_SEL_PARTITION : Field := fld 0x050 3 0 .rw 0
def PW_EPOCH_LO_EPOCH : Field := fld 0x054 31 0 .ro 0
def PW_EPOCH_HI_EPOCH : Field := fld 0x058 31 0 .ro 0
def PW_OLDEST_LO_OLDEST : Field := fld 0x05c 31 0 .ro 0
def PW_OLDEST_HI_OLDEST : Field := fld 0x060 31 0 .ro 0
def PW_FREE_A_DEPTH : Field := fld 0x064 30 0 .rw 0
def PW_FREE_B_DEPTH : Field := fld 0x068 30 0 .rw 0
def PW_RETIRE_A_PENDING : Field := fld 0x06c 30 0 .ro 0
def PW_RETIRE_B_PENDING : Field := fld 0x070 30 0 .ro 0
def PW_MODEL_LOAD_MODEL : Field := fld 0x074 3 0 .wo 0
def PW_MODEL_STAT_LOADED : Field := fld 0x078 31 16 .ro 0
def PW_MODEL_STAT_REJECTED : Field := fld 0x078 15 0 .ro 0
def PW_COUNT_CLEAR_CLR_COND : Field := fld 0x07c 2 2 .wo 0
def PW_COUNT_CLEAR_CLR_EDIT : Field := fld 0x07c 1 1 .wo 0
def PW_COUNT_CLEAR_CLR_LAB : Field := fld 0x07c 0 0 .wo 0
def PW_EDIT_STAT_EDITS : Field := fld 0x080 31 16 .ro 0
def PW_EDIT_STAT_COW : Field := fld 0x080 15 0 .ro 0
def PW_COND_FRAME_RANGE : Field := fld 0x084 31 16 .ro 0
def PW_COND_REF_UNDERFLOW : Field := fld 0x084 15 0 .ro 0
def PW_CTX_LO_ADDR_LO (p : Nat) : Field := fld (0x100 + 8 * p) 31 7 .rw 0
def PW_CTX_HI_ADDR_HI (p : Nat) : Field := fld (0x104 + 8 * p) 15 0 .rw 0
def PW_IRQ_STAT_POOL_LOW : Field := fld 0x010 1 1 .w1c 0
def PW_IRQ_STAT_MODEL_DONE : Field := fld 0x010 0 0 .w1c 0
def PW_ERR_STAT_JOB_FAULT : Field := fld 0x01c 2 2 .w1c 0
def PW_ERR_STAT_LAB_PARITY : Field := fld 0x01c 1 1 .w1c 0
def PW_ERR_STAT_POOL_EMPTY : Field := fld 0x01c 0 0 .w1c 0

/-- Fields of the page walker page, part 0. -/
def PW_fields0 : List Field :=
  [PW_CFG_LOW_MARK, PW_CFG_LAB_EN, PW_STAT_WALKS_LIVE, PW_STAT_LAB_VALID, PW_LAB_HITS_HITS, PW_LAB_MISSES_MISSES, PW_PART_SEL_PARTITION, PW_EPOCH_LO_EPOCH, PW_EPOCH_HI_EPOCH, PW_OLDEST_LO_OLDEST, PW_OLDEST_HI_OLDEST, PW_FREE_A_DEPTH]
/-- Fields of the page walker page, part 1. -/
def PW_fields1 : List Field :=
  [PW_FREE_B_DEPTH, PW_RETIRE_A_PENDING, PW_RETIRE_B_PENDING, PW_MODEL_LOAD_MODEL, PW_MODEL_STAT_LOADED, PW_MODEL_STAT_REJECTED, PW_COUNT_CLEAR_CLR_COND, PW_COUNT_CLEAR_CLR_EDIT, PW_COUNT_CLEAR_CLR_LAB, PW_EDIT_STAT_EDITS, PW_EDIT_STAT_COW, PW_COND_FRAME_RANGE]
/-- Fields of the page walker page, part 2. -/
def PW_fields2 : List Field :=
  [PW_COND_REF_UNDERFLOW, PW_IRQ_STAT_POOL_LOW, PW_IRQ_STAT_MODEL_DONE, PW_ERR_STAT_JOB_FAULT, PW_ERR_STAT_LAB_PARITY, PW_ERR_STAT_POOL_EMPTY]
/-- The fields of the page walker page that stand once. -/
def PW_fields : List Field := PW_fields0 ++ PW_fields1 ++ PW_fields2
/-- The array fields of the page walker page at offset `off`. -/
def PW_arrayAt (off : Nat) : List Field :=
  if 0x100 ≤ off && off < 0x180 && (off - 0x100) % 8 == 0 then
    [PW_CTX_LO_ADDR_LO ((off - 0x100) / 8)]
  else
  if 0x104 ≤ off && off < 0x184 && (off - 0x104) % 8 == 0 then
    [PW_CTX_HI_ADDR_HI ((off - 0x104) / 8)]
  else
  []

/-! ### HBM controller page: 11_memory.md R349 -/

def HBM_CFG_PATROL_HOURS : Field := fld 0x040 31 24 .rw 24
def HBM_CFG_PATROL_EN : Field := fld 0x040 0 0 .rw 1
def HBM_STAT_USABLE_GIB : Field := fld 0x044 31 24 .ro 96
def HBM_STAT_RETIRE_STATE : Field := fld 0x044 23 21 .ro 0
def HBM_STAT_SPARE_EXHAUSTED : Field := fld 0x044 20 20 .ro 0
def HBM_STAT_RETIRE_CHANNEL : Field := fld 0x044 4 0 .ro 0
def HBM_ECC_CFG_WINDOW : Field := fld 0x048 31 16 .rw 3600
def HBM_ECC_CFG_UE_THRESH : Field := fld 0x048 15 8 .rw 4
def HBM_ECC_CFG_CE_THRESH : Field := fld 0x048 7 0 .rw 128
def HBM_ECC_STAT_CE : Field := fld 0x04c 31 16 .ro 0
def HBM_ECC_STAT_UE : Field := fld 0x04c 15 0 .ro 0
def HBM_CH_SEL_CHANNEL : Field := fld 0x050 4 0 .rw 0
def HBM_CH_STAT_CE : Field := fld 0x054 31 16 .ro 0
def HBM_CH_STAT_UE : Field := fld 0x054 15 8 .ro 0
def HBM_RETIRE_CTRL_ACCEPT : Field := fld 0x058 0 0 .w1s 0
def HBM_RETIRE_PROGRESS_COPIED : Field := fld 0x05c 31 0 .ro 0
def HBM_FENCE_STAT_DEVICE : Field := fld 0x060 31 16 .ro 0
def HBM_FENCE_STAT_HOST : Field := fld 0x060 15 0 .ro 0
def HBM_ADDER_STAT_GRANULES : Field := fld 0x064 31 0 .ro 0
def HBM_RANGE_STAT_REASON : Field := fld 0x068 9 8 .ro 0
def HBM_RANGE_STAT_PARTITION : Field := fld 0x068 5 2 .ro 0
def HBM_RANGE_STAT_RANGE : Field := fld 0x068 1 0 .ro 0
def HBM_SCRUB_STAT_UNITS_LEFT : Field := fld 0x06c 31 16 .ro 0
def HBM_SCRUB_STAT_BUSY : Field := fld 0x06c 4 4 .ro 0
def HBM_SCRUB_STAT_PARTITION : Field := fld 0x06c 3 0 .ro 0
def HBM_COUNT_CLEAR_CLR_GIRTH : Field := fld 0x07c 2 2 .wo 0
def HBM_COUNT_CLEAR_CLR_FENCE : Field := fld 0x07c 1 1 .wo 0
def HBM_COUNT_CLEAR_CLR_ECC : Field := fld 0x07c 0 0 .wo 0
def HBM_RANGE_VALID (p r : Nat) : Field := fld (0x100 + 16 * p + 4 * r) 31 31 .rw 0
def HBM_RANGE_RO (p r : Nat) : Field := fld (0x100 + 16 * p + 4 * r) 30 30 .rw 0
def HBM_RANGE_LAST (p r : Nat) : Field := fld (0x100 + 16 * p + 4 * r) 26 16 .rw 0
def HBM_RANGE_FIRST (p r : Nat) : Field := fld (0x100 + 16 * p + 4 * r) 10 0 .rw 0
def HBM_GIRTH_CFG_RATE (p : Nat) : Field := fld (0x200 + 16 * p) 31 16 .rw 0
def HBM_GIRTH_CFG_BURST (p : Nat) : Field := fld (0x200 + 16 * p) 15 0 .rw 256
def HBM_GIRTH_BYTES_UNITS (p : Nat) : Field := fld (0x204 + 16 * p) 31 0 .ro 0
def HBM_GIRTH_STALL_UNITS (p : Nat) : Field := fld (0x208 + 16 * p) 31 0 .ro 0
def HBM_IRQ_STAT_SCRUB_DONE : Field := fld 0x010 2 2 .w1c 0
def HBM_IRQ_STAT_RETIRE_DONE : Field := fld 0x010 1 1 .w1c 0
def HBM_IRQ_STAT_RETIRE_REQUEST : Field := fld 0x010 0 0 .w1c 0
def HBM_ERR_STAT_SPARE_EXHAUSTED : Field := fld 0x01c 3 3 .w1c 0
def HBM_ERR_STAT_ACCESS_FAULT : Field := fld 0x01c 2 2 .w1c 0
def HBM_ERR_STAT_UE : Field := fld 0x01c 1 1 .w1c 0
def HBM_ERR_STAT_CE : Field := fld 0x01c 0 0 .w1c 0

/-- Fields of the HBM controller page, part 0. -/
def HBM_fields0 : List Field :=
  [HBM_CFG_PATROL_HOURS, HBM_CFG_PATROL_EN, HBM_STAT_USABLE_GIB, HBM_STAT_RETIRE_STATE, HBM_STAT_SPARE_EXHAUSTED, HBM_STAT_RETIRE_CHANNEL, HBM_ECC_CFG_WINDOW, HBM_ECC_CFG_UE_THRESH, HBM_ECC_CFG_CE_THRESH, HBM_ECC_STAT_CE, HBM_ECC_STAT_UE, HBM_CH_SEL_CHANNEL]
/-- Fields of the HBM controller page, part 1. -/
def HBM_fields1 : List Field :=
  [HBM_CH_STAT_CE, HBM_CH_STAT_UE, HBM_RETIRE_CTRL_ACCEPT, HBM_RETIRE_PROGRESS_COPIED, HBM_FENCE_STAT_DEVICE, HBM_FENCE_STAT_HOST, HBM_ADDER_STAT_GRANULES, HBM_RANGE_STAT_REASON, HBM_RANGE_STAT_PARTITION, HBM_RANGE_STAT_RANGE, HBM_SCRUB_STAT_UNITS_LEFT, HBM_SCRUB_STAT_BUSY]
/-- Fields of the HBM controller page, part 2. -/
def HBM_fields2 : List Field :=
  [HBM_SCRUB_STAT_PARTITION, HBM_COUNT_CLEAR_CLR_GIRTH, HBM_COUNT_CLEAR_CLR_FENCE, HBM_COUNT_CLEAR_CLR_ECC, HBM_IRQ_STAT_SCRUB_DONE, HBM_IRQ_STAT_RETIRE_DONE, HBM_IRQ_STAT_RETIRE_REQUEST, HBM_ERR_STAT_SPARE_EXHAUSTED, HBM_ERR_STAT_ACCESS_FAULT, HBM_ERR_STAT_UE, HBM_ERR_STAT_CE]
/-- The fields of the HBM controller page that stand once. -/
def HBM_fields : List Field := HBM_fields0 ++ HBM_fields1 ++ HBM_fields2
/-- The array fields of the HBM controller page at offset `off`. -/
def HBM_arrayAt (off : Nat) : List Field :=
  if 0x100 ≤ off && off < 0x200 && off % 4 == 0 then
    [HBM_RANGE_VALID ((off - 0x100) / 16) ((off - 0x100) % 16 / 4), HBM_RANGE_RO ((off - 0x100) / 16) ((off - 0x100) % 16 / 4), HBM_RANGE_LAST ((off - 0x100) / 16) ((off - 0x100) % 16 / 4), HBM_RANGE_FIRST ((off - 0x100) / 16) ((off - 0x100) % 16 / 4)]
  else
  if 0x200 ≤ off && off < 0x300 && (off - 0x200) % 16 == 0 then
    [HBM_GIRTH_CFG_RATE ((off - 0x200) / 16), HBM_GIRTH_CFG_BURST ((off - 0x200) / 16)]
  else
  if 0x204 ≤ off && off < 0x304 && (off - 0x204) % 16 == 0 then
    [HBM_GIRTH_BYTES_UNITS ((off - 0x204) / 16)]
  else
  if 0x208 ≤ off && off < 0x308 && (off - 0x208) % 16 == 0 then
    [HBM_GIRTH_STALL_UNITS ((off - 0x208) / 16)]
  else
  []

/-! ### quad front page: 04_precision.md R142, 06_commands.md R202, 07_scheduling.md R227 -/

def QF_STORM_CFG_LIMIT : Field := fld 0x300 31 16 .rw 4096
def QF_STORM_CFG_PERIOD : Field := fld 0x300 15 0 .rw 1000
def QF_STORM_STAT_STORMED : Field := fld 0x304 31 31 .ro 0
def QF_STORM_STAT_STEPS : Field := fld 0x304 30 16 .ro 0
def QF_STORM_STAT_COUNT : Field := fld 0x304 15 0 .ro 0
def QF_WIDEN_EVENTS_EVENTS : Field := fld 0x308 31 0 .ro 0
def QF_CFG_WAIT_TIMEOUT : Field := fld 0x040 31 16 .rw 1000
def QF_CFG_REISSUE_EN : Field := fld 0x040 0 0 .rw 1
def QF_STAT_PARTITION : Field := fld 0x044 23 20 .ro 0
def QF_STAT_OWNED : Field := fld 0x044 19 19 .ro 0
def QF_STAT_STOPPING : Field := fld 0x044 18 18 .ro 0
def QF_STAT_JOBS_LIVE : Field := fld 0x044 15 8 .ro 0
def QF_STAT_QUEUES_BOUND : Field := fld 0x044 7 0 .ro 0
def QF_DEPTH_SKIVE : Field := fld 0x048 27 24 .ro 0
def QF_DEPTH_REIN : Field := fld 0x048 23 20 .ro 0
def QF_DEPTH_SYNC : Field := fld 0x048 19 16 .ro 0
def QF_DEPTH_DMA : Field := fld 0x048 15 12 .ro 0
def QF_DEPTH_FIN : Field := fld 0x048 11 8 .ro 0
def QF_DEPTH_BURNISHER : Field := fld 0x048 7 4 .ro 0
def QF_DEPTH_STROKE : Field := fld 0x048 3 0 .ro 0
def QF_REISSUE_CHAINS : Field := fld 0x04c 31 16 .ro 0
def QF_REISSUE_FAULTED : Field := fld 0x04c 15 0 .ro 0
def QF_WAIT_WAITS_LIVE : Field := fld 0x050 31 16 .ro 0
def QF_WAIT_TIMEOUTS : Field := fld 0x050 15 0 .ro 0
def QF_COUNT_CLEAR_CLR_WAIT : Field := fld 0x07c 1 1 .wo 0
def QF_COUNT_CLEAR_CLR_REISSUE : Field := fld 0x07c 0 0 .wo 0
def QF_IRQ_STAT_STORM : Field := fld 0x010 2 2 .w1c 0
def QF_IRQ_STAT_REISSUED : Field := fld 0x010 1 1 .w1c 0
def QF_IRQ_STAT_CQ_STALL : Field := fld 0x010 0 0 .w1c 0
def QF_ERR_STAT_FETCH_ERROR : Field := fld 0x01c 1 1 .w1c 0
def QF_ERR_STAT_JOB_FAULT : Field := fld 0x01c 0 0 .w1c 0
def QF_SHARE_WEIGHT_W3 (n : Nat) : Field := fld (0x200 + 4 * n) 31 24 .rw 16
def QF_SHARE_WEIGHT_W2 (n : Nat) : Field := fld (0x200 + 4 * n) 23 16 .rw 16
def QF_SHARE_WEIGHT_W1 (n : Nat) : Field := fld (0x200 + 4 * n) 15 8 .rw 16
def QF_SHARE_WEIGHT_W0 (n : Nat) : Field := fld (0x200 + 4 * n) 7 0 .rw 16
def QF_SPILL_BASE_LO_BASE_LO : Field := fld 0x210 31 16 .rw 0
def QF_SPILL_BASE_HI_BASE_HI : Field := fld 0x214 15 0 .rw 0
def QF_SPILL_SLICE_SLICE : Field := fld 0x218 15 0 .rw 0
def QF_PREEMPT_STAT_STATE : Field := fld 0x220 31 29 .ro 0
def QF_PREEMPT_STAT_VICTIMS : Field := fld 0x220 28 24 .ro 0
def QF_PREEMPT_STAT_URGENT_TAG : Field := fld 0x220 15 0 .ro 0
def QF_PREEMPT_COUNT_SWITCHES : Field := fld 0x224 31 16 .ro 0
def QF_PREEMPT_COUNT_SHORT : Field := fld 0x224 15 8 .ro 0
def QF_PREEMPT_COUNT_TACK_INVALID : Field := fld 0x224 7 0 .ro 0
def QF_PREEMPT_LAST_SWITCH : Field := fld 0x228 31 16 .ro 0
def QF_PREEMPT_LAST_RESUME : Field := fld 0x228 15 0 .ro 0
def QF_SPILL_NEED_UNITS : Field := fld 0x22c 15 0 .ro 0
def QF_SHARE_SEL_TYPE : Field := fld 0x230 6 4 .rw 0
def QF_SHARE_SEL_GROUP : Field := fld 0x230 3 0 .rw 0
def QF_SHARE_USED_LO_USED_LO : Field := fld 0x234 31 0 .ro 0
def QF_SHARE_USED_HI_USED_HI : Field := fld 0x238 31 0 .ro 0

/-- Fields of the quad front page, part 0. -/
def QF_fields0 : List Field :=
  [QF_STORM_CFG_LIMIT, QF_STORM_CFG_PERIOD, QF_STORM_STAT_STORMED, QF_STORM_STAT_STEPS, QF_STORM_STAT_COUNT, QF_WIDEN_EVENTS_EVENTS, QF_CFG_WAIT_TIMEOUT, QF_CFG_REISSUE_EN, QF_STAT_PARTITION, QF_STAT_OWNED, QF_STAT_STOPPING, QF_STAT_JOBS_LIVE]
/-- Fields of the quad front page, part 1. -/
def QF_fields1 : List Field :=
  [QF_STAT_QUEUES_BOUND, QF_DEPTH_SKIVE, QF_DEPTH_REIN, QF_DEPTH_SYNC, QF_DEPTH_DMA, QF_DEPTH_FIN, QF_DEPTH_BURNISHER, QF_DEPTH_STROKE, QF_REISSUE_CHAINS, QF_REISSUE_FAULTED, QF_WAIT_WAITS_LIVE, QF_WAIT_TIMEOUTS]
/-- Fields of the quad front page, part 2. -/
def QF_fields2 : List Field :=
  [QF_COUNT_CLEAR_CLR_WAIT, QF_COUNT_CLEAR_CLR_REISSUE, QF_IRQ_STAT_STORM, QF_IRQ_STAT_REISSUED, QF_IRQ_STAT_CQ_STALL, QF_ERR_STAT_FETCH_ERROR, QF_ERR_STAT_JOB_FAULT, QF_SPILL_BASE_LO_BASE_LO, QF_SPILL_BASE_HI_BASE_HI, QF_SPILL_SLICE_SLICE, QF_PREEMPT_STAT_STATE, QF_PREEMPT_STAT_VICTIMS]
/-- Fields of the quad front page, part 3. -/
def QF_fields3 : List Field :=
  [QF_PREEMPT_STAT_URGENT_TAG, QF_PREEMPT_COUNT_SWITCHES, QF_PREEMPT_COUNT_SHORT, QF_PREEMPT_COUNT_TACK_INVALID, QF_PREEMPT_LAST_SWITCH, QF_PREEMPT_LAST_RESUME, QF_SPILL_NEED_UNITS, QF_SHARE_SEL_TYPE, QF_SHARE_SEL_GROUP, QF_SHARE_USED_LO_USED_LO, QF_SHARE_USED_HI_USED_HI]
/-- The fields of the quad front page that stand once. -/
def QF_fields : List Field := QF_fields0 ++ QF_fields1 ++ QF_fields2 ++ QF_fields3
/-- The array fields of the quad front page at offset `off`. -/
def QF_arrayAt (off : Nat) : List Field :=
  if 0x200 ≤ off && off < 0x210 && (off - 0x200) % 4 == 0 then
    [QF_SHARE_WEIGHT_W3 ((off - 0x200) / 4), QF_SHARE_WEIGHT_W2 ((off - 0x200) / 4), QF_SHARE_WEIGHT_W1 ((off - 0x200) / 4), QF_SHARE_WEIGHT_W0 ((off - 0x200) / 4)]
  else
  []

/-! ### Fin unit page: 04_precision.md R143 -/

def FIN_CFG_WIDEN_FIRST : Field := fld 0x040 0 0 .rw 1
def FIN_STAT_JOB_TAG : Field := fld 0x044 31 16 .ro 0
def FIN_STAT_QUEUE_DEPTH : Field := fld 0x044 15 8 .ro 0
def FIN_STAT_MODE : Field := fld 0x044 1 0 .ro 0
def FIN_BUSY_LO_BUSY_LO : Field := fld 0x048 31 0 .ro 0
def FIN_BUSY_HI_BUSY_HI : Field := fld 0x04c 31 0 .ro 0
def FIN_WIDEN_COUNT_UNITS : Field := fld 0x050 31 0 .ro 0
def FIN_ECC_STAT_CE : Field := fld 0x054 31 16 .ro 0
def FIN_ECC_STAT_UE : Field := fld 0x054 15 0 .ro 0
def FIN_FMT_FLAGS_FLAG : Field := fld 0x058 31 1 .w1c 0
def FIN_COUNT_CLEAR_CLR_ECC : Field := fld 0x07c 2 2 .wo 0
def FIN_COUNT_CLEAR_CLR_WIDEN : Field := fld 0x07c 1 1 .wo 0
def FIN_COUNT_CLEAR_CLR_BUSY : Field := fld 0x07c 0 0 .wo 0
def FIN_IRQ_STAT_FMT : Field := fld 0x010 0 0 .w1c 0
def FIN_ERR_STAT_JOB_FAULT : Field := fld 0x01c 2 2 .w1c 0
def FIN_ERR_STAT_ECC_UE : Field := fld 0x01c 1 1 .w1c 0
def FIN_ERR_STAT_ECC_CE : Field := fld 0x01c 0 0 .w1c 0

/-- Fields of the Fin unit page, part 0. -/
def FIN_fields0 : List Field :=
  [FIN_CFG_WIDEN_FIRST, FIN_STAT_JOB_TAG, FIN_STAT_QUEUE_DEPTH, FIN_STAT_MODE, FIN_BUSY_LO_BUSY_LO, FIN_BUSY_HI_BUSY_HI, FIN_WIDEN_COUNT_UNITS, FIN_ECC_STAT_CE, FIN_ECC_STAT_UE, FIN_FMT_FLAGS_FLAG, FIN_COUNT_CLEAR_CLR_ECC, FIN_COUNT_CLEAR_CLR_WIDEN]
/-- Fields of the Fin unit page, part 1. -/
def FIN_fields1 : List Field :=
  [FIN_COUNT_CLEAR_CLR_BUSY, FIN_IRQ_STAT_FMT, FIN_ERR_STAT_JOB_FAULT, FIN_ERR_STAT_ECC_UE, FIN_ERR_STAT_ECC_CE]
/-- The fields of the Fin unit page that stand once. -/
def FIN_fields : List Field := FIN_fields0 ++ FIN_fields1

/-! ### block page: 03_stroke_array.md R108, 04_precision.md R141 -/

def BLK_IRQ_STAT_THROTTLE : Field := fld 0x010 3 3 .w1c 0
def BLK_IRQ_STAT_STREAM_REUSE : Field := fld 0x010 2 2 .w1c 0
def BLK_IRQ_STAT_ACC_SPECIAL : Field := fld 0x010 1 1 .w1c 0
def BLK_IRQ_STAT_FMT : Field := fld 0x010 0 0 .w1c 0
def BLK_ERR_STAT_JOB_FAULT : Field := fld 0x01c 4 4 .w1c 0
def BLK_ERR_STAT_ACC_UE : Field := fld 0x01c 3 3 .w1c 0
def BLK_ERR_STAT_ACC_CE : Field := fld 0x01c 2 2 .w1c 0
def BLK_ERR_STAT_RESIDUE_PERSIST : Field := fld 0x01c 1 1 .w1c 0
def BLK_ERR_STAT_RESIDUE_RETRY : Field := fld 0x01c 0 0 .w1c 0
def BLK_ACC_STATE_LIVE : Field := fld 0x040 15 8 .ro 0
def BLK_ACC_STATE_NARROW : Field := fld 0x040 7 0 .ro 0
def BLK_ISSUE_JOB_TAG : Field := fld 0x044 31 16 .ro 0
def BLK_ISSUE_RATE : Field := fld 0x044 12 8 .ro 16
def BLK_ISSUE_WIDTH : Field := fld 0x044 3 0 .ro 0
def BLK_RESIDUE_CFG_WINDOW : Field := fld 0x048 31 16 .rw 1000
def BLK_RESIDUE_CFG_THRESH : Field := fld 0x048 7 0 .rw 16
def BLK_RESIDUE_STAT_RETRIES : Field := fld 0x04c 31 16 .ro 0
def BLK_RESIDUE_STAT_LAST_CELL : Field := fld 0x04c 6 4 .ro 0
def BLK_RESIDUE_STAT_LAST_COLUMN : Field := fld 0x04c 3 0 .ro 0
def BLK_ACC_EVENTS_RENORM : Field := fld 0x050 31 16 .ro 0
def BLK_ACC_EVENTS_SPECIAL : Field := fld 0x050 15 0 .ro 0
def BLK_PASS_LO_PASSES_LO : Field := fld 0x054 31 0 .ro 0
def BLK_PASS_HI_PASSES_HI : Field := fld 0x058 31 0 .ro 0
def BLK_SKIP_COUNT_SKIPS : Field := fld 0x05c 31 0 .ro 0
def BLK_LOOSE_STAT_LAST_UNION : Field := fld 0x060 16 0 .ro 0
def BLK_NOISE_COUNT_BLOCKS : Field := fld 0x064 31 0 .ro 0
def BLK_COUNT_CLEAR_CLR_SPARSE : Field := fld 0x07c 3 3 .wo 0
def BLK_COUNT_CLEAR_CLR_ACC : Field := fld 0x07c 2 2 .wo 0
def BLK_COUNT_CLEAR_CLR_RESIDUE : Field := fld 0x07c 1 1 .wo 0
def BLK_COUNT_CLEAR_CLR_FMT : Field := fld 0x07c 0 0 .wo 0
def BLK_FMT_COUNT_COUNT (n : Nat) : Field := fld (0x080 + 4 * n) 15 0 .ro 0
def BLK_FMT_FLAGS_FLAG : Field := fld 0x100 31 1 .w1c 0
def BLK_FMT_FIRST_JOB_TAG : Field := fld 0x104 31 16 .ro 0
def BLK_FMT_FIRST_CODE : Field := fld 0x104 7 0 .ro 0
def BLK_ACC_FENCE_WAITING : Field := fld 0x068 31 24 .ro 0
def BLK_ACC_FENCE_TIMEOUT : Field := fld 0x068 15 0 .rw 1000

/-- Fields of the block page, part 0. -/
def BLK_fields0 : List Field :=
  [BLK_IRQ_STAT_THROTTLE, BLK_IRQ_STAT_STREAM_REUSE, BLK_IRQ_STAT_ACC_SPECIAL, BLK_IRQ_STAT_FMT, BLK_ERR_STAT_JOB_FAULT, BLK_ERR_STAT_ACC_UE, BLK_ERR_STAT_ACC_CE, BLK_ERR_STAT_RESIDUE_PERSIST, BLK_ERR_STAT_RESIDUE_RETRY, BLK_ACC_STATE_LIVE, BLK_ACC_STATE_NARROW, BLK_ISSUE_JOB_TAG]
/-- Fields of the block page, part 1. -/
def BLK_fields1 : List Field :=
  [BLK_ISSUE_RATE, BLK_ISSUE_WIDTH, BLK_RESIDUE_CFG_WINDOW, BLK_RESIDUE_CFG_THRESH, BLK_RESIDUE_STAT_RETRIES, BLK_RESIDUE_STAT_LAST_CELL, BLK_RESIDUE_STAT_LAST_COLUMN, BLK_ACC_EVENTS_RENORM, BLK_ACC_EVENTS_SPECIAL, BLK_PASS_LO_PASSES_LO, BLK_PASS_HI_PASSES_HI, BLK_SKIP_COUNT_SKIPS]
/-- Fields of the block page, part 2. -/
def BLK_fields2 : List Field :=
  [BLK_LOOSE_STAT_LAST_UNION, BLK_NOISE_COUNT_BLOCKS, BLK_COUNT_CLEAR_CLR_SPARSE, BLK_COUNT_CLEAR_CLR_ACC, BLK_COUNT_CLEAR_CLR_RESIDUE, BLK_COUNT_CLEAR_CLR_FMT, BLK_FMT_FLAGS_FLAG, BLK_FMT_FIRST_JOB_TAG, BLK_FMT_FIRST_CODE, BLK_ACC_FENCE_WAITING, BLK_ACC_FENCE_TIMEOUT]
/-- The fields of the block page that stand once. -/
def BLK_fields : List Field := BLK_fields0 ++ BLK_fields1 ++ BLK_fields2
/-- The array fields of the block page at offset `off`. -/
def BLK_arrayAt (off : Nat) : List Field :=
  if 0x080 ≤ off && off < 0x100 && (off - 0x080) % 4 == 0 then
    [BLK_FMT_COUNT_COUNT ((off - 0x080) / 4)]
  else
  []

/-! ### scratchpad bank page: 05_scratchpads.md R166 -/

def SPB_CFG_SCRUB_GAP : Field := fld 0x040 31 16 .rw 1024
def SPB_CFG_SCRUB_EN : Field := fld 0x040 1 1 .rw 1
def SPB_CFG_HOLD : Field := fld 0x040 0 0 .rw 0
def SPB_STAT_LOST : Field := fld 0x044 31 16 .ro 0
def SPB_STAT_PREV_VALID : Field := fld 0x044 11 11 .ro 0
def SPB_STAT_OWNED : Field := fld 0x044 10 10 .ro 0
def SPB_STAT_PREV_OWNER : Field := fld 0x044 9 6 .ro 0
def SPB_STAT_DIRTY : Field := fld 0x044 5 5 .ro 1
def SPB_STAT_FENCED : Field := fld 0x044 4 4 .ro 0
def SPB_STAT_POWER : Field := fld 0x044 1 0 .ro 0
def SPB_ZF_RANGE_FIRST : Field := fld 0x048 21 12 .rw 0
def SPB_ZF_RANGE_LAST : Field := fld 0x048 9 0 .rw 1023
def SPB_ZF_CTRL_GO : Field := fld 0x04c 0 0 .w1s 0
def SPB_ZF_STAT_DONE : Field := fld 0x050 1 1 .ro 0
def SPB_ZF_STAT_BUSY : Field := fld 0x050 0 0 .ro 0
def SPB_ECC_CFG_WINDOW : Field := fld 0x054 31 16 .rw 1000
def SPB_ECC_CFG_THRESH : Field := fld 0x054 7 0 .rw 64
def SPB_ECC_STAT_CE : Field := fld 0x058 31 16 .ro 0
def SPB_ECC_STAT_UE : Field := fld 0x058 15 0 .ro 0
def SPB_ARB_STAT_GUARD_GRANTS : Field := fld 0x05c 31 8 .ro 0
def SPB_ARB_STAT_MAX_WAIT : Field := fld 0x05c 7 0 .ro 0
def SPB_GRANT_LO_GRANTS_LO : Field := fld 0x060 31 0 .ro 0
def SPB_GRANT_HI_GRANTS_HI : Field := fld 0x064 31 0 .ro 0
def SPB_COUNT_CLEAR_CLR_GRANT : Field := fld 0x07c 2 2 .wo 0
def SPB_COUNT_CLEAR_CLR_ARB : Field := fld 0x07c 1 1 .wo 0
def SPB_COUNT_CLEAR_CLR_ECC : Field := fld 0x07c 0 0 .wo 0
def SPB_IRQ_STAT_ZF_DONE : Field := fld 0x010 0 0 .w1c 0
def SPB_ERR_STAT_ACCESS_FAULT : Field := fld 0x01c 3 3 .w1c 0
def SPB_ERR_STAT_PERSIST : Field := fld 0x01c 2 2 .w1c 0
def SPB_ERR_STAT_UE : Field := fld 0x01c 1 1 .w1c 0
def SPB_ERR_STAT_CE : Field := fld 0x01c 0 0 .w1c 0

/-- Fields of the scratchpad bank page, part 0. -/
def SPB_fields0 : List Field :=
  [SPB_CFG_SCRUB_GAP, SPB_CFG_SCRUB_EN, SPB_CFG_HOLD, SPB_STAT_LOST, SPB_STAT_PREV_VALID, SPB_STAT_OWNED, SPB_STAT_PREV_OWNER, SPB_STAT_DIRTY, SPB_STAT_FENCED, SPB_STAT_POWER, SPB_ZF_RANGE_FIRST, SPB_ZF_RANGE_LAST]
/-- Fields of the scratchpad bank page, part 1. -/
def SPB_fields1 : List Field :=
  [SPB_ZF_CTRL_GO, SPB_ZF_STAT_DONE, SPB_ZF_STAT_BUSY, SPB_ECC_CFG_WINDOW, SPB_ECC_CFG_THRESH, SPB_ECC_STAT_CE, SPB_ECC_STAT_UE, SPB_ARB_STAT_GUARD_GRANTS, SPB_ARB_STAT_MAX_WAIT, SPB_GRANT_LO_GRANTS_LO, SPB_GRANT_HI_GRANTS_HI, SPB_COUNT_CLEAR_CLR_GRANT]
/-- Fields of the scratchpad bank page, part 2. -/
def SPB_fields2 : List Field :=
  [SPB_COUNT_CLEAR_CLR_ARB, SPB_COUNT_CLEAR_CLR_ECC, SPB_IRQ_STAT_ZF_DONE, SPB_ERR_STAT_ACCESS_FAULT, SPB_ERR_STAT_PERSIST, SPB_ERR_STAT_UE, SPB_ERR_STAT_CE]
/-- The fields of the scratchpad bank page that stand once. -/
def SPB_fields : List Field := SPB_fields0 ++ SPB_fields1 ++ SPB_fields2

/-- The fields that page `pg` holds at offset `off`; none at a reserved offset (R13). -/
def fieldsAt (pg : Page) (off : Nat) : List Field :=
  (COMMON_fields ++ (match pg with
    | .hub => HUB_fields
    | .cox => COX_fields
    | .sec => SEC_fields
    | .fc => FC_fields
    | .pm => PM_fields
    | .spadWin => HUB_SPAD_fields
    | .pci _ => PCI_fields
    | .srn _ => SRN_fields
    | .tb _ => TB_fields
    | .fwSl => SL_fields
    | .fwPart _ => SL_fields
    | .part _ => HUB_PART_fields
    | .sq _ _ => SQ_fields
    | .rein _ => REIN_fields
    | .skv _ => SKV_fields
    | .pw _ => PW_fields
    | .sl _ => SL_fields
    | .hbm _ => HBM_fields
    | .qf _ => QF_fields
    | .fin _ => FIN_fields
    | .blk _ => BLK_fields
    | .spb _ => SPB_fields
    | .vfWin _ _ => HUB_SPAD_fields
    )).filter (fun f => f.off == off) ++ (match pg with
    | .hub => []
    | .cox => []
    | .sec => SEC_arrayAt off
    | .fc => FC_arrayAt off
    | .pm => []
    | .spadWin => []
    | .pci _ => []
    | .srn _ => SRN_arrayAt off
    | .tb _ => TB_arrayAt off
    | .fwSl => SL_arrayAt off
    | .fwPart _ => SL_arrayAt off
    | .part _ => []
    | .sq _ _ => []
    | .rein _ => REIN_arrayAt off
    | .skv _ => SKV_arrayAt off
    | .pw _ => PW_arrayAt off
    | .sl _ => SL_arrayAt off
    | .hbm _ => HBM_arrayAt off
    | .qf _ => QF_arrayAt off
    | .fin _ => []
    | .blk _ => BLK_arrayAt off
    | .spb _ => []
    | .vfWin _ _ => []
    )

end Sys2Proof.Machine.Reg
end

