-- ==== Sys2Proof/Machine/Ops.lean ====
section
/-!
DEFINITION. The named operations over registers: reading and writing a field of a page, counters, functions and ports,
partitions, MSI-X (R353), and recurrence windows (R437).
-/
namespace Sys2Proof.Machine

/-! ### Pages (Table 17-5) -/

/-- The page's index in the management PF0's BAR0: its offset / 4 KiB (R489); window pages of virtual functions stand
beyond it. -/
def pageIndex : Page → Nat
  | .hub => 0
  | .cox => 1
  | .sec => 2
  | .fc => 3
  | .pm => 4
  | .spadWin => 5
  | .pci i => 0x8 + i
  | .srn i => 0x10 + i
  | .tb i => 0x20 + i
  | .fwSl => 0x30
  | .part p => 0x40 + p
  | .sq p n => 0x100 + 64 * p + n
  | .rein r => 0x1000 + r
  | .skv r => 0x1008 + r
  | .pw r => 0x1010 + r
  | .sl r => 0x1018 + r
  | .hbm i => 0x1020 + i
  | .qf q => 0x1100 + q
  | .fin q => 0x1110 + q
  | .blk b => 0x1200 + b
  | .spb b => 0x1300 + b
  | .vfWin port n => 0x10000 + 32 * port + n
  | .fwPart p => 0x20000 + p

/-- The page's type code (Table 17-5). -/
def pageType : Page → Nat
  | .hub => 0x0001
  | .cox => 0x0002
  | .sec => 0x0003
  | .fc => 0x0004
  | .pm => 0x0005
  | .spadWin => 0x0006
  | .pci _ => 0x0008
  | .srn _ => 0x0009
  | .tb _ => 0x000A
  | .fwSl => 0x000B
  | .part _ => 0x000C
  | .sq _ _ => 0x000D
  | .rein _ => 0x0010
  | .skv _ => 0x0011
  | .pw _ => 0x0012
  | .sl _ => 0x0013
  | .hbm _ => 0x0014
  | .qf _ => 0x0020
  | .fin _ => 0x0021
  | .blk _ => 0x0022
  | .spb _ => 0x0023
  | .vfWin _ _ => 0x0006
  | .fwPart _ => 0x000B

/-- The page's instance number (Table 17-5). -/
def pageInstance : Page → Nat
  | .pci i => i
  | .srn i => i
  | .tb i => i
  | .part p => p
  | .sq _ n => n
  | .rein r => r
  | .skv r => r
  | .pw r => r
  | .sl r => r
  | .hbm i => i
  | .qf q => q
  | .fin q => q
  | .blk b => b
  | .spb b => b
  | .vfWin _ n => n
  | _ => 0

/-- PAGE_ID of the page (Table 17-3). -/
def pageId (pg : Page) : Nat := pageType pg * 2 ^ 16 + pageInstance pg * 2 ^ 8 + 1

/-! ### Fields -/

/-- The field's width in bits. -/
def width (f : Field) : Nat := f.hi + 1 - f.lo

/-- The key of a field of a page in the register table. -/
def key (pg : Page) (f : Field) : Nat := (pageIndex pg * 1024 + f.off / 4) * 32 + f.lo

/-- The value a field holds. -/
def rd (s : Chip) (pg : Page) (f : Field) : Nat := tgetD s.regs (key pg f) f.reset

/-- The register table with `v`, cut to the field's width, in field `f` of page `pg`. -/
def regsSet (m : Table Nat) (pg : Page) (f : Field) (v : Nat) : Table Nat :=
  if v % 2 ^ width f = f.reset then tdel m (key pg f) else tset m (key pg f) (v % 2 ^ width f)

/-- Set a field. -/
def wr (s : Chip) (pg : Page) (f : Field) (v : Nat) : Chip := { s with regs := regsSet s.regs pg f v }

/-- Set a list of fields of one page. -/
def wrAll (s : Chip) (pg : Page) (l : List (Field × Nat)) : Chip := l.foldl (fun t e => wr t pg e.1 e.2) s

/-- Add to a counter that stops at its largest value. -/
def bump (s : Chip) (pg : Page) (f : Field) (n : Nat) : Chip := wr s pg f (satAdd (rd s pg f) n (2 ^ width f - 1))

/-- Add to a counter that wraps. -/
def bumpWrap (s : Chip) (pg : Page) (f : Field) (n : Nat) : Chip := wr s pg f (rd s pg f + n)

/-- Add to a 64-bit counter held in a LO and a HI field, which stops at its largest value. -/
def bump64 (s : Chip) (pg : Page) (lo hi : Field) (n : Nat) : Chip :=
  let v := satAdd (rd s pg lo + rd s pg hi * 2 ^ 32) n (2 ^ 64 - 1)
  wr (wr s pg lo v) pg hi (v / 2 ^ 32)

/-- Every field of a page at offset `off` at its reset value. -/
def resetAt (s : Chip) (pg : Page) (off : Nat) : Chip :=
  (Reg.fieldsAt pg off).foldl (fun t f => wr t pg f f.reset) s

/-- The register at offset `off` as its fields stand (R10, R13). -/
def regWord (s : Chip) (pg : Page) (off : Nat) : Nat :=
  (Reg.fieldsAt pg off).foldl (fun a f => a + rd s pg f * 2 ^ f.lo) 0

/-- Write the fields of the register at `off` from the word `v`, those for which `p` holds. -/
def putWord (s : Chip) (pg : Page) (off v : Nat) (p : Field → Bool) : Chip :=
  ((Reg.fieldsAt pg off).filter p).foldl (fun t f => wr t pg f (bits v f.hi f.lo)) s

/-- Draw a fresh free value: the number of the draw, and the state after it. -/
def draw (s : Chip) : Nat × Chip := (s.fresh, { s with fresh := s.fresh + 1 })

/-- Send a message out of the module. -/
def emit (s : Chip) (m : Out) : Chip := { s with out := m :: s.out }

/-- The EID of an MCTP endpoint: the null EID until its bus owner sets one (R510). -/
def eidOf (s : Chip) : Endpoint → Nat
  | .sideband => s.bus.eidSideband
  | .pcie => s.bus.eidPcie

/-- An MCTP answer of an endpoint. -/
def answer (s : Chip) (via : Endpoint) (code : Nat) (bytes : List Byte) : Chip := emit s (.mctp via (eidOf s via) code bytes)

/-! ### Functions and ports (12) -/

/-- The management port (R354). -/
def mgmtPort (s : Chip) : Nat := if rd s (.pci 1) Reg.PCI_LINK_STAT_MGMT = 1 then 1 else 0

/-- A function's number among the functions of both ports. -/
def funcNo (port fn : Nat) : Nat := 32 * port + fn

/-- A function's settings as they stand after the reset of its configuration space (R351 to R353): as PCIe has them, Bus
Master Enable, D3hot and MSI-X Enable clear, every vector masked, payloads of 128 and read requests of 512 bytes. -/
def freshFunc : Func :=
  { busMaster := false, pend := [], resetting := false, bar2Log2 := 30, d3 := false, msixOn := false, msixMask := false,
    vectors := [], payload := 0, readReq := 2, aer := 0 }

/-- A function's settings. -/
def func (s : Chip) (port fn : Nat) : Func := tgetD s.hosts.funcs (funcNo port fn) freshFunc

/-- Change a function's settings. -/
def setFunc (s : Chip) (port fn : Nat) (f : Func → Func) : Chip :=
  { s with hosts := { s.hosts with funcs := tmod s.hosts.funcs (funcNo port fn) freshFunc f } }

/-- Does the function exist (R360)? -/
def funcPresent (s : Chip) (port fn : Nat) : Bool :=
  fn == 0 || fn ≤ rd s (.pci port) Reg.PCI_LINK_STAT_NUM_VFS

/-- Is the port's link in DL_Up? -/
def dlUp (s : Chip) (port : Nat) : Bool := rd s (.pci port) Reg.PCI_LINK_STAT_DL_UP == 1

/-- May the function send a request to host memory (R353, R397)? -/
def hostReady (s : Chip) (port fn : Nat) : Bool :=
  funcPresent s port fn && (func s port fn).busMaster && !(func s port fn).d3 && dlUp s port
    && !(kmem s.sec.ideInsecure (funcNo port fn)) && !(func s port fn).resetting

/-- HUB_PART_STATE.STATE of a partition (Table 12-8). -/
def partState (s : Chip) (p : Nat) : Nat := rd s (.part p) Reg.HUB_PART_STATE_STATE

/-- The function bound to a partition (R352, Table 12-8). -/
def boundFunc (s : Chip) (p : Nat) : Nat × Nat :=
  if rd s (.part p) Reg.HUB_PART_BIND_PF0 = 1 then (mgmtPort s, 0)
  else (rd s (.part p) Reg.HUB_PART_BIND_PORT, rd s (.part p) Reg.HUB_PART_BIND_VF)

/-- The partition bound to a function, if any. -/
def partOf (s : Chip) (port fn : Nat) : Option Nat :=
  (List.range 16).find? (fun p => partState s p != 0 && decide (boundFunc s p = (port, fn)))

/-- Is the function bound to a partition in HOLD_WATER (R369)? -/
def heldFunc (s : Chip) (port fn : Nat) : Bool := (partOf s port fn).any (fun p => partState s p == 3)

/-- Vectors of a function (Table 12-1). -/
def vectorCount (fn : Nat) : Nat := if fn = 0 then 2048 else 256

/-- May the function's MSI-X message `vector` go out (R351, R487, R369): MSI-X on, and neither the function nor the vector
masked? -/
def msixOpen (s : Chip) (port fn vector : Nat) : Bool :=
  let f := func s port fn
  hostReady s port fn && !(heldFunc s port fn) && f.msixOn && !f.msixMask
    && (tget f.vectors vector).any (fun e => !e.masked)

/-- Send an MSI-X vector of a function, or leave it pending while it may not go out (R487, R369); there is none beyond the
table (R351). -/
def msix (s : Chip) (port fn vector : Nat) : Chip :=
  if vectorCount fn ≤ vector then s
  else if msixOpen s port fn vector then emit s (.msix port fn vector)
  else setFunc s port fn (fun f => { f with pend := kadd f.pend vector })

/-- Send every pending vector of a function that may go out. -/
def msixFlush (s : Chip) (port fn : Nat) : Chip :=
  let l := (func s port fn).pend
  let go := l.filter (msixOpen s port fn)
  if go.isEmpty then s
  else
    go.foldl (fun t v => emit t (.msix port fn v))
      (setFunc s port fn (fun f => { f with pend := l.filter (fun v => !(msixOpen s port fn v)) }))

/-- A function records an uncorrectable error: bit `n` of its status (R351, R450). -/
def setAer (s : Chip) (port fn n : Nat) : Chip := setFunc s port fn (fun f => { f with aer := if f.aer / 2 ^ n % 2 = 1 then f.aer else f.aer + 2 ^ n })

/-! ### Partitions (12) -/

/-- Does the function reach partition `p`'s own pages (R375, R490, R492)? The management PF0 reaches every page. -/
def reaches (s : Chip) (via : Via) (p : Nat) : Bool :=
  match via with
  | .pf port => port.val == mgmtPort s
  | .vf port n => n.val != 0 && funcPresent s port.val n.val && decide (partOf s port.val n.val = some p)

/-- Is the access through the management PF0 (R355)? -/
def isMgmt (s : Chip) (via : Via) : Bool :=
  match via with
  | .pf port => port.val == mgmtPort s
  | .vf _ _ => false

/-- The partition that owns a quad, if any (Table 06-14). -/
def quadOwner (s : Chip) (q : Nat) : Option Nat :=
  if rd s (.qf q) Reg.QF_STAT_OWNED = 1 then some (rd s (.qf q) Reg.QF_STAT_PARTITION) else none

/-- The quads of a partition, ascending. -/
def quadsOf (s : Chip) (p : Nat) : List Nat := (List.range 16).filter (fun q => quadOwner s q == some p)

/-- The lead quad of a partition: its lowest quad; 16 where it holds none. -/
def leadQuad (s : Chip) (p : Nat) : Nat := (quadsOf s p).headD 16

/-- The regions that a partition holds whole (R25). -/
def wholeRegions (s : Chip) (p : Nat) : List Nat :=
  (List.range 4).filter (fun r => (span (4 * r) 4).all (fun q => quadOwner s q == some p))

/-- The Start list page of a partition: its lead slice's, or its registers in the firmware page (R25, R261). -/
def slPage (s : Chip) (p : Nat) : Page :=
  match wholeRegions s p with
  | r :: _ => .sl r
  | [] => .fwPart p

/-- Does the partition run serving steps (R129)? -/
def servingOn (s : Chip) (p : Nat) : Bool := rd s (slPage s p) Reg.SL_CFG_ENABLE == 1

/-- The storm windows of partition `p` start now (R129). -/
def stormFrom (s : Chip) (p : Nat) : Chip := { s with prec := { s.prec with stormAt := tset s.prec.stormAt p s.now } }

/-- The storm windows of each partition whose ENABLE became 0 between `s` and `t` start now (R129). -/
def stormEdge (s t : Chip) : Chip :=
  (List.range 16).foldl (fun u p => if servingOn s p && !(servingOn t p) then stormFrom u p else u) t

/-- The page that carries a partition's Start list flags: its lead slice's, or the firmware page. -/
def slHead (s : Chip) (p : Nat) : Page :=
  match wholeRegions s p with
  | r :: _ => .sl r
  | [] => .fwSl

/-! ### Running -/

/-- The device's power state (Table 16-2). -/
def powerState (s : Chip) : Nat := rd s .pm Reg.PM_STAT_STATE

/-- Is the device in FATAL (R450)? -/
def inFatal (s : Chip) : Bool := rd s .fc Reg.FC_STAT_FATAL == 1

/-- Does the hub run (Table 16-2)? -/
def hubOn (s : Chip) : Bool := powerState s == 2 || powerState s == 3

/-- Do the engines and the controllers run: the hub on, and no FATAL (R450)? -/
def running (s : Chip) : Bool := hubOn s && !inFatal s

/-- Can a memory request reach the function's BARs: the hub on, the link up, firmware verified, the function ready and in D0,
and no stream of its own Insecure, whose requests are discarded (R382, R364, R351, R397)? -/
def barOpen (s : Chip) (port fn : Nat) : Bool :=
  hubOn s && s.sec.booted && dlUp s port && funcPresent s port fn && !(func s port fn).resetting && !(func s port fn).d3
    && !(kmem s.sec.ideInsecure (funcNo port fn))

/-- Does a register access through the function reach the module? -/
def viaOpen (s : Chip) (via : Via) : Bool :=
  match via with
  | .pf port => barOpen s port.val 0
  | .vf port n => barOpen s port.val n.val

/-- Does the host driver have its access, the management port's PF0 (R355)? -/
def driverOpen (s : Chip) : Bool := barOpen s (mgmtPort s) 0

/-- Apply `f` while the module runs; otherwise nothing happens. -/
def whenRunning (s : Chip) (f : Chip → Chip) : Chip := if running s then f s else s

/-- Apply `f` where `c` holds. -/
def whenSo (c : Bool) (s : Chip) (f : Chip → Chip) : Chip := if c then f s else s

/-! ### Recurrence windows (R437) -/

/-- The window of resource `r` at this instant: the running one, or a window that opens now. -/
def windowNow (s : Chip) (r len : Nat) : Window :=
  match tget s.faults.windows r with
  | some w => if s.now < w.opened + len then w else { opened := s.now, ce := 0, ue := 0 }
  | none => { opened := s.now, ce := 0, ue := 0 }

/-- Count one event of resource `r` in its window of `len` ns; `ue`: uncorrectable. -/
def countEvent (s : Chip) (r len : Nat) (ue : Bool) : Chip :=
  let w := windowNow s r len
  let w' := if ue then { w with ue := w.ue + 1 } else { w with ce := w.ce + 1 }
  { s with faults := { s.faults with windows := tset s.faults.windows r w' } }

/-- Close the window of resource `r`: its counts start again at the next event. -/
def closeWindow (s : Chip) (r : Nat) : Chip :=
  { s with faults := { s.faults with windows := tdel s.faults.windows r } }

/-- Close the windows of `n` resources from `lo` on: their counts are cleared (R437). -/
def closeSpan (s : Chip) (lo n : Nat) : Chip :=
  { s with faults := { s.faults with windows := s.faults.windows.filter (fun e => !(decide (lo ≤ e.1 ∧ e.1 < lo + n))) } }

/-- A threshold field in which 0 means 256. -/
def orFull (v : Nat) : Nat := if v = 0 then 256 else v

/-- Resource numbers: block arithmetic, accumulator files, banks, buffer rows, channels, slices, lane groups (Table 15-4). -/
def resBlock (b : Nat) : Nat := b
def resAcc (b : Nat) : Nat := 256 + b
def resBank (b : Nat) : Nat := 512 + b
def resRow (engine row : Nat) : Nat := 0x100000 + 4096 * engine + row
def resChannel (stack ch : Nat) : Nat := 1024 + 32 * stack + ch
def resSlice (n : Nat) : Nat := 2048 + n
def resLane (port g : Nat) : Nat := 4096 + 8 * port + g
def resD2d (region g : Nat) : Nat := 4160 + 8 * region + g

/-- A millisecond field in nanoseconds of local time (R8, R465). -/
def msNs (v : Nat) : Nat := v * 1000000

/-! ### Units of the full-size-slot channels (R309, Table 10-10) -/

/-- Bytes of a unit. -/
def unitBytes : Nat := 4096

/-- Count a unit that the engine of region `r` writes (Table 10-10). -/
def countUnit (s : Chip) (r : Nat) (encoded : Bool) (n : Nat) : Chip :=
  let s := bump s (.skv r) (if encoded then Reg.SKV_UNITS_ENCODED else Reg.SKV_UNITS_RAW) 1
  let s := bump64 s (.skv r) Reg.SKV_IN_LO_IN Reg.SKV_IN_HI_IN unitBytes
  let s := bump64 s (.skv r) Reg.SKV_OUT_LO_OUT Reg.SKV_OUT_HI_OUT n
  bump64 s (.skv r) Reg.SKV_BUSY_LO_BUSY Reg.SKV_BUSY_HI_BUSY 56

end Sys2Proof.Machine
end

