-- ==== Sys2Proof/Machine/Flags.lean ====
section
/-!
DEFINITION. The flags of a register page: IRQ_STAT and ERR_STAT and the page interrupt that they raise (R487), the
address of the first error, and the error records that go with an ERR_STAT bit (R434).
-/
namespace Sys2Proof.Machine

/-! ### The page interrupt (R487) -/

/-- The page's interrupt summary (R487). -/
def summary (s : Chip) (pg : Page) : Bool :=
  (regWord s pg 0x010 &&& rd s pg Reg.IRQ_EN_EN) != 0
    || (regWord s pg 0x01c &&& (2 ^ 32 - 1 - rd s pg Reg.ERR_MASK_MASK)) != 0

/-- Send the page's vector of the management PF0 (R487). -/
def pageVector (s : Chip) (pg : Page) : Chip := msix s (mgmtPort s) 0 (rd s pg Reg.PAGE_CTRL_VECTOR)

/-- After a change from `before`: the vector goes out where the summary went from 0 to 1 (R487). -/
def raised (before : Bool) (s : Chip) (pg : Page) : Chip := if !before && summary s pg then pageVector s pg else s

/-- Set bit `f` of the page's IRQ_STAT or ERR_STAT (R487). -/
def setFlag (s : Chip) (pg : Page) (f : Field) : Chip := raised (summary s pg) (wr s pg f 1) pg

/-- The port page's HOST_ERROR (R353). -/
def hostError (s : Chip) (port : Nat) : Chip := setFlag s (.pci port) Reg.PCI_ERR_STAT_HOST_ERROR

/-! ### Host writes (R353) -/

/-- A write of the device to host memory through a function; where the function may not send it, HOST_ERROR. -/
def hostPut (s : Chip) (port fn addr : Nat) (b : List Byte) : Chip :=
  if hostReady s port fn then emit s (.hostWrite port fn addr b) else hostError s port

/-! ### Records (R434, R23) -/

/-- Take the address of the page's first error since ERR_STAT was last zero (Table 17-3). -/
def errAddr (s : Chip) (pg : Page) (addr : Option (Nat × Nat)) : Chip :=
  if regWord s pg 0x01c != 0 then s
  else match addr with
    | some (space, a) =>
      wrAll s pg [(Reg.ERR_ADDR_HI_SPACE, space), (Reg.ERR_ADDR_LO_ADDR_LO, a), (Reg.ERR_ADDR_HI_ADDR_HI, a / 2 ^ 32)]
    | none => wrAll s pg [(Reg.ERR_ADDR_HI_SPACE, 3), (Reg.ERR_ADDR_LO_ADDR_LO, 0), (Reg.ERR_ADDR_HI_ADDR_HI, 0)]

/-- Set an ERR_STAT bit with the address of the error. -/
def setErr (s : Chip) (pg : Page) (f : Field) (addr : Option (Nat × Nat)) : Chip := setFlag (errAddr s pg addr) pg f

/-- A record with the fields that most records leave empty. -/
def plainNote (pg : Page) (cls : Cls) (code : Nat) : Note :=
  { source := pageId pg, cls := cls, code := code, part := none, job := none, addr := none, region := 0, detail := 0,
    stamp := 0 }

/-- The record names the job for which the error was met, where there is one (R23, R434). -/
def Note.ofJob (n : Note) (who : Option Origin) : Note :=
  { n with part := who.map (fun o => o.part.val), job := who.map (fun o => (o.queue.val, o.tag.toNat)) }

/-- Send a record to the collector, stamped with the local time (R434); a CORRECTED occurrence counts in the page's
ERR_COUNT_CE (Table 17-3). -/
def send (s : Chip) (pg : Page) (n : Note) : Chip :=
  let t := { s with faults := { s.faults with inbound := s.faults.inbound ++ [{ n with stamp := s.now }] } }
  if n.cls = .corrected then bump t pg Reg.ERR_COUNT_CE_COUNT 1 else t

/-- Report an error: the record, and the page's ERR_STAT bit. -/
def report (s : Chip) (pg : Page) (f : Field) (n : Note) : Chip := setErr (send s pg n) pg f n.addr

/-- POISON_CONSUMED (R23, Table 15-7). -/
def poisonConsumed (s : Chip) (pg : Page) (o : Origin) (addr : Option (Nat × Nat)) (region : Nat) : Chip :=
  send s pg { plainNote pg .deferred 0xAE with
    part := some o.part.val, job := some (o.queue.val, o.tag.toNat), addr := addr, region := region }

end Sys2Proof.Machine
end

