-- ==== Sys2Proof/Machine/Operands.lean ====
section
/-!
DEFINITION. The fields of commands: the header of Table 06-3 and the words of a body, which offsets 0x10 to 0x3C of the
body tables name (R176, R181 to R187).
-/
namespace Sys2Proof.Machine

/-- Bits [hi:lo] of the body word at offset `off` of the command. -/
def bf (b : Body) (off hi lo : Nat) : Nat := bits (b.toNat / 2 ^ (8 * (off - 0x10))) hi lo

/-- The body word at offset `off`. -/
def bw (b : Body) (off : Nat) : Nat := bf b off 31 0

/-- The 64-bit field whose low word is at offset `off`. -/
def bq (b : Body) (off : Nat) : Nat := bf b off 63 0

/-- A one-bit field of the body. -/
def bb (b : Body) (off n : Nat) : Bool := bf b off n n == 1

/-- Header fields (Table 06-3). -/
def hdrGen (c : Command) : Nat := bits c.toNat 31 30
def hdrFence (c : Command) : Bool := bit c.toNat 29
def hdrReissue (c : Command) : Bool := bit c.toNat 28
def hdrPreempt (c : Command) : Bool := bit c.toNat 27
def hdrEnd (c : Command) : Bool := bit c.toNat 26
def hdrIrq (c : Command) : Bool := bit c.toNat 25
def hdrOpcode (c : Command) : Nat := bits c.toNat 23 16
def hdrTag (c : Command) : Nat := bits c.toNat 15 0
def hdrMask (c : Command) : Nat := bits c.toNat 47 32
def hdrTack (c : Command) : Nat := bits c.toNat 95 64

/-- The command's body (R176). -/
def bodyOf (c : Command) : Body := BitVec.ofNat 384 (c.toNat / 2 ^ 128)

/-- The command with header word 0 `w0`, word 1 `w1` and body `b`. -/
def command (w0 w1 w2 : Nat) (b : Body) : Command :=
  BitVec.ofNat 512 (w0 + w1 * 2 ^ 32 + w2 * 2 ^ 64 + b.toNat * 2 ^ 128)

/-- The engine's number, for the tables that engines key. -/
def engineNo : Engine → Nat
  | .stroke b => b.val
  | .burnisher b => 256 + b.val
  | .fin q => 512 + q.val
  | .dma q => 528 + q.val
  | .sync q => 544 + q.val
  | .rein r => 560 + r.val
  | .skive r => 564 + r.val
  | .startList p => 568 + p.val

/-- The engine's type code of QF_SHARE_SEL.TYPE (Table 07-7); the Start list has none. -/
def engineType : Engine → Nat
  | .stroke _ => 0
  | .burnisher _ => 1
  | .fin _ => 2
  | .dma _ => 3
  | .sync _ => 4
  | .rein _ => 5
  | .skive _ => 6
  | .startList _ => 7

/-- The register page of an engine instance. -/
def enginePage : Engine → Page
  | .stroke b => .blk b.val
  | .burnisher b => .blk b.val
  | .fin q => .fin q.val
  | .dma q => .qf q.val
  | .sync q => .qf q.val
  | .rein r => .rein r.val
  | .skive r => .skv r.val
  | .startList _ => .fwSl

/-- The region in which an engine lies; the Start list lies in its partition's. -/
def engineRegion : Engine → Option Nat
  | .stroke b => some (b.val / 64)
  | .burnisher b => some (b.val / 64)
  | .fin q => some (q.val / 4)
  | .dma q => some (q.val / 4)
  | .sync q => some (q.val / 4)
  | .rein r => some r.val
  | .skive r => some r.val
  | .startList _ => none

/-- The block of an engine, where it is a block's. -/
def engineBlock : Engine → Option Nat
  | .stroke b => some b.val
  | .burnisher b => some b.val
  | _ => none

/-- The opcodes of Table 06-4 and the queue kinds that carry them (0 compute, 1 serving, 2 copy). -/
def opcodeKinds (op : Nat) : Option (List Nat) :=
  if op = 0x00 then some [0, 1, 2]
  else if 0x01 ≤ op ∧ op ≤ 0x04 then some [0]
  else if op = 0x05 ∨ op = 0x06 then some [0, 2]
  else if 0x10 ≤ op ∧ op ≤ 0x14 then some [0, 1, 2]
  else if 0x20 ≤ op ∧ op ≤ 0x22 then some [0, 1]
  else if 0x30 ≤ op ∧ op ≤ 0x32 then some [0, 2]
  else if 0x40 ≤ op ∧ op ≤ 0x47 then some [1]
  else if op = 0x50 ∨ op = 0x51 then some [0, 2]
  else if 0x60 ≤ op ∧ op ≤ 0x64 then some [0, 2]
  else none

end Sys2Proof.Machine
end

