-- ==== Sys2Proof/Machine/Blocks.lean ====
section
/-!
DEFINITION. Blocks and their accumulator sets: which are live (R131), who holds them, and losing them.
-/
namespace Sys2Proof.Machine

/-! ### Blocks and their accumulator sets -/

/-- A block whose accumulator file is undefined since draw 0 (R131). -/
def freshBlock : Block := { words := [], ground := .free 0, lostAt := [], bad := [], holders := [], resident := none, wait := none }

/-- A block's state. -/
def block (s : Chip) (b : Nat) : Block := tgetD s.blocks b freshBlock

/-- Change a block's state. -/
def setBlock (s : Chip) (b : Nat) (f : Block → Block) : Chip := { s with blocks := tmod s.blocks b freshBlock f }

/-- Is the block fenced (FC_FENCE)? -/
def blockFenced (s : Chip) (b : Nat) : Bool := bit (rd s .fc (Reg.FC_FENCE_FENCED (b / 32))) (b % 32)

/-- Is set `k` of block `b` live (R131)? -/
def setLive (s : Chip) (b k : Nat) : Bool := bit (rd s (.blk b) Reg.BLK_ACC_STATE_LIVE) k

/-- Is the live set `k` of block `b` in narrow mode? -/
def setNarrow (s : Chip) (b k : Nat) : Bool := bit (rd s (.blk b) Reg.BLK_ACC_STATE_NARROW) k

/-- `v` with bit `n` set to `on`. -/
def putBit (v n : Nat) (on : Bool) : Nat := if bit v n then (if on then v else v - 2 ^ n) else (if on then v + 2 ^ n else v)

/-- Does the waiting pass of block `b` meet a live set of the other mode (R132)? -/
def waitBlocked (s : Chip) (b : Nat) (w : AccWait) : Bool :=
  w.sets.any (fun k => setLive s b k && setNarrow s b k != bb w.body 0x20 23)

/-- Has a wait reached the end of its half-open interval (R133)? -/
def accExpired (s : Chip) (b : Nat) (w : AccWait) : Bool :=
  let us := rd s (.blk b) Reg.BLK_ACC_FENCE_TIMEOUT
  decide (s.now ≥ w.since + (if us = 0 then 65536 else us) * 1000)

/-- A set of block `b` has stopped being live: a pass that waited on it alone, and whose timeout has not come, may proceed
(R133). -/
def noteFreed (s : Chip) (b : Nat) : Chip :=
  match (block s b).wait with
  | some w =>
    if waitBlocked s b w || accExpired s b w then s
    else setBlock s b (fun x => { x with wait := some { w with freed := true } })
  | none => s

/-- Set `k` stops being live (R131); its mode stays until a pass changes it (R132). -/
def endSet (s : Chip) (b k : Nat) : Chip :=
  let s := wr s (.blk b) Reg.BLK_ACC_STATE_LIVE (putBit (rd s (.blk b) Reg.BLK_ACC_STATE_LIVE) k false)
  noteFreed (setBlock s b (fun x => { x with holders := tdel x.holders k })) b

/-- Set `k` is lost: it stops being live, and its words are undefined from now on (R131). -/
def loseSet (s : Chip) (b k : Nat) : Chip :=
  let s := endSet s b k
  setBlock { s with fresh := s.fresh + 1 } b (fun x =>
    { x with words := x.words.filter (fun e => e.1 % 256 / 32 != k), lostAt := tset x.lostAt k s.fresh })

/-- An accumulator word of block number `b` as stored: listed, or undefined since the last loss of its set or of the block
(R131). -/
def blkWord (x : Block) (b k : Nat) : BitVec 48 :=
  tgetD x.words k (match tget x.lostAt (k % 256 / 32) with
    | some d => Config.freeAcc d (b * 32768 + k)
    | none => match x.ground with
      | .zero => 0
      | .free d => Config.freeAcc d (b * 32768 + k))

/-- An accumulator word of a block. -/
def accWord (s : Chip) (b k : Nat) : BitVec 48 := blkWord (block s b) b k

/-- Every set of the block is lost, and its contents are undefined (R131). -/
def loseSets (s : Chip) (b : Nat) : Chip :=
  let s := wr s (.blk b) Reg.BLK_ACC_STATE_LIVE 0
  setBlock { s with fresh := s.fresh + 1 } b
    (fun _ => { freshBlock with ground := .free s.fresh })

/-- The blocks of a quad. -/
def blocksOf (q : Nat) : List Nat := span (16 * q) 16

/-- The sets of block `b` whose holder satisfies `f`. -/
def heldBy (s : Chip) (b : Nat) (f : Nat × Nat × Nat → Bool) : List Nat :=
  ((block s b).holders.filter (fun e => f e.2)).map (fun e => e.1)

/-- The sets of a quad's blocks whose holder satisfies `f` are lost (R131). -/
def loseHeld (s : Chip) (q : Nat) (f : Nat × Nat × Nat → Bool) : Chip :=
  (blocksOf q).foldl (fun t b => (heldBy t b f).foldl (fun u k => loseSet u b k) t) s

end Sys2Proof.Machine
end

