-- ==== Sys2Proof/Machine/ExtMem.lean ====
section
/-!
DEFINITION. External memory (11): the device address map, ranges and slices, the access check, Girth regulators, ECC and
poison, and reading and writing bytes. Every access of every command goes through these operations.
-/
namespace Sys2Proof.Machine

/-! ### Bytes -/

/-- The byte at device address `a`; an unlisted byte reads zero (R346). -/
def cellGet (m : List Host.Cell) (a : Nat) : Byte := tgetD m a 0

/-- Write the byte at `a`, in canonical form: a zero byte is not listed. -/
def cellSet (m : List Host.Cell) (a : Nat) (v : Byte) : List Host.Cell := if v = 0 then tdel m a else tset m a v

/-- Write a run of bytes from `a`. -/
def cellsPut (m : List Host.Cell) (a : Nat) : List Byte → List Host.Cell
  | [] => m
  | b :: l => cellsPut (cellSet m a b) (a + 1) l

/-- The canonical form of a memory: addresses strictly rising, and no zero byte listed. -/
def cellsWf (m : List Host.Cell) : Bool := tsorted m && m.all (fun c => c.2 != 0)

/-! ### The device address map (R318 to R320) -/

/-- 64 MiB, the unit of range entries (R321). -/
def unit64 : Nat := 2 ^ 26

/-- Bytes of a stack: 96 GiB (Table 11-1). -/
def stackSize : Nat := 0x1800000000

/-- The first byte of the retired window: 93 GiB (R340). -/
def top93 : Nat := 93 * 2 ^ 30

/-- The first address of tier B (Table 11-1). -/
def tierBBase : Nat := 0x20000000000

/-- The unit that serves an address: a stack, or 16 for tier B; none where the address names no memory (R318). -/
def unitOf (a : Nat) : Option Nat :=
  if a < 16 * stackSize then some (a / stackSize)
  else if tierBBase ≤ a ∧ a < tierBBase + 2 ^ 40 then some 16
  else none

/-- The slice of a tier B address (R318). -/
def sliceOf (a : Nat) : Nat := (a - tierBBase) / 2 ^ 30

/-- The page of a unit; tier B's common registers stand in its first page (R350). -/
def unitPage (u : Nat) : Page := if u < 16 then .hbm u else .tb 0

/-- The tier B controller of an address (R320). -/
def tbController (a : Nat) : Nat := bits (a - tierBBase) 12 8 / 2

/-- The page of the controller that holds an address. -/
def ctrlPage (a : Nat) : Page :=
  match unitOf a with
  | some u => if u < 16 then .hbm u else .tb (tbController a)
  | none => .tb 0

/-- Granules below 93 GiB (R340). -/
def g93 : Nat := 390070272

/-- The stack offset at which an access to offset `x` is served once granule `k` of channel `cf` is copied (R340). -/
def remap (x cf : Nat) : Nat :=
  let g := x / 256
  if g % 32 ≠ cf then x
  else
    let k := g / 32
    let h := k % 31
    let i := if h < cf then h else h + 1
    (g93 + 32 * (k / 31) + i) * 256 + x % 256

/-- Does the retired window of the stack stand (R340)? -/
def windowClosed (s : Chip) (u : Nat) : Bool :=
  rd s (.hbm u) Reg.HBM_STAT_RETIRE_STATE ≥ 2
    || kmem s.retire u

/-- The channel that serves stack offset `x` (R319, R340, R341). -/
def channelOf (s : Chip) (u x : Nat) : Nat :=
  let cf := rd s (.hbm u) Reg.HBM_STAT_RETIRE_CHANNEL
  let st := rd s (.hbm u) Reg.HBM_STAT_RETIRE_STATE
  let done := st = 3 ∨ (st = 2 ∧ x / 256 / 32 < rd s (.hbm u) Reg.HBM_RETIRE_PROGRESS_COPIED)
  if done ∧ x < top93 then remap x cf / 256 % 32 else x / 256 % 32

/-! ### Ranges, slices and the access check (R321 to R324) -/

/-- A slice entry; none owned at reset. -/
def sliceEntry (s : Chip) (n : Nat) : Slice := tgetD s.slices n { valid := false, ro := false, retired := false, owner := 0 }

/-- Range entry `r` of partition `p` on stack `u`: valid, read-only, first unit, last unit. -/
def rangeEntry (s : Chip) (u p r : Nat) : Bool × Bool × Nat × Nat :=
  (rd s (.hbm u) (Reg.HBM_RANGE_VALID p r) == 1, rd s (.hbm u) (Reg.HBM_RANGE_RO p r) == 1,
   rd s (.hbm u) (Reg.HBM_RANGE_FIRST p r), rd s (.hbm u) (Reg.HBM_RANGE_LAST p r))

/-- Does entry `r` hold the whole access, and grant it (R321)? -/
def entryGrants (s : Chip) (u p r x len : Nat) (write : Bool) : Bool :=
  let e := rangeEntry s u p r
  e.1 && decide (e.2.2.1 * unit64 ≤ x ∧ x + len ≤ (e.2.2.2 + 1) * unit64) && !(write && e.2.1)

/-- The access check of R323: the code that refuses it, if any: MEM_RETIRED, MEM_RANGE or MEM_READ_ONLY. -/
def accessCheck (s : Chip) (p a len : Nat) (write : Bool) : Option Nat :=
  match unitOf a with
  | none => some 0x78
  | some u =>
    if u < 16 then
      let x := a % stackSize
      if windowClosed s u && decide (x + len > top93) then some 0x7A
      else if (List.range 4).any (fun r => entryGrants s u p r x len write) then none
      else if (List.range 4).any (fun r => entryGrants s u p r x len false) then some 0x79
      else some 0x78
    else
      let e := sliceEntry s (sliceOf a)
      if e.retired then some 0x7A
      else if e.valid && e.owner == p && decide (sliceOf (a + len - 1) = sliceOf a ∧ unitOf (a + len - 1) = some 16) then
        if write && e.ro then some 0x79 else none
      else some 0x78

/-- Count a refused access at the controller that checked it (R324, Table 11-7, Table 11-9). -/
def refuseAccess (s : Chip) (a : Nat) (host : Bool) : Chip :=
  match unitOf a with
  | none => s
  | some u =>
    if u < 16 then
      if host then bump s (.hbm u) Reg.HBM_FENCE_STAT_HOST 1
      else bump s (.hbm u) Reg.HBM_FENCE_STAT_DEVICE 1
    else if host then bump s (.tb 0) Reg.TB_FENCE_STAT_HOST 1
    else bump s (.tb 0) Reg.TB_FENCE_STAT_DEVICE 1

/-- Is the address a device address of the partition (R323)? Read-only entries count. -/
def owned (s : Chip) (p a len : Nat) : Bool := accessCheck s p a len false == none

/-! ### Girth regulators (R327, R328) -/

/-- The regulator's number. -/
def girthNo (u p : Nat) : Nat := 16 * u + p

/-- RATE of a regulator. -/
def girthRate (s : Chip) (u p : Nat) : Nat :=
  if u < 16 then rd s (.hbm u) (Reg.HBM_GIRTH_CFG_RATE p) else rd s (.tb 0) (Reg.TB_GIRTH_CFG_RATE p)

/-- BURST × 1,024 of a regulator; 0 means 65,536 KiB (Table 11-7). -/
def girthBurst (s : Chip) (u p : Nat) : Nat :=
  let b := if u < 16 then rd s (.hbm u) (Reg.HBM_GIRTH_CFG_BURST p) else rd s (.tb 0) (Reg.TB_GIRTH_CFG_BURST p)
  (if b = 0 then 65536 else b) * 1024

/-- The regulator's state; its credit starts at BURST × 1,024 (R327). -/
def girthOf (s : Chip) (u p : Nat) : Girth :=
  tgetD s.girth (girthNo u p)
    { credit := girthBurst s u p, want := 0, paid := 0, held := false, bytesRest := 0, stallRest := 0 }

/-- The regulator's new state. -/
def setGirth (s : Chip) (u p : Nat) (g : Girth) : Chip := { s with girth := tset s.girth (girthNo u p) g }

/-- The bytes that requests of 64 bytes, the size of a line, are granted one after the other while the credit lasts (R327; the
requests' size: DESIGN CHOICE, log 35). -/
def allowance (s : Chip) (u p : Nat) : Nat := cdiv (girthOf s u p).credit.toNat 64 * 64

/-- May `n` bytes of the partition go on at once: what it has been granted already, and what its credit lets pass (R327)? -/
def eligible (s : Chip) (u p n : Nat) : Bool :=
  girthRate s u p == 0 || decide (n ≤ (girthOf s u p).paid + allowance s u p)

/-- Grant `n` bytes: the credit falls, the bytes count (R327, R328). -/
def girthGrant (s : Chip) (u p n : Nat) : Chip :=
  let g := girthOf s u p
  let total := g.bytesRest + n
  let credit := if girthRate s u p = 0 then g.credit else g.credit - n
  let t := setGirth s u p { g with credit := credit, bytesRest := total % 4096 }
  if u < 16 then bumpWrap t (.hbm u) (Reg.HBM_GIRTH_BYTES_UNITS p) (total / 4096)
  else bumpWrap t (.tb 0) (Reg.TB_GIRTH_BYTES_UNITS p) (total / 4096)

/-- `n` bytes move: those granted while their command waited are spent first. -/
def girthSpend (s : Chip) (u p n : Nat) : Chip :=
  let g := girthOf s u p
  girthGrant (setGirth s u p { g with paid := g.paid - n }) u p (n - g.paid)

/-- The credit goes to the bytes that wait, as far as it lasts (R327). -/
def girthServe (s : Chip) (u p : Nat) : Chip :=
  let n := if girthRate s u p = 0 then (girthOf s u p).want else min (girthOf s u p).want (allowance s u p)
  let t := girthGrant s u p n
  let g := girthOf t u p
  setGirth t u p { g with want := g.want - n, paid := g.paid + n, held := g.held && decide (n < g.want) }

/-- A command of the partition that moves `n` bytes waits for credit alone (R328): what the credit lets pass is granted. -/
def girthWait (s : Chip) (u p n : Nat) : Chip :=
  let g := girthOf s u p
  girthServe (setGirth s u p { g with want := max g.want (n - g.paid) }) u p

/-! ### Readiness (R346, R345, R460) -/

/-- The region of a unit's stacks; tier B has none. -/
def unitRegion (u : Nat) : Option Nat := if u < 16 then some (u / 4) else none

/-- Is the region AWAKE (R456)? -/
def regionAwake (s : Chip) (r : Nat) : Bool := bit (rd s .pm Reg.PM_REGION_STAT_AWAKE) r

/-- A region that work reaches wakes (R460). -/
def regionCall (s : Chip) (r : Nat) : Chip :=
  if regionAwake s r then s else { s with power := { s.power with waking := kadd s.power.waking r } }

/-- May an access to the unit be granted: its tier initialised (R346) and its region AWAKE (R460)? -/
def unitReady (s : Chip) (u : Nat) : Bool := if u < 16 then s.power.tierA && regionAwake s (u / 4) else s.power.tierB

/-- An access reaches the unit: it wakes the unit's region, ends tier B's self-refresh, and counts as activity. -/
def unitTouch (s : Chip) (u : Nat) : Chip :=
  if u < 16 then
    let t := regionCall s (u / 4)
    { t with power := { t.power with lastRegion := tset t.power.lastRegion (u / 4) t.now } }
  else
    let t := (List.range 16).foldl
      (fun t c => if rd t (.tb c) Reg.TB_STAT_POWER = 1 then wr t (.tb c) Reg.TB_STAT_POWER 0 else t) s
    { t with power := { t.power with lastTierB := t.now } }

/-! ### ECC, poison and recurrence (R334 to R338, R343, R344) -/

/-- Is the line of address `a` poisoned? -/
def lineBad (s : Chip) (a : Nat) : Bool := kmem s.mem.poison (a / 64)

/-- Is any line of a run poisoned? -/
def runBad (s : Chip) (a len : Nat) : Bool :=
  s.mem.poison.any (fun l => decide (a / 64 ≤ l ∧ l * 64 < a + len))

/-- The poisoned lines of a run, as device addresses. -/
def badLines (s : Chip) (a len : Nat) : List Nat :=
  (s.mem.poison.filter (fun l => decide (a / 64 ≤ l ∧ l * 64 < a + len))).map (fun l => l * 64)

/-- The address of the first of them. -/
def firstBad (s : Chip) (a len : Nat) : Option Nat :=
  (badLines s a len).head?

/-- The module with the memory `m`. -/
def setMem (s : Chip) (m : Memory) : Chip := { s with mem := m }

/-- Mark a line poisoned. -/
def poisonLine (s : Chip) (line : Nat) : Chip := { s with mem := { s.mem with poison := kadd s.mem.poison line } }

/-- Has a window passed either threshold (R337)? -/
def passed (w : Window) (ce ue : Nat) : Bool := w.ce ≥ ce || w.ue ≥ ue

/-- The channel's window counts an event; past the threshold the channel asks to be retired, or SPARE_EXHAUSTED is
reported once (R337, R338, R343). -/
def channelEvent (s : Chip) (u ch : Nat) (ue : Bool) : Chip :=
  let len := rd s (.hbm u) Reg.HBM_ECC_CFG_WINDOW * 1000000000
  let ceT := orFull (rd s (.hbm u) Reg.HBM_ECC_CFG_CE_THRESH)
  let ueT := orFull (rd s (.hbm u) Reg.HBM_ECC_CFG_UE_THRESH)
  let t := countEvent s (resChannel u ch) len ue
  if passed (windowNow t (resChannel u ch) len) ceT ueT then
    if rd t (.hbm u) Reg.HBM_STAT_RETIRE_STATE = 0 then
      let t := wrAll t (.hbm u) [(Reg.HBM_STAT_RETIRE_STATE, 1), (Reg.HBM_STAT_RETIRE_CHANNEL, ch)]
      let t := send t (.hbm u) { plainNote (.hbm u) .corrected 0x7D with addr := some (2, ch), detail := ch }
      setFlag t (.hbm u) Reg.HBM_IRQ_STAT_RETIRE_REQUEST
    else if rd t (.hbm u) Reg.HBM_STAT_RETIRE_CHANNEL ≠ ch ∧ rd t (.hbm u) Reg.HBM_STAT_SPARE_EXHAUSTED = 0 then
      let t := wr t (.hbm u) Reg.HBM_STAT_SPARE_EXHAUSTED 1
      report t (.hbm u) Reg.HBM_ERR_STAT_SPARE_EXHAUSTED
        { plainNote (.hbm u) .deferred 0x7F with addr := some (2, ch), detail := ch }
    else t
  else t

/-- The slice's window counts an event; passing the threshold is reported (R344). -/
def sliceEvent (s : Chip) (n : Nat) (ue : Bool) : Chip :=
  let len := rd s (.tb 0) Reg.TB_ECC_CFG_WINDOW * 1000000000
  let ceT := orFull (rd s (.tb 0) Reg.TB_ECC_CFG_CE_THRESH)
  let ueT := orFull (rd s (.tb 0) Reg.TB_ECC_CFG_UE_THRESH)
  let was := passed (windowNow s (resSlice n) len) ceT ueT
  let t := countEvent s (resSlice n) len ue
  if passed (windowNow t (resSlice n) len) ceT ueT && !was then
    setFlag (send t (.tb 0) { plainNote (.tb 0) .corrected 0x82 with addr := some (2, n), detail := n }) (.tb 0)
      Reg.TB_IRQ_STAT_SLICE_RETIRE
  else t

/-- A controller detects an error in the line of address `a` (R334): corrected, or the line poisoned. -/
def lineError (s : Chip) (a : Nat) (ue : Bool) (who : Option Origin) : Chip :=
  match unitOf a with
  | none => s
  | some u =>
    let s := { s with mem := { s.mem with latent := tdel s.mem.latent (a / 64) } }
    let s := if ue then poisonLine s (a / 64) else s
    let pg := ctrlPage a
    let n := { (plainNote pg (if ue then .deferred else .corrected)
        (if u < 16 then (if ue then 0x7C else 0x7B) else (if ue then 0x81 else 0x80))).ofJob who with
      addr := some (0, a / 64 * 64), detail := if u < 16 then channelOf s u (a % stackSize) else sliceOf a }
    if u < 16 then
      let s := bump s pg (if ue then Reg.HBM_ECC_STAT_UE else Reg.HBM_ECC_STAT_CE) 1
      let s := report s pg (if ue then Reg.HBM_ERR_STAT_UE else Reg.HBM_ERR_STAT_CE) n
      channelEvent s u (channelOf s u (a % stackSize)) ue
    else
      let s := bump s pg (if ue then Reg.TB_ECC_STAT_UE else Reg.TB_ECC_STAT_CE) 1
      let s := report s pg (if ue then Reg.TB_ERR_STAT_UE else Reg.TB_ERR_STAT_CE) n
      sliceEvent s (sliceOf a) ue

/-- SPARE_EXHAUSTED of a stack, injected at the channel of `a`: as a real one (R343, R488). -/
def injectSpare (s : Chip) (u a : Nat) : Chip :=
  let ch := channelOf s u (a % stackSize)
  report (wr s (.hbm u) Reg.HBM_STAT_SPARE_EXHAUSTED 1) (.hbm u) Reg.HBM_ERR_STAT_SPARE_EXHAUSTED
    { plainNote (.hbm u) .deferred 0x7F with addr := some (2, ch), detail := ch }

/-- The armed injections of the controller of `a` fire at a read (R488). -/
def injectLine (s : Chip) (a : Nat) (who : Option Origin) : Chip :=
  let pg := ctrlPage a
  let arm := rd s pg Reg.ERR_INJECT_ARM
  let s := if bit arm 0 then lineError (wr s pg Reg.ERR_INJECT_ARM (arm - 1)) a false who else s
  let arm := rd s pg Reg.ERR_INJECT_ARM
  let s := if bit arm 1 then lineError (wr s pg Reg.ERR_INJECT_ARM (arm - 2)) a true who else s
  let arm := rd s pg Reg.ERR_INJECT_ARM
  match unitOf a with
  | some u =>
    if u < 16 ∧ bit arm 3 then injectSpare (wr s pg Reg.ERR_INJECT_ARM (arm - 8)) u a else s
  | none => s

/-- The pieces of a run, cut at 64 MiB units: entries and slices begin and end there (R321, R322), so a piece has one
answer for every access in it. -/
def pieces (a len : Nat) : List (Nat × Nat) :=
  if len = 0 then []
  else
    (span (a / unit64) ((a + len - 1) / unit64 + 1 - a / unit64)).map (fun u =>
      let lo := max a (u * unit64)
      (lo, min (a + len) ((u + 1) * unit64) - lo))

/-- Is granule number COPIED of the failed channel, below 93 GiB, being copied, and does the piece of `n` bytes at `a` reach it
(R341)? -/
def pieceBusy (s : Chip) (a n : Nat) : Bool :=
  match unitOf a with
  | none => false
  | some u =>
    let at' := (rd s (.hbm u) Reg.HBM_RETIRE_PROGRESS_COPIED * 32 + rd s (.hbm u) Reg.HBM_STAT_RETIRE_CHANNEL) * 256
    u < 16 && rd s (.hbm u) Reg.HBM_STAT_RETIRE_STATE == 2 && decide (at' < top93 ∧ a % stackSize < at' + 256 ∧
      at' < a % stackSize + n)

/-- Does the run of `n` bytes at `a` reach a granule that is being copied? An access to it waits until the copy ends (R341). -/
def granuleBusy (s : Chip) (a n : Nat) : Bool := (pieces a n).any (fun e => pieceBusy s e.1 e.2)

/-- The first address of a run at each controller that it reaches: tier B's controllers take 512 bytes in turn (R320, R488). -/
def controllerStarts (a len : Nat) : List Nat :=
  (pieces a len).flatMap (fun e => match unitOf e.1 with
    | none => []
    | some u =>
      if u < 16 then [e.1]
      else e.1 :: ((span (e.1 / 512 + 1) 15).map (fun k => k * 512)).filter (fun x => decide (x < e.1 + e.2)))

/-- A read of a run meets the errors stored in its lines, in address order, and fires the armed injections of the controllers
that it reaches (R334, R488). -/
def readMeets (s : Chip) (a len : Nat) (who : Option Origin) : Chip :=
  if len = 0 then s
  else
    let met := s.mem.latent.filter (fun e => decide (a / 64 ≤ e.1 ∧ e.1 * 64 < a + len))
    (controllerStarts a len).foldl (fun t x => injectLine t x who) (met.foldl (fun t e => lineError t (e.1 * 64) e.2 who) s)

/-! ### Reading and writing runs -/

/-- The bytes of a run, as stored. -/
def memRead (s : Chip) (a len : Nat) : List Byte := (span a len).map (cellGet s.mem.bytes)

/-- The little-endian number of a run. -/
def memNat (s : Chip) (a len : Nat) : Nat := ofBytes (memRead s a len)

/-- The lines that a run of `len` bytes from `a` covers whole (R335). -/
def wholeLine (a len line : Nat) : Bool := decide (a ≤ line * 64 ∧ line * 64 + 64 ≤ a + len)

/-- Write a run: its bytes, and whole lines lose their poison and the errors stored in them (R335). -/
def memPut (s : Chip) (a : Nat) (b : List Byte) : Chip :=
  { s with mem := { bytes := cellsPut s.mem.bytes a b,
                    poison := s.mem.poison.filter (fun l => !(wholeLine a b.length l)),
                    latent := s.mem.latent.filter (fun e => !(wholeLine a b.length e.1)) } }

/-- Poison every line of a run (R23, R333). -/
def poisonRun (s : Chip) (a len : Nat) : Chip :=
  if len = 0 then s
  else { s with mem := { s.mem with
    poison := (span (a / 64) ((a + len - 1) / 64 + 1 - a / 64)).foldl kadd s.mem.poison } }

/-- Write zero to every line of a run of lines, with fresh check bits (R346, R347). -/
def memZero (s : Chip) (a len : Nat) : Chip :=
  let out := fun x => !(decide (a ≤ x ∧ x < a + len))
  { s with mem := { bytes := s.mem.bytes.filter (fun c => out c.1),
                    poison := s.mem.poison.filter (fun l => out (l * 64)),
                    latent := s.mem.latent.filter (fun e => out (e.1 * 64)) } }

/-! ### Admission: check, readiness and regulator in one -/

/-- What becomes of a request at a controller: it is made, it waits, or it is refused with a code. -/
inductive Admit
  | go | wait | refuse (code : Nat)
deriving DecidableEq, Repr

/-- The fate of a request of partition `p` (R323, R346, R327, R341). -/
def girthAdmit (s : Chip) (p a len : Nat) (write : Bool) : Admit :=
  match accessCheck s p a len write with
  | some c => .refuse c
  | none =>
    match unitOf a with
    | none => .refuse 0x78
    | some u => if unitReady s u && eligible s u p len && !(granuleBusy s a len) then .go else .wait

/-- `n` bytes of the partition wait at the unit: for its power or its initialisation, for credit alone, or for a granule that
is being copied. -/
def unitWait (s : Chip) (u p n : Nat) : Chip :=
  if !(unitReady s u) then unitTouch s u else if eligible s u p n then s else girthWait s u p n

/-- The state once the request has its fate: refused and counted, waiting, or granted and charged. -/
def admitted (s : Chip) (p a len : Nat) (write : Bool) : Chip :=
  match girthAdmit s p a len write with
  | .refuse _ => refuseAccess s a false
  | .wait =>
    match unitOf a with
    | none => s
    | some u => unitWait s u p len
  | .go =>
    match unitOf a with
    | none => s
    | some u => girthSpend (unitTouch s u) u p len

/-- Bytes of a run before its first refused access (R323): those accesses are made. -/
def runPrefix (s : Chip) (p a len : Nat) (write : Bool) : Nat :=
  match (pieces a len).find? (fun e => (accessCheck s p e.1 e.2 write).isSome) with
  | some e => e.1 - a
  | none => len

/-- The refusal of a run, by its first refused access. -/
def memRefusal (s : Chip) (p a len : Nat) (write : Bool) : Option Nat :=
  (pieces a len).findSome? (fun e => accessCheck s p e.1 e.2 write)

/-- The bytes that runs move at each unit, added to those of `t`. -/
def runUnits (t : Table Nat) (l : List (Nat × Nat)) : Table Nat :=
  (l.flatMap (fun x => pieces x.1 x.2)).foldl (fun t e =>
    match unitOf e.1 with
    | none => t
    | some u => tset t u (tgetD t u 0 + e.2)) t

/-- May a command of the partition move these bytes of each unit now (R327, R346, R460)? -/
def unitsGo (s : Chip) (p : Nat) (t : Table Nat) : Bool := t.all (fun e => unitReady s e.1 && eligible s e.1 p e.2)

/-- It may not: it waits at each unit that does not let it go on. -/
def unitsWait (s : Chip) (p : Nat) (t : Table Nat) : Chip :=
  t.foldl (fun c e => if unitReady c e.1 && eligible c e.1 p e.2 then c else unitWait c e.1 p e.2) s

/-- It moves them: every unit is reached, and its regulator charged (R327, R328). -/
def unitsCharge (s : Chip) (p : Nat) (t : Table Nat) : Chip :=
  t.foldl (fun c e => girthSpend (unitTouch c e.1) e.1 p e.2) s

/-- Grant a run. -/
def chargeRun (s : Chip) (p a len : Nat) : Chip := unitsCharge s p (runUnits [] [(a, len)])

/-- What a command's runs move, group by group, until an access is refused: the runs of a group go together, and none goes
further than the first that is cut short (R323). -/
def madeRuns (s : Chip) (p : Nat) : List (List (Nat × Nat × Bool)) → List (Nat × Nat)
  | [] => []
  | g :: l =>
    if g.all (fun x => runPrefix s p x.1 x.2.1 x.2.2 == x.2.1) then g.map (fun x => (x.1, x.2.1)) ++ madeRuns s p l
    else
      let n := g.foldl (fun n x => min n (runPrefix s p x.1 x.2.1 x.2.2)) (2 ^ 64)
      g.map (fun x => (x.1, min x.2.1 n))

/-- Does a command wait for its runs (R327, R341, R346, R460)? -/
def runsWait (s : Chip) (p : Nat) (l : List (List (Nat × Nat × Bool))) : Bool :=
  !(unitsGo s p (runUnits [] (madeRuns s p l))) || (madeRuns s p l).any (fun x => granuleBusy s x.1 x.2)

/-- The state of a command that waits for its runs. -/
def runsHeld (s : Chip) (p : Nat) (l : List (List (Nat × Nat × Bool))) : Chip := unitsWait s p (runUnits [] (madeRuns s p l))

/-- The fate of a run of accesses: what comes before its first refused one waits, or that one decides. -/
def admitRun (s : Chip) (p a len : Nat) (write : Bool) : Admit :=
  if runsWait s p [[(a, len, write)]] then .wait
  else match memRefusal s p a len write with
    | some c => .refuse c
    | none => .go

end Sys2Proof.Machine
end

