-- ==== Sys2Proof/Machine/Live.lean ====
section
/-!
DEFINITION. Live jobs and their commands (06): finding them, what an engine has carried out, the counts of live jobs, and
how queues stop (R197) and end their reset (R199).
-/
namespace Sys2Proof.Machine

/-! ### Finding and changing jobs -/

/-- Does the job carry this origin's partition, queue and tag? -/
def fromOrigin (o : Origin) (j : Job) : Bool :=
  j.part == o.part.val && j.queue == o.queue.val && j.tag == o.tag.toNat && j.step == o.step

/-- The live job with a given number. -/
def jobById (s : Chip) (id : Nat) : Option Job := s.q.jobs.find? (fun j => j.id == id)

/-- Change the live job with a given number. -/
def setJob (s : Chip) (id : Nat) (f : Job → Job) : Chip :=
  { s with q := { s.q with jobs := s.q.jobs.map (fun j => if j.id = id then f j else j) } }

/-- The queue page of an origin. -/
def queuePage (o : Origin) : Page := .sq o.part.val o.queue.val

/-- Is the command still to be carried out on some engine? -/
def unfinished (c : Cmd) : Bool := !c.retired && !c.dropped

/-- Has the command issued on some engine? -/
def hasIssued (c : Cmd) : Bool := c.copies.any (fun k => k.fate != .queued)

/-- Does the command's body and opcode match, and is it issued on engine `e` and not done? -/
def runsOn (e : Engine) (op : Nat) (b : Body) (c : Cmd) : Bool :=
  unfinished c && hdrOpcode c.raw == op && bodyOf c.raw == b
    && c.copies.any (fun k => k.engine == e && k.fate == .issued)

/-- The origin of a job. -/
def originOf (j : Job) : Origin :=
  { part := ⟨j.part % 16, Nat.mod_lt _ (by decide)⟩, queue := ⟨j.queue % 64, Nat.mod_lt _ (by decide)⟩,
    tag := BitVec.ofNat 16 j.tag, quad := ⟨j.quad % 16, Nat.mod_lt _ (by decide)⟩, step := j.step }

/-- The live job of an origin: the one whose command is in hand, else one with a command that has issued and not ended, else the
oldest; tags may repeat (R178). -/
def findJob (s : Chip) (o : Origin) : Option Job :=
  match s.q.jobs.find? (fun j => fromOrigin o j && s.q.hand == some j.id) with
  | some j => some j
  | none =>
    match s.q.jobs.find? (fun j => fromOrigin o j && j.cmds.any (fun c => unfinished c && hasIssued c)) with
    | some j => some j
    | none => s.q.jobs.find? (fromOrigin o)

/-- Change the live job of an origin; nothing where there is none. -/
def onJob (s : Chip) (o : Origin) (f : Job → Job) : Chip :=
  match findJob s o with
  | some j => setJob s j.id f
  | none => s

/-- The live job of the origin for which engine `e` runs a command with this opcode and body. -/
def runningJob (s : Chip) (o : Origin) (e : Engine) (op : Nat) (b : Body) : Option Job :=
  s.q.jobs.find? (fun j => fromOrigin o j && j.cmds.any (runsOn e op b))

/-- The first command of the origin that engine `e` runs with this opcode and body. -/
def runningCmd (s : Chip) (o : Origin) (e : Engine) (op : Nat) (b : Body) : Option Cmd :=
  (runningJob s o e op b).bind (fun j => j.cmds.find? (runsOn e op b))

/-- The command's header, where the queue holds it; a header of zeros otherwise. -/
def headerOf (s : Chip) (o : Origin) (e : Engine) (op : Nat) (b : Body) : Command :=
  match runningCmd s o e op b with
  | some c => c.raw
  | none => 0

/-- A block number as a block's engine number. -/
def engineAt (b : Nat) (stroke : Bool) : Engine :=
  let f : Fin 256 := ⟨b % 256, Nat.mod_lt b (by decide)⟩
  if stroke then .stroke f else .burnisher f

/-- Work of a region ends now (R461). -/
def stampRegion (s : Chip) (r : Nat) : Chip := { s with power := { s.power with lastRegion := tset s.power.lastRegion r s.now } }

/-- Work of an engine ends now: the idle times of its block and its region start again (R458, R461). -/
def stampEngine (s : Chip) (e : Engine) : Chip :=
  let s := match engineBlock e with
    | some b => { s with power := { s.power with lastBlock := tset s.power.lastBlock b s.now } }
    | none => s
  let s := match e with
    | .fin q => { s with power := { s.power with lastFin := tset s.power.lastFin q.val s.now } }
    | _ => s
  match engineRegion e with
  | some r => stampRegion s r
  | none => s

/-- Has the quad's Fin unit work: a command issued, or BF16 rung work? -/
def finBusy (s : Chip) (q : Nat) : Bool :=
  s.prec.items.any (fun i => i.blk / 16 == q)
    || s.q.jobs.any (fun j => j.cmds.any (fun c => unfinished c && c.copies.any (fun k =>
      (match k.engine with
        | .fin f => f.val == q
        | _ => false) && k.fate == .issued)))

/-- A Fin unit's power state (R477, Table 16-10): it follows from GATE_EN, RETAIN_US and the end of its last activity; one that
has had none runs (DESIGN CHOICE, log 110). -/
def finPower (s : Chip) (q : Nat) : Nat :=
  let t := rd s (.fin q) Reg.PWR_CTRL_RETAIN_US
  match tget s.power.lastFin q with
  | none => 0
  | some last =>
    if finBusy s q then 0
    else if t ≠ 0 ∧ last + 1000 * t ≤ s.now then 2
    else if rd s (.fin q) Reg.PWR_CTRL_GATE_EN = 1 then 1
    else 0

/-- Work reaches a Fin unit: one in RETAINED wakes, and counts it. -/
def finWakes (s : Chip) (q : Nat) : Chip := if finPower s q = 2 then bump s (.fin q) Reg.PWR_STAT_WAKES 1 else s

/-- The first copy of `c` on engine `e` that has fate `a` comes to fate `b`: an engine carries out one copy at a time. -/
def moveFate (e : Engine) (a b : Fate) : List Copy → List Copy
  | [] => []
  | k :: l => if k.engine = e ∧ k.fate = a then { k with fate := b } :: l else k :: moveFate e a b l

/-- The copy of `c` that engine `e` runs is done. -/
def copiesDone (e : Engine) (c : Cmd) : Cmd := { c with copies := moveFate e .issued .done c.copies }

/-- Engine `e` has carried the command out: its copy is done; it retires later (R179). -/
def finish (s : Chip) (o : Origin) (e : Engine) (op : Nat) (b : Body) : Chip :=
  match runningJob s o e op b, runningCmd s o e op b with
  | some j, some c =>
    setJob (stampEngine s e) j.id (fun j => { j with cmds := j.cmds.map (fun d => if d.index = c.index then copiesDone e d else d) })
  | _, _ => s

/-- Have all the commands before index `i` of the job retired (R179)? -/
def earlierRetired (j : Job) (i : Nat) : Bool := (j.cmds.filter (fun c => c.index < i)).all (fun c => !(unfinished c))

/-- May a command that waits for the earlier commands of its job go on (R179)? Where the queue holds no such command,
nothing holds it back. -/
def mayFollow (s : Chip) (o : Origin) (e : Engine) (op : Nat) (b : Body) : Bool :=
  match runningJob s o e op b, runningCmd s o e op b with
  | some j, some c => earlierRetired j c.index
  | _, _ => true

/-- Has the sync engine come to the command: does it wait, or wait for the queues to stop? -/
def awaited (s : Chip) (j : Job) (c : Cmd) : Bool :=
  s.q.waits.any (fun w => fromOrigin w.origin j && w.body == bodyOf c.raw)
    || s.q.stops.any (fun w => fromOrigin w.1 j && w.2 == bodyOf c.raw)

/-- `f` changes the commands of job `j`; what it discards after its issue, its engine carries out no more (R178, R196, R199). -/
def cancelCmds (s : Chip) (j : Job) (f : Cmd → Cmd) : Chip :=
  let lost := j.cmds.filter (fun c => unfinished c && c.copies.any (fun k => k.fate == .issued) && (f c).dropped && !(awaited s j c))
  let s := setJob s j.id (fun k => { k with cmds := k.cmds.map f })
  { s with q := { s.q with
    cancelled := s.q.cancelled ++ lost.map (fun c => (originOf j, hdrOpcode c.raw, bodyOf c.raw)) } }

/-- Has the command with this opcode and body been cancelled after its issue? -/
def isCancelled (s : Chip) (o : Origin) (op : Nat) (b : Body) : Bool :=
  s.q.cancelled.any (fun x => x.1 == o && x.2.1 == op && x.2.2 == b)

/-- Its engine has passed over a cancelled command. -/
def passOver (s : Chip) (o : Origin) (op : Nat) (b : Body) : Chip :=
  { s with q := { s.q with cancelled := s.q.cancelled.erase (o, op, b) } }

/-- The job whose command engine `e` runs is in hand: what comes of it comes of that job (R178). -/
def handTo (s : Chip) (o : Origin) (e : Engine) (op : Nat) (b : Body) : Chip :=
  match runningJob s o e op b with
  | some j => { s with q := { s.q with hand := some j.id } }
  | none => s

/-- Is the command still to be carried out: does the engine run it, or has none such been cancelled? -/
def stillToDo (s : Chip) (o : Origin) (e : Engine) (op : Nat) (b : Body) : Bool :=
  (runningJob s o e op b).isSome || !(isCancelled s o op b)

/-- Engine `e` carries a command out, as `f` does: nothing comes of one that was cancelled after its issue (R178, R196, R199). -/
def carriedOut (s : Chip) (o : Origin) (e : Engine) (op : Nat) (b : Body) (f : Chip → Chip) : Chip :=
  if stillToDo s o e op b then f (handTo s o e op b) else passOver s o op b

/-- Mark the job as having written or consumed poison (Table 06-2). -/
def markPoisoned (s : Chip) (o : Origin) : Chip := onJob s o (fun j => { j with poisoned := true })

/-! ### Counts of live jobs (Table 06-12, Table 06-14) -/

/-- Recount JOBS_LIVE of a queue and of its home quad's front; a job whose record is held counts no more (DESIGN CHOICE,
log 36). -/
def recount (s : Chip) (p n q : Nat) : Chip :=
  let byQueue := (s.q.jobs.filter (fun j => j.part == p && j.queue == n && !j.step)).length
  let byQuad := (s.q.jobs.filter (fun j => j.quad == q)).length
  wr (wr s (.sq p n) Reg.SQ_STAT_JOBS_LIVE (min byQueue 255)) (.qf q) Reg.QF_STAT_JOBS_LIVE (min byQuad 255)

/-- A queue's state (Table 06-12). -/
def queueState (s : Chip) (p n : Nat) : Nat := rd s (.sq p n) Reg.SQ_STAT_STATE

/-- The queues of a partition in a given state. -/
def queuesIn (s : Chip) (p st : Nat) : List Nat := (List.range 64).filter (fun n => queueState s p n == st)

/-- Recount the enabled queues with home quad `q` (Table 06-14). -/
def showBound (s : Chip) (p q : Nat) : Chip :=
  let k := ((List.range 64).filter (fun n => queueState s p n != 0 && rd s (.sq p n) Reg.SQ_CFG_QUAD == q)).length
  wr s (.qf q) Reg.QF_STAT_QUEUES_BOUND k

/-- Show the waits pending at a quad front (Table 06-14). -/
def showWaits (s : Chip) (q : Nat) : Chip :=
  wr s (.qf q) Reg.QF_WAIT_WAITS_LIVE (min (s.q.waits.filter (fun w => w.origin.quad.val == q)).length 65535)

/-! ### Stopping (R197, R369) -/

/-- The number of a queue among those of every partition. -/
def queueNo (p n : Nat) : Nat := 64 * p + n

/-- Is the queue, in ERROR, stopped by WEIGH_ENOUGH (R197)? -/
def isHalted (s : Chip) (p n : Nat) : Bool := kmem s.q.halted (queueNo p n)

/-- The queues of a partition that may dispatch (R197, R172): ACTIVE, or in ERROR and not stopped. -/
def goingQueues (s : Chip) (p : Nat) : List Nat :=
  (List.range 64).filter (fun n => queueState s p n == 1 || (queueState s p n == 5 && !(isHalted s p n)))

/-- Do the queue's jobs still have an issued command that has not retired (R197)? WEIGH_ENOUGH itself does not count. -/
def queueBusy (s : Chip) (p n : Nat) : Bool :=
  s.q.jobs.any (fun j => j.part == p && j.queue == n
    && j.cmds.any (fun c => unfinished c && hasIssued c && hdrOpcode c.raw != 0x14))

/-- Show in the quad fronts whether WEIGH_ENOUGH is in progress or in effect (Table 06-14). -/
def showStopping (s : Chip) (p : Nat) : Chip :=
  let on := !((queuesIn s p 2).isEmpty && (queuesIn s p 3).isEmpty)
  (quadsOf s p).foldl (fun t q => wr t (.qf q) Reg.QF_STAT_STOPPING (if on then 1 else 0)) s

/-- Does a switch in progress on the queue's home quad hold its stop back (R197)? -/
def stopWaits (s : Chip) (p n : Nat) : Bool :=
  let st := rd s (.qf (rd s (.sq p n) Reg.SQ_CFG_QUAD)) Reg.QF_PREEMPT_STAT_STATE
  queueBusy s p n || st == 1 || st == 2

/-- Queues that are STOPPING and have nothing issued left, outside a switch in progress, are STOPPED (R197); once every
one is, and no stopped queue in ERROR has an issued command left, the WEIGH_ENOUGH commands of the partition are done. -/
def stopProgress (s : Chip) (p : Nat) : Chip :=
  let s := (queuesIn s p 2).foldl (fun t n => if stopWaits t p n then t else wr t (.sq p n) Reg.SQ_STAT_STATE 3) s
  if (queuesIn s p 2).isEmpty && !((queuesIn s p 5).any (fun n => isHalted s p n && queueBusy s p n)) then
    let mine := s.q.stops.filter (fun e => e.1.part.val == p)
    mine.foldl (fun t e => finish t e.1 (.sync e.1.quad) 0x14 e.2)
      { s with q := { s.q with stops := s.q.stops.filter (fun e => e.1.part.val != p) } }
  else s

/-- Every queue of a partition that may dispatch begins to stop (R197, R369); one in ERROR shows ERROR still. -/
def stopQueues (s : Chip) (p : Nat) : Chip :=
  let s := (goingQueues s p).foldl (fun t n =>
    if queueState t p n = 1 then wr t (.sq p n) Reg.SQ_STAT_STATE 2
    else { t with q := { t.q with halted := kadd t.q.halted (queueNo p n) } }) s
  showStopping (stopProgress s p) p

/-! ### The end of a queue reset (R199) -/

/-- The queue is DISABLED, with both indices at zero. -/
def resetOver (s : Chip) (p n : Nat) : Chip :=
  let pg := Page.sq p n
  let s := { s with q := { s.q with halted := kdel s.q.halted (queueNo p n) } }
  let s := wrAll s pg [(Reg.SQ_STAT_STATE, 0), (Reg.SQ_CTRL_ENABLE, 0), (Reg.SQ_PI_PI, 0), (Reg.SQ_CI_CI, 0)]
  showStopping (showBound (stopProgress s p) p (rd s pg Reg.SQ_CFG_QUAD)) p

/-- A queue in RESETTING whose last job has ended is DISABLED (R199). -/
def resetProgress (s : Chip) (p n : Nat) : Chip :=
  if queueState s p n == 4 && !(s.q.jobs.any (fun j => j.part == p && j.queue == n && !j.step)) then resetOver s p n else s

end Sys2Proof.Machine
end

