-- ==== Sys2Proof/Machine/Victims.lean ====
section
/-!
DEFINITION. The victims of a switch (07): where they stand (R211), what they name (R215, R216), the spill that they need
(R219, R220), and their end.
-/
namespace Sys2Proof.Machine

/-! ### Preemption points (R211) -/

/-- Does the command hold back the job's later commands: a wait that is not satisfied (R179)? -/
def holdsLater (c : Cmd) : Bool :=
  unfinished c && (hdrOpcode c.raw == 0x11 || (hdrOpcode c.raw == 0x12 && bb (bodyOf c.raw) 0x10 17))
    && !(c.copies.all (fun k => k.fate == .done))

/-- Has a dispatched command retired, or is it a wait that carries PREEMPT and is not satisfied (R211)? -/
def countsRetired (c : Cmd) : Bool := !(unfinished c) || (holdsLater c && hdrPreempt c.raw)

/-- The commands of a job that have been dispatched; a wait that was withdrawn is one still. -/
def sentCmds (j : Job) : List Cmd := j.cmds.filter (fun c => c.sent.isSome)

/-- Have all the job's commands that were dispatched before `c`, and `c`, retired? -/
def sentRetired (j : Job) (c : Cmd) : Bool :=
  (sentCmds j).all (fun d => decide (c.sent.getD 0 < d.sent.getD 0) || countsRetired d)

/-- The commands with PREEMPT whose preemption points the job has reached (R211), by their places. -/
def reached (j : Job) : List Nat :=
  ((sentCmds j).filter (fun c => hdrPreempt c.raw && sentRetired j c)).map (fun c => c.index)

/-- Does the job stand at a preemption point (R211): all that it has dispatched has retired, and the last of it carries PREEMPT, or
no further command has been fetched? -/
def standsAt (j : Job) : Bool :=
  (sentCmds j).all countsRetired
    && (j.cmds.all (fun c => c.sent.isSome || c.dropped)
      || (sentCmds j).any (fun c => hdrPreempt c.raw && (sentCmds j).all (fun d => decide (d.sent.getD 0 ≤ c.sent.getD 0))))

/-- The places of the commands whose points victim `v` had passed when it became a victim, or at the last refusal. -/
def passedBy (w : Switch) (v : Nat) : List Nat := ((w.past.find? (fun e => e.1 == v)).map (fun e => e.2.1)).getD []

/-- Is a victim at a preemption point: it stands at one, or has reached one that it had not passed (R211)? -/
def atPreempt (w : Switch) (j : Job) : Bool :=
  standsAt j || (reached j).any (fun i => !((passedBy w j.id).contains i))

/-- A withdrawn wait is to be dispatched again; the generation of an arrival that it has made stays (R193, R211). -/
def requeueWait (l : List Wait) (c : Cmd) : Cmd :=
  let gen := l.findSome? (fun w => match w.on with
    | .bar _ g => if w.body == bodyOf c.raw && bb w.body 0x10 16 then some g else none
    | .sem _ _ _ => none)
  { c with copies := c.copies.map (fun x => { x with fate := .queued }),
           arrived := match gen with
             | some g => some g
             | none => c.arrived }

/-- A wait with PREEMPT is withdrawn, and is dispatched again after the resume (R211). -/
def withdrawWaits (s : Chip) (j : Job) : Chip :=
  let mine := s.q.waits.filter (fun w => fromOrigin w.origin j)
  let s := setJob s j.id (fun k => { k with cmds := k.cmds.map (fun c =>
    if holdsLater c && hdrPreempt c.raw && hasIssued c then requeueWait mine c else c) })
  showWaits { s with q := { s.q with waits := s.q.waits.filter (fun w => !(mine.contains w)) } } j.quad

/-- The victims that stand at a preemption point, or are held there. -/
def victimsAt (s : Chip) (w : Switch) : List Nat :=
  w.victims.filter (fun v => w.atPoint.contains v || (match jobById s v with
    | some j => atPreempt w j
    | none => false))

/-- The waits of those victims are withdrawn. -/
def withdrawAt (s : Chip) (here : List Nat) : Chip :=
  here.foldl (fun t v => match jobById t v with
    | some j => withdrawWaits t j
    | none => t) s

/-! ### The spill (R216 to R220) -/

/-- The home quad's scratchpad as one range: start and length (R216). -/
def wholeQuad (q : Nat) : Nat × Nat := (q % 4 * 2 ^ 25, 2 ^ 25)

/-- Insert a range in ascending order. -/
def insertRange (x : Nat × Nat) : List (Nat × Nat) → List (Nat × Nat)
  | [] => [x]
  | y :: l => if x.1 ≤ y.1 then x :: y :: l else y :: insertRange x l

/-- Merge ascending ranges, from `x` on, into disjoint ones. -/
def mergeFrom (x : Nat × Nat) : List (Nat × Nat) → List (Nat × Nat)
  | [] => [x]
  | y :: l => if y.1 ≤ x.1 + x.2 then mergeFrom (x.1, max (x.1 + x.2) (y.1 + y.2) - x.1) l else x :: mergeFrom y l

/-- Merge any ranges into disjoint ascending ones (R216). -/
def unionRanges (l : List (Nat × Nat)) : List (Nat × Nat) :=
  match l.foldl (fun m x => insertRange x m) [] with
  | [] => []
  | x :: m => mergeFrom x m

/-- The live sets of a quad's unfenced blocks, by block and set, with their modes and holders (R219, R221). -/
def liveSets (s : Chip) (q : Nat) : List (Nat × Nat × Bool × (Nat × Nat × Nat)) :=
  (blocksOf q).flatMap (fun b => if blockFenced s b then [] else
    ((List.range 8).filter (setLive s b)).map (fun k => (b, k, setNarrow s b k, tgetD (block s b).holders k (16, 64, 0))))

/-- L: the bytes of the spill set (R216). -/
def spillBytes (l : List (Nat × Nat)) : Nat := (l.map (fun e => e.2)).sum

/-- N_spill in units of 64 KiB (R219). -/
def spillNeed (l : List (Nat × Nat)) (sets : Nat) : Nat := cdiv (16384 + spillBytes l + 6 * (4096 * sets)) 65536

/-- The base of a quad's slice of the spill area, and its bytes; 0 bytes where the area is not the partition's (R218). -/
def spillSlice (s : Chip) (p q : Nat) : Nat × Nat :=
  let lead := Page.qf (leadQuad s p)
  let base := rd s lead Reg.QF_SPILL_BASE_LO_BASE_LO * 2 ^ 16 + rd s lead Reg.QF_SPILL_BASE_HI_BASE_HI * 2 ^ 32
  let size := rd s lead Reg.QF_SPILL_SLICE_SLICE * 65536
  let quads := quadsOf s p
  let ok := (pieces base (size * quads.length)).all (fun e => accessCheck s p e.1 e.2 false == none)
  let rank := (quads.filter (fun x => x < q)).length
  (base + rank * size, if ok then size else 0)

/-- The switch in progress at a quad front. -/
def keepSwitch (s : Chip) (q : Nat) (x : Switch) : Chip := { s with switches := tset s.switches q x }

/-- What of job `j` lies behind it: the points that it has reached, and how many commands it has dispatched (R220). -/
def behind (j : Job) : Nat × List Nat × Nat := (j.id, reached j, (sentCmds j).length)

/-- What of each victim lies behind it. -/
def allBehind (s : Chip) (w : Switch) : List (Nat × List Nat × Nat) :=
  w.victims.filterMap (fun v => (jobById s v).map behind)

/-- Has one of those victims come to a further preemption point since the refusal (R220)? -/
def further (s : Chip) (w : Switch) (here : List Nat) : Bool :=
  here.any (fun v => match jobById s v with
    | some j => (reached j).any (fun i => !((passedBy w v).contains i))
        || (standsAt j && !(w.past.any (fun e => e.1 == v && e.2.2 == (sentCmds j).length)))
    | none => false)

/-- The switch is refused: its URGENT job waits in SPILL_SHORT, counted once, and the victims go on (R220). -/
def spillShort (s : Chip) (q : Nat) (w : Switch) : Chip :=
  let s := if w.short then s else bump s (.qf q) Reg.QF_PREEMPT_COUNT_SHORT 1
  keepSwitch (wr s (.qf q) Reg.QF_PREEMPT_STAT_STATE 5) q { w with atPoint := [], short := true, past := allBehind s w }

/-- The spill that the victims need (R219), those `here` standing at their points: it begins once all stand there, waits for
the others, or is short of its slice. -/
def planSpill (s : Chip) (q : Nat) (w : Switch) (here : List Nat) : Chip :=
  let spill := unionRanges ((w.named.filter (fun e => w.victims.contains e.1)).map (fun e => e.2))
  let sets := liveSets s q
  let need := spillNeed spill sets.length
  let slice := spillSlice s ((quadOwner s q).getD 0) q
  let s := wr s (.qf q) Reg.QF_SPILL_NEED_UNITS (min need 65535)
  if need * 65536 > slice.2 then spillShort s q w
  else if here.length < w.victims.length then
    keepSwitch (wr (withdrawAt s here) (.qf q) Reg.QF_PREEMPT_STAT_STATE 1) q { w with atPoint := here }
  else
    keepSwitch (wr (withdrawAt s here) (.qf q) Reg.QF_PREEMPT_STAT_STATE 2) q
      { w with atPoint := here, spill := spill, sets := sets, base := slice.1 }

/-! ### The end of a switch or of a victim (R211, R213, R220, R228) -/

/-- The writes of spill registers held back during a switch take effect once every front of the partition is IDLE (R228). -/
def releaseSpillWrites (s : Chip) (p : Nat) : Chip :=
  if !((quadsOf s p).all (fun q => rd s (.qf q) Reg.QF_PREEMPT_STAT_STATE == 0)) then s
  else
    let lead := leadQuad s p
    let s := (s.spillHeld.filter (fun e => e.1 / 4 == lead)).foldl (fun t e =>
      if e.1 % 4 = 0 then wr t (.qf lead) Reg.QF_SPILL_BASE_LO_BASE_LO (e.2 / 2 ^ 16)
      else if e.1 % 4 = 1 then wr t (.qf lead) Reg.QF_SPILL_BASE_HI_BASE_HI e.2
      else wr t (.qf lead) Reg.QF_SPILL_SLICE_SLICE e.2) s
    { s with spillHeld := s.spillHeld.filter (fun e => e.1 / 4 != lead) }

/-- A quad front is IDLE: its switch is over or abandoned. -/
def idleFront (s : Chip) (q : Nat) : Chip :=
  wrAll { s with switches := tdel s.switches q } (.qf q) [(Reg.QF_PREEMPT_STAT_STATE, 0), (Reg.QF_PREEMPT_STAT_VICTIMS, 0)]

/-- A victim of the switch of quad `q` has ended: with none left no switch takes place (R220); a refused switch is evaluated
again (R220), and one that waited for that victim alone goes on. -/
def victimEnded (s : Chip) (q : Nat) (w : Switch) (id : Nat) : Chip :=
  let w := { w with victims := w.victims.filter (fun v => v != id), atPoint := w.atPoint.filter (fun v => v != id) }
  let st := rd s (.qf q) Reg.QF_PREEMPT_STAT_STATE
  if w.victims.isEmpty && (st == 1 || st == 5) then releaseSpillWrites (idleFront s q) ((quadOwner s q).getD 0)
  else
    let s := wr (keepSwitch s q w) (.qf q) Reg.QF_PREEMPT_STAT_VICTIMS w.victims.length
    if st = 5 then planSpill s q w (victimsAt s w)
    else if st = 1 ∧ w.victims.all (fun v => w.atPoint.contains v) then planSpill s q w w.atPoint
    else s

/-- A victim that ends before its preemption point stops being a victim (R211). -/
def dropVictim (s : Chip) (id : Nat) : Chip :=
  s.switches.foldl (fun t e => if e.2.victims.contains id then victimEnded t e.1 e.2 id else t) s

end Sys2Proof.Machine
end

