-- ==== Sys2Proof/Machine/Jobs.lean ====
section
/-!
DEFINITION. The ends of jobs (06): completion records (R173 to R175), the end of a job and its faults, and the engine time that
its commands take (R204).
-/
namespace Sys2Proof.Machine

/-! ### Completion records (R173 to R175) -/

/-- Entries of a ring: 2^SIZE_LOG2. -/
def cqSize (s : Chip) (p n : Nat) : Nat := 2 ^ rd s (.sq p n) Reg.SQ_CQ_CFG_SIZE_LOG2

/-- Base of the completion ring. -/
def cqBase (s : Chip) (p n : Nat) : Nat :=
  rd s (.sq p n) Reg.SQ_CQ_BASE_LO_CQ_BASE + rd s (.sq p n) Reg.SQ_CQ_BASE_HI_CQ_BASE * 2 ^ 32

/-- Unconsumed records in the completion ring. -/
def cqUnread (s : Chip) (p n : Nat) : Nat :=
  (rd s (.sq p n) Reg.SQ_CQ_TAIL_TAIL + 2 ^ 32 - rd s (.sq p n) Reg.SQ_CQ_HEAD_HEAD) % 2 ^ 32

/-- The 16 bytes of a completion record (Table 06-1). -/
def recordBytes (r : HeldRecord) (phase : Nat) : List Byte :=
  toBytes 4 (r.tag * 2 ^ 16 + r.status) ++ toBytes 4 (phase * 2 ^ 31 + r.head % 2 ^ 16) ++ toBytes 8 r.info

/-- Do the function-level reset effects hold back records bound for host memory (R363)? -/
def recordsCut (s : Chip) (p : Nat) (device : Bool) : Bool := !device && partState s p ≥ 4

/-- Write bytes to a partition's memory: its host, through the bound function, or its device addresses (R323, R353). -/
def ringPut (s : Chip) (p : Nat) (device : Bool) (a : Nat) (b : List Byte) : Chip :=
  if recordsCut s p device then s
  else if device then
    match girthAdmit s p a b.length true with
    | .go => memPut (admitted s p a b.length true) a b
    | _ => admitted s p a b.length true
  else hostPut s (boundFunc s p).1 (boundFunc s p).2 a b

/-- Does the ring of a queue stand in device memory? -/
def ringDevice (s : Chip) (p n : Nat) : Bool := rd s (.sq p n) Reg.SQ_CQ_CFG_LOC == 1

/-- The address of the queue's next record. -/
def recordAddr (s : Chip) (p n : Nat) : Nat := cqBase s p n + rd s (.sq p n) Reg.SQ_CQ_TAIL_TAIL % cqSize s p n * 16

/-- Write a completion record to the ring, and send the queue's vector where its END asks for it (R173, R175). -/
def writeRecord (s : Chip) (r : HeldRecord) : Chip :=
  let pg := Page.sq r.part r.queue
  let tail := rd s pg Reg.SQ_CQ_TAIL_TAIL
  let phase := if tail / cqSize s r.part r.queue % 2 = 0 then 1 else 0
  let dev := ringDevice s r.part r.queue
  let s := ringPut s r.part dev (recordAddr s r.part r.queue) (recordBytes r phase)
  let s := bumpWrap (bumpWrap s pg Reg.SQ_CQ_TAIL_TAIL 1) pg Reg.SQ_JOBS_COMPLETED_COMPLETED 1
  if r.irq && !(recordsCut s r.part dev) then
    msix s (boundFunc s r.part).1 (boundFunc s r.part).2 (rd s pg Reg.SQ_CFG_MSIX)
  else s

/-- Is the ring full (R175)? -/
def ringFull (s : Chip) (p n : Nat) : Bool := decide (cqUnread s p n ≥ cqSize s p n)

/-- Does the memory of the ring make the next record's write wait (R327, R346, R460)? -/
def ringWaits (s : Chip) (p n : Nat) : Bool :=
  ringDevice s p n && girthAdmit s p (recordAddr s p n) 16 true == .wait

/-- Does hold-water hold the queue's records, bound for host memory (R369)? -/
def ringHeld (s : Chip) (p n : Nat) : Bool := partState s p == 3 && !(ringDevice s p n)

/-- Is a record of this queue held back now: an earlier one is held, the ring is full, its memory makes the write wait, or
hold-water holds records bound for host memory (R175, R328, R369)? -/
def holdsBack (s : Chip) (p n : Nat) : Bool :=
  s.q.held.any (fun h => h.part == p && h.queue == n) || ringFull s p n || ringHeld s p n || ringWaits s p n

/-- A held record waits: for the ring's room, or at its memory. -/
def recordWaits (s : Chip) (p n quad : Nat) : Chip :=
  if ringFull s p n then setFlag (wr s (.sq p n) Reg.SQ_STAT_CQ_FULL 1) (.qf quad) Reg.QF_IRQ_STAT_CQ_STALL
  else if ringWaits s p n && !(ringHeld s p n) then admitted s p (recordAddr s p n) 16 true
  else s

/-- Write a record, or hold it (R175). -/
def complete (s : Chip) (r : HeldRecord) (quad : Nat) : Chip :=
  if holdsBack s r.part r.queue then
    recordWaits { s with q := { s.q with held := s.q.held ++ [r] } } r.part r.queue quad
  else writeRecord s r

/-- Write the first held record of a queue while nothing holds it back; `n` bounds the records written (R175). -/
def drainHeld (s : Chip) (p q : Nat) : Nat → Chip
  | 0 => s
  | k + 1 =>
    match s.q.held.find? (fun h => h.part == p && h.queue == q) with
    | none => wr s (.sq p q) Reg.SQ_STAT_CQ_FULL 0
    | some h =>
      if ringFull s p q || ringHeld s p q then s
      else if ringWaits s p q then admitted s p (recordAddr s p q) 16 true
      else drainHeld (writeRecord { s with q := { s.q with held := s.q.held.erase h } } h) p q k

/-- Write what may be written of a queue's held records. -/
def drainQueue (s : Chip) (p n : Nat) : Chip := drainHeld s p n (s.q.held.length + 1)

/-- Write what may be written of every held record. -/
def drainAll (s : Chip) : Chip := s.q.held.foldl (fun t h => drainQueue t h.part h.queue) s

/-! ### Engine time (R204, R208) -/

/-- The key of an engine's count for a partition's share group. -/
def usedKey (e : Engine) (p g : Nat) : Nat := (engineNo e * 16 + p) * 16 + g

/-- The key of a quad's sum for an engine type and group (R208). -/
def rawKey (quad ty g : Nat) : Nat := (quad * 8 + ty) * 16 + g

/-- The share group of a queue (Table 06-12). -/
def groupOf (s : Chip) (o : Origin) : Nat := rd s (queuePage o) Reg.SQ_CFG_SHARE_GROUP

/-- Cycles as a block's issue rate r stretches them, by 16 / r (R462). -/
def rated (s : Chip) (e : Engine) (n : Nat) : Nat :=
  match engineBlock e with
  | some b => cdiv (16 * n) (rd s (.blk b) Reg.BLK_ISSUE_RATE)
  | none => n

/-- Charge a command `n` region cycles that it held engine `e` (R204, R227). -/
def chargeRaw (s : Chip) (e : Engine) (o : Origin) (n : Nat) : Chip :=
  let u := usedKey e o.part.val (groupOf s o)
  let k := rawKey o.quad.val (engineType e) (groupOf s o)
  { s with q := { s.q with used := tset s.q.used u ((tgetD s.q.used u 0 + n) % 2 ^ 64),
                           raw := tset s.q.raw k (satAdd (tgetD s.q.raw k 0) n (2 ^ 64 - 1)) } }

/-- Charge `n` region cycles of engine `e` to the origin's group (R204, R208). -/
def charge (s : Chip) (e : Engine) (o : Origin) (n : Nat) : Chip :=
  chargeRaw s e o (rated s e n)

/-! ### The end of a job -/

/-- The status of a job that ends by itself (Table 06-2). -/
def endStatus (j : Job) : Nat :=
  match j.fault, j.outcome with
  | some (c, _), _ => 0x0100 + c
  | none, some (c, _) => c
  | none, none => if j.poisoned then 1 else 0

/-- The INFO word of a job that ends by itself (Table 06-1). -/
def endInfo (j : Job) : Nat :=
  match j.fault, j.outcome with
  | some (_, a), _ => a
  | none, some (_, i) => i
  | none, none => 0

/-- Insert an event by its stamp, a timer before the commands of its stamp (R281). -/
def holdEvent (at' : Nat) (e : SlotEvent) : List (Nat × SlotEvent) → List (Nat × SlotEvent)
  | [] => [(at', e)]
  | y :: l =>
    let timer := match e with
      | .command _ _ _ => false
      | _ => true
    if decide (at' < y.1) || (decide (at' = y.1) && timer) then (at', e) :: y :: l else y :: holdEvent at' e l

/-- Commands that wait at the Start list enter the slot, the first first, while it holds fewer than 4 pending events (R282). -/
def enterPend : List (Nat × SlotEvent) → List (Nat × SlotEvent) → List (Nat × SlotEvent) × List (Nat × SlotEvent)
  | [], pend => (pend, [])
  | y :: l, pend => if pend.length < 4 then enterPend l (holdEvent y.1 y.2 pend) else (pend, y :: l)

/-- The slot with `pend` as its pending events, and the commands that wait for a place among them. -/
def Slot.setPend (t : Slot) (later pend : List (Nat × SlotEvent)) : Slot :=
  { t with pend := (enterPend later pend).1, later := (enterPend later pend).2 }

/-- A serving command whose job has gone is pending no more (R199). -/
def withdrawEvents (gone : Origin → Body → Bool) (t : Slot) : Slot :=
  let stay := fun (e : Nat × SlotEvent) => match e.2 with
    | .command _ o b => !(gone o b)
    | _ => true
  t.setPend (t.later.filter stay) (t.pend.filter stay)

/-- Does what an origin has in progress for a command with body `b` go with job `j`: no other live job with its queue and tag runs
such a command? -/
def goesWith (s : Chip) (j : Job) (o : Origin) (b : Body) : Bool :=
  fromOrigin o j && !(s.q.jobs.any (fun k => k.id != j.id && fromOrigin o k
    && k.cmds.any (fun c => unfinished c && hasIssued c && bodyOf c.raw == b)))

/-- The pass that waits at block `b` leaves it: the time for which it held the Stroke array is charged to it, two cycles of the
region clock each nanosecond, and nothing is in issue there (R204, R108). -/
def leaveAccWait (s : Chip) (b : Nat) (w : AccWait) : Chip :=
  let s := chargeRaw (setBlock s b (fun x => { x with wait := none })) (engineAt b true) w.origin (2 * (s.now - w.since))
  wr s (.blk b) Reg.BLK_ISSUE_WIDTH 0

/-- The waiting passes of a job that goes leave their blocks. -/
def endAccWaits (s : Chip) (gone : Origin → Body → Bool) : Chip :=
  s.blocks.foldl (fun t e => match e.2.wait with
    | some w => if gone w.origin w.body then leaveAccWait t e.1 w else t
    | none => t) s

/-- Remove a job: its contexts free (R188), its waits, its stop and its pending
events end, and it is no victim any more. -/
def removeJob (s : Chip) (j : Job) : Chip :=
  let gone := goesWith s j
  let s := endAccWaits (cancelCmds s j (fun c => { c with dropped := true })) gone
  let s := { s with
    q := { s.q with
      jobs := s.q.jobs.filter (fun k => k.id != j.id),
      contexts := tmap s.q.contexts (fun _ l => l.filter (fun i => i.1 != j.id)),
      waits := s.q.waits.filter (fun w => !(gone w.origin w.body)),
      stops := s.q.stops.filter (fun w => !(gone w.1 w.2)) },
    prec := { s.prec with
      claims := s.prec.claims.filter (fun x => !(gone x.origin x.body)),
      items := s.prec.items.filter (fun x => !(gone x.origin x.body)) },
    mesh := { s.mesh with xfers := s.mesh.xfers.filter (fun x => !(x.who.any (fun w => gone w.1 w.2))) },
    serve := tmap s.serve (fun p v => if p = j.part then { v with slots := tmap v.slots (fun _ t => withdrawEvents gone t) } else v) }
  showWaits (recount (stampRegion (dropVictim s j.id) (j.quad / 4)) j.part j.queue j.quad) j.quad

/-- The sets of a job that ends by fault, cancellation or reset are lost (R131): the live ones, and those that a switch has
spilled. -/
def dropSets (s : Chip) (j : Job) : Chip :=
  let mine := fun (h : Nat × Nat × Nat) => decide (h = (j.part, j.queue, j.tag))
  let s := loseHeld s j.quad mine
  { s with switches := tmap s.switches (fun _ w =>
      { w with gone := w.gone ++ (w.sets.filter (fun e => mine e.2.2.2)).map (fun e => (e.1, e.2.1)) }) }

/-- End a job with a status: it is removed, and its record is written or held (R173, R175); one that does not end by
itself loses its accumulator sets (R131). Its queue may now be STOPPED, or DISABLED (R197, R199). -/
def endJob (s : Chip) (j : Job) (status info : Nat) : Chip :=
  let s := complete (removeJob (if status ≤ 1 then s else dropSets s j) j)
    { part := j.part, queue := j.queue, tag := j.tag, status := status, head := j.head, info := info, irq := j.irq } j.quad
  resetProgress (stopProgress s j.part) j.part j.queue

/-- Has the job come to its end: END fetched, and no command left to retire (R178, R179)? -/
def atEnd (j : Job) : Bool := j.ended && j.cmds.all (fun c => !(unfinished c))

/-- Has a job that a queue reset overtook no command left (R199)? -/
def abortedOut (j : Job) : Bool := j.abort.isSome && j.cmds.all (fun c => !(unfinished c))

/-- End the job with number `id` if it has come to its end; a step job's end is stamped, and is the finish's to make
(R273, R277). -/
def settle (s : Chip) (id : Nat) : Chip :=
  match jobById s id with
  | some j =>
    if abortedOut j then endJob s j (j.abort.getD 0x0200) 0
    else if !(atEnd j) then s
    else if !j.step then endJob s j (endStatus j) (endInfo j)
    else setJob s id (fun k => { k with endedAt := some (k.endedAt.getD s.now) })
  | none => s

/-! ### Faults of jobs (R178, R200) -/

/-- Is it a wait: SEM_WAIT, or BARRIER with WAIT (R178)? -/
def isWait (c : Command) : Bool := hdrOpcode c == 0x11 || (hdrOpcode c == 0x12 && bb (bodyOf c) 0x10 17)

/-- The command without the copies that `keep` does not keep; it is discarded with its last one. -/
def keepCopies (keep : Copy → Bool) (c : Cmd) : Cmd :=
  if c.retired || c.dropped then c
  else
    let k := c.copies.filter keep
    { c with copies := k, dropped := k.isEmpty }

/-- A faulted job's commands: what has not issued is discarded, and a wait that is not satisfied is withdrawn (R178). -/
def discardUnissued (c : Cmd) : Cmd :=
  keepCopies (fun x => x.fate == .done || (x.fate == .issued && !(isWait c.raw))) c

/-- The waits that go with a job end. -/
def endWaits (s : Chip) (gone : Origin → Body → Bool) (q : Nat) : Chip :=
  showWaits { s with q := { s.q with waits := s.q.waits.filter (fun w => !(gone w.origin w.body)) } } q

/-- A job faults with `code` at address `info`: its first JOB code stays, its commands that have not issued are discarded, its
waits are withdrawn (R178, R174). -/
def markJob (s : Chip) (j : Job) (code info : Nat) : Chip :=
  let gone := goesWith s j
  let s := cancelCmds s j discardUnissued
  endWaits (setJob s j.id (fun j => { j with
    fault := (match j.fault with
      | some f => some f
      | none => some (code, info)) })) gone j.quad

/-- The record of a job's fault (R200). -/
def jobNote (pg : Page) (o : Origin) (code : Nat) (addr : Option (Nat × Nat)) (region : Nat) : Note :=
  { plainNote pg .job code with
    part := some o.part.val, job := some (o.queue.val, o.tag.toNat), addr := addr, region := region }

/-- Job `j` of origin `o` faults with `code`, reported by page `pg` with its ERR_STAT bit `f`, where the page has one for it; its
queue shows the fault (Table 06-12). -/
def faultOf (s : Chip) (pg : Page) (f : Option Field) (o : Origin) (j : Option Job) (code : Nat) (addr : Option (Nat × Nat)) : Chip :=
  let n := jobNote pg o code addr (o.quad.val / 4)
  let s := match f with
    | some f => report s pg f n
    | none => send s pg n
  let s := wrAll s (queuePage o) [(Reg.SQ_FAULT_JOB_TAG, o.tag.toNat), (Reg.SQ_FAULT_CODE, code)]
  match j with
  | some j => settle (markJob s j code (match addr with
      | some (_, a) => a
      | none => 0)) j.id
  | none => s

/-- The live job of `o` faults. -/
def faultJob (s : Chip) (pg : Page) (f : Option Field) (o : Origin) (code : Nat) (addr : Option (Nat × Nat)) : Chip :=
  faultOf s pg f o (findJob s o) code addr

/-- A fault of Table 06-10, reported by the home quad's front (Table 06-15). -/
def faultQueue (s : Chip) (o : Origin) (code : Nat) : Chip :=
  faultJob s (.qf o.quad.val) (some Reg.QF_ERR_STAT_JOB_FAULT) o code none

/-- The page that reports a refused access at device address `a`, and its ERR_STAT bit; a reserved address has no controller,
and quad front `q` reports it (R323, R348). -/
def memReporter (q a : Nat) : Page × Option Field :=
  match unitOf a with
  | some u => (unitPage u, some (if u < 16 then Reg.HBM_ERR_STAT_ACCESS_FAULT else Reg.TB_ERR_STAT_ACCESS_FAULT))
  | none => (.qf q, none)

/-- A memory fault: counted at its controller, and the job faults there (R323, R348). -/
def faultMem (s : Chip) (o : Origin) (code a : Nat) : Chip :=
  let r := memReporter o.quad.val a
  faultJob (refuseAccess s a false) r.1 r.2 o code (some (0, a))

end Sys2Proof.Machine
end

