-- ==== Sys2Proof/Machine/Memory.lean ====
section
/-!
DEFINITION. The commands of external memory (11): range and slice entries (R321 to R326), Girth regulators (R327, R328),
the retirement of a channel (R337 to R343), the patrol (R336), self-refresh (R345), initialisation (R346) and the release
scrub (R347).
-/
namespace Sys2Proof.Machine

/-! ### Range and slice entries (R325) -/

/-- The first unit of the retired window (R339). -/
def windowUnit : Nat := 1488

/-- Does the entry overlap a valid range of another partition, with RO = 0 on either side (R325)? -/
def rangeOverlap (s : Chip) (u p first last : Nat) (ro : Bool) : Bool :=
  (List.range 16).any (fun p' => p' != p && (List.range 4).any (fun r =>
    let e := rangeEntry s u p' r
    e.1 && decide (e.2.2.1 ≤ last ∧ first ≤ e.2.2.2) && !(ro && e.2.1)))

/-- The first check of R325 that refuses the range write, as HBM_RANGE_STAT.REASON has it; 0: none. -/
def rangeReason (s : Chip) (u p v : Nat) : Nat :=
  let first := bits v 10 0
  let last := bits v 26 16
  if !(bit v 31) then 0
  else if last < first || last > 1535 then 3
  else if windowClosed s u && last ≥ windowUnit then 2
  else if rangeOverlap s u p first last (bit v 30) then 1
  else 0

/-- HBM_RANGE_WRITE (R321, R325). -/
def hbmRangeWrite (s : Chip) (u p r v : Nat) : Chip :=
  let why := rangeReason s u p v
  if why = 0 then
    wrAll s (.hbm u) [(Reg.HBM_RANGE_VALID p r, bits v 31 31), (Reg.HBM_RANGE_RO p r, bits v 30 30),
      (Reg.HBM_RANGE_LAST p r, bits v 26 16), (Reg.HBM_RANGE_FIRST p r, bits v 10 0)]
  else
    wrAll s (.hbm u) [(Reg.HBM_RANGE_STAT_REASON, why), (Reg.HBM_RANGE_STAT_PARTITION, p), (Reg.HBM_RANGE_STAT_RANGE, r)]

/-- The first check of R325 that refuses the slice write; 0: none. -/
def sliceReason (e : Slice) (v : Nat) : Nat :=
  if !(bit v 31) then 0
  else if e.retired || bit v 29 then 2
  else if e.valid && e.owner != bits v 3 0 then 1
  else 0

/-- Write a slice entry; a retired slice stays so (R344), and the flash records it (R342). -/
def putSlice (s : Chip) (n : Nat) (e : Slice) : Chip :=
  let s := { s with slices := tset s.slices n e }
  if e.retired then
    { s with sec := { s.sec with flash := { s.sec.flash with slices := kadd s.sec.flash.slices n } } }
  else s

/-- TB_SLICE_WRITE (R322, R325, R344): the entry that TB_SLICE_SEL names. -/
def tbSliceWrite (s : Chip) (v : Nat) : Chip :=
  let n := rd s (.tb 0) Reg.TB_SLICE_SEL_SLICE
  let e := sliceEntry s n
  let why := sliceReason e v
  if why = 0 then
    putSlice s n { valid := bit v 31, ro := bit v 30, retired := e.retired || bit v 29, owner := bits v 3 0 }
  else wr s (.tb 0) Reg.TB_SLICE_STAT_REASON why

/-! ### Girth regulators (R327, R328) -/

/-- `n` hub cycles in which a request of the regulator waited for credit alone are counted (R328). -/
def countStall (s : Chip) (u p n : Nat) : Chip :=
  let g := girthOf s u p
  let total := g.stallRest + n
  let s := setGirth s u p { g with stallRest := total % 1024 }
  if u < 16 then bumpWrap s (.hbm u) (Reg.HBM_GIRTH_STALL_UNITS p) (total / 1024)
  else bumpWrap s (.tb 0) (Reg.TB_GIRTH_STALL_UNITS p) (total / 1024)

/-- Part of a period of 1,024 hub cycles in which a request waited: a free number from 1 (R328; log 25). -/
def partStall (s : Chip) : Chip × Nat :=
  let d := draw s
  (d.2, Config.freeNat d.1 % 1024 + 1)

/-- What waits at a regulator is served, and where nothing waits on, the part of the period for which it waited is counted. -/
def serveNow (s : Chip) (u p : Nat) : Chip :=
  let t := girthServe s u p
  if (girthOf s u p).want != 0 && (girthOf t u p).want == 0 then countStall (partStall t).1 u p (partStall t).2 else t

/-- GIRTH_CFG_WRITE (R327): RATE and BURST, and a full credit. -/
def girthCfgWrite (s : Chip) (u p v : Nat) : Chip :=
  let s := if u < 16 then
      wrAll s (.hbm u) [(Reg.HBM_GIRTH_CFG_RATE p, bits v 31 16), (Reg.HBM_GIRTH_CFG_BURST p, bits v 15 0)]
    else wrAll s (.tb 0) [(Reg.TB_GIRTH_CFG_RATE p, bits v 31 16), (Reg.TB_GIRTH_CFG_BURST p, bits v 15 0)]
  serveNow (setGirth s u p { girthOf s u p with credit := girthBurst s u p }) u p

/-- The hub cycles of a period in which a request of the regulator waited for credit alone: all 1,024 where it waited at the
start, else a part of them (R328). -/
def stallCycles (s : Chip) (g : Girth) : Chip × Nat :=
  if g.want = 0 then (s, 0)
  else if g.held then (s, 1024)
  else partStall s

/-- One regulator at a refill: its credit grows and goes to what waits, and the stall is counted (R327, R328). -/
def refillOne (s : Chip) (u p : Nat) : Chip :=
  let g := girthOf s u p
  let credit := if girthRate s u p = 0 then g.credit
    else min (girthBurst s u p : Int) (g.credit + girthRate s u p * 64)
  let e := stallCycles s g
  countStall (girthServe (setGirth e.1 u p { g with credit := credit, held := g.want != 0 }) u p) u p e.2

/-- GIRTH_REFILL (R327): every regulator whose credit has changed since it was last full. -/
def girthRefill (s : Chip) : Chip := (s.girth.map (fun e => e.1)).foldl (fun t k => refillOne t (k / 16) (k % 16)) s

/-! ### Retiring a channel (R338 to R343) -/

/-- RETIRE_ACCEPT (R339, R340). -/
def retireAccept (s : Chip) (u : Nat) : Chip :=
  if rd s (.hbm u) Reg.HBM_STAT_RETIRE_STATE = 1 then { s with retire := kadd s.retire u } else s

/-- RETIRE_COPY_START (R340): the accesses accepted before ACCEPT have drained from the window. -/
def retireCopyStart (s : Chip) (u : Nat) : Chip :=
  if rd s (.hbm u) Reg.HBM_STAT_RETIRE_STATE = 1 && kmem s.retire u then
    wrAll s (.hbm u) [(Reg.HBM_STAT_RETIRE_STATE, 2), (Reg.HBM_RETIRE_PROGRESS_COPIED, 0)]
  else s

/-- Granules of a failed channel below 93 GiB (R340). -/
def retireGranules : Nat := 12189696

/-- Is the line in the failed channel `cf` of stack `u` below 93 GiB, in one of granules `lo` to `hi` − 1 (R340)? -/
def lineCopied (u cf lo hi line : Nat) : Bool :=
  let x := line * 64 - u * stackSize
  decide (u * stackSize ≤ line * 64 ∧ x < top93 ∧ x / 256 % 32 = cf ∧ lo ≤ x / 8192 ∧ x / 8192 < hi)

/-- The stack shows its retirement (R341, R342): RETIRED, 93 GiB, every granule copied. -/
def showRetired (s : Chip) (u ch : Nat) : Chip :=
  wrAll s (.hbm u) [(Reg.HBM_STAT_RETIRE_STATE, 3), (Reg.HBM_STAT_RETIRE_CHANNEL, ch), (Reg.HBM_STAT_USABLE_GIB, 93),
    (Reg.HBM_RETIRE_PROGRESS_COPIED, retireGranules)]

/-- The copy of a channel is over: the channel is shown as retired, reported, and kept in flash. -/
def copyOver (s : Chip) (u : Nat) : Chip :=
  let ch := rd s (.hbm u) Reg.HBM_STAT_RETIRE_CHANNEL
  let s := showRetired s u ch
  let s := send s (.hbm u) { plainNote (.hbm u) .corrected 0x7E with addr := some (2, ch), detail := ch }
  let s := setFlag s (.hbm u) Reg.HBM_IRQ_STAT_RETIRE_DONE
  { s with retire := kdel s.retire u,
           sec := { s.sec with flash := { s.sec.flash with channels := tset s.sec.flash.channels u ch } } }

/-- The copy has gone on to granule `n`: the errors stored in the lines copied are met, and PROGRESS shows it (R341). -/
def copyTo (s : Chip) (u n : Nat) : Chip :=
  let old := rd s (.hbm u) Reg.HBM_RETIRE_PROGRESS_COPIED
  let ch := rd s (.hbm u) Reg.HBM_STAT_RETIRE_CHANNEL
  let met := s.mem.latent.filter (fun e => lineCopied u ch old n e.1)
  wr (met.foldl (fun t e => lineError t (e.1 * 64) e.2 none) s) (.hbm u) Reg.HBM_RETIRE_PROGRESS_COPIED n

/-- RETIRE_COPY_COMPLETE (R341, R342): `n` more granules are copied; with the last one the channel is RETIRED. -/
def retireCopyComplete (s : Chip) (u n : Nat) : Chip :=
  let to' := min (rd s (.hbm u) Reg.HBM_RETIRE_PROGRESS_COPIED + n) retireGranules
  if rd s (.hbm u) Reg.HBM_STAT_RETIRE_STATE ≠ 2 then s
  else if to' = retireGranules then copyOver (copyTo s u to') u
  else copyTo s u to'

/-! ### Patrol scrub (R336) -/

/-- The lines that the patrol of a unit reads: the stack's, to its usable top, or tier B's. -/
def patrolLines (s : Chip) (u : Nat) : Nat :=
  if u < 16 then (if windowClosed s u then top93 else stackSize) / 64 else 2 ^ 40 / 64

/-- The first address of a unit. -/
def unitBase (u : Nat) : Nat := if u < 16 then u * stackSize else tierBBase

/-- Does the patrol of the unit run (R336)? -/
def patrolOn (s : Chip) (u : Nat) : Bool :=
  unitReady s u
    && (if u < 16 then rd s (.hbm u) Reg.HBM_CFG_PATROL_EN == 1
        else rd s (.tb 0) Reg.TB_CFG_PATROL_EN == 1 && rd s (.tb 0) Reg.TB_STAT_POWER == 0)

/-- A read of a line that meets the error that it is given: its own first, then those stored and armed. -/
def lineRead (s : Chip) (a : Nat) (met : Ecc) (who : Option Origin) : Chip :=
  let s := match met with
    | .clean => s
    | .corrected => if lineBad s a then s else lineError s a false who
    | .uncorrectable => if lineBad s a then s else lineError s a true who
  readMeets s a 64 who

/-- The patrol's period in ns: PATROL_HOURS, where 0 means 256 (Table 11-7). -/
def patrolPeriod (s : Chip) (u : Nat) : Nat :=
  let h := if u < 16 then rd s (.hbm u) Reg.HBM_CFG_PATROL_HOURS else rd s (.tb 0) Reg.TB_CFG_PATROL_HOURS
  (if h = 0 then 256 else h) * 3600000000000

/-- The patrol reads line `line` of a unit, in the period that began at `start`, and goes on; it waits while the line's granule is
being copied (R341). -/
def patrolLine (s : Chip) (u line start : Nat) (met : Ecc) : Chip :=
  if granuleBusy s (unitBase u + 64 * line) 64 then s
  else
    let s := lineRead s (unitBase u + 64 * line) met none
    { s with patrol := tset s.patrol u (line + 1), patrolFrom := tset s.patrolFrom u start }

/-- The patrol reads a unit's next line: every line once in each period, so that after the last line it waits for the next
period (R336). -/
def patrolNext (s : Chip) (u : Nat) (met : Ecc) : Chip :=
  let line := tgetD s.patrol u 0
  let start := tgetD s.patrolFrom u 0
  if line < patrolLines s u then patrolLine s u line start met
  else if s.now < start + patrolPeriod s u then s
  else patrolLine s u 0 (s.now - (s.now - start) % patrolPeriod s u) met

/-- PATROL_SCRUB_READ (R336): the next line in ascending order. -/
def patrolScrubRead (s : Chip) (u : Nat) (met : Ecc) : Chip := if patrolOn s u then patrolNext s u met else s

/-! ### Self-refresh and initialisation (R345, R346) -/

/-- Show the power state of every tier B controller. -/
def showTierB (s : Chip) (v : Nat) : Chip := (List.range 16).foldl (fun t c => wr t (.tb c) Reg.TB_STAT_POWER v) s

/-- TB_SELF_REFRESH_ENTRY (R345): SR_IDLE microseconds without an access, a scrub's among them. -/
def tbSelfRefreshEntry (s : Chip) : Chip :=
  let idle := rd s (.tb 0) Reg.TB_CFG_SR_IDLE
  if idle != 0 && s.power.tierB && s.hosts.scrubs.all (fun x => x.slices.isEmpty) && rd s (.tb 0) Reg.TB_STAT_POWER == 0
      && decide (s.power.lastTierB + idle * 1000 ≤ s.now)
  then showTierB s 1 else s

/-- Milliseconds since the hub's latest start, the instant P (R472). -/
def msSinceStart (s : Chip) : Nat := min ((s.now - s.power.startedAt) / 1000000) 65535

/-- PM_BOOT_STAT.MEM_MS takes the time at which both tiers are ready (Table 16-7). -/
def memReady (s : Chip) : Chip :=
  if s.power.tierA && s.power.tierB && rd s .pm Reg.PM_BOOT_STAT_MEM_MS == 0 then wr s .pm Reg.PM_BOOT_STAT_MEM_MS (msSinceStart s)
  else s

/-- TIER_INIT_COMPLETE (R346): every line of the tier is zero, and accesses are granted. -/
def tierInitComplete (s : Chip) (tierB : Bool) : Chip :=
  if !s.power.trained then s
  else if tierB then
    if s.power.tierB then s
    else memReady (showTierB { memZero s tierBBase (2 ^ 40) with
      power := { s.power with tierB := true, lastTierB := s.now } } 0)
  else if s.power.tierA then s
  else memReady { memZero s 0 (16 * stackSize) with power := { s.power with tierA := true } }

/-! ### Release scrub (R347) -/

/-- The writable ranges of a partition on a stack, as device addresses and lengths. -/
def scrubRanges (s : Chip) (u p : Nat) : List (Nat × Nat) :=
  (List.range 4).filterMap (fun r =>
    let e := rangeEntry s u p r
    if e.1 && !e.2.1 then some (u * stackSize + e.2.2.1 * unit64, (e.2.2.2 + 1 - e.2.2.1) * unit64) else none)

/-- The writable slices of a partition. -/
def scrubSlices (s : Chip) (p : Nat) : List Nat :=
  (s.slices.filter (fun e => e.2.valid && e.2.owner == p && !e.2.ro && !e.2.retired)).map (fun e => e.1)

/-- The scrub of a partition, all of it still to do. -/
def scrubOf (s : Chip) (p : Nat) (release : Bool) : Scrub :=
  { part := p, release := release,
    perStack := (List.range 16).foldl (fun t u => match scrubRanges s u p with
      | [] => t
      | l => tset t u l) [],
    slices := scrubSlices s p }

/-- Show in every controller the scrub in progress (Table 11-7, Table 11-9). -/
def showScrubs (s : Chip) : Chip :=
  let s := (List.range 16).foldl (fun t u =>
    match s.hosts.scrubs.findSome? (fun x => (tget x.perStack u).map (fun l => (x.part, l))) with
    | some x => wrAll t (.hbm u) [(Reg.HBM_SCRUB_STAT_BUSY, 1), (Reg.HBM_SCRUB_STAT_PARTITION, x.1),
        (Reg.HBM_SCRUB_STAT_UNITS_LEFT, x.2.foldl (fun n e => n + e.2 / unit64) 0)]
    | none => wrAll t (.hbm u) [(Reg.HBM_SCRUB_STAT_BUSY, 0), (Reg.HBM_SCRUB_STAT_UNITS_LEFT, 0)]) s
  match s.hosts.scrubs.find? (fun x => !x.slices.isEmpty) with
  | some x => wrAll s (.tb 0) [(Reg.TB_SCRUB_STAT_BUSY, 1), (Reg.TB_SCRUB_STAT_PARTITION, x.part),
      (Reg.TB_SCRUB_STAT_SLICES_LEFT, x.slices.length)]
  | none => wrAll s (.tb 0) [(Reg.TB_SCRUB_STAT_BUSY, 0), (Reg.TB_SCRUB_STAT_SLICES_LEFT, 0)]

/-- The first `n` units of 64 MiB of a list of runs, and what is left of it. -/
def takeUnits (n : Nat) : List (Nat × Nat) → List (Nat × Nat) × List (Nat × Nat)
  | [] => ([], [])
  | (a, len) :: l =>
    if n * unit64 < len then ([(a, n * unit64)], (a + n * unit64, len - n * unit64) :: l)
    else
      let r := takeUnits (n - len / unit64) l
      ((a, len) :: r.1, r.2)

/-- How many of a stack's next `n` units come before one whose granule is being copied (R341). -/
def readyUnits (s : Chip) (n : Nat) (l : List (Nat × Nat)) : Nat :=
  (((takeUnits n l).1.flatMap (fun x => pieces x.1 x.2)).takeWhile (fun e => !(pieceBusy s e.1 e.2))).length

/-- Stack `u` zeroes its next `n` units, as far as none waits; with its last it sets SCRUB_DONE. -/
def scrubUnits (n : Nat) (e : Chip × Scrub) (u : Nat) : Chip × Scrub :=
  match tget e.2.perStack u with
  | none => e
  | some l =>
    if !(unitReady e.1 u) then e
    else
      let k := takeUnits (readyUnits e.1 n l) l
      let s := k.1.foldl (fun t x => memZero t x.1 x.2) (unitTouch e.1 u)
      if k.2.isEmpty then (setFlag s (.hbm u) Reg.HBM_IRQ_STAT_SCRUB_DONE, { e.2 with perStack := tdel e.2.perStack u })
      else (s, { e.2 with perStack := tset e.2.perStack u k.2 })

/-- Tier B zeroes the next `n` slices, one at a time; with the last it sets SCRUB_DONE. -/
def scrubSlicesOn : Nat → Chip × Scrub → Chip × Scrub
  | 0, e => e
  | n + 1, e =>
    match e.2.slices with
    | [] => e
    | k :: l =>
      if !(unitReady e.1 16) then e
      else
        let s := memZero (unitTouch e.1 16) (tierBBase + k * 2 ^ 30) (2 ^ 30)
        let s := if l.isEmpty then setFlag s (.tb 0) Reg.TB_IRQ_STAT_SCRUB_DONE else s
        scrubSlicesOn n (s, { e.2 with slices := l })

/-- A step of a scrub (R347). -/
def scrubStep (s : Chip) (x : Scrub) : ScrubStep → Chip × Scrub
  | .units u n => scrubUnits n (s, x) u.val
  | .slice => scrubSlicesOn 1 (s, x)
  | .rest => scrubSlicesOn x.slices.length ((x.perStack.map (fun e => e.1)).foldl (scrubUnits 2048) (s, x))

/-- A scrub starts: the memory that it reaches wakes (R345, R460). -/
def scrubStart (s : Chip) (p : Nat) (release : Bool) : Chip :=
  let x := scrubOf s p release
  let s := (x.perStack.map (fun e => e.1)).foldl unitTouch s
  let s := if x.slices.isEmpty then s else unitTouch s 16
  showScrubs { s with hosts := { s.hosts with scrubs := s.hosts.scrubs ++ [x] } }

end Sys2Proof.Machine
end

