-- ==== Sys2Proof/Machine/Float.lean ====
section
/-!
DEFINITION. Floating-point arithmetic in FP32 and BF16, exact on integers and rounded once to nearest even, with
subnormal inputs and results flushed to zero of the same sign (R98, R136, R332).
-/
namespace Sys2Proof.Machine

/-- A binary format: exponent bits and stored significand bits. -/
structure Fmt where
  eb : Nat
  mb : Nat
deriving DecidableEq, Repr

/-- FP32. -/
def f32 : Fmt := { eb := 8, mb := 23 }
/-- BF16 (R56). -/
def bf16 : Fmt := { eb := 8, mb := 7 }

/-- A number: NaN, an infinity, or (-1)^neg × mant × 2^exp. -/
inductive Num
  | nan
  | inf (neg : Bool)
  | fin (neg : Bool) (mant : Nat) (exp : Int)
deriving DecidableEq, Repr

/-- The bias of a format. -/
def bias (f : Fmt) : Nat := 2 ^ (f.eb - 1) - 1

/-- The number that a code names; a subnormal code is zero of its sign. -/
def unpack (f : Fmt) (w : Nat) : Num :=
  let neg := bit w (f.eb + f.mb)
  let e := bits w (f.eb + f.mb - 1) f.mb
  let m := bits w (f.mb - 1) 0
  if e = 2 ^ f.eb - 1 then (if m = 0 then .inf neg else .nan)
  else if e = 0 then .fin neg 0 0
  else .fin neg (2 ^ f.mb + m) ((e : Int) - (bias f : Int) - (f.mb : Int))

/-- The sign bit of a format. -/
def signBit (f : Fmt) (neg : Bool) : Nat := if neg then 2 ^ (f.eb + f.mb) else 0

/-- The canonical NaN: 0x7FC0_0000 in FP32, 0x7FC0 in BF16 (R332). -/
def nanCode (f : Fmt) : Nat := (2 ^ f.eb - 1) * 2 ^ f.mb + 2 ^ (f.mb - 1)

/-- `m / 2^k` rounded to nearest, ties to even. -/
def rne (m k : Nat) : Nat :=
  let q := m / 2 ^ k
  let r := m % 2 ^ k
  if 2 * r > 2 ^ k ∨ (2 * r = 2 ^ k ∧ q % 2 = 1) then q + 1 else q

/-- The code nearest a number, ties to even; overflow to an infinity, and a result below the normal range to zero. -/
def pack (f : Fmt) : Num → Nat
  | .nan => nanCode f
  | .inf neg => signBit f neg + (2 ^ f.eb - 1) * 2 ^ f.mb
  | .fin neg m x =>
    if m = 0 then signBit f neg
    else
      let l := Nat.log2 m
      let q := if l ≤ f.mb then m * 2 ^ (f.mb - l) else rne m (l - f.mb)
      let e := x + (l : Int) + (bias f : Int) + (if q = 2 ^ (f.mb + 1) then 1 else 0)
      if e ≥ 2 ^ f.eb - 1 then signBit f neg + (2 ^ f.eb - 1) * 2 ^ f.mb
      else if e ≤ 0 then signBit f neg
      else signBit f neg + e.toNat * 2 ^ f.mb + q % 2 ^ f.mb

/-- The signed mantissa of a finite number at exponent `x`, which lies at or below its own. -/
def mantAt (neg : Bool) (m : Nat) (e x : Int) : Int :=
  let v : Int := (m * 2 ^ (e - x).toNat : Nat)
  if neg then -v else v

/-- Exact sum; an exact zero from unlike signs is +0. -/
def numAdd : Num → Num → Num
  | .nan, _ => .nan
  | _, .nan => .nan
  | .inf a, .inf b => if a = b then .inf a else .nan
  | .inf a, .fin _ _ _ => .inf a
  | .fin _ _ _, .inf b => .inf b
  | .fin a m e, .fin b n x =>
    if m = 0 ∧ n = 0 then .fin (a && b) 0 0
    else
      let lo := min e x
      let v := mantAt a m e lo + mantAt b n x lo
      if v = 0 then .fin false 0 0 else .fin (v < 0) v.natAbs lo

/-- The negation. -/
def numNeg : Num → Num
  | .nan => .nan
  | .inf a => .inf (!a)
  | .fin a m e => .fin (!a) m e

/-- The magnitude. -/
def numAbs : Num → Num
  | .nan => .nan
  | .inf _ => .inf false
  | .fin _ m e => .fin false m e

/-- Exact product; zero times an infinity is NaN. -/
def numMul : Num → Num → Num
  | .nan, _ => .nan
  | _, .nan => .nan
  | .inf a, .inf b => .inf (a != b)
  | .inf a, .fin b n _ => if n = 0 then .nan else .inf (a != b)
  | .fin a m _, .inf b => if m = 0 then .nan else .inf (a != b)
  | .fin a m e, .fin b n x => .fin (a != b) (m * n) (e + x)

/-- Quotient to 40 significant bits and a sticky bit, which rounding to FP32 or BF16 makes exact. -/
def numDiv : Num → Num → Num
  | .nan, _ => .nan
  | _, .nan => .nan
  | .inf _, .inf _ => .nan
  | .inf a, .fin b _ _ => .inf (a != b)
  | .fin a _ _, .inf b => .fin (a != b) 0 0
  | .fin a m e, .fin b n x =>
    if n = 0 then (if m = 0 then .nan else .inf (a != b))
    else if m = 0 then .fin (a != b) 0 0
    else
      let k := 40 + Nat.log2 n - min (Nat.log2 m) (40 + Nat.log2 n)
      let q := m * 2 ^ k / n
      let r := m * 2 ^ k % n
      .fin (a != b) (2 * q + (if r = 0 then 0 else 1)) (e - x - (k : Int) - 1)

/-- The integer square root, bit by bit from bit `b - 1`. -/
def isqrtFrom (n : Nat) : Nat → Nat → Nat
  | 0, r => r
  | b + 1, r => if (r + 2 ^ b) * (r + 2 ^ b) ≤ n then isqrtFrom n b (r + 2 ^ b) else isqrtFrom n b r

/-- Square root with a sticky bit; a negative number gives NaN, and a zero itself. -/
def numSqrt : Num → Num
  | .nan => .nan
  | .inf a => if a then .nan else .inf false
  | .fin a m e =>
    if m = 0 then .fin a 0 0
    else if a then .nan
    else
      let odd := e % 2
      let m' := m * 2 ^ (odd.toNat + 80)
      let b := Nat.log2 m' / 2 + 1
      let r := isqrtFrom m' b 0
      .fin false (2 * r + (if r * r = m' then 0 else 1)) ((e - odd - 80) / 2 - 1)

/-- Is the first number below the second? False with a NaN. -/
def numLt : Num → Num → Bool
  | .nan, _ => false
  | _, .nan => false
  | .inf a, .inf b => a && !b
  | .inf a, .fin _ _ _ => a
  | .fin _ _ _, .inf b => !b
  | .fin a m e, .fin b n x => decide (mantAt a m e (min e x) < mantAt b n x (min e x))

/-- Is the number NaN? -/
def isNan : Num → Bool
  | .nan => true
  | _ => false

/-- Is the number finite? -/
def isFin : Num → Bool
  | .fin _ _ _ => true
  | _ => false

/-- Is the sign bit set? -/
def isNeg : Num → Bool
  | .nan => false
  | .inf a => a
  | .fin a _ _ => a

/-- An integer as a number. -/
def numInt (v : Int) : Num := .fin (v < 0) v.natAbs 0

/-- `v × 2^x` as a number. -/
def numScaled (v : Int) (x : Int) : Num := .fin (v < 0) v.natAbs x

/-- Floor of a finite number. -/
def numFloor : Num → Int
  | .fin a m e =>
    let v : Int := if a then -(m : Int) else m
    if e ≥ 0 then v * 2 ^ e.toNat else v / 2 ^ (-e).toNat
  | _ => 0

/-- Nearest integer of a finite number, ties to even. -/
def numRound : Num → Int
  | .fin a m e =>
    let v : Int := if e ≥ 0 then (m : Int) * 2 ^ e.toNat else (rne m (-e).toNat : Nat)
    if a then -v else v
  | _ => 0

/-! ### Codes -/

/-- Sum, product, quotient and root in a format, on codes. -/
def fAdd (f : Fmt) (a b : Nat) : Nat := pack f (numAdd (unpack f a) (unpack f b))
def fSub (f : Fmt) (a b : Nat) : Nat := pack f (numAdd (unpack f a) (numNeg (unpack f b)))
def fMul (f : Fmt) (a b : Nat) : Nat := pack f (numMul (unpack f a) (unpack f b))
def fDiv (f : Fmt) (a b : Nat) : Nat := pack f (numDiv (unpack f a) (unpack f b))
def fSqrt (f : Fmt) (a : Nat) : Nat := pack f (numSqrt (unpack f a))

/-- A code of one format in another, rounded to nearest even. -/
def convert (f g : Fmt) (a : Nat) : Nat := pack g (unpack f a)

/-- Is `a` below `b`, with −0 below +0 (R332)? -/
def fBelow (f : Fmt) (a b : Nat) : Bool :=
  let x := unpack f a
  let y := unpack f b
  numLt x y || (isFin x && isFin y && !(numLt y x) && isNeg x && !(isNeg y))

/-- Minimum and maximum on codes (R332). -/
def fMin (f : Fmt) (a b : Nat) : Nat :=
  if isNan (unpack f a) || isNan (unpack f b) then nanCode f else pack f (unpack f (if fBelow f b a then b else a))
def fMax (f : Fmt) (a b : Nat) : Nat :=
  if isNan (unpack f a) || isNan (unpack f b) then nanCode f else pack f (unpack f (if fBelow f a b then b else a))

end Sys2Proof.Machine
end

