-- ==== Sys2Proof/Machine/Fence.lean ====
section
/-!
DEFINITION. Fencing a block (R440) and what becomes of the chains of live jobs on it (R189, R441); losing accumulator
sets (R131).
-/
namespace Sys2Proof.Machine

/-! ### The sets a command touches (R189) -/

/-- The first and last accumulator set of a STROKE_PASS or READOUT, and whether its mode is narrow. -/
def cmdSets (c : Command) : Option (Nat × Nat × Bool) :=
  let b := bodyOf c
  let mk := fun (first n : Nat) (narrow : Bool) =>
    let w := if narrow then 64 else 32
    some (first / w, (first + n) / w, narrow)
  if hdrOpcode c = 1 then mk (bf b 0x24 24 16) (bf b 0x24 8 0) (bb b 0x20 23)
  else if hdrOpcode c = 2 then mk (bf b 0x30 24 16) (bf b 0x30 8 0) (bb b 0x2C 23)
  else none

/-- The sets that a command touches with a copy shifted by `shift` sets (R189). -/
def shiftedSets (c : Command) (shift : Nat) : List Nat :=
  match cmdSets c with
  | some (lo, hi, _) => (span lo (hi + 1 - lo)).map (fun k => (k + shift) % 8)
  | none => []

/-- The blocks of quad `q` that a mask names. -/
def maskBlocks (q mask : Nat) : List Nat := (blocksOf q).filter (fun b => bit mask (b % 16))

/-- The candidates of R180: the named blocks, or every block of the quad where the mask is 0. -/
def candidates (q mask : Nat) : List Nat := if mask = 0 then blocksOf q else maskBlocks q mask

/-- Where a job sends a command for a fenced block: its replacement and shift (R189). -/
def mapping (j : Job) (b : Nat) : Option (Nat × Nat) :=
  (j.mapped.find? (fun e => e.1 == b)).map (fun e => e.2)

/-- Where a job sends a command for block `b` at last, its replacements fenced in turn followed by theirs, and the shift in all
(R189); `n` bounds them. -/
def mapEnd (j : Job) : Nat → Nat → Nat × Nat
  | 0, b => (b, 0)
  | n + 1, b =>
    match mapping j b with
    | some (t, k) => ((mapEnd j n t).1, ((mapEnd j n t).2 + k) % 8)
    | none => (b, 0)

/-- As many replacements as a quad has blocks. -/
def mapFuel : Nat := 16

/-- The block at which a command of job `j` that names block `b` is carried out, and the shift: only one with REISSUE follows the
job's mapping (R441). -/
def blockEnd (j : Job) (c : Command) (b : Nat) : Nat × Nat := if hdrReissue c then mapEnd j mapFuel b else (b, 0)

/-- Is it a QUANTISE or a SERVE_SAMPLE, which run on one block (R180)? -/
def onOne (c : Command) : Bool := hdrOpcode c == 0x03 || hdrOpcode c == 0x47

/-- The fenced blocks at which a command of job `j` comes under R441: those that it names, or where every candidate of a command
for one block is fenced, the first, each at the end of the job's mapping. -/
def fencedTargets (s : Chip) (j : Job) (c : Command) : List Nat :=
  let ends := fun (l : List Nat) => l.map (fun b => (blockEnd j c b).1)
  if hdrOpcode c = 1 ∨ hdrOpcode c = 2 then (ends (maskBlocks j.quad (hdrMask c))).filter (blockFenced s)
  else if onOne c then
    let l := candidates j.quad (hdrMask c)
    if l.all (blockFenced s) && (ends l).all (blockFenced s) then (ends l).take 1 else []
  else []

/-- Does a command for one block, which has none yet, come under R441 at block `b`? -/
def homeless (s : Chip) (b : Nat) (j : Job) (c : Cmd) : Bool :=
  unfinished c && c.copies.isEmpty && (fencedTargets s j c.raw).contains b

/-- The engines of a block. -/
def onBlock (b : Nat) (e : Engine) : Bool :=
  match e with
  | .stroke x => x.val == b
  | .burnisher x => x.val == b
  | _ => false

/-- The sets that a command touches on block `b`, where it may have a copy of its own and one moved there (R189). -/
def copySets (b : Nat) (c : Cmd) : List Nat :=
  (c.copies.filter (fun k => onBlock b k.engine)).flatMap (fun k => shiftedSets c.raw k.shift)

/-- Does the command have a copy on block `b`? -/
def sentTo (b : Nat) (c : Cmd) : Bool := !c.dropped && c.copies.any (fun k => onBlock b k.engine)

/-- Does a retired command touch a set of `b` that the job still holds live? -/
def touchesLive (s : Chip) (b : Nat) (j : Job) (c : Cmd) : Bool :=
  (block s b).holders.any (fun e => (copySets b c).contains e.1 && decide (e.2 = (j.part, j.queue, j.tag)))

/-- The chain of a job on block `b` (R189), with a command that has come to it for want of another block (R441). -/
def chainOf (s : Chip) (b : Nat) (j : Job) : List Cmd :=
  j.cmds.filter (fun c => homeless s b j c || (sentTo b c && (!c.retired || touchesLive s b j c)))

/-- Commands queued for a block's Stroke array and Burnisher (R189). -/
def blockLoad (s : Chip) (b : Nat) : Nat :=
  (s.q.jobs.map (fun j => (j.cmds.filter (fun c => unfinished c && c.copies.any (fun k => onBlock b k.engine && k.fate == .queued))).length)).sum

/-- Does the block take commands: unfenced and enabled (R485)? -/
def blockOpen (s : Chip) (b : Nat) : Bool := !blockFenced s b && rd s (.blk b) Reg.PAGE_CTRL_ENABLE == 1

/-- The number of the list with the least `f`; the lowest on ties. -/
def leastBy (f : Nat → Nat) : List Nat → Option Nat
  | [] => none
  | a :: l =>
    match leastBy f l with
    | none => some a
    | some b => if f b < f a then some b else some a

/-- The replacement for a fenced block of quad `q` (R189, R485). -/
def replacement (s : Chip) (q : Nat) : Option Nat := leastBy (blockLoad s) ((blocksOf q).filter (blockOpen s))

/-- The accumulator sets that commands touch on a block, as their copies there are shifted (R189). -/
def chainSets (b : Nat) (l : List Cmd) : Keys :=
  l.foldl (fun k c => (copySets b c).foldl kadd k) []

/-- The lowest set of block `t` to which a chain's lowest set can map, every target of a set of the chain lying in the file and
being not live (R189). -/
def freeBase (s : Chip) (t : Nat) (sets : Keys) : Option Nat :=
  let lo := sets.headD 0
  (List.range 8).find? (fun x => sets.all (fun k => decide (x + (k - lo) < 8) && !(setLive s t (x + (k - lo)))))

/-- The copy moves from block `b` to block `t`, and waits in its queue again (R189). -/
def moveCopy (b t shift : Nat) (k : Copy) : Copy :=
  match k.engine with
  | .stroke x => if x.val = b then { engine := engineAt t true, fate := .queued, shift := (k.shift + shift) % 8 } else k
  | .burnisher x => if x.val = b then { engine := engineAt t false, fate := .queued, shift := (k.shift + shift) % 8 } else k
  | _ => k

/-- A chain's commands wait to be carried out again, on `t` where they were on `b`. -/
def resend (b t shift : Nat) (l : List Cmd) (j : Job) : Job :=
  let ids := l.map (fun c => c.index)
  { j with cmds := j.cmds.map (fun c =>
      if ids.contains c.index then { c with retired := false, copies := c.copies.map (moveCopy b t shift) } else c) }

/-- A chain waits until a replacement has room for it (R189). -/
def chainWait (s : Chip) (b : Nat) (j : Job) (l : List Cmd) : Chip :=
  let s := setJob s j.id (resend b b 0 l)
  { s with q := { s.q with chains := if s.q.chains.contains (j.id, b) then s.q.chains else s.q.chains ++ [(j.id, b)] } }

/-- Re-send a job's chain on `b` to a replacement, where one has room; the chain waits otherwise (R189, R485). -/
def reissue (s : Chip) (b q : Nat) (j : Job) (l : List Cmd) : Chip :=
  match (replacement s q).bind (fun t => (freeBase s t (chainSets b l)).map (fun x => (t, x))) with
  | none => chainWait s b j l
  | some (t, x) =>
    let shift := (x + 8 - (chainSets b l).headD 0) % 8
    let s := setJob s j.id (fun k => { resend b t shift l k with mapped := k.mapped ++ [(b, t, shift)] })
    let s := { s with q := { s.q with chains := s.q.chains.filter (fun e => decide (e ≠ (j.id, b))) } }
    setFlag (bump s (.qf q) Reg.QF_REISSUE_CHAINS 1) (.qf q) Reg.QF_IRQ_STAT_REISSUED

/-- The copies of a job on a fenced block go: its commands there do not retire (R440). -/
def cutBlock (b : Nat) (c : Cmd) : Cmd :=
  if sentTo b c && !c.retired then
    let k := c.copies.filter (fun x => !(onBlock b x.engine))
    { c with copies := k, dropped := k.isEmpty }
  else c

/-- The job faults with BLOCK_FENCED (R189). -/
def chainFault (s : Chip) (b q : Nat) (j : Job) : Chip :=
  let s := setJob s j.id (fun j => { j with cmds := j.cmds.map (cutBlock b) })
  let s := { s with q := { s.q with chains := s.q.chains.filter (fun e => e.1 != j.id) } }
  faultOf (bump s (.qf q) Reg.QF_REISSUE_FAULTED 1) (.qf j.quad) (some Reg.QF_ERR_STAT_JOB_FAULT) (originOf j) (some j) 0x49 none

/-- What the quad front does with one job's chain `l` on a block that is fenced (R189). -/
def chainAct (s : Chip) (b : Nat) (j : Job) (l : List Cmd) : Chip :=
  if l.isEmpty then s
  else if l.all (fun c => hdrReissue c.raw) && l.length ≤ 64 && rd s (.qf (b / 16)) Reg.QF_CFG_REISSUE_EN == 1
      && !((blocksOf (b / 16)).all (blockFenced s)) then reissue s b (b / 16) j l
  else chainFault s b (b / 16) j

/-- Chains that waited for room on a replacement are tried again (R189). -/
def retryChains (s : Chip) : Chip :=
  s.q.chains.foldl (fun t e =>
    match jobById t e.1 with
    | some j => chainAct t e.2 j (chainOf t e.2 j)
    | none => t) { s with q := { s.q with chains := s.q.chains.filter (fun e => (jobById s e.1).isSome) } }

/-- A command for a fenced block joins the job's chain there, and the chain is handled (R441, R189). -/
def joinChain (s : Chip) (b id index : Nat) : Chip :=
  match jobById s id with
  | none => s
  | some k =>
    let l := chainOf s b k
    if !(k.cmds.any (fun c => c.index == index && unfinished c)) then s
    else chainAct s b k (if l.any (fun c => c.index == index) then l else l ++ k.cmds.filter (fun d => d.index == index))

/-- The commands for one block that have lost their last candidate come under R441. -/
def joinHomeless (s : Chip) : Chip :=
  s.q.jobs.foldl (fun t j => j.cmds.foldl (fun u c =>
    if unfinished c && c.copies.isEmpty then (fencedTargets u j c.raw).foldl (fun v b => joinChain v b j.id c.index) u else u) t) s

/-- Fence a block (R440): it stops and is clock-gated, its accumulator file is lost, its FC_FENCE bit is set, and each live
job's chain is handled. -/
def fenceBlock (s : Chip) (b : Nat) : Chip :=
  if blockFenced s b then s
  else
    let f := Reg.FC_FENCE_FENCED (b / 32)
    let s := wr s .fc f (putBit (rd s .fc f) (b % 32) true)
    let s := setFlag (bump s .fc Reg.FC_FENCE_STAT_FENCES 1) .fc Reg.FC_IRQ_STAT_FENCE
    let s := match (block s b).wait with
      | some w => leaveAccWait s b w
      | none => wr s (.blk b) Reg.BLK_ISSUE_WIDTH 0
    let chains := s.q.jobs.map (fun j => (j.id, chainOf s b j))
    joinHomeless (chains.foldl (fun t e =>
      match jobById t e.1 with
      | none => t
      | some k => chainAct t b k e.2) (loseSets (wr s (.blk b) Reg.PWR_STAT_STATE 1) b))

end Sys2Proof.Machine
end

