-- ==== Sys2Proof/Machine/Pads.lean ====
section
/-!
DEFINITION. Scratchpads (05): addresses, the access check, ECC and poison of 64-bit words, reading and writing runs,
zero fills and bank power.
-/
namespace Sys2Proof.Machine

/-! ### Addresses (R144) -/

/-- Bytes of a bank. -/
def bankSize : Nat := 2 ^ 21

/-- The bank that scratchpad address `a` of region `r` names (R144). -/
def bankOf (r a : Nat) : Nat := 16 * (4 * r + bits a 26 25) + bits a 24 21

/-- The scratchpad address of offset `off` in bank `b`. -/
def padAddr (b off : Nat) : Nat := b / 16 % 4 * 2 ^ 25 + b % 16 * 2 ^ 21 + off

/-- A bank that has not been written since draw 0 (R163). -/
def freshBank : Bank := { cells := [], zeroed := [], fill := .free 0, poison := [], latent := [] }

/-- A bank's state. -/
def bank (s : Chip) (b : Nat) : Bank := tgetD s.pads b freshBank

/-- Change a bank's state. -/
def setBank (s : Chip) (b : Nat) (f : Bank → Bank) : Chip := { s with pads := tmod s.pads b freshBank f }

/-- Is the bank fenced (R161)? -/
def bankFenced (s : Chip) (b : Nat) : Bool := rd s (.spb b) Reg.SPB_STAT_FENCED == 1

/-! ### Bytes of a bank -/

/-- Is the offset in a range zero-filled since power-up? -/
def zeroedAt (x : Bank) (off : Nat) : Bool := x.zeroed.any (fun e => decide (e.1 ≤ off ∧ off < e.2))

/-- What an unlisted byte of bank `b` reads as (R155, R156, R163). -/
def bankGround (x : Bank) (b off : Nat) : Byte :=
  if zeroedAt x off then 0
  else match x.fill with
    | .zero => 0
    | .free d => Config.freeByte d (b * bankSize + off)

/-- The byte at offset `off` of bank `b`. -/
def bankByte (x : Bank) (b off : Nat) : Byte := tgetD x.cells off (bankGround x b off)

/-- Does an unlisted byte at `off` read zero? -/
def groundZero (x : Bank) (off : Nat) : Bool := zeroedAt x off || x.fill == .zero

/-- Write a byte of a bank; a zero byte over a zero ground is not listed. -/
def bankSet (x : Bank) (off : Nat) (v : Byte) : Bank :=
  { x with cells := if v = 0 && groundZero x off then tdel x.cells off else tset x.cells off v }

/-- Write a run of bytes of a bank. -/
def bankPut (x : Bank) (off : Nat) : List Byte → Bank
  | [] => x
  | v :: l => bankPut (bankSet x off v) (off + 1) l

/-- The canonical form of a bank's bytes. -/
def bankWf (x : Bank) : Bool := tsorted x.cells && x.cells.all (fun c => !(c.2 == 0 && groundZero x c.1))

/-- Add a range to the zero-filled ones, merged with those that it meets. -/
def addRange (l : List (Nat × Nat)) (a b : Nat) : List (Nat × Nat) :=
  let meets := l.filter (fun e => decide (e.1 ≤ b ∧ a ≤ e.2))
  let lo := meets.foldl (fun x e => min x e.1) a
  let hi := meets.foldl (fun x e => max x e.2) b
  l.filter (fun e => decide (e.2 < a)) ++ [(lo, hi)] ++ l.filter (fun e => decide (b < e.1))

/-- A fill of [first, last) of a bank ends (R156): zero bytes, no poison, no stored error. -/
def bankZero (x : Bank) (first last : Nat) : Bank :=
  let out := fun o => !(decide (first ≤ o ∧ o < last))
  let whole := first = 0 ∧ last = bankSize
  { cells := if whole then [] else x.cells.filter (fun c => out c.1),
    zeroed := if whole ∨ x.fill = .zero then [] else addRange x.zeroed first last,
    fill := if whole then .zero else x.fill,
    poison := x.poison.filter (fun w => out (w * 8)),
    latent := x.latent.filter (fun e => out (e.1 * 8)) }

/-! ### Power of a bank (R163, R164, Table 05-6) -/

/-- A bank powers up from OFF: undefined values without errors, DIRTY set (R163). -/
def powerUpBank (s : Chip) (b : Nat) : Chip :=
  let d := s.fresh
  let s := setBank { s with fresh := d + 1 } b
    (fun _ => { cells := [], zeroed := [], fill := .free d, poison := [], latent := [] })
  wrAll s (.spb b) [(Reg.SPB_STAT_DIRTY, 1), (Reg.SPB_STAT_POWER, 0)]

/-- An access reaches a bank: it wakes alone, and its idle timer starts again (R163, R460). -/
def bankTouch (s : Chip) (b : Nat) : Chip :=
  let st := rd s (.spb b) Reg.SPB_STAT_POWER
  let s := if st = 3 then powerUpBank s b else if st = 0 then s else wr s (.spb b) Reg.SPB_STAT_POWER 0
  { s with power := { s.power with lastBank := tset s.power.lastBank b s.now,
                                   lastRegion := tset s.power.lastRegion (b / 64) s.now } }

/-! ### ECC (R160, R161) -/

/-- Fence a bank with its block (R161). -/
def fenceBank (s : Chip) (b : Nat) : Chip :=
  let s := report s (.spb b) Reg.SPB_ERR_STAT_PERSIST
    { plainNote (.spb b) .core 0x3A with addr := some (1, padAddr b 0), region := b / 64 }
  fenceBlock (wr s (.spb b) Reg.SPB_STAT_FENCED 1) b

/-- A read meets an error in the word at offset `off` (R160): corrected and counted, or the word poisoned. DESIGN CHOICE (log
entry 34): a WINDOW of 0, outside its range of 1 to 65,535, is a window of no length. -/
def wordError (s : Chip) (b off : Nat) (ue : Bool) (who : Option Origin) : Chip :=
  let n := { (plainNote (.spb b) (if ue then .deferred else .corrected) (if ue then 0x39 else 0x38)).ofJob who with
    addr := some (1, padAddr b (off / 8 * 8)), region := b / 64 }
  let s := setBank s b (fun x => { x with latent := tdel x.latent (off / 8),
                                          poison := if ue then kadd x.poison (off / 8) else x.poison })
  if ue then
    report (bump s (.spb b) Reg.SPB_ECC_STAT_UE 1) (.spb b) Reg.SPB_ERR_STAT_UE n
  else
    let s := report (bump s (.spb b) Reg.SPB_ECC_STAT_CE 1) (.spb b) Reg.SPB_ERR_STAT_CE n
    let len := msNs (rd s (.spb b) Reg.SPB_ECC_CFG_WINDOW)
    let s := countEvent s (resBank b) len false
    if (windowNow s (resBank b) len).ce ≥ orFull (rd s (.spb b) Reg.SPB_ECC_CFG_THRESH) && !(bankFenced s b)
    then fenceBank s b else s

/-- The armed injections of a bank fire at a read of offset `off` (R488). -/
def injectWord (s : Chip) (b off : Nat) (who : Option Origin) : Chip :=
  let arm := rd s (.spb b) Reg.ERR_INJECT_ARM
  let s := wr s (.spb b) Reg.ERR_INJECT_ARM (arm - arm % 8)
  let s := if bit arm 0 then wordError s b off false who else s
  let s := if bit arm 1 then wordError s b off true who else s
  if bit arm 2 && !(bankFenced s b) then fenceBank s b else s

/-- Where a fence of bank `b` that has come with the read of a word refuses the rest of a run that ends at `last` (R161): the
accesses after the one that read the word, each a run of 64 bytes (R147; DESIGN CHOICE, log 36). -/
def fenceCut (t : Chip) (b word last : Nat) : Option Nat :=
  if bankFenced t b && decide ((word / 8 + 1) * 64 < last) then some ((word / 8 + 1) * 64) else none

/-- A read of a run inside one bank meets the errors stored in its words, an armed injection at its first word (R160, R488): the
state, and the offset from which a fence that it raises refuses the rest (R161). A bank that was fenced before raises none. -/
def bankRun (s : Chip) (b off len : Nat) (who : Option Origin) : Chip × Option Nat :=
  if len = 0 then (s, none)
  else
    let was := bankFenced s b
    let cut := fun (t : Chip) (w : Nat) => if was then none else fenceCut t b w (off + len)
    let s := injectWord (bankTouch s b) b off who
    let met := (bank s b).latent.filter (fun e => decide (off / 8 ≤ e.1 ∧ e.1 * 8 < off + len))
    met.foldl (fun (a : Chip × Option Nat) e =>
      if a.2.isSome then a
      else
        let t := wordError a.1 b (e.1 * 8) e.2 who
        (t, cut t e.1)) (s, cut s (off / 8))

/-- The state after a read of a run inside one bank. -/
def bankMeets (s : Chip) (b off len : Nat) (who : Option Origin) : Chip := (bankRun s b off len who).1

/-! ### Runs of a region's scratchpad -/

/-- A run cut at bank boundaries (R147): bank, offset, length. -/
def padPieces (r a len : Nat) : List (Nat × Nat × Nat) :=
  if len = 0 then []
  else
    (span (a / bankSize) ((a + len - 1) / bankSize + 1 - a / bankSize)).map (fun u =>
      let lo := max a (u * bankSize)
      (bankOf r lo, lo % bankSize, min (a + len) ((u + 1) * bankSize) - lo))

/-- The scratchpad address of a piece's first byte. -/
def pieceAddr (e : Nat × Nat × Nat) : Nat := padAddr e.1 e.2.1

/-- The refusal of a scratchpad access of partition `p` (R145 to R147): its code, and the address of the access refused. -/
def padRefusal (s : Chip) (p r a len align : Nat) : Option (Nat × Nat) :=
  if a + len > 2 ^ 27 || a % align != 0 then some (0x3B, a)
  else ((padPieces r a len).find? (fun e => quadOwner s (e.1 / 16) != some p || bankFenced s e.1)).map
    (fun e => (0x3C, pieceAddr e))

/-- The code that refuses a scratchpad access of partition `p`, if any. -/
def padCheck (s : Chip) (p r a len align : Nat) : Option Nat := (padRefusal s p r a len align).map (fun e => e.1)

/-- A scratchpad fault at the bank that the address names (R165, Table 05-13). -/
def faultPad (s : Chip) (o : Origin) (code r a : Nat) : Chip :=
  let b := bankOf r (a % 2 ^ 27)
  faultJob s (.spb b) (some Reg.SPB_ERR_STAT_ACCESS_FAULT) o code (some (1, a))

/-- A read of a run meets its words' errors (R160): the state, and the address from which a fence that it raises refuses the rest
(R161). -/
def padRun (s : Chip) (r a len : Nat) (who : Option Origin) : Chip × Option Nat :=
  (padPieces r a len).foldl (fun (x : Chip × Option Nat) e =>
    if x.2.isSome then x
    else
      let t := bankRun x.1 e.1 e.2.1 e.2.2 who
      (t.1, t.2.map (padAddr e.1))) (s, none)

/-- The state after the read of a run. -/
def padMeets (s : Chip) (r a len : Nat) (who : Option Origin) : Chip := (padRun s r a len who).1

/-- The byte at scratchpad address `a` of region `r`. -/
def padByte (s : Chip) (r a : Nat) : Byte := bankByte (bank s (bankOf r a)) (bankOf r a) (a % bankSize)

/-- The bytes of a run. -/
def padRead (s : Chip) (r a len : Nat) : List Byte := (span a len).map (padByte s r)

/-- The little-endian number of a run. -/
def padNat (s : Chip) (r a len : Nat) : Nat := ofBytes (padRead s r a len)

/-- The 32-bit word at `a`. -/
def padWord (s : Chip) (r a : Nat) : Nat := padNat s r a 4

/-- Is the 64-bit word that holds `a` poisoned? -/
def padBadAt (s : Chip) (r a : Nat) : Bool := kmem (bank s (bankOf r a)).poison (a % bankSize / 8)

/-- Is any word of a run poisoned? -/
def padBad (s : Chip) (r a len : Nat) : Bool :=
  (padPieces r a len).any (fun e => (bank s e.1).poison.any (fun w => decide (e.2.1 / 8 ≤ w ∧ w * 8 < e.2.1 + e.2.2)))

/-- The address of the first poisoned word of a run of region `r`. -/
def padFirstBad (s : Chip) (r a len : Nat) : Option Nat :=
  (padPieces r a len).findSome? (fun e =>
    ((bank s e.1).poison.find? (fun w => decide (e.2.1 / 8 ≤ w ∧ w * 8 < e.2.1 + e.2.2))).map (fun w => padAddr e.1 (w * 8)))

/-- The 64-bit words that a run of `n` bytes from `off` covers in part: a write of them reads them first (R159). -/
def narrowWords (off n : Nat) : List Nat :=
  (span (off / 8) ((off + n - 1) / 8 + 1 - off / 8)).filter (fun w => !(decide (off ≤ w * 8 ∧ w * 8 + 8 ≤ off + n)))

/-- The reads that a write of a run makes of the words that it covers in part (R159): the state, and the address from which a fence
that they raise refuses the rest (R161). -/
def narrowRun (s : Chip) (r a len : Nat) (who : Option Origin) : Chip × Option Nat :=
  (padPieces r a len).foldl (fun (x : Chip × Option Nat) e =>
    (narrowWords e.2.1 e.2.2).foldl (fun (y : Chip × Option Nat) w =>
      if y.2.isSome then y
      else
        let was := bankFenced y.1 e.1
        let t := bankMeets y.1 e.1 (w * 8) 8 who
        (t, if was then none else (fenceCut t e.1 w (e.2.1 + e.2.2)).map (padAddr e.1))) x) (s, none)

/-- Write a run inside one bank (R157, R159, R160): whole words lose their poison and stored errors; a narrow write meets the
errors of its word, for `who`, and leaves a poisoned word poisoned; `bad` data poisons the words it reaches (R23). -/
def bankWrite (s : Chip) (b off : Nat) (l : List Byte) (bad : Bool) (who : Option Origin) : Chip :=
  if l.isEmpty then s
  else
    let whole := fun w => decide (off ≤ w * 8 ∧ w * 8 + 8 ≤ off + l.length)
    let s := (narrowWords off l.length).foldl (fun t w => bankMeets t b (w * 8) 8 who) (bankTouch s b)
    let s := setBank s b (fun x =>
      let y := bankPut x off l
      let kept := x.poison.filter (fun w => !(whole w))
      { y with poison := if bad then (span (off / 8) ((off + l.length - 1) / 8 + 1 - off / 8)).foldl kadd kept else kept,
               latent := x.latent.filter (fun e => !(whole e.1)) })
    let s := { s with fills := s.fills.map (fun f => if f.bank = b then { f with touched := true } else f) }
    wr s (.spb b) Reg.SPB_STAT_DIRTY 1

/-- Write a run of a region's scratchpad. -/
def padPut (s : Chip) (r a : Nat) (l : List Byte) (bad : Bool) (who : Option Origin) : Chip :=
  (padPieces r a l.length).foldl (fun t e =>
    let first := e.1 % 64 * bankSize + e.2.1 - a
    bankWrite t e.1 e.2.1 ((l.drop first).take e.2.2) bad who) s

/-- Poison the words that a run reaches (R160). -/
def padMark (s : Chip) (r a len : Nat) : Chip :=
  (padPieces r a len).foldl (fun t e => setBank t e.1 (fun x =>
    { x with poison := (span (e.2.1 / 8) ((e.2.1 + e.2.2 - 1) / 8 + 1 - e.2.1 / 8)).foldl kadd x.poison })) s

/-- The parts, offset and length, that lie in the first `n` bytes of a run. -/
def clipRuns (n : Nat) (l : List (Nat × Nat)) : List (Nat × Nat) :=
  (l.filter (fun e => decide (e.1 < n))).map (fun e => (e.1, min e.2 (n - e.1)))

end Sys2Proof.Machine
end

