-- ==== Sys2Proof/Machine/Sync.lean ====
section
/-!
DEFINITION. Synchronisation and queue control (06): NOP, semaphores, barriers, host events, WEIGH_ENOUGH, and the writes
of a queue page (R168 to R199).
-/
namespace Sys2Proof.Machine

/-! ### Retiring -/

/-- The command with index `i` of job `id` retires, and the job ends if it has come to its end (R179). -/
def retireCmd (s : Chip) (id i : Nat) : Chip :=
  match jobById s id with
  | none => s
  | some j =>
    let done := j.cmds.filter (fun c => c.index == i)
    let s := setJob s id (fun j => { j with cmds := j.cmds.map (fun c => if c.index = i then { c with retired := true } else c) })
    let s := { s with prec := { s.prec with claims := s.prec.claims.filter (fun x =>
      !(fromOrigin x.origin j && done.any (fun c => bodyOf c.raw == x.body))) } }
    stopProgress (settle s id) j.part

/-! ### Semaphores (R190 to R192, R195) -/

/-- Does semaphore `n` lie in the partition's range (R190)? -/
def semOwned (s : Chip) (p n : Nat) : Bool :=
  decide (256 * rd s (.part p) Reg.HUB_PART_SYNC_SEM_FIRST ≤ n ∧ n ≤ 256 * rd s (.part p) Reg.HUB_PART_SYNC_SEM_LAST + 255)

/-- A semaphore's value. -/
def semVal (s : Chip) (n : Nat) : Nat := tgetD s.q.sems n 0

/-- Set a semaphore's value. -/
def semSet (s : Chip) (n v : Nat) : Chip :=
  { s with q := { s.q with sems := if v = 0 then tdel s.q.sems n else tset s.q.sems n v } }

/-- The opcode of a wait's command. -/
def waitOp (w : Wait) : Nat :=
  match w.on with
  | .sem _ _ _ => 0x11
  | .bar _ _ => 0x12

/-- A wait is satisfied: it leaves the waiters, and its command is done. -/
def satisfy (s : Chip) (w : Wait) : Chip :=
  let s := { s with q := { s.q with waits := s.q.waits.erase w } }
  finish (showWaits s w.origin.quad.val) w.origin (.sync w.origin.quad) (waitOp w) w.body

/-- Has a wait reached the end of its half-open interval (R196, R7)? What arrives then is late. -/
def waitExpired (s : Chip) (w : Wait) : Bool :=
  let limit := msNs (rd s (.qf w.origin.quad.val) Reg.QF_CFG_WAIT_TIMEOUT)
  limit != 0 && decide (w.since + limit ≤ s.now)

/-- The semaphore examines its waiters in arrival order after a change (R192). -/
def semExamine (s : Chip) (n : Nat) : Chip :=
  s.q.waits.foldl (fun t w =>
    match w.on with
    | .sem m thresh consume =>
      if m = n ∧ !(waitExpired t w) ∧ thresh ≤ semVal t n then satisfy (if consume then semSet t n (semVal t n - thresh) else t) w else t
    | .bar _ _ => t) s

/-- The largest semaphore value (R191). -/
def semTop : Nat := 2 ^ 32 - 1

/-- Add to a semaphore, stopping at its largest value; its waiters are examined (R191, R192). -/
def semAdd (s : Chip) (n v : Nat) : Chip := semExamine (semSet s n (min (semVal s n + v) semTop)) n

/-- SEM_SIGNAL's change (R191). -/
def signalSem (s : Chip) (o : Origin) (n v : Nat) (set : Bool) : Chip :=
  if set then semExamine (semSet s n v) n
  else if semVal s n + v > semTop then faultQueue (semAdd s n v) o 0x46
  else semAdd s n v

/-- The sync engine of an origin. -/
def syncOf (o : Origin) : Engine := .sync o.quad

/-- A sync command is charged one cycle and done (R204, R188). -/
def syncDone (s : Chip) (o : Origin) (op : Nat) (b : Body) : Chip := finish (charge s (syncOf o) o 1) o (syncOf o) op b

/-- NOP (R177): it does nothing and retires at once. -/
def nop (s : Chip) (o : Origin) : Chip :=
  let runs := fun (c : Cmd) => unfinished c && hdrOpcode c.raw == 0 && c.copies.any (fun k => k.engine == syncOf o && k.fate == .issued)
  let hit := s.q.jobs.findSome? (fun j =>
    if fromOrigin o j then (j.cmds.find? runs).map (fun c => (j.id, c.index)) else none)
  match hit with
  | some e => retireCmd (charge s (syncOf o) o 1) e.1 e.2
  | none => s

/-- SEM_SIGNAL (R191): once the earlier commands of its job have retired. -/
def semSignal (s : Chip) (o : Origin) (b : Body) : Chip :=
  if !(mayFollow s o (syncOf o) 0x10 b) then s
  else
    let n := bf b 0x10 15 0
    let s := if semOwned s o.part.val n then signalSem s o n (bw b 0x14) (bb b 0x10 16) else faultQueue s o 0x45
    syncDone s o 0x10 b

/-- A command begins to wait (R192, R193, R196). -/
def addWait (s : Chip) (o : Origin) (b : Body) (on : WaitOn) : Chip :=
  showWaits { s with q := { s.q with waits := s.q.waits ++ [{ origin := o, body := b, on := on, since := s.now }] } } o.quad.val

/-- SEM_WAIT (R192): satisfied at once, or it waits. -/
def semWait (s : Chip) (o : Origin) (b : Body) : Chip :=
  let n := bf b 0x10 15 0
  let thresh := bw b 0x14
  if !(semOwned s o.part.val n) then syncDone (faultQueue s o 0x45) o 0x11 b
  else if thresh ≤ semVal s n then
    syncDone (if bb b 0x10 16 then semSet s n (semVal s n - thresh) else s) o 0x11 b
  else addWait (charge s (syncOf o) o 1) o b (.sem n thresh (bb b 0x10 16))

/-! ### Barriers (R193) -/

/-- Does barrier counter `n` lie in the partition's range (R190)? -/
def barOwned (s : Chip) (p n : Nat) : Bool :=
  decide (16 * rd s (.part p) Reg.HUB_PART_SYNC_BAR_FIRST ≤ n ∧ n ≤ 16 * rd s (.part p) Reg.HUB_PART_SYNC_BAR_LAST + 15)

/-- A counter that no arrival has reached (R193). -/
def freshBar : Bar := { count := 0, target := 0, generation := 0 }

/-- A barrier counter. -/
def barOf (s : Chip) (n : Nat) : Bar := tgetD s.q.bars n freshBar

/-- Set a barrier counter. -/
def barSet (s : Chip) (n : Nat) (x : Bar) : Chip :=
  { s with q := { s.q with bars := if x = freshBar then tdel s.q.bars n else tset s.q.bars n x } }

/-- The counter advances: it returns to zero, and every waiter of earlier generations is released (R193). -/
def barAdvance (s : Chip) (n : Nat) : Chip :=
  let g := (barOf s n).generation + 1
  let s := barSet s n { count := 0, target := 0, generation := g }
  s.q.waits.foldl (fun t w =>
    match w.on with
    | .bar m k => if m = n ∧ k < g ∧ !(waitExpired t w) then satisfy t w else t
    | .sem _ _ _ => t) s

/-- An arrival (R193): the first of a generation sets the target; another target is refused; the last advances. -/
def barArrive (s : Chip) (n target : Nat) : Chip :=
  let x := barOf s n
  let t := if x.count = 0 then target else x.target
  if x.count + 1 = t then barAdvance s n else barSet s n { x with count := x.count + 1, target := t }

/-- A barrier's wait, of generation `g` (R193): it begins, or is satisfied already. -/
def barWait (s : Chip) (o : Origin) (b : Body) (n g : Nat) (wait : Bool) : Chip :=
  if wait && (barOf s n).generation == g then addWait (charge s (syncOf o) o 1) o b (.bar n g) else syncDone s o 0x12 b

/-- A barrier command reaches its counter (R193). -/
def barMeet (s : Chip) (o : Origin) (b : Body) : Chip :=
  let n := bf b 0x10 11 0
  let arrive := bb b 0x10 16
  let target := bf b 0x14 15 0
  if !(barOwned s o.part.val n) then syncDone (faultQueue s o 0x45) o 0x12 b
  else if arrive && target == 0 then syncDone (faultQueue s o 0x41) o 0x12 b
  else if arrive && (barOf s n).count != 0 && (barOf s n).target != target then syncDone (faultQueue s o 0x47) o 0x12 b
  else barWait (if arrive then barArrive s n target else s) o b n (barOf s n).generation (bb b 0x10 17)

/-- BARRIER (R193); one whose wait a switch has withdrawn does not arrive again (R211). -/
def barrier (s : Chip) (o : Origin) (b : Body) : Chip :=
  match (runningCmd s o (syncOf o) 0x12 b).bind (fun c => c.arrived) with
  | some g => barWait s o b (bf b 0x10 11 0) g true
  | none => if bb b 0x10 16 && !(mayFollow s o (syncOf o) 0x12 b) then s else barMeet s o b

/-- A wait leaves the sync engine's list. -/
def leaveWait (s : Chip) (w : Wait) : Chip :=
  showWaits { s with q := { s.q with waits := s.q.waits.erase w } } w.origin.quad.val

/-- WAIT_TIMEOUT (R196): the wait's half-open interval has ended. -/
def waitTimeout (s : Chip) (i : Nat) : Chip :=
  match s.q.waits[i]? with
  | none => s
  | some w =>
    if waitExpired s w then
      let s := handTo s w.origin (syncOf w.origin) (waitOp w) w.body
      leaveWait (faultQueue (bump s (.qf w.origin.quad.val) Reg.QF_WAIT_TIMEOUTS 1) w.origin 0x48) w
    else s

/-- EVENT_HOST (R194): an 8-byte write to device or host memory, then MSI-X where asked. -/
def eventHost (s : Chip) (o : Origin) (b : Body) (host : HostReply) : Chip :=
  if !(mayFollow s o (syncOf o) 0x13 b) then s
  else
    let a := bq b 0x10
    let v := toBytes 8 (bq b 0x18)
    let fn := boundFunc s o.part.val
    let irq := fun (t : Chip) => if bb b 0x20 16 then msix t fn.1 fn.2 (bf b 0x20 10 0) else t
    match bf b 0x20 31 30 with
    | 1 =>
      match girthAdmit s o.part.val a 8 true with
      | .wait => admitted s o.part.val a 8 true
      | .refuse c => syncDone (faultMem s o c a) o 0x13 b
      | .go => syncDone (irq (memPut (admitted s o.part.val a 8 true) a v)) o 0x13 b
    | 2 =>
      if hostReady s fn.1 fn.2 && host != .error then
        syncDone (irq (emit s (.hostWrite fn.1 fn.2 a v))) o 0x13 b
      else syncDone (faultQueue (hostError s fn.1) o 0x4A) o 0x13 b
    | _ => syncDone (faultQueue s o 0x41) o 0x13 b

/-- The body of the WEIGH_ENOUGH that the sync engine runs for the origin, or was to run when it was cancelled. -/
def weighBody (s : Chip) (o : Origin) : Body :=
  let runs := s.q.jobs.findSome? (fun j =>
    if fromOrigin o j then (j.cmds.find? (fun c => unfinished c && hdrOpcode c.raw == 0x14)).map (fun c => bodyOf c.raw) else none)
  match runs with
  | some b => b
  | none => ((s.q.cancelled.find? (fun x => x.1 == o && x.2.1 == 0x14)).map (fun x => x.2.2)).getD 0

/-- WEIGH_ENOUGH waits for the queues of its partition to stop (R197). -/
def noteStop (s : Chip) (o : Origin) (b : Body) : Chip := { s with q := { s.q with stops := s.q.stops ++ [(o, b)] } }

/-- WEIGH_ENOUGH (R197, R198): the partition's queues stop; a second one changes nothing. -/
def weighEnough (s : Chip) (o : Origin) : Chip :=
  let b := weighBody s o
  if !(mayFollow s o (syncOf o) 0x14 b) then s
  else if (goingQueues s o.part.val).isEmpty then syncDone s o 0x14 b
  else stopQueues (noteStop (charge s (syncOf o) o 1) o b) o.part.val

/-! ### Queue pages (R168 to R199) -/

/-- SQ_DOORBELL (R170, R365, R460). -/
def sqDoorbell (s : Chip) (via : Via) (p n v : Nat) : Chip :=
  let pg := Page.sq p n
  if !(reaches s via p) then s
  else if partState s p = 4 then bump s (.part p) Reg.HUB_PART_STATE_DROPPED 1
  else if queueState s p n = 0 ∨ queueState s p n = 4 then bump s pg Reg.SQ_IGNORED_DROPPED 1
  else
    let l := rd s pg Reg.SQ_PI_PI
    let c := rd s pg Reg.SQ_CI_CI
    let size := 2 ^ rd s pg Reg.SQ_CFG_SIZE_LOG2
    if v = l then s
    else if (v + 2 ^ 32 - l) % 2 ^ 32 ≥ 2 ^ 31 then bump s pg Reg.SQ_IGNORED_STALE 1
    else if (v + 2 ^ 32 - c) % 2 ^ 32 > size then bump s pg Reg.SQ_IGNORED_INVALID 1
    else regionCall (wr s pg Reg.SQ_PI_PI v) (rd s pg Reg.SQ_CFG_QUAD / 4)

/-- Is the queue's configuration valid (R168)? -/
def queueValid (s : Chip) (p n : Nat) : Bool :=
  let pg := Page.sq p n
  let z := rd s pg Reg.SQ_CFG_SIZE_LOG2
  let cz := rd s pg Reg.SQ_CQ_CFG_SIZE_LOG2
  decide (4 ≤ z ∧ z ≤ 16 ∧ 4 ≤ cz ∧ cz ≤ 16) && rd s pg Reg.SQ_CFG_KIND != 3
    && quadOwner s (rd s pg Reg.SQ_CFG_QUAD) == some p
    && rd s pg Reg.SQ_BASE_LO_BASE % 4096 == 0 && rd s pg Reg.SQ_CQ_BASE_LO_CQ_BASE % 4096 == 0

/-- Enable a DISABLED queue, or set CFG_ERR (R168, R169, R201); records that a full ring held back come first (R175). -/
def enableQueue (s : Chip) (p n : Nat) : Chip :=
  let pg := Page.sq p n
  if queueState s p n ≠ 0 then s
  else if !(queueValid s p n) then wr s pg Reg.SQ_STAT_CFG_ERR 1
  else
    let s := wrAll s pg [(Reg.SQ_STAT_CFG_ERR, 0), (Reg.SQ_STAT_STATE, 1), (Reg.SQ_CTRL_ENABLE, 1), (Reg.SQ_PI_PI, 0),
      (Reg.SQ_CI_CI, 0), (Reg.SQ_CQ_TAIL_TAIL, 0), (Reg.SQ_CQ_HEAD_HEAD, 0), (Reg.SQ_IGNORED_HOST_REJECT, 0),
      (Reg.SQ_IGNORED_DROPPED, 0), (Reg.SQ_IGNORED_STALE, 0), (Reg.SQ_IGNORED_INVALID, 0)]
    drainQueue (showBound s p (rd s pg Reg.SQ_CFG_QUAD)) p n

/-- The partition page's PENDING bit of queue `n` (Table 12-8). -/
def pendingBit (s : Chip) (p n : Nat) : Bool :=
  if n < 32 then bit (rd s (.part p) Reg.HUB_PART_PENDING_LO_PENDING_LO) n
  else bit (rd s (.part p) Reg.HUB_PART_PENDING_HI_PENDING_HI) (n - 32)

/-- Set or clear the PENDING bit of queue `n`. -/
def setPending (s : Chip) (p n : Nat) (on : Bool) : Chip :=
  if n < 32 then wr s (.part p) Reg.HUB_PART_PENDING_LO_PENDING_LO (putBit (rd s (.part p) Reg.HUB_PART_PENDING_LO_PENDING_LO) n on)
  else wr s (.part p) Reg.HUB_PART_PENDING_HI_PENDING_HI (putBit (rd s (.part p) Reg.HUB_PART_PENDING_HI_PENDING_HI) (n - 32) on)

/-- SQ_CTRL.ENABLE = 1 (R168, R366). -/
def queueEnable (s : Chip) (via : Via) (p n : Nat) : Chip :=
  if !(reaches s via p) || partState s p == 5 then s
  else if partState s p = 4 then
    if rd s (.part p) Reg.HUB_PART_CFG_REENABLE_POLICY = 0 then setPending s p n true
    else wr (bump s (.part p) Reg.HUB_PART_STATE_REJECTS 1) (.part p) Reg.HUB_PART_CMD_STAT_CODE 0x8D
  else enableQueue s p n

/-- SQ_CTRL.RESUME (R198). -/
def queueResume (s : Chip) (via : Via) (p n : Nat) : Chip :=
  if reaches s via p && partState s p != 4 && queueState s p n == 3 then
    showStopping (wr s (.sq p n) Reg.SQ_STAT_STATE 1) p
  else s

/-- A queue reset overtakes a job (R199): what has not issued is discarded, what the sync engine or the Start list holds is
cancelled, and so is the pass that waits at a block; the rest runs to its command boundary. -/
def abortCmd (held : Engine → Body → Bool) (c : Cmd) : Cmd :=
  keepCopies (fun x => x.fate == .done
    || (x.fate == .issued && engineType x.engine != 4 && engineType x.engine != 7 && !(held x.engine (bodyOf c.raw)))) c

/-- Does a pass of the job wait on engine `e` for an accumulator set (R132)? -/
def passHeld (s : Chip) (j : Job) (e : Engine) (b : Body) : Bool :=
  match e with
  | .stroke k => (block s k.val).wait.any (fun w => fromOrigin w.origin j && w.body == b)
  | _ => false

/-- What a job's reset cancels at once beside its commands: waits, stops, pending serving commands, waiting passes. -/
def cancelPending (s : Chip) (j : Job) : Chip :=
  let gone := goesWith s j
  let s := endAccWaits (endWaits s gone j.quad) gone
  { s with
    q := { s.q with stops := s.q.stops.filter (fun w => !(gone w.1 w.2)) },
    serve := tmap s.serve (fun p v => if p = j.part then { v with slots := tmap v.slots (fun _ t => withdrawEvents gone t) } else v) }

/-- A job is overtaken by a queue reset; it ends at once where nothing of it runs (R199). -/
def abortJob (s : Chip) (j : Job) (status : Nat) : Chip :=
  let s := cancelPending (cancelCmds s j (abortCmd (passHeld s j))) j
  settle (setJob s j.id (fun k => { k with abort := some status })) j.id

/-- The jobs of a queue that its reset concerns, in order. -/
def queueJobs (s : Chip) (p n : Nat) : List Job := s.q.jobs.filter (fun j => j.part == p && j.queue == n && !j.step)

/-- A queue begins its reset (R199): it is RESETTING until the last command of its jobs has gone. -/
def beginReset (s : Chip) (p n status : Nat) : Chip :=
  if queueState s p n = 0 ∨ queueState s p n = 4 then s
  else
    let s := wrAll s (.sq p n) [(Reg.SQ_STAT_STATE, 4), (Reg.SQ_CTRL_ENABLE, 0)]
    resetProgress ((queueJobs s p n).foldl (fun t j => abortJob t j status) s) p n

/-- A queue of a partition that is reset (R362): its jobs end at once with `status`, and it is DISABLED (log 21). -/
def resetQueue (s : Chip) (p n status : Nat) : Chip :=
  if queueState s p n = 0 then s
  else
    let s := wrAll s (.sq p n) [(Reg.SQ_STAT_STATE, 4), (Reg.SQ_CTRL_ENABLE, 0)]
    resetProgress ((queueJobs s p n).foldl (fun t j => endJob t j status 0) s) p n

/-- SQ_CQ_HEAD (R173, R175). -/
def sqCqHeadWrite (s : Chip) (via : Via) (p n v : Nat) : Chip :=
  let pg := Page.sq p n
  let head := rd s pg Reg.SQ_CQ_HEAD_HEAD
  if !(reaches s via p) ∨ partState s p = 4 then s
  else if (v + 2 ^ 32 - head) % 2 ^ 32 > cqUnread s p n then s
  else drainQueue (wr s pg Reg.SQ_CQ_HEAD_HEAD v) p n

/-- SQ_HOST_SIGNAL (R195). -/
def sqHostSignal (s : Chip) (via : Via) (p n v : Nat) : Chip :=
  let sem := bits v 31 16
  let add := bits v 15 0
  if !(reaches s via p) ∨ partState s p = 4 then s
  else if !(semOwned s p sem) ∨ semVal s sem + add > semTop then bump s (.sq p n) Reg.SQ_IGNORED_HOST_REJECT 1
  else semAdd s sem add

end Sys2Proof.Machine
end

