-- ==== Sys2Proof/Machine/Dma.lean ====
section
/-!
DEFINITION. The quad DMA (05, 06, 11): zero fills, DMA_COPY in its three modes, memory-side arithmetic, and the bank
ports: arbitration, scrubbing and register fills.
-/
namespace Sys2Proof.Machine

/-- The quad DMA of an origin. -/
def dmaOf (o : Origin) : Engine := .dma o.quad

/-- A DMA command is done: it is charged region cycles that the spec gives no formula for (a free value, R204). -/
def dmaDone (s : Chip) (o : Origin) (op : Nat) (b : Body) : Chip :=
  let d := draw s
  finish (charge d.2 (dmaOf o) o (Config.freeNat d.1)) o (dmaOf o) op b

/-! ### Zero fills (R156 to R158, R187) -/

/-- The fills a ZERO_FILL starts, one for each piece of a bank. -/
def newFills (r a len : Nat) (who : Option (Origin × Body)) : List BankFill :=
  (padPieces r a len).map (fun e =>
    { bank := e.1, first := e.2.1, last := e.2.1 + e.2.2, touched := false, origin := who })

/-- A ZERO_FILL's fills start: their banks wake, and each shows BUSY. -/
def startFills (s : Chip) (o : Origin) (b : Body) : Chip :=
  let r := o.quad.val / 4
  let new := newFills r (bw b 0x10) (bw b 0x14) (some (o, b))
  let s := (padPieces r (bw b 0x10) (bw b 0x14)).foldl (fun t e => bankTouch t e.1) s
  new.foldl (fun t f => wr t (.spb f.bank) Reg.SPB_ZF_STAT_BUSY 1) { s with fills := s.fills ++ new }

/-- ZERO_FILL (R187): one fill per bank of the range; the command is done when the last one ends. -/
def zeroFill (s : Chip) (o : Origin) (b : Body) : Chip :=
  let a := bw b 0x10
  let len := bw b 0x14
  let r := o.quad.val / 4
  if a % 512 ≠ 0 then dmaDone (faultPad s o 0x3B r a) o 0x05 b
  else if len % 512 ≠ 0 then dmaDone (faultQueue s o 0x41) o 0x05 b
  else
    match padRefusal s o.part.val r a len 1 with
    | some e => dmaDone (faultPad s o e.1 r e.2) o 0x05 b
    | none =>
      if len = 0 then dmaDone s o 0x05 b
      else if s.fills.any (fun f => f.origin == some (o, b)) then s
      else startFills s o b

/-- The fill's effect on its bank (R156, R157): zero bytes, and DIRTY clears where it covered the whole bank and no other
write came between (R158). -/
def fillBank (s : Chip) (f : BankFill) : Chip :=
  let s := setBank (bankTouch s f.bank) f.bank (fun x => bankZero x f.first f.last)
  if f.first = 0 ∧ f.last = bankSize ∧ f.touched = false then wr s (.spb f.bank) Reg.SPB_STAT_DIRTY 0 else s

/-- A fill is over: its bank's piece is zero, and the bank shows DONE once none of its fills is left. -/
def fillOver (s : Chip) (bank : Nat) (f : BankFill) : Chip :=
  let s := fillBank { s with fills := s.fills.erase f } f
  let s := if s.fills.any (fun g => g.bank == bank) then s else wr s (.spb bank) Reg.SPB_ZF_STAT_BUSY 0
  wr s (.spb bank) Reg.SPB_ZF_STAT_DONE 1

/-- A fill of a bank that has been fenced ends without effect, for the bank refuses its accesses (R161): BUSY clears once none is
left, and the job of a command faults. -/
def fillRefused (s : Chip) (bank : Nat) (f : BankFill) : Chip :=
  let gone := s.fills.filter (fun g => if f.origin.isNone then g == f else g.origin == f.origin)
  let s := { s with fills := s.fills.filter (fun g => !(gone.contains g)) }
  let s := gone.foldl (fun t g => if t.fills.any (fun h => h.bank == g.bank) then t else wr t (.spb g.bank) Reg.SPB_ZF_STAT_BUSY 0) s
  match f.origin with
  | none => s
  | some e => dmaDone (faultPad (handTo s e.1 (dmaOf e.1) 0x05 e.2) e.1 0x3C (bank / 64) (padAddr bank f.first)) e.1 0x05 e.2

/-- FILL_COMPLETE (R156, R187): the bank's oldest fill ends. -/
def fillComplete (s : Chip) (bank : Nat) : Chip :=
  match s.fills.find? (fun f => f.bank == bank) with
  | none => s
  | some f =>
    if bankFenced s bank then fillRefused s bank f else
    let s := fillOver s bank f
    match f.origin with
    | none => setFlag s (.spb bank) Reg.SPB_IRQ_STAT_ZF_DONE
    | some e => if s.fills.any (fun g => g.origin == some e) then s else dmaDone (handTo s e.1 (dmaOf e.1) 0x05 e.2) e.1 0x05 e.2

/-- A fill of the bank by its registers begins. -/
def startRegFill (s : Chip) (bank : Nat) : Chip :=
  let pg := Page.spb bank
  let f : BankFill :=
    { bank := bank, first := rd s pg Reg.SPB_ZF_RANGE_FIRST * 2048, last := (rd s pg Reg.SPB_ZF_RANGE_LAST + 1) * 2048,
      touched := false, origin := none }
  wrAll { s with fills := s.fills ++ [f] } pg [(Reg.SPB_ZF_STAT_DONE, 0), (Reg.SPB_ZF_STAT_BUSY, 1)]

/-- ZERO_FILL_GO (R156, R161): a register fill; ignored while BUSY or fenced. -/
def zeroFillGo (s : Chip) (bank : Nat) : Chip :=
  let pg := Page.spb bank
  if bankFenced s bank ∨ rd s pg Reg.SPB_ZF_STAT_BUSY = 1 then s
  else if rd s pg Reg.SPB_ZF_RANGE_LAST < rd s pg Reg.SPB_ZF_RANGE_FIRST then
    setFlag (wr s pg Reg.SPB_ZF_STAT_DONE 1) pg Reg.SPB_IRQ_STAT_ZF_DONE
  else startRegFill s bank

/-! ### Bank ports (R148 to R150, R160, R162) -/

/-- The rank of a requester (Table 05-4). -/
def rank : Requester → Nat
  | .tileLoader => 1
  | .zeroFill => 1
  | .dma => 2
  | .rein => 2
  | .fin => 2
  | .burnisher => 3
  | .host => 4
  | .scrubber => 5

/-- The member of a list with the least value of `f`; the first on ties. -/
def leastOf {α : Type} (f : α → Nat) : List α → Option α
  | [] => none
  | a :: l =>
    match leastOf f l with
    | none => some a
    | some b => if f b < f a then some b else some a

/-- Is the access entitled to a guard grant (R149)? -/
def guarded (a : BankAccess) : Bool := a.requester != .scrubber && a.waited ≥ 64

/-- The access that a bank grants among those that wait (R149): the longest guard waiter, else the lowest rank, in
round-robin order of port after the port last granted at that rank. -/
def chooseAccess (turn : Nat → Nat) (l : List BankAccess) : Option BankAccess :=
  match leastOf (fun a => 2 ^ 32 - a.waited) (l.filter guarded) with
  | some a => some a
  | none =>
    match leastOf (fun a => rank a.requester) l with
    | none => none
    | some b =>
      let k := rank b.requester
      leastOf (fun a => (a.port % 2 ^ 32 + 2 ^ 32 - 1 - turn k % 2 ^ 32) % 2 ^ 32) (l.filter (fun a => rank a.requester == k))

/-- What a read of bank `b` at `off` meets (R160). -/
def meetWord (s : Chip) (b off : Nat) (met : Ecc) : Chip :=
  match met with
  | .clean => s
  | .corrected => wordError s b off false none
  | .uncorrectable => wordError s b off true none

/-- A bank grants the access `a`: it is counted, and a read meets what the bank's word holds. -/
def grantAccess (s : Chip) (b : Nat) (a : BankAccess) (met : Ecc) : Chip :=
  let pg := Page.spb b
  let s := { s with bankTurn := tset s.bankTurn (b * 8 + rank a.requester) a.port }
  let s := bump64 (if a.requester = .scrubber then s else bankTouch s b) pg Reg.SPB_GRANT_LO_GRANTS_LO Reg.SPB_GRANT_HI_GRANTS_HI 1
  let s := if guarded a then bump s pg Reg.SPB_ARB_STAT_GUARD_GRANTS 1 else s
  let s := wr s pg Reg.SPB_ARB_STAT_MAX_WAIT (max (rd s pg Reg.SPB_ARB_STAT_MAX_WAIT) (min a.waited 255))
  if a.write then s else meetWord s b (a.offset % bankSize) met

/-- BANK_GRANT (R149): one access is granted and counted; a read meets what its word holds (R160). -/
def bankGrant (s : Chip) (b : Nat) (l : List BankAccess) (met : Ecc) : Chip :=
  if bankFenced s b then s
  else
    match chooseAccess (fun k => tgetD s.bankTurn (b * 8 + k) 0) l with
    | none => s
    | some a => grantAccess s b a met

/-- The scrubber reads the bank's next 64 bytes, and goes on. -/
def scrubNext (s : Chip) (b : Nat) (met : Ecc) : Chip :=
  let off := tgetD s.scrubPos b 0
  let stored := (bank s b).latent.filter (fun e => decide (off ≤ e.1 * 8 ∧ e.1 * 8 < off + 64))
  let s := stored.foldl (fun t e => wordError t b (e.1 * 8) e.2 none) s
  let s := injectWord (meetWord s b off met) b off none
  { s with scrubPos := tset s.scrubPos b ((off + 64) % bankSize) }

/-- BANK_SCRUB_READ (R162, R160): the scrubber reads its next 64-byte run of an awake bank. -/
def bankScrubRead (s : Chip) (b : Nat) (met : Ecc) : Chip :=
  if rd s (.spb b) Reg.SPB_CFG_SCRUB_EN = 0 ∨ bankFenced s b ∨ rd s (.spb b) Reg.SPB_STAT_POWER ≠ 0 then s
  else scrubNext s b met

/-! ### DMA_COPY (R186) -/

/-- A place of a copy: its space code and its address. -/
structure Place where
  space : Nat
  addr : Nat
deriving DecidableEq, Repr

/-- Bytes of a run of a region's scratchpad before its first access that R145 or R146 refuses, and that refusal: an access to each
bank (R147), the one past the 27-bit addresses refused for its reserved bits. -/
def padPrefix (s : Chip) (p r a len : Nat) : Nat × Option Nat :=
  let n := min len (2 ^ 27 - a)
  match (padPieces r a n).find? (fun e => quadOwner s (e.1 / 16) != some p || bankFenced s e.1) with
  | some e => (pieceAddr e - a, some 0x3C)
  | none => if n < len then (n, some 0x3B) else (len, none)

/-- Bytes of a run that are made before its first refused access, and the refusal's code. -/
def placePrefix (s : Chip) (o : Origin) (x : Place) (len : Nat) (write : Bool) : Nat × Option Nat :=
  match x.space with
  | 0 => padPrefix s o.part.val (o.quad.val / 4) x.addr len
  | 1 => (runPrefix s o.part.val x.addr len write, memRefusal s o.part.val x.addr len write)
  | _ => (len, none)

/-- The job faults at a place with the refusal's code. -/
def faultPlace (s : Chip) (o : Origin) (x : Place) (code n : Nat) : Chip :=
  if x.space = 0 then faultPad s o code (o.quad.val / 4) (x.addr + n) else faultMem s o code (x.addr + n)

/-- The origin's function cannot reach its host: the job faults with DMA_HOST_ERROR (R353). -/
def faultHost (s : Chip) (o : Origin) : Chip := faultQueue (hostError s (boundFunc s o.part.val).1) o 0x4A

/-- A read of `n` bytes at a place: the state after it, the bytes, and whether they are poisoned. -/
def placeRead (s : Chip) (o : Origin) (x : Place) (n : Nat) (host : List Byte) : Chip × List Byte × Bool :=
  let r := o.quad.val / 4
  match x.space with
  | 0 =>
    let s := padMeets s r x.addr n (some o)
    (s, padRead s r x.addr n, padBad s r x.addr n)
  | 1 =>
    let s := readMeets (chargeRun s o.part.val x.addr n) x.addr n (some o)
    (s, memRead s x.addr n, runBad s x.addr n)
  | _ => (s, (List.range n).map (fun i => host.getD i 0), false)

/-- A write of a run of bytes at a place, poison in the parts `marks` (R23). -/
def placeMarked (s : Chip) (o : Origin) (x : Place) (l : List Byte) (marks : List (Nat × Nat)) : Chip :=
  let s := if marks.isEmpty then s else markPoisoned s o
  let r := o.quad.val / 4
  match x.space with
  | 0 => marks.foldl (fun t m => padMark t r (x.addr + m.1) m.2) (padPut s r x.addr l false (some o))
  | 1 => marks.foldl (fun t m => poisonRun t (x.addr + m.1) m.2) (memPut (chargeRun s o.part.val x.addr l.length) x.addr l)
  | _ =>
    let fn := boundFunc s o.part.val
    let s := if marks.isEmpty then s else emit s (.poisoned fn.1 fn.2 l.length)
    emit s (.hostWrite fn.1 fn.2 x.addr l)

/-- The same, poisoned as a whole where `bad`. -/
def placeWrite (s : Chip) (o : Origin) (x : Place) (l : List Byte) (bad : Bool) : Chip :=
  placeMarked s o x l (if bad then [(0, l.length)] else [])

/-- Advance a place. -/
def Place.plus (x : Place) (n : Nat) : Place := { x with addr := x.addr + n }

/-- Does a scratchpad bank of `n` bytes at a place stand fenced (R161)? A fence can come while a command runs. -/
def placeFenced (s : Chip) (o : Origin) (x : Place) (n : Nat) : Bool :=
  x.space == 0 && (padPieces (o.quad.val / 4) x.addr n).any (fun e => bankFenced s e.1)

/-- Copy `n` bytes, in pieces small enough that poison follows its word or line, until a bank of it is fenced: the state, and
whether that has stopped the job. -/
def copyRun (s : Chip) (o : Origin) (src dst : Place) (n : Nat) (host : List Byte) : Chip × Bool :=
  let g := if dst.space = 0 then 8 else 64
  (List.range (cdiv n g)).foldl (fun (t : Chip × Bool) i =>
    let k := min g (n - g * i)
    let x := src.plus (g * i)
    let y := dst.plus (g * i)
    if t.2 then t
    else if placeFenced t.1 o x k then (faultPlace t.1 o x 0x3C 0, true)
    else
      let e := placeRead t.1 o x k (host.drop (g * i))
      if placeFenced e.1 o y k then (faultPlace e.1 o y 0x3C 0, true) else (placeWrite e.1 o y e.2.1 e.2.2, false)) (s, false)

/-- One repeat in linear mode: the state, and whether the job has faulted. -/
def copyLinear (s : Chip) (o : Origin) (src dst : Place) (len : Nat) (host : List Byte) : Chip × Bool :=
  let x := placePrefix s o src len false
  let y := placePrefix s o dst len true
  let e := copyRun s o src dst (min x.1 y.1) host
  let s := e.1
  if e.2 then e else
  match x.2, y.2 with
  | some c, none => (faultPlace s o src c x.1, true)
  | none, some c => (faultPlace s o dst c y.1, true)
  | some c, some d => (if x.1 ≤ y.1 then faultPlace s o src c x.1 else faultPlace s o dst d y.1, true)
  | none, none => (s, false)

/-- A transposed or strided read is malformed (R151 to R154): SPAD_WINDOW. -/
def faultWindow (s : Chip) (o : Origin) (a : Nat) : Chip := faultPad s o 0x3D (o.quad.val / 4) a

/-- The element width of a transposed read, in bits (R152). -/
def elemBits (b : Body) : Nat := bf b 0x24 23 19 + 1

/-- Element (r, d) of a transposed window whose rows lie at `rows` (R152). -/
def elem (e : Nat) (rows : List (List Byte)) (r d : Nat) : Nat := ofBytes (rows.getD r []) / 2 ^ (e * d) % 2 ^ e

/-- The source runs of a transposed or strided read: first byte and length of each row or element (R152, R153). -/
def windowRows (b : Body) (base : Nat) : List (Nat × Nat) :=
  let stride := bf b 0x28 31 16 * 32
  if bf b 0x24 27 26 = 1 then (List.range (bf b 0x24 18 14 + 1)).map (fun r => (base + r * stride, 4 * elemBits b))
  else (List.range (bf b 0x24 11 8 + 1)).map (fun m => (base + m * stride, 4 * 2 ^ bf b 0x24 13 12))

/-- Is the read well-formed (R152 to R154)? -/
def windowOk (b : Body) (base : Nat) : Bool :=
  let size := 4 * 2 ^ bf b 0x24 13 12
  let e := elemBits b
  let shape := if bf b 0x24 27 26 = 1 then
      base % 4 == 0 && (match bf b 0x24 25 24 with
        | 0 => decide (e ≤ 8)
        | 1 => decide (e ≤ 8)
        | 2 => e == 8 || e == 16 || e == 32
        | _ => false)
    else base % size == 0
  shape && bf b 0x28 31 16 != 0
    && (windowRows b base).all (fun x => decide (base / bankSize = (x.1 + x.2 - 1) / bankSize))

/-- The 32 bits whose bit `i` is bit `j` of `f i`, for `i < n`. -/
def planeWord (n j : Nat) (f : Nat → Nat) : Nat := (List.range n).foldl (fun a i => if bit (f i) j then a + 2 ^ i else a) 0

/-- The items that a transposed read writes: offset from DST and bytes (R152, R186). -/
def transposed (b : Body) (rows : List (List Byte)) : List (Nat × List Byte) :=
  let e := elemBits b
  let n := rows.length
  let step := bf b 0x28 15 0
  let plane := bw b 0x2C
  match bf b 0x24 25 24 with
  | 0 => (List.range e).flatMap (fun j => (List.range n).map (fun r =>
      (j * plane + r * step, toBytes 4 (planeWord 32 j (elem e rows r)))))
  | 1 => (List.range e).flatMap (fun j => (List.range 32).map (fun d =>
      (j * plane + d * step, toBytes (cdiv n 8) (planeWord n j (fun r => elem e rows r d)))))
  | _ => (List.range 32).flatMap (fun d => (List.range n).map (fun r =>
      (d * plane + r * step, toBytes (e / 8) (elem e rows r d))))

/-- The items of a repeat in transposed or strided mode. -/
def windowItems (b : Body) (rows : List (List Byte)) : List (Nat × List Byte) :=
  if bf b 0x24 27 26 = 1 then transposed b rows else [(0, rows.flatten)]

/-- Write items in order until one is refused: the state, and whether the job has faulted. -/
def putItems (s : Chip) (o : Origin) (dst : Place) (bad : Bool) : List (Nat × List Byte) → Chip × Bool
  | [] => (s, false)
  | x :: l =>
    let y := placePrefix s o (dst.plus x.1) x.2.length true
    let s := if y.1 = 0 then s else placeWrite s o (dst.plus x.1) (x.2.take y.1) bad
    match y.2 with
    | some c => (faultPlace s o (dst.plus x.1) c y.1, true)
    | none => putItems s o dst bad l

/-- One repeat in transposed or strided mode. -/
def copyWindow (s : Chip) (o : Origin) (b : Body) (src : Nat) (dst : Place) : Chip × Bool :=
  let r := o.quad.val / 4
  if src ≥ 2 ^ 27 then (faultPad s o 0x3B r src, true)
  else if !(windowOk b src) then (faultWindow s o src, true)
  else
    match padCheck s o.part.val r src 1 1 with
    | some c => (faultPad s o c r src, true)
    | none =>
      let runs := windowRows b src
      let s := runs.foldl (fun t x => padMeets t r x.1 x.2 (some o)) s
      let bad := runs.any (fun x => padBad s r x.1 x.2)
      if bankFenced s (bankOf r src) then (faultPad s o 0x3C r src, true) else
      putItems s o dst bad (windowItems b (runs.map (fun x => padRead s r x.1 x.2)))

/-- The repeats of a copy, from `k` on, until one faults. -/
def copyRepeats (s : Chip) (o : Origin) (b : Body) (host : List Byte) : Nat → Nat → Chip
  | 0, _ => s
  | n + 1, k =>
    let src : Place := { space := bf b 0x24 31 30, addr := bq b 0x10 + k * bw b 0x34 }
    let dst : Place := { space := bf b 0x24 29 28, addr := bq b 0x18 + k * bw b 0x38 }
    let e := if bf b 0x24 27 26 = 0 then copyLinear s o src dst (bw b 0x20) (host.drop (k * bw b 0x20))
      else copyWindow s o b src.addr dst
    if e.2 then e.1 else copyRepeats e.1 o b host n (k + 1)

/-- Does a field of a DMA_COPY break its stated range or alignment (R186)? -/
def copyInvalid (b : Body) : Bool :=
  let mode := bf b 0x24 27 26
  let n := bf b 0x30 31 24 + 1
  bf b 0x24 31 30 == 3 || bf b 0x24 29 28 == 3 || mode == 3 || (mode != 0 && bf b 0x24 31 30 != 0)
    || (mode == 0 && (bq b 0x10 % 64 != 0 || bq b 0x18 % 64 != 0 || bw b 0x20 % 64 != 0
      || (n > 1 && (bw b 0x34 % 64 != 0 || bw b 0x38 % 64 != 0))))

/-- The device runs of a copy: start, length, and whether written; the runs of a linear repeat go together. -/
def copyRuns (b : Body) : List (List (Nat × Nat × Bool)) :=
  (List.range (bf b 0x30 31 24 + 1)).flatMap (fun k =>
    let src := bq b 0x10 + k * bw b 0x34
    let dst := bq b 0x18 + k * bw b 0x38
    let from1 := if bf b 0x24 31 30 = 1 then [(src, bw b 0x20, false)] else []
    let to1 := if bf b 0x24 29 28 = 1 then [(dst, bw b 0x20, true)] else []
    if bf b 0x24 27 26 = 0 then [from1 ++ to1]
    else if bf b 0x24 29 28 = 1 then
      (windowItems b ((windowRows b src).map (fun x => List.replicate x.2 0))).map (fun x => [(dst + x.1, x.2.length, true)])
    else [])

/-- Does the copy reach host memory? -/
def copyHost (b : Body) : Bool := bf b 0x24 31 30 == 2 || bf b 0x24 29 28 == 2

/-- The bytes a host answers; none with an error. -/
def replyBytes : HostReply → List Byte
  | .data l => l
  | .error => []

/-- DMA_COPY (R186). -/
def dmaCopy (s : Chip) (o : Origin) (b : Body) (host : HostReply) : Chip :=
  if copyInvalid b then dmaDone (faultQueue s o 0x41) o 0x06 b
  else
    if runsWait s o.part.val (copyRuns b) then runsHeld s o.part.val (copyRuns b)
    else
      let fn := boundFunc s o.part.val
      if copyHost b && (!(hostReady s fn.1 fn.2) || host == .error) then dmaDone (faultHost s o) o 0x06 b
      else dmaDone (copyRepeats s o b (replyBytes host) (bf b 0x30 31 24 + 1) 0) o 0x06 b

/-! ### Memory-side arithmetic (R330 to R333) -/

/-- Bytes of an element type: INT32, INT64, FP32, BF16. -/
def elemSize (ty : Nat) : Nat := if ty = 1 then 8 else if ty = 3 then 2 else 4

/-- An operation of R332 on two elements: 0 ADD, 1 MIN, 2 MAX. -/
def memOp (ty op : Nat) (uns : Bool) (a b : Nat) : Nat :=
  let w := 8 * elemSize ty
  if ty ≤ 1 then
    let below := fun x y => if uns then decide (x < y) else decide (signed w x < signed w y)
    match op with
    | 0 => (a + b) % 2 ^ w
    | 1 => if below b a then b else a
    | _ => if below a b then b else a
  else
    let f := if ty = 2 then f32 else bf16
    match op with
    | 0 => fAdd f a b
    | 1 => fMin f a b
    | _ => fMax f a b

/-- The elements of a run combined with operands, element by element. -/
def combine (ty op : Nat) (uns : Bool) (old new : List Byte) : List Byte :=
  let z := elemSize ty
  (List.range (old.length / z)).flatMap (fun i =>
    toBytes z (memOp ty op uns (ofBytes ((old.drop (z * i)).take z)) (ofBytes ((new.drop (z * i)).take z))))

/-- Update the part of a destination that lies in one line; a poisoned destination or operand leaves the line poisoned
(R331, R333). -/
def updateLine (s : Chip) (a ty op : Nat) (uns : Bool) (operand : List Byte) (bad : Bool) : Chip :=
  if bad || lineBad s a then poisonLine s (a / 64)
  else memPut s a (combine ty op uns (memRead s a operand.length) operand)

/-- The parts of a run, cut at lines. -/
def linesOf (a len : Nat) : List (Nat × Nat) :=
  if len = 0 then []
  else (span (a / 64) ((a + len - 1) / 64 + 1 - a / 64)).map (fun l =>
    (max a (l * 64), min (a + len) (l * 64 + 64) - max a (l * 64)))

/-- Count the granules that a stack's adders update (Table 11-7). -/
def countGranules (s : Chip) (a len : Nat) : Chip :=
  (pieces a len).foldl (fun t e =>
    match unitOf e.1 with
    | some u => if u < 16 then bumpWrap t (.hbm u) Reg.HBM_ADDER_STAT_GRANULES ((e.1 + e.2 - 1) / 256 + 1 - e.1 / 256) else t
    | none => t) s

/-- MEM_UPDATE over `n` bytes that are granted (R331), until the source's bank is fenced (R161): the state, and whether that has
stopped the job. -/
def updateRun (s : Chip) (o : Origin) (dst : Nat) (src : Place) (ty op : Nat) (uns : Bool) (n : Nat) : Chip × Bool :=
  let s := countGranules (readMeets (chargeRun s o.part.val dst n) dst n (some o)) dst n
  (linesOf dst n).foldl (fun (y : Chip × Bool) e =>
    let t := y.1
    let p := src.plus (e.1 - dst)
    if y.2 then y
    else if placeFenced t o p e.2 then (faultPlace t o p 0x3C 0, true)
    else
      let x := placeRead t o p e.2 []
      let t := if x.2.2 || lineBad x.1 e.1 then markPoisoned x.1 o else x.1
      (updateLine t e.1 ty op uns x.2.1 x.2.2, false)) (s, false)

/-- Are a MEM_UPDATE's operands refused: OP, the source's space, alignment to the element, the length? -/
def updateInvalid (b : Body) : Bool :=
  decide (bf b 0x24 25 24 = 3 ∨ bf b 0x24 31 30 > 1 ∨ bq b 0x10 % elemSize (bf b 0x24 27 26) ≠ 0 ∨
    bq b 0x18 % elemSize (bf b 0x24 27 26) ≠ 0 ∨ bw b 0x20 % elemSize (bf b 0x24 27 26) ≠ 0 ∨ bw b 0x20 = 0 ∨
    bw b 0x20 > 2 ^ 30)

/-- The source of a MEM_UPDATE. -/
def updateSrc (b : Body) : Place := { space := bf b 0x24 31 30, addr := bq b 0x18 }

/-- The runs of memory a MEM_UPDATE reads and writes, which go together. -/
def updateRuns (b : Body) : List (List (Nat × Nat × Bool)) :=
  [[(bq b 0x10, bw b 0x20, true)] ++ (if bf b 0x24 31 30 = 1 then [(bq b 0x18, bw b 0x20, false)] else [])]

/-- A MEM_UPDATE that may run: the elements up to the first refused address, then its fault. -/
def updateGo (s : Chip) (o : Origin) (b : Body) : Chip :=
  let dst := bq b 0x10
  let src := updateSrc b
  let len := bw b 0x20
  let x := placePrefix s o src len false
  let y := placePrefix s o { space := 1, addr := dst } len true
  let e := updateRun s o dst src (bf b 0x24 27 26) (bf b 0x24 25 24) (bb b 0x24 23) (min x.1 y.1)
  let s := e.1
  if e.2 then dmaDone s o 0x50 b else
  let s := match x.2, y.2 with
    | some c, none => faultPlace s o src c x.1
    | none, some c => faultMem s o c (dst + y.1)
    | some c, some d => if x.1 ≤ y.1 then faultPlace s o src c x.1 else faultMem s o d (dst + y.1)
    | none, none => s
  dmaDone s o 0x50 b

/-- MEM_UPDATE (R330, R331, R333). -/
def memUpdate (s : Chip) (o : Origin) (b : Body) : Chip :=
  if updateInvalid b then dmaDone (faultQueue s o 0x41) o 0x50 b
  else if unitOf (bq b 0x10) = some 16 then dmaDone (faultJob s (.qf o.quad.val) none o 0x83 (some (0, bq b 0x10))) o 0x50 b
  else if runsWait s o.part.val (updateRuns b) then runsHeld s o.part.val (updateRuns b)
  else updateGo s o b

/-- A MEM_FETCH that may run: the element's old value to RESULT, its new value to memory (R330, R331). -/
def fetchGo (s : Chip) (o : Origin) (b : Body) : Chip :=
  let a := bq b 0x10
  let res := bw b 0x20
  let r := o.quad.val / 4
  let ty := bf b 0x24 27 26
  let z := elemSize ty
  let s := countGranules (readMeets (admitted s o.part.val a z true) a z (some o)) a z
  let bad := lineBad s a
  let old := memRead s a z
  let s := if bad then markPoisoned s o else s
  let s := updateLine s a ty (bf b 0x24 25 24) (bb b 0x24 23) (toBytes z (bq b 0x18)) false
  dmaDone (padPut s r res (toBytes 8 (ofBytes old)) bad (some o)) o 0x51 b

/-- MEM_FETCH (R330, R331, R333): the old value goes to RESULT. -/
def memFetch (s : Chip) (o : Origin) (b : Body) : Chip :=
  let a := bq b 0x10
  let res := bw b 0x20
  let r := o.quad.val / 4
  let z := elemSize (bf b 0x24 27 26)
  if bf b 0x24 25 24 = 3 ∨ a % z ≠ 0 ∨ res % 8 ≠ 0 then dmaDone (faultQueue s o 0x41) o 0x51 b
  else if unitOf a = some 16 then dmaDone (faultJob s (.qf o.quad.val) none o 0x83 (some (0, a))) o 0x51 b
  else
    match padCheck s o.part.val r res 8 8 with
    | some c => dmaDone (faultPad s o c r res) o 0x51 b
    | none =>
      match girthAdmit s o.part.val a z true with
      | .wait => admitted s o.part.val a z true
      | .refuse c => dmaDone (faultMem s o c a) o 0x51 b
      | .go => fetchGo s o b

end Sys2Proof.Machine
end

