-- ==== Sys2Proof/Machine/Sched.lean ====
section
/-!
DEFINITION. Fetching, dispatching and retiring commands (06), shares and preemption (07).
-/
namespace Sys2Proof.Machine

/-! ### Where a command goes (R180, R188, R441) -/

/-- A quad as an engine's number. -/
def quadFin (q : Nat) : Fin 16 := ⟨q % 16, Nat.mod_lt _ (by decide)⟩

/-- A region as an engine's number. -/
def regionFin (r : Nat) : Fin 4 := ⟨r % 4, Nat.mod_lt _ (by decide)⟩

/-- The block on which a QUANTISE or SERVE_SAMPLE runs (R180): the open candidate with the fewest queued Burnisher
commands; none while every unfenced candidate has ENABLE = 0. -/
def burnisherQueued (s : Chip) (b : Nat) : Nat :=
  (s.q.jobs.map (fun j => (j.cmds.filter (fun c => unfinished c
    && c.copies.any (fun k => k.engine == engineAt b false && k.fate == .queued))).length)).sum

/-- The chosen block of R180. -/
def chosenBlock (s : Chip) (q mask : Nat) : Option Nat :=
  leastBy (burnisherQueued s) ((candidates q mask).filter (blockOpen s))

/-- A copy that waits in an engine's queue. -/
def queuedOn (e : Engine) : Copy := { engine := e, fate := .queued, shift := 0 }

/-- The copy of a block's command for block `b`: at the job's replacement, where it has one and the command carries REISSUE
(R441). -/
def blockCopy (j : Job) (c : Command) (stroke : Bool) (b : Nat) : Copy :=
  let e := blockEnd j c b
  { engine := engineAt e.1 stroke, fate := .queued, shift := e.2 }

/-- The block on which job `j` runs a QUANTISE or SERVE_SAMPLE: the chosen one, or, where every named block is fenced, the open
replacement of one (R180, R441). -/
def oneBlock (s : Chip) (j : Job) (c : Command) : Option Nat :=
  let l := candidates j.quad (hdrMask c)
  if l.all (blockFenced s) then (l.map (fun b => (blockEnd j c b).1)).find? (blockOpen s)
  else chosenBlock s j.quad (hdrMask c)

/-- The copies of a command of job `j` (R180, R188). A command that runs on one block has none while no block may take it. -/
def copiesOf (s : Chip) (j : Job) (c : Command) : List Copy :=
  let q := j.quad
  let op := hdrOpcode c
  if op = 0x01 then (maskBlocks q (hdrMask c)).map (blockCopy j c true)
  else if op = 0x02 then (maskBlocks q (hdrMask c)).map (blockCopy j c false)
  else if onOne c then
    match oneBlock s j c with
    | some b => [queuedOn (engineAt b false)]
    | none => []
  else if op = 0x04 then [queuedOn (.fin (quadFin q))]
  else if op = 0x05 ∨ op = 0x06 ∨ (0x50 ≤ op ∧ op ≤ 0x6F) then [queuedOn (.dma (quadFin q))]
  else if op = 0x00 ∨ (0x10 ≤ op ∧ op ≤ 0x1F) then [queuedOn (.sync (quadFin q))]
  else if 0x20 ≤ op ∧ op ≤ 0x2F then [queuedOn (.rein (regionFin (q / 4)))]
  else if 0x30 ≤ op ∧ op ≤ 0x3F then [queuedOn (.skive (regionFin (q / 4)))]
  else [queuedOn (.startList ⟨j.part % 16, Nat.mod_lt _ (by decide)⟩)]

/-- The fault that a fetched command's header gives its job, if any: GEN, opcode, queue kind, tag, mask, in this order where several
fail (R177, R178, R180, R264; DESIGN CHOICE, log 36). `kind` is the queue's; `step`: the command is a step program's (R274). -/
def headerFault (j : Job) (kind : Nat) (c : Command) : Option Nat :=
  let op := hdrOpcode c
  if hdrGen c ≠ 0 then some 0x0E
  else match opcodeKinds op with
    | none => some 0x40
    | some l =>
      if j.step && 0x40 ≤ op && op ≤ 0x46 then some 0x64
      else if !j.step && op == 0x47 then some 0x64
      else if !(op == 0x47) && !(l.contains kind) then some 0x42
      else if hdrTag c ≠ j.tag then some 0x43
      else if (op == 1 || op == 2) && hdrMask c == 0 then some 0x41
      else if 0x40 ≤ op && op ≤ 0x46 && !(hdrEnd c) then some 0x41
      else none

/-! ### Fetching (R169, R172, R177, R178) -/

/-- The queue's job that is being fetched, if one is open. -/
def openJob (s : Chip) (p n : Nat) : Option Job :=
  s.q.jobs.find? (fun j => j.part == p && j.queue == n && !j.ended && !j.step)

/-- A new job from its first command (R178). -/
def newJob (s : Chip) (p n : Nat) (c : Command) : Job :=
  { id := s.q.nextJob, part := p, queue := n, tag := hdrTag c, quad := rd s (.sq p n) Reg.SQ_CFG_QUAD,
    urgent := rd s (.sq p n) Reg.SQ_CFG_URGENT == 1, group := rd s (.sq p n) Reg.SQ_CFG_SHARE_GROUP, step := false,
    cmds := [], ended := false, irq := false, head := 0, tack := hdrTack c, fault := none, poisoned := false, mapped := [],
    outcome := none, endedAt := none, abort := none }

/-- A job's commands that have not ended run, or wait, on an engine that bears on victims: a block, the Fin unit or the
DMA engine of the home quad (R209). -/
def onQuad (q : Nat) (k : Copy) : Bool :=
  match k.engine with
  | .stroke b => b.val / 16 == q
  | .burnisher b => b.val / 16 == q
  | .fin x => x.val == q
  | .dma x => x.val == q
  | _ => false

/-- The victims of an URGENT job with home quad `q` (R209). -/
def victimsOf (s : Chip) (p q : Nat) : List Nat :=
  (s.q.jobs.filter (fun j => j.part == p && !j.urgent
    && j.cmds.any (fun c => !c.dropped && c.copies.any (onQuad q)))).map (fun j => j.id)

/-- What of job `j` lies behind it when it becomes a victim: a point at which it stands does not (R211). -/
def startsAs (j : Job) : Nat × List Nat × Nat :=
  let last := (sentCmds j).find? (fun c => (sentCmds j).all (fun d => decide (d.sent.getD 0 ≤ c.sent.getD 0)))
  (j.id, (reached j).filter (fun i => !(last.any (fun c => c.index == i))), (sentCmds j).length)

/-- A switch starts for URGENT job `j` where it has victims and none is under way on its home quad (R209, R210, R213). -/
def startSwitch (s : Chip) (j : Job) : Chip :=
  let q := j.quad
  let v := victimsOf s j.part q
  let past := v.filterMap (fun i => (jobById s i).map startsAs)
  if v.isEmpty || (tget s.switches q).isSome then s
  else
    let sw : Switch :=
      { urgent := j.id, victims := v, atPoint := [], read := [], named := [], spill := [], short := false, past := past,
        sets := [], gone := [], base := 0, started := s.now, resumed := 0 }
    let s := { s with switches := tset s.switches q sw }
    wrAll s (.qf q) [(Reg.QF_PREEMPT_STAT_STATE, 1), (Reg.QF_PREEMPT_STAT_VICTIMS, v.length), (Reg.QF_PREEMPT_STAT_URGENT_TAG, j.tag)]

/-- A job takes a fetched command: its header is checked, its copies enter their engines' queues, or the job faults. -/
def takeCommand (s : Chip) (id kind : Nat) (c : Command) (last : Bool) (head : Nat) : Chip :=
  match jobById s id with
  | none => s
  | some j =>
    let cmd : Cmd := { index := j.cmds.length, seq := s.q.nextSeq, raw := c, copies := copiesOf s j c, retired := false,
                       dropped := false, arrived := none, sent := none }
    let bad := headerFault j kind c
    let gone := j.fault.isSome || bad.isSome
    let s := setJob s id (fun j => { j with
      cmds := j.cmds ++ [if gone then { cmd with copies := [], dropped := true } else cmd],
      ended := last, irq := last && hdrIrq c, head := head })
    let s := { s with q := { s.q with nextSeq := s.q.nextSeq + 1 } }
    if j.fault.isSome then settle s id
    else match bad with
      | some 0x64 => faultOf s (slHead s j.part) (some Reg.SL_ERR_STAT_JOB_FAULT) (originOf j) (some j) 0x64 none
      | some code => faultOf s (.qf j.quad) (if 0x40 ≤ code ∧ code ≤ 0x4A then some Reg.QF_ERR_STAT_JOB_FAULT else none) (originOf j)
          (some j) code none
      | none => (fencedTargets s j c).foldl (fun t b => joinChain t b id cmd.index) s

/-- The address of a queue's ring slot at its consumer index (R169). -/
def fetchAddr (s : Chip) (p n : Nat) : Nat :=
  let pg := Page.sq p n
  rd s pg Reg.SQ_BASE_LO_BASE + rd s pg Reg.SQ_BASE_HI_BASE * 2 ^ 32
    + rd s pg Reg.SQ_CI_CI % 2 ^ rd s pg Reg.SQ_CFG_SIZE_LOG2 * 64

/-- A command in device memory at `a`, whose read has fate `g` (R172, R323). -/
def fetchDevice (s : Chip) (p a : Nat) (g : Admit) : Chip × Option (Option Command) :=
  match g with
  | .wait => (admitted s p a 64 false, none)
  | .refuse _ => (admitted s p a 64 false, some none)
  | .go =>
    let s := readMeets (admitted s p a 64 false) a 64 none
    (s, some (if lineBad s a then none else some (BitVec.ofNat 512 (memNat s a 64))))

/-- A command in host memory, from the host's answer (R172, R353). -/
def fetchHost (s : Chip) (fn : Nat × Nat) (host : HostReply) : Chip × Option (Option Command) :=
  match host with
  | .data l =>
    if hostReady s fn.1 fn.2 then (s, some (some (BitVec.ofNat 512 (ofBytes l)))) else (hostError s fn.1, some none)
  | .error => (hostError s fn.1, some none)

/-- The command at the consumer index of a queue (R169, R172): the state after the read, and the command's bytes, none where the
read fails or meets poison; nothing where the read waits. -/
def fetchBytes (s : Chip) (p n : Nat) (host : HostReply) : Chip × Option (Option Command) :=
  if rd s (.sq p n) Reg.SQ_CFG_LOC = 1 then
    fetchDevice s p (fetchAddr s p n) (girthAdmit s p (fetchAddr s p n) 64 false)
  else fetchHost s (boundFunc s p) host

/-- A job begins: it is counted, and an URGENT one may start a switch (R178, R209). -/
def openNew (s : Chip) (j : Job) : Chip :=
  let s := { s with q := { s.q with jobs := s.q.jobs ++ [j], nextJob := s.q.nextJob + 1 } }
  let s := recount (bumpWrap s (.sq j.part j.queue) Reg.SQ_JOBS_SUBMITTED_SUBMITTED 1) j.part j.queue j.quad
  if j.urgent then startSwitch s j else s

/-- A fetched command joins the queue's open job, or opens one (R169, R178). -/
def takeFetched (s : Chip) (p n : Nat) (c : Command) : Chip :=
  let pg := Page.sq p n
  let s := bumpWrap s pg Reg.SQ_CI_CI 1
  let head := rd s pg Reg.SQ_CI_CI
  let kind := rd s pg Reg.SQ_CFG_KIND
  match openJob s p n with
  | some j => takeCommand s j.id kind c (hdrEnd c) head
  | none =>
    let j := newJob s p n c
    takeCommand (openNew s j) j.id kind c (hdrEnd c) head

/-- A tag that no live job of the queue has: the lowest. -/
def freeTag (s : Chip) (p n : Nat) : Nat :=
  let used := (s.q.jobs.filter (fun j => j.part == p && j.queue == n)).map (fun j => j.tag)
  ((List.range (used.length + 1)).find? (fun t => !(used.contains t))).getD 0

/-- The job that a failed fetch concerns: the one being fetched, or one that the unread command opens, with a free tag (R172;
the tag: DESIGN CHOICE, log 36). -/
def failedJob (s : Chip) (p n : Nat) : Chip × Job :=
  match openJob s p n with
  | some j => (s, j)
  | none =>
    let j := { newJob s p n 0 with tag := freeTag s p n }
    let s := bumpWrap s (.sq p n) Reg.SQ_JOBS_SUBMITTED_SUBMITTED 1
    ({ s with q := { s.q with jobs := s.q.jobs ++ [j], nextJob := s.q.nextJob + 1 } }, j)

/-- Did the fetch meet poison in device memory (R172, R23)? -/
def fetchPoisoned (s : Chip) (p n : Nat) : Bool :=
  rd s (.sq p n) Reg.SQ_CFG_LOC == 1 && (accessCheck s p (fetchAddr s p n) 64 false).isNone && lineBad s (fetchAddr s p n)

/-- The queue's ERROR state after a failed fetch (R172): the job being fetched faults with CMD_FETCH_ERROR, and ends once what
has issued of it has retired, for the rest of it is not fetched. -/
def fetchError (s : Chip) (p n : Nat) : Chip :=
  let e := failedJob (wr s (.sq p n) Reg.SQ_STAT_STATE 5) p n
  let s := recount e.1 p n e.2.quad
  let s := setJob s e.2.id (fun j => { j with ended := true, head := rd s (.sq p n) Reg.SQ_CI_CI })
  let s := if fetchPoisoned s p n then poisonConsumed s (.qf e.2.quad) (originOf e.2) (some (0, fetchAddr s p n)) 0 else s
  let s := setErr s (.qf e.2.quad) Reg.QF_ERR_STAT_FETCH_ERROR none
  faultOf s (.qf e.2.quad) (some Reg.QF_ERR_STAT_JOB_FAULT) (originOf e.2) (some e.2) 0x44 none

/-- The end of a fetch: it waits, it is an error, or its command is taken. -/
def fetched (p n : Nat) (got : Chip × Option (Option Command)) : Chip :=
  match got.2 with
  | none => got.1
  | some none => fetchError got.1 p n
  | some (some c) => takeFetched got.1 p n c

/-- COMMAND_FETCH (R169, R171, R172, R177, R178, R209). -/
def commandFetch (s : Chip) (p n : Nat) (host : HostReply) : Chip :=
  let r := rd s (.sq p n) Reg.SQ_CFG_QUAD / 4
  if queueState s p n ≠ 1 ∨ rd s (.sq p n) Reg.SQ_PI_PI = rd s (.sq p n) Reg.SQ_CI_CI then s
  else if !(regionAwake s r) then regionCall s r
  else fetched p n (fetchBytes s p n host)

/-! ### Is a head command ready? (R179, R175, R197, R210 to R213, R441, R485) -/

/-- Does the command wait until every earlier command of its job has retired (R179)? -/
def followsAll (c : Cmd) : Bool :=
  let op := hdrOpcode c.raw
  op == 0x10 || op == 0x13 || op == 0x14 || op == 0x64 || (op == 0x12 && bb (bodyOf c.raw) 0x10 16)

/-- Every earlier command fetched from the queue has retired (FENCE, R179). -/
def fenceClear (s : Chip) (j : Job) (c : Cmd) : Bool :=
  s.q.jobs.all (fun k => if k.part == j.part && k.queue == j.queue then
    k.cmds.all (fun d => c.seq ≤ d.seq || !(unfinished d)) else true)

/-- May a victim dispatch the command: it lies not beyond the victim's next preemption point, the first that it had not passed
(R210)? -/
def beforePoint (w : Switch) (j : Job) (c : Cmd) : Bool :=
  !(j.cmds.any (fun x => hdrPreempt x.raw && !x.dropped && decide (x.index < c.index) && !((passedBy w j.id).contains x.index)))

/-- Has the job started on its home quad: has a command of it been dispatched there (R212)? -/
def startedOn (j : Job) : Bool := j.cmds.any (fun c => c.copies.any (fun k => onQuad j.quad k && k.fate != .queued))

/-- Is another job of the job's queue a victim of the switch? -/
def fellow (s : Chip) (w : Switch) (j : Job) : Bool :=
  w.victims.any (fun v => match jobById s v with
    | some k => k.queue == j.queue && k.part == j.part
    | none => false)

/-- Does the switch on the job's home quad let the job dispatch the command on engine `e` (R210 to R213, R220, R223)? -/
def switchLets (s : Chip) (e : Engine) (j : Job) (c : Cmd) : Bool :=
  let st := rd s (.qf j.quad) Reg.QF_PREEMPT_STAT_STATE
  match tget s.switches j.quad with
  | none => true
  | some w =>
    if j.urgent then st == 3 || st == 0
    else if w.victims.contains j.id then
      st == 5 || (st == 1 && !(w.atPoint.contains j.id) && beforePoint w j c)
    else st == 5 || !(onQuad j.quad (queuedOn e)) || startedOn j || !(fellow s w j)

/-- Does a switch in progress let a victim go on to its preemption point though its queue is STOPPING (R197, R223)? -/
def drainsOn (s : Chip) (j : Job) : Bool :=
  rd s (.qf j.quad) Reg.QF_PREEMPT_STAT_STATE == 1 && (tget s.switches j.quad).any (fun w => w.victims.contains j.id)

/-- May the job's queue dispatch (R172, R197)? -/
def queueGoes (s : Chip) (j : Job) : Bool :=
  let st := queueState s j.part j.queue
  st == 1 || (st == 5 && !(isHalted s j.part j.queue)) || (st == 2 && drainsOn s j)

/-- A block's number as an engine has it. -/
def blockOf (e : Engine) : Option Nat :=
  match e with
  | .stroke b => some b.val
  | .burnisher b => some b.val
  | _ => none

/-- Do two commands touch one accumulator set of block `b` (R19)? -/
def setsMeet (b : Nat) (c d : Cmd) : Bool := (copySets b c).any (fun k => (copySets b d).contains k)

/-- Does a read-out of sets that are live in its own mode come before a pass of the other mode, of another job, that would wait
for them (R132, R133)? -/
def readsAhead (s : Chip) (b : Nat) (c d : Cmd) : Bool :=
  match cmdSets c.raw, cmdSets d.raw with
  | some x, some y => hdrOpcode c.raw == 2 && hdrOpcode d.raw == 1 && x.2.2 != y.2.2
      && (copySets b c).all (fun k => setLive s b k && setNarrow s b k == x.2.2)
  | _, _ => false

/-- An earlier command of the block's queues touches one of the same accumulator sets and has not written (R19, R179). -/
def earlierOnSets (s : Chip) (e : Engine) (j : Job) (c : Cmd) : Bool :=
  match blockOf e with
  | none => false
  | some b => s.q.jobs.any (fun k => k.cmds.any (fun d => d.seq < c.seq && unfinished d && setsMeet b c d
      && !(k.id != j.id && readsAhead s b c d)
      && d.copies.any (fun x => onBlock b x.engine && x.fate != .done)))

/-- Is the engine's unit open for commands (R485), its region AWAKE and, for a block, in RUN (R460)? -/
def engineOpen (s : Chip) (e : Engine) : Bool :=
  match e with
  | .stroke b => blockOpen s b.val && rd s (.blk b.val) Reg.PWR_STAT_STATE == 0 && regionAwake s (b.val / 64)
  | .burnisher b => blockOpen s b.val && rd s (.blk b.val) Reg.PWR_STAT_STATE == 0 && regionAwake s (b.val / 64)
  | .fin q => rd s (.fin q.val) Reg.PAGE_CTRL_ENABLE == 1 && regionAwake s (q.val / 4)
      && !(rd s (.fin q.val) Reg.FIN_CFG_WIDEN_FIRST == 1 && s.prec.items.any (fun x => x.blk / 16 == q.val))
  | .dma q => regionAwake s (q.val / 4)
  | .sync q => regionAwake s (q.val / 4)
  | .rein r => rd s (.rein r.val) Reg.PAGE_CTRL_ENABLE == 1 && regionAwake s r.val
  | .skive r => rd s (.skv r.val) Reg.PAGE_CTRL_ENABLE == 1 && regionAwake s r.val
  | .startList _ => true

/-- May the head command of a job's context on engine `e` issue now? -/
def headReady (s : Chip) (e : Engine) (j : Job) (c : Cmd) : Bool :=
  let started := j.cmds.any (fun d => hasIssued d || d.retired)
  queueGoes s j
    && (started || rd s (.sq j.part j.queue) Reg.SQ_STAT_CQ_FULL == 0 || j.step)
    && !(j.cmds.any (fun d => d.index < c.index && holdsLater d))
    && (!(hdrFence c.raw) || fenceClear s j c)
    && (!(followsAll c) || earlierRetired j c.index)
    && switchLets s e j c
    && !(earlierOnSets s e j c)

/-- The first command of job `j` that waits in the queue of engine `e`. -/
def headOf (e : Engine) (j : Job) : Option Cmd :=
  j.cmds.find? (fun c => unfinished c && c.copies.any (fun k => k.engine == e && k.fate == .queued))

/-! ### Shares (R203 to R206) -/

/-- The weight of share group `g` in a partition's lead quad front (Table 07-7). -/
def weight (s : Chip) (p g : Nat) : Nat :=
  let pg := Page.qf (leadQuad s p)
  match g % 4 with
  | 0 => rd s pg (Reg.QF_SHARE_WEIGHT_W0 (g / 4))
  | 1 => rd s pg (Reg.QF_SHARE_WEIGHT_W1 (g / 4))
  | 2 => rd s pg (Reg.QF_SHARE_WEIGHT_W2 (g / 4))
  | _ => rd s pg (Reg.QF_SHARE_WEIGHT_W3 (g / 4))

/-- A group's engine-cycle count. -/
def usedOf (s : Chip) (e : Engine) (p g : Nat) : Nat := tgetD s.q.used (usedKey e p g) 0

/-- Is U[g] / W[g] below U[h] / W[h], in exact integers (R205)? -/
def ratioBelow (s : Chip) (e : Engine) (p g h : Nat) : Bool :=
  decide (usedOf s e p g * weight s p h < usedOf s e p h * weight s p g)

/-- The weighted group with the lowest ratio; the lower number on ties (R205). -/
def lowestGroup (s : Chip) (e : Engine) (p : Nat) : List Nat → Option Nat
  | [] => none
  | g :: l =>
    match lowestGroup s e p l with
    | none => some g
    | some h => if ratioBelow s e p h g then some h else some g

/-- Raise the count of a weighted group that comes to have a ready head after having none (R206). -/
def raiseGroup (s : Chip) (e : Engine) (p g : Nat) (others : List Nat) : Chip :=
  match lowestGroup s e p others with
  | none => s
  | some h =>
    let least := cdiv (usedOf s e p h * weight s p g) (weight s p h)
    { s with q := { s.q with used := tset s.q.used (usedKey e p g) (max (usedOf s e p g) least) } }

/-- The group chosen among ready jobs of a partition (R205, steps 3 to 5). -/
def chooseGroup (s : Chip) (e : Engine) (p : Nat) (groups : List Nat) : Option Nat :=
  let weighted := (List.range 16).filter (fun g => groups.contains g && weight s p g != 0)
  match lowestGroup s e p weighted with
  | some g => some g
  | none => (List.range 16).find? (fun g => groups.contains g)

/-- The job whose context was taken next after turn `last`, in round-robin order, among jobs with the turns of their contexts
(R205, step 6). -/
def nextAfter (last : Nat) (l : List (Nat × Nat)) : Option (Nat × Nat) :=
  match l.find? (fun e => last < e.2) with
  | some e => some e
  | none => l.head?

/-- The partition whose turn it is among those with a ready head (R205, step 1). -/
def nextPart (last : Nat) (parts : List Nat) : Option Nat :=
  match ((span (last + 1) 16).map (fun p => p % 16)).find? (fun p => parts.contains p) with
  | some p => some p
  | none => none

/-! ### Dispatch (R188, R205) -/

/-- The place among all fetched commands of the job's first command for an engine that waits. -/
def firstSeq (e : Engine) (j : Job) : Nat :=
  match headOf e j with
  | some c => c.seq
  | none => 0

/-- Insert a job in the order of their first commands for an engine. -/
def insertJob (e : Engine) (x : Job) : List Job → List Job
  | [] => [x]
  | y :: l => if firstSeq e x ≤ firstSeq e y then x :: y :: l else y :: insertJob e x l

/-- The job takes a free context of the engine: its turn is the next. -/
def takeContext (s : Chip) (e : Engine) (id : Nat) : Chip :=
  { s with q := { s.q with
    contexts := tset s.q.contexts (engineNo e) (tgetD s.q.contexts (engineNo e) [] ++ [(id, s.q.nextTurn)]),
    nextTurn := s.q.nextTurn + 1 } }

/-- Jobs take free contexts of an engine, those of different quad fronts too, in the order in which their first commands for it were
fetched (R188, R25, which leave the order open: DESIGN CHOICE, log 37); the Start list, which is no engine of R188, takes every
command. -/
def fillContexts (s : Chip) (e : Engine) : Chip :=
  let now := tgetD s.q.contexts (engineNo e) []
  let waiting := (s.q.jobs.filter (fun j => (headOf e j).isSome && !(now.any (fun x => x.1 == j.id)))).foldl (fun l j => insertJob e j l) []
  let room := if engineType e = 7 then waiting.length else 16 - now.length
  (waiting.take room).foldl (fun t j => takeContext t e j.id) s

/-- Commands that run on one block and had none get theirs once a candidate is open (R180). -/
def assignBlocks (s : Chip) : Chip :=
  s.q.jobs.foldl (fun t j => j.cmds.foldl (fun u c =>
    if unfinished c && c.copies.isEmpty then
      setJob u j.id (fun k => { k with cmds := k.cmds.map (fun d =>
        if d.index = c.index then { d with copies := copiesOf u k d.raw } else d) })
    else u) t) s

/-- Is the engine carrying out a command now? What waits there, a wait or a WEIGH_ENOUGH, does not hold the sync engine (R192,
R193, R197), and no command holds the Start list (R282). -/
def engineBusy (s : Chip) (e : Engine) : Bool :=
  engineType e != 7 && s.q.jobs.any (fun j => j.cmds.any (fun c => unfinished c
    && !((holdsLater c || hdrOpcode c.raw == 0x14) && awaited s j c)
    && c.copies.any (fun k => k.engine == e && k.fate == .issued)))

/-- The jobs whose contexts on `e` have a ready head, in the order in which they took their contexts. -/
def readyJobs (s : Chip) (e : Engine) : List Job :=
  (tgetD s.q.contexts (engineNo e) []).filterMap (fun x =>
    match jobById s x.1 with
    | some j =>
      match headOf e j with
      | some c => if headReady s e j c then some j else none
      | none => none
    | none => none)

/-- A trace record of a dispatched command (R401). -/
def traceCmd (s : Chip) (e : Engine) (j : Job) (c : Cmd) : Chip :=
  let z := rd s .sec Reg.SEC_TRACE_CFG_SIZE_LOG2
  if rd s .sec Reg.SEC_TRACE_CFG_ENABLE = 1 ∧ 8 ≤ z ∧ z ≤ 24 ∧ rd s .sec Reg.SEC_DEBUG_STAT_STATE ≠ 0 then
    let tail := rd s .sec Reg.SEC_TRACE_TAIL_TAIL
    let base := rd s .sec Reg.SEC_TRACE_BASE_LO_BASE + rd s .sec Reg.SEC_TRACE_BASE_HI_BASE * 2 ^ 32
    let bytes := toBytes 4 (j.quad * 2 ^ 28 + engineType e * 2 ^ 24 + hdrOpcode c.raw * 2 ^ 16 + j.tag)
      ++ toBytes 4 (j.queue * 2 ^ 16 + j.part) ++ toBytes 8 s.now
    bumpWrap (hostPut s (mgmtPort s) 0 (base + tail % 2 ^ z * 16) bytes) .sec Reg.SEC_TRACE_TAIL_TAIL 1
  else s

/-- The turn in which a job took its context of an engine. -/
def turnOf (s : Chip) (e : Engine) (id : Nat) : Nat :=
  match (tgetD s.q.contexts (engineNo e) []).find? (fun x => x.1 == id) with
  | some x => x.2
  | none => 0

/-- Issue the head command of job `j` on engine `e`; its first copy leaves the trace record (R401). -/
def issue (s : Chip) (e : Engine) (j : Job) (c : Cmd) : Chip :=
  let s := match e with
    | .fin q => finWakes s q.val
    | _ => s
  let s := setJob s j.id (fun k => { k with cmds := k.cmds.map (fun d =>
    if d.index = c.index then
      { d with copies := moveFate e .queued .issued d.copies, sent := some (d.sent.getD s.q.nextSent) }
    else d) })
  let s := { s with q := { s.q with
    nextSent := s.q.nextSent + 1,
    lastPart := tset s.q.lastPart (engineNo e) j.part,
    lastJob := tset s.q.lastJob (usedKey e j.part j.group) (turnOf s e j.id) } }
  let s := match e with
    | .stroke b =>
      let s := wrAll s (.blk b.val) [(Reg.BLK_ISSUE_JOB_TAG, j.tag), (Reg.BLK_ISSUE_WIDTH, bf (bodyOf c.raw) 0x20 31 29 + 1)]
      { s with power := { s.power with lastBlock := tset s.power.lastBlock b.val s.now } }
    | .burnisher b => { s with power := { s.power with lastBlock := tset s.power.lastBlock b.val s.now } }
    | .fin q => wr s (.fin q.val) Reg.FIN_STAT_JOB_TAG j.tag
    | _ => s
  if hasIssued c then s else traceCmd s e j c

/-- A command that waits for a unit wakes it (R460). -/
def callEngine (s : Chip) (e : Engine) : Chip :=
  match e with
  | .stroke b => let s := regionCall s (b.val / 64)
      if rd s (.blk b.val) Reg.PWR_STAT_STATE = 0 then s
      else { s with power := { s.power with blockWaking := kadd s.power.blockWaking b.val } }
  | .burnisher b => let s := regionCall s (b.val / 64)
      if rd s (.blk b.val) Reg.PWR_STAT_STATE = 0 then s
      else { s with power := { s.power with blockWaking := kadd s.power.blockWaking b.val } }
  | .fin q => regionCall s (q.val / 4)
  | .dma q => regionCall s (q.val / 4)
  | .sync q => regionCall s (q.val / 4)
  | .rein r => regionCall s r.val
  | .skive r => regionCall s r.val
  | .startList _ => s

/-- The groups of a partition that have a ready head on an engine. -/
def groupsReady (l : List Job) (p : Nat) : Keys := (l.filter (fun j => j.part == p)).foldl (fun k j => kadd k j.group) []

/-- The place of the first fetched of a group's ready head commands. -/
def groupSeq (e : Engine) (l : List Job) (p g : Nat) : Nat :=
  ((l.filter (fun j => j.part == p && j.group == g)).map (firstSeq e)).foldl min 0xFFFFFFFFFFFFFFFF

/-- Insert a group in the order of their first ready head commands. -/
def insertGroup (e : Engine) (l : List Job) (p g : Nat) : List Nat → List Nat
  | [] => [g]
  | h :: m => if groupSeq e l p g ≤ groupSeq e l p h then g :: h :: m else h :: insertGroup e l p g m

/-- Groups of partition `p` that have come to have a ready head since the engine's readiness was last examined are raised, one after
the other in the order in which their commands were fetched, each against those that have one already (R206; DESIGN CHOICE,
log 37). -/
def raisePart (s : Chip) (e : Engine) (l : List Job) (p : Nat) : Chip :=
  let now := groupsReady l p
  let before := tgetD s.q.readyGroups (engineNo e * 16 + p) []
  let old := now.filter (fun g => before.contains g && weight s p g != 0)
  let new := (now.filter (fun g => !(before.contains g) && weight s p g != 0)).foldl (fun m g => insertGroup e l p g m) []
  let s := (new.foldl (fun (x : Chip × List Nat) g => (raiseGroup x.1 e p g x.2, x.2 ++ [g])) (s, old)).1
  { s with q := { s.q with readyGroups := tset s.q.readyGroups (engineNo e * 16 + p) now } }

/-- The groups of every partition, as the readiness of an engine's heads is examined. -/
def raiseReady (s : Chip) (e : Engine) (l : List Job) : Chip := (List.range 16).foldl (fun t p => raisePart t e l p) s

/-- The readiness of the engine's heads is examined. -/
def noteReady (s : Chip) (e : Engine) : Chip := raiseReady s e (readyJobs s e)

/-- The job and the command that an engine's scheduler chooses among the ready jobs `l`: the partition after the last served,
the group by its credit, the job after the last served, urgent jobs first. -/
def dispatchPick (s : Chip) (e : Engine) (l : List Job) : Chip × Option (Job × Cmd) :=
  match nextPart (tgetD s.q.lastPart (engineNo e) 15) (l.map (fun j => j.part)) with
  | none => (s, none)
  | some p =>
    let mine := l.filter (fun j => j.part == p)
    let urgent := mine.filter (fun j => j.urgent)
    let pool := if urgent.isEmpty then mine else urgent
    match chooseGroup s e p (pool.map (fun j => j.group)) with
    | none => (s, none)
    | some g =>
      let turns := (pool.filter (fun j => j.group == g)).map (fun j => (j.id, turnOf s e j.id))
      match nextAfter (tgetD s.q.lastJob (usedKey e p g) 0) turns with
      | none => (s, none)
      | some x => (s, (jobById s x.1).bind (fun j => (headOf e j).map (fun c => (j, c))))

/-- The command chosen issues; a group whose last ready head it was has none from then on (R206). -/
def dispatched (e : Engine) (x : Chip × Option (Job × Cmd)) : Chip :=
  match x.2 with
  | some k => noteReady (issue x.1 e k.1 k.2) e
  | none => x.1

/-- The state in which an engine's contexts are full of the jobs that wait for it, their readiness examined. -/
def dispatchState (s : Chip) (e : Engine) : Chip := noteReady (fillContexts (assignBlocks (retryChains s)) e) e

/-- ENGINE_DISPATCH (R205): at a command boundary the engine issues the next head command. -/
def engineDispatch (s : Chip) (e : Engine) : Chip :=
  let s := dispatchState s e
  if engineBusy s e || (readyJobs s e).isEmpty then s
  else if !(engineOpen s e) then callEngine s e
  else dispatched e (dispatchPick s e (readyJobs s e))

/-! ### Preemption (R211 to R224) -/

/-- A read of the tack list of the job of origin `o`: the state, and whether it brings clean words of the home quad. A fenced bank
brings none (R161; DESIGN CHOICE, log 36), and each poisoned word that it brings is reported (R215, R23). -/
def tackWords (s : Chip) (o : Origin) (a n : Nat) : Chip × Bool :=
  let r := o.quad.val / 4
  let w := wholeQuad o.quad.val
  if !(decide (w.1 ≤ a ∧ a + n ≤ w.1 + w.2)) || (padPieces r a n).any (fun e => bankFenced s e.1) then (s, false)
  else
    let e := padRun s r a n none
    let bad := (List.range (n / 8)).filter (fun i => padBadAt e.1 r (a + 8 * i))
    (bad.foldl (fun t i => poisonConsumed t (.qf o.quad.val) o (some (1, a + 8 * i)) r) e.1, e.2.isNone && bad.isEmpty)

/-- Is a range of a tack list as R214 allows: whole 512-byte pieces of the quad's own pads? -/
def tackGood (q : Nat) (e : Nat × Nat) : Bool :=
  let w := wholeQuad q
  e.1 % 512 == 0 && e.2 % 512 == 0 && e.2 ≥ 512 && decide (w.1 ≤ e.1 ∧ e.1 + e.2 ≤ w.1 + w.2)

/-- The `n` ranges of a tack list at `a`, as the quad front has read them. -/
def tackRanges (s : Chip) (q a n : Nat) : List (Nat × Nat) :=
  (List.range n).map (fun i => (padWord s (q / 4) (a + 8 + 8 * i), padWord s (q / 4) (a + 12 + 8 * i)))

/-- The ranges of a tack list whose header the quad front has read, or none where it is bad. -/
def tackBody (o : Origin) (a : Nat) (h : Chip × Bool) : Chip × Option (List (Nat × Nat)) :=
  let w0 := padWord h.1 (o.quad.val / 4) a
  let n := bits w0 6 0
  if !h.2 || bits w0 31 30 != 0 || n == 0 || decide (n > 64) then (h.1, none)
  else
    let x := tackWords h.1 o (a + 8) (8 * n)
    let l := tackRanges x.1 o.quad.val a n
    (x.1, if x.2 && l.all (tackGood o.quad.val) then some l else none)

/-- The tack list at scratchpad address `a` of the job of origin `o`: the state after the read of its header and of its ranges, and
the ranges; none where the list is invalid (R214, R215). -/
def tackRead (s : Chip) (o : Origin) (a : Nat) : Chip × Option (List (Nat × Nat)) :=
  if a % 8 ≠ 0 then (s, none) else tackBody o a (tackWords s o a 8)

/-- A victim has reached its preemption point: its tack list is read, once per switch, and an invalid one counted (R214, R215);
a victim with none names the whole quad (R216). -/
def readTack (q : Nat) (e : Chip × Switch) (v : Nat) : Chip × Switch :=
  match jobById e.1 v with
  | none => e
  | some j =>
    if e.2.read.contains v then e
    else
      let w := { e.2 with read := e.2.read ++ [v] }
      let all := { w with named := w.named ++ [(v, wholeQuad q)] }
      if j.tack = 0 then (e.1, all)
      else
        let t := tackRead e.1 (originOf j) j.tack
        match t.2 with
        | some l => (t.1, { w with named := w.named ++ l.map (fun x => (v, x)) })
        | none => (bump t.1 (.qf q) Reg.QF_PREEMPT_COUNT_TACK_INVALID 1, all)

/-- PREEMPT_POINT_REACHED (R211, R214 to R220): victims at their points stop there, and their tack lists are read; once all
stand there, the spill need is evaluated, and the spill starts or is refused. A refused switch is evaluated again where a victim
stands at a further point. -/
def preemptPointReached (s : Chip) (q : Nat) : Chip :=
  match tget s.switches q with
  | none => s
  | some w =>
    let st := rd s (.qf q) Reg.QF_PREEMPT_STAT_STATE
    let here := victimsAt s w
    let e := here.foldl (readTack q) (s, w)
    if st = 1 then
      if here.length < w.victims.length then keepSwitch (withdrawAt e.1 here) q { e.2 with atPoint := here }
      else planSpill e.1 q e.2 here
    else if st = 5 ∧ further s w here then planSpill e.1 q e.2 here
    else s

/-- The words of set `k`: column by column, word by word within the set (R221, R58). -/
def setWords (k : Nat) : List Nat := (List.range 128).flatMap (fun c => (List.range 32).map (fun w => c * 256 + 32 * k + w))

/-- The header and tables of a spill record (Table 07-2). -/
def spillHeader (s : Chip) (q : Nat) (w : Switch) : List Byte :=
  let live := fun (b : Nat) (narrow : Bool) => (w.sets.filter (fun e => e.1 == b && (!narrow || e.2.2.1))).foldl (fun m e => putBit m e.2.1 true) 0
  let head := toBytes 4 w.spill.length ++ toBytes 4 w.victims.length ++ toBytes 4 (spillBytes w.spill)
    ++ toBytes 4 (4096 * w.sets.length) ++ toBytes 4 q ++ toBytes 12 0
  let sets := (blocksOf q).flatMap (fun b => toBytes 1 (live b false) ++ toBytes 1 (live b true))
  let ranges := w.spill.flatMap (fun e => toBytes 4 e.1 ++ toBytes 4 e.2)
  let victims := w.victims.flatMap (fun v => match jobById s v with
    | some j => toBytes 4 (j.queue * 2 ^ 16 + j.tag)
    | none => toBytes 4 0)
  head ++ sets ++ ranges ++ victims

/-- Write bytes at a partition's device address, poisoning the lines that poisoned bytes reach (R23). -/
def devPut (s : Chip) (p a : Nat) (l : List Byte) (bad : Bool) : Chip :=
  let s := memPut (chargeRun s p a l.length) a l
  if bad then poisonRun s a l.length else s

/-- A scratchpad run as bytes with their poison, and what its read meets; what a fenced bank refuses, from the start or from
where the read raises the fence, is poison (R161; DESIGN CHOICE, log 36). -/
def padBytes (s : Chip) (r x len : Nat) : Chip × List (Byte × Bool) :=
  (padPieces r x len).foldl (fun (a : Chip × List (Byte × Bool)) e =>
    if bankFenced a.1 e.1 then (a.1, a.2 ++ List.replicate e.2.2 (0, true))
    else
      let t := bankRun a.1 e.1 e.2.1 e.2.2 none
      (t.1, a.2 ++ (span e.2.1 e.2.2).map (fun y =>
        if t.2.any (fun c => decide (c ≤ y)) then (0, true)
        else (bankByte (bank t.1 e.1) e.1 y, kmem (bank t.1 e.1).poison (y / 8))))) (s, [])

/-- The data of a spill record from offset 0x4000 on: bytes with their poison (R221). -/
def spillData (s : Chip) (q : Nat) (w : Switch) : Chip × List (Byte × Bool) :=
  let r := w.spill.foldl (fun (a : Chip × List (Byte × Bool)) x =>
    let e := padBytes a.1 (q / 4) x.1 x.2
    (e.1, a.2 ++ e.2)) (s, [])
  let sets := w.sets.flatMap (fun x => (setWords x.2.1).flatMap (fun k =>
    (toBytes 6 (accWord r.1 x.1 k).toNat).map (fun v => (v, kmem (block r.1 x.1).bad k))))
  (r.1, r.2 ++ sets)

/-- Bytes in pieces of `k`, with their poison as one; `n` bounds the pieces. -/
def chunksOf (k : Nat) : Nat → List (Byte × Bool) → List (List Byte × Bool)
  | 0, _ => []
  | n + 1, l =>
    if l.isEmpty then [] else ((l.take k).map (fun e => e.1), (l.take k).any (fun e => e.2)) :: chunksOf k n (l.drop k)

/-- Writes of pieces one after the other from `a` on: address, bytes, poison. -/
def putsFrom (a : Nat) (l : List (List Byte × Bool)) : List (Nat × List Byte × Bool) :=
  (l.foldl (fun (e : Nat × List (Nat × List Byte × Bool)) x => (e.1 + x.1.length, e.2 ++ [(e.1, x.1, x.2)])) (a, [])).2

/-- What a spill writes, part after part: the writes of each, and the unit that a channel writer counts with it (R312). -/
structure SpillPlan where
  parts : List (List (Nat × List Byte × Bool) × Option (Bool × Nat))
deriving DecidableEq, Repr

/-- A spill record as it is: its header, and its data line by line. -/
def planRaw (base : Nat) (head : List Byte) (data : List (Byte × Bool)) : SpillPlan :=
  { parts := ((base, head, false) :: putsFrom (base + 0x4000) (chunksOf 64 (data.length / 64 + 1) data)).map (fun e => ([e], none)) }

/-- The runs of a spill's writes. -/
def SpillPlan.runs (x : SpillPlan) : List (List (Nat × Nat × Bool)) :=
  x.parts.map (fun e => e.1.map (fun v => (v.1, v.2.1.length, true)))

/-- How many parts come before the first that is refused (R323): a switch's moves go no further. -/
def partsMade (s : Chip) (p : Nat) (l : List (List (Nat × Nat × Bool))) : Nat :=
  (l.takeWhile (fun g => g.all (fun x => (memRefusal s p x.1 x.2.1 x.2.2).isNone))).length

/-- A part of a spill is written, and its unit is counted. -/
def putPart (r p : Nat) (s : Chip) (e : List (Nat × List Byte × Bool) × Option (Bool × Nat)) : Chip :=
  let s := e.1.foldl (fun t v => devPut t p v.1 v.2.1 v.2.2) s
  match e.2 with
  | some u => countUnit s r u.1 u.2
  | none => s

/-- The first refusal among runs: its code and its address. -/
def firstRefusal (s : Chip) (p : Nat) (l : List (List (Nat × Nat × Bool))) : Option (Nat × Nat) :=
  l.flatten.findSome? (fun x => (memRefusal s p x.1 x.2.1 x.2.2).map (fun c => (c, x.1 + runPrefix s p x.1 x.2.1 x.2.2)))

/-- A refused access of a switch's own is counted, and jobs fault at it (R323, R326). -/
def switchFault (s : Chip) (q : Nat) (jobs : List Nat) (r : Nat × Nat) : Chip :=
  jobs.foldl (fun t id => match jobById t id with
    | some j =>
      let m := memReporter q r.2
      faultOf t m.1 m.2 (originOf j) (some j) r.1 (some (0, r.2))
    | none => t) (refuseAccess s r.2 false)

/-- The switch of quad `q` is over: its front is IDLE, stopped queues go on to stop, and an URGENT job that waits starts a new one
(R213, R228, R197). -/
def switchOver (s : Chip) (q : Nat) : Chip :=
  let p := (quadOwner s q).getD 0
  let s := stopProgress (releaseSpillWrites (idleFront s q) p) p
  match s.q.jobs.find? (fun j => j.urgent && j.quad == q) with
  | some j => startSwitch s j
  | none => s

/-- The sets that a spill takes when it is written: those of unfenced blocks that are live still (R221). -/
def spillSets (s : Chip) (w : Switch) : Switch :=
  { w with sets := w.sets.filter (fun e => !(blockFenced s e.1) && setLive s e.1 e.2.1) }

/-- The spill is stored, its sets end, and the switch is counted and timed. -/
def spillOver (s : Chip) (q : Nat) (w : Switch) : Chip :=
  let s := w.sets.foldl (fun t x => endSet t x.1 x.2.1) (keepSwitch s q w)
  let s := bump (wr s (.qf q) Reg.QF_PREEMPT_STAT_STATE 3) (.qf q) Reg.QF_PREEMPT_COUNT_SWITCHES 1
  stopProgress (wr s (.qf q) Reg.QF_PREEMPT_LAST_SWITCH (min ((s.now - w.started) / 10) 65535)) ((quadOwner s q).getD 0)

/-- The record is written as `plan` lays it out; where its writes wait, the switch waits; where one is refused, the URGENT job
faults and the switch is given up (R222, R323; which job: DESIGN CHOICE, log 36). -/
def spillStored (plan : Chip → Nat → Nat → List Byte → List (Byte × Bool) → SpillPlan) (s : Chip) (q : Nat) (w : Switch) : Chip :=
  let p := (quadOwner s q).getD 0
  let w := spillSets s w
  let d := spillData s q w
  let x := plan s p w.base (spillHeader s q w) d.2
  if runsWait s p x.runs then runsHeld s p x.runs
  else
    let t := (x.parts.take (partsMade s p x.runs)).foldl (putPart (q / 4) p) d.1
    match firstRefusal s p x.runs with
    | some r => switchOver (switchFault t q [w.urgent] r) q
    | none => spillOver t q w

/-- The end of a spill (R221, R223): `plan` lays out the record; the spilled sets stop being live, and the URGENT job is
dispatched. -/
def spillEnd (plan : Chip → Nat → Nat → List Byte → List (Byte × Bool) → SpillPlan) (s : Chip) (q : Nat) : Chip :=
  match tget s.switches q with
  | none => s
  | some w => if rd s (.qf q) Reg.QF_PREEMPT_STAT_STATE ≠ 2 then s else spillStored plan s q w

/-- The restoration of the preempted jobs begins. -/
def resumeFrom (s : Chip) (q : Nat) (w : Switch) : Chip :=
  wr (keepSwitch s q { w with resumed := s.now }) (.qf q) Reg.QF_PREEMPT_STAT_STATE 4

/-- RESUME_START (R224): no URGENT job of the home quad is live. -/
def resumeStart (s : Chip) (q : Nat) : Chip :=
  match tget s.switches q with
  | none => s
  | some w =>
    if rd s (.qf q) Reg.QF_PREEMPT_STAT_STATE ≠ 3 ∨ s.q.jobs.any (fun j => j.urgent && j.quad == q) then s
    else resumeFrom s q w

/-- Set the words of a set of a block from packed bytes, each with its poison. -/
def putSet (s : Chip) (b k : Nat) (narrow : Bool) (holder : Nat × Nat × Nat) (l : List (Byte × Bool)) : Chip :=
  let s := setBlock s b (fun x =>
    (setWords k).foldl (fun (e : Block × List (Byte × Bool)) w =>
      let v := e.2.take 6
      ({ e.1 with words := tset e.1.words w (BitVec.ofNat 48 (ofBytes (v.map (fun z => z.1)))),
                  bad := if v.any (fun z => z.2) then kadd e.1.bad w else kdel e.1.bad w }, e.2.drop 6))
      ({ x with holders := tset x.holders k holder }, l) |>.1)
  wrAll s (.blk b) [(Reg.BLK_ACC_STATE_LIVE, putBit (rd s (.blk b) Reg.BLK_ACC_STATE_LIVE) k true),
    (Reg.BLK_ACC_STATE_NARROW, putBit (rd s (.blk b) Reg.BLK_ACC_STATE_NARROW) k narrow)]

/-- Is the part of a range named by some remaining victim (R224)? -/
def stillNamed (named : List (Nat × Nat × Nat)) (victims : List Nat) (a len : Nat) : Bool :=
  (named.filter (fun e => victims.contains e.1)).any (fun e => decide (e.2.1 ≤ a ∧ a + len ≤ e.2.1 + e.2.2))

/-- What a resume copies back to the pads: device address and scratchpad address of each 512 bytes that a remaining victim
names (R224). -/
def padParts (w : Switch) : List (Nat × Nat) :=
  (w.spill.foldl (fun (e : Nat × List (Nat × Nat)) x =>
    (e.1 + x.2, e.2 ++ ((List.range (x.2 / 512)).filter (fun i => stillNamed w.named w.victims (x.1 + 512 * i) 512)).map
      (fun i => (e.1 + 512 * i, x.1 + 512 * i)))) (w.base + 0x4000, [])).2

/-- What it writes back to the accumulators: the sets whose block is not fenced and that no bad end has lost, with the device
address of each (R224, R441). -/
def setParts (s : Chip) (w : Switch) : List (Nat × (Nat × Nat × Bool × (Nat × Nat × Nat))) :=
  (w.sets.zipIdx.map (fun e => (w.base + 0x4000 + spillBytes w.spill + 24576 * e.2, e.1))).filter (fun e =>
    !(blockFenced s e.2.1) && !(w.gone.contains (e.2.1, e.2.2.1)))

/-- What a resume reads of a record as it is: the device address of each part, and its run. -/
def restoreRuns (s : Chip) (w : Switch) : List (Nat × List (Nat × Nat × Bool)) :=
  (padParts w).map (fun e => (e.1, [(e.1, 512, false)])) ++ (setParts s w).map (fun e => (e.1, [(e.1, 24576, false)]))

/-- The address in a record from which nothing has been read: that of the first part that is refused. -/
def restoreCut (s : Chip) (p : Nat) (l : List (Nat × List (Nat × Nat × Bool))) : Option Nat :=
  ((l.drop (partsMade s p (l.map (fun e => e.2)))).head?).map (fun e => e.1)

/-- Do `n` bytes at `a` come before the cut? -/
def beforeCut (cut : Option Nat) (a n : Nat) : Bool := cut.all (fun c => decide (a + n ≤ c))

/-- The bytes of a run of device memory with their poison. -/
def memBytes (s : Chip) (a len : Nat) : List (Byte × Bool) := (span a len).map (fun x => (cellGet s.mem.bytes x, lineBad s x))

/-- Copy 512 bytes of device memory back to a scratchpad, 8 bytes at a time, so that poison follows its word; a fenced bank takes
none (R161). -/
def padBack (s : Chip) (r a x : Nat) : Chip :=
  if (padPieces r x 512).any (fun e => bankFenced s e.1) then s
  else
    (List.range 64).foldl (fun t i =>
      padPut t r (x + 8 * i) (memRead t (a + 8 * i) 8) (lineBad t (a + 8 * i)) none) (readMeets s a 512 none)

/-- Write a spilled set back. -/
def setBack (s : Chip) (a : Nat) (x : Nat × Nat × Bool × (Nat × Nat × Nat)) : Chip :=
  let s := readMeets s a 24576 none
  putSet s x.1 x.2.1 x.2.2.1 x.2.2.2 (memBytes s a 24576)

/-- What was spilled goes back to the pads and the accumulators, and the switch is over; where a read is refused, what comes after
it stays, and the victims fault (R224, R323; which jobs: DESIGN CHOICE, log 36). `runs` are what the resume reads, and `ovr` the
memory with the record's units decoded, where they are in slot form. -/
def restored (ovr : Option Memory) (runs : List (Nat × List (Nat × Nat × Bool))) (s : Chip) (q : Nat) (w : Switch) : Chip :=
  let p := (quadOwner s q).getD 0
  let l := runs.map (fun e => e.2)
  let cut := restoreCut s p runs
  let kept := s.mem
  let s := unitsCharge (setMem s (ovr.getD s.mem)) p (runUnits [] (madeRuns s p l))
  let s := ((padParts w).filter (fun e => beforeCut cut e.1 512)).foldl (fun t e => padBack t (q / 4) e.1 e.2) s
  let s := ((setParts s w).filter (fun e => beforeCut cut e.1 24576)).foldl (fun t e => setBack t e.1 e.2) s
  let s := if ovr.isSome then setMem s kept else s
  let s := wr s (.qf q) Reg.QF_PREEMPT_LAST_RESUME (min ((s.now - w.resumed) / 10) 65535)
  let s := match firstRefusal s p l with
    | some r => switchFault s q w.victims r
    | none => s
  switchOver s q

/-- The end of a resume whose reads are `runs`: it waits for them (R222), or what `read` finds is written back. -/
def resumeOn (runs : List (Nat × List (Nat × Nat × Bool))) (read : Chip → Chip × Option Memory) (s : Chip) (q : Nat) (w : Switch) :
    Chip :=
  let p := (quadOwner s q).getD 0
  let l := runs.map (fun e => e.2)
  if runsWait s p l then runsHeld s p l else restored (read s).2 runs (read s).1 q w

end Sys2Proof.Machine
end

