-- ==== Sys2Proof/Machine/Tile.lean ====
section
/-!
DEFINITION. Reading the structures of 02 and 03 from scratchpad: a reader that carries the first fault and the counted
conditions (R70), tiles in every form with their delta records (R33 to R45, R86), straps and keeper slots (R46 to R57).
-/
namespace Sys2Proof.Machine

/-! ### The reader -/

/-- The state of a consumer that reads structures: the module, the first fault (code and address), the counted conditions
so far with their numbers (R70), whether it has written or carried poison, the space (0 device, 1 scratchpad) and the
address of the poisoned data that it has read (R23), the bytes by unit that it waits to move,
the bytes by unit that are still to be charged to their regulators, and the writes that R427 mirrors, in order. -/
structure Rd where
  s : Chip
  bad : Option (Nat × Option Nat)
  counts : List (Nat × Nat)
  tainted : Bool
  ate : List (Nat × Nat)
  hold : Option (Table Nat)
  granted : Table Nat
  sent : List Mirror
deriving DecidableEq, Repr

/-- A reader that starts. -/
def startRd (s : Chip) : Rd :=
  { s := s, bad := none, counts := [], tainted := false, ate := [], hold := none, granted := [], sent := [] }

/-- The job faults here, unless it has before. -/
def Rd.stop (x : Rd) (code : Nat) (a : Option Nat) : Rd := if x.bad.isSome then x else { x with bad := some (code, a) }

/-- Count `n` occurrences of a condition. -/
def Rd.count (x : Rd) (code n : Nat) : Rd := if n = 0 then x else { x with counts := x.counts ++ [(code, n)] }

/-- Mark that poison was carried. -/
def Rd.taint (x : Rd) (b : Bool) : Rd := if b then { x with tainted := true } else x

/-- Poisoned data at `a` of a space has been read (R23). -/
def Rd.note (x : Rd) (space a : Nat) : Rd := { x with ate := x.ate ++ [(space, a)] }

/-- Report the poisoned data that a unit consumed, each address once (R23): the page is the unit's, and the job the
origin's. -/
def consumed (s : Chip) (pg : Page) (o : Origin) (l : List (Nat × Nat)) : Chip :=
  l.foldl (fun (a : Chip × List (Nat × Nat)) e =>
    if a.2.contains e then a
    else (poisonConsumed a.1 pg o (some e) (if e.1 = 0 then 0 else o.quad.val / 4), a.2 ++ [e])) (s, []) |>.1

/-- Read `n` bytes of the origin's region at `a`; a refused access stops the reader, and so does a fence that the read itself
raises before its end (R145, R146, R161). -/
def Rd.read (x : Rd) (o : Origin) (a n : Nat) : Rd × List Byte × Bool :=
  let r := o.quad.val / 4
  if x.bad.isSome then (x, List.replicate n 0, false)
  else
    match padRefusal x.s o.part.val r a n 1 with
    | some e => (x.stop e.1 (some e.2), List.replicate n 0, false)
    | none =>
      let e := padRun x.s r a n (some o)
      let s := e.1
      let y := { x with s := s }
      if e.2.isSome then (y.stop 0x3C e.2, List.replicate n 0, false) else
      match padFirstBad s r a n with
      | some w => (y.note 1 w, padRead s r a n, true)
      | none => (y, padRead s r a n, false)

/-- Read a 32-bit word. -/
def Rd.word (x : Rd) (o : Origin) (a : Nat) : Rd × Nat × Bool :=
  let e := x.read o a 4
  (e.1, ofBytes e.2.1, e.2.2)

/-- Write a run of scratchpad bytes, poison in the parts `marks` (offset and length): a refused run's prefix is written (R323), and a
fence that its narrow writes raise refuses the rest (R161). -/
def Rd.putMarked (x : Rd) (o : Origin) (a : Nat) (l : List Byte) (marks : List (Nat × Nat)) : Rd :=
  let r := o.quad.val / 4
  if x.bad.isSome then x
  else
    match padRefusal x.s o.part.val r a l.length 1 with
    | some e => x.stop e.1 (some e.2)
    | none =>
      let e := narrowRun x.s r a l.length (some o)
      let n := (e.2.getD (a + l.length)) - a
      let s := (clipRuns n marks).foldl (fun t m => padMark t r (a + m.1) m.2) (padPut e.1 r a (l.take n) false (some o))
      let y := ({ x with s := s }).taint (!(clipRuns n marks).isEmpty)
      match e.2 with
      | some y' => y.stop 0x3C (some y')
      | none => y

/-- Write bytes; a refused access stops the reader, and a fence that a read of R159 raises stops it after the words before. -/
def Rd.put (x : Rd) (o : Origin) (a : Nat) (l : List Byte) (bad : Bool) : Rd :=
  x.putMarked o a l (if bad then [(0, l.length)] else [])

/-- Which bytes of a run are poisoned. -/
def badFlags (s : Chip) (r a n : Nat) : List Bool := (span a n).map (padBadAt s r)

/-! ### Trits and tiles (R33 to R45, R86) -/

/-- Trit `i` of a trit-packed byte; an invalid byte holds zeros (R33, R34). -/
def byteTrit (v : Byte) (i : Nat) : Nat := if v.toNat ≥ 243 then 0 else v.toNat / 3 ^ i % 3

/-- Trit `k` of a trit-packed area. -/
def tritAt (l : List Byte) (k : Nat) : Nat := byteTrit (l.getD (k / 5) 0) (k % 5)

/-- The weight of a trit code (R33). -/
def tritWeight (t : Nat) : Int := if t = 1 then 1 else if t = 2 then -1 else 0

/-- FORM of a tile (Table 03-1): 0 trit-packed, 1 stitched, 2 declared-stitched, 3 gather. -/
def Tile.form (t : Tile) : Nat := bits t.w0 29 28
/-- Valid columns of a tile. -/
def Tile.cols (t : Tile) : Nat := bits t.w0 22 16 + 1
/-- ROW_BASE of a tile. -/
def Tile.rowBase (t : Tile) : Nat := bits t.wC 31 16
/-- Logical rows of a tile (R75, R91, R137). -/
def Tile.rows (t : Tile) : Nat :=
  match t.form with
  | 0 => 512
  | 3 => bits t.wC 15 0 + 1
  | _ => 2048

/-- Bytes of a tile image (Table 02-1, R91). -/
def imageSize (form rows : Nat) : Nat :=
  match form with
  | 0 => 13108
  | 1 => 32768
  | 2 => 68864
  | _ => 32 * rows

/-- The weight of a stitched byte at row `p` of its group (R37, R40). -/
def stitchWeight (v : Byte) (p : Nat) : Int :=
  let x := v.toNat
  (if bits x 7 5 = p then (if bit x 1 then -1 else 1) else 0) + (if bits x 4 2 = p then (if bit x 0 then -1 else 1) else 0)

/-- The weight at logical row `r` of column `c` (R35, R38, R42, R44, R91). -/
def Tile.weight (t : Tile) (c r : Nat) : Int :=
  match t.form with
  | 0 =>
    let k := c * 512 + r
    tritWeight (tgetD t.delta k (tritAt t.image k))
  | 1 => stitchWeight (t.image.getD (c * 256 + r / 8) 0) (r % 8)
  | 2 =>
    let k := c * 2048 + r
    let before := (span (c * 2048 + r / 8 * 8) (r % 8)).filter (fun i => tritAt t.image i != 0)
    if before.length < 2 then tritWeight (tritAt t.image k) else 0
  | _ => tritWeight (byteTrit (t.image.getD (32 * r + c / 5) 0) (c % 5))

/-- Trit-packed bytes of `l` that are invalid and not poisoned (R34, R72). -/
def invalidTrits (l : List Byte) (bad : List Bool) : Nat :=
  ((List.range l.length).filter (fun i => (l.getD i 0).toNat ≥ 243 && !(bad.getD i false))).length

/-- Non-zero trits of group `g` of column `c` of a declared-stitched image. -/
def groupTrits (l : List Byte) (c g : Nat) : Nat := ((span (c * 2048 + g * 8) 8).filter (fun i => tritAt l i != 0)).length

/-- Is any byte of a declared-stitched group, its nibble included, poisoned (R72)? -/
def groupBad (bad : List Bool) (c g : Nat) : Bool :=
  bad.getD (52480 + (c * 256 + g) / 2) false
    || (span ((c * 2048 + g * 8) / 5) ((c * 2048 + g * 8 + 7) / 5 + 1 - (c * 2048 + g * 8) / 5)).any (fun i => bad.getD i false)

/-- The nibble of group `g` of column `c` (R41). -/
def groupNibble (l : List Byte) (c g : Nat) : Nat :=
  let n := c * 256 + g
  (l.getD (52480 + n / 2) 0).toNat / 16 ^ (n % 2) % 16

/-- The groups of a stitched tile. -/
def allGroups : List (Nat × Nat) := (List.range 128).flatMap (fun c => (List.range 256).map (fun g => (c, g)))

/-- Count the conditions of an image as the loader decodes it (R34, R40, R42). -/
def Rd.countImage (x : Rd) (form : Nat) (l : List Byte) (bad : List Bool) : Rd :=
  match form with
  | 0 => x.count 0x01 (invalidTrits l bad)
  | 1 => x.count 0x02 ((List.range l.length).filter (fun i =>
      bits (l.getD i 0).toNat 7 5 == bits (l.getD i 0).toNat 4 2 && !(bad.getD i false))).length
  | 2 =>
    let clean := allGroups.filter (fun e => !(groupBad bad e.1 e.2))
    let x := x.count 0x01 (invalidTrits (l.take 52429) bad)
    let x := x.count 0x03 (clean.filter (fun e => decide (groupTrits l e.1 e.2 > 2))).length
    x.count 0x04 (clean.filter (fun e => decide (groupNibble l e.1 e.2 + groupTrits l e.1 e.2 ≠ 8))).length
  | _ => x

/-- Merge delta entries in order (R44): the entries in effect, and the numbers of DELTA_ORDER and DELTA_TRIT_INVALID. -/
def mergeDelta (l : List (Nat × Bool)) : Table Nat × Nat × Nat :=
  let r := l.foldl (fun (a : Table Nat × Nat × Nat × Nat) e =>
    let pos := bits e.1 31 16
    let trit := bits e.1 15 14
    if e.2 then a
    else if pos < a.2.1 then (a.1, a.2.1, a.2.2.1 + 1, a.2.2.2)
    else if trit = 3 then (a.1, a.2.1, a.2.2.1, a.2.2.2 + 1)
    else (a.1 ++ [(pos, trit)], pos + 1, a.2.2.1, a.2.2.2)) ([], 0, 0, 0)
  (r.1, r.2.2.1, r.2.2.2)

/-- Read a delta record (R43, R44): its entries in effect, and whether it was read poisoned. -/
def Rd.delta (x : Rd) (o : Origin) (a : Nat) : Rd × Table Nat × Bool :=
  let h := x.word o a
  if h.2.2 then (h.1, [], true)
  else if bits h.2.1 31 30 ≠ 0 then (h.1.stop 0x0E (some a), [], false)
  else
    let n := bits h.2.1 16 0
    let m := min n 65536
    let e := h.1.read o (a + 4) (4 * m)
    if e.1.bad.isSome then (e.1, [], false)
    else
    let bad := badFlags e.1.s (o.quad.val / 4) (a + 4) (4 * m)
    let r := mergeDelta ((List.range m).map (fun i => (ofBytes ((e.2.1.drop (4 * i)).take 4), bad.getD (4 * i) false)))
    let y := (e.1.count 0x05 (r.2.1 + (if n > 65536 then 1 else 0))).count 0x06 r.2.2
    (y, r.1, e.2.2)

/-- A tile that is read poisoned before any field is known (R86): all columns, and in a gather pass (`gather`) every row
that a list can name. A dense pass takes it as FORM 0 from row 0 on: the straps of those rows are read, counted and charged
(DESIGN CHOICE, log 122: the spec names no rows where no field is read). -/
def blankTile (a : Nat) (gather : Bool) : Tile :=
  { addr := a, w0 := if gather then 0x307F0000 else 0x007F0000, w4 := 0, w8 := 0, wC := if gather then 0xFFFF else 0,
    image := [], delta := [], poisoned := true, badRows := [] }

/-- Read the rows `l` of a gather image (R91): the image with zeros in the rows not read, and its poisoned rows. A row that
is named more than once is loaded each time (R92). -/
def Rd.gatherRows (x : Rd) (o : Origin) (t : Tile) (l : List Nat) : Rd × List Byte × Keys :=
  let r := l.foldl (fun (a : Rd × Table (List Byte) × Keys) k =>
    let at' := t.w4 + 32 * k
    let e := a.1.read o at' 32
    if e.1.bad.isSome then (e.1, a.2)
    else
      (e.1.count 0x01 (invalidTrits (e.2.1.take 26) (badFlags e.1.s (o.quad.val / 4) at' 26)), tset a.2.1 k e.2.1,
        if e.2.2 then kadd a.2.2 k else a.2.2)) (x, [], [])
  (r.1.taint (!r.2.2.isEmpty), (List.range t.rows).flatMap (fun k => tgetD r.2.1 k (List.replicate 32 0)), r.2.2)

/-- Load the tile whose descriptor is at `a`, a multiple of 32 (R86, R88, R147); of a gather image every row where `whole`, and otherwise none: a
gather pass loads the rows of its chunks (R92). -/
def Rd.tile (x : Rd) (o : Origin) (a : Nat) (whole : Bool) : Rd × Tile :=
  let e := (if a % 32 = 0 then x else x.stop 0x3B (some a)).read o a 32
  let w := fun i => ofBytes ((e.2.1.drop (4 * i)).take 4)
  if e.2.2 then (e.1.taint true, blankTile a (!whole))
  else
    let form := bits (w 0) 29 28
    let delta := bit (w 0) 27
    let t : Tile :=
      { addr := a, w0 := w 0, w4 := w 1, w8 := w 2, wC := w 3, image := [], delta := [], poisoned := false,
        badRows := [] }
    if e.1.bad.isSome then (e.1, t)
    else if bits (w 0) 31 30 ≠ 0 then (e.1.stop 0x0E (some a), t)
    else if w 1 % 64 ≠ 0 ∨ (form ≠ 3 ∧ bits (w 3) 31 16 % 32 ≠ 0) ∨ (form = 0 ∧ delta ∧ w 2 % 4 ≠ 0) then
      (e.1.stop 0x25 (some a), t)
    else
      let x := if delta && form != 0 then e.1.count 0x07 1 else e.1
      if form = 3 then
        if whole then
          let g := x.gatherRows o t (List.range t.rows)
          (g.1, { t with image := g.2.1, badRows := g.2.2 })
        else (x, t)
      else
        let n := imageSize form t.rows
        let i := x.read o (w 1) n
        if i.1.bad.isSome then (i.1, t)
        else
          let y := i.1.countImage form i.2.1 (badFlags i.1.s (o.quad.val / 4) (w 1) n)
          let t := { t with image := i.2.1, poisoned := i.2.2 }
          if delta && form == 0 then
            let d := y.delta o (w 2)
            (d.1.taint (i.2.2 || d.2.2), { t with delta := d.2.1, poisoned := i.2.2 || d.2.2 })
          else (y.taint i.2.2, t)

/-- T_reload of a tile, in cycles (R88). -/
def reloadCycles (t : Tile) (deltaBytes : Nat) : Nat :=
  max 32 (cdiv (imageSize t.form t.rows + (if t.form = 0 ∧ bit t.w0 27 then deltaBytes else 0)) 512 + 6)

/-! ### Straps and keepers (R46 to R57, R76, R77) -/

/-- n(w): the values that a strap of width w holds (R47). -/
def strapCap (w : Nat) : Nat := 32 * (63 / w)

/-- A strap as a consumer sees it: whether its segments are live (R77), its width, exponent, sign, count, payload, its
keeper entries in slot order (ROW, BF16 code), and whether it was read poisoned. -/
structure Strap where
  live : Bool
  width : Nat
  exp : Nat
  isSigned : Bool
  count : Nat
  payload : List Byte
  keepers : List (Nat × Nat)
  poisoned : Bool
deriving DecidableEq, Repr

/-- A strap that holds nothing. -/
def noStrap (bad : Bool) : Strap :=
  { live := false, width := 1, exp := 0, isSigned := false, count := 0, payload := [], keepers := [], poisoned := bad }

/-- Read a keeper slot (R53, R57): its header, and of the slot that stands the entries up to COUNT and K. The entries whose
rows lie in [first, last), and whether a word of them was read poisoned. -/
def Rd.keepers (x : Rd) (o : Origin) (a k index first last : Nat) : Rd × List (Nat × Nat) × Bool :=
  let h := x.word o a
  if h.1.bad.isSome then (h.1, [], false)
  else if h.2.2 then (h.1, [], true)
  else if bits h.2.1 15 14 ≠ 0 then (h.1.stop 0x0E (some a), [], false)
  else if bits h.2.1 31 16 ≠ index % 65536 then (h.1.count 0x0A 1, [], false)
  else
    let n := bits h.2.1 4 0
    let m := min n k
    let e := h.1.read o (a + 4) (4 * m)
    if e.1.bad.isSome then (e.1, [], false)
    else
      let bad := badFlags e.1.s (o.quad.val / 4) (a + 4) (4 * m)
      let w := fun i => ofBytes ((e.2.1.drop (4 * i)).take 4)
      let l := ((List.range m).filter (fun i => !(bad.getD (4 * i) false))).map (fun i => (bits (w i) 31 16, bits (w i) 15 0))
      let good := l.filter (fun r => decide (first ≤ r.1 ∧ r.1 < last))
      let y := (e.1.count 0x0C (if n > k then 1 else 0)).count 0x0B (l.length - good.length)
      (y, good, e.2.2)

/-- Read the strap at `a`, strap `index` of its array, whose row 0 is range row `row0`; its keeper slot is at `ka` with
capacity `k`; the pass width is `b`, and the range's width `want` (R46 to R57, R76, R181). The payload of a zero strap is not
read (R50). -/
def Rd.strap (x : Rd) (o : Origin) (a ka index row0 k b want : Nat) : Rd × Strap :=
  let e := x.word o a
  let h := e.2.1
  if e.1.bad.isSome then (e.1, noStrap false)
  else if e.2.2 then (e.1.taint true, noStrap true)
  else if bits h 17 16 ≠ 0 then (e.1.stop 0x0E (some a), noStrap false)
  else
    let w := bits h 23 21 + 1
    let n := bits h 10 0
    let y := e.1.count 0x08 (if n > strapCap w then 1 else 0)
    let n := min n (strapCap w)
    let reserved := bits h 31 24 = 0 ∨ bits h 31 24 = 255
    let y := y.count 0x09 (if reserved then 1 else 0)
    let ovr := w > b ∨ w ≠ want
    let y := y.count 0x11 (if ovr then 1 else 0)
    let live := !(bit h 19) && n != 0 && !(decide reserved) && !(decide ovr)
    let d := if live then y.read o (a + 4) 252 else (y, [], false)
    let y := d.1.taint d.2.2
    let st : Strap :=
      { live := live && !d.2.2, width := w, exp := bits h 31 24, isSigned := bit h 20 && w != 1, count := n,
        payload := d.2.1, keepers := [], poisoned := d.2.2 }
    if !(bit h 18) then (y, st)
    else if k = 0 then (y.count 0x0D 1, st)
    else
      let z := y.keepers o ka k index row0 (row0 + n)
      (z.1.taint z.2.2, { st with keepers := z.2.1, poisoned := st.poisoned || z.2.2, live := st.live && !z.2.2 })

/-- Payload word `m` of a strap. -/
def Strap.word (t : Strap) (m : Nat) : Nat := ofBytes ((t.payload.drop (4 * m)).take 4)

/-- Planes 0 to b − 1 of the segment that starts at value `v` of a strap (R47, R49, R76). -/
def Strap.planes (t : Strap) (v b : Nat) : List Nat :=
  let mask := 2 ^ min 32 (t.count - v)
  (List.range b).map (fun p =>
    let q := if p < t.width then some p else if t.isSigned then some (t.width - 1) else none
    match q with
    | some q => t.word (v / 32 * t.width + q) % mask
    | none => 0)

/-- The code of value `k` of a strap (R48). -/
def Strap.code (t : Strap) (k : Nat) : Int :=
  let v := planeWord t.width 0 (fun p => t.word (k / 32 * t.width + p) / 2 ^ (k % 32))
  if t.isSigned then signed t.width v else v
where
  /-- The number whose bit `p` is bit `j` of `f p`. -/
  planeWord (n j : Nat) (f : Nat → Nat) : Nat := (List.range n).foldl (fun a p => if bit (f p) j then a + 2 ^ p else a) 0

end Sys2Proof.Machine
end

