-- ==== Sys2Proof/Machine/Stroke.lean ====
section
/-!
DEFINITION. The Stroke array (03, 04): accumulator words and their arithmetic (R58, R78 to R85), residue checking (R96),
strap, loose and dispatch operands (R75 to R77, R91 to R95), widen passes (R127), and the mode wait (R132, R133).
-/
namespace Sys2Proof.Machine

/-! ### Counted conditions of a block (R70, R108, R109) -/

/-- Count `n` occurrences of condition `code` in block `b` for job tag `tag`. -/
def countFmt (s : Chip) (b tag code n : Nat) : Chip :=
  if n = 0 ∨ code = 0 ∨ code ≥ 32 then s
  else
    let pg := Page.blk b
    let s := bump s pg (Reg.BLK_FMT_COUNT_COUNT code) n
    let s := if rd s pg Reg.BLK_FMT_FIRST_CODE = 0 then
        wrAll s pg [(Reg.BLK_FMT_FIRST_JOB_TAG, tag), (Reg.BLK_FMT_FIRST_CODE, code)] else s
    let s := if code = 0x17 then bump s pg Reg.BLK_ACC_EVENTS_RENORM n
      else if code = 0x18 then setFlag (bump s pg Reg.BLK_ACC_EVENTS_SPECIAL n) pg Reg.BLK_IRQ_STAT_ACC_SPECIAL
      else if code = 0x1B then setFlag s pg Reg.BLK_IRQ_STAT_STREAM_REUSE else s
    let flags := rd s pg Reg.BLK_FMT_FLAGS_FLAG
    if bit flags (code - 1) then s
    else setFlag (wr s pg Reg.BLK_FMT_FLAGS_FLAG (flags + 2 ^ (code - 1))) pg Reg.BLK_IRQ_STAT_FMT

/-- Count a list of conditions. -/
def countAll (s : Chip) (b tag : Nat) (l : List (Nat × Nat)) : Chip := l.foldl (fun t e => countFmt t b tag e.1 e.2) s

/-- A fault of a block's command: Table 03-6 and Table 04-11 codes set the block's JOB_FAULT; the codes of the queue
chapter set the quad front's; the scratchpad's set the bank's (R107, R140, Table 05-13). -/
def faultBlock (s : Chip) (o : Origin) (b code : Nat) (a : Option Nat) : Chip :=
  if code = 0x3B ∨ code = 0x3C ∨ code = 0x3D then faultPad s o code (o.quad.val / 4) (a.getD 0)
  else if 0x40 ≤ code ∧ code ≤ 0x4A then faultQueue s o code
  else
    let f := if (0x24 ≤ code ∧ code ≤ 0x28) then some Reg.BLK_ERR_STAT_JOB_FAULT else none
    faultJob s (.blk b) f o code (a.map (fun x => (1, x)))

/-- The end of a block's command: its conditions are counted, the poison that it consumed is reported (R23) and marks the
job, its fault ends the job. -/
def closeRd (x : Rd) (o : Origin) (b : Nat) : Chip :=
  let s := consumed (countAll x.s b o.tag.toNat x.counts) (.blk b) o x.ate
  let s := if x.tainted then markPoisoned s o else s
  match x.bad with
  | some e => faultBlock s o b e.1 e.2
  | none => s

/-! ### Accumulator words (R58, R78 to R85) -/

/-- An accumulator word: its exponent and its lanes, one wide or two narrow. -/
structure AccEntry where
  e : Nat
  lanes : List Int
deriving DecidableEq, Repr

/-- Lane bits of a mode. -/
def laneBits (narrow : Bool) : Nat := if narrow then 20 else 40

/-- Read a word in a mode (Table 02-11). -/
def accOpen (narrow : Bool) (w : BitVec 48) : AccEntry :=
  let v := w.toNat
  { e := bits v 47 40, lanes := if narrow then [signed 20 (bits v 19 0), signed 20 (bits v 39 20)] else [signed 40 (bits v 39 0)] }

/-- Store a word in a mode. -/
def accClose (narrow : Bool) (a : AccEntry) : BitVec 48 :=
  let n := laneBits narrow
  BitVec.ofNat 48 (a.e * 2 ^ 40 + unsigned n (a.lanes.getD 0 0) + (if narrow then unsigned n (a.lanes.getD 1 0) * 2 ^ 20 else 0))

/-- Arithmetic shift right, towards minus infinity (R78). -/
def asr (x : Int) (n : Nat) : Int := x / (2 ^ n : Nat)

/-- Is every lane in the range of its mode? -/
def lanesFit (narrow : Bool) (a : AccEntry) : Bool :=
  a.lanes.all (fun m => decide (-(2 ^ (laneBits narrow - 1) : Nat) ≤ m ∧ m < (2 ^ (laneBits narrow - 1) : Nat)))

/-- An infinity, or zero, as a lane of a non-finite word (R81). -/
def laneInf (narrow : Bool) (m : Int) : Int :=
  if m > 0 then (2 ^ (laneBits narrow - 1) : Nat) - 1 else if m < 0 then -(2 ^ (laneBits narrow - 1) : Nat) else 0

/-- make_nonfinite (R81). -/
def makeNonfinite (narrow : Bool) (a : AccEntry) : AccEntry := { e := 255, lanes := a.lanes.map (laneInf narrow) }

/-- Renormalise until every lane fits (R80): the word, the shifts, and whether it became non-finite. -/
def renorm (narrow : Bool) : Nat → AccEntry → Nat → AccEntry × Nat × Bool
  | 0, a, n => (a, n, false)
  | k + 1, a, n =>
    if lanesFit narrow a then (a, n, false)
    else
      let a := { e := a.e + 1, lanes := a.lanes.map (fun m => asr m 1) : AccEntry }
      if a.e = 255 then (makeNonfinite narrow a, n + 1, true) else renorm narrow k a (n + 1)

/-- acc_add (R80): the word, the renormalisations, and whether it became non-finite. -/
def accAdd (narrow : Bool) (i : Nat) (a : AccEntry) (v : Int) (ev : Int) : AccEntry × Nat × Bool :=
  if a.e = 255 then (a, 0, false)
  else
    let v := if ev < 0 then asr v (-ev).toNat else v
    let ev := ev.toNat
    let b := if ev > a.e then ({ e := ev, lanes := a.lanes.map (fun m => asr m (ev - a.e)) } : AccEntry) else a
    let w := if ev > a.e then v else asr v (min (a.e - ev) 63)
    renorm narrow 256 { b with lanes := b.lanes.set i (b.lanes.getD i 0 + w) } 0

/-- A lane of a non-finite word as a number (R81). -/
def laneNum (narrow : Bool) (m : Int) : Num :=
  if m = laneInf narrow 1 then .inf false else if m = laneInf narrow (-1) then .inf true
  else if m = 0 then .fin false 0 0 else .nan

/-- A number as a lane of a non-finite word (R81, R85). -/
def numLane (narrow : Bool) : Num → Int
  | .nan => 1
  | .inf neg => laneInf narrow (if neg then -1 else 1)
  | .fin _ _ _ => 0

/-- keeper_fold's addition of the FP32 sum `ks` (R84, R85). DESIGN CHOICE (log entry 34): a non-finite sum that reaches a word
already non-finite changes its lane by R85 and counts ACC_SPECIAL again, though R81 says that such a word keeps its lanes. -/
def keeperAdd (narrow : Bool) (i : Nat) (a : AccEntry) (ks : Nat) : AccEntry × Nat × Bool :=
  match unpack f32 ks with
  | .fin neg m _ =>
    if m = 0 then (a, 0, false)
    else accAdd narrow i a (if neg then -(m : Int) else m) ((bits ks 30 23 : Nat) - 23)
  | n =>
    let now := if a.e = 255 then laneNum narrow (a.lanes.getD i 0) else .fin false 0 0
    let b := if a.e = 255 then a else makeNonfinite narrow a
    ({ b with lanes := b.lanes.set i (numLane narrow (numAdd now n)) }, 0, true)

/-- The word of a token slot, and its lane (R83). -/
def slotWord (narrow : Bool) (slot : Nat) : Nat × Nat := if narrow then (slot / 2, slot % 2) else (slot, 0)

/-- A block under a pass: its state, and the counts of ACC_RENORM and ACC_SPECIAL. -/
structure AccRun where
  x : Block
  renorms : Nat
  specials : Nat
deriving DecidableEq, Repr

/-- Apply an addition to the word of a slot and column of block `b`. -/
def accApply (r : AccRun) (b : Nat) (narrow : Bool) (slot c : Nat) (f : Nat → AccEntry → AccEntry × Nat × Bool) : AccRun :=
  let w := slotWord narrow slot
  let k := c * 256 + w.1
  let e := f w.2 (accOpen narrow (blkWord r.x b k))
  { x := { r.x with words := tset r.x.words k (accClose narrow e.1) }, renorms := r.renorms + e.2.1,
    specials := r.specials + (if e.2.2 then 1 else 0) }

/-! ### A token in a pass (R77, R78, R84, R89) -/

/-- What a token brings to a pass: its live segments (number, exponent, signed, planes), its keeper entries in the
pass's rows (row, BF16 code), and whether an operand was poisoned. -/
structure Token where
  segs : List (Nat × Nat × Bool × List Nat)
  keepers : List (Nat × Nat)
  poisoned : Bool
deriving DecidableEq, Repr

/-- Segment difference d of R78: weights of 32 logical rows against a plane. -/
def segDiff (w : Nat → Int) (k plane : Nat) : Int :=
  (List.range 32).foldl (fun a j => if bit plane j then a + w (32 * k + j) else a) 0

/-- The sum s of R78 at plane `i` of `b`. -/
def planeSum (w : Nat → Int) (segs : List (Nat × Nat × Bool × List Nat)) (emax b i : Nat) : Int :=
  segs.foldl (fun a g =>
    let d := segDiff w g.1 (g.2.2.2.getD i 0)
    let d := if i + 1 = b ∧ b > 1 ∧ g.2.2.1 then -d else d
    a + asr (d * 256) (min (emax - g.2.1) 63)) 0

/-- The FP32 sum of a token's keeper entries for a column with weights `w` (R84). -/
def keeperSum (w : Nat → Int) (l : List (Nat × Nat)) : Nat :=
  l.foldl (fun a e =>
    let v := convert bf16 f32 e.2
    let t := if w e.1 = 1 then some v
      else if w e.1 = -1 then some (pack f32 (numNeg (unpack f32 v)))
      else if w e.1 = 2 then some (fAdd f32 v v)
      else if w e.1 = -2 then some (pack f32 (numNeg (unpack f32 (fAdd f32 v v))))
      else none
    match t with
    | some v => fAdd f32 a v
    | none => a) 0

/-- The largest exponent of the live segments (R77). -/
def eMax (segs : List (Nat × Nat × Bool × List Nat)) : Nat := segs.foldl (fun a g => max a g.2.1) 0

/-- token_pass (R78) for one token over the columns of weights `w`. -/
def tokenPass (r : AccRun) (b : Nat) (narrow : Bool) (w : Nat → Nat → Int) (cols width slot : Nat) (t : Token) : AccRun :=
  let em := eMax t.segs
  (List.range cols).foldl (fun r c =>
    let r := if t.segs.isEmpty then r
      else (List.range width).foldl (fun r i =>
        accApply r b narrow slot c (fun l a =>
          accAdd narrow l a (planeSum (w c) t.segs em width i * (2 ^ i : Nat)) ((em : Int) - 8))) r
    if t.keepers.isEmpty then r
    else
      let ks := keeperSum (w c) t.keepers
      if bits ks 30 0 = 0 then r else accApply r b narrow slot c (fun l a => keeperAdd narrow l a ks)) r

/-- c_t of R89. -/
def tokenCycles (width : Nat) (t : Token) : Nat :=
  if t.segs.isEmpty then 2 * t.keepers.length else max width (2 * t.keepers.length)

/-- Poison every word of a token (R97). -/
def poisonSlot (x : Block) (narrow : Bool) (slot cols : Nat) : Block :=
  { x with bad := (List.range cols).foldl (fun l c => kadd l (c * 256 + (slotWord narrow slot).1)) x.bad }

/-! ### Strap operands (R75, R76, R181) -/

/-- Insert a keeper entry in ascending row order, after those of the same row (R55). -/
def insertKeeper (x : Nat × Nat) : List (Nat × Nat) → List (Nat × Nat)
  | [] => [x]
  | y :: l => if x.1 < y.1 then x :: y :: l else y :: insertKeeper x l

/-- Where straps of a token lie, for a pass: address and keeper address of strap `i`, its tag index, its first range row,
the keeper capacity, the pass width, the expected width, and the number of straps. -/
structure Layout where
  addr : Nat → Nat
  keeper : Nat → Nat
  index : Nat → Nat
  row0 : Nat → Nat
  capacity : Nat
  width : Nat
  want : Nat
  straps : Nat

/-- DESIGN CHOICE (log entry 34): a RANGE_FIRST that is no multiple of 32 is not refused; each segment reads the strap word
that holds its first row. Read a token's straps for a tile whose row `r` reads range row `shift + r` (as an integer), with `nseg` segments of
32 rows; only segments whose range rows `inRange` accepts take part (R75, R113). -/
def readToken (x : Rd) (o : Origin) (m : Layout) (shift : Int) (nseg : Nat) (inRange : Nat → Bool) : Rd × Token :=
  let cap := strapCap m.want
  let wanted := (List.range nseg).filterMap (fun (k : Nat) =>
    let v := shift + 32 * (k : Int)
    if v < 0 then none
    else if inRange v.toNat then
      let i := (v.toNat - m.row0 0) / cap
      if v.toNat ≥ m.row0 0 ∧ i < m.straps then some (k, v.toNat, i) else none
    else none)
  let ids := wanted.foldl (fun l e => kadd l e.2.2) ([] : Keys)
  let read := ids.foldl (fun (a : Rd × Table Strap) i =>
    let e := a.1.strap o (m.addr i) (m.keeper i) (m.index i) (m.row0 i) m.capacity m.width m.want
    (e.1, tset a.2 i e.2)) (x, [])
  let segs := wanted.filterMap (fun e =>
    match tget read.2 e.2.2 with
    | some t => if t.live then some (e.1, t.exp, t.isSigned, t.planes (e.2.1 - m.row0 e.2.2) m.width) else none
    | none => none)
  let rows := (read.2.flatMap (fun e => e.2.keepers)).filterMap (fun e =>
    let r := (e.1 : Int) - shift
    if 0 ≤ r ∧ r < 32 * (nseg : Int) then some (r.toNat, e.2) else none)
  (read.1, { segs := segs, keepers := rows.foldl (fun l e => insertKeeper e l) [], poisoned := read.2.any (fun e => e.2.poisoned) })

/-- The straps of token `t` of a pass body (R181). -/
def mainLayout (b : Body) (t : Nat) : Layout :=
  let k := bf b 0x20 28 24
  let want := bf b 0x3C 18 16 + 1
  { addr := fun i => bw b 0x14 + (t * bw b 0x18 + i) * 256, keeper := fun i => bw b 0x1C + (t * bw b 0x18 + i) * 4 * (k + 1),
    index := fun i => t * bw b 0x18 + i, row0 := fun i => i * strapCap want, capacity := k, width := bf b 0x20 31 29 + 1,
    want := want, straps := bw b 0x18 }

/-- Segments of a tile in a dense or stitched pass (R78). -/
def nseg (t : Tile) : Nat := if t.form = 0 then 16 else 64

/-- The range row that tile row 0 reads (R181). -/
def rowShift (b : Body) (t : Tile) : Int := (t.rowBase : Int) - (bf b 0x3C 15 0 : Nat)

/-! ### Dispatch (R95, R182) -/

/-- The choices of a token in a dispatch list: those that stand, with the counts of dropped ones (R95). -/
def choices (experts : Nat) : List Nat → List Nat → Nat → Nat → List Nat × Nat × Nat
  | [], taken, range, dup => (taken, range, dup)
  | w :: l, taken, range, dup =>
    if bits w 31 24 ≥ experts then choices experts l taken (range + 1) dup
    else if taken.any (fun v => bits v 31 24 == bits w 31 24) then choices experts l taken range (dup + 1)
    else choices experts l (taken ++ [w]) range dup

/-- Read the dispatch list of a pass: the tokens that chose EXPERT, as offset from TOKEN_FIRST and GATE (R182). -/
def readDispatch (x : Rd) (o : Origin) (b : Body) : Rd × List (Nat × Nat) :=
  let k := bf b 0x38 2 0 + 1
  (List.range (bf b 0x24 8 0 + 1)).foldl (fun a j =>
    let t := bw b 0x28 + j
    let e := a.1.read o (bw b 0x30 + t * k * 4) (4 * k)
    if e.2.2 then (e.1.taint true, a.2)
    else
      let words := (List.range k).map (fun i => ofBytes ((e.2.1.drop (4 * i)).take 4))
      let c := choices (bf b 0x38 23 16 + 1) words [] 0 0
      let y := (e.1.count 0x15 c.2.1).count 0x16 c.2.2
      match c.1.find? (fun w => bits w 31 24 == bf b 0x38 31 24) with
      | some w => (y, a.2 ++ [(j, bits w 15 0)])
      | none => (y, a.2)) (x, [])

/-- Write MAP (R182). -/
def writeMap (x : Rd) (o : Origin) (b : Body) (l : List (Nat × Nat)) : Rd :=
  let x := x.put o (bw b 0x34) (toBytes 4 l.length) false
  (List.range l.length).foldl (fun x m =>
    let e := l.getD m (0, 0)
    x.put o (bw b 0x34 + 4 + 4 * m) (toBytes 4 (e.2 * 2 ^ 16 + e.1 % 2 ^ 16)) false) x

/-! ### Loose lists (R91 to R94) -/

/-- A token's loose list as accepted: exponent, signed, width, its rows with their codes, whether it is live, whether it
is split off, and whether it was read poisoned. DESIGN CHOICE (log entry 34): a list wider than the pass is dead and counts
under STRAP_WIDTH_OVER, as a strap is. -/
structure Loose where
  exp : Nat
  isSigned : Bool
  width : Nat
  rows : Table Nat
  live : Bool
  split : Bool
  poisoned : Bool
deriving DecidableEq, Repr

/-- Accept loose entries in order (R93): the rows, and the counts of LOOSE_ORDER and LOOSE_ROW_RANGE. -/
def acceptLoose (top : Nat) (l : List Nat) : Table Nat × Nat × Nat :=
  let r := l.foldl (fun (a : Table Nat × Nat × Nat × Nat) w =>
    let row := bits w 31 16
    if row < a.2.1 then (a.1, a.2.1, a.2.2.1 + 1, a.2.2.2)
    else if row ≥ top then (a.1, a.2.1, a.2.2.1, a.2.2.2 + 1)
    else (a.1 ++ [(row, bits w 7 0)], row + 1, a.2.2.1, a.2.2.2)) ([], 0, 0, 0)
  (r.1, r.2.2.1, r.2.2.2)

/-- Read a token's loose list at `a` for an input of `top` rows (R91, R93, R94). -/
def readLoose (x : Rd) (o : Origin) (a top width limit : Nat) : Rd × Loose :=
  let h := x.word o a
  let none' : Loose := { exp := 0, isSigned := false, width := 1, rows := [], live := false, split := false, poisoned := h.2.2 }
  if h.2.2 then (h.1.taint true, none')
  else if bits h.2.1 17 16 ≠ 0 then (h.1.stop 0x0E (some a), none')
  else
    let n := bits h.2.1 15 0
    let w := bits h.2.1 23 21 + 1
    let e := h.1.read o (a + 4) (4 * n)
    if e.1.bad.isSome then (e.1, none')
    else
      let bad := badFlags e.1.s (o.quad.val / 4) (a + 4) (4 * n)
      let c := acceptLoose top (((List.range n).filter (fun i => !(bad.getD (4 * i) false))).map
        (fun i => ofBytes ((e.2.1.drop (4 * i)).take 4)))
      let reserved := bits h.2.1 31 24 = 0 ∨ bits h.2.1 31 24 = 255
      let split := limit ≠ 0 ∧ n > limit
      let y := ((e.1.count 0x13 c.2.1).count 0x12 c.2.2).count 0x14 (if split then 1 else 0)
      let y := (y.count 0x09 (if reserved then 1 else 0)).count 0x11 (if w > width then 1 else 0)
      let y := y.taint e.2.2
      (y, { exp := bits h.2.1 31 24, isSigned := bit h.2.1 20 && w != 1, width := w, rows := c.1,
            live := !(decide reserved) && decide (w ≤ width) && n != 0, split := decide split, poisoned := e.2.2 })

/-- Bit `i` of a loose code at a pass plane (R76, R92). -/
def looseBit (t : Loose) (row i : Nat) : Bool :=
  match tget t.rows row with
  | none => false
  | some v => if i < t.width then bit v i else t.isSigned && bit v (t.width - 1)

/-- The segments of a token in a chunk whose slot `j` holds `rows[j]` (R91, R92). -/
def looseToken (t : Loose) (rows : List Nat) (width : Nat) : Token :=
  { segs := (List.range (cdiv rows.length 32)).map (fun k =>
      (k, t.exp, t.isSigned, (List.range width).map (fun i =>
        (List.range 32).foldl (fun a j => if looseBit t (rows.getD (32 * k + j) 65536) i then a + 2 ^ j else a) 0))),
    keepers := [], poisoned := false }

/-- Cut a list into chunks of 512; `n` bounds their number. -/
def chunks : Nat → List Nat → List (List Nat)
  | 0, _ => []
  | n + 1, l => if l.isEmpty then [] else l.take 512 :: chunks n (l.drop 512)

/-- A loose list that names nothing. -/
def noLoose : Loose := { exp := 0, isSigned := false, width := 1, rows := [], live := false, split := false, poisoned := false }

/-- The union of a gather pass: the rows that its tokens name, those split off apart (R92, R94). -/
def looseUnion (l : List Loose) : List Nat :=
  l.foldl (fun u t => if t.split then u else t.rows.foldl (fun u e => kadd u e.1) u) ([] : Keys)

/-- The passes of a gather command over an input of `top` rows, each its rows and its tokens: the chunks of the union, then
for the tokens split off the chunks of the whole input (R92, R94). DESIGN CHOICE (log entry 34): in that order. -/
def looseChunks (top : Nat) (l : List Loose) : List (List Nat × List Nat) :=
  let idx := fun (p : Bool) => (List.range l.length).filter (fun i => (l.getD i noLoose).split == p)
  let u := looseUnion l
  (chunks (u.length + 1) u).map (fun c => (c, idx false))
    ++ (if (idx true).isEmpty then [] else (chunks (top + 1) (List.range top)).map (fun c => (c, idx true)))

/-- What token `i` brings to a chunk of rows: a live list its codes, where it names a row of the chunk or is split off; a dead
one no segment (R77, R92). A live list that names no row of the chunk takes no part: it costs nothing, and (DESIGN CHOICE, log
entry 34) counts as no skipped token pass. -/
def chunkToken (l : List Loose) (rows : List Nat) (width i : Nat) : Option Token :=
  let t := l.getD i noLoose
  if !t.live then some { segs := [], keepers := [], poisoned := t.poisoned }
  else if t.split || t.rows.any (fun e => kmem rows e.1) then some { looseToken t rows width with poisoned := t.poisoned }
  else none

/-! ### Residue and accumulator errors (R96, R437, R488) -/

/-- A block is fenced for a permanent fault, reported CORE. -/
def blockPersist (s : Chip) (o : Origin) (b code detail : Nat) (f : Option Field) : Chip :=
  let n := { (plainNote (.blk b) .core code).ofJob (some o) with region := b / 64, detail := detail }
  let s := match f with
    | some f => report s (.blk b) f n
    | none => send s (.blk b) n
  fenceBlock s b

/-- A residue mismatch in the cycle that the block computes for the job of `o` (R96, R23). DESIGN CHOICE (log entry 34): a WINDOW of 0, outside its
range of 1 to 65,535, is a window of no length. -/
def residue (s : Chip) (o : Origin) (b : Nat) (r : Residue) : Chip :=
  let pg := Page.blk b
  let place := r.cell.val * 16 + r.column.val
  let s := wrAll s pg [(Reg.BLK_RESIDUE_STAT_LAST_CELL, r.cell.val), (Reg.BLK_RESIDUE_STAT_LAST_COLUMN, r.column.val)]
  if r.again then blockPersist s o b 0x21 place (some Reg.BLK_ERR_STAT_RESIDUE_PERSIST)
  else
    let s := bump s pg Reg.BLK_RESIDUE_STAT_RETRIES 1
    let s := report s pg Reg.BLK_ERR_STAT_RESIDUE_RETRY
      { (plainNote pg .corrected 0x20).ofJob (some o) with region := b / 64, detail := place }
    let len := msNs (rd s pg Reg.BLK_RESIDUE_CFG_WINDOW)
    let s := countEvent s (resBlock b) len false
    if (windowNow s (resBlock b) len).ce ≥ orFull (rd s pg Reg.BLK_RESIDUE_CFG_THRESH)
    then blockPersist s o b 0x21 place (some Reg.BLK_ERR_STAT_RESIDUE_PERSIST) else s

/-- An ECC error of accumulator word `k` at a read for the job of `o` (R96, R23, Table 15-4). -/
def accError (s : Chip) (o : Origin) (b k : Nat) (ue : Bool) : Chip :=
  let pg := Page.blk b
  if ue then
    report (setBlock s b (fun x => { x with bad := kadd x.bad k })) pg Reg.BLK_ERR_STAT_ACC_UE
      { (plainNote pg .deferred 0x23).ofJob (some o) with region := b / 64, detail := k }
  else
    let s := report s pg Reg.BLK_ERR_STAT_ACC_CE { (plainNote pg .corrected 0x22).ofJob (some o) with region := b / 64, detail := k }
    let len := msNs (rd s .fc Reg.FC_THRESH_CFG_WINDOW)
    let s := countEvent s (resAcc b) len false
    if (windowNow s (resAcc b) len).ce ≥ orFull (rd s .fc Reg.FC_THRESH_CFG_THRESH) then blockPersist s o b 0xA7 0 none else s

/-- Fire armed injections `lo` to `hi` of a block's ERR_INJECT (R488): 0 and 1 at a plane cycle, 2 and 3 at a read of
accumulator word `k`. -/
def injectBlock (s : Chip) (o : Origin) (b k : Nat) (planes : Bool) : Chip :=
  let pg := Page.blk b
  let fire := fun (t : Chip) (n : Nat) (f : Chip → Chip) =>
    let arm := rd t pg Reg.ERR_INJECT_ARM
    if bit arm n && !(blockFenced t b) then f (wr t pg Reg.ERR_INJECT_ARM (arm - 2 ^ n)) else t
  let s := if planes then
      fire (fire s 0 (fun t => residue t o b { cell := 0, column := 0, again := false })) 1
        (fun t => residue t o b { cell := 0, column := 0, again := true })
    else s
  fire (fire s 2 (fun t => accError t o b k false)) 3 (fun t => accError t o b k true)

/-- What a pass or read-out meets, in order, until the block is fenced. -/
def meetEvents (s : Chip) (o : Origin) (b : Nat) (planes : Bool) (l : List PassEvent) : Chip :=
  l.foldl (fun t e =>
    if blockFenced t b then t
    else match e with
      | .residue r => if planes then residue t o b r else t
      | .acc k ue => accError t o b k.val ue) s

/-- The cycles that a pass spends on recomputing after transient mismatches, those met and one that is armed (R96). -/
def recomputeCycles (s : Chip) (b : Nat) (live : Bool) (l : List PassEvent) : Nat :=
  let met := l.filter (fun e => match e with
    | .residue _ => true
    | .acc _ _ => false)
  if live then 3 * (met.length + (if bit (rd s (.blk b) Reg.ERR_INJECT_ARM) 0 then 1 else 0)) else 0

/-! ### Sets and modes (R82, R83, R131, R132) -/

/-- The sets of slots `first` to `first + n − 1` (R83). -/
def setsOf (narrow : Bool) (first n : Nat) : List Nat :=
  let w := if narrow then 64 else 32
  span (first / w) ((first + n - 1) / w + 1 - first / w)

/-- The slot after a re-issue has shifted the chain's sets by `k`, modulo 8 (R189). -/
def shiftSlot (narrow : Bool) (k slot : Nat) : Nat := (slot + k * (if narrow then 64 else 32)) % (if narrow then 512 else 256)

/-- The shift of a command's copy on an engine. -/
def copyShift (s : Chip) (o : Origin) (e : Engine) (op : Nat) (b : Body) : Nat :=
  match runningCmd s o e op b with
  | some c => match c.copies.find? (fun k => k.engine == e && k.fate == .issued) with
    | some k => k.shift
    | none => 0
  | none => 0

/-- Do the slots lie outside the file, or start odd in narrow mode (R83)? -/
def slotsBad (narrow : Bool) (first n : Nat) : Bool :=
  (narrow && first % 2 == 1) || decide (first + n > (if narrow then 512 else 256))

/-- A live set of the other mode among `l` (R132). -/
def modeConflict (s : Chip) (b : Nat) (narrow : Bool) (l : List Nat) : Bool :=
  l.any (fun k => setLive s b k && setNarrow s b k != narrow)

/-- Zero a list of accumulator words. -/
def zeroWords (x : Block) (l : List Nat) : Block :=
  { x with words := l.foldl (fun m k => tset m k 0) x.words, bad := x.bad.filter (fun k => !(l.contains k)) }

/-- A pass takes its sets (R131, R132): a set that is not live takes its mode, zeroed on a change, and is live. The job that
wrote a set last holds it: its bad end loses the set (DESIGN CHOICE, log 122, where two jobs have written it). -/
def takeSets (s : Chip) (b : Nat) (narrow : Bool) (o : Origin) (l : List Nat) : Chip :=
  l.foldl (fun s k =>
    let s := if !(setLive s b k) && setNarrow s b k != narrow then setBlock s b (fun x => zeroWords x (setWords k)) else s
    let s := wrAll s (.blk b) [(Reg.BLK_ACC_STATE_LIVE, putBit (rd s (.blk b) Reg.BLK_ACC_STATE_LIVE) k true),
      (Reg.BLK_ACC_STATE_NARROW, putBit (rd s (.blk b) Reg.BLK_ACC_STATE_NARROW) k narrow)]
    setBlock s b (fun x => { x with holders := tset x.holders k (o.part.val, o.queue.val, o.tag.toNat) })) s

/-- CLEAR (R82): every word that the pass touches is zero. -/
def clearSlots (s : Chip) (b : Nat) (narrow : Bool) (first n cols : Nat) : Chip :=
  let w0 := (slotWord narrow first).1
  let w1 := (slotWord narrow (first + n - 1)).1
  setBlock s b (fun x => zeroWords x ((List.range cols).flatMap (fun c => (span w0 (w1 + 1 - w0)).map (fun w => c * 256 + w))))

/-! ### Widen lists (R125 to R128) -/

/-- Read the widen list's entries for tokens [first, first + n) that meet the rows `meets` accepts: the words of each
entry, in list order, and whether the list was read poisoned (R127, R128). -/
def readWiden (x : Rd) (o : Origin) (a first n : Nat) (meets : Nat → Nat → Bool) : Rd × List (Nat × Nat × Nat × Nat) × Bool :=
  if a = 0 then (x, [], false)
  else
    let h := x.read o a 16
    if h.2.2 then (h.1, [], true)
    else
      let used := bits (ofBytes (h.2.1.take 4)) 15 0
      (List.range used).foldl (fun (z : Rd × List (Nat × Nat × Nat × Nat) × Bool) e =>
        let r := z.1.read o (a + 16 + 16 * e) 16
        let w := fun i => ofBytes ((r.2.1.drop (4 * i)).take 4)
        let tok := bits (w 1) 31 16
        let rung := bits (w 0) 29 26
        if r.2.2 then (r.1, z.2.1, true)
        else if tok < first ∨ tok ≥ first + n then (r.1, z.2)
        else if bits (w 0) 31 30 ≠ 0 then (r.1.stop 0x0E (some (a + 16 + 16 * e)), z.2)
        else if rung = 0 ∨ (8 < rung ∧ rung < 15) then (r.1.stop 0x28 (some (a + 16 + 16 * e)), z.2)
        else if meets (bits (w 3) 31 16) (bits (w 3) 15 0) then (r.1, z.2.1 ++ [(w 0, w 1, w 2, w 3)], z.2.2)
        else (r.1, z.2)) (h.1, [], false)

/-- The units of a widen entry as straps (R124). -/
def widenLayout (k : Nat) (e : Nat × Nat × Nat × Nat) : Layout :=
  let rung := bits e.1 29 26
  let stride := if k > 0 then 512 else 256
  { addr := fun u => e.2.2.1 + u * stride, keeper := fun u => e.2.2.1 + u * stride + 256, index := fun u => u,
    row0 := fun u => bits e.2.2.2 31 16 + u * strapCap rung, capacity := k, width := rung, want := rung,
    straps := bits e.1 25 16 }

/-- Join the segments and keepers of two entries of one token at one rung (R127). -/
def joinTokens (a b : Token) : Token :=
  { segs := a.segs ++ b.segs, keepers := b.keepers.foldl (fun l e => insertKeeper e l) a.keepers, poisoned := a.poisoned || b.poisoned }

/-- The operands of an entry of token `tok` join those of the token, or follow the tokens before it. -/
def joinInto (tok : Nat) (t : Token) : List (Nat × Token) → List (Nat × Token)
  | [] => [(tok, t)]
  | e :: l => if e.1 = tok then (tok, joinTokens e.2 t) :: l else e :: joinInto tok t l

/-- The tokens of a widen pass at `rung`, in list order, each with its operands (R127). -/
def widenTokens (x : Rd) (o : Origin) (k : Nat) (shift : Int) (ns rung : Nat) (l : List (Nat × Nat × Nat × Nat)) :
    Rd × List (Nat × Token) :=
  (l.filter (fun e => bits e.1 29 26 == rung)).foldl (fun (a : Rd × List (Nat × Token)) e =>
    let first := bits e.2.2.2 31 16
    let r := readToken a.1 o (widenLayout k e) shift ns (fun v => decide (first ≤ v ∧ v < first + bits e.2.2.2 15 0))
    (r.1, joinInto (bits e.2.1 31 16) r.2 a.2)) (x, [])

/-! ### The pass (R86 to R97, R127, R181, R182) -/

/-- Run tokens on a block's words: each token with its slot. A token whose operand is poisoned, and every token of a tile that
is, is not computed: its words are poisoned (R72, R97). -/
def runTokens (s : Chip) (o : Origin) (b : Nat) (narrow : Bool) (w : Nat → Nat → Int) (cols width : Nat) (tileBad : Bool)
    (l : List (Nat × Token)) : Chip :=
  let r := l.foldl (fun (r : AccRun) e =>
    if tileBad || e.2.poisoned then { r with x := poisonSlot r.x narrow e.1 cols }
    else tokenPass r b narrow w cols width e.1 e.2) { x := block s b, renorms := 0, specials := 0 }
  let s := setBlock s b (fun _ => r.x)
  let s := countFmt (countFmt s b o.tag.toNat 0x17 r.renorms) b o.tag.toNat 0x18 r.specials
  let s := bump s (.blk b) Reg.BLK_SKIP_COUNT_SKIPS (l.filter (fun e => e.2.segs.isEmpty)).length
  if l.any (fun e => tileBad || e.2.poisoned) then markPoisoned s o else s

/-- Count a pass. -/
def countPass (s : Chip) (b : Nat) : Chip := bump64 s (.blk b) Reg.BLK_PASS_LO_PASSES_LO Reg.BLK_PASS_HI_PASSES_HI 1

/-- The end of a Stroke command on its block: its cycles are charged and its copy is done; the issue is idle, and JOB_TAG stays
(DESIGN CHOICE, log 34). -/
def strokeDone (s : Chip) (o : Origin) (blk : Fin 256) (b : Body) (cycles : Nat) : Chip :=
  let s := charge s (.stroke blk) o (cycles + 14)
  wr (finish s o (.stroke blk) 1 b) (.blk blk.val) Reg.BLK_ISSUE_WIDTH 0

/-- Slots `first + i`, `i` in `l`, of a block are poisoned, and the job with them (R97). -/
def poisonSlots (s : Chip) (o : Origin) (blk : Nat) (narrow : Bool) (first cols : Nat) (l : List Nat) : Chip :=
  if l.isEmpty then s
  else markPoisoned (setBlock s blk (fun x => l.foldl (fun x i => poisonSlot x narrow (first + i) cols) x)) o

/-- A loose pass (R90 to R94, R97) over the passes `runs` of `looseChunks`: the state and the cycles. A tile whose descriptor
is poisoned poisons every word of the pass, a poisoned image row those of the chunks that hold it. -/
def loosePass (s : Chip) (o : Origin) (blk : Nat) (narrow : Bool) (t : Tile) (width first : Nat) (l : List Loose)
    (runs : List (List Nat × List Nat)) : Chip × Nat :=
  let s := wr s (.blk blk) Reg.BLK_LOOSE_STAT_LAST_UNION (looseUnion l).length
  let s := poisonSlots s o blk narrow first t.cols
    ((List.range l.length).filter (fun i => t.poisoned || (l.getD i noLoose).poisoned))
  runs.foldl (fun (a : Chip × Nat) c =>
    let toks := c.2.filterMap (fun i => (chunkToken l c.1 width i).map (fun k => (first + i, k)))
    let bad := t.poisoned || c.1.any (fun r => kmem t.badRows r)
    let s := runTokens a.1 o blk narrow (fun col j => t.weight col (c.1.getD j 65536)) t.cols width bad toks
    let s := if bad then poisonSlots s o blk narrow first t.cols c.2 else s
    (countPass s blk, a.2 + max (toks.map (fun e => tokenCycles width e.2)).sum (max 32 (cdiv (32 * c.1.length) 512 + 6)))) (s, 0)

/-- The widen passes of a command on its resident tile, in ascending rung order: the state and the cycles (R127). -/
def widenPasses (x : Rd) (o : Origin) (blk : Nat) (b : Body) (t : Tile) (narrow : Bool) (slotOf : Nat → Nat)
    (l : List (Nat × Nat × Nat × Nat)) : Rd × Nat :=
  (span 1 8).foldl (fun (a : Rd × Nat) rung =>
    if !(l.any (fun e => bits e.1 29 26 == rung)) || a.1.bad.isSome then a
    else
      let e := widenTokens a.1 o (bf b 0x20 28 24) (rowShift b t) (nseg t) rung l
      if e.1.bad.isSome then (e.1, a.2)
      else
        let toks := e.2.map (fun k => (slotOf k.1, k.2))
        let s := countPass (runTokens e.1.s o blk narrow t.weight t.cols rung t.poisoned toks) blk
        ({ e.1 with s := s }, a.2 + (toks.map (fun k => tokenCycles rung k.2)).sum)) (x, 0)

/-- Send the BF16 entries of a command to the quad's Fin unit (R128). -/
def sendBf16 (s : Chip) (o : Origin) (blk : Nat) (b : Body) (t : Tile) (slotOf : Nat → Nat) (l : List (Nat × Nat × Nat × Nat)) : Chip :=
  let new := (l.filter (fun e => bits e.1 29 26 == 15)).map (fun e =>
    ({ origin := o, body := b, blk := blk, slot := slotOf (bits e.2.1 31 16), entry := e, tile := t } : FinItem))
  let s := if new.isEmpty then s else finWakes s (blk / 16)
  { s with prec := { s.prec with items := s.prec.items ++ new } }

/-- Does a field of a STROKE_PASS break its stated range, or its stride its alignment (R181)? -/
def passInvalid (b : Body) : Bool :=
  let kind := bf b 0x20 21 20
  kind == 3 || (kind == 1 && bw b 0x18 % 4 != 0)

/-- The scratchpad address of a STROKE_PASS that breaks the alignment its structure states (R147): the tile descriptor, the
strap array, the keeper base or the widen list. -/
def passMisaligned (b : Body) : Option Nat :=
  let kind := bf b 0x20 21 20
  let l : List (Nat × Nat) := (([(bw b 0x10, 32)] ++ (if kind = 1 then [] else [(bw b 0x14, 256)]))
    ++ (if kind ≠ 1 ∧ bf b 0x20 28 24 ≠ 0 then [(bw b 0x1C, 4)] else []))
    ++ (if kind = 1 then [] else [(bw b 0x2C, 16)])
  (l.find? (fun e => e.1 % e.2 != 0)).map (fun e => e.1)

/-- The resident tile of a block, where it is the one that the pass names (R88), or the tile loaded anew. DESIGN CHOICE (log
entry 34): the reload of a tile whose delta header is poisoned takes the COUNT that the poisoned word shows. -/
def passTile (x : Rd) (o : Origin) (blk : Nat) (b : Body) : Rd × Tile × Nat :=
  let a := bw b 0x10
  match (block x.s blk).resident with
  | some t => if t.addr = a ∧ bf b 0x20 21 20 ≠ 1 then (x, t, 0) else load a
  | none => load a
where
  /-- The entries of the delta list at `d` of the tile's load; a header read poisoned is not decoded (R72), and counts none. -/
  deltaCount (s : Chip) (d : Nat) : Nat :=
    if padBad s (o.quad.val / 4) d 4 then 0 else min (bits (padWord s (o.quad.val / 4) d) 16 0) 65536
  /-- Load the tile at `a`: the reader, the tile, its reload cycles. -/
  load (a : Nat) : Rd × Tile × Nat :=
    let e := x.tile o a (bf b 0x20 21 20 != 1)
    let n := if e.2.form = 0 ∧ bit e.2.w0 27 then 4 + 4 * deltaCount e.1.s e.2.w8 else 0
    (e.1, e.2, reloadCycles e.2 n)

/-- The tokens of a pass and their weights: its own range, or those that its dispatch record names, with their MAP written
(R185, R181). -/
def passTokens (x : Rd) (o : Origin) (b : Body) : Rd × List (Nat × Nat) :=
  if bf b 0x20 21 20 = 2 then
    let d := readDispatch x o b
    (writeMap d.1 o b d.2, d.2)
  else (x, (List.range (bf b 0x24 8 0 + 1)).map (fun j => (j, 0)))

/-- What a pass reads before it runs: its tile and the reload cycles, its loose lists with their chunks or its tokens, and its
widen entries with their poison. -/
structure PassData where
  tile : Tile
  reload : Nat
  loose : List Loose
  runs : List (List Nat × List Nat)
  toks : List Token
  wid : List (Nat × Nat × Nat × Nat)
  widBad : Bool
deriving DecidableEq, Repr

/-- Read what a pass needs for its tokens `l` (R86, R89, R46 to R57). -/
def passRead (x : Rd) (o : Origin) (blk : Nat) (b : Body) (l : List (Nat × Nat)) : Rd × PassData :=
  let kind := bf b 0x20 21 20
  let width := bf b 0x20 31 29 + 1
  let n := bf b 0x24 8 0 + 1
  let t0 := bw b 0x28
  let e := passTile x o blk b
  let t := e.2.1
  let x := if (kind = 1) = (t.form = 3) ∨ (t.poisoned ∧ t.image.isEmpty) then e.1 else e.1.stop 0x41 none
  let loose := if kind = 1 then l.foldl (fun (a : Rd × List Loose) j =>
      let r := readLoose a.1 o (bw b 0x14 + (t0 + j.1) * bw b 0x18) t.rows width (bf b 0x20 15 0)
      (r.1, a.2 ++ [r.2])) (x, []) else (x, [])
  let runs := looseChunks t.rows loose.2
  let rows := if kind = 1 ∧ !t.poisoned ∧ loose.1.bad.isNone then loose.1.gatherRows o t (runs.flatMap (fun c => c.1))
    else (loose.1, t.image, t.badRows)
  let t := { t with image := rows.2.1, badRows := rows.2.2 }
  let toks := if kind = 1 then (rows.1, []) else l.foldl (fun (a : Rd × List Token) j =>
      let r := readToken a.1 o (mainLayout b (t0 + j.1)) (rowShift b t) (nseg t) (fun _ => true)
      (r.1, a.2 ++ [r.2])) (rows.1, [])
  let lo := rowShift b t
  let wid := readWiden toks.1 o (if kind = 1 then 0 else bw b 0x2C) t0 n (fun r c =>
    decide ((r : Int) < lo + 32 * (nseg t : Nat) ∧ lo < (r : Int) + c))
  (wid.1, { tile := t, reload := e.2.2, loose := loose.2, runs := runs, toks := toks.2, wid := wid.2.1, widBad := wid.2.2 })

/-- The planes of a pass over its tokens: the accumulators after it, and its cycles (R92, R93). -/
def passPlanes (s : Chip) (o : Origin) (blk : Nat) (b : Body) (first : Nat) (v : PassData) : Chip × Nat :=
  let narrow := bb b 0x20 23
  let width := bf b 0x20 31 29 + 1
  if bf b 0x20 21 20 = 1 then loosePass s o blk narrow v.tile width first v.loose v.runs
  else
    let slots := (List.range v.toks.length).map (fun m => (first + m, v.toks.getD m { segs := [], keepers := [], poisoned := false }))
    (countPass (runTokens s o blk narrow v.tile.weight v.tile.cols width v.tile.poisoned slots) blk,
      max (slots.map (fun e => tokenCycles width e.2)).sum v.reload)

/-- The sets of a pass of `n` tokens from slot `first`. -/
def passSetList (narrow : Bool) (first n : Nat) : List Nat := if n = 0 then [] else setsOf narrow first n

/-- The sets of a pass of `n` tokens are taken, and cleared where it starts them (R82, R95, R131). -/
def passSets (s : Chip) (o : Origin) (blk : Nat) (b : Body) (first n : Nat) (v : PassData) : Chip :=
  let narrow := bb b 0x20 23
  let s := setBlock s blk (fun y => { y with resident := if bf b 0x20 21 20 = 1 then none else some v.tile })
  let s := takeSets s blk narrow o (passSetList narrow first n)
  if bb b 0x20 22 && n != 0 then clearSlots s blk narrow first n v.tile.cols else s

/-- Poison in a widen list reaches every slot of the pass (R97). -/
def passWidBad (s : Chip) (o : Origin) (blk : Nat) (b : Body) (first n : Nat) (v : PassData) : Chip :=
  if v.widBad then poisonSlots s o blk (bb b 0x20 23) first v.tile.cols (List.range n) else s

/-- The slot of tensor token `tok` in a pass over `l` from slot `first` (R127, R182). -/
def passSlot (b : Body) (first : Nat) (l : List (Nat × Nat)) (tok : Nat) : Nat :=
  first + ((l.findIdx? (fun j => j.1 + bw b 0x28 == tok)).getD 0)

/-- The widen entries of a pass's tokens (R127). -/
def passWiden (b : Body) (l : List (Nat × Nat)) (v : PassData) : List (Nat × Nat × Nat × Nat) :=
  v.wid.filter (fun w => l.any (fun j => j.1 + bw b 0x28 == bits w.2.1 31 16))

/-- Does the pass put planes through the lanes, in its main or chunk passes or in a widen pass (R77, R92, R127)? -/
def passLive (x : Rd) (o : Origin) (b : Body) (l : List (Nat × Nat)) (v : PassData) : Bool :=
  v.toks.any (fun t => !t.segs.isEmpty)
    || v.runs.any (fun c => c.2.any (fun i => match chunkToken v.loose c.1 (bf b 0x20 31 29 + 1) i with
      | some t => !t.segs.isEmpty
      | none => false))
    || (span 1 8).any (fun rung => (widenTokens x o (bf b 0x20 28 24) (rowShift b v.tile) (nseg v.tile) rung
      (passWiden b l v)).2.any (fun k => !k.2.segs.isEmpty))

/-- The state once the pass has met its residue and accumulator errors: those of ERR_INJECT, which fire in its first cycle (R488),
and those from outside. -/
def passMeets (s : Chip) (o : Origin) (blk : Fin 256) (b : Body) (first : Nat) (live : Bool) (events : List PassEvent) : Chip :=
  meetEvents (injectBlock s o blk.val (slotWord (bb b 0x20 23) first).1 live) o blk.val live events

/-- A pass whose sets are taken runs over its tokens `l` with what it has read, after `extra` cycles: the planes, the widen
passes, and the BF16 rung work for the Fin unit (R92 to R96, R125 to R128). -/
def passBody (x : Rd) (o : Origin) (blk : Fin 256) (b : Body) (first extra : Nat) (l : List (Nat × Nat)) (v : PassData) : Chip :=
  let main := passPlanes x.s o blk.val b first v
  let s := passWidBad main.1 o blk.val b first l.length v
  let mine := passWiden b l v
  let z := widenPasses { x with s := s } o blk.val b v.tile (bb b 0x20 23) (passSlot b first l) mine
  let s := sendBf16 (closeRd z.1 o blk.val) o blk.val b v.tile (passSlot b first l) mine
  let n := main.2 + z.2 + extra
  if z.1.bad.isNone && mine.any (fun w => bits w.1 29 26 == 15) then charge s (.stroke blk) o (n + 14)
  else strokeDone s o blk b n

/-- The first slot of a pass, shifted where the command runs on a later copy. -/
def passFirst (s : Chip) (o : Origin) (blk : Fin 256) (b : Body) : Nat :=
  shiftSlot (bb b 0x20 23) (copyShift s o (.stroke blk) 1 b) (bf b 0x24 24 16)

/-- The pass over its tokens `l` with what it has read: its sets are taken, and it meets its errors before it computes; a block
that they fence computes nothing more (R96). -/
def passRun (x : Rd) (o : Origin) (blk : Fin 256) (b : Body) (first : Nat) (l : List (Nat × Nat)) (v : PassData)
    (events : List PassEvent) : Chip :=
  let s := passSets x.s o blk.val b first l.length v
  let live := passLive { x with s := s } o b l v
  let t := passMeets s o blk b first live events
  if blockFenced t blk.val then closeRd { x with s := t } o blk.val
  else passBody { x with s := t } o blk b first (recomputeCycles s blk.val live events) l v

/-- The pass once its sets are open to it. -/
def runPass (s : Chip) (o : Origin) (blk : Fin 256) (b : Body) (events : List PassEvent) : Chip :=
  let d := passTokens (startRd s) o b
  if bf b 0x20 21 20 = 2 ∧ d.2.isEmpty ∧ d.1.bad.isNone then strokeDone (closeRd d.1 o blk.val) o blk b 0
  else
    let e := passRead d.1 o blk.val b d.2
    if e.1.bad.isSome then strokeDone (closeRd e.1 o blk.val) o blk b 0
    else passRun e.1 o blk b (passFirst s o blk b) d.2 e.2 events

/-- The sets that a pass about to run touches: those of its tokens, which a dispatch pass counts in its list (R83, R182). -/
def passTouches (s : Chip) (o : Origin) (blk : Fin 256) (b : Body) : List Nat :=
  passSetList (bb b 0x20 23) (passFirst s o blk b)
    (if bf b 0x20 21 20 = 2 then (passTokens (startRd s) o b).2.length else bf b 0x24 8 0 + 1)

/-- The pass waits for a set that is live in the other mode (R132). -/
def startAccWait (s : Chip) (o : Origin) (blk : Fin 256) (b : Body) (events : List PassEvent) : Chip :=
  setBlock s blk.val (fun x => { x with wait := some { origin := o, body := b, events := events, since := s.now,
                                                       sets := passTouches s o blk b, freed := false } })

/-- STROKE_PASS (R181, R83, R132): refused fields fault; a pass into a live set of the other mode waits. -/
def strokePass (s : Chip) (o : Origin) (blk : Fin 256) (b : Body) (events : List PassEvent) : Chip :=
  let narrow := bb b 0x20 23
  if blockFenced s blk.val ∨ (block s blk.val).wait.isSome then s
  else if passInvalid b then strokeDone (faultQueue s o 0x41) o blk b 0
  else match passMisaligned b with
    | some a => strokeDone (faultPad s o 0x3B (o.quad.val / 4) a) o blk b 0
    | none =>
      if slotsBad narrow (bf b 0x24 24 16) (bf b 0x24 8 0 + 1) then strokeDone (faultBlock s o blk.val 0x24 none) o blk b 0
      else if modeConflict s blk.val narrow (passTouches s o blk b) then startAccWait s o blk b events
      else runPass s o blk b events

/-- The wait of a block ends, and is charged (R204). -/
def endAccWait (s : Chip) (blk : Fin 256) (w : AccWait) : Chip :=
  handTo (leaveAccWait s blk.val w) w.origin (.stroke blk) 1 w.body

/-- May the waiting pass proceed: its sets were free of the other mode before the timeout, or are now (R133)? -/
def waitFree (s : Chip) (blk : Fin 256) (w : AccWait) : Bool :=
  w.freed || (!(waitBlocked s blk.val w) && !(accExpired s blk.val w))

/-- ACC_MODE_WAIT_PROCEED (R133): the sets were free of the other mode before the timeout, and the pass runs. -/
def accModeWaitProceed (s : Chip) (blk : Fin 256) : Chip :=
  match (block s blk.val).wait with
  | none => s
  | some w => if waitFree s blk w then runPass (endAccWait s blk w) w.origin blk w.body w.events else s

/-- ACC_MODE_TIMEOUT (R133): the set was live until the wait expired; the pass is discarded and its job faults. -/
def accModeTimeout (s : Chip) (blk : Fin 256) : Chip :=
  match (block s blk.val).wait with
  | none => s
  | some w =>
    if waitFree s blk w || !(accExpired s blk.val w) then s
    else strokeDone (faultBlock (endAccWait s blk w) w.origin blk.val 0x27 none) w.origin blk w.body 0

end Sys2Proof.Machine
end

