-- ==== Sys2Proof/Machine/Readout.lean ====
section
/-!
DEFINITION. The Burnisher's read-out (03, 04): steps 1 to 6 of R98 into staging, norms (R99), activation tables (R100),
and the checks of descriptors (R112) and modes (R134).
-/
namespace Sys2Proof.Machine

/-- The Burnisher of a block. -/
def burnisherOf (blk : Fin 256) : Engine := .burnisher blk

/-- A Burnisher command is done after `n` cycles and the pipeline's 20 (R516). -/
def burnDone (s : Chip) (o : Origin) (blk : Fin 256) (op : Nat) (b : Body) (n : Nat) : Chip :=
  finish (charge s (burnisherOf blk) o (n + 20)) o (burnisherOf blk) op b

/-! ### Precision descriptors (R111, R112) -/

/-- A precision descriptor: its eight words. -/
abbrev Desc := List Nat

/-- Fields of a descriptor (Table 04-1). -/
def dWidth (d : Desc) : Nat := bits (d.getD 0 0) 29 27 + 1
def dSigned (d : Desc) : Bool := bit (d.getD 0 0) 26
def dWiden (d : Desc) : Bool := bit (d.getD 0 0) 25
def dRound (d : Desc) : Bool := bit (d.getD 0 0) 24
def dHeadroom (d : Desc) : Nat := bits (d.getD 0 0) 23 20
def dK (d : Desc) : Nat := bits (d.getD 0 0) 19 15
def dEBase (d : Desc) : Nat := bits (d.getD 0 0) 7 0
def dRowFirst (d : Desc) : Nat := bits (d.getD 1 0) 31 16
def dF (d : Desc) : Nat := bits (d.getD 1 0) 15 0 + 1
def dStage (d : Desc) : Nat := d.getD 2 0
def dOut (d : Desc) : Nat := d.getD 3 0
def dKeeper (d : Desc) : Nat := d.getD 4 0
def dList (d : Desc) : Nat := d.getD 5 0
def dArea (d : Desc) : Nat := d.getD 6 0
def dUnits (d : Desc) : Nat := bits (d.getD 7 0) 31 16
def dEntries (d : Desc) : Nat := bits (d.getD 7 0) 15 0

/-- F_pad of a descriptor (R114). -/
def dPad (d : Desc) : Nat := cdiv (dF d) 64 * 64

/-- Read a descriptor (R112): GEN first; a poisoned word faults. -/
def Rd.desc (x : Rd) (o : Origin) (a : Nat) : Rd × Desc :=
  let e := x.read o a 32
  let d := (List.range 8).map (fun i => ofBytes ((e.2.1.drop (4 * i)).take 4))
  let w0bad := (badFlags e.1.s (o.quad.val / 4) a 4).any id
  if e.1.bad.isSome then (e.1, d)
  else if w0bad then (e.1.stop 0x28 (some a), d)
  else if bits (d.getD 0 0) 31 30 ≠ 0 then (e.1.stop 0x0E (some a), d)
  else if e.2.2 then (e.1.stop 0x28 (some a), d)
  else (e.1, d)

/-- The cases of R112 that concern ROW_FIRST and STAGE_BASE. -/
def descReadoutBad (d : Desc) : Bool := dRowFirst d % 32 != 0 || dStage d % 256 != 0

/-- Every case of R112. -/
def descBad (d : Desc) : Bool :=
  dEBase d == 0 || dEBase d == 255 || decide (dEBase d + dHeadroom d > 254) || descReadoutBad d || dOut d % 256 != 0
    || dArea d % 256 != 0 || (dK d != 0 && dKeeper d % 4 != 0)
    || (dWiden d && (dList d % 16 != 0 || dUnits d == 0 || dEntries d == 0))

/-! ### Values in scratchpad -/

/-- Read `n` values of `size` bytes at `a`: codes with their poison. -/
def Rd.values (x : Rd) (o : Origin) (a n size : Nat) : Rd × List (Nat × Bool) :=
  let e := x.read o a (n * size)
  let bad := badFlags e.1.s (o.quad.val / 4) a (n * size)
  (e.1, (List.range n).map (fun i => (ofBytes ((e.2.1.drop (size * i)).take size), bad.getD (size * i) false)))

/-- Write 4-byte values from `a` on, whole 64-bit words at a time where the run covers them (R159, R23). -/
def Rd.putValues (x : Rd) (o : Origin) (a : Nat) (l : List (Nat × Bool)) : Rd :=
  if l.isEmpty then x
  else
    let n := 4 * l.length
    (span (a / 8) ((a + n - 1) / 8 + 1 - a / 8)).foldl (fun x w =>
      let lo := max a (w * 8)
      let hi := min (a + n) (w * 8 + 8)
      let part := (l.drop ((lo - a) / 4)).take ((hi - lo) / 4)
      x.put o lo (part.flatMap (fun e => toBytes 4 e.1)) (part.any (fun e => e.2))) x

/-! ### Steps 1 to 6 (R98) -/

/-- Step 1: the lane of an accumulator word in FP32 (R58, R81). -/
def laneValue (narrow : Bool) (a : AccEntry) (i : Nat) : Nat :=
  let m := a.lanes.getD i 0
  pack f32 (if a.e = 255 then laneNum narrow m else numScaled m ((a.e : Int) - 127))

/-- The value of an activation table, 257 knots, LO, HI, SLOPE_LO and SLOPE_HI, at `x` (R100); a quotient that rounds to 256
or above gives the last knot, flushed as every result is (R98). -/
def activation (t : List Nat) (x : Nat) : Nat :=
  let lo := t.getD 257 0
  let hi := t.getD 258 0
  let below := fun a b => numLt (unpack f32 a) (unpack f32 b)
  if isNan (unpack f32 x) then nanCode f32
  else if below x lo then fAdd f32 (t.getD 0 0) (fMul f32 (fSub f32 x lo) (t.getD 259 0))
  else if !(below x hi) then fAdd f32 (t.getD 256 0) (fMul f32 (fSub f32 x hi) (t.getD 260 0))
  else
    let h := fMul f32 (fSub f32 hi lo) 0x3B800000
    let q := unpack f32 (fDiv f32 (fSub f32 x lo) h)
    let last := pack f32 (unpack f32 (t.getD 256 0))
    match q with
    | .nan => nanCode f32
    | .inf _ => last
    | .fin _ _ _ =>
      let i := (numFloor q).toNat
      if i ≥ 256 then last
      else
        let f := pack f32 (numAdd q (numInt (-(i : Int))))
        fAdd f32 (t.getD i 0) (fMul f32 f (fSub f32 (t.getD (i + 1) 0) (t.getD i 0)))

/-- 1 / sqrt(total / F + ε), each step in FP32 (R99). -/
def invNorm (total f eps : Nat) : Nat :=
  fDiv f32 0x3F800000 (fSqrt f32 (fAdd f32 (pack f32 (numDiv (unpack f32 total) (numInt f))) eps))

/-- What a read-out applies besides the scale: its operands for one token. -/
structure Steps where
  scale : List (Nat × Bool)
  residual : Option (List (Nat × Bool))
  norm : Option (Nat × Bool)
  act : Option (List Nat × Bool)
  gate : Option (List (Nat × Bool))
deriving DecidableEq, Repr

/-- Steps 2 and 3 on column `c`. -/
def steps23 (p : Steps) (c : Nat) (v : Nat × Bool) : Nat × Bool :=
  let k := p.scale.getD c (0, false)
  let v := (fMul f32 v.1 k.1, v.2 || k.2)
  match p.residual with
  | some l => let e := l.getD c (0, false); (fAdd f32 v.1 e.1, v.2 || e.2)
  | none => v

/-- Steps 4 to 6 on column `c`. -/
def steps46 (p : Steps) (c : Nat) (v : Nat × Bool) : Nat × Bool :=
  let v := match p.norm with
    | some e => (fMul f32 v.1 e.1, v.2 || e.2)
    | none => v
  let v := match p.act with
    | some e => (activation e.1 v.1, v.2 || e.2)
    | none => v
  match p.gate with
  | some l => let e := l.getD c (0, false); (fMul f32 v.1 e.1, v.2 || e.2)
  | none => v

/-- A BF16 code with poison as FP32. -/
def fromBf16 (e : Nat × Bool) : Nat × Bool := (convert bf16 f32 e.1, e.2)

/-- Slot `m` of a read-out: its token, its gates, and whether its MAP word was poisoned (R182, R183). -/
def slotToken (x : Rd) (o : Origin) (b : Body) (m : Nat) : Rd × Nat × Nat × Bool :=
  if bf b 0x2C 26 25 = 2 then
    let w := x.word o (bw b 0x20 + 4 + 4 * m)
    (w.1.taint w.2.2, bw b 0x34 + bits w.2.1 15 0, bits w.2.1 31 16, w.2.2)
  else (x, bw b 0x34 + m, 0, false)

/-- Read the operands of a token's read-out. -/
def readSteps (x : Rd) (o : Origin) (b : Body) (d : Desc) (scale : List (Nat × Bool)) (act : Option (List Nat × Bool))
    (m t gate n : Nat) : Rd × Steps :=
  let at' := t * dPad d + bf b 0x2C 15 0
  let r : Rd × Option (List (Nat × Bool)) :=
    if !(bb b 0x2C 29) then (x, none)
    else if bb b 0x2C 28 then
      let e := x.values o (bw b 0x18 + at' * 2) n 2
      (e.1, some (e.2.map fromBf16))
    else
      let e := x.values o (bw b 0x18 + at' * 4) n 4
      (e.1, some e.2)
  let nrm : Rd × Option (Nat × Bool) :=
    if bf b 0x2C 31 30 = 2 then
      let w := r.1.word o (bw b 0x24 + 4 * m)
      (w.1, some (invNorm w.2.1 (bw b 0x38) (bw b 0x28), w.2.2))
    else (r.1, none)
  let g : Rd × Option (List (Nat × Bool)) :=
    match bf b 0x2C 26 25 with
    | 1 => let e := nrm.1.values o (bw b 0x20 + at' * 4) n 4; (e.1, some e.2)
    | 2 => (nrm.1, some (List.replicate n (convert bf16 f32 gate, false)))
    | _ => (nrm.1, none)
  (g.1, { scale := scale, residual := r.2, norm := nrm.2, act := act, gate := g.2 })

/-- One slot of a read-out (R183): its words through the steps into staging, or its sum of squares. -/
def readSlot (x : Rd) (o : Origin) (blk : Nat) (b : Body) (d : Desc) (narrow : Bool) (scale : List (Nat × Bool))
    (act : Option (List Nat × Bool)) (first n m : Nat) : Rd :=
  let t := slotToken x o b m
  let w := slotWord narrow (first + m)
  let p := readSteps t.1 o b d scale act m t.2.1 t.2.2.1 n
  let blkS := block p.1.s blk
  let v := (List.range n).map (fun c =>
    let k := c * 256 + w.1
    steps23 p.2 c (laneValue narrow (accOpen narrow (blkWord blkS blk k)) w.2, kmem blkS.bad k))
  if t.2.2.2 then p.1
  else if bf b 0x2C 31 30 = 1 then
    let sum := v.foldl (fun a e => fAdd f32 a (fMul f32 e.1 e.1)) 0
    p.1.putValues o (bw b 0x24 + 4 * m) [(sum, v.any (fun e => e.2))]
  else
    let v := (List.range n).map (fun c => steps46 p.2 c (v.getD c (0, false)))
    let a := dStage d + (t.2.1 * dPad d + bf b 0x2C 15 0) * 4
    if bb b 0x2C 22 then
      let old := p.1.values o a n 4
      old.1.putValues o a ((List.range n).map (fun c =>
        let e := old.2.getD c (0, false)
        let f := v.getD c (0, false)
        (fAdd f32 e.1 f.1, e.2 || f.2)))
    else p.1.putValues o a v

/-- Does a field of a READOUT break its stated range (R183, R111)? -/
def readoutInvalid (b : Body) : Bool :=
  bf b 0x2C 31 30 == 3 || bf b 0x2C 26 25 == 3 || (bf b 0x2C 31 30 == 2 && bw b 0x38 == 0)

/-- The scratchpad address of a READOUT that breaks the alignment its structure states (R147): the descriptor or the norm
words. -/
def readoutMisaligned (b : Body) : Option Nat :=
  if bw b 0x10 % 32 ≠ 0 then some (bw b 0x10)
  else if bf b 0x2C 31 30 ≠ 0 ∧ bw b 0x24 % 4 ≠ 0 then some (bw b 0x24) else none

/-- The activation table of a read-out, where enabled (R100); poisoned bounds are not decoded (R72). -/
def readAct (x : Rd) (o : Origin) (b : Body) : Rd × Option (List Nat × Bool) :=
  if !(bb b 0x2C 27) then (x, none)
  else
    let e := x.values o (bw b 0x1C) 261 4
    let t := e.2.map (fun v => v.1)
    let unread := (e.2.getD 257 (0, false)).2 || (e.2.getD 258 (0, false)).2
    if e.1.bad.isNone && !unread && !(numLt (unpack f32 (t.getD 257 0)) (unpack f32 (t.getD 258 0))) then
      (e.1.stop 0x26 (some (bw b 0x1C)), none)
    else (e.1, some (t, e.2.any (fun v => v.2)))

/-- How many of a READOUT's columns the descriptor's width leaves. -/
def readoutCols (b : Body) (d : Desc) : Nat := min (bf b 0x30 31 25 + 1) (dF d - bf b 0x2C 15 0)

/-- What a READOUT reads before its slots: the descriptor, the scales, the activation table. -/
def readoutLoad (x : Rd) (o : Origin) (b : Body) : Rd × Desc × List (Nat × Bool) × Option (List Nat × Bool) :=
  let d := x.desc o (bw b 0x10)
  let y := if d.1.bad.isNone && descReadoutBad d.2 then d.1.stop 0x28 (some (bw b 0x10)) else d.1
  let sc := y.values o (bw b 0x14) (readoutCols b d.2) 4
  let act := readAct sc.1 o b
  (act.1, d.2, sc.2, act.2)

/-- The slots a READOUT reads out, in order, up to the first fault. -/
def readoutSlots (y : Rd) (o : Origin) (blk : Nat) (b : Body) (d : Desc) (scale : List (Nat × Bool))
    (act : Option (List Nat × Bool)) (first : Nat) : Rd :=
  (List.range (bf b 0x30 8 0 + 1)).foldl (fun y m =>
    if y.bad.isSome then y else readSlot y o blk b d (bb b 0x2C 23) scale act first (readoutCols b d) m) y

/-- A READOUT's end: its faults and counts, and the sets its RELEASE ends. -/
def readoutEnd (y : Rd) (o : Origin) (blk : Nat) (b : Body) (first : Nat) : Chip :=
  let s := closeRd y o blk
  if bb b 0x2C 24 && y.bad.isNone then
    (setsOf (bb b 0x2C 23) first (bf b 0x30 8 0 + 1)).foldl (fun t k => endSet t blk k) s
  else s

/-- The first slot of a READOUT, shifted where the command runs on a later copy. -/
def readoutFirst (s : Chip) (o : Origin) (blk : Fin 256) (b : Body) : Nat :=
  shiftSlot (bb b 0x2C 23) (copyShift s o (burnisherOf blk) 2 b) (bf b 0x30 24 16)

/-- The state once a READOUT has met its accumulator errors, from outside and from ERR_INJECT. -/
def readoutMeets (s : Chip) (o : Origin) (blk : Fin 256) (b : Body) (first : Nat) (events : List PassEvent) : Chip :=
  meetEvents (injectBlock s o blk.val (slotWord (bb b 0x2C 23) first).1 false) o blk.val false events

/-- The cycles of a READOUT: 64 values a cycle. -/
def readoutCycles (b : Body) : Nat := cdiv ((bf b 0x30 8 0 + 1) * (bf b 0x30 31 25 + 1)) 64

/-- READOUT (R98, R134, R183). -/
def readout (s : Chip) (o : Origin) (blk : Fin 256) (b : Body) (events : List PassEvent) : Chip :=
  let narrow := bb b 0x2C 23
  let n := bf b 0x30 8 0 + 1
  let first := readoutFirst s o blk b
  let fail := fun (t : Chip) => burnDone t o blk 2 b 0
  if blockFenced s blk.val then s
  else if readoutInvalid b then fail (faultQueue s o 0x41)
  else match readoutMisaligned b with
    | some a => fail (faultPad s o 0x3B (o.quad.val / 4) a)
    | none =>
      if slotsBad narrow (bf b 0x30 24 16) n then fail (faultBlock s o blk.val 0x24 none)
      else if modeConflict s blk.val narrow (setsOf narrow first n) then fail (faultBlock s o blk.val 0x27 none)
      else
        let l := readoutLoad (startRd s) o b
        if l.1.bad.isSome then fail (closeRd l.1 o blk.val)
        else
          let s := readoutMeets l.1.s o blk b first events
          if blockFenced s blk.val then closeRd { l.1 with s := s } o blk.val
          else
            let y := readoutSlots { l.1 with s := s } o blk.val b l.2.1 l.2.2.1 l.2.2.2 first
            burnDone (readoutEnd y o blk.val b first) o blk 2 b (readoutCycles b)

end Sys2Proof.Machine
end

