-- ==== Sys2Proof/Machine/Quantise.lean ====
section
/-!
DEFINITION. Requantisation (03, 04): rounding and noise (R101 to R104), quantise_strap (R117, R118), the reactions FLAG and
WIDEN with the ladder, units, lists and stubs (R119 to R126), and widen storms (R129, R130).
-/
namespace Sys2Proof.Machine

/-! ### Stream claims (R103, R104, R116) -/

/-- A consumer claims counters `first` to `last` of a stream key; the claim runs until its command retires. -/
def claimStream (s : Chip) (o : Origin) (blk : Nat) (e : Engine) (op : Nat) (b : Body) (key first last : Nat) : Chip :=
  let mine := s.prec.claims.filter (fun c => c.part == o.part.val)
  if mine.length ≥ 64 then countFmt s blk o.tag.toNat 0x1A 1
  else
    let s' := if mine.any (fun c => c.key == key && decide (c.first ≤ last ∧ first ≤ c.last)) then countFmt s blk o.tag.toNat 0x1B 1 else s
    match runningCmd s o e op b with
    | some _ =>
      let c : Claim := { part := o.part.val, key := key, first := first, last := last, origin := o, body := b }
      { s' with prec := { s'.prec with claims := s'.prec.claims ++ [c] } }
    | none => s'

/-! ### quantise_strap (R48, R101, R102, R117) -/

/-- The code range of a width (R48, R117). -/
def codeRange (w : Nat) (sgn : Bool) : Int × Int :=
  if w = 1 then (0, 1)
  else if sgn then (-(2 ^ (w - 1) : Nat), (2 ^ (w - 1) : Nat) - 1)
  else (0, (2 ^ w : Nat) - 1)

/-- `x × 2^k`, exactly. -/
def numShift (x : Num) (k : Int) : Num :=
  match x with
  | .fin a m e => .fin a m (e + k)
  | y => y

/-- The smallest exponent from `e` at which `a` fits under `hi`, stopping at 254; `n` bounds the search (R117). -/
def eFit (a : Num) (hi : Int) : Nat → Nat → Nat
  | 0, e => e
  | n + 1, e => if e < 254 && numLt (numInt hi) (numShift a (127 - (e : Int))) then eFit a hi n (e + 1) else e

/-- Insert a (row, value) pair by falling magnitude, after equal magnitudes of lower rows. -/
def insertMag (x : Nat × Num) : List (Nat × Num) → List (Nat × Num)
  | [] => [x]
  | y :: l => if numLt (numAbs y.2) (numAbs x.2) then x :: y :: l else y :: insertMag x l

/-- A requantised strap: exponent, codes, kept rows in ascending order, excess rows, and the values that are not finite. -/
structure Coded where
  exp : Nat
  codes : List Int
  keep : List Nat
  excess : List Nat
  nonfinite : Nat
deriving DecidableEq, Repr

/-- quantise_strap (R117) of the staged FP32 codes `y` at width `w`; `noise k` is element k's noise value, where rounding
is stochastic. -/
def quantiseStrap (y : List Nat) (w : Nat) (d : Desc) (noise : Option (Nat → Nat)) : Coded :=
  let v := y.map (unpack f32)
  let r := codeRange w (dSigned d)
  let ranked := (List.range v.length).foldl (fun l k =>
    let x := v.getD k .nan
    if isFin x then insertMag (k, x) l else l) []
  let a := match ranked[dK d]? with
    | some e => numAbs e.2
    | none => .fin false 0 0
  let e := min (max (eFit a r.2 253 1) (dEBase d)) (dEBase d + dHeadroom d)
  let codes := (List.range v.length).map (fun k =>
    match v.getD k .nan with
    | .nan => 0
    | .inf neg => if neg then r.1 else r.2
    | x =>
      let z := numShift x (127 - (e : Int))
      match noise with
      | none => numRound z
      | some f => numFloor (numAdd z (.fin false (f k) (-16))))
  let out := fun k => isFin (v.getD k .nan) && (decide (codes.getD k 0 < r.1) || decide (codes.getD k 0 > r.2))
  let o := ranked.filter (fun x => out x.1)
  let keep := (o.take (dK d)).map (fun x => x.1)
  { exp := e, codes := (List.range codes.length).map (fun k => if keep.contains k then 0 else codes.getD k 0),
    keep := (List.range v.length).filter (fun k => keep.contains k),
    excess := (List.range v.length).filter (fun k => out k && !(keep.contains k)),
    nonfinite := (v.filter (fun x => !(isFin x))).length }

/-- The next rung of the ladder (Table 04-3); 15 is BF16. -/
def nextRung (w : Nat) : Nat :=
  match w with
  | 1 => 2
  | 2 => 4
  | 3 => 4
  | 4 => 6
  | 5 => 6
  | 6 => 8
  | 7 => 8
  | _ => 15

/-- Climb from width `w` (R121): the rungs attempted, each with its strap (none at BF16); `n` bounds the climb. -/
def climb (y : List Nat) (d : Desc) (noise : Option (Nat → Nat)) : Nat → Nat → List (Nat × Option Coded)
  | 0, _ => []
  | n + 1, w =>
    let r := nextRung w
    if r = 15 then [(15, none)]
    else
      let c := quantiseStrap y r d noise
      (r, some c) :: (if c.excess.isEmpty then [] else climb y d noise n r)

/-! ### Writing straps and keeper slots (R46, R53, R118) -/

/-- The 256 bytes of a strap (R46, R47, R118). -/
def strapBytes (exp w : Nat) (sgn zero keeper : Bool) (codes : List Int) : List Byte :=
  let flag := fun (c : Bool) k => if c then 2 ^ k else 0
  let head := exp * 2 ^ 24 + (w - 1) * 2 ^ 21 + flag sgn 20 + flag zero 19 + flag keeper 18 + codes.length
  let word := fun m =>
    if m / w < 63 / w then
      (List.range 32).foldl (fun a j =>
        if bit (unsigned 8 (codes.getD (32 * (m / w) + j) 0)) (m % w) then a + 2 ^ j else a) 0
    else 0
  toBytes 4 head ++ (List.range 63).flatMap (fun m => toBytes 4 (word m))

/-- The bytes of a keeper slot of capacity `k` (R53): its header and its entries; DESIGN CHOICE (log entry 34): zeros over the
entries not used. -/
def slotBytes (tag k : Nat) (l : List (Nat × Nat)) : List Byte :=
  toBytes 4 (tag % 65536 * 65536 + l.length) ++ l.flatMap (fun e => toBytes 4 (e.1 % 65536 * 65536 + e.2))
    ++ List.replicate (4 * (k - l.length)) 0

/-- Write a strap with its keeper slot (R118): codes of rows `row0` on, `keep` the kept positions. -/
def putStrap (x : Rd) (o : Origin) (d : Desc) (a ka tag exp w : Nat) (codes : List Int) (keep : List Nat) (y : List Nat)
    (row0 : Nat) (bad : Bool) : Rd :=
  let ents := keep.map (fun k => (row0 + k, convert f32 bf16 (y.getD k 0)))
  let x := x.put o a (strapBytes exp w (dSigned d) (codes.all (fun c => c == 0)) (!ents.isEmpty) codes) bad
  if dK d = 0 then x else x.put o ka (slotBytes tag (dK d) ents) bad

/-! ### Widen claims and units (R123 to R126) -/

/-- The key of a widen list: its region and address. -/
def listKey (o : Origin) (d : Desc) : Nat := o.quad.val / 4 * 2 ^ 32 + dList d

/-- RESET_WIDEN (R115, R126): the list and area are empty, and this quad front owns the list. -/
def resetWiden (x : Rd) (o : Origin) (d : Desc) : Rd :=
  let x := x.put o (dList d) (List.replicate 16 0) false
  if x.bad.isSome then x
  else { x with s := { x.s with prec := { x.s.prec with widenOwner := tset x.s.prec.widenOwner (listKey o d) o.quad.val } } }

/-- Claim an entry and `need` 256-byte units (R125, R126): the entry's number and the address of its first unit. DESIGN CHOICE
(log entry 34): a header that is read poisoned is not decoded (R72), and refuses the claim. -/
def claimWiden (x : Rd) (o : Origin) (d : Desc) (need : Nat) : Rd × Option (Nat × Nat) :=
  if tget x.s.prec.widenOwner (listKey o d) ≠ some o.quad.val then (x, none)
  else
    let h := x.read o (dList d) 16
    if h.2.2 then (h.1.taint true, none) else
    let used := bits (ofBytes (h.2.1.take 4)) 15 0
    let units := bits (ofBytes ((h.2.1.drop 4).take 4)) 15 0
    if h.1.bad.isSome ∨ used ≥ dEntries d ∨ units + need > dUnits d then (h.1, none)
    else (h.1.put o (dList d) (toBytes 4 (used + 1) ++ toBytes 4 (units + need) ++ List.replicate 8 0) false,
      some (used, dArea d + 256 * units))

/-- A storm begins: STORMED is set, a step counted, the interrupt raised, and every other quad of the partition is told; the lead
quad front knows at once (R130). -/
def stormBegins (s : Chip) (p : Nat) (pg : Page) : Chip :=
  let s := setFlag (bump (wr s pg Reg.QF_STORM_STAT_STORMED 1) pg Reg.QF_STORM_STAT_STEPS 1) pg Reg.QF_IRQ_STAT_STORM
  let lead := leadQuad s p
  { s with prec := { s.prec with stormSent := ((quadsOf s p).filter (fun q => q != lead)).foldl kadd s.prec.stormSent,
                                 stormed := kadd s.prec.stormed lead } }

/-- Does the front's count reach its limit, with no storm on? -/
def stormDue (s : Chip) (pg : Page) : Bool :=
  let limit := rd s pg Reg.QF_STORM_CFG_LIMIT
  decide (limit ≠ 0 ∧ rd s pg Reg.QF_STORM_STAT_STORMED = 0 ∧ rd s pg Reg.QF_STORM_STAT_COUNT ≥ limit)

/-- The lead quad front of a partition counts a widen event (R129, R130). -/
def widenCounted (s : Chip) (p : Nat) : Chip :=
  let pg := Page.qf (leadQuad s p)
  let s := bump (bump s pg Reg.QF_STORM_STAT_COUNT 1) pg Reg.QF_WIDEN_EVENTS_EVENTS 1
  if stormDue s pg then stormBegins s p pg else s

/-- `n` widen events of quad `q` (R129): the lead quad front counts its own at once, and another quad front sends its own to it. -/
def sendWiden (s : Chip) (p q n : Nat) : Chip :=
  if q = leadQuad s p then (List.range n).foldl (fun t _ => widenCounted t p) s
  else { s with prec := { s.prec with widenSent := tmod s.prec.widenSent p 0 (fun k => k + n) } }

/-- Write the units of a widened strap (R124). -/
def putUnits (x : Rd) (o : Origin) (d : Desc) (area rung : Nat) (c : Option Coded) (y : List Nat) (row0 : Nat) (bad : Bool) : Rd :=
  match c with
  | none =>
    (List.range (cdiv y.length 128)).foldl (fun x u =>
      x.put o (area + 256 * u) ((span (128 * u) 128).flatMap (fun k =>
        toBytes 2 (if k < y.length then convert f32 bf16 (y.getD k 0) else 0))) bad) x
  | some c =>
    let n := strapCap rung
    let stride := if dK d > 0 then 512 else 256
    (List.range (cdiv y.length n)).foldl (fun x u =>
      let keep := (c.keep.filter (fun k => decide (n * u ≤ k ∧ k < n * (u + 1)))).map (fun k => k - n * u)
      putStrap x o d (area + u * stride) (area + u * stride + 256) u c.exp rung ((c.codes.drop (n * u)).take n) keep
        ((y.drop (n * u)).take n) (row0 + n * u) bad) x

/-- 256-byte units that a strap fills at its final rung (R124, R126). -/
def unitsNeeded (d : Desc) (rung n : Nat) : Nat :=
  if rung = 15 then cdiv n 128 else cdiv n (strapCap rung) * (if dK d > 0 then 2 else 1)

/-- Cycles of a strap's attempt at a rung (R516). -/
def attemptCycles (rung n : Nat) : Nat := if rung = 15 then cdiv n 64 else 2 * cdiv n 64 + 16

/-! ### One strap (R117 to R123) -/

/-- Write a strap at its first rung: under FLAG where it has an excess (R120). -/
def writeFirst (x : Rd) (o : Origin) (d : Desc) (a ka index row0 : Nat) (c : Coded) (y : List Nat) (bad : Bool) : Rd :=
  let r := codeRange (dWidth d) (dSigned d)
  let codes := (List.range c.codes.length).map (fun k =>
    if c.excess.contains k then (if isNeg (unpack f32 (y.getD k 0)) then r.1 else r.2) else c.codes.getD k 0)
  let x := (x.count 0x1C (if c.excess.isEmpty then 0 else 1)).count 0x19 c.nonfinite
  putStrap x o d a ka index c.exp (dWidth d) codes c.keep y row0 bad

/-- Requantise strap `i` of token `t` (R114, R117 to R124): the reader and the cycles. DESIGN CHOICE (log entry 34): where the
claim is refused, the strap is charged its first rung only. -/
def quantiseOne (x : Rd) (o : Origin) (d : Desc) (t i : Nat) (noise : Option (Nat → Nat)) : Rd × Nat :=
  let w := dWidth d
  let n := strapCap w
  let row0 := i * n
  let cnt := min n (dF d - row0)
  let index := t * cdiv (dF d) n + i
  let v := x.values o (dStage d + (t * dPad d + row0) * 4) cnt 4
  let bad := v.2.any (fun e => e.2)
  let y := v.2.map (fun e => if e.2 then 0 else e.1)
  let a := dOut d + index * 256
  let ka := dKeeper d + index * 4 * (dK d + 1)
  let c := quantiseStrap y w d noise
  let x := v.1
  let first := attemptCycles w cnt
  if x.bad.isSome then (x, 0)
  else if c.excess.isEmpty || !(dWiden d) then (writeFirst x o d a ka index row0 c y bad, first)
  else if kmem x.s.prec.stormed o.quad.val then (writeFirst (x.count 0x1F 1) o d a ka index row0 c y bad, first)
  else
    let l := climb y d noise 8 w
    let fin := l.getLast?.getD (15, none)
    let g := claimWiden x o d (unitsNeeded d fin.1 cnt)
    match g.2 with
    | none => (writeFirst (g.1.count 0x1E 1) o d a ka index row0 c y bad, first)
    | some e =>
      let x := (g.1.count 0x1D l.length).count 0x19 c.nonfinite
      let x := { x with s := sendWiden x.s o.part.val o.quad.val l.length }
      let x := putUnits x o d e.2 fin.1 fin.2 y row0 bad
      let units := if fin.1 = 15 then cdiv cnt 128 else cdiv cnt (strapCap fin.1)
      let x := x.put o (dList d + 16 + 16 * e.1) (toBytes 4 (fin.1 * 2 ^ 26 + units * 2 ^ 16) ++ toBytes 4 (t % 65536 * 65536 + i)
        ++ toBytes 4 e.2 ++ toBytes 4 (row0 * 65536 + cnt)) false
      let stub := ((l.filterMap (fun r => r.2)).getLast?.map (fun r => r.exp)).getD c.exp
      (putStrap x o d a ka index stub w (List.replicate cnt 0) [] y row0 bad,
        first + (l.map (fun r => attemptCycles r.1 cnt)).sum)

/-! ### QUANTISE (R112, R115, R116, R184) -/

/-- STREAM of a QUANTISE (R184). -/
def streamOf (b : Body) : Nat := bw b 0x20 + bf b 0x24 27 0 * 2 ^ 32

/-- The straps of a QUANTISE, each with its token and its place n / 2,048 in the noise stream (R116). -/
def strapsOf (b : Body) : List (Nat × Nat × Nat) :=
  let sc := bf b 0x1C 15 0 + 1
  (List.range (bf b 0x18 15 0 + 1)).flatMap (fun t => (List.range sc).map (fun i =>
    (bw b 0x14 + t, bf b 0x1C 31 16 + i, t * sc + i)))

/-- The checks of a QUANTISE's operands, in order: the descriptor's fields, then the straps it asks for. -/
def quantiseCheck (x : Rd) (o : Origin) (b : Body) : Rd × Desc :=
  let e := x.desc o (bw b 0x10)
  let d := e.2
  let y := if e.1.bad.isNone && descBad d then e.1.stop 0x28 (some (bw b 0x10)) else e.1
  let n := strapCap (dWidth d)
  (if y.bad.isNone && decide (bf b 0x1C 31 16 + bf b 0x1C 15 0 + 1 > cdiv (dF d) n) then y.stop 0x41 none else y, d)

/-- What a QUANTISE does once its operands are checked: the claim of its noise stream, the widening counters its FIRST
bit clears, and its straps in order, up to the first fault; and the cycles they took. -/
def quantiseWork (x : Rd) (o : Origin) (blk : Fin 256) (b : Body) (d : Desc) : Rd × Nat :=
  let n := strapCap (dWidth d)
  let l := strapsOf b
  let key := o.part.val * 2 ^ 60 + streamOf b
  let base := bq b 0x28
  let final := bf b 0x1C 31 16 + bf b 0x1C 15 0
  let last := (l.length - 1) * 2048 + min n (dF d - final * n) - 1
  let x := if dRound d then { x with s := claimStream x.s o blk.val (burnisherOf blk) 3 b key base (base + last / 32) } else x
  let x := if bb b 0x30 0 then resetWiden x o d else x
  l.foldl (fun (a : Rd × Nat) e =>
    if a.1.bad.isSome then a
    else
      let noise := if dRound d then some (fun k => noiseValue key base (e.2.2 * 2048 + k)) else none
      let y := quantiseOne a.1 o d e.1 e.2.1 noise
      let cnt := min n (dF d - e.2.1 * n)
      let s := if dRound d then bump y.1.s (.blk blk.val) Reg.BLK_NOISE_COUNT_BLOCKS (cdiv cnt 32) else y.1.s
      ({ y.1 with s := s }, a.2 + y.2)) (x, 0)

/-- QUANTISE (R117, R184). -/
def quantise (s : Chip) (o : Origin) (blk : Fin 256) (b : Body) : Chip :=
  if blockFenced s blk.val then s
  else if bw b 0x10 % 32 ≠ 0 then burnDone (faultPad s o 0x3B (o.quad.val / 4) (bw b 0x10)) o blk 3 b 0
  else
    let e := quantiseCheck (startRd s) o b
    if e.1.bad.isSome then burnDone (closeRd e.1 o blk.val) o blk 3 b 0
    else
      let r := quantiseWork e.1 o blk b e.2
      burnDone (closeRd r.1 o blk.val) o blk 3 b r.2

/-! ### Storms (R129, R130, R142) -/

/-- The storm count of a partition resets (R129). -/
def stormReset (s : Chip) (p : Nat) : Chip :=
  let pg := Page.qf (leadQuad s p)
  let mine := quadsOf s p
  let s := wrAll s pg [(Reg.QF_STORM_STAT_COUNT, 0), (Reg.QF_STORM_STAT_STORMED, 0)]
  { s with prec := { s.prec with
      stormSent := s.prec.stormSent.filter (fun q => !(mine.contains q)),
      stormed := s.prec.stormed.filter (fun q => !(mine.contains q)) } }

/-- One widen event has come over the Cox line. -/
def widenNoted (s : Chip) (p sent : Nat) : Chip := { s with prec := { s.prec with widenSent := tset s.prec.widenSent p (sent - 1) } }

/-- WIDEN_EVENT_NOTICE (R129, R130): the lead quad front counts one widen event on its way to it. -/
def widenEventNotice (s : Chip) (p : Nat) : Chip :=
  let sent := tgetD s.prec.widenSent p 0
  if sent = 0 ∨ leadQuad s p ≥ 16 then s
  else widenCounted (widenNoted s p sent) p

/-- The notice of a storm reaches quad `q`. -/
def quadStormed (s : Chip) (q : Nat) : Chip :=
  { s with prec := { s.prec with stormSent := kdel s.prec.stormSent q, stormed := kadd s.prec.stormed q } }

/-- STORM_NOTICE (R130): a quad front receives the notice that is on its way to it. -/
def stormNotice (s : Chip) (q : Nat) : Chip := if kmem s.prec.stormSent q then quadStormed s q else s

/-- The length of a partition's storm window, in nanoseconds. -/
def stormLength (s : Chip) (p : Nat) : Nat :=
  let us := rd s (.qf (leadQuad s p)) Reg.QF_STORM_CFG_PERIOD
  (if us = 0 then 65536 else us) * 1000

/-- The storm window rolls over: its counts start again, at the last boundary that has passed. -/
def stormRolled (s : Chip) (p len start : Nat) : Chip :=
  let s := stormReset s p
  { s with prec := { s.prec with stormAt := tset s.prec.stormAt p (start + (s.now - start) / len * len) } }

/-- STORM_WINDOW_ROLLOVER (R129): while the partition runs no serving steps, the count resets at the end of each window. -/
def stormWindowRollover (s : Chip) (p : Nat) : Chip :=
  if partState s p = 0 ∨ servingOn s p then s
  else
    let start := tgetD s.prec.stormAt p 0
    if s.now < start + stormLength s p then s else stormRolled s p (stormLength s p) start

end Sys2Proof.Machine
end

