-- ==== Sys2Proof/Machine/FinUnit.lean ====
section
/-!
DEFINITION. The Fin unit (04): its operations (R135 to R138), the BF16 rung (R128), and errors of engine buffer rows
(R438).
-/
namespace Sys2Proof.Machine

/-! ### Engine buffer rows (R438, Table 15-4) -/

/-- An error of a buffer row of engine number `e`, reported by page `pg` (R438): a corrected one counts towards the row's
threshold, and the row is spared where a spare is left. -/
def bufferError (s : Chip) (pg : Page) (e : Nat) (x : BufferError) (ce ue : Field × Nat) (region : Nat) : Chip :=
  if x.uncorrectable then
    report s pg ue.1 { plainNote pg .deferred ue.2 with region := region, detail := x.row.val }
  else
    let s := report s pg ce.1 { plainNote pg .corrected ce.2 with region := region, detail := x.row.val }
    let r := resRow e x.row.val
    let len := msNs (rd s .fc Reg.FC_THRESH_CFG_WINDOW)
    let s := countEvent s r len false
    if (windowNow s r len).ce ≥ orFull (rd s .fc Reg.FC_THRESH_CFG_THRESH) then
      let used := tgetD s.faults.spares e 0
      let s := closeWindow s r
      if used < 4 then
        send { s with faults := { s.faults with spares := tset s.faults.spares e (used + 1) } } pg
          { plainNote pg .corrected 0xA8 with region := region, detail := x.row.val }
      else send s pg { plainNote pg .deferred 0xA9 with region := region, detail := x.row.val }
    else s

/-- The errors that an engine's operation meets, and its armed injections, bits 0 and 1 of ERR_INJECT (R488). -/
def bufferMeets (s : Chip) (pg : Page) (l : List BufferError) (f : Chip → BufferError → Chip) : Chip :=
  let arm := rd s pg Reg.ERR_INJECT_ARM
  let fired : List BufferError := (if bit arm 0 then [{ row := 0, uncorrectable := false }] else [])
    ++ (if bit arm 1 then [{ row := 0, uncorrectable := true }] else [])
  (l ++ fired).foldl f (wr s pg Reg.ERR_INJECT_ARM (arm - arm % 4))

/-- The Fin unit's number among the engines with buffer rows (R438). -/
def finBuffer (q : Nat) : Nat := 512 + q

/-- A Rein engine's number among them. -/
def reinBuffer (r : Nat) : Nat := 560 + r

/-- A Skive engine's number among them. -/
def skiveBuffer (r : Nat) : Nat := 564 + r

/-- An error of the Fin unit's operand buffer (Table 04-11). -/
def finError (s : Chip) (q : Nat) (x : BufferError) : Chip :=
  let s := bump s (.fin q) (if x.uncorrectable then Reg.FIN_ECC_STAT_UE else Reg.FIN_ECC_STAT_CE) 1
  bufferError s (.fin q) (finBuffer q) x (Reg.FIN_ERR_STAT_ECC_CE, 0x31) (Reg.FIN_ERR_STAT_ECC_UE, 0x32) (q / 4)

/-! ### Commands (R135 to R138, R185) -/

/-- Fields of a FIN body (R185). -/
def finOp (b : Body) : Nat := bf b 0x30 15 14
def finM (b : Body) : Nat := bf b 0x2C 31 16 + 1
def finK (b : Body) : Nat := bf b 0x2C 15 0 + 1
def finN (b : Body) : Nat := bf b 0x30 31 16 + 1
def finDevice (b : Body) : Bool := bb b 0x30 8
def finB (b : Body) : Nat := if finDevice b then bw b 0x14 + bw b 0x38 * 2 ^ 32 else bw b 0x14

/-- Bytes of an element of C. -/
def finCSize (b : Body) : Nat := if bf b 0x30 11 10 = 1 then 2 else 4

/-- Parameters out of range (R135, R137): formats that the operation does not take, and MATMUL_TRIT from device memory. -/
def finInvalid (b : Body) : Bool :=
  let a := bf b 0x30 13 12
  let c := bf b 0x30 11 10
  match finOp b with
  | 0 => decide (a > 1) || decide (c > 1)
  | 1 => a != 2 || c != 2
  | 2 => decide (a > 1) || decide (c > 1) || finDevice b
  | _ => decide (c > 1)

/-- Cycles of a Fin operation (R138). -/
def finCycles (b : Body) : Nat :=
  match finOp b with
  | 1 => cdiv (finK b) 128 * cdiv (finN b) 64 * max (finM b) 16 + 40
  | 3 => finM b * cdiv (2 * finK b) 256 + 40
  | _ => cdiv (finK b) 64 * cdiv (finN b) 64 * max (finM b) 16 + 40

/-- The Fin unit of an origin. -/
def finOf (o : Origin) : Engine := .fin o.quad

/-- A Fin command is done after its cycles. -/
def finDone (s : Chip) (o : Origin) (b : Body) (n : Nat) : Chip :=
  let s := bump64 s (.fin o.quad.val) Reg.FIN_BUSY_LO_BUSY_LO Reg.FIN_BUSY_HI_BUSY_HI n
  finish (charge s (finOf o) o n) o (finOf o) 4 b

/-- A Fin command's job faults with FIN_DESC_INVALID, reported by the Fin page (Table 04-16). -/
def finFault (s : Chip) (o : Origin) (b : Body) : Chip :=
  finDone (faultJob s (.fin o.quad.val) (some Reg.FIN_ERR_STAT_JOB_FAULT) o 0x30 none) o b 0

/-- Record a condition of MATMUL_TRIT in FIN_FMT_FLAGS (R136, R143). -/
def finFmt (s : Chip) (q code : Nat) : Chip :=
  let pg := Page.fin q
  let v := rd s pg Reg.FIN_FMT_FLAGS_FLAG
  if bit v (code - 1) then s else setFlag (wr s pg Reg.FIN_FMT_FLAGS_FLAG (v + 2 ^ (code - 1))) pg Reg.FIN_IRQ_STAT_FMT

/-- The end of a Fin command's reader: its conditions, the poison that it consumed (R23), its fault. -/
def finClose (x : Rd) (o : Origin) : Chip :=
  let s := consumed (x.counts.foldl (fun t e => finFmt t o.quad.val e.1) x.s) (.fin o.quad.val) o x.ate
  let s := if x.tainted then markPoisoned s o else s
  match x.bad with
  | none => s
  | some (code, a) =>
    if code = 0x3B ∨ code = 0x3C then faultPad s o code (o.quad.val / 4) (a.getD 0)
    else if code = 0x30 then faultJob s (.fin o.quad.val) (some Reg.FIN_ERR_STAT_JOB_FAULT) o code none
    else faultJob s (.fin o.quad.val) none o code (a.map (fun v => (1, v)))

/-- Read the rows `l` (start addresses) of `n` elements of `size` bytes, in scratchpad or device memory. -/
def readRows (x : Rd) (o : Origin) (device : Bool) (n size : Nat) (l : List Nat) : Rd × List (List (Nat × Bool)) :=
  l.foldl (fun (a : Rd × List (List (Nat × Bool))) r =>
    if device then
      let s := readMeets (chargeRun a.1.s o.part.val r (n * size)) r (n * size) (some o)
      let y := { a.1 with s := s }
      let y := match firstBad s r (n * size) with
        | some w => y.note 0 w
        | none => y
      (y, a.2 ++ [(List.range n).map (fun i => (memNat s (r + i * size) size, lineBad s (r + i * size)))])
    else
      let e := a.1.values o r n size
      (e.1, a.2 ++ [e.2])) (x, [])

/-- Write a row of values of `size` bytes at `a`, whole 64-bit words at a time, poisoned where any value is. -/
def Rd.putRow (x : Rd) (o : Origin) (a size : Nat) (l : List (Nat × Bool)) : Rd :=
  if l.isEmpty then x
  else
    let bytes := l.flatMap (fun e => toBytes size e.1)
    let bad := l.flatMap (fun e => List.replicate size e.2)
    let n := bytes.length
    (span (a / 8) ((a + n - 1) / 8 + 1 - a / 8)).foldl (fun x w =>
      let lo := max a (w * 8)
      let hi := min (a + n) (w * 8 + 8)
      x.put o lo ((bytes.drop (lo - a)).take (hi - lo)) (((bad.drop (lo - a)).take (hi - lo)).any id)) x

/-- An FP32 code in the format of C, and back. -/
def toC (b : Body) (v : Nat) : Nat := if bf b 0x30 11 10 = 1 then convert f32 bf16 v else v
def fromC (b : Body) (v : Nat) : Nat := if bf b 0x30 11 10 = 1 then convert bf16 f32 v else v

/-- A left operand element as a number: BF16, or FP32 converted to BF16 as read (Table 04-8). -/
def finA (b : Body) (v : Nat) : Num := if bf b 0x30 13 12 = 1 then unpack bf16 (convert f32 bf16 v) else unpack bf16 v

/-- A dot product in ascending K order, FP32 after each addition, from `acc` (R136). -/
def dotFp (acc : Nat) (l : List (Num × Num)) : Nat :=
  l.foldl (fun a e => pack f32 (numAdd (unpack f32 a) (unpack f32 (pack f32 (numMul e.1 e.2))))) acc

/-- A dot product of INT8 elements in INT32, from `acc` (R136); a sum beyond the range wraps modulo 2^32 (DESIGN
CHOICE, log 122). -/
def dotInt (acc : Nat) (l : List (Nat × Nat)) : Nat :=
  unsigned 32 (l.foldl (fun (a : Int) e => a + signed 8 e.1 * signed 8 e.2) (signed 32 acc))

/-- One element of C: from row `a` of A and the column elements `w` of B, starting from `c` where it accumulates. -/
def finElem (b : Body) (a : List (Nat × Bool)) (w : List (Num × Nat × Bool)) (c : Nat × Bool) : Nat × Bool :=
  let bad := a.any (fun e => e.2) || w.any (fun e => e.2.2) || c.2
  if finOp b = 1 then (dotInt c.1 (List.zipWith (fun x y => (x.1, y.2.1)) a w), bad)
  else (toC b (dotFp (fromC b c.1) (List.zipWith (fun x y => (finA b x.1, y.1)) a w)), bad)

/-- Write C row by row (R136): `elem m n c` is the element from its starting value. -/
def writeC (x : Rd) (o : Origin) (b : Body) (cols : Nat) (elem : Nat → Nat → Nat × Bool → Nat × Bool) : Rd :=
  (List.range (finM b)).foldl (fun x m =>
    if x.bad.isSome then x
    else
      let a := bw b 0x18 + m * bw b 0x28
      let old : Rd × List (Nat × Bool) := if bb b 0x30 9 then x.values o a cols (finCSize b) else (x, List.replicate cols (0, false))
      old.1.putRow o a (finCSize b) ((List.range cols).map (fun n => elem m n (old.2.getD n (0, false))))) x

/-- The matrix operations (R135 to R137). `poison`: an uncorrectable buffer word reaches the results. -/
def finMatmul (x : Rd) (o : Origin) (b : Body) (poison : Bool) : Rd :=
  let sz := if finOp b = 1 then 1 else if bf b 0x30 13 12 = 1 then 4 else 2
  let a := readRows x o false (finK b) sz ((List.range (finM b)).map (fun m => bw b 0x10 + m * bw b 0x20))
  let row := fun m => (a.2.getD m []).map (fun e => (e.1, e.2 || poison))
  if finOp b = 2 then
    let t := a.1.tile o (finB b) true
    if t.1.bad.isNone && !t.2.image.isEmpty && (decide (finK b > t.2.rows) || decide (finN b > t.2.cols)) then t.1.stop 0x30 none
    else if t.1.bad.isSome then t.1
    else writeC t.1 o b (finN b) (fun m n c => finElem b (row m)
      ((List.range (finK b)).map (fun k => (numInt (t.2.weight n k), 0, t.2.poisoned || kmem t.2.badRows k))) c)
  else
    let bs := if finOp b = 1 then 1 else 2
    let w := readRows a.1 o (finDevice b) (finN b) bs ((List.range (finK b)).map (fun k => finB b + k * bw b 0x24))
    writeC w.1 o b (finN b) (fun m n c => finElem b (row m) (w.2.map (fun r =>
      let e := r.getD n (0, false)
      (unpack bf16 e.1, e.1, e.2))) c)

/-- The row identifiers of GATHER_ROWS; one out of range stops the command before any row is copied (R136). -/
def readIds (x : Rd) (o : Origin) (b : Body) : Rd × List (Nat × Bool) :=
  let e := x.values o (bw b 0x1C) (finM b) 4
  if e.2.any (fun i => !i.2 && decide (i.1 ≥ bw b 0x34)) then (e.1.stop 0x30 none, e.2) else (e.1, e.2)

/-- GATHER_ROWS (R135, R136). A poisoned identifier gives a poisoned row. -/
def finGather (x : Rd) (o : Origin) (b : Body) (poison : Bool) : Rd :=
  let ids := readIds x o b
  if ids.1.bad.isSome then ids.1
  else
    let rows := readRows ids.1 o (finDevice b) (finK b) 2
      (ids.2.map (fun i => finB b + (if i.2 then 0 else i.1) * bw b 0x24))
    writeC rows.1 o b (finK b) (fun m n c =>
      let e := (rows.2.getD m []).getD n (0, false)
      let bad := e.2 || poison || (ids.2.getD m (0, false)).2 || c.2
      if bb b 0x30 9 then (toC b (fAdd f32 (fromC b c.1) (convert bf16 f32 e.1)), bad)
      else (if bf b 0x30 11 10 = 1 then e.1 else e.1 * 2 ^ 16, bad))

/-- The device rows that a Fin command reads: start, length, written. -/
def finRuns (x : Rd) (o : Origin) (b : Body) : List (Nat × Nat × Bool) :=
  if !(finDevice b) then []
  else if finOp b = 3 then
    (readIds x o b).2.map (fun i => (finB b + (if i.2 then 0 else i.1) * bw b 0x24, 2 * finK b, false))
  else (List.range (finK b)).map (fun k => (finB b + k * bw b 0x24, finN b * (if finOp b = 1 then 1 else 2), false))

/-- The arithmetic of a FIN whose operands are checked, in its mode, with the buffer errors it meets. -/
def finWork (s : Chip) (o : Origin) (b : Body) (met : List BufferError) : Rd :=
  let poison := met.any (fun e => e.uncorrectable) || bit (rd s (.fin o.quad.val) Reg.ERR_INJECT_ARM) 1
  let s := bufferMeets s (.fin o.quad.val) met (fun t e => finError t o.quad.val e)
  if finOp b = 3 then finGather (startRd s) o b poison else finMatmul (startRd s) o b poison

/-- The fault of a gather's ids, which are checked before anything else of the command is done. -/
def finIdsBad (s : Chip) (o : Origin) (b : Body) : Bool :=
  decide (finOp b = 3) && (readIds (startRd s) o b).1.bad.isSome

/-- FIN (R135 to R138, R185). -/
def fin (s : Chip) (o : Origin) (b : Body) (met : List BufferError) : Chip :=
  if finInvalid b then finFault s o b
  else if finIdsBad s o b then finDone (finClose (readIds (startRd s) o b).1 o) o b 0
  else
    let runs := finRuns (startRd s) o b
    match runs.find? (fun r => (memRefusal s o.part.val r.1 r.2.1 false).isSome) with
    | some r => finDone (faultMem s o ((memRefusal s o.part.val r.1 r.2.1 false).getD 0x78) r.1) o b 0
    | none =>
      if runsWait s o.part.val [runs] then runsHeld s o.part.val [runs]
      else finDone (finClose (finWork s o b met) o) o b (finCycles b)

/-! ### The BF16 rung (R128) -/

/-- The tile row of row `j` of a BF16 entry's unit `u` (R124, R128). -/
def rungRow (i : FinItem) (u j : Nat) : Int :=
  ((bits i.entry.2.2.2 31 16 + 128 * u + j : Nat) : Int) - rowShift i.body i.tile

/-- The units of a BF16 entry that have a row in the tile. -/
def rungUnits (i : FinItem) : List Nat :=
  (List.range (bits i.entry.1 25 16)).filter (fun u =>
    decide (0 ≤ rungRow i u 127 ∧ rungRow i u 0 < ((32 * nseg i.tile : Nat) : Int)))

/-- The rows of a BF16 entry that lie in the tile: tile row and BF16 code, ascending, and whether any was poisoned. -/
def rungValues (x : Rd) (i : FinItem) : Rd × List (Nat × Nat) × Bool :=
  let e := i.entry
  (rungUnits i).foldl (fun (a : Rd × List (Nat × Nat) × Bool) u =>
    let v := a.1.values i.origin (e.2.2.1 + 256 * u) 128 2
    let l := (List.range 128).filterMap (fun j =>
      let r := rungRow i u j
      if 128 * u + j < bits e.2.2.2 15 0 ∧ 0 ≤ r ∧ r < ((32 * nseg i.tile : Nat) : Int)
      then some (r.toNat, (v.2.getD j (0, false)).1) else none)
    (v.1, a.2.1 ++ l, a.2.2 || v.2.any (fun e => e.2))) (x, [], false)

/-- The lanes of an item's slot once its widened rungs are added, column by column. A weight of zero adds nothing, whatever the
value (DESIGN CHOICE, log 122: R128 does not speak of zero times an infinity or a NaN). -/
def widenLanes (s : Chip) (i : FinItem) (rungs : List (Nat × Nat)) : AccRun :=
  let narrow := bb i.body 0x20 23
  let w := i.tile.weight
  (List.range i.tile.cols).foldl (fun (r : AccRun) c =>
    let sum := rungs.foldl (fun a e =>
      if w c e.1 = 0 then a else dotFp a [(numInt (w c e.1), unpack bf16 e.2)]) 0
    if bits sum 30 0 = 0 then r else accApply r i.blk narrow i.slot c (fun l a => keeperAdd narrow l a sum))
    { x := block s i.blk, renorms := 0, specials := 0 }

/-- An item that the Fin unit `q` carries out, with the buffer errors it meets: it reads the item's rungs, adds to the lanes,
counts, and the pass that sent its last item is done. Poison of the unit, of the tile or of a buffer row reaches the words it
feeds (R128, R140). -/
def widenItem (s : Chip) (q : Fin 16) (i : FinItem) (met : List BufferError) : Chip :=
  let o := i.origin
  let narrow := bb i.body 0x20 23
  let poison := met.any (fun e => e.uncorrectable) || bit (rd s (.fin q.val) Reg.ERR_INJECT_ARM) 1
  let s := handTo s o (engineAt i.blk true) 1 i.body
  let v := rungValues (startRd (bufferMeets s (.fin q.val) met (fun t e => finError t q.val e))) i
  let r := widenLanes v.1.s i v.2.1
  let bad := v.2.2 || i.tile.poisoned || poison
  let x := if bad then poisonSlot (block v.1.s i.blk) narrow i.slot i.tile.cols else r.x
  let s := setBlock v.1.s i.blk (fun _ => x)
  let s := if bad then markPoisoned s o
    else countFmt (countFmt s i.blk o.tag.toNat 0x17 r.renorms) i.blk o.tag.toNat 0x18 r.specials
  let s := finClose { v.1 with s := s } o
  let n := cdiv v.2.1.length 64 * cdiv i.tile.cols 64 * 16 + 40
  let s := bump64 s (.fin q.val) Reg.FIN_BUSY_LO_BUSY_LO Reg.FIN_BUSY_HI_BUSY_HI n
  let s := bump (charge s (.fin q) o n) (.fin q.val) Reg.FIN_WIDEN_COUNT_UNITS (rungUnits i).length
  let s := stampEngine s (.fin q)
  if s.prec.items.any (fun j => j.origin == i.origin && j.body == i.body && j.blk == i.blk) then s
  else wr (finish s o (engineAt i.blk true) 1 i.body) (.blk i.blk) Reg.BLK_ISSUE_WIDTH 0

/-- An item leaves the Fin units' list. -/
def dropItem (s : Chip) (i : FinItem) : Chip := { s with prec := { s.prec with items := s.prec.items.erase i } }

/-- FIN_WIDEN_ITEM (R128): the oldest BF16 item of the quad is computed and added as a keeper sum. -/
def finWidenItem (s : Chip) (q : Fin 16) (met : List BufferError) : Chip :=
  match s.prec.items.find? (fun i => i.blk / 16 == q.val) with
  | none => s
  | some i =>
    if rd s (.fin q.val) Reg.FIN_CFG_WIDEN_FIRST = 0 ∧ !((readyJobs s (.fin q)).isEmpty) then s
    else if blockFenced s i.blk then dropItem s i
    else widenItem (dropItem s i) q i met

end Sys2Proof.Machine
end

