-- ==== Sys2Proof/Machine/Codec.lean ====
section
/-!
DEFINITION. The Skive engine's code (R297 to R301): byte mapping, symbol classes, canonical code tables, and encoding and
decoding one block. Bits stand in lists, first bit first.
-/
namespace Sys2Proof.Machine

/-! ### Bytes and classes (R297, R298) -/

/-- The mapped value of a byte (R297). -/
def skvMap (map : Bool) (v : Nat) : Nat := if !map then v else if v < 128 then 2 * v else 511 - 2 * v

/-- The byte of a mapped value. -/
def skvUnmap (map : Bool) (m : Nat) : Nat := if !map then m else if m % 2 = 0 then m / 2 else 255 - m / 2

/-- A symbol: its class, its extra value, and the number of extra bits (Table 10-1). -/
abbrev Sym := Nat × Nat × Nat

/-- The symbol of a mapped literal `m` from 1 to 255. -/
def literalSym (m : Nat) : Sym :=
  if m ≤ 16 then (m - 1, 0, 0)
  else if m ≤ 32 then (16, m - 17, 4)
  else if m ≤ 64 then (17, m - 33, 5)
  else if m ≤ 128 then (18, m - 65, 6)
  else (19, m - 129, 7)

/-- The symbol of a run of `n` zero bytes, `n` from 1 to 4,096. -/
def runSym (n : Nat) : Sym :=
  if n ≤ 16 then (31 + n, 0, 0)
  else
    let j := Nat.log2 (n - 1) - 4
    (48 + j, n - (2 ^ (j + 4) + 1), j + 4)

/-- The symbols of a block: `z` counts the zero bytes of the run so far (R298). -/
def symsFrom (map : Bool) (z : Nat) : List Byte → List Sym
  | [] => if z = 0 then [] else [runSym z]
  | v :: l =>
    if v = 0 then symsFrom map (z + 1) l
    else (if z = 0 then [] else [runSym z]) ++ literalSym (skvMap map v.toNat) :: symsFrom map 0 l

/-- The symbols of a block. -/
def blockSyms (map : Bool) (l : List Byte) : List Sym := symsFrom map 0 l

/-- Is the class one of Table 10-1? -/
def classUsed (c : Nat) : Bool := c ≤ 19 || (32 ≤ c && c ≤ 55)

/-! ### Code tables (R299) -/

/-- The classes' lengths in a 32-byte LENGTHS field (Table 10-2). -/
def lengthsOf (l : List Byte) : List Nat :=
  (List.range 64).map (fun c => (if c % 2 = 0 then (l.getD (c / 2) 0).toNat else (l.getD (c / 2) 0).toNat / 16) % 16)

/-- The 32 bytes of a LENGTHS field. -/
def lengthBytes (t : List Nat) : List Byte :=
  (List.range 32).map (fun i => BitVec.ofNat 8 (t.getD (2 * i) 0 % 16 + t.getD (2 * i + 1) 0 % 16 * 16))

/-- Is the table valid (R299)? -/
def tableValid (t : List Nat) : Bool :=
  (List.range 64).all (fun c => classUsed c || t.getD c 0 == 0)
    && decide ((t.filter (fun n => n != 0)).foldl (fun a n => a + 2 ^ (15 - n)) 0 ≤ 2 ^ 15)

/-- The classes with a code, by length and then by class number. -/
def sortedClasses (t : List Nat) : List (Nat × Nat) :=
  (span 1 15).flatMap (fun n => ((List.range 64).filter (fun c => t.getD c 0 == n)).map (fun c => (n, c)))

/-- The canonical codes after a code of length `len` and value `code`: length, code, class (R299). -/
def assignCodes (len code : Nat) : List (Nat × Nat) → List (Nat × Nat × Nat)
  | [] => []
  | (n, c) :: l =>
    let v := code * 2 ^ (n - len)
    (n, v, c) :: assignCodes n (v + 1) l

/-- The canonical codes of a table. -/
def codesOf (t : List Nat) : List (Nat × Nat × Nat) := assignCodes 0 0 (sortedClasses t)

/-- The `n` bits of `v`, most significant first. -/
def bitsMsb (n v : Nat) : List Bool := (List.range n).map (fun i => bit v (n - 1 - i))

/-! ### Blocks (R300, R303) -/

/-- The bits of a symbol under a table's codes. -/
def symBits (codes : List (Nat × Nat × Nat)) (x : Sym) : List Bool :=
  match codes.find? (fun e => e.2.2 == x.1) with
  | some e => bitsMsb e.1 e.2.1 ++ bitsMsb x.2.2 x.2.1
  | none => []

/-- Bytes from bits, bit 7 first, the last filled with zeros; `n` bounds the bytes. -/
def packBits : Nat → List Bool → List Byte
  | 0, _ => []
  | n + 1, l =>
    if l.isEmpty then []
    else BitVec.ofNat 8 ((List.range 8).foldl (fun a i => 2 * a + (if l.getD i false then 1 else 0)) 0) :: packBits n (l.drop 8)

/-- The bits of bytes, bit 7 first. -/
def unpackBits (l : List Byte) : List Bool := l.flatMap (fun v => bitsMsb 8 v.toNat)

/-- A block's bits under a table. -/
def encodeBits (t : List Nat) (map : Bool) (l : List Byte) : List Byte :=
  let codes := codesOf t
  let b := (blockSyms map l).flatMap (symBits codes)
  packBits (b.length / 8 + 1) b

/-- Does every class of the block have a code? -/
def coversBlock (t : List Nat) (map : Bool) (l : List Byte) : Bool := (blockSyms map l).all (fun x => t.getD x.1 0 != 0)

/-- The class that the next bits name: its number and the bits after its code. -/
def nextClass (codes : List (Nat × Nat × Nat)) : Nat → Nat → Nat → List Bool → Option (Nat × List Bool)
  | 0, _, _, _ => none
  | _, _, _, [] => none
  | k + 1, n, v, b :: l =>
    let v := 2 * v + (if b then 1 else 0)
    match codes.find? (fun e => e.1 == n + 1 && e.2.1 == v) with
    | some e => some (e.2.2, l)
    | none => nextClass codes k (n + 1) v l

/-- Extra bits of a class. -/
def extraBits (c : Nat) : Nat :=
  if 16 ≤ c ∧ c ≤ 19 then c - 12 else if 48 ≤ c ∧ c ≤ 55 then c - 44 else 0

/-- The bytes that a class with extra value `x` stands for; none where it is damaged (R308). -/
def symBytes (map : Bool) (c x : Nat) : Option (List Byte) :=
  let lit := fun (m : Nat) => some [BitVec.ofNat 8 (skvUnmap map m)]
  if c ≤ 15 then lit (c + 1)
  else if c = 16 then lit (17 + x)
  else if c = 17 then lit (33 + x)
  else if c = 18 then lit (65 + x)
  else if c = 19 then (if x = 127 then none else lit (129 + x))
  else if 32 ≤ c ∧ c ≤ 47 then some (List.replicate (c - 31) 0)
  else if 48 ≤ c ∧ c ≤ 55 then some (List.replicate (2 ^ (c - 44) + 1 + x) 0)
  else none

/-- Decode symbols until `n` bytes are out; `fuel` bounds the symbols. The bytes before any damage, and whether there was
none (R308). -/
def decodeFrom (codes : List (Nat × Nat × Nat)) (map : Bool) : Nat → Nat → List Bool → List Byte × Bool
  | 0, n, _ => ([], n == 0)
  | k + 1, n, l =>
    if n = 0 then ([], true)
    else
      match nextClass codes 15 0 0 l with
      | none => ([], false)
      | some (c, l) =>
        let e := extraBits c
        if l.length < e then ([], false)
        else
          let x := (l.take e).foldl (fun a b => 2 * a + (if b then 1 else 0)) 0
          match symBytes map c x with
          | none => ([], false)
          | some out =>
            if out.length > n then ([], false)
            else
              let r := decodeFrom codes map k (n - out.length) (l.drop e)
              (out ++ r.1, r.2)

/-- Decode a block of `n` bytes: its bytes, zero after any damage, and whether there was none (R308). -/
def decodeBits (t : List Nat) (map : Bool) (l : List Byte) (n : Nat) : List Byte × Bool :=
  let r := decodeFrom (codesOf t) map n n (unpackBits l)
  (r.1 ++ List.replicate (n - r.1.length) 0, r.2)

/-! ### The engine's choice of lengths (R301) -/

/-- How often each class occurs in blocks. -/
def classCounts (map : Bool) (l : List (List Byte)) : List Nat :=
  let syms := l.flatMap (blockSyms map)
  (List.range 64).map (fun c => (syms.filter (fun x => x.1 == c)).length)

/-- A valid table for the counts: length 6 for every class that occurs. -/
def flatLengths (counts : List Nat) : List Nat := counts.map (fun n => if n = 0 then 0 else 6)

/-- Is the table one that a scan may build: valid, and with a length for just the classes that occur (R301)? -/
def lengthsFit (t counts : List Nat) : Bool :=
  t.length == 64 && t.all (fun n => n ≤ 15) && tableValid t
    && (List.range 64).all (fun c => (t.getD c 0 == 0) == (counts.getD c 0 == 0))

/-- The table of a scan: the engine's own choice, which is not part of the contract (R301). -/
def scanTable (counts : List Nat) : List Nat :=
  if lengthsFit (Config.skvLengths counts) counts then Config.skvLengths counts else flatLengths counts

end Sys2Proof.Machine
end

