-- ==== Sys2Proof/Machine/Twin.lean ====
section
/-!
DEFINITION. Mirroring to the twin (R426 to R428): when it is active, and sending mirrored writes.
-/
namespace Sys2Proof.Machine

/-- The role of a partition: 0 NONE, 1 PRIMARY, 2 STANDBY (R426). -/
def twinRole (s : Chip) (p : Nat) : Nat := rd s (.srn 0) (Reg.SRN_PART_CFG_TWIN_ROLE p)

/-- The crew tag of a partition. -/
def crewTag (s : Chip) (p : Nat) : Nat := rd s (.srn 0) (Reg.SRN_PART_CFG_CREW_TAG p)

/-- The state of a port's link (Table 14-2). -/
def linkState (s : Chip) (port : Nat) : Nat := rd s (.srn port) Reg.SRN_LINK_STAT_STATE

/-- Word `n` of the partner's crew card at a port. -/
def partnerWord (s : Chip) (port n : Nat) : Nat := rd s (.srn port) (Reg.SRN_PARTNER_CARD_WORD n)

/-- The configuration epoch. -/
def epochNow (s : Chip) : Nat := rd s (.srn 0) Reg.SRN_EPOCH_EPOCH

/-- Is mirroring active for the partition (R427)? -/
def mirrorOn (s : Chip) (p : Nat) : Bool :=
  twinRole s p == 1 && tgetD s.mesh.twinRoles (crewTag s p) 0 == 2 && linkState s 4 == 5
    && partnerWord s 4 3 == epochNow s

/-- Set a partition's MIRROR_LOST bit (R429). -/
def mirrorLost (s : Chip) (p : Nat) : Chip :=
  let v := rd s (.srn 0) Reg.SRN_TWIN_STAT_MIRROR_LOST
  if bit v p then s
  else setFlag (wr s (.srn 0) Reg.SRN_TWIN_STAT_MIRROR_LOST (v + 2 ^ p)) (.srn 0) Reg.SRN_IRQ_STAT_MIRROR_LOST

/-- A port with no cable, of which nothing is known. -/
def freshPort : SrnPort :=
  { cable := none, read := false, signal := false, dropped := [], cardSeen := false, retraining := false, txRest := 0, rxRest := 0 }

/-- A port's own state. -/
def srnPort (s : Chip) (port : Nat) : SrnPort := tgetD s.mesh.ports port freshPort

/-- Change a port's own state. -/
def setPort (s : Chip) (port : Nat) (f : SrnPort → SrnPort) : Chip :=
  { s with mesh := { s.mesh with ports := tmod s.mesh.ports port freshPort f } }

/-- Count payload bytes that leave through a port, in units of 4 KiB (Table 14-7). -/
def countTx (s : Chip) (port n : Nat) : Chip :=
  let t := (srnPort s port).txRest + n
  bumpWrap (setPort s port (fun x => { x with txRest := t % 4096 })) (.srn port) Reg.SRN_TX_UNITS_UNITS (t / 4096)

/-- Count payload bytes that arrive at a port. -/
def countRx (s : Chip) (port n : Nat) : Chip :=
  let t := (srnPort s port).rxRest + n
  bumpWrap (setPort s port (fun x => { x with rxRest := t % 4096 })) (.srn port) Reg.SRN_RX_UNITS_UNITS (t / 4096)

/-- The bytes of a mirrored write on the link (R422): four depths of 32 bits, or an image of 128 bytes (DESIGN CHOICE, log 123). -/
def mirrorLen : Mirror → Nat
  | .bytes _ d => d.bytes.length
  | .depths _ _ _ _ => 16
  | .image _ _ _ => 128

/-- Send one mirrored write, which waits for its acknowledgement for command number `cmd`, or for the finish (R427). -/
def mirrorOne (cmd : Option Nat) (p : Nat) (s : Chip) (w : Mirror) : Chip :=
  let x : Xfer := { id := s.mesh.nextXfer, part := p, who := none, kind := .mirror cmd, started := s.now, port := 4 }
  let s := { s with mesh := { s.mesh with xfers := s.mesh.xfers ++ [x], nextXfer := s.mesh.nextXfer + 1 } }
  emit (countTx s 4 (mirrorLen w)) (.mirror (crewTag s p) (epochNow s % 2 ^ 16) x.id w)

/-- A partition's mirrored writes go out in the order made; a PRIMARY that does not mirror loses them (R427, R429). -/
def mirrorAll (s : Chip) (p : Nat) (cmd : Option Nat) (l : List Mirror) : Chip :=
  if l.isEmpty then s
  else if mirrorOn s p then l.foldl (mirrorOne cmd p) s
  else if twinRole s p = 1 then mirrorLost s p
  else s

/-- Does command number `n` still wait for the twin (R427)? -/
def mirrorWaits (s : Chip) (n : Nat) : Bool := s.mesh.xfers.any (fun x => x.kind == .mirror (some n))

/-- Does a finish of the partition still wait for the twin (R427)? -/
def finishWaits (s : Chip) (p : Nat) : Bool := s.mesh.xfers.any (fun x => x.part == p && x.kind == .mirror none)

end Sys2Proof.Machine
end

