-- ==== Sys2Proof/Machine/Reader.lean ====
section
/-!
DEFINITION. Reading and writing device addresses with the reader of Tile: the access check of each run (R323), what waits
and what is charged (R327), and the units of the full-size-slot channels (R309 to R313).
-/
namespace Sys2Proof.Machine

/-! ### Runs of device addresses -/

/-- Has the reader stopped or begun to wait? -/
def Rd.ended (x : Rd) : Bool := x.bad.isSome || x.hold.isSome

/-- A run of `n` bytes at `a` is admitted for partition `p`: the reader stops at a refused access, or waits, or the run is
added to what its command moves. -/
def Rd.girthAdmit (x : Rd) (p a n : Nat) (write : Bool) : Rd :=
  if x.ended || n = 0 then x
  else
    let k := runPrefix x.s p a n write
    let t := runUnits x.granted [(a, k)]
    if !(unitsGo x.s p t) || granuleBusy x.s a k then { x with hold := some t }
    else
      match memRefusal x.s p a n write with
      | some c => x.stop c (some (a + k))
      | none => { x with granted := t }

/-- Read `n` bytes of partition `p` at device address `a`: the bytes as stored, and whether a line of them is poisoned. -/
def Rd.dev (x : Rd) (p : Nat) (who : Option Origin) (a n : Nat) : Rd × List Byte × Bool :=
  let x := x.girthAdmit p a n false
  if x.ended then (x, List.replicate n 0, false)
  else
    let s := readMeets x.s a n who
    ({ x with s := s }, memRead s a n, runBad s a n)

/-- The bytes `l` read from `a`, those of poisoned lines replaced by free values of draw `d`. -/
def freeLines (s : Chip) (d a : Nat) (l : List Byte) : List Byte :=
  (l.zip (span a l.length)).map (fun e => if lineBad s e.2 then Config.freeByte d e.2 else e.1)

/-- Read a structure that decides what the reader does next: where a line of it is poisoned, the line's bytes are free values
(R72). -/
def Rd.devFree (x : Rd) (p : Nat) (who : Option Origin) (a n : Nat) : Rd × List Byte × Bool :=
  let e := x.dev p who a n
  if e.2.2 then
    let d := draw e.1.s
    ({ e.1 with s := d.2 }, freeLines e.1.s d.1 a e.2.1, true)
  else e

/-- The same for a structure in scratchpad. -/
def Rd.padFree (x : Rd) (o : Origin) (a n : Nat) : Rd × List Byte × Bool :=
  let e := x.read o a n
  if e.2.2 then
    let d := draw e.1.s
    ({ e.1 with s := d.2 }, (span a n).map (Config.freeByte d.1), true)
  else e

/-- Write bytes of partition `p` at device address `a`, poison in the parts `marks` (R23), as a write that no twin sees; the
accesses before a refused one are made (R323). -/
def Rd.plainMarked (x : Rd) (p a : Nat) (l : List Byte) (marks : List (Nat × Nat)) : Rd :=
  if x.ended then x
  else
    let n := runPrefix x.s p a l.length true
    let y := x.girthAdmit p a l.length true
    if y.hold.isSome || n = 0 then y
    else
      let s := (clipRuns n marks).foldl (fun t m => poisonRun t (a + m.1) m.2) (memPut y.s a (l.take n))
      let y := if y.bad.isSome then { y with granted := runUnits y.granted [(a, n)] } else y
      ({ y with s := s }).taint (!(clipRuns n marks).isEmpty)

/-- The same, poisoned as a whole where `bad`. -/
def Rd.plainPut (x : Rd) (p a : Nat) (l : List Byte) (bad : Bool) : Rd :=
  x.plainMarked p a l (if bad then [(0, l.length)] else [])

/-- The same as a write that R427 mirrors. -/
def Rd.devPutLines (x : Rd) (p a : Nat) (l : List Byte) (bad : Keys) : Rd :=
  let y := x.plainMarked p a l (bad.map (fun i => (64 * i, 64)))
  if y.ended then y else { y with sent := y.sent ++ [.bytes a { bytes := l, tags := [], bad := bad }] }

/-- The same, where all of it is poison or none. -/
def Rd.devPut (x : Rd) (p a : Nat) (l : List Byte) (bad : Bool) : Rd :=
  x.devPutLines p a l (if bad then List.range (cdiv l.length 64) else [])

/-- The end of a reader's device runs for command number `cmd`: what it reached is charged, and its mirrored writes go out;
the state before the command, waiting, where it waits. -/
def Rd.settle (x : Rd) (s₀ : Chip) (p : Nat) (cmd : Option Nat) : Chip :=
  match x.hold with
  | some t => unitsWait s₀ p t
  | none => mirrorAll (unitsCharge x.s p x.granted) p cmd x.sent

/-- The bytes of a field of a structure, little-endian. -/
def field (l : List Byte) (off n : Nat) : Nat := ofBytes ((l.drop off).take n)

/-- The module once a refused device access is counted at the controller that checked it (R324). -/
def Rd.refused (x : Rd) : Chip :=
  match x.bad with
  | some (c, some a) => if 0x78 ≤ c ∧ c ≤ 0x7A then refuseAccess x.s a false else x.s
  | _ => x.s

/-- The reader goes on after accesses whose refusal faults no job: it is counted (R324), and `bad` stands as before. -/
def Rd.drop (x : Rd) (bad : Option (Nat × Option Nat)) : Rd := { x with s := if bad.isNone then x.refused else x.s, bad := bad }

/-! ### Slot form (R309 to R313) -/

/-- The slot context of partition `p` that region `r`'s engine has latched (R310). -/
def slotCtx (s : Chip) (r p : Nat) : Option SlotCtx := tget s.slots (16 * r + p)

/-- The stored form of a unit (R309): encoded where that takes at most 4,095 bytes, or raw; and its tag. -/
def slotForm (l : List Byte) : List Byte × Nat :=
  let map := Config.slotMap l
  let t := scanTable (classCounts map [l])
  let out := lengthBytes t ++ encodeBits t map l
  if out.length ≤ 4095 then (out, 2 ^ 31 + (if map then 2 ^ 28 else 0) + out.length) else (l, 0)

/-- Is a tag damaged by itself (R313): GEN, or the LENGTH of an encoded unit? -/
def tagDamaged (tag : Nat) : Bool := bits tag 30 29 != 0 || (bit tag 31 && decide (bits tag 11 0 < 33))

/-- The bytes of an encoded unit whose stored bytes begin with `l`; none where its tag is damaged (R313). -/
def slotDecode (tag : Nat) (l : List Byte) : Option (List Byte) :=
  let n := bits tag 11 0
  let t := lengthsOf l
  if tagDamaged tag || !(tableValid t) then none
  else
    let r := decodeBits t (bit tag 28) ((l.take n).drop 32) unitBytes
    if r.2 then some r.1 else none

/-- SKV_SLOT_CORRUPT (R313). -/
def slotCorrupt (s : Chip) (r p : Nat) (who : Option Origin) (a : Nat) : Chip :=
  report s (.skv r) Reg.SKV_ERR_STAT_SLOT_CORRUPT { plainNote (.skv r) .deferred 0x6F with
    part := some p, job := who.map (fun o => (o.queue.val, o.tag.toNat)), addr := some (0, a) }

/-- Does the engine's armed SLOT_CORRUPT fire at this read of a unit (R488)? It fires once. -/
def slotFires (s : Chip) (r : Nat) : Bool := bit (rd s (.skv r) Reg.ERR_INJECT_ARM) 3

/-- The armed SLOT_CORRUPT fires: the unit is reported damaged. -/
def slotFire (s : Chip) (r p : Nat) (who : Option Origin) (a : Nat) : Chip :=
  slotCorrupt (wr s (.skv r) Reg.ERR_INJECT_ARM (rd s (.skv r) Reg.ERR_INJECT_ARM - 8)) r p who a

/-- A unit that reaches its reader as poison (R313): 4 KiB of free bytes. -/
def Rd.lostUnit (x : Rd) (s : Chip) (a : Nat) : Rd × Option (List Byte) × Bool :=
  let d := draw s
  ({ x with s := d.2 }, some ((span a 4096).map (Config.freeByte d.1)), true)

/-- A channel reader reads the unit at `a` with its tag at `tag` (R311, R313): its bytes where they are not as stored, and
whether the whole unit is poison. A raw unit with poisoned lines is poison in those lines, which the caller finds by
address. -/
def Rd.unit (x : Rd) (p r : Nat) (who : Option Origin) (a tag : Nat) : Rd × Option (List Byte) × Bool :=
  let t := x.dev p who tag 4
  let v := ofBytes t.2.1
  let x := t.1
  if x.ended then (x, none, false)
  else if slotFires x.s r then x.lostUnit (slotFire x.s r p who a) a
  else if t.2.2 || tagDamaged v then x.lostUnit (slotCorrupt x.s r p who a) a
  else if !(bit v 31) then (x, none, false)
  else
    let e := x.dev p who a (bits v 11 0)
    if e.1.ended then (e.1, none, false)
    else
      let s := bump64 e.1.s (.skv r) Reg.SKV_BUSY_LO_BUSY Reg.SKV_BUSY_HI_BUSY 56
      if e.2.2 then e.1.lostUnit s a
      else
        match slotDecode v e.2.1 with
        | some l => ({ e.1 with s := s }, some l, false)
        | none => e.1.lostUnit (slotCorrupt s r p who a) a

/-- A channel writer writes a unit at `a` and then its tag (R309, R311); a unit of poison is stored raw (DESIGN CHOICE, log
79). -/
def Rd.putUnit (x : Rd) (p r : Nat) (a tag : Nat) (l : List Byte) (bad : Bool) (encode : Bool) : Rd :=
  let f := if encode && !bad then slotForm l else (l, 0)
  let x := x.devPut p a f.1 bad
  let x := x.devPut p tag (toBytes 4 f.2) false
  if x.ended then x else { x with s := countUnit x.s r (bit f.2 31) f.1.length }

end Sys2Proof.Machine
end

