-- ==== Sys2Proof/Machine/Walker.lean ====
section
/-!
DEFINITION. The page walkers (08): KV contexts and models (R229 to R231), walks and epochs (R246), the look-aside buffers
(R247, R248), frames and their counts (R245, R251, R252), lost allocator state (R517), and the edits of a page list (R249,
R250).
-/
namespace Sys2Proof.Machine

/-! ### What the allocator walker keeps -/

/-- A partition whose allocator walker has kept nothing yet. -/
def freshKvPart : KvPart :=
  { epoch := 0, freeA := 0, freeB := 0, headA := 0, headB := 0, tailA := 0, tailB := 0, models := [], rejected := [],
    lost := false }

/-- What the allocator walker keeps of partition `p`. -/
def kvPart (s : Chip) (p : Nat) : KvPart := tgetD s.kv.parts p freshKvPart

/-- Change what the allocator walker keeps of a partition. -/
def setKvPart (s : Chip) (p : Nat) (f : KvPart → KvPart) : Chip :=
  { s with kv := { s.kv with parts := tmod s.kv.parts p freshKvPart f } }

/-- The region of a partition's allocator walker (R230): that of its lead quad. -/
def allocRegion (s : Chip) (p : Nat) : Nat := min (leadQuad s p / 4) 3

/-- The page of a partition's allocator walker. -/
def allocPage (s : Chip) (p : Nat) : Page := .pw (allocRegion s p)

/-- OLDEST (R252): the smallest epoch of the partition's live walks, or the current epoch. -/
def oldest (s : Chip) (p : Nat) : Nat :=
  (s.kv.walks.filter (fun w => w.part == p)).foldl (fun a w => min a w.epoch) (kvPart s p).epoch

/-! ### The KV context (R229, R230, R259) -/

/-- The absent entry (R67). -/
def absent : Nat := 0xFFFFFFFF

/-- The pool of a tier: false tier A, true the Boathouse. -/
def pool (c : KvCtx) (tierB : Bool) : Pool := if tierB then c.b else c.a

/-- The areas of a pool and their lengths. -/
def poolAreas (x : Pool) : List (Nat × Nat) :=
  [(x.base, x.frames * 16384), (x.summary, x.frames * 512), (x.ref, x.frames * 2), (x.free, x.frames * 4),
   (x.retire, x.frames * 16)]

/-- Do the fields of a pool keep their alignment (Table 08-1)? -/
def poolAligned (x : Pool) : Bool :=
  x.base % 16384 == 0 && x.summary % 512 == 0 && x.ref % 64 == 0 && x.free % 64 == 0 && x.retire % 64 == 0

/-- Do the areas of a pool lie in the partition's device addresses (R230)? A tier without frames is unused. -/
def poolInside (s : Chip) (p : Nat) (x : Pool) : Bool :=
  x.frames == 0 || (poolAreas x).all (fun e => (memRefusal s p e.1 e.2 false).isNone)

/-- A KV context from its 128 bytes (Table 08-1). -/
def ctxOf (l : List Byte) : KvCtx :=
  { models := bits (field l 0 4) 3 0 + 1, table := field l 0x08 8,
    a := { frames := field l 0x20 4 % 2 ^ 31, base := field l 0x10 8, summary := field l 0x28 8, ref := field l 0x38 8,
           free := field l 0x48 8, retire := field l 0x58 8 },
    b := { frames := field l 0x24 4 % 2 ^ 31, base := field l 0x18 8, summary := field l 0x30 8, ref := field l 0x40 8,
           free := field l 0x50 8, retire := field l 0x60 8 } }

/-- Is a KV context valid for partition `p` (R230)? -/
def ctxValid (s : Chip) (p : Nat) (l : List Byte) : Bool :=
  let c := ctxOf l
  l.any (fun v => v != 0) && bits (field l 0 4) 31 30 == 0 && c.table % 16 == 0
    && poolAligned c.a && poolAligned c.b && poolInside s p c.a && poolInside s p c.b

/-- PW_CTX of partition `p` in region `r`. -/
def ctxAddr (s : Chip) (p r : Nat) : Nat :=
  rd s (.pw r) (Reg.PW_CTX_LO_ADDR_LO p) * 128 + rd s (.pw r) (Reg.PW_CTX_HI_ADDR_HI p) * 2 ^ 32

/-- Read the KV context of partition `p` at the walker of region `r`; where it is none, the reader stops. -/
def Rd.ctx (x : Rd) (p r : Nat) (who : Option Origin) : Rd × Option KvCtx :=
  let a := ctxAddr x.s p r
  if a = 0 then (x.stop 0x50 none, none)
  else
    let e := x.devFree p who a 128
    if e.1.ended then (e.1, none)
    else if ctxValid e.1.s p e.2.1 then (e.1, some (ctxOf e.2.1))
    else (e.1.stop 0x50 (some a), none)

/-! ### Models (R60, R61, R231) -/

/-- The largest power of two not above 256 whose page holds the positions (R61); `n` counts halvings. -/
def pagePositions (per : Nat) : Nat → Nat → Nat
  | 0, p => p
  | n + 1, p => if per * p ≤ 131072 then p else pagePositions per n (p / 2)

/-- A KV layout descriptor, where it is valid (R60, R61). -/
def layoutOf (w0 w1 : Nat) : Option KvLayout :=
  let heads := bits w0 5 0 + 1
  let dim := if bits w0 10 9 = 0 then 64 else 128
  let kw := bits w0 13 11 + 1
  let vw := bits w0 16 14 + 1
  let pos := pagePositions (heads * dim * (kw + vw)) 8 256
  if bits w0 31 30 != 0 || bits w0 10 9 > 1 || kw == 1 || vw == 1 || pos < 8 || heads * dim * (kw + vw) * pos > 131072
      || 2 ^ (bits w0 19 17 + 3) != pos then none
  else some { heads := heads, dim := dim, kw := kw, vw := vw, pos := pos, layers := bits w1 7 0 + 1 }

/-- Model `m` is loaded, or rejected (R231). -/
def setModel (s : Chip) (p m : Nat) (l : Option KvLayout) : Chip :=
  setKvPart s p (fun k => match l with
    | some v => { k with models := tset k.models m v, rejected := kdel k.rejected m }
    | none => { k with models := tdel k.models m, rejected := kadd k.rejected m })

/-- The layout of model `m` under the context that the allocator walker has read, `e`: none where it is invalid (R231, R61). -/
def modelRead (p m : Nat) (e : Rd × Option KvCtx) : Rd × Option KvLayout :=
  match e.2 with
  | none => (e.1, none)
  | some c =>
    if m ≥ c.models then (e.1, none)
    else
      let f := e.1.dev p none (c.table + 16 * m) 8
      (f.1, if f.1.ended || f.2.2 then none else layoutOf (field f.2.1 0 4) (field f.2.1 4 4))

/-- A model load ends with what the walker has read, `x` (R231). -/
def modelLoaded (s : Chip) (r p m : Nat) (x : Rd × Option KvLayout) : Chip :=
  if x.1.hold.isSome then x.1.settle s p none
  else setFlag (setModel (x.1.settle s p none) p m x.2) (.pw r) Reg.PW_IRQ_STAT_MODEL_DONE

/-- The partition that a walker page's PW_PART_SEL names. -/
def walkerPart (s : Chip) (r : Nat) : Nat := rd s (.pw r) Reg.PW_PART_SEL_PARTITION

/-- PW_MODEL_LOAD (R231, R258): the allocator walker of the selected partition; another walker ignores the write. -/
def pwModelLoad (s : Chip) (r index : Nat) : Chip :=
  if (quadsOf s (walkerPart s r)).isEmpty || allocRegion s (walkerPart s r) != r then s
  else
    modelLoaded s r (walkerPart s r) (index % 16)
      (modelRead (walkerPart s r) (index % 16) ((startRd s).ctx (walkerPart s r) r none))

/-! ### Walks (R246) -/

/-- Drop the look-aside entries that `f` names. -/
def labDrop (s : Chip) (f : LabEntry → Bool) : Chip :=
  { s with kv := { s.kv with lab := s.kv.lab.filter (fun e => !(f e)) } }

/-- A walk starts with the context that its walker has read, `e` (R246, R230). -/
def Rd.beginWith (x : Rd) (p r : Nat) (cmd : Option Nat) (e : Rd × Option KvCtx) : Rd × Walk :=
  let y : Rd := { e.1 with bad := x.bad }
  let k := kvPart y.s p
  let fault := match e.1.bad with
    | some (c, a) => (c, a.getD 0)
    | none => (0x50, 0)
  let w : Walk :=
    { id := y.s.kv.nextWalk, part := p, region := r, epoch := k.epoch, models := k.models, ctx := e.2, fault := fault,
      cmd := cmd }
  let s := setKvPart y.s p (fun k => { k with epoch := (k.epoch + 1) % 2 ^ 64 })
  ({ y with s := { s with kv := { s.kv with walks := s.kv.walks ++ [w], nextWalk := s.kv.nextWalk + 1 } } }, w)

/-- A walk starts (R230, R246): it reads the KV context, takes the epoch and raises it. Its context's fault, if any, is
every command's of the walk. -/
def Rd.begin (x : Rd) (p r : Nat) (who : Option Origin) (cmd : Option Nat) : Rd × Walk := x.beginWith p r cmd (x.ctx p r who)

/-- A walk ends (R246, R247). -/
def endWalk (s : Chip) (id : Nat) : Chip :=
  labDrop { s with kv := { s.kv with walks := s.kv.walks.filter (fun w => w.id != id) } } (fun e => e.walk == id)

/-- Is the walk's command still live: fetched, and neither retired nor discarded (R246)? -/
def walkBusy (s : Chip) (w : Walk) : Bool :=
  match w.cmd with
  | some n => s.q.jobs.any (fun j => j.cmds.any (fun c => c.seq == n && unfinished c))
  | none => s.q.jobs.any (fun j => j.step && j.part == w.part)

/-- Does command number `tag` of partition `p` run on region `r`'s Rein engine, as an attend or an append? -/
def reinRuns (s : Chip) (p : Nat) (r : Fin 4) (tag : Nat) : Bool :=
  s.q.jobs.any (fun j => j.part == p && !j.step && j.cmds.any (fun c => c.seq == tag && unfinished c
    && (hdrOpcode c.raw == 0x20 || hdrOpcode c.raw == 0x21)
    && c.copies.any (fun k => k.engine == .rein r && k.fate == .issued)))

/-- WALK_START (R246): a REIN_ATTEND or KV_APPEND of a compute queue has issued at the region's engine. -/
def walkStart (s : Chip) (p : Nat) (r : Fin 4) (tag : Nat) : Chip :=
  if reinRuns s p r tag && !(s.kv.walks.any (fun w => w.cmd == some tag)) then
    ((startRd s).begin p r.val none (some tag)).1.settle s p none
  else s

/-- WALK_END (R246): the last command of the walk has retired or was discarded. -/
def walkEnd (s : Chip) (p id : Nat) : Chip :=
  match s.kv.walks.find? (fun w => w.id == id && w.part == p) with
  | some w => if walkBusy s w then s else endWalk s id
  | none => s

/-- The walk of a command: the serving step's for a step job, the command's own otherwise. -/
def walkOf (s : Chip) (o : Origin) (e : Engine) (op : Nat) (b : Body) : Option Walk :=
  match findJob s o with
  | none => none
  | some j =>
    if j.step then s.kv.walks.find? (fun w => w.part == j.part && w.cmd == none)
    else match runningCmd s o e op b with
      | some c => s.kv.walks.find? (fun w => w.cmd == some c.seq)
      | none => none

/-! ### The look-aside buffer and list entries (R67 to R69, R247, R248) -/

/-- Does the entry carry the tag? -/
def labHit (w : Walk) (seqId gen layer block : Nat) (e : LabEntry) : Bool :=
  e.region == w.region && e.part == w.part && e.seqId == seqId && e.gen == gen && e.layer == layer && e.block == block

/-- The set of an entry. -/
def labSetOf (e : LabEntry) : Fin 64 := Config.labSet e.part e.seqId e.gen e.layer e.block

/-- Fill an entry: a set holds 8, and the one used longest ago is replaced (R247). -/
def labFill (s : Chip) (w : Walk) (seqId gen layer block v : Nat) (bad : Bool) : Chip :=
  let e : LabEntry := { walk := w.id, region := w.region, part := w.part, seqId := seqId, gen := gen, layer := layer,
                        block := block, value := v, bad := bad }
  let rest := s.kv.lab.filter (fun x => !(labHit w seqId gen layer block x))
  let here := rest.filter (fun x => x.region == w.region)
  let kept :=
    if here.length < 8 then rest
    else
      match here.filter (fun x => decide (labSetOf x = labSetOf e)) with
      | old :: more => if more.length < 7 then rest else rest.erase old
      | [] => rest
  { s with kv := { s.kv with lab := kept ++ [e] } }

/-- PW_LAB_PARITY (R248). -/
def labParity (s : Chip) (w : Walk) : Chip :=
  report s (.pw w.region) Reg.PW_ERR_STAT_LAB_PARITY { plainNote (.pw w.region) .corrected 0x59 with part := some w.part }

/-- Read a list entry at `a` for a walk, through the look-aside buffer; `fails`: an entry that is hit fails its parity
check. The entry, and whether it was read poisoned, in which case it is a free value. -/
def Rd.listEntry (x : Rd) (w : Walk) (who : Option Origin) (seqId gen layer block a : Nat) (fails : Bool) :
    Rd × Nat × Bool :=
  if x.ended then (x, absent, false)
  else
    let pg := Page.pw w.region
    let hit := x.s.kv.lab.find? (labHit w seqId gen layer block)
    let arm := rd x.s pg Reg.ERR_INJECT_ARM
    match hit with
    | some e =>
      if fails || bit arm 1 then
        let s := if bit arm 1 then wr x.s pg Reg.ERR_INJECT_ARM (arm - 2) else x.s
        let s := labParity (labDrop s (labHit w seqId gen layer block)) w
        let f := ({ x with s := s }).devFree w.part who a 4
        if f.1.ended then (f.1, absent, false)
        else
          let v := ofBytes f.2.1
          ({ f.1 with s := labFill (bump f.1.s pg Reg.PW_LAB_MISSES_MISSES 1) w seqId gen layer block v f.2.2 }, v, f.2.2)
      else
        let s := labFill (bump x.s pg Reg.PW_LAB_HITS_HITS 1) { w with id := e.walk } seqId gen layer block e.value e.bad
        ({ x with s := s }, e.value, e.bad)
    | none =>
      let f := x.devFree w.part who a 4
      if f.1.ended then (f.1, absent, false)
      else
        let v := ofBytes f.2.1
        ({ f.1 with s := labFill (bump f.1.s pg Reg.PW_LAB_MISSES_MISSES 1) w seqId gen layer block v f.2.2 }, v, f.2.2)

/-- The end of a group: with LAB_EN at 0 its entries are not kept (Table 08-12). -/
def labGroupEnd (s : Chip) (w : Walk) : Chip :=
  if rd s (.pw w.region) Reg.PW_CFG_LAB_EN = 1 then s else labDrop s (fun e => e.walk == w.id)

/-- The tier and frame of a present entry (R67). -/
def entryTier (v : Nat) : Bool := bit v 31
def entryFrame (v : Nat) : Nat := bits v 30 0

/-- The entry of a frame. -/
def frameEntry (tierB : Bool) (f : Nat) : Nat := (if tierB then 2 ^ 31 else 0) + f

/-- Does the entry name a frame of its pool (R248)? -/
def inPool (c : KvCtx) (v : Nat) : Bool := decide (entryFrame v < (pool c (entryTier v)).frames)

/-! ### Reference counts, free stacks and retire queues (R230, R251, R252, R517) -/

/-- The allocator's state of a partition is lost (R517). -/
def Rd.lose (x : Rd) (p a : Nat) : Rd :=
  let pg := allocPage x.s p
  let s := send x.s pg { plainNote pg .partition 0xAB with part := some p, addr := some (0, a / 64 * 64) }
  let s := stopQueues (setKvPart s p (fun k => { k with lost := true })) p
  { x with s := s }.stop 0x50 none

/-- The allocator walker may work for the partition (R517). -/
def Rd.alive (x : Rd) (p : Nat) : Rd := if (kvPart x.s p).lost then x.stop 0x50 none else x

/-- The allocator walker reads `n` bytes of its structures; a poisoned line loses its state (R517). -/
def Rd.allocLine (x : Rd) (p : Nat) (who : Option Origin) (a n : Nat) : Rd × Nat :=
  let e := x.dev p who a n
  if e.1.ended then (e.1, 0)
  else if e.2.2 then (e.1.lose p ((firstBad e.1.s a n).getD a), 0)
  else (e.1, ofBytes e.2.1)

/-- The same for an allocation, a free or an edit, which a lost state refuses (R517). -/
def Rd.alloc (x : Rd) (p : Nat) (who : Option Origin) (a n : Nat) : Rd × Nat := (x.alive p).allocLine p who a n

/-- The reference count of a frame, as a write to its page asks it: neither an allocation, a free nor an edit (R245). -/
def Rd.refPeek (x : Rd) (p : Nat) (who : Option Origin) (l : Pool) (f : Nat) : Rd × Nat := x.allocLine p who (l.ref + 2 * f) 2

/-- The reference count of a frame. -/
def Rd.refGet (x : Rd) (p : Nat) (who : Option Origin) (l : Pool) (f : Nat) : Rd × Nat := x.alloc p who (l.ref + 2 * f) 2

/-- The depths that go to the twin with each write of the allocator walker (R427). -/
def Rd.depths (x : Rd) (p : Nat) : Rd :=
  let k := kvPart x.s p
  if x.ended then x
  else { x with sent := x.sent ++ [.depths k.freeA k.freeB (k.tailA - k.headA) (k.tailB - k.headB)] }

/-- Set the reference count of a frame. -/
def Rd.refSet (x : Rd) (p : Nat) (l : Pool) (f n : Nat) : Rd :=
  (x.devPut p (l.ref + 2 * f) (toBytes 2 n) false).depths p

/-- Raise a frame's count (R251). -/
def Rd.refUp (x : Rd) (p : Nat) (who : Option Origin) (l : Pool) (f : Nat) : Rd :=
  let e := x.refGet p who l f
  if e.1.ended then e.1 else if e.2 ≥ 65535 then e.1.stop 0x55 none else e.1.refSet p l f (e.2 + 1)

/-- Free-stack depth and retire-queue counts of a tier. -/
def freeDepth (k : KvPart) (tierB : Bool) : Nat := if tierB then k.freeB else k.freeA
def setDepth (k : KvPart) (tierB : Bool) (n : Nat) : KvPart := if tierB then { k with freeB := n } else { k with freeA := n }
def retireHead (k : KvPart) (tierB : Bool) : Nat := if tierB then k.headB else k.headA
def retireTail (k : KvPart) (tierB : Bool) : Nat := if tierB then k.tailB else k.tailA

/-- A frame enters the tail of its tier's retire queue (R252). -/
def Rd.retire (x : Rd) (p : Nat) (l : Pool) (tierB : Bool) (f : Nat) : Rd :=
  let x := x.alive p
  let k := kvPart x.s p
  let x := x.devPut p (l.retire + 16 * (retireTail k tierB % l.frames)) (toBytes 8 k.epoch ++ toBytes 4 f ++ toBytes 4 0) false
  if x.ended then x
  else
    ({ x with s := setKvPart x.s p (fun k =>
        if tierB then { k with tailB := k.tailB + 1 } else { k with tailA := k.tailA + 1 }) }).depths p

/-- Lower a frame's count; a frame whose count falls to 0 is freed, and a count of 0 only counts (R251). -/
def Rd.refDown (x : Rd) (p : Nat) (who : Option Origin) (c : KvCtx) (tierB : Bool) (f : Nat) : Rd :=
  let l := pool c tierB
  let e := x.refGet p who l f
  if e.1.ended then e.1
  else if e.2 = 0 then { e.1 with s := bump e.1.s (allocPage e.1.s p) Reg.PW_COND_REF_UNDERFLOW 1 }
  else
    let x := e.1.refSet p l f (e.2 - 1)
    if e.2 = 1 then x.retire p l tierB f else x

/-- Set a free-stack depth; a depth that falls below LOW_MARK raises POOL_LOW (Table 08-12). -/
def setFree (s : Chip) (p : Nat) (tierB : Bool) (n : Nat) : Chip :=
  let was := freeDepth (kvPart s p) tierB
  let mark := rd s (allocPage s p) Reg.PW_CFG_LOW_MARK * 1024
  let s := setKvPart s p (fun k => setDepth k tierB n)
  if n < mark ∧ mark ≤ was then setFlag s (allocPage s p) Reg.PW_IRQ_STAT_POOL_LOW else s

/-- Take a frame from a free stack (R252): its top. -/
def Rd.pop (x : Rd) (p : Nat) (who : Option Origin) (l : Pool) (tierB : Bool) : Rd × Nat :=
  let x := x.alive p
  let n := freeDepth (kvPart x.s p) tierB
  if x.ended then (x, 0)
  else if n = 0 then (x.stop 0x51 none, 0)
  else
    let e := x.alloc p who (l.free + 4 * (n - 1)) 4
    if e.1.ended then (e.1, 0)
    else if e.2 ≥ l.frames then (e.1.stop 0x52 none, 0)
    else ({ e.1 with s := setFree e.1.s p tierB (n - 1) }, e.2)

/-- The summary record of a new frame (R244 step 1). -/
def emptyRecord (dim : Nat) : List Byte := (List.range dim).flatMap (fun _ => [127, 128]) ++ List.replicate (512 - 2 * dim) 0

/-- A new frame: count 1, an empty summary record, its data as it stands (R244 step 1). -/
def Rd.newFrame (x : Rd) (p : Nat) (who : Option Origin) (c : KvCtx) (tierB : Bool) (dim : Nat) : Rd × Nat :=
  let l := pool c tierB
  let e := x.pop p who l tierB
  if e.1.ended then e else ((e.1.refSet p l e.2 1).devPut p (l.summary + 512 * e.2) (emptyRecord dim) false, e.2)

/-! ### Pages (R62, R309 to R313) -/

/-- The tag of unit `u` of a frame, where the region's engine has the partition's slot context. -/
def kvTag (s : Chip) (r p : Nat) (tierB : Bool) (f u : Nat) : Option Nat :=
  (slotCtx s r p).map (fun c => (if tierB then c.tagB else c.tagA) + 16 * f + 4 * u)

/-- A page as a reader has it: its address, its units where they are not as stored, and the addresses of its poisoned lines;
a unit that is poison as a whole has its first line's. -/
structure PageData where
  addr : Nat
  units : List (Option (List Byte))
  bad : List Nat
deriving DecidableEq, Repr

/-- The byte at offset `off` of a page. -/
def pageByte (s : Chip) (g : PageData) (off : Nat) : Byte :=
  match g.units.getD (off / 4096) none with
  | some l => l.getD (off % 4096) 0
  | none => cellGet s.mem.bytes (g.addr + off)

/-- Read unit `u` of a frame: decoded where its tag says so. -/
def Rd.pageUnit (x : Rd) (p r : Nat) (who : Option Origin) (c : KvCtx) (tierB : Bool) (f u : Nat) :
    Rd × Option (List Byte) × List Nat :=
  let a := (pool c tierB).base + 16384 * f + 4096 * u
  let raw := fun (x : Rd) =>
    let x := x.girthAdmit p a 4096 false
    if x.ended then (x, none, [])
    else
      let s := readMeets x.s a 4096 who
      ({ x with s := s }, none, badLines s a 4096)
  match kvTag x.s r p tierB f u with
  | none => raw x
  | some t =>
    let e := x.unit p r who a t
    match e.2.1 with
    | some l => (e.1, some l, if e.2.2 then [a] else [])
    | none => raw e.1

/-- Read a page. -/
def Rd.page (x : Rd) (p r : Nat) (who : Option Origin) (c : KvCtx) (tierB : Bool) (f : Nat) : Rd × PageData :=
  (List.range 4).foldl (fun (a : Rd × PageData) u =>
    let e := a.1.pageUnit p r who c tierB f u
    (e.1, { a.2 with units := a.2.units ++ [e.2.1], bad := a.2.bad ++ e.2.2 }))
    (x, { addr := (pool c tierB).base + 16384 * f, units := [], bad := [] })

/-- Copy a run of whole lines; a poisoned line stays poisoned at its target (R23). -/
def Rd.copyLines (x : Rd) (p : Nat) (who : Option Origin) (src dst n : Nat) : Rd :=
  let e := x.dev p who src n
  e.1.devPutLines p dst e.2.1 ((List.range (n / 64)).filter (fun i => kmem e.1.s.mem.poison (src / 64 + i)))

/-- Copy unit `u` of a frame to another frame, encoded where `encode` (R312). -/
def Rd.copyUnit (x : Rd) (p r : Nat) (who : Option Origin) (c : KvCtx) (src dst : Bool × Nat) (encode : Bool) (u : Nat) : Rd :=
  let dest := (pool c dst.1).base + 16384 * dst.2 + 4096 * u
  let e := x.pageUnit p r who c src.1 src.2 u
  if e.1.ended then e.1
  else
    let a := (pool c src.1).base + 16384 * src.2 + 4096 * u
    let l := match e.2.1 with
      | some l => l
      | none => memRead e.1.s a 4096
    match kvTag e.1.s r p dst.1 dst.2 u with
    | none => if e.2.1.isSome then e.1.devPut p dest l (!e.2.2.isEmpty) else e.1.copyLines p who a dest 4096
    | some t =>
      if e.2.1.isNone && !encode then
        let y := e.1.copyLines p who a dest 4096
        let y := y.devPut p t (toBytes 4 0) false
        if y.ended then y else { y with s := countUnit y.s r false 4096 }
      else e.1.putUnit p r dest t l (!e.2.2.isEmpty) encode

/-- A new frame of tier `to` with a copy of a frame's page and summary record; its count is 1 (R245, R249). -/
def Rd.copyFrame (x : Rd) (p r : Nat) (who : Option Origin) (c : KvCtx) (src : Bool × Nat) (dest encode : Bool) : Rd × Nat :=
  let l := pool c dest
  let e := x.pop p who l dest
  if e.1.ended then e
  else
    let y := (List.range 4).foldl (fun z u => z.copyUnit p r who c src (dest, e.2) encode u) e.1
    let y := y.copyLines p who ((pool c src.1).summary + 512 * src.2) (l.summary + 512 * e.2) 512
    (y.refSet p l e.2 1, e.2)

/-! ### RETIRE_QUEUE_ADVANCE and PW_FREE_WRITE (R252, R258, R517) -/

/-- Move entries from the head of a retire queue to the free stack while the head's stamp is not above OLDEST; `n` bounds
them. -/
def Rd.advance (x : Rd) (p : Nat) (l : Pool) (tierB : Bool) : Nat → Rd
  | 0 => x
  | n + 1 =>
    let k := kvPart x.s p
    let e := x.alloc p none (l.retire + 16 * (retireHead k tierB % l.frames)) 16
    if e.1.ended then e.1
    else if e.2 % 2 ^ 64 > oldest e.1.s p then e.1
    else
      let y := e.1.devPut p (l.free + 4 * freeDepth k tierB) (toBytes 4 (bits e.2 95 64)) false
      if y.ended then y
      else
        let s := setKvPart y.s p (fun k =>
          let k := setDepth k tierB (freeDepth k tierB + 1)
          if tierB then { k with headB := k.headB + 1 } else { k with headA := k.headA + 1 })
        Rd.advance (({ y with s := s }).depths p) p l tierB n

/-- The retire queue of a tier advances with the context that the allocator walker has read, `e` (R252). -/
def retireAdvanceWith (s : Chip) (p : Nat) (tierB : Bool) (e : Rd × Option KvCtx) : Chip :=
  let k := kvPart s p
  match e.2 with
  | none => if e.1.hold.isSome then e.1.settle s p none else s
  | some c =>
    let l := pool c tierB
    if l.frames = 0 || k.lost then s
    else (e.1.advance p l tierB (retireTail k tierB - retireHead k tierB)).settle s p none

/-- RETIRE_QUEUE_ADVANCE (R252). -/
def retireQueueAdvance (s : Chip) (p : Nat) (tierB : Bool) : Chip :=
  retireAdvanceWith s p tierB ((startRd s).ctx p (allocRegion s p) none)

/-- Is an edit in progress for the partition (R258)? Edits of the Start list are the ones that last. -/
def kvBusy (s : Chip) (p : Nat) : Bool := s.kv.walks.any (fun w => w.part == p)

/-- PW_FREE_WRITE (R258, R517): the allocator walker of the selected partition, with no live walk and no edit. -/
def pwFreeWrite (s : Chip) (editing : Bool) (r : Nat) (tierB : Bool) (v : Nat) : Chip :=
  let p := rd s (.pw r) Reg.PW_PART_SEL_PARTITION
  if (quadsOf s p).isEmpty || allocRegion s p != r || kvBusy s p || editing then s
  else setFree (setKvPart s p (fun k => { k with lost := false })) p tierB (bits v 30 0)

/-! ### Edits of a page list (R249 to R251) -/

/-- An edit's progress: the reader, and whether an entry was written. -/
structure Edit where
  x : Rd
  wrote : Bool
deriving DecidableEq, Repr

/-- What an edit works on: its partition, the region of its walker, its job, the context, the layout, and the list. -/
structure EditEnv where
  p : Nat
  r : Nat
  who : Option Origin
  c : KvCtx
  lay : KvLayout
  list : Nat
deriving DecidableEq, Repr

/-- Read entry `i` of the list. -/
def EditEnv.get (v : EditEnv) (x : Rd) (i : Nat) : Rd × Nat :=
  let e := x.devFree v.p v.who (v.list + 4 * i) 4
  if e.1.ended then (e.1, absent) else (e.1, ofBytes e.2.1)

/-- A frame that an edit would place lies in its pool, or the edit faults (R251). -/
def EditEnv.place (v : EditEnv) (x : Rd) (n : Nat) : Rd := if n != absent && !(inPool v.c n) then x.stop 0x52 none else x

/-- Write entry `i` of the list, one 32-bit write (R250). -/
def EditEnv.put (v : EditEnv) (e : Edit) (i n : Nat) : Edit :=
  let x := e.x.devPut v.p (v.list + 4 * i) (toBytes 4 n) false
  { x := x, wrote := e.wrote || !x.ended }

/-- Lower the count of the frame that an old entry named; a frame beyond its pool has none (R248; DESIGN CHOICE, log 38). -/
def EditEnv.drop (v : EditEnv) (e : Edit) (n : Nat) : Edit :=
  if n = absent || !(inPool v.c n) || e.x.ended then e else { e with x := e.x.refDown v.p v.who v.c (entryTier n) (entryFrame n) }

/-- SET (Table 08-5). -/
def EditEnv.set (v : EditEnv) (x : Rd) (i n : Nat) : Edit :=
  let e := v.get (x.alive v.p) i
  let g := (v.place e.1 n, e.2)
  if g.1.ended then { x := g.1, wrote := false }
  else if n = g.2 then v.put { x := g.1, wrote := false } i n
  else
    let y := if n = absent then g.1 else g.1.refUp v.p v.who (pool v.c (entryTier n)) (entryFrame n)
    if y.ended then { x := y, wrote := false } else v.drop (v.put { x := y, wrote := false } i n) g.2

/-- One entry of RELEASE. -/
def EditEnv.release (v : EditEnv) (e : Edit) (i : Nat) : Edit :=
  if e.x.ended then e
  else
    let g := v.get e.x i
    if g.1.ended || g.2 = absent then { e with x := g.1 } else v.drop (v.put { e with x := g.1 } i absent) g.2

/-- One entry of SHARE, from the list at `src`. -/
def EditEnv.share (v : EditEnv) (src : Nat) (e : Edit) (i : Nat) : Edit :=
  if e.x.ended then e
  else
    let g := ({ v with list := src }).get e.x i
    let h := v.get (v.place g.1 g.2) i
    if h.1.ended then { e with x := h.1 }
    else
      let y := if g.2 = absent then h.1 else h.1.refUp v.p v.who (pool v.c (entryTier g.2)) (entryFrame g.2)
      if y.ended then { e with x := y } else v.drop (v.put { e with x := y } i g.2) h.2

/-- One entry of MOVE, to tier `dest` (R312: encoded where the slot context enables its channel). An entry beyond its pool, of
which no frame is read (R248), stays as it is (DESIGN CHOICE, log 38). -/
def EditEnv.move (v : EditEnv) (dest : Bool) (e : Edit) (i : Nat) : Edit :=
  if e.x.ended then e
  else
    let g := v.get e.x i
    if g.1.ended || g.2 = absent || !(inPool v.c g.2) || entryTier g.2 == dest then { e with x := g.1 }
    else
      let encode := match slotCtx g.1.s v.r v.p with
        | some k => bit k.enable (if dest then 2 else 0)
        | none => false
      let n := g.1.copyFrame v.p v.r v.who v.c (entryTier g.2, entryFrame g.2) dest encode
      if n.1.ended then { e with x := n.1 } else v.drop (v.put { e with x := n.1 } i (frameEntry dest n.2)) g.2

/-- One entry of ALLOC that is absent. -/
def EditEnv.allot (v : EditEnv) (dest : Bool) (e : Edit) (i : Nat) : Edit :=
  if e.x.ended then e
  else
    let n := e.x.newFrame v.p v.who v.c dest v.lay.dim
    if n.1.ended then { e with x := n.1 } else v.put { e with x := n.1 } i (frameEntry dest n.2)

/-- The absent entries among `l`. -/
def EditEnv.absents (v : EditEnv) (x : Rd) (l : List Nat) : Rd × List Nat :=
  l.foldl (fun (a : Rd × List Nat) i =>
    let g := v.get a.1 i
    if !g.1.ended && g.2 = absent then (g.1, a.2 ++ [i]) else (g.1, a.2)) (x, [])

/-- ALLOC (Table 08-5): all or nothing; the frames that it would take are looked at first (R251), and where one of its writes is
refused (R323) it has made none. -/
def EditEnv.allocate (v : EditEnv) (x : Rd) (dest : Bool) (l : List Nat) : Edit :=
  let a := v.absents (x.alive v.p) l
  let depth := freeDepth (kvPart a.1.s v.p) dest
  let n := a.2.length
  if a.1.ended then { x := a.1, wrote := false }
  else if n > depth then { x := a.1.stop 0x51 none, wrote := false }
  else
    let y := (span (depth - n) n).foldl (fun z k =>
      let f := z.alloc v.p v.who ((pool v.c dest).free + 4 * k) 4
      if !f.1.ended && f.2 ≥ (pool v.c dest).frames then f.1.stop 0x52 none else f.1) a.1
    let t := a.2.foldl (v.allot dest) { x := y, wrote := false }
    if y.ended then { x := y, wrote := false }
    else if t.x.bad.isSome then { x := { y with bad := t.x.bad }, wrote := false }
    else t

/-- An edit's parameters (Table 08-4): OP, TIER, FIRST, BLOCKS, LAYER, VALUE, and the source list of SHARE. -/
structure EditArgs where
  op : Nat
  tier : Bool
  first : Nat
  blocks : Nat
  layer : Nat
  value : Nat
  src : Nat
deriving DecidableEq, Repr

/-- Does an edit break a rule of R251: a reserved OP, a block range beyond the limit, a SET layer at or above L? -/
def editInvalid (a : EditArgs) (lay : KvLayout) : Bool :=
  decide (a.op > 4) || decide (a.first + a.blocks > 262144 / lay.pos) || (a.op == 0 && decide (a.layer ≥ lay.layers))

/-- Carry an edit out on a list. -/
def EditEnv.run (v : EditEnv) (x : Rd) (a : EditArgs) : Edit :=
  let l := span (a.first * v.lay.layers) (a.blocks * v.lay.layers)
  let start : Edit := { x := x.alive v.p, wrote := false }
  if editInvalid a v.lay then { x := x.stop 0x56 none, wrote := false }
  else match a.op with
    | 0 => v.set x (a.first * v.lay.layers + a.layer) a.value
    | 1 => v.allocate x a.tier l
    | 2 => l.foldl v.release start
    | 3 => l.foldl (v.share a.src) start
    | _ => l.foldl (v.move a.tier) start

end Sys2Proof.Machine
end

