-- ==== Sys2Proof/Machine/Rein.lean ====
section
/-!
DEFINITION. The Rein engine (08): batch entries (R240), query codes and scores (R233 to R235), attention with page skipping
(R236 to R239, R242, R243), KV_APPEND (R244, R245), and PAGE_EDIT as a command (R249).
-/
namespace Sys2Proof.Machine

/-! ### Counters and faults (R256, R257) -/

/-- Count `n` occurrences of a format condition (R70, R257). -/
def countRein (s : Chip) (r tag code n : Nat) : Chip :=
  if n = 0 ∨ code = 0 ∨ code ≥ 32 then s
  else
    let pg := Page.rein r
    let s := bump s pg (Reg.REIN_FMT_COUNT_COUNT code) n
    let s := if rd s pg Reg.REIN_FMT_FIRST_CODE = 0 then
        wrAll s pg [(Reg.REIN_FMT_FIRST_JOB_TAG, tag), (Reg.REIN_FMT_FIRST_CODE, code)] else s
    let flags := rd s pg Reg.REIN_FMT_FLAGS_FLAG
    if bit flags (code - 1) then s
    else setFlag (wr s pg Reg.REIN_FMT_FLAGS_FLAG (flags + 2 ^ (code - 1))) pg Reg.REIN_IRQ_STAT_FMT

/-- A fault of a Rein command or an edit (R256, R258): memory and scratchpad faults at their own levels, the codes of pools and
reference counts at the allocator walker, a walker's others at the region's, on which edits run (R249), the engine's at the
engine. -/
def faultRein (s : Chip) (o : Origin) (code : Nat) (a : Option Nat) : Chip :=
  let r := o.quad.val / 4
  let addr := a.map (fun v => (0, v))
  if 0x78 ≤ code ∧ code ≤ 0x7A then faultMem s o code (a.getD 0)
  else if code = 0x3B ∨ code = 0x3C then faultPad s o code r (a.getD 0)
  else if 0x40 ≤ code ∧ code ≤ 0x4A then faultQueue s o code
  else if code = 0x53 ∨ code = 0x54 then faultJob s (.rein r) (some Reg.REIN_ERR_STAT_JOB_FAULT) o code addr
  else if code = 0x50 ∨ code = 0x52 ∨ code = 0x56 then faultJob s (.pw r) (some Reg.PW_ERR_STAT_JOB_FAULT) o code addr
  else if code = 0x51 ∨ code = 0x55 then
    let pg := allocPage s o.part.val
    let t := faultJob s pg (some Reg.PW_ERR_STAT_JOB_FAULT) o code addr
    if code = 0x51 then setFlag t pg Reg.PW_ERR_STAT_POOL_EMPTY else t
  else if code = 0x0F then faultJob s (allocPage s o.part.val) none o code addr
  else faultJob s (.rein r) none o code addr

/-- An error of the Rein engine's buffer (Table 08-8). -/
def reinError (s : Chip) (r : Nat) (x : BufferError) : Chip :=
  let s := bump s (.rein r) (if x.uncorrectable then Reg.REIN_ECC_STAT_UE else Reg.REIN_ECC_STAT_CE) 1
  bufferError s (.rein r) (reinBuffer r) x (Reg.REIN_ERR_STAT_CE, 0x57) (Reg.REIN_ERR_STAT_UE, 0x58) r

/-- The Rein engine of an origin. -/
def reinOf (o : Origin) : Engine := .rein (regionFin (o.quad.val / 4))

/-- The state a command that does not wait has come to: what it was granted is charged, its conditions are counted, and the
poison that it consumed is reported (R23). -/
def reinCounted (x : Rd) (s₀ : Chip) (o : Origin) (op : Nat) (b : Body) : Chip :=
  let s := x.settle s₀ o.part.val ((runningCmd s₀ o (reinOf o) op b).map (fun c => c.seq))
  let s := x.counts.foldl (fun t e => countRein t (o.quad.val / 4) o.tag.toNat e.1 e.2) s
  let s := consumed s (.rein (o.quad.val / 4)) o x.ate
  if x.tainted then markPoisoned s o else s

/-- The engine's busy cycles, the charge, and the end of the command. -/
def reinOver (s : Chip) (o : Origin) (op : Nat) (b : Body) (n : Nat) : Chip :=
  let s := bump64 s (.rein (o.quad.val / 4)) Reg.REIN_BUSY_LO_BUSY Reg.REIN_BUSY_HI_BUSY n
  finish (charge s (reinOf o) o n) o (reinOf o) op b

/-- The end of a Rein command: its conditions, its poison, its fault; `n` cycles are charged. `s₀` is the state before it,
in which it waits where one of its accesses waits. -/
def reinClose (x : Rd) (s₀ : Chip) (o : Origin) (op : Nat) (b : Body) (n : Nat) : Chip :=
  if x.hold.isSome then x.settle s₀ o.part.val ((runningCmd s₀ o (reinOf o) op b).map (fun c => c.seq))
  else
    let s := reinCounted x s₀ o op b
    reinOver (match x.bad with
      | none => s
      | some (c, a) => faultRein s o c a) o op b n

/-! ### Batch entries (R240, R254) -/

/-- A batch entry (Table 08-2), and whether it was read poisoned. -/
structure BatchEntry where
  model : Nat
  token : Nat
  list : Nat
  gen : Nat
  pos : Nat
  first : Nat
  seqId : Nat
  bad : Bool
deriving DecidableEq, Repr

/-- Read entry `i` of a batch; its checks stop the reader (R240, R254). An entry read poisoned is not checked (R72): its fields
are free values of their ranges. -/
def Rd.batch (x : Rd) (o : Origin) (base i : Nat) : Rd × BatchEntry :=
  let e := x.padFree o (base + 32 * i) 32
  let l := e.2.1
  let v : BatchEntry :=
    { model := bits (field l 0 4) 3 0, token := field l 4 4, list := if e.2.2 then field l 8 8 / 4 * 4 else field l 8 8,
      gen := field l 0x12 2, pos := field l 0x14 4 % (if e.2.2 then 262144 else 2 ^ 22), first := field l 0x18 4 % 2 ^ 22, seqId := field l 0x1C 4, bad := e.2.2 }
  let x := e.1
  if x.ended then (x, v)
  else if bits (field l 0 4) 31 30 != 0 && !v.bad then (x.stop 0x0E (some (base + 32 * i)), v)
  else if v.list % 4 != 0 then (x.stop 0x41 none, v)
  else if v.pos ≥ 262144 then (x.stop 0x54 none, v)
  else (x, v)

/-- The layout of a model as the walk has it (R231). -/
def Rd.layout (x : Rd) (w : Walk) (m : Nat) : Rd × KvLayout :=
  match tget w.models m with
  | some l => (x, l)
  | none => (x.stop 0x0F none, { heads := 1, dim := 64, kw := 2, vw := 2, pos := 8, layers := 1 })

/-- An entry read poisoned that no layout of the walk fits names nothing to work on: it is passed over, and only its poison
goes on (R72; DESIGN CHOICE, log 39). -/
def BatchEntry.lost (e : BatchEntry) (w : Walk) (layer heads : Nat) : Bool :=
  e.bad && (match tget w.models e.model with
    | some l => decide (l.layers ≤ layer) || heads % l.heads != 0
    | none => true)

/-- The context of a walk; its fault stops the reader (R230). -/
def Rd.walkCtx (x : Rd) (w : Walk) : Rd × KvCtx :=
  match w.ctx with
  | some c => (x, c)
  | none =>
    (x.stop w.fault.1 (if w.fault.2 = 0 then none else some w.fault.2), ctxOf [])

/-! ### Quantisation (R233, R244) -/

/-- Elements per row of staging: F rounded up to a multiple of 64 (R237). -/
def fPad (f : Nat) : Nat := cdiv f 64 * 64

/-- The largest finite magnitude among codes. -/
def maxAbs (l : List Nat) : Num :=
  l.foldl (fun a c =>
    let v := numAbs (unpack f32 c)
    if isFin v && numLt a v then v else a) (.fin false 0 0)

/-- The smallest exponent from 1 to 254 with `a × 2^(127 − e) ≤ hi`; 127 where `a` is 0; a free value where there is none
(R233, R244). -/
def fitExp (a : Num) (hi draw : Nat) : Nat :=
  if !(numLt (.fin false 0 0) a) then 127
  else match (span 1 254).find? (fun (e : Nat) => !(numLt (numInt hi) (numShift a (127 - (e : Int))))) with
    | some e => e
    | none => Config.freeNat draw % 254 + 1

/-- The code of an FP32 value at exponent `e` and width `w`; whether it is a NaN or an infinity; whether it was clamped
(R233, R244). -/
def fitCode (c e w : Nat) : Int × Bool × Bool :=
  let hi : Int := (2 ^ (w - 1) : Nat) - 1
  let lo : Int := -(2 ^ (w - 1) : Nat)
  match unpack f32 c with
  | .nan => (0, true, false)
  | .inf n => (if n then lo else hi, true, false)
  | v =>
    let q := numRound (numShift v (127 - (e : Int)))
    if q > hi then (hi, false, true) else if q < lo then (lo, false, true) else (q, false, false)

/-! ### Scores and exponentials (R234, R235) -/

/-- The floor of the 256th root of `n`: eight square roots. -/
def root256 (n : Nat) : Nat := (List.range 8).foldl (fun a _ => isqrtFrom a (Nat.log2 a / 2 + 1) 0) n

/-- T[k]: 2^(k/256) in FP32, rounded to nearest (R235). -/
def exp2Rom (k : Nat) : Nat := 127 * 2 ^ 23 + (root256 (2 ^ (k + 256 * 24)) + 1) / 2 - 2 ^ 23

/-- exp2_t of an FP32 code `y ≤ 0` (R235). -/
def exp2T (y : Nat) : Nat :=
  let v := unpack f32 y
  if isNan v then nanCode f32
  else if !(isFin v) || numLt v (numInt (-126)) then 0
  else
    let n := numFloor v
    let f := pack f32 (numAdd v (numInt (-n)))
    let u := fMul f32 f (pack f32 (numInt 256))
    let i := (numFloor (unpack f32 u)).toNat
    if i ≥ 256 then pack f32 (numShift (unpack f32 (exp2Rom 256)) n)
    else
      let g := fSub f32 u (pack f32 (numInt i))
      let t := fAdd f32 (exp2Rom i) (fMul f32 g (fSub f32 (exp2Rom (i + 1)) (exp2Rom i)))
      pack f32 (numShift (unpack f32 t) n)

/-- A code of width `w` from its planes: bit `j` of the code is bit `k` of the byte at `off j` (R62). -/
def planeCode (s : Chip) (g : PageData) (w : Nat) (off : Nat → Nat) (k : Nat) : Int :=
  signed w ((List.range w).foldl (fun a j => a + (if bit (pageByte s g (off j)).toNat k then 2 ^ j else 0)) 0)

/-- The key code of head `h`, position `t`, dimension `d` of a page (R62). -/
def keyCode (s : Chip) (g : PageData) (l : KvLayout) (h t d : Nat) : Int :=
  planeCode s g l.kw (fun j => ((h * l.kw + j) * l.pos + t) * (l.dim / 8) + d / 8) (d % 8)

/-- The first byte of the value area (R62). -/
def valueArea (l : KvLayout) : Nat := l.heads * l.kw * l.pos * (l.dim / 8)

/-- The value code of head `h`, dimension `d`, position `t` of a page (R62). -/
def valueCode (s : Chip) (g : PageData) (l : KvLayout) (h d t : Nat) : Int :=
  planeCode s g l.vw (fun j => valueArea l + ((h * l.vw + j) * l.dim + d) * (l.pos / 8) + t / 8) (t % 8)

/-- A sum of products in log2 units: `v × 2^(eq + e − 254) × scale`, each operation rounded (R234, R238). -/
def scaledScore (v : Int) (eq e scale : Nat) : Nat :=
  fMul f32 (pack f32 (numShift (unpack f32 (pack f32 (numInt v))) ((eq : Int) + e - 254))) scale

/-- A query head at work (R236): its codes and exponent, its KV head, the running maximum, sum and accumulators in FP32,
and whether its output carries poison. -/
structure QueryHead where
  q : List Int
  eq : Nat
  head : Nat
  m : Nat
  l : Nat
  acc : List Nat
  bad : Bool
deriving DecidableEq, Repr

/-- −∞ in FP32. -/
def negInf : Nat := 0xFF800000

/-- The exact score sum of a query with a position's key: the plane sums of R234, taken whole. -/
def scoreSum (s : Chip) (g : PageData) (l : KvLayout) (h : QueryHead) (t : Nat) : Int :=
  (h.q.zipIdx).foldl (fun a e => a + e.1 * keyCode s g l h.head t e.2) 0

/-- A summary record as a walk has it (R63): FILLED, ES, MINMAX, the exponents, its GEN, and whether it was read poisoned. -/
structure Summary where
  filled : Nat
  es : Nat
  gen : Nat
  minMax : List Byte
  kexp : List Byte
  vexp : List Byte
  bad : Bool
deriving DecidableEq, Repr

/-- A summary record from its 512 bytes. -/
def summaryOf (l : List Byte) (bad : Bool) : Summary :=
  let info := field l 0x180 4
  { filled := bits info 16 8, es := bits info 7 0, gen := bits info 31 30, minMax := l.take 256,
    kexp := (l.drop 0x100).take 64, vexp := (l.drop 0x140).take 64, bad := bad }

/-- The bound of a page for a query head (R238). -/
def pageBound (h : QueryHead) (r : Summary) (scale : Nat) : Nat :=
  let sum := (h.q.zipIdx).foldl (fun (a : Int) e =>
    let mn := signed 8 (r.minMax.getD (2 * e.2) 0).toNat
    let mx := signed 8 (r.minMax.getD (2 * e.2 + 1) 0).toNat
    a + max (e.1 * mn) (e.1 * mx)) 0
  scaledScore sum h.eq r.es scale

/-- The parameters of a REIN_ATTEND (Table 08-3). -/
structure Attend where
  layer : Nat
  scale : Nat
  wq : Nat
  wp : Nat
  t : Nat
  keep : Nat
  heads : Nat
  qStage : Nat
  outStage : Nat
deriving DecidableEq, Repr

/-- The larger of two FP32 numbers that are no NaN. -/
def fTop (a b : Nat) : Nat := if numLt (unpack f32 a) (unpack f32 b) then b else a

/-- One page visited by one query head (R236, R237); `valid t`: position `t` is attended. -/
def visitPage (s : Chip) (g : PageData) (l : KvLayout) (r : Summary) (v : Attend) (valid : Nat → Bool) (h : QueryHead) :
    QueryHead :=
  let wmax := 2 ^ v.wp - 1
  let x := (List.range l.pos).map (fun t =>
    if valid t then scaledScore (scoreSum s g l h t) h.eq (r.kexp.getD h.head 0).toNat v.scale else negInf)
  let top := x.foldl fTop h.m
  if top = negInf then h
  else
    let raise := numLt (unpack f32 h.m) (unpack f32 top)
    let f := exp2T (fSub f32 h.m top)
    let l₀ := if raise then fMul f32 h.l f else h.l
    let acc := if raise then h.acc.map (fun a => fMul f32 a f) else h.acc
    let c : List Nat := x.map (fun e =>
      if e = negInf then 0
      else if e = top then wmax
      else (numRound (unpack f32 (fMul f32 (exp2T (fSub f32 e top)) (pack f32 (numInt wmax))))).toNat)
    let w := pack f32 (numInt wmax)
    let sum := fDiv f32 (pack f32 (numInt ((c.foldl (fun a n => a + n) 0 : Nat) : Int))) w
    let e : Int := ((r.vexp.getD h.head 0).toNat : Int) - 127
    let acc := acc.zipIdx.map (fun a =>
      let dot := ((c.zipIdx).filter (fun n => n.1 != 0)).foldl (fun (z : Int) n => z + n.1 * valueCode s g l h.head a.2 n.2) 0
      fAdd f32 a.1 (fDiv f32 (pack f32 (numShift (unpack f32 (pack f32 (numInt dot))) e)) w))
    { h with m := top, l := fAdd f32 l₀ sum, acc := acc }

/-! ### REIN_ATTEND (R236 to R243) -/

/-- What a group has found of a list entry (R242, R247): absent, beyond its pool, or a page with its summary record, and the
page's data once it is read. -/
structure GroupPage where
  index : Nat
  entry : Option Nat
  beyond : Bool
  record : Summary
  data : Option PageData
  tainted : Bool
deriving DecidableEq, Repr

/-- The state of a REIN_ATTEND: the reader, the group's pages, and its cost in 1/262,144 cycles (R243). -/
structure AttendRun where
  x : Rd
  pages : List GroupPage
  cost : Nat
deriving DecidableEq, Repr

/-- The group's page for a list entry: found before, or read now with its summary record (R239, R248). -/
def AttendRun.look (a : AttendRun) (o : Origin) (w : Walk) (c : KvCtx) (l : KvLayout) (e : BatchEntry) (layer blk : Nat)
    (parity : List Nat) : AttendRun × GroupPage :=
  let i := blk * l.layers + layer
  match a.pages.find? (fun g => g.index == i) with
  | some g => (a, g)
  | none =>
    let v := a.x.listEntry w (some o) e.seqId e.gen layer blk (e.list + 4 * i) (parity.contains blk)
    let none' : GroupPage := { index := i, entry := none, beyond := false, record := summaryOf [] false, data := none,
                               tainted := v.2.2 }
    if v.1.ended || v.2.1 = absent then ({ a with x := v.1, pages := a.pages ++ [none'] }, none')
    else if !(inPool c v.2.1) then
      let g := { none' with beyond := true }
      let x := { v.1 with s := bump v.1.s (.pw w.region) Reg.PW_COND_FRAME_RANGE 1 }
      ({ a with x := x, pages := a.pages ++ [g] }, g)
    else
      let r := v.1.devFree w.part (some o) ((pool c (entryTier v.2.1)).summary + 512 * entryFrame v.2.1) 512
      let g := { none' with entry := some v.2.1, record := summaryOf r.2.1 r.2.2 }
      ({ a with x := r.1, pages := a.pages ++ [g] }, g)

/-- Read a page's data once for the group (R239, R242); each poisoned line is consumed (R243). -/
def AttendRun.read (a : AttendRun) (o : Origin) (w : Walk) (c : KvCtx) (g : GroupPage) : AttendRun × PageData :=
  match g.data, g.entry with
  | some d, _ => (a, d)
  | none, none => (a, { addr := 0, units := [], bad := [] })
  | none, some v =>
    let e := a.x.page w.part w.region (some o) c (entryTier v) (entryFrame v)
    let s := bump e.1.s (.rein w.region) Reg.REIN_PAGES_READ_READ 1
    let x := e.2.bad.foldl (fun (x : Rd) line => x.note 0 line) { e.1 with s := s }
    ({ a with x := x,
              pages := a.pages.map (fun h => if h.index = g.index then { h with data := some e.2 } else h) }, e.2)

/-- Which query heads skip a page (R239): `may`: the page may be skipped. A head that carries poison, whose bound would decide
on it (R72), skips none (DESIGN CHOICE, log 122). -/
def skips (may : Bool) (r : Summary) (v : Attend) (h : QueryHead) : Bool :=
  may && !h.bad && isFin (unpack f32 h.m)
    && numLt (unpack f32 (pageBound h r v.scale)) (unpack f32 (fSub f32 h.m (pack f32 (numInt v.t))))

/-- One page of one token's range (R236, R239, R243). -/
def attendPage (o : Origin) (w : Walk) (c : KvCtx) (l : KvLayout) (v : Attend) (e : BatchEntry) (parity : List Nat)
    (st : AttendRun × List QueryHead) (blk : Nat) : AttendRun × List QueryHead :=
  let k := st.1.look o w c l e v.layer blk parity
  let a := k.1
  let g := k.2
  let pg := Page.rein w.region
  let heads := st.2.map (fun h => { h with bad := h.bad || g.tainted })
  if a.x.ended then (a, heads)
  else if g.beyond then (a, heads)
  else if g.entry.isNone then ({ a with x := { a.x with s := bump a.x.s pg Reg.REIN_COND_ABSENT 1 } }, heads)
  else
    let r := g.record
    let may := rd a.x.s pg Reg.REIN_CFG_SKIP_EN == 1 && v.t != 0 && blk != e.pos / l.pos && decide (v.keep ≤ blk)
      && !r.bad && r.gen == 0
    let n := (heads.filter (fun h => !(skips may r v h))).length
    let valid := fun t => decide (e.first ≤ blk * l.pos + t ∧ blk * l.pos + t ≤ e.pos ∧ t < r.filled)
    let late := ((List.range l.pos).filter (fun t =>
      decide (e.first ≤ blk * l.pos + t ∧ blk * l.pos + t ≤ e.pos ∧ r.filled ≤ t))).length
    let s := bump a.x.s pg Reg.REIN_PAGES_SKIPPED_SKIPPED (heads.length - n)
    let s := bump s pg Reg.REIN_PAGES_VISITED_VISITED n
    let s := bump s pg Reg.REIN_UNFILLED_UNFILLED (late * n)
    let s := bump64 s pg Reg.REIN_SCORES_LO_SCORES Reg.REIN_SCORES_HI_SCORES (n * l.pos)
    let cost := max (max (n * l.pos * v.wq * l.kw * l.dim) (2 * n * l.pos * v.wp * l.vw * l.dim)) (cdiv v.heads 16 * 262144)
    let a := { a with x := { a.x with s := s }, cost := a.cost + cost }
    if n = 0 then (a, heads)
    else
      let d := a.read o w c g
      if d.1.x.ended then (d.1, heads)
      else (d.1, heads.map (fun h =>
        if skips may r v h then h
        else
          let h := visitPage d.1.x.s d.2 l r v valid h
          { h with bad := h.bad || !d.2.bad.isEmpty }))

/-- The query head `j` of a token (R233, R234); a poisoned value is not decoded, and counts no condition (R72). -/
def Rd.queryHead (x : Rd) (o : Origin) (l : KvLayout) (v : Attend) (e : BatchEntry) (bad : Bool) (j : Nat) :
    Rd × QueryHead :=
  let f := x.values o (v.qStage + (e.token * fPad (v.heads * l.dim) + j * l.dim) * 4) l.dim 4
  let fine := (f.2.filter (fun a => !a.2)).map (fun a => a.1)
  let eq := fitExp (maxAbs fine) (2 ^ (v.wq - 1) - 1) f.1.s.fresh
  let x := f.1.count 0x19 ((fine.map (fun c => fitCode c eq v.wq)).filter (fun a => a.2.1)).length
  (x, { q := f.2.map (fun a => (fitCode a.1 eq v.wq).1), eq := eq, head := j * l.heads / v.heads, m := negInf, l := 0,
        acc := List.replicate l.dim 0, bad := bad || f.2.any (fun a => a.2) })

/-- One batch entry (R236, R239, R243): its blocks, the last first, and its outputs. -/
def attendEntry (o : Origin) (w : Walk) (c : KvCtx) (v : Attend) (ue : Bool) (parity : List Nat) (a : AttendRun)
    (e : BatchEntry) : AttendRun :=
  let k := a.x.layout w e.model
  let l := k.2
  if e.lost w v.layer v.heads then { a with x := a.x.taint true }
  else if k.1.ended then { a with x := k.1 }
  else if v.layer ≥ l.layers || v.heads % l.heads != 0 then { a with x := k.1.stop 0x41 none }
  else
    let hs := (List.range v.heads).foldl (fun (z : Rd × List QueryHead) j =>
      let q := z.1.queryHead o l v e (ue || e.bad) j
      (q.1, z.2 ++ [q.2])) (k.1, [])
    let last := e.pos / l.pos
    let blocks := if e.first > e.pos then [] else last :: span (e.first / l.pos) (last - e.first / l.pos)
    let st := blocks.foldl (attendPage o w c l v e parity) ({ a with x := hs.1 }, hs.2)
    let x := st.1.x
    let empty := st.2.all (fun h => (unpack f32 h.l) == .fin false 0 0)
    let x := if empty && !x.ended then { x with s := bump x.s (.rein w.region) Reg.REIN_COND_EMPTY 1 } else x
    let x := (st.2.zipIdx).foldl (fun (x : Rd) h =>
      let out := h.1.acc.map (fun n => (if unpack f32 h.1.l == .fin false 0 0 then 0 else fDiv f32 n h.1.l, h.1.bad))
      if x.ended then x
      else x.putValues o (v.outStage + (e.token * fPad (v.heads * l.dim) + h.2 * l.dim) * 4) out) x
    { st.1 with x := x }

/-- Do two entries belong to one group (R242)? -/
def sameGroup (a b : BatchEntry) : Bool := a.seqId == b.seqId && a.list == b.list && a.gen == b.gen

/-- The entries of a batch in order; a new group begins with no pages (R242). -/
def attendEntries (o : Origin) (w : Walk) (c : KvCtx) (v : Attend) (ue : Bool) (parity : List Nat) (base : Nat) :
    Nat → Nat → Option BatchEntry → AttendRun → AttendRun
  | 0, _, _, a => a
  | n + 1, i, prev, a =>
    if a.x.ended then a
    else
      let r := a.x.batch o base i
      let same := match prev with
        | some p => sameGroup p r.2
        | none => true
      let x := if same then r.1 else { r.1 with s := labGroupEnd r.1.s w }
      let a := { a with x := x, pages := if same then a.pages else [] }
      if x.ended then a
      else attendEntries o w c v ue parity base n (i + 1) (some r.2) (attendEntry o w c v ue parity a r.2)

/-- The parameters of a REIN_ATTEND body. -/
def attendOf (b : Body) : Attend :=
  { layer := bf b 0x14 31 24, scale := bw b 0x20, wq := bf b 0x24 31 29 + 1, wp := bf b 0x24 28 26 + 1,
    t := bf b 0x24 25 18, keep := bf b 0x24 17 10, heads := bf b 0x24 6 0 + 1, qStage := bw b 0x18, outStage := bw b 0x1C }

/-- Does a REIN_ATTEND body break a range (R238, R241)? -/
def attendInvalid (v : Attend) : Bool :=
  v.wq < 2 || v.wp < 2 || v.qStage % 256 != 0 || v.outStage % 256 != 0
    || !(isFin (unpack f32 v.scale)) || !(numLt (.fin false 0 0) (unpack f32 v.scale))

/-- A command's walk: the live one, or one that starts with it (R246); one that no command holds ends with it. -/
def Rd.walk (x : Rd) (o : Origin) (op : Nat) (b : Body) : Rd × Walk × Bool :=
  match walkOf x.s o (reinOf o) op b with
  | some w => (x, w, true)
  | none =>
    let cmd := (runningCmd x.s o (reinOf o) op b).map (fun c => c.seq)
    let e := x.begin o.part.val (o.quad.val / 4) (some o) cmd
    (e.1, e.2, cmd.isSome)

/-- End a walk that no command holds. -/
def dropWalk (w : Walk) (held : Bool) (s : Chip) : Chip := if held then s else endWalk s w.id

/-- The reader a Rein command starts with: the state after the buffer errors it meets. -/
def reinStart (s : Chip) (o : Origin) (met : List BufferError) : Rd :=
  startRd (bufferMeets s (.rein (o.quad.val / 4)) met (fun t e => reinError t (o.quad.val / 4) e))

/-- Does the command meet an uncorrectable buffer error, from outside or from ERR_INJECT? -/
def reinPoison (s : Chip) (o : Origin) (met : List BufferError) : Bool :=
  met.any (fun e => e.uncorrectable) || bit (rd s (.rein (o.quad.val / 4)) Reg.ERR_INJECT_ARM) 1

/-- The entries of a REIN_ATTEND, in the order of the batch. -/
def attendWork (k : Rd × Walk × Bool) (s : Chip) (o : Origin) (b : Body) (met : List BufferError) (parity : List Nat) : AttendRun :=
  let c := k.1.walkCtx k.2.1
  attendEntries o k.2.1 c.2 (attendOf b) (reinPoison s o met) parity (bw b 0x10) (bf b 0x14 15 0 + 1) 0 none
    { x := c.1, pages := [], cost := 0 }

/-- The end of a REIN_ATTEND, and the cycles it is charged. -/
def attendEnd (a : AttendRun) (k : Rd × Walk × Bool) (s : Chip) (o : Origin) (b : Body) : Chip :=
  let d := draw a.x.s
  let z := { a.x with s := labGroupEnd d.2 k.2.1 }
  if z.hold.isSome then reinClose z s o 0x20 b 0
  else dropWalk k.2.1 k.2.2 (reinClose z s o 0x20 b (cdiv a.cost 262144 + 60 + Config.freeNat d.1))

/-- REIN_ATTEND (R233 to R243). -/
def reinAttend (s : Chip) (o : Origin) (b : Body) (met : List BufferError) (parity : List Nat) : Chip :=
  let x := reinStart s o met
  if attendInvalid (attendOf b) then reinClose (x.stop 0x41 none) s o 0x20 b 0
  else if bw b 0x10 % 32 != 0 then reinClose (x.stop 0x3B (some (bw b 0x10))) s o 0x20 b 0
  else
    let k := x.walk o 0x20 b
    attendEnd (attendWork k s o b met parity) k s o b

/-! ### KV_APPEND (R244, R245, R313) -/

/-- A KV_APPEND's parameters. -/
structure Append where
  layer : Nat
  kStage : Nat
  vStage : Nat
  tierNew : Bool
deriving DecidableEq, Repr

/-- The parameters of a KV_APPEND body (R244). -/
def appendOf (b : Body) : Append :=
  { layer := bf b 0x14 31 24, kStage := bw b 0x18, vStage := bw b 0x1C, tierNew := bb b 0x20 0 }

/-- The staged values of head `h` of a token (R244). -/
def Rd.staged (x : Rd) (o : Origin) (l : KvLayout) (stage token h : Nat) : Rd × List (Nat × Bool) :=
  x.values o (stage + (token * fPad (l.heads * l.dim) + h * l.dim) * 4) l.dim 4

/-- Are a frame's units all raw (R313)? -/
def Rd.allRaw (x : Rd) (w : Walk) (o : Origin) (tierB : Bool) (f : Nat) : Rd × Bool :=
  (List.range 4).foldl (fun (a : Rd × Bool) u =>
    match kvTag a.1.s w.region w.part tierB f u with
    | none => a
    | some t =>
      let e := a.1.dev w.part (some o) t 4
      (e.1, a.2 && bits (ofBytes e.2.1) 31 29 == 0 && !e.2.2)) (x, true)

/-- Update a list entry, and the walker's own look-aside entry with it (R245). -/
def Rd.setEntry (x : Rd) (w : Walk) (e : BatchEntry) (layer blk a v : Nat) : Rd :=
  let x := x.devPut w.part a (toBytes 4 v) false
  if x.ended then x else { x with s := labFill x.s w e.seqId e.gen layer blk v false }

/-- Steps 1 to 3 of R244: the frame of a position, given where it is absent, copied where it is shared or encoded; its tier
and index. A summary record whose INFO is read poisoned is not decoded (R72). -/
def Rd.appendFrame (x : Rd) (o : Origin) (w : Walk) (c : KvCtx) (l : KvLayout) (v : Append) (e : BatchEntry)
    (parity : List Nat) : Rd × Bool × Nat :=
  let blk := e.pos / l.pos
  let slot := e.pos % l.pos
  let a := e.list + 4 * (blk * l.layers + v.layer)
  let g := x.listEntry w (some o) e.seqId e.gen v.layer blk a (parity.contains blk)
  let y := if g.1.ended || g.2.1 != absent then (g.1, g.2.1)
    else
      let n := g.1.newFrame w.part (some o) c v.tierNew l.dim
      if n.1.ended then (n.1, absent)
      else (n.1.setEntry w e v.layer blk a (frameEntry v.tierNew n.2), frameEntry v.tierNew n.2)
  let x := y.1.taint g.2.2
  let tier := entryTier y.2
  let f := entryFrame y.2
  if x.ended then (x, tier, f)
  else if !(inPool c y.2) then (x.stop 0x52 none, tier, f)
  else
    let p := pool c tier
    let i := x.devFree w.part (some o) (p.summary + 512 * f + 0x180) 4
    let info := ofBytes i.2.1
    if i.1.ended then (i.1, tier, f)
    else if bits info 31 30 != 0 && !i.2.2 then (i.1.stop 0x0E (some (p.summary + 512 * f)), tier, f)
    else if slot > bits info 16 8 && !i.2.2 then (i.1.stop 0x53 none, tier, f)
    else
      let n := i.1.refPeek w.part (some o) p f
      let raw := n.1.allRaw w o tier f
      let x := raw.1
      if x.ended || (n.2 ≤ 1 && raw.2) then (x, tier, f)
      else
        let m := x.copyFrame w.part w.region (some o) c (tier, f) tier false
        let y := m.1.setEntry w e v.layer blk a (frameEntry tier m.2)
        let y := y.refDown w.part (some o) c tier f
        if y.ended then (y, tier, m.2)
        else
          let s := bump y.s (.pw w.region) Reg.PW_EDIT_STAT_COW 1
          let s := if raw.2 then s else bump s (.skv w.region) Reg.SKV_COND_KV_UNPACK 1
          ({ y with s := s }, tier, m.2)

/-- Set bits of a page: byte `off`, its bit `k`, to `on`. -/
def Rd.pageBit (x : Rd) (p a off k : Nat) (on bad : Bool) : Rd :=
  let v := (cellGet x.s.mem.bytes (a + off)).toNat
  x.devPut p (a + off) [BitVec.ofNat 8 (putBit v k on)] bad

/-- Write the key codes of a position and head: one vector for each plane (R62). -/
def Rd.putKeys (x : Rd) (p a : Nat) (l : KvLayout) (h t : Nat) (codes : List Int) (bad : Bool) : Rd :=
  (List.range l.kw).foldl (fun x j =>
    let v := (List.range (l.dim / 8)).map (fun i => BitVec.ofNat 8 ((List.range 8).foldl (fun n k =>
      n + (if bit (unsigned l.kw (codes.getD (8 * i + k) 0)) j then 2 ^ k else 0)) 0))
    x.devPut p (a + ((h * l.kw + j) * l.pos + t) * (l.dim / 8)) v bad) x

/-- Write the value codes of a position and head: one bit of one word for each plane and dimension (R62). -/
def Rd.putCodes (x : Rd) (p a : Nat) (l : KvLayout) (h t : Nat) (codes : List Int) (bad : Bool) : Rd :=
  (List.range l.vw).foldl (fun x j => (List.range l.dim).foldl (fun x d =>
    x.pageBit p a (valueArea l + ((h * l.vw + j) * l.dim + d) * (l.pos / 8) + t / 8) (t % 8)
      (bit (unsigned l.vw (codes.getD d 0)) j) bad) x) x

/-- The floor and the ceiling of `v / 2^k`. -/
def shiftDown (v : Int) (k : Nat) : Int := v / (2 ^ k : Nat)
def shiftUp (v : Int) (k : Nat) : Int := -((-v) / (2 ^ k : Nat))

/-- MINMAX widened by a position's key codes, each head's at its shift (R65). -/
def widenMinMax (old : List Byte) (dim : Nat) (heads : List (List Int × Nat)) : List Byte :=
  (List.range dim).flatMap (fun d =>
    let mn := heads.foldl (fun a h => min a (shiftDown (h.1.getD d 0) h.2)) (signed 8 (old.getD (2 * d) 0).toNat)
    let mx := heads.foldl (fun a h => max a (shiftUp (h.1.getD d 0) h.2)) (signed 8 (old.getD (2 * d + 1) 0).toNat)
    [BitVec.ofNat 8 (unsigned 8 mn), BitVec.ofNat 8 (unsigned 8 mx)])

/-- The tokens of the entries that this command writes into a page: those of `later` that name its list and block (R244
step 4). -/
def pageTokens (l : KvLayout) (e : BatchEntry) (later : List BatchEntry) : List Nat :=
  (later.filter (fun k => k.list == e.list && k.pos / l.pos == e.pos / l.pos)).map (fun k => k.token)

/-- The exponents of a page's heads over the tokens written into it, for keys or values (R244 step 4), and whether each
carries poison: a poisoned value is not decoded (R72). -/
def Rd.pageExps (x : Rd) (o : Origin) (l : KvLayout) (stage w : Nat) (tokens : List Nat) : Rd × List (Nat × Bool) :=
  (List.range l.heads).foldl (fun (a : Rd × List (Nat × Bool)) h =>
    let v := tokens.foldl (fun (z : Rd × List (Nat × Bool)) t =>
      let e := z.1.staged o l stage t h
      (e.1, z.2 ++ e.2)) (a.1, [])
    let fine := (v.2.filter (fun k => !k.2)).map (fun k => k.1)
    (v.1, a.2 ++ [(fitExp (maxAbs fine) (2 ^ (w - 1) - 1) v.1.s.fresh, v.2.any (fun k => k.2))])) (x, [])

/-- The codes of one head's staged values `v` at exponent `e` and width `w`, and the conditions of those that carry no poison:
non-finite values and saturations (R244 step 5, R72). Where `exp`, the exponent is poison. -/
def Rd.headCodes (x : Rd) (v : List (Nat × Bool)) (e : Nat) (exp all : Bool) (w : Nat) : Rd × List Int :=
  let k := v.map (fun a => (fitCode a.1 e w, a.2))
  let fine := k.filter (fun a => !a.2 && !all)
  let x := x.count 0x19 (fine.filter (fun a => a.1.2.1)).length
  let x := if exp then x else x.count 0x10 (fine.filter (fun a => a.1.2.2)).length
  (x, k.map (fun a => a.1.1))

/-- Bytes of a page from its first on that hold codes (R62). -/
def pageEnd (l : KvLayout) : Nat := valueArea l + l.heads * l.vw * l.dim * (l.pos / 8)

/-- The first position of a page writes zero in the bytes after its value area (R62; DESIGN CHOICE that it does so once, log
79). -/
def Rd.clearTail (x : Rd) (p a : Nat) (l : KvLayout) : Rd :=
  x.devPut p (a + pageEnd l) (List.replicate (16384 - pageEnd l) 0) false

/-- Steps 4 to 6 of R244 for one entry in the frame at `(tier, f)`; `later`: it and the later entries that are written. What poison reaches, it marks: the codes and the range of
poisoned values or exponents, and the parts of the record that were read poisoned (R72). -/
def Rd.appendCodes (x : Rd) (o : Origin) (w : Walk) (c : KvCtx) (l : KvLayout) (v : Append) (e : BatchEntry)
    (later : List BatchEntry) (ue : Bool) (tier : Bool) (f : Nat) : Rd :=
  let p := pool c tier
  let at' := p.summary + 512 * f
  let slot := e.pos % l.pos
  let all := ue || e.bad
  let g := x.devFree w.part (some o) at' 512
  let r := summaryOf g.2.1 g.2.2
  let infoBad := lineBad g.1.s (at' + 0x180)
  let expBad := runBad g.1.s (at' + 0x100) 0x80
  let first := r.filled = 0 ∧ !infoBad
  let tokens := pageTokens l e later
  let kept := fun (k : List Byte) => k.map (fun b => (b.toNat, expBad))
  let ks := if first then g.1.pageExps o l v.kStage l.kw tokens else (g.1, kept r.kexp)
  let vs := if first then ks.1.pageExps o l v.vStage l.vw tokens else (ks.1, kept r.vexp)
  let kexp := (ks.2 ++ List.replicate 64 (0, false)).take 64
  let vexp := (vs.2 ++ List.replicate 64 (0, false)).take 64
  let es := if first then (ks.2.map (fun k => k.1)).foldl max 0 else r.es
  let pg := p.base + 16384 * f
  let start := if first then vs.1.clearTail w.part pg l else vs.1
  let body := (List.range l.heads).foldl (fun (z : Rd × List (List Int × Nat) × Bool) h =>
    let ke := kexp.getD h (0, false)
    let ve := vexp.getD h (0, false)
    let k := z.1.staged o l v.kStage e.token h
    let u := k.1.staged o l v.vStage e.token h
    let kc := u.1.headCodes k.2 ke.1 (ke.2 || all) all l.kw
    let vc := kc.1.headCodes u.2 ve.1 (ve.2 || all) all l.vw
    let kb := all || ke.2 || k.2.any (fun a => a.2)
    let vb := all || ve.2 || u.2.any (fun a => a.2)
    let x := vc.1.putKeys w.part pg l h slot kc.2 kb
    let x := x.putCodes w.part pg l h slot vc.2 vb
    (x, z.2.1 ++ [(kc.2, es - ke.1)], z.2.2 || kb)) (start, [], false)
  let exps := all || kexp.any (fun k => k.2) || vexp.any (fun k => k.2)
  let x := body.1.devPut w.part at' (widenMinMax r.minMax l.dim body.2.1) (body.2.2 || infoBad || runBad g.1.s at' (2 * l.dim))
  let x := if first then
      (x.devPut w.part (at' + 0x100) (kexp.map (fun k => BitVec.ofNat 8 k.1)) exps).devPut w.part (at' + 0x140)
        (vexp.map (fun k => BitVec.ofNat 8 k.1)) exps
    else x
  x.devPut w.part (at' + 0x180) (toBytes 4 (max r.filled (slot + 1) * 256 + es)) (infoBad || exps)

/-- The batch, read whole: entry checks apply as each is processed. -/
def readBatch (x : Rd) (o : Origin) (base n : Nat) : List BatchEntry := (List.range n).map (fun i => (x.batch o base i).2)

/-- The entries of a KV_APPEND in order (R244); an entry that stops the command leaves the earlier ones' writes. `all`: the
entries that are written. -/
def appendEntries (o : Origin) (w : Walk) (c : KvCtx) (v : Append) (ue : Bool) (parity : List Nat) (base : Nat)
    (all : List BatchEntry) : Nat → Nat → Rd → Rd
  | 0, _, x => x
  | n + 1, i, x =>
    if x.ended then x
    else
      let r := x.batch o base i
      let k := r.1.layout w r.2.model
      if r.2.lost w v.layer 0 then appendEntries o w c v ue parity base all n (i + 1) (r.1.taint true)
      else if k.1.ended then k.1
      else if v.layer ≥ k.2.layers then k.1.stop 0x41 none
      else
        let f := k.1.appendFrame o w c k.2 v r.2 parity
        let y := if f.1.ended then f.1 else f.1.appendCodes o w c k.2 v r.2 (r.2 :: (all.drop (i + 1)).filter (fun k => !(k.lost w v.layer 0))) ue f.2.1
          f.2.2
        appendEntries o w c v ue parity base all n (i + 1) y

/-- How many entries of a KV_APPEND are processed before one stops it: no exponent decides that, so each entry is tried with
its own token alone. -/
def appendReach (o : Origin) (w : Walk) (c : KvCtx) (v : Append) (ue : Bool) (parity : List Nat) (base n : Nat) (x : Rd) : Nat :=
  ((List.range n).takeWhile (fun m => !(appendEntries o w c v ue parity base [] (m + 1) 0 x).ended)).length

/-- The entries of a KV_APPEND, in the order of the batch, under the walk `w` whose number `k` carries; only those that are
processed are written (R244 step 4). -/
def appendWork (k : Rd × Walk × Bool) (s : Chip) (o : Origin) (b : Body) (met : List BufferError) (parity : List Nat) : Rd :=
  let n := bf b 0x14 15 0 + 1
  let c := k.1.walkCtx k.2.1
  let m := appendReach o k.2.1 c.2 (appendOf b) (reinPoison s o met) parity (bw b 0x10) n c.1
  appendEntries o k.2.1 c.2 (appendOf b) (reinPoison s o met) parity (bw b 0x10) (readBatch c.1 o (bw b 0x10) m) n 0 c.1

/-- The end of a KV_APPEND: a wait leaves only its marks; otherwise its lane group is written out, its faults and counts
are taken, and its walk goes. With PW_CFG.LAB_EN 0 the command is one group of R258: its look-aside entries are kept to its
end (DESIGN CHOICE, log 122). -/
def appendEnd (y : Rd) (k : Rd × Walk × Bool) (s : Chip) (o : Origin) (b : Body) : Chip :=
  let d := draw y.s
  if y.hold.isSome then reinClose y s o 0x21 b 0
  else dropWalk k.2.1 k.2.2 (reinClose { y with s := labGroupEnd d.2 k.2.1 } s o 0x21 b (Config.freeNat d.1))

/-- KV_APPEND (R244). -/
def kvAppend (s : Chip) (o : Origin) (b : Body) (met : List BufferError) (parity : List Nat) : Chip :=
  let x := reinStart s o met
  if bw b 0x10 % 32 != 0 then reinClose (x.stop 0x3B (some (bw b 0x10))) s o 0x21 b 0
  else
    let k := x.walk o 0x21 b
    appendEnd (appendWork k s o b met parity) k s o b

/-! ### PAGE_EDIT (R249, R250) -/

/-- The parameters of a PAGE_EDIT body (Table 08-4); SHARE's source list is filled in once it is read. -/
def editArgsOf (b : Body) : EditArgs :=
  { op := bf b 0x18 31 29, tier := bb b 0x18 28, first := bf b 0x18 21 0, blocks := bf b 0x1C 21 0, layer := bf b 0x20 7 0,
    value := bw b 0x24, src := 0 }

/-- A sequence record (R232): its list address, its GEN and its MODEL. -/
def Rd.sequence (x : Rd) (p : Nat) (who : Option Origin) (a : Nat) : Rd × Nat × Nat × Nat :=
  let e := x.devFree p who a 16
  let l := field e.2.1 0 8
  let y := if !e.1.ended && l % 4 != 0 then e.1.stop 0x41 none else e.1
  (y, l, field e.2.1 0x0A 2, field e.2.1 0x08 2 % 16)

/-- A page edit once its context, its sequence and its model's layout are read: the edit, the GEN of the sequence, the count
of edits. A GEN write that is refused faults the job as any access does (R323); where the edit has faulted, it only
counts. -/
def pageEditRun (x : Rd) (o : Origin) (a : EditArgs) (c : KvCtx) (l : KvLayout) (list gen src seq : Nat) : Rd :=
  let p := o.part.val
  let r := o.quad.val / 4
  let env : EditEnv := { p := p, r := r, who := some o, c := c, lay := l, list := list }
  let e := env.run x { a with src := src }
  let y := if e.wrote && e.x.hold.isNone then
      let g := ({ e.x with bad := none }).plainPut p (seq + 0x0A) (toBytes 2 (gen + 1)) false
      if e.x.bad.isNone then g else { g with s := g.refused, bad := e.x.bad }
    else e.x
  if y.ended then y else { y with s := bump y.s (.pw r) Reg.PW_EDIT_STAT_EDITS 1 }

/-- The end of a page edit, charged a number of cycles the spec leaves open. -/
def pageEditEnd (y : Rd) (s : Chip) (o : Origin) (b : Body) : Chip :=
  let d := draw y.s
  reinClose { y with s := d.2 } s o 0x22 b (Config.freeNat d.1)

/-- The fault of a page edit's fields, if any: misaligned records and no blocks, then an EDIT above 4 and a share with
itself. -/
def editCode (b : Body) : Option Nat :=
  let a := editArgsOf b
  if bq b 0x10 % 16 ≠ 0 ∨ (a.op = 3 ∧ bq b 0x28 % 16 ≠ 0) ∨ a.blocks = 0 then some 0x41
  else if a.op > 4 ∨ (a.op = 3 ∧ bq b 0x28 = bq b 0x10) then some 0x56
  else none

/-- What a page edit reads first: the walker's context, the sequence's page list, GEN and model layout, and a source's list. -/
structure EditLoad where
  x : Rd
  ctx : Option KvCtx
  lay : Option KvLayout
  list : Nat
  gen : Nat
  src : Nat
deriving DecidableEq, Repr

/-- Read them, in that order. -/
def editLoad (s : Chip) (o : Origin) (b : Body) : EditLoad :=
  let p := o.part.val
  let c := (startRd s).ctx p (o.quad.val / 4) (some o)
  let q := c.1.sequence p (some o) (bq b 0x10)
  let z := if (editArgsOf b).op = 3 then q.1.sequence p (some o) (bq b 0x28) else (q.1, 0, 0, 0)
  { x := z.1, ctx := c.2, lay := tget (kvPart z.1.s p).models q.2.2.2, list := q.2.1, gen := q.2.2.1, src := z.2.1 }

/-- The edit once those are read. -/
def pageEditWith (s : Chip) (o : Origin) (b : Body) (e : EditLoad) : Chip :=
  match e.ctx, e.lay with
  | some c, some l =>
    if e.x.ended then reinClose e.x s o 0x22 b 0
    else pageEditEnd (pageEditRun e.x o (editArgsOf b) c l e.list e.gen e.src (bq b 0x10)) s o b
  | _, none => reinClose (if e.x.ended then e.x else e.x.stop 0x0F none) s o 0x22 b 0
  | none, _ => reinClose e.x s o 0x22 b 0

/-- A PAGE_EDIT on a sequence record (R249 to R251): its GEN rises where an entry was written. -/
def pageEdit (s : Chip) (o : Origin) (b : Body) : Chip :=
  match editCode b with
  | some code => reinClose ((startRd s).stop code none) s o 0x22 b 0
  | none => pageEditWith s o b (editLoad s o b)

/-- A PAGE_EDIT row: the command whose OP is `op`; the row of SET also carries the reserved ones, which fault (R251). -/
def pageEditRow (op : Nat) (s : Chip) (o : Origin) (b : Body) : Chip :=
  if (editArgsOf b).op = op ∨ (op = 0 ∧ (editArgsOf b).op > 4) then pageEdit s o b else s

end Sys2Proof.Machine
end

