-- ==== Sys2Proof/Machine/StartList.lean ====
section
/-!
DEFINITION. The Start list of a partition (09): slots and handles (R260 to R263), accounts (R285, R286), the slot image
(R270), deliveries (R269), edits, the ends of slots (R271), and events in their order (R280 to R283, R288).
-/
namespace Sys2Proof.Machine

/-! ### The partition's Start list -/

/-- A Start list that has held nothing. -/
def freshServe : Serve :=
  { slots := [], gens := [], recent := [], accounts := [], step := none, stepNo := 0, prefill := 1200, chunk := 600 }

/-- The Start list of partition `p`. -/
def serve (s : Chip) (p : Nat) : Serve := tgetD s.serve p freshServe

/-- Change the Start list of a partition. -/
def setServe (s : Chip) (p : Nat) (f : Serve → Serve) : Chip := { s with serve := tmod s.serve p freshServe f }

/-- The slot under a key, where it is not FREE. -/
def slotAt (s : Chip) (p k : Nat) : Option Slot := tget (serve s p).slots k

/-- Change a slot that is not FREE. -/
def setSlot (s : Chip) (p k : Nat) (f : Slot → Slot) : Chip :=
  setServe s p (fun v => match tget v.slots k with
    | some t => { v with slots := tset v.slots k (f t) }
    | none => v)

/-- The same for a reader's module. -/
def Rd.onSlot (x : Rd) (p k : Nat) (f : Slot → Slot) : Rd := { x with s := setSlot x.s p k f }

/-- Is the partition tracked by firmware (R261)? -/
def fwTracked (s : Chip) (p : Nat) : Bool := (wholeRegions s p).isEmpty

/-- The regions whose slots the partition has (R260, R262). -/
def slices (s : Chip) (p : Nat) : List Nat := if fwTracked s p then [0] else wholeRegions s p

/-- Slots of a slice (R260, R261). -/
def sliceSize (s : Chip) (p : Nat) : Nat := if fwTracked s p then 4096 else 16384

/-- The key of a slot. -/
def slotKey (region index : Nat) : Nat := region * 16384 + index

/-- The handle of a slot (R262). -/
def handleOf (k gen : Nat) : Nat := k / 16384 * 2 ^ 30 + k % 16384 * 2 ^ 16 + gen

/-- The slot that a handle names: not FREE, and of the handle's generation (R262). -/
def slotNamed (s : Chip) (p h : Nat) : Option Nat :=
  let k := slotKey (bits h 31 30) (bits h 29 16)
  match slotAt s p k with
  | some t => if t.gen = h % 2 ^ 16 then some k else none
  | none => none

/-- The slot that a new request takes (R263): the lowest FREE one of the home quad's slice, or of the next ones. -/
def pickSlot (s : Chip) (p quad : Nat) : Option Nat :=
  let l := slices s p
  let start := if l.contains (quad / 4) then quad / 4 else l.headD 0
  let order := (l.dropWhile (fun r => r != start)) ++ (l.takeWhile (fun r => r != start))
  let find := fun r => ((List.range (sliceSize s p)).find? (fun i => (slotAt s p (slotKey r i)).isNone)).map (slotKey r)
  order.findSome? find

/-- Is the slot terminal (R262)? -/
def terminal (t : Slot) : Bool := t.state ≥ 6

/-- Is the slot busy (R282)? A terminal slot holds nothing back. -/
def slotBusy (t : Slot) : Bool := !(terminal t) && (t.inStep || t.editing || t.moving || t.fetching)

/-- Add to a counter of the partition's Start list page. -/
def slBump (s : Chip) (p : Nat) (f : Field) : Chip := bump s (slPage s p) f 1

/-- Set a flag of the partition's Start list page. -/
def slFlag (s : Chip) (p : Nat) (f : Field) : Chip := setFlag s (slHead s p) f

/-- A configuration field of the partition's Start list. -/
def slCfg (s : Chip) (p : Nat) (f : Field) : Nat := rd s (slPage s p) f

/-- A 64-bit configuration register of the partition's Start list. -/
def slAddr (s : Chip) (p : Nat) (lo hi : Field) : Nat := slCfg s p lo + slCfg s p hi * 2 ^ 32

/-! ### Accesses of the Start list -/

/-- The reader as it was before an access whose refusal changes nothing here. -/
def Rd.calm (x : Rd) (bad : Option (Nat × Option Nat)) : Rd := { x with bad := bad }

/-- Write bytes of the Start list's own; a refused write is not made (R2). -/
def Rd.own (x : Rd) (p a : Nat) (l : List Byte) : Rd := (x.plainPut p a l false).drop x.bad

/-! ### Accounts (R285 to R287) -/

/-- The address of an account's record. -/
def acctAddr (s : Chip) (p a : Nat) : Nat := slAddr s p Reg.SL_ACCT_BASE_LO_BASE Reg.SL_ACCT_BASE_HI_BASE + 32 * a

/-- The end of the window that holds `now` (R286); 0 where no window runs. -/
def windowEnd (now origin us : Nat) : Nat :=
  let w := us * 1000
  if w = 0 then 0 else if now < origin then origin + w else origin + ((now - origin) / w + 1) * w

/-- The 32 bytes of an account record (Table 09-9). -/
def acctBytes (v : Account) : List Byte :=
  toBytes 4 v.budget ++ toBytes 4 v.windowUs ++ toBytes 8 v.origin ++ toBytes 4 v.used
    ++ toBytes 4 ((if v.throttled then 8 else 0) + (if v.chargePrompt then 4 else 0) + (if v.decline then 2 else 0))
    ++ toBytes 8 v.total

/-- An account from its record. -/
def acctOf (now : Nat) (l : List Byte) : Account :=
  { budget := field l 0 4, windowUs := field l 4 4, origin := field l 8 8, used := field l 0x10 4,
    throttled := bit (field l 0x14 4) 3, chargePrompt := bit (field l 0x14 4) 2, decline := bit (field l 0x14 4) 1,
    total := field l 0x18 8, next := windowEnd now (field l 8 8) (field l 4 4) }

/-- Keep an account in the cache. -/
def Rd.keepAccount (x : Rd) (p a : Nat) (v : Account) : Rd :=
  { x with s := setServe x.s p (fun k => { k with accounts := tset k.accounts a v }) }

/-- An account: from the cache, or from its record, which enters the cache; a record that cannot be read is a closed account's. -/
def Rd.account (x : Rd) (p a : Nat) : Rd × Account :=
  match tget (serve x.s p).accounts a with
  | some v => (x, v)
  | none =>
    let e := x.devFree p none (acctAddr x.s p a) 32
    let v := acctOf x.s.now (if e.1.ended then [] else e.2.1)
    ((e.1.drop x.bad).keepAccount p a v, v)

/-- An account changes: THROTTLED is USED ≥ BUDGET, and its record is written (R285, R286). -/
def Rd.putAccount (x : Rd) (p a : Nat) (v : Account) : Rd :=
  let on := decide (v.budget ≤ v.used)
  let was := match tget (serve x.s p).accounts a with
    | some u => u.throttled
    | none => false
  let v := { v with throttled := on }
  let x := (x.keepAccount p a v).own p (acctAddr x.s p a) (acctBytes v)
  if on && !was then { x with s := slFlag x.s p Reg.SL_IRQ_STAT_THROTTLE } else x

/-- The rollovers of an account up to `bound` (R286). -/
def Rd.rollAccount (x : Rd) (p bound a : Nat) : Rd :=
  match tget (serve x.s p).accounts a with
  | none => x
  | some v =>
    if v.next = 0 ∨ bound < v.next ∨ v.windowUs = 0 then x
    else
      let w := v.windowUs * 1000
      let n := (bound - v.next) / w + 1
      x.putAccount p a { v with used := v.used - n * v.budget, next := v.next + n * w }

/-- Charge an account (R286); USED saturates. -/
def Rd.chargeAccount (x : Rd) (p a n : Nat) : Rd :=
  let e := x.account p a
  if n = 0 then e.1
  else e.1.putAccount p a { e.2 with used := min (e.2.used + n) (2 ^ 32 - 1), total := (e.2.total + n) % 2 ^ 64 }

/-- Is the account THROTTLED? -/
def acctThrottled (s : Chip) (p a : Nat) : Bool :=
  match tget (serve s p).accounts a with
  | some v => v.throttled
  | none => false

/-! ### The slot image (R270, R428) -/

/-- The 32 words of a slot's image (Table 09-4), with its DEADLINE, STATE_TIME and DUE as given. -/
def imageOf (s : Chip) (p : Nat) (t : Slot) (deadline stateTime due : Nat) : List Nat :=
  let f := fun (b : Bool) n => if b then 2 ^ n else 0
  let q := fun (v : Nat) => [v % 2 ^ 32, v / 2 ^ 32 % 2 ^ 32]
  [t.state * 2 ^ 28 + f (acctThrottled s p t.account) 27 + f t.inStep 26 + f t.editing 25 + f t.fetching 24 + f t.moving 23
     + f t.moveFailed 22 + f t.hold 21 + f t.mirror 20 + min t.stepFaults 7 * 2 ^ 16 + t.gen,
   t.priority * 2 ^ 28 + t.model * 2 ^ 24 + t.account * 2 ^ 12 + t.variant,
   t.length % 2 ^ 22, min t.pend.length 4 * 2 ^ 22 + t.promptLeft % 2 ^ 22] ++ q t.listAddr
    ++ [t.listGen * 2 ^ 16 + t.ttl, t.listBlocks] ++ q deadline ++ q t.key ++ q t.seed ++ q stateTime ++ q due
    ++ q t.promptAddr ++ q t.delivAddr
    ++ [t.period * 2 ^ 8 + t.delivSpace * 2 ^ 5 + t.delivLog2, t.tokens % 2 ^ 32, t.turnLeft, t.temp, t.topP, t.topK, t.stop0,
        t.stop1, t.lastToken, t.reserve % 2 ^ 32]

/-- The image under a slot's key; a FREE slot shows its generation. -/
def slotImage (s : Chip) (p k : Nat) : List Nat :=
  match slotAt s p k with
  | some t => imageOf s p t t.deadline t.stateTime t.due
  | none => tgetD (serve s p).gens k 0 :: List.replicate 31 0

/-- The image as it goes to the twin: nanoseconds that remain, or have elapsed; a 0 stays 0 (R428). -/
def mirrorImage (s : Chip) (p k : Nat) : List Nat :=
  match slotAt s p k with
  | some t =>
    let left := fun v => if v = 0 then 0 else v - s.now
    imageOf s p t (left t.deadline) (s.now - t.stateTime) (left t.due)
  | none => slotImage s p k

/-- Bytes of an image. -/
def imageBytes (l : List Nat) : List Byte := l.flatMap (toBytes 4)

/-- The address of a slot in the firmware slot area (R261). -/
def fwAddr (s : Chip) (p k : Nat) : Nat :=
  slAddr s p Reg.SL_FW_BASE_LO_BASE Reg.SL_FW_BASE_HI_BASE + 128 * (k % 16384)

/-- The slots whose images differ between two states of a partition. -/
def slotsChanged (s₀ s : Chip) (p : Nat) : Keys :=
  (((serve s₀ p).slots ++ (serve s p).slots).foldl (fun (m : Keys) e => kadd m e.1) []).filter
    (fun k => slotImage s₀ p k != slotImage s p k)

/-- Is a changed slot's request, or the one that has left it, mirrored (R427)? -/
def slotMirrored (s₀ s : Chip) (p k : Nat) : Bool :=
  match slotAt s p k, slotAt s₀ p k with
  | some t, _ => t.mirror
  | none, some t => t.mirror
  | none, none => false

/-- A slot's image as a write of the twin. -/
def sentImage (s : Chip) (p k : Nat) : Mirror := .image (k / 16384) (k % 16384) ((mirrorImage s p k).map (BitVec.ofNat 32))

/-- After an event: each slot whose image has changed since `s₀` goes to the firmware slot area (R261) and, where its request
is mirrored, to the twin (R427). -/
def Rd.publish (x : Rd) (s₀ : Chip) (p : Nat) : Rd :=
  (slotsChanged s₀ x.s p).foldl (fun (y : Rd) k =>
    let y := if fwTracked y.s p then y.own p (fwAddr y.s p k) (imageBytes (slotImage y.s p k)) else y
    if slotMirrored s₀ y.s p k then { y with sent := y.sent ++ [sentImage y.s p k] } else y) x

/-- A write of the Start list's own that no regulator holds back; a refused one is counted (R324). -/
def ownNow (s : Chip) (p a : Nat) (l : List Byte) : Chip :=
  if (memRefusal s p a l.length true).isSome then refuseAccess s a false else memPut (chargeRun s p a l.length) a l

/-- The same after a reset, which waits for no access (DESIGN CHOICE, log 123). -/
def publishNow (s₀ s : Chip) (p : Nat) : Chip :=
  (slotsChanged s₀ s p).foldl (fun (t : Chip) k =>
    let t := if fwTracked t p then ownNow t p (fwAddr t p k) (imageBytes (slotImage t p k)) else t
    if slotMirrored s₀ t p k then mirrorAll t p none [sentImage t p k] else t) s

/-! ### Serving commands' ends (R264, R293) -/

/-- The Start list as an engine. -/
def startListOf (o : Origin) : Engine := .startList o.part

/-- A serving command is done with a status and its INFO (R293, Table 09-13). -/
def serveDone (s : Chip) (o : Origin) (op : Nat) (b : Body) (status info : Nat) : Chip :=
  let p := o.part.val
  let decline := fun (t : Chip) f => slFlag (slBump t p f) p Reg.SL_IRQ_STAT_DECLINE
  let s := if status = 0x302 then slBump s p Reg.SL_EVENTS_DUPLICATES
    else if status = 0x303 then decline s Reg.SL_DECLINES_MEMORY
    else if status = 0x304 then decline s Reg.SL_DECLINES_TIME
    else if status = 0x305 then decline s Reg.SL_DECLINES_BUDGET
    else if status = 0x306 then decline s Reg.SL_DECLINES_SLOTS
    else s
  finish (onJob s o (fun j => { j with outcome := some (status, info) })) o (startListOf o) op b

/-- The same for a reader's module. -/
def Rd.done (x : Rd) (o : Origin) (op : Nat) (b : Body) (status info : Nat) : Rd :=
  { x with s := serveDone x.s o op b status info }

/-- A fault of a job that the Start list, the page walker or a memory level reports (R256, R294, R323). -/
def faultSl (s : Chip) (o : Origin) (code : Nat) (a : Option Nat) : Chip :=
  if 0x60 ≤ code ∧ code ≤ 0x64 then
    faultJob s (slHead s o.part.val) (some Reg.SL_ERR_STAT_JOB_FAULT) o code (a.map (fun v => (0, v)))
  else if code = 0x50 then faultJob s (allocPage s o.part.val) (some Reg.PW_ERR_STAT_JOB_FAULT) o code (a.map (fun v => (0, v)))
  else faultRein s o code a

/-- A serving command's job faults. -/
def Rd.failed (x : Rd) (o : Origin) (op : Nat) (b : Body) (code : Nat) (a : Option Nat) : Rd :=
  { x with s := finish (faultSl x.s o code a) o (startListOf o) op b }

/-! ### Deliveries (R269) -/

/-- Write a delivery record: KIND 0 TOKEN, 1 TURN_END, 2 FINAL. -/
def Rd.deliver (x : Rd) (p k kind token : Nat) : Rd :=
  match slotAt x.s p k with
  | none => x
  | some t =>
    let size := 2 ^ t.delivLog2
    let phase := if t.records / size % 2 = 0 then 2 ^ 31 else 0
    let last := if kind = 2 then t.fault * 2 ^ 16 + t.final else 0
    let l := toBytes 4 (kind * 2 ^ 24 + token) ++ toBytes 4 (phase + t.length % 2 ^ 22) ++ toBytes 4 t.tokens ++ toBytes 4 last
    let a := t.delivAddr + 16 * (t.records % size)
    let fn := boundFunc x.s p
    let x := if t.delivSpace != 2 then x.own p a l
      else if partState x.s p = 3 then x else { x with s := hostPut x.s fn.1 fn.2 a l }
    x.onSlot p k (fun t => { t with records := t.records + 1 })

/-! ### Edits of the Start list (R249 to R251) -/

/-- A page edit of the Start list with the context that its walker has read, `c` (R282, R283). -/
def Rd.slEditWith (x : Rd) (p list m r : Nat) (a : EditArgs) (c : Rd × Option KvCtx) : Rd × Option (Nat × Option Nat) × Bool :=
  match c.2, tget (kvPart x.s p).models m with
  | none, _ => (c.1.calm x.bad, c.1.bad, false)
  | some _, none => (c.1.calm x.bad, some (0x0F, none), false)
  | some k, some l =>
    let env : EditEnv := { p := p, r := r, who := none, c := k, lay := l, list := list }
    let e := env.run c.1 a
    let y := if e.x.ended then e.x else { e.x with s := bump e.x.s (.pw r) Reg.PW_EDIT_STAT_EDITS 1 }
    (y.calm x.bad, e.x.bad, e.wrote)

/-- Carry an edit out on a list of model `m`: the reader without its fault, the fault, and whether an entry was written. -/
def Rd.slEdit (x : Rd) (p list m : Nat) (a : EditArgs) : Rd × Option (Nat × Option Nat) × Bool :=
  x.slEditWith p list m (allocRegion x.s p) a (x.ctx p (allocRegion x.s p) none)

/-- An edit of every block of a slot's list, or of a range of it; LIST_GEN rises where an entry was written (R250). -/
def Rd.editSlot (x : Rd) (p k : Nat) (a : EditArgs) : Rd × Option (Nat × Option Nat) :=
  match slotAt x.s p k with
  | none => (x, none)
  | some t =>
    let e := x.slEdit p t.listAddr t.model a
    (if e.2.2 then e.1.onSlot p k (fun t => { t with listGen := (t.listGen + 1) % 2 ^ 16 }) else e.1, e.2.1)

/-- What an edit of the Start list leaves where its fault is no job's. -/
def Rd.afterEdit (e : Rd × Option (Nat × Option Nat)) : Rd := { e.1 with bad := e.2 }.drop e.1.bad

/-- The parameters of an edit of blocks 0 to `n` − 1. -/
def wholeEdit (op n : Nat) (tier : Bool) (src : Nat) : EditArgs :=
  { op := op, tier := tier, first := 0, blocks := n, layer := 0, value := 0, src := src }

/-- The present entries among the first `n` of a list that lie in a tier. -/
def Rd.tierPages (x : Rd) (p list n : Nat) (tierB : Bool) : Rd × Nat :=
  (List.range n).foldl (fun (a : Rd × Nat) i =>
    let e := a.1.devFree p none (list + 4 * i) 4
    let v := ofBytes e.2.1
    (e.1, if !e.1.ended && v != absent && entryTier v == tierB then a.2 + 1 else a.2)) (x, 0)

/-- Blocks among the first `n` whose pages all lie in tier A (R290). -/
def Rd.blocksInA (x : Rd) (p list layers n : Nat) : Rd × Nat :=
  (List.range n).foldl (fun (a : Rd × Nat) i =>
    let e := a.1.tierPages p (list + 4 * i * layers) layers false
    (e.1, if e.2 = layers then a.2 + 1 else a.2)) (x, 0)

/-! ### States and ends of slots (R271, R284, R288) -/

/-- The slot enters a state at stamp `at'`; timers run only while it is PAUSED or BOATHOUSED. -/
def Rd.toState (x : Rd) (p k st at' : Nat) : Rd :=
  x.onSlot p k (fun t =>
    let keep := st = 4 ∨ st = 5
    { t with state := st, stateTime := at', due := if keep then t.due else 0, timer := if keep then t.timer else .off })

/-- The request pauses (R288): DUE is the stamp plus MOVE_DELAY. -/
def Rd.pause (x : Rd) (p k at' : Nat) : Rd :=
  let d := at' + msNs (slCfg x.s p Reg.SL_PAUSE_CFG_MOVE_DELAY)
  (x.toState p k 4 at').onSlot p k (fun t => { t with due := d, timer := .move })

/-- The request becomes terminal, with its final status and FAULT. -/
def Rd.terminate (x : Rd) (p k st final fault at' : Nat) : Rd :=
  let x := (x.toState p k st at').onSlot p k (fun t => { t with final := final, fault := fault })
  if st = 9 then { x with s := slBump x.s p Reg.SL_FAULT_STAT_FAILED } else x

/-- Recent keys of a slice: 4,096, or 1,024 under firmware tracking (R284). -/
def recentCap (s : Chip) (p : Nat) : Nat := if fwTracked s p then 1024 else 4096

/-- Enter a key: it becomes the latest, and the oldest beyond the memory's size is dropped (R284). -/
def enterKey (cap : Nat) (l : List (Nat × Nat)) (key info : Nat) : List (Nat × Nat) :=
  if key = 0 then l
  else
    let m := l.filter (fun e => e.1 != key) ++ [(key, info)]
    m.drop (m.length - cap)

/-- A slot becomes FREE, and its generation rises (R262). -/
def freeSlot (s : Chip) (p k : Nat) : Chip :=
  match slotAt s p k with
  | none => s
  | some t => setServe s p (fun v => { v with slots := tdel v.slots k, gens := tset v.gens k ((t.gen + 1) % 2 ^ 16) })

/-- The commands that an ending slot still holds find no live slot (R262). -/
def Rd.dropEvents (x : Rd) (t : Slot) : Rd :=
  let x := (t.pend ++ t.later).foldl (fun (y : Rd) e => match e.2 with
    | .command op o b => y.done o op b 0x307 0
    | _ => y) x
  match t.edit with
  | some (o, b) => x.done o 0x44 b 0x307 0
  | none => x

/-- A terminal slot proceeds to FREE (R271). -/
def Rd.endSlot (x : Rd) (p k : Nat) : Rd :=
  match slotAt x.s p k with
  | none => x
  | some t =>
    let x := if t.lostList then x else Rd.afterEdit (x.editSlot p k (wholeEdit 2 t.listBlocks false 0))
    let x := (x.deliver p k 2 0).dropEvents t
    let info := handleOf k t.gen + t.tokens % 2 ^ 19 * 2 ^ 32 + t.final % 256 * 2 ^ 56
    let cap := recentCap x.s p
    let s := setServe x.s p (fun v => { v with recent := tmod v.recent (k / 16384) [] (fun l => enterKey cap l t.key info) })
    { x with s := freeSlot s p k }

/-- End every terminal slot, in the order of their handles. -/
def Rd.reap (x : Rd) (p : Nat) : Rd :=
  ((serve x.s p).slots.filter (fun e => terminal e.2)).foldl (fun y e => y.endSlot p e.1) x

/-! ### Moves (R288) -/

/-- A move did not complete. -/
def Rd.moveFails (x : Rd) (p k : Nat) : Rd :=
  let x := x.onSlot p k (fun t => { t with moveFailed := true })
  { x with s := slFlag (slBump x.s p Reg.SL_FAULT_STAT_MOVE_FAILED) p Reg.SL_IRQ_STAT_MOVE_FAILED }

/-- The move is due (R288): it starts where the Boathouse can take the pages; the time to live runs from the due instant. -/
def Rd.moveDue (x : Rd) (p k : Nat) : Rd :=
  match slotAt x.s p k with
  | none => x
  | some t =>
    if t.state ≠ 4 then x
    else
      let n := x.tierPages p t.listAddr (t.listBlocks * t.lay.layers) false
      let y := (n.1.drop x.bad).onSlot p k (fun t => { t with due := t.due + t.ttl * 1000000000, timer := .expiry })
      if n.1.bad.isNone && n.2 ≤ (kvPart y.s p).freeB then y.onSlot p k (fun t => { t with moving := true })
      else y.moveFails p k

/-! ### Slot storage (R284, R438, R488) -/

/-- The error record of an uncorrectable slot word. -/
def slotUe (s : Chip) (p : Nat) : Chip :=
  let pg := slHead s p
  report s pg Reg.SL_ERR_STAT_SLOT_UE { plainNote pg .job 0x63 with part := some p }

/-- Slot `k` is read, and its words meet an error of their own, `met`, or an armed injection of the Start list page: a
corrected word, or one that ends the request (R284); whether the list pointer is among what is lost is not stated (a free
value). -/
def Rd.slotMeets (x : Rd) (p k : Nat) (met : Ecc) : Rd :=
  let pg := slHead x.s p
  let arm := rd x.s pg Reg.ERR_INJECT_ARM
  let clear := fun (s : Chip) n => if bit arm n then wr s pg Reg.ERR_INJECT_ARM (arm - 2 ^ n) else s
  if bit arm 2 || met == .uncorrectable then
    let d := draw (slotUe (clear x.s 2) p)
    let y := ({ x with s := d.2 }).terminate p k 9 0x313 0x63 x.s.now
    y.onSlot p k (fun t => { t with lostList := Config.freeNat d.1 % 2 == 1 })
  else if bit arm 1 || met == .corrected then
    let e : BufferError := { row := ⟨k / 4 % 4096, Nat.mod_lt _ (by decide)⟩, uncorrectable := false }
    let ce := (Reg.SL_ERR_STAT_SLOT_CE, 0x62)
    let ue := (Reg.SL_ERR_STAT_SLOT_UE, 0x63)
    { x with s := bufferError (clear x.s 1) pg (580 + k / 16384) e ce ue (k / 16384) }
  else x

end Sys2Proof.Machine
end

