-- ==== Sys2Proof/Machine/Admission.lean ====
section
/-!
DEFINITION. Admission (09): request descriptors (R265, R266), the step-time model (R291, R292), the checks of R290, and
admitting a resume (R289).
-/
namespace Sys2Proof.Machine

/-! ### The step-time model (R291) -/

/-- raw(N, S) in nanoseconds. -/
def modelRaw (s : Chip) (p n sum : Nat) : Nat :=
  slCfg s p Reg.SL_MODEL_A_A + slCfg s p Reg.SL_MODEL_B_B * n / 1000 + slCfg s p Reg.SL_MODEL_C_C * sum / 1000000

/-- t(N, S) in nanoseconds. -/
def modelTime (s : Chip) (p n sum : Nat) : Nat := modelRaw s p n sum * slCfg s p Reg.SL_MODEL_R_R / 65536

/-- R corrected by a step of `measured` ns (R292). Where the raw prediction is 0 the spec states no ratio: it is free. -/
def correctR (s : Chip) (p measured n sum : Nat) : Chip :=
  let raw := modelRaw s p n sum
  let r : Int := slCfg s p Reg.SL_MODEL_R_R
  let q : Int := (if raw = 0 then Config.divByZero (measured * 65536) else measured * 65536 / raw : Nat)
  let v := r + (q - r) / (2 ^ slCfg s p Reg.SL_CFG_GAIN : Nat)
  wr s (slPage s p) Reg.SL_MODEL_R_R (min (max v 16384) 1048576).toNat

/-! ### The order of the batch (R275) -/

/-- Does a slot with this PRIORITY, DEADLINE and key sort before another? -/
def sortsBefore (p1 d1 k1 p2 d2 k2 : Nat) : Bool :=
  if p1 ≠ p2 then decide (p2 < p1)
  else
    let e := fun d => if d = 0 then 2 ^ 64 else d
    if d1 ≠ d2 then decide (e d1 < e d2) else decide (k1 < k2)

/-! ### Admission (R290) -/

/-- What a submission or a resume asks for: its account, its list's blocks, LENGTH, PROMPT_LEN, MAX_NEW, PRIORITY, DEADLINE,
its layout, the blocks already in tier A, the pages in the Boathouse, its slot, and whether it is a resume. -/
structure Bid where
  account : Nat
  listBlocks : Nat
  length : Nat
  promptLen : Nat
  maxNew : Nat
  priority : Nat
  deadline : Nat
  lay : KvLayout
  inA : Nat
  boat : Nat
  slot : Option Nat
  resume : Bool
deriving DecidableEq, Repr

/-- The limits of R268: 0 where neither is passed. -/
def limitStatus (length promptLen listBlocks pos : Nat) : Nat :=
  if length + promptLen > 262144 then 0x30A else if length + promptLen > listBlocks * pos then 0x30B else 0

/-- The frames that the request needs (R290). -/
def needOf (v : Bid) : Nat :=
  let f := min (v.listBlocks * v.lay.pos) (v.length + v.promptLen + v.maxNew)
  v.lay.layers * cdiv f v.lay.pos - v.lay.layers * v.inA

/-- The slots other than the one that resumes: its prompt is not ahead of itself (R291). -/
def otherSlots (s : Chip) (p : Nat) (v : Bid) : Table Slot :=
  (serve s p).slots.filter (fun e => !(v.resume && v.slot == some e.1))

/-- Prompt tokens of a slot in the running step. -/
def inStepTokens (s : Chip) (p k : Nat) : Nat :=
  match (serve s p).step with
  | some st => ((st.placed.filter (fun e => e.slot == k)).map (fun e => e.prompt)).sum
  | none => 0

/-- P_ahead (R291). -/
def promptAhead (s : Chip) (p : Nat) (v : Bid) : Nat :=
  ((otherSlots s p v).map (fun e =>
    if sortsBefore e.2.priority e.2.deadline e.1 v.priority v.deadline (v.slot.getD 0) then
      e.2.promptLeft - inStepTokens s p e.1 else 0)).sum

/-- The steps that a prompt takes at `chunk` tokens each (R291): a free number where `chunk` is 0, as the spec states none. -/
def stepsFor (prompt chunk : Nat) : Nat := if chunk = 0 then Config.divByZero prompt else cdiv prompt chunk

/-- The estimated local time of the first token, with the margin (R290, R291), by the limits in force (R295). -/
def estimate (s : Chip) (p : Nat) (v : Bid) : Nat :=
  let chunk := (serve s p).chunk
  let step := (serve s p).step
  let nCur := match step with
    | some st => st.entries
    | none => 0
  let sCur := match step with
    | some st => st.sum
    | none => 0
  let tRem := match step with
    | some st => st.catchAt + modelTime s p nCur sCur - s.now
    | none => 0
  let m := if v.promptLen = 0 then 1 else min v.promptLen chunk
  let sum := m * v.length + m * (m + 1) / 2
  let n := max (max (stepsFor v.promptLen chunk)
    (stepsFor (promptAhead s p v + v.promptLen) (serve s p).prefill)) 1
  s.now + tRem + slCfg s p Reg.SL_FETCH_NS_NS * v.boat + n * modelTime s p (nCur + m) (sCur + sum)
    + 1000000 * slCfg s p Reg.SL_ADMIT_CFG_MARGIN

/-- The first check that fails (R290): its status, or 0. -/
def admission (s : Chip) (p : Nat) (a : Account) (v : Bid) : Nat :=
  let reserved := ((serve s p).slots.map (fun e => e.2.reserve)).sum
  if a.budget = 0 || (a.throttled && a.decline) then 0x305
  else if v.slot.isNone then 0x306
  else if (kvPart s p).freeA < reserved + needOf v + 64 * slCfg s p Reg.SL_ADMIT_CFG_FLOOR then 0x303
  else if v.deadline ≠ 0 ∧ v.deadline < estimate s p v then 0x304
  else 0

/-! ### Resumes (R289) -/

/-- SERVE_RESUME applied to a slot that is PAUSED or BOATHOUSED. -/
def Rd.resume (x : Rd) (p k : Nat) (t : Slot) (o : Origin) (b : Body) : Rd :=
  let addr := bq b 0x14
  let len := bf b 0x1C 21 0
  let new := if bf b 0x20 18 0 = 0 then t.maxNew else bf b 0x20 18 0
  let dead := bq b 0x24
  if addr % 4 ≠ 0 ∨ bf b 0x20 18 0 > 262144 then x.failed o 0x43 b 0x41 none
  else match tget (kvPart x.s p).models t.model with
    | none => x.failed o 0x43 b 0x0F none
    | some l =>
      let limit := limitStatus t.length len t.listBlocks l.pos
      if limit ≠ 0 then x.done o 0x43 b limit 0
      else
        let c := x.tierPages p t.listAddr (t.listBlocks * l.layers) true
        let a := c.1.blocksInA p t.listAddr l.layers (t.length / l.pos)
        let e := a.1.account p t.account
        let bid : Bid :=
          { account := t.account, listBlocks := t.listBlocks, length := t.length, promptLen := len, maxNew := new,
            priority := t.priority, deadline := dead, lay := l, inA := a.2, boat := c.2, slot := some k, resume := true }
        match e.1.bad with
        | some (code, v) => (e.1.calm x.bad).failed o 0x43 b code v
        | none =>
          let st := admission e.1.s p e.2 bid
          if st ≠ 0 then e.1.done o 0x43 b st 0
          else
            let y := (e.1.toState p k 1 x.s.now).onSlot p k (fun t =>
              { t with promptAddr := addr, promptLeft := len, maxNew := new, turnLeft := new, deadline := dead,
                       reserve := needOf bid, lay := l, first := true, fetching := decide (0 < c.2) })
            y.done o 0x43 b 0x301 0

/-! ### Submissions (R263 to R268, R284) -/

/-- Does a request descriptor break R266, beside GEN and MODEL? -/
def descInvalid (l : List Byte) (lay : KvLayout) : Bool :=
  let w := fun off => field l off 4
  let q := fun off => field l off 8
  let temp := w 0x54
  let topP := w 0x58
  let blocks := bits (w 0x28) 21 0
  let prefixBlocks := bits (w 0x2C) 21 0
  let space := bits (w 0) 25 24
  let log2 := bits (w 0x50) 4 0
  let maxNew := bits (w 0x44) 18 0
  q 0x20 % 4 != 0 || q 0x38 % 4 != 0 || q 0x48 % 4096 != 0 || q 0x30 % 16 != 0
    || !(space == 1 || space == 2) || decide (log2 < 4) || decide (log2 > 16)
    || maxNew == 0 || decide (maxNew > 262144) || decide (bits (w 0x5C) 10 0 > 1024) || decide (bits (w 4) 23 12 > 3600)
    || bits temp 30 23 == 255 || decide (temp > 2 ^ 31) || topP == 0 || decide (topP > 0x3F800000)
    || blocks == 0 || decide (blocks * lay.pos > 262144)
    || decide (prefixBlocks > blocks) || (prefixBlocks != 0 && q 0x30 == 0)
    || (bits (w 0x40) 21 0 == 0 && prefixBlocks == 0)

/-- The slot of an admitted request. -/
def slotOfDesc (s : Chip) (p : Nat) (l : List Byte) (lay : KvLayout) (gen listGen need : Nat) : Slot :=
  let w := fun off => field l off 4
  let q := fun off => field l off 8
  let ttl := bits (w 4) 23 12
  { gen := gen, state := 1, inStep := false, editing := false, fetching := false, moving := false, moveFailed := false,
    hold := bit (w 0) 27, mirror := bit (w 0) 26, stepFaults := 0, priority := bits (w 0) 23 20, model := bits (w 0) 19 16,
    account := bits (w 0) 11 0, variant := bits (w 4) 11 0, length := bits (w 0x2C) 21 0 * lay.pos,
    promptLeft := bits (w 0x40) 21 0, listAddr := q 0x20, listGen := listGen,
    ttl := if ttl = 0 then slCfg s p Reg.SL_PAUSE_CFG_TTL_DEFAULT else ttl, listBlocks := bits (w 0x28) 21 0,
    deadline := q 0x18, key := q 8, seed := q 0x10, stateTime := s.now, due := 0, promptAddr := q 0x38, delivAddr := q 0x48,
    period := bits (w 0x68) 23 0, delivSpace := bits (w 0) 25 24, delivLog2 := bits (w 0x50) 4 0, tokens := 0,
    turnLeft := bits (w 0x44) 18 0, temp := w 0x54, topP := w 0x58, topK := bits (w 0x5C) 10 0, stop0 := w 0x60,
    stop1 := w 0x64, lastToken := 0, reserve := need, maxNew := bits (w 0x44) 18 0, lay := lay, records := 0, first := true,
    final := 0, fault := 0, lostList := false, timer := .off, pend := [], later := [], edit := none }

/-- The INFO of a DUPLICATE, where the key matches a live slot or a recent key (R284, R293). -/
def duplicateInfo (s : Chip) (p key : Nat) : Option Nat :=
  if key = 0 then none
  else
    match (serve s p).slots.find? (fun e => e.2.key == key) with
    | some e => some (handleOf e.1 e.2.gen + e.2.tokens % 2 ^ 19 * 2 ^ 32 + 2 ^ 55)
    | none => ((serve s p).recent.findSome? (fun r => r.2.find? (fun e => e.1 == key))).map (fun e => e.2)

/-- Submit a request whose descriptor has been read (R266 to R268, R284, R290). -/
def Rd.submit (x : Rd) (o : Origin) (b : Body) (l : List Byte) : Rd :=
  let p := o.part.val
  let at' := if bf b 0x18 1 0 = 1 then some (bq b 0x10) else none
  let w := fun off => field l off 4
  if bits (w 0) 31 30 ≠ 0 then x.failed o 0x40 b 0x60 at'
  else match tget (kvPart x.s p).models (bits (w 0) 19 16) with
    | none => x.failed o 0x40 b 0x0F none
    | some lay =>
      let blocks := bits (w 0x2C) 21 0
      let limit := limitStatus (blocks * lay.pos) (bits (w 0x40) 21 0) (bits (w 0x28) 21 0) lay.pos
      if descInvalid l lay then x.failed o 0x40 b 0x60 at'
      else match duplicateInfo x.s p (field l 8 8) with
        | some info => x.done o 0x40 b 0x302 info
        | none =>
          if limit ≠ 0 then x.done o 0x40 b limit 0
          else
            let q := if blocks = 0 then (x, 0) else
              let e := x.sequence p none (field l 0x30 8)
              (e.1, e.2.1)
            let a := q.1.blocksInA p q.2 lay.layers blocks
            let c := a.1.tierPages p q.2 (blocks * lay.layers) true
            let e := c.1.account p (bits (w 0) 11 0)
            let bid : Bid :=
              { account := bits (w 0) 11 0, listBlocks := bits (w 0x28) 21 0, length := blocks * lay.pos,
                promptLen := bits (w 0x40) 21 0, maxNew := bits (w 0x44) 18 0, priority := bits (w 0) 23 20,
                deadline := field l 0x18 8, lay := lay, inA := a.2, boat := c.2, slot := pickSlot x.s p o.quad.val,
                resume := false }
            match e.1.bad with
            | some (code, v) => (e.1.calm x.bad).failed o 0x40 b code v
            | none =>
              let st := admission e.1.s p e.2 bid
              match st, bid.slot with
              | 0, some k =>
                let f := if blocks = 0 then (e.1, none, false) else
                  e.1.slEdit p (field l 0x20 8) (bits (w 0) 19 16) (wholeEdit 3 blocks false q.2)
                match f.2.1 with
                | some (code, v) => f.1.failed o 0x40 b code v
                | none =>
                  let gen := tgetD (serve f.1.s p).gens k 0
                  let t := slotOfDesc f.1.s p l lay gen (if f.2.2 then 1 else 0) (needOf bid)
                  let s := setServe f.1.s p (fun v => { v with slots := tset v.slots k t })
                  ({ f.1 with s := s }).done o 0x40 b 0x300 (handleOf k gen)
              | _, _ => e.1.done o 0x40 b st 0

/-- The request descriptor of a SERVE_SUBMIT (R265): from device addresses, or as the host answered. -/
def Rd.descriptor (x : Rd) (o : Origin) (b : Body) (host : HostReply) : Rd × List Byte :=
  let p := o.part.val
  let fn := boundFunc x.s p
  if bf b 0x18 1 0 = 1 then
    let e := x.devFree p (some o) (bq b 0x10) 128
    (e.1, e.2.1)
  else
    match hostReady x.s fn.1 fn.2, host with
    | true, .data l => (x, l)
    | _, _ => (({ x with s := hostError x.s fn.1 }).stop 0x4A none, [])

end Sys2Proof.Machine
end

