-- ==== Sys2Proof/Machine/Serving.lean ====
section
/-!
DEFINITION. The events of the Start list (09): serving commands and timers applied to slots (R282, R283, R288, R289), the
finish of a step (R271 to R273, R277, R292), faulted and dropped steps, and the rows that these make.
-/
namespace Sys2Proof.Machine

/-! ### Applying an event (R282, R283) -/

/-- Apply an event to a slot that is not busy. -/
def Rd.applyEvent (x : Rd) (p k at' : Nat) (e : SlotEvent) : Rd :=
  match slotAt x.s p k, e with
  | none, .command op o b => x.done o op b 0x307 0
  | none, _ => x
  | some t, .command op o b =>
    let running := decide (t.state ≤ 3)
    if terminal t then x.done o op b (if t.state = 6 ∧ (op = 0x41 ∨ op = 0x42) then 0x308 else 0x307) 0
    else if op = 0x41 then (x.terminate p k 7 0x311 0 at').done o op b 0x301 0
    else if op = 0x42 then
      if running then ((x.deliver p k 1 0).pause p k at').done o op b 0x301 0 else x.done o op b 0x309 0
    else if op = 0x43 then (if running then x.done o op b 0x309 0 else x.resume p k t o b)
    else x.onSlot p k (fun t => { t with editing := true, edit := some (o, b) })
  | some _, .move => x.moveDue p k
  | some t, .expiry =>
    if t.state = 4 ∨ t.state = 5 then
      ({ x with s := slBump x.s p Reg.SL_BOAT_STAT_EXPIRED }).terminate p k 8 0x312 0 at'
    else x

/-- Apply a slot's pending events while it is not busy (R282); `n` bounds them. -/
def Rd.drain (x : Rd) (p k at' : Nat) : Nat → Rd
  | 0 => x
  | n + 1 =>
    match slotAt x.s p k with
    | none => x
    | some t =>
      match t.pend with
      | [] => x
      | e :: rest =>
        if slotBusy t then x
        else Rd.drain ((x.onSlot p k (fun t => t.setPend t.later rest)).applyEvent p k at' e.2) p k at' n

/-- Apply all the pending events that a slot no longer holds back. -/
def Rd.release (x : Rd) (p k at' : Nat) : Rd :=
  match slotAt x.s p k with
  | some t => x.drain p k at' (t.pend.length + t.later.length)
  | none => x

/-- The commands of the origin that engine `e` runs with this opcode and body. -/
def runningCount (s : Chip) (o : Origin) (e : Engine) (op : Nat) (b : Body) : Nat :=
  ((s.q.jobs.filter (fromOrigin o)).map (fun j => j.cmds.countP (runsOn e op b))).sum

/-- Does the slot hold the event already? Commands may be equal: it holds as many as the Start list runs. -/
def alreadyHeld (s : Chip) (t : Slot) (e : SlotEvent) : Bool :=
  let n := (t.pend ++ t.later).countP (fun y => y.2 == e)
  match e with
  | .command op o b => decide (max 1 (runningCount s o (startListOf o) op b) ≤ n)
  | _ => decide (1 ≤ n)

/-- A busy slot holds an event (R282): a fifth command waits at the Start list; a timer is never refused. -/
def keepEvent (at' : Nat) (e : SlotEvent) (t : Slot) : Slot :=
  match e with
  | .command _ _ _ => t.setPend (t.later ++ [(at', e)]) t.pend
  | _ => { t with pend := holdEvent at' e t.pend }

/-- An event reaches a slot: a busy slot holds it (R282). -/
def Rd.slotEvent (x : Rd) (p k at' : Nat) (e : SlotEvent) : Rd :=
  match slotAt x.s p k with
  | none => x.applyEvent p k at' e
  | some t =>
    if !(slotBusy t) then x.applyEvent p k at' e
    else if alreadyHeld x.s t e then x
    else x.onSlot p k (keepEvent at' e)

/-! ### Timers (R280, R281, R288) -/

/-- Is the slot's timer due by `bound`, and not yet held? -/
def timerDue (bound : Nat) (t : Slot) : Bool :=
  t.timer != .off && decide (t.due ≤ bound)
    && !(t.pend.any (fun e => match e.2 with
      | .command _ _ _ => false
      | _ => true))

/-- The order of two due timers: by stamp, moves before expiries, by slot. -/
def timerOrder (e : Nat × Slot) : Nat := (e.2.due * 2 + (if e.2.timer = .move then 0 else 1)) * 65536 + e.1

/-- Run the timers of slots that are due by `bound`, in order; `n` bounds them. -/
def Rd.runTimers (x : Rd) (p bound : Nat) : Nat → Rd
  | 0 => x
  | n + 1 =>
    match leastOf timerOrder ((serve x.s p).slots.filter (fun e => timerDue bound e.2)) with
    | none => x
    | some e =>
      let ev := if e.2.timer = .move then SlotEvent.move else SlotEvent.expiry
      Rd.runTimers ((x.slotEvent p e.1 e.2.due ev).reap p) p bound n

/-- Run every timer of the partition that is due by `bound`: window rollovers, then slots' timers (R281). -/
def Rd.timers (x : Rd) (p bound : Nat) : Rd :=
  let x := ((serve x.s p).accounts.map (fun e => e.1)).foldl (fun y a => y.rollAccount p bound a) x
  x.runTimers p bound (2 * (serve x.s p).slots.length)

/-! ### The finish (R272, R273, R277, R292) -/

/-- The origin of a step's accesses in the step area: the step queue, the step's tag, and the lead quad. -/
def stepOrigin (p : Nat) (st : StepRun) (quad : Nat) : Origin :=
  { part := ⟨p % 16, Nat.mod_lt _ (by decide)⟩, queue := ⟨st.queue % 64, Nat.mod_lt _ (by decide)⟩,
    tag := BitVec.ofNat 16 st.no, quad := quadFin quad, step := true }

/-- TOKEN_OUT of request `i` of the step: VALID with its token, or none (R276). -/
def Rd.tokenOut (x : Rd) (p : Nat) (st : StepRun) (i : Nat) : Rd × Option Nat :=
  let e := x.read (stepOrigin p st st.lead) (st.area + 0x40 + 68 * st.nt + 4 * i) 4
  let v := ofBytes e.2.1
  (e.1.calm x.bad, if e.1.bad.isNone && !e.2.2 && bit v 31 then some (bits v 23 0) else none)

/-- The step counts against a request (R277): one more faulted step, and FAILED at the limit. -/
def Rd.faultRequest (x : Rd) (p k code at' : Nat) : Rd :=
  let x := x.onSlot p k (fun t => { t with stepFaults := t.stepFaults + 1 })
  let n := slCfg x.s p Reg.SL_CFG_FAULT_LIMIT
  match slotAt x.s p k with
  | some t => if (if n = 0 then 8 else n) ≤ t.stepFaults ∧ !(terminal t) then x.terminate p k 9 0x313 code at' else x
  | none => x

/-- Does a token equal a stop token (R265, R272)? -/
def stopsAt (stop token : Nat) : Bool := bits stop 31 24 != 0xFF && bits stop 23 0 == token

/-- Is the first of the slot's pending cancels and pauses a cancel (R277)? -/
def cancelFirst (t : Slot) : Bool :=
  match t.pend.find? (fun e => match e.2 with
      | .command op _ _ => op == 0x41 || op == 0x42
      | _ => false) with
  | some (_, .command op _ _) => op == 0x41
  | _ => false

/-- A request's progress in a step: its length, its prompt, its reserved frames, and the charge of its prompt tokens (R277,
R286). -/
def Rd.progress (x : Rd) (p : Nat) (e : Placed) (t0 : Slot) : Rd :=
  let len := t0.length + e.count
  let fresh := t0.lay.layers * (cdiv len t0.lay.pos - cdiv t0.length t0.lay.pos)
  let x := x.onSlot p e.slot (fun t =>
    { t with length := len, promptLeft := t.promptLeft - e.prompt, promptAddr := t.promptAddr + 4 * e.prompt,
             reserve := t.reserve - fresh })
  let a := x.account p t0.account
  if a.2.chargePrompt then a.1.chargeAccount p t0.account e.prompt else a.1

/-- The reason for which a request's length ends it, or 0 (R271). -/
def lengthLimit (t0 : Slot) (e : Placed) : Nat :=
  let len := t0.length + e.count
  if len ≥ 262144 then 0x30A else if len ≥ t0.listBlocks * t0.lay.pos then 0x30B else 0

/-- A request whose prompt is done goes on in DECODE (R277). -/
def Rd.toDecode (x : Rd) (p : Nat) (e : Placed) (t0 : Slot) (at' : Nat) : Rd :=
  if t0.state = 2 ∧ t0.promptLeft = e.prompt then x.toState p e.slot 3 at' else x

/-- A request ends where its length has reached its limit (R271). -/
def Rd.lengthEnd (x : Rd) (p : Nat) (e : Placed) (t0 : Slot) (at' : Nat) : Rd :=
  if lengthLimit t0 e ≠ 0 then x.terminate p e.slot 6 (lengthLimit t0 e) 0 at' else x

/-- A token is delivered and charged, and the slot's deadline moves on (R270, R277, R286). -/
def Rd.deliverToken (x : Rd) (p : Nat) (e : Placed) (t0 : Slot) (tok at' : Nat) : Rd :=
  let k := e.slot
  let x := (x.deliver p k 0 tok).onSlot p k (fun t =>
    { t with tokens := (t.tokens + 1) % 2 ^ 32, turnLeft := t.turnLeft - 1, lastToken := tok })
  let x := x.chargeAccount p t0.account 1
  let late := t0.deadline ≠ 0 ∧ t0.first ∧ t0.deadline < at'
  let x := if late then { x with s := slBump x.s p Reg.SL_EVENTS_MISSED } else x
  let next := if t0.deadline = 0 ∨ t0.period = 0 then 0 else at' + t0.period * 1000
  x.onSlot p k (fun t => { t with deadline := next, first := false })

/-- Does the token end the turn (R271)? -/
def endsTurn (t0 : Slot) (tok : Nat) : Bool := stopsAt t0.stop0 tok || stopsAt t0.stop1 tok || decide (t0.turnLeft ≤ 1)

/-- Steps 1 to 4 of Table 09-8 for a request of the step; `out` is its token. -/
def Rd.advanceSlot (x : Rd) (p : Nat) (e : Placed) (out : Option Nat) (at' : Nat) : Rd :=
  match slotAt x.s p e.slot with
  | none => x
  | some t0 =>
    let k := e.slot
    let x := x.progress p e t0
    match e.sample, out with
    | false, _ => (x.onSlot p k (fun t => { t with stepFaults := 0 })).lengthEnd p e t0 at'
    | true, none =>
      let y := (x.toDecode p e t0 at').faultRequest p k 0 at'
      match slotAt y.s p k with
      | some t => if terminal t then y else y.lengthEnd p e t0 at'
      | none => y
    | true, some tok =>
      let x := x.onSlot p k (fun t => { t with stepFaults := 0 })
      if cancelFirst t0 && lengthLimit t0 e = 0 && !(endsTurn t0 tok && !t0.hold) then x
      else
        let x := x.deliverToken p e t0 tok at'
        if lengthLimit t0 e ≠ 0 then x.lengthEnd p e t0 at'
        else if endsTurn t0 tok && !t0.hold then x.terminate p k 6 0x310 0 at'
        else if endsTurn t0 tok then (x.deliver p k 1 0).pause p k at'
        else x.toDecode p e t0 at'

/-- Clear IN_STEP of the requests that still hold their slots. -/
def Rd.leaveStep (x : Rd) (p : Nat) (l : List Placed) : Rd :=
  l.foldl (fun y e => y.onSlot p e.slot (fun t => if t.gen = e.gen then { t with inStep := false } else t)) x

/-- The requests of a step that still hold their slots. -/
def stillPlaced (s : Chip) (p : Nat) (l : List Placed) : List Placed :=
  l.filter (fun e => match slotAt s p e.slot with
    | some t => t.gen == e.gen && !(terminal t)
    | none => false)

/-- The step is over: its job goes without a record, and its walk ends (R273). -/
def endStep (s : Chip) (p : Nat) (st : StepRun) (lost : Bool) : Chip :=
  let s := match jobById s st.job with
    | some j => removeJob (if lost then dropSets s j else s) j
    | none => s
  setServe (endWalk s st.walk) p (fun v => { v with step := none })

/-- An abandoned step (R271 to R277): no token is delivered or charged; where it faulted, each request counts it. -/
def Rd.abandonStep (x : Rd) (p : Nat) (st : StepRun) (code : Option Nat) (at' : Nat) : Rd :=
  let x := { x with s := endStep x.s p st true }
  let mine := stillPlaced x.s p st.placed
  let x := x.leaveStep p st.placed
  let x := match code with
    | some c =>
      let y := mine.foldl (fun (y : Rd) (e : Placed) => y.faultRequest p e.slot c at') x
      { y with s := slFlag (slBump y.s p Reg.SL_FAULT_STAT_STEP_FAULTS) p Reg.SL_IRQ_STAT_STEP_FAULT }
    | none => x
  (mine.foldl (fun (y : Rd) (e : Placed) => y.release p e.slot at') x).reap p

/-- A finish of a step that was not abandoned (Table 09-8). -/
def Rd.finishStep (x : Rd) (p : Nat) (st : StepRun) (at' : Nat) : Rd :=
  let x := { x with s := endStep x.s p st false }
  let mine := stillPlaced x.s p st.placed
  let x := (st.placed.foldl (fun (a : Rd × Nat) e =>
    let o := a.1.tokenOut p st a.2
    (if mine.contains e then o.1.advanceSlot p e o.2 at' else o.1, a.2 + 1)) (x, 0)).1
  let x := x.leaveStep p st.placed
  let x := (mine.foldl (fun (y : Rd) (e : Placed) => y.release p e.slot at') x).reap p
  let measured := at' - st.catchAt
  let s := wr x.s (slPage x.s p) Reg.SL_STEP_TIME_LAST measured
  let s := slFlag (correctR s p measured st.entries st.sum) p Reg.SL_IRQ_STAT_FINISH
  let fn := boundFunc s p
  let s := if slCfg s p Reg.SL_FINISH_CFG_IRQ_EN = 1 then msix s fn.1 fn.2 (slCfg s p Reg.SL_FINISH_CFG_VECTOR) else s
  { x with s := s }

/-- The running step whose job has ended, with its job. -/
def stepEnded (s : Chip) (p : Nat) : Option (StepRun × Job × Nat) :=
  match (serve s p).step with
  | none => none
  | some st =>
    match jobById s st.job with
    | none => none
    | some j => j.endedAt.map (fun f => (st, j, f))

/-- The running step whose job a queue reset has discarded (R199). -/
def stepLost (s : Chip) (p : Nat) : Option StepRun := (serve s p).step.filter (fun st => (jobById s st.job).isNone)

/-- A step whose job a reset has discarded is abandoned, without a count (R199). -/
def Rd.dropLost (x : Rd) (p : Nat) : Rd :=
  match stepLost x.s p with
  | some st => x.abandonStep p st none x.s.now
  | none => x

/-- Run every event of the partition that is due by now, in the order of R281: timers, a finish, timers. A step that lost its
job goes first. -/
def Rd.runDue (x : Rd) (p : Nat) : Rd :=
  let x := x.dropLost p
  match stepEnded x.s p with
  | none => x.timers p x.s.now
  | some (st, j, f) =>
    let x := x.timers p f
    let x := match j.fault with
      | some (c, _) => x.abandonStep p st (some c) f
      | none => x.finishStep p st f
    x.timers p x.s.now

/-- A reader of the Start list's state once the events that are due by now have run in R281's order. -/
def slStart (s : Chip) (p : Nat) : Rd := (startRd s).runDue p

/-- The end of a Start list event: slots in a terminal state end, images and mirrors go out, and the reader settles. -/
def slEnd (s : Chip) (p : Nat) (cmd : Option Nat) (y : Rd) : Chip := ((y.reap p).publish s p).settle s p cmd

/-- An event of the Start list of partition `p`, for command number `cmd`: what is due first, then the event, then the ends
of slots, and what the event changed is published. Where an access waits, the whole event waits. -/
def slRun (s : Chip) (p : Nat) (cmd : Option Nat) (f : Rd → Rd) : Chip := slEnd s p cmd (f (slStart s p))

/-! ### Rows: commands (R264, R280 to R283) -/

/-- The number of a serving command that the Start list holds. -/
def servingCmd (s : Chip) (o : Origin) (op : Nat) (b : Body) : Option Nat :=
  (runningCmd s o (startListOf o) op b).map (fun c => c.seq)

/-- A serving command reaches the Start list: with ENABLE = 0 it faults (R264). -/
def slCommand (s : Chip) (o : Origin) (op : Nat) (b : Body) (f : Rd → Rd) : Chip :=
  slRun s o.part.val (servingCmd s o op b) (fun x =>
    if slCfg x.s o.part.val Reg.SL_CFG_ENABLE = 0 then x.failed o op b 0x61 none else f x)

/-- A submission once the Start list is enabled: its descriptor is read, then submitted. -/
def submitWork (o : Origin) (b : Body) (host : HostReply) (x : Rd) : Rd :=
  let space := bf b 0x18 1 0
  if bq b 0x10 % 128 ≠ 0 ∨ space = 0 ∨ space = 3 then x.failed o 0x40 b 0x41 none
  else
    let e := x.descriptor o b host
    match e.1.bad with
    | some (c, a) => (e.1.calm x.bad).failed o 0x40 b c a
    | none => if e.1.hold.isSome then e.1 else e.1.submit o b e.2

/-- SERVE_SUBMIT (R265, R266, R290). -/
def serveSubmit (s : Chip) (o : Origin) (b : Body) (host : HostReply) : Chip := slCommand s o 0x40 b (submitWork o b host)

/-- A command on one slot: the slot that its HANDLE names takes it; status 307H where it names none (R262, R282). -/
def slotWork (o : Origin) (op : Nat) (b : Body) (met : Ecc) (x : Rd) : Rd :=
  match slotNamed x.s o.part.val (bw b 0x10) with
  | none => x.done o op b 0x307 0
  | some k => (x.slotMeets o.part.val k met).slotEvent o.part.val k x.s.now (.command op o b)

/-- SERVE_CANCEL, SERVE_PAUSE, SERVE_RESUME or SERVE_EDIT: an event of the slot that its HANDLE names (R262, R282); `met` is
what the read of the slot's words meets. -/
def serveSlot (s : Chip) (o : Origin) (op : Nat) (b : Body) (met : Ecc) : Chip := slCommand s o op b (slotWork o op b met)

/-- SERVE_CANCEL (R283). -/
def serveCancel (s : Chip) (o : Origin) (b : Body) (met : Ecc) : Chip := serveSlot s o 0x41 b met

/-- SERVE_PAUSE (R283, R288). -/
def servePause (s : Chip) (o : Origin) (b : Body) (met : Ecc) : Chip := serveSlot s o 0x42 b met

/-- SERVE_RESUME (R283, R289). -/
def serveResume (s : Chip) (o : Origin) (b : Body) (met : Ecc) : Chip := serveSlot s o 0x43 b met

/-- SERVE_EDIT (R283): EDITING stays set until SERVE_EDIT_COMPLETE. -/
def serveEdit (s : Chip) (o : Origin) (b : Body) (met : Ecc) : Chip := serveSlot s o 0x44 b met

/-- The account a SERVE_ACCOUNT sets: budget, window, origin and bits from the command, the total at 0 (R285, R287). -/
def accountSet (v : Account) (b : Body) (now : Nat) : Account :=
  let origin := if bq b 0x1C = 0 then now else bq b 0x1C
  { v with budget := bw b 0x14, windowUs := bw b 0x18, origin := origin, decline := bb b 0x10 16,
           chargePrompt := bb b 0x10 17, total := 0, next := windowEnd now origin (bw b 0x18) }

/-- Setting an account: WINDOW_US from 1000 to 60,000,000 (R287). -/
def accountWork (o : Origin) (b : Body) (x : Rd) : Rd :=
  let p := o.part.val
  let us := bw b 0x18
  let a := bf b 0x10 11 0
  if us < 1000 ∨ us > 60000000 then x.failed o 0x45 b 0x41 none
  else
    let e := x.account p a
    (e.1.putAccount p a (accountSet e.2 b x.s.now)).done o 0x45 b 0x301 0

/-- SERVE_ACCOUNT (R285, R287). -/
def serveAccount (s : Chip) (o : Origin) (b : Body) : Chip := slCommand s o 0x45 b (accountWork o b)

/-- A query: the image of the slot its HANDLE names, written to DST (R270, R283). -/
def queryWork (o : Origin) (b : Body) (met : Ecc) (x : Rd) : Rd :=
  let p := o.part.val
  let dst := bq b 0x14
  match slotNamed x.s p (bw b 0x10) with
  | none => x.done o 0x46 b 0x307 0
  | some k =>
    let x := x.slotMeets p k met
    if dst % 128 ≠ 0 then x.failed o 0x46 b 0x41 none
    else
      let y := x.plainPut p dst (imageBytes (slotImage x.s p k)) false
      match y.bad with
      | some (c, a) => (y.calm x.bad).failed o 0x46 b c a
      | none => y.done o 0x46 b 0x301 0

/-- SERVE_QUERY (R262, R270, R283): the image as it stands. -/
def serveQuery (s : Chip) (o : Origin) (b : Body) (met : Ecc) : Chip := slCommand s o 0x46 b (queryWork o b met)

/-! ### Rows: the other events -/

/-- The slot that an event's handle names, where `f` holds of it. -/
def slotWhere (s : Chip) (p h : Nat) (f : Slot → Bool) : Option (Nat × Slot) :=
  match slotNamed s p h with
  | some k => match slotAt s p k with
    | some t => if f t then some (k, t) else none
    | none => none
  | none => none

/-- The edit that a slot holds, carried out; the slot is then free of it and of the commands that waited for it (R250, R283). -/
def editCompleteWork (p h k : Nat) (edit : Option (Origin × Body)) (x : Rd) : Rd :=
  match slotNamed x.s p h, edit with
  | some _, some (o, b) =>
    let a := editArgsOf b
    let x0 := x.onSlot p k (fun t => { t with editing := false, edit := none })
    let src := bq b 0x28
    let y := if a.blocks = 0 ∨ (a.op = 3 ∧ src % 16 ≠ 0) then x0.failed o 0x44 b 0x41 none
      else
        let q := if a.op = 3 then x0.sequence p none src else (x0, 0, 0, 0)
        match q.1.bad with
        | some (c, v) => (q.1.calm x.bad).failed o 0x44 b c v
        | none =>
          let e := q.1.editSlot p k { a with src := q.2.1 }
          match e.2 with
          | some (c, v) => e.1.failed o 0x44 b c v
          | none => e.1.done o 0x44 b 0x301 0
    y.release p k x.s.now
  | _, _ => x

/-- SERVE_EDIT_COMPLETE (R250, R283): the edit that EDITING shows is made, and its command ends. -/
def serveEditComplete (s : Chip) (p h : Nat) : Chip :=
  match slotWhere s p h (fun t => t.editing) with
  | none => s
  | some (k, t) =>
    let cmd := match t.edit with
      | some (o, b) => servingCmd s o 0x44 b
      | none => none
    slRun s p cmd (editCompleteWork p h k t.edit)

/-- STEP_FINISH (R273, R277): the step job's last command has ended. -/
def stepFinish (s : Chip) (p : Nat) : Chip := if (stepEnded s p).isSome then slRun s p none (fun x => x) else s

/-- ACCOUNT_WINDOW_ROLLOVER (R286): a window of a cached account has ended. -/
def accountWindowRollover (s : Chip) (p a : Nat) : Chip :=
  match tget (serve s p).accounts a with
  | some v => if v.next ≠ 0 ∧ v.next ≤ s.now then slRun s p none (fun x => x) else s
  | none => s

/-- MOVE_DUE (R288). -/
def moveDueRow (s : Chip) (p h : Nat) : Chip :=
  if (slotWhere s p h (fun t => t.timer == .move && decide (t.due ≤ s.now))).isSome then slRun s p none (fun x => x) else s

/-- TTL_EXPIRY (R288). -/
def ttlExpiry (s : Chip) (p h : Nat) : Chip :=
  if (slotWhere s p h (fun t => t.timer == .expiry && decide (t.due ≤ s.now))).isSome then slRun s p none (fun x => x) else s

/-- A slot's pages have moved to tier B: the slot is BOATHOUSED, and the move is counted (R288). -/
def moveDone (y : Rd) (p k now : Nat) : Rd :=
  let z := (y.toState p k 5 now).onSlot p k (fun t => { t with moveFailed := false, reserve := 0 })
  { z with s := slBump z.s p Reg.SL_BOAT_STAT_MOVES }

/-- The move that a slot holds, carried out: its pages go to tier B and the slot to BOATHOUSED, or the move has failed (R288). -/
def moveCompleteWork (p h k : Nat) (blocks : Nat) (x : Rd) : Rd :=
  if (slotNamed x.s p h).isNone then x
  else
    let e := x.editSlot p k (wholeEdit 4 blocks true 0)
    let y := (Rd.afterEdit e).onSlot p k (fun t => { t with moving := false })
    (if e.2.isSome then y.moveFails p k else moveDone y p k x.s.now).release p k x.s.now

/-- BOATHOUSE_MOVE_COMPLETE (R288): the pages of a slot that is MOVING move to the Boathouse. -/
def boathouseMoveComplete (s : Chip) (p h : Nat) : Chip :=
  match slotWhere s p h (fun t => t.moving) with
  | none => s
  | some (k, t) => slRun s p none (moveCompleteWork p h k t.listBlocks)

/-- The fetch that a slot holds, carried out: its pages come back to tier A, or the fetch has failed (R289). -/
def fetchCompleteWork (p h k : Nat) (blocks : Nat) (x : Rd) : Rd :=
  if (slotNamed x.s p h).isNone then x
  else
    let e := x.editSlot p k (wholeEdit 4 blocks false 0)
    let y := (Rd.afterEdit e).onSlot p k (fun t => { t with fetching := false })
    let y := if e.2.isSome then y.moveFails p k else y.onSlot p k (fun t => { t with moveFailed := false })
    y.release p k x.s.now

/-- BOATHOUSE_FETCH_COMPLETE (R289): the pages of a slot that is FETCHING move back to tier A. -/
def boathouseFetchComplete (s : Chip) (p h : Nat) : Chip :=
  match slotWhere s p h (fun t => t.fetching) with
  | none => s
  | some (k, t) => slRun s p none (fetchCompleteWork p h k t.listBlocks)

/-! ### Resets (R199, R361, R362) -/

/-- A reset of a queue by `reset`, with the step that it carries (R199): the step job is discarded and the step abandoned,
without a count, at the next event of the Start list where an access of it waits. The slots that the reset changes are
published (R261). -/
def resetQueueStep (reset : Chip → Chip) (s : Chip) (p n : Nat) : Chip :=
  let t := reset s
  let t := if queueState s p n = 0 then t else ((startRd t).dropLost p).settle t p none
  publishNow s t p

/-- A queue reset (R199). -/
def queueResetNow (s : Chip) (p n : Nat) : Chip := resetQueueStep (fun t => beginReset t p n 0x0200) s p n

/-- The reset of a queue whose partition is reset, or whose function has just come into existence (R362, R360). -/
def partQueueReset (status : Nat) (p : Nat) (s : Chip) (n : Nat) : Chip := resetQueueStep (fun t => resetQueue t p n status) s p n

/-- SQ_CTRL.RESET, or ENABLE = 0 (R199, R366). -/
def queueReset (s : Chip) (via : Via) (p n : Nat) (byEnable : Bool) : Chip :=
  if !(reaches s via p) then s
  else if partState s p = 4 then (if byEnable then setPending s p n false else s)
  else queueResetNow s p n

/-- A reset of the partition's Start list (R277, R362): every slot FREE without records, no recent key, no cached account, no
step. The registers and the limits in force stay (R361). -/
def resetServe (s : Chip) (p : Nat) : Chip :=
  let s := match (serve s p).step with
    | some st => endStep s p st true
    | none => s
  let s := ((serve s p).slots.map (fun e => e.1)).foldl (fun t k => freeSlot t p k) s
  setServe s p (fun v => { v with recent := [], accounts := [] })

end Sys2Proof.Machine
end

