-- ==== Sys2Proof/Machine/Catch.lean ====
section
/-!
DEFINITION. Serving steps: CATCH with its batch, step area and step program (R273 to R276), and SERVE_SAMPLE (R278, R279,
R516).
-/
namespace Sys2Proof.Machine

/-! ### The batch (R275) -/

/-- Is a slot eligible at a catch (R275)? -/
def eligibleSlot (s : Chip) (p : Nat) (t : Slot) : Bool :=
  decide (1 ≤ t.state ∧ t.state ≤ 3) && !(slotBusy t) && !(acctThrottled s p t.account) && t.pend.isEmpty

/-- Insert a slot in the order of R275. -/
def insertSlot (x : Nat × Slot) : List (Nat × Slot) → List (Nat × Slot)
  | [] => [x]
  | y :: l =>
    if sortsBefore y.2.priority y.2.deadline y.1 x.2.priority x.2.deadline x.1 then y :: insertSlot x l else x :: y :: l

/-- The eligible slots in order. -/
def eligibleOrder (s : Chip) (p : Nat) : List (Nat × Slot) :=
  ((serve s p).slots.filter (fun e => eligibleSlot s p e.2)).foldl (fun l e => insertSlot e l) []

/-- The state of filling the batch: tokens, decodes and prefill tokens so far, and the requests placed. -/
structure Batch where
  tokens : Nat
  decodes : Nat
  prefill : Nat
  placed : List Placed
deriving DecidableEq, Repr

/-- Place one slot, where the limits leave room (R275). -/
def placeSlot (maxTokens maxDecode maxPrefill chunk : Nat) (b : Batch) (e : Nat × Slot) : Batch :=
  let t := e.2
  if b.tokens = maxTokens then b
  else if t.promptLeft = 0 then
    if b.decodes = maxDecode then b
    else { b with tokens := b.tokens + 1, decodes := b.decodes + 1,
                  placed := b.placed ++ [{ slot := e.1, gen := t.gen, count := 1, prompt := 0, sample := true }] }
  else
    let n := min (min t.promptLeft chunk) (min (maxPrefill - b.prefill) (maxTokens - b.tokens))
    if n = 0 then b
    else { b with tokens := b.tokens + n, prefill := b.prefill + n,
                  placed := b.placed ++ [{ slot := e.1, gen := t.gen, count := n, prompt := n, sample := n == t.promptLeft }] }

/-- The batch of a catch (R275). -/
def formBatch (s : Chip) (p : Nat) : Batch :=
  (eligibleOrder s p).foldl (placeSlot (slCfg s p Reg.SL_BATCH_LIMITS_MAX_TOKENS) (slCfg s p Reg.SL_BATCH_LIMITS_MAX_DECODE)
    (slCfg s p Reg.SL_PREFILL_LIMITS_MAX_PREFILL) (slCfg s p Reg.SL_PREFILL_LIMITS_CHUNK))
    { tokens := 0, decodes := 0, prefill := 0, placed := [] }

/-! ### The step area (R276) -/

/-- The batch entry of position `i` of a request, entry number `n` of the batch (Table 08-2). -/
def entryBytes (k : Nat) (t : Slot) (i n : Nat) : List Byte :=
  toBytes 4 t.model ++ toBytes 4 n ++ toBytes 8 t.listAddr ++ toBytes 4 (t.listGen * 2 ^ 16) ++ toBytes 4 (t.length + i)
    ++ toBytes 4 0 ++ toBytes 4 (handleOf k t.gen)

/-- The request record of a request whose first entry is number `n` (Table 09-7). -/
def requestBytes (k : Nat) (t : Slot) (e : Placed) (n : Nat) : List Byte :=
  toBytes 4 (handleOf k t.gen) ++ toBytes 4 (n * 2 ^ 16 + e.count)
    ++ toBytes 4 ((if e.sample then 2 ^ 31 else 0) + t.variant * 2 ^ 16 + t.account)
    ++ toBytes 4 t.temp ++ toBytes 4 t.topP ++ toBytes 4 t.topK ++ toBytes 8 t.seed

/-- Write a request's part of the step area: its entries, its input tokens, and its record, number `i`; `n` is its first
entry (R276). -/
def Rd.putRequest (x : Rd) (p : Nat) (st : StepRun) (e : Placed) (i n : Nat) : Rd :=
  match slotAt x.s p e.slot with
  | none => x
  | some t =>
    let o := stepOrigin p st st.lead
    let base := st.area + 0x40
    let x := (List.range e.count).foldl (fun (y : Rd) j => y.put o (base + 32 * (n + j)) (entryBytes e.slot t j (n + j)) false) x
    let x := if e.prompt = 0 then x.put o (base + 32 * st.nt + 4 * n) (toBytes 4 t.lastToken) false
      else
        (List.range e.prompt).foldl (fun (y : Rd) j =>
          let r := y.dev p none (t.promptAddr + 4 * j) 4
          r.1.put o (base + 32 * st.nt + 4 * (n + j)) r.2.1 r.2.2) x
    x.put o (base + 36 * st.nt + 32 * i) (requestBytes e.slot t e n) false

/-- Write the step area (R276): the catch clears every TOKEN_OUT. One that is not aligned to 256 bytes faults (R147, R295). -/
def Rd.putArea (x : Rd) (p : Nat) (st : StepRun) : Rd :=
  let o := stepOrigin p st st.lead
  let head := toBytes 4 st.placed.length ++ toBytes 4 st.entries ++ toBytes 8 st.no ++ toBytes 8 st.catchAt
    ++ toBytes 8 st.sum ++ List.replicate 32 0
  let x := (if st.area % 256 = 0 then x else x.stop 0x3B (some st.area)).put o st.area head false
  let x := (st.placed.foldl (fun (a : Rd × Nat × Nat) e => (a.1.putRequest p st e a.2.1 a.2.2, a.2.1 + 1, a.2.2 + e.count))
    (x, 0, 0)).1
  x.put o (st.area + 0x40 + 68 * st.nt) (List.replicate (4 * st.nt) 0) false

/-! ### The step program (R274) -/

/-- Read the commands of the step program; a poisoned one is a fetch that fails. -/
def Rd.program (x : Rd) (p : Nat) : Rd × List Command :=
  let base := slAddr x.s p Reg.SL_PROG_LO_PROG Reg.SL_PROG_HI_PROG
  (List.range (slCfg x.s p Reg.SL_PROG_LEN_COMMANDS)).foldl (fun (a : Rd × List Command) i =>
    let e := a.1.dev p none (base + 64 * i) 64
    ((if e.2.2 then e.1.stop 0x44 none else e.1), a.2 ++ [BitVec.ofNat 512 (ofBytes e.2.1)])) (x, [])

/-- A command with its JOB_TAG replaced (R274). -/
def retag (c : Command) (tag : Nat) : Command := BitVec.ofNat 512 (c.toNat / 2 ^ 16 * 2 ^ 16 + tag % 2 ^ 16)

/-- The job takes command `i` of `n` of its program (R274): one with END set before the last faults it. -/
def stepCommand (s : Chip) (id n i : Nat) (c : Command) (o : Origin) : Chip :=
  let last := i + 1 == n
  let s := takeCommand s id 0 c last 0
  if hdrEnd c && !last then
    match jobById s id with
    | some j => if j.fault.isNone then faultSl s o 0x64 none else s
    | none => s
  else s

/-- Submit the step program as one job (R273, R274). -/
def startProgram (s : Chip) (p : Nat) (st : StepRun) (l : List Command) : Chip :=
  let first := l.headD 0
  let j := { newJob s p st.queue (retag first st.no) with step := true }
  let s := recount { s with q := { s.q with jobs := s.q.jobs ++ [j], nextJob := s.q.nextJob + 1 } } p st.queue st.quad
  let s := if j.urgent then startSwitch s j else s
  (l.foldl (fun (a : Chip × Nat) c => (stepCommand a.1 j.id l.length a.2 (retag c st.no) (originOf j), a.2 + 1)) (s, 0)).1

/-! ### CATCH (R273 to R276) -/

/-- May a catch occur (R273, R277, R296): ENABLE, no step, no finish that waits for the twin, and the step queue ACTIVE? -/
def catchOpen (s : Chip) (p : Nat) : Bool :=
  slCfg s p Reg.SL_CFG_ENABLE == 1 && (serve s p).step.isNone && !(finishWaits s p)
    && queueState s p (slCfg s p Reg.SL_CFG_STEP_QUEUE) == 1 && decide (leadQuad s p < 16)

/-- IN_STEP is set; a QUEUED request becomes PREFILL or DECODE, and the step's walk has its layout (Table 09-6, R231). -/
def Rd.enterStep (x : Rd) (p : Nat) (w : Walk) (e : Placed) : Rd :=
  let was := match slotAt x.s p e.slot with
    | some t => t.state
    | none => 0
  let x := if was = 1 then x.toState p e.slot (if e.prompt = 0 then 3 else 2) x.s.now else x
  x.onSlot p e.slot (fun t => { t with inStep := true, lay := (tget w.models t.model).getD t.lay })

/-- A step that cannot be started is abandoned as a faulted step (R274, R277). -/
def Rd.failStep (x : Rd) (p : Nat) (st : StepRun) (code : Nat) (a : Option Nat) : Rd :=
  let o := stepOrigin p st st.quad
  let s := if code = 0x3B ∨ code = 0x3C then faultPad x.s o code (st.lead / 4) (a.getD 0) else faultSl x.s o code a
  ({ x with s := s, bad := none }).abandonStep p st (some code) x.s.now

/-- A catch of the batch `b` (R273 to R276). -/
def Rd.catch (x : Rd) (p : Nat) (b : Batch) : Rd :=
  let queue := slCfg x.s p Reg.SL_CFG_STEP_QUEUE
  let quad := rd x.s (.sq p queue) Reg.SQ_CFG_QUAD
  let no := (serve x.s p).stepNo + 1
  let k := x.begin p (quad / 4) none none
  let contexts := b.placed.map (fun e => match slotAt x.s p e.slot with
    | some t => e.count * t.length + e.count * (e.count + 1) / 2
    | none => 0)
  let st : StepRun :=
    { no := no, catchAt := x.s.now, queue := queue, quad := quad, lead := leadQuad x.s p, area := slCfg x.s p Reg.SL_STEP_AREA_ADDR,
      nt := slCfg x.s p Reg.SL_BATCH_LIMITS_MAX_TOKENS, placed := b.placed, entries := b.tokens, sum := contexts.sum,
      walk := k.2.id, job := k.1.s.q.nextJob, drawn := [] }
  let s := setServe (stormReset k.1.s p) p (fun v =>
    { v with step := some st, stepNo := no, prefill := slCfg k.1.s p Reg.SL_PREFILL_LIMITS_MAX_PREFILL,
             chunk := slCfg k.1.s p Reg.SL_PREFILL_LIMITS_CHUNK })
  let x := b.placed.foldl (fun (y : Rd) e => y.enterStep p k.2 e) { k.1 with s := s }
  let x := x.putArea p st
  let l := x.program p
  match l.1.bad with
  | some (code, a) => l.1.failStep p st code a
  | none =>
    if l.1.hold.isSome then l.1
    else if l.2.isEmpty then l.1.failStep p st 0x64 none
    else { l.1 with s := startProgram l.1.s p st l.2 }

/-- The catch of the slots that are eligible once the due events have run. -/
def catchWork (p : Nat) (x : Rd) : Rd :=
  let b := formBatch x.s p
  if catchOpen x.s p && !b.placed.isEmpty then x.catch p b else x

/-- CATCH (R273): once the events due are handled, where a slot is eligible; the region that it reaches wakes first (R460). -/
def catchStep (s : Chip) (p : Nat) : Chip :=
  let r := leadQuad s p / 4
  if catchOpen s p && !(formBatch s p).placed.isEmpty && !(regionAwake s r) then regionCall s r
  else
    slRun s p none (catchWork p)

/-! ### SERVE_SAMPLE (R278, R279) -/

/-- 1.442695 in FP32. -/
def log2e : Nat := 0x3FB8AA3B

/-- Does candidate `a` rank above `b`: the greater value, a number above a NaN, the lower index on ties (R278)? -/
def ranksAbove (a b : Nat × Nat) : Bool :=
  let u := unpack f32 a.2
  let v := unpack f32 b.2
  if isNan u && isNan v then decide (a.1 < b.1)
  else if isNan u then false
  else if isNan v then true
  else if numLt v u then true
  else if numLt u v then false
  else decide (a.1 < b.1)

/-- Insert a candidate (index, value) by rank. -/
def insertCand (x : Nat × Nat) : List (Nat × Nat) → List (Nat × Nat)
  | [] => [x]
  | y :: l => if ranksAbove x y then x :: y :: l else y :: insertCand x l

/-- The `k` candidates of highest rank, best first (R278). -/
def topCands (l : List Nat) (k : Nat) : List (Nat × Nat) :=
  (l.foldl (fun (a : List (Nat × Nat) × Nat) z => ((insertCand (a.2, z) a.1).take k, a.2 + 1)) ([], 0)).1

/-- The running sums of the candidates' weights (R278). -/
def weightSums (best : Nat) (cum : Nat) : List (Nat × Nat) → List Nat
  | [] => []
  | c :: l =>
    let v := fAdd f32 cum (exp2T (fMul f32 (fSub f32 c.2 best) log2e))
    v :: weightSums best v l

/-- The first index of `l` at which `f` holds. -/
def firstIdx (f : Nat → Bool) : List Nat → Option Nat
  | [] => none
  | a :: l => if f a then some 0 else (firstIdx f l).map (fun i => i + 1)

/-- Does `a ≥ b` hold of two FP32 codes? -/
def fAtLeast (a b : Nat) : Bool :=
  let u := unpack f32 a
  let v := unpack f32 b
  !(isNan u) && !(isNan v) && !(numLt u v)

/-- The token of a request record (R278): TEMP, TOP_P, TOP_K and the noise values 0 and 1. Where no prefix reaches TOP_P of
the sum, the pseudocode gives no n, and n is a free value, `free`. -/
def sampleToken (z : List Nat) (temp topP topK v0 v1 free : Nat) : Nat :=
  if (match unpack f32 temp with
      | .fin _ m _ => m == 0
      | _ => false) then
    (((topCands z 1).headD (0, 0)).1)
  else
    let x := z.map (fun v => fDiv f32 v temp)
    let c := topCands x (min (if topK = 0 then 1024 else topK) z.length)
    let best := (c.headD (0, 0)).2
    let part := weightSums best 0 c
    let cum := part.getLast?.getD 0
    let n := (firstIdx (fun v => fAtLeast v (fMul f32 topP cum)) part).getD (free % max c.length 1)
    let u := pack f32 (numScaled (v1 * 65536 + v0 : Nat) (-32))
    let target := fMul f32 u (part.getD n 0)
    let i := (firstIdx (fun v => fBelow f32 target v) (part.take (n + 1))).getD n
    (c.getD i (0, 0)).1

/-- The draw of a request (R279): its claim, a reuse of a draw of this step, and the count of noise blocks. -/
def drawNoise (s : Chip) (o : Origin) (blk : Fin 256) (b : Body) (st : StepRun) (key count : Nat) : Chip :=
  let p := o.part.val
  let again := match (serve s p).step with
    | some r => r.drawn.contains (key, count)
    | none => false
  let s := if again then countFmt s blk.val o.tag.toNat 0x1B 1
    else claimStream s o blk.val (burnisherOf blk) 0x47 b key count count
  let s := setServe s p (fun v => { v with step := some { (v.step.getD st) with drawn := (key, count) :: (v.step.getD st).drawn } })
  bump s (.blk blk.val) Reg.BLK_NOISE_COUNT_BLOCKS 1

/-- One request record of a SERVE_SAMPLE: the reader and its cycles (R278, R516). -/
def sampleOne (x : Rd) (o : Origin) (blk : Fin 256) (b : Body) (st : StepRun) (i : Nat) : Rd × Nat :=
  let p := o.part.val
  let r := bf b 0x1C 15 0 + i
  let v := bf b 0x18 23 0
  let rec0 := st.area + 0x40 + 36 * st.nt + 32 * r
  let e := x.read o rec0 32
  let w := fun off => field e.2.1 off 4
  if e.1.ended then (e.1, 0)
  else if !(bit (w 8) 31) && !e.2.2 then (e.1, 1)
  else
    let row := bq b 0x10 + i * bw b 0x20
    let topK := bits (w 0x14) 10 0
    let k := min (if topK = 0 then 1024 else topK) v
    let greedy := match unpack f32 (w 0x0C) with
      | .fin _ m _ => m == 0
      | _ => false
    let n := if greedy then cdiv v 64 else 2 * cdiv v 64 + 4 * k
    let g := e.1.dev p (some o) row (4 * v)
    if g.1.ended then (g.1, 0)
    else if e.2.2 || g.2.2 then
      ((if g.2.2 then g.1.note 0 ((firstBad g.1.s row (4 * v)).getD row) else g.1).taint true, n)
    else
      let z := (List.range v).map (fun j => field g.2.1 (4 * j) 4)
      let count := match slotNamed g.1.s p (w 0) with
        | some q => match slotAt g.1.s p q with
          | some t => t.tokens
          | none => 0
        | none => 0
      let key := p * 2 ^ 60 + field e.2.1 0x18 8 % 2 ^ 60
      let d := draw (if greedy then g.1.s else drawNoise g.1.s o blk b st key count)
      let tok := sampleToken z (w 0x0C) (w 0x10) topK (noiseValue key count 0) (noiseValue key count 1) (Config.freeNat d.1)
      (({ g.1 with s := d.2 }).put o (st.area + 0x40 + 68 * st.nt + 4 * r) (toBytes 4 (2 ^ 31 + tok % 2 ^ 24)) false, n)

/-- The samples of a SERVE_SAMPLE's sequences in order, up to the first fault or wait, and the cycles they take. -/
def sampleWork (s : Chip) (o : Origin) (blk : Fin 256) (b : Body) (st : StepRun) : Rd × Nat :=
  (List.range (bf b 0x1C 31 16 + 1)).foldl (fun (a : Rd × Nat) i =>
    if a.1.ended then a
    else
      let e := sampleOne a.1 o blk b st i
      (e.1, a.2 + e.2)) (startRd s, 0)

/-- The end of a SERVE_SAMPLE: a wait leaves only its marks; otherwise its faults and counts are taken. -/
def sampleEnd (r : Rd × Nat) (s : Chip) (o : Origin) (blk : Fin 256) (b : Body) : Chip :=
  if r.1.hold.isSome then r.1.settle s o.part.val none
  else burnDone (closeRd { r.1 with s := r.1.settle s o.part.val none } o blk.val) o blk 0x47 b r.2

/-- SERVE_SAMPLE (R264, R278, R279). -/
def serveSample (s : Chip) (o : Origin) (blk : Fin 256) (b : Body) : Chip :=
  let fail := fun (t : Chip) => burnDone t o blk 0x47 b 0
  if blockFenced s blk.val then s
  else match (serve s o.part.val).step with
    | none => fail (faultSl s o 0x64 none)
    | some st =>
      if !o.step then fail (faultSl s o 0x64 none)
      else if bf b 0x18 23 0 = 0 then fail (faultQueue s o 0x41)
      else sampleEnd (sampleWork s o blk b st) s o blk b

end Sys2Proof.Machine
end

