-- ==== Sys2Proof/Machine/Skive.lean ====
section
/-!
DEFINITION. The Skive engine (10): SKV_COMPRESS, SKV_DECODE and SKV_STAGE (R302 to R308, R314, R315), the units of the
channels (R309 to R313), slot contexts (R310), and spill records in slot form (R221, R312).
-/
namespace Sys2Proof.Machine

/-! ### Codes and the end of a command (R316) -/

/-- A fault of a Skive command: memory and scratchpad faults at their own levels, the codes of Table 10-8 at the engine. -/
def faultSkive (s : Chip) (o : Origin) (code : Nat) (a : Option Nat) : Chip :=
  let r := o.quad.val / 4
  if 0x78 ≤ code ∧ code ≤ 0x7A then faultMem s o code (a.getD 0)
  else if code = 0x3B ∨ code = 0x3C then faultPad s o code r (a.getD 0)
  else if code = 0x41 then faultQueue s o code
  else faultJob s (.skv r) (if code = 0x0E then none else some Reg.SKV_ERR_STAT_JOB_FAULT) o code (a.map (fun v => (0, v)))

/-- Count a condition of Table 10-8 in SKV_COND. -/
def countSkive (s : Chip) (r code n : Nat) : Chip :=
  if code = 0x6C then bump s (.skv r) Reg.SKV_COND_BLOCK_CORRUPT n
  else if code = 0x6D then bump s (.skv r) Reg.SKV_COND_INDEX_INVALID n
  else if code = 0x6E then bump s (.skv r) Reg.SKV_COND_CLASS_MISSING n
  else s

/-- An error of the engine's buffer (Table 10-8). -/
def skiveError (s : Chip) (r : Nat) (x : BufferError) : Chip :=
  let s := bump s (.skv r) (if x.uncorrectable then Reg.SKV_ECC_STAT_UE else Reg.SKV_ECC_STAT_CE) 1
  bufferError s (.skv r) (skiveBuffer r) x (Reg.SKV_ERR_STAT_CE, 0x70) (Reg.SKV_ERR_STAT_UE, 0x71) r

/-- The Skive engine of an origin. -/
def skiveOf (o : Origin) : Engine := .skive (regionFin (o.quad.val / 4))

/-- The engine's buffer meets its errors, and those of armed injections (R316, R488): the state, and whether a word of it is
poisoned. -/
def skiveMeets (s : Chip) (r : Nat) (met : List BufferError) : Chip × Bool :=
  (bufferMeets s (.skv r) met (fun t e => skiveError t r e),
    bit (rd s (.skv r) Reg.ERR_INJECT_ARM) 1 || met.any (fun e => e.uncorrectable))

/-- The start of a Skive command, whose buffer meets the errors `met`. -/
def skiveStart (s : Chip) (o : Origin) (met : List BufferError) : Rd × Bool :=
  let e := skiveMeets s (o.quad.val / 4) met
  (startRd e.1, e.2)

/-- The state a command that does not wait has come to: what it was granted is charged, and its conditions are counted. -/
def skiveCounted (x : Rd) (s₀ : Chip) (o : Origin) : Chip :=
  let s := x.counts.foldl (fun t e => countSkive t (o.quad.val / 4) e.1 e.2) (x.settle s₀ o.part.val none)
  if x.tainted then markPoisoned s o else s

/-- The unit's busy cycles, the charge, and the end of the command; reads that arrive late add their wait (R306, a free
number: log 25). -/
def skiveOver (s : Chip) (o : Origin) (op : Nat) (b : Body) (n : Nat) : Chip :=
  let d := draw s
  let n := n + Config.freeNat d.1
  let s := bump64 d.2 (.skv (o.quad.val / 4)) Reg.SKV_BUSY_LO_BUSY Reg.SKV_BUSY_HI_BUSY n
  finish (charge s (skiveOf o) o n) o (skiveOf o) op b

/-- The end of a Skive command, which took `n` cycles (R306); `s₀` is the state before it, in which it waits where one of
its accesses waits. -/
def skiveClose (x : Rd) (s₀ : Chip) (o : Origin) (op : Nat) (b : Body) (n : Nat) : Chip :=
  if x.hold.isSome then x.settle s₀ o.part.val none
  else
    let s := skiveCounted x s₀ o
    skiveOver (match x.bad with
      | none => s
      | some (c, a) => faultSkive s o c a) o op b n

/-! ### Both spaces (R304) -/

/-- Read `n` bytes at address `a` of a space: 0 the scratchpad, 1 device addresses. -/
def Rd.from (x : Rd) (o : Origin) (space a n : Nat) : Rd × List Byte × Bool :=
  if space = 0 then x.read o a n else x.dev o.part.val (some o) a n

/-- Read a structure of a space: free bytes where it is poisoned (R72). -/
def Rd.fromFree (x : Rd) (o : Origin) (space a n : Nat) : Rd × List Byte × Bool :=
  if space = 0 then x.padFree o a n else x.devFree o.part.val (some o) a n

/-- Write a run of bytes in a space, poison in the parts `marks` (R23). -/
def Rd.intoMarked (x : Rd) (o : Origin) (space a : Nat) (l : List Byte) (marks : List (Nat × Nat)) : Rd :=
  if l.isEmpty then x else if space = 0 then x.putMarked o a l marks else x.plainMarked o.part.val a l marks

/-- The same, poisoned as a whole where `bad`. -/
def Rd.into (x : Rd) (o : Origin) (space a : Nat) (l : List Byte) (bad : Bool) : Rd :=
  x.intoMarked o space a l (if bad then [(0, l.length)] else [])

/-! ### SKV_COMPRESS (R301 to R303, R305) -/

/-- Bytes of block `k` of `len` bytes. -/
def blockLen (len k : Nat) : Nat := min 4096 (len - 4096 * k)

/-- Blocks of `len` bytes (R302). -/
def blockCount (len : Nat) : Nat := cdiv len 4096

/-- Read the blocks of a source: their bytes, and whether each is poison. -/
def Rd.blocks (x : Rd) (o : Origin) (space a len : Nat) : Rd × List (List Byte × Bool) :=
  (List.range (blockCount len)).foldl (fun (e : Rd × List (List Byte × Bool)) k =>
    let t := e.1.from o space (a + 4096 * k) (blockLen len k)
    (t.1, e.2 ++ [t.2])) (x, [])

/-- A block as the stream stores it (R303): its bytes, and its RAW bit. -/
def storedBlock (t : List Nat) (map : Bool) (l : List Byte) : List Byte × Bool :=
  let out := encodeBits t map l
  if !(coversBlock t map l) || out.length ≥ l.length then (l, true) else (out, false)

/-- The offsets of blocks of these lengths. -/
def offsetsOf (at' : Nat) : List Nat → List Nat
  | [] => []
  | n :: l => at' :: offsetsOf (at' + n) l

/-- `l` padded with zeros to a multiple of 64 bytes. -/
def padLine (l : List Byte) : List Byte := l ++ List.replicate (cdiv l.length 64 * 64 - l.length) 0

/-- The table of a compression: the reader, the lengths, and whether they are poison. With TABLE_IN it is the destination header's,
checked by its GEN and its lengths (R307, R499); else it is made from the source's classes. -/
def compressTable (x : Rd) (o : Origin) (b : Body) : Rd × List Nat × Bool :=
  let ds := bf b 0x24 29 28
  let dst := bq b 0x18
  if bb b 0x24 1 then
    let h := x.fromFree o ds dst 64
    let t := lengthsOf (h.2.1.drop 32)
    let at' := if ds = 1 then some dst else none
    (if h.1.ended || h.2.2 then h.1
      else if bits (field h.2.1 0 4) 31 30 ≠ 0 then h.1.stop 0x0E at'
      else if !(tableValid t) then h.1.stop 0x68 at'
      else h.1, t, h.2.2)
  else
    let e := x.blocks o (bf b 0x24 31 30) (bq b 0x10) (bw b 0x20)
    (e.1, scanTable (classCounts (bb b 0x24 0) (e.2.map (fun d => d.1))), false)

/-- The stream of the source's blocks under a table is written: entries and packed blocks as one run, then the header (R306 to R308,
R335). -/
def compressStore (x : Rd) (o : Origin) (b : Body) (t : List Nat) (bad head : Bool) (l : List (List Byte × Bool)) : Rd :=
  let dst := bq b 0x18
  let ds := bf b 0x24 29 28
  let len := bw b 0x20
  let map := bb b 0x24 0
  let r := o.quad.val / 4
  let stored := l.map (fun d => (storedBlock t map d.1, d.2 || bad))
  let missing := (l.filter (fun d => !d.2 && !(coversBlock t map d.1))).length
  let lens := stored.map (fun d => d.1.1.length)
  let offs := offsetsOf 0 lens
  let entries := (offs.zip stored).flatMap (fun d => toBytes 4 (d.1 + (if d.2.1.2 then 2 ^ 31 else 0)))
  let data := (padLine entries).length
  let marks := ((offs.zip stored).filter (fun d => d.2.2)).map (fun d => (data + d.1, d.2.1.1.length))
  let x := x.intoMarked o ds (dst + 64) (padLine entries ++ stored.flatMap (fun d => d.1.1)) marks
  let top := toBytes 4 (if map then 1 else 0) ++ toBytes 4 len ++ toBytes 4 lens.sum ++ List.replicate 20 0 ++ lengthBytes t
  let x := (x.into o ds dst top head).count 0x6E missing
  if x.ended then x
  else
    let u := bump64 x.s (.skv r) Reg.SKV_IN_LO_IN Reg.SKV_IN_HI_IN len
    { x with s := bump64 u (.skv r) Reg.SKV_OUT_LO_OUT Reg.SKV_OUT_HI_OUT lens.sum }

/-- The work of a SKV_COMPRESS: the reader at its end, and its cycles (R305, R306). Index and data are one run, so that what they
cover whole is replaced whole (R335). With TABLE_IN the header at DST is checked as any structure is, its GEN first (R499); one
read poisoned is not decoded (R72), and its poison goes on to the stream. -/
def compressWork (s : Chip) (o : Origin) (b : Body) (met : List BufferError) : Rd × Nat :=
  let len := bw b 0x20
  let st := skiveStart s o met
  if bq b 0x18 % 64 ≠ 0 ∨ len = 0 ∨ len > 2 ^ 30 ∨ bf b 0x24 31 30 > 1 ∨ bf b 0x24 29 28 > 1 then ((st.1.stop 0x41 none), 0)
  else
    let cycles := (if bb b 0x24 1 then cdiv len 256 else 2 * cdiv len 256 + 200) + 40
    let t := compressTable st.1 o b
    let e := t.1.blocks o (bf b 0x24 31 30) (bq b 0x10) len
    if e.1.ended then (e.1, cycles) else (compressStore e.1 o b t.2.1 (st.2 || t.2.2) t.2.2 e.2, cycles)

/-- SKV_COMPRESS (R301 to R303, R305, R306). -/
def skvCompress (s : Chip) (o : Origin) (b : Body) (met : List BufferError) : Chip :=
  skiveClose (compressWork s o b met).1 s o 0x30 b (compressWork s o b met).2

/-! ### SKV_DECODE (R305, R307, R308) -/

/-- A stream as a decode has it: its space, its address, MAP, ORIG_LEN, DATA_LEN and LENGTHS. -/
structure Stream where
  space : Nat
  addr : Nat
  map : Bool
  len : Nat
  data : Nat
  table : List Nat
deriving DecidableEq, Repr

/-- The address of a stream's block data (R302). -/
def Stream.body (v : Stream) : Nat := v.addr + 64 + cdiv (4 * blockCount v.len) 64 * 64

/-- Index entry `k` of a stream: RAW, OFFSET, and whether it was read poisoned. -/
def Rd.entry (x : Rd) (o : Origin) (v : Stream) (k : Nat) : Rd × Bool × Nat × Bool :=
  let e := x.fromFree o v.space (v.addr + 64 + 4 * k) 4
  let n := ofBytes e.2.1
  (e.1, bit n 31, bits n 30 0, e.2.2)

/-- The most bytes that a block's symbols take: 22 bits for each byte of the block. -/
def mostStored : Nat := 11264

/-- Decode block `k` (R303, R308): its bytes, whether they are poison, and the condition counted, if any. -/
def Rd.decodeBlock (x : Rd) (o : Origin) (v : Stream) (k : Nat) : Rd × List Byte × Bool × Option Nat :=
  let n := blockLen v.len k
  let e := x.entry o v k
  let f := if k + 1 < blockCount v.len then e.1.entry o v (k + 1) else (e.1, false, v.data, false)
  let off := e.2.2.1
  let size := f.2.2.1 - off
  let zeros : List Byte := List.replicate n 0
  if f.1.ended then (f.1, zeros, false, none)
  else if e.2.2.2 || f.2.2.2 then (f.1, zeros, true, none)
  else if off > v.data ∨ f.2.2.1 < off ∨ (e.2.1 ∧ size ≠ n) then (f.1, zeros, false, some 0x6D)
  else
    let d := f.1.from o v.space (v.body + off) (min size mostStored)
    if d.1.ended then (d.1, zeros, false, none)
    else if e.2.1 then (d.1, d.2.1, d.2.2, none)
    else
      let y := decodeBits v.table v.map d.2.1 n
      (d.1, y.1, d.2.2, if d.2.2 || y.2 then none else some 0x6C)

/-- Decode `m` blocks from `k` on, to `dst` on; `n` counts the bytes written. -/
def Rd.decodeAll (o : Origin) (v : Stream) (space : Nat) (strict ue : Bool) : Nat → Nat → Nat → Nat → Rd → Rd × Nat
  | 0, _, _, n, x => (x, n)
  | m + 1, k, dst, n, x =>
    if x.ended then (x, n)
    else
      let d := x.decodeBlock o v k
      if d.1.ended then (d.1, n)
      else
        let y := d.1.into o space dst d.2.1 (d.2.2.1 || ue)
        let y := match d.2.2.2 with
          | some c => y.count c 1
          | none => y
        let y := if d.2.2.2.isSome && strict && !y.ended then y.stop 0x69 (if v.space = 1 then some (v.addr + 64 + 4 * k) else none) else y
        Rd.decodeAll o v space strict ue m (k + 1) (dst + 4096) (n + d.2.1.length) y

/-- The work of a SKV_DECODE: the reader at its end, and its cycles (R307, R308). -/
def decodeWork (s : Chip) (o : Origin) (b : Body) (met : List BufferError) : Rd × Nat :=
  let src := bq b 0x10
  let ss := bf b 0x24 31 30
  let ds := bf b 0x24 29 28
  let first := bw b 0x20
  let st := skiveStart s o met
  if src % 64 ≠ 0 ∨ ss > 1 ∨ ds > 1 then ((st.1.stop 0x41 none), 0)
  else
    let at' := if ss = 1 then some src else none
    let h := st.1.fromFree o ss src 64
    let l := h.2.1
    let v : Stream := { space := ss, addr := src, map := bit (field l 0 4) 0, len := field l 4 4, data := field l 8 4,
                        table := lengthsOf (l.drop 32) }
    let x := h.1
    let n := bw b 0x28 + 1
    if x.ended then (x, 0)
    else if bits (field l 0 4) 31 30 ≠ 0 ∧ !h.2.2 then ((x.stop 0x0E at'), 40)
    else if !(tableValid v.table) || v.len = 0 || v.len > 2 ^ 30 then ((x.stop 0x68 at'), 40)
    else
      let z := if v.table.any (fun c => c != 0) then (x, false)
        else (List.range (blockCount v.len)).foldl (fun (a : Rd × Bool) k =>
          let e := a.1.entry o v k
          (e.1, a.2 || (!e.2.1 && !e.2.2.2))) (x, false)
      if z.1.ended then (z.1, 40)
      else if z.2 then ((z.1.stop 0x68 at'), 40)
      else if first + n > blockCount v.len then ((z.1.stop 0x41 none), 40)
      else
        let d := Rd.decodeAll o v ds (bb b 0x24 0) st.2 n first (bq b 0x18) 0 z.1
        (d.1, (cdiv d.2 256 + 40))

/-- SKV_DECODE (R305 to R308). -/
def skvDecode (s : Chip) (o : Origin) (b : Body) (met : List BufferError) : Chip :=
  skiveClose (decodeWork s o b met).1 s o 0x31 b (decodeWork s o b met).2

/-! ### SKV_STAGE (R314, R315) -/

/-- The end of the window that holds address `a` for partition `p` (R315, R321, R322): its range entry or slice. -/
def stageEnd (s : Chip) (p a : Nat) : Nat :=
  match unitOf a with
  | none => a
  | some u =>
    if u < 16 then
      let x := a % stackSize
      ((List.range 4).map (fun r =>
        if entryGrants s u p r x 1 false then u * stackSize + ((rangeEntry s u p r).2.2.2 + 1) * unit64 else a)).foldl max a
    else tierBBase + (sliceOf a + 1) * 2 ^ 30

/-- Where the poisoned lines of a run lie in it. -/
def lineMarks (s : Chip) (a n : Nat) : List (Nat × Nat) :=
  (badLines s a n).map (fun l => (max a l - a, min (a + n) (l + 64) - max a l))

/-- Copy a run of device bytes to scratchpad; poison follows its bytes. -/
def Rd.stage (x : Rd) (o : Origin) (src dst n : Nat) (ue : Bool) : Rd :=
  let e := x.dev o.part.val (some o) src n
  if e.1.ended then e.1
  else e.1.putMarked o dst e.2.1 (if ue then [(0, n)] else lineMarks e.1.s src n)

/-- The 32 bytes of a descriptor that SKV_STAGE writes (R315). -/
def stageDescriptor (cols img delta rowBase : Nat) (copied : Bool) : List Byte :=
  toBytes 4 (cols * 2 ^ 16 + (if copied then 2 ^ 27 else 0)) ++ toBytes 4 img ++ toBytes 4 (if copied then delta else 0)
    ++ toBytes 4 (rowBase % 2 ^ 16 * 2 ^ 16) ++ List.replicate 16 0

/-- Stage `m` tiles from tile `i` of the command on (R315): `free` is the next free address for records, `n` the bytes
copied. -/
def Rd.stageAll (o : Origin) (b : Body) (ue : Bool) : Nat → Nat → Nat → Nat → Rd → Rd × Nat
  | 0, _, _, n, x => (x, n)
  | m + 1, i, free, n, x =>
    if x.ended then (x, n)
    else
      let t := bw b 0x20 + i
      let var := bq b 0x10
      let img := bw b 0x28 + 13120 * i
      let only := bb b 0x34 0
      let y := if only then x else x.stage o (bq b 0x18 + 64 + 13120 * t) img 13108 ue
      let n := if only || y.ended then n else n + 13108
      let d := y.devFree o.part.val (some o) (var + 64 + 8 * t) 4
      let off := ofBytes d.2.1
      let row := bf b 0x34 31 16 + i * bf b 0x24 31 16
      let desc := fun (z : Rd) (c : Bool) => z.put o (bw b 0x2C + 32 * i) (stageDescriptor (bf b 0x34 14 8) img free row c) false
      if d.1.ended then (d.1, n)
      else if off = 0 then Rd.stageAll o b ue m (i + 1) free n (desc d.1 false)
      else
        let bound := stageEnd d.1.s o.part.val var
        if var + off + 4 > bound then (d.1.stop 0x6A (some (var + off)), n)
        else
          let c := d.1.devFree o.part.val (some o) (var + off) 4
          let size := 4 + 4 * min (bits (ofBytes c.2.1) 16 0) 65536
          if c.1.ended then (c.1, n)
          else if var + off + size > bound then (c.1.stop 0x6A (some (var + off)), n)
          else
            let y := c.1.stage o (var + off) free size ue
            Rd.stageAll o b ue m (i + 1) (free + size) (if y.ended then n else n + size) (desc y true)

/-- The work of a SKV_STAGE: the reader at its end, and its cycles (R314, R315). -/
def stageWork (s : Chip) (o : Origin) (b : Body) (met : List BufferError) : Rd × Nat :=
  let var := bq b 0x10
  let base := bq b 0x18
  let last := bw b 0x20 + bf b 0x24 15 0
  let st := skiveStart s o met
  if var % 64 ≠ 0 ∨ base % 64 ≠ 0 ∨ bf b 0x24 31 16 % 32 ≠ 0 ∨ bw b 0x28 % 64 ≠ 0 ∨ bw b 0x2C % 32 ≠ 0 ∨ bw b 0x30 % 4 ≠ 0 then
    ((st.1.stop 0x41 none), 0)
  else
    let v := st.1.devFree o.part.val (some o) var 64
    let h := v.1.devFree o.part.val (some o) base 64
    let x := h.1
    let a := v.2.1
    let c := h.2.1
    if x.ended then (x, 40)
    else if bits (field a 0 4) 31 30 ≠ 0 ∧ !v.2.2 then ((x.stop 0x0E (some var)), 40)
    else if bits (field c 0 4) 31 30 ≠ 0 ∧ !h.2.2 then ((x.stop 0x0E (some base)), 40)
    else if field a 8 8 ≠ field c 8 8 then ((x.stop 0x6B (some var)), 40)
    else if last ≥ field a 4 4 ∨ last ≥ field c 4 4 then ((x.stop 0x6A (some var)), 40)
    else
      let d := Rd.stageAll o b st.2 (bf b 0x24 15 0 + 1) 0 (bw b 0x30) 0 x
      (d.1, (cdiv d.2 256 + 40))

/-- SKV_STAGE (R314, R315). -/
def skvStage (s : Chip) (o : Origin) (b : Body) (met : List BufferError) : Chip :=
  skiveClose (stageWork s o b met).1 s o 0x32 b (stageWork s o b met).2

/-! ### Channels (R309 to R313) -/

/-- A frame unit of a channel under the context that the walker has read, `k` (R309). -/
def frameUnit (c : SlotCtx) (ch unit : Nat) (k : Rd × Option KvCtx) : Rd × Option (Nat × Nat × Bool) :=
  match k.2 with
  | none => (k.1, none)
  | some v =>
    let l := pool v (ch == 2)
    if unit / 4 < l.frames then
      (k.1, some (l.base + 4096 * unit, (if ch = 2 then c.tagB else c.tagA) + 4 * unit, bit c.enable ch))
    else (k.1, none)

/-- Where a channel stores unit `unit`: the unit's address, its tag's address, and whether a writer encodes (Table 10-5,
Table 10-6). Channel 0 is the KV frame pool and 2 the Boathouse, whose unit is 4 × frame + its place in the frame; 1 is
the spill area, in units of 4 KiB. Serrun payloads (3) have no storage. -/
def Rd.channel (x : Rd) (p r ch unit : Nat) : Rd × Option (Nat × Nat × Bool) :=
  match slotCtx x.s r p with
  | none => (x, none)
  | some c =>
    if ch = 1 then
      let area := spillSlice x.s p (leadQuad x.s p)
      if 4096 * unit < area.2 * (quadsOf x.s p).length then
        (x, some (area.1 + 4096 * unit, c.spill + 4 * unit, bit c.enable 1))
      else (x, none)
    else if ch = 3 then (x, none)
    else frameUnit c ch unit (x.ctx p r none)

/-- The end of a channel unit's accesses: a refused access is counted at its controller (R324). -/
def unitClose (x : Rd) (s₀ : Chip) (p : Nat) : Chip :=
  let s := x.settle s₀ p none
  match x.bad with
  | some (c, some a) => if 0x78 ≤ c ∧ c ≤ 0x7A then refuseAccess s a false else s
  | _ => s

/-- SLOT_UNIT_WRITE (R309, R311): a channel's writer stores a unit, encoded where ENABLE has the channel's bit, and then its
tag. A unit of a Serrun payload goes out with its packet; the sending region's engine encodes it. -/
def slotUnitWrite (s : Chip) (p r ch unit : Nat) (l : List Byte) (met : List BufferError) : Chip :=
  let l := l.take 4096 ++ List.replicate (4096 - l.length) 0
  let ue := (skiveMeets s r met).2
  let t := (skiveMeets s r met).1
  if ch = 3 then
    match slotCtx s r p with
    | none => s
    | some c =>
      let f := if bit c.enable 3 then slotForm l else (l, 0)
      countUnit t r (bit f.2 31) f.1.length
  else
    let c := (startRd t).channel p r ch unit
    match c.2 with
    | none => if c.1.ended then unitClose c.1 s p else s
    | some (a, tag, encode) => unitClose (c.1.putUnit p r a tag l ue encode) s p

/-- SLOT_UNIT_READ (R311, R313): a channel's reader reads a unit's tag and decodes the unit; a damaged tag or unit is
reported, and reaches the reader as poison. -/
def slotUnitRead (s : Chip) (p r ch unit : Nat) (met : List BufferError) : Chip :=
  let t := (skiveMeets s r met).1
  let c := (startRd t).channel p r ch unit
  match c.2 with
  | none => if c.1.ended then unitClose c.1 s p else s
  | some (a, tag, _) =>
    let u := c.1.unit p r none a tag
    let x := if u.2.1.isNone && !u.2.2 then (u.1.dev p none a 4096).1 else u.1
    unitClose x s p

/-! ### Slot contexts (R310) -/

/-- SKV_CTX[p] of region `r`. -/
def slotCtxAddr (s : Chip) (r p : Nat) : Nat :=
  rd s (.skv r) (Reg.SKV_CTX_LO_ADDR_LO p) * 64 + rd s (.skv r) (Reg.SKV_CTX_HI_ADDR_HI p) * 2 ^ 32

/-- The tag areas of a slot context: for the frames of the KV pools of context `k`, where the partition has one, and for the spill
area, and at least a line where the channel is enabled. -/
def tagAreas (s : Chip) (p : Nat) (k : Option KvCtx) (c : SlotCtx) : List (Nat × Nat) :=
  let least := fun (n e : Nat) => if bit c.enable e then max n 64 else n
  let frames := fun (f : KvCtx → Pool) => (k.map (fun v => 16 * (f v).frames)).getD 0
  let spill := (spillSlice s p (leadQuad s p)).2 * (quadsOf s p).length / 1024
  [(c.tagA, least (frames (fun v => v.a)) 0), (c.tagB, least (frames (fun v => v.b)) 2),
   (c.spill, least spill 1)]

/-- Is the run a device address of the partition, unit by unit? -/
def insideRun (s : Chip) (p a n : Nat) : Bool := (pieces a n).all (fun e => owned s p e.1 e.2)

/-- A slot context from its 64 bytes. -/
def slotCtxOf (l : List Byte) : SlotCtx :=
  { enable := field l 0 4 % 16, tagA := field l 8 8, tagB := field l 0x10 8, spill := field l 0x18 8 }

/-- A slot context as a load reads it: the reader at its end, its 64 bytes and whether they are poisoned, and the KV context that
gives the frames of its tag areas (none where the partition has none). -/
structure SlotCtxRead where
  x : Rd
  bytes : List Byte
  bad : Bool
  kv : Option KvCtx

/-- With the slot context read, the KV context that its areas come from. -/
def slotCtxKv (s : Chip) (r p : Nat) (e : Rd × List Byte × Bool) : SlotCtxRead :=
  if ctxAddr s p r = 0 then { x := e.1, bytes := e.2.1, bad := e.2.2, kv := none }
  else
    let k := e.1.dev p none (ctxAddr s p r) 128
    { x := k.1, bytes := e.2.1, bad := e.2.2 || k.2.2, kv := some (ctxOf k.2.1) }

/-- A load of the slot context of partition `p` reads it, and the KV context (R310, R323, R328). -/
def slotCtxRead (s : Chip) (r p : Nat) : SlotCtxRead := slotCtxKv s r p ((startRd s).dev p none (slotCtxAddr s r p) 64)

/-- Is the slot context that was read in order: neither stopped nor poisoned, its header 0, its areas aligned and inside? -/
def slotCtxGood (s : Chip) (p : Nat) (e : SlotCtxRead) : Bool :=
  let c := slotCtxOf e.bytes
  e.x.bad.isNone && !e.bad && bits (field e.bytes 0 4) 31 30 == 0
    && [c.tagA, c.tagB, c.spill].all (fun v => v % 64 == 0)
    && (tagAreas s p e.kv c).all (fun v => insideRun s p v.1 v.2)

/-- The slot context is taken where it is in order, and rejected otherwise. -/
def slotCtxTaken (s : Chip) (r p : Nat) (e : SlotCtxRead) : Chip :=
  let t := unitClose e.x s p
  let ok := slotCtxGood t p e
  let t := wr t (.skv r) Reg.SKV_CTX_STAT_REJECTED (putBit (rd t (.skv r) Reg.SKV_CTX_STAT_REJECTED) p (!ok))
  if ok then setFlag { t with slots := tset t.slots (16 * r + p) (slotCtxOf e.bytes) } (.skv r) Reg.SKV_IRQ_STAT_CTX_DONE
  else setFlag t (.skv r) Reg.SKV_IRQ_STAT_CTX_REJECT

/-- With what was read. -/
def slotCtxWith (s : Chip) (r p : Nat) (e : SlotCtxRead) : Chip :=
  if e.x.hold.isSome then e.x.settle s p none else slotCtxTaken s r p e

/-- SKV_CTX_LOAD (R310): the context takes effect, or is rejected and the previous one stays. -/
def skvCtxLoad (s : Chip) (r p : Nat) : Chip := slotCtxWith s r p (slotCtxRead s r p)

/-! ### Spill records (R221 to R224, R312) -/

/-- The base of a slot context's spill tags: the tag of the unit at device address `a` (R310). -/
def spillTag (s : Chip) (p : Nat) (c : SlotCtx) (a : Nat) : Nat := c.spill + 4 * ((a - (spillSlice s p (leadQuad s p)).1) / 4096)

/-- How one unit of a spill record is written at `a`, and then its tag at `tag`, with which it is counted: encoded or not, and its
stored length (R309, R311). The last unit of a part is filled with zeros. -/
def unitPuts (encode : Bool) (a tag : Nat) (l : List (Byte × Bool)) : List (List (Nat × List Byte × Bool) × Option (Bool × Nat)) :=
  let l := l ++ List.replicate (4096 - l.length) (0, false)
  let bytes := l.map (fun e => e.1)
  let f := if encode then slotForm bytes else (bytes, 0)
  let body := if bit f.2 31 then [(a, f.1, l.any (fun e => e.2))] else putsFrom a (chunksOf 64 64 l)
  [(body, none), ([(tag, toBytes 4 f.2, false)], some (bit f.2 31, f.1.length))]

/-- Bytes in units of 4 KiB from `a` on. -/
def unitsFrom (a : Nat) (l : List (Byte × Bool)) : List (Nat × List (Byte × Bool)) :=
  (List.range (cdiv l.length 4096)).map (fun i => (a + 4096 * i, (l.drop (4096 * i)).take 4096))

/-- A spill record in slot form where the home region's engine has the partition's slot context, and as it is
otherwise (R222, R312). -/
def planSlots (r : Nat) (s : Chip) (p base : Nat) (head : List Byte) (data : List (Byte × Bool)) : SpillPlan :=
  match slotCtx s r p with
  | none => planRaw base head data
  | some c =>
    { parts := (unitsFrom base (head.map (fun v => (v, false))) ++ unitsFrom (base + 0x4000) data).flatMap (fun u =>
        unitPuts (bit c.enable 1) u.1 (spillTag s p c u.1) u.2) }

/-- SPILL_COMPLETE (R221 to R223). -/
def spillComplete (s : Chip) (q : Nat) : Chip := spillEnd (planSlots (q / 4)) s q

/-- A unit of a record as the resume reads it: the state after the read of its tag and its stored bytes, and the memory with
it decoded. -/
def resumeUnit (r p : Nat) (tag : Nat → Nat) (e : Chip × Memory) (a : Nat) : Chip × Memory :=
  let s := readMeets e.1 (tag a) 4 none
  let v := memNat s (tag a) 4
  let view := fun (t : Chip) => setMem t e.2
  let poison := fun (t : Chip) => (t, (poisonRun (view t) a 4096).mem)
  if lineBad s (tag a) || tagDamaged v then poison (slotCorrupt s r p none a)
  else if !(bit v 31) then
    let s := readMeets s a 4096 none
    (s, { e.2 with poison := s.mem.poison.foldl kadd e.2.poison })
  else
    let n := bits v 11 0
    let s := readMeets s a n none
    let s := bump64 s (.skv r) Reg.SKV_BUSY_LO_BUSY Reg.SKV_BUSY_HI_BUSY 56
    if runBad s a n then poison s
    else
      match slotDecode v (memRead s a n) with
      | some l => (s, (memPut (view s) a l).mem)
      | none => poison (slotCorrupt s r p none a)

/-- The units of a switch's record that hold its data. -/
def recordUnits (w : Switch) : List Nat :=
  (span 0 (cdiv (spillBytes w.spill + 24576 * w.sets.length) 4096)).map (fun u => w.base + 0x4000 + 4096 * u)

/-- What a resume reads of the unit at `a`: its tag, and its stored bytes unless the tag is damaged (R222, R313). -/
def unitRuns (s : Chip) (tag : Nat → Nat) (a : Nat) : List (Nat × List (Nat × Nat × Bool)) :=
  let v := memNat s (tag a) 4
  let head := (a, [(tag a, 4, false)])
  if lineBad s (tag a) || tagDamaged v then [head]
  else [head, (a, [(a, if bit v 31 then bits v 11 0 else 4096, false)])]

/-- What a resume reads of the record in slot form, unit by unit. -/
def recordRuns (s : Chip) (tag : Nat → Nat) (w : Switch) : List (Nat × List (Nat × Nat × Bool)) := (recordUnits w).flatMap (unitRuns s tag)

/-- The record as the resume reads it, unit by unit, up to the first that is refused. -/
def readUnits (r p : Nat) (tag : Nat → Nat) (w : Switch) (s : Chip) : Chip × Option Memory :=
  let cut := restoreCut s p (recordRuns s tag w)
  let e := ((recordUnits w).filter (fun a => beforeCut cut a 4096)).foldl (resumeUnit r p tag) (s, s.mem)
  (e.1, some { e.2 with latent := [] })

/-- The resume of switch `w` ends, from a record in slot form or as it is. -/
def resumeEnd (s : Chip) (q : Nat) (w : Switch) : Chip :=
  let p := (quadOwner s q).getD 0
  match slotCtx s (q / 4) p with
  | some c =>
    let tag := spillTag s p c
    resumeOn (recordRuns s tag w) (readUnits (q / 4) p tag w) s q w
  | none => resumeOn (restoreRuns s w) (fun t => (t, none)) s q w

/-- RESTORE_COMPLETE (R224, R312). -/
def restoreComplete (s : Chip) (q : Nat) : Chip :=
  match tget s.switches q with
  | some w => if rd s (.qf q) Reg.QF_PREEMPT_STAT_STATE = 4 then resumeEnd s q w else s
  | none => s

end Sys2Proof.Machine
end

