-- ==== Sys2Proof/Machine/Hosts.lean ====
section
/-!
DEFINITION. Hosts, functions and partitions (12): creation (R358, R359), the reset scopes (R361 to R364), release (R367),
hold-water (R368 to R370), configuration requests (R351, R360, R382), BAR2 (R356, R357) and the scratchpad windows (R493,
R494).
-/
namespace Sys2Proof.Machine

/-! ### Status of partition commands (R373) -/

/-- Set HUB_PART_CMD_STAT.CODE. -/
def partCode (s : Chip) (p c : Nat) : Chip := wr s (.part p) Reg.HUB_PART_CMD_STAT_CODE c

/-- Set HUB_PART_STATE.STATE (Table 12-8). -/
def setPartState (s : Chip) (p v : Nat) : Chip := wr s (.part p) Reg.HUB_PART_STATE_STATE v

/-- Set a bit of the partition page's IRQ_STAT. -/
def partFlag (s : Chip) (p : Nat) (f : Field) : Chip := setFlag s (.part p) f

/-! ### Creation (R358, R359, Table 12-2) -/

/-- The quads that HUB_PART_QUADS names. -/
def namedQuads (s : Chip) (p : Nat) : List Nat := (List.range 16).filter (fun q => bit (rd s (.part p) Reg.HUB_PART_QUADS_QUADS) q)

/-- The other partitions that are not UNUSED. -/
def otherParts (s : Chip) (p : Nat) : List Nat := (List.range 16).filter (fun k => k != p && partState s k != 0)

/-- Is the quad owned, or named by a partition in CREATING? -/
def quadTaken (s : Chip) (p q : Nat) : Bool :=
  (quadOwner s q).isSome || (otherParts s p).any (fun k => partState s k == 1 && (namedQuads s k).contains q)

/-- Has a bank of the quad DIRTY set and a previous owner other than `p` (R157)? -/
def quadDirty (s : Chip) (p q : Nat) : Bool :=
  (blocksOf q).any (fun b => rd s (.spb b) Reg.SPB_STAT_DIRTY == 1 && rd s (.spb b) Reg.SPB_STAT_PREV_VALID == 1
    && rd s (.spb b) Reg.SPB_STAT_PREV_OWNER != p)

/-- Does HUB_PART_BIND name no valid function, the PF0 of the other port, or a function that another partition is bound to? -/
def bindTaken (s : Chip) (p : Nat) : Bool :=
  let pf0 := rd s (.part p) Reg.HUB_PART_BIND_PF0 == 1
  let vf := rd s (.part p) Reg.HUB_PART_BIND_VF
  (pf0 && (vf != 0 || rd s (.part p) Reg.HUB_PART_BIND_PORT != mgmtPort s)) || (!pf0 && (vf == 0 || decide (vf > 16))) || (otherParts s p).any (fun k => boundFunc s k == boundFunc s p)

/-- A PF0 binding without all 16 quads, or a virtual function binding beside a PF0 binding. -/
def wholeBroken (s : Chip) (p : Nat) : Bool :=
  if rd s (.part p) Reg.HUB_PART_BIND_PF0 = 1 then decide ((namedQuads s p).length ≠ 16)
  else (otherParts s p).any (fun k => rd s (.part k) Reg.HUB_PART_BIND_PF0 == 1)

/-- The two ranges of HUB_PART_SYNC, in units of which a region has 64: semaphores / 256, barrier counters / 16. -/
def syncRanges (s : Chip) (p : Nat) : List (Nat × Nat) :=
  [(rd s (.part p) Reg.HUB_PART_SYNC_SEM_FIRST, rd s (.part p) Reg.HUB_PART_SYNC_SEM_LAST),
   (rd s (.part p) Reg.HUB_PART_SYNC_BAR_FIRST, rd s (.part p) Reg.HUB_PART_SYNC_BAR_LAST)]

/-- Is a range of HUB_PART_SYNC empty, outside the regions of the named quads, or in another partition's range? -/
def syncBroken (s : Chip) (p : Nat) : Bool :=
  let regions := (namedQuads s p).map (fun q => q / 4)
  let other := (otherParts s p).map (syncRanges s)
  (List.range 2).any (fun i =>
    let m := (syncRanges s p).getD i (0, 0)
    decide (m.2 < m.1) || (span m.1 (m.2 + 1 - m.1)).any (fun u => !(regions.contains (u / 64)))
      || other.any (fun l => decide ((l.getD i (0, 0)).1 ≤ m.2 ∧ m.1 ≤ (l.getD i (0, 0)).2)))

/-- The status of the first check of Table 12-2 that fails; 0 where every check passes. -/
def createCode (s : Chip) (p : Nat) : Nat :=
  if !s.power.trained then 0x8B
  else if (namedQuads s p).isEmpty || (namedQuads s p).any (quadTaken s p) then 0x88
  else if (namedQuads s p).any (quadDirty s p) then 0x3E
  else if bindTaken s p then 0x89
  else if wholeBroken s p then 0x8C
  else if syncBroken s p then 0x8A
  else 0

/-- CREATE (R358): the partition enters CREATING, or the status of the failed check is set. -/
def create (s : Chip) (p : Nat) : Chip :=
  if partState s p ≠ 0 then partCode s p 0x8E
  else
    let c := createCode s p
    if c = 0 then setPartState s p 1 else partCode s p c

/-- Share counts of a partition return to zero (R204). -/
def clearShares (s : Chip) (p : Nat) (quads : List Nat) : Chip :=
  { s with q := { s.q with used := tkeep s.q.used (fun k => k / 16 % 16 != p),
                           raw := tkeep s.q.raw (fun k => !(quads.contains (k / 128))) } }

/-- Nothing of the partition waits at a Girth regulator any more, nor has any bytes been granted ahead (R327, R362). -/
def clearGrants (s : Chip) (p : Nat) : Chip :=
  { s with girth := tmap s.girth (fun k g => if k % 16 = p then { g with want := 0, paid := 0, held := false } else g) }

/-- The partition's semaphores and barrier counters are zero (R190). -/
def clearSync (s : Chip) (p : Nat) : Chip :=
  { s with q := { s.q with sems := tkeep s.q.sems (fun n => !(semOwned s p n)), bars := tkeep s.q.bars (fun n => !(barOwned s p n)) } }

/-- A quad comes to belong to a partition: its front and its banks show the owner. -/
def assignQuad (p : Nat) (s : Chip) (q : Nat) : Chip :=
  let s := wrAll s (.qf q) [(Reg.QF_STAT_OWNED, 1), (Reg.QF_STAT_PARTITION, p)]
  (blocksOf q).foldl (fun t b => wr t (.spb b) Reg.SPB_STAT_OWNED 1) s

/-- A quad leaves its partition, which is recorded as its previous owner (R157, R367). -/
def leaveQuad (p : Nat) (s : Chip) (q : Nat) : Chip :=
  let s := wrAll s (.qf q) [(Reg.QF_STAT_OWNED, 0), (Reg.QF_STAT_PARTITION, 0), (Reg.QF_STAT_STOPPING, 0)]
  (blocksOf q).foldl (fun t b => wrAll t (.spb b) [(Reg.SPB_STAT_OWNED, 0), (Reg.SPB_STAT_PREV_VALID, 1), (Reg.SPB_STAT_PREV_OWNER, p)]) s

/-- A partition is READY: its quads are its own, nothing of theirs is left, its queues are disabled. -/
def createdAs (s : Chip) (p : Nat) (quads : List Nat) : Chip :=
  let s := quads.foldl (assignQuad p) s
  let s := clearGrants (clearShares (clearSync s p) p quads) p
  let s := { s with sec := { s.sec with operatorReads := tdel s.sec.operatorReads p } }
  let s := (List.range 64).foldl (fun t n => wr (wr t (.sq p n) Reg.SQ_STAT_STATE 0) (.sq p n) Reg.SQ_CTRL_ENABLE 0) s
  partFlag (partCode (setPartState (stormFrom s p) p 2) p 0) p Reg.HUB_PART_IRQ_STAT_CMD_DONE

/-- PARTITION_CREATED (R359): no fill runs in a named bank, and the partition becomes READY. -/
def partitionCreated (s : Chip) (p : Nat) : Chip :=
  let quads := namedQuads s p
  if partState s p ≠ 1 ∨ s.fills.any (fun f => quads.contains (f.bank / 16)) then s else createdAs s p quads

/-! ### Partition reset (R362) -/

/-- Every walk of the partition ends with its jobs and slots, and its look-aside entries with them (R246, R247). -/
def dropWalks (s : Chip) (p : Nat) : Chip :=
  { s with kv := { s.kv with walks := s.kv.walks.filter (fun w => w.part != p), lab := s.kv.lab.filter (fun e => e.part != p) } }

/-- The steps of R362: every queue and then the Start list, so that no command of a queue takes effect any more, switches, accumulator sets, synchronisation objects and share counts. -/
def resetSteps (s : Chip) (p : Nat) : Chip :=
  let s₀ := s
  let s := (List.range 64).foldl (fun t n => resetQueue t p n 0x0201) s
  let s := publishNow s₀ (resetServe s p) p
  let quads := quadsOf s p
  let s := releaseSpillWrites (quads.foldl idleFront s) p
  let s := (quads.flatMap blocksOf).foldl loseSets s
  let s := dropWalks (clearGrants (clearShares (clearSync s p) p quads) p) p
  { s with mesh := { s.mesh with xfers := s.mesh.xfers.filter (fun x => x.part != p) } }

/-- PARTITION_RESET (R362, R375): through the management PF0, or through the bound function while TENANT_RESET is 1. -/
def partitionReset (s : Chip) (via : Via) (p : Nat) : Chip :=
  if !(reaches s via p) || (!(isMgmt s via) && rd s (.part p) Reg.HUB_PART_CFG_TENANT_RESET == 0) then s
  else if partState s p ≠ 2 then partCode s p 0x8E
  else partCode (resetSteps s p) p 0

/-! ### Function-level reset effects (R363, R366) -/

/-- The zeroed KV structures leave empty free stacks and retire queues; epoch and models stay (R361, R363). -/
def emptyKv (s : Chip) (p : Nat) : Chip :=
  setKvPart s p (fun k => { k with freeA := 0, freeB := 0, headA := 0, headB := 0, tailA := 0, tailB := 0, lost := false })

/-- No enable of the partition's queues is pending. -/
def clearPending (s : Chip) (p : Nat) : Chip :=
  wrAll s (.part p) [(Reg.HUB_PART_PENDING_LO_PENDING_LO, 0), (Reg.HUB_PART_PENDING_HI_PENDING_HI, 0)]

/-- The partition leaves HOLD_WATER (R370). -/
def endHold (s : Chip) (p : Nat) : Chip :=
  if partState s p = 3 then
    partFlag { s with hosts := { s.hosts with holds := tdel s.hosts.holds p } } p Reg.HUB_PART_IRQ_STAT_HOLD_ENDED
  else s

/-- Completion records that wait for a ring of the partition are gone with its state (R361, R363). -/
def dropHeld (s : Chip) (p : Nat) : Chip :=
  let s := (List.range 64).foldl (fun t n => wr t (.sq p n) Reg.SQ_STAT_CQ_FULL 0) s
  { s with q := { s.q with held := s.q.held.filter (fun h => h.part != p) } }

/-- The function-level reset effects on a partition in READY or HOLD_WATER (R363): the steps of R362, and a scrub, after
which it is READY, or released where `release` holds. A partition whose scrub runs goes on with it (R366). -/
def flrEffects (s : Chip) (p : Nat) (release : Bool) : Chip :=
  let st := partState s p
  if st = 2 ∨ st = 3 then
    let s := setPartState (endHold s p) p (if release then 5 else 4)
    let s := dropHeld (emptyKv (resetSteps (clearPending s p) p) p) p
    let s := wrAll s (.part p) [(Reg.HUB_PART_STATE_DROPPED, 0), (Reg.HUB_PART_STATE_REJECTS, 0)]
    scrubStart s p release
  else if st = 4 ∨ st = 5 then
    wrAll (clearPending s p) (.part p) [(Reg.HUB_PART_STATE_DROPPED, 0), (Reg.HUB_PART_STATE_REJECTS, 0)]
  else s

/-- A function's settings after a reset that its port's PERST_N does not make: the error status is sticky. -/
def clearedFunc (f : Func) : Func := { freshFunc with aer := f.aer }

/-- A function is reset at function level (R361, R363, R364): Bus Master Enable first, so that no record and no message of the
partition's reset reaches the host, its window's count, its partition, its configuration. -/
def resetFunction (s : Chip) (port fn : Nat) : Chip :=
  let p := partOf s port fn
  let s := setFunc s port fn (fun f => { f with busMaster := false })
  let win := if fn = 0 then Page.spadWin else .vfWin port fn
  let s := if fn != 0 || port == mgmtPort s then wr s win Reg.HUB_SPAD_REFUSED_COUNT 0 else s
  let s := setFlag (bump s (.pci port) Reg.PCI_EVENTS_FLRS 1) (.pci port) Reg.PCI_IRQ_STAT_FLR
  let s := match p with
    | some p => if inFatal s then s else flrEffects s p false
    | none => s
  setFunc s port fn (fun f => { clearedFunc f with resetting := true })

/-- Virtual functions `n` + 1 and up of a port go out of existence, each with a function-level reset (R361). -/
def dropVfs (s : Chip) (port n : Nat) : Chip :=
  let gone := span (n + 1) (rd s (.pci port) Reg.PCI_LINK_STAT_NUM_VFS - n)
  let s := gone.foldl (fun t f => resetFunction t port f) s
  let s := gone.foldl (fun t f => setFunc t port f (fun _ => freshFunc)) s
  wr s (.pci port) Reg.PCI_LINK_STAT_NUM_VFS n

/-- FUNCTION_LEVEL_RESET (R361, R363): an FLR of a function that exists, or the end of virtual functions. The FLR of PF0
clears its SR-IOV capability, and the port's virtual functions with it. -/
def functionLevelReset (s : Chip) (port fn : Nat) (cause : FlrCause) : Chip :=
  if !(hubOn s) || !s.sec.booted then s
  else
    match cause with
    | .flr =>
      if !(funcPresent s port fn) || !(dlUp s port) then s
      else if fn = 0 then resetFunction (dropVfs s port 0) port 0
      else resetFunction s port fn
    | .vfEnableCleared => dropVfs s port 0
    | .numVfsLowered n => if n.val < rd s (.pci port) Reg.PCI_LINK_STAT_NUM_VFS then dropVfs s port n.val else s

/-- FUNCTION_READINESS_STATUS (R364). -/
def functionReadinessStatus (s : Chip) (port fn : Nat) : Chip :=
  if hubOn s && funcPresent s port fn && (func s port fn).resetting && dlUp s port then
    emit (setFunc s port fn (fun f => { f with resetting := false })) (.readiness port fn)
  else s

/-- Has the hold interval of a partition ended (R370)? It is half-open. -/
def holdOver (s : Chip) (p : Nat) : Bool := partState s p == 3 && (tget s.hosts.holds p).any (fun e => decide (e ≤ s.now))

/-- HOLD_EXPIRY (R370). -/
def holdExpiry (s : Chip) (p : Nat) : Chip :=
  if holdOver s p then
    flrEffects (bump s (.pci (boundFunc s p).1) Reg.PCI_EVENTS_HOLD_EXPIRED 1) p false
  else s

/-- RELEASE (R366, R367); a hold interval that has ended comes first (R7, R370). -/
def release (s : Chip) (p : Nat) : Chip :=
  let s := holdExpiry s p
  let st := partState s p
  if st = 2 ∨ st = 3 then flrEffects s p true
  else if st = 4 then
    setPartState { s with hosts := { s.hosts with
      scrubs := s.hosts.scrubs.map (fun x => if x.part = p then { x with release := true } else x) } } p 5
  else partCode s p 0x8E

/-- Every range entry and slice ownership of the partition is cleared (R367). -/
def clearEntries (s : Chip) (p : Nat) : Chip :=
  let s := (List.range 16).foldl (fun t u => (List.range 4).foldl (fun t r =>
    wrAll t (.hbm u) [(Reg.HBM_RANGE_VALID p r, 0), (Reg.HBM_RANGE_RO p r, 0), (Reg.HBM_RANGE_FIRST p r, 0),
      (Reg.HBM_RANGE_LAST p r, 0)]) t) s
  { s with slices := tmap s.slices (fun _ e =>
      if e.valid && e.owner == p then { e with valid := false, ro := false, owner := 0 } else e) }

/-- The end of a release (R367): the partition is UNUSED. -/
def released (s : Chip) (p : Nat) : Chip :=
  let s := (quadsOf s p).foldl (leaveQuad p) (clearEntries (clearSync s p) p)
  let s := { s with kv := { s.kv with parts := tdel s.kv.parts p }, serve := tdel s.serve p }
  let s := wrAll (clearPending s p) (.part p) [(Reg.HUB_PART_QUADS_QUADS, 0), (Reg.HUB_PART_BIND_PF0, 0),
    (Reg.HUB_PART_BIND_PORT, 0), (Reg.HUB_PART_BIND_VF, 0), (Reg.HUB_PART_SYNC_SEM_FIRST, 0),
    (Reg.HUB_PART_SYNC_SEM_LAST, 0), (Reg.HUB_PART_SYNC_BAR_FIRST, 0), (Reg.HUB_PART_SYNC_BAR_LAST, 0)]
  partFlag (partCode (setPartState s p 0) p 0) p Reg.HUB_PART_IRQ_STAT_CMD_DONE

/-- The queues whose enables are pending are enabled in ascending order (R366). -/
def enablePending (s : Chip) (p : Nat) : Chip :=
  let l := (List.range 64).filter (pendingBit s p)
  l.foldl (fun t n => enableQueue t p n) (clearPending s p)

/-- The scrub of a partition is over: its memory is zero, and the partition is released or READY again. -/
def scrubOver (s : Chip) (p : Nat) (release : Bool) : Chip :=
  let s := showScrubs { s with hosts := { s.hosts with scrubs := s.hosts.scrubs.filter (fun y => y.part != p) } }
  if release then released s p
  else partFlag (enablePending (setPartState s p 2) p) p Reg.HUB_PART_IRQ_STAT_SCRUB_DONE

/-- RELEASE_SCRUB_COMPLETE (R347, R363, R366, R367): a step of the partition's scrub ends; with the last one the scrub is
over. -/
def releaseScrubComplete (s : Chip) (p : Nat) (step : ScrubStep) : Chip :=
  match s.hosts.scrubs.find? (fun x => x.part == p) with
  | none => s
  | some x =>
    let e := scrubStep s x step
    if e.2.perStack.isEmpty && e.2.slices.isEmpty then scrubOver e.1 p x.release
    else showScrubs { e.1 with hosts := { e.1.hosts with
      scrubs := e.1.hosts.scrubs.map (fun y => if y.part = p then e.2 else y) } }

/-! ### Hold-water (R368 to R370) -/

/-- The partitions bound to a function of a port. -/
def boundTo (s : Chip) (port : Nat) : List Nat :=
  (List.range 16).filter (fun p => partState s p != 0 && (boundFunc s p).1 == port)

/-- A READY partition enters HOLD_WATER, or receives the function-level reset effects where HOLD_TIME is 0 (R368). -/
def enterHold (port : Nat) (s : Chip) (p : Nat) : Chip :=
  let t := rd s (.pci port) Reg.PCI_HOLD_CFG_HOLD_TIME
  if partState s p ≠ 2 then s
  else if t = 0 then flrEffects s p false
  else
    let s := stopQueues (setPartState s p 3) p
    partFlag { s with hosts := { s.hosts with holds := tset s.hosts.holds p (s.now + msNs t) } } p Reg.HUB_PART_IRQ_STAT_HOLD_ENTERED

/-- The port's link is down. -/
def linkDown (s : Chip) (port : Nat) : Chip :=
  wrAll s (.pci port) [(Reg.PCI_LINK_STAT_DL_UP, 0), (Reg.PCI_LINK_STAT_SPEED, 0), (Reg.PCI_LINK_STAT_WIDTH, 0),
    (Reg.PCI_LINK_STAT_FLIT, 0)]

/-- A link that was up is lost: it is counted, and the partitions bound through it are held. -/
def linkLost (s : Chip) (port : Nat) : Chip :=
  let s := bump (linkDown s port) (.pci port) Reg.PCI_EVENTS_LINK_DOWNS 1
  let s := setFlag s (.pci port) Reg.PCI_IRQ_STAT_LINK_DOWN
  if inFatal s then s else (boundTo s port).foldl (enterHold port) s

/-- SURPRISE_LINK_LOSS (R368). -/
def surpriseLinkLoss (s : Chip) (port : Nat) : Chip := if hubOn s && dlUp s port then linkLost s port else s

/-- Does the port hold its PERST_N asserted? -/
def perst (s : Chip) (port : Nat) : Bool := if port = 0 then s.hosts.perst0 else s.hosts.perst1

/-- The link is up at a speed and a width; the interrupts held for its functions go out. -/
def linkedUp (s : Chip) (port speed width : Nat) (flit : Bool) : Chip :=
  let s := wrAll s (.pci port) [(Reg.PCI_LINK_STAT_DL_UP, 1), (Reg.PCI_LINK_STAT_SPEED, speed),
    (Reg.PCI_LINK_STAT_WIDTH, width), (Reg.PCI_LINK_STAT_FLIT, if flit then 1 else 0)]
  let s := setFlag s (.pci port) Reg.PCI_IRQ_STAT_LINK_UP
  (List.range 17).foldl (fun t f => msixFlush t port f) s

/-- May the link come up so: not from down at PERST, at a speed up to 5, a width of 1, 2, 4 or 8, in flit mode at speed 5? -/
def linkMayRise (s : Chip) (port speed width : Nat) (flit : Bool) : Bool :=
  hubOn s && rd s .pm Reg.PM_STAT_ENTERING == 0 && !(perst s port) && !(dlUp s port) && decide (speed ≤ 5) && [1, 2, 4, 8].contains width && !(speed == 5 && !flit)

/-- LINK_UP (R351, R370): the link reaches DL_Up at a speed and width of Table 12-1; pending messages go out. -/
def linkUp (s : Chip) (port speed width : Nat) (flit : Bool) : Chip :=
  if linkMayRise s port speed width flit then linkedUp s port speed width flit else s

/-- A held partition is READY again: what was held for its host goes out. -/
def reclaimed (s : Chip) (p : Nat) : Chip :=
  let s := setPartState (endHold s p) p 2
  let s := (List.range 64).foldl (fun t n => drainQueue t p n) s
  partCode (msixFlush s (boundFunc s p).1 (boundFunc s p).2) p 0

/-- RECLAIM (R370): held records are written and pending interrupts sent; the queues stay stopped. -/
def reclaim (s : Chip) (via : Via) (p : Nat) : Chip :=
  if !(reaches s via p) then s
  else
    let s := holdExpiry s p
    if partState s p ≠ 3 then partCode s p 0x8E else reclaimed s p

/-- TEARDOWN (R370). -/
def teardown (s : Chip) (p : Nat) : Chip :=
  let s := holdExpiry s p
  if partState s p = 3 then partCode (flrEffects s p false) p 0 else partCode s p 0x8E

/-! ### Warm reset of a port (R361) -/

/-- The port's configuration space is reset, and every partition bound to the port receives the function-level reset
effects; a warm reset is no surprise link loss. A hot reset leaves the error status, which is sticky. -/
def warmReset (s : Chip) (port : Nat) (hot : Bool) : Chip :=
  let s := bump (linkDown s port) (.pci port) Reg.PCI_EVENTS_PERSTS 1
  let s := if inFatal s then s else (boundTo s port).foldl (fun t p => flrEffects t p false) s
  let s := wr s (.pci port) Reg.PCI_LINK_STAT_NUM_VFS 0
  (List.range 17).foldl (fun t f => setFunc t port f (fun x => if hot then clearedFunc x else freshFunc)) s

/-! ### Configuration requests (R351, R353, R360, R382) -/

/-- NumVFs is written: virtual functions come into existence with their partitions' queues DISABLED, or go (R360, R361). -/
def setNumVfs (s : Chip) (port n : Nat) : Chip :=
  let old := rd s (.pci port) Reg.PCI_LINK_STAT_NUM_VFS
  if n < old then dropVfs s port n
  else
    let s := wr s (.pci port) Reg.PCI_LINK_STAT_NUM_VFS n
    (span (old + 1) (n - old)).foldl (fun t f =>
      let t := setFunc t port f (fun _ => { freshFunc with resetting := true })
      match partOf t port f with
      | some p => if inFatal t then t else (List.range 64).foldl (partQueueReset 0x0200 p) t
      | none => t) s

/-- Bytes of a function's BAR0 (R352, R491). -/
def bar0Size (s : Chip) (port fn : Nat) : Nat := if fn ≠ 0 then 2 ^ 24 else if port = mgmtPort s then 2 ^ 28 else 4096

/-- What a configuration read returns (R351, R352), each register as PCIe lays it out; a BAR as it reads after a write of
ones. -/
def configWord (s : Chip) (port fn : Nat) (item : ConfigItem) : Nat :=
  let f := func s port fn
  let flag := fun (b : Bool) (n : Nat) => if b then 2 ^ n else 0
  match item with
  | .ids => 0x1F3C + (if fn = 0 then 0x0E16 else 0x0E17) * 2 ^ 16
  | .bar0 => 2 ^ 64 - bar0Size s port fn + 4
  | .bar2 => 2 ^ 64 - 2 ^ f.bar2Log2 + 12
  | .command => flag f.busMaster 2
  | .power => if f.d3 then 3 else 0
  | .msix => vectorCount fn - 1 + flag f.msixMask 14 + flag f.msixOn 15
  | .deviceCap => 2
  | .deviceControl => f.payload * 2 ^ 5 + f.readReq * 2 ^ 12
  | .sriov => if fn = 0 then rd s (.pci port) Reg.PCI_LINK_STAT_NUM_VFS + 16 * 2 ^ 16 else 0
  | .aer => f.aer
  | .absent => 0

/-- What a configuration request changes of the function. -/
def configApplied (s : Chip) (port fn : Nat) (a : ConfigAccess) : Chip :=
  let set := fun g => msixFlush (setFunc s port fn g) port fn
  match a with
  | .read _ => s
  | .busMaster on => set (fun f => { f with busMaster := on })
  | .numVfs n => if fn = 0 && n.val ≤ 16 then setNumVfs s port n.val else s
  | .bar2Size k => if 30 ≤ k.val ∧ k.val ≤ 42 then setFunc s port fn (fun f => { f with bar2Log2 := k.val }) else s
  | .power d3 => set (fun f => { f with d3 := d3 })
  | .msix on mask => set (fun f => { f with msixOn := on, msixMask := mask })
  | .vector n addr data masked =>
    if n < vectorCount fn then set (fun f => { f with vectors := tset f.vectors n { addr := addr, data := data, masked := masked } })
    else s
  | .deviceControl m r =>
    setFunc s port fn (fun f =>
      { f with payload := if m.val ≤ 2 then m.val else f.payload, readReq := if r.val ≤ 5 then r.val else f.readReq })
  | .aerClear v => setFunc s port fn (fun f => { f with aer := f.aer - (f.aer &&& v.toNat) })

/-- What a configuration request answers. -/
def configAnswer (s : Chip) (port fn : Nat) (a : ConfigAccess) : Nat :=
  match a with
  | .read item => configWord s port fn item
  | _ => 0

/-- CONFIG_REQUEST (R382): answered, or retried until the firmware is verified and the function is ready (R364). -/
def configRequest (s : Chip) (port fn : Nat) (a : ConfigAccess) : Chip :=
  if !(hubOn s) || !(dlUp s port) then s
  else if !s.sec.booted then emit s (.configRetry port fn)
  else if !(funcPresent s port fn) then emit s (.unsupported port fn)
  else if (func s port fn).resetting then emit s (.configRetry port fn)
  else emit (configApplied s port fn a) (.configDone port fn (configAnswer s port fn a))

/-! ### BAR2 (R356, R357) -/

/-- The partition that is bound to the function and READY, where BARs answer for it. -/
def readyPart (s : Chip) (port fn : Nat) : Option Nat :=
  if inFatal s then none else (partOf s port fn).filter (fun p => partState s p == 2)

/-- The device address of BAR2 offset `o` (R356). -/
def bar2Addr (s : Chip) (port fn p o : Nat) : Nat :=
  let w := rd s (.part p) Reg.HUB_PART_WIN_LO_BASE_LO * 2 ^ 30 + rd s (.part p) Reg.HUB_PART_WIN_HI_BASE_HI * 2 ^ 32
  let k := 2 ^ (func s port fn).bar2Log2
  w / k * k + o % k

/-- A completion of ones. -/
def onesDone (s : Chip) (port fn len : Nat) : Chip := emit s (.completion port fn (List.replicate len 0xFF))

/-- A BAR2 read of device address `a`, whose access has fate `g` (R357, R323). -/
def bar2ReadAt (s : Chip) (port fn p a len : Nat) (g : Admit) : Chip :=
  match g with
  | .refuse _ => onesDone (refuseAccess s a true) port fn len
  | .wait => admitted s p a len false
  | .go =>
    let s := readMeets (admitted s p a len false) a len none
    if runBad s a len then emit s (.poisoned port fn len) else emit s (.completion port fn (memRead s a len))

/-- BAR2_READ (R356, R357). -/
def bar2Read (s : Chip) (port fn o len : Nat) : Chip :=
  if !(barOpen s port fn) || len = 0 then s
  else
    match readyPart s port fn with
    | none => onesDone s port fn len
    | some p => bar2ReadAt s port fn p (bar2Addr s port fn p o) len (girthAdmit s p (bar2Addr s port fn p o) len false)

/-- A BAR2 write of device address `a`, whose access has fate `g` (R357, R323). -/
def bar2WriteAt (s : Chip) (p a : Nat) (l : List Byte) (g : Admit) : Chip :=
  match g with
  | .refuse _ => refuseAccess s a true
  | .wait => admitted s p a l.length true
  | .go => memPut (admitted s p a l.length true) a l

/-- BAR2_WRITE (R356, R357). -/
def bar2Write (s : Chip) (port fn o : Nat) (l : List Byte) : Chip :=
  if !(barOpen s port fn) || l.isEmpty then s
  else
    match readyPart s port fn with
    | none => s
    | some p => bar2WriteAt s p (bar2Addr s port fn p o) l (girthAdmit s p (bar2Addr s port fn p o) l.length true)

/-! ### Scratchpad windows (R493, R494) -/

/-- The window control page of a function. -/
def windowPage (port fn : Nat) : Page := if fn = 0 then .spadWin else .vfWin port fn

/-- Bytes of a function's window (R492, R493). -/
def windowSize (fn : Nat) : Nat := if fn = 0 then 2 ^ 27 else 2 ^ 23

/-- The region and scratchpad address of window offset `o` (R493). -/
def windowAddr (s : Chip) (port fn o : Nat) : Nat × Nat :=
  let pg := windowPage port fn
  if fn = 0 then (rd s pg Reg.HUB_SPAD_SEL_REGION, o % 2 ^ 27)
  else
    let q := rd s pg Reg.HUB_SPAD_SEL_QUAD
    (q / 4, q % 4 * 2 ^ 25 + (4 * rd s pg Reg.HUB_SPAD_SEL_QUARTER + o % 2 ^ 23 / 2 ^ 21) * 2 ^ 21 + o % 2 ^ 21)

/-- The aligned 8-byte accesses of a request (R494): offset and bytes of each. -/
def windowParts (o len : Nat) : List (Nat × Nat) :=
  (span (o / 8) ((o + len - 1) / 8 + 1 - o / 8)).map (fun w =>
    let lo := max o (8 * w)
    (lo, min (o + len) (8 * w + 8) - lo))

/-- Is a window access at offset `o` granted (R494)? -/
def windowGrants (s : Chip) (port fn o : Nat) : Bool :=
  let e := windowAddr s port fn o
  let b := bankOf e.1 e.2
  match readyPart s port fn with
  | none => false
  | some p => quadOwner s (b / 16) == some p && !(bankFenced s b)

/-- Does a granted access of the request reach a region that is not AWAKE (R460)? -/
def windowSleeps (s : Chip) (port fn o len : Nat) : Bool :=
  (windowParts o len).any (fun e => windowGrants s port fn e.1 && !(regionAwake s (windowAddr s port fn e.1).1))

/-- The refusal of one access is counted (R494). -/
def windowRefuse (s : Chip) (port fn : Nat) : Chip := bump s (windowPage port fn) Reg.HUB_SPAD_REFUSED_COUNT 1

/-- The wake that a window request calls for. -/
def windowWake (s : Chip) (port fn o len : Nat) : Chip :=
  (windowParts o len).foldl (fun t e => if windowGrants t port fn e.1 then regionCall t (windowAddr t port fn e.1).1 else t) s

/-- Is the function's window there: PF0 of the management port, or a virtual function (R489, R491, R492)? -/
def windowThere (s : Chip) (port fn o len : Nat) : Bool :=
  barOpen s port fn && (fn != 0 || port == mgmtPort s) && len != 0 && decide (o + len ≤ windowSize fn)

/-- One part of a scratchpad window's read: the pad's bytes, or ones where the window does not grant it. -/
def windowReadPart (port fn : Nat) (x : Chip × List Byte × Bool) (e : Nat × Nat) : Chip × List Byte × Bool :=
  if windowGrants x.1 port fn e.1 then
    let a := windowAddr x.1 port fn e.1
    let t := padMeets x.1 a.1 a.2 e.2 none
    (t, x.2.1 ++ padRead t a.1 a.2 e.2, x.2.2 || padBad t a.1 a.2 e.2)
  else (windowRefuse x.1 port fn, x.2.1 ++ List.replicate e.2 0xFF, x.2.2)

/-- The answer of a window's read: its bytes, or poison where a pad held it. -/
def windowAnswer (r : Chip × List Byte × Bool) (port fn len : Nat) : Chip :=
  emit r.1 (if r.2.2 then .poisoned port fn len else .completion port fn r.2.1)

/-- SPAD_WINDOW_READ (R493, R494). -/
def spadWindowRead (s : Chip) (port fn o len : Nat) : Chip :=
  if !(windowThere s port fn o len) then s
  else if inFatal s then onesDone s port fn len
  else if windowSleeps s port fn o len then windowWake s port fn o len
  else windowAnswer ((windowParts o len).foldl (windowReadPart port fn) (s, [], false)) port fn len

/-- One part of a scratchpad window's write. -/
def windowWritePart (port fn o : Nat) (l : List Byte) (t : Chip) (e : Nat × Nat) : Chip :=
  if windowGrants t port fn e.1 then
    let a := windowAddr t port fn e.1
    padPut t a.1 a.2 ((l.drop (e.1 - o)).take e.2) false none
  else windowRefuse t port fn

/-- SPAD_WINDOW_WRITE (R493, R494). -/
def spadWindowWrite (s : Chip) (port fn o : Nat) (l : List Byte) : Chip :=
  if !(windowThere s port fn o l.length) || inFatal s then s
  else if windowSleeps s port fn o l.length then windowWake s port fn o l.length
  else (windowParts o l.length).foldl (windowWritePart port fn o l) s

/-! ### The rest of R353 -/

/-- ATOMICOP_REQUEST (R353); a TLP of a stream in Insecure is discarded (R397). -/
def atomicOpRequest (s : Chip) (port fn : Nat) : Chip :=
  if hubOn s && dlUp s port && !(kmem s.sec.ideInsecure (funcNo port fn)) then emit (if funcPresent s port fn then setAer s port fn 20 else s) (.unsupported port fn) else s

/-- The first command of a job that waits for host memory: a copy, an event or a submission (R353). -/
def hostCommand (j : Job) : Option Cmd :=
  j.cmds.find? (fun c =>
    let b := bodyOf c.raw
    let op := hdrOpcode c.raw
    unfinished c && c.copies.any (fun k => k.fate == .issued)
      && ((op == 0x06 && copyHost b) || (op == 0x13 && bf b 0x20 31 30 == 2) || (op == 0x40 && bf b 0x18 1 0 == 2)))

/-- HOST_COMPLETION_TIMEOUT (R353): the origin's command that waits for host memory fails; where it has none, the fetch of
its queue's next command. -/
def hostCompletionTimeout (s : Chip) (o : Origin) : Chip :=
  match (s.q.jobs.filter (fromOrigin o)).findSome? hostCommand with
  | some c =>
    let b := bodyOf c.raw
    if hdrOpcode c.raw = 0x06 then dmaCopy (handTo s o (dmaOf o) 0x06 b) o b .error
    else if hdrOpcode c.raw = 0x13 then eventHost (handTo s o (syncOf o) 0x13 b) o b .error
    else serveSubmit (handTo s o (startListOf o) 0x40 b) o b .error
  | none =>
    if rd s (queuePage o) Reg.SQ_CFG_LOC = 1 then s else commandFetch s o.part.val o.queue.val .error

end Sys2Proof.Machine
end

