-- ==== Sys2Proof/Machine/Mesh.lean ====
section
/-!
DEFINITION. Serrun transfers (14): payloads (R422), routes (R416 to R418), SRN_WRITE, SRN_READ, SRN_UPDATE and SRN_SIGNAL
(R419 to R421), collectives (R423 to R425), and the packets that arrive.
-/
namespace Sys2Proof.Machine

/-! ### The mesh as this module sees it (R413, R414) -/

/-- Own column and row. -/
def meshX (s : Chip) : Nat := rd s (.srn 0) Reg.SRN_MESH_CFG_X
def meshY (s : Chip) : Nat := rd s (.srn 0) Reg.SRN_MESH_CFG_Y

/-- Does the destination lie outside the dimensions (R416)? -/
def outside (s : Chip) (x y : Nat) : Bool :=
  decide (x > rd s (.srn 0) Reg.SRN_MESH_CFG_DIM_X_M1 ∨ y > rd s (.srn 0) Reg.SRN_MESH_CFG_DIM_Y_M1)

/-- The port towards (x, y): its column first, then its row (R416); none for the module's own coordinates. -/
def routePort (s : Chip) (x y : Nat) : Option Nat :=
  if x > meshX s then some 1
  else if x < meshX s then some 3
  else if y > meshY s then some 0
  else if y < meshY s then some 2
  else none

/-- The low 16 bits of the epoch (R415). -/
def epochLow (s : Chip) : Nat := epochNow s % 2 ^ 16

/-- A coordinate of a packet. -/
def fin64 (n : Nat) : Fin 64 := ⟨n % 64, Nat.mod_lt _ (by decide)⟩

/-- May data use the port's link (R412, R418)? -/
def linkUpAt (s : Chip) (port : Nat) : Bool := linkState s port == 5

/-! ### Payloads (R422) -/

/-- A payload without bytes. -/
def noPayload : Payload := { bytes := [], tags := [], bad := [] }

/-- The bytes of a payload before its units are encoded. -/
def payloadLen (d : Payload) : Nat :=
  let stored := (d.tags.map (fun t => if bit t 31 then bits t 11 0 else 4096)).sum
  4096 * d.tags.length + (d.bytes.length - stored)

/-- The payload of a packet: an acknowledgement of SRN_READ carries its data (R421). -/
def bodyData : PacketBody → Payload
  | .write _ d => d
  | .update _ d _ _ _ => d
  | .part _ _ _ _ _ _ _ _ _ d => d
  | .read _ _ => noPayload
  | .signal _ _ => noPayload
  | .ack d => d
  | .refusal _ => noPayload

/-- Encode the whole units of a payload where the partition's slot context in region `r` asks for it (R422). -/
def packPayload (s : Chip) (r p : Nat) (l : List Byte) (bad : Keys) : Chip × Payload :=
  match slotCtx s r p with
  | none => (s, { bytes := l, tags := [], bad := bad })
  | some c =>
    if !(bit c.enable 3) then (s, { bytes := l, tags := [], bad := bad })
    else
      let n := l.length / 4096
      let e := (List.range n).foldl (fun (e : Chip × List Byte × List Nat) i =>
        let f := slotForm ((l.drop (4096 * i)).take 4096)
        (countUnit e.1 r (bit f.2 31) f.1.length, e.2.1 ++ f.1, e.2.2 ++ [f.2])) (s, [], [])
      (e.1, { bytes := e.2.1 ++ l.drop (4096 * n), tags := e.2.2, bad := bad })

/-- Decode the units of a payload at the receiving region `r` (R422): its bytes and its poisoned lines; a unit that does
not decode is reported, and is poison (R313). -/
def unpackUnits (r p : Nat) : Nat → List Nat → List Byte → Chip → Keys → List Byte → Chip × List Byte × Keys
  | _, [], l, s, bad, out => (s, out ++ l, bad)
  | i, t :: ts, l, s, bad, out =>
    let n := if bit t 31 then bits t 11 0 else 4096
    let s := if bit t 31 then bump64 s (.skv r) Reg.SKV_BUSY_LO_BUSY Reg.SKV_BUSY_HI_BUSY 56 else s
    let unit := if bit t 31 then slotDecode t (l.take n) else if bits t 30 29 = 0 then some (l.take n) else none
    match unit with
    | some u => unpackUnits r p (i + 1) ts (l.drop n) s bad (out ++ u)
    | none =>
      let s := report s (.skv r) Reg.SKV_ERR_STAT_SLOT_CORRUPT { plainNote (.skv r) .deferred 0x6F with part := some p }
      unpackUnits r p (i + 1) ts (l.drop n) s ((span (64 * i) 64).foldl kadd bad) (out ++ List.replicate 4096 0)

/-- The bytes and the poisoned lines of a payload. -/
def unpackPayload (s : Chip) (r p : Nat) (d : Payload) : Chip × List Byte × Keys := unpackUnits r p 0 d.tags d.bytes s d.bad []

/-- Read `len` bytes at a place line by line: the bytes, and the numbers of the lines that are poisoned. -/
def readLines (s : Chip) (o : Origin) (x : Place) (len : Nat) : Chip × List Byte × Keys :=
  (List.range (cdiv len 64)).foldl (fun (e : Chip × List Byte × Keys) i =>
    let t := placeRead e.1 o (x.plus (64 * i)) (min 64 (len - 64 * i)) []
    (t.1, e.2.1 ++ t.2.1, if t.2.2 then kadd e.2.2 i else e.2.2)) (s, [], [])

/-- Poison the lines of a run at `a` that a payload names. -/
def poisonLines (s : Chip) (a n : Nat) (bad : Keys) : Chip :=
  (bad.filter (fun i => decide (64 * i < n))).foldl (fun t i => poisonRun t (a + 64 * i) (min 64 (n - 64 * i))) s

/-! ### Sending -/

/-- A packet from this module. -/
def packetTo (s : Chip) (p x y : Nat) (twin : Bool) (xfer : Nat) (body : PacketBody) : Packet :=
  { srcX := fin64 (meshX s), srcY := fin64 (meshY s), dstX := fin64 x, dstY := fin64 y, twin := twin,
    epoch := BitVec.ofNat 16 (epochNow s), tag := BitVec.ofNat 16 (crewTag s p), xfer := xfer, last := true, body := body }

/-- A packet leaves through a port. -/
def sendPacket (s : Chip) (port : Nat) (k : Packet) : Chip :=
  emit (countTx s port (bodyData k.body).bytes.length) (.packet port k)

/-- A transfer is entered among those that wait. -/
def addXfer (s : Chip) (p : Nat) (who : Option (Origin × Body)) (kind : XferKind) (port : Nat) : Chip :=
  { s with mesh := { s.mesh with
    xfers := s.mesh.xfers ++ [{ id := s.mesh.nextXfer, part := p, who := who, kind := kind, started := s.now, port := port }],
    nextXfer := s.mesh.nextXfer + 1 } }

/-- The transfer with a number. -/
def xferById (s : Chip) (id : Nat) : Option Xfer := s.mesh.xfers.find? (fun x => x.id == id)

/-- A transfer no longer waits. -/
def dropXfer (s : Chip) (id : Nat) : Chip :=
  { s with mesh := { s.mesh with xfers := s.mesh.xfers.filter (fun x => x.id != id) } }

/-- Change the collective with this transfer number. -/
def setColl (s : Chip) (id : Nat) (f : Coll → Coll) : Chip :=
  { s with mesh := { s.mesh with xfers := s.mesh.xfers.map (fun x =>
    match x.kind with
    | .coll c => if x.id = id then { x with kind := .coll (f c) } else x
    | _ => x) } }

/-- A Serrun command's job faults through a port with a code of Table 14-6, or by its quad front with SEM_OVERFLOW (R191), and the
command is done. -/
def srnFault (s : Chip) (port : Nat) (o : Origin) (op : Nat) (b : Body) (code : Nat) : Chip :=
  let s := handTo s o (dmaOf o) op b
  dmaDone (if code = 0x46 then faultQueue s o code
    else faultJob s (.srn port) (some Reg.SRN_ERR_STAT_JOB_FAULT) o code none) o op b

/-- The code of a refusal (R415, R418, R420, R425); that an overflow of the destination's semaphore comes back so is DEDUCED from
R191 and R421 (log 123). -/
def refusalCode : RefusalReason → Nat
  | .epoch => 0x91
  | .linkDown => 0x90
  | .remote => 0x93
  | .config => 0x92
  | .overflow => 0x46

/-- The opcode of a transfer's command. -/
def xferOp (x : Xfer) : Nat :=
  match x.kind with
  | .write op => op
  | .read _ _ _ => 0x61
  | .signal => 0x64
  | .mirror _ => 0
  | .coll _ => 0x63

/-- BUF of a collective that fails is undefined (R425), where it is still the partition's own (R2, R323). -/
def loseBuf (s : Chip) (p : Nat) (c : Coll) : Chip :=
  let d := draw s
  (pieces c.addr c.len).foldl (fun t e =>
    if accessCheck t p e.1 e.2 true == none then memPut t e.1 ((span e.1 e.2).map (Config.freeByte d.1)) else t) d.2

/-- A transfer fails with a code: its command's job faults, and it no longer waits. -/
def failXfer (s : Chip) (x : Xfer) (code : Nat) : Chip :=
  let s := dropXfer s x.id
  let s := match x.kind with
    | .coll c => loseBuf s x.part c
    | _ => s
  match x.who with
  | some (o, b) => srnFault s x.port o (xferOp x) b code
  | none => mirrorLost s x.part

/-- Write a payload that came for SRN_READ to its place as one run (R335), its poisoned lines poison; a fence that a narrow write
raises in scratchpad (R161) leaves the rest, from the address answered. -/
def landRead (s : Chip) (o : Origin) (x : Place) (l : List Byte) (bad : Keys) : Chip × Option Nat :=
  let e := if x.space = 0 then narrowRun s (o.quad.val / 4) x.addr l.length (some o) else (s, none)
  let n := (e.2.getD (x.addr + l.length)) - x.addr
  (placeMarked e.1 o x (l.take n) (clipRuns n (bad.map (fun i => (64 * i, 64)))), e.2)

/-- The acknowledgement of an SRN_READ has come, and its data waits: no timeout ends it now. -/
def readCome (s : Chip) (id : Nat) : Chip :=
  { s with mesh := { s.mesh with xfers := s.mesh.xfers.map (fun x =>
    match x.kind with
    | .read space dst _ => if x.id = id then { x with kind := .read space dst true } else x
    | _ => x) } }

/-- The run of device memory that SRN_READ's data is written to. -/
def landRuns (space dst : Nat) (d : Payload) : List (List (Nat × Nat × Bool)) := [if space = 1 then [(dst, payloadLen d, true)] else []]

/-- SRN_READ's data has come (R421): it is written locally, and the command retires; where its write waits, the
transfer waits. -/
def readArrived (s : Chip) (x : Xfer) (o : Origin) (b : Body) (space dst : Nat) (d : Payload) : Chip :=
  let n := payloadLen d
  if runsWait s o.part.val (landRuns space dst d) then runsHeld (readCome s x.id) o.part.val (landRuns space dst d)
  else
    let e := unpackPayload (handTo (dropXfer s x.id) o (dmaOf o) 0x61 b) (o.quad.val / 4) o.part.val d
    let place : Place := { space := space, addr := dst }
    let y := placePrefix e.1 o place n true
    let w := landRead e.1 o place (e.2.1.take y.1) e.2.2
    let s := match w.2, y.2 with
      | some a, _ => faultPlace w.1 o place 0x3C (a - dst)
      | none, some c => faultPlace w.1 o place c y.1
      | none, none => w.1
    dmaDone s o 0x61 b

/-- A millisecond field in which 0 means 65,536. -/
def msOf (v : Nat) : Nat := msNs (if v = 0 then 65536 else v)

/-- Does the transfer have the acknowledgement timeout? A collective has its own, a mirrored write none, and a read whose data
has come none any more. -/
def ackCounts : XferKind → Bool
  | .coll _ => false
  | .mirror _ => false
  | .read _ _ come => !come
  | _ => true

/-- Has the transfer's half-open interval for its acknowledgement ended (R7, R421)? -/
def ackLate (s : Chip) (x : Xfer) : Bool :=
  ackCounts x.kind && decide (x.started + msOf (rd s (.srn 0) Reg.SRN_ACK_CFG_ACK_TIMEOUT) ≤ s.now)

/-- The acknowledgement of a transfer takes effect (R421, R427); one that comes late is none. -/
def takeAck (s : Chip) (x : Xfer) (d : Payload) : Chip :=
  if ackLate s x then failXfer s x 0x90
  else match x.kind, x.who with
  | .coll _, _ => s
  | .read space dst _, some (o, b) => readArrived s x o b space dst d
  | _, some (o, b) => dmaDone (handTo (dropXfer s x.id) o (dmaOf o) (xferOp x) b) o (xferOp x) b
  | _, none => dropXfer s x.id

/-- Has the transfer's data come, and waits? -/
def hasCome (x : Xfer) : Bool :=
  match x.kind with
  | .read _ _ come => come
  | _ => false

/-- SRN_ACK_ARRIVAL (R421, R427): the data that comes with it has crossed the transfer's link once (R422). -/
def srnAckArrival (s : Chip) (id : Nat) (d : Payload) : Chip :=
  match xferById s id with
  | none => s
  | some x => takeAck (if hasCome x then s else countRx s x.port d.bytes.length) x d

/-- SRN_REFUSAL_ARRIVAL (R415, R418, R420, R425): the sending command faults, as late where its interval has ended (R7, R421); a
refused mirrored write is lost (R429). -/
def srnRefusalArrival (s : Chip) (id : Nat) (reason : RefusalReason) : Chip :=
  match xferById s id with
  | some x => failXfer s x (if ackLate s x then 0x90 else refusalCode reason)
  | none => s

/-- SRN_ACK_TIMEOUT (R421). -/
def srnAckTimeout (s : Chip) (id : Nat) : Chip :=
  match xferById s id with
  | none => s
  | some x => if ackLate s x then failXfer s x 0x90 else s

/-- Has a collective's half-open interval ended (R7, R425)? -/
def collLate (s : Chip) (x : Xfer) : Bool :=
  decide (x.started + msOf (rd s (.srn 0) Reg.SRN_ACK_CFG_COLL_TIMEOUT) ≤ s.now)

/-- SRN_COLL_TIMEOUT (R425). -/
def srnCollTimeout (s : Chip) (id : Nat) : Chip :=
  match xferById s id with
  | none => s
  | some x =>
    match x.kind with
    | .coll _ => if collLate s x then failXfer s x 0x95 else s
    | _ => s

/-! ### Collectives (R423 to R425) -/

/-- The ring order of a line of `k` members: even positions ascending, then odd ones descending (R424). -/
def ringOrder (k : Nat) : List Nat :=
  (List.range k).filter (fun i => i % 2 == 0) ++ ((List.range k).filter (fun i => i % 2 == 1)).reverse

/-- A position's place in its ring. -/
def ringPlace (k i : Nat) : Nat := (ringOrder k).idxOf i

/-- The position that follows (or precedes) in the ring. -/
def ringNext (k i : Nat) : Nat := (ringOrder k).getD ((ringPlace k i + 1) % k) 0
def ringPrev (k i : Nat) : Nat := (ringOrder k).getD ((ringPlace k i + k - 1) % k) 0

/-- Columns and rows of the crew (R423). -/
def crewCols (s : Chip) : Nat := s.mesh.x1 + 1 - s.mesh.x0
def crewRows (s : Chip) : Nat := s.mesh.y1 + 1 - s.mesh.y0

/-- Members in the line of a phase: 0 and 3 run along the row, 1 and 2 along the column (R424). -/
def phaseMembers (s : Chip) (ph : Nat) : Nat := if ph = 0 ∨ ph = 3 then crewCols s else crewRows s

/-- Own position in the line of a phase. -/
def phasePos (s : Chip) (ph : Nat) : Nat := if ph = 0 ∨ ph = 3 then meshX s - s.mesh.x0 else meshY s - s.mesh.y0

/-- The successor in the line of a phase, as coordinates. -/
def phaseNext (s : Chip) (ph : Nat) : Nat × Nat :=
  if ph = 0 ∨ ph = 3 then (s.mesh.x0 + ringNext (crewCols s) (phasePos s ph), meshY s)
  else (meshX s, s.mesh.y0 + ringNext (crewRows s) (phasePos s ph))

/-- The segment that step `t` of a phase sends: its offset in BUF and its length (R424). A reduce phase sends segment
i − t, a gather phase segment i + 1 − t, of the line's k segments; the column's segments divide the row result. -/
def phaseSegment (s : Chip) (len ph t : Nat) : Nat × Nat :=
  let k := phaseMembers s ph
  let i := ringPlace k (phasePos s ph)
  let n := if ph ≤ 1 then (i + 2 * k - t) % k else (i + 1 + 2 * k - t) % k
  let row := len / crewCols s
  if ph = 0 ∨ ph = 3 then (n * row, row)
  else
    let held := (ringPlace (crewCols s) (phasePos s 0) + 1) % crewCols s
    let part := row / crewRows s
    (held * row + n * part, part)

/-- The first phase that has a step left to send, where it may send it: every earlier phase complete, and the step's
segment received (R424). -/
def nextSend (s : Chip) (c : Coll) : Option Nat :=
  let whole := fun ph => c.got.getD ph 0 ≥ phaseMembers s ph - 1 && c.sent.getD ph 0 ≥ phaseMembers s ph - 1
  (List.range 4).find? (fun ph => (List.range ph).all whole && decide (c.sent.getD ph 0 < phaseMembers s ph - 1)
    && decide (c.sent.getD ph 0 ≤ c.got.getD ph 0))

/-- Has every phase sent and received its parts? -/
def collDone (s : Chip) (c : Coll) : Bool :=
  (List.range 4).all (fun ph => c.got.getD ph 0 ≥ phaseMembers s ph - 1 && c.sent.getD ph 0 ≥ phaseMembers s ph - 1)

/-- Add 1 to entry `i` of a list. -/
def bumpAt (l : List Nat) (i : Nat) : List Nat := l.mapIdx (fun j v => if j = i then v + 1 else v)

/-- A collective meets a refused access of its own (R323, R326): its job faults there. -/
def failColl (s : Chip) (x : Xfer) (o : Origin) (b : Body) (c : Coll) (code a : Nat) : Chip :=
  dmaDone (faultMem (handTo (loseBuf (dropXfer s x.id) x.part c) o (dmaOf o) 0x63 b) o code a) o 0x63 b

/-- A collective sends what it can, up to `n` parts, and retires when its phases are complete (R424). -/
def collGo : Nat → Nat → Chip → Chip
  | 0, _, s => s
  | n + 1, id, s =>
    match xferById s id with
    | none => s
    | some x =>
      match x.kind, x.who with
      | .coll c, some (o, b) =>
        if collDone s c then dmaDone (dropXfer s id) o 0x63 b
        else
          match nextSend s c with
          | none => s
          | some ph =>
            let t := c.sent.getD ph 0
            let g := phaseSegment s c.len ph t
            let dest := phaseNext s ph
            match routePort s dest.1 dest.2 with
            | none => s
            | some port =>
              let run := [[(c.addr + g.1, g.2, false)]]
              if !(linkUpAt s port) then failXfer s { x with port := port } 0x90
              else if runsWait s x.part run then runsHeld s x.part run
              else match memRefusal s x.part (c.addr + g.1) g.2 false with
              | some code => failColl s x o b c code (c.addr + g.1 + runPrefix s x.part (c.addr + g.1) g.2 false)
              | none =>
                let e := readLines s o { space := 1, addr := c.addr + g.1 } g.2
                let d := packPayload e.1 (o.quad.val / 4) x.part e.2.1 e.2.2
                let body : PacketBody := .part c.id c.len c.ty c.op c.uns (rd s (.srn 0) (Reg.SRN_CREW_DIGEST_DIGEST 0)) g.1
                  (ph == 1 || ph == 2) (ph ≥ 2) d.2
                let k := packetTo s x.part dest.1 dest.2 false id body
                collGo n id (setColl (sendPacket d.1 port k) id (fun c => { c with sent := bumpAt c.sent ph }))
      | _, _ => s

/-- More parts than any collective sends: four phases of at most seven steps, and the end. -/
def collFuel : Nat := 40

/-- The collectives that waited for memory go on. -/
def collsResume (s : Chip) : Chip :=
  s.mesh.xfers.foldl (fun t x =>
    match x.kind with
    | .coll _ => collGo collFuel x.id t
    | _ => t) s

/-- What waited for credit, for power or for initialisation goes on: completion records and collectives (R175, R328, R424). -/
def memoryGoes (s : Chip) : Chip := collsResume (drainAll s)

/-- The ports towards the ring neighbours of a collective (R425). -/
def collPorts (s : Chip) : List Nat :=
  let xs := crewCols s
  let ys := crewRows s
  let px := phasePos s 0
  let py := phasePos s 1
  let row := if xs ≤ 1 then [] else [routePort s (s.mesh.x0 + ringNext xs px) (meshY s), routePort s (s.mesh.x0 + ringPrev xs px) (meshY s)]
  let col := if ys ≤ 1 then [] else [routePort s (meshX s) (s.mesh.y0 + ringNext ys py), routePort s (meshX s) (s.mesh.y0 + ringPrev ys py)]
  (row ++ col).filterMap id

/-- Does the partner card of a port, once one has come (R412), show another digest (R425)? -/
def digestDiffers (s : Chip) (port : Nat) : Bool :=
  (srnPort s port).cardSeen && (List.range 4).any (fun n => partnerWord s port (4 + n) != rd s (.srn 0) (Reg.SRN_CREW_DIGEST_DIGEST n))

/-- A port of a collective's path that shows another digest. -/
def badDigest (s : Chip) : Option Nat := (collPorts s).find? (digestDiffers s)

/-- The collectives that a differing digest makes fail (R425); one whose interval has ended fails as late (R7). -/
def checkDigests (s : Chip) : Chip :=
  match badDigest s with
  | none => s
  | some port => s.mesh.xfers.foldl (fun t x =>
      match x.kind with
      | .coll _ => failXfer t { x with port := port } (if collLate t x then 0x95 else 0x92)
      | _ => t) s

/-- Are an SRN_ALLREDUCE's operands refused: OP, the length, alignment, a buffer in tier B? -/
def collInvalid (s : Chip) (b : Body) : Bool :=
  let len := bw b 0x20
  decide (bf b 0x24 25 24 = 3 ∨ len = 0 ∨ len % (256 * crewCols s * crewRows s) ≠ 0 ∨
    bq b 0x10 % elemSize (bf b 0x24 27 26) ≠ 0 ∨ unitOf (bq b 0x10) = some 16)

/-- The collective of a command, before it starts. -/
def collOfBody (b : Body) : Coll :=
  { id := bf b 0x2C 15 0, addr := bq b 0x10, len := bw b 0x20, ty := bf b 0x24 27 26, op := bf b 0x24 25 24,
    uns := bb b 0x24 23, got := [0, 0, 0, 0], sent := [0, 0, 0, 0] }

/-- A collective starts: its transfer is live, and it sends what it can. -/
def collStart (s : Chip) (o : Origin) (b : Body) : Chip :=
  collGo collFuel s.mesh.nextXfer (addXfer s o.part.val (some (o, b)) (.coll (collOfBody b)) ((collPorts s).headD 0))

/-- Does a collective send to a member outside the mesh's dimensions (R416)? -/
def collOutside (s : Chip) : Bool :=
  [0, 1].any (fun ph => decide (1 < phaseMembers s ph) && outside s (phaseNext s ph).1 (phaseNext s ph).2)

/-- Why a collective cannot start: a member outside the mesh (R416), or a digest that differs (R425); the port and the code. -/
def collBlocked (s : Chip) : Option (Nat × Nat) :=
  if collOutside s then some (0, 0x94) else (badDigest s).map (fun port => (port, 0x92))

/-- SRN_ALLREDUCE (R423 to R425). -/
def srnAllreduce (s : Chip) (o : Origin) (b : Body) : Chip :=
  let addr := bq b 0x10
  let len := bw b 0x20
  let p := o.part.val
  if collInvalid s b then dmaDone (faultQueue s o 0x41) o 0x63 b
  else
    if runsWait s p [[(addr, len, true)]] then runsHeld s p [[(addr, len, true)]]
    else
      match memRefusal s p addr len true with
      | some c => dmaDone (faultMem s o c (addr + runPrefix s p addr len true)) o 0x63 b
      | none =>
        match collBlocked s with
        | some (port, c) => srnFault (loseBuf s p (collOfBody b)) port o 0x63 b c
        | none => collStart s o b

/-! ### Packets that arrive (R415, R420, R425) -/

/-- What becomes of a packet at its destination. -/
inductive Delivery
  | done (d : Payload)
  | quiet
  | refused (reason : RefusalReason)
  | wait
deriving DecidableEq, Repr

/-- The partition that receives packets with a crew tag (R420). -/
def receiver (s : Chip) (tag : Nat) : Option Nat :=
  (List.range 16).find? (fun p => rd s (.srn 0) (Reg.SRN_PART_CFG_RX_EN p) == 1 && crewTag s p == tag)

/-- The region in which a partition's packets are decoded: its lead quad's. -/
def rxRegion (s : Chip) (p : Nat) : Nat := allocRegion s p

/-- Count a packet refused under R420. -/
def refuseRemote (s : Chip) (port : Nat) : Chip × Delivery := (bump s (.srn port) Reg.SRN_REJECTS_REFUSED 1, .refused .remote)

/-- A refused access of a packet is counted at its controller, or as a refused packet where no memory stands (R420). -/
def refuseRun (s : Chip) (port a : Nat) : Chip × Delivery :=
  if (unitOf a).isNone then refuseRemote s port else (refuseAccess s a false, .refused .remote)

/-- Write a payload to a partition's memory (R420): what comes before a refused access is written (R323). -/
def writeRemote (s : Chip) (port p a : Nat) (d : Payload) : Chip × Delivery :=
  let n := payloadLen d
  match admitRun s p a n true with
  | .wait => (runsHeld s p [[(a, n, true)]], .wait)
  | .go =>
    let e := unpackPayload (chargeRun s p a n) (rxRegion s p) p d
    (poisonLines (memPut e.1 a e.2.1) a n e.2.2, .done noPayload)
  | .refuse _ =>
    let k := runPrefix s p a n true
    let e := unpackPayload (chargeRun s p a k) (rxRegion s p) p d
    refuseRun (poisonLines (memPut e.1 a (e.2.1.take k)) a k e.2.2) port (a + k)

/-- Combine a payload into a partition's memory through the adders (R331 to R333). -/
def updateRemote (s : Chip) (p a ty op : Nat) (uns : Bool) (d : Payload) : Chip :=
  let n := payloadLen d
  let e := unpackPayload (chargeRun s p a n) (rxRegion s p) p d
  let s := countGranules (readMeets e.1 a n none) a n
  (linesOf a n).foldl (fun t x => updateLine t x.1 ty op uns ((e.2.1.drop (x.1 - a)).take x.2)
    (e.2.2.any (fun i => decide (64 * i < x.1 - a + x.2 ∧ x.1 - a < 64 * i + 64)))) s

/-- The live collective of a partition with an identifier. -/
def collOf (s : Chip) (p id : Nat) : Option (Xfer × Coll) :=
  s.mesh.xfers.findSome? (fun x =>
    match x.kind with
    | .coll c => if x.part = p ∧ c.id = id then some (x, c) else none
    | _ => none)

/-- A collective part that differs from the receiver's own values is refused, and the receiver's own command faults
(R425). -/
def refuseConfig (s : Chip) (port : Nat) (own : Option (Xfer × Coll)) : Chip × Delivery :=
  let s := bump s (.srn port) Reg.SRN_REJECTS_CONFIG 1
  (match own with
    | some (x, _) => failXfer s { x with port := port } 0x92
    | none => s, .refused .config)

/-- Is the own collective of a part late (R7, R425)? -/
def ownLate (s : Chip) (own : Option (Xfer × Coll)) : Bool :=
  match own with
  | some (x, _) => collLate s x
  | none => false

/-- A collective part (R424, R425). A part for which no command is live yet waits for it; one whose interval has ended takes none:
it has failed as late. -/
def takePart (s : Chip) (port p id len ty op : Nat) (uns : Bool) (digest off : Nat) (column gather : Bool) (d : Payload) :
    Chip × Delivery :=
  let own := collOf s p id
  let differs := decide (digest ≠ rd s (.srn 0) (Reg.SRN_CREW_DIGEST_DIGEST 0))
  if ownLate s own then
    let t := match own with
      | some (x, _) => failXfer s x 0x95
      | none => s
    if differs then refuseConfig t port none else (t, .quiet)
  else if differs then refuseConfig s port own
  else
    match own with
    | none => (s, .wait)
    | some (x, c) =>
      let ph := if gather then (if column then 2 else 3) else (if column then 1 else 0)
      let n := payloadLen d
      if len ≠ c.len ∨ ty ≠ c.ty ∨ op ≠ c.op ∨ uns ≠ c.uns then refuseConfig s port own
      else if off + n > c.len ∨ c.got.getD ph 0 ≥ phaseMembers s ph - 1 then (s, .quiet)
      else
        match admitRun s p (c.addr + off) n true with
        | .wait => (runsHeld s p [[(c.addr + off, n, true)]], .wait)
        | .refuse _ => refuseRun s port (c.addr + off + runPrefix s p (c.addr + off) n true)
        | .go =>
          let s := if gather then (writeRemote s port p (c.addr + off) d).1 else updateRemote s p (c.addr + off) ty op uns d
          (collGo collFuel x.id (setColl s x.id (fun c => { c with got := bumpAt c.got ph })), .quiet)

/-- A signal is delivered (R190, R191, R421): a semaphore in a region that sleeps wakes it first (R460), and a sum that passes the
top leaves the top and is answered so. -/
def takeSignal (s : Chip) (port p n v : Nat) : Chip × Delivery :=
  let r := n / 16384
  if !(semOwned s p n) then refuseRemote s port
  else if !(regionAwake s r) then (regionCall s r, .wait)
  else (semAdd s n v, if semVal s n + v > semTop then .refused .overflow else .done noPayload)

/-- Deliver a packet's body to partition `p` (R420). -/
def deliverTo (s : Chip) (port p : Nat) (body : PacketBody) : Chip × Delivery :=
  match body with
  | .write a d => writeRemote s port p a d
  | .read a n =>
    match admitRun s p a n false with
    | .wait => (runsHeld s p [[(a, n, false)]], .wait)
    | .refuse _ => refuseRun s port (a + runPrefix s p a n false)
    | .go =>
      let s := readMeets (chargeRun s p a n) a n none
      let bad := ((List.range (cdiv n 64)).filter (fun i => runBad s (a + 64 * i) (min 64 (n - 64 * i))))
      let e := packPayload s (rxRegion s p) p (memRead s a n) bad
      (e.1, .done e.2)
  | .update a d ty op uns =>
    let n := payloadLen d
    if unitOf a = some 16 then refuseRemote s port
    else
      match admitRun s p a n true with
      | .wait => (runsHeld s p [[(a, n, true)]], .wait)
      | .refuse _ => refuseRun s port (a + runPrefix s p a n true)
      | .go => (updateRemote s p a ty op uns d, .done noPayload)
  | .signal n v => takeSignal s port p n v
  | .part id len ty op uns digest off column gather d => takePart s port p id len ty op uns digest off column gather d
  | .ack _ => (s, .quiet)
  | .refusal _ => (s, .quiet)

/-- Is a packet's epoch behind or ahead of this module's (R415)? It is counted so; none where the epochs agree. -/
def epochRefusal (s : Chip) (port e : Nat) : Option Chip :=
  let d := (epochLow s + 2 ^ 16 - e) % 2 ^ 16
  if d = 0 then none
  else some (bump s (.srn port) (if d ≤ 2 ^ 15 then Reg.SRN_REJECTS_STALE else Reg.SRN_REJECTS_AHEAD) 1)

/-- The checks of a packet at its destination, and its delivery (R415, R420). -/
def deliver (s : Chip) (port : Nat) (k : Packet) : Chip × Delivery :=
  match epochRefusal s port k.epoch.toNat with
  | some t => (t, .refused .epoch)
  | none =>
    match receiver s k.tag.toNat with
    | none => refuseRemote s port
    | some p => deliverTo s port p k.body

/-- The port by which an answer goes back to a packet's source (R417). -/
def replyPort (s : Chip) (k : Packet) : Nat := if k.twin then 4 else (routePort s k.srcX.val k.srcY.val).getD 0

/-- Send an answer with `n` bytes of data to a packet's source; it is lost where its link is not UP (R417, R418). -/
def reply (s : Chip) (k : Packet) (n : Nat) (m : Nat → Out) : Chip :=
  let port := replyPort s k
  if linkUpAt s port then emit (countTx s port n) (m port) else s

/-- Is the packet for this module? -/
def isMine (s : Chip) (k : Packet) : Bool := k.twin || (k.dstX.val == meshX s && k.dstY.val == meshY s)

/-- The end of a packet's arrival: counted, refused or, with the last of its transfer, acknowledged. -/
def packetArrived (port : Nat) (k : Packet) (e : Chip × Delivery) : Chip :=
  let n := (bodyData k.body).bytes.length
  match e.2 with
  | .wait => e.1
  | .quiet => countRx e.1 port n
  | .refused r => reply (countRx e.1 port n) k 0 (fun q => .refusal q k.xfer r)
  | .done d =>
    let s := countRx e.1 port n
    if k.last then reply s k d.bytes.length (fun q => .ack q k.xfer d) else s

/-- A packet for this module arrives: data is delivered, and an answer acts on its transfer (R417). -/
def takePacket (s : Chip) (port : Nat) (k : Packet) : Chip :=
  match k.body with
  | .ack d => srnAckArrival s k.xfer d
  | .refusal r => srnRefusalArrival s k.xfer r
  | _ => packetArrived port k (deliver s port k)

/-- SRN_PACKET_ARRIVAL (R415, R420 to R422, R425). -/
def srnPacketArrival (s : Chip) (port : Nat) (k : Packet) : Chip :=
  if !(running s) || !(linkUpAt s port) || !(isMine s k) then s else takePacket s port k

/-- Is the packet an answer, which no refusal answers (R417, R418)? -/
def isAnswer : PacketBody → Bool
  | .ack _ => true
  | .refusal _ => true
  | _ => false

/-- A packet is discarded at a port (R418): the source of data learns of it. -/
def discardPacket (s : Chip) (port : Nat) (k : Packet) : Chip :=
  let s := countRx s port (bodyData k.body).bytes.length
  if isAnswer k.body then s else reply s k 0 (fun q => .refusal q k.xfer .linkDown)

/-- SRN_PACKET_DISCARD (R418): a packet whose next link is not UP is discarded, and its source learns of it. -/
def srnPacketDiscard (s : Chip) (port : Nat) (k : Packet) : Chip :=
  if !(running s) || isMine s k then s
  else
    match routePort s k.dstX.val k.dstY.val with
    | none => s
    | some q => if linkUpAt s q then s else discardPacket s port k

/-- SRN_PACKET_FORWARD (R416, R417): the packet goes on along its route, unchecked; where its next link is not UP it is
discarded (R418). -/
def srnPacketForward (s : Chip) (port : Nat) (k : Packet) : Chip :=
  if !(running s) || !(linkUpAt s port) || isMine s k then s
  else
    match routePort s k.dstX.val k.dstY.val with
    | none => s
    | some q =>
      if linkUpAt s q then sendPacket (countRx s port (bodyData k.body).bytes.length) q k else srnPacketDiscard s port k

/-! ### SRN_WRITE, SRN_READ, SRN_UPDATE and SRN_SIGNAL (R419 to R421) -/

/-- DEST (R419): the twin, or coordinates. -/
def srnTwin (b : Body) : Bool := bb b 0x28 31
def srnX (b : Body) : Nat := bf b 0x28 11 6
def srnY (b : Body) : Nat := bf b 0x28 5 0

/-- The port by which a command's packets leave: none stays in the module. -/
def srnExit (s : Chip) (b : Body) : Option Nat := if srnTwin b then some 4 else routePort s (srnX b) (srnY b)

/-- Can the command's packets not leave: its destination lies outside the mesh, or its first link is not UP (R416, R418)? -/
def srnBlocked (s : Chip) (b : Body) : Option (Nat × Nat) :=
  if !(srnTwin b) && outside s (srnX b) (srnY b) then some (0, 0x94)
  else
    match srnExit s b with
    | some k => if linkUpAt s k then none else some (k, 0x90)
    | none => none

/-- The runs that a transfer's answer writes here. -/
def landOf (kind : XferKind) (d : Payload) : List (List (Nat × Nat × Bool)) :=
  match kind with
  | .read space dst _ => landRuns space dst d
  | _ => []

/-- Does the writing of an answer wait for credit, power or initialisation (R328, R346)? -/
def landWaits (s : Chip) (o : Origin) (kind : XferKind) (d : Payload) : Bool :=
  match kind with
  | .read _ _ _ => runsWait s o.part.val (landOf kind d)
  | _ => false

/-- A packet for the module itself goes through the hub fabric (R416): it is delivered at once. -/
def srnLocal (s : Chip) (o : Origin) (op : Nat) (b : Body) (kind : XferKind) (body : PacketBody) : Chip :=
  let id := s.mesh.nextXfer
  let e := deliver s 0 (packetTo s o.part.val (srnX b) (srnY b) false id body)
  let t := addXfer e.1 o.part.val (some (o, b)) kind 0
  match e.2 with
  | .wait => e.1
  | .quiet => dmaDone e.1 o op b
  | .refused r => srnRefusalArrival t id r
  | .done d =>
    if landWaits e.1 o kind d then runsHeld s o.part.val (landOf kind d)
    else match xferById t id with
      | some x => takeAck t x d
      | none => t

/-- A command's packet goes to its destination, and its transfer waits for the answer (R419, R421). -/
def srnLaunch (s : Chip) (o : Origin) (op : Nat) (b : Body) (kind : XferKind) (body : PacketBody) : Chip :=
  match srnExit s b with
  | none => srnLocal s o op b kind body
  | some port =>
    let k := packetTo s o.part.val (srnX b) (srnY b) (srnTwin b) s.mesh.nextXfer body
    sendPacket (addXfer s o.part.val (some (o, b)) kind port) port k

/-- Is LENGTH out of range (Table 14-5)? -/
def srnLenBad (b : Body) : Bool := bw b 0x20 == 0 || bw b 0x20 % 64 != 0 || decide (bw b 0x20 > 2 ^ 30)

/-- The source's lines are read, packed and sent. -/
def pushGo (s : Chip) (o : Origin) (op : Nat) (b : Body) (body : Payload → PacketBody) : Chip :=
  let e := readLines s o { space := bf b 0x24 31 30, addr := bq b 0x10 } (bw b 0x20)
  let d := packPayload e.1 (o.quad.val / 4) o.part.val e.2.1 e.2.2
  srnLaunch d.1 o op b (.write op) (body d.2)

/-- SRN_WRITE, or SRN_UPDATE once its own fields are checked: the payload is read and sent. -/
def srnPush (s : Chip) (o : Origin) (op : Nat) (b : Body) (body : Payload → PacketBody) : Chip :=
  let src : Place := { space := bf b 0x24 31 30, addr := bq b 0x10 }
  let len := bw b 0x20
  match srnBlocked s b with
  | some (port, c) => srnFault s port o op b c
  | none =>
    let runs := [if src.space = 1 then [(src.addr, len, false)] else []]
    if runsWait s o.part.val runs then runsHeld s o.part.val runs
    else
      match (placePrefix s o src len false).2 with
      | some c => dmaDone (faultPlace s o src c (placePrefix s o src len false).1) o op b
      | none => pushGo s o op b body

/-- SRN_WRITE (R419, R421). -/
def srnWrite (s : Chip) (o : Origin) (b : Body) : Chip :=
  if srnLenBad b || decide (bf b 0x24 31 30 > 1) then dmaDone (faultQueue s o 0x41) o 0x60 b
  else srnPush s o 0x60 b (fun d => .write (bq b 0x18) d)

/-- Are an SRN_UPDATE's operands refused: the length, the source's space, OP, alignment to the element? -/
def srnUpdateBad (b : Body) : Bool :=
  let z := elemSize (bf b 0x24 27 26)
  srnLenBad b || decide (bf b 0x24 31 30 > 1) || bf b 0x24 25 24 == 3 || bq b 0x10 % z != 0 || bq b 0x18 % z != 0

/-- SRN_UPDATE (R419, R421). -/
def srnUpdate (s : Chip) (o : Origin) (b : Body) : Chip :=
  if srnUpdateBad b then dmaDone (faultQueue s o 0x41) o 0x62 b
  else srnPush s o 0x62 b (fun d => .update (bq b 0x18) d (bf b 0x24 27 26) (bf b 0x24 25 24) (bb b 0x24 23))

/-- SRN_READ (R419, R421). -/
def srnRead (s : Chip) (o : Origin) (b : Body) : Chip :=
  if srnLenBad b || decide (bf b 0x24 29 28 > 1) then dmaDone (faultQueue s o 0x41) o 0x61 b
  else
    match srnBlocked s b with
    | some (port, c) => srnFault s port o 0x61 b c
    | none => srnLaunch s o 0x61 b (.read (bf b 0x24 29 28) (bq b 0x18) false) (.read (bq b 0x10) (bw b 0x20))

/-- SRN_SIGNAL (R419, R421): after every earlier command of its job has retired. -/
def srnSignal (s : Chip) (o : Origin) (b : Body) : Chip :=
  if !(mayFollow s o (dmaOf o) 0x64 b) then s
  else
    match srnBlocked s b with
    | some (port, c) => srnFault s port o 0x64 b c
    | none => srnLaunch s o 0x64 b .signal (.signal (bf b 0x10 15 0) (bw b 0x14))

end Sys2Proof.Machine
end

