-- ==== Sys2Proof/Machine/Pair.lean ====
section
/-!
DEFINITION. The twin pair (14): role notices and conflicts (R426, R429), mirrored writes that arrive (R427, R428), the
installing of shadow images at a promotion and the release of the primary's retire queues (R429).
-/
namespace Sys2Proof.Machine

/-! ### Roles (R426, R429) -/

/-- Does a partition receive Serrun traffic? -/
def rxOn (s : Chip) (p : Nat) : Bool := rd s (.srn 0) (Reg.SRN_PART_CFG_RX_EN p) == 1

/-- The twin port sends a partition's role, where the link is UP (R426). -/
def sendRole (s : Chip) (p : Nat) : Chip :=
  if rxOn s p && linkUpAt s 4 then emit s (.roleNotice (crewTag s p) (twinRole s p)) else s

/-- Do both twin partitions claim the same role (R429)? -/
def conflictNow (s : Chip) (p : Nat) : Bool :=
  let role := twinRole s p
  rxOn s p && (role == 1 || role == 2) && tgetD s.mesh.twinRoles (crewTag s p) 0 == role

/-- Show a partition's conflict (R429): a new one raises its flag, and a PRIMARY in conflict loses its mirror. -/
def showConflict (s : Chip) (p : Nat) : Chip :=
  let v := rd s (.srn 0) Reg.SRN_TWIN_STAT_CONFLICT
  let on := conflictNow s p
  if on == bit v p then s
  else
    let s := wr s (.srn 0) Reg.SRN_TWIN_STAT_CONFLICT (putBit v p on)
    if !on then s
    else
      let s := setFlag s (.srn 0) Reg.SRN_IRQ_STAT_TWIN_CONFLICT
      if twinRole s p = 1 then mirrorLost s p else s

/-- The partner's role for a crew tag, as its notice gives it. -/
def noteRole (s : Chip) (tag role : Nat) : Chip :=
  { s with mesh := { s.mesh with twinRoles := tset s.mesh.twinRoles tag role } }

/-- ROLE_NOTICE_RECEIVED (R426, R429). -/
def roleNoticeReceived (s : Chip) (tag role : Nat) : Chip :=
  if !(running s) || !(linkUpAt s 4) then s else (List.range 16).foldl showConflict (noteRole s tag role)

/-- The acknowledgements of mirrored writes are abandoned, and their partitions have lost their mirror (R429). -/
def abandonMirrors (s : Chip) : Chip :=
  let isMirror := fun (x : Xfer) => match x.kind with
    | .mirror _ => true
    | _ => false
  let gone := s.mesh.xfers.filter isMirror
  gone.foldl (fun t x => mirrorLost t x.part)
    { s with mesh := { s.mesh with xfers := s.mesh.xfers.filter (fun x => !(isMirror x)) } }

/-! ### Mirrored writes that arrive (R427, R428) -/

/-- The base of a partition's shadow area. -/
def shadowBase (s : Chip) (p : Nat) : Nat :=
  rd s (.srn 0) (Reg.SRN_SHADOW_LO_ADDR_LO p) * 128 + rd s (.srn 0) (Reg.SRN_SHADOW_HI_ADDR_HI p) * 2 ^ 32

/-- The address of a slot's shadow image (R427). -/
def shadowAddr (s : Chip) (p region index : Nat) : Nat :=
  shadowBase s p + 128 * (if fwTracked s p then index else 16384 * region + index)

/-- Two words of an image as one number, changed. -/
def imageQuad (l : List Nat) (i : Nat) (f : Nat → Nat) : List Nat :=
  let v := l.getD i 0 + l.getD (i + 1) 0 * 2 ^ 32
  let w := if v = 0 then 0 else f v % 2 ^ 64
  l.mapIdx (fun j x => if j = i then w % 2 ^ 32 else if j = i + 1 then w / 2 ^ 32 else x)

/-- An image's times on this module's local time (R428): DEADLINE and DUE by what remains, STATE_TIME by what has elapsed. -/
def landImage (now : Nat) (l : List Nat) : List Nat :=
  imageQuad (imageQuad (imageQuad l 8 (fun v => now + v)) 14 (fun v => now + 2 ^ 64 - v)) 16 (fun v => now + v)

/-- A retire queue's head and tail as counts, when its depth becomes `n`: entries have left its head, or come to its tail. -/
def queueTo (head tail n : Nat) : Nat × Nat :=
  if n ≥ tail - head then (head, head + n) else (tail - n, tail)

/-- The standby takes the depths that a write of the primary's allocator walker left (R427). -/
def takeDepths (s : Chip) (p freeA freeB retireA retireB : Nat) : Chip :=
  setKvPart s p (fun k =>
    let a := queueTo k.headA k.tailA retireA
    let b := queueTo k.headB k.tailB retireB
    { k with freeA := freeA, freeB := freeB, headA := a.1, tailA := a.2, headB := b.1, tailB := b.2 })

/-- A payload of clean bytes. -/
def cleanPayload (l : List Byte) : Payload := { bytes := l, tags := [], bad := [] }

/-- Deliver a mirrored write to a partition that is STANDBY and in no conflict, under the partition's check and regulator (R420, R427,
R429); its poisoned lines are poison here (R23). -/
def deliverMirror (s : Chip) (tag : Nat) (w : Mirror) : Chip × Delivery :=
  match receiver s tag with
  | none => refuseRemote s 4
  | some p =>
    if twinRole s p ≠ 2 ∨ conflictNow s p then refuseRemote s 4
    else
      match w with
      | .bytes a d => writeRemote s 4 p a d
      | .depths fa fb ra rb => (takeDepths s p fa fb ra rb, .done noPayload)
      | .image region index words =>
        writeRemote s 4 p (shadowAddr s p region index)
          (cleanPayload (imageBytes (landImage s.now (words.map (fun v => v.toNat)))))

/-- The answer to a mirrored write of `n` bytes on the link (R422). -/
def mirrorAnswer (xfer n : Nat) (e : Chip × Delivery) : Chip :=
  match e.2 with
  | .wait => e.1
  | .quiet => countRx e.1 4 n
  | .refused r => emit (countRx e.1 4 n) (.refusal 4 xfer r)
  | .done d => emit (countRx e.1 4 n) (.ack 4 xfer d)

/-- MIRROR_WRITE_ARRIVAL (R427, R428). -/
def mirrorWriteArrival (s : Chip) (tag epoch xfer : Nat) (w : Mirror) : Chip :=
  if !(running s) || !(linkUpAt s 4) then s
  else
    match epochRefusal s 4 epoch with
    | some t => mirrorAnswer xfer (mirrorLen w) (t, .refused .epoch)
    | none => mirrorAnswer xfer (mirrorLen w) (deliverMirror s tag w)

/-! ### Promotion (R429) -/

/-- The layout of a model that is not loaded on this module. -/
def bareLayout : KvLayout := { heads := 1, dim := 64, kw := 8, vw := 8, pos := 256, layers := 1 }

/-- The state that an installed image takes: PREFILL and DECODE are QUEUED (R429). -/
def installState (v : Nat) : Nat := if v = 2 ∨ v = 3 then 1 else v

/-- What DUE times in an installed image (R288). -/
def installTimer (state due : Nat) (moving moveFailed : Bool) : Timer :=
  if due = 0 then .off else if state = 5 || moving || moveFailed then .expiry else .move

/-- A slot from a live shadow image (Table 09-4, R429). What the image does not carry, the MAX_NEW as last given and the
delivery records written, is free (draw `d`). No edit runs on this module. -/
def slotFrom (d : Nat) (lay : Nat → KvLayout) (l : List Byte) : Slot :=
  let w := fun (off : Nat) => field l off 4
  let q := fun (off : Nat) => field l off 8
  let st := bits (w 0) 31 28
  { gen := bits (w 0) 15 0, state := installState st, inStep := false, editing := false, fetching := bit (w 0) 24,
    moving := bit (w 0) 23, moveFailed := bit (w 0) 22, hold := bit (w 0) 21, mirror := bit (w 0) 20,
    stepFaults := bits (w 0) 18 16, priority := bits (w 4) 31 28, model := bits (w 4) 27 24, account := bits (w 4) 23 12,
    variant := bits (w 4) 11 0, length := bits (w 8) 21 0, promptLeft := bits (w 0xC) 21 0, listAddr := q 0x10,
    listGen := bits (w 0x18) 31 16, ttl := bits (w 0x18) 11 0, listBlocks := bits (w 0x1C) 21 0, deadline := q 0x20,
    key := q 0x28, seed := q 0x30, stateTime := q 0x38, due := q 0x40, promptAddr := q 0x48, delivAddr := q 0x50,
    period := bits (w 0x58) 31 8, delivSpace := bits (w 0x58) 6 5, delivLog2 := bits (w 0x58) 4 0, tokens := w 0x5C,
    turnLeft := bits (w 0x60) 18 0, temp := w 0x64, topP := w 0x68, topK := bits (w 0x6C) 10 0, stop0 := w 0x70,
    stop1 := w 0x74, lastToken := bits (w 0x78) 23 0, reserve := w 0x7C, maxNew := Config.freeNat d % 2 ^ 19,
    lay := lay (bits (w 4) 27 24), records := Config.freeNat (d + 1) % 2 ^ 32, first := bits (w 0xC) 21 0 != 0, final := 0,
    fault := 0, lostList := false, timer := installTimer st (q 0x40) (bit (w 0) 23) (bit (w 0) 22), pend := [], later := [], edit := none }

/-- The slots whose shadow images list a byte: an image of zeros is FREE. -/
def shadowKeys (s : Chip) (p : Nat) : Keys :=
  let base := shadowBase s p
  let regions := slices s p
  let size := sliceSize s p
  let keys := (s.mem.bytes.filter (fun c => decide (base ≤ c.1))).foldl (fun m c => kadd m ((c.1 - base) / 128)) ([] : Keys)
  keys.filter (fun k => regions.contains (k / 16384) && decide (k % 16384 < size))

/-- Install one shadow image, where it is live and the slot is not (R429). -/
def installOne (p : Nat) (x : Rd) (k : Nat) : Rd :=
  let e := x.devFree p none (shadowAddr x.s p (k / 16384) (k % 16384)) 128
  let st := bits (field e.2.1 0 4) 31 28
  if e.1.ended || st = 0 || st > 5 then e.1.drop x.bad
  else
    let x := e.1
    match slotAt x.s p k with
    | some _ => { x with s := bump x.s (.srn 0) Reg.SRN_TWIN_SKIP_SKIPPED 1 }
    | none =>
      let d := draw x.s
      let f := draw d.2
      let lay := fun m => tgetD (kvPart f.2 p).models m bareLayout
      let t := slotFrom d.1 lay e.2.1
      let y := { x with s := setServe f.2 p (fun v => { v with slots := tset v.slots k t, gens := tdel v.gens k }) }
      if fwTracked y.s p then y.own p (fwAddr y.s p k) (imageBytes (slotImage y.s p k)) else y

/-- The promotion of a STANDBY partition, whose role write has made `t` of `s`: the live shadow images are installed, and its
retire queues wait for TWIN_RETIRE_FREE (R429). Where the reading of an image waits for credit, power or initialisation, the role
write waits, and nothing of it is done (DESIGN CHOICE, log 123). -/
def promote (s t : Chip) (p : Nat) : Chip :=
  let x := (shadowKeys t p).foldl (installOne p) (startRd t)
  if x.hold.isSome then x.settle s p none
  else
    let y := x.settle t p none
    { y with mesh := { y.mesh with promoted := kadd y.mesh.promoted p } }

/-- The fields of a partition's crew configuration, as a write sets them. -/
def roleWritten (s : Chip) (p v : Nat) : Chip :=
  wrAll s (.srn 0) [(Reg.SRN_PART_CFG_RX_EN p, bits v 31 31), (Reg.SRN_PART_CFG_TWIN_ROLE p, bits v 30 29),
    (Reg.SRN_PART_CFG_CREW_TAG p, v % 2 ^ 16)]

/-- Does another partition that receives have this crew tag (R420)? -/
def tagTaken (s : Chip) (p tag : Nat) : Bool := (List.range 16).any (fun k => k != p && rxOn s k && crewTag s k == tag)

/-- TWIN_ROLE_WRITE (R420, R426, R429): a write of SRN_PART_CFG. -/
def twinRoleWrite (s : Chip) (p v : Nat) : Chip :=
  if !(running s) || tagTaken s p (v % 2 ^ 16) then s
  else
    let t := showConflict (sendRole (roleWritten s p v) p) p
    if twinRole s p = 2 ∧ bits v 30 29 = 1 then promote s t p else t

/-- Move every entry of a retire queue to the free stack, in order; `n` bounds them. -/
def Rd.freeAll (x : Rd) (p : Nat) (l : Pool) (tierB : Bool) : Nat → Rd
  | 0 => x
  | n + 1 =>
    let k := kvPart x.s p
    let e := x.alloc p none (l.retire + 16 * (retireHead k tierB % l.frames)) 16
    if e.1.ended then e.1
    else
      let y := e.1.devPut p (l.free + 4 * freeDepth k tierB) (toBytes 4 (bits e.2 95 64)) false
      if y.ended then y
      else
        let s := setKvPart y.s p (fun k =>
          let k := setDepth k tierB (freeDepth k tierB + 1)
          if tierB then { k with headB := k.headB + 1 } else { k with headA := k.headA + 1 })
        Rd.freeAll (({ y with s := s }).depths p) p l tierB n

/-- The end of the freeing of the retire rings: once it neither waits nor stops, the partition is no longer marked promoted. -/
def freeEnd (x : Rd) (s : Chip) (p : Nat) : Chip :=
  let t := x.settle s p none
  if x.ended then t else { t with mesh := { t.mesh with promoted := kdel t.mesh.promoted p } }

/-- The entries of both retire rings go back to their free stacks. -/
def freeRings (s : Chip) (p : Nat) (c : KvCtx) (x : Rd) : Rd :=
  let k := kvPart s p
  let x := if c.a.frames = 0 then x else x.freeAll p c.a false (k.tailA - k.headA)
  if c.b.frames = 0 then x else x.freeAll p c.b true (k.tailB - k.headB)

/-- With the context read. -/
def twinFreeWith (s : Chip) (p : Nat) (e : Rd × Option KvCtx) : Chip :=
  match e.2 with
  | none => if e.1.hold.isSome then e.1.settle s p none else s
  | some c => if (kvPart s p).lost then s else freeEnd (freeRings s p c e.1) s p

/-- TWIN_RETIRE_FREE (R429). -/
def twinRetireFree (s : Chip) (p : Nat) : Chip :=
  if !(kmem s.mesh.promoted p) || kvBusy s p then s
  else twinFreeWith s p ((startRd s).ctx p (allocRegion s p) none)

end Sys2Proof.Machine
end

