-- ==== Sys2Proof/Machine/Links.lean ====
section
/-!
DEFINITION. Serrun links (14): cables and signals (R408, R513), training, frames and lane groups (R409, R410), crew cards
and link states (R411, R412), and placement (R413, R414).
-/
namespace Sys2Proof.Machine

/-! ### Lanes (Table 14-1) -/

/-- Lanes of a port. -/
def laneCount (port : Nat) : Nat := if port = 4 then 8 else 16

/-- Lane groups of a port. -/
def groupCount (port : Nat) : Nat := laneCount port / 4

/-- The groups of a port that are not dropped, as SRN_LINK_STAT.GROUPS shows them. -/
def groupsLeft (s : Chip) (port : Nat) : Nat :=
  (List.range (groupCount port)).foldl (fun a g => if kmem (srnPort s port).dropped g then a else a + 2 ^ g) 0

/-! ### Link states (Table 14-2) -/

/-- A port's link takes a state, and shows the entry (R412, Table 14-7). -/
def setLink (s : Chip) (port v reason : Nat) : Chip :=
  let pg := Page.srn port
  let old := linkState s port
  let s := wrAll s pg [(Reg.SRN_LINK_STAT_STATE, v), (Reg.SRN_LINK_STAT_HOLD_REASON, reason)]
  if v = old then s
  else
    let s := if v ≤ 1 then wrAll s pg [(Reg.SRN_LINK_STAT_GROUPS, 0), (Reg.SRN_LINK_STAT_NEG_MINOR, 0)] else s
    let s := if old = 5 then setFlag s pg Reg.SRN_IRQ_STAT_LINK_DOWN else s
    let s := if old = 5 ∧ port = 4 then abandonMirrors s else s
    if v = 3 then setFlag s pg Reg.SRN_IRQ_STAT_EASY
    else if v = 4 then setFlag s pg Reg.SRN_IRQ_STAT_HELD
    else if v = 5 then
      let s := setFlag s pg Reg.SRN_IRQ_STAT_LINK_UP
      if port = 4 then (List.range 16).foldl sendRole s else s
    else s

/-- The link goes DOWN. -/
def dropLink (s : Chip) (port : Nat) : Chip :=
  setLink (setPort s port (fun x => { x with cardSeen := false, retraining := false })) port 0 0

/-- May the port's link train (R408, R410, R512, Table 14-2)? -/
def canTrain (s : Chip) (port : Nat) : Bool :=
  let x := srnPort s port
  running s && s.sec.booted && rd s .pm Reg.PM_STAT_ENTERING == 0 && x.read && x.cable.any (fun n => decide (laneCount port ≤ n)) && x.signal
    && rd s (.srn port) Reg.SRN_LINK_CTRL_ENABLE == 1 && groupsLeft s port != 0

/-- A link that is DOWN begins to train where it may. -/
def startTraining (s : Chip) (port : Nat) : Chip := if linkState s port == 0 && canTrain s port then setLink s port 1 0 else s

/-- Does the port's cage supply its cable (R512): it does while it senses one in a powered module. -/
def cageSupply (s : Chip) (port : Nat) : Bool := powerState s != 0 && (srnPort s port).cable.isSome

/-- The firmware reads a port's cable, and the port trains where it may (R512). -/
def trainPort (s : Chip) (port : Nat) : Chip :=
  if cageSupply s port then startTraining (setPort (emit s (.cableRead port)) port (fun x => { x with read := true })) port else s

/-- Every port begins to train, once the firmware is verified. -/
def trainAll (s : Chip) : Chip := (List.range 5).foldl trainPort s

/-- Every link goes DOWN. -/
def dropAll (s : Chip) : Chip := (List.range 5).foldl dropLink s

/-! ### Crew cards (R411, R412) -/

/-- The words of the port's crew card (Table 14-3). -/
def cardWords (s : Chip) (port : Nat) : List Nat :=
  [rd s (.srn 0) Reg.SRN_VERSION_MAJOR * 2 ^ 16 + rd s (.srn 0) Reg.SRN_VERSION_MINOR * 2 ^ 8 + port, regWord s .cox 0x040,
   regWord s (.srn 0) 0x100, epochNow s] ++ (List.range 4).map (fun n => rd s (.srn 0) (Reg.SRN_CREW_DIGEST_DIGEST n))
    ++ List.replicate 8 0

/-- A trained port sends its card. -/
def sendCard (s : Chip) (port : Nat) : Chip := if linkState s port ≥ 2 then emit s (.card port (cardWords s port)) else s

/-- The neighbour of Table 14-1 at a mesh port. -/
def neighbour (s : Chip) (port x y : Nat) : Bool :=
  match port with
  | 0 => x == meshX s && y == meshY s + 1
  | 1 => x == meshX s + 1 && y == meshY s
  | 2 => x == meshX s && y + 1 == meshY s
  | _ => x + 1 == meshX s && y == meshY s

/-- The link state that the partner's card gives, and HOLD_REASON (R412). -/
def cardState (s : Chip) (port : Nat) : Nat × Nat :=
  let w0 := partnerWord s port 0
  let w2 := partnerWord s port 2
  let own := regWord s (.srn 0) 0x100
  let sameDims := bits w2 23 12 == bits own 23 12
  let sameXy := bits w2 11 0 == bits own 11 0
  let sameMesh := bits w2 31 31 == bits own 31 31
  if bits w0 31 30 ≠ 0 ∨ bits w0 23 16 ≠ rd s (.srn 0) Reg.SRN_VERSION_MAJOR then (3, 6)
  else if !(bit w2 30) || !(bit own 30) then (2, 0)
  else if port = 4 then
    if !sameXy then (4, 2)
    else if !sameDims then (4, 3)
    else if sameMesh then (4, 4)
    else if bits w0 2 0 ≠ 4 then (4, 5)
    else (5, 0)
  else if !sameMesh then (4, 4)
  else if !sameDims then (4, 3)
  else if sameXy then (4, 1)
  else if !(neighbour s port (bits w2 11 6) (bits w2 5 0)) then (4, 2)
  else if bits w0 2 0 ≠ (port + 2) % 4 then (4, 5)
  else (5, 0)

/-- Check the partner's card: the link takes the state of the first rule of R412 that applies. -/
def checkCard (s : Chip) (port : Nat) : Chip :=
  if linkState s port < 2 || !((srnPort s port).cardSeen) then s
  else
    let v := cardState s port
    let s := setLink s port v.1 v.2
    if v.1 = 5 then
      wr s (.srn port) Reg.SRN_LINK_STAT_NEG_MINOR (min (bits (partnerWord s port 0) 15 8) (rd s (.srn 0) Reg.SRN_VERSION_MINOR))
    else s

/-- A partner's card: its words show in the port's registers, and the link goes on by it. -/
def cardTaken (s : Chip) (port : Nat) (card : BitVec 512) : Chip :=
  let s := (List.range 16).foldl (fun t n =>
    wr t (.srn port) (Reg.SRN_PARTNER_CARD_WORD n) (card.toNat / 2 ^ (32 * n))) s
  checkDigests (checkCard (setPort s port (fun x => { x with cardSeen := true })) port)

/-- CREW_CARD_RECEIVED (R411, R412, R425). -/
def crewCardReceived (s : Chip) (port : Nat) (card : BitVec 512) : Chip :=
  if !(running s) || linkState s port < 2 then s else cardTaken s port card

/-! ### Training and lane groups (R409, R410) -/

/-- Training completes: the link is TRAINED with the lane groups that are left, and the module sends its card. -/
def linkTrained (s : Chip) (port : Nat) : Chip :=
  let s := setPort s port (fun x => { x with cardSeen := false, retraining := false })
  sendCard (wr (setLink s port 2 0) (.srn port) Reg.SRN_LINK_STAT_GROUPS (groupsLeft s port)) port

/-- SRN_TRAINING_COMPLETE (R411): the trained port sends its card, and waits for its partner's. -/
def srnTrainingComplete (s : Chip) (port : Nat) : Chip :=
  if linkState s port ≠ 1 || !(canTrain s port) then s else linkTrained s port

/-- SRN_RETRAIN_COMPLETE (R410). -/
def srnRetrainComplete (s : Chip) (port : Nat) : Chip :=
  if linkState s port < 2 || !((srnPort s port).retraining) then s
  else
    wr (setPort s port (fun x => { x with retraining := false })) (.srn port) Reg.SRN_LINK_STAT_GROUPS (groupsLeft s port)

/-- SRN_RETRAIN (R410, R411): every group is in use again, and the port sends its card. -/
def srnRetrain (s : Chip) (port : Nat) : Chip :=
  if !(running s) then s
  else
    let s := setPort s port (fun x => { x with dropped := [] })
    if linkState s port < 2 then startTraining s port
    else sendCard (setPort s port (fun x => { x with retraining := true })) port

/-- A lane group is dropped (R410): the link retrains over the rest, or goes DOWN with its last group. -/
def dropGroup (s : Chip) (port g : Nat) : Chip :=
  let pg := Page.srn port
  let s := setPort (closeWindow s (resLane port g)) port (fun x => { x with dropped := kadd x.dropped g, retraining := true })
  let s := bump (send s pg { plainNote pg .corrected 0x97 with detail := g }) pg Reg.SRN_LANE_STAT_DROPS 1
  let s := setFlag s pg Reg.SRN_IRQ_STAT_LANE_DROP
  if groupsLeft s port = 0 then dropLink s port else wr s pg Reg.SRN_LINK_STAT_GROUPS (groupsLeft s port)

/-- A frame's CRC failed: it is noted, counted and replayed, and counted against its lane group's window. -/
def crcNoted (s : Chip) (port g : Nat) : Chip :=
  let pg := Page.srn port
  let s := bump (send s pg { plainNote pg .corrected 0x96 with detail := g }) pg Reg.SRN_CRC_RETRIES_RETRIES 1
  countEvent (emit s (.replay port g)) (resLane port g) (msNs (rd s pg Reg.SRN_ERR_CFG_WINDOW)) false

/-- Has the lane group's count reached its threshold in the window? -/
def groupWorn (s : Chip) (port g : Nat) : Bool :=
  let pg := Page.srn port
  decide ((windowNow s (resLane port g) (msNs (rd s pg Reg.SRN_ERR_CFG_WINDOW))).ce ≥ orFull (rd s pg Reg.SRN_ERR_CFG_THRESH))

/-- SRN_FRAME_CRC_FAIL (R409, R410): a replay is asked for and reported; a group at its threshold is dropped. -/
def srnFrameCrcFail (s : Chip) (port g : Nat) : Chip :=
  if !(running s) || linkState s port < 2 || !(bit (rd s (.srn port) Reg.SRN_LINK_STAT_GROUPS) g) then s
  else
    let t := crcNoted s port g
    if groupWorn t port g then dropGroup t port g else t

/-! ### Cables and signals (R408, R418, R512, R513) -/

/-- CABLE_INSERT (R512, R513): the cable is powered and read, and training starts where it has the port's lanes. -/
def cableInsert (s : Chip) (port lanes : Nat) : Chip :=
  let s := setPort s port (fun x => { x with cable := some lanes, read := false, signal := true })
  if hubOn s && s.sec.booted then trainPort s port else s

/-- CABLE_REMOVE (R513). -/
def cableRemove (s : Chip) (port : Nat) : Chip :=
  dropLink (setPort s port (fun x => { x with cable := none, read := false, signal := false })) port

/-- SRN_SIGNAL_LOSS (R418, Table 14-2). -/
def srnSignalLoss (s : Chip) (port : Nat) : Chip := dropLink (setPort s port (fun x => { x with signal := false })) port

/-- SRN_SIGNAL_DETECT (R408). -/
def srnSignalDetect (s : Chip) (port : Nat) : Chip :=
  if (srnPort s port).cable.isNone then s else startTraining (setPort s port (fun x => { x with signal := true })) port

/-- TWIN_LINK_LOSS (R429): the twin link leaves UP. -/
def twinLinkLoss (s : Chip) : Chip := if linkUpAt s 4 then srnSignalLoss s 4 else s

/-- A write of SRN_LINK_CTRL.ENABLE (Table 14-2). -/
def linkEnable (s : Chip) (port : Nat) (on : Bool) : Chip :=
  let s := wr s (.srn port) Reg.SRN_LINK_CTRL_ENABLE (if on then 1 else 0)
  if on then startTraining s port else dropLink s port

/-! ### Placement (R413, R414) -/

/-- Byte `n` of the crew configuration record. -/
def recordByte (m : Placement) (n : Nat) : Nat := (m.record.getD n 0).toNat

/-- The 256 bytes of the crew configuration record. -/
def crewRecord (m : Placement) : List Byte := m.record.take 256 ++ List.replicate (256 - m.record.length) 0

/-- Is the placement refused (R413, R414)? -/
def placeRefused (s : Chip) (m : Placement) : Bool :=
  decide (m.dimXM1.val > 7 ∨ m.dimYM1.val > 7 ∨ m.x.val > m.dimXM1.val ∨ m.y.val > m.dimYM1.val)
    || (s.mesh.placedOnce && decide (m.epoch.toNat ≤ epochNow s))
    || decide (m.x.val < recordByte m 2 ∨ m.y.val < recordByte m 3 ∨ m.x.val > recordByte m 4 ∨ m.y.val > recordByte m 5)

/-- A placement applies at one instant, and the ports send new cards. -/
def applyPlacement (s : Chip) (m : Placement) : Chip :=
  let digest := shake256 (crewRecord m)
  let s := wrAll s (.srn 0) [(Reg.SRN_MESH_CFG_MESH_ID, if m.meshB then 1 else 0), (Reg.SRN_MESH_CFG_PLACED, 1),
    (Reg.SRN_MESH_CFG_DIM_X_M1, m.dimXM1.val), (Reg.SRN_MESH_CFG_DIM_Y_M1, m.dimYM1.val), (Reg.SRN_MESH_CFG_X, m.x.val),
    (Reg.SRN_MESH_CFG_Y, m.y.val), (Reg.SRN_EPOCH_EPOCH, m.epoch.toNat)]
  let s := (List.range 4).foldl (fun t n => wr t (.srn 0) (Reg.SRN_CREW_DIGEST_DIGEST n) (digest / 2 ^ (32 * n))) s
  let s := { s with mesh := { s.mesh with
    placedOnce := true, crewId := recordByte m 0 + 256 * recordByte m 1, x0 := recordByte m 2, y0 := recordByte m 3,
    x1 := recordByte m 4, y1 := recordByte m 5 } }
  let s := setFlag s (.srn 0) Reg.SRN_IRQ_STAT_PLACED
  let s := (List.range 5).foldl sendCard s
  checkDigests ((List.range 5).foldl checkCard s)

/-- PLACE (R413, R414): answered with one byte, 0 where the placement is applied and 1 where it is refused. -/
def place (s : Chip) (m : Placement) (via : Endpoint) : Chip :=
  if placeRefused s m then answer s via 3 [1] else answer (applyPlacement s m) via 3 [0]

end Sys2Proof.Machine
end

