-- ==== Sys2Proof/Machine/Faults.lean ====
section
/-!
DEFINITION. The fault collector (15): the log and the host ring (R434 to R436), FAULT_N (R449), FATAL (R450), pending
records and escalation (R443 to R448), fence releases (R442), and the die-to-die links (R439).
-/
namespace Sys2Proof.Machine

/-! ### Records (R434, Table 15-3) -/

/-- A class's code (Table 15-1). -/
def clsNo : Cls → Nat
  | .corrected => 0
  | .deferred => 1
  | .job => 2
  | .core => 3
  | .partition => 4
  | .fatal => 5

/-- The 16 words of a record (Table 15-3). -/
def recordWords (r : Logged) : List Nat :=
  let n := r.note
  let job := n.job.getD (0, 0)
  let addr := n.addr.getD (0, 0)
  let flag := fun (b : Bool) k => if b then 2 ^ k else 0
  [n.source,
   clsNo n.cls * 2 ^ 27 + flag n.part.isSome 26 + flag n.job.isSome 25 + flag n.addr.isSome 24 + n.code * 2 ^ 16
     + n.part.getD 0 * 2 ^ 12 + job.1 * 2 ^ 6 + addr.1 * 2 ^ 4,
   job.2 * 2 ^ 16 + n.region % 4, r.seq, addr.2 % 2 ^ 32, addr.2 / 2 ^ 32 % 2 ^ 32, n.stamp % 2 ^ 32, n.stamp / 2 ^ 32 % 2 ^ 32,
   r.count, n.detail % 2 ^ 32, r.last % 2 ^ 32, r.last / 2 ^ 32 % 2 ^ 32, r.refSeq, 0, 0, 0]

/-- The bytes of a record. -/
def noteBytes (r : Logged) : List Byte := (recordWords r).flatMap (toBytes 4)

/-- The record with a SEQ that the collector still holds (R436). -/
def logged (s : Chip) (seq : Nat) : Option Logged := s.faults.log.find? (fun r => r.seq == seq)

/-- Records that the collector keeps (R436). -/
def logSize : Nat := 512

/-! ### The host ring (R436) -/

/-- Does the ring take records? -/
def ringOn (s : Chip) : Bool :=
  rd s .fc Reg.FC_RING_CFG_EN == 1 && decide (6 ≤ rd s .fc Reg.FC_RING_CFG_SIZE_LOG2 ∧ rd s .fc Reg.FC_RING_CFG_SIZE_LOG2 ≤ 16)

/-- Write a record to its slot of the ring. -/
def ringSlot (s : Chip) (r : Logged) : Chip :=
  let base := rd s .fc Reg.FC_RING_BASE_LO_BASE + rd s .fc Reg.FC_RING_BASE_HI_BASE * 2 ^ 32
  hostPut s (mgmtPort s) 0 (base + 64 * (r.seq % 2 ^ rd s .fc Reg.FC_RING_CFG_SIZE_LOG2)) (noteBytes r)

/-- The ring's vector. -/
def ringVector (s : Chip) : Chip := msix s (mgmtPort s) 0 (rd s .fc Reg.FC_RING_CFG_VECTOR)

/-- A new record goes to the ring, then TAIL and the vector. -/
def ringNew (s : Chip) (r : Logged) : Chip :=
  if ringOn s then ringVector (wr (ringSlot s r) .fc Reg.FC_RING_TAIL_TAIL (r.seq + 1)) else s

/-- A coalesced record goes to its own slot again, while no newer record has taken it. -/
def ringAgain (s : Chip) (r : Logged) : Chip :=
  let next := rd s .fc Reg.FC_SEQ_NEXT
  if ringOn s && decide ((next + 2 ^ 32 - r.seq) % 2 ^ 32 ≤ 2 ^ rd s .fc Reg.FC_RING_CFG_SIZE_LOG2) then ringVector (ringSlot s r) else s

/-! ### FAULT_N (R449) -/

/-- FAULT_N's level. -/
def pinLevel (s : Chip) : Bool := inFatal s || s.faults.pulseEnd.isSome || rd s .fc Reg.FC_FAULT_PIN_CTRL_ASSERT == 1

/-- Show FAULT_N's level, and send its change. -/
def showPin (s : Chip) : Chip :=
  let was := rd s .fc Reg.FC_FAULT_PIN_CTRL_DRIVEN == 1
  let on := pinLevel s
  let s := wr s .fc Reg.FC_FAULT_PIN_CTRL_DRIVEN (if on then 1 else 0)
  if on == was then s else emit s (.faultPin on)

/-- Nanoseconds of 66 always-on ticks. -/
def pulseNs : Nat := 2014160

/-- An occurrence of a class: from MIN_CLASS on it starts the pulse and sets RECORD. -/
def pinOccurrence (s : Chip) (c : Cls) : Chip :=
  if clsNo c ≥ min (rd s .fc Reg.FC_FAULT_PIN_CTRL_MIN_CLASS) 5 then
    showPin (setFlag { s with faults := { s.faults with pulseEnd := some (s.now + pulseNs) } } .fc Reg.FC_IRQ_STAT_RECORD)
  else s

/-- FAULT_PULSE_END (R449). -/
def faultPulseEnd (s : Chip) : Chip :=
  match s.faults.pulseEnd with
  | some e => if e ≤ s.now then showPin { s with faults := { s.faults with pulseEnd := none } } else s
  | none => s

/-! ### FATAL (R450) -/

/-- Every function of both ports that exists. -/
def allFuncs (s : Chip) : List (Nat × Nat) :=
  (List.range 2).flatMap (fun port => ((List.range 17).filter (funcPresent s port)).map (fun f => (port, f)))

/-- The device enters FATAL with the record of SEQ `seq`. -/
def enterFatal (s : Chip) (seq : Nat) : Chip :=
  if inFatal s then s
  else
    let s := dropAll (wr s .fc Reg.FC_STAT_FATAL 1)
    let s := (allFuncs s).foldl (fun t e => let t := setAer t e.1 e.2 22
      if dlUp t e.1 then emit t (.internalError e.1 e.2) else t) s
    showPin (emit s (.mctpFatal .sideband (eidOf s .sideband) seq))

/-! ### Pending records and their steps (R443 to R448) -/

/-- Show the size of the pending set. -/
def showPending (s : Chip) : Chip := wr s .fc Reg.FC_STAT_PENDING s.faults.pending.length

/-- The first step for a record (R444). -/
def firstStep (n : Note) : Nat :=
  match n.part with
  | none => 3
  | some _ => if n.cls = .deferred ∧ n.job.isSome then 0 else 1

/-- The class of a step's record (Table 15-5). -/
def stepClass (st : Nat) : Cls := if st ≥ 3 then .fatal else .partition

/-- The effect of a step, unless it is in progress or done (R445, Table 15-5). -/
def stepEffect (s : Chip) (part : Option Nat) (job : Option (Nat × Nat)) (st : Nat) : Chip :=
  match part with
  | none => s
  | some p =>
    let live := partState s p == 2 || partState s p == 3
    if st = 0 then (if live then queueResetNow s p (job.getD (0, 0)).1 else s)
    else if st = 1 then
      (if partState s p = 2 then resetSteps s p else if partState s p = 3 then flrEffects s p false else s)
    else if st = 2 then (if live then flrEffects s p false else s)
    else s

/-- Other pending records of the partition whose next step is at or below `st` go on to the step after it (R445). -/
def advanceOthers (s : Chip) (seq : Nat) (part : Option Nat) (st : Nat) : Chip :=
  if part.isNone || st = 0 || st ≥ 3 then s
  else { s with faults := { s.faults with pending := s.faults.pending.map (fun x =>
    if x.seq ≠ seq ∧ x.part = part ∧ x.step ≤ st then { x with step := st + 1 } else x) } }

/-- Count a step (Table 15-9). -/
def countStep (s : Chip) (st : Nat) : Chip :=
  if st = 0 then bump s .fc Reg.FC_ESC_COUNT_QUEUE_STEPS 1
  else if st = 1 then bump s .fc Reg.FC_ESC_COUNT_PARTITION_STEPS 1
  else if st = 2 then bump s .fc Reg.FC_ESC_COUNT_SCRUB_STEPS 1
  else s

/-- Enter a record in the log with the next SEQ, write the ring, and move FAULT_N (R434, R436, R449). -/
def logNote (s : Chip) (n : Note) (refSeq : Nat) : Chip × Logged :=
  let r : Logged := { seq := rd s .fc Reg.FC_SEQ_NEXT, note := n, count := 1, last := n.stamp, refSeq := refSeq }
  let log := s.faults.log ++ [r]
  let s := { s with faults := { s.faults with log := log.drop (log.length - logSize) } }
  let s := bumpWrap s .fc Reg.FC_SEQ_NEXT 1
  (pinOccurrence (ringNew s r) n.cls, r)

/-- Take a step for the record `seq` (R444, R445): its effect, its FC_ESCALATED record, its count, and FATAL for DEVICE. -/
def takeStep (s : Chip) (seq : Nat) (part : Option Nat) (job : Option (Nat × Nat)) (st : Nat) : Chip :=
  let s := advanceOthers (stepEffect s part job st) seq part st
  let n : Note := { plainNote .fc (stepClass st) 0xAC with
    part := part, job := if st = 0 then job else none, detail := st * 2 ^ 30, stamp := s.now }
  let e := logNote (countStep s st) n seq
  let s := setFlag e.1 .fc Reg.FC_IRQ_STAT_ESCALATED
  if st ≥ 3 then enterFatal s e.2.seq else s

/-- A record leaves the pending set. -/
def dropPending (s : Chip) (seq : Nat) : Chip :=
  showPending { s with faults := { s.faults with pending := s.faults.pending.filter (fun x => x.seq != seq) } }

/-- Is the interval of a pending record over (R443)? -/
def overdue (s : Chip) (seq : Nat) : Option Pending := s.faults.pending.find? (fun x => x.seq == seq && decide (x.ends ≤ s.now))

/-- A pending record's next step is taken, and its interval starts again. -/
def takeDue (s : Chip) (seq : Nat) (x : Pending) : Chip :=
  let s := { s with faults := { s.faults with pending := s.faults.pending.map (fun y =>
    if y.seq = seq then { y with step := y.step + 1, ends := s.now + y.grace } else y) } }
  takeStep s seq x.part x.job x.step

/-- GRACE_EXPIRY (R444): the next step, or the record leaves the pending set where that step is above CEILING. -/
def graceExpiry (s : Chip) (seq : Nat) : Chip :=
  if !(hubOn s) || inFatal s then s
  else
    match overdue s seq with
    | none => s
    | some x => if x.step > rd s .fc Reg.FC_CFG_CEILING then dropPending s seq else takeDue s seq x

/-- Interval ends come before records and acknowledgements of their instant (R447). -/
def runGraces (s : Chip) : Chip :=
  ((s.faults.pending.filter (fun x => decide (x.ends ≤ s.now))).map (fun x => x.seq)).foldl graceExpiry s

/-- A DEFERRED or PARTITION record becomes pending (R443), or takes its first step at once where the set is full (R448). -/
def becomePending (s : Chip) (r : Logged) : Chip :=
  let st := firstStep r.note
  if s.faults.pending.length ≥ 256 then
    let s := bump s .fc Reg.FC_STAT_PEND_FULL 1
    if st > rd s .fc Reg.FC_CFG_CEILING then s else takeStep s r.seq r.note.part r.note.job st
  else
    let g := msNs (rd s .fc Reg.FC_CFG_GRACE_MS)
    let x : Pending := { seq := r.seq, grace := g, ends := r.note.stamp + g, step := st, part := r.note.part, job := r.note.job }
    setFlag (showPending { s with faults := { s.faults with pending := s.faults.pending ++ [x] } }) .fc Reg.FC_IRQ_STAT_PENDING

/-! ### Records that arrive (R434, R435) -/

/-- The newest CORRECTED record of a source. -/
def newestCorrected (s : Chip) (source : Nat) : Option Logged :=
  (s.faults.log.filter (fun r => r.note.source == source && r.note.cls == .corrected)).getLast?

/-- The record that an occurrence is coalesced into (R435). -/
def coalesces (s : Chip) (n : Note) : Option Logged :=
  if n.cls ≠ .corrected then none
  else (newestCorrected s n.source).filter (fun r => r.note.code == n.code && r.note.addr == n.addr
    && decide (s.now < r.last + msNs (rd s .fc Reg.FC_CFG_COALESCE_MS)))

/-- The collector takes a record (R434 to R436, R443, R448 to R450). -/
def takeNote (s : Chip) (n : Note) : Chip :=
  match coalesces s n with
  | some r =>
    let r := { r with count := satAdd r.count 1 (2 ^ 32 - 1), last := n.stamp }
    let s := { s with faults := { s.faults with log := s.faults.log.map (fun x => if x.seq = r.seq then r else x) } }
    pinOccurrence (ringAgain s r) n.cls
  | none =>
    let e := logNote s n 0
    match n.cls with
    | .fatal => enterFatal e.1 e.2.seq
    | .deferred => if inFatal e.1 then e.1 else becomePending e.1 e.2
    | .partition => if inFatal e.1 then e.1 else becomePending e.1 e.2
    | _ => e.1

/-- The records on their way, of one source or of all, arrive in the order in which they were sent (R28, R436). -/
def takeSent (s : Chip) (source : Option Nat) : Chip :=
  let comes := fun (n : Note) => source.all (fun x => n.source == x)
  (s.faults.inbound.filter comes).foldl takeNote
    { s with faults := { s.faults with inbound := s.faults.inbound.filter (fun n => !(comes n)) } }

/-- FC_ACK (R446, R447). -/
def fcAck (s : Chip) (seq : Nat) : Chip :=
  if !(hubOn s) then s
  else
    let s := takeSent (runGraces s) none
    if s.faults.pending.any (fun x => x.seq == seq) then dropPending s seq else bump s .fc Reg.FC_ESC_COUNT_ACK_STALE 1

/-- A FATAL error: the record arrives at once, after those that its source has sent before it (R28, R450). -/
def fatalNow (s : Chip) (pg : Page) (f : Field) (n : Note) : Chip :=
  takeNote (takeSent (runGraces (setErr s pg f n.addr)) (some (pageId pg))) { n with stamp := s.now }

/-- The oldest record that a page has sent, and the state without it. -/
def oldestSent (s : Chip) (pg : Page) : Option (Note × Chip) :=
  (s.faults.inbound.find? (fun n => n.source == pageId pg)).map
    (fun n => (n, { s with faults := { s.faults with inbound := s.faults.inbound.erase n } }))

/-- A record that finds its source's holding space full is dropped and counted; FC_INTERNAL takes the place of one that is
not CORRECTED (R436). -/
def dropNote (s : Chip) (n : Note) : Chip :=
  let s := bump s .fc Reg.FC_STAT_LOST 1
  if n.cls = .corrected then s else fatalNow s .fc Reg.FC_ERR_STAT_INTERNAL (plainNote .fc .fatal 0xA6)

/-- The Cox corrects a word of its memory (0xA3). -/
def coxCorrected (s : Chip) : Chip :=
  bump (report s .cox Reg.COX_ERR_STAT_CE (plainNote .cox .corrected 0xA3)) .cox Reg.COX_ECC_STAT_CE 1

/-- The semaphores and barriers of a partition hold what nobody can tell, once their storage is unreadable. -/
def loseSync (s : Chip) (p : Nat) : Chip :=
  let sems := (List.range 65536).filter (semOwned s p)
  let bars := (List.range 4096).filter (barOwned s p)
  let d := s.fresh
  { s with
    fresh := d + sems.length + 2 * bars.length,
    q := { s.q with
      sems := sems.zipIdx.foldl (fun t e => tset t e.1 (Config.freeNat (d + e.2) % 2 ^ 32)) (tkeep s.q.sems (fun n => !(semOwned s p n))),
      bars := bars.zipIdx.foldl (fun t e => tset t e.1 { barOf s e.1 with
        count := Config.freeNat (d + sems.length + 2 * e.2) % 2 ^ 16,
        target := Config.freeNat (d + sems.length + 2 * e.2 + 1) % 2 ^ 16 }) s.q.bars } }

/-- One partition's shared state is lost: it is reported, and the partition's queues stop (Table 15-1). -/
def partitionLost (s : Chip) (pg : Page) (code p : Nat) : Chip :=
  stopQueues (send s pg { plainNote pg .partition code with part := some p }) p

/-- What a page cannot read of its own memory (Table 15-7): the Cox's memory, the collector's state, and a partition's
semaphores and barriers or its allocator's state on the die, which the pages of its lead quad and region report. -/
def unreadable (s : Chip) (pg : Page) (p : Nat) : Chip :=
  match pg with
  | .cox => fatalNow (bump s .cox Reg.COX_ECC_STAT_UE 1) .cox Reg.COX_ERR_STAT_UE (plainNote .cox .fatal 0xA4)
  | .fc => fatalNow s .fc Reg.FC_ERR_STAT_INTERNAL (plainNote .fc .fatal 0xA6)
  | .qf q => if leadQuad s p = q then partitionLost (loseSync s p) pg 0xAA p else s
  | .pw r => if leadQuad s p / 4 = r then partitionLost (setKvPart s p (fun k => { k with lost := true })) pg 0xAB p else s
  | _ => s

/-- FAULT_RECORD_ARRIVAL (R434, R436): the oldest record that a page has sent arrives or is dropped, or the page's own memory
meets an error. -/
def faultRecordArrival (s : Chip) (pg : Page) (how : Arrival) : Chip :=
  if !(hubOn s) then s
  else
    let s := runGraces s
    match how with
    | .arrived =>
      match oldestSent s pg with
      | none => s
      | some (n, t) => takeNote t n
    | .dropped =>
      match oldestSent s pg with
      | none => s
      | some (n, t) => dropNote t n
    | .corrected => if pg = .cox ∧ running s then coxCorrected s else s
    | .unreadable p => if running s then unreadable s pg p.val else s

/-- COX_WATCHDOG (R450). -/
def coxWatchdog (s : Chip) : Chip :=
  if running s then fatalNow s .cox Reg.COX_ERR_STAT_WATCHDOG (plainNote .cox .fatal 0xA5) else s

/-! ### Fence releases (R442) -/

/-- The test of a fenced block starts. -/
def startFenceTest (s : Chip) (b : Nat) : Chip :=
  let s := loseSets (wr (wr s .fc Reg.FC_FENCE_STAT_BUSY 1) (.blk b) Reg.PWR_STAT_STATE 0) b
  { s with faults := { s.faults with testing := some b } }

/-- FENCE_RELEASE (R442). -/
def fenceRelease (s : Chip) (b : Nat) : Chip :=
  if !(running s) then s
  else
    let s := wr s .fc Reg.FC_FENCE_CTRL_BLOCK b
    if rd s .fc Reg.FC_FENCE_STAT_BUSY = 1 then s
    else if !(blockFenced s b) then wr s .fc Reg.FC_FENCE_STAT_RESULT 3
    else startFenceTest s b

/-- What a test that passes clears (R442). -/
def clearBlockCounts (s : Chip) (b : Nat) : Chip :=
  let s := closeWindow (closeWindow s (resBlock b)) (resAcc b)
  wrAll s (.blk b) [(Reg.BLK_RESIDUE_STAT_RETRIES, 0), (Reg.BLK_RESIDUE_STAT_LAST_CELL, 0),
    (Reg.BLK_RESIDUE_STAT_LAST_COLUMN, 0), (Reg.BLK_ACC_EVENTS_RENORM, 0), (Reg.BLK_ACC_EVENTS_SPECIAL, 0),
    (Reg.BLK_ACC_STATE_LIVE, 0), (Reg.BLK_ACC_STATE_NARROW, 0)]

/-- A bank that was fenced with its block returns, DIRTY (R161, R442). -/
def releaseBank (s : Chip) (b : Nat) : Chip :=
  if bankFenced s b then
    wrAll (closeWindow s (resBank b)) (.spb b) [(Reg.SPB_STAT_FENCED, 0), (Reg.SPB_STAT_DIRTY, 1)]
  else s

/-- The test of a fenced block is over, with its result. -/
def fenceTested (s : Chip) (pass : Bool) : Chip :=
  wrAll { s with faults := { s.faults with testing := none } } .fc
    [(Reg.FC_FENCE_STAT_BUSY, 0), (Reg.FC_FENCE_STAT_RESULT, if pass then 1 else 2)]

/-- A block that passed is in use again: unfenced, its file zero, its counts cleared, its bank released. -/
def fencePassed (s : Chip) (b : Nat) : Chip :=
  let f := Reg.FC_FENCE_FENCED (b / 32)
  let s := wr s .fc f (putBit (rd s .fc f) (b % 32) false)
  let s := setBlock s b (fun _ => { freshBlock with ground := .zero })
  retryChains (setFlag (releaseBank (clearBlockCounts s b) b) .fc Reg.FC_IRQ_STAT_FENCE)

/-- A block that failed stays fenced, its clock gated, and the failure is reported. -/
def fenceFailed (s : Chip) (b : Nat) : Chip :=
  setFlag (send (wr s (.blk b) Reg.PWR_STAT_STATE 1) (.blk b) { plainNote (.blk b) .core 0xAD with region := b / 64 })
    .fc Reg.FC_IRQ_STAT_FENCE

/-- FENCE_TEST_COMPLETE (R442). -/
def fenceTestComplete (s : Chip) (pass : Bool) : Chip :=
  match s.faults.testing with
  | none => s
  | some b =>
    if !(running s) then s
    else if pass then fencePassed (fenceTested s pass) b else fenceFailed (fenceTested s pass) b

/-! ### Die-to-die links (R439) -/

/-- The groups of a region's link that are not dropped. -/
def d2dGroups (s : Chip) (r : Nat) : Nat := rd s .hub Reg.HUB_D2D_STAT_GROUPS / 2 ^ (8 * r) % 2 ^ 8

/-- The link of a region is lost. -/
def d2dFail (s : Chip) (r : Nat) : Chip :=
  fatalNow s .hub Reg.HUB_ERR_STAT_D2D_LINK_FAIL { plainNote .hub .fatal 0xA2 with detail := r }

/-- A lane group is dropped: the link retrains over the others, or is lost with its last group. -/
def d2dDrop (s : Chip) (r g : Nat) : Chip :=
  let s := closeWindow s (resD2d r g)
  let s := wr s .hub Reg.HUB_D2D_STAT_GROUPS (putBit (rd s .hub Reg.HUB_D2D_STAT_GROUPS) (8 * r + g) false)
  let s := report s .hub Reg.HUB_ERR_STAT_D2D_LANE_DROP { plainNote .hub .corrected 0xA1 with detail := 8 * r + g }
  if d2dGroups s r = 0 then d2dFail s r else { s with faults := { s.faults with d2d := kadd s.faults.d2d r } }

/-- A frame error between dies: reported, and counted against its lane group's window. -/
def d2dNoted (s : Chip) (r g : Nat) : Chip :=
  let s := report s .hub Reg.HUB_ERR_STAT_D2D_CRC_RETRY { plainNote .hub .corrected 0xA0 with detail := 8 * r + g }
  countEvent s (resD2d r g) (msNs (rd s .fc Reg.FC_THRESH_CFG_WINDOW)) false

/-- Has the lane group's count reached the threshold in its window? -/
def d2dWorn (s : Chip) (r g : Nat) : Bool :=
  decide ((windowNow s (resD2d r g) (msNs (rd s .fc Reg.FC_THRESH_CFG_WINDOW))).ce ≥ orFull (rd s .fc Reg.FC_THRESH_CFG_THRESH))

/-- D2D_CRC_RETRY (R439, R437). -/
def d2dCrcRetry (s : Chip) (r g : Nat) : Chip :=
  if !(running s) || !(bit (rd s .hub Reg.HUB_D2D_STAT_GROUPS) (8 * r + g)) then s
  else
    let t := d2dNoted s r g
    if d2dWorn t r g then d2dDrop t r g else t

/-- The retraining between dies is over. -/
def d2dRetrained (s : Chip) (r : Nat) : Chip := { s with faults := { s.faults with d2d := kdel s.faults.d2d r } }

/-- D2D_RETRAIN_COMPLETE (R439). -/
def d2dRetrainComplete (s : Chip) (r : Nat) (ok : Bool) : Chip :=
  if !(running s) || !(kmem s.faults.d2d r) then s
  else if ok then d2dRetrained s r else d2dFail (d2dRetrained s r) r

end Sys2Proof.Machine
end

