-- ==== Sys2Proof/Machine/Security.lean ====
section
/-!
DEFINITION. Security (13): the boot chain and its measurements (R379 to R383), updates and the security version (R384,
R385), tokens (R386 to R388), identity (R389, R390), SPDM (R392 to R395), IDE (R396, R397) and debug (R398 to R400).
-/
namespace Sys2Proof.Machine

/-! ### Fuses and supplements (R377 to R380) -/

/-- The four key slots. -/
def keySlots (s : Chip) : List KeySlot :=
  [s.sec.fuses.slot0, s.sec.fuses.slot1, s.sec.fuses.slot2, s.sec.fuses.slot3]

/-- A key slot. -/
def keySlot (s : Chip) (n : Nat) : KeySlot := (keySlots s).getD n emptySlot

/-- Revoke a key slot. -/
def revokeSlot (f : Fuses) (n : Nat) : Fuses :=
  match n with
  | 0 => { f with slot0 := { f.slot0 with revoked := true } }
  | 1 => { f with slot1 := { f.slot1 with revoked := true } }
  | 2 => { f with slot2 := { f.slot2 with revoked := true } }
  | _ => { f with slot3 := { f.slot3 with revoked := true } }

/-- A mask of the slots for which `f` holds. -/
def slotMask (s : Chip) (f : KeySlot → Bool) : Nat :=
  (List.range 4).foldl (fun a n => if f (keySlot s n) then a + 2 ^ n else a) 0

/-- The state of lifecycle in force (R377). -/
def lifecycle (s : Chip) : Nat := rd s .sec Reg.SEC_LIFECYCLE_STATE

/-- Byte `i` of a supplement's flash area: an erased byte beyond it. -/
def flashBytes (l : List Byte) (off n : Nat) : List Byte := (span off n).map (fun i => l.getD i 0xFF)

/-- Bytes of an SLH-DSA-SHAKE-256s signature (R379). -/
def signatureLen : Nat := 29792

/-- The digest check of a public key against a slot: revoked or unprogrammed, or another digest. -/
def slotUsable (s : Chip) (n : Nat) : Bool := (keySlot s n).digest.isSome && !(keySlot s n).revoked

/-- The checks of Table 13-4 on a supplement: the result. -/
def checkCopy (s : Chip) (l : List Byte) : Nat :=
  let w0 := ofBytes (flashBytes l 0 4)
  let len := ofBytes (flashBytes l 4 4)
  let key := flashBytes l 0x10 64
  if l.all (fun b => b == 0xFF) then 1
  else if bits w0 31 26 ≠ 0 ∨ bits w0 23 6 ≠ 0 ∨ ofBytes (flashBytes l 8 8) ≠ 0
      ∨ ofBytes (flashBytes l 0x50 48) ≠ 0 ∨ len % 4 ≠ 0 ∨ len < 4 ∨ len > 1048576 then 2
  else if !(slotUsable s (bits w0 25 24)) then 3
  else if (keySlot s (bits w0 25 24)).digest ≠ some (shake256 key) then 4
  else if bits w0 5 0 < s.sec.fuses.minSvn then 5
  else if !(Config.slhVerify key (flashBytes l 0 (128 + len)) (flashBytes l (128 + len) signatureLen)) then 6
  else 0

/-! ### Measurements and keys (R382, R389, R390) -/

/-- The debug state's code: 0 CLOSED, 1 OPERATOR, 2 DEEP. -/
def debugState (s : Chip) : Nat := rd s .sec Reg.SEC_DEBUG_STAT_STATE

/-- The copy that runs: 0 A, 1 B, 2 none. -/
def runningCode (s : Chip) : Nat :=
  match s.sec.runningB with
  | some b => if b then 1 else 0
  | none => 2

/-- The configuration record (Table 13-5). -/
def configRecord (s : Chip) : List Byte :=
  let run := s.sec.runningB.isSome
  let byte := fun (n : Nat) => BitVec.ofNat 8 n
  [byte (lifecycle s), byte (debugState s), byte (if run then 3 else 1),
   byte (if run then rd s .sec Reg.SEC_BOOT_STAT_KEY_SLOT else 0xFF), byte (if run then rd s .sec Reg.SEC_BOOT_STAT_SVN else 0xFF),
   byte s.sec.fuses.minSvn, byte (slotMask s (fun k => k.revoked) + 16 * slotMask s (fun k => k.digest.isSome)),
   byte (runningCode s)] ++ List.replicate 8 0

/-- The unique secret as it is read (R378). -/
def readUds (s : Chip) : Nat := if lifecycle s = 2 then 0 else s.sec.fuses.uds

/-- The seeds of both key pairs are derived again (R389, R390), after M2 (R382). -/
def deriveKeys (s : Chip) : Chip :=
  let m2 := shake256 (configRecord s)
  let ds := shake384 ([1] ++ toBytes 32 (readUds s) ++ [BitVec.ofNat 8 (lifecycle s), BitVec.ofNat 8 (debugState s)])
  let m := [s.sec.m0, s.sec.m1, m2, s.sec.m3].flatMap (toBytes 32)
  { s with sec := { s.sec with m2 := m2, deviceSeed := ds, aliasSeed := shake384 ([2] ++ toBytes 48 ds ++ m) } }

/-- An SLH-DSA-SHAKE-128f key pair: its two secret seeds, and its public key (R389). -/
structure KeyPair where
  skSeed : Nat
  skPrf : Nat
  pub : PublicKey
deriving DecidableEq, Repr

/-- The key pair of a 48-byte seed: SK.seed, SK.prf and PK.seed are its bytes 0 to 15, 16 to 31 and 32 to 47 (R389). -/
def keyPair (seed : Nat) : KeyPair :=
  let sk := seed % 2 ^ 128
  let pk := seed / 2 ^ 256 % 2 ^ 128
  { skSeed := sk, skPrf := seed / 2 ^ 128 % 2 ^ 128,
    pub := { seed := pk, root := (Config.slhRoot (BitVec.ofNat 128 sk) (BitVec.ofNat 128 pk)).toNat } }

/-- The device key pair and the alias key pair in force (R389). -/
def deviceKey (s : Chip) : KeyPair := keyPair s.sec.deviceSeed
def aliasKey (s : Chip) : KeyPair := keyPair s.sec.aliasSeed

/-- A certificate of a public key that the device key signs. -/
def deviceSigned (s : Chip) (k : PublicKey) : List Byte :=
  Config.certificate (deviceKey s).skSeed (deviceKey s).skPrf (deviceKey s).pub.seed (deviceKey s).pub.root
    (k.seed + k.root * 2 ^ 128)

/-- The debug bits change (R390, R395, R398): a change of state derives the keys again and ends every session. -/
def setDebug (s : Chip) (operator deep : Bool) : Chip :=
  let old := debugState s
  let state := if deep then 2 else if operator then 1 else 0
  let s := wrAll s .sec [(Reg.SEC_DEBUG_STAT_OPERATOR, if operator then 1 else 0), (Reg.SEC_DEBUG_STAT_DEEP, if deep then 1 else 0),
    (Reg.SEC_DEBUG_STAT_STATE, state)]
  if state = old then s
  else setFlag (deriveKeys { s with sec := { s.sec with sessions := [] } }) .sec Reg.SEC_IRQ_STAT_DEBUG_CHANGE

/-- The two debug bits. -/
def operatorBit (s : Chip) : Bool := rd s .sec Reg.SEC_DEBUG_STAT_OPERATOR == 1
def deepBit (s : Chip) : Bool := rd s .sec Reg.SEC_DEBUG_STAT_DEEP == 1

/-! ### The boot chain (R380 to R382) -/

/-- Show the fuses in the security page. -/
def showFuses (s : Chip) : Chip :=
  let s := wrAll s .sec [(Reg.SEC_FUSE_STAT_MIN_SVN, s.sec.fuses.minSvn),
    (Reg.SEC_FUSE_STAT_PROGRAMMED, slotMask s (fun k => k.digest.isSome)), (Reg.SEC_FUSE_STAT_REVOKED, slotMask s (fun k => k.revoked))]
  (List.range 4).foldl (fun t n => wr t .sec (Reg.SEC_UID_UID n) (s.sec.fuses.uid / 2 ^ (32 * n))) s

/-- A supplement copy in flash. -/
def copyOf (s : Chip) (b : Bool) : List Byte := if b then s.sec.flash.copyB else s.sec.flash.copyA

/-- The chain itself (R380): the preferred copy, then the other; the first that passes runs. The lifecycle in force is that
of the last cold power-up (R377). -/
def runBoot (s : Chip) : Chip :=
  let f := s.sec.fuses
  let first := s.sec.flash.preferB
  let r1 := checkCopy s (copyOf s first)
  let r2 := if r1 = 0 then 15 else checkCopy s (copyOf s (!first))
  let run := if r1 = 0 then some first else if r2 = 0 then some (!first) else none
  let image := match run with
    | some b => flashBytes (copyOf s b) 0 (128 + ofBytes (flashBytes (copyOf s b) 4 4))
    | none => []
  let w0 := ofBytes (image.take 4)
  let s := wrAll s .sec [(Reg.SEC_BOOT_STAT_COPY, match run with
      | some b => if b then 1 else 0
      | none => 2),
    (Reg.SEC_BOOT_STAT_RESULT_A, if first then r2 else r1), (Reg.SEC_BOOT_STAT_RESULT_B, if first then r1 else r2),
    (Reg.SEC_BOOT_STAT_KEY_SLOT, if run.isSome then bits w0 25 24 else 0), (Reg.SEC_BOOT_STAT_SVN, if run.isSome then bits w0 5 0 else 0)]
  let v := (Config.firmwareVersion image).toNat
  let s := wrAll s .cox [(Reg.COX_FW_VERSION_MAJOR, v / 2 ^ 24), (Reg.COX_FW_VERSION_MINOR, v / 2 ^ 16), (Reg.COX_FW_VERSION_BUILD, v)]
  let m3 := shake256 (Config.fuseBytes ((keySlots s).map (fun k => k.digest)) (slotMask s (fun k => k.revoked)) f.minSvn f.lifecycle f.uid)
  let s := { s with sec := { s.sec with
    booted := true, runningB := run, image := image, m0 := Config.romDigest.toNat, m1 := if run.isSome then shake256 image else 0, m3 := m3 } }
  deriveKeys (showFuses (wr s .pm Reg.PM_BOOT_STAT_FW_MS (msSinceStart s)))

/-! ### Updates and the security version (R384, R385) -/

/-- Does the Cox read host memory through the management PF0: the bytes it gets, or none on a host error (R353)? -/
def coxRead (s : Chip) (host : HostReply) : Option (List Byte) :=
  match host with
  | .data l => if hostReady s (mgmtPort s) 0 then some l else none
  | .error => none

/-- Host memory does not answer the Cox: HOST_ERROR where the request was sent or could not be (R353). -/
def coxError (s : Chip) : Chip := hostError s (mgmtPort s)

/-- Is the firmware at work? -/
def firmwareOn (s : Chip) : Bool := hubOn s && s.sec.booted

/-- A supplement whose checks pass is kept in the flash copy that does not run, which the next boot prefers. -/
def supplementKept (s : Chip) (l : List Byte) : Chip :=
  let l := l.take (128 + ofBytes (flashBytes l 4 4) + signatureLen)
  let toB := match s.sec.runningB with
    | some b => !b
    | none => !s.sec.flash.preferB
  let f := s.sec.flash
  let f := if toB then { f with copyB := l, preferB := true } else { f with copyA := l, preferB := false }
  { s with sec := { s.sec with flash := f } }

/-- The result of a supplement's checks, shown. -/
def supplementDone (s : Chip) (c : Nat) : Chip :=
  setFlag (wr s .sec Reg.SEC_TOKEN_STAT_BOOT_RESULT c) .sec Reg.SEC_IRQ_STAT_TOKEN_DONE

/-- SEC_SVN_COMMIT (R385). -/
def secSvnCommit (s : Chip) : Chip :=
  let v := rd s .sec Reg.SEC_BOOT_STAT_SVN
  if firmwareOn s && s.sec.runningB.isSome && decide (v > s.sec.fuses.minSvn) then
    wr { s with sec := { s.sec with fuses := { s.sec.fuses with minSvn := v } } } .sec Reg.SEC_FUSE_STAT_MIN_SVN v
  else s

/-! ### Nonces and tokens (R386 to R388) -/

/-- A fresh nonce shows, and its life begins. -/
def nonceMade (s : Chip) : Chip :=
  let d := draw s
  let v := (Config.nonce d.1).toNat
  let s := (List.range 4).foldl (fun t n => wr t .sec (Reg.SEC_NONCE_NONCE n) (v / 2 ^ (32 * n))) d.2
  { s with sec := { s.sec with nonceAt := some s.now } }

/-- NONCE_NEW (R387). -/
def nonceNew (s : Chip) : Chip := if firmwareOn s then nonceMade s else s

/-- The nonce that SEC_NONCE shows. -/
def nonceShown (s : Chip) : Nat :=
  (List.range 4).foldl (fun a n => a + rd s .sec (Reg.SEC_NONCE_NONCE n) * 2 ^ (32 * n)) 0

/-- Bytes of a token (R386). -/
def tokenLen : Nat := 29920

/-- Is an act permitted now (R388)? -/
def tokenPermitted (s : Chip) (kind slot target : Nat) : Bool :=
  match kind with
  | 1 => lifecycle s != 0
  | 2 => lifecycle s == 0
  | 3 => lifecycle s == 1
  | _ => slot != target && !(slotUsable s target && ((List.range 4).filter (slotUsable s)).length == 1)

/-- The result of a token (Table 13-7). -/
def checkToken (s : Chip) (l : List Byte) : Nat :=
  let w0 := ofBytes (l.take 4)
  let kind := bits w0 27 24
  let slot := bits w0 17 16
  let target := bits w0 1 0
  let key := (l.drop 0x40).take 64
  let fresh := match s.sec.nonceAt with
    | some t => decide (s.now < t + 600000000000)
    | none => false
  if l.length ≠ tokenLen ∨ bits w0 31 28 ≠ 0 ∨ kind = 0 ∨ kind > 4 ∨ bits w0 23 18 ≠ 0 ∨ bits w0 15 2 ≠ 0 ∨ (kind ≠ 4 ∧ target ≠ 0)
      ∨ ofBytes ((l.drop 4).take 4) ≠ 0 ∨ ofBytes ((l.drop 0x28).take 24) ≠ 0 then 1
  else if ofBytes ((l.drop 8).take 16) ≠ s.sec.fuses.uid then 2
  else if !fresh || ofBytes ((l.drop 0x18).take 16) != nonceShown s then 3
  else if !(slotUsable s slot) || (keySlot s slot).digest != some (shake256 key) then 4
  else if !(Config.slhVerify key (l.take 128) ((l.drop 128).take signatureLen)) then 5
  else if !(tokenPermitted s kind slot target) then 6
  else 0

/-- Write the lifecycle in the fuses; a change never reverses (R377). -/
def burnLifecycle (s : Chip) (v : Nat) : Chip :=
  { s with sec := { s.sec with fuses := { s.sec.fuses with lifecycle := max s.sec.fuses.lifecycle v } } }

/-- DEEP opens (Table 13-10). -/
def openDeep (s : Chip) : Chip := setDebug (bump s .sec Reg.SEC_DEBUG_STAT_DEEP_OPENS 1) (operatorBit s) true

/-- What an accepted token does (R386, R388). -/
def applyToken (s : Chip) (kind target : Nat) : Chip :=
  match kind with
  | 1 => openDeep s
  | 2 => burnLifecycle s 1
  | 3 => burnLifecycle s 2
  | _ =>
    let t := { s with sec := { s.sec with fuses := revokeSlot s.sec.fuses target } }
    wr t .sec Reg.SEC_FUSE_STAT_REVOKED (slotMask t (fun k => k.revoked))

/-- A token's result (R387). -/
def tokenDone (s : Chip) (c : Nat) : Chip :=
  setFlag (wr s .sec Reg.SEC_TOKEN_STAT_RESULT c) .sec Reg.SEC_IRQ_STAT_TOKEN_DONE

/-- The answer to the management controller, where it delivered the token (R510). -/
def tokenAnswer (s : Chip) (mctp : Option Endpoint) (c : Nat) : Chip :=
  match mctp with
  | some via => answer s via 5 [BitVec.ofNat 8 c]
  | none => s

/-- Another delivery is in progress (R386, Table 13-7): BUSY, which consumes the nonce as any result does. -/
def tokenBusy (s : Chip) (mctp : Option Endpoint) : Chip :=
  tokenAnswer (tokenDone { s with sec := { s.sec with nonceAt := none } } 7) mctp 7

/-- Processing starts (R386, R387): BUSY shows, and the checks are made against the nonce, which is used from now on
(DESIGN CHOICE, log 46). -/
def startProcessing (s : Chip) (isSupplement : Bool) (mctp : Option Endpoint) (code : Nat) (l : List Byte) : Chip :=
  let s := wr s .sec Reg.SEC_TOKEN_STAT_BUSY 1
  { s with sec := { s.sec with
    nonceAt := if isSupplement then s.sec.nonceAt else none,
    processing := some { isSupplement := isSupplement, code := code, bytes := l, mctp := mctp } } }

/-- What the processing of a delivery ends in: its effect where every check passed, and its result. -/
def processed (s : Chip) (d : TokenWork) : Chip :=
  if d.isSupplement then supplementDone (if d.code = 0 then supplementKept s d.bytes else s) d.code
  else
    let w := ofBytes (d.bytes.take 4)
    tokenAnswer (tokenDone (if d.code = 0 then applyToken s (bits w 27 24) (bits w 1 0) else s) d.code) d.mctp d.code

/-- Processing ends, of the kind of delivery that the row names (R386). -/
def endProcessing (s : Chip) (isSupplement : Bool) (mctp : Option Endpoint) : Chip :=
  match s.sec.processing with
  | some d =>
    if d.isSupplement = isSupplement ∧ d.mctp = mctp then
      processed (wr { s with sec := { s.sec with processing := none } } .sec Reg.SEC_TOKEN_STAT_BUSY 0) d
    else s
  | none => s

/-- A delivery of checked bytes: BUSY where another is in progress; else it starts, and ends where the row says so. -/
def takeToken (s : Chip) (isSupplement : Bool) (mctp : Option Endpoint) (ends : Bool) (code : Nat) (l : List Byte) : Chip :=
  if s.sec.processing.isSome then tokenBusy s mctp
  else
    let s := startProcessing s isSupplement mctp code l
    if ends then endProcessing s isSupplement mctp else s

/-- SUPPLEMENT (R384, R386): an accepted one goes to the copy that is not running, which becomes preferred. -/
def supplement (s : Chip) (host : HostReply) (part : Processing) : Chip :=
  if !(firmwareOn s) then s
  else if part = .finish then endProcessing s true none
  else if s.sec.processing.isSome then tokenBusy s none
  else
    match coxRead s host with
    | none => takeToken (coxError s) true none (part == .whole) 2 []
    | some l => takeToken s true none (part == .whole) (checkCopy s l) l

/-- TOKEN (R386, R387): delivered by the host driver. -/
def token (s : Chip) (host : HostReply) (part : Processing) : Chip :=
  if !(firmwareOn s) then s
  else if part = .finish then endProcessing s false none
  else if s.sec.processing.isSome then tokenBusy s none
  else
    match coxRead s host with
    | none => takeToken (coxError s) false none (part == .whole) 1 []
    | some l => takeToken s false none (part == .whole) (checkToken s (l.take tokenLen)) (l.take tokenLen)

/-- MCTP_TOKEN (R386, R510): a chunk of a token; the last one has it processed. Answered with the result. -/
def mctpToken (s : Chip) (offset : Nat) (l : List Byte) (last : Bool) (part : Processing) (via : Endpoint) : Chip :=
  if !(firmwareOn s) then s
  else if part = .finish then endProcessing s false (some via)
  else if 1024 < l.length then s
  else
    let old := if offset = 0 then [] else s.sec.chunks
    if offset ≠ old.length then answer s via 5 [1]
    else if last then
      takeToken { s with sec := { s.sec with chunks := [] } } false (some via) (part == .whole)
        (checkToken s (old ++ l)) (old ++ l)
    else answer { s with sec := { s.sec with chunks := old ++ l } } via 5 [0]

/-! ### Debug (R398 to R400) -/

/-- OPEN_OPERATOR (R398). -/
def openOperator (s : Chip) : Chip :=
  if !(firmwareOn s) || operatorBit s then s
  else setDebug (bump s .sec Reg.SEC_DEBUG_STAT_OPERATOR_OPENS 1) true (deepBit s)

/-- CLOSE_OPERATOR (R398). -/
def closeOperator (s : Chip) : Chip := if firmwareOn s then setDebug s false (deepBit s) else s

/-- DEBUG_PORT_UNLOCK (R398, Table 13-1). -/
def debugPortUnlock (s : Chip) : Chip := if hubOn s && lifecycle s == 0 && !(deepBit s) then openDeep s else s

/-- The partitions that own a device address (R393, R400): those whose ranges or slices hold it. -/
def addrOwners (s : Chip) (a : Nat) : List Nat := (List.range 16).filter (fun p => accessCheck s p a 1 false == none)

/-- A debug read counts for its partitions (R393). -/
def countReads (s : Chip) (l : List Nat) : Chip :=
  l.foldl (fun t p => { t with sec := { t.sec with
    operatorReads := tset t.sec.operatorReads p (satAdd (tgetD t.sec.operatorReads p 0) 1 (2 ^ 32 - 1)) } }) s

/-- The debug read that the registers name: an address is a multiple of 8 (R400, Table 13-15). -/
def debugNamed (s : Chip) : DebugRead :=
  { scratchpad := rd s .sec Reg.SEC_DBG_CTRL_SPACE == 1, region := rd s .sec Reg.SEC_DBG_CTRL_REGION,
    address := (rd s .sec Reg.SEC_DBG_ADDR_LO_ADDR + rd s .sec Reg.SEC_DBG_ADDR_HI_ADDR * 2 ^ 32) / 8 * 8 }

/-- What a debug read's address holds: its value, whether it is poisoned, and the partitions that own it; a reserved address
reads zero. -/
def debugData (s : Chip) (d : DebugRead) : Nat × Bool × List Nat :=
  let a := d.address
  if !d.scratchpad then
    (if (unitOf a).isNone then (0, false, []) else (memNat s a 8, lineBad s a, addrOwners s a))
  else if a ≥ 2 ^ 27 then (0, false, [])
  else (padNat s d.region a 8, padBadAt s d.region a, (quadOwner s (bankOf d.region a / 16)).toList)

/-- What a debug read meets, as any read does: stored errors of its word or line, corrected or poisoned (R160, R334). -/
def debugMeets (s : Chip) (d : DebugRead) : Chip :=
  if !d.scratchpad then (if (unitOf d.address).isNone then s else readMeets s d.address 8 none)
  else if d.address ≥ 2 ^ 27 then s
  else padMeets s d.region d.address 8 none

/-- GO (R400): ignored with debug CLOSED, and while a read is in progress (DESIGN CHOICE, log 47). -/
def debugGo (s : Chip) : Chip :=
  if !(firmwareOn s) || debugState s == 0 || s.sec.reading.isSome then s
  else wr { s with sec := { s.sec with reading := some (debugNamed s) } } .sec Reg.SEC_DBG_STAT_BUSY 1

/-- The read in progress completes, also where debug has been closed meanwhile: 8 bytes, past every fence (R400). -/
def debugDone (s : Chip) : Chip :=
  match s.sec.reading with
  | none => s
  | some d =>
    let s := debugMeets { s with sec := { s.sec with reading := none } } d
    let x := debugData s d
    wrAll (countReads s x.2.2) .sec [(Reg.SEC_DBG_STAT_BUSY, 0), (Reg.SEC_DBG_DATA_LO_DATA, x.1),
      (Reg.SEC_DBG_DATA_HI_DATA, x.1 / 2 ^ 32), (Reg.SEC_DBG_STAT_POISON, if x.2.1 then 1 else 0)]

/-- DEBUG_READ (R400): all of a read, its start or its end. -/
def debugRead (s : Chip) (part : Processing) : Chip :=
  match part with
  | .start => debugGo s
  | .finish => debugDone s
  | .whole => if s.sec.reading.isSome then s else debugDone (debugGo s)

/-! ### IDE (R396, R397) -/

/-- Show port 0's Secure streams. -/
def showIde (s : Chip) : Chip :=
  wr s .sec Reg.SEC_IDE_STAT_SECURE ((List.range 17).foldl (fun a n => if kmem s.sec.ideSecure n then a + 2 ^ n else a) 0)

/-- A function's stream is insecure from now on. -/
def ideFailed (s : Chip) (k : Nat) : Chip :=
  let s := { s with sec := { s.sec with ideSecure := kdel s.sec.ideSecure k, ideInsecure := kadd s.sec.ideInsecure k } }
  setFlag (showIde (bump s .sec Reg.SEC_IDE_STAT_FAILS 1)) .sec Reg.SEC_IRQ_STAT_IDE_FAIL

/-- IDE_INTEGRITY_FAIL (R397). -/
def ideIntegrityFail (s : Chip) (port fn : Nat) : Chip :=
  if !(firmwareOn s) || !(kmem s.sec.ideSecure (funcNo port fn)) then s else ideFailed s (funcNo port fn)

/-- The port and function of a function's mailbox. -/
def viaFunc : Via → Nat × Nat
  | .pf port => (port.val, 0)
  | .vf port n => (port.val, n.val)

/-- The session with an identifier, of a responder. -/
def sessionOf (s : Chip) (r : Responder) (id : Nat) : Option Session :=
  s.sec.sessions.find? (fun x => x.id == id && x.responder == r)

/-- Is session `id` a secured one on the function's own mailbox (R396)? -/
def ownSession (s : Chip) (port fn id : Nat) : Bool :=
  s.sec.sessions.any (fun x => x.id == id && x.secured && (match x.responder with
    | .doe via => viaFunc via == (port, fn)
    | _ => false))

/-- A function's stream is secure from now on. -/
def ideSet (s : Chip) (k : Nat) : Chip :=
  showIde { s with sec := { s.sec with ideSecure := kadd s.sec.ideSecure k, ideInsecure := kdel s.sec.ideInsecure k } }

/-- IDE_KM (R396, R397): new keys make the function's stream Secure. -/
def ideKm (s : Chip) (port fn id : Nat) : Chip :=
  if !(firmwareOn s) || !(funcPresent s port fn) || !(ownSession s port fn id) then s
  else msixFlush (ideSet s (funcNo port fn)) port fn

/-! ### SPDM (R392 to R395) -/

/-- Do two partitions' entries on a stack overlap? -/
def entriesMeet (a b : Bool × Bool × Nat × Nat) : Bool :=
  a.1 && b.1 && decide (a.2.2.1 ≤ b.2.2.2 ∧ b.2.2.1 ≤ a.2.2.2)

/-- SHARED (R393): a read-only range of the partition overlaps a range of another one. -/
def sharesWindow (s : Chip) (p : Nat) : Bool :=
  (List.range 16).any (fun u => (List.range 4).any (fun r =>
    let e := rangeEntry s u p r
    e.2.1 && (List.range 16).any (fun k => k != p && (List.range 4).any (fun j => entriesMeet e (rangeEntry s u k j)))))

/-- Block 5 (R393). -/
def partitionRecord (s : Chip) (via : Via) (p : Nat) : List Byte :=
  let f := viaFunc via
  let mask := (quadsOf s p).foldl (fun a q => a + 2 ^ q) 0
  let flags := (if sharesWindow s p then 1 else 0) + (if kmem s.sec.ideSecure (funcNo f.1 f.2) then 2 else 0)
  [BitVec.ofNat 8 p, BitVec.ofNat 8 (partState s p)] ++ toBytes 2 mask ++ [BitVec.ofNat 8 flags, 0, 0, 0]
    ++ toBytes 4 (tgetD s.sec.operatorReads p 0) ++ [0, 0, 0, 0]

/-- A measurement block that a responder has (Table 13-8, Table 13-9). -/
def measurement (s : Chip) (r : Responder) (n : Nat) : Option (List Byte) :=
  match n with
  | 1 => some (toBytes 32 s.sec.m0)
  | 2 => some (toBytes 32 s.sec.m1)
  | 3 => some (configRecord s)
  | 4 => some (toBytes 32 s.sec.m3)
  | 5 => match r with
    | .doe via => (partOf s (viaFunc via).1 (viaFunc via).2).map (partitionRecord s via)
    | _ => none
  | _ => none

/-- Can the responder be reached (Table 13-8)? -/
def responderOn (s : Chip) (r : Responder) : Bool :=
  firmwareOn s && (match r with
    | .doe via => funcPresent s (viaFunc via).1 (viaFunc via).2 && dlUp s (viaFunc via).1
    | .pcieMctp => dlUp s (mgmtPort s)
    | .sideband => rd s .sec Reg.SEC_CFG_SIDEBAND_SPDM == 1)

/-- Is the identity that of a certificate that Golush made (R391)? -/
def golushCertified (s : Chip) : Bool := lifecycle s == 1 && debugState s ≤ 1

/-- The device certificate of slot 0 (R391): Golush's for the DEPLOYED keys of CLOSED and OPERATOR, else self-signed. -/
def deviceCert (s : Chip) : List Byte :=
  if golushCertified s then (if debugState s = 1 then s.sec.flash.operatorCert else s.sec.flash.closedCert)
  else deviceSigned s (deviceKey s).pub

/-- Certificate slot 0 (R391): the Golush root, the device certificate for the current state and the alias certificate. -/
def slot0 (s : Chip) : List Byte := s.sec.flash.rootCert ++ deviceCert s ++ deviceSigned s (aliasKey s).pub

/-- The Golush element (R394). -/
def golushElement (s : Chip) : GolushElement := { lifecycle := lifecycle s, debug := debugState s, operatorPermitted := 1 }

/-- The requests that are supported (R392). -/
def spdmSupported : List SpdmKind :=
  [.getVersion, .getCapabilities, .negotiateAlgorithms, .getDigests, .getCertificate, .challenge, .getMeasurements,
   .keyExchange, .finish, .heartbeat, .keyUpdate, .endSession, .chunkSend, .chunkGet, .vendorDefined]

/-- The EID that a responder answers under (R510): a DOE mailbox has none. -/
def responderEid (s : Chip) : Responder → Nat
  | .sideband => eidOf s .sideband
  | .pcieMctp => eidOf s .pcie
  | .doe _ => 0

/-- A response. -/
def spdmAnswer (s : Chip) (r : Responder) (x : SpdmAnswer) : Chip := emit s (.spdm r (responderEid s r) x)

/-- A response inside a session, or InvalidSession (R395). -/
def inSession (s : Chip) (r : Responder) (id : Nat) (secured : Bool) (f : Chip → Chip) : Chip :=
  match sessionOf s r id with
  | some x => if secured && !x.secured then emit s (.spdmInvalidSession r (responderEid s r) id) else f s
  | none => emit s (.spdmInvalidSession r (responderEid s r) id)

/-- Change the sessions. -/
def setSessions (s : Chip) (l : List Session) : Chip := { s with sec := { s.sec with sessions := l } }

/-- SPDM_REQUEST (R392 to R395, R511). -/
def spdmRequest (s : Chip) (r : Responder) (q : SpdmRequest) : Chip :=
  if powerState s = 1 then (if r = .sideband then emit s (.mctpNotReady .sideband (eidOf s .sideband)) else s)
  else if !(responderOn s r) then s
  else
    match q with
    | .version => spdmAnswer s r (.version 1 4)
    | .capabilities => spdmAnswer s r (.capabilities spdmSupported)
    | .algorithms => spdmAnswer s r (.algorithms .slhDsaShake128f .sha3of256 .mlKem768 .aes256Gcm)
    | .digests => spdmAnswer s r (.digests (sha3 (slot0 s)))
    | .certificate => spdmAnswer s r (.certificate (slot0 s))
    | .challenge => spdmAnswer s r (.challengeAuth (sha3 (slot0 s)) (golushElement s) (aliasKey s).pub)
    | .measurements n =>
      match measurement s r n with
      | some l => spdmAnswer s r (.measurements [(n, l)] (golushElement s) (aliasKey s).pub)
      | none => emit s (.spdmError r (responderEid s r))
    | .keyExchange =>
      let id := s.sec.nextSession
      let x : Session := { id := id, responder := r, secured := false }
      spdmAnswer { s with sec := { s.sec with sessions := s.sec.sessions ++ [x], nextSession := id + 1 } } r (.keyExchange id)
    | .finish id => inSession s r id false (fun s => spdmAnswer (setSessions s (s.sec.sessions.map (fun x =>
        if x.id = id then { x with secured := true } else x))) r .done)
    | .heartbeat id => inSession s r id true (fun s => spdmAnswer s r .done)
    | .keyUpdate id => inSession s r id true (fun s => spdmAnswer s r .done)
    | .secured id => inSession s r id true (fun s => spdmAnswer s r .done)
    | .endSession id => inSession s r id true (fun s => spdmAnswer (setSessions s (s.sec.sessions.filter (fun x => x.id != id))) r .done)
    | .chunkSend => spdmAnswer s r .done
    | .chunkGet => spdmAnswer s r .done
    | .vendor => spdmAnswer s r .done
    | .other => emit s (.spdmError r (responderEid s r))

end Sys2Proof.Machine
end

