-- ==== Sys2Proof/Machine/Power.lean ====
section
/-!
DEFINITION. Power, clocks and start-up (16): input and hot-swap (R454 to R457), blocks and banks (R458 to R460), regions
(R460, R461), throttling and trips (R462, R463), the crystal (R464), STANDBY and the wakes (R467 to R471), start-up (R472,
R473) and telemetry (R474).
-/
namespace Sys2Proof.Machine

/-- Change what the power manager holds. -/
def setPower (s : Chip) (f : Power → Power) : Chip := { s with power := f s.power }

/-- Set a bit of the power manager's IRQ_STAT. -/
def pmFlag (s : Chip) (f : Field) : Chip := setFlag s .pm f

/-- Show the power state: ACTIVE with a region AWAKE, IDLE with none (Table 16-2). -/
def showState (s : Chip) : Chip := wr s .pm Reg.PM_STAT_STATE (if rd s .pm Reg.PM_REGION_STAT_AWAKE = 0 then 2 else 3)

/-! ### Input and hot-swap (R454, R455, R457) -/

/-- Every accumulator file and every bank holds undefined values (R131, R163). -/
def voidArrays (s : Chip) : Chip :=
  { s with
    fresh := s.fresh + 1,
    pads := (List.range 256).map (fun b => (b, { freshBank with fill := .free s.fresh })),
    blocks := (List.range 256).map (fun b => (b, { freshBlock with ground := .free s.fresh })) }

/-- A port whose link has lost power: its cable and its partner's signal stay. -/
def darkPort (x : SrnPort) : SrnPort :=
  { x with read := false, dropped := [], cardSeen := false, retraining := false, txRest := 0, rxRest := 0 }

/-- The module in OFF: fuses and flash stay, and what stands outside it (R403, R457). -/
def offState (s : Chip) : Chip :=
  let z := Chip.reset
  wr { z with
    fresh := s.fresh, out := s.out,
    sec := { z.sec with fuses := s.sec.fuses, flash := s.sec.flash },
    mesh := { z.mesh with ports := tmap s.mesh.ports (fun _ x => darkPort x) },
    hosts := { z.hosts with perst0 := s.hosts.perst0, perst1 := s.hosts.perst1 },
    power := { z.power with pwrEn := s.power.pwrEn, cold := true } } .pm Reg.PM_STAT_STATE 0

/-- The module enters OFF, and FAULT_N is released (R455, R457, R508). -/
def enterOff (s : Chip) : Chip :=
  if powerState s = 0 then s
  else
    let t := offState s
    if rd s .fc Reg.FC_FAULT_PIN_CTRL_DRIVEN = 1 then emit t (.faultPin false) else t

/-- PWR_EN_ASSERT (R454, R457): the hot-swap controller begins to charge; INPUT_GOOD follows. -/
def pwrEnAssert (s : Chip) : Chip := setPower s (fun w => { w with pwrEn := true })

/-- PWR_EN_DEASSERT (R457). -/
def pwrEnDeassert (s : Chip) : Chip := setPower (enterOff s) (fun w => { w with pwrEn := false })

/-- HOTSWAP_TRIP (R455): OFF, and no record. -/
def hotswapTrip (s : Chip) : Chip := enterOff s

/-- The management port of a cold power-up (R354): the override, or the strap. -/
def sampleMgmt (s : Chip) (strap : Nat) : Chip :=
  let o := s.sec.flash.override
  (List.range 2).foldl (fun t i =>
    wrAll t (.pci i) [(Reg.PCI_LINK_STAT_MGMT, if o.getD strap = i then 1 else 0), (Reg.PCI_LINK_STAT_STRAP, strap),
      (Reg.PCI_LINK_STAT_OVERRIDE, if o.isSome then 1 else 0)]) s

/-- The module leaves OFF for STANDBY: local time, the bus addresses and every undefined array start anew. -/
def inputStarted (s : Chip) (mgmtSel : Bool) (sbAddr : Nat) : Chip :=
  let s := sampleMgmt (voidArrays s) (if mgmtSel then 1 else 0)
  wr { s with now := 0, xtal := 0, bus := { eidSideband := 0, eidPcie := 0, i3c := none, sbAddr := 0x60 + sbAddr } }
    .pm Reg.PM_STAT_STATE 1

/-- The supplement that the Cox's instruction memory retained (R383): the image that ran, unless the debug port wrote there. -/
def retainedImage (s : Chip) : List Byte := if s.sec.cox.isEmpty then s.sec.image else Config.retained s.sec.image s.sec.cox

/-- Does the retained supplement's digest equal the retained M1 (R383)? Never where no supplement ran: M1 is then zero. -/
def retainedSound (s : Chip) : Bool := s.sec.runningB.isSome && shake256 (retainedImage s) == s.sec.m1

/-- The hub starts (R457, R470, R472): from a wake event of source `src`, or for the first time since power-up. Where no
supplement ran, none is retained to resume, and the boot chain runs again (R383). -/
def startHub (s : Chip) (src : Nat) : Chip :=
  let cold := s.power.cold
  let s := wr s .pm Reg.PM_STAT_STATE 2
  let s := if cold then wr s .sec Reg.SEC_LIFECYCLE_STATE s.sec.fuses.lifecycle else wr s .pm Reg.PM_STAT_WAKE_SOURCE src
  let s := if s.power.tierB then showTierB s 0 else s
  { s with
    power := { s.power with cold := false, restoring := !cold, startedAt := s.now, sampledAt := s.now, wakeHeld := none,
                            early := none },
    sec := { s.sec with booted := s.sec.booted && retainedSound s } }

/-- The input is good: the module is in STANDBY; where a PERST_N was deasserted too soon, the hub starts anyway (R473). -/
def inputGoodNow (s : Chip) (mgmtSel : Bool) (sbAddr : Nat) : Chip :=
  match s.power.early with
  | some src => startHub (inputStarted s mgmtSel sbAddr) src
  | none => inputStarted s mgmtSel sbAddr

/-- INPUT_GOOD (R354, R457, R465, R507, R509): the always-on domain starts in STANDBY, with local time 0 and the straps. -/
def inputGood (s : Chip) (mgmtSel : Bool) (sbAddr : Nat) : Chip :=
  if powerState s ≠ 0 || !s.power.pwrEn then s else inputGoodNow s mgmtSel sbAddr

/-- INPUT_RANGE_EXCURSION (R455). -/
def inputRangeExcursion (s : Chip) (high : Bool) : Chip :=
  if hubOn s then
    pmFlag (bump s .pm (if high then Reg.PM_EVENTS_INPUT_HIGH else Reg.PM_EVENTS_INPUT_LOW) 1) Reg.PM_IRQ_STAT_INPUT_RANGE
  else s

/-! ### Throttling and trips (R462, R463) -/

/-- A block's issue rate after a reading (R462). -/
def nextRate (s : Chip) (r t : Nat) : Nat :=
  let hot := rd s .pm Reg.PM_THERM_CFG_THROTTLE_C
  if t ≥ hot then max 1 (r - 1)
  else if t + rd s .pm Reg.PM_THERM_CFG_HYST_C < hot then min 16 (r + 1)
  else r

/-- THERMAL_SAMPLE (R462): the sensor of a block that is powered. -/
def thermalSample (s : Chip) (b t : Nat) : Chip :=
  if !(running s) || rd s (.blk b) Reg.PWR_STAT_STATE == 3 then s
  else
    let r := rd s (.blk b) Reg.BLK_ISSUE_RATE
    let s' := wrAll s (.blk b) [(Reg.PWR_STAT_TEMP_C, t), (Reg.BLK_ISSUE_RATE, nextRate s r t)]
    if r = 16 ∧ nextRate s r t < 16 then pmFlag (setFlag s' (.blk b) Reg.BLK_IRQ_STAT_THROTTLE) Reg.PM_IRQ_STAT_THROTTLE
    else s'

/-- The power manager reports a record of class FATAL (R463, R450). -/
def pmFatal (s : Chip) (code : Nat) : Chip :=
  if hubOn s then takeNote (runGraces s) { plainNote .pm .fatal code with stamp := s.now } else s

/-- PM_THERMAL_TRIP (R463). -/
def pmThermalTrip (s : Chip) : Chip := pmFatal s 0xB1

/-- PM_RAIL_TRIP (R463). -/
def pmRailTrip (s : Chip) : Chip := pmFatal s 0xB0

/-! ### The crystal (R464) -/

/-- CRYSTAL_STABLE (R464). -/
def crystalStable (s : Chip) : Chip :=
  if powerState s = 0 || s.power.crystalFailed then s else wr s .pm Reg.PM_STAT_CRYSTAL_OK 1

/-- The crystal has failed: it is reported, and STANDBY is refused from then on (R464). -/
def crystalFails (s : Chip) : Chip :=
  report (setPower s (fun w => { w with crystalFailed := true })) .pm Reg.PM_ERR_STAT_CRYSTAL_FAIL (plainNote .pm .corrected 0xB2)

/-- PM_CRYSTAL_FAIL (R464): the crystal has not started 2 s after power-up. -/
def pmCrystalFail (s : Chip) : Chip :=
  if !(hubOn s) || rd s .pm Reg.PM_STAT_CRYSTAL_OK == 1 || s.power.crystalFailed || decide (s.now < 2000000000) then s
  else crystalFails s

/-! ### Blocks and banks (R458 to R460, R163, R164) -/

/-- A block's power state (Table 16-10). -/
def blockPower (s : Chip) (b : Nat) : Nat := rd s (.blk b) Reg.PWR_STAT_STATE

/-- A bank's power state (Table 05-9). -/
def bankPower (s : Chip) (b : Nat) : Nat := rd s (.spb b) Reg.SPB_STAT_POWER

/-- Has the block a command that is queued or running (R458)? -/
def blockWork (s : Chip) (b : Nat) : Bool :=
  s.q.jobs.any (fun j => j.cmds.any (fun c => unfinished c && c.copies.any (fun k => onBlock b k.engine && k.fate != .done)))

/-- Is the block idle (R458): no command of it queued or running, and no fill or access in its bank? -/
def blockIdle (s : Chip) (b : Nat) : Bool :=
  !(blockWork s b) && (block s b).wait.isNone && !(s.prec.items.any (fun i => i.blk == b)) && !(s.fills.any (fun f => f.bank == b))
    && !(kmem s.power.blockWaking b)

/-- The end of a block's last activity (R458). -/
def blockLast (s : Chip) (b : Nat) : Nat := max (tgetD s.power.lastBlock b 0) (tgetD s.power.lastBank b 0)

/-- May the block go on to a lower state: the module runs, the block is idle, and it is not fenced (R440)? -/
def mayRest (s : Chip) (b : Nat) : Bool := running s && blockIdle s b && !(blockFenced s b)

/-- A bank enters OFF, and its contents are lost (Table 05-6). -/
def bankOff (s : Chip) (b : Nat) : Chip :=
  let d := draw s
  wr (setBank d.2 b (fun _ => { freshBank with fill := .free d.1 })) (.spb b) Reg.SPB_STAT_POWER 3

/-- A bank takes state `v` (R163); with HOLD set it goes no lower than RETAINED (R164). -/
def bankTo (s : Chip) (b v : Nat) : Chip :=
  let v := if rd s (.spb b) Reg.SPB_CFG_HOLD = 1 then min v 2 else v
  if v = 3 then (if bankPower s b = 3 then s else bankOff s b) else wr s (.spb b) Reg.SPB_STAT_POWER v

/-- A bank takes state `v`; an access that reaches it as it enters OFF (`met`) powers it up again once the entry completes, and
LOST counts the entry (R164). -/
def bankRest (s : Chip) (b v : Nat) (met : Bool) : Chip :=
  let t := bankTo s b v
  if met && bankPower s b != 3 && bankPower t b == 3 then bankTouch (bump t (.spb b) Reg.SPB_STAT_LOST 1) b else t

/-- BLOCK_CLOCK_GATE (R458). -/
def blockClockGate (s : Chip) (b : Nat) : Chip :=
  if mayRest s b && blockPower s b == 0 && rd s (.blk b) Reg.PWR_CTRL_GATE_EN == 1 then
    bankTo (wr s (.blk b) Reg.PWR_STAT_STATE 1) b 1
  else s

/-- Has a block that may rest been idle for its retain time? -/
def mayRetain (s : Chip) (b : Nat) : Bool :=
  let t := rd s (.blk b) Reg.PWR_CTRL_RETAIN_US
  mayRest s b && decide (blockPower s b < 2) && t != 0 && decide (blockLast s b + 1000 * t ≤ s.now)

/-- BLOCK_RETAIN_TIMEOUT (R458): idle for RETAIN_US microseconds. -/
def blockRetainTimeout (s : Chip) (b : Nat) : Chip :=
  if mayRetain s b then stampRegion (bankTo (wr s (.blk b) Reg.PWR_STAT_STATE 2) b 2) (b / 64) else s

/-- Has a block that may rest, with no live set and no hold, been idle for its off time? -/
def mayOff (s : Chip) (b : Nat) : Bool :=
  let t := rd s (.blk b) Reg.PWR_CTRL_OFF_MS
  mayRest s b && decide (blockPower s b < 3) && t != 0 && decide (blockLast s b + msNs t ≤ s.now)
    && rd s (.blk b) Reg.BLK_ACC_STATE_LIVE == 0 && rd s (.spb b) Reg.SPB_CFG_HOLD == 0

/-- BLOCK_OFF_TIMEOUT (R458, R459, R164): idle for OFF_MS milliseconds, with no live set and no HOLD; `met`: an access reaches
the bank as it enters OFF. -/
def blockOffTimeout (s : Chip) (b : Nat) (met : Bool) : Chip :=
  if mayOff s b then
    bankRest (loseSets (wr (if blockPower s b < 2 then stampRegion s (b / 64) else s) (.blk b) Reg.PWR_STAT_STATE 3) b) b 3 met
  else s

/-- A block is awake again, and its bank with it. -/
def blockAwake (s : Chip) (b : Nat) : Chip :=
  let s := if blockPower s b ≥ 2 then bump s (.blk b) Reg.PWR_STAT_WAKES 1 else s
  let s := if bankPower s b = 3 then powerUpBank s b else wr s (.spb b) Reg.SPB_STAT_POWER 0
  setPower (wr s (.blk b) Reg.PWR_STAT_STATE 0) (fun w => { w with
    blockWaking := kdel w.blockWaking b, lastBlock := tset w.lastBlock b s.now })

/-- BLOCK_WAKE_COMPLETE (R460): the block reaches RUN, and its bank with it. -/
def blockWakeComplete (s : Chip) (b : Nat) : Chip :=
  if !(running s) || !(kmem s.power.blockWaking b) || !(regionAwake s (b / 64)) then s else blockAwake s b

/-- BANK_POWER_UP (R163): an access wakes a bank from OFF. -/
def bankPowerUp (s : Chip) (b : Nat) : Chip :=
  if running s && bankPower s b == 3 && regionAwake s (b / 64) then bankTouch s b else s

/-- Has a bank that stands above its block's state been idle for its retain time, with no fill of its own? -/
def mayReturn (s : Chip) (b : Nat) : Bool :=
  let t := rd s (.spb b) Reg.PWR_CTRL_RETAIN_US
  running s && decide (bankPower s b < blockPower s b) && t != 0 && !(s.fills.any (fun f => f.bank == b))
    && decide (tgetD s.power.lastBank b 0 + 1000 * t ≤ s.now)

/-- BANK_IDLE_RETURN (R163): a bank woken alone returns to its block's state when its idle timer expires. -/
def bankIdleReturn (s : Chip) (b : Nat) (met : Bool) : Chip :=
  if mayReturn s b then bankRest s b (blockPower s b) met else s

/-! ### STANDBY (R467 to R469) -/

/-- Why a STANDBY request is refused (Table 16-11); 0: it is not. -/
def standbyReason (s : Chip) : Nat :=
  if (List.range 16).any (fun p => [1, 3, 4, 5].contains (partState s p)) then 1
  else if inFatal s then 2
  else if rd s .pm Reg.PM_STAT_CRYSTAL_OK = 0 || s.power.crystalFailed then 3
  else 0

/-- Does a STANDBY request wait: a stack is in COPYING, a region is waking, or a token is being processed (R401)? -/
def standbyWaits (s : Chip) : Bool :=
  (List.range 16).any (fun u => rd s (.hbm u) Reg.HBM_STAT_RETIRE_STATE == 2) || !s.power.waking.isEmpty || s.sec.processing.isSome

/-- The partitions in READY. -/
def readyParts (s : Chip) : Keys := (List.range 16).filter (fun p => partState s p == 2)

/-- The steps of Table 16-6 that the hub and the firmware carry out: partition resets, the debug state, links down. -/
def beginStandby (s : Chip) : Chip :=
  let s := (List.range 16).foldl (fun t p => if partState t p = 2 then resetSteps t p else t) s
  let s := wr (setDebug s (operatorBit s) false) .pm Reg.PM_STAT_ENTERING 1
  let s := setPower s (fun w => { w with kept := readyParts s })
  dropAll (linkDown (linkDown s 0) 1)

/-- A STANDBY request is refused, waits or starts (R467). -/
def standbyRequest (s : Chip) : Chip :=
  let r := standbyReason s
  if r ≠ 0 then
    pmFlag (bump (wr s .pm Reg.PM_STAT_REFUSAL r) .pm Reg.PM_EVENTS_REFUSALS 1) Reg.PM_IRQ_STAT_REFUSED
  else if standbyWaits s then setPower s (fun w => { w with standbyHeld := true })
  else beginStandby s

/-- STANDBY (R467): a request that finds entry in progress, or another request waiting, changes nothing. -/
def standby (s : Chip) : Chip :=
  if !(hubOn s) || rd s .pm Reg.PM_STAT_ENTERING == 1 || s.power.standbyHeld then s else standbyRequest s

/-- A request that waited proceeds when the work that held it ends (R467). -/
def standbyRetry (s : Chip) : Chip :=
  if s.power.standbyHeld && !(standbyWaits s) then standbyRequest (setPower s (fun w => { w with standbyHeld := false })) else s

/-- Does the register at `off` of the page with index `i` keep its value in STANDBY (R469)? -/
def keptReg (i off : Nat) : Bool :=
  if i = 0 then off == 0x05C
  else if i = 1 then off == 0x040
  else if i = 2 then [0x040, 0x044, 0x048, 0x050, 0x058, 0x080, 0x084, 0x088, 0x08C, 0x090].contains off
  else if i = 3 then [0x040, 0x050, 0x054, 0x058, 0x05C, 0x060, 0x078].contains off || decide (0x0C0 ≤ off ∧ off < 0x0E0)
  else if i = 4 then [0x044, 0x048, 0x04C, 0x050, 0x064, 0x074, 0x078, 0x094].contains off
  else if i = 0x8 ∨ i = 0x9 then off == 0x040
  else if i = 0x10 then decide (0x100 ≤ off ∧ off < 0x118) || off == 0x11C || decide (0x140 ≤ off ∧ off < 0x180)
  else if i = 0x20 then decide (0x200 ≤ off) && off % 16 == 0
  else if 0x40 ≤ i ∧ i < 0x50 then [0x040, 0x044, 0x048, 0x04C, 0x060, 0x064].contains off
  else if 0x1020 ≤ i ∧ i < 0x1030 then
    off == 0x044 || decide (0x100 ≤ off ∧ off < 0x200) || (decide (0x200 ≤ off) && off % 16 == 0)
  else if 0x1300 ≤ i ∧ i < 0x1400 then off == 0x044
  else false

/-- Of a register that is kept in part, the rest returns to its reset value: a port page keeps its management selection, a
bank page whether the bank is fenced, the first Serrun page MIRROR_LOST (R427), the collector FENCES, the security
page FAILS. -/
def trimKept (s : Chip) : Chip :=
  let s := (List.range 2).foldl (fun t i => wr t (.pci i) Reg.PCI_LINK_STAT_NUM_VFS 0) s
  let s := (List.range 256).foldl (fun t b =>
    wrAll t (.spb b) [(Reg.SPB_STAT_LOST, 0), (Reg.SPB_STAT_PREV_VALID, 0), (Reg.SPB_STAT_PREV_OWNER, 0),
      (Reg.SPB_STAT_OWNED, 0), (Reg.SPB_STAT_DIRTY, 1), (Reg.SPB_STAT_POWER, 0)]) s
  let s := wrAll s .pm [(Reg.PM_STAT_REFUSAL, 0), (Reg.PM_EVENTS_REFUSALS, 0), (Reg.PM_EVENTS_INPUT_LOW, 0),
    (Reg.PM_EVENTS_INPUT_HIGH, 0)]
  let s := wr s (.srn 0) Reg.SRN_TWIN_STAT_CONFLICT 0
  let s := wrAll s .fc [(Reg.FC_FENCE_STAT_BUSY, 0), (Reg.FC_FENCE_STAT_RESULT, 0)]
  wr s .sec Reg.SEC_IDE_STAT_SECURE 0

/-- What STANDBY keeps (R383, R469), with tier B's contents where STANDBY_KEEP is 1 (R345). The partitions are those that were
READY at step 3 of the entry (R468); the storm windows of each run on from the instant at which its ENABLE last became 0, which
may be this one (R129). -/
def standbyState (s : Chip) : Chip :=
  let z := Chip.reset
  let keep := rd s (.tb 0) Reg.TB_CFG_STANDBY_KEEP == 1 && s.power.tierB
  let b := fun (a : Nat) => keep && decide (tierBBase ≤ a)
  voidArrays (trimKept { z with
    now := s.now, xtal := s.xtal, fresh := s.fresh, out := s.out,
    regs := tkeep s.regs (fun k => keptReg (k / 32768) (k / 32 % 1024 * 4)),
    mem := { bytes := s.mem.bytes.filter (fun c => b c.1), poison := s.mem.poison.filter (fun l => b (64 * l)),
             latent := s.mem.latent.filter (fun e => b (64 * e.1)) },
    slices := s.slices,
    hosts := { z.hosts with
      perst0 := s.hosts.perst0, perst1 := s.hosts.perst1, clock0 := s.hosts.clock0, clock1 := s.hosts.clock1 },
    sec := { s.sec with nonceAt := none, processing := none, reading := none, chunks := [], sessions := [], ideSecure := [], ideInsecure := [] },
    mesh := { z.mesh with
      ports := tmap s.mesh.ports (fun _ x => { darkPort x with dropped := x.dropped }), placedOnce := s.mesh.placedOnce,
      crewId := s.mesh.crewId, x0 := s.mesh.x0, y0 := s.mesh.y0, x1 := s.mesh.x1, y1 := s.mesh.y1,
      nextXfer := s.mesh.nextXfer },
    prec := { z.prec with stormAt := tmap (tkeep s.prec.stormAt (kmem s.power.kept)) (fun p t => if servingOn s p then s.now else t) },
    faults := { z.faults with pulseEnd := s.faults.pulseEnd, spares := s.faults.spares },
    power := { z.power with
      pwrEn := s.power.pwrEn, wakeHeld := s.power.wakeHeld, crystalFailed := s.power.crystalFailed, tierB := keep,
      lastTierB := s.power.lastTierB, kept := s.power.kept, telemSeq := s.power.telemSeq, startedAt := s.power.startedAt },
    bus := { s.bus with eidPcie := 0 } })

/-! ### Wakes (R470, R472) -/

/-- A wake event (R470): it wakes the device in STANDBY, and is held while entry to STANDBY is in progress. -/
def wakeEvent (s : Chip) (src : Nat) : Chip :=
  if powerState s = 1 then startHub s src
  else if rd s .pm Reg.PM_STAT_ENTERING = 1 then setPower s (fun w => { w with wakeHeld := some (w.wakeHeld.getD src) })
  else s

/-- Can a message reach the endpoint (R510): the sideband's in every powered state, the PCIe one over the management port's
link? -/
def endpointOpen (s : Chip) : Endpoint → Bool
  | .sideband => powerState s != 0
  | .pcie => hubOn s && dlUp s (mgmtPort s)

/-- WAKE (R470, R472): an MCTP message. -/
def wake (s : Chip) (via : Endpoint) : Chip := if endpointOpen s via then answer (wakeEvent s 1) via 1 [] else s

/-- Has local time reached PM_ALARM with ALARM_EN set (R470)? -/
def alarmDue (s : Chip) : Bool :=
  rd s .pm Reg.PM_WAKE_CFG_ALARM_EN == 1
    && decide (rd s .pm Reg.PM_ALARM_LO_ALARM + rd s .pm Reg.PM_ALARM_HI_ALARM * 2 ^ 32 ≤ s.now)

/-- ALARM_WAKE (R470). -/
def alarmWake (s : Chip) : Chip :=
  if alarmDue s && (powerState s == 1 || rd s .pm Reg.PM_STAT_ENTERING == 1) then wakeEvent s 4 else s

/-- The module is in STANDBY. -/
def standbyEntered (s : Chip) : Chip :=
  let t := wrAll (standbyState (setDebug s (operatorBit s) false)) .pm [(Reg.PM_STAT_STATE, 1), (Reg.PM_STAT_ENTERING, 0)]
  showTierB (bump t .pm Reg.PM_EVENTS_ENTRIES 1) (if t.power.tierB then 1 else 2)

/-- STANDBY_ENTRY_COMPLETE (R468 to R470): the hub powers down; a wake that was held, or an alarm in the past, follows. A device
that has entered FATAL meanwhile stays there (R450). -/
def standbyEntryComplete (s : Chip) : Chip :=
  if !(hubOn s) || rd s .pm Reg.PM_STAT_ENTERING ≠ 1 || s.sec.processing.isSome || inFatal s then s
  else
    match s.power.wakeHeld with
    | some src => startHub (standbyEntered s) src
    | none => alarmWake (standbyEntered s)

/-- The level of a port's PERST_N, and its choice of clock: made at a deassertion in a powered module, given up at an
assertion (R504). -/
def setPerst (s : Chip) (port : Nat) (level : Bool) (clock : Option Bool) : Chip :=
  { s with hosts := if port = 0 then { s.hosts with perst0 := level, clock0 := clock }
                    else { s.hosts with perst1 := level, clock1 := clock } }

/-- PERST_DEASSERT (R470, R472, R473, R504): the hub starts, or the device wakes; a warm reset ends; `clock`: the port's
reference clock is present. One between PWR_EN and the good input starts the hub once there is power (R473). -/
def perstDeassert (s : Chip) (port : Nat) (clock : Bool) : Chip :=
  let was := perst s port
  let charging := powerState s == 0 && s.power.pwrEn
  let s := if was then setPerst s port false (if powerState s = 0 && !charging then none else some clock) else s
  let s := if was && charging then setPower s (fun w => { w with early := some (w.early.getD (2 + port)) }) else s
  let en := rd s .pm (if port = 0 then Reg.PM_WAKE_CFG_PERST0_EN else Reg.PM_WAKE_CFG_PERST1_EN) == 1
  if !was || powerState s = 0 then s
  else if powerState s = 1 || rd s .pm Reg.PM_STAT_ENTERING == 1 then (if en || s.power.cold then wakeEvent s (2 + port) else s)
  else if kmem s.hosts.warm port then
    setFlag { s with hosts := { s.hosts with warm := kdel s.hosts.warm port } } (.pci port) Reg.PCI_IRQ_STAT_PERST
  else s

/-- PERST_ASSERT (R361): a warm reset of the port while the hub runs; a hot reset is one that ends at once. -/
def perstAssert (s : Chip) (port : Nat) (hot : Bool) : Chip :=
  if hot then
    if hubOn s && dlUp s port then setFlag (warmReset s port true) (.pci port) Reg.PCI_IRQ_STAT_PERST else s
  else if perst s port then s
  else
    let s := setPerst s port true none
    if hubOn s then warmReset { s with hosts := { s.hosts with warm := kadd s.hosts.warm port } } port false else s

/-- BOOT_CHAIN (R380 to R382): on a hub that has started and not verified its firmware; then the Serrun links train. -/
def bootChain (s : Chip) : Chip := if running s && !s.sec.booted then trainAll (runBoot s) else s

/-- A retained partition enters READY with its quads, and its queues DISABLED (R471). -/
def restorePart (s : Chip) (p : Nat) : Chip := (namedQuads s p).foldl (assignQuad p) (setPartState s p 2)

/-- A stack that came back REQUESTED asks again (R469). -/
def askAgain (s : Chip) (u : Nat) : Chip :=
  if rd s (.hbm u) Reg.HBM_STAT_RETIRE_STATE = 1 then setFlag s (.hbm u) Reg.HBM_IRQ_STAT_RETIRE_REQUEST else s

/-- What STANDBY kept is in force again. -/
def wakeRestored (s : Chip) : Chip :=
  let s := s.power.kept.foldl restorePart s
  let s := (List.range 16).foldl askAgain (setPower s (fun w => { w with restoring := false, kept := [] }))
  trainAll (pmFlag s Reg.PM_IRQ_STAT_WAKE)

/-- WAKE_RESTORE_COMPLETE (R471). -/
def wakeRestoreComplete (s : Chip) : Chip :=
  if !(running s) || !s.power.restoring || !s.sec.booted then s else wakeRestored s

/-- A retirement that the flash records is applied (R342). -/
def applyRetired (s : Chip) : Chip :=
  let s := s.sec.flash.channels.foldl (fun t e => showRetired t e.1 e.2) s
  s.sec.flash.slices.foldl (fun t n => { t with slices := tset t.slices n { sliceEntry t n with retired := true } }) s

/-- External memory is trained: retired channels and slices are out of use, and tier B is shown. -/
def memoryTrained (s : Chip) : Chip :=
  let s := applyRetired (setPower s (fun w => { w with trained := true }))
  if s.power.tierB then s else showTierB s 3

/-- MEMORY_TRAINING_COMPLETE (R472): stacks and packages are trained, and retirements applied; initialisation follows. -/
def memoryTrainingComplete (s : Chip) : Chip :=
  if !(running s) || !s.sec.booted || s.power.trained then s else memoryTrained s

/-! ### Regions (R460, R461) -/

/-- The end of a region's last activity. -/
def regionLast (s : Chip) (r : Nat) : Nat := tgetD s.power.lastRegion r 0

/-- Does an engine of the region hold a job context, or a command in flight? -/
def regionBusy (s : Chip) (r : Nat) : Bool :=
  s.q.jobs.any (fun j => j.quad / 4 == r) || s.fills.any (fun f => f.bank / 64 == r)
    || (List.range 4).any (fun k => rd s (.hbm (4 * r + k)) Reg.HBM_STAT_RETIRE_STATE == 2) 
    || s.hosts.scrubs.any (fun x => x.perStack.any (fun e => e.1 / 4 == r))

/-- May the region go to sleep: awake, its idle time set and over, nothing busy or waking, its blocks RETAINED or OFF? -/
def maySleep (s : Chip) (r : Nat) : Bool :=
  let t := rd s .pm Reg.PM_REGION_CFG_IDLE_US
  running s && regionAwake s r && t != 0 && !(regionBusy s r) && !(kmem s.power.waking r)
    && (span (64 * r) 64).all (fun b => decide (blockPower s b ≥ 2)) && decide (regionLast s r + 1000 * t ≤ s.now)

/-- REGION_SLEEP (R461): IDLE_US microseconds after its blocks rest and its work ends. -/
def regionSleep (s : Chip) (r : Nat) : Chip :=
  if maySleep s r then showState (wr s .pm Reg.PM_REGION_STAT_AWAKE (putBit (rd s .pm Reg.PM_REGION_STAT_AWAKE) r false)) else s

/-- A region is awake again, and counted. -/
def regionAwoken (s : Chip) (r : Nat) : Chip :=
  let s := setPower s (fun w => { w with waking := kdel w.waking r })
  let s := wr (bump s .pm Reg.PM_REGION_STAT_WAKES 1) .pm Reg.PM_REGION_STAT_AWAKE (putBit (rd s .pm Reg.PM_REGION_STAT_AWAKE) r true)
  showState (stampRegion s r)

/-- REGION_WAKE_COMPLETE (R460): the region is AWAKE, and waiting work proceeds. -/
def regionWakeComplete (s : Chip) (r : Nat) : Chip :=
  if !(running s) || !(kmem s.power.waking r) then s else standbyRetry (memoryGoes (regionAwoken s r))

/-! ### Telemetry (R474, R475) -/

/-- Blocks whose RATE is below 16. -/
def throttled (s : Chip) : Nat := ((List.range 256).filter (fun b => decide (rd s (.blk b) Reg.BLK_ISSUE_RATE < 16))).length

/-- The 64 bytes of a sample (Table 16-8). -/
def sampleBytes (s : Chip) (r : Readings) (stamp seq : Nat) : List Byte :=
  let two := fun (h l : BitVec 16) => toBytes 2 l.toNat ++ toBytes 2 h.toNat
  toBytes 8 stamp ++ two r.vinMv r.iin ++ two r.pin r.conv ++ two r.region1 r.region0 ++ two r.region3 r.region2
    ++ two r.hbm r.tierB ++ two r.hub 0 ++ [r.plate, r.hubT, r.hbmMax, r.blockMax]
    ++ toBytes 4 (powerState s * 2 ^ 30 + rd s .pm Reg.PM_REGION_STAT_AWAKE * 2 ^ 26 + throttled s) ++ toBytes 4 seq
    ++ List.replicate 20 0

/-- The latest values (R474). -/
def latchSample (s : Chip) (r : Readings) : Chip :=
  let s := wrAll s .pm [(Reg.PM_INPUT_VIN_MV, r.vinMv.toNat), (Reg.PM_INPUT_IIN, r.iin.toNat), (Reg.PM_POWER_PIN, r.pin.toNat),
    (Reg.PM_POWER_PEAK_DW, max (rd s .pm Reg.PM_POWER_PEAK_DW) r.pin.toNat), (Reg.PM_TEMP_BLOCK_MAX, r.blockMax.toNat),
    (Reg.PM_TEMP_HBM_MAX, r.hbmMax.toNat), (Reg.PM_TEMP_HUB_T, r.hubT.toNat), (Reg.PM_TEMP_PLATE, r.plate.toNat)]
  bump64 s .pm Reg.PM_ENERGY_LO_ENERGY Reg.PM_ENERGY_HI_ENERGY r.energyMj

/-- Does the telemetry ring take samples (R474)? -/
def telemRing (s : Chip) : Bool :=
  rd s .pm Reg.PM_TELEM_CFG_EN == 1 && decide (4 ≤ rd s .pm Reg.PM_TELEM_CFG_SIZE_LOG2 ∧ rd s .pm Reg.PM_TELEM_CFG_SIZE_LOG2 ≤ 16)

/-- A sample goes to its slot of the ring, then TAIL and the vector (R474). -/
def ringSample (s : Chip) (l : List Byte) : Chip :=
  let base := rd s .pm Reg.PM_TELEM_BASE_LO_BASE + rd s .pm Reg.PM_TELEM_BASE_HI_BASE * 2 ^ 32
  let slot := rd s .pm Reg.PM_TELEM_TAIL_TAIL % 2 ^ rd s .pm Reg.PM_TELEM_CFG_SIZE_LOG2
  let s := bumpWrap (hostPut s (mgmtPort s) 0 (base + 64 * slot) l) .pm Reg.PM_TELEM_TAIL_TAIL 1
  pmFlag (msix s (mgmtPort s) 0 (rd s .pm Reg.PM_TELEM_CFG_VECTOR)) Reg.PM_IRQ_STAT_TELEM

/-- A telemetry sample is latched, with its sequence number. -/
def sampleTaken (s : Chip) (r : Readings) : Chip :=
  setPower (latchSample s r) (fun w => { w with
    telemSeq := (s.power.telemSeq + 1) % 2 ^ 32, sampledAt := s.now, lastSample := sampleBytes s r s.now s.power.telemSeq })

/-- Is the next sample due: PERIOD_MS milliseconds, of which 0 means 1,024, after the last or after the hub's start (R474;
DESIGN CHOICE, log 122, that the hub's start begins a period)? -/
def sampleDue (s : Chip) : Bool :=
  let n := rd s .pm Reg.PM_TELEM_CFG_PERIOD_MS
  decide (s.power.sampledAt + msNs (if n = 0 then 1024 else n) ≤ s.now)

/-- TELEMETRY_SAMPLE (R474). -/
def telemetrySample (s : Chip) (r : Readings) : Chip :=
  if !(hubOn s) || !(sampleDue s) then s
  else
    let t := sampleTaken s r
    if telemRing t then ringSample t (sampleBytes s r s.now s.power.telemSeq) else t

end Sys2Proof.Machine
end

