-- ==== Sys2Proof/Machine/Mgmt.lean ====
section
/-!
DEFINITION. The management bus (18): the Golush MCTP commands of Table 18-5 (R510, R511), the endpoint identifiers (R510) and
the bus modes (R509). An answer carries the command's code and the bytes that the spec gives it.
-/
namespace Sys2Proof.Machine

/-- A command that only a running hub carries out: in STANDBY it is answered ERROR_NOT_READY, in OFF by nothing (R511). -/
def hubCommand (s : Chip) (via : Endpoint) (f : Chip → Chip) : Chip :=
  if !(endpointOpen s via) then s else if hubOn s then f s else emit s (.mctpNotReady via (eidOf s via))

/-- HUB_REVISION (Table 17-10). -/
def revisionWord (s : Chip) : Nat := regWord s .hub 0x044 + Config.stepping.toNat * 2 ^ 16

/-- MGMT_OVERRIDE (R354): kept in flash for later cold power-ups; answered in STANDBY too. -/
def mgmtOverride (s : Chip) (v : Option (Fin 2)) (via : Endpoint) : Chip :=
  if endpointOpen s via then
    answer { s with sec := { s.sec with flash := { s.sec.flash with override := v.map (fun x => x.val) } } } via 4 []
  else s

/-- MCTP_STANDBY (R467). -/
def mctpStandby (s : Chip) (via : Endpoint) : Chip := hubCommand s via (fun s => answer (standby s) via 2 [])

/-- MCTP_TOKEN (R386). -/
def mctpTokenChunk (s : Chip) (offset : Nat) (l : List Byte) (last : Bool) (part : Processing) (via : Endpoint) : Chip :=
  hubCommand s via (fun s => standbyRetry (mctpToken s offset l last part via))

/-- PLACE (R413), which Murak firmware carries out. -/
def mctpPlace (s : Chip) (m : Placement) (via : Endpoint) : Chip :=
  hubCommand s via (fun s => if firmwareOn s then place s m via else s)

/-- FAULT_READ (R510, R436): the record of SEQ, where the collector still holds it. -/
def faultRead (s : Chip) (seq : Nat) (via : Endpoint) : Chip :=
  hubCommand s via (fun s => answer s via 6 (match logged s seq with
    | some r => noteBytes r
    | none => []))

/-- TELEMETRY_READ (R510, R474). -/
def telemetryRead (s : Chip) (via : Endpoint) : Chip := hubCommand s via (fun s => answer s via 7 s.power.lastSample)

/-- The lifecycle code (R403): the fuses', where the hub has not yet run to show it. -/
def lifecycleCode (s : Chip) : Nat := if s.power.cold then s.sec.fuses.lifecycle else lifecycle s

/-- STATUS (R510, R511): PM_STAT, HUB_REVISION and the lifecycle code; answered in STANDBY too. -/
def status (s : Chip) (via : Endpoint) : Chip :=
  if endpointOpen s via then
    answer s via 8 (toBytes 4 (regWord s .pm 0x044) ++ toBytes 4 (revisionWord s) ++ [BitVec.ofNat 8 (lifecycleCode s)])
  else s

/-- MCTP_UNSUPPORTED_CMD (R510): a code that Table 18-5 reserves. -/
def mctpUnsupportedCmd (s : Chip) (code : Nat) (via : Endpoint) : Chip :=
  if 1 ≤ code ∧ code ≤ 8 then s else hubCommand s via (fun s => emit s (.mctpUnsupported via (eidOf s via)))

/-- SET_ENDPOINT_ID (R510): the endpoint takes the EID, and answers under it. -/
def setEndpointId (s : Chip) (pcie : Bool) (eid : Nat) : Chip :=
  let via := if pcie then Endpoint.pcie else .sideband
  if endpointOpen s via then
    answer { s with bus := if pcie then { s.bus with eidPcie := eid } else { s.bus with eidSideband := eid } } via 0 [BitVec.ofNat 8 eid]
  else s

/-- I3C_DYNAMIC_ADDRESS (R509). -/
def i3cDynamicAddress (s : Chip) (addr : Nat) : Chip :=
  if powerState s = 0 then s else { s with bus := { s.bus with i3c := some addr } }

/-- RSTDAA (R509). -/
def rstdaa (s : Chip) : Chip := if powerState s = 0 then s else { s with bus := { s.bus with i3c := none } }

end Sys2Proof.Machine
end

