-- ==== Sys2Proof/Machine/Run.lean ====
section
/-!
DEFINITION. What every command's meaning is built over: a change of the module answered as a next state, and the tick of
local time (R8, R465), which is what a step does while no command waits (DESIGN CHOICE, log 11).
-/
namespace Sys2Proof.Machine

/-- The next state in which `f` has changed the module; the queue stays. -/
def act (s : State) (f : Chip → Chip) : Host.Outcome State Fault Refusal := .next { s with toChip := f s.toChip }

/-- The next state in which `f` has changed the module while it runs (Table 16-2, R450); otherwise nothing happens. -/
def live (s : State) (f : Chip → Chip) : Host.Outcome State Fault Refusal := act s (fun c => whenRunning c f)

/-- The next state in which engine `e` has carried out a command of origin `o` (R188). -/
def carry (s : State) (o : Origin) (e : Engine) (op : Nat) (b : Body) (f : Chip → Chip) : Host.Outcome State Fault Refusal :=
  live s (fun c => carriedOut c o e op b f)

/-- The next state in which a register access of the host driver has its effect (R355): where its port's link is down, or the
management PF0 does not answer, nothing happens. -/
def driven (s : State) (f : Chip → Chip) : Host.Outcome State Fault Refusal := act s (fun c => whenSo (driverOpen c) c f)

/-- The same for a register that answers only while the module runs. -/
def drivenLive (s : State) (f : Chip → Chip) : Host.Outcome State Fault Refusal := live s (fun c => whenSo (driverOpen c) c f)

/-- The next state in which a register access through a function has its effect. -/
def through (s : State) (via : Via) (f : Chip → Chip) : Host.Outcome State Fault Refusal :=
  act s (fun c => whenSo (viaOpen c via) c f)

/-- The same for a register that answers only while the module runs. -/
def throughLive (s : State) (via : Via) (f : Chip → Chip) : Host.Outcome State Fault Refusal :=
  live s (fun c => whenSo (viaOpen c via) c f)

/-- One tick of the clock that local time counts by (R8, R465): in OFF none; in STANDBY a period of the 32.768 kHz crystal,
30,517 ns and 37/64 ns; otherwise one hub cycle of 1 ns. -/
def tick (s : Chip) : Chip :=
  if powerState s = 0 then s
  else if powerState s = 1 then { s with now := s.now + 30517 + (s.xtal + 37) / 64, xtal := (s.xtal + 37) % 64 }
  else { s with now := s.now + 1 }

end Sys2Proof.Machine
end

