-- ==== Sys2Proof/Machine/BusCmds.lean ====
section
/-!
DEFINITION. The meanings of the management bus (18), one for each command.
-/
namespace Sys2Proof.Machine

/-- MGMT_OVERRIDE (R354). -/
def execMgmtOverride (value : Option (Fin 2)) (s : State) (via : Endpoint := .sideband) : Host.Outcome State Fault Refusal :=
  act s (fun c => mgmtOverride c value via)

/-- MCTP_STANDBY (R467). -/
def execMctpStandby (s : State) (via : Endpoint := .sideband) : Host.Outcome State Fault Refusal :=
  act s (fun c => mctpStandby c via)

/-- MCTP_TOKEN (R386). -/
def execMctpToken (offset : Nat) (bytes : List Byte) (last : Bool) (s : State) (part : Processing := .whole)
    (via : Endpoint := .sideband) : Host.Outcome State Fault Refusal :=
  act s (fun c => mctpTokenChunk c offset bytes last part via)

/-- FAULT_READ (R510). -/
def execFaultRead (seq : Word) (s : State) (via : Endpoint := .sideband) : Host.Outcome State Fault Refusal :=
  act s (fun c => faultRead c seq.toNat via)

/-- TELEMETRY_READ (R510). -/
def execTelemetryRead (s : State) (via : Endpoint := .sideband) : Host.Outcome State Fault Refusal :=
  act s (fun c => telemetryRead c via)

/-- STATUS (R510). -/
def execStatus (s : State) (via : Endpoint := .sideband) : Host.Outcome State Fault Refusal :=
  act s (fun c => status c via)

/-- MCTP_UNSUPPORTED_CMD (R510). -/
def execMctpUnsupportedCmd (code : Byte) (s : State) (via : Endpoint := .sideband) : Host.Outcome State Fault Refusal :=
  act s (fun c => mctpUnsupportedCmd c code.toNat via)

/-- SET_ENDPOINT_ID (R510). -/
def execSetEndpointId (pcie : Bool) (eid : Byte) (s : State) : Host.Outcome State Fault Refusal :=
  act s (fun c => setEndpointId c pcie eid.toNat)

/-- I3C_DYNAMIC_ADDRESS (R509). -/
def execI3cDynamicAddress (addr : BitVec 7) (s : State) : Host.Outcome State Fault Refusal :=
  act s (fun c => i3cDynamicAddress c addr.toNat)

/-- RSTDAA (R509). -/
def execRstdaa (s : State) : Host.Outcome State Fault Refusal := act s rstdaa

end Sys2Proof.Machine
end

