-- ==== Sys2Proof/Machine/EngineCmds.lean ====
section
/-!
DEFINITION. The meanings of the engines' commands and the events around them (02 to 06, 08, 10), one for each command.
-/
namespace Sys2Proof.Machine

/-- NOP (R177). -/
def execNop (o : Origin) (s : State) : Host.Outcome State Fault Refusal := live s (fun c => nop c o)

/-- STROKE_PASS (R181). -/
def execStrokePass (o : Origin) (blk : Fin 256) (b : Body) (events : List PassEvent) (s : State) : Host.Outcome State Fault Refusal :=
  carry s o (.stroke blk) 1 b (fun c => strokePass c o blk b events)

/-- ACC_MODE_WAIT_PROCEED (R133). -/
def execAccModeWaitProceed (blk : Fin 256) (s : State) : Host.Outcome State Fault Refusal :=
  live s (fun c => accModeWaitProceed c blk)

/-- ACC_MODE_TIMEOUT (R133). -/
def execAccModeTimeout (blk : Fin 256) (s : State) : Host.Outcome State Fault Refusal :=
  live s (fun c => accModeTimeout c blk)

/-- READOUT (R183). -/
def execReadout (o : Origin) (blk : Fin 256) (b : Body) (events : List PassEvent) (s : State) : Host.Outcome State Fault Refusal :=
  carry s o (.burnisher blk) 2 b (fun c => readout c o blk b events)

/-- QUANTISE (R117). -/
def execQuantise (o : Origin) (blk : Fin 256) (b : Body) (s : State) : Host.Outcome State Fault Refusal :=
  carry s o (.burnisher blk) 3 b (fun c => quantise c o blk b)

/-- WIDEN_EVENT_NOTICE (R129). -/
def execWidenEventNotice (p : Fin 16) (s : State) : Host.Outcome State Fault Refusal :=
  live s (fun c => widenEventNotice c p.val)

/-- STORM_NOTICE (R130). -/
def execStormNotice (q : Fin 16) (s : State) : Host.Outcome State Fault Refusal :=
  live s (fun c => stormNotice c q.val)

/-- STORM_WINDOW_ROLLOVER (R129). -/
def execStormWindowRollover (p : Fin 16) (s : State) : Host.Outcome State Fault Refusal :=
  live s (fun c => stormWindowRollover c p.val)

/-- FIN (R135). -/
def execFin (o : Origin) (b : Body) (met : List BufferError) (s : State) : Host.Outcome State Fault Refusal :=
  carry s o (finOf o) 4 b (fun c => fin c o b met)

/-- FIN_WIDEN_ITEM (R128). -/
def execFinWidenItem (q : Fin 16) (s : State) (met : List BufferError := []) : Host.Outcome State Fault Refusal :=
  live s (fun c => finWidenItem c q met)

/-- ZERO_FILL (R187). -/
def execZeroFill (o : Origin) (b : Body) (s : State) : Host.Outcome State Fault Refusal :=
  carry s o (dmaOf o) 5 b (fun c => zeroFill c o b)

/-- FILL_COMPLETE (R156). -/
def execFillComplete (bank : Fin 256) (s : State) : Host.Outcome State Fault Refusal :=
  live s (fun c => fillComplete c bank.val)

/-- DMA_COPY (R186). -/
def execDmaCopy (o : Origin) (b : Body) (host : HostReply) (s : State) : Host.Outcome State Fault Refusal :=
  carry s o (dmaOf o) 6 b (fun c => dmaCopy c o b host)

/-- SEM_SIGNAL (R191). -/
def execSemSignal (o : Origin) (b : Body) (s : State) : Host.Outcome State Fault Refusal :=
  carry s o (syncOf o) 0x10 b (fun c => semSignal c o b)

/-- SEM_WAIT (R192). -/
def execSemWait (o : Origin) (b : Body) (s : State) : Host.Outcome State Fault Refusal :=
  carry s o (syncOf o) 0x11 b (fun c => semWait c o b)

/-- BARRIER (R193). -/
def execBarrier (o : Origin) (b : Body) (s : State) : Host.Outcome State Fault Refusal :=
  carry s o (syncOf o) 0x12 b (fun c => barrier c o b)

/-- WAIT_TIMEOUT (R196). -/
def execWaitTimeout (index : Nat) (s : State) : Host.Outcome State Fault Refusal :=
  live s (fun c => waitTimeout c index)

/-- EVENT_HOST (R194). -/
def execEventHost (o : Origin) (b : Body) (host : HostReply) (s : State) : Host.Outcome State Fault Refusal :=
  carry s o (syncOf o) 0x13 b (fun c => eventHost c o b host)

/-- WEIGH_ENOUGH (R197). -/
def execWeighEnough (o : Origin) (s : State) : Host.Outcome State Fault Refusal :=
  live s (fun c => carriedOut c o (syncOf o) 0x14 (weighBody c o) (fun t => weighEnough t o))

/-- REIN_ATTEND (R236). -/
def execReinAttend (o : Origin) (b : Body) (met : List BufferError) (parity : List Nat) (s : State) : Host.Outcome State Fault Refusal :=
  carry s o (reinOf o) 0x20 b (fun c => reinAttend c o b met parity)

/-- KV_APPEND (R244). -/
def execKvAppend (o : Origin) (b : Body) (met : List BufferError) (parity : List Nat) (s : State) : Host.Outcome State Fault Refusal :=
  carry s o (reinOf o) 0x21 b (fun c => kvAppend c o b met parity)

/-- PAGE_EDIT_SET (R249). -/
def execPageEditSet (o : Origin) (b : Body) (s : State) : Host.Outcome State Fault Refusal :=
  carry s o (reinOf o) 0x22 b (fun c => pageEditRow 0 c o b)

/-- PAGE_EDIT_ALLOC (R249). -/
def execPageEditAlloc (o : Origin) (b : Body) (s : State) : Host.Outcome State Fault Refusal :=
  carry s o (reinOf o) 0x22 b (fun c => pageEditRow 1 c o b)

/-- PAGE_EDIT_RELEASE (R249). -/
def execPageEditRelease (o : Origin) (b : Body) (s : State) : Host.Outcome State Fault Refusal :=
  carry s o (reinOf o) 0x22 b (fun c => pageEditRow 2 c o b)

/-- PAGE_EDIT_SHARE (R249). -/
def execPageEditShare (o : Origin) (b : Body) (s : State) : Host.Outcome State Fault Refusal :=
  carry s o (reinOf o) 0x22 b (fun c => pageEditRow 3 c o b)

/-- PAGE_EDIT_MOVE (R249). -/
def execPageEditMove (o : Origin) (b : Body) (s : State) : Host.Outcome State Fault Refusal :=
  carry s o (reinOf o) 0x22 b (fun c => pageEditRow 4 c o b)

/-- WALK_START (R246). -/
def execWalkStart (p : Fin 16) (region : Fin 4) (tag : Nat) (s : State) : Host.Outcome State Fault Refusal :=
  live s (fun c => walkStart c p.val region tag)

/-- WALK_END (R246). -/
def execWalkEnd (p : Fin 16) (walk : Nat) (s : State) : Host.Outcome State Fault Refusal :=
  live s (fun c => walkEnd c p.val walk)

/-- RETIRE_QUEUE_ADVANCE (R252). -/
def execRetireQueueAdvance (p : Fin 16) (tierB : Bool) (s : State) : Host.Outcome State Fault Refusal :=
  live s (fun c => retireQueueAdvance c p.val tierB)

/-- SKV_COMPRESS (R305). -/
def execSkvCompress (o : Origin) (b : Body) (s : State) (met : List BufferError := []) : Host.Outcome State Fault Refusal :=
  carry s o (skiveOf o) 0x30 b (fun c => skvCompress c o b met)

/-- SKV_DECODE (R307). -/
def execSkvDecode (o : Origin) (b : Body) (s : State) (met : List BufferError := []) : Host.Outcome State Fault Refusal :=
  carry s o (skiveOf o) 0x31 b (fun c => skvDecode c o b met)

/-- SKV_STAGE (R315). -/
def execSkvStage (o : Origin) (b : Body) (s : State) (met : List BufferError := []) : Host.Outcome State Fault Refusal :=
  carry s o (skiveOf o) 0x32 b (fun c => skvStage c o b met)

/-- SLOT_UNIT_WRITE (R311). -/
def execSlotUnitWrite (p : Fin 16) (region channel : Fin 4) (unit : Nat) (bytes : List Byte) (s : State)
    (met : List BufferError := []) : Host.Outcome State Fault Refusal :=
  live s (fun c => slotUnitWrite c p.val region.val channel.val unit bytes met)

/-- SLOT_UNIT_READ (R313). -/
def execSlotUnitRead (p : Fin 16) (region channel : Fin 4) (unit : Nat) (s : State) (met : List BufferError := []) : Host.Outcome State Fault Refusal :=
  live s (fun c => slotUnitRead c p.val region.val channel.val unit met)

end Sys2Proof.Machine
end

