-- ==== Sys2Proof/Machine/FaultCmds.lean ====
section
/-!
DEFINITION. The meanings of faults (15), one for each command.
-/
namespace Sys2Proof.Machine

/-- FAULT_RECORD_ARRIVAL (R434). -/
def execFaultRecordArrival (source : Page) (s : State) (how : Arrival := .arrived) : Host.Outcome State Fault Refusal :=
  act s (fun c => faultRecordArrival c source how)

/-- FAULT_PULSE_END (R449). -/
def execFaultPulseEnd (s : State) : Host.Outcome State Fault Refusal := act s faultPulseEnd

/-- GRACE_EXPIRY (R444). -/
def execGraceExpiry (seq : Word) (s : State) : Host.Outcome State Fault Refusal :=
  act s (fun c => graceExpiry c seq.toNat)

/-- FC_ACK (R446). -/
def execFcAck (seq : Word) (s : State) : Host.Outcome State Fault Refusal := driven s (fun c => fcAck c seq.toNat)

/-- FENCE_RELEASE (R442). -/
def execFenceRelease (blk : Fin 256) (s : State) : Host.Outcome State Fault Refusal :=
  driven s (fun c => fenceRelease c blk.val)

/-- FENCE_TEST_COMPLETE (R442). -/
def execFenceTestComplete (pass : Bool) (s : State) : Host.Outcome State Fault Refusal :=
  act s (fun c => fenceTestComplete c pass)

/-- D2D_CRC_RETRY (R439). -/
def execD2dCrcRetry (region : Fin 4) (group : Fin 8) (s : State) : Host.Outcome State Fault Refusal :=
  act s (fun c => d2dCrcRetry c region.val group.val)

/-- D2D_RETRAIN_COMPLETE (R439). -/
def execD2dRetrainComplete (region : Fin 4) (ok : Bool) (s : State) : Host.Outcome State Fault Refusal :=
  act s (fun c => d2dRetrainComplete c region.val ok)

/-- COX_WATCHDOG (R450). -/
def execCoxWatchdog (s : State) : Host.Outcome State Fault Refusal := act s coxWatchdog

end Sys2Proof.Machine
end

