-- ==== Sys2Proof/Machine/HostCmds.lean ====
section
/-!
DEFINITION. The meanings of partitions, functions and host accesses (12), one for each command.
-/
namespace Sys2Proof.Machine

/-- CREATE (R358). -/
def execCreate (p : Fin 16) (s : State) : Host.Outcome State Fault Refusal := drivenLive s (fun c => create c p.val)

/-- PARTITION_CREATED (R359). -/
def execPartitionCreated (p : Fin 16) (s : State) : Host.Outcome State Fault Refusal :=
  live s (fun c => partitionCreated c p.val)

/-- PARTITION_RESET (R362). -/
def execPartitionReset (via : Via) (p : Fin 16) (s : State) : Host.Outcome State Fault Refusal :=
  throughLive s via (fun c => partitionReset c via p.val)

/-- RELEASE (R367). -/
def execRelease (p : Fin 16) (s : State) : Host.Outcome State Fault Refusal := drivenLive s (fun c => release c p.val)

/-- RECLAIM (R370). -/
def execReclaim (via : Via) (p : Fin 16) (s : State) : Host.Outcome State Fault Refusal :=
  throughLive s via (fun c => reclaim c via p.val)

/-- TEARDOWN (R370). -/
def execTeardown (p : Fin 16) (s : State) : Host.Outcome State Fault Refusal := drivenLive s (fun c => teardown c p.val)

/-- HOLD_EXPIRY (R370). -/
def execHoldExpiry (p : Fin 16) (s : State) : Host.Outcome State Fault Refusal := live s (fun c => holdExpiry c p.val)

/-- FUNCTION_LEVEL_RESET (R363). -/
def execFunctionLevelReset (port : Fin 2) (fn : Fin 17) (cause : FlrCause) (s : State) : Host.Outcome State Fault Refusal :=
  act s (fun c => functionLevelReset c port.val fn.val cause)

/-- PERST_ASSERT (R361). -/
def execPerstAssert (port : Fin 2) (hot : Bool) (s : State) : Host.Outcome State Fault Refusal :=
  act s (fun c => perstAssert c port.val hot)

/-- PERST_DEASSERT (R472). -/
def execPerstDeassert (port : Fin 2) (s : State) (clock : Bool := true) : Host.Outcome State Fault Refusal :=
  act s (fun c => perstDeassert c port.val clock)

/-- SURPRISE_LINK_LOSS (R368). -/
def execSurpriseLinkLoss (port : Fin 2) (s : State) : Host.Outcome State Fault Refusal :=
  act s (fun c => surpriseLinkLoss c port.val)

/-- LINK_UP (R370). -/
def execLinkUp (port : Fin 2) (speed : Fin 8) (width : Fin 16) (flit : Bool) (s : State) : Host.Outcome State Fault Refusal :=
  act s (fun c => linkUp c port.val speed.val width.val flit)

/-- HOST_COMPLETION_TIMEOUT (R353). -/
def execHostCompletionTimeout (o : Origin) (s : State) : Host.Outcome State Fault Refusal :=
  live s (fun c => hostCompletionTimeout c o)

/-- CONFIG_REQUEST (R382). -/
def execConfigRequest (port : Fin 2) (fn : Fin 17) (a : ConfigAccess) (s : State) : Host.Outcome State Fault Refusal :=
  act s (fun c => configRequest c port.val fn.val a)

/-- BAR2_READ (R357). -/
def execBar2Read (port : Fin 2) (fn : Fin 17) (offset len : Nat) (s : State) : Host.Outcome State Fault Refusal :=
  act s (fun c => bar2Read c port.val fn.val offset len)

/-- BAR2_WRITE (R357). -/
def execBar2Write (port : Fin 2) (fn : Fin 17) (offset : Nat) (bytes : List Byte) (s : State) : Host.Outcome State Fault Refusal :=
  act s (fun c => bar2Write c port.val fn.val offset bytes)

/-- SPAD_WINDOW_READ (R494). -/
def execSpadWindowRead (port : Fin 2) (fn : Fin 17) (offset len : Nat) (s : State) : Host.Outcome State Fault Refusal :=
  act s (fun c => spadWindowRead c port.val fn.val offset len)

/-- SPAD_WINDOW_WRITE (R494). -/
def execSpadWindowWrite (port : Fin 2) (fn : Fin 17) (offset : Nat) (bytes : List Byte) (s : State) : Host.Outcome State Fault Refusal :=
  act s (fun c => spadWindowWrite c port.val fn.val offset bytes)

/-- ATOMICOP_REQUEST (R353). -/
def execAtomicOpRequest (port : Fin 2) (fn : Fin 17) (s : State) : Host.Outcome State Fault Refusal :=
  act s (fun c => atomicOpRequest c port.val fn.val)

end Sys2Proof.Machine
end

