-- ==== Sys2Proof/Machine/MeshCmds.lean ====
section
/-!
DEFINITION. The meanings of memory-side arithmetic, Serrun and the twin (11, 14), one for each command.
-/
namespace Sys2Proof.Machine

/-- MEM_UPDATE (R331). -/
def execMemUpdate (o : Origin) (b : Body) (s : State) : Host.Outcome State Fault Refusal :=
  carry s o (dmaOf o) 0x50 b (fun c => memUpdate c o b)

/-- MEM_FETCH (R331). -/
def execMemFetch (o : Origin) (b : Body) (s : State) : Host.Outcome State Fault Refusal :=
  carry s o (dmaOf o) 0x51 b (fun c => memFetch c o b)

/-- SRN_WRITE (R421). -/
def execSrnWrite (o : Origin) (b : Body) (s : State) : Host.Outcome State Fault Refusal :=
  carry s o (dmaOf o) 0x60 b (fun c => srnWrite c o b)

/-- SRN_READ (R421). -/
def execSrnRead (o : Origin) (b : Body) (s : State) : Host.Outcome State Fault Refusal :=
  carry s o (dmaOf o) 0x61 b (fun c => srnRead c o b)

/-- SRN_UPDATE (R421). -/
def execSrnUpdate (o : Origin) (b : Body) (s : State) : Host.Outcome State Fault Refusal :=
  carry s o (dmaOf o) 0x62 b (fun c => srnUpdate c o b)

/-- SRN_ALLREDUCE (R423). -/
def execSrnAllreduce (o : Origin) (b : Body) (s : State) : Host.Outcome State Fault Refusal :=
  carry s o (dmaOf o) 0x63 b (fun c => srnAllreduce c o b)

/-- SRN_SIGNAL (R421). -/
def execSrnSignal (o : Origin) (b : Body) (s : State) : Host.Outcome State Fault Refusal :=
  carry s o (dmaOf o) 0x64 b (fun c => srnSignal c o b)

/-- SRN_PACKET_ARRIVAL (R420). -/
def execSrnPacketArrival (port : Fin 5) (pkt : Packet) (s : State) : Host.Outcome State Fault Refusal :=
  live s (fun c => srnPacketArrival c port.val pkt)

/-- SRN_PACKET_FORWARD (R417). -/
def execSrnPacketForward (port : Fin 5) (pkt : Packet) (s : State) : Host.Outcome State Fault Refusal :=
  live s (fun c => srnPacketForward c port.val pkt)

/-- SRN_PACKET_DISCARD (R418). -/
def execSrnPacketDiscard (port : Fin 5) (pkt : Packet) (s : State) : Host.Outcome State Fault Refusal :=
  live s (fun c => srnPacketDiscard c port.val pkt)

/-- SRN_REFUSAL_ARRIVAL (R415). -/
def execSrnRefusalArrival (xfer : Nat) (reason : RefusalReason) (s : State) : Host.Outcome State Fault Refusal :=
  live s (fun c => srnRefusalArrival c xfer reason)

/-- SRN_ACK_ARRIVAL (R421). -/
def execSrnAckArrival (xfer : Nat) (data : Payload) (s : State) : Host.Outcome State Fault Refusal :=
  live s (fun c => srnAckArrival c xfer data)

/-- SRN_ACK_TIMEOUT (R421). -/
def execSrnAckTimeout (xfer : Nat) (s : State) : Host.Outcome State Fault Refusal :=
  live s (fun c => srnAckTimeout c xfer)

/-- SRN_COLL_TIMEOUT (R425). -/
def execSrnCollTimeout (xfer : Nat) (s : State) : Host.Outcome State Fault Refusal :=
  live s (fun c => srnCollTimeout c xfer)

/-- SRN_FRAME_CRC_FAIL (R409). -/
def execSrnFrameCrcFail (port : Fin 5) (group : Fin 4) (s : State) : Host.Outcome State Fault Refusal :=
  live s (fun c => srnFrameCrcFail c port.val group.val)

/-- SRN_RETRAIN_COMPLETE (R410). -/
def execSrnRetrainComplete (port : Fin 5) (s : State) : Host.Outcome State Fault Refusal :=
  live s (fun c => srnRetrainComplete c port.val)

/-- SRN_TRAINING_COMPLETE (R411). -/
def execSrnTrainingComplete (port : Fin 5) (s : State) : Host.Outcome State Fault Refusal :=
  live s (fun c => srnTrainingComplete c port.val)

/-- CREW_CARD_RECEIVED (R412). -/
def execCrewCardReceived (port : Fin 5) (card : BitVec 512) (s : State) : Host.Outcome State Fault Refusal :=
  live s (fun c => crewCardReceived c port.val card)

/-- SRN_RETRAIN (R410). -/
def execSrnRetrain (port : Fin 5) (s : State) : Host.Outcome State Fault Refusal :=
  drivenLive s (fun c => srnRetrain c port.val)

/-- CABLE_INSERT (R513). -/
def execCableInsert (port : Fin 5) (lanes : Nat) (s : State) : Host.Outcome State Fault Refusal :=
  act s (fun c => cableInsert c port.val lanes)

/-- CABLE_REMOVE (R513). -/
def execCableRemove (port : Fin 5) (s : State) : Host.Outcome State Fault Refusal :=
  act s (fun c => cableRemove c port.val)

/-- TWIN_ROLE_WRITE (R426). -/
def execTwinRoleWrite (p : Fin 16) (value : Word) (s : State) : Host.Outcome State Fault Refusal :=
  driven s (fun c => twinRoleWrite c p.val value.toNat)

/-- TWIN_RETIRE_FREE (R429). -/
def execTwinRetireFree (p : Fin 16) (s : State) : Host.Outcome State Fault Refusal :=
  live s (fun c => twinRetireFree c p.val)

/-- ROLE_NOTICE_RECEIVED (R426). -/
def execRoleNoticeReceived (tag : BitVec 16) (role : Fin 4) (s : State) : Host.Outcome State Fault Refusal :=
  live s (fun c => roleNoticeReceived c tag.toNat role.val)

/-- MIRROR_WRITE_ARRIVAL (R427). -/
def execMirrorWriteArrival (tag epoch : BitVec 16) (xfer : Nat) (w : Mirror) (s : State) : Host.Outcome State Fault Refusal :=
  live s (fun c => mirrorWriteArrival c tag.toNat epoch.toNat xfer w)

/-- TWIN_LINK_LOSS (R429). -/
def execTwinLinkLoss (s : State) : Host.Outcome State Fault Refusal := act s twinLinkLoss

/-- PLACE (R413). -/
def execPlace (m : Placement) (s : State) (via : Endpoint := .sideband) : Host.Outcome State Fault Refusal :=
  act s (fun c => mctpPlace c m via)

end Sys2Proof.Machine
end

