-- ==== Sys2Proof/Machine/Pages.lean ====
section
/-!
DEFINITION. The register pages as hosts read them (17): the maps of BAR0 (R489 to R492), the page states (R484, R485), the
registers whose value follows from the module's state, and reads (R479, R481, R365, R450).
-/
namespace Sys2Proof.Machine

/-! ### The maps (R489 to R492) -/

/-- Page `i` of a run of `n` pages that begins at index `first`. -/
def runAt (i first n : Nat) (f : Nat → Page) : Option Page := if first ≤ i ∧ i < first + n then some (f (i - first)) else none

/-- The page with index `i` of the management PF0's BAR0 (Table 17-5). -/
def pageOfIndex (i : Nat) : Option Page :=
  let single := fun (k : Nat) (p : Page) => runAt i k 1 (fun _ => p)
  (([single 0 .hub, single 1 .cox, single 2 .sec, single 3 .fc, single 4 .pm, single 5 .spadWin, runAt i 0x8 2 .pci,
    runAt i 0x10 5 .srn, runAt i 0x20 16 .tb, single 0x30 .fwSl, runAt i 0x40 16 .part,
    runAt i 0x100 1024 (fun k => .sq (k / 64) (k % 64)), runAt i 0x1000 4 .rein, runAt i 0x1008 4 .skv, runAt i 0x1010 4 .pw,
    runAt i 0x1018 4 .sl, runAt i 0x1020 16 .hbm, runAt i 0x1100 16 .qf, runAt i 0x1110 16 .fin, runAt i 0x1200 256 .blk,
    runAt i 0x1300 256 .spb] : List (Option Page)).filterMap id).head?

/-- The page at a virtual function's BAR0 offset, for the bound partition `p` (Table 17-7). -/
def vfPage (port fn p off : Nat) : Option Page :=
  let i := off / 4096
  if i = 0 then some (.part p) else if i = 1 then some (.vfWin port fn) else runAt i 0x10 64 (.sq p)

/-- What a host access to BAR0 reaches: a page, nothing at a reserved offset, or no partition's pages (R492). -/
inductive Reach
  | page (pg : Page)
  | copy
  | reserved
  | unbound
  | absent
deriving DecidableEq, Repr

/-- The page that a function reaches at a BAR0 offset; `copy`: the hub page's copy on the other port (R491). -/
def reach (s : Chip) (via : Via) (off : Nat) : Reach :=
  match via with
  | .pf port =>
    if port.val = mgmtPort s then (match pageOfIndex (off / 4096) with
      | some pg => .page pg
      | none => .reserved)
    else if off < 4096 then .copy else .absent
  | .vf port n =>
    if n.val = 0 ∨ !(funcPresent s port.val n.val) then .absent
    else match partOf s port.val n.val with
      | none => .unbound
      | some p => match vfPage port.val n.val p off with
        | some pg => .page pg
        | none => .reserved

/-- Do the page's registers answer: the hub on, and in FATAL the fault collector and security pages only (R450)? -/
def pageAnswers (s : Chip) (pg : Page) : Bool := hubOn s && (!(inFatal s) || pg == .fc || pg == .sec)

/-! ### Capabilities (Table 17-3, R477, R485, R486) -/

/-- Does the page have PAGE_CAP.QUIESCE? -/
def canQuiesce : Page → Bool
  | .blk _ => true
  | .fin _ => true
  | .rein _ => true
  | .skv _ => true
  | _ => false

/-- Does the page have PAGE_CAP.LOCAL_RESET? -/
def canReset : Page → Bool
  | .sq _ _ => false
  | .part _ => false
  | .spadWin => false
  | .vfWin _ _ => false
  | .sec => false
  | _ => true

/-- Does the page have PAGE_CAP.PWR? -/
def canPower : Page → Bool
  | .blk _ => true
  | .fin _ => true
  | .spb _ => true
  | _ => false

/-- PAGE_CAP. -/
def pageCap (pg : Page) : Nat :=
  let bit1 := fun (b : Bool) (n : Nat) => if b then 2 ^ n else 0
  bit1 (canQuiesce pg) 0 + bit1 (canReset pg) 1 + bit1 (canPower pg) 2 + (match pg with
    | .sq p _ => p * 2 ^ 16
    | .vfWin port _ => port * 2 ^ 16
    | _ => 0)

/-- Does the field of PWR_CTRL exist in the page (R477)? -/
def powerField (pg : Page) (f : Field) : Bool :=
  match pg with
  | .blk _ => true
  | .fin _ => f != Reg.PWR_CTRL_OFF_MS && f != Reg.PWR_STAT_TEMP_C
  | .spb _ => f == Reg.PWR_CTRL_RETAIN_US
  | _ => false

/-- PWR_CTRL or PWR_STAT as the page reads it. -/
def powerWord (s : Chip) (pg : Page) (off : Nat) : Nat :=
  let v := ((Reg.fieldsAt pg off).filter (powerField pg)).foldl (fun a f => a + rd s pg f * 2 ^ f.lo) 0
  match pg with
  | .fin q => if off = 0x038 then v + finPower s q else v
  | _ => v

/-! ### Page states (Table 17-4) -/

/-- Has an engine of the page a command that is issued and not done? -/
def pageIssued (s : Chip) (pg : Page) : Bool :=
  s.q.jobs.any (fun j => j.cmds.any (fun c => unfinished c && c.copies.any (fun k => enginePage k.engine == pg
    && engineType k.engine != 7 && k.fate == .issued)))

/-- The partition that holds region `r` whole, whose slice it is (R260). -/
def sliceOwner (s : Chip) (r : Nat) : Option Nat := (List.range 16).find? (fun p => (wholeRegions s p).contains r)

/-- Does the unit hold work in flight (Table 17-4)? -/
def pageBusy (s : Chip) (pg : Page) : Bool :=
  match pg with
  | .blk b => pageIssued s pg || (block s b).wait.isSome
  | .fin q => pageIssued s pg || s.prec.items.any (fun i => i.blk / 16 == q)
  | .rein _ => pageIssued s pg
  | .skv _ => pageIssued s pg
  | .pw r => s.kv.walks.any (fun w => w.region == r)
  | .sl r => (sliceOwner s r).any (fun p => (serve s p).step.isSome)
  | .fwSl => (List.range 16).any (fun p => fwTracked s p && (serve s p).step.isSome)
  | .hbm u => rd s pg Reg.HBM_STAT_RETIRE_STATE == 2 || rd s (.hbm u) Reg.HBM_SCRUB_STAT_BUSY == 1
  | .tb _ => rd s (.tb 0) Reg.TB_SCRUB_STAT_BUSY == 1
  | .spb b => s.fills.any (fun f => f.bank == b)
  | .qf q => s.q.jobs.any (fun j => j.quad == q)
  | .fc => s.faults.testing.isSome
  | .part p => [1, 4, 5].contains (partState s p)
  | .sq p n => s.q.jobs.any (fun j => j.part == p && j.queue == n)
  | .srn port => s.mesh.xfers.any (fun x => x.port == port)
  | .pm => rd s .pm Reg.PM_STAT_ENTERING == 1
  | .sec => s.sec.processing.isSome || s.sec.reading.isSome
  | _ => false

/-- The region of a page that belongs to one. -/
def pageRegion : Page → Option Nat
  | .rein r => some r
  | .skv r => some r
  | .pw r => some r
  | .sl r => some r
  | .hbm u => some (u / 4)
  | .qf q => some (q / 4)
  | .fin q => some (q / 4)
  | .blk b => some (b / 64)
  | .spb b => some (b / 64)
  | _ => none

/-- Is a wake of the unit or its region in progress? -/
def pageWaking (s : Chip) (pg : Page) : Bool :=
  (pageRegion pg).any (kmem s.power.waking) || (match pg with
    | .blk b => kmem s.power.blockWaking b
    | _ => false)

/-- Is the page ASLEEP? -/
def pageAsleep (s : Chip) (pg : Page) : Bool :=
  (pageRegion pg).any (fun r => !(regionAwake s r)) || (match pg with
    | .blk b => blockPower s b == 1 || blockPower s b == 2
    | _ => false)

/-- Is the block or bank fenced? -/
def pageFenced (s : Chip) : Page → Bool
  | .blk b => blockFenced s b
  | .spb b => bankFenced s b
  | _ => false

/-- Is the block or bank in OFF? -/
def pageOff (s : Chip) : Page → Bool
  | .blk b => blockPower s b == 3
  | .spb b => bankPower s b == 3
  | _ => false

/-- Is the page quiescing: ENABLE is honoured and 0? -/
def quiescing (s : Chip) (pg : Page) : Bool := canQuiesce pg && rd s pg Reg.PAGE_CTRL_ENABLE == 0

/-- PAGE_STAT.STATE: the first state of Table 17-4 whose condition holds (R484). -/
def pageState (s : Chip) (pg : Page) : Nat :=
  if pageFenced s pg then 6
  else if pageOff s pg then 0
  else if pageWaking s pg then 2
  else if pageAsleep s pg then 1
  else if quiescing s pg then 5
  else if pageBusy s pg then 4
  else 3

/-- PAGE_STAT.DRAINED: ENABLE is 0 and no work of the unit is in flight. -/
def drained (s : Chip) (pg : Page) : Bool := quiescing s pg && !(pageBusy s pg)

/-- PAGE_STAT. -/
def pageStat (s : Chip) (pg : Page) : Nat :=
  pageState s pg + (if drained s pg then 128 else 0) + rd s pg Reg.PAGE_STAT_RESET_REFUSED * 64

/-! ### Registers that follow from the state -/

/-- The directory (Table 17-5): type, count and first page index of each entry. -/
def directory : List (Nat × Nat × Nat) :=
  [(0x0001, 1, 0x0), (0x0002, 1, 0x1), (0x0003, 1, 0x2), (0x0004, 1, 0x3), (0x0005, 1, 0x4), (0x0006, 1, 0x5), (0x0008, 2, 0x8),
   (0x0009, 5, 0x10), (0x000A, 16, 0x20), (0x000B, 1, 0x30), (0x000C, 16, 0x40)] ++
  [(0x000D, 1024, 0x100), (0x0010, 4, 0x1000), (0x0011, 4, 0x1008), (0x0012, 4, 0x1010), (0x0013, 4, 0x1018),
   (0x0014, 16, 0x1020), (0x0020, 16, 0x1100), (0x0021, 16, 0x1110), (0x0022, 256, 0x1200), (0x0023, 256, 0x1300)]

/-- The hub page (Table 17-10). -/
def hubReg (s : Chip) (off : Nat) : Nat :=
  let e := directory.getD (rd s .hub Reg.HUB_DIR_SEL_ENTRY) (0, 0, 0)
  if off = 0x044 then revisionWord s
  else if off = 0x064 then e.1 * 2 ^ 16 + e.2.1
  else if off = 0x068 then (if e.1 = 0 then 0 else e.2.2 * 2 ^ 16 + 1)
  else regWord s .hub off

/-- COX_STAT (Table 17-11): milliseconds of local time since the firmware began to run, and the partitions that it tracks. -/
def coxStat (s : Chip) : Nat :=
  let ms := (s.now - s.power.startedAt) / 1000000 - rd s .pm Reg.PM_BOOT_STAT_FW_MS
  let n := ((List.range 16).filter (fun p => !(quadsOf s p).isEmpty && fwTracked s p)).length
  (if s.sec.booted then ms % 2 ^ 16 else 0) * 2 ^ 16 + n

/-- Word `n` of SEC_MEAS_DATA (Table 13-13): measurements 0 to 3; an index beyond them shows zero. -/
def measWord (s : Chip) (n : Nat) : Nat :=
  let v := [s.sec.m0, s.sec.m1, s.sec.m2, s.sec.m3].getD (rd s .sec Reg.SEC_MEAS_SEL_INDEX) 0
  v / 2 ^ (32 * n) % 2 ^ 32

/-- Word `n` of FC_REC_DATA: the record of SEQ FC_REC_SEL, or zero where the collector no longer holds it (Table 15-9). -/
def recWord (s : Chip) (n : Nat) : Nat :=
  match logged s (rd s .fc Reg.FC_REC_SEL_SEQ) with
  | some r => (recordWords r).getD n 0
  | none => 0

/-- HUB_PART_STATE (Table 12-8). -/
def partStateWord (s : Chip) (p : Nat) : Nat :=
  let b := boundFunc s p
  let on := partState s p != 0
  regWord s (.part p) 0x054 + (if on && funcPresent s b.1 b.2 then 2 ^ 28 else 0) + (if on && dlUp s b.1 then 2 ^ 27 else 0)

/-- HUB_PART_HOLD.LEFT: milliseconds of the hold that are left. -/
def holdLeft (s : Chip) (p : Nat) : Nat :=
  match tget s.hosts.holds p with
  | some e => cdiv (e - s.now) 1000000
  | none => 0

/-- The job whose command the engine carries out now: its tag and partition. -/
def engineJob (s : Chip) (e : Engine) : Nat × Nat :=
  match s.q.jobs.find? (fun j => j.cmds.any (fun c => unfinished c && c.copies.any (fun k => k.engine == e && k.fate == .issued))) with
  | some j => (j.tag, j.part)
  | none => (0, 0)

/-- REIN_STAT or SKV_STAT: the command in progress and the job contexts in use. -/
def engineStat (s : Chip) (e : Engine) : Nat :=
  let j := engineJob s e
  j.1 * 2 ^ 16 + j.2 * 2 ^ 12 + min (tgetD s.q.contexts (engineNo e) []).length 16

/-- Commands that wait in an engine's queue. -/
def queuedOf (s : Chip) (e : Engine) : Nat :=
  (s.q.jobs.map (fun j => (j.cmds.filter (fun c => unfinished c && c.copies.any (fun k => k.engine == e && k.fate == .queued))).length)).sum

/-- Commands of a quad's jobs that wait in an engine's queue. -/
def queuedFrom (s : Chip) (q : Nat) (e : Engine) : Nat :=
  ((s.q.jobs.filter (fun j => j.quad == q)).map (fun j =>
    (j.cmds.filter (fun c => unfinished c && c.copies.any (fun k => k.engine == e && k.fate == .queued))).length)).sum

/-- A block as an index of its quad. -/
def blockFin (b : Nat) : Fin 256 := ⟨b % 256, Nat.mod_lt _ (by decide)⟩

/-- QF_DEPTH (Table 06-14): each field saturates at 15. -/
def depthWord (s : Chip) (q : Nat) : Nat :=
  let top := fun (f : Fin 256 → Engine) => ((blocksOf q).map (fun b => queuedOf s (f (blockFin b)))).foldl max 0
  let r := regionFin (q / 4)
  let l := [top .stroke, top .burnisher, queuedOf s (.fin (quadFin q)), queuedOf s (.dma (quadFin q)),
    queuedOf s (.sync (quadFin q)), queuedFrom s q (.rein r), queuedFrom s q (.skive r)]
  l.foldr (fun v a => min v 15 + 16 * a) 0

/-- QF_SHARE_USED (R207, R208): zero with debug CLOSED. -/
def shareUsed (s : Chip) (q : Nat) : Nat :=
  if debugState s = 0 then 0
  else tgetD s.q.raw (rawKey q (rd s (.qf q) Reg.QF_SHARE_SEL_TYPE) (rd s (.qf q) Reg.QF_SHARE_SEL_GROUP)) 0 % 2 ^ 64

/-- Is the quad its partition's lead quad (R227, R142)? -/
def isLead (s : Chip) (q : Nat) : Bool := (quadOwner s q).any (fun p => leadQuad s p == q)

/-- The registers of a quad front that only a lead quad keeps. -/
def leadOnly (off : Nat) : Bool := decide (0x200 ≤ off ∧ off ≤ 0x218) || decide (0x300 ≤ off ∧ off ≤ 0x308)

/-- A quad front page. -/
def qfReg (s : Chip) (q off : Nat) : Nat :=
  if leadOnly off && !(isLead s q) then 0
  else if off = 0x048 then depthWord s q
  else if off = 0x234 then shareUsed s q % 2 ^ 32
  else if off = 0x238 then shareUsed s q / 2 ^ 32
  else regWord s (.qf q) off

/-- FIN_STAT (Table 04-15): the command in progress, or where none is the oldest BF16 rung work. A GATHER_ROWS, to which the
table gives no code, shows 1 (DESIGN CHOICE, log 122). -/
def finStat (s : Chip) (q : Nat) : Nat :=
  let e := Engine.fin (quadFin q)
  let run := (s.q.jobs.flatMap (fun j => j.cmds)).find? (fun c => unfinished c && c.copies.any (fun k => k.engine == e && k.fate == .issued))
  let items := s.prec.items.filter (fun i => i.blk / 16 == q)
  let now : Nat × Nat := match run, items with
    | some c, _ => ((engineJob s e).1, if finOp (bodyOf c.raw) = 1 then 2 else 1)
    | none, i :: _ => (i.origin.tag.toNat, 3)
    | none, [] => ((engineJob s e).1, 0)
  now.1 * 2 ^ 16 + min (queuedOf s e + items.length) 255 * 2 ^ 8 + now.2

/-- BLK_ACC_FENCE.WAITING (Table 04-12): the sets on which the block's Stroke issue waits. -/
def waitingSets (s : Chip) (b : Nat) : Nat :=
  match (block s b).wait with
  | some w => (w.sets.filter (fun k => setLive s b k && setNarrow s b k != bb w.body 0x20 23)).foldl (fun a k => a + 2 ^ k) 0
  | none => 0

/-- A page walker page (R258). -/
def pwReg (s : Chip) (r off : Nat) : Nat :=
  let p := rd s (.pw r) Reg.PW_PART_SEL_PARTITION
  let k := kvPart s p
  if off = 0x044 then
    min (s.kv.walks.filter (fun w => w.region == r)).length 65535 * 2 ^ 16 + (s.kv.lab.filter (fun e => e.region == r)).length
  else if 0x054 ≤ off ∧ off ≤ 0x078 then
    if (quadsOf s p).isEmpty || allocRegion s p != r then 0
    else [k.epoch, k.epoch / 2 ^ 32, oldest s p, oldest s p / 2 ^ 32, k.freeA, k.freeB, k.tailA - k.headA, k.tailB - k.headB, 0,
      k.models.foldl (fun a e => a + 2 ^ (16 + e.1)) 0 + k.rejected.foldl (fun a m => a + 2 ^ m) 0].getD ((off - 0x054) / 4) 0 % 2 ^ 32
  else regWord s (.pw r) off

/-- A Skive engine page. -/
def skvReg (s : Chip) (r off : Nat) : Nat :=
  if off = 0x040 then engineStat s (.skive (regionFin r))
  else if off = 0x06C then
    regWord s (.skv r) off + (List.range 16).foldl (fun a p => if (slotCtx s r p).isSome then a + 2 ^ (16 + p) else a) 0
  else regWord s (.skv r) off

/-- SL_STAT of a partition (Table 09-14). -/
def slStat (s : Chip) (p : Nat) : Nat :=
  let down := slCfg s p Reg.SL_CFG_ENABLE == 1 && queueState s p (slCfg s p Reg.SL_CFG_STEP_QUEUE) != 1
  (if down then 2 ^ 18 else 0) + (if (serve s p).step.isSome then 2 ^ 17 else 0) + (serve s p).slots.length % 2 ^ 17

/-- A register of the Start list of partition `p` whose selector stands in page `sel` and whose registers stand in `pg`. -/
def slReg (s : Chip) (p : Nat) (pg sel : Page) (off : Nat) : Nat :=
  let h := rd s sel Reg.SL_SLOT_SEL_HANDLE
  if off = 0x044 then slStat s p
  else if off = 0x088 then (serve s p).stepNo % 2 ^ 32
  else if off = 0x08C then (serve s p).stepNo / 2 ^ 32 % 2 ^ 32
  else if 0x100 ≤ off ∧ off < 0x180 then (slotImage s p (slotKey (bits h 31 30) (bits h 29 16))).getD ((off - 0x100) / 4) 0
  else regWord s pg off

/-- Which registers of a slice that is not the lead slice answer (R295). -/
def sliceKeeps (off : Nat) : Bool := off == 0x044 || off == 0x0A4 || decide (0x100 ≤ off ∧ off < 0x180)

/-- A Start list slice page (R295). -/
def sliceReg (s : Chip) (r off : Nat) : Nat :=
  match sliceOwner s r with
  | none => 0
  | some p =>
    if decide (0x0AC ≤ off ∧ off < 0x0B8) || (slPage s p != .sl r && !(sliceKeeps off)) then 0
    else slReg s p (.sl r) (.sl r) off

/-- The firmware Start list page: the registers of the partition in SL_PART_SEL (R261). -/
def fwReg (s : Chip) (off : Nat) : Nat :=
  let p := rd s .fwSl Reg.SL_PART_SEL_PARTITION
  if off = 0x0AC then p else slReg s p (.fwPart p) (.fwPart p) off

/-- The tier B page: every controller shows the power state and its own counts; the rest stands in the first (R350). -/
def tbReg (s : Chip) (c off : Nat) : Nat :=
  let n := rd s (.tb 0) Reg.TB_SLICE_SEL_SLICE
  if c ≠ 0 ∧ off ≠ 0x044 ∧ off ≠ 0x04C then 0
  else if off = 0x054 then
    let e := sliceEntry s n
    (if e.valid then 2 ^ 31 else 0) + (if e.ro then 2 ^ 30 else 0) + (if e.retired then 2 ^ 29 else 0) + e.owner % 16
  else if off = 0x058 then
    let w := windowNow s (resSlice n) (1000000000 * rd s (.tb 0) Reg.TB_ECC_CFG_WINDOW)
    min w.ce 65535 * 2 ^ 16 + min w.ue 255 * 2 ^ 8 + rd s (.tb 0) Reg.TB_SLICE_STAT_REASON
  else regWord s (.tb c) off

/-- An HBM controller page (R349). -/
def hbmReg (s : Chip) (u off : Nat) : Nat :=
  if off = 0x054 then
    let w := windowNow s (resChannel u (rd s (.hbm u) Reg.HBM_CH_SEL_CHANNEL)) (1000000000 * rd s (.hbm u) Reg.HBM_ECC_CFG_WINDOW)
    min w.ce 65535 * 2 ^ 16 + min w.ue 255 * 2 ^ 8
  else regWord s (.hbm u) off

/-- A register of a page, from 0x040 on. -/
def unitReg (s : Chip) (pg : Page) (off : Nat) : Nat :=
  match pg with
  | .hub => hubReg s off
  | .cox => if off = 0x044 then coxStat s else regWord s pg off
  | .sec => if 0x0C4 ≤ off ∧ off < 0x0E4 then measWord s ((off - 0x0C4) / 4) else regWord s pg off
  | .fc =>
    if off = 0x068 then (s.faults.pending.head?.map (fun x => x.seq)).getD 0
    else if 0x080 ≤ off ∧ off < 0x0C0 then recWord s ((off - 0x080) / 4)
    else regWord s pg off
  | .pm => if off = 0x054 then s.now % 2 ^ 32 else if off = 0x058 then s.now / 2 ^ 32 % 2 ^ 32 else regWord s pg off
  | .part p => if off = 0x054 then partStateWord s p else if off = 0x068 then holdLeft s p else regWord s pg off
  | .rein r => if off = 0x044 then engineStat s (.rein (regionFin r)) else regWord s pg off
  | .skv r => skvReg s r off
  | .pw r => pwReg s r off
  | .sl r => sliceReg s r off
  | .fwSl => fwReg s off
  | .hbm u => hbmReg s u off
  | .tb c => tbReg s c off
  | .qf q => qfReg s q off
  | .fin q => if off = 0x044 then finStat s q else regWord s pg off
  | .blk b => if off = 0x068 then regWord s pg off + waitingSets s b * 2 ^ 24 else regWord s pg off
  | .srn port => if port ≠ 0 ∧ 0x100 ≤ off then 0 else regWord s pg off
  | _ => regWord s pg off

/-- The key of a register, for the tables of held and latched words. -/
def regKey (pg : Page) (off : Nat) : Nat := pageIndex pg * 1024 + off / 4

/-- The value of HI that a read of LO has latched (R481); QF_SHARE_USED reads zero with debug CLOSED all the same (R207). -/
def latched (s : Chip) (pg : Page) (off : Nat) : Option Nat :=
  match pg with
  | .qf _ => (tget s.latchHi (regKey pg off)).map (fun v => if debugState s = 0 then 0 else v)
  | _ => tget s.latchHi (regKey pg off)

/-- A register's value as it stands. -/
def liveReg (s : Chip) (pg : Page) (off : Nat) : Nat := if off < 0x040 then regWord s pg off else unitReg s pg off

/-- A register of a page as a read returns it (R13, R481, Table 17-3). -/
def readReg (s : Chip) (pg : Page) (off : Nat) : Nat :=
  if off = 0x000 then pageId pg
  else if off = 0x004 then pageCap pg
  else if off = 0x00C then pageStat s pg
  else if off = 0x018 then regWord s pg 0x010
  else if off = 0x034 ∨ off = 0x038 then powerWord s pg off
  else (latched s pg off).getD (liveReg s pg off)

/-! ### Reads (R479, R481) -/

/-- Is this a page with a header of its own in the management PF0's BAR0 (R489)? -/
def headerPage (pg : Page) : Bool := decide (pageOfIndex (pageIndex pg) = some pg)

/-- The LO registers of read-only pairs whose read latches HI (R481). -/
def latchOffsets : Page → List Nat
  | .blk _ => [0x054]
  | .fin _ => [0x048]
  | .spb _ => [0x060]
  | .rein _ => [0x048, 0x050]
  | .pw _ => [0x054, 0x05C]
  | .sl _ => [0x088]
  | .fwSl => [0x088]
  | .skv _ => [0x044, 0x04C, 0x054]
  | .qf _ => [0x234]
  | .pm => [0x054, 0x074]
  | .sec => [0x0A0]
  | _ => []

/-- A read latches HI where it is of LO of a read-only pair: one of the page's own, or ERR_ADDR of the common header. -/
def latch (s : Chip) (pg : Page) (off : Nat) : Chip :=
  if (latchOffsets pg).contains off || (off == 0x02C && headerPage pg) then
    { s with latchHi := tset s.latchHi (regKey pg (off + 4)) (liveReg s pg (off + 4)) }
  else s

/-- What a read of ones returns (R365, R450, R492). -/
def onesWord : Nat := 2 ^ 32 - 1

/-- Does the access to the page meet a partition in SCRUBBING, through its virtual function (R365)? -/
def scrubbed (s : Chip) (via : Via) : Bool :=
  match via with
  | .pf _ => false
  | .vf port n => (partOf s port.val n.val).any (fun p => partState s p == 4)

/-- A read of a page through a function: its value, and the state after it. -/
def pageRead (s : Chip) (via : Via) (pg : Page) (off : Nat) : Nat × Chip :=
  let shown := match pg with
    | .part _ => [0x054, 0x058, 0x05C, 0x068].contains off
    | _ => false
  if !(pageAnswers s pg) || (scrubbed s via && !shown) then (onesWord, s) else (readReg s pg off, latch s pg off)

/-- A 32-bit read of BAR0 through a function (R479, R489 to R492). -/
def viaRead (s : Chip) (via : Via) (off : Nat) : Nat × Chip :=
  match reach s via off with
  | .page pg => pageRead s via pg (off % 4096)
  | .copy => if inFatal s then (onesWord, s) else (readReg s .hub (off % 4096), s)
  | .reserved => (if inFatal s || scrubbed s via then onesWord else 0, s)
  | .unbound => (onesWord, s)
  | .absent => (0, s)

/-- LATCHING_LO_READ (R479, R481): the completion returns a whole register; LO of a read-only pair latches HI. -/
def latchingLoRead (s : Chip) (via : Via) (off : Nat) : Chip :=
  if !(hubOn s) || off % 4 != 0 || reach s via off == .absent then s
  else
    let r := viaRead s via off
    emit r.2 (.register r.1)

end Sys2Proof.Machine
end

