-- ==== Sys2Proof/Machine/PageOps.lean ====
section
/-!
DEFINITION. Writes of the register pages (17): the common header (R485 to R488), the counters' clears, and every register of
the pages by its access code (Table 00-3) and its chapter.
-/
namespace Sys2Proof.Machine

/-! ### The common header (R485 to R488) -/

/-- Does a header write of the management PF0 reach the page? -/
def headerOpen (s : Chip) (pg : Page) : Bool := headerPage pg && pageAnswers s pg

/-- The bits that the page's fields at `off` take up (R483). -/
def definedBits (pg : Page) (off : Nat) : Nat :=
  (Reg.fieldsAt pg off).foldl (fun a f => a ||| ((2 ^ width f - 1) * 2 ^ f.lo)) 0

/-- After a write that leaves the summary at 1, the vector goes out again (R487). -/
def vectorAgain (s : Chip) (pg : Page) : Chip := if summary s pg then pageVector s pg else s

/-- Clear the one-bit fields at `off` for which `v` holds a 1 (Table 00-3). -/
def clearOnes (s : Chip) (pg : Page) (off v : Nat) : Chip :=
  ((Reg.fieldsAt pg off).filter (fun f => bit v f.lo)).foldl (fun t f => wr t pg f 0) s

/-- IRQ_STAT_CLEAR (R487): a W1C write of IRQ_STAT or ERR_STAT. -/
def irqStatClear (s : Chip) (pg : Page) (err : Bool) (v : Nat) : Chip :=
  if headerOpen s pg then vectorAgain (clearOnes s pg (if err then 0x01C else 0x010) v) pg else s

/-- The interrupt flags of a page; those of tier B stand in its first page alone (R350). -/
def irqFields (pg : Page) : List Field :=
  match pg with
  | .tb c => if c = 0 then Reg.fieldsAt pg 0x010 else []
  | _ => Reg.fieldsAt pg 0x010

/-- IRQ_SET (Table 17-3, R487). -/
def irqSet (s : Chip) (pg : Page) (v : Nat) : Chip :=
  if headerOpen s pg then
    raised (summary s pg) (((irqFields pg).filter (fun f => bit v f.lo)).foldl (fun t f => wr t pg f 1) s) pg
  else s

/-- INTERRUPT_MASK_WRITE (R487): a write of IRQ_EN or ERR_MASK. -/
def interruptMaskWrite (s : Chip) (pg : Page) (err : Bool) (v : Nat) : Chip :=
  if headerOpen s pg then
    vectorAgain (if err then wr s pg Reg.ERR_MASK_MASK (v &&& definedBits pg 0x01C)
      else wr s pg Reg.IRQ_EN_EN (v &&& definedBits pg 0x010)) pg
  else s

/-! ### Counters that clear (the *_COUNT_CLEAR registers) -/

/-- Every field of the registers at the offsets returns to its reset value. -/
def resetAll (s : Chip) (pg : Page) (l : List Nat) : Chip := l.foldl (fun t o => resetAt t pg o) s

/-- Clear the Girth counters of a unit's page, with what they hold below one unit. -/
def clearGirth (s : Chip) (u : Nat) : Chip :=
  (List.range 16).foldl (fun t p =>
    let t := if (tget t.girth (girthNo u p)).isSome then setGirth t u p { girthOf t u p with bytesRest := 0, stallRest := 0 } else t
    if u < 16 then wrAll t (.hbm u) [(Reg.HBM_GIRTH_BYTES_UNITS p, 0), (Reg.HBM_GIRTH_STALL_UNITS p, 0)]
    else wrAll t (.tb 0) [(Reg.TB_GIRTH_BYTES_UNITS p, 0), (Reg.TB_GIRTH_STALL_UNITS p, 0)]) s

/-- The windows of tier B's slices close (R437): the counts that its first page shows are theirs. -/
def closeSlices (s : Chip) (c : Nat) : Chip := if c = 0 then closeSpan s (resSlice 0) 1024 else s

/-- The windows of an engine's buffer rows close (R437, R438). -/
def closeRows (s : Chip) (engine : Nat) : Chip := closeSpan s (resRow engine 0) 4096

/-- Clear the counters that bit `n` of the page's COUNT_CLEAR register names (Tables 03-7 to 17-11). -/
def clearSet (s : Chip) (pg : Page) (n : Nat) : Chip :=
  match pg, n with
  | .cox, 0 => resetAt s pg 0x048
  | .fc, 0 => wrAll s pg [(Reg.FC_STAT_PEND_FULL, 0), (Reg.FC_STAT_LOST, 0)]
  | .fc, 1 => resetAt s pg 0x06C
  | .pm, 0 => wr (resetAt s pg 0x094) pg Reg.PM_REGION_STAT_WAKES 0
  | .pm, 1 => wr s pg Reg.PM_POWER_PEAK_DW 0
  | .pci _, 0 => resetAt s pg 0x048
  | .srn port, 0 => closeSpan (resetAll s pg [0x04C, 0x05C]) (resLane port 0) 4
  | .srn port, 1 => resetAll s pg (if port = 0 then [0x050, 0x120] else [0x050])
  | .srn _, 2 => resetAll s pg [0x054, 0x058]
  | .tb c, 0 => closeSlices (resetAt s pg 0x04C) c
  | .tb c, 1 => if c = 0 then resetAt s pg 0x05C else s
  | .tb c, 2 => if c = 0 then clearGirth s 16 else s
  | .hbm u, 0 => closeSpan (resetAt s pg 0x04C) (resChannel u 0) 32
  | .hbm _, 1 => resetAll s pg [0x060, 0x064]
  | .hbm u, 2 => clearGirth s u
  | .sl _, 0 => resetAll s pg [0x094, 0x098]
  | .sl _, 1 => resetAt s pg 0x09C
  | .sl _, 2 => resetAt s pg 0x0A0
  | .fwPart _, 0 => resetAll s pg [0x094, 0x098]
  | .fwPart _, 1 => resetAt s pg 0x09C
  | .fwPart _, 2 => resetAt s pg 0x0A0
  | .rein _, 0 => resetAll s pg [0x048, 0x04C, 0x050, 0x054, 0x058, 0x05C, 0x060]
  | .rein _, 1 => resetAll s pg [0x064, 0x068]
  | .rein r, 2 => closeRows (resetAt s pg 0x06C) (reinBuffer r)
  | .rein _, 3 => resetAll s pg ((span 0x20 32).map (fun i => 4 * i) ++ [0x104])
  | .skv _, 0 => resetAll s pg [0x044, 0x048, 0x04C, 0x050, 0x054, 0x058, 0x05C]
  | .skv _, 1 => resetAt s pg 0x060
  | .skv r, 2 => closeRows (resetAt s pg 0x064) (skiveBuffer r)
  | .pw _, 0 => resetAll s pg [0x048, 0x04C]
  | .pw _, 1 => resetAt s pg 0x080
  | .pw _, 2 => resetAt s pg 0x084
  | .qf _, 0 => resetAt s pg 0x04C
  | .qf _, 1 => wr s pg Reg.QF_WAIT_TIMEOUTS 0
  | .fin _, 0 => resetAll s pg [0x048, 0x04C]
  | .fin _, 1 => resetAt s pg 0x050
  | .fin q, 2 => closeRows (resetAt s pg 0x054) (finBuffer q)
  | .blk _, 0 => resetAll s pg ((span 0x20 32).map (fun i => 4 * i) ++ [0x104])
  | .blk b, 1 => closeWindow (resetAt s pg 0x04C) (resBlock b)
  | .blk _, 2 => resetAt s pg 0x050
  | .blk _, 3 => resetAll s pg [0x05C, 0x060, 0x064]
  | .spb b, 0 => closeWindow (resetAt s pg 0x058) (resBank b)
  | .spb _, 1 => wr (resetAt s pg 0x05C) pg Reg.SPB_STAT_LOST 0
  | .spb _, 2 => resetAll s pg [0x060, 0x064]
  | _, _ => s

/-- The pages that a write of a Start list page's registers reaches: the lead slice's own, or those of the partition that
SL_PART_SEL names (R295, R261); none for another slice. -/
def slTarget (s : Chip) (pg : Page) : Option Page :=
  match pg with
  | .sl r => match sliceOwner s r with
    | some p => if slPage s p = .sl r then some (.sl r) else none
    | none => none
  | .fwSl => some (.fwPart (rd s .fwSl Reg.SL_PART_SEL_PARTITION))
  | _ => some pg

/-- Clear the counters that `v` selects. -/
def clearSets (s : Chip) (pg : Page) (v : Nat) : Chip :=
  ((List.range 4).filter (fun n => bit v n)).foldl (fun t n => clearSet t pg n) s

/-- COUNT_CLEAR: a write of a page's COUNT_CLEAR register. The security page has none. -/
def countClear (s : Chip) (pg : Page) (v : Nat) : Chip :=
  if headerOpen s pg then
    match slTarget s pg with
    | some t => clearSets s t v
    | none => s
  else s

/-! ### Local reset, quiesce and enable (R485, R486) -/

/-- QF_SHARE_USED of a quad front counts from zero again (R227). -/
def clearUsed (s : Chip) (q : Nat) : Chip := { s with q := { s.q with raw := tkeep s.q.raw (fun k => k / 128 != q) } }

/-- The counters that a local reset clears beside those of COUNT_CLEAR (R227, R142, R108, Table 16-10). -/
def clearRest (s : Chip) (pg : Page) : Chip :=
  match pg with
  | .qf q => resetAt (wr (resetAt (clearUsed s q) pg 0x308) pg Reg.QF_STORM_STAT_STEPS 0) pg 0x224
  | .blk b => wr (closeWindow (resetAll s pg [0x054, 0x058]) (resAcc b)) pg Reg.PWR_STAT_WAKES 0
  | .fin _ => wr s pg Reg.PWR_STAT_WAKES 0
  | .fwSl => (List.range 16).foldl (fun t p => clearSets t (.fwPart p) 7) s
  | .hub => closeSpan s (resD2d 0 0) 32
  | _ => s

/-- Is a LOCAL_RESET of the page accepted now (R486)? -/
def resetAccepted (s : Chip) (pg : Page) : Bool :=
  !(canQuiesce pg) || [0, 1, 6].contains (pageState s pg) || (pageState s pg == 5 && drained s pg)

/-- What an accepted local reset clears (R486). -/
def resetPage (s : Chip) (pg : Page) : Chip :=
  let s := wr (resetAll s pg [0x010, 0x01C, 0x024, 0x028, 0x02C, 0x030]) pg Reg.PAGE_STAT_RESET_REFUSED 0
  clearRest (clearSets s pg 15) pg

/-- A write of PAGE_CTRL (R485, R486): the local reset is judged on the state before; then ENABLE and QUIESCE; VECTOR. -/
def pageCtrlWrite (s : Chip) (pg : Page) (v : Nat) : Chip :=
  if !(headerOpen s pg) then s
  else
    let t := if bit v 2 && canReset pg then
        (if resetAccepted s pg then resetPage s pg else wr s pg Reg.PAGE_STAT_RESET_REFUSED 1)
      else s
    let t := wr t pg Reg.PAGE_CTRL_VECTOR (bits v 26 16)
    if canQuiesce pg then wr t pg Reg.PAGE_CTRL_ENABLE (if bit v 0 && !(bit v 1) then 1 else 0) else t

/-- PAGE_QUIESCE (R485): a write of PAGE_CTRL with QUIESCE = 1. -/
def pageQuiesce (s : Chip) (pg : Page) (v : Nat) : Chip := pageCtrlWrite s pg (v ||| 2)

/-- PAGE_ENABLE_WRITE (R485): a write of PAGE_CTRL with ENABLE = 1. -/
def pageEnableWrite (s : Chip) (pg : Page) (v : Nat) : Chip := pageCtrlWrite s pg (v ||| 1)

/-- LOCAL_RESET (R486): a write of PAGE_CTRL with LOCAL_RESET = 1. -/
def localReset (s : Chip) (pg : Page) (v : Nat) : Chip := pageCtrlWrite s pg (v ||| 4)

/-! ### Injection (R488) -/

/-- The ERR_STAT bits of a page whose errors can be injected: those of class CORRECTED, DEFERRED or CORE. -/
def injectable : Page → Nat
  | .hub => 3
  | .cox => 1
  | .pm => 1
  | .tb _ => 3
  | .sl _ => 2
  | .fwSl => 2
  | .rein _ => 3
  | .skv _ => 11
  | .pw _ => 2
  | .hbm _ => 11
  | .fin _ => 3
  | .blk _ => 15
  | .spb _ => 7
  | _ => 0

/-- The die-to-die lane groups in use. -/
def laneGroups (s : Chip) : List Nat := (List.range 32).filter (fun k => bit (rd s .hub Reg.HUB_D2D_STAT_GROUPS) k)

/-- An error of a die-to-die link fires at once on one of the lane groups in use, a free choice. -/
def injectD2d (s : Chip) (drop : Bool) : Chip :=
  let l := laneGroups s
  let d := draw s
  match l[Config.freeNat d.1 % l.length]? with
  | none => s
  | some k => if drop then d2dDrop d.2 (k / 8) (k % 8) else d2dCrcRetry d.2 (k / 8) (k % 8)

/-- Injections that fire at once: the Cox, the crystal and the die-to-die links work all the time. -/
def injectNow (s : Chip) (pg : Page) (v : Nat) : Chip :=
  match pg with
  | .hub =>
    let s := if bit v 0 then injectD2d s false else s
    if bit v 1 then injectD2d s true else s
  | .cox => if bit v 0 then coxCorrected s else s
  | .pm => if bit v 0 then crystalFails s else s
  | _ => s

/-- ERR_INJECT (R488): the bits arm, or fire at once. -/
def errInject (s : Chip) (pg : Page) (v : Nat) : Chip :=
  if !(headerOpen s pg) then s
  else match pg with
    | .hub => injectNow s pg v
    | .cox => injectNow s pg v
    | .pm => injectNow s pg v
    | _ => wr s pg Reg.ERR_INJECT_ARM (rd s pg Reg.ERR_INJECT_ARM ||| (v &&& injectable pg))

/-- A write of PWR_CTRL (R477). -/
def powerWrite (s : Chip) (pg : Page) (v : Nat) : Chip := putWord s pg 0x034 v (powerField pg)

/-- A write of a header register, of the management PF0 (R490). -/
def headerWrite (s : Chip) (pg : Page) (off v : Nat) : Chip :=
  if off = 0x008 then pageCtrlWrite s pg v
  else if off = 0x010 then irqStatClear s pg false v
  else if off = 0x014 then interruptMaskWrite s pg false v
  else if off = 0x018 then irqSet s pg v
  else if off = 0x01C then irqStatClear s pg true v
  else if off = 0x020 then interruptMaskWrite s pg true v
  else if off = 0x024 then errInject s pg v
  else if off = 0x034 then powerWrite s pg v
  else s

/-! ### Registers by their access code (Table 00-3, R481) -/

/-- Does a read and write pair begin at `off` of the page (R481)? -/
def pairLo (pg : Page) (off : Nat) : Bool :=
  let each := fun (first n : Nat) => decide (first ≤ off ∧ off < first + 8 * n) && (off - first) % 8 == 0
  match pg with
  | .sec => [0x070, 0x098, 0x0B0].contains off
  | .fc => off == 0x058
  | .pm => [0x04C, 0x080].contains off
  | .srn _ => each 0x180 16
  | .sl _ => [0x048, 0x080].contains off
  | .fwPart _ => [0x048, 0x080, 0x0B0].contains off
  | .part _ => off == 0x060
  | .sq _ _ => [0x048, 0x050].contains off
  | .qf _ => off == 0x210
  | .pw _ => each 0x100 16
  | .skv _ => each 0x100 16
  | _ => false

/-- The value of a field in a word is one that the field takes: a write of another leaves the field (Tables 09-14, 15-9, 16-11). -/
def inRange (f : Field) (v : Nat) : Bool :=
  let w := bits v f.hi f.lo
  if f = Reg.SL_PAUSE_CFG_TTL_DEFAULT then decide (1 ≤ w ∧ w ≤ 3600)
  else if f = Reg.FC_CFG_GRACE_MS then decide (1 ≤ w ∧ w ≤ 10000)
  else if f = Reg.FC_CFG_CEILING then decide (w ≤ 3)
  else if f = Reg.PM_THERM_CFG_THROTTLE_C then decide (w ≤ 105)
  else if f = Reg.PM_THERM_CFG_HYST_C then decide (1 ≤ w ∧ w ≤ 20)
  else true

/-- Write the RW fields of a register that take the value. -/
def putRw (s : Chip) (pg : Page) (off v : Nat) : Chip := putWord s pg off v (fun f => f.acc == .rw && inRange f v)

/-- A write of LO is held, and takes effect with the next write of HI (R481). -/
def holdLo (s : Chip) (pg : Page) (off v : Nat) : Chip := { s with heldLo := tset s.heldLo (regKey pg off) v }

/-- A write of HI, with the LO that is held. -/
def putPair (s : Chip) (pg : Page) (lo v : Nat) : Chip :=
  let t := match tget s.heldLo (regKey pg lo) with
    | some w => { putRw s pg lo w with heldLo := tdel s.heldLo (regKey pg lo) }
    | none => s
  putRw t pg (lo + 4) v

/-- A write of a W1C register of more than one bit. -/
def clearWord (s : Chip) (pg : Page) (off v : Nat) : Chip :=
  ((Reg.fieldsAt pg off).filter (fun f => f.acc == .w1c)).foldl (fun t f => wr t pg f (rd t pg f - (rd t pg f &&& bits v f.hi f.lo))) s

/-- A write of a register that has no effect beside its fields. -/
def plainWrite (s : Chip) (pg : Page) (off v : Nat) : Chip :=
  if pairLo pg off then holdLo s pg off v
  else if 4 ≤ off && pairLo pg (off - 4) then putPair s pg (off - 4) v
  else clearWord (putRw s pg off v) pg off v

/-! ### Writes with an effect -/

/-- SEC_TOKEN_CTRL.GO (Table 13-15) starts processing: the Cox reads the token or supplement from host memory, whose bytes there
are free values; the row TOKEN or SUPPLEMENT ends it (log 46). -/
def tokenGo (s : Chip) (isSupplement : Bool) : Chip :=
  let d := draw s
  let l := fun (n : Nat) => HostReply.data ((List.range n).map (Config.freeByte d.1))
  if isSupplement then supplement d.2 (l (128 + 1048576 + signatureLen)) .start else token d.2 (l tokenLen) .start

/-- The security page (R407). TOKEN_CTRL.GO is the TOKEN and SUPPLEMENT commands, which bring the host's answer. -/
def secWrite (s : Chip) (off v : Nat) : Chip :=
  if off = 0x04C then (if bit v 0 then secSvnCommit s else s)
  else if off = 0x050 then
    if rd s .sec Reg.SEC_CFG_LOCK = 1 then s
    else wrAll s .sec [(Reg.SEC_CFG_SIDEBAND_SPDM, bits v 0 0), (Reg.SEC_CFG_LOCK, bits v 31 31)]
  else if off = 0x054 then
    let s := if bit v 0 then openOperator s else s
    if bit v 1 then closeOperator s else s
  else if off = 0x05C then (if bit v 0 then nonceNew s else s)
  else if off = 0x078 then (if bit v 0 then tokenGo s (bit v 1) else s)
  else if off = 0x094 then (if bit v 0 then debugRead (putRw s .sec off v) .whole else putRw s .sec off v)
  else plainWrite s .sec off v

/-- The fault collector page (R452). -/
def fcWrite (s : Chip) (off v : Nat) : Chip :=
  if off = 0x04C then fcAck s v
  else if off = 0x050 then showPin (putRw s .fc off v)
  else if off = 0x074 then (if bit v 8 then fenceRelease s (v % 256) else putRw s .fc off v)
  else plainWrite s .fc off v

/-- A Serrun port page (R431): the mesh registers stand in port 0's page. -/
def srnWriteReg (s : Chip) (port off v : Nat) : Chip :=
  if off = 0x044 then
    let s := linkEnable s port (bit v 0)
    if bit v 1 then srnRetrain s port else s
  else if 0x100 ≤ off ∧ port ≠ 0 then s
  else if 0x140 ≤ off ∧ off < 0x180 then twinRoleWrite s ((off - 0x140) / 4) v
  else plainWrite s (.srn port) off v

/-- Is a switch of a quad of the partition in progress (R228)? -/
def switchOn (s : Chip) (p : Nat) : Bool :=
  (quadsOf s p).any (fun q => !([0, 5].contains (rd s (.qf q) Reg.QF_PREEMPT_STAT_STATE)))

/-- A write of a spill register is held back while a switch is in progress (R228). -/
def spillWrite (s : Chip) (q off v : Nat) : Chip :=
  let held := fun (t : Chip) (n w : Nat) => { t with spillHeld := tset t.spillHeld (4 * q + n) w }
  if !((quadOwner s q).any (switchOn s)) then plainWrite s (.qf q) off v
  else if off = 0x210 then holdLo s (.qf q) off v
  else if off = 0x214 then
    let t := match tget s.heldLo (regKey (.qf q) 0x210) with
      | some w => held { s with heldLo := tdel s.heldLo (regKey (.qf q) 0x210) } 0 w
      | none => s
    held t 1 v
  else held s 2 v

/-- A quad front page (R202, R227, R142): a register that only a lead quad keeps ignores writes elsewhere. -/
def qfWrite (s : Chip) (q off v : Nat) : Chip :=
  if leadOnly off && !(isLead s q) then s
  else if 0x210 ≤ off ∧ off ≤ 0x218 then spillWrite s q off v
  else plainWrite s (.qf q) off v

/-- Is a page edit of the partition in progress (R258)? -/
def editing (s : Chip) (p : Nat) : Bool :=
  s.q.jobs.any (fun j => j.part == p && j.cmds.any (fun c => unfinished c && hdrOpcode c.raw == 0x22
    && c.copies.any (fun k => k.fate == .issued)))
  || (serve s p).slots.any (fun e => e.2.editing || e.2.moving || e.2.fetching)

/-- PW_FREE_WRITE (R258): the edits in progress are those of the partition in PW_PART_SEL. -/
def freeWrite (s : Chip) (r : Nat) (tierB : Bool) (v : Nat) : Chip :=
  pwFreeWrite s (editing s (rd s (.pw r) Reg.PW_PART_SEL_PARTITION)) r tierB v

/-- A page walker page (R258). -/
def pwWrite (s : Chip) (r off v : Nat) : Chip :=
  if off = 0x064 then freeWrite s r false v
  else if off = 0x068 then freeWrite s r true v
  else if off = 0x074 then pwModelLoad s r (v % 16)
  else plainWrite s (.pw r) off v

/-- An HBM controller page (R349). -/
def hbmWrite (s : Chip) (u off v : Nat) : Chip :=
  if off = 0x058 then (if bit v 0 then retireAccept s u else s)
  else if 0x100 ≤ off ∧ off < 0x200 then hbmRangeWrite s u ((off - 0x100) / 16) ((off - 0x100) % 16 / 4) v
  else if 0x200 ≤ off ∧ off < 0x300 ∧ off % 16 = 0 then memoryGoes (girthCfgWrite s u ((off - 0x200) / 16) v)
  else plainWrite s (.hbm u) off v

/-- A tier B page (R350): the first controller's page holds what is not a controller's own. -/
def tbWrite (s : Chip) (c off v : Nat) : Chip :=
  if c ≠ 0 then s
  else if off = 0x054 then tbSliceWrite s v
  else if 0x200 ≤ off ∧ off < 0x300 ∧ off % 16 = 0 then memoryGoes (girthCfgWrite s 16 ((off - 0x200) / 16) v)
  else plainWrite s (.tb 0) off v

/-- A Start list page (R295, R261): a slice that is not the lead slice takes SL_SLOT_SEL alone. -/
def slWrite (s : Chip) (pg : Page) (off v : Nat) : Chip :=
  match pg with
  | .fwSl =>
    if off = 0x0AC then putRw s .fwSl off v
    else stormEdge s (plainWrite s (.fwPart (rd s .fwSl Reg.SL_PART_SEL_PARTITION)) off v)
  | _ =>
    if decide (0x0AC ≤ off ∧ off < 0x0B8) then s
    else if off = 0x0A4 || (slTarget s pg).isSome then stormEdge s (plainWrite s pg off v)
    else s

/-- SL_ENABLE_WRITE (R296): a write of SL_CFG.ENABLE. -/
def slEnableWrite (s : Chip) (pg : Page) (on : Bool) : Chip :=
  let ok := match pg with
    | .sl _ => true
    | .fwSl => true
    | _ => false
  if ok && headerOpen s pg then
    match slTarget s pg with
    | some t => stormEdge s (wr s t Reg.SL_CFG_ENABLE (if on then 1 else 0))
    | none => s
  else s

/-- A window control page (Table 17-8): the PF0 page has REGION, a virtual function's QUAD and QUARTER. -/
def windowWrite (s : Chip) (pg : Page) (off v : Nat) : Chip :=
  putWord s pg off v (fun f => f.acc == .rw && (f == Reg.HUB_SPAD_SEL_REGION) == (pg == .spadWin))

/-! ### Queue and partition pages -/

/-- SQ_CTRL (R168, R198, R199): RESET, then RESUME, then ENABLE. -/
def sqCtrlWrite (s : Chip) (via : Via) (p n v : Nat) : Chip :=
  let t := if bit v 1 then queueReset s via p n false else s
  let t := if bit v 2 then queueResume t via p n else t
  if bit v 0 then (if bit v 1 && queueState s p n != 0 then t else queueEnable t via p n) else queueReset t via p n true

/-- The configuration of a queue, which only a DISABLED one takes (R167). -/
def sqCfgWrite (s : Chip) (p n off v : Nat) : Chip := if queueState s p n = 0 then plainWrite s (.sq p n) off v else s

/-- Is the register part of a queue's configuration (R167)? -/
def sqConfig (off : Nat) : Bool := decide (0x044 ≤ off ∧ off ≤ 0x058)

/-- A queue page (R201). -/
def sqWrite (s : Chip) (via : Via) (p n off v : Nat) : Chip :=
  if off = 0x040 then sqDoorbell s via p n v
  else if sqConfig off then sqCfgWrite s p n off v
  else if off = 0x05C then sqCqHeadWrite s via p n v
  else if off = 0x060 then sqCtrlWrite s via p n v
  else if off = 0x080 then sqHostSignal s via p n v
  else s

/-- HUB_PART_CTRL (Table 12-8), bit by bit from the least significant. -/
def partCtrlWrite (s : Chip) (via : Via) (p v : Nat) : Chip :=
  let own := isMgmt s via
  let s := if own && bit v 0 then create s p else s
  let s := if bit v 1 then partitionReset s via p else s
  let s := if own && bit v 2 then release s p else s
  let s := if bit v 3 then reclaim s via p else s
  if own && bit v 4 then teardown s p else s

/-- A partition control page (R375): a tenant writes HUB_PART_WIN, RESET and RECLAIM alone. -/
def partWrite (s : Chip) (via : Via) (p off v : Nat) : Chip :=
  if off = 0x050 then partCtrlWrite s via p v
  else if off = 0x060 ∨ off = 0x064 then plainWrite s (.part p) off v
  else if !(isMgmt s via) then s
  else if 0x040 ≤ off ∧ off ≤ 0x048 then (if partState s p = 0 then plainWrite s (.part p) off v else s)
  else plainWrite s (.part p) off v

/-! ### REGISTER_WRITE -/

/-- A write of a register from 0x040 on. -/
def unitWrite (s : Chip) (via : Via) (pg : Page) (off v : Nat) : Chip :=
  match pg with
  | .sec => secWrite s off v
  | .part p => partWrite s via p off v
  | .sq p n => sqWrite s via p n off v
  | .spadWin => windowWrite s pg off v
  | .vfWin _ _ => windowWrite s pg off v
  | .fwPart _ => s
  | .hub => plainWrite s pg off v
  | _ =>
    if off = 0x07C then countClear s pg v
    else match pg with
      | .fc => fcWrite s off v
      | .pm => if off = 0x040 then (if bit v 0 then standby s else s) else plainWrite s pg off v
      | .srn port => srnWriteReg s port off v
      | .qf q => qfWrite s q off v
      | .pw r => pwWrite s r off v
      | .hbm u => hbmWrite s u off v
      | .tb c => tbWrite s c off v
      | .sl _ => slWrite s pg off v
      | .fwSl => slWrite s pg off v
      | .skv r => if off = 0x068 then skvCtxLoad s r (v % 16) else plainWrite s pg off v
      | .spb b => if off = 0x04C then (if bit v 0 then zeroFillGo s b else s) else plainWrite s pg off v
      | _ => plainWrite s pg off v

/-- A write through the virtual function of a partition in SCRUBBING (R365, R366); a partition reset asked for then has no effect
but its CODE. -/
def scrubbedWrite (s : Chip) (via : Via) (pg : Page) (off v : Nat) : Chip :=
  match pg with
  | .sq p n =>
    if off = 0x040 then sqDoorbell s via p n v
    else if sqConfig off then sqCfgWrite s p n off v
    else if off = 0x060 then (if bit v 0 then queueEnable s via p n else queueReset s via p n true)
    else s
  | .part p => if off = 0x050 && bit v 1 then partitionReset s via p else s
  | _ => s

/-- A 32-bit write of a page through a function (R450, R490, R492, R365). -/
def pageWrite (s : Chip) (via : Via) (pg : Page) (off v : Nat) : Chip :=
  if !(pageAnswers s pg) then s
  else if off < 0x040 then (if isMgmt s via then headerWrite s pg off v else s)
  else if scrubbed s via then scrubbedWrite s via pg off v
  else unitWrite s via pg off v

/-- REGISTER_WRITE (R11, R479): a write whose byte enables cover part of a register is ignored as a whole. -/
def registerWrite (s : Chip) (via : Via) (off v be : Nat) : Chip :=
  if !(hubOn s) || be != 15 || off % 4 != 0 then s
  else match reach s via off with
    | .page pg => pageWrite s via pg (off % 4096) v
    | _ => s

/-! ### The debug port (R399) -/

/-- The management PF0, as a function through which the debug port's page accesses go. -/
def mgmtVia (s : Chip) : Via := .pf (if mgmtPort s = 1 then 1 else 0)

/-- JTAG_ACCESS (R399, Table 13-11): boundary scan in every powered state; the Cox, the register pages and internal scan with DEEP
open. A scan position that nothing has written reads as a fresh free value (log 123). -/
def jtagAccess (s : Chip) (a : Jtag) : Chip :=
  match a with
  | .boundaryScan => if powerState s = 0 then s else emit s .boundaryScan
  | .cox addr v =>
    if !(hubOn s) || !(deepBit s) then s
    else match v with
      | some w => { s with sec := { s.sec with cox := tset s.sec.cox addr w.toNat } }
      | none => emit s (.jtag (tgetD s.sec.cox addr (Config.coxWord addr).toNat))
  | .page pg off v =>
    if !(hubOn s) || !(deepBit s) || !(headerPage pg) || off % 4 != 0 || decide (4096 ≤ off) then s
    else match v with
      | some w => pageWrite s (mgmtVia s) pg off w.toNat
      | none =>
        let r := pageRead s (mgmtVia s) pg off
        emit r.2 (.jtag r.1)
  | .internalScan position v =>
    if !(hubOn s) || !(deepBit s) then s
    else match v with
      | some w => { s with sec := { s.sec with scan := tset s.sec.scan position w.toNat } }
      | none =>
        let d := draw s
        emit d.2 (.jtag (tgetD s.sec.scan position (Config.freeNat d.1 % 2 ^ 32)))

end Sys2Proof.Machine
end

