-- ==== Sys2Proof/Machine/PageCmds.lean ====
section
/-!
DEFINITION. The meanings of page registers (17), signals of a Serrun port, readiness and the debug port, one for each command.
-/
namespace Sys2Proof.Machine

/-- SL_ENABLE_WRITE (R296). -/
def execSlEnableWrite (page : Page) (on : Bool) (s : State) : Host.Outcome State Fault Refusal :=
  driven s (fun c => slEnableWrite c page on)

/-- PAGE_QUIESCE (R485). -/
def execPageQuiesce (page : Page) (v : Word) (s : State) : Host.Outcome State Fault Refusal :=
  driven s (fun c => pageQuiesce c page v.toNat)

/-- PAGE_ENABLE_WRITE (R485). -/
def execPageEnableWrite (page : Page) (v : Word) (s : State) : Host.Outcome State Fault Refusal :=
  driven s (fun c => pageEnableWrite c page v.toNat)

/-- LOCAL_RESET (R486). -/
def execLocalReset (page : Page) (v : Word) (s : State) : Host.Outcome State Fault Refusal :=
  driven s (fun c => localReset c page v.toNat)

/-- IRQ_STAT_CLEAR (R487). -/
def execIrqStatClear (page : Page) (err : Bool) (v : Word) (s : State) : Host.Outcome State Fault Refusal :=
  driven s (fun c => irqStatClear c page err v.toNat)

/-- IRQ_SET (R487). -/
def execIrqSet (page : Page) (v : Word) (s : State) : Host.Outcome State Fault Refusal :=
  driven s (fun c => irqSet c page v.toNat)

/-- INTERRUPT_MASK_WRITE (R487). -/
def execInterruptMaskWrite (page : Page) (err : Bool) (v : Word) (s : State) : Host.Outcome State Fault Refusal :=
  driven s (fun c => interruptMaskWrite c page err v.toNat)

/-- ERR_INJECT (R488). -/
def execErrInject (page : Page) (v : Word) (s : State) : Host.Outcome State Fault Refusal :=
  driven s (fun c => errInject c page v.toNat)

/-- COUNT_CLEAR (R108). -/
def execCountClear (page : Page) (v : Word) (s : State) : Host.Outcome State Fault Refusal :=
  driven s (fun c => countClear c page v.toNat)

/-- LATCHING_LO_READ (R481). -/
def execLatchingLoRead (via : Via) (offset : Nat) (s : State) : Host.Outcome State Fault Refusal :=
  through s via (fun c => latchingLoRead c via offset)

/-- REGISTER_WRITE (R11). -/
def execRegisterWrite (via : Via) (offset : Nat) (v : Word) (be : BitVec 4) (s : State) : Host.Outcome State Fault Refusal :=
  through s via (fun c => registerWrite c via offset v.toNat be.toNat)

/-- SRN_SIGNAL_LOSS (R418). -/
def execSrnSignalLoss (port : Fin 5) (s : State) : Host.Outcome State Fault Refusal :=
  act s (fun c => srnSignalLoss c port.val)

/-- SRN_SIGNAL_DETECT (R408). -/
def execSrnSignalDetect (port : Fin 5) (s : State) : Host.Outcome State Fault Refusal :=
  act s (fun c => srnSignalDetect c port.val)

/-- FUNCTION_READINESS_STATUS (R364). -/
def execFunctionReadinessStatus (port : Fin 2) (fn : Fin 17) (s : State) : Host.Outcome State Fault Refusal :=
  act s (fun c => functionReadinessStatus c port.val fn.val)

/-- DEBUG_PORT_UNLOCK (R398). -/
def execDebugPortUnlock (s : State) : Host.Outcome State Fault Refusal := act s debugPortUnlock

/-- JTAG_ACCESS (R399, Table 13-11). -/
def execJtagAccess (a : Jtag) (s : State) : Host.Outcome State Fault Refusal := act s (fun c => jtagAccess c a)

end Sys2Proof.Machine
end

