-- ==== Sys2Proof/Machine/PowerCmds.lean ====
section
/-!
DEFINITION. The meanings of power (16), one for each command.
-/
namespace Sys2Proof.Machine

/-- PWR_EN_ASSERT (R457). -/
def execPwrEnAssert (s : State) : Host.Outcome State Fault Refusal := act s pwrEnAssert

/-- PWR_EN_DEASSERT (R457). -/
def execPwrEnDeassert (s : State) : Host.Outcome State Fault Refusal := act s pwrEnDeassert

/-- INPUT_GOOD (R454). -/
def execInputGood (mgmtSel : Bool) (sbAddr : Fin 8) (s : State) : Host.Outcome State Fault Refusal :=
  act s (fun c => inputGood c mgmtSel sbAddr.val)

/-- HOTSWAP_TRIP (R455). -/
def execHotswapTrip (s : State) : Host.Outcome State Fault Refusal := act s hotswapTrip

/-- INPUT_RANGE_EXCURSION (R455). -/
def execInputRangeExcursion (high : Bool) (s : State) : Host.Outcome State Fault Refusal :=
  act s (fun c => inputRangeExcursion c high)

/-- THERMAL_SAMPLE (R462). -/
def execThermalSample (blk : Fin 256) (tempC : Byte) (s : State) : Host.Outcome State Fault Refusal :=
  act s (fun c => thermalSample c blk.val tempC.toNat)

/-- PM_THERMAL_TRIP (R463). -/
def execPmThermalTrip (s : State) : Host.Outcome State Fault Refusal := act s pmThermalTrip

/-- PM_RAIL_TRIP (R463). -/
def execPmRailTrip (s : State) : Host.Outcome State Fault Refusal := act s pmRailTrip

/-- CRYSTAL_STABLE (R464). -/
def execCrystalStable (s : State) : Host.Outcome State Fault Refusal := act s crystalStable

/-- PM_CRYSTAL_FAIL (R464). -/
def execPmCrystalFail (s : State) : Host.Outcome State Fault Refusal := act s pmCrystalFail

/-- BLOCK_CLOCK_GATE (R458). -/
def execBlockClockGate (blk : Fin 256) (s : State) : Host.Outcome State Fault Refusal :=
  act s (fun c => blockClockGate c blk.val)

/-- BLOCK_RETAIN_TIMEOUT (R458). -/
def execBlockRetainTimeout (blk : Fin 256) (s : State) : Host.Outcome State Fault Refusal :=
  act s (fun c => blockRetainTimeout c blk.val)

/-- BLOCK_OFF_TIMEOUT (R459). -/
def execBlockOffTimeout (blk : Fin 256) (s : State) (met : Bool := false) : Host.Outcome State Fault Refusal :=
  act s (fun c => blockOffTimeout c blk.val met)

/-- BLOCK_WAKE_COMPLETE (R460). -/
def execBlockWakeComplete (blk : Fin 256) (s : State) : Host.Outcome State Fault Refusal :=
  act s (fun c => blockWakeComplete c blk.val)

/-- BANK_POWER_UP (R163). -/
def execBankPowerUp (bank : Fin 256) (s : State) : Host.Outcome State Fault Refusal :=
  act s (fun c => bankPowerUp c bank.val)

/-- BANK_IDLE_RETURN (R163). -/
def execBankIdleReturn (bank : Fin 256) (s : State) (met : Bool := false) : Host.Outcome State Fault Refusal :=
  act s (fun c => bankIdleReturn c bank.val met)

/-- REGION_SLEEP (R461). -/
def execRegionSleep (region : Fin 4) (s : State) : Host.Outcome State Fault Refusal :=
  act s (fun c => regionSleep c region.val)

/-- REGION_WAKE_COMPLETE (R460). -/
def execRegionWakeComplete (region : Fin 4) (s : State) : Host.Outcome State Fault Refusal :=
  act s (fun c => regionWakeComplete c region.val)

/-- STANDBY (R467). -/
def execStandby (s : State) : Host.Outcome State Fault Refusal := driven s standby

/-- STANDBY_ENTRY_COMPLETE (R468). -/
def execStandbyEntryComplete (s : State) : Host.Outcome State Fault Refusal := act s standbyEntryComplete

/-- WAKE (R470). -/
def execWake (s : State) (via : Endpoint := .sideband) : Host.Outcome State Fault Refusal :=
  act s (fun c => wake c via)

/-- ALARM_WAKE (R470). -/
def execAlarmWake (s : State) : Host.Outcome State Fault Refusal := act s alarmWake

/-- WAKE_RESTORE_COMPLETE (R471). -/
def execWakeRestoreComplete (s : State) : Host.Outcome State Fault Refusal := act s wakeRestoreComplete

/-- MEMORY_TRAINING_COMPLETE (R472). -/
def execMemoryTrainingComplete (s : State) : Host.Outcome State Fault Refusal := act s memoryTrainingComplete

/-- TELEMETRY_SAMPLE (R474). -/
def execTelemetrySample (r : Readings) (s : State) : Host.Outcome State Fault Refusal :=
  act s (fun c => telemetrySample c r)

end Sys2Proof.Machine
end

