-- ==== Sys2Proof/Machine/Retire.lean ====
section
/-!
DEFINITION. The retirement of commands (R179): every engine has carried its copy out, and the mirrored writes of the command
have been acknowledged (R427).
-/
namespace Sys2Proof.Machine

/-- May the command retire: carried out by every engine, its writes visible, its mirrored writes acknowledged? -/
def retires (s : Chip) (c : Cmd) : Bool :=
  unfinished c && !c.copies.isEmpty && c.copies.all (fun k => k.fate == .done) && !(mirrorWaits s c.seq)

/-- The job of the origin whose command with place `index` may retire. -/
def retiringJob (s : Chip) (o : Origin) (index : Nat) : Option Job :=
  s.q.jobs.find? (fun j => fromOrigin o j && j.cmds.any (fun c => c.index == index && retires s c))

/-- COMMAND_RETIRE (R179). -/
def commandRetire (s : Chip) (o : Origin) (index : Nat) : Chip :=
  match retiringJob s o index with
  | some j => if running s then retireCmd s j.id index else s
  | none => s

end Sys2Proof.Machine
end

