-- ==== Sys2Proof/Machine/QueueCmds.lean ====
section
/-!
DEFINITION. The meanings of queues, scheduling, banks and external memory (05, 06, 07, 11), one for each command.
-/
namespace Sys2Proof.Machine

/-- COMMAND_FETCH (R169). -/
def execCommandFetch (p : Fin 16) (n : Fin 64) (host : HostReply) (s : State) : Host.Outcome State Fault Refusal :=
  live s (fun c => commandFetch c p.val n.val host)

/-- PREEMPT_POINT_REACHED (R211). -/
def execPreemptPointReached (q : Fin 16) (s : State) : Host.Outcome State Fault Refusal :=
  live s (fun c => preemptPointReached c q.val)

/-- SPILL_COMPLETE (R223). -/
def execSpillComplete (q : Fin 16) (s : State) : Host.Outcome State Fault Refusal :=
  live s (fun c => spillComplete c q.val)

/-- RESUME_START (R224). -/
def execResumeStart (q : Fin 16) (s : State) : Host.Outcome State Fault Refusal :=
  live s (fun c => resumeStart c q.val)

/-- RESTORE_COMPLETE (R224). -/
def execRestoreComplete (q : Fin 16) (s : State) : Host.Outcome State Fault Refusal :=
  live s (fun c => restoreComplete c q.val)

/-- ENGINE_DISPATCH (R205). -/
def execEngineDispatch (e : Engine) (s : State) : Host.Outcome State Fault Refusal :=
  live s (fun c => engineDispatch c e)

/-- COMMAND_RETIRE (R179). -/
def execCommandRetire (o : Origin) (index : Nat) (s : State) : Host.Outcome State Fault Refusal :=
  live s (fun c => commandRetire c o index)

/-- BANK_GRANT (R149). -/
def execBankGrant (bank : Fin 256) (waiting : List BankAccess) (met : Ecc) (s : State) : Host.Outcome State Fault Refusal :=
  live s (fun c => bankGrant c bank.val waiting met)

/-- BANK_SCRUB_READ (R162). -/
def execBankScrubRead (bank : Fin 256) (met : Ecc) (s : State) : Host.Outcome State Fault Refusal :=
  live s (fun c => bankScrubRead c bank.val met)

/-- SQ_DOORBELL (R170). -/
def execSqDoorbell (via : Via) (p : Fin 16) (n : Fin 64) (v : Word) (s : State) : Host.Outcome State Fault Refusal :=
  throughLive s via (fun c => sqDoorbell c via p.val n.val v.toNat)

/-- QUEUE_ENABLE (R168). -/
def execQueueEnable (via : Via) (p : Fin 16) (n : Fin 64) (s : State) : Host.Outcome State Fault Refusal :=
  throughLive s via (fun c => queueEnable c via p.val n.val)

/-- QUEUE_RESUME (R198). -/
def execQueueResume (via : Via) (p : Fin 16) (n : Fin 64) (s : State) : Host.Outcome State Fault Refusal :=
  throughLive s via (fun c => queueResume c via p.val n.val)

/-- QUEUE_RESET (R199). -/
def execQueueReset (via : Via) (p : Fin 16) (n : Fin 64) (byEnable : Bool) (s : State) : Host.Outcome State Fault Refusal :=
  throughLive s via (fun c => queueReset c via p.val n.val byEnable)

/-- SQ_CQ_HEAD_WRITE (R175). -/
def execSqCqHeadWrite (via : Via) (p : Fin 16) (n : Fin 64) (v : Word) (s : State) : Host.Outcome State Fault Refusal :=
  throughLive s via (fun c => sqCqHeadWrite c via p.val n.val v.toNat)

/-- SQ_HOST_SIGNAL (R195). -/
def execSqHostSignal (via : Via) (p : Fin 16) (n : Fin 64) (v : Word) (s : State) : Host.Outcome State Fault Refusal :=
  throughLive s via (fun c => sqHostSignal c via p.val n.val v.toNat)

/-- ZERO_FILL_GO (R156). -/
def execZeroFillGo (bank : Fin 256) (s : State) : Host.Outcome State Fault Refusal :=
  drivenLive s (fun c => zeroFillGo c bank.val)

/-- PW_MODEL_LOAD (R231). -/
def execPwModelLoad (region : Fin 4) (index : Nat) (s : State) : Host.Outcome State Fault Refusal :=
  drivenLive s (fun c => pwModelLoad c region.val index)

/-- PW_FREE_WRITE (R517). -/
def execPwFreeWrite (region : Fin 4) (tierB : Bool) (v : Word) (s : State) : Host.Outcome State Fault Refusal :=
  drivenLive s (fun c => freeWrite c region.val tierB v.toNat)

/-- SKV_CTX_LOAD (R310). -/
def execSkvCtxLoad (region : Fin 4) (p : Fin 16) (s : State) : Host.Outcome State Fault Refusal :=
  drivenLive s (fun c => skvCtxLoad c region.val p.val)

/-- HBM_RANGE_WRITE (R325). -/
def execHbmRangeWrite (stack p : Fin 16) (r : Fin 4) (v : Word) (s : State) : Host.Outcome State Fault Refusal :=
  drivenLive s (fun c => hbmRangeWrite c stack.val p.val r.val v.toNat)

/-- TB_SLICE_WRITE (R325). -/
def execTbSliceWrite (v : Word) (s : State) : Host.Outcome State Fault Refusal :=
  drivenLive s (fun c => tbSliceWrite c v.toNat)

/-- GIRTH_CFG_WRITE (R327). -/
def execGirthCfgWrite (unit : Fin 17) (p : Fin 16) (v : Word) (s : State) : Host.Outcome State Fault Refusal :=
  drivenLive s (fun c => memoryGoes (girthCfgWrite c unit.val p.val v.toNat))

/-- GIRTH_REFILL (R327). -/
def execGirthRefill (s : State) : Host.Outcome State Fault Refusal := live s (fun c => memoryGoes (girthRefill c))

/-- RETIRE_ACCEPT (R339). -/
def execRetireAccept (stack : Fin 16) (s : State) : Host.Outcome State Fault Refusal :=
  drivenLive s (fun c => retireAccept c stack.val)

/-- RETIRE_COPY_START (R340). -/
def execRetireCopyStart (stack : Fin 16) (s : State) : Host.Outcome State Fault Refusal :=
  live s (fun c => retireCopyStart c stack.val)

/-- RETIRE_COPY_COMPLETE (R341, R467). -/
def execRetireCopyComplete (stack : Fin 16) (s : State) (granules : Nat := 12189696) : Host.Outcome State Fault Refusal :=
  live s (fun c => standbyRetry (memoryGoes (retireCopyComplete c stack.val granules)))

/-- PATROL_SCRUB_READ (R336). -/
def execPatrolScrubRead (unit : Fin 17) (met : Ecc) (s : State) : Host.Outcome State Fault Refusal :=
  live s (fun c => patrolScrubRead c unit.val met)

/-- TB_SELF_REFRESH_ENTRY (R345). -/
def execTbSelfRefreshEntry (s : State) : Host.Outcome State Fault Refusal := live s tbSelfRefreshEntry

/-- TIER_INIT_COMPLETE (R346). -/
def execTierInitComplete (tierB : Bool) (s : State) : Host.Outcome State Fault Refusal :=
  live s (fun c => memoryGoes (tierInitComplete c tierB))

/-- RELEASE_SCRUB_COMPLETE (R347). -/
def execReleaseScrubComplete (p : Fin 16) (s : State) (step : ScrubStep := .rest) : Host.Outcome State Fault Refusal :=
  live s (fun c => releaseScrubComplete c p.val step)

end Sys2Proof.Machine
end

