-- ==== Sys2Proof/Machine/SecurityCmds.lean ====
section
/-!
DEFINITION. The meanings of security (13), one for each command.
-/
namespace Sys2Proof.Machine

/-- IDE_INTEGRITY_FAIL (R397). -/
def execIdeIntegrityFail (port : Fin 2) (fn : Fin 17) (s : State) : Host.Outcome State Fault Refusal :=
  act s (fun c => ideIntegrityFail c port.val fn.val)

/-- IDE_KM (R396). -/
def execIdeKm (port : Fin 2) (fn : Fin 17) (session : Nat) (s : State) : Host.Outcome State Fault Refusal :=
  act s (fun c => ideKm c port.val fn.val session)

/-- SPDM_REQUEST (R392). -/
def execSpdmRequest (r : Responder) (q : SpdmRequest) (s : State) : Host.Outcome State Fault Refusal :=
  act s (fun c => spdmRequest c r q)

/-- SEC_SVN_COMMIT (R385). -/
def execSecSvnCommit (s : State) : Host.Outcome State Fault Refusal := driven s secSvnCommit

/-- OPEN_OPERATOR (R398). -/
def execOpenOperator (s : State) : Host.Outcome State Fault Refusal := driven s openOperator

/-- CLOSE_OPERATOR (R398). -/
def execCloseOperator (s : State) : Host.Outcome State Fault Refusal := driven s closeOperator

/-- NONCE_NEW (R387). -/
def execNonceNew (s : State) : Host.Outcome State Fault Refusal := driven s nonceNew

/-- TOKEN (R387). -/
def execToken (host : HostReply) (s : State) (part : Processing := .whole) : Host.Outcome State Fault Refusal :=
  driven s (fun c => standbyRetry (token c host part))

/-- SUPPLEMENT (R384). -/
def execSupplement (host : HostReply) (s : State) (part : Processing := .whole) : Host.Outcome State Fault Refusal :=
  driven s (fun c => standbyRetry (supplement c host part))

/-- DEBUG_READ (R400). -/
def execDebugRead (s : State) (part : Processing := .whole) : Host.Outcome State Fault Refusal :=
  driven s (fun c => debugRead c part)

/-- BOOT_CHAIN (R380). -/
def execBootChain (s : State) : Host.Outcome State Fault Refusal := act s bootChain

end Sys2Proof.Machine
end

