-- ==== Sys2Proof/Machine/ServingCmds.lean ====
section
/-!
DEFINITION. The meanings of serving commands and events (09), one for each command.
-/
namespace Sys2Proof.Machine

/-- SERVE_SUBMIT (R290). -/
def execServeSubmit (o : Origin) (b : Body) (descriptor : HostReply) (s : State) : Host.Outcome State Fault Refusal :=
  carry s o (startListOf o) 0x40 b (fun c => serveSubmit c o b descriptor)

/-- SERVE_CANCEL (R283). -/
def execServeCancel (o : Origin) (b : Body) (s : State) (met : Ecc := .clean) : Host.Outcome State Fault Refusal :=
  carry s o (startListOf o) 0x41 b (fun c => serveCancel c o b met)

/-- SERVE_PAUSE (R283). -/
def execServePause (o : Origin) (b : Body) (s : State) (met : Ecc := .clean) : Host.Outcome State Fault Refusal :=
  carry s o (startListOf o) 0x42 b (fun c => servePause c o b met)

/-- SERVE_RESUME (R289). -/
def execServeResume (o : Origin) (b : Body) (s : State) (met : Ecc := .clean) : Host.Outcome State Fault Refusal :=
  carry s o (startListOf o) 0x43 b (fun c => serveResume c o b met)

/-- SERVE_EDIT (R283). -/
def execServeEdit (o : Origin) (b : Body) (s : State) (met : Ecc := .clean) : Host.Outcome State Fault Refusal :=
  carry s o (startListOf o) 0x44 b (fun c => serveEdit c o b met)

/-- SERVE_EDIT_COMPLETE (R283). -/
def execServeEditComplete (p : Fin 16) (handle : Nat) (s : State) : Host.Outcome State Fault Refusal :=
  live s (fun c => serveEditComplete c p.val handle)

/-- SERVE_ACCOUNT (R287). -/
def execServeAccount (o : Origin) (b : Body) (s : State) : Host.Outcome State Fault Refusal :=
  carry s o (startListOf o) 0x45 b (fun c => serveAccount c o b)

/-- SERVE_QUERY (R283). -/
def execServeQuery (o : Origin) (b : Body) (s : State) (met : Ecc := .clean) : Host.Outcome State Fault Refusal :=
  carry s o (startListOf o) 0x46 b (fun c => serveQuery c o b met)

/-- SERVE_SAMPLE (R278). -/
def execServeSample (o : Origin) (blk : Fin 256) (b : Body) (s : State) : Host.Outcome State Fault Refusal :=
  carry s o (.burnisher blk) 0x47 b (fun c => serveSample c o blk b)

/-- CATCH (R275). -/
def execCatchStep (p : Fin 16) (s : State) : Host.Outcome State Fault Refusal := live s (fun c => catchStep c p.val)

/-- STEP_FINISH (R277). -/
def execStepFinish (p : Fin 16) (s : State) : Host.Outcome State Fault Refusal := live s (fun c => stepFinish c p.val)

/-- ACCOUNT_WINDOW_ROLLOVER (R286). -/
def execAccountWindowRollover (p : Fin 16) (account : Nat) (s : State) : Host.Outcome State Fault Refusal :=
  live s (fun c => accountWindowRollover c p.val account)

/-- MOVE_DUE (R288). -/
def execMoveDue (p : Fin 16) (handle : Nat) (s : State) : Host.Outcome State Fault Refusal :=
  live s (fun c => moveDueRow c p.val handle)

/-- BOATHOUSE_MOVE_COMPLETE (R288). -/
def execBoathouseMoveComplete (p : Fin 16) (handle : Nat) (s : State) : Host.Outcome State Fault Refusal :=
  live s (fun c => boathouseMoveComplete c p.val handle)

/-- BOATHOUSE_FETCH_COMPLETE (R289). -/
def execBoathouseFetchComplete (p : Fin 16) (handle : Nat) (s : State) : Host.Outcome State Fault Refusal :=
  live s (fun c => boathouseFetchComplete c p.val handle)

/-- TTL_EXPIRY (R288). -/
def execTtlExpiry (p : Fin 16) (handle : Nat) (s : State) : Host.Outcome State Fault Refusal :=
  live s (fun c => ttlExpiry c p.val handle)

end Sys2Proof.Machine
end

