-- ==== Sys2Proof/Machine/Dispatch.lean ====
section
/-!
DEFINITION. The effect of each command on everything but the queue: one arm for each row of spec/opcode_table.json.
-/
namespace Sys2Proof.Machine

def exec (i : Instr) (s : State) : Host.Outcome State Fault Refusal :=
  match i with
  | .nop o => Sys2Proof.Machine.execNop o s
  | .strokePass o blk b events => Sys2Proof.Machine.execStrokePass o blk b events s
  | .accModeWaitProceed blk => Sys2Proof.Machine.execAccModeWaitProceed blk s
  | .accModeTimeout blk => Sys2Proof.Machine.execAccModeTimeout blk s
  | .readout o blk b events => Sys2Proof.Machine.execReadout o blk b events s
  | .quantise o blk b => Sys2Proof.Machine.execQuantise o blk b s
  | .widenEventNotice p => Sys2Proof.Machine.execWidenEventNotice p s
  | .stormNotice q => Sys2Proof.Machine.execStormNotice q s
  | .stormWindowRollover p => Sys2Proof.Machine.execStormWindowRollover p s
  | .fin o b met => Sys2Proof.Machine.execFin o b met s
  | .finWidenItem q met => Sys2Proof.Machine.execFinWidenItem q s met
  | .zeroFill o b => Sys2Proof.Machine.execZeroFill o b s
  | .fillComplete bank => Sys2Proof.Machine.execFillComplete bank s
  | .dmaCopy o b host => Sys2Proof.Machine.execDmaCopy o b host s
  | .semSignal o b => Sys2Proof.Machine.execSemSignal o b s
  | .semWait o b => Sys2Proof.Machine.execSemWait o b s
  | .barrier o b => Sys2Proof.Machine.execBarrier o b s
  | .waitTimeout index => Sys2Proof.Machine.execWaitTimeout index s
  | .eventHost o b host => Sys2Proof.Machine.execEventHost o b host s
  | .weighEnough o => Sys2Proof.Machine.execWeighEnough o s
  | .reinAttend o b met parity => Sys2Proof.Machine.execReinAttend o b met parity s
  | .kvAppend o b met parity => Sys2Proof.Machine.execKvAppend o b met parity s
  | .pageEditSet o b => Sys2Proof.Machine.execPageEditSet o b s
  | .pageEditAlloc o b => Sys2Proof.Machine.execPageEditAlloc o b s
  | .pageEditRelease o b => Sys2Proof.Machine.execPageEditRelease o b s
  | .pageEditShare o b => Sys2Proof.Machine.execPageEditShare o b s
  | .pageEditMove o b => Sys2Proof.Machine.execPageEditMove o b s
  | .walkStart p region tag => Sys2Proof.Machine.execWalkStart p region tag s
  | .walkEnd p walk => Sys2Proof.Machine.execWalkEnd p walk s
  | .retireQueueAdvance p tierB => Sys2Proof.Machine.execRetireQueueAdvance p tierB s
  | .skvCompress o b met => Sys2Proof.Machine.execSkvCompress o b s met
  | .skvDecode o b met => Sys2Proof.Machine.execSkvDecode o b s met
  | .skvStage o b met => Sys2Proof.Machine.execSkvStage o b s met
  | .slotUnitWrite p region channel unit bytes met => Sys2Proof.Machine.execSlotUnitWrite p region channel unit bytes s met
  | .slotUnitRead p region channel unit met => Sys2Proof.Machine.execSlotUnitRead p region channel unit s met
  | .serveSubmit o b descriptor => Sys2Proof.Machine.execServeSubmit o b descriptor s
  | .serveCancel o b met => Sys2Proof.Machine.execServeCancel o b s met
  | .servePause o b met => Sys2Proof.Machine.execServePause o b s met
  | .serveResume o b met => Sys2Proof.Machine.execServeResume o b s met
  | .serveEdit o b met => Sys2Proof.Machine.execServeEdit o b s met
  | .serveEditComplete p handle => Sys2Proof.Machine.execServeEditComplete p handle s
  | .serveAccount o b => Sys2Proof.Machine.execServeAccount o b s
  | .serveQuery o b met => Sys2Proof.Machine.execServeQuery o b s met
  | .serveSample o blk b => Sys2Proof.Machine.execServeSample o blk b s
  | .catchStep p => Sys2Proof.Machine.execCatchStep p s
  | .stepFinish p => Sys2Proof.Machine.execStepFinish p s
  | .accountWindowRollover p account => Sys2Proof.Machine.execAccountWindowRollover p account s
  | .moveDue p handle => Sys2Proof.Machine.execMoveDue p handle s
  | .boathouseMoveComplete p handle => Sys2Proof.Machine.execBoathouseMoveComplete p handle s
  | .boathouseFetchComplete p handle => Sys2Proof.Machine.execBoathouseFetchComplete p handle s
  | .ttlExpiry p handle => Sys2Proof.Machine.execTtlExpiry p handle s
  | .memUpdate o b => Sys2Proof.Machine.execMemUpdate o b s
  | .memFetch o b => Sys2Proof.Machine.execMemFetch o b s
  | .srnWrite o b => Sys2Proof.Machine.execSrnWrite o b s
  | .srnRead o b => Sys2Proof.Machine.execSrnRead o b s
  | .srnUpdate o b => Sys2Proof.Machine.execSrnUpdate o b s
  | .srnAllreduce o b => Sys2Proof.Machine.execSrnAllreduce o b s
  | .srnSignal o b => Sys2Proof.Machine.execSrnSignal o b s
  | .srnPacketArrival port pkt => Sys2Proof.Machine.execSrnPacketArrival port pkt s
  | .srnPacketForward port pkt => Sys2Proof.Machine.execSrnPacketForward port pkt s
  | .srnPacketDiscard port pkt => Sys2Proof.Machine.execSrnPacketDiscard port pkt s
  | .srnRefusalArrival xfer reason => Sys2Proof.Machine.execSrnRefusalArrival xfer reason s
  | .srnAckArrival xfer data => Sys2Proof.Machine.execSrnAckArrival xfer data s
  | .srnAckTimeout xfer => Sys2Proof.Machine.execSrnAckTimeout xfer s
  | .srnCollTimeout xfer => Sys2Proof.Machine.execSrnCollTimeout xfer s
  | .srnFrameCrcFail port group => Sys2Proof.Machine.execSrnFrameCrcFail port group s
  | .srnRetrainComplete port => Sys2Proof.Machine.execSrnRetrainComplete port s
  | .srnTrainingComplete port => Sys2Proof.Machine.execSrnTrainingComplete port s
  | .crewCardReceived port card => Sys2Proof.Machine.execCrewCardReceived port card s
  | .srnRetrain port => Sys2Proof.Machine.execSrnRetrain port s
  | .cableInsert port lanes => Sys2Proof.Machine.execCableInsert port lanes s
  | .cableRemove port => Sys2Proof.Machine.execCableRemove port s
  | .twinRoleWrite p value => Sys2Proof.Machine.execTwinRoleWrite p value s
  | .twinRetireFree p => Sys2Proof.Machine.execTwinRetireFree p s
  | .roleNoticeReceived tag role => Sys2Proof.Machine.execRoleNoticeReceived tag role s
  | .mirrorWriteArrival tag epoch xfer w => Sys2Proof.Machine.execMirrorWriteArrival tag epoch xfer w s
  | .twinLinkLoss => Sys2Proof.Machine.execTwinLinkLoss s
  | .place m via => Sys2Proof.Machine.execPlace m s via
  | .commandFetch p n host => Sys2Proof.Machine.execCommandFetch p n host s
  | .preemptPointReached q => Sys2Proof.Machine.execPreemptPointReached q s
  | .spillComplete q => Sys2Proof.Machine.execSpillComplete q s
  | .resumeStart q => Sys2Proof.Machine.execResumeStart q s
  | .restoreComplete q => Sys2Proof.Machine.execRestoreComplete q s
  | .engineDispatch e => Sys2Proof.Machine.execEngineDispatch e s
  | .commandRetire o index => Sys2Proof.Machine.execCommandRetire o index s
  | .bankGrant bank waiting met => Sys2Proof.Machine.execBankGrant bank waiting met s
  | .bankScrubRead bank met => Sys2Proof.Machine.execBankScrubRead bank met s
  | .sqDoorbell via p n v => Sys2Proof.Machine.execSqDoorbell via p n v s
  | .queueEnable via p n => Sys2Proof.Machine.execQueueEnable via p n s
  | .queueResume via p n => Sys2Proof.Machine.execQueueResume via p n s
  | .queueReset via p n byEnable => Sys2Proof.Machine.execQueueReset via p n byEnable s
  | .sqCqHeadWrite via p n v => Sys2Proof.Machine.execSqCqHeadWrite via p n v s
  | .sqHostSignal via p n v => Sys2Proof.Machine.execSqHostSignal via p n v s
  | .zeroFillGo bank => Sys2Proof.Machine.execZeroFillGo bank s
  | .pwModelLoad region index => Sys2Proof.Machine.execPwModelLoad region index s
  | .pwFreeWrite region tierB v => Sys2Proof.Machine.execPwFreeWrite region tierB v s
  | .skvCtxLoad region p => Sys2Proof.Machine.execSkvCtxLoad region p s
  | .hbmRangeWrite stack p r v => Sys2Proof.Machine.execHbmRangeWrite stack p r v s
  | .tbSliceWrite v => Sys2Proof.Machine.execTbSliceWrite v s
  | .girthCfgWrite unit p v => Sys2Proof.Machine.execGirthCfgWrite unit p v s
  | .girthRefill => Sys2Proof.Machine.execGirthRefill s
  | .retireAccept stack => Sys2Proof.Machine.execRetireAccept stack s
  | .retireCopyStart stack => Sys2Proof.Machine.execRetireCopyStart stack s
  | .retireCopyComplete stack granules => Sys2Proof.Machine.execRetireCopyComplete stack s granules
  | .patrolScrubRead unit met => Sys2Proof.Machine.execPatrolScrubRead unit met s
  | .tbSelfRefreshEntry => Sys2Proof.Machine.execTbSelfRefreshEntry s
  | .tierInitComplete tierB => Sys2Proof.Machine.execTierInitComplete tierB s
  | .releaseScrubComplete p step => Sys2Proof.Machine.execReleaseScrubComplete p s step
  | .create p => Sys2Proof.Machine.execCreate p s
  | .partitionCreated p => Sys2Proof.Machine.execPartitionCreated p s
  | .partitionReset via p => Sys2Proof.Machine.execPartitionReset via p s
  | .release p => Sys2Proof.Machine.execRelease p s
  | .reclaim via p => Sys2Proof.Machine.execReclaim via p s
  | .teardown p => Sys2Proof.Machine.execTeardown p s
  | .holdExpiry p => Sys2Proof.Machine.execHoldExpiry p s
  | .functionLevelReset port fn cause => Sys2Proof.Machine.execFunctionLevelReset port fn cause s
  | .perstAssert port hot => Sys2Proof.Machine.execPerstAssert port hot s
  | .perstDeassert port clock => Sys2Proof.Machine.execPerstDeassert port s clock
  | .surpriseLinkLoss port => Sys2Proof.Machine.execSurpriseLinkLoss port s
  | .linkUp port speed width flit => Sys2Proof.Machine.execLinkUp port speed width flit s
  | .hostCompletionTimeout o => Sys2Proof.Machine.execHostCompletionTimeout o s
  | .configRequest port fn a => Sys2Proof.Machine.execConfigRequest port fn a s
  | .bar2Read port fn offset len => Sys2Proof.Machine.execBar2Read port fn offset len s
  | .bar2Write port fn offset bytes => Sys2Proof.Machine.execBar2Write port fn offset bytes s
  | .spadWindowRead port fn offset len => Sys2Proof.Machine.execSpadWindowRead port fn offset len s
  | .spadWindowWrite port fn offset bytes => Sys2Proof.Machine.execSpadWindowWrite port fn offset bytes s
  | .atomicOpRequest port fn => Sys2Proof.Machine.execAtomicOpRequest port fn s
  | .ideIntegrityFail port fn => Sys2Proof.Machine.execIdeIntegrityFail port fn s
  | .ideKm port fn session => Sys2Proof.Machine.execIdeKm port fn session s
  | .spdmRequest r q => Sys2Proof.Machine.execSpdmRequest r q s
  | .secSvnCommit => Sys2Proof.Machine.execSecSvnCommit s
  | .openOperator => Sys2Proof.Machine.execOpenOperator s
  | .closeOperator => Sys2Proof.Machine.execCloseOperator s
  | .nonceNew => Sys2Proof.Machine.execNonceNew s
  | .token host part => Sys2Proof.Machine.execToken host s part
  | .supplement host part => Sys2Proof.Machine.execSupplement host s part
  | .debugRead part => Sys2Proof.Machine.execDebugRead s part
  | .bootChain => Sys2Proof.Machine.execBootChain s
  | .faultRecordArrival source how => Sys2Proof.Machine.execFaultRecordArrival source s how
  | .faultPulseEnd => Sys2Proof.Machine.execFaultPulseEnd s
  | .graceExpiry seq => Sys2Proof.Machine.execGraceExpiry seq s
  | .fcAck seq => Sys2Proof.Machine.execFcAck seq s
  | .fenceRelease blk => Sys2Proof.Machine.execFenceRelease blk s
  | .fenceTestComplete pass => Sys2Proof.Machine.execFenceTestComplete pass s
  | .d2dCrcRetry region group => Sys2Proof.Machine.execD2dCrcRetry region group s
  | .d2dRetrainComplete region ok => Sys2Proof.Machine.execD2dRetrainComplete region ok s
  | .coxWatchdog => Sys2Proof.Machine.execCoxWatchdog s
  | .pwrEnAssert => Sys2Proof.Machine.execPwrEnAssert s
  | .pwrEnDeassert => Sys2Proof.Machine.execPwrEnDeassert s
  | .inputGood mgmtSel sbAddr => Sys2Proof.Machine.execInputGood mgmtSel sbAddr s
  | .hotswapTrip => Sys2Proof.Machine.execHotswapTrip s
  | .inputRangeExcursion high => Sys2Proof.Machine.execInputRangeExcursion high s
  | .thermalSample blk tempC => Sys2Proof.Machine.execThermalSample blk tempC s
  | .pmThermalTrip => Sys2Proof.Machine.execPmThermalTrip s
  | .pmRailTrip => Sys2Proof.Machine.execPmRailTrip s
  | .crystalStable => Sys2Proof.Machine.execCrystalStable s
  | .pmCrystalFail => Sys2Proof.Machine.execPmCrystalFail s
  | .blockClockGate blk => Sys2Proof.Machine.execBlockClockGate blk s
  | .blockRetainTimeout blk => Sys2Proof.Machine.execBlockRetainTimeout blk s
  | .blockOffTimeout blk met => Sys2Proof.Machine.execBlockOffTimeout blk s met
  | .blockWakeComplete blk => Sys2Proof.Machine.execBlockWakeComplete blk s
  | .bankPowerUp bank => Sys2Proof.Machine.execBankPowerUp bank s
  | .bankIdleReturn bank met => Sys2Proof.Machine.execBankIdleReturn bank s met
  | .regionSleep region => Sys2Proof.Machine.execRegionSleep region s
  | .regionWakeComplete region => Sys2Proof.Machine.execRegionWakeComplete region s
  | .standby => Sys2Proof.Machine.execStandby s
  | .standbyEntryComplete => Sys2Proof.Machine.execStandbyEntryComplete s
  | .wake via => Sys2Proof.Machine.execWake s via
  | .alarmWake => Sys2Proof.Machine.execAlarmWake s
  | .wakeRestoreComplete => Sys2Proof.Machine.execWakeRestoreComplete s
  | .memoryTrainingComplete => Sys2Proof.Machine.execMemoryTrainingComplete s
  | .telemetrySample r => Sys2Proof.Machine.execTelemetrySample r s
  | .mgmtOverride value via => Sys2Proof.Machine.execMgmtOverride value s via
  | .mctpStandby via => Sys2Proof.Machine.execMctpStandby s via
  | .mctpToken offset bytes last part via => Sys2Proof.Machine.execMctpToken offset bytes last s part via
  | .faultRead seq via => Sys2Proof.Machine.execFaultRead seq s via
  | .telemetryRead via => Sys2Proof.Machine.execTelemetryRead s via
  | .status via => Sys2Proof.Machine.execStatus s via
  | .mctpUnsupportedCmd code via => Sys2Proof.Machine.execMctpUnsupportedCmd code s via
  | .setEndpointId pcie eid => Sys2Proof.Machine.execSetEndpointId pcie eid s
  | .i3cDynamicAddress addr => Sys2Proof.Machine.execI3cDynamicAddress addr s
  | .rstdaa => Sys2Proof.Machine.execRstdaa s
  | .slEnableWrite page on => Sys2Proof.Machine.execSlEnableWrite page on s
  | .pageQuiesce page v => Sys2Proof.Machine.execPageQuiesce page v s
  | .pageEnableWrite page v => Sys2Proof.Machine.execPageEnableWrite page v s
  | .localReset page v => Sys2Proof.Machine.execLocalReset page v s
  | .irqStatClear page err v => Sys2Proof.Machine.execIrqStatClear page err v s
  | .irqSet page v => Sys2Proof.Machine.execIrqSet page v s
  | .interruptMaskWrite page err v => Sys2Proof.Machine.execInterruptMaskWrite page err v s
  | .errInject page v => Sys2Proof.Machine.execErrInject page v s
  | .countClear page v => Sys2Proof.Machine.execCountClear page v s
  | .latchingLoRead via offset => Sys2Proof.Machine.execLatchingLoRead via offset s
  | .registerWrite via offset v be => Sys2Proof.Machine.execRegisterWrite via offset v be s
  | .srnSignalLoss port => Sys2Proof.Machine.execSrnSignalLoss port s
  | .srnSignalDetect port => Sys2Proof.Machine.execSrnSignalDetect port s
  | .functionReadinessStatus port fn => Sys2Proof.Machine.execFunctionReadinessStatus port fn s
  | .debugPortUnlock => Sys2Proof.Machine.execDebugPortUnlock s
  | .jtagAccess a => Sys2Proof.Machine.execJtagAccess a s

end Sys2Proof.Machine
end

