-- ==== Sys2Proof/WellFormed.lean ====
section
/-!
DEFINITION. Which commands can reach the module: the ranges that the spec gives to operands whose types are wider. The step
does not ask it; a statement about commands does.
-/
namespace Sys2Proof

/-- The page exists (Table 17-5, Table 17-7, R261). -/
def Page.wf : Page → Bool
  | .pci port => decide (port < 2)
  | .srn port => decide (port < 5)
  | .tb c => decide (c < 16)
  | .part p => decide (p < 16)
  | .sq p n => decide (p < 16) && decide (n < 64)
  | .rein r => decide (r < 4)
  | .skv r => decide (r < 4)
  | .pw r => decide (r < 4)
  | .sl r => decide (r < 4)
  | .hbm i => decide (i < 16)
  | .qf q => decide (q < 16)
  | .fin q => decide (q < 16)
  | .blk b => decide (b < 256)
  | .spb b => decide (b < 256)
  | .vfWin port fn => decide (port < 2) && decide (0 < fn) && decide (fn ≤ 16)
  | .fwPart p => decide (p < 16)
  | _ => true

/-- The page has the common header of Table 17-2: every page but the partitions' registers of the firmware page. -/
def Page.hasHeader : Page → Bool
  | .fwPart _ => false
  | _ => true

/-- A virtual function has a number from 1 to 16 (R351). -/
def Via.wf : Via → Bool
  | .pf _ => true
  | .vf _ n => n.val != 0

/-- Numbers strictly rising. -/
def rising (l : Keys) : Bool :=
  match l with
  | a :: b :: t => decide (a < b) && rising (b :: t)
  | _ => true

/-- A payload's tags, where it has any, are one for each 4 KiB unit, and its poisoned lines lie in it (R422, R23). -/
def Payload.wf (d : Payload) : Bool :=
  (d.tags.isEmpty || d.tags.length == (d.bytes.length + 4095) / 4096) && rising d.bad
    && d.bad.all (fun n => decide (n < (d.bytes.length + 63) / 64))

/-- The data of a packet are a payload of R422. -/
def PacketBody.wf : PacketBody → Bool
  | .write _ d => d.wf
  | .update _ d _ _ _ => d.wf
  | .part _ _ _ _ _ _ _ _ _ d => d.wf
  | _ => true

/-- A word offset in a function's BAR0 below the scratchpad window or aperture (R489, R492). -/
def registerOffset (via : Via) (offset : Nat) : Bool :=
  offset % 4 == 0 && match via with
    | .pf _ => decide (offset < 0x8000000)
    | .vf _ _ => decide (offset < 0x800000)

/-- A page and an offset that the debug port names (R399). -/
def Jtag.wf : Jtag → Bool
  | .page pg offset _ => pg.wf && pg.hasHeader && offset % 4 == 0 && decide (offset < 4096)
  | _ => true

/-- An image holds the words of Table 09-4; other mirrored writes have any length (R427). -/
def Mirror.wf : Mirror → Bool
  | .image region _ words => decide (region < 4) && words.length == 32
  | _ => true

/-- The command's operands are such as the spec gives it. -/
def Instr.wf : Instr → Bool
  | .slotUnitWrite _ _ _ _ bytes _ => decide (bytes.length ≤ 4096)
  | .srnPacketArrival _ pkt => pkt.body.wf
  | .srnPacketForward _ pkt => pkt.body.wf
  | .srnPacketDiscard _ pkt => pkt.body.wf
  | .srnAckArrival _ data => data.wf
  | .mirrorWriteArrival _ _ _ w => w.wf
  | .place m _ => m.record.length == 256
  | .bankGrant _ waiting _ => waiting.all (fun a => decide (a.offset < 0x200000))
  | .sqDoorbell via _ _ _ => via.wf
  | .queueEnable via _ _ => via.wf
  | .queueResume via _ _ => via.wf
  | .queueReset via _ _ _ => via.wf
  | .sqCqHeadWrite via _ _ _ => via.wf
  | .sqHostSignal via _ _ _ => via.wf
  | .partitionReset via _ => via.wf
  | .reclaim via _ => via.wf
  | .bar2Read _ _ _ len => decide (0 < len)
  | .bar2Write _ _ _ bytes => decide (0 < bytes.length)
  | .spadWindowRead _ _ _ len => decide (0 < len)
  | .spadWindowWrite _ _ _ bytes => decide (0 < bytes.length)
  | .faultRecordArrival source _ => source.wf
  | .mctpToken _ bytes _ _ _ => decide (bytes.length ≤ 1024)
  | .mctpUnsupportedCmd code _ => decide (code = 0 ∨ 8 < code.toNat)
  | .slEnableWrite page _ => page.wf && (match page with
    | .sl _ => true
    | .fwSl => true
    | _ => false)
  | .pageQuiesce page _ => page.wf && page.hasHeader
  | .pageEnableWrite page _ => page.wf && page.hasHeader
  | .localReset page _ => page.wf && page.hasHeader
  | .irqStatClear page _ _ => page.wf && page.hasHeader
  | .irqSet page _ => page.wf && page.hasHeader
  | .interruptMaskWrite page _ _ => page.wf && page.hasHeader
  | .errInject page _ => page.wf && page.hasHeader
  | .countClear page _ => page.wf && page.hasHeader
  | .latchingLoRead via offset => via.wf && registerOffset via offset
  | .registerWrite via offset _ _ => via.wf && registerOffset via offset
  | .jtagAccess a => a.wf
  | .nop _ => true
  | .strokePass _ _ _ _ => true
  | .accModeWaitProceed _ => true
  | .accModeTimeout _ => true
  | .readout _ _ _ _ => true
  | .quantise _ _ _ => true
  | .widenEventNotice _ => true
  | .stormNotice _ => true
  | .stormWindowRollover _ => true
  | .fin _ _ _ => true
  | .finWidenItem _ _ => true
  | .zeroFill _ _ => true
  | .fillComplete _ => true
  | .dmaCopy _ _ _ => true
  | .semSignal _ _ => true
  | .semWait _ _ => true
  | .barrier _ _ => true
  | .waitTimeout _ => true
  | .eventHost _ _ _ => true
  | .weighEnough _ => true
  | .reinAttend _ _ _ _ => true
  | .kvAppend _ _ _ _ => true
  | .pageEditSet _ _ => true
  | .pageEditAlloc _ _ => true
  | .pageEditRelease _ _ => true
  | .pageEditShare _ _ => true
  | .pageEditMove _ _ => true
  | .walkStart _ _ _ => true
  | .walkEnd _ _ => true
  | .retireQueueAdvance _ _ => true
  | .skvCompress .. => true
  | .skvDecode .. => true
  | .skvStage .. => true
  | .slotUnitRead .. => true
  | .serveSubmit _ _ _ => true
  | .serveCancel _ _ _ => true
  | .servePause _ _ _ => true
  | .serveResume _ _ _ => true
  | .serveEdit _ _ _ => true
  | .serveEditComplete _ _ => true
  | .serveAccount _ _ => true
  | .serveQuery _ _ _ => true
  | .serveSample _ _ _ => true
  | .catchStep _ => true
  | .stepFinish _ => true
  | .accountWindowRollover _ _ => true
  | .moveDue _ _ => true
  | .boathouseMoveComplete _ _ => true
  | .boathouseFetchComplete _ _ => true
  | .ttlExpiry _ _ => true
  | .memUpdate _ _ => true
  | .memFetch _ _ => true
  | .srnWrite _ _ => true
  | .srnRead _ _ => true
  | .srnUpdate _ _ => true
  | .srnAllreduce _ _ => true
  | .srnSignal _ _ => true
  | .srnRefusalArrival _ _ => true
  | .srnAckTimeout _ => true
  | .srnCollTimeout _ => true
  | .srnFrameCrcFail _ _ => true
  | .srnRetrainComplete _ => true
  | .srnTrainingComplete _ => true
  | .crewCardReceived _ _ => true
  | .srnRetrain _ => true
  | .cableInsert _ _ => true
  | .cableRemove _ => true
  | .twinRoleWrite _ _ => true
  | .twinRetireFree _ => true
  | .roleNoticeReceived _ _ => true
  | .twinLinkLoss => true
  | .commandFetch _ _ _ => true
  | .preemptPointReached _ => true
  | .spillComplete _ => true
  | .resumeStart _ => true
  | .restoreComplete _ => true
  | .engineDispatch _ => true
  | .commandRetire _ _ => true
  | .bankScrubRead _ _ => true
  | .zeroFillGo _ => true
  | .pwModelLoad _ _ => true
  | .pwFreeWrite _ _ _ => true
  | .skvCtxLoad _ _ => true
  | .hbmRangeWrite _ _ _ _ => true
  | .tbSliceWrite _ => true
  | .girthCfgWrite _ _ _ => true
  | .girthRefill => true
  | .retireAccept _ => true
  | .retireCopyStart _ => true
  | .retireCopyComplete _ _ => true
  | .patrolScrubRead _ _ => true
  | .tbSelfRefreshEntry => true
  | .tierInitComplete _ => true
  | .releaseScrubComplete _ _ => true
  | .create _ => true
  | .partitionCreated _ => true
  | .release _ => true
  | .teardown _ => true
  | .holdExpiry _ => true
  | .functionLevelReset _ _ _ => true
  | .perstAssert _ _ => true
  | .perstDeassert _ _ => true
  | .surpriseLinkLoss _ => true
  | .linkUp _ _ _ _ => true
  | .hostCompletionTimeout _ => true
  | .configRequest _ _ _ => true
  | .atomicOpRequest _ _ => true
  | .ideIntegrityFail _ _ => true
  | .ideKm _ _ _ => true
  | .spdmRequest _ _ => true
  | .secSvnCommit => true
  | .openOperator => true
  | .closeOperator => true
  | .nonceNew => true
  | .token _ _ => true
  | .supplement _ _ => true
  | .debugRead _ => true
  | .bootChain => true
  | .faultPulseEnd => true
  | .graceExpiry _ => true
  | .fcAck _ => true
  | .fenceRelease _ => true
  | .fenceTestComplete _ => true
  | .d2dCrcRetry _ _ => true
  | .d2dRetrainComplete _ _ => true
  | .coxWatchdog => true
  | .pwrEnAssert => true
  | .pwrEnDeassert => true
  | .inputGood _ _ => true
  | .hotswapTrip => true
  | .inputRangeExcursion _ => true
  | .thermalSample _ _ => true
  | .pmThermalTrip => true
  | .pmRailTrip => true
  | .crystalStable => true
  | .pmCrystalFail => true
  | .blockClockGate _ => true
  | .blockRetainTimeout _ => true
  | .blockOffTimeout _ _ => true
  | .blockWakeComplete _ => true
  | .bankPowerUp _ => true
  | .bankIdleReturn _ _ => true
  | .regionSleep _ => true
  | .regionWakeComplete _ => true
  | .standby => true
  | .standbyEntryComplete => true
  | .wake _ => true
  | .alarmWake => true
  | .wakeRestoreComplete => true
  | .memoryTrainingComplete => true
  | .telemetrySample _ => true
  | .mgmtOverride _ _ => true
  | .mctpStandby _ => true
  | .faultRead _ _ => true
  | .telemetryRead _ => true
  | .status _ => true
  | .setEndpointId _ _ => true
  | .i3cDynamicAddress _ => true
  | .rstdaa => true
  | .srnSignalLoss _ => true
  | .srnSignalDetect _ => true
  | .functionReadinessStatus _ _ => true
  | .debugPortUnlock => true
end Sys2Proof
end

