-- ==== Sys2Proof/Safety.lean ====
section
/-!
DEFINITION. What counts as a safe run: the canonical forms in which the module's memories and registers stand; and which parts of
the module each command may change.
-/
namespace Sys2Proof.Machine

/-- External memory and its marks are in canonical form: addresses strictly rising, and no listed byte that reads as an unlisted
one does (R325, R346). -/
def Memory.wf (m : Memory) : Bool := cellsWf m.bytes && ksorted m.poison && tsorted m.latent

/-- Every scratchpad bank is in canonical form (R155, R156). -/
def padsWf (m : Table Bank) : Bool := tsorted m && m.all (fun e => bankWf e.2)

/-- The memories and the registers of the module are in canonical form. -/
def Chip.wf (s : Chip) : Bool := tsorted s.regs && s.mem.wf && padsWf s.pads

/-- Every command that waits is one that the spec gives the module. -/
def State.queueWf (s : State) : Bool := s.pending.all Instr.wf

end Sys2Proof.Machine

namespace Sys2Proof

/-! ### Whom a command comes from -/

/-- Is the command one of the host driver, which reaches the module through the management function (R355)? -/
def Instr.byDriver : Instr → Bool
  | .srnRetrain .. | .twinRoleWrite .. | .zeroFillGo .. | .pwModelLoad .. | .pwFreeWrite .. | .skvCtxLoad ..
  | .hbmRangeWrite .. | .tbSliceWrite .. | .girthCfgWrite .. | .retireAccept .. | .create .. | .release ..
  | .teardown .. | .secSvnCommit .. | .openOperator .. | .closeOperator .. | .nonceNew .. | .token .. | .supplement ..
  | .debugRead .. | .fcAck .. | .fenceRelease .. | .standby .. | .slEnableWrite .. | .pageQuiesce ..
  | .pageEnableWrite .. | .localReset .. | .irqStatClear .. | .irqSet .. | .interruptMaskWrite .. | .errInject ..
  | .countClear .. => true
  | _ => false

/-- The function that an access comes through (R355, R491). -/
def Instr.via : Instr → Option Via
  | .sqDoorbell via .. => some via
  | .queueEnable via .. => some via
  | .queueResume via .. => some via
  | .queueReset via .. => some via
  | .sqCqHeadWrite via .. => some via
  | .sqHostSignal via .. => some via
  | .partitionReset via .. => some via
  | .reclaim via .. => some via
  | .latchingLoRead via .. => some via
  | .registerWrite via .. => some via
  | _ => none

/-! ### What a command may change -/

/-- May the command be one that writes external memory, its poison or its waiting errors: by what it does itself, or by the records and steps that its end brings about? -/
def Instr.mayStore : Instr → Bool
  | .nop .. | .strokePass .. | .accModeWaitProceed .. | .accModeTimeout .. | .readout .. | .quantise .. | .fin ..
  | .finWidenItem .. | .zeroFill .. | .fillComplete .. | .dmaCopy .. | .semSignal .. | .semWait .. | .barrier ..
  | .waitTimeout .. | .eventHost .. | .reinAttend .. | .kvAppend .. | .pageEditSet .. | .pageEditAlloc ..
  | .pageEditRelease .. | .pageEditShare .. | .pageEditMove .. | .walkStart .. | .retireQueueAdvance .. | .skvCompress ..
  | .skvDecode .. | .skvStage .. | .slotUnitWrite .. | .slotUnitRead .. | .serveSubmit .. | .serveCancel ..
  | .servePause .. | .serveResume .. | .serveEdit .. | .serveEditComplete .. | .serveAccount .. | .serveQuery ..
  | .serveSample .. | .catchStep .. | .stepFinish .. | .accountWindowRollover .. | .moveDue .. | .boathouseMoveComplete ..
  | .boathouseFetchComplete .. | .ttlExpiry .. | .memUpdate .. | .memFetch .. | .srnWrite .. | .srnRead .. | .srnUpdate ..
  | .srnAllreduce .. | .srnSignal .. | .srnPacketArrival .. | .srnRefusalArrival .. | .srnAckArrival ..
  | .srnAckTimeout .. | .srnCollTimeout .. | .crewCardReceived .. | .twinRoleWrite .. | .twinRetireFree ..
  | .mirrorWriteArrival .. | .place .. | .commandFetch .. | .preemptPointReached .. | .spillComplete ..
  | .restoreComplete .. | .engineDispatch .. | .commandRetire .. | .bankGrant .. | .bankScrubRead .. | .queueEnable ..
  | .queueReset .. | .sqCqHeadWrite .. | .pwModelLoad .. | .skvCtxLoad .. | .girthCfgWrite .. | .girthRefill ..
  | .retireCopyComplete .. | .patrolScrubRead .. | .tierInitComplete .. | .releaseScrubComplete .. | .partitionReset ..
  | .release .. | .reclaim .. | .teardown .. | .holdExpiry .. | .functionLevelReset .. | .perstAssert ..
  | .surpriseLinkLoss .. | .hostCompletionTimeout .. | .configRequest .. | .bar2Read .. | .bar2Write ..
  | .spadWindowRead .. | .spadWindowWrite .. | .token .. | .supplement .. | .debugRead .. | .faultRecordArrival ..
  | .graceExpiry .. | .fcAck .. | .fenceTestComplete .. | .d2dCrcRetry .. | .d2dRetrainComplete .. | .coxWatchdog ..
  | .pwrEnDeassert .. | .hotswapTrip .. | .pmThermalTrip .. | .pmRailTrip .. | .regionWakeComplete .. | .standby ..
  | .standbyEntryComplete .. | .mctpStandby .. | .mctpToken .. | .errInject .. | .registerWrite .. | .jtagAccess .. => true
  | _ => false

/-- May the command be one that writes a bank of the scratchpads, or changes its poison or its waiting errors? -/
def Instr.mayTouchPads : Instr → Bool
  | .strokePass .. | .accModeWaitProceed .. | .readout .. | .quantise .. | .fin .. | .finWidenItem .. | .zeroFill ..
  | .fillComplete .. | .dmaCopy .. | .reinAttend .. | .kvAppend .. | .pageEditSet .. | .pageEditAlloc ..
  | .pageEditRelease .. | .pageEditShare .. | .pageEditMove .. | .skvCompress .. | .skvDecode .. | .skvStage ..
  | .serveSubmit .. | .serveCancel .. | .servePause .. | .serveResume .. | .serveEdit .. | .serveEditComplete ..
  | .serveAccount .. | .serveQuery .. | .serveSample .. | .catchStep .. | .stepFinish .. | .accountWindowRollover ..
  | .moveDue .. | .boathouseMoveComplete .. | .boathouseFetchComplete .. | .ttlExpiry .. | .memUpdate .. | .memFetch ..
  | .srnWrite .. | .srnRead .. | .srnUpdate .. | .srnAllreduce .. | .srnSignal .. | .srnPacketArrival ..
  | .srnAckArrival .. | .preemptPointReached .. | .spillComplete .. | .restoreComplete .. | .bankGrant ..
  | .bankScrubRead .. | .queueReset .. | .girthCfgWrite .. | .girthRefill .. | .retireCopyComplete ..
  | .tierInitComplete .. | .hostCompletionTimeout .. | .configRequest .. | .spadWindowRead .. | .spadWindowWrite ..
  | .debugRead .. | .faultRecordArrival .. | .graceExpiry .. | .fcAck .. | .d2dCrcRetry .. | .d2dRetrainComplete ..
  | .coxWatchdog .. | .pwrEnDeassert .. | .inputGood .. | .hotswapTrip .. | .pmThermalTrip .. | .pmRailTrip ..
  | .blockClockGate .. | .blockRetainTimeout .. | .blockOffTimeout .. | .blockWakeComplete .. | .bankPowerUp ..
  | .bankIdleReturn .. | .regionWakeComplete .. | .standbyEntryComplete .. | .errInject .. | .registerWrite ..
  | .jtagAccess .. => true
  | _ => false

/-- May the command be one that changes the state of the page walkers: walks, free and retire depths, epochs and loaded models? -/
def Instr.mayTouchWalkers : Instr → Bool
  | .strokePass .. | .accModeWaitProceed .. | .readout .. | .quantise .. | .fin .. | .finWidenItem .. | .reinAttend ..
  | .kvAppend .. | .pageEditSet .. | .pageEditAlloc .. | .pageEditRelease .. | .pageEditShare .. | .pageEditMove ..
  | .walkStart .. | .walkEnd .. | .retireQueueAdvance .. | .skvCompress .. | .skvDecode .. | .serveSubmit ..
  | .serveCancel .. | .servePause .. | .serveResume .. | .serveEdit .. | .serveEditComplete .. | .serveAccount ..
  | .serveQuery .. | .catchStep .. | .stepFinish .. | .accountWindowRollover .. | .moveDue .. | .boathouseMoveComplete ..
  | .boathouseFetchComplete .. | .ttlExpiry .. | .twinRoleWrite .. | .twinRetireFree .. | .mirrorWriteArrival ..
  | .queueReset .. | .pwModelLoad .. | .pwFreeWrite .. | .retireCopyComplete .. | .releaseScrubComplete ..
  | .partitionReset .. | .release .. | .reclaim .. | .teardown .. | .holdExpiry .. | .functionLevelReset ..
  | .perstAssert .. | .surpriseLinkLoss .. | .hostCompletionTimeout .. | .configRequest .. | .token .. | .supplement ..
  | .faultRecordArrival .. | .graceExpiry .. | .fcAck .. | .d2dCrcRetry .. | .d2dRetrainComplete .. | .coxWatchdog ..
  | .pwrEnDeassert .. | .hotswapTrip .. | .pmThermalTrip .. | .pmRailTrip .. | .regionWakeComplete .. | .standby ..
  | .standbyEntryComplete .. | .mctpStandby .. | .mctpToken .. | .errInject .. | .registerWrite .. | .jtagAccess .. => true
  | _ => false

/-- May the command be one that changes the security state: fuses, flash, measurements, seeds, the nonce, sessions and streams? -/
def Instr.mayTouchSecurity : Instr → Bool
  | .tbSliceWrite .. | .retireCopyComplete .. | .partitionCreated .. | .perstDeassert .. | .ideIntegrityFail ..
  | .ideKm .. | .spdmRequest .. | .secSvnCommit .. | .openOperator .. | .closeOperator .. | .nonceNew .. | .token ..
  | .supplement .. | .debugRead .. | .bootChain .. | .pwrEnDeassert .. | .inputGood .. | .hotswapTrip ..
  | .regionWakeComplete .. | .standby .. | .standbyEntryComplete .. | .wake .. | .alarmWake .. | .mgmtOverride ..
  | .mctpStandby .. | .mctpToken .. | .registerWrite .. | .debugPortUnlock .. | .jtagAccess .. => true
  | _ => false

/-- May the command be one that changes the record of accepted retirements, or an entry of the slice map? -/
def Instr.mayRetire : Instr → Bool
  | .tbSliceWrite .. | .retireAccept .. | .retireCopyComplete .. | .releaseScrubComplete .. | .pwrEnDeassert ..
  | .hotswapTrip .. | .standbyEntryComplete .. | .memoryTrainingComplete .. | .registerWrite .. | .jtagAccess .. => true
  | _ => false

/-- May the command be one that changes local time, a held or latched half of a register pair, a scrub or arbitration position, or a bus address? -/
def Instr.mayTouchClocks : Instr → Bool
  | .bankGrant .. | .bankScrubRead .. | .patrolScrubRead .. | .pwrEnDeassert .. | .inputGood .. | .hotswapTrip ..
  | .standbyEntryComplete .. | .setEndpointId .. | .i3cDynamicAddress .. | .rstdaa .. | .latchingLoRead ..
  | .registerWrite .. | .jtagAccess .. => true
  | _ => false

/-- May the command be one that changes the accumulator files: by what it computes, or by the jobs, fences and power changes that it brings about? -/
def Instr.mayTouchSets : Instr → Bool
  | .nop .. | .strokePass .. | .accModeWaitProceed .. | .accModeTimeout .. | .readout .. | .quantise .. | .fin ..
  | .finWidenItem .. | .zeroFill .. | .fillComplete .. | .dmaCopy .. | .semSignal .. | .semWait .. | .barrier ..
  | .waitTimeout .. | .eventHost .. | .reinAttend .. | .kvAppend .. | .pageEditSet .. | .pageEditAlloc ..
  | .pageEditRelease .. | .pageEditShare .. | .pageEditMove .. | .skvCompress .. | .skvDecode .. | .skvStage ..
  | .serveSubmit .. | .serveCancel .. | .servePause .. | .serveResume .. | .serveEdit .. | .serveEditComplete ..
  | .serveAccount .. | .serveQuery .. | .serveSample .. | .catchStep .. | .stepFinish .. | .accountWindowRollover ..
  | .moveDue .. | .boathouseMoveComplete .. | .boathouseFetchComplete .. | .ttlExpiry .. | .memUpdate .. | .memFetch ..
  | .srnWrite .. | .srnRead .. | .srnUpdate .. | .srnAllreduce .. | .srnSignal .. | .srnPacketArrival ..
  | .srnRefusalArrival .. | .srnAckArrival .. | .srnAckTimeout .. | .srnCollTimeout .. | .crewCardReceived .. | .place ..
  | .commandFetch .. | .preemptPointReached .. | .spillComplete .. | .restoreComplete .. | .engineDispatch ..
  | .commandRetire .. | .bankGrant .. | .bankScrubRead .. | .queueReset .. | .girthCfgWrite .. | .girthRefill ..
  | .retireCopyComplete .. | .tierInitComplete .. | .partitionReset .. | .release .. | .reclaim .. | .teardown ..
  | .holdExpiry .. | .functionLevelReset .. | .perstAssert .. | .surpriseLinkLoss .. | .hostCompletionTimeout ..
  | .configRequest .. | .spadWindowRead .. | .spadWindowWrite .. | .token .. | .supplement .. | .debugRead ..
  | .faultRecordArrival .. | .graceExpiry .. | .fcAck .. | .fenceRelease .. | .fenceTestComplete .. | .d2dCrcRetry ..
  | .d2dRetrainComplete .. | .coxWatchdog .. | .pwrEnDeassert .. | .inputGood .. | .hotswapTrip .. | .pmThermalTrip ..
  | .pmRailTrip .. | .blockOffTimeout .. | .regionWakeComplete .. | .standby .. | .standbyEntryComplete ..
  | .mctpStandby .. | .mctpToken .. | .errInject .. | .registerWrite .. | .jtagAccess .. => true
  | _ => false

/-- May the command be one that changes the queues and the jobs? -/
def Instr.mayTouchQueues : Instr → Bool
  | .nop .. | .strokePass .. | .accModeWaitProceed .. | .accModeTimeout .. | .readout .. | .quantise .. | .fin ..
  | .finWidenItem .. | .zeroFill .. | .fillComplete .. | .dmaCopy .. | .semSignal .. | .semWait .. | .barrier ..
  | .waitTimeout .. | .eventHost .. | .weighEnough .. | .reinAttend .. | .kvAppend .. | .pageEditSet ..
  | .pageEditAlloc .. | .pageEditRelease .. | .pageEditShare .. | .pageEditMove .. | .retireQueueAdvance ..
  | .skvCompress .. | .skvDecode .. | .skvStage .. | .serveSubmit .. | .serveCancel .. | .servePause .. | .serveResume ..
  | .serveEdit .. | .serveEditComplete .. | .serveAccount .. | .serveQuery .. | .serveSample .. | .catchStep ..
  | .stepFinish .. | .accountWindowRollover .. | .moveDue .. | .boathouseMoveComplete .. | .boathouseFetchComplete ..
  | .ttlExpiry .. | .memUpdate .. | .memFetch .. | .srnWrite .. | .srnRead .. | .srnUpdate .. | .srnAllreduce ..
  | .srnSignal .. | .srnPacketArrival .. | .srnRefusalArrival .. | .srnAckArrival .. | .srnAckTimeout ..
  | .srnCollTimeout .. | .crewCardReceived .. | .twinRoleWrite .. | .twinRetireFree .. | .place .. | .commandFetch ..
  | .preemptPointReached .. | .spillComplete .. | .restoreComplete .. | .engineDispatch .. | .commandRetire ..
  | .bankGrant .. | .bankScrubRead .. | .queueEnable .. | .queueReset .. | .sqCqHeadWrite .. | .sqHostSignal ..
  | .girthCfgWrite .. | .girthRefill .. | .retireCopyComplete .. | .tierInitComplete .. | .releaseScrubComplete ..
  | .partitionCreated .. | .partitionReset .. | .release .. | .reclaim .. | .teardown .. | .holdExpiry ..
  | .functionLevelReset .. | .perstAssert .. | .surpriseLinkLoss .. | .hostCompletionTimeout .. | .configRequest ..
  | .spadWindowRead .. | .spadWindowWrite .. | .token .. | .supplement .. | .debugRead .. | .faultRecordArrival ..
  | .graceExpiry .. | .fcAck .. | .fenceTestComplete .. | .d2dCrcRetry .. | .d2dRetrainComplete .. | .coxWatchdog ..
  | .pwrEnDeassert .. | .hotswapTrip .. | .pmThermalTrip .. | .pmRailTrip .. | .regionWakeComplete .. | .standby ..
  | .standbyEntryComplete .. | .mctpStandby .. | .mctpToken .. | .pageQuiesce .. | .pageEnableWrite .. | .localReset ..
  | .errInject .. | .registerWrite .. | .jtagAccess .. => true
  | _ => false

/-- May the command be one that changes the Start list: by what it does itself, or by the records and steps that its end brings about? -/
def Instr.mayTouchServe : Instr → Bool
  | .nop .. | .strokePass .. | .accModeWaitProceed .. | .accModeTimeout .. | .readout .. | .quantise .. | .fin ..
  | .finWidenItem .. | .zeroFill .. | .fillComplete .. | .dmaCopy .. | .semSignal .. | .semWait .. | .barrier ..
  | .waitTimeout .. | .eventHost .. | .reinAttend .. | .kvAppend .. | .pageEditSet .. | .pageEditAlloc ..
  | .pageEditRelease .. | .pageEditShare .. | .pageEditMove .. | .skvCompress .. | .skvDecode .. | .skvStage ..
  | .serveSubmit .. | .serveCancel .. | .servePause .. | .serveResume .. | .serveEdit .. | .serveEditComplete ..
  | .serveAccount .. | .serveQuery .. | .serveSample .. | .catchStep .. | .stepFinish .. | .accountWindowRollover ..
  | .moveDue .. | .boathouseMoveComplete .. | .boathouseFetchComplete .. | .ttlExpiry .. | .memUpdate .. | .memFetch ..
  | .srnWrite .. | .srnRead .. | .srnUpdate .. | .srnAllreduce .. | .srnSignal .. | .srnPacketArrival ..
  | .srnRefusalArrival .. | .srnAckArrival .. | .srnAckTimeout .. | .srnCollTimeout .. | .crewCardReceived ..
  | .twinRoleWrite .. | .place .. | .commandFetch .. | .preemptPointReached .. | .spillComplete .. | .restoreComplete ..
  | .engineDispatch .. | .commandRetire .. | .bankGrant .. | .bankScrubRead .. | .queueReset .. | .girthCfgWrite ..
  | .girthRefill .. | .retireCopyComplete .. | .tierInitComplete .. | .releaseScrubComplete .. | .partitionReset ..
  | .release .. | .reclaim .. | .teardown .. | .holdExpiry .. | .functionLevelReset .. | .perstAssert ..
  | .surpriseLinkLoss .. | .hostCompletionTimeout .. | .configRequest .. | .spadWindowRead .. | .spadWindowWrite ..
  | .token .. | .supplement .. | .debugRead .. | .faultRecordArrival .. | .graceExpiry .. | .fcAck ..
  | .fenceTestComplete .. | .d2dCrcRetry .. | .d2dRetrainComplete .. | .coxWatchdog .. | .pwrEnDeassert ..
  | .hotswapTrip .. | .pmThermalTrip .. | .pmRailTrip .. | .regionWakeComplete .. | .standby .. | .standbyEntryComplete ..
  | .mctpStandby .. | .mctpToken .. | .errInject .. | .registerWrite .. | .jtagAccess .. => true
  | _ => false

/-- May the command be one that changes the state of the mesh: ports, transfers, twin roles and the placement? -/
def Instr.mayTouchMesh : Instr → Bool
  | .nop .. | .strokePass .. | .accModeWaitProceed .. | .accModeTimeout .. | .readout .. | .quantise .. | .fin ..
  | .finWidenItem .. | .zeroFill .. | .fillComplete .. | .dmaCopy .. | .semSignal .. | .semWait .. | .barrier ..
  | .waitTimeout .. | .eventHost .. | .reinAttend .. | .kvAppend .. | .pageEditSet .. | .pageEditAlloc ..
  | .pageEditRelease .. | .pageEditShare .. | .pageEditMove .. | .walkStart .. | .retireQueueAdvance .. | .skvCompress ..
  | .skvDecode .. | .skvStage .. | .slotUnitWrite .. | .slotUnitRead .. | .serveSubmit .. | .serveCancel ..
  | .servePause .. | .serveResume .. | .serveEdit .. | .serveEditComplete .. | .serveAccount .. | .serveQuery ..
  | .serveSample .. | .catchStep .. | .stepFinish .. | .accountWindowRollover .. | .moveDue .. | .boathouseMoveComplete ..
  | .boathouseFetchComplete .. | .ttlExpiry .. | .memUpdate .. | .memFetch .. | .srnWrite .. | .srnRead .. | .srnUpdate ..
  | .srnAllreduce .. | .srnSignal .. | .srnPacketArrival .. | .srnPacketForward .. | .srnPacketDiscard ..
  | .srnRefusalArrival .. | .srnAckArrival .. | .srnAckTimeout .. | .srnCollTimeout .. | .srnFrameCrcFail ..
  | .srnRetrainComplete .. | .srnTrainingComplete .. | .crewCardReceived .. | .srnRetrain .. | .cableInsert ..
  | .cableRemove .. | .twinRoleWrite .. | .twinRetireFree .. | .roleNoticeReceived .. | .mirrorWriteArrival ..
  | .twinLinkLoss .. | .place .. | .commandFetch .. | .preemptPointReached .. | .spillComplete .. | .restoreComplete ..
  | .engineDispatch .. | .commandRetire .. | .bankGrant .. | .bankScrubRead .. | .queueReset .. | .pwModelLoad ..
  | .skvCtxLoad .. | .girthCfgWrite .. | .girthRefill .. | .retireCopyComplete .. | .tierInitComplete ..
  | .partitionReset .. | .release .. | .reclaim .. | .teardown .. | .holdExpiry .. | .functionLevelReset ..
  | .perstAssert .. | .surpriseLinkLoss .. | .hostCompletionTimeout .. | .configRequest .. | .spadWindowRead ..
  | .spadWindowWrite .. | .token .. | .supplement .. | .debugRead .. | .bootChain .. | .faultRecordArrival ..
  | .graceExpiry .. | .fcAck .. | .fenceTestComplete .. | .d2dCrcRetry .. | .d2dRetrainComplete .. | .coxWatchdog ..
  | .pwrEnDeassert .. | .hotswapTrip .. | .pmThermalTrip .. | .pmRailTrip .. | .regionWakeComplete .. | .standby ..
  | .standbyEntryComplete .. | .wakeRestoreComplete .. | .mctpStandby .. | .mctpToken .. | .errInject ..
  | .registerWrite .. | .srnSignalLoss .. | .srnSignalDetect .. | .jtagAccess .. => true
  | _ => false

/-- May the command be one that changes the state of the hosts, functions and partitions, the held messages of an interrupt among it? -/
def Instr.mayTouchHosts : Instr → Bool
  | .nop .. | .strokePass .. | .accModeWaitProceed .. | .accModeTimeout .. | .readout .. | .quantise ..
  | .widenEventNotice .. | .fin .. | .finWidenItem .. | .zeroFill .. | .fillComplete .. | .dmaCopy .. | .semSignal ..
  | .semWait .. | .barrier .. | .waitTimeout .. | .eventHost .. | .reinAttend .. | .kvAppend .. | .pageEditSet ..
  | .pageEditAlloc .. | .pageEditRelease .. | .pageEditShare .. | .pageEditMove .. | .walkStart ..
  | .retireQueueAdvance .. | .skvCompress .. | .skvDecode .. | .skvStage .. | .slotUnitWrite .. | .slotUnitRead ..
  | .serveSubmit .. | .serveCancel .. | .servePause .. | .serveResume .. | .serveEdit .. | .serveEditComplete ..
  | .serveAccount .. | .serveQuery .. | .serveSample .. | .catchStep .. | .stepFinish .. | .accountWindowRollover ..
  | .moveDue .. | .boathouseMoveComplete .. | .boathouseFetchComplete .. | .ttlExpiry .. | .memUpdate .. | .memFetch ..
  | .srnWrite .. | .srnRead .. | .srnUpdate .. | .srnAllreduce .. | .srnSignal .. | .srnPacketArrival ..
  | .srnRefusalArrival .. | .srnAckArrival .. | .srnAckTimeout .. | .srnCollTimeout .. | .srnFrameCrcFail ..
  | .srnTrainingComplete .. | .crewCardReceived .. | .srnRetrain .. | .cableInsert .. | .cableRemove ..
  | .twinRoleWrite .. | .twinRetireFree .. | .roleNoticeReceived .. | .mirrorWriteArrival .. | .twinLinkLoss ..
  | .place .. | .commandFetch .. | .preemptPointReached .. | .spillComplete .. | .restoreComplete .. | .engineDispatch ..
  | .commandRetire .. | .bankGrant .. | .bankScrubRead .. | .queueEnable .. | .queueReset .. | .sqCqHeadWrite ..
  | .zeroFillGo .. | .pwModelLoad .. | .pwFreeWrite .. | .skvCtxLoad .. | .girthCfgWrite .. | .girthRefill ..
  | .retireCopyComplete .. | .patrolScrubRead .. | .tierInitComplete .. | .releaseScrubComplete .. | .partitionCreated ..
  | .partitionReset .. | .release .. | .reclaim .. | .teardown .. | .holdExpiry .. | .functionLevelReset ..
  | .perstAssert .. | .perstDeassert .. | .surpriseLinkLoss .. | .linkUp .. | .hostCompletionTimeout ..
  | .configRequest .. | .bar2Read .. | .spadWindowRead .. | .spadWindowWrite .. | .atomicOpRequest ..
  | .ideIntegrityFail .. | .ideKm .. | .openOperator .. | .closeOperator .. | .token .. | .supplement .. | .debugRead ..
  | .bootChain .. | .faultRecordArrival .. | .graceExpiry .. | .fcAck .. | .fenceTestComplete .. | .d2dCrcRetry ..
  | .d2dRetrainComplete .. | .coxWatchdog .. | .pwrEnDeassert .. | .hotswapTrip .. | .inputRangeExcursion ..
  | .thermalSample .. | .pmThermalTrip .. | .pmRailTrip .. | .pmCrystalFail .. | .regionWakeComplete .. | .standby ..
  | .standbyEntryComplete .. | .wakeRestoreComplete .. | .telemetrySample .. | .mctpStandby .. | .mctpToken ..
  | .irqStatClear .. | .irqSet .. | .interruptMaskWrite .. | .errInject .. | .registerWrite .. | .srnSignalLoss ..
  | .srnSignalDetect .. | .functionReadinessStatus .. | .debugPortUnlock .. | .jtagAccess .. => true
  | _ => false

/-- May the command be one that changes the latched slot contexts? -/
def Instr.mayTouchContexts : Instr → Bool
  | .skvCtxLoad .. | .pwrEnDeassert .. | .hotswapTrip .. | .standbyEntryComplete .. | .registerWrite .. | .jtagAccess .. => true
  | _ => false

/-- May the command be one that sets local time and the crystal's count? -/
def Instr.mayTouchTime : Instr → Bool
  | .pwrEnDeassert .. | .inputGood .. | .hotswapTrip .. => true
  | _ => false

/-- Is the command one that starts, or ends in, a reset narrower than a cold one (Table 12-3): of a port, of a function, of a
partition, of a queue, or of a fenced block? -/
def Instr.resets : Instr → Bool
  | .perstAssert .. | .surpriseLinkLoss .. | .functionLevelReset .. | .release .. | .reclaim .. | .teardown .. | .holdExpiry ..
  | .partitionReset .. | .queueReset .. | .fenceTestComplete .. => true
  | _ => false

/-- May the command change anything while the module does not run: in OFF, in STANDBY or in FATAL? The others, which are the
commands of queues, engines, links and partitions, wait for the module to run (R450, R456). -/
def Instr.worksStopped : Instr → Bool
  | .cableInsert .. | .cableRemove .. | .twinLinkLoss .. | .place .. | .functionLevelReset .. | .perstAssert ..
  | .perstDeassert .. | .surpriseLinkLoss .. | .linkUp .. | .configRequest .. | .bar2Read .. | .bar2Write ..
  | .spadWindowRead .. | .spadWindowWrite .. | .atomicOpRequest .. | .ideIntegrityFail .. | .ideKm .. | .spdmRequest ..
  | .secSvnCommit .. | .openOperator .. | .closeOperator .. | .nonceNew .. | .token .. | .supplement .. | .debugRead ..
  | .faultRecordArrival .. | .faultPulseEnd .. | .graceExpiry .. | .fcAck .. | .pwrEnAssert .. | .pwrEnDeassert ..
  | .inputGood .. | .hotswapTrip .. | .inputRangeExcursion .. | .pmThermalTrip .. | .pmRailTrip .. | .crystalStable ..
  | .pmCrystalFail .. | .standby .. | .standbyEntryComplete .. | .wake .. | .alarmWake .. | .telemetrySample ..
  | .mgmtOverride .. | .mctpStandby .. | .mctpToken .. | .faultRead .. | .telemetryRead .. | .status ..
  | .mctpUnsupportedCmd .. | .setEndpointId .. | .i3cDynamicAddress .. | .rstdaa .. | .slEnableWrite .. | .pageQuiesce ..
  | .pageEnableWrite .. | .localReset .. | .irqStatClear .. | .irqSet .. | .interruptMaskWrite .. | .errInject ..
  | .countClear .. | .latchingLoRead .. | .registerWrite .. | .srnSignalLoss .. | .srnSignalDetect ..
  | .functionReadinessStatus .. | .debugPortUnlock .. | .jtagAccess .. => true
  | _ => false

/-- May the command change anything in OFF? These are the commands of the pins, the cables and the links' signals, and the ends of
what was under way. -/
def Instr.worksInOff : Instr → Bool
  | .cableInsert .. | .cableRemove .. | .twinLinkLoss .. | .perstAssert .. | .perstDeassert .. | .faultPulseEnd ..
  | .pwrEnAssert .. | .pwrEnDeassert .. | .inputGood .. | .srnSignalLoss .. | .srnSignalDetect .. | .alarmWake .. => true
  | _ => false

end Sys2Proof
end

