-- ==== Sys2Proof/Certificates/Slice0/Obligations.lean ====
section
/-!
DEFINITION. The statements for the provers. Each has the docstring that OBLIGATIONS.json gives as its statement. Statements 1 to
32 say, row by row, where a command completes and with what next state: the state that the named shared operations give, with the
queue unchanged; what an operation leaves alone is what its own definition does not name, and the statements named …Kept say which
commands leave a whole part of the module alone.
-/
open Sys2Proof Sys2Proof.Machine

/-- While the module runs: a NOP that issued retires, charged one cycle; SEM_SIGNAL changes the semaphore its command names and is done; SEM_WAIT takes its threshold where DEC is set and is done where the value reaches it, and waits otherwise; BARRIER arrives, waits or is done by the generation, and one that arrived before a switch withdrew its wait is done once its generation has passed; one of these that a fault or a reset of its job has cancelled does nothing, and is no longer among the cancelled; EVENT_HOST writes 8 bytes to device memory or to the host, sends MSI-X where asked, and is done; WEIGH_ENOUGH stops the ACTIVE queues of its partition. -/
def Obligations.SyncCommandsRun : Prop :=
  (∀ (c : Chip) (l : List Instr) (o : Origin) (e : Nat × Nat),
      running c = true →
      c.q.jobs.findSome? (fun j => if fromOrigin o j then (j.cmds.find? (fun k => unfinished k && hdrOpcode k.raw == 0 &&
        k.copies.any (fun x => x.engine == syncOf o && x.fate == .issued))).map (fun k => (j.id, k.index)) else none) = some e →
      exec (.nop o) ⟨c, l⟩ = .next ⟨retireCmd (charge c (syncOf o) o 1) e.1 e.2, l⟩) ∧
  (∀ (c : Chip) (l : List Instr) (o : Origin) (b : Body) (c' : Chip),
      running c = true →
      stillToDo c o (syncOf o) 0x10 b = true →
      handTo c o (syncOf o) 0x10 b = c' →
      mayFollow c' o (syncOf o) 0x10 b = true →
      semOwned c' o.part.val (bf b 0x10 15 0) = true →
      exec (.semSignal o b) ⟨c, l⟩ = .next ⟨syncDone (signalSem c' o (bf b 0x10 15 0) (bw b 0x14) (bb b 0x10 16)) o 0x10 b, l⟩) ∧
  (∀ (c : Chip) (l : List Instr) (o : Origin) (b : Body) (c' : Chip),
      running c = true →
      stillToDo c o (syncOf o) 0x11 b = true →
      handTo c o (syncOf o) 0x11 b = c' →
      semOwned c' o.part.val (bf b 0x10 15 0) = true →
      bw b 0x14 ≤ semVal c' (bf b 0x10 15 0) →
      exec (.semWait o b) ⟨c, l⟩ = .next ⟨syncDone (if bb b 0x10 16 then semSet c' (bf b 0x10 15 0) (semVal c' (bf b 0x10 15 0) - bw b 0x14) else c')
        o 0x11 b, l⟩) ∧
  (∀ (c : Chip) (l : List Instr) (o : Origin) (b : Body) (c' : Chip),
      running c = true →
      stillToDo c o (syncOf o) 0x11 b = true →
      handTo c o (syncOf o) 0x11 b = c' →
      semOwned c' o.part.val (bf b 0x10 15 0) = true →
      semVal c' (bf b 0x10 15 0) < bw b 0x14 →
      exec (.semWait o b) ⟨c, l⟩ = .next ⟨addWait (charge c' (syncOf o) o 1) o b (.sem (bf b 0x10 15 0) (bw b 0x14) (bb b 0x10 16)), l⟩) ∧
  (∀ (c : Chip) (l : List Instr) (o : Origin) (b : Body) (c' : Chip),
      running c = true →
      stillToDo c o (syncOf o) 0x12 b = true →
      handTo c o (syncOf o) 0x12 b = c' →
      (runningCmd c' o (syncOf o) 0x12 b).bind (fun k => k.arrived) = none →
      mayFollow c' o (syncOf o) 0x12 b = true →
      barOwned c' o.part.val (bf b 0x10 11 0) = true →
      bb b 0x10 16 = true →
      bb b 0x10 17 = false →
      bf b 0x14 15 0 ≠ 0 →
      (barOf c' (bf b 0x10 11 0)).count = 0 ∨ (barOf c' (bf b 0x10 11 0)).target = bf b 0x14 15 0 →
      exec (.barrier o b) ⟨c, l⟩ = .next ⟨syncDone (barArrive c' (bf b 0x10 11 0) (bf b 0x14 15 0)) o 0x12 b, l⟩) ∧
  (∀ (c : Chip) (l : List Instr) (o : Origin) (b : Body) (c' : Chip),
      running c = true →
      stillToDo c o (syncOf o) 0x12 b = true →
      handTo c o (syncOf o) 0x12 b = c' →
      (runningCmd c' o (syncOf o) 0x12 b).bind (fun k => k.arrived) = none →
      barOwned c' o.part.val (bf b 0x10 11 0) = true →
      bb b 0x10 16 = false →
      bb b 0x10 17 = true →
      exec (.barrier o b) ⟨c, l⟩ = .next ⟨addWait (charge c' (syncOf o) o 1) o b (.bar (bf b 0x10 11 0) (barOf c' (bf b 0x10 11 0)).generation), l⟩) ∧
  (∀ (c : Chip) (l : List Instr) (o : Origin) (b : Body) (g : Nat) (c' : Chip),
      running c = true →
      stillToDo c o (syncOf o) 0x12 b = true →
      handTo c o (syncOf o) 0x12 b = c' →
      (runningCmd c' o (syncOf o) 0x12 b).bind (fun k => k.arrived) = some g →
      (barOf c' (bf b 0x10 11 0)).generation ≠ g →
      exec (.barrier o b) ⟨c, l⟩ = .next ⟨syncDone c' o 0x12 b, l⟩) ∧
  (∀ (c : Chip) (l : List Instr) (o : Origin) (b : Body) (host : HostReply) (c' : Chip),
      running c = true →
      stillToDo c o (syncOf o) 0x13 b = true →
      handTo c o (syncOf o) 0x13 b = c' →
      mayFollow c' o (syncOf o) 0x13 b = true →
      bf b 0x20 31 30 = 1 →
      bb b 0x20 16 = false →
      girthAdmit c' o.part.val (bq b 0x10) 8 true = .go →
      exec (.eventHost o b host) ⟨c, l⟩ = .next ⟨syncDone (memPut (admitted c' o.part.val (bq b 0x10) 8 true) (bq b 0x10) (toBytes 8 (bq b 0x18))) o 0x13 b, l⟩) ∧
  (∀ (c : Chip) (l : List Instr) (o : Origin) (b : Body) (bytes : List Byte) (c' : Chip),
      running c = true →
      stillToDo c o (syncOf o) 0x13 b = true →
      handTo c o (syncOf o) 0x13 b = c' →
      mayFollow c' o (syncOf o) 0x13 b = true →
      bf b 0x20 31 30 = 2 →
      bb b 0x20 16 = true →
      hostReady c' (boundFunc c' o.part.val).1 (boundFunc c' o.part.val).2 = true →
      exec (.eventHost o b (.data bytes)) ⟨c, l⟩ = .next ⟨syncDone (msix (emit c' (.hostWrite (boundFunc c' o.part.val).1 (boundFunc c' o.part.val).2 (bq b 0x10)
        (toBytes 8 (bq b 0x18)))) (boundFunc c' o.part.val).1 (boundFunc c' o.part.val).2 (bf b 0x20 10 0)) o 0x13 b, l⟩) ∧
  (∀ (c : Chip) (l : List Instr) (o : Origin) (c' : Chip),
      running c = true →
      stillToDo c o (syncOf o) 0x14 (weighBody c o) = true →
      handTo c o (syncOf o) 0x14 (weighBody c o) = c' →
      mayFollow c' o (syncOf o) 0x14 (weighBody c' o) = true →
      (goingQueues c' o.part.val).isEmpty = false →
      exec (.weighEnough o) ⟨c, l⟩ = .next ⟨stopQueues (noteStop (charge c' (syncOf o) o 1) o (weighBody c' o)) o.part.val, l⟩) ∧
  (∀ (c : Chip) (l : List Instr) (i : Nat) (w : Wait),
      running c = true →
      c.q.waits[i]? = some w →
      waitExpired c w = true →
      exec (.waitTimeout i) ⟨c, l⟩ = .next ⟨leaveWait (faultQueue (bump (handTo c w.origin (syncOf w.origin) (waitOp w) w.body) (.qf w.origin.quad.val) Reg.QF_WAIT_TIMEOUTS 1) w.origin 0x48) w, l⟩) ∧
  (∀ (c : Chip) (l : List Instr) (o : Origin) (b : Body),
      running c = true →
      stillToDo c o (syncOf o) 0x10 b = false →
      exec (.semSignal o b) ⟨c, l⟩ = .next ⟨passOver c o 0x10 b, l⟩) ∧
  (∀ (c : Chip) (l : List Instr) (o : Origin) (b : Body),
      running c = true →
      stillToDo c o (syncOf o) 0x11 b = false →
      exec (.semWait o b) ⟨c, l⟩ = .next ⟨passOver c o 0x11 b, l⟩) ∧
  (∀ (c : Chip) (l : List Instr) (o : Origin) (b : Body),
      running c = true →
      stillToDo c o (syncOf o) 0x12 b = false →
      exec (.barrier o b) ⟨c, l⟩ = .next ⟨passOver c o 0x12 b, l⟩) ∧
  (∀ (c : Chip) (l : List Instr) (o : Origin) (b : Body) (host : HostReply),
      running c = true →
      stillToDo c o (syncOf o) 0x13 b = false →
      exec (.eventHost o b host) ⟨c, l⟩ = .next ⟨passOver c o 0x13 b, l⟩)

/-- While the module runs, with the block neither fenced nor waited for and the command's fields and slots in range: a STROKE_PASS whose sets are all free of the other mode reads its tokens and its tile and puts them through the lanes; with a set live in the other mode it waits at the block. A waiting pass runs where its sets came free of the other mode before the timeout; where they did not, from the timeout on it is discarded and its job faults with ACC_MODE_CONFLICT. -/
def Obligations.StrokePassesRun : Prop :=
  (∀ (c : Chip) (l : List Instr) (o : Origin) (blk : Fin 256) (b : Body) (events : List PassEvent) (d : Rd × List (Nat × Nat)) (e : Rd × PassData) (t : Chip) (lv : Bool) (c' : Chip),
      running c = true →
      stillToDo c o (.stroke blk) 1 b = true →
      handTo c o (.stroke blk) 1 b = c' →
      blockFenced c' blk.val = false →
      (block c' blk.val).wait = none →
      passInvalid b = false →
      passMisaligned b = none →
      slotsBad (bb b 0x20 23) (bf b 0x24 24 16) (bf b 0x24 8 0 + 1) = false →
      modeConflict c' blk.val (bb b 0x20 23) (passTouches c' o blk b) = false →
      passTokens (startRd c') o b = d →
      (bf b 0x20 21 20 = 2 → d.2.isEmpty = false) →
      passRead d.1 o blk.val b d.2 = e →
      e.1.bad = none →
      passSets e.1.s o blk.val b (passFirst c' o blk b) d.2.length e.2 = t →
      passLive { e.1 with s := t } o b d.2 e.2 = lv →
      blockFenced (passMeets t o blk b (passFirst c' o blk b) lv events) blk.val = false →
      exec (.strokePass o blk b events) ⟨c, l⟩ = .next ⟨passBody { e.1 with s := passMeets t o blk b (passFirst c' o blk b) lv events } o blk b
        (passFirst c' o blk b) (recomputeCycles t blk.val lv events) d.2 e.2, l⟩) ∧
  (∀ (c : Chip) (l : List Instr) (o : Origin) (blk : Fin 256) (b : Body) (events : List PassEvent) (c' : Chip),
      running c = true →
      stillToDo c o (.stroke blk) 1 b = true →
      handTo c o (.stroke blk) 1 b = c' →
      blockFenced c' blk.val = false →
      (block c' blk.val).wait = none →
      passInvalid b = false →
      passMisaligned b = none →
      slotsBad (bb b 0x20 23) (bf b 0x24 24 16) (bf b 0x24 8 0 + 1) = false →
      modeConflict c' blk.val (bb b 0x20 23) (passTouches c' o blk b) = true →
      exec (.strokePass o blk b events) ⟨c, l⟩ = .next ⟨startAccWait c' o blk b events, l⟩) ∧
  (∀ (c : Chip) (l : List Instr) (blk : Fin 256) (w : AccWait),
      running c = true →
      (block c blk.val).wait = some w →
      waitFree c blk w = true →
      exec (.accModeWaitProceed blk) ⟨c, l⟩ = .next ⟨runPass (endAccWait c blk w) w.origin blk w.body w.events, l⟩) ∧
  (∀ (c : Chip) (l : List Instr) (blk : Fin 256) (w : AccWait),
      running c = true →
      (block c blk.val).wait = some w →
      waitFree c blk w = false →
      accExpired c blk.val w = true →
      exec (.accModeTimeout blk) ⟨c, l⟩ = .next ⟨strokeDone (faultBlock (endAccWait c blk w) w.origin blk.val 0x27 none) w.origin blk w.body 0, l⟩)

/-- While the module runs, with the block not fenced and the command's fields in order: a READOUT whose slots lie in the file and whose sets are not live in the other mode reads its descriptor, scales and activation table and, meeting no fault there and no fence, reads its slots out in order, ends the sets its RELEASE names and is done; a QUANTISE whose descriptor and straps are in order computes its straps in order and is done. -/
def Obligations.BurnisherCommandsRun : Prop :=
  (∀ (c : Chip) (l : List Instr) (o : Origin) (blk : Fin 256) (b : Body) (events : List PassEvent) (c' : Chip),
      running c = true →
      stillToDo c o (.burnisher blk) 2 b = true →
      handTo c o (.burnisher blk) 2 b = c' →
      blockFenced c' blk.val = false →
      readoutInvalid b = false →
      readoutMisaligned b = none →
      slotsBad (bb b 0x2C 23) (bf b 0x30 24 16) (bf b 0x30 8 0 + 1) = false →
      modeConflict c' blk.val (bb b 0x2C 23) (setsOf (bb b 0x2C 23) (readoutFirst c' o blk b) (bf b 0x30 8 0 + 1)) = false →
      (readoutLoad (startRd c') o b).1.bad = none →
      blockFenced (readoutMeets (readoutLoad (startRd c') o b).1.s o blk b (readoutFirst c' o blk b) events) blk.val = false →
      exec (.readout o blk b events) ⟨c, l⟩ = .next ⟨(let k := readoutLoad (startRd c') o b
        let y := readoutSlots { k.1 with s := readoutMeets k.1.s o blk b (readoutFirst c' o blk b) events } o blk.val b
          k.2.1 k.2.2.1 k.2.2.2 (readoutFirst c' o blk b)
        burnDone (readoutEnd y o blk.val b (readoutFirst c' o blk b)) o blk 2 b (readoutCycles b)), l⟩) ∧
  (∀ (c : Chip) (l : List Instr) (o : Origin) (blk : Fin 256) (b : Body) (c' : Chip),
      running c = true →
      stillToDo c o (.burnisher blk) 3 b = true →
      handTo c o (.burnisher blk) 3 b = c' →
      blockFenced c' blk.val = false →
      bw b 0x10 % 32 = 0 →
      (quantiseCheck (startRd c') o b).1.bad = none →
      exec (.quantise o blk b) ⟨c, l⟩ = .next ⟨(let e := quantiseCheck (startRd c') o b
        let r := quantiseWork e.1 o blk b e.2
        burnDone (closeRd r.1 o blk.val) o blk 3 b r.2), l⟩)

/-- While the module runs: a FIN whose fields and ids are in order, whose memory is granted and whose regulators have credit computes its mode's result and is done after its cycles; a Fin unit takes the oldest item of its quad, where WIDEN_FIRST is set or no job waits for the unit, and carries it out where the item's block is not fenced. -/
def Obligations.FinCommandsRun : Prop :=
  (∀ (c : Chip) (l : List Instr) (o : Origin) (b : Body) (met : List BufferError) (c' : Chip),
      running c = true →
      stillToDo c o (finOf o) 4 b = true →
      handTo c o (finOf o) 4 b = c' →
      finInvalid b = false →
      finIdsBad c' o b = false →
      (finRuns (startRd c') o b).find? (fun r => (memRefusal c' o.part.val r.1 r.2.1 false).isSome) = none →
      runsWait c' o.part.val [finRuns (startRd c') o b] = false →
      exec (.fin o b met) ⟨c, l⟩ = .next ⟨finDone (finClose (finWork c' o b met) o) o b (finCycles b), l⟩) ∧
  (∀ (c : Chip) (l : List Instr) (q : Fin 16) (i : FinItem) (met : List BufferError),
      running c = true →
      c.prec.items.find? (fun i => i.blk / 16 == q.val) = some i →
      (rd c (.fin q.val) Reg.FIN_CFG_WIDEN_FIRST ≠ 0 ∨ (readyJobs c (.fin q)).isEmpty = true) →
      blockFenced c i.blk = false →
      exec (.finWidenItem q met) ⟨c, l⟩ = .next ⟨widenItem (dropItem c i) q i met, l⟩)

/-- While the module runs: a widening notice on its way to the front of the partition's lead quad is counted there, and begins a storm where the count reaches LIMIT with none on; the notice of a storm on its way to a quad reaches it; a storm window that has ended rolls over while the partition runs no serving steps. -/
def Obligations.StormEventsRun : Prop :=
  (∀ (c : Chip) (l : List Instr) (p : Fin 16),
      running c = true →
      tgetD c.prec.widenSent p.val 0 ≠ 0 →
      leadQuad c p.val < 16 →
      exec (.widenEventNotice p) ⟨c, l⟩ = .next ⟨widenCounted (widenNoted c p.val (tgetD c.prec.widenSent p.val 0)) p.val, l⟩) ∧
  (∀ (c : Chip) (l : List Instr) (q : Fin 16),
      running c = true →
      kmem c.prec.stormSent q.val = true →
      exec (.stormNotice q) ⟨c, l⟩ = .next ⟨quadStormed c q.val, l⟩) ∧
  (∀ (c : Chip) (l : List Instr) (p : Fin 16),
      running c = true →
      partState c p.val ≠ 0 →
      servingOn c p.val = false →
      tgetD c.prec.stormAt p.val 0 + stormLength c p.val ≤ c.now →
      exec (.stormWindowRollover p) ⟨c, l⟩ = .next ⟨stormRolled c p.val (stormLength c p.val) (tgetD c.prec.stormAt p.val 0), l⟩)

/-- While the module runs: a ZERO_FILL of pads of its partition starts its fills; the end of a bank's fill zeroes its piece and, with none left of its command, the command is done; a DMA_COPY, with every run granted and the host answering, copies its repeats in order; a MEM_UPDATE updates its elements and a MEM_FETCH reads the old element to RESULT and updates it, with every run granted. -/
def Obligations.DmaCommandsRun : Prop :=
  (∀ (c : Chip) (l : List Instr) (o : Origin) (b : Body) (c' : Chip),
      running c = true →
      stillToDo c o (dmaOf o) 5 b = true →
      handTo c o (dmaOf o) 5 b = c' →
      bw b 0x10 % 512 = 0 →
      bw b 0x14 % 512 = 0 →
      padRefusal c' o.part.val (o.quad.val / 4) (bw b 0x10) (bw b 0x14) 1 = none →
      bw b 0x14 ≠ 0 →
      c'.fills.any (fun f => f.origin == some (o, b)) = false →
      exec (.zeroFill o b) ⟨c, l⟩ = .next ⟨startFills c' o b, l⟩) ∧
  (∀ (c : Chip) (l : List Instr) (bank : Fin 256) (f : BankFill),
      running c = true →
      c.fills.find? (fun f => f.bank == bank.val) = some f →
      bankFenced c bank.val = false →
      f.origin = none →
      exec (.fillComplete bank) ⟨c, l⟩ = .next ⟨setFlag (fillOver c bank.val f) (.spb bank.val) Reg.SPB_IRQ_STAT_ZF_DONE, l⟩) ∧
  (∀ (c : Chip) (l : List Instr) (bank : Fin 256) (f : BankFill) (o : Origin) (b : Body),
      running c = true →
      c.fills.find? (fun f => f.bank == bank.val) = some f →
      bankFenced c bank.val = false →
      f.origin = some (o, b) →
      exec (.fillComplete bank) ⟨c, l⟩ = .next ⟨(let t := fillOver c bank.val f
        if t.fills.any (fun g => g.origin == some (o, b)) then t else dmaDone (handTo t o (dmaOf o) 0x05 b) o 0x05 b), l⟩) ∧
  (∀ (c : Chip) (l : List Instr) (o : Origin) (b : Body) (host : HostReply) (c' : Chip),
      running c = true →
      stillToDo c o (dmaOf o) 6 b = true →
      handTo c o (dmaOf o) 6 b = c' →
      copyInvalid b = false →
      runsWait c' o.part.val (copyRuns b) = false →
      (copyHost b = true → hostReady c' (boundFunc c' o.part.val).1 (boundFunc c' o.part.val).2 = true ∧ host ≠ .error) →
      exec (.dmaCopy o b host) ⟨c, l⟩ = .next ⟨dmaDone (copyRepeats c' o b (replyBytes host) (bf b 0x30 31 24 + 1) 0) o 0x06 b, l⟩) ∧
  (∀ (c : Chip) (l : List Instr) (o : Origin) (b : Body) (c' : Chip),
      running c = true →
      stillToDo c o (dmaOf o) 0x50 b = true →
      handTo c o (dmaOf o) 0x50 b = c' →
      updateInvalid b = false →
      unitOf (bq b 0x10) ≠ some 16 →
      runsWait c' o.part.val (updateRuns b) = false →
      exec (.memUpdate o b) ⟨c, l⟩ = .next ⟨updateGo c' o b, l⟩) ∧
  (∀ (c : Chip) (l : List Instr) (o : Origin) (b : Body) (c' : Chip),
      running c = true →
      stillToDo c o (dmaOf o) 0x51 b = true →
      handTo c o (dmaOf o) 0x51 b = c' →
      bf b 0x24 25 24 ≠ 3 →
      bq b 0x10 % elemSize (bf b 0x24 27 26) = 0 →
      bw b 0x20 % 8 = 0 →
      unitOf (bq b 0x10) ≠ some 16 →
      padCheck c' o.part.val (o.quad.val / 4) (bw b 0x20) 8 8 = none →
      girthAdmit c' o.part.val (bq b 0x10) (elemSize (bf b 0x24 27 26)) true = .go →
      exec (.memFetch o b) ⟨c, l⟩ = .next ⟨fetchGo c' o b, l⟩)

/-- While the module runs, with the command's fields in order and no access of it waiting or stopping it: a REIN_ATTEND attends over its batch's entries in order and is done after its cycles, which the spec leaves open in part (a free value); a KV_APPEND appends its batch's entries in order; a page edit of each of the five kinds reads the context, the sequence and the layout, makes its edit, and is done. Attends and appends end their lane group and drop a walk that they started for themselves. The cycles that the spec leaves open are a free value (Config.freeNat). -/
def Obligations.KvCommandsRun : Prop :=
  (∀ (c : Chip) (l : List Instr) (o : Origin) (b : Body) (met : List BufferError) (parity : List Nat) (k : Rd × Walk × Bool) (a : AttendRun) (c' : Chip),
      running c = true →
      stillToDo c o (reinOf o) 0x20 b = true →
      handTo c o (reinOf o) 0x20 b = c' →
      attendInvalid (attendOf b) = false →
      bw b 0x10 % 32 = 0 →
      (reinStart c' o met).walk o 0x20 b = k →
      attendWork k c' o b met parity = a →
      a.x.hold = none →
      a.x.bad = none →
      exec (.reinAttend o b met parity) ⟨c, l⟩ = .next ⟨dropWalk k.2.1 k.2.2 (reinOver (reinCounted { a.x with s := labGroupEnd (draw a.x.s).2 k.2.1 } c' o 0x20 b) o 0x20 b
        (cdiv a.cost 262144 + 60 + Config.freeNat (draw a.x.s).1)), l⟩) ∧
  (∀ (c : Chip) (l : List Instr) (o : Origin) (b : Body) (met : List BufferError) (parity : List Nat) (k : Rd × Walk × Bool) (y : Rd) (c' : Chip),
      running c = true →
      stillToDo c o (reinOf o) 0x21 b = true →
      handTo c o (reinOf o) 0x21 b = c' →
      bw b 0x10 % 32 = 0 →
      (reinStart c' o met).walk o 0x21 b = k →
      appendWork k c' o b met parity = y →
      y.hold = none →
      y.bad = none →
      exec (.kvAppend o b met parity) ⟨c, l⟩ = .next ⟨dropWalk k.2.1 k.2.2 (reinOver (reinCounted { y with s := labGroupEnd (draw y.s).2 k.2.1 } c' o 0x21 b) o 0x21 b
        (Config.freeNat (draw y.s).1)), l⟩) ∧
  (∀ (c : Chip) (l : List Instr) (o : Origin) (b : Body) (e : EditLoad) (k : KvCtx) (v : KvLayout) (y : Rd) (c' : Chip),
      running c = true →
      stillToDo c o (reinOf o) 0x22 b = true →
      handTo c o (reinOf o) 0x22 b = c' →
      (editArgsOf b).op = 0 →
      editCode b = none →
      editLoad c' o b = e →
      e.ctx = some k →
      e.lay = some v →
      e.x.ended = false →
      pageEditRun e.x o (editArgsOf b) k v e.list e.gen e.src (bq b 0x10) = y →
      y.hold = none →
      y.bad = none →
      exec (.pageEditSet o b) ⟨c, l⟩ = .next ⟨reinOver (reinCounted { y with s := (draw y.s).2 } c' o 0x22 b) o 0x22 b (Config.freeNat (draw y.s).1), l⟩) ∧
  (∀ (c : Chip) (l : List Instr) (o : Origin) (b : Body) (e : EditLoad) (k : KvCtx) (v : KvLayout) (y : Rd) (c' : Chip),
      running c = true →
      stillToDo c o (reinOf o) 0x22 b = true →
      handTo c o (reinOf o) 0x22 b = c' →
      (editArgsOf b).op = 1 →
      editCode b = none →
      editLoad c' o b = e →
      e.ctx = some k →
      e.lay = some v →
      e.x.ended = false →
      pageEditRun e.x o (editArgsOf b) k v e.list e.gen e.src (bq b 0x10) = y →
      y.hold = none →
      y.bad = none →
      exec (.pageEditAlloc o b) ⟨c, l⟩ = .next ⟨reinOver (reinCounted { y with s := (draw y.s).2 } c' o 0x22 b) o 0x22 b (Config.freeNat (draw y.s).1), l⟩) ∧
  (∀ (c : Chip) (l : List Instr) (o : Origin) (b : Body) (e : EditLoad) (k : KvCtx) (v : KvLayout) (y : Rd) (c' : Chip),
      running c = true →
      stillToDo c o (reinOf o) 0x22 b = true →
      handTo c o (reinOf o) 0x22 b = c' →
      (editArgsOf b).op = 2 →
      editCode b = none →
      editLoad c' o b = e →
      e.ctx = some k →
      e.lay = some v →
      e.x.ended = false →
      pageEditRun e.x o (editArgsOf b) k v e.list e.gen e.src (bq b 0x10) = y →
      y.hold = none →
      y.bad = none →
      exec (.pageEditRelease o b) ⟨c, l⟩ = .next ⟨reinOver (reinCounted { y with s := (draw y.s).2 } c' o 0x22 b) o 0x22 b (Config.freeNat (draw y.s).1), l⟩) ∧
  (∀ (c : Chip) (l : List Instr) (o : Origin) (b : Body) (e : EditLoad) (k : KvCtx) (v : KvLayout) (y : Rd) (c' : Chip),
      running c = true →
      stillToDo c o (reinOf o) 0x22 b = true →
      handTo c o (reinOf o) 0x22 b = c' →
      (editArgsOf b).op = 3 →
      editCode b = none →
      editLoad c' o b = e →
      e.ctx = some k →
      e.lay = some v →
      e.x.ended = false →
      pageEditRun e.x o (editArgsOf b) k v e.list e.gen e.src (bq b 0x10) = y →
      y.hold = none →
      y.bad = none →
      exec (.pageEditShare o b) ⟨c, l⟩ = .next ⟨reinOver (reinCounted { y with s := (draw y.s).2 } c' o 0x22 b) o 0x22 b (Config.freeNat (draw y.s).1), l⟩) ∧
  (∀ (c : Chip) (l : List Instr) (o : Origin) (b : Body) (e : EditLoad) (k : KvCtx) (v : KvLayout) (y : Rd) (c' : Chip),
      running c = true →
      stillToDo c o (reinOf o) 0x22 b = true →
      handTo c o (reinOf o) 0x22 b = c' →
      (editArgsOf b).op = 4 →
      editCode b = none →
      editLoad c' o b = e →
      e.ctx = some k →
      e.lay = some v →
      e.x.ended = false →
      pageEditRun e.x o (editArgsOf b) k v e.list e.gen e.src (bq b 0x10) = y →
      y.hold = none →
      y.bad = none →
      exec (.pageEditMove o b) ⟨c, l⟩ = .next ⟨reinOver (reinCounted { y with s := (draw y.s).2 } c' o 0x22 b) o 0x22 b (Config.freeNat (draw y.s).1), l⟩)

/-- While the module runs: a walk begins for a command of a compute queue that the region's Rein engine runs and that has none; a walk ends once its command is done (a step's walk, once the step is done); a retire ring whose context is valid and whose depth is known advances up to its unread entries. -/
def Obligations.WalksAndRetirementRun : Prop :=
  (∀ (c : Chip) (l : List Instr) (p : Fin 16) (region : Fin 4) (tag : Nat),
      running c = true →
      reinRuns c p.val region tag = true →
      c.kv.walks.any (fun w => w.cmd == some tag) = false →
      exec (.walkStart p region tag) ⟨c, l⟩ = .next ⟨((startRd c).begin p.val region.val none (some tag)).1.settle c p.val none, l⟩) ∧
  (∀ (c : Chip) (l : List Instr) (p : Fin 16) (walk : Nat) (w : Walk),
      running c = true →
      c.kv.walks.find? (fun w => w.id == walk && w.part == p.val) = some w →
      walkBusy c w = false →
      exec (.walkEnd p walk) ⟨c, l⟩ = .next ⟨endWalk c walk, l⟩) ∧
  (∀ (c : Chip) (l : List Instr) (p : Fin 16) (tierB : Bool) (e : Rd × Option KvCtx) (k : KvCtx),
      running c = true →
      (startRd c).ctx p.val (allocRegion c p.val) none = e →
      e.2 = some k →
      (pool k tierB).frames ≠ 0 →
      (kvPart c p.val).lost = false →
      exec (.retireQueueAdvance p tierB) ⟨c, l⟩ = .next ⟨(e.1.advance p.val (pool k tierB) tierB
        (retireTail (kvPart c p.val) tierB - retireHead (kvPart c p.val) tierB)).settle c p.val none, l⟩)

/-- While the module runs, with no access waiting or stopping it: SKV_COMPRESS, SKV_DECODE and SKV_STAGE each write what they make, count it, are charged their cycles and are done. A slot unit of channel 0, 1 or 2 is written at its place, encoded where the channel's ENABLE bit is set, and read back by its tag; a unit of channel 3, Serrun traffic, is only counted, in the form the ENABLE bit gives it (DEDUCED, log 62: the rules say only that the sending region's engine encodes it). -/
def Obligations.SkiveCommandsRun : Prop :=
  (∀ (c : Chip) (l : List Instr) (o : Origin) (b : Body) (met : List BufferError) (w : Rd × Nat) (c' : Chip),
      running c = true →
      stillToDo c o (skiveOf o) 0x30 b = true →
      handTo c o (skiveOf o) 0x30 b = c' →
      compressWork c' o b met = w →
      w.1.hold = none →
      w.1.bad = none →
      exec (.skvCompress o b met) ⟨c, l⟩ = .next ⟨skiveOver (skiveCounted w.1 c' o) o 0x30 b w.2, l⟩) ∧
  (∀ (c : Chip) (l : List Instr) (o : Origin) (b : Body) (met : List BufferError) (w : Rd × Nat) (c' : Chip),
      running c = true →
      stillToDo c o (skiveOf o) 0x31 b = true →
      handTo c o (skiveOf o) 0x31 b = c' →
      decodeWork c' o b met = w →
      w.1.hold = none →
      w.1.bad = none →
      exec (.skvDecode o b met) ⟨c, l⟩ = .next ⟨skiveOver (skiveCounted w.1 c' o) o 0x31 b w.2, l⟩) ∧
  (∀ (c : Chip) (l : List Instr) (o : Origin) (b : Body) (met : List BufferError) (w : Rd × Nat) (c' : Chip),
      running c = true →
      stillToDo c o (skiveOf o) 0x32 b = true →
      handTo c o (skiveOf o) 0x32 b = c' →
      stageWork c' o b met = w →
      w.1.hold = none →
      w.1.bad = none →
      exec (.skvStage o b met) ⟨c, l⟩ = .next ⟨skiveOver (skiveCounted w.1 c' o) o 0x32 b w.2, l⟩) ∧
  (∀ (c : Chip) (l : List Instr) (p : Fin 16) (region channel : Fin 4) (unit : Nat) (bytes : List Byte) (met : List BufferError) (k : Rd × Option (Nat × Nat × Bool)) (e : Nat × Nat × Bool),
      running c = true →
      channel.val ≠ 3 →
      (startRd (skiveMeets c region.val met).1).channel p.val region.val
        channel.val unit = k →
      k.2 = some e →
      exec (.slotUnitWrite p region channel unit bytes met) ⟨c, l⟩ = .next ⟨unitClose (k.1.putUnit p.val region.val e.1 e.2.1 (bytes.take 4096 ++ List.replicate (4096 - bytes.length) 0)
        (skiveMeets c region.val met).2 e.2.2) c p.val, l⟩) ∧
  (∀ (c : Chip) (l : List Instr) (p : Fin 16) (region channel : Fin 4) (unit : Nat) (bytes : List Byte) (met : List BufferError) (k : SlotCtx) (v f : List Byte × Nat),
      running c = true →
      channel.val = 3 →
      slotCtx c region.val p.val = some k →
      (bytes.take 4096 ++ List.replicate (4096 - bytes.length) 0, 0) = v →
      (if bit k.enable 3 then slotForm v.1 else v) = f →
      exec (.slotUnitWrite p region channel unit bytes met) ⟨c, l⟩ = .next ⟨countUnit (skiveMeets c region.val met).1 region.val (bit f.2 31) f.1.length, l⟩) ∧
  (∀ (c : Chip) (l : List Instr) (p : Fin 16) (region channel : Fin 4) (unit : Nat) (met : List BufferError) (k : Rd × Option (Nat × Nat × Bool)) (e : Nat × Nat × Bool) (u : Rd × Option (List Byte) × Bool),
      running c = true →
      (startRd (skiveMeets c region.val met).1).channel p.val region.val
        channel.val unit = k →
      k.2 = some e →
      k.1.unit p.val region.val none e.1 e.2.1 = u →
      exec (.slotUnitRead p region channel unit met) ⟨c, l⟩ = .next ⟨unitClose (if u.2.1.isNone && !u.2.2 then (u.1.dev p.val none e.1 4096).1 else u.1) c p.val, l⟩)

/-- While the module runs, with the Start list enabled once the events due have run: SERVE_CANCEL, SERVE_PAUSE, SERVE_RESUME and SERVE_EDIT, naming a live slot, are an event of that slot with the command's stamp, applied at once or held while the slot is busy; naming none, they complete with NOT_LIVE. A handle that names none changes no slot through them. -/
def Obligations.SlotCommandsRun : Prop :=
  (∀ (c : Chip) (l : List Instr) (o : Origin) (b : Body) (met : Ecc) (x : Rd) (k : Nat) (c' : Chip),
      running c = true →
      stillToDo c o (startListOf o) 0x41 b = true →
      handTo c o (startListOf o) 0x41 b = c' →
      slStart c' o.part.val = x →
      slCfg x.s o.part.val Reg.SL_CFG_ENABLE ≠ 0 →
      slotNamed x.s o.part.val (bw b 0x10) = some k →
      exec (.serveCancel o b met) ⟨c, l⟩ = .next ⟨slEnd c' o.part.val (servingCmd c' o 0x41 b) ((x.slotMeets o.part.val k met).slotEvent o.part.val k x.s.now (.command 0x41 o b)), l⟩) ∧
  (∀ (c : Chip) (l : List Instr) (o : Origin) (b : Body) (met : Ecc) (x : Rd) (c' : Chip),
      running c = true →
      stillToDo c o (startListOf o) 0x41 b = true →
      handTo c o (startListOf o) 0x41 b = c' →
      slStart c' o.part.val = x →
      slCfg x.s o.part.val Reg.SL_CFG_ENABLE ≠ 0 →
      slotNamed x.s o.part.val (bw b 0x10) = none →
      exec (.serveCancel o b met) ⟨c, l⟩ = .next ⟨slEnd c' o.part.val (servingCmd c' o 0x41 b) (x.done o 0x41 b 0x307 0), l⟩) ∧
  (∀ (c : Chip) (l : List Instr) (o : Origin) (b : Body) (met : Ecc) (x : Rd) (k : Nat) (c' : Chip),
      running c = true →
      stillToDo c o (startListOf o) 0x42 b = true →
      handTo c o (startListOf o) 0x42 b = c' →
      slStart c' o.part.val = x →
      slCfg x.s o.part.val Reg.SL_CFG_ENABLE ≠ 0 →
      slotNamed x.s o.part.val (bw b 0x10) = some k →
      exec (.servePause o b met) ⟨c, l⟩ = .next ⟨slEnd c' o.part.val (servingCmd c' o 0x42 b) ((x.slotMeets o.part.val k met).slotEvent o.part.val k x.s.now (.command 0x42 o b)), l⟩) ∧
  (∀ (c : Chip) (l : List Instr) (o : Origin) (b : Body) (met : Ecc) (x : Rd) (c' : Chip),
      running c = true →
      stillToDo c o (startListOf o) 0x42 b = true →
      handTo c o (startListOf o) 0x42 b = c' →
      slStart c' o.part.val = x →
      slCfg x.s o.part.val Reg.SL_CFG_ENABLE ≠ 0 →
      slotNamed x.s o.part.val (bw b 0x10) = none →
      exec (.servePause o b met) ⟨c, l⟩ = .next ⟨slEnd c' o.part.val (servingCmd c' o 0x42 b) (x.done o 0x42 b 0x307 0), l⟩) ∧
  (∀ (c : Chip) (l : List Instr) (o : Origin) (b : Body) (met : Ecc) (x : Rd) (k : Nat) (c' : Chip),
      running c = true →
      stillToDo c o (startListOf o) 0x43 b = true →
      handTo c o (startListOf o) 0x43 b = c' →
      slStart c' o.part.val = x →
      slCfg x.s o.part.val Reg.SL_CFG_ENABLE ≠ 0 →
      slotNamed x.s o.part.val (bw b 0x10) = some k →
      exec (.serveResume o b met) ⟨c, l⟩ = .next ⟨slEnd c' o.part.val (servingCmd c' o 0x43 b) ((x.slotMeets o.part.val k met).slotEvent o.part.val k x.s.now (.command 0x43 o b)), l⟩) ∧
  (∀ (c : Chip) (l : List Instr) (o : Origin) (b : Body) (met : Ecc) (x : Rd) (c' : Chip),
      running c = true →
      stillToDo c o (startListOf o) 0x43 b = true →
      handTo c o (startListOf o) 0x43 b = c' →
      slStart c' o.part.val = x →
      slCfg x.s o.part.val Reg.SL_CFG_ENABLE ≠ 0 →
      slotNamed x.s o.part.val (bw b 0x10) = none →
      exec (.serveResume o b met) ⟨c, l⟩ = .next ⟨slEnd c' o.part.val (servingCmd c' o 0x43 b) (x.done o 0x43 b 0x307 0), l⟩) ∧
  (∀ (c : Chip) (l : List Instr) (o : Origin) (b : Body) (met : Ecc) (x : Rd) (k : Nat) (c' : Chip),
      running c = true →
      stillToDo c o (startListOf o) 0x44 b = true →
      handTo c o (startListOf o) 0x44 b = c' →
      slStart c' o.part.val = x →
      slCfg x.s o.part.val Reg.SL_CFG_ENABLE ≠ 0 →
      slotNamed x.s o.part.val (bw b 0x10) = some k →
      exec (.serveEdit o b met) ⟨c, l⟩ = .next ⟨slEnd c' o.part.val (servingCmd c' o 0x44 b) ((x.slotMeets o.part.val k met).slotEvent o.part.val k x.s.now (.command 0x44 o b)), l⟩) ∧
  (∀ (c : Chip) (l : List Instr) (o : Origin) (b : Body) (met : Ecc) (x : Rd) (c' : Chip),
      running c = true →
      stillToDo c o (startListOf o) 0x44 b = true →
      handTo c o (startListOf o) 0x44 b = c' →
      slStart c' o.part.val = x →
      slCfg x.s o.part.val Reg.SL_CFG_ENABLE ≠ 0 →
      slotNamed x.s o.part.val (bw b 0x10) = none →
      exec (.serveEdit o b met) ⟨c, l⟩ = .next ⟨slEnd c' o.part.val (servingCmd c' o 0x44 b) (x.done o 0x44 b 0x307 0), l⟩)

/-- While the module runs, with the Start list enabled once the events due have run: a SERVE_SUBMIT whose descriptor is read is submitted; a SERVE_ACCOUNT with WINDOW_US from 1,000 to 60,000,000 sets its account from the command, keeps USED, clears TOTAL and completes with DONE; a SERVE_QUERY of a live slot writes the slot's image to DST, a multiple of 128, and completes with DONE. A SERVE_SAMPLE of the running step, meeting no fault and no wait, samples its sequences in order and is done. -/
def Obligations.ServeCommandsRun : Prop :=
  (∀ (c : Chip) (l : List Instr) (o : Origin) (b : Body) (descriptor : HostReply) (x : Rd) (e : Rd × List Byte) (c' : Chip),
      running c = true →
      stillToDo c o (startListOf o) 0x40 b = true →
      handTo c o (startListOf o) 0x40 b = c' →
      slStart c' o.part.val = x →
      slCfg x.s o.part.val Reg.SL_CFG_ENABLE ≠ 0 →
      bq b 0x10 % 128 = 0 →
      (bf b 0x18 1 0 = 1 ∨ bf b 0x18 1 0 = 2) →
      x.descriptor o b descriptor = e →
      e.1.bad = none →
      e.1.hold = none →
      exec (.serveSubmit o b descriptor) ⟨c, l⟩ = .next ⟨slEnd c' o.part.val (servingCmd c' o 0x40 b) (e.1.submit o b e.2), l⟩) ∧
  (∀ (c : Chip) (l : List Instr) (o : Origin) (b : Body) (x : Rd) (e : Rd × Account) (c' : Chip),
      running c = true →
      stillToDo c o (startListOf o) 0x45 b = true →
      handTo c o (startListOf o) 0x45 b = c' →
      slStart c' o.part.val = x →
      slCfg x.s o.part.val Reg.SL_CFG_ENABLE ≠ 0 →
      1000 ≤ bw b 0x18 →
      bw b 0x18 ≤ 60000000 →
      x.account o.part.val (bf b 0x10 11 0) = e →
      exec (.serveAccount o b) ⟨c, l⟩ = .next ⟨slEnd c' o.part.val (servingCmd c' o 0x45 b) ((e.1.putAccount o.part.val (bf b 0x10 11 0) (accountSet e.2 b x.s.now)).done o 0x45 b 0x301 0), l⟩) ∧
  (∀ (c : Chip) (l : List Instr) (o : Origin) (b : Body) (met : Ecc) (x : Rd) (k : Nat) (y : Rd) (c' : Chip),
      running c = true →
      stillToDo c o (startListOf o) 0x46 b = true →
      handTo c o (startListOf o) 0x46 b = c' →
      slStart c' o.part.val = x →
      slCfg x.s o.part.val Reg.SL_CFG_ENABLE ≠ 0 →
      slotNamed x.s o.part.val (bw b 0x10) = some k →
      bq b 0x14 % 128 = 0 →
      (x.slotMeets o.part.val k met).plainPut o.part.val (bq b 0x14) (imageBytes (slotImage (x.slotMeets o.part.val k met).s o.part.val k)) false = y →
      y.bad = none →
      exec (.serveQuery o b met) ⟨c, l⟩ = .next ⟨slEnd c' o.part.val (servingCmd c' o 0x46 b) (y.done o 0x46 b 0x301 0), l⟩) ∧
  (∀ (c : Chip) (l : List Instr) (o : Origin) (blk : Fin 256) (b : Body) (st : StepRun) (r : Rd × Nat) (c' : Chip),
      running c = true →
      stillToDo c o (.burnisher blk) 0x47 b = true →
      handTo c o (.burnisher blk) 0x47 b = c' →
      blockFenced c' blk.val = false →
      (serve c' o.part.val).step = some st →
      o.step = true →
      bf b 0x18 23 0 ≠ 0 →
      sampleWork c' o blk b st = r →
      r.1.hold = none →
      r.1.bad = none →
      exec (.serveSample o blk b) ⟨c, l⟩ = .next ⟨burnDone (closeRd { r.1 with s := r.1.settle c' o.part.val none } o blk.val) o blk 0x47 b r.2, l⟩)

/-- While the module runs: a catch forms a batch of the eligible slots once the events due have run; the end of a step, an account window that is over, and a timer that is due are handled in R281's order before anything else; the end of an edit, of a move or of a fetch carries it out on the live slot that shows EDITING, MOVING or FETCHING, and the slot is free of it: a move that succeeds leaves the slot BOATHOUSED and counted. -/
def Obligations.StartListEventsRun : Prop :=
  (∀ (c : Chip) (l : List Instr) (p : Fin 16) (x : Rd),
      running c = true →
      catchOpen c p.val = true →
      (formBatch c p.val).placed.isEmpty = false →
      regionAwake c (leadQuad c p.val / 4) = true →
      slStart c p.val = x →
      catchOpen x.s p.val = true →
      (formBatch x.s p.val).placed.isEmpty = false →
      exec (.catchStep p) ⟨c, l⟩ = .next ⟨slEnd c p.val none (x.catch p.val (formBatch x.s p.val)), l⟩) ∧
  (∀ (c : Chip) (l : List Instr) (p : Fin 16),
      running c = true →
      (stepEnded c p.val).isSome = true →
      exec (.stepFinish p) ⟨c, l⟩ = .next ⟨slEnd c p.val none (slStart c p.val), l⟩) ∧
  (∀ (c : Chip) (l : List Instr) (p : Fin 16) (account : Nat) (v : Account),
      running c = true →
      tget (serve c p.val).accounts account = some v →
      v.next ≠ 0 →
      v.next ≤ c.now →
      exec (.accountWindowRollover p account) ⟨c, l⟩ = .next ⟨slEnd c p.val none (slStart c p.val), l⟩) ∧
  (∀ (c : Chip) (l : List Instr) (p : Fin 16) (handle : Nat),
      running c = true →
      (slotWhere c p.val handle (fun t => t.timer == .move && decide (t.due ≤ c.now))).isSome = true →
      exec (.moveDue p handle) ⟨c, l⟩ = .next ⟨slEnd c p.val none (slStart c p.val), l⟩) ∧
  (∀ (c : Chip) (l : List Instr) (p : Fin 16) (handle : Nat),
      running c = true →
      (slotWhere c p.val handle (fun t => t.timer == .expiry && decide (t.due ≤ c.now))).isSome = true →
      exec (.ttlExpiry p handle) ⟨c, l⟩ = .next ⟨slEnd c p.val none (slStart c p.val), l⟩) ∧
  (∀ (c : Chip) (l : List Instr) (p : Fin 16) (handle k : Nat) (t : Slot) (o : Origin) (b : Body) (x : Rd),
      running c = true →
      slotWhere c p.val handle (fun t => t.editing) = some (k, t) →
      t.edit = some (o, b) →
      slStart c p.val = x →
      (slotNamed x.s p.val handle).isSome = true →
      exec (.serveEditComplete p handle) ⟨c, l⟩ = .next ⟨slEnd c p.val (servingCmd c o 0x44 b) (editCompleteWork p.val handle k (some (o, b)) x), l⟩) ∧
  (∀ (c : Chip) (l : List Instr) (p : Fin 16) (handle k : Nat) (t : Slot) (x : Rd) (e : Rd × Option (Nat × Option Nat)),
      running c = true →
      slotWhere c p.val handle (fun t => t.moving) = some (k, t) →
      slStart c p.val = x →
      (slotNamed x.s p.val handle).isNone = false →
      x.editSlot p.val k (wholeEdit 4 t.listBlocks true 0) = e →
      e.2 = none →
      exec (.boathouseMoveComplete p handle) ⟨c, l⟩ = .next ⟨slEnd c p.val none ((moveDone ((Rd.afterEdit e).onSlot p.val k (fun t => { t with moving := false })) p.val k x.s.now).release
        p.val k x.s.now), l⟩) ∧
  (∀ (c : Chip) (l : List Instr) (p : Fin 16) (handle k : Nat) (t : Slot) (x : Rd) (e : Rd × Option (Nat × Option Nat)),
      running c = true →
      slotWhere c p.val handle (fun t => t.fetching) = some (k, t) →
      slStart c p.val = x →
      (slotNamed x.s p.val handle).isNone = false →
      x.editSlot p.val k (wholeEdit 4 t.listBlocks false 0) = e →
      e.2 = none →
      exec (.boathouseFetchComplete p handle) ⟨c, l⟩ = .next ⟨slEnd c p.val none ((((Rd.afterEdit e).onSlot p.val k (fun t => { t with fetching := false })).onSlot p.val k
        (fun t => { t with moveFailed := false })).release p.val k x.s.now), l⟩)

/-- While the module runs, with the command's fields in order, its destination inside the mesh and its exit link UP: SRN_WRITE and SRN_UPDATE, with their source granted, read and pack it and send it; SRN_READ sends its request; SRN_SIGNAL, once the earlier commands of its job have retired, sends its signal; SRN_ALLREDUCE, with its buffer granted every member inside the mesh and every partner card on its path showing the same digest, starts its collective; with a member outside the mesh it faults with SRN_ROUTE_INVALID, with another digest shown with CONFIG_MISMATCH, before anything is sent, and its buffer is free. -/
def Obligations.SerrunCommandsRun : Prop :=
  (∀ (c : Chip) (l : List Instr) (o : Origin) (b : Body) (c' : Chip),
      running c = true →
      stillToDo c o (dmaOf o) 0x60 b = true →
      handTo c o (dmaOf o) 0x60 b = c' →
      srnLenBad b = false →
      bf b 0x24 31 30 ≤ 1 →
      srnBlocked c' b = none →
      runsWait c' o.part.val [if bf b 0x24 31 30 = 1 then [(bq b 0x10, bw b 0x20, false)] else []] = false →
      (placePrefix c' o { space := bf b 0x24 31 30, addr := bq b 0x10 } (bw b 0x20) false).2 = none →
      exec (.srnWrite o b) ⟨c, l⟩ = .next ⟨pushGo c' o 0x60 b (fun d => .write (bq b 0x18) d), l⟩) ∧
  (∀ (c : Chip) (l : List Instr) (o : Origin) (b : Body) (c' : Chip),
      running c = true →
      stillToDo c o (dmaOf o) 0x62 b = true →
      handTo c o (dmaOf o) 0x62 b = c' →
      srnUpdateBad b = false →
      srnBlocked c' b = none →
      runsWait c' o.part.val [if bf b 0x24 31 30 = 1 then [(bq b 0x10, bw b 0x20, false)] else []] = false →
      (placePrefix c' o { space := bf b 0x24 31 30, addr := bq b 0x10 } (bw b 0x20) false).2 = none →
      exec (.srnUpdate o b) ⟨c, l⟩ = .next ⟨pushGo c' o 0x62 b (fun d => .update (bq b 0x18) d (bf b 0x24 27 26) (bf b 0x24 25 24) (bb b 0x24 23)), l⟩) ∧
  (∀ (c : Chip) (l : List Instr) (o : Origin) (b : Body) (c' : Chip),
      running c = true →
      stillToDo c o (dmaOf o) 0x61 b = true →
      handTo c o (dmaOf o) 0x61 b = c' →
      srnLenBad b = false →
      bf b 0x24 29 28 ≤ 1 →
      srnBlocked c' b = none →
      exec (.srnRead o b) ⟨c, l⟩ = .next ⟨srnLaunch c' o 0x61 b (.read (bf b 0x24 29 28) (bq b 0x18) false) (.read (bq b 0x10) (bw b 0x20)), l⟩) ∧
  (∀ (c : Chip) (l : List Instr) (o : Origin) (b : Body) (c' : Chip),
      running c = true →
      stillToDo c o (dmaOf o) 0x64 b = true →
      handTo c o (dmaOf o) 0x64 b = c' →
      mayFollow c' o (dmaOf o) 0x64 b = true →
      srnBlocked c' b = none →
      exec (.srnSignal o b) ⟨c, l⟩ = .next ⟨srnLaunch c' o 0x64 b .signal (.signal (bf b 0x10 15 0) (bw b 0x14)), l⟩) ∧
  (∀ (c : Chip) (l : List Instr) (o : Origin) (b : Body) (c' : Chip),
      running c = true →
      stillToDo c o (dmaOf o) 0x63 b = true →
      handTo c o (dmaOf o) 0x63 b = c' →
      collInvalid c' b = false →
      runsWait c' o.part.val [[(bq b 0x10, bw b 0x20, true)]] = false →
      memRefusal c' o.part.val (bq b 0x10) (bw b 0x20) true = none →
      collOutside c' = false →
      badDigest c' = none →
      exec (.srnAllreduce o b) ⟨c, l⟩ = .next ⟨collStart c' o b, l⟩) ∧
  (∀ (c : Chip) (l : List Instr) (o : Origin) (b : Body) (port : Nat) (c' : Chip),
      running c = true →
      stillToDo c o (dmaOf o) 0x63 b = true →
      handTo c o (dmaOf o) 0x63 b = c' →
      collInvalid c' b = false →
      runsWait c' o.part.val [[(bq b 0x10, bw b 0x20, true)]] = false →
      memRefusal c' o.part.val (bq b 0x10) (bw b 0x20) true = none →
      collOutside c' = true ∧ port = 0 ∨ collOutside c' = false ∧ badDigest c' = some port →
      exec (.srnAllreduce o b) ⟨c, l⟩ = .next ⟨srnFault (loseBuf c' o.part.val (collOfBody b)) port o 0x63 b (if collOutside c' then 0x94 else 0x92), l⟩)

/-- While the module runs: a packet for this module that arrives on a link that is UP is delivered, and counted, answered or refused; one for another module is forwarded where the next link is UP, and discarded with a refusal where it is not. An answer for this module acts as its arrival does; one for another is forwarded, and discarded without a refusal where the next link is not UP. A refusal of a live transfer fails it with the refusal's code; an acknowledgement that comes before the timeout ends a write or a signal and lands a read's data, once its memory can be reached; a transfer past its timeout fails with SRN_LINK_DOWN, also where its acknowledgement or its refusal comes then; a collective past its own fails with SRN_COLL_TIMEOUT. -/
def Obligations.SerrunPacketsMove : Prop :=
  (∀ (c : Chip) (l : List Instr) (port : Fin 5) (k : Packet),
      running c = true →
      linkUpAt c port.val = true →
      isMine c k = true →
      isAnswer k.body = false →
      exec (.srnPacketArrival port k) ⟨c, l⟩ = .next ⟨packetArrived port.val k (deliver c port.val k), l⟩) ∧
  (∀ (c : Chip) (l : List Instr) (port : Fin 5) (k : Packet) (data : Payload),
      running c = true →
      linkUpAt c port.val = true →
      isMine c k = true →
      k.body = .ack data →
      exec (.srnPacketArrival port k) ⟨c, l⟩ = .next ⟨srnAckArrival c k.xfer data, l⟩) ∧
  (∀ (c : Chip) (l : List Instr) (port : Fin 5) (k : Packet) (reason : RefusalReason),
      running c = true →
      linkUpAt c port.val = true →
      isMine c k = true →
      k.body = .refusal reason →
      exec (.srnPacketArrival port k) ⟨c, l⟩ = .next ⟨srnRefusalArrival c k.xfer reason, l⟩) ∧
  (∀ (c : Chip) (l : List Instr) (port : Fin 5) (k : Packet) (q : Nat),
      running c = true →
      linkUpAt c port.val = true →
      isMine c k = false →
      routePort c k.dstX.val k.dstY.val = some q →
      linkUpAt c q = true →
      exec (.srnPacketForward port k) ⟨c, l⟩ = .next ⟨sendPacket (countRx c port.val (bodyData k.body).bytes.length) q k, l⟩) ∧
  (∀ (c : Chip) (l : List Instr) (port : Fin 5) (k : Packet) (q : Nat),
      running c = true →
      isMine c k = false →
      routePort c k.dstX.val k.dstY.val = some q →
      linkUpAt c q = false →
      exec (.srnPacketDiscard port k) ⟨c, l⟩ = .next ⟨(let t := countRx c port.val (bodyData k.body).bytes.length
        if isAnswer k.body then t else reply t k 0 (fun q => .refusal q k.xfer .linkDown)), l⟩) ∧
  (∀ (c : Chip) (l : List Instr) (xfer : Nat) (reason : RefusalReason) (x : Xfer),
      running c = true →
      xferById c xfer = some x →
      exec (.srnRefusalArrival xfer reason) ⟨c, l⟩ = .next ⟨failXfer c x (if ackLate c x then 0x90 else refusalCode reason), l⟩) ∧
  (∀ (c : Chip) (l : List Instr) (xfer : Nat) (data : Payload) (x : Xfer) (o : Origin) (b : Body) (op : Nat) (t : Chip),
      running c = true →
      xferById c xfer = some x →
      (if hasCome x then c else countRx c x.port data.bytes.length) = t →
      ackLate t x = false →
      x.kind = .write op →
      x.who = some (o, b) →
      exec (.srnAckArrival xfer data) ⟨c, l⟩ = .next ⟨dmaDone (handTo (dropXfer t x.id) o (dmaOf o) op b) o op b, l⟩) ∧
  (∀ (c : Chip) (l : List Instr) (xfer : Nat) (data : Payload) (x : Xfer) (o : Origin) (b : Body) (t : Chip),
      running c = true →
      xferById c xfer = some x →
      (if hasCome x then c else countRx c x.port data.bytes.length) = t →
      ackLate t x = false →
      x.kind = .signal →
      x.who = some (o, b) →
      exec (.srnAckArrival xfer data) ⟨c, l⟩ = .next ⟨dmaDone (handTo (dropXfer t x.id) o (dmaOf o) 0x64 b) o 0x64 b, l⟩) ∧
  (∀ (c : Chip) (l : List Instr) (xfer : Nat) (data : Payload) (x : Xfer) (o : Origin) (b : Body) (space dst : Nat) (come : Bool) (t : Chip),
      running c = true →
      xferById c xfer = some x →
      (if hasCome x then c else countRx c x.port data.bytes.length) = t →
      ackLate t x = false →
      x.kind = .read space dst come →
      x.who = some (o, b) →
      exec (.srnAckArrival xfer data) ⟨c, l⟩ = .next ⟨readArrived t x o b space dst data, l⟩) ∧
  (∀ (c : Chip) (l : List Instr) (xfer : Nat) (data : Payload) (x : Xfer) (t : Chip),
      running c = true →
      xferById c xfer = some x →
      (if hasCome x then c else countRx c x.port data.bytes.length) = t →
      ackLate t x = true →
      exec (.srnAckArrival xfer data) ⟨c, l⟩ = .next ⟨failXfer t x 0x90, l⟩) ∧
  (∀ (c : Chip) (l : List Instr) (xfer : Nat) (x : Xfer),
      running c = true →
      xferById c xfer = some x →
      ackCounts x.kind = true →
      x.started + msOf (rd c (.srn 0) Reg.SRN_ACK_CFG_ACK_TIMEOUT) ≤ c.now →
      exec (.srnAckTimeout xfer) ⟨c, l⟩ = .next ⟨failXfer c x 0x90, l⟩) ∧
  (∀ (c : Chip) (l : List Instr) (xfer : Nat) (x : Xfer) (k : Coll),
      running c = true →
      xferById c xfer = some x →
      x.kind = .coll k →
      x.started + msOf (rd c (.srn 0) Reg.SRN_ACK_CFG_COLL_TIMEOUT) ≤ c.now →
      exec (.srnCollTimeout xfer) ⟨c, l⟩ = .next ⟨failXfer c x 0x95, l⟩)

/-- A frame error of a lane group in use is noted, counted and replayed, and the group is dropped at its threshold; a retraining that ends leaves the groups that are left; a link that can train is trained and sends its card; a partner's card shows in the port's registers; a retrain forgets the dropped groups and starts the link again, or sends a card on a trained one; a cable that is inserted is read, and a removed one takes its link down. -/
def Obligations.SerrunLinksMove : Prop :=
  (∀ (c : Chip) (l : List Instr) (port : Fin 5) (g : Fin 4),
      running c = true →
      2 ≤ linkState c port.val →
      bit (rd c (.srn port.val) Reg.SRN_LINK_STAT_GROUPS) g.val = true →
      exec (.srnFrameCrcFail port g) ⟨c, l⟩ = .next ⟨(if groupWorn (crcNoted c port.val g.val) port.val g.val then dropGroup (crcNoted c port.val g.val) port.val g.val
        else crcNoted c port.val g.val), l⟩) ∧
  (∀ (c : Chip) (l : List Instr) (port : Fin 5),
      running c = true →
      2 ≤ linkState c port.val →
      (srnPort c port.val).retraining = true →
      exec (.srnRetrainComplete port) ⟨c, l⟩ = .next ⟨wr (setPort c port.val (fun x => { x with retraining := false })) (.srn port.val) Reg.SRN_LINK_STAT_GROUPS
        (groupsLeft c port.val), l⟩) ∧
  (∀ (c : Chip) (l : List Instr) (port : Fin 5),
      running c = true →
      linkState c port.val = 1 →
      canTrain c port.val = true →
      exec (.srnTrainingComplete port) ⟨c, l⟩ = .next ⟨linkTrained c port.val, l⟩) ∧
  (∀ (c : Chip) (l : List Instr) (port : Fin 5) (card : BitVec 512),
      running c = true →
      2 ≤ linkState c port.val →
      exec (.crewCardReceived port card) ⟨c, l⟩ = .next ⟨cardTaken c port.val card, l⟩) ∧
  (∀ (c : Chip) (l : List Instr) (port : Fin 5),
      running c = true →
      driverOpen c = true →
      exec (.srnRetrain port) ⟨c, l⟩ = .next ⟨(let t := setPort c port.val (fun x => { x with dropped := [] })
        if linkState t port.val < 2 then startTraining t port.val
        else sendCard (setPort t port.val (fun x => { x with retraining := true })) port.val), l⟩) ∧
  (∀ (c : Chip) (l : List Instr) (port : Fin 5) (lanes : Nat),
      hubOn c = true →
      c.sec.booted = true →
      exec (.cableInsert port lanes) ⟨c, l⟩ = .next ⟨trainPort (setPort c port.val (fun x => { x with cable := some lanes, read := false, signal := true })) port.val, l⟩) ∧
  (∀ (c : Chip) (l : List Instr) (port : Fin 5),
      exec (.cableRemove port) ⟨c, l⟩ = .next ⟨dropLink (setPort c port.val (fun x => { x with cable := none, read := false, signal := false })) port.val, l⟩)

/-- While the module runs: a write of a partition's crew configuration with a tag no other receiving partition has sets it, sends the role, shows a conflict, and promotes where a STANDBY becomes PRIMARY; a promoted partition with no walk frees its retire rings; with the twin link UP, a role notice shows conflicts and a mirrored write of this epoch is stored and answered; the loss of a twin link that is UP takes it down. With the hub on and the firmware running, a placement message is applied and answered 0, or refused and answered 1, through the endpoint it came by (the answer's byte is the model's, DEDUCED, log 84; the promotion waits with its role write, log 123). -/
def Obligations.TwinCommandsRun : Prop :=
  (∀ (c : Chip) (l : List Instr) (p : Fin 16) (value : Word),
      running c = true →
      driverOpen c = true →
      tagTaken c p.val (value.toNat % 2 ^ 16) = false →
      exec (.twinRoleWrite p value) ⟨c, l⟩ = .next ⟨(let t := showConflict (sendRole (roleWritten c p.val value.toNat) p.val) p.val
        if twinRole c p.val = 2 ∧ bits value.toNat 30 29 = 1 then promote c t p.val else t), l⟩) ∧
  (∀ (c : Chip) (l : List Instr) (p : Fin 16) (e : Rd × Option KvCtx) (k : KvCtx),
      running c = true →
      kmem c.mesh.promoted p.val = true →
      kvBusy c p.val = false →
      (startRd c).ctx p.val (allocRegion c p.val) none = e →
      e.2 = some k →
      (kvPart c p.val).lost = false →
      exec (.twinRetireFree p) ⟨c, l⟩ = .next ⟨freeEnd (freeRings c p.val k e.1) c p.val, l⟩) ∧
  (∀ (c : Chip) (l : List Instr) (tag : BitVec 16) (role : Fin 4),
      running c = true →
      linkUpAt c 4 = true →
      exec (.roleNoticeReceived tag role) ⟨c, l⟩ = .next ⟨(List.range 16).foldl showConflict (noteRole c tag.toNat role.val), l⟩) ∧
  (∀ (c : Chip) (l : List Instr) (tag epoch : BitVec 16) (xfer : Nat) (w : Mirror),
      running c = true →
      linkUpAt c 4 = true →
      (epochRefusal c 4 epoch.toNat).isNone = true →
      exec (.mirrorWriteArrival tag epoch xfer w) ⟨c, l⟩ = .next ⟨mirrorAnswer xfer (mirrorLen w) (deliverMirror c tag.toNat w), l⟩) ∧
  (∀ (c : Chip) (l : List Instr),
      linkUpAt c 4 = true →
      exec (.twinLinkLoss) ⟨c, l⟩ = .next ⟨srnSignalLoss c 4, l⟩) ∧
  (∀ (c : Chip) (l : List Instr) (m : Placement) (via : Endpoint),
      endpointOpen c via = true →
      hubOn c = true →
      firmwareOn c = true →
      exec (.place m via) ⟨c, l⟩ = .next ⟨(if placeRefused c m then answer c via 3 [1] else answer (applyPlacement c m) via 3 [0]), l⟩)

/-- While the module runs: an ACTIVE queue whose PI is ahead of its CI, with its region awake, takes the next command from where it lies, and its CI goes on; an engine that is open and not busy issues the command that its scheduler picks among the ready jobs; a command all of whose copies are done, with no mirrored write of it outstanding, retires. -/
def Obligations.QueuesFetchAndDispatch : Prop :=
  (∀ (c : Chip) (l : List Instr) (p : Fin 16) (n : Fin 64) (host : HostReply) (t : Chip) (k : Command),
      running c = true →
      queueState c p.val n.val = 1 →
      rd c (.sq p.val n.val) Reg.SQ_PI_PI ≠ rd c (.sq p.val n.val) Reg.SQ_CI_CI →
      regionAwake c (rd c (.sq p.val n.val) Reg.SQ_CFG_QUAD / 4) = true →
      fetchBytes c p.val n.val host = (t, some (some k)) →
      exec (.commandFetch p n host) ⟨c, l⟩ = .next ⟨takeFetched t p.val n.val k, l⟩) ∧
  (∀ (c : Chip) (l : List Instr) (e : Engine) (t : Chip) (x : Chip × Option (Job × Cmd)) (k : Job × Cmd),
      running c = true →
      dispatchState c e = t →
      engineBusy t e = false →
      (readyJobs t e).isEmpty = false →
      engineOpen t e = true →
      dispatchPick t e (readyJobs t e) = x →
      x.2 = some k →
      exec (.engineDispatch e) ⟨c, l⟩ = .next ⟨noteReady (issue x.1 e k.1 k.2) e, l⟩) ∧
  (∀ (c : Chip) (l : List Instr) (o : Origin) (index : Nat) (j : Job),
      running c = true →
      retiringJob c o index = some j →
      exec (.commandRetire o index) ⟨c, l⟩ = .next ⟨retireCmd c j.id index, l⟩)

/-- While the module runs, with a switch in progress at a quad front: a victim's tack list is read when it reaches its point; once every victim stands at a point, the spill is planned, and until then the waits of those at a point are withdrawn; a SPILLING front that has memory for it stores the spill, ends its sets and counts the switch; a SWITCHED front with no urgent job left begins to resume; a RESTORING front restores what was spilled, from slot units where the partition uses them, and the switch is over. -/
def Obligations.PreemptionRuns : Prop :=
  (∀ (c : Chip) (l : List Instr) (q : Fin 16) (w : Switch) (k : List Nat) (e : Chip × Switch),
      running c = true →
      tget c.switches q.val = some w →
      rd c (.qf q.val) Reg.QF_PREEMPT_STAT_STATE = 1 →
      victimsAt c w = k →
      k.foldl (readTack q.val) (c, w) = e →
      k.length = w.victims.length →
      exec (.preemptPointReached q) ⟨c, l⟩ = .next ⟨planSpill e.1 q.val e.2 k, l⟩) ∧
  (∀ (c : Chip) (l : List Instr) (q : Fin 16) (w : Switch) (k : List Nat) (e : Chip × Switch),
      running c = true →
      tget c.switches q.val = some w →
      rd c (.qf q.val) Reg.QF_PREEMPT_STAT_STATE = 1 →
      victimsAt c w = k →
      k.foldl (readTack q.val) (c, w) = e →
      k.length < w.victims.length →
      exec (.preemptPointReached q) ⟨c, l⟩ = .next ⟨keepSwitch (withdrawAt e.1 k) q.val { e.2 with atPoint := k }, l⟩) ∧
  (∀ (c : Chip) (l : List Instr) (q : Fin 16) (w v : Switch) (p : Nat) (d : Chip × List (Byte × Bool)) (x : SpillPlan),
      running c = true →
      tget c.switches q.val = some w →
      rd c (.qf q.val) Reg.QF_PREEMPT_STAT_STATE = 2 →
      (quadOwner c q.val).getD 0 = p →
      spillSets c w = v →
      spillData c q.val v = d →
      planSlots (q.val / 4) c p v.base (spillHeader c q.val v) d.2 = x →
      runsWait c p x.runs = false →
      firstRefusal c p x.runs = none →
      exec (.spillComplete q) ⟨c, l⟩ = .next ⟨spillOver ((x.parts.take (partsMade c p x.runs)).foldl (putPart (q.val / 4) p) d.1) q.val v, l⟩) ∧
  (∀ (c : Chip) (l : List Instr) (q : Fin 16) (w : Switch),
      running c = true →
      tget c.switches q.val = some w →
      rd c (.qf q.val) Reg.QF_PREEMPT_STAT_STATE = 3 →
      c.q.jobs.any (fun j => j.urgent && j.quad == q.val) = false →
      exec (.resumeStart q) ⟨c, l⟩ = .next ⟨resumeFrom c q.val w, l⟩) ∧
  (∀ (c : Chip) (l : List Instr) (q : Fin 16) (w : Switch),
      running c = true →
      tget c.switches q.val = some w →
      rd c (.qf q.val) Reg.QF_PREEMPT_STAT_STATE = 4 →
      (slotCtx c (q.val / 4) ((quadOwner c q.val).getD 0)).isNone = true →
      runsWait c ((quadOwner c q.val).getD 0) ((restoreRuns c w).map (fun e => e.2)) = false →
      exec (.restoreComplete q) ⟨c, l⟩ = .next ⟨restored none (restoreRuns c w) c q.val w, l⟩) ∧
  (∀ (c : Chip) (l : List Instr) (q : Fin 16) (w : Switch) (p : Nat) (k : SlotCtx) (tag : Nat → Nat) (runs : List (Nat × List (Nat × Nat × Bool))) (e : Chip × Option Memory),
      running c = true →
      tget c.switches q.val = some w →
      rd c (.qf q.val) Reg.QF_PREEMPT_STAT_STATE = 4 →
      (quadOwner c q.val).getD 0 = p →
      slotCtx c (q.val / 4) p = some k →
      spillTag c p k = tag →
      recordRuns c tag w = runs →
      runsWait c p (runs.map (fun e => e.2)) = false →
      readUnits (q.val / 4) p tag w c = e →
      exec (.restoreComplete q) ⟨c, l⟩ = .next ⟨restored e.2 runs e.1 q.val w, l⟩)

/-- While the module runs: a bank that is not fenced grants the access its arbiter chooses, counts it and, for a read, meets what the word holds; the scrubber of a powered bank reads its next 64 bytes and goes on; a fill by the bank's registers begins where none is busy, or is DONE at once where its range is empty. -/
def Obligations.BankEventsRun : Prop :=
  (∀ (c : Chip) (l : List Instr) (bank : Fin 256) (waiting : List BankAccess) (met : Ecc) (a : BankAccess),
      running c = true →
      bankFenced c bank.val = false →
      chooseAccess (fun k => tgetD c.bankTurn (bank.val * 8 + k) 0) waiting = some a →
      exec (.bankGrant bank waiting met) ⟨c, l⟩ = .next ⟨grantAccess c bank.val a met, l⟩) ∧
  (∀ (c : Chip) (l : List Instr) (bank : Fin 256) (met : Ecc),
      running c = true →
      rd c (.spb bank.val) Reg.SPB_CFG_SCRUB_EN ≠ 0 →
      bankFenced c bank.val = false →
      rd c (.spb bank.val) Reg.SPB_STAT_POWER = 0 →
      exec (.bankScrubRead bank met) ⟨c, l⟩ = .next ⟨scrubNext c bank.val met, l⟩) ∧
  (∀ (c : Chip) (l : List Instr) (bank : Fin 256),
      running c = true →
      driverOpen c = true →
      bankFenced c bank.val = false →
      rd c (.spb bank.val) Reg.SPB_ZF_STAT_BUSY ≠ 1 →
      rd c (.spb bank.val) Reg.SPB_ZF_RANGE_FIRST ≤ rd c (.spb bank.val) Reg.SPB_ZF_RANGE_LAST →
      exec (.zeroFillGo bank) ⟨c, l⟩ = .next ⟨startRegFill c bank.val, l⟩) ∧
  (∀ (c : Chip) (l : List Instr) (bank : Fin 256),
      running c = true →
      driverOpen c = true →
      bankFenced c bank.val = false →
      rd c (.spb bank.val) Reg.SPB_ZF_STAT_BUSY ≠ 1 →
      rd c (.spb bank.val) Reg.SPB_ZF_RANGE_LAST < rd c (.spb bank.val) Reg.SPB_ZF_RANGE_FIRST →
      exec (.zeroFillGo bank) ⟨c, l⟩ = .next ⟨setFlag (wr c (.spb bank.val) Reg.SPB_ZF_STAT_DONE 1) (.spb bank.val) Reg.SPB_IRQ_STAT_ZF_DONE, l⟩)

/-- While the module runs, for a write that reaches the partition: a doorbell of a READY queue that moves PI forward by at most the ring's size sets it and wakes the region; an enable outside SCRUBBING and RELEASING enables the queue; a resume of a STOPPED queue makes it ACTIVE; a reset aborts the queue's jobs, which end once their commands have, and then the queue is OFF; a completion head up to the unread records frees them and drains the held records; a host signal of an owned semaphore that does not overflow adds to it, and otherwise is counted as rejected. -/
def Obligations.QueuePageWritesRun : Prop :=
  (∀ (c : Chip) (l : List Instr) (via : Via) (p : Fin 16) (n : Fin 64) (v : Word),
      running c = true →
      viaOpen c via = true →
      reaches c via p.val = true →
      partState c p.val ≠ 4 →
      queueState c p.val n.val ≠ 0 →
      queueState c p.val n.val ≠ 4 →
      v.toNat ≠ rd c (.sq p.val n.val) Reg.SQ_PI_PI →
      (v.toNat + 2 ^ 32 - rd c (.sq p.val n.val) Reg.SQ_PI_PI) % 2 ^ 32 < 2 ^ 31 →
      (v.toNat + 2 ^ 32 - rd c (.sq p.val n.val) Reg.SQ_CI_CI) % 2 ^ 32 ≤ 2 ^ rd c (.sq p.val n.val) Reg.SQ_CFG_SIZE_LOG2 →
      exec (.sqDoorbell via p n v) ⟨c, l⟩ = .next ⟨regionCall (wr c (.sq p.val n.val) Reg.SQ_PI_PI v.toNat) (rd c (.sq p.val n.val) Reg.SQ_CFG_QUAD / 4), l⟩) ∧
  (∀ (c : Chip) (l : List Instr) (via : Via) (p : Fin 16) (n : Fin 64),
      running c = true →
      viaOpen c via = true →
      reaches c via p.val = true →
      partState c p.val ≠ 4 →
      partState c p.val ≠ 5 →
      exec (.queueEnable via p n) ⟨c, l⟩ = .next ⟨enableQueue c p.val n.val, l⟩) ∧
  (∀ (c : Chip) (l : List Instr) (via : Via) (p : Fin 16) (n : Fin 64),
      running c = true →
      viaOpen c via = true →
      reaches c via p.val = true →
      partState c p.val ≠ 4 →
      queueState c p.val n.val = 3 →
      exec (.queueResume via p n) ⟨c, l⟩ = .next ⟨showStopping (wr c (.sq p.val n.val) Reg.SQ_STAT_STATE 1) p.val, l⟩) ∧
  (∀ (c : Chip) (l : List Instr) (via : Via) (p : Fin 16) (n : Fin 64) (byEnable : Bool),
      running c = true →
      viaOpen c via = true →
      reaches c via p.val = true →
      partState c p.val ≠ 4 →
      exec (.queueReset via p n byEnable) ⟨c, l⟩ = .next ⟨resetQueueStep (fun t => beginReset t p.val n.val 0x0200) c p.val n.val, l⟩) ∧
  (∀ (c : Chip) (l : List Instr) (via : Via) (p : Fin 16) (n : Fin 64) (v : Word),
      running c = true →
      viaOpen c via = true →
      reaches c via p.val = true →
      partState c p.val ≠ 4 →
      (v.toNat + 2 ^ 32 - rd c (.sq p.val n.val) Reg.SQ_CQ_HEAD_HEAD) % 2 ^ 32 ≤ cqUnread c p.val n.val →
      exec (.sqCqHeadWrite via p n v) ⟨c, l⟩ = .next ⟨drainQueue (wr c (.sq p.val n.val) Reg.SQ_CQ_HEAD_HEAD v.toNat) p.val n.val, l⟩) ∧
  (∀ (c : Chip) (l : List Instr) (via : Via) (p : Fin 16) (n : Fin 64) (v : Word),
      running c = true →
      viaOpen c via = true →
      reaches c via p.val = true →
      partState c p.val ≠ 4 →
      semOwned c p.val (bits v.toNat 31 16) = true →
      semVal c (bits v.toNat 31 16) + bits v.toNat 15 0 ≤ semTop →
      exec (.sqHostSignal via p n v) ⟨c, l⟩ = .next ⟨semAdd c (bits v.toNat 31 16) (bits v.toNat 15 0), l⟩) ∧
  (∀ (c : Chip) (l : List Instr) (via : Via) (p : Fin 16) (n : Fin 64) (v : Word),
      running c = true →
      viaOpen c via = true →
      reaches c via p.val = true →
      partState c p.val ≠ 4 →
      (semOwned c p.val (bits v.toNat 31 16) = false ∨ semTop < semVal c (bits v.toNat 31 16) + bits v.toNat 15 0) →
      exec (.sqHostSignal via p n v) ⟨c, l⟩ = .next ⟨bump c (.sq p.val n.val) Reg.SQ_IGNORED_HOST_REJECT 1, l⟩)

/-- While the module runs, for the partition that the walker's PART_SEL names, with its allocator in the region: a model load reads the model's layout through the context and takes or rejects it; a write of a free depth, with no walk and no edit of the partition, sets it and ends the loss of the allocator's state. A slot context's load reads 64 bytes and, unless it waits, takes the context or rejects it. -/
def Obligations.WalkerPageWritesRun : Prop :=
  (∀ (c : Chip) (l : List Instr) (region : Fin 4) (index : Nat) (p : Nat) (e : Rd × Option KvCtx) (k : Rd × Option KvLayout),
      running c = true →
      driverOpen c = true →
      walkerPart c region.val = p →
      (quadsOf c p).isEmpty = false →
      allocRegion c p = region.val →
      (startRd c).ctx p region.val none = e →
      modelRead p (index % 16) e = k →
      k.1.hold = none →
      exec (.pwModelLoad region index) ⟨c, l⟩ = .next ⟨setFlag (setModel (k.1.settle c p none) p (index % 16) k.2) (.pw region.val) Reg.PW_IRQ_STAT_MODEL_DONE, l⟩) ∧
  (∀ (c : Chip) (l : List Instr) (region : Fin 4) (tierB : Bool) (v : Word) (p : Nat),
      running c = true →
      driverOpen c = true →
      rd c (.pw region.val) Reg.PW_PART_SEL_PARTITION = p →
      (quadsOf c p).isEmpty = false →
      allocRegion c p = region.val →
      kvBusy c p = false →
      editing c p = false →
      exec (.pwFreeWrite region tierB v) ⟨c, l⟩ = .next ⟨setFree (setKvPart c p (fun k => { k with lost := false })) p tierB (bits v.toNat 30 0), l⟩) ∧
  (∀ (c : Chip) (l : List Instr) (region : Fin 4) (p : Fin 16) (e : SlotCtxRead),
      running c = true →
      driverOpen c = true →
      slotCtxRead c region.val p.val = e →
      e.x.hold = none →
      exec (.skvCtxLoad region p) ⟨c, l⟩ = .next ⟨slotCtxTaken c region.val p.val e, l⟩)

/-- While the module runs: a range entry that is in order is written, and one that is not leaves the entry as it is and its reason in RANGE_STAT; a slice entry that is in order is written (once retired, it stays retired), and one that is not leaves its reason in SLICE_STAT; a regulator's configuration sets its rate and burst, and its credit starts at the burst; a refill gives each regulator its rate. -/
def Obligations.MemoryPageWritesRun : Prop :=
  (∀ (c : Chip) (l : List Instr) (stack : Fin 16) (p : Fin 16) (r : Fin 4) (v : Word),
      running c = true →
      driverOpen c = true →
      rangeReason c stack.val p.val v.toNat = 0 →
      exec (.hbmRangeWrite stack p r v) ⟨c, l⟩ = .next ⟨wrAll c (.hbm stack.val) [(Reg.HBM_RANGE_VALID p.val r.val, bits v.toNat 31 31), (Reg.HBM_RANGE_RO p.val r.val, bits v.toNat 30 30),
        (Reg.HBM_RANGE_LAST p.val r.val, bits v.toNat 26 16), (Reg.HBM_RANGE_FIRST p.val r.val, bits v.toNat 10 0)], l⟩) ∧
  (∀ (c : Chip) (l : List Instr) (stack : Fin 16) (p : Fin 16) (r : Fin 4) (v : Word),
      running c = true →
      driverOpen c = true →
      rangeReason c stack.val p.val v.toNat ≠ 0 →
      exec (.hbmRangeWrite stack p r v) ⟨c, l⟩ = .next ⟨wrAll c (.hbm stack.val) [(Reg.HBM_RANGE_STAT_REASON, rangeReason c stack.val p.val v.toNat), (Reg.HBM_RANGE_STAT_PARTITION, p.val),
        (Reg.HBM_RANGE_STAT_RANGE, r.val)], l⟩) ∧
  (∀ (c : Chip) (l : List Instr) (v : Word) (n : Nat) (e : Slice),
      running c = true →
      driverOpen c = true →
      rd c (.tb 0) Reg.TB_SLICE_SEL_SLICE = n →
      sliceEntry c n = e →
      sliceReason e v.toNat = 0 →
      exec (.tbSliceWrite v) ⟨c, l⟩ = .next ⟨putSlice c n { valid := bit v.toNat 31, ro := bit v.toNat 30, retired := e.retired || bit v.toNat 29, owner := bits v.toNat 3 0 }, l⟩) ∧
  (∀ (c : Chip) (l : List Instr) (v : Word) (n : Nat) (e : Slice),
      running c = true →
      driverOpen c = true →
      rd c (.tb 0) Reg.TB_SLICE_SEL_SLICE = n →
      sliceEntry c n = e →
      sliceReason e v.toNat ≠ 0 →
      exec (.tbSliceWrite v) ⟨c, l⟩ = .next ⟨wr c (.tb 0) Reg.TB_SLICE_STAT_REASON (sliceReason e v.toNat), l⟩) ∧
  (∀ (c : Chip) (l : List Instr) (unit : Fin 17) (p : Fin 16) (v : Word) (t : Chip),
      running c = true →
      driverOpen c = true →
      (if unit.val < 16 then
      wrAll c (.hbm unit.val) [(Reg.HBM_GIRTH_CFG_RATE p.val, bits v.toNat 31 16), (Reg.HBM_GIRTH_CFG_BURST p.val, bits v.toNat 15 0)]
    else wrAll c (.tb 0) [(Reg.TB_GIRTH_CFG_RATE p.val, bits v.toNat 31 16), (Reg.TB_GIRTH_CFG_BURST p.val, bits v.toNat 15 0)]) = t →
      exec (.girthCfgWrite unit p v) ⟨c, l⟩ = .next ⟨memoryGoes (serveNow (setGirth t unit.val p.val { girthOf t unit.val p.val with credit := girthBurst t unit.val p.val }) unit.val p.val), l⟩) ∧
  (∀ (c : Chip) (l : List Instr),
      running c = true →
      exec (.girthRefill) ⟨c, l⟩ = .next ⟨memoryGoes ((c.girth.map (fun e => e.1)).foldl (fun t k => refillOne t (k / 16) (k % 16)) c), l⟩)

/-- While the module runs: an accepted retirement of a channel starts its copy, whose granules are copied in turn, and the copy's end retires the channel; a patrol reads its next line; tier B goes to self-refresh after its idle time; the end of a tier's initialisation zeroes the tier and makes it usable; a step of a partition's scrub zeroes units of a stack or a slice and shows what is left, and the last one releases the partition or makes it READY. Transfers that wait for memory go on where it comes free. (That a copy's command covers n granules is log entry 65's, and the steps of a scrub are log entry 56's.) -/
def Obligations.MemoryEventsRun : Prop :=
  (∀ (c : Chip) (l : List Instr) (stack : Fin 16),
      running c = true →
      driverOpen c = true →
      rd c (.hbm stack.val) Reg.HBM_STAT_RETIRE_STATE = 1 →
      exec (.retireAccept stack) ⟨c, l⟩ = .next ⟨{ c with retire := kadd c.retire stack.val }, l⟩) ∧
  (∀ (c : Chip) (l : List Instr) (stack : Fin 16),
      running c = true →
      rd c (.hbm stack.val) Reg.HBM_STAT_RETIRE_STATE = 1 →
      kmem c.retire stack.val = true →
      exec (.retireCopyStart stack) ⟨c, l⟩ = .next ⟨wrAll c (.hbm stack.val) [(Reg.HBM_STAT_RETIRE_STATE, 2), (Reg.HBM_RETIRE_PROGRESS_COPIED, 0)], l⟩) ∧
  (∀ (c : Chip) (l : List Instr) (stack : Fin 16) (n m : Nat),
      running c = true →
      rd c (.hbm stack.val) Reg.HBM_STAT_RETIRE_STATE = 2 →
      min (rd c (.hbm stack.val) Reg.HBM_RETIRE_PROGRESS_COPIED + n) retireGranules = m →
      m ≠ retireGranules →
      exec (.retireCopyComplete stack n) ⟨c, l⟩ = .next ⟨standbyRetry (memoryGoes (copyTo c stack.val m)), l⟩) ∧
  (∀ (c : Chip) (l : List Instr) (stack : Fin 16) (n : Nat),
      running c = true →
      rd c (.hbm stack.val) Reg.HBM_STAT_RETIRE_STATE = 2 →
      min (rd c (.hbm stack.val) Reg.HBM_RETIRE_PROGRESS_COPIED + n) retireGranules = retireGranules →
      exec (.retireCopyComplete stack n) ⟨c, l⟩ = .next ⟨standbyRetry (memoryGoes (copyOver (copyTo c stack.val retireGranules) stack.val)), l⟩) ∧
  (∀ (c : Chip) (l : List Instr) (unit : Fin 17) (met : Ecc),
      running c = true →
      patrolOn c unit.val = true →
      exec (.patrolScrubRead unit met) ⟨c, l⟩ = .next ⟨patrolNext c unit.val met, l⟩) ∧
  (∀ (c : Chip) (l : List Instr),
      running c = true →
      rd c (.tb 0) Reg.TB_CFG_SR_IDLE ≠ 0 →
      c.power.tierB = true →
      c.hosts.scrubs.all (fun x => x.slices.isEmpty) = true →
      rd c (.tb 0) Reg.TB_STAT_POWER = 0 →
      c.power.lastTierB + rd c (.tb 0) Reg.TB_CFG_SR_IDLE * 1000 ≤ c.now →
      exec (.tbSelfRefreshEntry) ⟨c, l⟩ = .next ⟨showTierB c 1, l⟩) ∧
  (∀ (c : Chip) (l : List Instr),
      running c = true →
      c.power.trained = true →
      c.power.tierA = false →
      exec (.tierInitComplete false) ⟨c, l⟩ = .next ⟨memoryGoes (memReady { memZero c 0 (16 * stackSize) with power := { c.power with tierA := true } }), l⟩) ∧
  (∀ (c : Chip) (l : List Instr),
      running c = true →
      c.power.trained = true →
      c.power.tierB = false →
      exec (.tierInitComplete true) ⟨c, l⟩ = .next ⟨memoryGoes (memReady (showTierB { memZero c tierBBase (2 ^ 40) with power := { c.power with tierB := true, lastTierB := c.now } } 0)), l⟩) ∧
  (∀ (c : Chip) (l : List Instr) (p : Fin 16) (step : ScrubStep) (x : Scrub) (e : Chip × Scrub),
      running c = true →
      c.hosts.scrubs.find? (fun x => x.part == p.val) = some x →
      scrubStep c x step = e →
      (e.2.perStack.isEmpty && e.2.slices.isEmpty) = true →
      exec (.releaseScrubComplete p step) ⟨c, l⟩ = .next ⟨scrubOver e.1 p.val x.release, l⟩) ∧
  (∀ (c : Chip) (l : List Instr) (p : Fin 16) (step : ScrubStep) (x : Scrub) (e : Chip × Scrub),
      running c = true →
      c.hosts.scrubs.find? (fun x => x.part == p.val) = some x →
      scrubStep c x step = e →
      (e.2.perStack.isEmpty && e.2.slices.isEmpty) = false →
      exec (.releaseScrubComplete p step) ⟨c, l⟩ = .next ⟨showScrubs { e.1 with hosts := { e.1.hosts with
        scrubs := e.1.hosts.scrubs.map (fun y => if y.part = p.val then e.2 else y) } }, l⟩)

/-- While the module runs: a CREATE of an UNUSED partition whose configuration passes makes it CREATING; once its pads are zero it is READY; a RESET of a READY partition, by the management function or by a tenant that may, resets it with code OK; a RELEASE of a READY or held partition starts the function-level reset effects with release, and in SCRUBBING asks for release at its end; a RECLAIM of a held partition makes it READY; a TEARDOWN of a held one, or a hold that is over, starts the effects without release. -/
def Obligations.PartitionCommandsRun : Prop :=
  (∀ (c : Chip) (l : List Instr) (p : Fin 16),
      running c = true →
      driverOpen c = true →
      partState c p.val = 0 →
      createCode c p.val = 0 →
      exec (.create p) ⟨c, l⟩ = .next ⟨setPartState c p.val 1, l⟩) ∧
  (∀ (c : Chip) (l : List Instr) (p : Fin 16) (k : List Nat),
      running c = true →
      partState c p.val = 1 →
      namedQuads c p.val = k →
      c.fills.any (fun f => k.contains (f.bank / 16)) = false →
      exec (.partitionCreated p) ⟨c, l⟩ = .next ⟨createdAs c p.val k, l⟩) ∧
  (∀ (c : Chip) (l : List Instr) (via : Via) (p : Fin 16),
      running c = true →
      viaOpen c via = true →
      reaches c via p.val = true →
      (isMgmt c via = true ∨ rd c (.part p.val) Reg.HUB_PART_CFG_TENANT_RESET ≠ 0) →
      partState c p.val = 2 →
      exec (.partitionReset via p) ⟨c, l⟩ = .next ⟨partCode (resetSteps c p.val) p.val 0, l⟩) ∧
  (∀ (c : Chip) (l : List Instr) (p : Fin 16),
      running c = true →
      driverOpen c = true →
      holdOver c p.val = false →
      (partState c p.val = 2 ∨ partState c p.val = 3) →
      exec (.release p) ⟨c, l⟩ = .next ⟨flrEffects c p.val true, l⟩) ∧
  (∀ (c : Chip) (l : List Instr) (p : Fin 16),
      running c = true →
      driverOpen c = true →
      holdOver c p.val = false →
      partState c p.val = 4 →
      exec (.release p) ⟨c, l⟩ = .next ⟨setPartState { c with hosts := { c.hosts with
        scrubs := c.hosts.scrubs.map (fun x => if x.part = p.val then { x with release := true } else x) } } p.val 5, l⟩) ∧
  (∀ (c : Chip) (l : List Instr) (via : Via) (p : Fin 16),
      running c = true →
      viaOpen c via = true →
      reaches c via p.val = true →
      holdOver c p.val = false →
      partState c p.val = 3 →
      exec (.reclaim via p) ⟨c, l⟩ = .next ⟨reclaimed c p.val, l⟩) ∧
  (∀ (c : Chip) (l : List Instr) (p : Fin 16),
      running c = true →
      driverOpen c = true →
      holdOver c p.val = false →
      partState c p.val = 3 →
      exec (.teardown p) ⟨c, l⟩ = .next ⟨partCode (flrEffects c p.val false) p.val 0, l⟩) ∧
  (∀ (c : Chip) (l : List Instr) (p : Fin 16),
      running c = true →
      holdOver c p.val = true →
      exec (.holdExpiry p) ⟨c, l⟩ = .next ⟨flrEffects (bump c (.pci (boundFunc c p.val).1) Reg.PCI_EVENTS_HOLD_EXPIRED 1) p.val false, l⟩)

/-- A function-level reset reaches the functions its cause names; PERST takes the port through a warm reset, and its release, which fixes the port's clock (that the clock stays until the next release is the model's reading of R504, log entry 49), shows after a warm one; a link comes up at a speed and a width the spec allows, and holds the partitions bound through it when it is lost; a completion timeout of an outstanding copy of host memory ends the command with the host error. -/
def Obligations.HostLinkEventsRun : Prop :=
  (∀ (c : Chip) (l : List Instr) (port : Fin 2) (fn : Fin 17),
      hubOn c = true →
      c.sec.booted = true →
      funcPresent c port.val fn.val = true →
      dlUp c port.val = true →
      exec (.functionLevelReset port fn .flr) ⟨c, l⟩ = .next ⟨(if fn.val = 0 then resetFunction (dropVfs c port.val 0) port.val 0 else resetFunction c port.val fn.val), l⟩) ∧
  (∀ (c : Chip) (l : List Instr) (port : Fin 2) (fn : Fin 17),
      hubOn c = true →
      c.sec.booted = true →
      exec (.functionLevelReset port fn .vfEnableCleared) ⟨c, l⟩ = .next ⟨dropVfs c port.val 0, l⟩) ∧
  (∀ (c : Chip) (l : List Instr) (port : Fin 2) (fn n : Fin 17),
      hubOn c = true →
      c.sec.booted = true →
      n.val < rd c (.pci port.val) Reg.PCI_LINK_STAT_NUM_VFS →
      exec (.functionLevelReset port fn (.numVfsLowered n)) ⟨c, l⟩ = .next ⟨dropVfs c port.val n.val, l⟩) ∧
  (∀ (c : Chip) (l : List Instr) (port : Fin 2),
      hubOn c = true →
      dlUp c port.val = true →
      exec (.perstAssert port true) ⟨c, l⟩ = .next ⟨setFlag (warmReset c port.val true) (.pci port.val) Reg.PCI_IRQ_STAT_PERST, l⟩) ∧
  (∀ (c : Chip) (l : List Instr) (port : Fin 2) (t : Chip),
      hubOn c = true →
      perst c port.val = false →
      setPerst c port.val true none = t →
      exec (.perstAssert port false) ⟨c, l⟩ = .next ⟨warmReset { t with hosts := { t.hosts with warm := kadd t.hosts.warm port.val } } port.val false, l⟩) ∧
  (∀ (c : Chip) (l : List Instr) (port : Fin 2) (clock : Bool) (t : Chip),
      perst c port.val = true →
      powerState c ≠ 0 →
      powerState c ≠ 1 →
      rd c .pm Reg.PM_STAT_ENTERING ≠ 1 →
      kmem c.hosts.warm port.val = true →
      setPerst c port.val false (some clock) = t →
      exec (.perstDeassert port clock) ⟨c, l⟩ = .next ⟨setFlag { t with hosts := { t.hosts with warm := kdel t.hosts.warm port.val } } (.pci port.val) Reg.PCI_IRQ_STAT_PERST, l⟩) ∧
  (∀ (c : Chip) (l : List Instr) (port : Fin 2),
      hubOn c = true →
      dlUp c port.val = true →
      exec (.surpriseLinkLoss port) ⟨c, l⟩ = .next ⟨linkLost c port.val, l⟩) ∧
  (∀ (c : Chip) (l : List Instr) (port : Fin 2) (speed : Fin 8) (width : Fin 16) (flit : Bool),
      linkMayRise c port.val speed.val width.val flit = true →
      exec (.linkUp port speed width flit) ⟨c, l⟩ = .next ⟨linkedUp c port.val speed.val width.val flit, l⟩) ∧
  (∀ (c : Chip) (l : List Instr) (o : Origin) (k : Cmd) (b : Body) (t : Chip),
      running c = true →
      (c.q.jobs.filter (fromOrigin o)).findSome? hostCommand = some k →
      hdrOpcode k.raw = 0x06 →
      bodyOf k.raw = b →
      copyInvalid b = false →
      handTo c o (dmaOf o) 0x06 b = t →
      runsWait t o.part.val (copyRuns b) = false →
      copyHost b = true →
      exec (.hostCompletionTimeout o) ⟨c, l⟩ = .next ⟨dmaDone (faultHost t o) o 0x06 b, l⟩)

/-- With the hub on and the link up: a configuration request of a function that is there, booted and not resetting takes effect and is answered, and one before boot is answered with a retry; a BAR2 read or write of a READY partition's memory that is granted reads or stores its bytes; one that is refused is counted, a refused write is dropped and a refused read answers ones, as they do, uncounted, where the function's partition is not bound or not READY; a scratchpad window's access that reaches no sleeping region goes through its parts in order; an AtomicOp on a function whose stream is not insecure is answered as unsupported, and noted by the function's error reporting (its bit 20, the configuration answers and the retry before boot are PCI Express's, log entry 48). -/
def Obligations.HostRequestsAnswered : Prop :=
  (∀ (c : Chip) (l : List Instr) (port : Fin 2) (fn : Fin 17) (a : ConfigAccess),
      hubOn c = true →
      dlUp c port.val = true →
      c.sec.booted = true →
      funcPresent c port.val fn.val = true →
      (func c port.val fn.val).resetting = false →
      exec (.configRequest port fn a) ⟨c, l⟩ = .next ⟨emit (configApplied c port.val fn.val a) (.configDone port.val fn.val (configAnswer c port.val fn.val a)), l⟩) ∧
  (∀ (c : Chip) (l : List Instr) (port : Fin 2) (fn : Fin 17) (a : ConfigAccess),
      hubOn c = true →
      dlUp c port.val = true →
      c.sec.booted = false →
      exec (.configRequest port fn a) ⟨c, l⟩ = .next ⟨emit c (.configRetry port.val fn.val), l⟩) ∧
  (∀ (c : Chip) (l : List Instr) (port : Fin 2) (fn : Fin 17) (offset len : Nat) (p : Nat),
      barOpen c port.val fn.val = true →
      len ≠ 0 →
      readyPart c port.val fn.val = some p →
      girthAdmit c p (bar2Addr c port.val fn.val p offset) len false = .go →
      exec (.bar2Read port fn offset len) ⟨c, l⟩ = .next ⟨(let a := bar2Addr c port.val fn.val p offset
        let t := readMeets (admitted c p a len false) a len none
        if runBad t a len then emit t (.poisoned port.val fn.val len) else emit t (.completion port.val fn.val (memRead t a len))), l⟩) ∧
  (∀ (c : Chip) (l : List Instr) (port : Fin 2) (fn : Fin 17) (offset : Nat) (bytes : List Byte) (p : Nat),
      barOpen c port.val fn.val = true →
      bytes.isEmpty = false →
      readyPart c port.val fn.val = some p →
      girthAdmit c p (bar2Addr c port.val fn.val p offset) bytes.length true = .go →
      exec (.bar2Write port fn offset bytes) ⟨c, l⟩ = .next ⟨(let a := bar2Addr c port.val fn.val p offset
        memPut (admitted c p a bytes.length true) a bytes), l⟩) ∧
  (∀ (c : Chip) (l : List Instr) (port : Fin 2) (fn : Fin 17) (offset len p code : Nat),
      barOpen c port.val fn.val = true →
      len ≠ 0 →
      readyPart c port.val fn.val = some p →
      girthAdmit c p (bar2Addr c port.val fn.val p offset) len false = .refuse code →
      exec (.bar2Read port fn offset len) ⟨c, l⟩ = .next ⟨emit (refuseAccess c (bar2Addr c port.val fn.val p offset) true) (.completion port.val fn.val (List.replicate len 0xFF)), l⟩) ∧
  (∀ (c : Chip) (l : List Instr) (port : Fin 2) (fn : Fin 17) (offset len : Nat),
      barOpen c port.val fn.val = true →
      len ≠ 0 →
      readyPart c port.val fn.val = none →
      exec (.bar2Read port fn offset len) ⟨c, l⟩ = .next ⟨emit c (.completion port.val fn.val (List.replicate len 0xFF)), l⟩) ∧
  (∀ (c : Chip) (l : List Instr) (port : Fin 2) (fn : Fin 17) (offset : Nat) (bytes : List Byte) (p code : Nat),
      barOpen c port.val fn.val = true →
      bytes.isEmpty = false →
      readyPart c port.val fn.val = some p →
      girthAdmit c p (bar2Addr c port.val fn.val p offset) bytes.length true = .refuse code →
      exec (.bar2Write port fn offset bytes) ⟨c, l⟩ = .next ⟨refuseAccess c (bar2Addr c port.val fn.val p offset) true, l⟩) ∧
  (∀ (c : Chip) (l : List Instr) (port : Fin 2) (fn : Fin 17) (offset : Nat) (bytes : List Byte),
      barOpen c port.val fn.val = true →
      bytes.isEmpty = false →
      readyPart c port.val fn.val = none →
      exec (.bar2Write port fn offset bytes) ⟨c, l⟩ = .next ⟨c, l⟩) ∧
  (∀ (c : Chip) (l : List Instr) (port : Fin 2) (fn : Fin 17) (offset len : Nat),
      windowThere c port.val fn.val offset len = true →
      inFatal c = false →
      windowSleeps c port.val fn.val offset len = false →
      exec (.spadWindowRead port fn offset len) ⟨c, l⟩ = .next ⟨windowAnswer ((windowParts offset len).foldl (windowReadPart port.val fn.val) (c, [], false)) port.val fn.val len, l⟩) ∧
  (∀ (c : Chip) (l : List Instr) (port : Fin 2) (fn : Fin 17) (offset : Nat) (bytes : List Byte),
      windowThere c port.val fn.val offset bytes.length = true →
      inFatal c = false →
      windowSleeps c port.val fn.val offset bytes.length = false →
      exec (.spadWindowWrite port fn offset bytes) ⟨c, l⟩ = .next ⟨(windowParts offset bytes.length).foldl (windowWritePart port.val fn.val offset bytes) c, l⟩) ∧
  (∀ (c : Chip) (l : List Instr) (port : Fin 2) (fn : Fin 17),
      hubOn c = true →
      dlUp c port.val = true →
      kmem c.sec.ideInsecure (funcNo port.val fn.val) = false →
      exec (.atomicOpRequest port fn) ⟨c, l⟩ = .next ⟨emit (if funcPresent c port.val fn.val then setAer c port.val fn.val 20 else c) (.unsupported port.val fn.val), l⟩)

/-- With the firmware running: an IDE failure makes a secure stream insecure, and key management makes it secure; SPDM requests are answered (version 1.4, the algorithms, the certificates of slot 0, measurements with the debug state), a key exchange opens a session, a finish secures it and an end closes it; a commit raises the fused minimum version to the running one; the OPERATOR state opens, counted, and closes; a nonce is drawn; a token or a supplement that is read has its checks made and is processed, whole or from its start to its finish, and one that comes meanwhile is answered BUSY; a debug read outside CLOSED names its address at its start and shows its data at its finish. The boot chain runs where the module runs unbooted. (Start and finish of a token and a supplement are the model's, log entry 46, those of a debug read log entry 47's, and what an SPDM answer holds log entry 59's.) -/
def Obligations.SecurityCommandsRun : Prop :=
  (∀ (c : Chip) (l : List Instr) (port : Fin 2) (fn : Fin 17),
      firmwareOn c = true →
      kmem c.sec.ideSecure (funcNo port.val fn.val) = true →
      exec (.ideIntegrityFail port fn) ⟨c, l⟩ = .next ⟨ideFailed c (funcNo port.val fn.val), l⟩) ∧
  (∀ (c : Chip) (l : List Instr) (port : Fin 2) (fn : Fin 17) (session : Nat),
      firmwareOn c = true →
      funcPresent c port.val fn.val = true →
      ownSession c port.val fn.val session = true →
      exec (.ideKm port fn session) ⟨c, l⟩ = .next ⟨msixFlush (ideSet c (funcNo port.val fn.val)) port.val fn.val, l⟩) ∧
  (∀ (c : Chip) (l : List Instr) (r : Responder),
      powerState c ≠ 1 →
      responderOn c r = true →
      exec (.spdmRequest r .version) ⟨c, l⟩ = .next ⟨spdmAnswer c r (.version 1 4), l⟩) ∧
  (∀ (c : Chip) (l : List Instr) (r : Responder),
      powerState c ≠ 1 →
      responderOn c r = true →
      exec (.spdmRequest r .algorithms) ⟨c, l⟩ = .next ⟨spdmAnswer c r (.algorithms .slhDsaShake128f .sha3of256 .mlKem768 .aes256Gcm), l⟩) ∧
  (∀ (c : Chip) (l : List Instr) (r : Responder),
      powerState c ≠ 1 →
      responderOn c r = true →
      exec (.spdmRequest r .certificate) ⟨c, l⟩ = .next ⟨spdmAnswer c r (.certificate (slot0 c)), l⟩) ∧
  (∀ (c : Chip) (l : List Instr) (r : Responder) (n : Nat) (b : List Byte),
      powerState c ≠ 1 →
      responderOn c r = true →
      measurement c r n = some b →
      exec (.spdmRequest r (.measurements n)) ⟨c, l⟩ = .next ⟨spdmAnswer c r (.measurements [(n, b)] (golushElement c) (aliasKey c).pub), l⟩) ∧
  (∀ (c : Chip) (l : List Instr) (r : Responder),
      powerState c ≠ 1 →
      responderOn c r = true →
      exec (.spdmRequest r .keyExchange) ⟨c, l⟩ = .next ⟨(let x : Session := { id := c.sec.nextSession, responder := r, secured := false }
        spdmAnswer { c with sec := { c.sec with sessions := c.sec.sessions ++ [x], nextSession := c.sec.nextSession + 1 } } r
          (.keyExchange c.sec.nextSession)), l⟩) ∧
  (∀ (c : Chip) (l : List Instr) (r : Responder) (id : Nat) (x : Session),
      powerState c ≠ 1 →
      responderOn c r = true →
      sessionOf c r id = some x →
      exec (.spdmRequest r (.finish id)) ⟨c, l⟩ = .next ⟨spdmAnswer (setSessions c (c.sec.sessions.map (fun x => if x.id = id then { x with secured := true } else x))) r .done, l⟩) ∧
  (∀ (c : Chip) (l : List Instr) (r : Responder) (id : Nat) (x : Session),
      powerState c ≠ 1 →
      responderOn c r = true →
      sessionOf c r id = some x →
      x.secured = true →
      exec (.spdmRequest r (.endSession id)) ⟨c, l⟩ = .next ⟨spdmAnswer (setSessions c (c.sec.sessions.filter (fun x => x.id != id))) r .done, l⟩) ∧
  (∀ (c : Chip) (l : List Instr),
      driverOpen c = true →
      firmwareOn c = true →
      c.sec.runningB.isSome = true →
      c.sec.fuses.minSvn < rd c .sec Reg.SEC_BOOT_STAT_SVN →
      exec (.secSvnCommit) ⟨c, l⟩ = .next ⟨wr { c with sec := { c.sec with fuses := { c.sec.fuses with minSvn := rd c .sec Reg.SEC_BOOT_STAT_SVN } } } .sec
        Reg.SEC_FUSE_STAT_MIN_SVN (rd c .sec Reg.SEC_BOOT_STAT_SVN), l⟩) ∧
  (∀ (c : Chip) (l : List Instr),
      driverOpen c = true →
      firmwareOn c = true →
      operatorBit c = false →
      exec (.openOperator) ⟨c, l⟩ = .next ⟨setDebug (bump c .sec Reg.SEC_DEBUG_STAT_OPERATOR_OPENS 1) true (deepBit c), l⟩) ∧
  (∀ (c : Chip) (l : List Instr),
      driverOpen c = true →
      firmwareOn c = true →
      exec (.closeOperator) ⟨c, l⟩ = .next ⟨setDebug c false (deepBit c), l⟩) ∧
  (∀ (c : Chip) (l : List Instr),
      driverOpen c = true →
      firmwareOn c = true →
      exec (.nonceNew) ⟨c, l⟩ = .next ⟨nonceMade c, l⟩) ∧
  (∀ (c : Chip) (l : List Instr) (host : HostReply) (b : List Byte) (k : Nat),
      driverOpen c = true →
      firmwareOn c = true →
      c.sec.processing = none →
      coxRead c host = some b →
      checkToken c (b.take tokenLen) = k →
      exec (.token host .whole) ⟨c, l⟩ = .next ⟨standbyRetry (endProcessing (startProcessing c false none k (b.take tokenLen)) false none), l⟩) ∧
  (∀ (c : Chip) (l : List Instr) (host : HostReply) (b : List Byte) (k : Nat),
      driverOpen c = true →
      firmwareOn c = true →
      c.sec.processing = none →
      coxRead c host = some b →
      checkToken c (b.take tokenLen) = k →
      exec (.token host .start) ⟨c, l⟩ = .next ⟨standbyRetry (startProcessing c false none k (b.take tokenLen)), l⟩) ∧
  (∀ (c : Chip) (l : List Instr) (host : HostReply) (d : TokenWork),
      driverOpen c = true →
      firmwareOn c = true →
      c.sec.processing = some d →
      d.isSupplement = false →
      d.mctp = none →
      exec (.token host .finish) ⟨c, l⟩ = .next ⟨standbyRetry (processed (wr { c with sec := { c.sec with processing := none } } .sec Reg.SEC_TOKEN_STAT_BUSY 0) d), l⟩) ∧
  (∀ (c : Chip) (l : List Instr) (host : HostReply) (part : Processing),
      driverOpen c = true →
      firmwareOn c = true →
      c.sec.processing.isSome = true →
      part ≠ .finish →
      exec (.token host part) ⟨c, l⟩ = .next ⟨standbyRetry (tokenBusy c none), l⟩) ∧
  (∀ (c : Chip) (l : List Instr) (host : HostReply) (b : List Byte) (k : Nat),
      driverOpen c = true →
      firmwareOn c = true →
      c.sec.processing = none →
      coxRead c host = some b →
      checkCopy c b = k →
      exec (.supplement host .whole) ⟨c, l⟩ = .next ⟨standbyRetry (endProcessing (startProcessing c true none k b) true none), l⟩) ∧
  (∀ (c : Chip) (l : List Instr) (host : HostReply) (b : List Byte) (k : Nat),
      driverOpen c = true →
      firmwareOn c = true →
      c.sec.processing = none →
      coxRead c host = some b →
      checkCopy c b = k →
      exec (.supplement host .start) ⟨c, l⟩ = .next ⟨standbyRetry (startProcessing c true none k b), l⟩) ∧
  (∀ (c : Chip) (l : List Instr) (host : HostReply) (d : TokenWork),
      driverOpen c = true →
      firmwareOn c = true →
      c.sec.processing = some d →
      d.isSupplement = true →
      d.mctp = none →
      exec (.supplement host .finish) ⟨c, l⟩ = .next ⟨standbyRetry (processed (wr { c with sec := { c.sec with processing := none } } .sec Reg.SEC_TOKEN_STAT_BUSY 0) d), l⟩) ∧
  (∀ (c : Chip) (l : List Instr) (host : HostReply) (part : Processing),
      driverOpen c = true →
      firmwareOn c = true →
      c.sec.processing.isSome = true →
      part ≠ .finish →
      exec (.supplement host part) ⟨c, l⟩ = .next ⟨standbyRetry (tokenBusy c none), l⟩) ∧
  (∀ (c : Chip) (l : List Instr),
      driverOpen c = true →
      firmwareOn c = true →
      debugState c ≠ 0 →
      c.sec.reading = none →
      exec (.debugRead .start) ⟨c, l⟩ = .next ⟨wr { c with sec := { c.sec with reading := some (debugNamed c) } } .sec Reg.SEC_DBG_STAT_BUSY 1, l⟩) ∧
  (∀ (c : Chip) (l : List Instr) (d : DebugRead) (t : Chip) (x : Nat × Bool × List Nat),
      driverOpen c = true →
      c.sec.reading = some d →
      debugMeets { c with sec := { c.sec with reading := none } } d = t →
      debugData t d = x →
      exec (.debugRead .finish) ⟨c, l⟩ = .next ⟨wrAll (countReads t x.2.2) .sec [(Reg.SEC_DBG_STAT_BUSY, 0), (Reg.SEC_DBG_DATA_LO_DATA, x.1),
        (Reg.SEC_DBG_DATA_HI_DATA, x.1 / 2 ^ 32), (Reg.SEC_DBG_STAT_POISON, if x.2.1 then 1 else 0)], l⟩) ∧
  (∀ (c : Chip) (l : List Instr),
      driverOpen c = true →
      firmwareOn c = true →
      debugState c ≠ 0 →
      c.sec.reading = none →
      exec (.debugRead .whole) ⟨c, l⟩ = .next ⟨debugDone (wr { c with sec := { c.sec with reading := some (debugNamed c) } } .sec Reg.SEC_DBG_STAT_BUSY 1), l⟩) ∧
  (∀ (c : Chip) (l : List Instr),
      running c = true →
      c.sec.booted = false →
      exec (.bootChain) ⟨c, l⟩ = .next ⟨trainAll (runBoot c), l⟩)

/-- A record on its way to the Fault Collector is taken, or is counted as lost where it is dropped; a corrected or an uncorrectable error of a module-level memory is reported as its table says; the fault pin's pulse ends at its time; the end of a pending record's grace period takes its next step, or drops the record where that step lies beyond CEILING; an FC_ACK comes after the ends of grace periods and the records sent before it, and drops the pending record it names, or counts a stale acknowledgement; a fence release writes the block and starts the test of a fenced one, and the test's end releases the block or keeps it fenced; a die-to-die retry is noted, and drops a worn lane group; a retrain ends; a Cox watchdog is a FATAL record. (The arrivals of corrected and of unreadable words are the model's operand, log entry 58, and that of a dropped record log entry 67's.) -/
def Obligations.FaultEventsRun : Prop :=
  (∀ (c : Chip) (l : List Instr) (pg : Page) (t : Chip) (x : Note × Chip),
      hubOn c = true →
      runGraces c = t →
      oldestSent t pg = some x →
      exec (.faultRecordArrival pg .arrived) ⟨c, l⟩ = .next ⟨takeNote x.2 x.1, l⟩) ∧
  (∀ (c : Chip) (l : List Instr) (pg : Page) (t : Chip) (x : Note × Chip),
      hubOn c = true →
      runGraces c = t →
      oldestSent t pg = some x →
      exec (.faultRecordArrival pg .dropped) ⟨c, l⟩ = .next ⟨dropNote x.2 x.1, l⟩) ∧
  (∀ (c : Chip) (l : List Instr) (t : Chip),
      hubOn c = true →
      runGraces c = t →
      running t = true →
      exec (.faultRecordArrival .cox .corrected) ⟨c, l⟩ = .next ⟨coxCorrected t, l⟩) ∧
  (∀ (c : Chip) (l : List Instr) (pg : Page) (p : Fin 16) (t : Chip),
      hubOn c = true →
      runGraces c = t →
      running t = true →
      exec (.faultRecordArrival pg (.unreadable p)) ⟨c, l⟩ = .next ⟨unreadable t pg p.val, l⟩) ∧
  (∀ (c : Chip) (l : List Instr) (e : Nat),
      c.faults.pulseEnd = some e →
      e ≤ c.now →
      exec (.faultPulseEnd) ⟨c, l⟩ = .next ⟨showPin { c with faults := { c.faults with pulseEnd := none } }, l⟩) ∧
  (∀ (c : Chip) (l : List Instr) (seq : Word) (x : Pending),
      running c = true →
      overdue c seq.toNat = some x →
      x.step ≤ rd c .fc Reg.FC_CFG_CEILING →
      exec (.graceExpiry seq) ⟨c, l⟩ = .next ⟨takeDue c seq.toNat x, l⟩) ∧
  (∀ (c : Chip) (l : List Instr) (seq : Word) (x : Pending),
      running c = true →
      overdue c seq.toNat = some x →
      rd c .fc Reg.FC_CFG_CEILING < x.step →
      exec (.graceExpiry seq) ⟨c, l⟩ = .next ⟨dropPending c seq.toNat, l⟩) ∧
  (∀ (c : Chip) (l : List Instr) (seq : Word) (t : Chip),
      driverOpen c = true →
      hubOn c = true →
      takeSent (runGraces c) none = t →
      t.faults.pending.any (fun x => x.seq == seq.toNat) = true →
      exec (.fcAck seq) ⟨c, l⟩ = .next ⟨dropPending t seq.toNat, l⟩) ∧
  (∀ (c : Chip) (l : List Instr) (seq : Word) (t : Chip),
      driverOpen c = true →
      hubOn c = true →
      takeSent (runGraces c) none = t →
      t.faults.pending.any (fun x => x.seq == seq.toNat) = false →
      exec (.fcAck seq) ⟨c, l⟩ = .next ⟨bump t .fc Reg.FC_ESC_COUNT_ACK_STALE 1, l⟩) ∧
  (∀ (c : Chip) (l : List Instr) (blk : Fin 256) (t : Chip),
      running c = true →
      driverOpen c = true →
      wr c .fc Reg.FC_FENCE_CTRL_BLOCK blk.val = t →
      rd t .fc Reg.FC_FENCE_STAT_BUSY = 0 →
      blockFenced t blk.val = true →
      exec (.fenceRelease blk) ⟨c, l⟩ = .next ⟨startFenceTest t blk.val, l⟩) ∧
  (∀ (c : Chip) (l : List Instr) (blk : Fin 256) (t : Chip),
      running c = true →
      driverOpen c = true →
      wr c .fc Reg.FC_FENCE_CTRL_BLOCK blk.val = t →
      rd t .fc Reg.FC_FENCE_STAT_BUSY = 0 →
      blockFenced t blk.val = false →
      exec (.fenceRelease blk) ⟨c, l⟩ = .next ⟨wr t .fc Reg.FC_FENCE_STAT_RESULT 3, l⟩) ∧
  (∀ (c : Chip) (l : List Instr) (b : Nat),
      running c = true →
      c.faults.testing = some b →
      exec (.fenceTestComplete true) ⟨c, l⟩ = .next ⟨fencePassed (fenceTested c true) b, l⟩) ∧
  (∀ (c : Chip) (l : List Instr) (b : Nat),
      running c = true →
      c.faults.testing = some b →
      exec (.fenceTestComplete false) ⟨c, l⟩ = .next ⟨fenceFailed (fenceTested c false) b, l⟩) ∧
  (∀ (c : Chip) (l : List Instr) (r : Fin 4) (g : Fin 8) (t : Chip),
      running c = true →
      bit (rd c .hub Reg.HUB_D2D_STAT_GROUPS) (8 * r.val + g.val) = true →
      d2dNoted c r.val g.val = t →
      exec (.d2dCrcRetry r g) ⟨c, l⟩ = .next ⟨if d2dWorn t r.val g.val then d2dDrop t r.val g.val else t, l⟩) ∧
  (∀ (c : Chip) (l : List Instr) (r : Fin 4),
      running c = true →
      kmem c.faults.d2d r.val = true →
      exec (.d2dRetrainComplete r true) ⟨c, l⟩ = .next ⟨d2dRetrained c r.val, l⟩) ∧
  (∀ (c : Chip) (l : List Instr) (r : Fin 4),
      running c = true →
      kmem c.faults.d2d r.val = true →
      exec (.d2dRetrainComplete r false) ⟨c, l⟩ = .next ⟨d2dFail (d2dRetrained c r.val) r.val, l⟩) ∧
  (∀ (c : Chip) (l : List Instr),
      running c = true →
      exec (.coxWatchdog) ⟨c, l⟩ = .next ⟨fatalNow c .cox Reg.COX_ERR_STAT_WATCHDOG (plainNote .cox .fatal 0xA5), l⟩)

/-- PWR_EN asserted is kept, and its release takes the module to OFF; a good input with PWR_EN takes it from OFF to STANDBY, and on to the start of the hub where a PERST_N rose meanwhile (log entry 49); a hot-swap trip takes it to OFF; an input out of range counts; a block's temperature sample sets TEMP_C and its issue rate; the PM's trips are FATAL records; the crystal is reported stable, or failed from 2 s on; a STANDBY request is refused or begins, or waits; its entry ends outside FATAL; a wake starts the hub or is held during entry, and over MCTP is answered with no bytes (log entry 113); the state kept over STANDBY is restored and the memory is trained once the firmware runs; a telemetry sample whose period is over is latched and written to the ring where there is one. -/
def Obligations.PowerEventsRun : Prop :=
  (∀ (c : Chip) (l : List Instr),
      exec (.pwrEnAssert) ⟨c, l⟩ = .next ⟨setPower c (fun w => { w with pwrEn := true }), l⟩) ∧
  (∀ (c : Chip) (l : List Instr),
      exec (.pwrEnDeassert) ⟨c, l⟩ = .next ⟨setPower (enterOff c) (fun w => { w with pwrEn := false }), l⟩) ∧
  (∀ (c : Chip) (l : List Instr) (m : Bool) (a : Fin 8),
      powerState c = 0 →
      c.power.pwrEn = true →
      c.power.early = none →
      exec (.inputGood m a) ⟨c, l⟩ = .next ⟨inputStarted c m a.val, l⟩) ∧
  (∀ (c : Chip) (l : List Instr) (m : Bool) (a : Fin 8) (src : Nat),
      powerState c = 0 →
      c.power.pwrEn = true →
      c.power.early = some src →
      exec (.inputGood m a) ⟨c, l⟩ = .next ⟨startHub (inputStarted c m a.val) src, l⟩) ∧
  (∀ (c : Chip) (l : List Instr),
      exec (.hotswapTrip) ⟨c, l⟩ = .next ⟨enterOff c, l⟩) ∧
  (∀ (c : Chip) (l : List Instr) (high : Bool),
      hubOn c = true →
      exec (.inputRangeExcursion high) ⟨c, l⟩ = .next ⟨pmFlag (bump c .pm (if high then Reg.PM_EVENTS_INPUT_HIGH else Reg.PM_EVENTS_INPUT_LOW) 1) Reg.PM_IRQ_STAT_INPUT_RANGE, l⟩) ∧
  (∀ (c : Chip) (l : List Instr) (blk : Fin 256) (temp : Byte) (r : Nat) (t : Chip),
      running c = true →
      rd c (.blk blk.val) Reg.PWR_STAT_STATE ≠ 3 →
      rd c (.blk blk.val) Reg.BLK_ISSUE_RATE = r →
      wrAll c (.blk blk.val) [(Reg.PWR_STAT_TEMP_C, temp.toNat), (Reg.BLK_ISSUE_RATE, nextRate c r temp.toNat)] = t →
      exec (.thermalSample blk temp) ⟨c, l⟩ = .next ⟨if r = 16 ∧ nextRate c r temp.toNat < 16
        then pmFlag (setFlag t (.blk blk.val) Reg.BLK_IRQ_STAT_THROTTLE) Reg.PM_IRQ_STAT_THROTTLE else t, l⟩) ∧
  (∀ (c : Chip) (l : List Instr),
      hubOn c = true →
      exec (.pmThermalTrip) ⟨c, l⟩ = .next ⟨takeNote (runGraces c) { plainNote .pm .fatal 0xB1 with stamp := c.now }, l⟩) ∧
  (∀ (c : Chip) (l : List Instr),
      hubOn c = true →
      exec (.pmRailTrip) ⟨c, l⟩ = .next ⟨takeNote (runGraces c) { plainNote .pm .fatal 0xB0 with stamp := c.now }, l⟩) ∧
  (∀ (c : Chip) (l : List Instr),
      powerState c ≠ 0 →
      c.power.crystalFailed = false →
      exec (.crystalStable) ⟨c, l⟩ = .next ⟨wr c .pm Reg.PM_STAT_CRYSTAL_OK 1, l⟩) ∧
  (∀ (c : Chip) (l : List Instr),
      hubOn c = true →
      rd c .pm Reg.PM_STAT_CRYSTAL_OK = 0 →
      c.power.crystalFailed = false →
      2000000000 ≤ c.now →
      exec (.pmCrystalFail) ⟨c, l⟩ = .next ⟨report (setPower c (fun w => { w with crystalFailed := true })) .pm Reg.PM_ERR_STAT_CRYSTAL_FAIL (plainNote .pm .corrected 0xB2), l⟩) ∧
  (∀ (c : Chip) (l : List Instr),
      driverOpen c = true →
      hubOn c = true →
      rd c .pm Reg.PM_STAT_ENTERING ≠ 1 →
      c.power.standbyHeld = false →
      standbyReason c ≠ 0 →
      exec (.standby) ⟨c, l⟩ = .next ⟨pmFlag (bump (wr c .pm Reg.PM_STAT_REFUSAL (standbyReason c)) .pm Reg.PM_EVENTS_REFUSALS 1) Reg.PM_IRQ_STAT_REFUSED, l⟩) ∧
  (∀ (c : Chip) (l : List Instr),
      driverOpen c = true →
      hubOn c = true →
      rd c .pm Reg.PM_STAT_ENTERING ≠ 1 →
      c.power.standbyHeld = false →
      standbyReason c = 0 →
      standbyWaits c = false →
      exec (.standby) ⟨c, l⟩ = .next ⟨beginStandby c, l⟩) ∧
  (∀ (c : Chip) (l : List Instr),
      driverOpen c = true →
      hubOn c = true →
      rd c .pm Reg.PM_STAT_ENTERING ≠ 1 →
      c.power.standbyHeld = false →
      standbyReason c = 0 →
      standbyWaits c = true →
      exec (.standby) ⟨c, l⟩ = .next ⟨setPower c (fun w => { w with standbyHeld := true }), l⟩) ∧
  (∀ (c : Chip) (l : List Instr),
      hubOn c = true →
      rd c .pm Reg.PM_STAT_ENTERING = 1 →
      c.sec.processing = none →
      inFatal c = false →
      c.power.wakeHeld = none →
      exec (.standbyEntryComplete) ⟨c, l⟩ = .next ⟨alarmWake (standbyEntered c), l⟩) ∧
  (∀ (c : Chip) (l : List Instr) (src : Nat),
      hubOn c = true →
      rd c .pm Reg.PM_STAT_ENTERING = 1 →
      c.sec.processing = none →
      inFatal c = false →
      c.power.wakeHeld = some src →
      exec (.standbyEntryComplete) ⟨c, l⟩ = .next ⟨startHub (standbyEntered c) src, l⟩) ∧
  (∀ (c : Chip) (l : List Instr) (via : Endpoint),
      endpointOpen c via = true →
      exec (.wake via) ⟨c, l⟩ = .next ⟨answer (wakeEvent c 1) via 1 [], l⟩) ∧
  (∀ (c : Chip) (l : List Instr),
      alarmDue c = true →
      powerState c = 1 →
      exec (.alarmWake) ⟨c, l⟩ = .next ⟨startHub c 4, l⟩) ∧
  (∀ (c : Chip) (l : List Instr),
      running c = true →
      c.power.restoring = true →
      c.sec.booted = true →
      exec (.wakeRestoreComplete) ⟨c, l⟩ = .next ⟨wakeRestored c, l⟩) ∧
  (∀ (c : Chip) (l : List Instr),
      running c = true →
      c.sec.booted = true →
      c.power.trained = false →
      exec (.memoryTrainingComplete) ⟨c, l⟩ = .next ⟨memoryTrained c, l⟩) ∧
  (∀ (c : Chip) (l : List Instr) (r : Readings) (t : Chip),
      hubOn c = true →
      sampleDue c = true →
      sampleTaken c r = t →
      exec (.telemetrySample r) ⟨c, l⟩ = .next ⟨if telemRing t then ringSample t (sampleBytes c r c.now c.power.telemSeq) else t, l⟩)

/-- An idle block whose GATE_EN is set gates its clock; after RETAIN_US it goes to retention and after OFF_MS, with no live set and no HOLD, to OFF, its bank with it; its wake ends in RUN; a bank in OFF powers up on its own, and an idle one returns to its block's state, where an access it meets there counts as lost; an idle region goes to sleep, and its wake ends with the region awake. -/
def Obligations.IdleStatesRun : Prop :=
  (∀ (c : Chip) (l : List Instr) (blk : Fin 256),
      mayRest c blk.val = true →
      blockPower c blk.val = 0 →
      rd c (.blk blk.val) Reg.PWR_CTRL_GATE_EN = 1 →
      exec (.blockClockGate blk) ⟨c, l⟩ = .next ⟨bankTo (wr c (.blk blk.val) Reg.PWR_STAT_STATE 1) blk.val 1, l⟩) ∧
  (∀ (c : Chip) (l : List Instr) (blk : Fin 256),
      mayRetain c blk.val = true →
      exec (.blockRetainTimeout blk) ⟨c, l⟩ = .next ⟨stampRegion (bankTo (wr c (.blk blk.val) Reg.PWR_STAT_STATE 2) blk.val 2) (blk.val / 64), l⟩) ∧
  (∀ (c : Chip) (l : List Instr) (blk : Fin 256) (met : Bool),
      mayOff c blk.val = true →
      exec (.blockOffTimeout blk met) ⟨c, l⟩ = .next ⟨bankRest (loseSets (wr (if blockPower c blk.val < 2 then stampRegion c (blk.val / 64) else c) (.blk blk.val) Reg.PWR_STAT_STATE 3) blk.val) blk.val 3 met, l⟩) ∧
  (∀ (c : Chip) (l : List Instr) (blk : Fin 256),
      running c = true →
      kmem c.power.blockWaking blk.val = true →
      regionAwake c (blk.val / 64) = true →
      exec (.blockWakeComplete blk) ⟨c, l⟩ = .next ⟨blockAwake c blk.val, l⟩) ∧
  (∀ (c : Chip) (l : List Instr) (bank : Fin 256),
      running c = true →
      bankPower c bank.val = 3 →
      regionAwake c (bank.val / 64) = true →
      exec (.bankPowerUp bank) ⟨c, l⟩ = .next ⟨bankTouch c bank.val, l⟩) ∧
  (∀ (c : Chip) (l : List Instr) (bank : Fin 256) (met : Bool),
      mayReturn c bank.val = true →
      exec (.bankIdleReturn bank met) ⟨c, l⟩ = .next ⟨bankRest c bank.val (blockPower c bank.val) met, l⟩) ∧
  (∀ (c : Chip) (l : List Instr) (r : Fin 4),
      maySleep c r.val = true →
      exec (.regionSleep r) ⟨c, l⟩ = .next ⟨showState (wr c .pm Reg.PM_REGION_STAT_AWAKE (putBit (rd c .pm Reg.PM_REGION_STAT_AWAKE) r.val false)), l⟩) ∧
  (∀ (c : Chip) (l : List Instr) (r : Fin 4),
      running c = true →
      kmem c.power.waking r.val = true →
      exec (.regionWakeComplete r) ⟨c, l⟩ = .next ⟨standbyRetry (memoryGoes (regionAwoken c r.val)), l⟩)

/-- On an endpoint that answers (the sideband in STANDBY and RUN, PCIe where the hub runs and the management port's link is up): an override of the image is kept and answered; STANDBY is passed on and answered; a token's chunk is joined, its last part starts the token, whose end is answered; a fault read answers the record with that number; a telemetry read answers the last sample; STATUS answers the status, the revision and the lifecycle; another command code is answered as unsupported; a command for the hub is answered 'not ready' in STANDBY; the endpoint ids, which every later answer of that endpoint carries, and the I3C address are set, and RSTDAA drops the address. (The bytes of the answers are log entry 113's, and the parts of a token log entry 46's.) -/
def Obligations.ManagementCommandsRun : Prop :=
  (∀ (c : Chip) (l : List Instr) (v : Option (Fin 2)) (via : Endpoint),
      endpointOpen c via = true →
      exec (.mgmtOverride v via) ⟨c, l⟩ = .next ⟨answer { c with sec := { c.sec with flash := { c.sec.flash with override := v.map (fun x => x.val) } } } via 4 [], l⟩) ∧
  (∀ (c : Chip) (l : List Instr) (via : Endpoint),
      hubOn c = true →
      endpointOpen c via = true →
      exec (.mctpStandby via) ⟨c, l⟩ = .next ⟨answer (standby c) via 2 [], l⟩) ∧
  (∀ (c : Chip) (l : List Instr) (offset : Nat) (bytes : List Byte) (part : Processing) (via : Endpoint),
      firmwareOn c = true →
      endpointOpen c via = true →
      bytes.length ≤ 1024 →
      offset = (if offset = 0 then [] else c.sec.chunks).length →
      part ≠ .finish →
      exec (.mctpToken offset bytes false part via) ⟨c, l⟩ = .next ⟨standbyRetry (answer { c with sec := { c.sec with chunks := (if offset = 0 then [] else c.sec.chunks) ++ bytes } } via 5 [0]), l⟩) ∧
  (∀ (c : Chip) (l : List Instr) (offset : Nat) (bytes all : List Byte) (part : Processing) (via : Endpoint) (k : Nat),
      firmwareOn c = true →
      endpointOpen c via = true →
      bytes.length ≤ 1024 →
      (if offset = 0 then [] else c.sec.chunks) ++ bytes = all →
      offset = (if offset = 0 then [] else c.sec.chunks).length →
      part ≠ .finish →
      checkToken { c with sec := { c.sec with chunks := [] } } all = k →
      exec (.mctpToken offset bytes true part via) ⟨c, l⟩ = .next ⟨standbyRetry (takeToken { c with sec := { c.sec with chunks := [] } } false (some via) (part == .whole) k all), l⟩) ∧
  (∀ (c : Chip) (l : List Instr) (offset : Nat) (bytes : List Byte) (last : Bool) (via : Endpoint) (d : TokenWork),
      firmwareOn c = true →
      endpointOpen c via = true →
      c.sec.processing = some d →
      d.isSupplement = false →
      d.mctp = some via →
      exec (.mctpToken offset bytes last .finish via) ⟨c, l⟩ = .next ⟨standbyRetry (processed (wr { c with sec := { c.sec with processing := none } } .sec Reg.SEC_TOKEN_STAT_BUSY 0) d), l⟩) ∧
  (∀ (c : Chip) (l : List Instr) (seq : Word) (via : Endpoint),
      hubOn c = true →
      endpointOpen c via = true →
      exec (.faultRead seq via) ⟨c, l⟩ = .next ⟨answer c via 6 (match logged c seq.toNat with | some r => noteBytes r | none => []), l⟩) ∧
  (∀ (c : Chip) (l : List Instr) (via : Endpoint),
      hubOn c = true →
      endpointOpen c via = true →
      exec (.telemetryRead via) ⟨c, l⟩ = .next ⟨answer c via 7 c.power.lastSample, l⟩) ∧
  (∀ (c : Chip) (l : List Instr) (via : Endpoint),
      endpointOpen c via = true →
      exec (.status via) ⟨c, l⟩ = .next ⟨answer c via 8 (toBytes 4 (regWord c .pm 0x044) ++ toBytes 4 (revisionWord c) ++ [BitVec.ofNat 8 (lifecycleCode c)]), l⟩) ∧
  (∀ (c : Chip) (l : List Instr) (code : Byte) (via : Endpoint),
      hubOn c = true →
      endpointOpen c via = true →
      (code.toNat = 0 ∨ 8 < code.toNat) →
      exec (.mctpUnsupportedCmd code via) ⟨c, l⟩ = .next ⟨emit c (.mctpUnsupported via (eidOf c via)), l⟩) ∧
  (∀ (c : Chip) (l : List Instr) (via : Endpoint),
      endpointOpen c via = true →
      hubOn c = false →
      exec (.mctpStandby via) ⟨c, l⟩ = .next ⟨emit c (.mctpNotReady via (eidOf c via)), l⟩) ∧
  (∀ (c : Chip) (l : List Instr) (seq : Word) (via : Endpoint),
      endpointOpen c via = true →
      hubOn c = false →
      exec (.faultRead seq via) ⟨c, l⟩ = .next ⟨emit c (.mctpNotReady via (eidOf c via)), l⟩) ∧
  (∀ (c : Chip) (l : List Instr) (via : Endpoint),
      endpointOpen c via = true →
      hubOn c = false →
      exec (.telemetryRead via) ⟨c, l⟩ = .next ⟨emit c (.mctpNotReady via (eidOf c via)), l⟩) ∧
  (∀ (c : Chip) (l : List Instr) (offset : Nat) (bytes : List Byte) (last : Bool) (part : Processing) (via : Endpoint),
      endpointOpen c via = true →
      hubOn c = false →
      exec (.mctpToken offset bytes last part via) ⟨c, l⟩ = .next ⟨emit c (.mctpNotReady via (eidOf c via)), l⟩) ∧
  (∀ (c : Chip) (l : List Instr) (eid : Byte),
      endpointOpen c .pcie = true →
      exec (.setEndpointId true eid) ⟨c, l⟩ = .next ⟨answer { c with bus := { c.bus with eidPcie := eid.toNat } } .pcie 0 [BitVec.ofNat 8 eid.toNat], l⟩) ∧
  (∀ (c : Chip) (l : List Instr) (eid : Byte),
      endpointOpen c .sideband = true →
      exec (.setEndpointId false eid) ⟨c, l⟩ = .next ⟨answer { c with bus := { c.bus with eidSideband := eid.toNat } } .sideband 0 [BitVec.ofNat 8 eid.toNat], l⟩) ∧
  (∀ (c : Chip) (l : List Instr) (a : BitVec 7),
      powerState c ≠ 0 →
      exec (.i3cDynamicAddress a) ⟨c, l⟩ = .next ⟨{ c with bus := { c.bus with i3c := some a.toNat } }, l⟩) ∧
  (∀ (c : Chip) (l : List Instr),
      powerState c ≠ 0 →
      exec (.rstdaa) ⟨c, l⟩ = .next ⟨{ c with bus := { c.bus with i3c := none } }, l⟩)

/-- On a page that answers: PAGE_CTRL's QUIESCE, ENABLE and RESET, the clearing and setting of IRQ_STAT bits, the masks, injections and counter clears take effect on that page; a register write through a function that reaches a page writes it; a read answers what the page reads; an SRN signal's loss or return drops or starts the link; a function's readiness is reported; the debug port opens DEEP on a development part; JTAG reads and writes a page and the Cox memory where DEEP is open, and the internal scan beside them (a position shows what was last written to it; until then a free value, log entry 123), and its boundary scan works with power. -/
def Obligations.PageCommandsRun : Prop :=
  (∀ (c : Chip) (l : List Instr) (pg t : Page) (r : Nat) (on : Bool),
      driverOpen c = true →
      (pg = .fwSl ∨ pg = .sl r) →
      headerOpen c pg = true →
      slTarget c pg = some t →
      exec (.slEnableWrite pg on) ⟨c, l⟩ = .next ⟨stormEdge c (wr c t Reg.SL_CFG_ENABLE (if on then 1 else 0)), l⟩) ∧
  (∀ (c : Chip) (l : List Instr) (pg : Page) (v : Word),
      driverOpen c = true →
      headerOpen c pg = true →
      exec (.pageQuiesce pg v) ⟨c, l⟩ = .next ⟨pageCtrlWrite c pg (v.toNat ||| 2), l⟩) ∧
  (∀ (c : Chip) (l : List Instr) (pg : Page) (v : Word),
      driverOpen c = true →
      headerOpen c pg = true →
      exec (.pageEnableWrite pg v) ⟨c, l⟩ = .next ⟨pageCtrlWrite c pg (v.toNat ||| 1), l⟩) ∧
  (∀ (c : Chip) (l : List Instr) (pg : Page) (v : Word),
      driverOpen c = true →
      headerOpen c pg = true →
      exec (.localReset pg v) ⟨c, l⟩ = .next ⟨pageCtrlWrite c pg (v.toNat ||| 4), l⟩) ∧
  (∀ (c : Chip) (l : List Instr) (pg : Page) (err : Bool) (v : Word),
      driverOpen c = true →
      headerOpen c pg = true →
      exec (.irqStatClear pg err v) ⟨c, l⟩ = .next ⟨vectorAgain (clearOnes c pg (if err then 0x01C else 0x010) v.toNat) pg, l⟩) ∧
  (∀ (c : Chip) (l : List Instr) (pg : Page) (v : Word),
      driverOpen c = true →
      headerOpen c pg = true →
      exec (.irqSet pg v) ⟨c, l⟩ = .next ⟨raised (summary c pg) (((irqFields pg).filter (fun f => bit v.toNat f.lo)).foldl (fun t f => wr t pg f 1) c) pg, l⟩) ∧
  (∀ (c : Chip) (l : List Instr) (pg : Page) (v : Word),
      driverOpen c = true →
      headerOpen c pg = true →
      exec (.interruptMaskWrite pg true v) ⟨c, l⟩ = .next ⟨vectorAgain (wr c pg Reg.ERR_MASK_MASK (v.toNat &&& definedBits pg 0x01C)) pg, l⟩) ∧
  (∀ (c : Chip) (l : List Instr) (pg : Page) (v : Word),
      driverOpen c = true →
      headerOpen c pg = true →
      exec (.interruptMaskWrite pg false v) ⟨c, l⟩ = .next ⟨vectorAgain (wr c pg Reg.IRQ_EN_EN (v.toNat &&& definedBits pg 0x010)) pg, l⟩) ∧
  (∀ (c : Chip) (l : List Instr) (pg : Page) (v : Word),
      driverOpen c = true →
      headerOpen c pg = true →
      (pg = .hub ∨ pg = .cox ∨ pg = .pm) →
      exec (.errInject pg v) ⟨c, l⟩ = .next ⟨injectNow c pg v.toNat, l⟩) ∧
  (∀ (c : Chip) (l : List Instr) (pg : Page) (v : Word),
      driverOpen c = true →
      headerOpen c pg = true →
      pg ≠ .hub ∧ pg ≠ .cox ∧ pg ≠ .pm →
      exec (.errInject pg v) ⟨c, l⟩ = .next ⟨wr c pg Reg.ERR_INJECT_ARM (rd c pg Reg.ERR_INJECT_ARM ||| (v.toNat &&& injectable pg)), l⟩) ∧
  (∀ (c : Chip) (l : List Instr) (pg t : Page) (v : Word),
      driverOpen c = true →
      headerOpen c pg = true →
      slTarget c pg = some t →
      exec (.countClear pg v) ⟨c, l⟩ = .next ⟨clearSets c t v.toNat, l⟩) ∧
  (∀ (c : Chip) (l : List Instr) (via : Via) (off : Nat),
      viaOpen c via = true →
      hubOn c = true →
      off % 4 = 0 →
      reach c via off ≠ .absent →
      exec (.latchingLoRead via off) ⟨c, l⟩ = .next ⟨emit (viaRead c via off).2 (.register (viaRead c via off).1), l⟩) ∧
  (∀ (c : Chip) (l : List Instr) (via : Via) (off : Nat) (v : Word) (pg : Page),
      viaOpen c via = true →
      hubOn c = true →
      off % 4 = 0 →
      reach c via off = .page pg →
      exec (.registerWrite via off v 15) ⟨c, l⟩ = .next ⟨pageWrite c via pg (off % 4096) v.toNat, l⟩) ∧
  (∀ (c : Chip) (l : List Instr) (p : Fin 5),
      exec (.srnSignalLoss p) ⟨c, l⟩ = .next ⟨dropLink (setPort c p.val (fun x => { x with signal := false })) p.val, l⟩) ∧
  (∀ (c : Chip) (l : List Instr) (p : Fin 5),
      (srnPort c p.val).cable.isNone = false →
      exec (.srnSignalDetect p) ⟨c, l⟩ = .next ⟨startTraining (setPort c p.val (fun x => { x with signal := true })) p.val, l⟩) ∧
  (∀ (c : Chip) (l : List Instr) (port : Fin 2) (fn : Fin 17),
      hubOn c = true →
      funcPresent c port.val fn.val = true →
      (func c port.val fn.val).resetting = true →
      dlUp c port.val = true →
      exec (.functionReadinessStatus port fn) ⟨c, l⟩ = .next ⟨emit (setFunc c port.val fn.val (fun f => { f with resetting := false })) (.readiness port.val fn.val), l⟩) ∧
  (∀ (c : Chip) (l : List Instr),
      hubOn c = true →
      lifecycle c = 0 →
      deepBit c = false →
      exec (.debugPortUnlock) ⟨c, l⟩ = .next ⟨openDeep c, l⟩) ∧
  (∀ (c : Chip) (l : List Instr),
      powerState c ≠ 0 →
      exec (.jtagAccess .boundaryScan) ⟨c, l⟩ = .next ⟨emit c .boundaryScan, l⟩) ∧
  (∀ (c : Chip) (l : List Instr) (position : Nat) (w : Word),
      hubOn c = true →
      deepBit c = true →
      exec (.jtagAccess (.internalScan position (some w))) ⟨c, l⟩ = .next ⟨{ c with sec := { c.sec with scan := tset c.sec.scan position w.toNat } }, l⟩) ∧
  (∀ (c : Chip) (l : List Instr) (position : Nat) (d : Nat × Chip),
      hubOn c = true →
      deepBit c = true →
      draw c = d →
      exec (.jtagAccess (.internalScan position none)) ⟨c, l⟩ = .next ⟨emit d.2 (.jtag (tgetD c.sec.scan position (Config.freeNat d.1 % 2 ^ 32))), l⟩) ∧
  (∀ (c : Chip) (l : List Instr) (addr : Nat) (w : Word),
      hubOn c = true →
      deepBit c = true →
      exec (.jtagAccess (.cox addr (some w))) ⟨c, l⟩ = .next ⟨{ c with sec := { c.sec with cox := tset c.sec.cox addr w.toNat } }, l⟩) ∧
  (∀ (c : Chip) (l : List Instr) (addr : Nat),
      hubOn c = true →
      deepBit c = true →
      exec (.jtagAccess (.cox addr none)) ⟨c, l⟩ = .next ⟨emit c (.jtag (tgetD c.sec.cox addr (Config.coxWord addr).toNat)), l⟩) ∧
  (∀ (c : Chip) (l : List Instr) (pg : Page) (off : Nat) (w : Word),
      hubOn c = true →
      deepBit c = true →
      headerPage pg = true →
      off % 4 = 0 →
      off < 4096 →
      exec (.jtagAccess (.page pg off (some w))) ⟨c, l⟩ = .next ⟨pageWrite c (mgmtVia c) pg off w.toNat, l⟩) ∧
  (∀ (c : Chip) (l : List Instr) (pg : Page) (off : Nat),
      hubOn c = true →
      deepBit c = true →
      headerPage pg = true →
      off % 4 = 0 →
      off < 4096 →
      exec (.jtagAccess (.page pg off none)) ⟨c, l⟩ = .next ⟨emit (pageRead c (mgmtVia c) pg off).2 (.jtag (pageRead c (mgmtVia c) pg off).1), l⟩)

/-- For every command and every state with that command at the front of its queue, a step is exec of the command at the state whose queue is the rest. The queue, first in and first out, is the model's own (the block takes commands from outside). -/
def Obligations.StepRunsFront : Prop :=
  ∀ (i : Instr) (l : List Instr) (s : State), s.pending = i :: l → step s = exec i { s with pending := l }

/-- With an empty queue, a step changes nothing in OFF; in STANDBY it moves local time by one period of the 32.768 kHz clock, 30,517 ns and 37/64 ns; otherwise by one cycle of 1 ns. The tick on an empty queue is the model's choice (DESIGN CHOICE, log 11); the resolution of 1 ns is R465's and that of STANDBY R466's. -/
def Obligations.IdleTick : Prop :=
  ∀ (s : State), s.pending = [] →
    (powerState s.toChip = 0 → step s = .next s) ∧
    (powerState s.toChip = 1 →
      step s = .next { s with now := s.now + 30517 + (s.xtal + 37) / 64, xtal := (s.xtal + 37) % 64 }) ∧
    (powerState s.toChip ≠ 0 → powerState s.toChip ≠ 1 → step s = .next { s with now := s.now + 1 })

/-- While the management function does not answer, a command of the host driver (those of Instr.byDriver) changes nothing at all; while a function does not answer, an access that comes through it (those with Instr.via) changes nothing at all. A function answers while its link is up, the module has booted, the function is there and not in reset, its memory space is on and its power state is not D3hot, and its stream is not insecure (the conditions beside the link are log entries 18 and 48). -/
def Obligations.ShutDriverChangesNothing : Prop :=
  (∀ (i : Instr) (s : State), i.byDriver = true → driverOpen s.toChip = false → exec i s = .next s) ∧
  (∀ (i : Instr) (s : State) (v : Via), i.via = some v → viaOpen s.toChip v = false → exec i s = .next s)

/-- Every command answers a next state with the queue unchanged, in every state, with every operand: no command is refused and none faults. -/
def Obligations.EveryCommandCompletes : Prop :=
  ∀ (i : Instr) (s : State), ∃ t, exec i s = .next t ∧ t.pending = s.pending

/-- In the state right after reset every field of every page reads as its Reset column says, among them the values written out here; no byte of memory is listed, and no command waits. A column of a dash is read as 0 (DESIGN CHOICE, log 2). -/
def Obligations.ResetRegisters : Prop :=
  (∀ (pg : Page) (f : Field), rd State.reset.toChip pg f = f.reset) ∧
  rd State.reset.toChip .pm Reg.PM_STAT_STATE = 2 ∧ rd State.reset.toChip .pm Reg.PM_THERM_CFG_THROTTLE_C = 95 ∧
  rd State.reset.toChip .fc Reg.FC_CFG_GRACE_MS = 50 ∧ rd State.reset.toChip .fc Reg.FC_CFG_CEILING = 2 ∧
  (∀ q, rd State.reset.toChip (.qf q) Reg.QF_CFG_WAIT_TIMEOUT = 1000) ∧
  (∀ b, rd State.reset.toChip (.blk b) Reg.BLK_ISSUE_RATE = 16) ∧ (∀ b, rd State.reset.toChip (.spb b) Reg.SPB_STAT_DIRTY = 1) ∧
  (∀ r, rd State.reset.toChip (.sl r) Reg.SL_CFG_GAIN = 3) ∧ (∀ u, rd State.reset.toChip (.hbm u) Reg.HBM_STAT_USABLE_GIB = 96) ∧
  State.reset.mem.bytes = [] ∧ State.reset.now = 0 ∧ State.reset.pending = []

/-- Right after reset the registers, the memory and the banks are in canonical form, and every waiting command (there is none) is well formed. -/
def Obligations.WfReset : Prop :=
  State.reset.toChip.wf = true ∧ State.reset.queueWf = true

/-- From every state in canonical form whose waiting commands are well formed, a step that answers a next state answers one in canonical form whose waiting commands are well formed: the keys of registers, bytes and banks strictly rise, and no listed byte of memory or of a bank reads as an unlisted one does. -/
def Obligations.WfKept : Prop :=
  ∀ (s t : State), s.toChip.wf = true → s.queueWf = true → step s = .next t → t.toChip.wf = true ∧ t.queueWf = true

/-- A command that is not among those of Instr.mayStore leaves every byte of external memory, its poison and its waiting errors as they were; one that is not among those of Instr.mayRetire leaves the stacks whose retirement is accepted, and every entry of the slice map, as they were. -/
def Obligations.MemoryKept : Prop :=
  (∀ (i : Instr) (s t : State), i.mayStore = false → exec i s = .next t → t.mem = s.mem ∧ ∀ a n, memRead t.toChip a n = memRead s.toChip a n) ∧
  (∀ (i : Instr) (s t : State), i.mayRetire = false → exec i s = .next t → t.retire = s.retire ∧ t.slices = s.slices)

/-- A command that is not among those of Instr.mayTouchPads leaves every byte of every scratchpad bank, its poison and its waiting errors as they were: the resets of a partition, its release and the resets of a function are not among them, so the device never clears a scratchpad between tasks. One that is not among those of Instr.mayTouchSets leaves every accumulator file as it was. -/
def Obligations.PadsAndSetsKept : Prop :=
  (∀ (i : Instr) (s t : State), i.mayTouchPads = false → exec i s = .next t → t.pads = s.pads ∧ ∀ r a n, padRead t.toChip r a n = padRead s.toChip r a n) ∧
  (∀ (i : Instr) (s t : State), i.mayTouchSets = false → exec i s = .next t → t.blocks = s.blocks)

/-- A command that is not among those of Instr.mayTouchQueues leaves every queue and job as it was; one that is not among those of Instr.mayTouchServe leaves the Start lists, their slots and accounts; one that is not among those of Instr.mayTouchWalkers leaves the walks, the free and retire depths, the epochs and the loaded models; one that is not among those of Instr.mayTouchContexts leaves the latched slot contexts. -/
def Obligations.QueuesKept : Prop :=
  (∀ (i : Instr) (s t : State), i.mayTouchQueues = false → exec i s = .next t → t.q = s.q) ∧
  (∀ (i : Instr) (s t : State), i.mayTouchServe = false → exec i s = .next t → t.serve = s.serve) ∧
  (∀ (i : Instr) (s t : State), i.mayTouchWalkers = false → exec i s = .next t → t.kv = s.kv) ∧
  (∀ (i : Instr) (s t : State), i.mayTouchContexts = false → exec i s = .next t → t.slots = s.slots)

/-- A command that is not among those of Instr.mayTouchMesh leaves the Serrun ports, transfers and twin roles as they were; one that is not among those of Instr.mayTouchHosts leaves the functions, holds, scrubs and waiting interrupt messages. -/
def Obligations.MeshAndHostsKept : Prop :=
  (∀ (i : Instr) (s t : State), i.mayTouchMesh = false → exec i s = .next t → t.mesh = s.mesh) ∧
  (∀ (i : Instr) (s t : State), i.mayTouchHosts = false → exec i s = .next t → t.hosts = s.hosts)

/-- A command that is not among those of Instr.mayTouchSecurity leaves the fuses, the flash, the measurements, the seeds, the nonce, the sessions and the streams as they were: no command of a queue, an engine, a Serrun link or the Start list is among them. -/
def Obligations.SecurityKept : Prop :=
  ∀ (i : Instr) (s t : State), i.mayTouchSecurity = false → exec i s = .next t → t.sec = s.sec

/-- A command that is not among those of Instr.mayTouchClocks leaves the held and latched halves of register pairs, the scrub and arbitration positions, the bus addresses and local time as they were; and one that is not among the three of Instr.mayTouchTime, which take the power away or bring it, leaves local time and the count of the crystal as they were: local time never jumps, and every reset but a cold one leaves it unchanged. -/
def Obligations.ClocksKept : Prop :=
  (∀ (i : Instr) (s t : State), i.mayTouchClocks = false → exec i s = .next t → t.now = s.now ∧ t.xtal = s.xtal ∧ t.heldLo = s.heldLo ∧
      t.latchHi = s.latchHi ∧ t.patrol = s.patrol ∧ t.patrolFrom = s.patrolFrom ∧ t.scrubPos = s.scrubPos ∧
      t.bankTurn = s.bankTurn ∧ t.bus = s.bus) ∧
  (∀ (i : Instr) (s t : State), i.mayTouchTime = false → exec i s = .next t → t.now = s.now ∧ t.xtal = s.xtal)

/-- The resets of Instr.resets, of a port, a function, a partition, a queue or a fenced block, leave the slice map, the accepted retirements, the latched slot contexts, the security state (fuses, flash, what the firmware measured, keys and sessions), local time and the bus addresses as they were; and all but a queue's leave every byte of every scratchpad bank. -/
def Obligations.ScopesKeep : Prop :=
  ∀ (i : Instr) (s t : State), i.resets = true → exec i s = .next t →
    t.slices = s.slices ∧ t.retire = s.retire ∧ t.slots = s.slots ∧ t.sec = s.sec ∧ t.now = s.now ∧ t.xtal = s.xtal ∧ t.bus = s.bus ∧
    ((∀ via p n e, i ≠ .queueReset via p n e) → t.pads = s.pads)

/-- In OFF, in STANDBY and in FATAL, a command that is not among those of Instr.worksStopped changes nothing at all: no command issues, no transfer moves, no partition changes state (that the rows of partitions, holds, scrubs and memory are among them, beyond R450's words, is log entry 16's reading). In OFF, a command that is not among those of Instr.worksInOff changes nothing at all. -/
def Obligations.StoppedModuleIdles : Prop :=
  (∀ (i : Instr) (s : State), i.worksStopped = false → running s.toChip = false → exec i s = .next s) ∧
  (∀ (i : Instr) (s : State), i.worksInOff = false → powerState s.toChip = 0 → exec i s = .next s)

/-- When PWR_EN is deasserted with the module not in OFF, the module is in OFF: every register field but PM_STAT.STATE is at its reset value, no byte of memory is listed, no queue holds a job, no partition has a walk or a served request, and local time is 0. Fuses and flash stay. -/
def Obligations.PowerRemovedIsOff : Prop :=
  ∀ (c : Chip) (l : List Instr), powerState c ≠ 0 →
    ∃ t, exec .pwrEnDeassert ⟨c, l⟩ = .next ⟨t, l⟩ ∧ powerState t = 0 ∧ t.power.pwrEn = false ∧
      (∀ pg f, key pg f ≠ key .pm Reg.PM_STAT_STATE → rd t pg f = f.reset) ∧ t.mem.bytes = [] ∧ t.pads = [] ∧ t.q.jobs = [] ∧
      t.kv.walks = [] ∧ t.serve = [] ∧ t.now = 0 ∧ t.sec.fuses = c.sec.fuses ∧ t.sec.flash = c.sec.flash

/-- With the hub on and the host driver reaching it, once the ends of intervals and the records sent before it are taken: an FC_ACK that names a pending record takes it, and it alone, out of the pending set, and no further step is taken for it; one that names none changes nothing but the count ACK_STALE. -/
def Obligations.AcknowledgedRecordLeaves : Prop :=
  ∀ (c : Chip) (l : List Instr) (seq : Word) (t : Chip), driverOpen c = true → hubOn c = true → takeSent (runGraces c) none = t →
    (t.faults.pending.any (fun x => x.seq == seq.toNat) = true →
      ∃ u, exec (.fcAck seq) ⟨c, l⟩ = .next ⟨u, l⟩ ∧ u.faults.pending = t.faults.pending.filter (fun x => x.seq != seq.toNat) ∧
        u.faults.log = t.faults.log ∧ (∀ pg f, key pg f ≠ key .fc Reg.FC_STAT_PENDING → rd u pg f = rd t pg f) ∧
        exec (.graceExpiry seq) ⟨u, l⟩ = .next ⟨u, l⟩) ∧
    (t.faults.pending.any (fun x => x.seq == seq.toNat) = false →
      exec (.fcAck seq) ⟨c, l⟩ = .next ⟨wr t .fc Reg.FC_ESC_COUNT_ACK_STALE
        (min (rd t .fc Reg.FC_ESC_COUNT_ACK_STALE + 1) (2 ^ width Reg.FC_ESC_COUNT_ACK_STALE - 1)), l⟩)

/-- While BLK_ACC_STATE.LIVE of a block is not 0, its OFF timeout changes nothing. Where the timeout does take a block to OFF, every accumulator set of the block is lost: none is live, and its words are undefined. Both hold whether or not an access meets the block's bank as it enters OFF. -/
def Obligations.LiveSetsKeepBlocksOn : Prop :=
  ∀ (c : Chip) (l : List Instr) (b : Fin 256) (met : Bool),
    (rd c (.blk b.val) Reg.BLK_ACC_STATE_LIVE ≠ 0 → exec (.blockOffTimeout b met) ⟨c, l⟩ = .next ⟨c, l⟩) ∧
    (mayOff c b.val = true → tsorted c.regs = true → ∃ t, exec (.blockOffTimeout b met) ⟨c, l⟩ = .next ⟨t, l⟩ ∧
      blockPower t b.val = 3 ∧ rd t (.blk b.val) Reg.BLK_ACC_STATE_LIVE = 0 ∧
      block t b.val = { freshBlock with ground := .free c.fresh })

/-- With the hub on, that port's link up and not in FATAL, a read within the 4 KiB BAR0 of PF0 on the other port answers what the hub page reads at that offset and changes nothing else, a write there changes nothing, and there is nothing above 4 KiB. -/
def Obligations.OtherPortsRegisters : Prop :=
  ∀ (c : Chip) (l : List Instr) (port : Fin 2) (off : Nat) (v : Word) (be : BitVec 4),
    hubOn c = true → viaOpen c (.pf port) = true → port.val ≠ mgmtPort c → off % 4 = 0 →
    (off < 4096 → inFatal c = false →
      exec (.latchingLoRead (.pf port) off) ⟨c, l⟩ = .next ⟨emit c (.register (readReg c .hub off)), l⟩) ∧
    exec (.registerWrite (.pf port) off v be) ⟨c, l⟩ = .next ⟨c, l⟩ ∧
    (4096 ≤ off → exec (.latchingLoRead (.pf port) off) ⟨c, l⟩ = .next ⟨c, l⟩)

/-- On a semaphore of the partition on which nothing waits: with SET = 1 the value becomes VALUE; with SET = 0 VALUE is added, and an addition that would pass 2^32 - 1 leaves 2^32 - 1 and faults the job with SEM_OVERFLOW (46H). These are the values after the command, and no other semaphore changes. -/
def Obligations.SemaphoreSignalled : Prop :=
  ∀ (c d : Chip) (l : List Instr) (o : Origin) (b : Body) (n v x : Nat), running c = true →
    stillToDo c o (syncOf o) 0x10 b = true → handTo c o (syncOf o) 0x10 b = d → mayFollow d o (syncOf o) 0x10 b = true →
    bf b 0x10 15 0 = n → bw b 0x14 = v → semOwned d o.part.val n = true →
    d.q.waits.all (fun w => match w.on with | .sem m _ _ => m != n | .bar _ _ => true) = true → tsorted d.q.sems = true →
    (if bb b 0x10 16 = true then v else min (semVal c n + v) (2 ^ 32 - 1)) = x →
    ∃ t, exec (.semSignal o b) ⟨c, l⟩ = .next ⟨t, l⟩ ∧ semVal t n = x ∧ (∀ m, m ≠ n → semVal t m = semVal c m) ∧
      t = syncDone (if bb b 0x10 16 = false ∧ 2 ^ 32 - 1 < semVal c n + v then faultQueue (semSet d n x) o 0x46
        else semSet d n x) o 0x10 b

/-- With MAP 0 a byte is mapped to itself. With MAP 1 the byte is read as a signed value s and mapped to ((s << 1) XOR (s >> 7)) mod 256 with an arithmetic shift: -1 to 1, +1 to 2 and -128 to 255. Zero is mapped to 0 under both, and the byte is found again from what it is mapped to. The trit-packed byte of value t0 + 3 t1 + 9 t2 + 27 t3 + 81 t4 holds the trit codes t0 to t4 in this order; code 0 means weight 0, code 1 weight +1, and code 2 weight -1. -/
def Obligations.BytesMappedAndPacked : Prop :=
  (∀ v : Byte, skvMap false v.toNat = v.toNat) ∧
  (∀ v : Byte, skvMap true v.toNat = ((v <<< 1) ^^^ (v.sshiftRight 7)).toNat) ∧
  skvMap true 255 = 1 ∧ skvMap true 1 = 2 ∧ skvMap true 128 = 255 ∧ (∀ m, skvMap m 0 = 0) ∧
  (∀ (m : Bool) (v : Byte), skvUnmap m (skvMap m v.toNat) = v.toNat) ∧
  (∀ t0 t1 t2 t3 t4 : Fin 3, let v := BitVec.ofNat 8 (t0.val + 3 * t1.val + 9 * t2.val + 27 * t3.val + 81 * t4.val)
    byteTrit v 0 = t0.val ∧ byteTrit v 1 = t1.val ∧ byteTrit v 2 = t2.val ∧ byteTrit v 3 = t3.val ∧ byteTrit v 4 = t4.val) ∧
  tritWeight 0 = 0 ∧ tritWeight 1 = 1 ∧ tritWeight 2 = -1

/-- With the host driver's link up and the firmware running from a supplement copy whose SVN is above the fused MIN_SVN, a commit burns MIN_SVN to that SVN and shows it; with an SVN that is not higher it changes nothing, and no other fuse and no other register changes. -/
def Obligations.SecurityVersionCommitted : Prop :=
  ∀ (c : Chip) (l : List Instr) (v : Nat), rd c .sec Reg.SEC_BOOT_STAT_SVN = v →
    (driverOpen c = true → hubOn c = true → c.sec.booted = true → c.sec.runningB.isSome = true → c.sec.fuses.minSvn < v → ∃ t,
      exec .secSvnCommit ⟨c, l⟩ = .next ⟨t, l⟩ ∧ t.sec = { c.sec with fuses := { c.sec.fuses with minSvn := v } } ∧
      (tsorted c.regs = true → rd t .sec Reg.SEC_FUSE_STAT_MIN_SVN = v % 2 ^ width Reg.SEC_FUSE_STAT_MIN_SVN) ∧
      (∀ pg f, key pg f ≠ key .sec Reg.SEC_FUSE_STAT_MIN_SVN → rd t pg f = rd c pg f) ∧ t.mem = c.mem ∧ t.pads = c.pads) ∧
    (v ≤ c.sec.fuses.minSvn → exec .secSvnCommit ⟨c, l⟩ = .next ⟨c, l⟩)

/-- On a page that answers the host driver and has the common header, a write of IRQ_EN leaves in it the written bits of the causes the page defines, a write of ERR_MASK those of its errors; no other register field, no memory and no bank changes, whether or not the page's vector is sent again. -/
def Obligations.MasksReadBack : Prop :=
  ∀ (c : Chip) (l : List Instr) (pg : Page) (err : Bool) (v : Word) (f : Field) (n : Nat), driverOpen c = true → headerOpen c pg = true →
    tsorted c.regs = true → (if err = true then Reg.ERR_MASK_MASK else Reg.IRQ_EN_EN) = f →
    definedBits pg (if err = true then 0x01C else 0x010) = n → ∃ t, exec (.interruptMaskWrite pg err v) ⟨c, l⟩ = .next ⟨t, l⟩ ∧
      rd t pg f = (v.toNat &&& n) % 2 ^ width f ∧ (∀ pg' f', key pg' f' ≠ key pg f → rd t pg' f' = rd c pg' f') ∧
      t.mem = c.mem ∧ t.pads = c.pads

/-- A BAR2 write of a READY partition's function that is granted stores its bytes at the device address the window gives: a read of that run then gives the bytes, every byte outside it reads as before, and no bank changes. -/
def Obligations.Bar2WriteStores : Prop :=
  ∀ (c : Chip) (l : List Instr) (port : Fin 2) (fn : Fin 17) (offset : Nat) (bytes : List Byte) (p a : Nat),
    c.mem.wf = true → barOpen c port.val fn.val = true → bytes ≠ [] → readyPart c port.val fn.val = some p →
    bar2Addr c port.val fn.val p offset = a → girthAdmit c p a bytes.length true = .go → ∃ t,
      exec (.bar2Write port fn offset bytes) ⟨c, l⟩ = .next ⟨t, l⟩ ∧ memRead t a bytes.length = bytes ∧
      (∀ x, x < a ∨ a + bytes.length ≤ x → cellGet t.mem.bytes x = cellGet c.mem.bytes x) ∧ t.pads = c.pads

/-- A BAR2 write any byte of which the partition may not write is dropped whole: no byte of memory, no bank and no queue changes, no error is recorded, and nothing is answered. One through a function without a bound partition, or whose partition is not READY, changes nothing at all. -/
def Obligations.Bar2WriteDropped : Prop :=
  ∀ (c : Chip) (l : List Instr) (port : Fin 2) (fn : Fin 17) (offset : Nat) (bytes : List Byte),
    barOpen c port.val fn.val = true →
    (∀ p a k, readyPart c port.val fn.val = some p → bar2Addr c port.val fn.val p offset = a →
      girthAdmit c p a bytes.length true = .refuse k → ∃ t,
        exec (.bar2Write port fn offset bytes) ⟨c, l⟩ = .next ⟨t, l⟩ ∧ t.mem = c.mem ∧ t.pads = c.pads ∧ t.q = c.q ∧
        t.faults = c.faults ∧ t.out = c.out) ∧
    ((∀ p, partOf c port.val fn.val = some p → partState c p ≠ 2) → exec (.bar2Write port fn offset bytes) ⟨c, l⟩ = .next ⟨c, l⟩)

/-- At the end of a fill through the page, of an awake bank that is not fenced, every byte of its range reads zero, every other byte of the bank reads as before, and no byte of external memory changes. -/
def Obligations.FillZeroes : Prop :=
  ∀ (c : Chip) (l : List Instr) (b : Fin 256) (f : BankFill), running c = true →
    c.fills.find? (fun f => f.bank == b.val) = some f → bankFenced c b.val = false → f.origin = none → f.first < f.last →
    rd c (.spb b.val) Reg.SPB_STAT_POWER ≠ 3 → ∃ t, exec (.fillComplete b) ⟨c, l⟩ = .next ⟨t, l⟩ ∧
      (∀ k, f.first ≤ k → k < f.last → bankByte (bank t b.val) b.val k = 0) ∧
      (∀ k, k < f.first ∨ f.last ≤ k → k < bankSize → bankByte (bank t b.val) b.val k = bankByte (bank c b.val) b.val k) ∧ t.mem = c.mem

/-- The symbol of a non-zero byte stands for that byte, the symbol of a run of 1 to 4,096 zero bytes for that run, with the number of extra bits that Table 10-1 gives its class, and its extra value fits them; no symbol falls in a reserved class. -/
def Obligations.SkiveSymbolsReadBack : Prop :=
  (∀ (m : Bool) (v : Byte), v ≠ 0 → ∃ c x e, literalSym (skvMap m v.toNat) = (c, x, e) ∧ symBytes m c x = some [v] ∧
    e = extraBits c ∧ x < 2 ^ e ∧ classUsed c = true) ∧
  (∀ (m : Bool) (n : Nat), 1 ≤ n → n ≤ 4096 → ∃ c x e, runSym n = (c, x, e) ∧ symBytes m c x = some (List.replicate n 0) ∧
    e = extraBits c ∧ x < 2 ^ e ∧ classUsed c = true)

/-- For every table of 64 lengths from 0 to 15 that is valid under R299, and every block of at most 4,096 bytes each of whose classes has a code, decoding the encoded block gives the block back, whatever bytes follow it, and reports no damage. -/
def Obligations.SkiveBlocksReadBack : Prop :=
  ∀ (t : List Nat) (map : Bool) (block rest : List Byte), t.length = 64 → (∀ n ∈ t, n ≤ 15) → tableValid t = true →
    block.length ≤ 4096 → coversBlock t map block = true →
    decodeBits t map (encodeBits t map block ++ rest) block.length = (block, true)
end

