-- ==== Sys2Proof/Laws/Tables.lean ====
section
/-! SUPPORT. The laws of sparse tables and key sets: what a read gives after a write, and that every operation keeps the
canonical form. -/
namespace Sys2Proof.Machine

/-- Every key of the table is above `i`. -/
def above {α : Type} (i : Nat) (m : Table α) : Prop := ∀ e ∈ m, i < e.1

theorem tsorted_cons {α : Type} (i : Nat) (a : α) (m : Table α) :
    tsorted ((i, a) :: m) = true ↔ above i m ∧ tsorted m = true := by
  induction m generalizing i a with
  | nil => simp [tsorted, above]
  | cons e m ih =>
    obtain ⟨j, b⟩ := e
    have hj := ih j b
    constructor
    · intro h
      simp only [tsorted, Bool.and_eq_true, decide_eq_true_eq] at h
      refine ⟨?_, h.2⟩
      intro e he
      rcases List.mem_cons.mp he with rfl | he
      · exact h.1
      · exact lt_trans h.1 ((hj.mp h.2).1 e he)
    · intro h
      simp only [tsorted, Bool.and_eq_true, decide_eq_true_eq]
      exact ⟨h.1 (j, b) (by simp), h.2⟩

theorem tsorted_iff {α : Type} (m : Table α) : tsorted m = true ↔ m.Pairwise (fun a b => a.1 < b.1) := by
  induction m with
  | nil => simp [tsorted]
  | cons e m ih =>
    obtain ⟨i, a⟩ := e
    rw [tsorted_cons, List.pairwise_cons, ih]
    exact Iff.rfl

theorem tset_mem {α : Type} (m : Table α) (k : Nat) (a : α) (e : Nat × α) (h : e ∈ tset m k a) : e = (k, a) ∨ e ∈ m := by
  induction m with
  | nil => simp only [tset, List.mem_singleton] at h; exact .inl h
  | cons x m ih =>
    obtain ⟨i, b⟩ := x
    simp only [tset] at h
    split at h
    · rcases List.mem_cons.mp h with h | h
      · exact .inl h
      · exact .inr h
    · split at h
      · rcases List.mem_cons.mp h with h | h
        · exact .inl h
        · exact .inr (List.mem_cons_of_mem _ h)
      · rcases List.mem_cons.mp h with h | h
        · exact .inr (h ▸ List.mem_cons_self)
        · rcases ih h with h | h
          · exact .inl h
          · exact .inr (List.mem_cons_of_mem _ h)

/-- Entering a key keeps the canonical form. -/
theorem tsorted_tset {α : Type} (m : Table α) (k : Nat) (a : α) (h : tsorted m = true) : tsorted (tset m k a) = true := by
  induction m with
  | nil => rfl
  | cons x m ih =>
    obtain ⟨i, b⟩ := x
    have hx := (tsorted_cons i b m).mp h
    simp only [tset]
    split
    · rename_i hk
      refine (tsorted_cons _ _ _).mpr ⟨?_, h⟩
      intro e he
      rcases List.mem_cons.mp he with rfl | he
      · exact hk
      · exact lt_trans hk (hx.1 e he)
    · split
      · rename_i _ hk
        subst hk
        exact (tsorted_cons _ _ _).mpr ⟨hx.1, hx.2⟩
      · rename_i h1 h2
        refine (tsorted_cons _ _ _).mpr ⟨?_, ih hx.2⟩
        intro e he
        rcases tset_mem m k a e he with rfl | he
        · show i < k
          omega
        · exact hx.1 e he

theorem tdel_sublist {α : Type} (m : Table α) (k : Nat) : (tdel m k).Sublist m := by
  induction m with
  | nil => exact List.Sublist.refl _
  | cons x m ih =>
    obtain ⟨i, b⟩ := x
    simp only [tdel]
    split
    · exact List.sublist_cons_self _ _
    · exact ih.cons_cons _

/-- A part of a table in canonical form is in canonical form. -/
theorem tsorted_sublist {α : Type} {m n : Table α} (h : m.Sublist n) (hn : tsorted n = true) : tsorted m = true :=
  (tsorted_iff m).mpr (((tsorted_iff n).mp hn).sublist h)

/-- Removing a key keeps the canonical form. -/
theorem tsorted_tdel {α : Type} (m : Table α) (k : Nat) (h : tsorted m = true) : tsorted (tdel m k) = true :=
  tsorted_sublist (tdel_sublist m k) h

/-- Keeping some entries keeps the canonical form. -/
theorem tsorted_filter {α : Type} (m : Table α) (p : Nat × α → Bool) (h : tsorted m = true) : tsorted (m.filter p) = true :=
  tsorted_sublist List.filter_sublist h

/-- What a table reads under a key that has just been entered. -/
@[simp] theorem tget_tset_same {α : Type} (m : Table α) (k : Nat) (a : α) : tget (tset m k a) k = some a := by
  induction m with
  | nil => simp [tset, tget]
  | cons x m ih =>
    obtain ⟨i, b⟩ := x
    simp only [tset]
    split
    · simp [tget]
    · split
      · simp [tget]
      · rename_i h1 h2
        simp only [tget]
        rw [if_neg (fun h => h2 h.symm)]
        exact ih

/-- Another key reads as before. -/
@[simp] theorem tget_tset_ne {α : Type} (m : Table α) (k j : Nat) (a : α) (hj : j ≠ k) : tget (tset m k a) j = tget m j := by
  induction m with
  | nil => simp [tset, tget, Ne.symm hj]
  | cons x m ih =>
    obtain ⟨i, b⟩ := x
    simp only [tset]
    split
    · simp [tget, Ne.symm hj]
    · split
      · rename_i _ h
        subst h
        simp [tget, Ne.symm hj]
      · simp only [tget, ih]

/-- A key that has been removed from a table in canonical form reads as none. -/
theorem tget_above {α : Type} (m : Table α) (k : Nat) (h : above k m) : tget m k = none := by
  induction m with
  | nil => rfl
  | cons x m ih =>
    obtain ⟨i, b⟩ := x
    have hi : k < i := h (i, b) (by simp)
    simp only [tget]
    rw [if_neg (by omega)]
    exact ih (fun e he => h e (List.mem_cons_of_mem _ he))

@[simp] theorem tget_tdel_same {α : Type} (m : Table α) (k : Nat) (h : tsorted m = true) : tget (tdel m k) k = none := by
  induction m with
  | nil => rfl
  | cons x m ih =>
    obtain ⟨i, b⟩ := x
    have hx := (tsorted_cons i b m).mp h
    simp only [tdel]
    split
    · rename_i hk
      subst hk
      exact tget_above m _ hx.1
    · rename_i hk
      simp only [tget]
      rw [if_neg hk]
      exact ih hx.2

@[simp] theorem tget_tdel_ne {α : Type} (m : Table α) (k j : Nat) (hj : j ≠ k) : tget (tdel m k) j = tget m j := by
  induction m with
  | nil => rfl
  | cons x m ih =>
    obtain ⟨i, b⟩ := x
    simp only [tdel]
    split
    · rename_i hk
      subst hk
      simp [tget, Ne.symm hj]
    · simp only [tget, ih]

theorem tgetD_tset_same {α : Type} (m : Table α) (k : Nat) (a d : α) : tgetD (tset m k a) k d = a := by
  simp [tgetD]

theorem tgetD_tset_ne {α : Type} (m : Table α) (k j : Nat) (a d : α) (hj : j ≠ k) :
    tgetD (tset m k a) j d = tgetD m j d := by
  simp [tgetD, hj]

theorem ksorted_cons (i : Nat) (m : Keys) : ksorted (i :: m) = true ↔ (∀ j ∈ m, i < j) ∧ ksorted m = true := by
  induction m generalizing i with
  | nil => simp [ksorted]
  | cons j m ih =>
    have hj := ih j
    constructor
    · intro h
      simp only [ksorted, Bool.and_eq_true, decide_eq_true_eq] at h
      refine ⟨?_, h.2⟩
      intro e he
      rcases List.mem_cons.mp he with rfl | he
      · exact h.1
      · exact lt_trans h.1 ((hj.mp h.2).1 e he)
    · intro h
      simp only [ksorted, Bool.and_eq_true, decide_eq_true_eq]
      exact ⟨h.1 j (by simp), h.2⟩

theorem ksorted_iff (m : Keys) : ksorted m = true ↔ m.Pairwise (fun a b => a < b) := by
  induction m with
  | nil => simp [ksorted]
  | cons i m ih => rw [ksorted_cons, List.pairwise_cons, ih]

theorem kadd_mem (m : Keys) (k j : Nat) (h : j ∈ kadd m k) : j = k ∨ j ∈ m := by
  induction m with
  | nil => simp only [kadd, List.mem_singleton] at h; exact .inl h
  | cons i m ih =>
    simp only [kadd] at h
    split at h
    · rcases List.mem_cons.mp h with h | h
      · exact .inl h
      · exact .inr h
    · split at h
      · exact .inr h
      · rcases List.mem_cons.mp h with h | h
        · exact .inr (h ▸ List.mem_cons_self)
        · rcases ih h with h | h
          · exact .inl h
          · exact .inr (List.mem_cons_of_mem _ h)

/-- Adding a key keeps the canonical form. -/
theorem ksorted_kadd (m : Keys) (k : Nat) (h : ksorted m = true) : ksorted (kadd m k) = true := by
  induction m with
  | nil => rfl
  | cons i m ih =>
    have hx := (ksorted_cons i m).mp h
    simp only [kadd]
    split
    · rename_i hk
      refine (ksorted_cons _ _).mpr ⟨?_, h⟩
      intro e he
      rcases List.mem_cons.mp he with rfl | he
      · exact hk
      · exact lt_trans hk (hx.1 e he)
    · split
      · exact h
      · rename_i h1 h2
        refine (ksorted_cons _ _).mpr ⟨?_, ih hx.2⟩
        intro e he
        rcases kadd_mem m k e he with rfl | he
        · omega
        · exact hx.1 e he

/-- Keeping some keys keeps the canonical form. -/
theorem ksorted_filter (m : Keys) (p : Nat → Bool) (h : ksorted m = true) : ksorted (m.filter p) = true :=
  (ksorted_iff _).mpr (((ksorted_iff m).mp h).sublist List.filter_sublist)

theorem ksorted_foldl_kadd (l m : Keys) (h : ksorted m = true) : ksorted (l.foldl kadd m) = true := by
  induction l generalizing m with
  | nil => exact h
  | cons k l ih => exact ih _ (ksorted_kadd m k h)

end Sys2Proof.Machine
end

