-- ==== Sys2Proof/Laws/Canon.lean ====
section
/-! SUPPORT. The canonical form of the memories and the registers, and that every primitive operation keeps it. The files
Laws/Canon<Family>.lean say the same of every operation that changes the module. -/
namespace Sys2Proof.Machine

/-- The times, latches, turns and bus addresses that few commands change. -/
def Chip.clocks (s : Chip) : Nat × Nat × Table Nat × Table Nat × Table Nat × Table Nat × Table Nat × Table Nat × Bus :=
  (s.now, s.xtal, s.heldLo, s.latchHi, s.patrol, s.patrolFrom, s.scrubPos, s.bankTurn, s.bus)

/-- Of the accumulator files, the queues, the Start list, the mesh, the hosts' state, local time and the slot contexts, each one that is named, at the value named. -/
structure Kept where
  b : Option (Table Block)
  q : Option Queues
  l : Option (Table Serve)
  m : Option Mesh
  h : Option Hosts
  n : Option (Nat × Nat)
  c : Option (Table SlotCtx)

/-- The module holds what is named. -/
structure Kept.Of (k : Kept) (s : Chip) : Prop where
  b : ∀ x, k.b = some x → x = s.blocks
  q : ∀ x, k.q = some x → x = s.q
  l : ∀ x, k.l = some x → x = s.serve
  m : ∀ x, k.m = some x → x = s.mesh
  h : ∀ x, k.h = some x → x = s.hosts
  n : ∀ x, k.n = some x → x = (s.now, s.xtal)
  c : ∀ x, k.c = some x → x = s.slots

/-- What a change of the module keeps: the canonical form, where `kw` asks for it (`Chip.wf`); and, of the clocks, the record of
retired rows and slices, the security state, the external memory, the banks and the walkers' state, each one that is named, at
the value named; and what `kx` names. -/
structure Chip.Canon (kw : Prop) (kt : Option (Nat × Nat × Table Nat × Table Nat × Table Nat × Table Nat × Table Nat × Table Nat × Bus))
    (kr : Option (Keys × Table Slice)) (ks : Option Security) (km : Option Memory) (kp : Option (Table Bank)) (kv : Option Kv)
    (kx : Kept) (s : Chip) : Prop where
  w : kw → s.wf = true
  ct : ∀ x, kt = some x → x = s.clocks
  cr : ∀ x, kr = some x → x = (s.retire, s.slices)
  cs : ∀ x, ks = some x → x = s.sec
  cm : ∀ x, km = some x → x = s.mem
  cp : ∀ x, kp = some x → x = s.pads
  cv : ∀ x, kv = some x → x = s.kv
  cx : kx.Of s

theorem wf_iff (s : Chip) : s.wf = true ↔ tsorted s.regs = true ∧ s.mem.wf = true ∧ padsWf s.pads = true := by
  simp only [Chip.wf, Bool.and_eq_true, and_assoc]

theorem noneOnly {α : Type} (y : α) : ∀ x, none = some x → x = y := fun _ h => by cases h

/-- Nothing is named. -/
theorem kept_none (s : Chip) : Kept.Of ⟨none, none, none, none, none, none, none⟩ s :=
  ⟨noneOnly _, noneOnly _, noneOnly _, noneOnly _, noneOnly _, noneOnly _, noneOnly _⟩

theorem someOnly {α : Type} (y : α) : ∀ x, some y = some x → x = y := fun _ h => (Option.some.inj h).symm

/-- Everything is kept of the module itself. -/
theorem canon_self (s : Chip) (kw : Prop) (h : kw → s.wf = true) :
    s.Canon kw (some s.clocks) (some (s.retire, s.slices)) (some s.sec) (some s.mem) (some s.pads) (some s.kv)
      ⟨some s.blocks, some s.q, some s.serve, some s.mesh, some s.hosts, some (s.now, s.xtal), some s.slots⟩ :=
  ⟨h, someOnly _, someOnly _, someOnly _, someOnly _, someOnly _, someOnly _,
    ⟨someOnly _, someOnly _, someOnly _, someOnly _, someOnly _, someOnly _, someOnly _⟩⟩

/-- Only the form is asked for. -/
theorem canon_form {kw : Prop} {s : Chip} (h : kw → s.wf = true) :
    s.Canon kw none none none none none none ⟨none, none, none, none, none, none, none⟩ :=
  ⟨h, noneOnly _, noneOnly _, noneOnly _, noneOnly _, noneOnly _, noneOnly _, kept_none _⟩

/-! ### Changes of fields that are not among those -/

theorem canon_mk_iff {kw kt kr ks km kp kv kx} {s : Chip} {fresh out girth fills prec switches spillHeld faults power}
    :
    Chip.Canon kw kt kr ks km kp kv kx ⟨s.now, s.xtal, fresh, out, s.regs, s.heldLo, s.latchHi, s.mem, s.retire, s.slices,
      girth, s.patrol, s.patrolFrom, s.pads, fills, s.scrubPos, s.bankTurn, s.blocks, prec, s.q, switches, spillHeld,
      s.kv, s.slots, s.serve, s.hosts, s.sec, s.mesh, faults, power, s.bus⟩ ↔
      s.Canon kw kt kr ks km kp kv kx :=
  ⟨fun h => ⟨h.w, h.ct, h.cr, h.cs, h.cm, h.cp, h.cv, ⟨h.cx.b, h.cx.q, h.cx.l, h.cx.m, h.cx.h, h.cx.n, h.cx.c⟩⟩, fun h
    => ⟨h.w, h.ct, h.cr, h.cs, h.cm, h.cp, h.cv, ⟨h.cx.b, h.cx.q, h.cx.l, h.cx.m, h.cx.h, h.cx.n, h.cx.c⟩⟩⟩

theorem canon_mkb_iff {kw kt kr ks km kp kv xq xl xm xh xn xc} {s : Chip} {fresh out girth fills blocks prec switches
    spillHeld faults power} :
    Chip.Canon kw kt kr ks km kp kv ⟨none, xq, xl, xm, xh, xn, xc⟩ ⟨s.now, s.xtal, fresh, out, s.regs, s.heldLo,
      s.latchHi, s.mem, s.retire, s.slices, girth, s.patrol, s.patrolFrom, s.pads, fills, s.scrubPos, s.bankTurn,
      blocks, prec, s.q, switches, spillHeld, s.kv, s.slots, s.serve, s.hosts, s.sec, s.mesh, faults, power, s.bus⟩ ↔
      s.Canon kw kt kr ks km kp kv ⟨none, xq, xl, xm, xh, xn, xc⟩ :=
  ⟨fun h => ⟨h.w, h.ct, h.cr, h.cs, h.cm, h.cp, h.cv, ⟨noneOnly _, h.cx.q, h.cx.l, h.cx.m, h.cx.h, h.cx.n, h.cx.c⟩⟩, fun
    h => ⟨h.w, h.ct, h.cr, h.cs, h.cm, h.cp, h.cv, ⟨noneOnly _, h.cx.q, h.cx.l, h.cx.m, h.cx.h, h.cx.n, h.cx.c⟩⟩⟩

theorem canon_mkc_iff {kw kt kr ks km kp kv xb xq xl xm xh xn} {s : Chip} {fresh out girth fills prec switches
    spillHeld slots faults power} :
    Chip.Canon kw kt kr ks km kp kv ⟨xb, xq, xl, xm, xh, xn, none⟩ ⟨s.now, s.xtal, fresh, out, s.regs, s.heldLo,
      s.latchHi, s.mem, s.retire, s.slices, girth, s.patrol, s.patrolFrom, s.pads, fills, s.scrubPos, s.bankTurn,
      s.blocks, prec, s.q, switches, spillHeld, s.kv, slots, s.serve, s.hosts, s.sec, s.mesh, faults, power, s.bus⟩ ↔
      s.Canon kw kt kr ks km kp kv ⟨xb, xq, xl, xm, xh, xn, none⟩ :=
  ⟨fun h => ⟨h.w, h.ct, h.cr, h.cs, h.cm, h.cp, h.cv, ⟨h.cx.b, h.cx.q, h.cx.l, h.cx.m, h.cx.h, h.cx.n, noneOnly _⟩⟩, fun
    h => ⟨h.w, h.ct, h.cr, h.cs, h.cm, h.cp, h.cv, ⟨h.cx.b, h.cx.q, h.cx.l, h.cx.m, h.cx.h, h.cx.n, noneOnly _⟩⟩⟩

theorem canon_mkh_iff {kw kt kr ks km kp kv xb xq xl xm xn xc} {s : Chip} {fresh out girth fills prec switches
    spillHeld hosts faults power} :
    Chip.Canon kw kt kr ks km kp kv ⟨xb, xq, xl, xm, none, xn, xc⟩ ⟨s.now, s.xtal, fresh, out, s.regs, s.heldLo,
      s.latchHi, s.mem, s.retire, s.slices, girth, s.patrol, s.patrolFrom, s.pads, fills, s.scrubPos, s.bankTurn,
      s.blocks, prec, s.q, switches, spillHeld, s.kv, s.slots, s.serve, hosts, s.sec, s.mesh, faults, power, s.bus⟩ ↔
      s.Canon kw kt kr ks km kp kv ⟨xb, xq, xl, xm, none, xn, xc⟩ :=
  ⟨fun h => ⟨h.w, h.ct, h.cr, h.cs, h.cm, h.cp, h.cv, ⟨h.cx.b, h.cx.q, h.cx.l, h.cx.m, noneOnly _, h.cx.n, h.cx.c⟩⟩, fun
    h => ⟨h.w, h.ct, h.cr, h.cs, h.cm, h.cp, h.cv, ⟨h.cx.b, h.cx.q, h.cx.l, h.cx.m, noneOnly _, h.cx.n, h.cx.c⟩⟩⟩

theorem canon_mkl_iff {kw kt kr ks km kp kv xb xq xm xh xn xc} {s : Chip} {fresh out girth fills prec switches
    spillHeld serve faults power} :
    Chip.Canon kw kt kr ks km kp kv ⟨xb, xq, none, xm, xh, xn, xc⟩ ⟨s.now, s.xtal, fresh, out, s.regs, s.heldLo,
      s.latchHi, s.mem, s.retire, s.slices, girth, s.patrol, s.patrolFrom, s.pads, fills, s.scrubPos, s.bankTurn,
      s.blocks, prec, s.q, switches, spillHeld, s.kv, s.slots, serve, s.hosts, s.sec, s.mesh, faults, power, s.bus⟩ ↔
      s.Canon kw kt kr ks km kp kv ⟨xb, xq, none, xm, xh, xn, xc⟩ :=
  ⟨fun h => ⟨h.w, h.ct, h.cr, h.cs, h.cm, h.cp, h.cv, ⟨h.cx.b, h.cx.q, noneOnly _, h.cx.m, h.cx.h, h.cx.n, h.cx.c⟩⟩, fun
    h => ⟨h.w, h.ct, h.cr, h.cs, h.cm, h.cp, h.cv, ⟨h.cx.b, h.cx.q, noneOnly _, h.cx.m, h.cx.h, h.cx.n, h.cx.c⟩⟩⟩

theorem canon_mkm_iff {kw kt kr ks km kp kv xb xq xl xh xn xc} {s : Chip} {fresh out girth fills prec switches
    spillHeld mesh faults power} :
    Chip.Canon kw kt kr ks km kp kv ⟨xb, xq, xl, none, xh, xn, xc⟩ ⟨s.now, s.xtal, fresh, out, s.regs, s.heldLo,
      s.latchHi, s.mem, s.retire, s.slices, girth, s.patrol, s.patrolFrom, s.pads, fills, s.scrubPos, s.bankTurn,
      s.blocks, prec, s.q, switches, spillHeld, s.kv, s.slots, s.serve, s.hosts, s.sec, mesh, faults, power, s.bus⟩ ↔
      s.Canon kw kt kr ks km kp kv ⟨xb, xq, xl, none, xh, xn, xc⟩ :=
  ⟨fun h => ⟨h.w, h.ct, h.cr, h.cs, h.cm, h.cp, h.cv, ⟨h.cx.b, h.cx.q, h.cx.l, noneOnly _, h.cx.h, h.cx.n, h.cx.c⟩⟩, fun
    h => ⟨h.w, h.ct, h.cr, h.cs, h.cm, h.cp, h.cv, ⟨h.cx.b, h.cx.q, h.cx.l, noneOnly _, h.cx.h, h.cx.n, h.cx.c⟩⟩⟩

theorem canon_mkn_iff {kw kr ks km kp kv xb xq xl xm xh xc} {s : Chip} {now xtal fresh out girth fills prec switches
    spillHeld faults power} :
    Chip.Canon kw none kr ks km kp kv ⟨xb, xq, xl, xm, xh, none, xc⟩ ⟨now, xtal, fresh, out, s.regs, s.heldLo, s.latchHi,
      s.mem, s.retire, s.slices, girth, s.patrol, s.patrolFrom, s.pads, fills, s.scrubPos, s.bankTurn, s.blocks, prec,
      s.q, switches, spillHeld, s.kv, s.slots, s.serve, s.hosts, s.sec, s.mesh, faults, power, s.bus⟩ ↔
      s.Canon kw none kr ks km kp kv ⟨xb, xq, xl, xm, xh, none, xc⟩ :=
  ⟨fun h => ⟨h.w, noneOnly _, h.cr, h.cs, h.cm, h.cp, h.cv, ⟨h.cx.b, h.cx.q, h.cx.l, h.cx.m, h.cx.h, noneOnly _,
    h.cx.c⟩⟩, fun h => ⟨h.w, noneOnly _, h.cr, h.cs, h.cm, h.cp, h.cv, ⟨h.cx.b, h.cx.q, h.cx.l, h.cx.m, h.cx.h,
    noneOnly _, h.cx.c⟩⟩⟩

theorem canon_mkq_iff {kw kt kr ks km kp kv xb xl xm xh xn xc} {s : Chip} {fresh out girth fills prec q switches
    spillHeld faults power} :
    Chip.Canon kw kt kr ks km kp kv ⟨xb, none, xl, xm, xh, xn, xc⟩ ⟨s.now, s.xtal, fresh, out, s.regs, s.heldLo,
      s.latchHi, s.mem, s.retire, s.slices, girth, s.patrol, s.patrolFrom, s.pads, fills, s.scrubPos, s.bankTurn,
      s.blocks, prec, q, switches, spillHeld, s.kv, s.slots, s.serve, s.hosts, s.sec, s.mesh, faults, power, s.bus⟩ ↔
      s.Canon kw kt kr ks km kp kv ⟨xb, none, xl, xm, xh, xn, xc⟩ :=
  ⟨fun h => ⟨h.w, h.ct, h.cr, h.cs, h.cm, h.cp, h.cv, ⟨h.cx.b, noneOnly _, h.cx.l, h.cx.m, h.cx.h, h.cx.n, h.cx.c⟩⟩, fun
    h => ⟨h.w, h.ct, h.cr, h.cs, h.cm, h.cp, h.cv, ⟨h.cx.b, noneOnly _, h.cx.l, h.cx.m, h.cx.h, h.cx.n, h.cx.c⟩⟩⟩

theorem canon_mkr_iff {kw kt ks km kp kv kx} {s : Chip} {fresh out retire slices girth fills prec switches spillHeld
    faults power} :
    Chip.Canon kw kt none ks km kp kv kx ⟨s.now, s.xtal, fresh, out, s.regs, s.heldLo, s.latchHi, s.mem, retire, slices,
      girth, s.patrol, s.patrolFrom, s.pads, fills, s.scrubPos, s.bankTurn, s.blocks, prec, s.q, switches, spillHeld,
      s.kv, s.slots, s.serve, s.hosts, s.sec, s.mesh, faults, power, s.bus⟩ ↔
      s.Canon kw kt none ks km kp kv kx :=
  ⟨fun h => ⟨h.w, h.ct, noneOnly _, h.cs, h.cm, h.cp, h.cv, ⟨h.cx.b, h.cx.q, h.cx.l, h.cx.m, h.cx.h, h.cx.n, h.cx.c⟩⟩,
    fun h => ⟨h.w, h.ct, noneOnly _, h.cs, h.cm, h.cp, h.cv, ⟨h.cx.b, h.cx.q, h.cx.l, h.cx.m, h.cx.h, h.cx.n,
    h.cx.c⟩⟩⟩

theorem canon_mks_iff {kw kt kr km kp kv kx} {s : Chip} {fresh out girth fills prec switches spillHeld sec faults
    power} :
    Chip.Canon kw kt kr none km kp kv kx ⟨s.now, s.xtal, fresh, out, s.regs, s.heldLo, s.latchHi, s.mem, s.retire,
      s.slices, girth, s.patrol, s.patrolFrom, s.pads, fills, s.scrubPos, s.bankTurn, s.blocks, prec, s.q, switches,
      spillHeld, s.kv, s.slots, s.serve, s.hosts, sec, s.mesh, faults, power, s.bus⟩ ↔
      s.Canon kw kt kr none km kp kv kx :=
  ⟨fun h => ⟨h.w, h.ct, h.cr, noneOnly _, h.cm, h.cp, h.cv, ⟨h.cx.b, h.cx.q, h.cx.l, h.cx.m, h.cx.h, h.cx.n, h.cx.c⟩⟩,
    fun h => ⟨h.w, h.ct, h.cr, noneOnly _, h.cm, h.cp, h.cv, ⟨h.cx.b, h.cx.q, h.cx.l, h.cx.m, h.cx.h, h.cx.n,
    h.cx.c⟩⟩⟩

theorem canon_mkt_iff {kw kr ks km kp kv kx} {s : Chip} {fresh out heldLo latchHi girth patrol patrolFrom fills
    scrubPos bankTurn prec switches spillHeld faults power bus} :
    Chip.Canon kw none kr ks km kp kv kx ⟨s.now, s.xtal, fresh, out, s.regs, heldLo, latchHi, s.mem, s.retire, s.slices,
      girth, patrol, patrolFrom, s.pads, fills, scrubPos, bankTurn, s.blocks, prec, s.q, switches, spillHeld, s.kv,
      s.slots, s.serve, s.hosts, s.sec, s.mesh, faults, power, bus⟩ ↔
      s.Canon kw none kr ks km kp kv kx :=
  ⟨fun h => ⟨h.w, noneOnly _, h.cr, h.cs, h.cm, h.cp, h.cv, ⟨h.cx.b, h.cx.q, h.cx.l, h.cx.m, h.cx.h, h.cx.n, h.cx.c⟩⟩,
    fun h => ⟨h.w, noneOnly _, h.cr, h.cs, h.cm, h.cp, h.cv, ⟨h.cx.b, h.cx.q, h.cx.l, h.cx.m, h.cx.h, h.cx.n,
    h.cx.c⟩⟩⟩

theorem canon_mkv_iff {kw kt kr ks km kp kx} {s : Chip} {fresh out girth fills prec switches spillHeld kv faults
    power} :
    Chip.Canon kw kt kr ks km kp none kx ⟨s.now, s.xtal, fresh, out, s.regs, s.heldLo, s.latchHi, s.mem, s.retire,
      s.slices, girth, s.patrol, s.patrolFrom, s.pads, fills, s.scrubPos, s.bankTurn, s.blocks, prec, s.q, switches,
      spillHeld, kv, s.slots, s.serve, s.hosts, s.sec, s.mesh, faults, power, s.bus⟩ ↔
      s.Canon kw kt kr ks km kp none kx :=
  ⟨fun h => ⟨h.w, h.ct, h.cr, h.cs, h.cm, h.cp, noneOnly _, ⟨h.cx.b, h.cx.q, h.cx.l, h.cx.m, h.cx.h, h.cx.n, h.cx.c⟩⟩,
    fun h => ⟨h.w, h.ct, h.cr, h.cs, h.cm, h.cp, noneOnly _, ⟨h.cx.b, h.cx.q, h.cx.l, h.cx.m, h.cx.h, h.cx.n,
    h.cx.c⟩⟩⟩

theorem canon_mknt_iff {kw kr ks km kp kv xb xq xl xm xh xc} {s : Chip} {now xtal fresh out heldLo latchHi girth
    patrol patrolFrom fills scrubPos bankTurn prec switches spillHeld faults power bus} :
    Chip.Canon kw none kr ks km kp kv ⟨xb, xq, xl, xm, xh, none, xc⟩ ⟨now, xtal, fresh, out, s.regs, heldLo, latchHi,
      s.mem, s.retire, s.slices, girth, patrol, patrolFrom, s.pads, fills, scrubPos, bankTurn, s.blocks, prec, s.q,
      switches, spillHeld, s.kv, s.slots, s.serve, s.hosts, s.sec, s.mesh, faults, power, bus⟩ ↔
      s.Canon kw none kr ks km kp kv ⟨xb, xq, xl, xm, xh, none, xc⟩ :=
  ⟨fun h => ⟨h.w, noneOnly _, h.cr, h.cs, h.cm, h.cp, h.cv, ⟨h.cx.b, h.cx.q, h.cx.l, h.cx.m, h.cx.h, noneOnly _,
    h.cx.c⟩⟩, fun h => ⟨h.w, noneOnly _, h.cr, h.cs, h.cm, h.cp, h.cv, ⟨h.cx.b, h.cx.q, h.cx.l, h.cx.m, h.cx.h,
    noneOnly _, h.cx.c⟩⟩⟩

theorem canon_mkql_iff {kw kt kr ks km kp kv xb xm xh xn xc} {s : Chip} {fresh out girth fills prec q switches
    spillHeld serve faults power} :
    Chip.Canon kw kt kr ks km kp kv ⟨xb, none, none, xm, xh, xn, xc⟩ ⟨s.now, s.xtal, fresh, out, s.regs, s.heldLo,
      s.latchHi, s.mem, s.retire, s.slices, girth, s.patrol, s.patrolFrom, s.pads, fills, s.scrubPos, s.bankTurn,
      s.blocks, prec, q, switches, spillHeld, s.kv, s.slots, serve, s.hosts, s.sec, s.mesh, faults, power, s.bus⟩ ↔
      s.Canon kw kt kr ks km kp kv ⟨xb, none, none, xm, xh, xn, xc⟩ :=
  ⟨fun h => ⟨h.w, h.ct, h.cr, h.cs, h.cm, h.cp, h.cv, ⟨h.cx.b, noneOnly _, noneOnly _, h.cx.m, h.cx.h, h.cx.n, h.cx.c⟩⟩,
    fun h => ⟨h.w, h.ct, h.cr, h.cs, h.cm, h.cp, h.cv, ⟨h.cx.b, noneOnly _, noneOnly _, h.cx.m, h.cx.h, h.cx.n,
    h.cx.c⟩⟩⟩

theorem canon_mkrs_iff {kw kt km kp kv kx} {s : Chip} {fresh out retire slices girth fills prec switches spillHeld sec
    faults power} :
    Chip.Canon kw kt none none km kp kv kx ⟨s.now, s.xtal, fresh, out, s.regs, s.heldLo, s.latchHi, s.mem, retire, slices,
      girth, s.patrol, s.patrolFrom, s.pads, fills, s.scrubPos, s.bankTurn, s.blocks, prec, s.q, switches, spillHeld,
      s.kv, s.slots, s.serve, s.hosts, sec, s.mesh, faults, power, s.bus⟩ ↔
      s.Canon kw kt none none km kp kv kx :=
  ⟨fun h => ⟨h.w, h.ct, noneOnly _, noneOnly _, h.cm, h.cp, h.cv, ⟨h.cx.b, h.cx.q, h.cx.l, h.cx.m, h.cx.h, h.cx.n,
    h.cx.c⟩⟩, fun h => ⟨h.w, h.ct, noneOnly _, noneOnly _, h.cm, h.cp, h.cv, ⟨h.cx.b, h.cx.q, h.cx.l, h.cx.m, h.cx.h,
    h.cx.n, h.cx.c⟩⟩⟩

theorem canon_mkvl_iff {kw kt kr ks km kp xb xq xm xh xn xc} {s : Chip} {fresh out girth fills prec switches spillHeld
    kv serve faults power} :
    Chip.Canon kw kt kr ks km kp none ⟨xb, xq, none, xm, xh, xn, xc⟩ ⟨s.now, s.xtal, fresh, out, s.regs, s.heldLo,
      s.latchHi, s.mem, s.retire, s.slices, girth, s.patrol, s.patrolFrom, s.pads, fills, s.scrubPos, s.bankTurn,
      s.blocks, prec, s.q, switches, spillHeld, kv, s.slots, serve, s.hosts, s.sec, s.mesh, faults, power, s.bus⟩ ↔
      s.Canon kw kt kr ks km kp none ⟨xb, xq, none, xm, xh, xn, xc⟩ :=
  ⟨fun h => ⟨h.w, h.ct, h.cr, h.cs, h.cm, h.cp, noneOnly _, ⟨h.cx.b, h.cx.q, noneOnly _, h.cx.m, h.cx.h, h.cx.n,
    h.cx.c⟩⟩, fun h => ⟨h.w, h.ct, h.cr, h.cs, h.cm, h.cp, noneOnly _, ⟨h.cx.b, h.cx.q, noneOnly _, h.cx.m, h.cx.h,
    h.cx.n, h.cx.c⟩⟩⟩

theorem canon_mkqlm_iff {kw kt kr ks km kp kv xb xh xn xc} {s : Chip} {fresh out girth fills prec q switches spillHeld
    serve mesh faults power} :
    Chip.Canon kw kt kr ks km kp kv ⟨xb, none, none, none, xh, xn, xc⟩ ⟨s.now, s.xtal, fresh, out, s.regs, s.heldLo,
      s.latchHi, s.mem, s.retire, s.slices, girth, s.patrol, s.patrolFrom, s.pads, fills, s.scrubPos, s.bankTurn,
      s.blocks, prec, q, switches, spillHeld, s.kv, s.slots, serve, s.hosts, s.sec, mesh, faults, power, s.bus⟩ ↔
      s.Canon kw kt kr ks km kp kv ⟨xb, none, none, none, xh, xn, xc⟩ :=
  ⟨fun h => ⟨h.w, h.ct, h.cr, h.cs, h.cm, h.cp, h.cv, ⟨h.cx.b, noneOnly _, noneOnly _, noneOnly _, h.cx.h, h.cx.n,
    h.cx.c⟩⟩, fun h => ⟨h.w, h.ct, h.cr, h.cs, h.cm, h.cp, h.cv, ⟨h.cx.b, noneOnly _, noneOnly _, noneOnly _, h.cx.h,
    h.cx.n, h.cx.c⟩⟩⟩

theorem canon_mksmh_iff {kw kt kr km kp kv xb xq xl xn xc} {s : Chip} {fresh out girth fills prec switches spillHeld
    hosts sec mesh faults power} :
    Chip.Canon kw kt kr none km kp kv ⟨xb, xq, xl, none, none, xn, xc⟩ ⟨s.now, s.xtal, fresh, out, s.regs, s.heldLo,
      s.latchHi, s.mem, s.retire, s.slices, girth, s.patrol, s.patrolFrom, s.pads, fills, s.scrubPos, s.bankTurn,
      s.blocks, prec, s.q, switches, spillHeld, s.kv, s.slots, s.serve, hosts, sec, mesh, faults, power, s.bus⟩ ↔
      s.Canon kw kt kr none km kp kv ⟨xb, xq, xl, none, none, xn, xc⟩ :=
  ⟨fun h => ⟨h.w, h.ct, h.cr, noneOnly _, h.cm, h.cp, h.cv, ⟨h.cx.b, h.cx.q, h.cx.l, noneOnly _, noneOnly _, h.cx.n,
    h.cx.c⟩⟩, fun h => ⟨h.w, h.ct, h.cr, noneOnly _, h.cm, h.cp, h.cv, ⟨h.cx.b, h.cx.q, h.cx.l, noneOnly _, noneOnly
    _, h.cx.n, h.cx.c⟩⟩⟩

theorem canon_mkntrsmh_iff {kw km kp kv xb xq xl xc} {s : Chip} {now xtal fresh out heldLo latchHi retire slices girth
    patrol patrolFrom fills scrubPos bankTurn prec switches spillHeld hosts sec mesh faults power bus} :
    Chip.Canon kw none none none km kp kv ⟨xb, xq, xl, none, none, none, xc⟩ ⟨now, xtal, fresh, out, s.regs, heldLo,
      latchHi, s.mem, retire, slices, girth, patrol, patrolFrom, s.pads, fills, scrubPos, bankTurn, s.blocks, prec,
      s.q, switches, spillHeld, s.kv, s.slots, s.serve, hosts, sec, mesh, faults, power, bus⟩ ↔
      s.Canon kw none none none km kp kv ⟨xb, xq, xl, none, none, none, xc⟩ :=
  ⟨fun h => ⟨h.w, noneOnly _, noneOnly _, noneOnly _, h.cm, h.cp, h.cv, ⟨h.cx.b, h.cx.q, h.cx.l, noneOnly _, noneOnly _,
    noneOnly _, h.cx.c⟩⟩, fun h => ⟨h.w, noneOnly _, noneOnly _, noneOnly _, h.cm, h.cp, h.cv, ⟨h.cx.b, h.cx.q,
    h.cx.l, noneOnly _, noneOnly _, noneOnly _, h.cx.c⟩⟩⟩

theorem canon_regs {kw kt kr ks km kp kv kx} {s : Chip} (h : s.Canon kw kt kr ks km kp kv kx) {m : Table Nat} (hm : kw
    → tsorted m = true) :
    ({ s with regs := m } : Chip).Canon kw kt kr ks km kp kv kx :=
  ⟨fun hw => (wf_iff _).mpr ⟨hm hw, ((wf_iff s).mp (h.w hw)).2⟩, h.ct, h.cr, h.cs, h.cm, h.cp, h.cv, ⟨h.cx.b, h.cx.q, h.cx.l, h.cx.m, h.cx.h, h.cx.n, h.cx.c⟩⟩

theorem canon_mem {kw kt kr ks km kp kv kx} {s : Chip} (h : s.Canon kw kt kr ks km kp kv kx) {m : Memory} (hm : kw →
    m.wf = true) :
    ({ s with mem := m } : Chip).Canon kw kt kr ks none kp kv kx :=
  ⟨fun hw => (wf_iff _).mpr ⟨((wf_iff s).mp (h.w hw)).1, hm hw, ((wf_iff s).mp (h.w hw)).2.2⟩, h.ct, h.cr, h.cs, noneOnly _,
    h.cp, h.cv, ⟨h.cx.b, h.cx.q, h.cx.l, h.cx.m, h.cx.h, h.cx.n, h.cx.c⟩⟩

theorem canon_setMem {kw kt kr ks km kp kv kx} {s : Chip} {m : Memory} (h : s.Canon kw kt kr ks km kp kv kx) (hm : kw
    → m.wf = true) :
    (setMem s m).Canon kw kt kr ks none kp kv kx := canon_mem h hm

/-- What is kept and named is kept where it is not named. -/
theorem canon_less {kw kt kr ks km kp kv kx} {s : Chip} (h : s.Canon kw kt kr ks km kp kv kx) : s.Canon kw kt kr ks
    none kp kv kx :=
  ⟨h.w, h.ct, h.cr, h.cs, noneOnly _, h.cp, h.cv, ⟨h.cx.b, h.cx.q, h.cx.l, h.cx.m, h.cx.h, h.cx.n, h.cx.c⟩⟩

section
variable {kw : Prop} {kt : Option (Nat × Nat × Table Nat × Table Nat × Table Nat × Table Nat × Table Nat × Table Nat × Bus)}
  {kr : Option (Keys × Table Slice)} {ks : Option Security} {km : Option Memory} {kp : Option (Table Bank)} {kv : Option Kv} {kx : Kept}

theorem Chip.Canon.mem_wf {s : Chip} (h : s.Canon kw kt kr ks km kp kv kx) (hw : kw) : s.mem.wf = true := ((wf_iff
    s).mp (h.w hw)).2.1

theorem Chip.Canon.regs_wf {s : Chip} (h : s.Canon kw kt kr ks km kp kv kx) (hw : kw) : tsorted s.regs = true :=
  ((wf_iff s).mp (h.w hw)).1

theorem Chip.Canon.pads_wf {s : Chip} (h : s.Canon kw kt kr ks km kp kv kx) (hw : kw) : padsWf s.pads = true :=
  ((wf_iff s).mp (h.w hw)).2.2

/-! ### Choices -/

theorem canon_ite {c : Prop} [Decidable c] {a b : Chip} (ha : c → a.Canon kw kt kr ks km kp kv kx) (hb : ¬c → b.Canon
    kw kt kr ks km kp kv kx) : (if c then a else b).Canon kw kt kr ks km kp kv kx := by
  split
  · exact ha (by assumption)
  · exact hb (by assumption)

theorem canon_ite_s {c : Prop} [Decidable c] {a b : Rd} (ha : c → a.s.Canon kw kt kr ks km kp kv kx) (hb : ¬c →
    b.s.Canon kw kt kr ks km kp kv kx) :
    (if c then a else b).s.Canon kw kt kr ks km kp kv kx := by
  split
  · exact ha (by assumption)
  · exact hb (by assumption)

theorem canon_ite_fst {γ : Type} {c : Prop} [Decidable c] {a b : Chip × γ} (ha : c → a.1.Canon kw kt kr ks km kp kv
    kx) (hb : ¬c → b.1.Canon kw kt kr ks km kp kv kx) :
    (if c then a else b).1.Canon kw kt kr ks km kp kv kx := by
  split
  · exact ha (by assumption)
  · exact hb (by assumption)

theorem canon_ite_fst_s {γ : Type} {c : Prop} [Decidable c] {a b : Rd × γ} (ha : c → a.1.s.Canon kw kt kr ks km kp kv
    kx) (hb : ¬c → b.1.s.Canon kw kt kr ks km kp kv kx) :
    (if c then a else b).1.s.Canon kw kt kr ks km kp kv kx := by
  split
  · exact ha (by assumption)
  · exact hb (by assumption)

/-! ### Folds -/

/-- A fold keeps what each of its steps keeps. -/
theorem foldl_keeps {α β : Type} {P : α → Prop} {f : α → β → α} {a : α} {l : List β} (h : P a) (hf : ∀ a b, P a → P (f
    a b)) :
    P (l.foldl f a) := by
  induction l generalizing a with
  | nil => exact h
  | cons b l ih => exact ih (hf a b h)

theorem canon_foldl {β : Type} {f : Chip → β → Chip} {s : Chip} {l : List β} (h : s.Canon kw kt kr ks km kp kv kx)
    (hf : ∀ t b, t.Canon kw kt kr ks km kp kv kx → (f t b).Canon kw kt kr ks km kp kv kx) : (l.foldl f s).Canon kw kt kr ks km kp kv kx :=
  foldl_keeps (P := Chip.Canon kw kt kr ks km kp kv kx) h hf

theorem canon_foldl_fst {β γ : Type} {f : Chip × γ → β → Chip × γ} {s : Chip × γ} {l : List β} (h : s.1.Canon kw kt kr
    ks km kp kv kx)
    (hf : ∀ t b, t.1.Canon kw kt kr ks km kp kv kx → (f t b).1.Canon kw kt kr ks km kp kv kx) : (l.foldl f s).1.Canon kw kt kr ks km kp kv kx :=
  foldl_keeps (P := fun t : Chip × γ => t.1.Canon kw kt kr ks km kp kv kx) h hf

theorem canon_foldl_rd {β : Type} {f : Rd → β → Rd} {x : Rd} {l : List β} (h : x.s.Canon kw kt kr ks km kp kv kx)
    (hf : ∀ t b, t.s.Canon kw kt kr ks km kp kv kx → (f t b).s.Canon kw kt kr ks km kp kv kx) : (l.foldl f x).s.Canon kw kt kr ks km kp kv kx :=
  foldl_keeps (P := fun t : Rd => t.s.Canon kw kt kr ks km kp kv kx) h hf

theorem canon_foldl_rd_fst {β γ : Type} {f : Rd × γ → β → Rd × γ} {x : Rd × γ} {l : List β} (h : x.1.s.Canon kw kt kr
    ks km kp kv kx)
    (hf : ∀ t b, t.1.s.Canon kw kt kr ks km kp kv kx → (f t b).1.s.Canon kw kt kr ks km kp kv kx) : (l.foldl f x).1.s.Canon kw kt kr ks km kp kv kx :=
  foldl_keeps (P := fun t : Rd × γ => t.1.s.Canon kw kt kr ks km kp kv kx) h hf

theorem canon_foldl_x {β : Type} {f : Edit → β → Edit} {e : Edit} {l : List β} (h : e.x.s.Canon kw kt kr ks km kp kv kx)
    (hf : ∀ t b, t.x.s.Canon kw kt kr ks km kp kv kx → (f t b).x.s.Canon kw kt kr ks km kp kv kx) : (l.foldl f e).x.s.Canon kw kt kr ks km kp kv kx :=
  foldl_keeps (P := fun t : Edit => t.x.s.Canon kw kt kr ks km kp kv kx) h hf

theorem canon_foldl_run_fst {β γ : Type} {f : AttendRun × γ → β → AttendRun × γ} {a : AttendRun × γ} {l : List β}
    (h : a.1.x.s.Canon kw kt kr ks km kp kv kx) (hf : ∀ t b, t.1.x.s.Canon kw kt kr ks km kp kv kx → (f t b).1.x.s.Canon kw kt kr ks km kp kv kx) : (l.foldl f a).1.x.s.Canon kw kt kr ks km kp kv kx :=
  foldl_keeps (P := fun t : AttendRun × γ => t.1.x.s.Canon kw kt kr ks km kp kv kx) h hf

/-! ### Registers -/

theorem tsorted_regsSet (m : Table Nat) (pg : Page) (f : Field) (v : Nat) (h : tsorted m = true) :
    tsorted (regsSet m pg f v) = true := by
  unfold regsSet
  split
  · exact tsorted_tdel m _ h
  · exact tsorted_tset m _ _ h

theorem canon_wr {s : Chip} {pg : Page} {f : Field} {v : Nat} (h : s.Canon kw kt kr ks km kp kv kx) :
    (wr s pg f v).Canon kw kt kr ks km kp kv kx :=
  canon_regs h (fun hw => tsorted_regsSet _ _ _ _ (h.regs_wf hw))

theorem wf_reset : Chip.reset.wf = true := rfl

/-! ### Memory -/

theorem cellsWf_iff (m : List Host.Cell) : cellsWf m = true ↔ tsorted m = true ∧ ∀ e ∈ m, e.2 ≠ 0 := by
  simp only [cellsWf, Bool.and_eq_true, List.all_eq_true, bne_iff_ne]

/-- Writing a byte keeps the canonical form of the memory. -/
theorem cellsWf_cellSet (m : List Host.Cell) (a : Nat) (v : Byte) (h : cellsWf m = true) : cellsWf (cellSet m a v) =
    true := by
  rw [cellsWf_iff] at *
  unfold cellSet
  split
  · exact ⟨tsorted_tdel m a h.1, fun e he => h.2 e ((tdel_sublist m a).subset he)⟩
  · rename_i hv
    refine ⟨tsorted_tset m a v h.1, fun e he => ?_⟩
    rcases tset_mem m a v e he with rfl | he
    · exact hv
    · exact h.2 e he

/-- Writing a run keeps the canonical form of the memory. -/
theorem cellsWf_cellsPut (m : List Host.Cell) (a : Nat) (l : List Byte) (h : cellsWf m = true) :
    cellsWf (cellsPut m a l) = true := by
  induction l generalizing m a with
  | nil => exact h
  | cons b l ih => exact ih _ _ (cellsWf_cellSet m a b h)

theorem cellsWf_filter (m : List Host.Cell) (p : Host.Cell → Bool) (h : cellsWf m = true) : cellsWf (m.filter p) =
    true := by
  rw [cellsWf_iff] at *
  exact ⟨tsorted_filter m p h.1, fun e he => h.2 e (List.filter_sublist.subset he)⟩

theorem memory_wf_iff (m : Memory) : m.wf = true ↔ cellsWf m.bytes = true ∧ ksorted m.poison = true ∧ tsorted m.latent
    = true := by
  simp only [Memory.wf, Bool.and_eq_true, and_assoc]

theorem memory_wf_mk {b : List Host.Cell} {k : Keys} {t : Table Bool} (hb : cellsWf b = true) (hk : ksorted k = true)
    (ht : tsorted t = true) : Memory.wf ⟨b, k, t⟩ = true := (memory_wf_iff _).mpr ⟨hb, hk, ht⟩

theorem Chip.Canon.bytes_wf {s : Chip} (h : s.Canon kw kt kr ks km kp kv kx) (hw : kw) : cellsWf s.mem.bytes = true :=
  ((memory_wf_iff _).mp (h.mem_wf hw)).1

theorem Chip.Canon.poison_wf {s : Chip} (h : s.Canon kw kt kr ks km kp kv kx) (hw : kw) : ksorted s.mem.poison = true :=
  ((memory_wf_iff _).mp (h.mem_wf hw)).2.1

theorem Chip.Canon.latent_wf {s : Chip} (h : s.Canon kw kt kr ks km kp kv kx) (hw : kw) : tsorted s.mem.latent = true :=
  ((memory_wf_iff _).mp (h.mem_wf hw)).2.2


theorem canon_memPut {s : Chip} {a : Nat} {b : List Byte} (h : s.Canon kw kt kr ks km kp kv kx) : (memPut s a b).Canon
    kw kt kr ks none kp kv kx :=
  canon_mem h (fun hw => memory_wf_mk (cellsWf_cellsPut _ _ _ (h.bytes_wf hw)) (ksorted_filter _ _ (h.poison_wf hw)) (tsorted_filter _ _ (h.latent_wf hw)))

theorem canon_memZero {s : Chip} {a n : Nat} (h : s.Canon kw kt kr ks km kp kv kx) : (memZero s a n).Canon kw kt kr ks
    none kp kv kx :=
  canon_mem h (fun hw => memory_wf_mk (cellsWf_filter _ _ (h.bytes_wf hw)) (ksorted_filter _ _ (h.poison_wf hw)) (tsorted_filter _ _ (h.latent_wf hw)))

theorem canon_poisonLine {s : Chip} {n : Nat} (h : s.Canon kw kt kr ks km kp kv kx) : (poisonLine s n).Canon kw kt kr
    ks none kp kv kx :=
  canon_mem h (fun hw => memory_wf_mk (h.bytes_wf hw) (ksorted_kadd _ _ (h.poison_wf hw)) (h.latent_wf hw))

theorem canon_poisonRun {s : Chip} {a n : Nat} (h : s.Canon kw kt kr ks km kp kv kx) : (poisonRun s a n).Canon kw kt
    kr ks none kp kv kx := by
  unfold poisonRun
  split
  · exact canon_less h
  · exact canon_mem h (fun hw => memory_wf_mk (h.bytes_wf hw) (ksorted_foldl_kadd _ _ (h.poison_wf hw)) (h.latent_wf hw))

theorem canon_dropLatent {s : Chip} {k : Nat} (h : s.Canon kw kt kr ks km kp kv kx) :
    ({ s with mem := { s.mem with latent := tdel s.mem.latent k } } : Chip).Canon kw kt kr ks none kp kv kx :=
  canon_mem h (fun hw => memory_wf_mk (h.bytes_wf hw) (h.poison_wf hw) (tsorted_tdel _ _ (h.latent_wf hw)))

/-! ### Banks -/

theorem bankWf_iff (x : Bank) : bankWf x = true ↔ tsorted x.cells = true ∧ ∀ e ∈ x.cells, ¬ (e.2 = 0 ∧ groundZero x
    e.1 = true) := by
  simp only [bankWf, Bool.and_eq_true, List.all_eq_true, Bool.not_eq_true', Bool.and_eq_false_iff, beq_eq_false_iff_ne, ne_eq,
    not_and, Bool.not_eq_true]
  refine and_congr_right fun _ => forall₂_congr fun e _ => ?_
  tauto

theorem bankWf_nil (x : Bank) (h : x.cells = []) : bankWf x = true := by
  rw [bankWf_iff, h]
  simp [tsorted]

/-- A bank whose bytes and ground are another's is in canonical form with it. -/
theorem bankWf_same {x y : Bank} (h : bankWf x = true) (hc : y.cells = x.cells) (hz : y.zeroed = x.zeroed) (hf :
    y.fill = x.fill) :
    bankWf y = true := by
  rw [bankWf_iff] at *
  have hg : ∀ o, groundZero y o = groundZero x o := fun o => by simp only [groundZero, zeroedAt, hz, hf]
  rw [hc]
  exact ⟨h.1, fun e he => by rw [hg]; exact h.2 e he⟩

/-- Writing a byte keeps the canonical form of the bank. -/
theorem bankWf_bankSet (x : Bank) (o : Nat) (v : Byte) (h : bankWf x = true) : bankWf (bankSet x o v) = true := by
  rw [bankWf_iff] at *
  have hg : ∀ k, groundZero (bankSet x o v) k = groundZero x k := fun k => rfl
  refine ⟨?_, fun e he => ?_⟩
  · simp only [bankSet]
    split
    · exact tsorted_tdel _ _ h.1
    · exact tsorted_tset _ _ _ h.1
  · rw [hg]
    simp only [bankSet] at he
    split at he
    · exact h.2 e ((tdel_sublist _ _).subset he)
    · rename_i hv
      rcases tset_mem _ _ _ _ he with rfl | he
      · simpa using hv
      · exact h.2 e he

/-- Writing a run keeps the canonical form of the bank. -/
theorem bankWf_bankPut (x : Bank) (o : Nat) (l : List Byte) (h : bankWf x = true) : bankWf (bankPut x o l) = true := by
  induction l generalizing x o with
  | nil => exact h
  | cons b l ih => exact ih _ _ (bankWf_bankSet x o b h)

theorem foldl_min_le (l : List (Nat × Nat)) (a : Nat) :
    l.foldl (fun x e => min x e.1) a ≤ a ∧ ∀ e ∈ l, l.foldl (fun x e => min x e.1) a ≤ e.1 := by
  induction l generalizing a with
  | nil => simp
  | cons e l ih =>
    have h := ih (min a e.1)
    simp only [List.foldl_cons]
    refine ⟨le_trans h.1 (min_le_left _ _), fun x hx => ?_⟩
    rcases List.mem_cons.mp hx with rfl | hx
    · exact le_trans h.1 (min_le_right _ _)
    · exact h.2 x hx

theorem foldl_min_mem (l : List (Nat × Nat)) (a : Nat) :
    l.foldl (fun x e => min x e.1) a = a ∨ ∃ e ∈ l, l.foldl (fun x e => min x e.1) a = e.1 := by
  induction l generalizing a with
  | nil => simp
  | cons e l ih =>
    simp only [List.foldl_cons]
    rcases ih (min a e.1) with h | ⟨x, hx, h⟩
    · rcases min_choice a e.1 with hm | hm
      · left; rw [h, hm]
      · right; exact ⟨e, by simp, by rw [h, hm]⟩
    · right; exact ⟨x, List.mem_cons_of_mem _ hx, h⟩

theorem foldl_max_mem (l : List (Nat × Nat)) (a : Nat) :
    l.foldl (fun x e => max x e.2) a = a ∨ ∃ e ∈ l, l.foldl (fun x e => max x e.2) a = e.2 := by
  induction l generalizing a with
  | nil => simp
  | cons e l ih =>
    simp only [List.foldl_cons]
    rcases ih (max a e.2) with h | ⟨x, hx, h⟩
    · rcases max_choice a e.2 with hm | hm
      · left; rw [h, hm]
      · right; exact ⟨e, by simp, by rw [h, hm]⟩
    · right; exact ⟨x, List.mem_cons_of_mem _ hx, h⟩

/-- What the merged ranges cover was covered, or lies in the range added. -/
theorem addRange_covers (l : List (Nat × Nat)) (a b o : Nat) (h : (addRange l a b).any (fun e => decide (e.1 ≤ o ∧ o <
    e.2)) = true) :
    l.any (fun e => decide (e.1 ≤ o ∧ o < e.2)) = true ∨ (a ≤ o ∧ o < b) := by
  simp only [addRange, List.any_append, Bool.or_eq_true, List.any_cons, List.any_nil, Bool.or_false, decide_eq_true_eq] at h
  rcases h with (h | h) | h
  · left
    rw [List.any_eq_true] at *
    obtain ⟨e, he, h⟩ := h
    exact ⟨e, (List.filter_sublist.subset he), h⟩
  · by_cases ha : a ≤ o
    · by_cases hb : o < b
      · exact .inr ⟨ha, hb⟩
      · left
        rcases foldl_max_mem (l.filter (fun e => decide (e.1 ≤ b ∧ a ≤ e.2))) b with hm | ⟨e, he, hm⟩
        · rw [hm] at h; omega
        · rw [hm] at h
          have hf := List.mem_filter.mp he
          have hd := of_decide_eq_true hf.2
          rw [List.any_eq_true]
          exact ⟨e, hf.1, decide_eq_true ⟨by omega, h.2⟩⟩
    · left
      rcases foldl_min_mem (l.filter (fun e => decide (e.1 ≤ b ∧ a ≤ e.2))) a with hm | ⟨e, he, hm⟩
      · rw [hm] at h; omega
      · rw [hm] at h
        have hf := List.mem_filter.mp he
        have hd := of_decide_eq_true hf.2
        rw [List.any_eq_true]
        exact ⟨e, hf.1, decide_eq_true ⟨h.1, by omega⟩⟩
  · left
    rw [List.any_eq_true] at *
    obtain ⟨e, he, h⟩ := h
    exact ⟨e, (List.filter_sublist.subset he), h⟩

/-- The end of a fill keeps the canonical form of the bank. -/
theorem bankWf_bankZero (x : Bank) (a b : Nat) (h : bankWf x = true) : bankWf (bankZero x a b) = true := by
  by_cases hw : a = 0 ∧ b = bankSize
  · apply bankWf_nil
    simp [bankZero, hw]
  · rw [bankWf_iff] at *
    have hc : (bankZero x a b).cells = x.cells.filter (fun c => !(decide (a ≤ c.1 ∧ c.1 < b))) := by
      simp only [bankZero]; rw [if_neg hw]
    rw [hc]
    refine ⟨tsorted_filter _ _ h.1, fun e he hz => ?_⟩
    have hf := List.mem_filter.mp he
    have ho : ¬ (a ≤ e.1 ∧ e.1 < b) := of_decide_eq_false (by simpa only [Bool.not_eq_true'] using hf.2)
    refine h.2 e hf.1 ⟨hz.1, ?_⟩
    have hg := hz.2
    simp only [groundZero, zeroedAt, bankZero, Bool.or_eq_true] at hg ⊢
    rw [if_neg hw] at hg
    by_cases hfill : x.fill = .zero
    · right; simp [hfill]
    · rcases hg with hg | hg
      · rw [if_neg (by simp [hw, hfill])] at hg
        rcases addRange_covers _ _ _ _ hg with hg | hg
        · exact .inl hg
        · exact absurd hg ho
      · exact .inr hg

theorem padsWf_iff (m : Table Bank) : padsWf m = true ↔ tsorted m = true ∧ ∀ e ∈ m, bankWf e.2 = true := by
  simp [padsWf]

theorem tget_mem {α : Type} (m : Table α) (k : Nat) (a : α) (h : tget m k = some a) : (k, a) ∈ m := by
  induction m with
  | nil => simp [tget] at h
  | cons e m ih =>
    obtain ⟨i, b⟩ := e
    simp only [tget] at h
    split at h
    · rename_i hk
      subst hk
      simp only [Option.some.injEq] at h
      simp [h]
    · exact List.mem_cons_of_mem _ (ih h)

theorem bankWf_bank {s : Chip} (h : padsWf s.pads = true) (b : Nat) : bankWf (bank s b) = true := by
  unfold bank tgetD
  split
  · rename_i x hx
    exact ((padsWf_iff _).mp h).2 _ (tget_mem _ _ _ hx)
  · rfl

theorem canon_setBank {s : Chip} {b : Nat} {f : Bank → Bank} (h : s.Canon kw kt kr ks km kp kv kx)
    (hf : ∀ x, bankWf x = true → bankWf (f x) = true) : (setBank s b f).Canon kw kt kr ks km none kv kx := by
  refine ⟨fun hw => ?_, h.ct, h.cr, h.cs, h.cm, noneOnly _, h.cv, ⟨h.cx.b, h.cx.q, h.cx.l, h.cx.m, h.cx.h, h.cx.n, h.cx.c⟩⟩
  have hp := (padsWf_iff _).mp (h.pads_wf hw)
  have hb := bankWf_bank (h.pads_wf hw) b
  refine (wf_iff _).mpr ⟨h.regs_wf hw, h.mem_wf hw, (padsWf_iff _).mpr ⟨tsorted_tset _ _ _ hp.1, fun e he => ?_⟩⟩
  rcases tset_mem _ _ _ _ he with rfl | he
  · exact hf _ hb
  · exact hp.2 e he

/-- The banks of a table made afresh. -/
theorem padsWf_fresh (n : Nat) (x : Bank) (h : bankWf x = true) : padsWf ((List.range n).map (fun b => (b, x))) = true
    := by
  refine (padsWf_iff _).mpr ⟨(tsorted_iff _).mpr ?_, fun e he => ?_⟩
  · rw [List.pairwise_map]
    exact List.pairwise_lt_range
  · obtain ⟨b, _, rfl⟩ := List.mem_map.mp he
    exact h

theorem wf_getD {s : Chip} {o : Option Memory} (h : s.Canon kw kt kr ks km kp kv kx) (ho : ∀ m, o = some m → kw → m.wf
    = true) (hw : kw) :
    (o.getD s.mem).wf = true := by
  cases o with
  | none => exact h.mem_wf hw
  | some m => exact ho m rfl hw

end

end Sys2Proof.Machine
end

