-- ==== Sys2Proof/Laws/CanonOps.lean ====
section
/-! SUPPORT. The operations of Machine/Ops.lean keep the canonical form. -/
set_option linter.all false
namespace Sys2Proof.Machine

theorem canon_wrAll {kw kt kr ks km kp kv kx} {s : Chip} {pg : Page} {l : List (Field × Nat)} (h_s : s.Canon kw kt kr
    ks km kp kv kx) : (wrAll s pg l).Canon kw kt kr ks km kp kv kx := by
  unfold wrAll
  try dsimp only
  repeat' first
    | with_reducible assumption
    | with_reducible apply canon_wr
    | with_reducible apply canon_foldl
    | with_reducible apply canon_foldl_fst
    | with_reducible apply canon_foldl_rd
    | with_reducible apply canon_foldl_rd_fst
    | with_reducible apply canon_foldl_x
    | with_reducible apply canon_foldl_run_fst
    | with_reducible apply canon_ite
    | with_reducible apply canon_ite_s
    | with_reducible apply canon_ite_fst
    | with_reducible apply canon_ite_fst_s
    | simp only [canon_mk_iff]
    | split
    | intro _

theorem canon_bump {kw kt kr ks km kp kv kx} {s : Chip} {pg : Page} {f : Field} {n : Nat} (h_s : s.Canon kw kt kr ks
    km kp kv kx) : (bump s pg f n).Canon kw kt kr ks km kp kv kx := by
  unfold bump
  try dsimp only
  repeat' first
    | with_reducible assumption
    | with_reducible apply canon_wr

theorem canon_bumpWrap {kw kt kr ks km kp kv kx} {s : Chip} {pg : Page} {f : Field} {n : Nat} (h_s : s.Canon kw kt kr
    ks km kp kv kx) : (bumpWrap s pg f n).Canon kw kt kr ks km kp kv kx := by
  unfold bumpWrap
  try dsimp only
  repeat' first
    | with_reducible assumption
    | with_reducible apply canon_wr

theorem canon_bump64 {kw kt kr ks km kp kv kx} {s : Chip} {pg : Page} {lo : Field} {hi : Field} {n : Nat} (h_s :
    s.Canon kw kt kr ks km kp kv kx) : (bump64 s pg lo hi n).Canon kw kt kr ks km kp kv kx := by
  unfold bump64
  try dsimp only
  repeat' first
    | with_reducible assumption
    | with_reducible apply canon_wr

theorem canon_resetAt {kw kt kr ks km kp kv kx} {s : Chip} {pg : Page} {off : Nat} (h_s : s.Canon kw kt kr ks km kp kv
    kx) : (resetAt s pg off).Canon kw kt kr ks km kp kv kx := by
  unfold resetAt
  try dsimp only
  repeat' first
    | with_reducible assumption
    | with_reducible apply canon_wr
    | with_reducible apply canon_foldl
    | with_reducible apply canon_foldl_fst
    | with_reducible apply canon_foldl_rd
    | with_reducible apply canon_foldl_rd_fst
    | with_reducible apply canon_foldl_x
    | with_reducible apply canon_foldl_run_fst
    | with_reducible apply canon_ite
    | with_reducible apply canon_ite_s
    | with_reducible apply canon_ite_fst
    | with_reducible apply canon_ite_fst_s
    | simp only [canon_mk_iff]
    | split
    | intro _

theorem canon_putWord {kw kt kr ks km kp kv kx} {s : Chip} {pg : Page} {off : Nat} {v : Nat} {p : Field → Bool} (h_s :
    s.Canon kw kt kr ks km kp kv kx) : (putWord s pg off v p).Canon kw kt kr ks km kp kv kx := by
  unfold putWord
  try dsimp only
  repeat' first
    | with_reducible assumption
    | with_reducible apply canon_wr
    | with_reducible apply canon_foldl
    | with_reducible apply canon_foldl_fst
    | with_reducible apply canon_foldl_rd
    | with_reducible apply canon_foldl_rd_fst
    | with_reducible apply canon_foldl_x
    | with_reducible apply canon_foldl_run_fst
    | with_reducible apply canon_ite
    | with_reducible apply canon_ite_s
    | with_reducible apply canon_ite_fst
    | with_reducible apply canon_ite_fst_s
    | simp only [canon_mk_iff]
    | split
    | intro _

theorem canon_draw {kw kt kr ks km kp kv kx} {s : Chip} (h_s : s.Canon kw kt kr ks km kp kv kx) : (draw s).2.Canon kw
    kt kr ks km kp kv kx := by
  unfold draw
  try dsimp only
  repeat' first
    | with_reducible assumption
    | with_reducible apply canon_ite
    | with_reducible apply canon_ite_s
    | with_reducible apply canon_ite_fst
    | with_reducible apply canon_ite_fst_s
    | simp only [canon_mk_iff]

theorem canon_emit {kw kt kr ks km kp kv kx} {s : Chip} {m : Out} (h_s : s.Canon kw kt kr ks km kp kv kx) : (emit s
    m).Canon kw kt kr ks km kp kv kx := by
  unfold emit
  try dsimp only
  repeat' first
    | with_reducible assumption
    | with_reducible apply canon_ite
    | with_reducible apply canon_ite_s
    | with_reducible apply canon_ite_fst
    | with_reducible apply canon_ite_fst_s
    | simp only [canon_mk_iff]

theorem canon_answer {kw kt kr ks km kp kv kx} {s : Chip} {via : Endpoint} {code : Nat} {bytes : List Byte} (h_s :
    s.Canon kw kt kr ks km kp kv kx) : (answer s via code bytes).Canon kw kt kr ks km kp kv kx := by
  unfold answer
  try dsimp only
  repeat' first
    | with_reducible assumption
    | with_reducible apply canon_emit

theorem canon_setFunc {kw kt kr ks km kp kv xb xq xl xm xn xc} {s : Chip} {port : Nat} {fn : Nat} {f : Func → Func}
    (h_s : s.Canon kw kt kr ks km kp kv ⟨xb, xq, xl, xm, none, xn, xc⟩) : (setFunc s port fn f).Canon kw kt kr ks km
    kp kv ⟨xb, xq, xl, xm, none, xn, xc⟩ := by
  unfold setFunc
  try dsimp only
  repeat' first
    | with_reducible assumption
    | with_reducible apply canon_ite
    | with_reducible apply canon_ite_s
    | with_reducible apply canon_ite_fst
    | with_reducible apply canon_ite_fst_s
    | simp only [canon_mkh_iff]

theorem canon_msix {kw kt kr ks km kp kv xb xq xl xm xn xc} {s : Chip} {port : Nat} {fn : Nat} {vector : Nat} (h_s :
    s.Canon kw kt kr ks km kp kv ⟨xb, xq, xl, xm, none, xn, xc⟩) : (msix s port fn vector).Canon kw kt kr ks km kp kv
    ⟨xb, xq, xl, xm, none, xn, xc⟩ := by
  unfold msix
  try dsimp only
  repeat' first
    | with_reducible assumption
    | with_reducible apply canon_emit
    | with_reducible apply canon_setFunc
    | with_reducible apply canon_ite
    | with_reducible apply canon_ite_s
    | with_reducible apply canon_ite_fst
    | with_reducible apply canon_ite_fst_s
    | simp only [canon_mk_iff]
    | split
    | intro _

theorem canon_msixFlush {kw kt kr ks km kp kv xb xq xl xm xn xc} {s : Chip} {port : Nat} {fn : Nat} (h_s : s.Canon kw
    kt kr ks km kp kv ⟨xb, xq, xl, xm, none, xn, xc⟩) : (msixFlush s port fn).Canon kw kt kr ks km kp kv ⟨xb, xq, xl,
    xm, none, xn, xc⟩ := by
  unfold msixFlush
  try dsimp only
  repeat' first
    | with_reducible assumption
    | with_reducible apply canon_emit
    | with_reducible apply canon_setFunc
    | with_reducible apply canon_foldl
    | with_reducible apply canon_foldl_fst
    | with_reducible apply canon_foldl_rd
    | with_reducible apply canon_foldl_rd_fst
    | with_reducible apply canon_foldl_x
    | with_reducible apply canon_foldl_run_fst
    | with_reducible apply canon_ite
    | with_reducible apply canon_ite_s
    | with_reducible apply canon_ite_fst
    | with_reducible apply canon_ite_fst_s
    | simp only [canon_mk_iff]
    | split
    | intro _

theorem canon_setAer {kw kt kr ks km kp kv xb xq xl xm xn xc} {s : Chip} {port : Nat} {fn : Nat} {n : Nat} (h_s :
    s.Canon kw kt kr ks km kp kv ⟨xb, xq, xl, xm, none, xn, xc⟩) : (setAer s port fn n).Canon kw kt kr ks km kp kv
    ⟨xb, xq, xl, xm, none, xn, xc⟩ := by
  unfold setAer
  try dsimp only
  repeat' first
    | with_reducible assumption
    | with_reducible apply canon_setFunc

theorem canon_stormFrom {kw kt kr ks km kp kv kx} {s : Chip} {p : Nat} (h_s : s.Canon kw kt kr ks km kp kv kx) :
    (stormFrom s p).Canon kw kt kr ks km kp kv kx := by
  unfold stormFrom
  try dsimp only
  repeat' first
    | with_reducible assumption
    | with_reducible apply canon_ite
    | with_reducible apply canon_ite_s
    | with_reducible apply canon_ite_fst
    | with_reducible apply canon_ite_fst_s
    | simp only [canon_mk_iff]

theorem canon_stormEdge {kw kt kr ks km kp kv kx} {s : Chip} {t : Chip} (h_s : s.Canon kw kt kr ks km kp kv kx) (h_t :
    t.Canon kw kt kr ks km kp kv kx) : (stormEdge s t).Canon kw kt kr ks km kp kv kx := by
  unfold stormEdge
  try dsimp only
  repeat' first
    | with_reducible assumption
    | with_reducible apply canon_stormFrom
    | with_reducible apply canon_foldl
    | with_reducible apply canon_foldl_fst
    | with_reducible apply canon_foldl_rd
    | with_reducible apply canon_foldl_rd_fst
    | with_reducible apply canon_foldl_x
    | with_reducible apply canon_foldl_run_fst
    | with_reducible apply canon_ite
    | with_reducible apply canon_ite_s
    | with_reducible apply canon_ite_fst
    | with_reducible apply canon_ite_fst_s
    | simp only [canon_mk_iff]
    | split
    | intro _

theorem canon_whenRunning {kw kt kr ks km kp kv kx} {s : Chip} {f : Chip → Chip} (h_s : s.Canon kw kt kr ks km kp kv
    kx) (h_f : ∀ a0, a0.Canon kw kt kr ks km kp kv kx → (f a0).Canon kw kt kr ks km kp kv kx) : (whenRunning s
    f).Canon kw kt kr ks km kp kv kx := by
  unfold whenRunning
  try dsimp only
  repeat' first
    | with_reducible assumption
    | with_reducible apply h_f
    | with_reducible apply canon_ite
    | with_reducible apply canon_ite_s
    | with_reducible apply canon_ite_fst
    | with_reducible apply canon_ite_fst_s
    | simp only [canon_mk_iff]
    | split
    | intro _

theorem canon_whenSo {kw kt kr ks km kp kv kx} {c : Bool} {s : Chip} {f : Chip → Chip} (h_s : s.Canon kw kt kr ks km
    kp kv kx) (h_f : ∀ a0, a0.Canon kw kt kr ks km kp kv kx → (f a0).Canon kw kt kr ks km kp kv kx) : (whenSo c s
    f).Canon kw kt kr ks km kp kv kx := by
  unfold whenSo
  try dsimp only
  repeat' first
    | with_reducible assumption
    | with_reducible apply h_f
    | with_reducible apply canon_ite
    | with_reducible apply canon_ite_s
    | with_reducible apply canon_ite_fst
    | with_reducible apply canon_ite_fst_s
    | simp only [canon_mk_iff]
    | split
    | intro _

theorem canon_countEvent {kw kt kr ks km kp kv kx} {s : Chip} {r : Nat} {len : Nat} {ue : Bool} (h_s : s.Canon kw kt
    kr ks km kp kv kx) : (countEvent s r len ue).Canon kw kt kr ks km kp kv kx := by
  unfold countEvent
  try dsimp only
  repeat' first
    | with_reducible assumption
    | with_reducible apply canon_ite
    | with_reducible apply canon_ite_s
    | with_reducible apply canon_ite_fst
    | with_reducible apply canon_ite_fst_s
    | simp only [canon_mk_iff]

theorem canon_closeWindow {kw kt kr ks km kp kv kx} {s : Chip} {r : Nat} (h_s : s.Canon kw kt kr ks km kp kv kx) :
    (closeWindow s r).Canon kw kt kr ks km kp kv kx := by
  unfold closeWindow
  try dsimp only
  repeat' first
    | with_reducible assumption
    | with_reducible apply canon_ite
    | with_reducible apply canon_ite_s
    | with_reducible apply canon_ite_fst
    | with_reducible apply canon_ite_fst_s
    | simp only [canon_mk_iff]

theorem canon_closeSpan {kw kt kr ks km kp kv kx} {s : Chip} {lo : Nat} {n : Nat} (h_s : s.Canon kw kt kr ks km kp kv
    kx) : (closeSpan s lo n).Canon kw kt kr ks km kp kv kx := by
  unfold closeSpan
  try dsimp only
  repeat' first
    | with_reducible assumption
    | with_reducible apply canon_ite
    | with_reducible apply canon_ite_s
    | with_reducible apply canon_ite_fst
    | with_reducible apply canon_ite_fst_s
    | simp only [canon_mk_iff]

theorem canon_countUnit {kw kt kr ks km kp kv kx} {s : Chip} {r : Nat} {encoded : Bool} {n : Nat} (h_s : s.Canon kw kt
    kr ks km kp kv kx) : (countUnit s r encoded n).Canon kw kt kr ks km kp kv kx := by
  unfold countUnit
  try dsimp only
  repeat' first
    | with_reducible assumption
    | with_reducible apply canon_bump
    | with_reducible apply canon_bump64

end Sys2Proof.Machine
end

