-- ==== Sys2Proof/Laws/CanonFlags.lean ====
section
/-! SUPPORT. The operations of Machine/Flags.lean keep the canonical form. -/
set_option linter.all false
namespace Sys2Proof.Machine

theorem canon_pageVector {kw kt kr ks km kp kv xb xq xl xm xn xc} {s : Chip} {pg : Page} (h_s : s.Canon kw kt kr ks km
    kp kv ⟨xb, xq, xl, xm, none, xn, xc⟩) : (pageVector s pg).Canon kw kt kr ks km kp kv ⟨xb, xq, xl, xm, none, xn,
    xc⟩ := by
  unfold pageVector
  try dsimp only
  repeat' first
    | with_reducible assumption
    | with_reducible apply canon_msix

theorem canon_raised {kw kt kr ks km kp kv xb xq xl xm xn xc} {before : Bool} {s : Chip} {pg : Page} (h_s : s.Canon kw
    kt kr ks km kp kv ⟨xb, xq, xl, xm, none, xn, xc⟩) : (raised before s pg).Canon kw kt kr ks km kp kv ⟨xb, xq, xl,
    xm, none, xn, xc⟩ := by
  unfold raised
  try dsimp only
  repeat' first
    | with_reducible assumption
    | with_reducible apply canon_pageVector
    | with_reducible apply canon_ite
    | with_reducible apply canon_ite_s
    | with_reducible apply canon_ite_fst
    | with_reducible apply canon_ite_fst_s
    | simp only [canon_mk_iff]
    | split
    | intro _

theorem canon_setFlag {kw kt kr ks km kp kv xb xq xl xm xn xc} {s : Chip} {pg : Page} {f : Field} (h_s : s.Canon kw kt
    kr ks km kp kv ⟨xb, xq, xl, xm, none, xn, xc⟩) : (setFlag s pg f).Canon kw kt kr ks km kp kv ⟨xb, xq, xl, xm,
    none, xn, xc⟩ := by
  unfold setFlag
  try dsimp only
  repeat' first
    | with_reducible assumption
    | with_reducible apply canon_wr
    | with_reducible apply canon_raised

theorem canon_hostError {kw kt kr ks km kp kv xb xq xl xm xn xc} {s : Chip} {port : Nat} (h_s : s.Canon kw kt kr ks km
    kp kv ⟨xb, xq, xl, xm, none, xn, xc⟩) : (hostError s port).Canon kw kt kr ks km kp kv ⟨xb, xq, xl, xm, none, xn,
    xc⟩ := by
  unfold hostError
  try dsimp only
  repeat' first
    | with_reducible assumption
    | with_reducible apply canon_setFlag

theorem canon_hostPut {kw kt kr ks km kp kv xb xq xl xm xn xc} {s : Chip} {port : Nat} {fn : Nat} {addr : Nat} {b :
    List Byte} (h_s : s.Canon kw kt kr ks km kp kv ⟨xb, xq, xl, xm, none, xn, xc⟩) : (hostPut s port fn addr b).Canon
    kw kt kr ks km kp kv ⟨xb, xq, xl, xm, none, xn, xc⟩ := by
  unfold hostPut
  try dsimp only
  repeat' first
    | with_reducible assumption
    | with_reducible apply canon_emit
    | with_reducible apply canon_hostError
    | with_reducible apply canon_ite
    | with_reducible apply canon_ite_s
    | with_reducible apply canon_ite_fst
    | with_reducible apply canon_ite_fst_s
    | simp only [canon_mk_iff]
    | split
    | intro _

theorem canon_errAddr {kw kt kr ks km kp kv kx} {s : Chip} {pg : Page} {addr : Option (Nat × Nat)} (h_s : s.Canon kw
    kt kr ks km kp kv kx) : (errAddr s pg addr).Canon kw kt kr ks km kp kv kx := by
  unfold errAddr
  try dsimp only
  repeat' first
    | with_reducible assumption
    | with_reducible apply canon_wrAll
    | with_reducible apply canon_ite
    | with_reducible apply canon_ite_s
    | with_reducible apply canon_ite_fst
    | with_reducible apply canon_ite_fst_s
    | simp only [canon_mk_iff]
    | split
    | intro _

theorem canon_setErr {kw kt kr ks km kp kv xb xq xl xm xn xc} {s : Chip} {pg : Page} {f : Field} {addr : Option (Nat ×
    Nat)} (h_s : s.Canon kw kt kr ks km kp kv ⟨xb, xq, xl, xm, none, xn, xc⟩) : (setErr s pg f addr).Canon kw kt kr ks
    km kp kv ⟨xb, xq, xl, xm, none, xn, xc⟩ := by
  unfold setErr
  try dsimp only
  repeat' first
    | with_reducible assumption
    | with_reducible apply canon_setFlag
    | with_reducible apply canon_errAddr

theorem canon_send {kw kt kr ks km kp kv kx} {s : Chip} {pg : Page} {n : Note} (h_s : s.Canon kw kt kr ks km kp kv kx)
    : (send s pg n).Canon kw kt kr ks km kp kv kx := by
  unfold send
  try dsimp only
  repeat' first
    | with_reducible assumption
    | with_reducible apply canon_bump
    | with_reducible apply canon_ite
    | with_reducible apply canon_ite_s
    | with_reducible apply canon_ite_fst
    | with_reducible apply canon_ite_fst_s
    | simp only [canon_mk_iff]
    | split
    | intro _

theorem canon_report {kw kt kr ks km kp kv xb xq xl xm xn xc} {s : Chip} {pg : Page} {f : Field} {n : Note} (h_s :
    s.Canon kw kt kr ks km kp kv ⟨xb, xq, xl, xm, none, xn, xc⟩) : (report s pg f n).Canon kw kt kr ks km kp kv ⟨xb,
    xq, xl, xm, none, xn, xc⟩ := by
  unfold report
  try dsimp only
  repeat' first
    | with_reducible assumption
    | with_reducible apply canon_setErr
    | with_reducible apply canon_send

theorem canon_poisonConsumed {kw kt kr ks km kp kv kx} {s : Chip} {pg : Page} {o : Origin} {addr : Option (Nat × Nat)}
    {region : Nat} (h_s : s.Canon kw kt kr ks km kp kv kx) : (poisonConsumed s pg o addr region).Canon kw kt kr ks km
    kp kv kx := by
  unfold poisonConsumed
  try dsimp only
  repeat' first
    | with_reducible assumption
    | with_reducible apply canon_send

end Sys2Proof.Machine
end

