-- ==== Sys2Proof/Laws/CanonBlocks.lean ====
section
/-! SUPPORT. The operations of Machine/Blocks.lean keep the canonical form. -/
set_option linter.all false
namespace Sys2Proof.Machine

theorem canon_setBlock {kw kt kr ks km kp kv xq xl xm xh xn xc} {s : Chip} {b : Nat} {f : Block → Block} (h_s :
    s.Canon kw kt kr ks km kp kv ⟨none, xq, xl, xm, xh, xn, xc⟩) : (setBlock s b f).Canon kw kt kr ks km kp kv ⟨none,
    xq, xl, xm, xh, xn, xc⟩ := by
  unfold setBlock
  try dsimp only
  repeat' first
    | with_reducible assumption
    | with_reducible apply canon_ite
    | with_reducible apply canon_ite_s
    | with_reducible apply canon_ite_fst
    | with_reducible apply canon_ite_fst_s
    | simp only [canon_mkb_iff]

theorem canon_noteFreed {kw kt kr ks km kp kv xq xl xm xh xn xc} {s : Chip} {b : Nat} (h_s : s.Canon kw kt kr ks km kp
    kv ⟨none, xq, xl, xm, xh, xn, xc⟩) : (noteFreed s b).Canon kw kt kr ks km kp kv ⟨none, xq, xl, xm, xh, xn, xc⟩ :=
    by
  unfold noteFreed
  try dsimp only
  repeat' first
    | with_reducible assumption
    | with_reducible apply canon_setBlock
    | with_reducible apply canon_ite
    | with_reducible apply canon_ite_s
    | with_reducible apply canon_ite_fst
    | with_reducible apply canon_ite_fst_s
    | simp only [canon_mk_iff]
    | split
    | intro _

theorem canon_endSet {kw kt kr ks km kp kv xq xl xm xh xn xc} {s : Chip} {b : Nat} {k : Nat} (h_s : s.Canon kw kt kr
    ks km kp kv ⟨none, xq, xl, xm, xh, xn, xc⟩) : (endSet s b k).Canon kw kt kr ks km kp kv ⟨none, xq, xl, xm, xh, xn,
    xc⟩ := by
  unfold endSet
  try dsimp only
  repeat' first
    | with_reducible assumption
    | with_reducible apply canon_wr
    | with_reducible apply canon_setBlock
    | with_reducible apply canon_noteFreed

theorem canon_loseSet {kw kt kr ks km kp kv xq xl xm xh xn xc} {s : Chip} {b : Nat} {k : Nat} (h_s : s.Canon kw kt kr
    ks km kp kv ⟨none, xq, xl, xm, xh, xn, xc⟩) : (loseSet s b k).Canon kw kt kr ks km kp kv ⟨none, xq, xl, xm, xh,
    xn, xc⟩ := by
  unfold loseSet
  try dsimp only
  repeat' first
    | with_reducible assumption
    | with_reducible apply canon_setBlock
    | with_reducible apply canon_endSet
    | with_reducible apply canon_ite
    | with_reducible apply canon_ite_s
    | with_reducible apply canon_ite_fst
    | with_reducible apply canon_ite_fst_s
    | simp only [canon_mk_iff]

theorem canon_loseSets {kw kt kr ks km kp kv xq xl xm xh xn xc} {s : Chip} {b : Nat} (h_s : s.Canon kw kt kr ks km kp
    kv ⟨none, xq, xl, xm, xh, xn, xc⟩) : (loseSets s b).Canon kw kt kr ks km kp kv ⟨none, xq, xl, xm, xh, xn, xc⟩ :=
    by
  unfold loseSets
  try dsimp only
  repeat' first
    | with_reducible assumption
    | with_reducible apply canon_wr
    | with_reducible apply canon_setBlock
    | with_reducible apply canon_ite
    | with_reducible apply canon_ite_s
    | with_reducible apply canon_ite_fst
    | with_reducible apply canon_ite_fst_s
    | simp only [canon_mk_iff]

theorem canon_loseHeld {kw kt kr ks km kp kv xq xl xm xh xn xc} {s : Chip} {q : Nat} {f : Nat × Nat × Nat → Bool} (h_s
    : s.Canon kw kt kr ks km kp kv ⟨none, xq, xl, xm, xh, xn, xc⟩) : (loseHeld s q f).Canon kw kt kr ks km kp kv
    ⟨none, xq, xl, xm, xh, xn, xc⟩ := by
  unfold loseHeld
  try dsimp only
  repeat' first
    | with_reducible assumption
    | with_reducible apply canon_loseSet
    | with_reducible apply canon_foldl
    | with_reducible apply canon_foldl_fst
    | with_reducible apply canon_foldl_rd
    | with_reducible apply canon_foldl_rd_fst
    | with_reducible apply canon_foldl_x
    | with_reducible apply canon_foldl_run_fst
    | with_reducible apply canon_ite
    | with_reducible apply canon_ite_s
    | with_reducible apply canon_ite_fst
    | with_reducible apply canon_ite_fst_s
    | simp only [canon_mk_iff]
    | split
    | intro _

end Sys2Proof.Machine
end

