-- ==== Sys2Proof/Laws/CanonExtMem.lean ====
section
/-! SUPPORT. The operations of Machine/ExtMem.lean keep the canonical form. -/
set_option linter.all false
namespace Sys2Proof.Machine

theorem canon_refuseAccess {kw kt kr ks km kp kv kx} {s : Chip} {a : Nat} {host : Bool} (h_s : s.Canon kw kt kr ks km
    kp kv kx) : (refuseAccess s a host).Canon kw kt kr ks km kp kv kx := by
  unfold refuseAccess
  try dsimp only
  repeat' first
    | with_reducible assumption
    | with_reducible apply canon_bump
    | with_reducible apply canon_ite
    | with_reducible apply canon_ite_s
    | with_reducible apply canon_ite_fst
    | with_reducible apply canon_ite_fst_s
    | simp only [canon_mk_iff]
    | split
    | intro _

theorem canon_setGirth {kw kt kr ks km kp kv kx} {s : Chip} {u : Nat} {p : Nat} {g : Girth} (h_s : s.Canon kw kt kr ks
    km kp kv kx) : (setGirth s u p g).Canon kw kt kr ks km kp kv kx := by
  unfold setGirth
  try dsimp only
  repeat' first
    | with_reducible assumption
    | with_reducible apply canon_ite
    | with_reducible apply canon_ite_s
    | with_reducible apply canon_ite_fst
    | with_reducible apply canon_ite_fst_s
    | simp only [canon_mk_iff]

theorem canon_girthGrant {kw kt kr ks km kp kv kx} {s : Chip} {u : Nat} {p : Nat} {n : Nat} (h_s : s.Canon kw kt kr ks
    km kp kv kx) : (girthGrant s u p n).Canon kw kt kr ks km kp kv kx := by
  unfold girthGrant
  try dsimp only
  repeat' first
    | with_reducible assumption
    | with_reducible apply canon_bumpWrap
    | with_reducible apply canon_setGirth
    | with_reducible apply canon_ite
    | with_reducible apply canon_ite_s
    | with_reducible apply canon_ite_fst
    | with_reducible apply canon_ite_fst_s
    | simp only [canon_mk_iff]
    | split
    | intro _

theorem canon_girthSpend {kw kt kr ks km kp kv kx} {s : Chip} {u : Nat} {p : Nat} {n : Nat} (h_s : s.Canon kw kt kr ks
    km kp kv kx) : (girthSpend s u p n).Canon kw kt kr ks km kp kv kx := by
  unfold girthSpend
  try dsimp only
  repeat' first
    | with_reducible assumption
    | with_reducible apply canon_setGirth
    | with_reducible apply canon_girthGrant

theorem canon_girthServe {kw kt kr ks km kp kv kx} {s : Chip} {u : Nat} {p : Nat} (h_s : s.Canon kw kt kr ks km kp kv
    kx) : (girthServe s u p).Canon kw kt kr ks km kp kv kx := by
  unfold girthServe
  try dsimp only
  repeat' first
    | with_reducible assumption
    | with_reducible apply canon_setGirth
    | with_reducible apply canon_girthGrant

theorem canon_girthWait {kw kt kr ks km kp kv kx} {s : Chip} {u : Nat} {p : Nat} {n : Nat} (h_s : s.Canon kw kt kr ks
    km kp kv kx) : (girthWait s u p n).Canon kw kt kr ks km kp kv kx := by
  unfold girthWait
  try dsimp only
  repeat' first
    | with_reducible assumption
    | with_reducible apply canon_setGirth
    | with_reducible apply canon_girthServe

theorem canon_regionCall {kw kt kr ks km kp kv kx} {s : Chip} {r : Nat} (h_s : s.Canon kw kt kr ks km kp kv kx) :
    (regionCall s r).Canon kw kt kr ks km kp kv kx := by
  unfold regionCall
  try dsimp only
  repeat' first
    | with_reducible assumption
    | with_reducible apply canon_ite
    | with_reducible apply canon_ite_s
    | with_reducible apply canon_ite_fst
    | with_reducible apply canon_ite_fst_s
    | simp only [canon_mk_iff]
    | split
    | intro _

theorem canon_unitTouch {kw kt kr ks km kp kv kx} {s : Chip} {u : Nat} (h_s : s.Canon kw kt kr ks km kp kv kx) :
    (unitTouch s u).Canon kw kt kr ks km kp kv kx := by
  unfold unitTouch
  try dsimp only
  repeat' first
    | with_reducible assumption
    | with_reducible apply canon_wr
    | with_reducible apply canon_regionCall
    | with_reducible apply canon_foldl
    | with_reducible apply canon_foldl_fst
    | with_reducible apply canon_foldl_rd
    | with_reducible apply canon_foldl_rd_fst
    | with_reducible apply canon_foldl_x
    | with_reducible apply canon_foldl_run_fst
    | with_reducible apply canon_ite
    | with_reducible apply canon_ite_s
    | with_reducible apply canon_ite_fst
    | with_reducible apply canon_ite_fst_s
    | simp only [canon_mk_iff]
    | split
    | intro _

theorem canon_channelEvent {kw kt kr ks km kp kv xb xq xl xm xn xc} {s : Chip} {u : Nat} {ch : Nat} {ue : Bool} (h_s :
    s.Canon kw kt kr ks km kp kv ⟨xb, xq, xl, xm, none, xn, xc⟩) : (channelEvent s u ch ue).Canon kw kt kr ks km kp kv
    ⟨xb, xq, xl, xm, none, xn, xc⟩ := by
  unfold channelEvent
  try dsimp only
  repeat' first
    | with_reducible assumption
    | with_reducible apply canon_wr
    | with_reducible apply canon_wrAll
    | with_reducible apply canon_countEvent
    | with_reducible apply canon_setFlag
    | with_reducible apply canon_send
    | with_reducible apply canon_report
    | with_reducible apply canon_ite
    | with_reducible apply canon_ite_s
    | with_reducible apply canon_ite_fst
    | with_reducible apply canon_ite_fst_s
    | simp only [canon_mk_iff]
    | split
    | intro _

theorem canon_sliceEvent {kw kt kr ks km kp kv xb xq xl xm xn xc} {s : Chip} {n : Nat} {ue : Bool} (h_s : s.Canon kw
    kt kr ks km kp kv ⟨xb, xq, xl, xm, none, xn, xc⟩) : (sliceEvent s n ue).Canon kw kt kr ks km kp kv ⟨xb, xq, xl,
    xm, none, xn, xc⟩ := by
  unfold sliceEvent
  try dsimp only
  repeat' first
    | with_reducible assumption
    | with_reducible apply canon_countEvent
    | with_reducible apply canon_setFlag
    | with_reducible apply canon_send
    | with_reducible apply canon_ite
    | with_reducible apply canon_ite_s
    | with_reducible apply canon_ite_fst
    | with_reducible apply canon_ite_fst_s
    | simp only [canon_mk_iff]
    | split
    | intro _

theorem canon_lineError {kw kt kr ks kp kv xb xq xl xm xn xc} {s : Chip} {a : Nat} {ue : Bool} {who : Option Origin}
    (h_s : s.Canon kw kt kr ks none kp kv ⟨xb, xq, xl, xm, none, xn, xc⟩) : (lineError s a ue who).Canon kw kt kr ks
    none kp kv ⟨xb, xq, xl, xm, none, xn, xc⟩ := by
  unfold lineError
  try dsimp only
  repeat' first
    | with_reducible assumption
    | with_reducible apply canon_bump
    | with_reducible apply canon_report
    | with_reducible apply canon_poisonLine
    | with_reducible apply canon_channelEvent
    | with_reducible apply canon_sliceEvent
    | exact canon_dropLatent h_s
    | with_reducible apply canon_ite
    | with_reducible apply canon_ite_s
    | with_reducible apply canon_ite_fst
    | with_reducible apply canon_ite_fst_s
    | simp only [canon_mk_iff]
    | split
    | intro _

theorem canon_injectSpare {kw kt kr ks km kp kv xb xq xl xm xn xc} {s : Chip} {u : Nat} {a : Nat} (h_s : s.Canon kw kt
    kr ks km kp kv ⟨xb, xq, xl, xm, none, xn, xc⟩) : (injectSpare s u a).Canon kw kt kr ks km kp kv ⟨xb, xq, xl, xm,
    none, xn, xc⟩ := by
  unfold injectSpare
  try dsimp only
  repeat' first
    | with_reducible assumption
    | with_reducible apply canon_wr
    | with_reducible apply canon_report

theorem canon_injectLine {kw kt kr ks kp kv xb xq xl xm xn xc} {s : Chip} {a : Nat} {who : Option Origin} (h_s :
    s.Canon kw kt kr ks none kp kv ⟨xb, xq, xl, xm, none, xn, xc⟩) : (injectLine s a who).Canon kw kt kr ks none kp kv
    ⟨xb, xq, xl, xm, none, xn, xc⟩ := by
  unfold injectLine
  try dsimp only
  repeat' first
    | with_reducible assumption
    | with_reducible apply canon_wr
    | with_reducible apply canon_lineError
    | with_reducible apply canon_injectSpare
    | with_reducible apply canon_ite
    | with_reducible apply canon_ite_s
    | with_reducible apply canon_ite_fst
    | with_reducible apply canon_ite_fst_s
    | simp only [canon_mk_iff]
    | split
    | intro _

theorem canon_readMeets {kw kt kr ks kp kv xb xq xl xm xn xc} {s : Chip} {a : Nat} {len : Nat} {who : Option Origin}
    (h_s : s.Canon kw kt kr ks none kp kv ⟨xb, xq, xl, xm, none, xn, xc⟩) : (readMeets s a len who).Canon kw kt kr ks
    none kp kv ⟨xb, xq, xl, xm, none, xn, xc⟩ := by
  unfold readMeets
  try dsimp only
  repeat' first
    | with_reducible assumption
    | with_reducible apply canon_lineError
    | with_reducible apply canon_injectLine
    | with_reducible apply canon_foldl
    | with_reducible apply canon_foldl_fst
    | with_reducible apply canon_foldl_rd
    | with_reducible apply canon_foldl_rd_fst
    | with_reducible apply canon_foldl_x
    | with_reducible apply canon_foldl_run_fst
    | with_reducible apply canon_ite
    | with_reducible apply canon_ite_s
    | with_reducible apply canon_ite_fst
    | with_reducible apply canon_ite_fst_s
    | simp only [canon_mk_iff]
    | split
    | intro _

theorem canon_unitWait {kw kt kr ks km kp kv kx} {s : Chip} {u : Nat} {p : Nat} {n : Nat} (h_s : s.Canon kw kt kr ks
    km kp kv kx) : (unitWait s u p n).Canon kw kt kr ks km kp kv kx := by
  unfold unitWait
  try dsimp only
  repeat' first
    | with_reducible assumption
    | with_reducible apply canon_girthWait
    | with_reducible apply canon_unitTouch
    | with_reducible apply canon_ite
    | with_reducible apply canon_ite_s
    | with_reducible apply canon_ite_fst
    | with_reducible apply canon_ite_fst_s
    | simp only [canon_mk_iff]
    | split
    | intro _

theorem canon_admitted {kw kt kr ks km kp kv kx} {s : Chip} {p : Nat} {a : Nat} {len : Nat} {write : Bool} (h_s :
    s.Canon kw kt kr ks km kp kv kx) : (admitted s p a len write).Canon kw kt kr ks km kp kv kx := by
  unfold admitted
  try dsimp only
  repeat' first
    | with_reducible assumption
    | with_reducible apply canon_refuseAccess
    | with_reducible apply canon_girthSpend
    | with_reducible apply canon_unitTouch
    | with_reducible apply canon_unitWait
    | with_reducible apply canon_ite
    | with_reducible apply canon_ite_s
    | with_reducible apply canon_ite_fst
    | with_reducible apply canon_ite_fst_s
    | simp only [canon_mk_iff]
    | split

theorem canon_unitsWait {kw kt kr ks km kp kv kx} {s : Chip} {p : Nat} {t : Table Nat} (h_s : s.Canon kw kt kr ks km
    kp kv kx) : (unitsWait s p t).Canon kw kt kr ks km kp kv kx := by
  unfold unitsWait
  try dsimp only
  repeat' first
    | with_reducible assumption
    | with_reducible apply canon_unitWait
    | with_reducible apply canon_foldl
    | with_reducible apply canon_foldl_fst
    | with_reducible apply canon_foldl_rd
    | with_reducible apply canon_foldl_rd_fst
    | with_reducible apply canon_foldl_x
    | with_reducible apply canon_foldl_run_fst
    | with_reducible apply canon_ite
    | with_reducible apply canon_ite_s
    | with_reducible apply canon_ite_fst
    | with_reducible apply canon_ite_fst_s
    | simp only [canon_mk_iff]
    | split
    | intro _

theorem canon_unitsCharge {kw kt kr ks km kp kv kx} {s : Chip} {p : Nat} {t : Table Nat} (h_s : s.Canon kw kt kr ks km
    kp kv kx) : (unitsCharge s p t).Canon kw kt kr ks km kp kv kx := by
  unfold unitsCharge
  try dsimp only
  repeat' first
    | with_reducible assumption
    | with_reducible apply canon_girthSpend
    | with_reducible apply canon_unitTouch
    | with_reducible apply canon_foldl
    | with_reducible apply canon_foldl_fst
    | with_reducible apply canon_foldl_rd
    | with_reducible apply canon_foldl_rd_fst
    | with_reducible apply canon_foldl_x
    | with_reducible apply canon_foldl_run_fst
    | with_reducible apply canon_ite
    | with_reducible apply canon_ite_s
    | with_reducible apply canon_ite_fst
    | with_reducible apply canon_ite_fst_s
    | simp only [canon_mk_iff]
    | split
    | intro _

theorem canon_chargeRun {kw kt kr ks km kp kv kx} {s : Chip} {p : Nat} {a : Nat} {len : Nat} (h_s : s.Canon kw kt kr
    ks km kp kv kx) : (chargeRun s p a len).Canon kw kt kr ks km kp kv kx := by
  unfold chargeRun
  try dsimp only
  repeat' first
    | with_reducible assumption
    | with_reducible apply canon_unitsCharge

theorem canon_runsHeld {kw kt kr ks km kp kv kx} {s : Chip} {p : Nat} {l : List (List (Nat × Nat × Bool))} (h_s :
    s.Canon kw kt kr ks km kp kv kx) : (runsHeld s p l).Canon kw kt kr ks km kp kv kx := by
  unfold runsHeld
  try dsimp only
  repeat' first
    | with_reducible assumption
    | with_reducible apply canon_unitsWait

end Sys2Proof.Machine
end

