-- ==== Sys2Proof/Laws/CanonLive.lean ====
section
/-! SUPPORT. The operations of Machine/Live.lean keep the canonical form. -/
set_option linter.all false
namespace Sys2Proof.Machine

theorem canon_setJob {kw kt kr ks km kp kv xb xl xm xh xn xc} {s : Chip} {id : Nat} {f : Job → Job} (h_s : s.Canon kw
    kt kr ks km kp kv ⟨xb, none, xl, xm, xh, xn, xc⟩) : (setJob s id f).Canon kw kt kr ks km kp kv ⟨xb, none, xl, xm,
    xh, xn, xc⟩ := by
  unfold setJob
  try dsimp only
  repeat' first
    | with_reducible assumption
    | with_reducible apply canon_ite
    | with_reducible apply canon_ite_s
    | with_reducible apply canon_ite_fst
    | with_reducible apply canon_ite_fst_s
    | simp only [canon_mkq_iff]

theorem canon_onJob {kw kt kr ks km kp kv xb xl xm xh xn xc} {s : Chip} {o : Origin} {f : Job → Job} (h_s : s.Canon kw
    kt kr ks km kp kv ⟨xb, none, xl, xm, xh, xn, xc⟩) : (onJob s o f).Canon kw kt kr ks km kp kv ⟨xb, none, xl, xm,
    xh, xn, xc⟩ := by
  unfold onJob
  try dsimp only
  repeat' first
    | with_reducible assumption
    | with_reducible apply canon_setJob
    | with_reducible apply canon_ite
    | with_reducible apply canon_ite_s
    | with_reducible apply canon_ite_fst
    | with_reducible apply canon_ite_fst_s
    | simp only [canon_mk_iff]
    | split

theorem canon_stampRegion {kw kt kr ks km kp kv kx} {s : Chip} {r : Nat} (h_s : s.Canon kw kt kr ks km kp kv kx) :
    (stampRegion s r).Canon kw kt kr ks km kp kv kx := by
  unfold stampRegion
  try dsimp only
  repeat' first
    | with_reducible assumption
    | with_reducible apply canon_ite
    | with_reducible apply canon_ite_s
    | with_reducible apply canon_ite_fst
    | with_reducible apply canon_ite_fst_s
    | simp only [canon_mk_iff]

theorem canon_stampEngine {kw kt kr ks km kp kv kx} {s : Chip} {e : Engine} (h_s : s.Canon kw kt kr ks km kp kv kx) :
    (stampEngine s e).Canon kw kt kr ks km kp kv kx := by
  unfold stampEngine
  try dsimp only
  repeat' first
    | with_reducible assumption
    | with_reducible apply canon_stampRegion
    | with_reducible apply canon_ite
    | with_reducible apply canon_ite_s
    | with_reducible apply canon_ite_fst
    | with_reducible apply canon_ite_fst_s
    | simp only [canon_mk_iff]
    | split

theorem canon_finWakes {kw kt kr ks km kp kv kx} {s : Chip} {q : Nat} (h_s : s.Canon kw kt kr ks km kp kv kx) :
    (finWakes s q).Canon kw kt kr ks km kp kv kx := by
  unfold finWakes
  try dsimp only
  repeat' first
    | with_reducible assumption
    | with_reducible apply canon_bump
    | with_reducible apply canon_ite
    | with_reducible apply canon_ite_s
    | with_reducible apply canon_ite_fst
    | with_reducible apply canon_ite_fst_s
    | simp only [canon_mk_iff]
    | split
    | intro _

theorem canon_finish {kw kt kr ks km kp kv xb xl xm xh xn xc} {s : Chip} {o : Origin} {e : Engine} {op : Nat} {b :
    Body} (h_s : s.Canon kw kt kr ks km kp kv ⟨xb, none, xl, xm, xh, xn, xc⟩) : (finish s o e op b).Canon kw kt kr ks
    km kp kv ⟨xb, none, xl, xm, xh, xn, xc⟩ := by
  unfold finish
  try dsimp only
  repeat' first
    | with_reducible assumption
    | with_reducible apply canon_setJob
    | with_reducible apply canon_stampEngine
    | with_reducible apply canon_ite
    | with_reducible apply canon_ite_s
    | with_reducible apply canon_ite_fst
    | with_reducible apply canon_ite_fst_s
    | simp only [canon_mk_iff]
    | split

theorem canon_cancelCmds {kw kt kr ks km kp kv xb xl xm xh xn xc} {s : Chip} {j : Job} {f : Cmd → Cmd} (h_s : s.Canon
    kw kt kr ks km kp kv ⟨xb, none, xl, xm, xh, xn, xc⟩) : (cancelCmds s j f).Canon kw kt kr ks km kp kv ⟨xb, none,
    xl, xm, xh, xn, xc⟩ := by
  unfold cancelCmds
  try dsimp only
  repeat' first
    | with_reducible assumption
    | with_reducible apply canon_setJob
    | with_reducible apply canon_ite
    | with_reducible apply canon_ite_s
    | with_reducible apply canon_ite_fst
    | with_reducible apply canon_ite_fst_s
    | simp only [canon_mkq_iff]

theorem canon_passOver {kw kt kr ks km kp kv xb xl xm xh xn xc} {s : Chip} {o : Origin} {op : Nat} {b : Body} (h_s :
    s.Canon kw kt kr ks km kp kv ⟨xb, none, xl, xm, xh, xn, xc⟩) : (passOver s o op b).Canon kw kt kr ks km kp kv ⟨xb,
    none, xl, xm, xh, xn, xc⟩ := by
  unfold passOver
  try dsimp only
  repeat' first
    | with_reducible assumption
    | with_reducible apply canon_ite
    | with_reducible apply canon_ite_s
    | with_reducible apply canon_ite_fst
    | with_reducible apply canon_ite_fst_s
    | simp only [canon_mkq_iff]

theorem canon_handTo {kw kt kr ks km kp kv xb xl xm xh xn xc} {s : Chip} {o : Origin} {e : Engine} {op : Nat} {b :
    Body} (h_s : s.Canon kw kt kr ks km kp kv ⟨xb, none, xl, xm, xh, xn, xc⟩) : (handTo s o e op b).Canon kw kt kr ks
    km kp kv ⟨xb, none, xl, xm, xh, xn, xc⟩ := by
  unfold handTo
  try dsimp only
  repeat' first
    | with_reducible assumption
    | with_reducible apply canon_ite
    | with_reducible apply canon_ite_s
    | with_reducible apply canon_ite_fst
    | with_reducible apply canon_ite_fst_s
    | simp only [canon_mkq_iff]
    | split

theorem canon_carriedOut {kw kt kr ks km kp kv xb xl xm xh xn xc} {s : Chip} {o : Origin} {e : Engine} {op : Nat} {b :
    Body} {f : Chip → Chip} (h_s : s.Canon kw kt kr ks km kp kv ⟨xb, none, xl, xm, xh, xn, xc⟩) (h_f : ∀ a0, a0.Canon
    kw kt kr ks km kp kv ⟨xb, none, xl, xm, xh, xn, xc⟩ → (f a0).Canon kw kt kr ks km kp kv ⟨xb, none, xl, xm, xh, xn,
    xc⟩) : (carriedOut s o e op b f).Canon kw kt kr ks km kp kv ⟨xb, none, xl, xm, xh, xn, xc⟩ := by
  unfold carriedOut
  try dsimp only
  repeat' first
    | with_reducible assumption
    | with_reducible apply canon_passOver
    | with_reducible apply canon_handTo
    | with_reducible apply h_f
    | with_reducible apply canon_ite
    | with_reducible apply canon_ite_s
    | with_reducible apply canon_ite_fst
    | with_reducible apply canon_ite_fst_s
    | simp only [canon_mk_iff]
    | split
    | intro _

theorem canon_markPoisoned {kw kt kr ks km kp kv xb xl xm xh xn xc} {s : Chip} {o : Origin} (h_s : s.Canon kw kt kr ks
    km kp kv ⟨xb, none, xl, xm, xh, xn, xc⟩) : (markPoisoned s o).Canon kw kt kr ks km kp kv ⟨xb, none, xl, xm, xh,
    xn, xc⟩ := by
  unfold markPoisoned
  try dsimp only
  repeat' first
    | with_reducible assumption
    | with_reducible apply canon_onJob

theorem canon_recount {kw kt kr ks km kp kv kx} {s : Chip} {p : Nat} {n : Nat} {q : Nat} (h_s : s.Canon kw kt kr ks km
    kp kv kx) : (recount s p n q).Canon kw kt kr ks km kp kv kx := by
  unfold recount
  try dsimp only
  repeat' first
    | with_reducible assumption
    | with_reducible apply canon_wr

theorem canon_showBound {kw kt kr ks km kp kv kx} {s : Chip} {p : Nat} {q : Nat} (h_s : s.Canon kw kt kr ks km kp kv
    kx) : (showBound s p q).Canon kw kt kr ks km kp kv kx := by
  unfold showBound
  try dsimp only
  repeat' first
    | with_reducible assumption
    | with_reducible apply canon_wr

theorem canon_showWaits {kw kt kr ks km kp kv kx} {s : Chip} {q : Nat} (h_s : s.Canon kw kt kr ks km kp kv kx) :
    (showWaits s q).Canon kw kt kr ks km kp kv kx := by
  unfold showWaits
  try dsimp only
  repeat' first
    | with_reducible assumption
    | with_reducible apply canon_wr

theorem canon_showStopping {kw kt kr ks km kp kv kx} {s : Chip} {p : Nat} (h_s : s.Canon kw kt kr ks km kp kv kx) :
    (showStopping s p).Canon kw kt kr ks km kp kv kx := by
  unfold showStopping
  try dsimp only
  repeat' first
    | with_reducible assumption
    | with_reducible apply canon_wr
    | with_reducible apply canon_foldl
    | with_reducible apply canon_foldl_fst
    | with_reducible apply canon_foldl_rd
    | with_reducible apply canon_foldl_rd_fst
    | with_reducible apply canon_foldl_x
    | with_reducible apply canon_foldl_run_fst
    | with_reducible apply canon_ite
    | with_reducible apply canon_ite_s
    | with_reducible apply canon_ite_fst
    | with_reducible apply canon_ite_fst_s
    | simp only [canon_mk_iff]
    | split
    | intro _

theorem canon_stopProgress {kw kt kr ks km kp kv xb xl xm xh xn xc} {s : Chip} {p : Nat} (h_s : s.Canon kw kt kr ks km
    kp kv ⟨xb, none, xl, xm, xh, xn, xc⟩) : (stopProgress s p).Canon kw kt kr ks km kp kv ⟨xb, none, xl, xm, xh, xn,
    xc⟩ := by
  unfold stopProgress
  try dsimp only
  repeat' first
    | with_reducible assumption
    | with_reducible apply canon_wr
    | with_reducible apply canon_finish
    | with_reducible apply canon_foldl
    | with_reducible apply canon_foldl_fst
    | with_reducible apply canon_foldl_rd
    | with_reducible apply canon_foldl_rd_fst
    | with_reducible apply canon_foldl_x
    | with_reducible apply canon_foldl_run_fst
    | with_reducible apply canon_ite
    | with_reducible apply canon_ite_s
    | with_reducible apply canon_ite_fst
    | with_reducible apply canon_ite_fst_s
    | simp only [canon_mkq_iff]
    | split
    | intro _

theorem canon_stopQueues {kw kt kr ks km kp kv xb xl xm xh xn xc} {s : Chip} {p : Nat} (h_s : s.Canon kw kt kr ks km
    kp kv ⟨xb, none, xl, xm, xh, xn, xc⟩) : (stopQueues s p).Canon kw kt kr ks km kp kv ⟨xb, none, xl, xm, xh, xn, xc⟩
    := by
  unfold stopQueues
  try dsimp only
  repeat' first
    | with_reducible assumption
    | with_reducible apply canon_wr
    | with_reducible apply canon_showStopping
    | with_reducible apply canon_stopProgress
    | with_reducible apply canon_foldl
    | with_reducible apply canon_foldl_fst
    | with_reducible apply canon_foldl_rd
    | with_reducible apply canon_foldl_rd_fst
    | with_reducible apply canon_foldl_x
    | with_reducible apply canon_foldl_run_fst
    | with_reducible apply canon_ite
    | with_reducible apply canon_ite_s
    | with_reducible apply canon_ite_fst
    | with_reducible apply canon_ite_fst_s
    | simp only [canon_mkq_iff]
    | split
    | intro _

theorem canon_resetOver {kw kt kr ks km kp kv xb xl xm xh xn xc} {s : Chip} {p : Nat} {n : Nat} (h_s : s.Canon kw kt
    kr ks km kp kv ⟨xb, none, xl, xm, xh, xn, xc⟩) : (resetOver s p n).Canon kw kt kr ks km kp kv ⟨xb, none, xl, xm,
    xh, xn, xc⟩ := by
  unfold resetOver
  try dsimp only
  repeat' first
    | with_reducible assumption
    | with_reducible apply canon_wrAll
    | with_reducible apply canon_showBound
    | with_reducible apply canon_showStopping
    | with_reducible apply canon_stopProgress
    | with_reducible apply canon_ite
    | with_reducible apply canon_ite_s
    | with_reducible apply canon_ite_fst
    | with_reducible apply canon_ite_fst_s
    | simp only [canon_mkq_iff]

theorem canon_resetProgress {kw kt kr ks km kp kv xb xl xm xh xn xc} {s : Chip} {p : Nat} {n : Nat} (h_s : s.Canon kw
    kt kr ks km kp kv ⟨xb, none, xl, xm, xh, xn, xc⟩) : (resetProgress s p n).Canon kw kt kr ks km kp kv ⟨xb, none,
    xl, xm, xh, xn, xc⟩ := by
  unfold resetProgress
  try dsimp only
  repeat' first
    | with_reducible assumption
    | with_reducible apply canon_resetOver
    | with_reducible apply canon_ite
    | with_reducible apply canon_ite_s
    | with_reducible apply canon_ite_fst
    | with_reducible apply canon_ite_fst_s
    | simp only [canon_mk_iff]
    | split
    | intro _

end Sys2Proof.Machine
end

