-- ==== Sys2Proof/Laws/CanonVictims.lean ====
section
/-! SUPPORT. The operations of Machine/Victims.lean keep the canonical form. -/
set_option linter.all false
namespace Sys2Proof.Machine

theorem canon_withdrawWaits {kw kt kr ks km kp kv xb xl xm xh xn xc} {s : Chip} {j : Job} (h_s : s.Canon kw kt kr ks
    km kp kv ⟨xb, none, xl, xm, xh, xn, xc⟩) : (withdrawWaits s j).Canon kw kt kr ks km kp kv ⟨xb, none, xl, xm, xh,
    xn, xc⟩ := by
  unfold withdrawWaits
  try dsimp only
  repeat' first
    | with_reducible assumption
    | with_reducible apply canon_setJob
    | with_reducible apply canon_showWaits
    | with_reducible apply canon_ite
    | with_reducible apply canon_ite_s
    | with_reducible apply canon_ite_fst
    | with_reducible apply canon_ite_fst_s
    | simp only [canon_mkq_iff]

theorem canon_withdrawAt {kw kt kr ks km kp kv xb xl xm xh xn xc} {s : Chip} {here : List Nat} (h_s : s.Canon kw kt kr
    ks km kp kv ⟨xb, none, xl, xm, xh, xn, xc⟩) : (withdrawAt s here).Canon kw kt kr ks km kp kv ⟨xb, none, xl, xm,
    xh, xn, xc⟩ := by
  unfold withdrawAt
  try dsimp only
  repeat' first
    | with_reducible assumption
    | with_reducible apply canon_withdrawWaits
    | with_reducible apply canon_foldl
    | with_reducible apply canon_foldl_fst
    | with_reducible apply canon_foldl_rd
    | with_reducible apply canon_foldl_rd_fst
    | with_reducible apply canon_foldl_x
    | with_reducible apply canon_foldl_run_fst
    | with_reducible apply canon_ite
    | with_reducible apply canon_ite_s
    | with_reducible apply canon_ite_fst
    | with_reducible apply canon_ite_fst_s
    | simp only [canon_mk_iff]
    | split
    | intro _

theorem canon_keepSwitch {kw kt kr ks km kp kv kx} {s : Chip} {q : Nat} {x : Switch} (h_s : s.Canon kw kt kr ks km kp
    kv kx) : (keepSwitch s q x).Canon kw kt kr ks km kp kv kx := by
  unfold keepSwitch
  try dsimp only
  repeat' first
    | with_reducible assumption
    | with_reducible apply canon_ite
    | with_reducible apply canon_ite_s
    | with_reducible apply canon_ite_fst
    | with_reducible apply canon_ite_fst_s
    | simp only [canon_mk_iff]

theorem canon_spillShort {kw kt kr ks km kp kv kx} {s : Chip} {q : Nat} {w : Switch} (h_s : s.Canon kw kt kr ks km kp
    kv kx) : (spillShort s q w).Canon kw kt kr ks km kp kv kx := by
  unfold spillShort
  try dsimp only
  repeat' first
    | with_reducible assumption
    | with_reducible apply canon_wr
    | with_reducible apply canon_bump
    | with_reducible apply canon_keepSwitch
    | with_reducible apply canon_ite
    | with_reducible apply canon_ite_s
    | with_reducible apply canon_ite_fst
    | with_reducible apply canon_ite_fst_s
    | simp only [canon_mk_iff]
    | split
    | intro _

theorem canon_planSpill {kw kt kr ks km kp kv xb xl xm xh xn xc} {s : Chip} {q : Nat} {w : Switch} {here : List Nat}
    (h_s : s.Canon kw kt kr ks km kp kv ⟨xb, none, xl, xm, xh, xn, xc⟩) : (planSpill s q w here).Canon kw kt kr ks km
    kp kv ⟨xb, none, xl, xm, xh, xn, xc⟩ := by
  unfold planSpill
  try dsimp only
  repeat' first
    | with_reducible assumption
    | with_reducible apply canon_wr
    | with_reducible apply canon_withdrawAt
    | with_reducible apply canon_keepSwitch
    | with_reducible apply canon_spillShort
    | with_reducible apply canon_ite
    | with_reducible apply canon_ite_s
    | with_reducible apply canon_ite_fst
    | with_reducible apply canon_ite_fst_s
    | simp only [canon_mk_iff]
    | split
    | intro _

theorem canon_releaseSpillWrites {kw kt kr ks km kp kv kx} {s : Chip} {p : Nat} (h_s : s.Canon kw kt kr ks km kp kv
    kx) : (releaseSpillWrites s p).Canon kw kt kr ks km kp kv kx := by
  unfold releaseSpillWrites
  try dsimp only
  repeat' first
    | with_reducible assumption
    | with_reducible apply canon_wr
    | with_reducible apply canon_foldl
    | with_reducible apply canon_foldl_fst
    | with_reducible apply canon_foldl_rd
    | with_reducible apply canon_foldl_rd_fst
    | with_reducible apply canon_foldl_x
    | with_reducible apply canon_foldl_run_fst
    | with_reducible apply canon_ite
    | with_reducible apply canon_ite_s
    | with_reducible apply canon_ite_fst
    | with_reducible apply canon_ite_fst_s
    | simp only [canon_mk_iff]
    | split
    | intro _

theorem canon_idleFront {kw kt kr ks km kp kv kx} {s : Chip} {q : Nat} (h_s : s.Canon kw kt kr ks km kp kv kx) :
    (idleFront s q).Canon kw kt kr ks km kp kv kx := by
  unfold idleFront
  try dsimp only
  repeat' first
    | with_reducible assumption
    | with_reducible apply canon_wrAll
    | with_reducible apply canon_ite
    | with_reducible apply canon_ite_s
    | with_reducible apply canon_ite_fst
    | with_reducible apply canon_ite_fst_s
    | simp only [canon_mk_iff]

theorem canon_victimEnded {kw kt kr ks km kp kv xb xl xm xh xn xc} {s : Chip} {q : Nat} {w : Switch} {id : Nat} (h_s :
    s.Canon kw kt kr ks km kp kv ⟨xb, none, xl, xm, xh, xn, xc⟩) : (victimEnded s q w id).Canon kw kt kr ks km kp kv
    ⟨xb, none, xl, xm, xh, xn, xc⟩ := by
  unfold victimEnded
  try dsimp only
  repeat' first
    | with_reducible assumption
    | with_reducible apply canon_wr
    | with_reducible apply canon_keepSwitch
    | with_reducible apply canon_planSpill
    | with_reducible apply canon_releaseSpillWrites
    | with_reducible apply canon_idleFront
    | with_reducible apply canon_ite
    | with_reducible apply canon_ite_s
    | with_reducible apply canon_ite_fst
    | with_reducible apply canon_ite_fst_s
    | simp only [canon_mk_iff]
    | split
    | intro _

theorem canon_dropVictim {kw kt kr ks km kp kv xb xl xm xh xn xc} {s : Chip} {id : Nat} (h_s : s.Canon kw kt kr ks km
    kp kv ⟨xb, none, xl, xm, xh, xn, xc⟩) : (dropVictim s id).Canon kw kt kr ks km kp kv ⟨xb, none, xl, xm, xh, xn,
    xc⟩ := by
  unfold dropVictim
  try dsimp only
  repeat' first
    | with_reducible assumption
    | with_reducible apply canon_victimEnded
    | with_reducible apply canon_foldl
    | with_reducible apply canon_foldl_fst
    | with_reducible apply canon_foldl_rd
    | with_reducible apply canon_foldl_rd_fst
    | with_reducible apply canon_foldl_x
    | with_reducible apply canon_foldl_run_fst
    | with_reducible apply canon_ite
    | with_reducible apply canon_ite_s
    | with_reducible apply canon_ite_fst
    | with_reducible apply canon_ite_fst_s
    | simp only [canon_mk_iff]
    | split
    | intro _

end Sys2Proof.Machine
end

