-- ==== Sys2Proof/Laws/CanonJobs.lean ====
section
/-! SUPPORT. The operations of Machine/Jobs.lean keep the canonical form. -/
set_option linter.all false
namespace Sys2Proof.Machine

theorem canon_ringPut {kw kt kr ks kp kv xb xq xl xm xn xc} {s : Chip} {p : Nat} {device : Bool} {a : Nat} {b : List
    Byte} (h_s : s.Canon kw kt kr ks none kp kv ⟨xb, xq, xl, xm, none, xn, xc⟩) : (ringPut s p device a b).Canon kw kt
    kr ks none kp kv ⟨xb, xq, xl, xm, none, xn, xc⟩ := by
  unfold ringPut
  try dsimp only
  repeat' first
    | with_reducible assumption
    | with_reducible apply canon_hostPut
    | with_reducible apply canon_memPut
    | with_reducible apply canon_admitted
    | with_reducible apply canon_ite
    | with_reducible apply canon_ite_s
    | with_reducible apply canon_ite_fst
    | with_reducible apply canon_ite_fst_s
    | simp only [canon_mk_iff]
    | split
    | intro _

theorem canon_writeRecord {kw kt kr ks kp kv xb xq xl xm xn xc} {s : Chip} {r : HeldRecord} (h_s : s.Canon kw kt kr ks
    none kp kv ⟨xb, xq, xl, xm, none, xn, xc⟩) : (writeRecord s r).Canon kw kt kr ks none kp kv ⟨xb, xq, xl, xm, none,
    xn, xc⟩ := by
  unfold writeRecord
  try dsimp only
  repeat' first
    | with_reducible assumption
    | with_reducible apply canon_bumpWrap
    | with_reducible apply canon_msix
    | with_reducible apply canon_ringPut
    | with_reducible apply canon_ite
    | with_reducible apply canon_ite_s
    | with_reducible apply canon_ite_fst
    | with_reducible apply canon_ite_fst_s
    | simp only [canon_mk_iff]
    | split
    | intro _

theorem canon_recordWaits {kw kt kr ks km kp kv xb xq xl xm xn xc} {s : Chip} {p : Nat} {n : Nat} {quad : Nat} (h_s :
    s.Canon kw kt kr ks km kp kv ⟨xb, xq, xl, xm, none, xn, xc⟩) : (recordWaits s p n quad).Canon kw kt kr ks km kp kv
    ⟨xb, xq, xl, xm, none, xn, xc⟩ := by
  unfold recordWaits
  try dsimp only
  repeat' first
    | with_reducible assumption
    | with_reducible apply canon_wr
    | with_reducible apply canon_setFlag
    | with_reducible apply canon_admitted
    | with_reducible apply canon_ite
    | with_reducible apply canon_ite_s
    | with_reducible apply canon_ite_fst
    | with_reducible apply canon_ite_fst_s
    | simp only [canon_mk_iff]
    | split
    | intro _

theorem canon_complete {kw kt kr ks kp kv xb xl xm xn xc} {s : Chip} {r : HeldRecord} {quad : Nat} (h_s : s.Canon kw
    kt kr ks none kp kv ⟨xb, none, xl, xm, none, xn, xc⟩) : (complete s r quad).Canon kw kt kr ks none kp kv ⟨xb,
    none, xl, xm, none, xn, xc⟩ := by
  unfold complete
  try dsimp only
  repeat' first
    | with_reducible assumption
    | with_reducible apply canon_writeRecord
    | with_reducible apply canon_recordWaits
    | with_reducible apply canon_ite
    | with_reducible apply canon_ite_s
    | with_reducible apply canon_ite_fst
    | with_reducible apply canon_ite_fst_s
    | simp only [canon_mkq_iff]
    | split
    | intro _

theorem canon_drainHeld {kw kt kr ks kp kv xb xl xm xn xc} {s : Chip} {p : Nat} {q : Nat} {z0 : Nat} (h_s : s.Canon kw
    kt kr ks none kp kv ⟨xb, none, xl, xm, none, xn, xc⟩) : (drainHeld s p q z0).Canon kw kt kr ks none kp kv ⟨xb,
    none, xl, xm, none, xn, xc⟩ := by
  induction z0 generalizing s p q with
  | zero =>
      unfold drainHeld
      try dsimp only
      repeat' first
        | with_reducible assumption
  | succ k ih =>
      unfold drainHeld
      try dsimp only
      repeat' first
        | with_reducible assumption
        | with_reducible apply ih
        | with_reducible apply canon_wr
        | with_reducible apply canon_admitted
        | with_reducible apply canon_writeRecord
        | with_reducible apply canon_ite
        | with_reducible apply canon_ite_s
        | with_reducible apply canon_ite_fst
        | with_reducible apply canon_ite_fst_s
        | simp only [canon_mkq_iff]
        | split
        | intro _

theorem canon_drainQueue {kw kt kr ks kp kv xb xl xm xn xc} {s : Chip} {p : Nat} {n : Nat} (h_s : s.Canon kw kt kr ks
    none kp kv ⟨xb, none, xl, xm, none, xn, xc⟩) : (drainQueue s p n).Canon kw kt kr ks none kp kv ⟨xb, none, xl, xm,
    none, xn, xc⟩ := by
  unfold drainQueue
  try dsimp only
  repeat' first
    | with_reducible assumption
    | with_reducible apply canon_drainHeld

theorem canon_drainAll {kw kt kr ks kp kv xb xl xm xn xc} {s : Chip} (h_s : s.Canon kw kt kr ks none kp kv ⟨xb, none,
    xl, xm, none, xn, xc⟩) : (drainAll s).Canon kw kt kr ks none kp kv ⟨xb, none, xl, xm, none, xn, xc⟩ := by
  unfold drainAll
  try dsimp only
  repeat' first
    | with_reducible assumption
    | with_reducible apply canon_drainQueue
    | with_reducible apply canon_foldl
    | with_reducible apply canon_foldl_fst
    | with_reducible apply canon_foldl_rd
    | with_reducible apply canon_foldl_rd_fst
    | with_reducible apply canon_foldl_x
    | with_reducible apply canon_foldl_run_fst
    | with_reducible apply canon_ite
    | with_reducible apply canon_ite_s
    | with_reducible apply canon_ite_fst
    | with_reducible apply canon_ite_fst_s
    | simp only [canon_mk_iff]
    | split
    | intro _

theorem canon_chargeRaw {kw kt kr ks km kp kv xb xl xm xh xn xc} {s : Chip} {e : Engine} {o : Origin} {n : Nat} (h_s :
    s.Canon kw kt kr ks km kp kv ⟨xb, none, xl, xm, xh, xn, xc⟩) : (chargeRaw s e o n).Canon kw kt kr ks km kp kv ⟨xb,
    none, xl, xm, xh, xn, xc⟩ := by
  unfold chargeRaw
  try dsimp only
  repeat' first
    | with_reducible assumption
    | with_reducible apply canon_ite
    | with_reducible apply canon_ite_s
    | with_reducible apply canon_ite_fst
    | with_reducible apply canon_ite_fst_s
    | simp only [canon_mkq_iff]

theorem canon_charge {kw kt kr ks km kp kv xb xl xm xh xn xc} {s : Chip} {e : Engine} {o : Origin} {n : Nat} (h_s :
    s.Canon kw kt kr ks km kp kv ⟨xb, none, xl, xm, xh, xn, xc⟩) : (charge s e o n).Canon kw kt kr ks km kp kv ⟨xb,
    none, xl, xm, xh, xn, xc⟩ := by
  unfold charge
  try dsimp only
  repeat' first
    | with_reducible assumption
    | with_reducible apply canon_chargeRaw

theorem canon_leaveAccWait {kw kt kr ks km kp kv xl xm xh xn xc} {s : Chip} {b : Nat} {w : AccWait} (h_s : s.Canon kw
    kt kr ks km kp kv ⟨none, none, xl, xm, xh, xn, xc⟩) : (leaveAccWait s b w).Canon kw kt kr ks km kp kv ⟨none, none,
    xl, xm, xh, xn, xc⟩ := by
  unfold leaveAccWait
  try dsimp only
  repeat' first
    | with_reducible assumption
    | with_reducible apply canon_wr
    | with_reducible apply canon_setBlock
    | with_reducible apply canon_chargeRaw

theorem canon_endAccWaits {kw kt kr ks km kp kv xl xm xh xn xc} {s : Chip} {gone : Origin → Body → Bool} (h_s :
    s.Canon kw kt kr ks km kp kv ⟨none, none, xl, xm, xh, xn, xc⟩) : (endAccWaits s gone).Canon kw kt kr ks km kp kv
    ⟨none, none, xl, xm, xh, xn, xc⟩ := by
  unfold endAccWaits
  try dsimp only
  repeat' first
    | with_reducible assumption
    | with_reducible apply canon_leaveAccWait
    | with_reducible apply canon_foldl
    | with_reducible apply canon_foldl_fst
    | with_reducible apply canon_foldl_rd
    | with_reducible apply canon_foldl_rd_fst
    | with_reducible apply canon_foldl_x
    | with_reducible apply canon_foldl_run_fst
    | with_reducible apply canon_ite
    | with_reducible apply canon_ite_s
    | with_reducible apply canon_ite_fst
    | with_reducible apply canon_ite_fst_s
    | simp only [canon_mk_iff]
    | split
    | intro _

theorem canon_removeJob {kw kt kr ks km kp kv xh xn xc} {s : Chip} {j : Job} (h_s : s.Canon kw kt kr ks km kp kv
    ⟨none, none, none, none, xh, xn, xc⟩) : (removeJob s j).Canon kw kt kr ks km kp kv ⟨none, none, none, none, xh,
    xn, xc⟩ := by
  unfold removeJob
  try dsimp only
  repeat' first
    | with_reducible assumption
    | with_reducible apply canon_stampRegion
    | with_reducible apply canon_cancelCmds
    | with_reducible apply canon_recount
    | with_reducible apply canon_showWaits
    | with_reducible apply canon_dropVictim
    | with_reducible apply canon_endAccWaits
    | with_reducible apply canon_ite
    | with_reducible apply canon_ite_s
    | with_reducible apply canon_ite_fst
    | with_reducible apply canon_ite_fst_s
    | simp only [canon_mkqlm_iff]

theorem canon_dropSets {kw kt kr ks km kp kv xq xl xm xh xn xc} {s : Chip} {j : Job} (h_s : s.Canon kw kt kr ks km kp
    kv ⟨none, xq, xl, xm, xh, xn, xc⟩) : (dropSets s j).Canon kw kt kr ks km kp kv ⟨none, xq, xl, xm, xh, xn, xc⟩ :=
    by
  unfold dropSets
  try dsimp only
  repeat' first
    | with_reducible assumption
    | with_reducible apply canon_loseHeld
    | with_reducible apply canon_ite
    | with_reducible apply canon_ite_s
    | with_reducible apply canon_ite_fst
    | with_reducible apply canon_ite_fst_s
    | simp only [canon_mk_iff]

theorem canon_endJob {kw kt kr ks kp kv xn xc} {s : Chip} {j : Job} {status : Nat} {info : Nat} (h_s : s.Canon kw kt
    kr ks none kp kv ⟨none, none, none, none, none, xn, xc⟩) : (endJob s j status info).Canon kw kt kr ks none kp kv
    ⟨none, none, none, none, none, xn, xc⟩ := by
  unfold endJob
  try dsimp only
  repeat' first
    | with_reducible assumption
    | with_reducible apply canon_stopProgress
    | with_reducible apply canon_resetProgress
    | with_reducible apply canon_complete
    | with_reducible apply canon_removeJob
    | with_reducible apply canon_dropSets
    | with_reducible apply canon_ite
    | with_reducible apply canon_ite_s
    | with_reducible apply canon_ite_fst
    | with_reducible apply canon_ite_fst_s
    | simp only [canon_mk_iff]
    | split
    | intro _

theorem canon_settle {kw kt kr ks kp kv xn xc} {s : Chip} {id : Nat} (h_s : s.Canon kw kt kr ks none kp kv ⟨none,
    none, none, none, none, xn, xc⟩) : (settle s id).Canon kw kt kr ks none kp kv ⟨none, none, none, none, none, xn,
    xc⟩ := by
  unfold settle
  try dsimp only
  repeat' first
    | with_reducible assumption
    | with_reducible apply canon_setJob
    | with_reducible apply canon_endJob
    | with_reducible apply canon_ite
    | with_reducible apply canon_ite_s
    | with_reducible apply canon_ite_fst
    | with_reducible apply canon_ite_fst_s
    | simp only [canon_mk_iff]
    | split
    | intro _

theorem canon_endWaits {kw kt kr ks km kp kv xb xl xm xh xn xc} {s : Chip} {gone : Origin → Body → Bool} {q : Nat}
    (h_s : s.Canon kw kt kr ks km kp kv ⟨xb, none, xl, xm, xh, xn, xc⟩) : (endWaits s gone q).Canon kw kt kr ks km kp
    kv ⟨xb, none, xl, xm, xh, xn, xc⟩ := by
  unfold endWaits
  try dsimp only
  repeat' first
    | with_reducible assumption
    | with_reducible apply canon_showWaits
    | with_reducible apply canon_ite
    | with_reducible apply canon_ite_s
    | with_reducible apply canon_ite_fst
    | with_reducible apply canon_ite_fst_s
    | simp only [canon_mkq_iff]

theorem canon_markJob {kw kt kr ks km kp kv xb xl xm xh xn xc} {s : Chip} {j : Job} {code : Nat} {info : Nat} (h_s :
    s.Canon kw kt kr ks km kp kv ⟨xb, none, xl, xm, xh, xn, xc⟩) : (markJob s j code info).Canon kw kt kr ks km kp kv
    ⟨xb, none, xl, xm, xh, xn, xc⟩ := by
  unfold markJob
  try dsimp only
  repeat' first
    | with_reducible assumption
    | with_reducible apply canon_setJob
    | with_reducible apply canon_cancelCmds
    | with_reducible apply canon_endWaits

theorem canon_faultOf {kw kt kr ks kp kv xn xc} {s : Chip} {pg : Page} {f : Option Field} {o : Origin} {j : Option
    Job} {code : Nat} {addr : Option (Nat × Nat)} (h_s : s.Canon kw kt kr ks none kp kv ⟨none, none, none, none, none,
    xn, xc⟩) : (faultOf s pg f o j code addr).Canon kw kt kr ks none kp kv ⟨none, none, none, none, none, xn, xc⟩ :=
    by
  unfold faultOf
  try dsimp only
  repeat' first
    | with_reducible assumption
    | with_reducible apply canon_wrAll
    | with_reducible apply canon_send
    | with_reducible apply canon_report
    | with_reducible apply canon_settle
    | with_reducible apply canon_markJob
    | with_reducible apply canon_ite
    | with_reducible apply canon_ite_s
    | with_reducible apply canon_ite_fst
    | with_reducible apply canon_ite_fst_s
    | simp only [canon_mk_iff]
    | split

theorem canon_faultJob {kw kt kr ks kp kv xn xc} {s : Chip} {pg : Page} {f : Option Field} {o : Origin} {code : Nat}
    {addr : Option (Nat × Nat)} (h_s : s.Canon kw kt kr ks none kp kv ⟨none, none, none, none, none, xn, xc⟩) :
    (faultJob s pg f o code addr).Canon kw kt kr ks none kp kv ⟨none, none, none, none, none, xn, xc⟩ := by
  unfold faultJob
  try dsimp only
  repeat' first
    | with_reducible assumption
    | with_reducible apply canon_faultOf

theorem canon_faultQueue {kw kt kr ks kp kv xn xc} {s : Chip} {o : Origin} {code : Nat} (h_s : s.Canon kw kt kr ks
    none kp kv ⟨none, none, none, none, none, xn, xc⟩) : (faultQueue s o code).Canon kw kt kr ks none kp kv ⟨none,
    none, none, none, none, xn, xc⟩ := by
  unfold faultQueue
  try dsimp only
  repeat' first
    | with_reducible assumption
    | with_reducible apply canon_faultJob

theorem canon_faultMem {kw kt kr ks kp kv xn xc} {s : Chip} {o : Origin} {code : Nat} {a : Nat} (h_s : s.Canon kw kt
    kr ks none kp kv ⟨none, none, none, none, none, xn, xc⟩) : (faultMem s o code a).Canon kw kt kr ks none kp kv
    ⟨none, none, none, none, none, xn, xc⟩ := by
  unfold faultMem
  try dsimp only
  repeat' first
    | with_reducible assumption
    | with_reducible apply canon_refuseAccess
    | with_reducible apply canon_faultJob

end Sys2Proof.Machine
end

