-- ==== Sys2Proof/Laws/CanonMemory.lean ====
section
/-! SUPPORT. The operations of Machine/Memory.lean keep the canonical form. -/
set_option linter.all false
namespace Sys2Proof.Machine

theorem canon_hbmRangeWrite {kw kt kr ks km kp kv kx} {s : Chip} {u : Nat} {p : Nat} {r : Nat} {v : Nat} (h_s :
    s.Canon kw kt kr ks km kp kv kx) : (hbmRangeWrite s u p r v).Canon kw kt kr ks km kp kv kx := by
  unfold hbmRangeWrite
  try dsimp only
  repeat' first
    | with_reducible assumption
    | with_reducible apply canon_wrAll
    | with_reducible apply canon_ite
    | with_reducible apply canon_ite_s
    | with_reducible apply canon_ite_fst
    | with_reducible apply canon_ite_fst_s
    | simp only [canon_mk_iff]
    | split
    | intro _

theorem canon_putSlice {kw kt km kp kv kx} {s : Chip} {n : Nat} {e : Slice} (h_s : s.Canon kw kt none none km kp kv
    kx) : (putSlice s n e).Canon kw kt none none km kp kv kx := by
  unfold putSlice
  try dsimp only
  repeat' first
    | with_reducible assumption
    | with_reducible apply canon_ite
    | with_reducible apply canon_ite_s
    | with_reducible apply canon_ite_fst
    | with_reducible apply canon_ite_fst_s
    | simp only [canon_mkrs_iff]
    | split
    | intro _

theorem canon_tbSliceWrite {kw kt km kp kv kx} {s : Chip} {v : Nat} (h_s : s.Canon kw kt none none km kp kv kx) :
    (tbSliceWrite s v).Canon kw kt none none km kp kv kx := by
  unfold tbSliceWrite
  try dsimp only
  repeat' first
    | with_reducible assumption
    | with_reducible apply canon_wr
    | with_reducible apply canon_putSlice
    | with_reducible apply canon_ite
    | with_reducible apply canon_ite_s
    | with_reducible apply canon_ite_fst
    | with_reducible apply canon_ite_fst_s
    | simp only [canon_mk_iff]
    | split
    | intro _

theorem canon_countStall {kw kt kr ks km kp kv kx} {s : Chip} {u : Nat} {p : Nat} {n : Nat} (h_s : s.Canon kw kt kr ks
    km kp kv kx) : (countStall s u p n).Canon kw kt kr ks km kp kv kx := by
  unfold countStall
  try dsimp only
  repeat' first
    | with_reducible assumption
    | with_reducible apply canon_bumpWrap
    | with_reducible apply canon_setGirth
    | with_reducible apply canon_ite
    | with_reducible apply canon_ite_s
    | with_reducible apply canon_ite_fst
    | with_reducible apply canon_ite_fst_s
    | simp only [canon_mk_iff]
    | split
    | intro _

theorem canon_partStall {kw kt kr ks km kp kv kx} {s : Chip} (h_s : s.Canon kw kt kr ks km kp kv kx) : (partStall
    s).1.Canon kw kt kr ks km kp kv kx := by
  unfold partStall
  try dsimp only
  repeat' first
    | with_reducible assumption
    | with_reducible apply canon_draw

theorem canon_serveNow {kw kt kr ks km kp kv kx} {s : Chip} {u : Nat} {p : Nat} (h_s : s.Canon kw kt kr ks km kp kv
    kx) : (serveNow s u p).Canon kw kt kr ks km kp kv kx := by
  unfold serveNow
  try dsimp only
  repeat' first
    | with_reducible assumption
    | with_reducible apply canon_girthServe
    | with_reducible apply canon_countStall
    | with_reducible apply canon_partStall
    | with_reducible apply canon_ite
    | with_reducible apply canon_ite_s
    | with_reducible apply canon_ite_fst
    | with_reducible apply canon_ite_fst_s
    | simp only [canon_mk_iff]
    | split
    | intro _

theorem canon_girthCfgWrite {kw kt kr ks km kp kv kx} {s : Chip} {u : Nat} {p : Nat} {v : Nat} (h_s : s.Canon kw kt kr
    ks km kp kv kx) : (girthCfgWrite s u p v).Canon kw kt kr ks km kp kv kx := by
  unfold girthCfgWrite
  try dsimp only
  repeat' first
    | with_reducible assumption
    | with_reducible apply canon_wrAll
    | with_reducible apply canon_setGirth
    | with_reducible apply canon_serveNow
    | with_reducible apply canon_ite
    | with_reducible apply canon_ite_s
    | with_reducible apply canon_ite_fst
    | with_reducible apply canon_ite_fst_s
    | simp only [canon_mk_iff]
    | split
    | intro _

theorem canon_stallCycles {kw kt kr ks km kp kv kx} {s : Chip} {g : Girth} (h_s : s.Canon kw kt kr ks km kp kv kx) :
    (stallCycles s g).1.Canon kw kt kr ks km kp kv kx := by
  unfold stallCycles
  try dsimp only
  repeat' first
    | with_reducible assumption
    | with_reducible apply canon_partStall
    | with_reducible apply canon_ite
    | with_reducible apply canon_ite_s
    | with_reducible apply canon_ite_fst
    | with_reducible apply canon_ite_fst_s
    | simp only [canon_mk_iff]
    | split
    | intro _

theorem canon_refillOne {kw kt kr ks km kp kv kx} {s : Chip} {u : Nat} {p : Nat} (h_s : s.Canon kw kt kr ks km kp kv
    kx) : (refillOne s u p).Canon kw kt kr ks km kp kv kx := by
  unfold refillOne
  try dsimp only
  repeat' first
    | with_reducible assumption
    | with_reducible apply canon_setGirth
    | with_reducible apply canon_girthServe
    | with_reducible apply canon_countStall
    | with_reducible apply canon_stallCycles

theorem canon_girthRefill {kw kt kr ks km kp kv kx} {s : Chip} (h_s : s.Canon kw kt kr ks km kp kv kx) : (girthRefill
    s).Canon kw kt kr ks km kp kv kx := by
  unfold girthRefill
  try dsimp only
  repeat' first
    | with_reducible assumption
    | with_reducible apply canon_refillOne
    | with_reducible apply canon_foldl
    | with_reducible apply canon_foldl_fst
    | with_reducible apply canon_foldl_rd
    | with_reducible apply canon_foldl_rd_fst
    | with_reducible apply canon_foldl_x
    | with_reducible apply canon_foldl_run_fst
    | with_reducible apply canon_ite
    | with_reducible apply canon_ite_s
    | with_reducible apply canon_ite_fst
    | with_reducible apply canon_ite_fst_s
    | simp only [canon_mk_iff]
    | split
    | intro _

theorem canon_retireAccept {kw kt ks km kp kv kx} {s : Chip} {u : Nat} (h_s : s.Canon kw kt none ks km kp kv kx) :
    (retireAccept s u).Canon kw kt none ks km kp kv kx := by
  unfold retireAccept
  try dsimp only
  repeat' first
    | with_reducible assumption
    | with_reducible apply canon_ite
    | with_reducible apply canon_ite_s
    | with_reducible apply canon_ite_fst
    | with_reducible apply canon_ite_fst_s
    | simp only [canon_mkr_iff]
    | split
    | intro _

theorem canon_retireCopyStart {kw kt kr ks km kp kv kx} {s : Chip} {u : Nat} (h_s : s.Canon kw kt kr ks km kp kv kx) :
    (retireCopyStart s u).Canon kw kt kr ks km kp kv kx := by
  unfold retireCopyStart
  try dsimp only
  repeat' first
    | with_reducible assumption
    | with_reducible apply canon_wrAll
    | with_reducible apply canon_ite
    | with_reducible apply canon_ite_s
    | with_reducible apply canon_ite_fst
    | with_reducible apply canon_ite_fst_s
    | simp only [canon_mk_iff]
    | split
    | intro _

theorem canon_showRetired {kw kt kr ks km kp kv kx} {s : Chip} {u : Nat} {ch : Nat} (h_s : s.Canon kw kt kr ks km kp
    kv kx) : (showRetired s u ch).Canon kw kt kr ks km kp kv kx := by
  unfold showRetired
  try dsimp only
  repeat' first
    | with_reducible assumption
    | with_reducible apply canon_wrAll

theorem canon_copyOver {kw kt km kp kv xb xq xl xm xn xc} {s : Chip} {u : Nat} (h_s : s.Canon kw kt none none km kp kv
    ⟨xb, xq, xl, xm, none, xn, xc⟩) : (copyOver s u).Canon kw kt none none km kp kv ⟨xb, xq, xl, xm, none, xn, xc⟩ :=
    by
  unfold copyOver
  try dsimp only
  repeat' first
    | with_reducible assumption
    | with_reducible apply canon_setFlag
    | with_reducible apply canon_send
    | with_reducible apply canon_showRetired
    | with_reducible apply canon_ite
    | with_reducible apply canon_ite_s
    | with_reducible apply canon_ite_fst
    | with_reducible apply canon_ite_fst_s
    | simp only [canon_mkrs_iff]

theorem canon_copyTo {kw kt kr ks kp kv xb xq xl xm xn xc} {s : Chip} {u : Nat} {n : Nat} (h_s : s.Canon kw kt kr ks
    none kp kv ⟨xb, xq, xl, xm, none, xn, xc⟩) : (copyTo s u n).Canon kw kt kr ks none kp kv ⟨xb, xq, xl, xm, none,
    xn, xc⟩ := by
  unfold copyTo
  try dsimp only
  repeat' first
    | with_reducible assumption
    | with_reducible apply canon_wr
    | with_reducible apply canon_lineError
    | with_reducible apply canon_foldl
    | with_reducible apply canon_foldl_fst
    | with_reducible apply canon_foldl_rd
    | with_reducible apply canon_foldl_rd_fst
    | with_reducible apply canon_foldl_x
    | with_reducible apply canon_foldl_run_fst
    | with_reducible apply canon_ite
    | with_reducible apply canon_ite_s
    | with_reducible apply canon_ite_fst
    | with_reducible apply canon_ite_fst_s
    | simp only [canon_mk_iff]
    | split
    | intro _

theorem canon_retireCopyComplete {kw kt kp kv xb xq xl xm xn xc} {s : Chip} {u : Nat} {n : Nat} (h_s : s.Canon kw kt
    none none none kp kv ⟨xb, xq, xl, xm, none, xn, xc⟩) : (retireCopyComplete s u n).Canon kw kt none none none kp kv
    ⟨xb, xq, xl, xm, none, xn, xc⟩ := by
  unfold retireCopyComplete
  try dsimp only
  repeat' first
    | with_reducible assumption
    | with_reducible apply canon_copyOver
    | with_reducible apply canon_copyTo
    | with_reducible apply canon_ite
    | with_reducible apply canon_ite_s
    | with_reducible apply canon_ite_fst
    | with_reducible apply canon_ite_fst_s
    | simp only [canon_mk_iff]
    | split
    | intro _

theorem canon_lineRead {kw kt kr ks kp kv xb xq xl xm xn xc} {s : Chip} {a : Nat} {met : Ecc} {who : Option Origin}
    (h_s : s.Canon kw kt kr ks none kp kv ⟨xb, xq, xl, xm, none, xn, xc⟩) : (lineRead s a met who).Canon kw kt kr ks
    none kp kv ⟨xb, xq, xl, xm, none, xn, xc⟩ := by
  unfold lineRead
  try dsimp only
  repeat' first
    | with_reducible assumption
    | with_reducible apply canon_lineError
    | with_reducible apply canon_readMeets
    | with_reducible apply canon_ite
    | with_reducible apply canon_ite_s
    | with_reducible apply canon_ite_fst
    | with_reducible apply canon_ite_fst_s
    | simp only [canon_mk_iff]
    | split
    | intro _

theorem canon_patrolLine {kw kr ks kp kv xb xq xl xm xn xc} {s : Chip} {u : Nat} {line : Nat} {start : Nat} {met :
    Ecc} (h_s : s.Canon kw none kr ks none kp kv ⟨xb, xq, xl, xm, none, xn, xc⟩) : (patrolLine s u line start
    met).Canon kw none kr ks none kp kv ⟨xb, xq, xl, xm, none, xn, xc⟩ := by
  unfold patrolLine
  try dsimp only
  repeat' first
    | with_reducible assumption
    | with_reducible apply canon_lineRead
    | with_reducible apply canon_ite
    | with_reducible apply canon_ite_s
    | with_reducible apply canon_ite_fst
    | with_reducible apply canon_ite_fst_s
    | simp only [canon_mkt_iff]
    | split
    | intro _

theorem canon_patrolNext {kw kr ks kp kv xb xq xl xm xn xc} {s : Chip} {u : Nat} {met : Ecc} (h_s : s.Canon kw none kr
    ks none kp kv ⟨xb, xq, xl, xm, none, xn, xc⟩) : (patrolNext s u met).Canon kw none kr ks none kp kv ⟨xb, xq, xl,
    xm, none, xn, xc⟩ := by
  unfold patrolNext
  try dsimp only
  repeat' first
    | with_reducible assumption
    | with_reducible apply canon_patrolLine
    | with_reducible apply canon_ite
    | with_reducible apply canon_ite_s
    | with_reducible apply canon_ite_fst
    | with_reducible apply canon_ite_fst_s
    | simp only [canon_mk_iff]
    | split
    | intro _

theorem canon_patrolScrubRead {kw kr ks kp kv xb xq xl xm xn xc} {s : Chip} {u : Nat} {met : Ecc} (h_s : s.Canon kw
    none kr ks none kp kv ⟨xb, xq, xl, xm, none, xn, xc⟩) : (patrolScrubRead s u met).Canon kw none kr ks none kp kv
    ⟨xb, xq, xl, xm, none, xn, xc⟩ := by
  unfold patrolScrubRead
  try dsimp only
  repeat' first
    | with_reducible assumption
    | with_reducible apply canon_patrolNext
    | with_reducible apply canon_ite
    | with_reducible apply canon_ite_s
    | with_reducible apply canon_ite_fst
    | with_reducible apply canon_ite_fst_s
    | simp only [canon_mk_iff]
    | split
    | intro _

theorem canon_showTierB {kw kt kr ks km kp kv kx} {s : Chip} {v : Nat} (h_s : s.Canon kw kt kr ks km kp kv kx) :
    (showTierB s v).Canon kw kt kr ks km kp kv kx := by
  unfold showTierB
  try dsimp only
  repeat' first
    | with_reducible assumption
    | with_reducible apply canon_wr
    | with_reducible apply canon_foldl
    | with_reducible apply canon_foldl_fst
    | with_reducible apply canon_foldl_rd
    | with_reducible apply canon_foldl_rd_fst
    | with_reducible apply canon_foldl_x
    | with_reducible apply canon_foldl_run_fst
    | with_reducible apply canon_ite
    | with_reducible apply canon_ite_s
    | with_reducible apply canon_ite_fst
    | with_reducible apply canon_ite_fst_s
    | simp only [canon_mk_iff]
    | split
    | intro _

theorem canon_tbSelfRefreshEntry {kw kt kr ks km kp kv kx} {s : Chip} (h_s : s.Canon kw kt kr ks km kp kv kx) :
    (tbSelfRefreshEntry s).Canon kw kt kr ks km kp kv kx := by
  unfold tbSelfRefreshEntry
  try dsimp only
  repeat' first
    | with_reducible assumption
    | with_reducible apply canon_showTierB
    | with_reducible apply canon_ite
    | with_reducible apply canon_ite_s
    | with_reducible apply canon_ite_fst
    | with_reducible apply canon_ite_fst_s
    | simp only [canon_mk_iff]
    | split
    | intro _

theorem canon_memReady {kw kt kr ks km kp kv kx} {s : Chip} (h_s : s.Canon kw kt kr ks km kp kv kx) : (memReady
    s).Canon kw kt kr ks km kp kv kx := by
  unfold memReady
  try dsimp only
  repeat' first
    | with_reducible assumption
    | with_reducible apply canon_wr
    | with_reducible apply canon_ite
    | with_reducible apply canon_ite_s
    | with_reducible apply canon_ite_fst
    | with_reducible apply canon_ite_fst_s
    | simp only [canon_mk_iff]
    | split
    | intro _

theorem canon_tierInitComplete {kw kt kr ks kp kv kx} {s : Chip} {tierB : Bool} (h_s : s.Canon kw kt kr ks none kp kv
    kx) : (tierInitComplete s tierB).Canon kw kt kr ks none kp kv kx := by
  unfold tierInitComplete
  try dsimp only
  repeat' first
    | with_reducible assumption
    | with_reducible apply canon_memZero
    | with_reducible apply canon_showTierB
    | with_reducible apply canon_memReady
    | with_reducible apply canon_ite
    | with_reducible apply canon_ite_s
    | with_reducible apply canon_ite_fst
    | with_reducible apply canon_ite_fst_s
    | simp only [canon_mk_iff]
    | split
    | intro _

theorem canon_showScrubs {kw kt kr ks km kp kv kx} {s : Chip} (h_s : s.Canon kw kt kr ks km kp kv kx) : (showScrubs
    s).Canon kw kt kr ks km kp kv kx := by
  unfold showScrubs
  try dsimp only
  repeat' first
    | with_reducible assumption
    | with_reducible apply canon_wrAll
    | with_reducible apply canon_foldl
    | with_reducible apply canon_foldl_fst
    | with_reducible apply canon_foldl_rd
    | with_reducible apply canon_foldl_rd_fst
    | with_reducible apply canon_foldl_x
    | with_reducible apply canon_foldl_run_fst
    | with_reducible apply canon_ite
    | with_reducible apply canon_ite_s
    | with_reducible apply canon_ite_fst
    | with_reducible apply canon_ite_fst_s
    | simp only [canon_mk_iff]
    | split
    | intro _

theorem canon_scrubUnits {kw kt kr ks kp kv xb xq xl xm xn xc} {n : Nat} {e : Chip × Scrub} {u : Nat} (h_e : e.1.Canon
    kw kt kr ks none kp kv ⟨xb, xq, xl, xm, none, xn, xc⟩) : (scrubUnits n e u).1.Canon kw kt kr ks none kp kv ⟨xb,
    xq, xl, xm, none, xn, xc⟩ := by
  unfold scrubUnits
  try dsimp only
  repeat' first
    | with_reducible assumption
    | with_reducible apply canon_setFlag
    | with_reducible apply canon_unitTouch
    | with_reducible apply canon_memZero
    | with_reducible apply canon_foldl
    | with_reducible apply canon_foldl_fst
    | with_reducible apply canon_foldl_rd
    | with_reducible apply canon_foldl_rd_fst
    | with_reducible apply canon_foldl_x
    | with_reducible apply canon_foldl_run_fst
    | with_reducible apply canon_ite
    | with_reducible apply canon_ite_s
    | with_reducible apply canon_ite_fst
    | with_reducible apply canon_ite_fst_s
    | simp only [canon_mk_iff]
    | split
    | intro _

theorem canon_scrubSlicesOn {kw kt ks kp kv xb xq xl xm xn xc} {z0 : Nat} {z1 : Chip × Scrub} (h_z1 : z1.1.Canon kw kt
    none ks none kp kv ⟨xb, xq, xl, xm, none, xn, xc⟩) : (scrubSlicesOn z0 z1).1.Canon kw kt none ks none kp kv ⟨xb,
    xq, xl, xm, none, xn, xc⟩ := by
  induction z0 generalizing z1 with
  | zero =>
      unfold scrubSlicesOn
      try dsimp only
      repeat' first
        | with_reducible assumption
  | succ k ih =>
      unfold scrubSlicesOn
      try dsimp only
      repeat' first
        | with_reducible assumption
        | with_reducible apply ih
        | with_reducible apply canon_setFlag
        | with_reducible apply canon_unitTouch
        | with_reducible apply canon_memZero
        | with_reducible apply canon_ite
        | with_reducible apply canon_ite_s
        | with_reducible apply canon_ite_fst
        | with_reducible apply canon_ite_fst_s
        | simp only [canon_mkr_iff]
        | split
        | intro _

theorem canon_scrubStep {kw kt ks kp kv xb xq xl xm xn xc} {s : Chip} {x : Scrub} {z0 : ScrubStep} (h_s : s.Canon kw
    kt none ks none kp kv ⟨xb, xq, xl, xm, none, xn, xc⟩) : (scrubStep s x z0).1.Canon kw kt none ks none kp kv ⟨xb,
    xq, xl, xm, none, xn, xc⟩ := by
  unfold scrubStep
  try dsimp only
  repeat' first
    | with_reducible assumption
    | with_reducible apply canon_scrubUnits
    | with_reducible apply canon_scrubSlicesOn
    | with_reducible apply canon_foldl
    | with_reducible apply canon_foldl_fst
    | with_reducible apply canon_foldl_rd
    | with_reducible apply canon_foldl_rd_fst
    | with_reducible apply canon_foldl_x
    | with_reducible apply canon_foldl_run_fst
    | with_reducible apply canon_ite
    | with_reducible apply canon_ite_s
    | with_reducible apply canon_ite_fst
    | with_reducible apply canon_ite_fst_s
    | simp only [canon_mk_iff]
    | split

theorem canon_scrubStart {kw kt kr ks km kp kv xb xq xl xm xn xc} {s : Chip} {p : Nat} {release : Bool} (h_s : s.Canon
    kw kt kr ks km kp kv ⟨xb, xq, xl, xm, none, xn, xc⟩) : (scrubStart s p release).Canon kw kt kr ks km kp kv ⟨xb,
    xq, xl, xm, none, xn, xc⟩ := by
  unfold scrubStart
  try dsimp only
  repeat' first
    | with_reducible assumption
    | with_reducible apply canon_unitTouch
    | with_reducible apply canon_showScrubs
    | with_reducible apply canon_foldl
    | with_reducible apply canon_foldl_fst
    | with_reducible apply canon_foldl_rd
    | with_reducible apply canon_foldl_rd_fst
    | with_reducible apply canon_foldl_x
    | with_reducible apply canon_foldl_run_fst
    | with_reducible apply canon_ite
    | with_reducible apply canon_ite_s
    | with_reducible apply canon_ite_fst
    | with_reducible apply canon_ite_fst_s
    | simp only [canon_mkh_iff]
    | split
    | intro _

end Sys2Proof.Machine
end

