-- ==== Sys2Proof/Laws/CanonFence.lean ====
section
/-! SUPPORT. The operations of Machine/Fence.lean keep the canonical form. -/
set_option linter.all false
namespace Sys2Proof.Machine

theorem canon_chainWait {kw kt kr ks km kp kv xb xl xm xh xn xc} {s : Chip} {b : Nat} {j : Job} {l : List Cmd} (h_s :
    s.Canon kw kt kr ks km kp kv ⟨xb, none, xl, xm, xh, xn, xc⟩) : (chainWait s b j l).Canon kw kt kr ks km kp kv ⟨xb,
    none, xl, xm, xh, xn, xc⟩ := by
  unfold chainWait
  try dsimp only
  repeat' first
    | with_reducible assumption
    | with_reducible apply canon_setJob
    | with_reducible apply canon_ite
    | with_reducible apply canon_ite_s
    | with_reducible apply canon_ite_fst
    | with_reducible apply canon_ite_fst_s
    | simp only [canon_mkq_iff]

theorem canon_reissue {kw kt kr ks km kp kv xb xl xm xn xc} {s : Chip} {b : Nat} {q : Nat} {j : Job} {l : List Cmd}
    (h_s : s.Canon kw kt kr ks km kp kv ⟨xb, none, xl, xm, none, xn, xc⟩) : (reissue s b q j l).Canon kw kt kr ks km
    kp kv ⟨xb, none, xl, xm, none, xn, xc⟩ := by
  unfold reissue
  try dsimp only
  repeat' first
    | with_reducible assumption
    | with_reducible apply canon_bump
    | with_reducible apply canon_setFlag
    | with_reducible apply canon_setJob
    | with_reducible apply canon_chainWait
    | with_reducible apply canon_ite
    | with_reducible apply canon_ite_s
    | with_reducible apply canon_ite_fst
    | with_reducible apply canon_ite_fst_s
    | simp only [canon_mkq_iff]
    | split

theorem canon_chainFault {kw kt kr ks kp kv xn xc} {s : Chip} {b : Nat} {q : Nat} {j : Job} (h_s : s.Canon kw kt kr ks
    none kp kv ⟨none, none, none, none, none, xn, xc⟩) : (chainFault s b q j).Canon kw kt kr ks none kp kv ⟨none,
    none, none, none, none, xn, xc⟩ := by
  unfold chainFault
  try dsimp only
  repeat' first
    | with_reducible assumption
    | with_reducible apply canon_bump
    | with_reducible apply canon_setJob
    | with_reducible apply canon_faultOf
    | with_reducible apply canon_ite
    | with_reducible apply canon_ite_s
    | with_reducible apply canon_ite_fst
    | with_reducible apply canon_ite_fst_s
    | simp only [canon_mkq_iff]

theorem canon_chainAct {kw kt kr ks kp kv xn xc} {s : Chip} {b : Nat} {j : Job} {l : List Cmd} (h_s : s.Canon kw kt kr
    ks none kp kv ⟨none, none, none, none, none, xn, xc⟩) : (chainAct s b j l).Canon kw kt kr ks none kp kv ⟨none,
    none, none, none, none, xn, xc⟩ := by
  unfold chainAct
  try dsimp only
  repeat' first
    | with_reducible assumption
    | with_reducible apply canon_reissue
    | with_reducible apply canon_chainFault
    | with_reducible apply canon_ite
    | with_reducible apply canon_ite_s
    | with_reducible apply canon_ite_fst
    | with_reducible apply canon_ite_fst_s
    | simp only [canon_mk_iff]
    | split
    | intro _

theorem canon_retryChains {kw kt kr ks kp kv xn xc} {s : Chip} (h_s : s.Canon kw kt kr ks none kp kv ⟨none, none,
    none, none, none, xn, xc⟩) : (retryChains s).Canon kw kt kr ks none kp kv ⟨none, none, none, none, none, xn, xc⟩
    := by
  unfold retryChains
  try dsimp only
  repeat' first
    | with_reducible assumption
    | with_reducible apply canon_chainAct
    | with_reducible apply canon_foldl
    | with_reducible apply canon_foldl_fst
    | with_reducible apply canon_foldl_rd
    | with_reducible apply canon_foldl_rd_fst
    | with_reducible apply canon_foldl_x
    | with_reducible apply canon_foldl_run_fst
    | with_reducible apply canon_ite
    | with_reducible apply canon_ite_s
    | with_reducible apply canon_ite_fst
    | with_reducible apply canon_ite_fst_s
    | simp only [canon_mkq_iff]
    | split
    | intro _

theorem canon_joinChain {kw kt kr ks kp kv xn xc} {s : Chip} {b : Nat} {id : Nat} {index : Nat} (h_s : s.Canon kw kt
    kr ks none kp kv ⟨none, none, none, none, none, xn, xc⟩) : (joinChain s b id index).Canon kw kt kr ks none kp kv
    ⟨none, none, none, none, none, xn, xc⟩ := by
  unfold joinChain
  try dsimp only
  repeat' first
    | with_reducible assumption
    | with_reducible apply canon_chainAct
    | with_reducible apply canon_ite
    | with_reducible apply canon_ite_s
    | with_reducible apply canon_ite_fst
    | with_reducible apply canon_ite_fst_s
    | simp only [canon_mk_iff]
    | split
    | intro _

theorem canon_joinHomeless {kw kt kr ks kp kv xn xc} {s : Chip} (h_s : s.Canon kw kt kr ks none kp kv ⟨none, none,
    none, none, none, xn, xc⟩) : (joinHomeless s).Canon kw kt kr ks none kp kv ⟨none, none, none, none, none, xn, xc⟩
    := by
  unfold joinHomeless
  try dsimp only
  repeat' first
    | with_reducible assumption
    | with_reducible apply canon_joinChain
    | with_reducible apply canon_foldl
    | with_reducible apply canon_foldl_fst
    | with_reducible apply canon_foldl_rd
    | with_reducible apply canon_foldl_rd_fst
    | with_reducible apply canon_foldl_x
    | with_reducible apply canon_foldl_run_fst
    | with_reducible apply canon_ite
    | with_reducible apply canon_ite_s
    | with_reducible apply canon_ite_fst
    | with_reducible apply canon_ite_fst_s
    | simp only [canon_mk_iff]
    | split
    | intro _

theorem canon_fenceBlock {kw kt kr ks kp kv xn xc} {s : Chip} {b : Nat} (h_s : s.Canon kw kt kr ks none kp kv ⟨none,
    none, none, none, none, xn, xc⟩) : (fenceBlock s b).Canon kw kt kr ks none kp kv ⟨none, none, none, none, none,
    xn, xc⟩ := by
  unfold fenceBlock
  try dsimp only
  repeat' first
    | with_reducible assumption
    | with_reducible apply canon_wr
    | with_reducible apply canon_bump
    | with_reducible apply canon_setFlag
    | with_reducible apply canon_loseSets
    | with_reducible apply canon_leaveAccWait
    | with_reducible apply canon_chainAct
    | with_reducible apply canon_joinHomeless
    | with_reducible apply canon_foldl
    | with_reducible apply canon_foldl_fst
    | with_reducible apply canon_foldl_rd
    | with_reducible apply canon_foldl_rd_fst
    | with_reducible apply canon_foldl_x
    | with_reducible apply canon_foldl_run_fst
    | with_reducible apply canon_ite
    | with_reducible apply canon_ite_s
    | with_reducible apply canon_ite_fst
    | with_reducible apply canon_ite_fst_s
    | simp only [canon_mk_iff]
    | split
    | intro _

end Sys2Proof.Machine
end

