-- ==== Sys2Proof/Laws/CanonPads.lean ====
section
/-! SUPPORT. The operations of Machine/Pads.lean keep the canonical form. -/
set_option linter.all false
namespace Sys2Proof.Machine

theorem canon_powerUpBank {kw kt kr ks km kv kx} {s : Chip} {b : Nat} (h_s : s.Canon kw kt kr ks km none kv kx) :
    (powerUpBank s b).Canon kw kt kr ks km none kv kx := by
  unfold powerUpBank
  try dsimp only
  repeat' first
    | with_reducible assumption
    | with_reducible apply canon_wrAll
    | with_reducible apply canon_setBank
    | with_reducible apply canon_setBank
    | exact bankWf_nil _ rfl
    | exact bankWf_bankZero _ _ _ (by assumption)
    | exact bankWf_same (by assumption) rfl rfl rfl
    | exact bankWf_same (bankWf_bankPut _ _ _ (by assumption)) rfl rfl rfl
    | with_reducible apply canon_ite
    | with_reducible apply canon_ite_s
    | with_reducible apply canon_ite_fst
    | with_reducible apply canon_ite_fst_s
    | simp only [canon_mk_iff]
    | split
    | intro _

theorem canon_bankTouch {kw kt kr ks km kv kx} {s : Chip} {b : Nat} (h_s : s.Canon kw kt kr ks km none kv kx) :
    (bankTouch s b).Canon kw kt kr ks km none kv kx := by
  unfold bankTouch
  try dsimp only
  repeat' first
    | with_reducible assumption
    | with_reducible apply canon_wr
    | with_reducible apply canon_powerUpBank
    | with_reducible apply canon_ite
    | with_reducible apply canon_ite_s
    | with_reducible apply canon_ite_fst
    | with_reducible apply canon_ite_fst_s
    | simp only [canon_mk_iff]
    | split
    | intro _

theorem canon_fenceBank {kw kt kr ks kp kv xn xc} {s : Chip} {b : Nat} (h_s : s.Canon kw kt kr ks none kp kv ⟨none,
    none, none, none, none, xn, xc⟩) : (fenceBank s b).Canon kw kt kr ks none kp kv ⟨none, none, none, none, none, xn,
    xc⟩ := by
  unfold fenceBank
  try dsimp only
  repeat' first
    | with_reducible assumption
    | with_reducible apply canon_wr
    | with_reducible apply canon_report
    | with_reducible apply canon_fenceBlock

theorem canon_wordError {kw kt kr ks kv xn xc} {s : Chip} {b : Nat} {off : Nat} {ue : Bool} {who : Option Origin} (h_s
    : s.Canon kw kt kr ks none none kv ⟨none, none, none, none, none, xn, xc⟩) : (wordError s b off ue who).Canon kw
    kt kr ks none none kv ⟨none, none, none, none, none, xn, xc⟩ := by
  unfold wordError
  try dsimp only
  repeat' first
    | with_reducible assumption
    | with_reducible apply canon_bump
    | with_reducible apply canon_countEvent
    | with_reducible apply canon_report
    | with_reducible apply canon_setBank
    | with_reducible apply canon_fenceBank
    | with_reducible apply canon_setBank
    | exact bankWf_nil _ rfl
    | exact bankWf_bankZero _ _ _ (by assumption)
    | exact bankWf_same (by assumption) rfl rfl rfl
    | exact bankWf_same (bankWf_bankPut _ _ _ (by assumption)) rfl rfl rfl
    | with_reducible apply canon_ite
    | with_reducible apply canon_ite_s
    | with_reducible apply canon_ite_fst
    | with_reducible apply canon_ite_fst_s
    | simp only [canon_mk_iff]
    | split
    | intro _

theorem canon_injectWord {kw kt kr ks kv xn xc} {s : Chip} {b : Nat} {off : Nat} {who : Option Origin} (h_s : s.Canon
    kw kt kr ks none none kv ⟨none, none, none, none, none, xn, xc⟩) : (injectWord s b off who).Canon kw kt kr ks none
    none kv ⟨none, none, none, none, none, xn, xc⟩ := by
  unfold injectWord
  try dsimp only
  repeat' first
    | with_reducible assumption
    | with_reducible apply canon_wr
    | with_reducible apply canon_fenceBank
    | with_reducible apply canon_wordError
    | with_reducible apply canon_ite
    | with_reducible apply canon_ite_s
    | with_reducible apply canon_ite_fst
    | with_reducible apply canon_ite_fst_s
    | simp only [canon_mk_iff]
    | split
    | intro _

theorem canon_bankRun {kw kt kr ks kv xn xc} {s : Chip} {b : Nat} {off : Nat} {len : Nat} {who : Option Origin} (h_s :
    s.Canon kw kt kr ks none none kv ⟨none, none, none, none, none, xn, xc⟩) : (bankRun s b off len who).1.Canon kw kt
    kr ks none none kv ⟨none, none, none, none, none, xn, xc⟩ := by
  unfold bankRun
  try dsimp only
  repeat' first
    | with_reducible assumption
    | with_reducible apply canon_bankTouch
    | with_reducible apply canon_wordError
    | with_reducible apply canon_injectWord
    | with_reducible apply canon_foldl
    | with_reducible apply canon_foldl_fst
    | with_reducible apply canon_foldl_rd
    | with_reducible apply canon_foldl_rd_fst
    | with_reducible apply canon_foldl_x
    | with_reducible apply canon_foldl_run_fst
    | with_reducible apply canon_ite
    | with_reducible apply canon_ite_s
    | with_reducible apply canon_ite_fst
    | with_reducible apply canon_ite_fst_s
    | simp only [canon_mk_iff]
    | split
    | intro _

theorem canon_bankMeets {kw kt kr ks kv xn xc} {s : Chip} {b : Nat} {off : Nat} {len : Nat} {who : Option Origin} (h_s
    : s.Canon kw kt kr ks none none kv ⟨none, none, none, none, none, xn, xc⟩) : (bankMeets s b off len who).Canon kw
    kt kr ks none none kv ⟨none, none, none, none, none, xn, xc⟩ := by
  unfold bankMeets
  try dsimp only
  repeat' first
    | with_reducible assumption
    | with_reducible apply canon_bankRun

theorem canon_faultPad {kw kt kr ks kp kv xn xc} {s : Chip} {o : Origin} {code : Nat} {r : Nat} {a : Nat} (h_s :
    s.Canon kw kt kr ks none kp kv ⟨none, none, none, none, none, xn, xc⟩) : (faultPad s o code r a).Canon kw kt kr ks
    none kp kv ⟨none, none, none, none, none, xn, xc⟩ := by
  unfold faultPad
  try dsimp only
  repeat' first
    | with_reducible assumption
    | with_reducible apply canon_faultJob

theorem canon_padRun {kw kt kr ks kv xn xc} {s : Chip} {r : Nat} {a : Nat} {len : Nat} {who : Option Origin} (h_s :
    s.Canon kw kt kr ks none none kv ⟨none, none, none, none, none, xn, xc⟩) : (padRun s r a len who).1.Canon kw kt kr
    ks none none kv ⟨none, none, none, none, none, xn, xc⟩ := by
  unfold padRun
  try dsimp only
  repeat' first
    | with_reducible assumption
    | with_reducible apply canon_bankRun
    | with_reducible apply canon_foldl
    | with_reducible apply canon_foldl_fst
    | with_reducible apply canon_foldl_rd
    | with_reducible apply canon_foldl_rd_fst
    | with_reducible apply canon_foldl_x
    | with_reducible apply canon_foldl_run_fst
    | with_reducible apply canon_ite
    | with_reducible apply canon_ite_s
    | with_reducible apply canon_ite_fst
    | with_reducible apply canon_ite_fst_s
    | simp only [canon_mk_iff]
    | split
    | intro _

theorem canon_padMeets {kw kt kr ks kv xn xc} {s : Chip} {r : Nat} {a : Nat} {len : Nat} {who : Option Origin} (h_s :
    s.Canon kw kt kr ks none none kv ⟨none, none, none, none, none, xn, xc⟩) : (padMeets s r a len who).Canon kw kt kr
    ks none none kv ⟨none, none, none, none, none, xn, xc⟩ := by
  unfold padMeets
  try dsimp only
  repeat' first
    | with_reducible assumption
    | with_reducible apply canon_padRun

theorem canon_narrowRun {kw kt kr ks kv xn xc} {s : Chip} {r : Nat} {a : Nat} {len : Nat} {who : Option Origin} (h_s :
    s.Canon kw kt kr ks none none kv ⟨none, none, none, none, none, xn, xc⟩) : (narrowRun s r a len who).1.Canon kw kt
    kr ks none none kv ⟨none, none, none, none, none, xn, xc⟩ := by
  unfold narrowRun
  try dsimp only
  repeat' first
    | with_reducible assumption
    | with_reducible apply canon_bankMeets
    | with_reducible apply canon_foldl
    | with_reducible apply canon_foldl_fst
    | with_reducible apply canon_foldl_rd
    | with_reducible apply canon_foldl_rd_fst
    | with_reducible apply canon_foldl_x
    | with_reducible apply canon_foldl_run_fst
    | with_reducible apply canon_ite
    | with_reducible apply canon_ite_s
    | with_reducible apply canon_ite_fst
    | with_reducible apply canon_ite_fst_s
    | simp only [canon_mk_iff]
    | split
    | intro _

theorem canon_bankWrite {kw kt kr ks kv xn xc} {s : Chip} {b : Nat} {off : Nat} {l : List Byte} {bad : Bool} {who :
    Option Origin} (h_s : s.Canon kw kt kr ks none none kv ⟨none, none, none, none, none, xn, xc⟩) : (bankWrite s b
    off l bad who).Canon kw kt kr ks none none kv ⟨none, none, none, none, none, xn, xc⟩ := by
  unfold bankWrite
  try dsimp only
  repeat' first
    | with_reducible assumption
    | with_reducible apply canon_wr
    | with_reducible apply canon_setBank
    | with_reducible apply canon_bankTouch
    | with_reducible apply canon_bankMeets
    | with_reducible apply canon_foldl
    | with_reducible apply canon_foldl_fst
    | with_reducible apply canon_foldl_rd
    | with_reducible apply canon_foldl_rd_fst
    | with_reducible apply canon_foldl_x
    | with_reducible apply canon_foldl_run_fst
    | with_reducible apply canon_setBank
    | exact bankWf_nil _ rfl
    | exact bankWf_bankZero _ _ _ (by assumption)
    | exact bankWf_same (by assumption) rfl rfl rfl
    | exact bankWf_same (bankWf_bankPut _ _ _ (by assumption)) rfl rfl rfl
    | with_reducible apply canon_ite
    | with_reducible apply canon_ite_s
    | with_reducible apply canon_ite_fst
    | with_reducible apply canon_ite_fst_s
    | simp only [canon_mk_iff]
    | split
    | intro _

theorem canon_padPut {kw kt kr ks kv xn xc} {s : Chip} {r : Nat} {a : Nat} {l : List Byte} {bad : Bool} {who : Option
    Origin} (h_s : s.Canon kw kt kr ks none none kv ⟨none, none, none, none, none, xn, xc⟩) : (padPut s r a l bad
    who).Canon kw kt kr ks none none kv ⟨none, none, none, none, none, xn, xc⟩ := by
  unfold padPut
  try dsimp only
  repeat' first
    | with_reducible assumption
    | with_reducible apply canon_bankWrite
    | with_reducible apply canon_foldl
    | with_reducible apply canon_foldl_fst
    | with_reducible apply canon_foldl_rd
    | with_reducible apply canon_foldl_rd_fst
    | with_reducible apply canon_foldl_x
    | with_reducible apply canon_foldl_run_fst
    | with_reducible apply canon_ite
    | with_reducible apply canon_ite_s
    | with_reducible apply canon_ite_fst
    | with_reducible apply canon_ite_fst_s
    | simp only [canon_mk_iff]
    | split
    | intro _

theorem canon_padMark {kw kt kr ks km kv kx} {s : Chip} {r : Nat} {a : Nat} {len : Nat} (h_s : s.Canon kw kt kr ks km
    none kv kx) : (padMark s r a len).Canon kw kt kr ks km none kv kx := by
  unfold padMark
  try dsimp only
  repeat' first
    | with_reducible assumption
    | with_reducible apply canon_setBank
    | with_reducible apply canon_foldl
    | with_reducible apply canon_foldl_fst
    | with_reducible apply canon_foldl_rd
    | with_reducible apply canon_foldl_rd_fst
    | with_reducible apply canon_foldl_x
    | with_reducible apply canon_foldl_run_fst
    | with_reducible apply canon_setBank
    | exact bankWf_nil _ rfl
    | exact bankWf_bankZero _ _ _ (by assumption)
    | exact bankWf_same (by assumption) rfl rfl rfl
    | exact bankWf_same (bankWf_bankPut _ _ _ (by assumption)) rfl rfl rfl
    | with_reducible apply canon_ite
    | with_reducible apply canon_ite_s
    | with_reducible apply canon_ite_fst
    | with_reducible apply canon_ite_fst_s
    | simp only [canon_mk_iff]
    | split
    | intro _

end Sys2Proof.Machine
end

