-- ==== Sys2Proof/Laws/CanonSync.lean ====
section
/-! SUPPORT. The operations of Machine/Sync.lean keep the canonical form. -/
set_option linter.all false
namespace Sys2Proof.Machine

theorem canon_retireCmd {kw kt kr ks kp kv xn xc} {s : Chip} {id : Nat} {i : Nat} (h_s : s.Canon kw kt kr ks none kp
    kv ⟨none, none, none, none, none, xn, xc⟩) : (retireCmd s id i).Canon kw kt kr ks none kp kv ⟨none, none, none,
    none, none, xn, xc⟩ := by
  unfold retireCmd
  try dsimp only
  repeat' first
    | with_reducible assumption
    | with_reducible apply canon_setJob
    | with_reducible apply canon_stopProgress
    | with_reducible apply canon_settle
    | with_reducible apply canon_ite
    | with_reducible apply canon_ite_s
    | with_reducible apply canon_ite_fst
    | with_reducible apply canon_ite_fst_s
    | simp only [canon_mk_iff]
    | split

theorem canon_semSet {kw kt kr ks km kp kv xb xl xm xh xn xc} {s : Chip} {n : Nat} {v : Nat} (h_s : s.Canon kw kt kr
    ks km kp kv ⟨xb, none, xl, xm, xh, xn, xc⟩) : (semSet s n v).Canon kw kt kr ks km kp kv ⟨xb, none, xl, xm, xh, xn,
    xc⟩ := by
  unfold semSet
  try dsimp only
  repeat' first
    | with_reducible assumption
    | with_reducible apply canon_ite
    | with_reducible apply canon_ite_s
    | with_reducible apply canon_ite_fst
    | with_reducible apply canon_ite_fst_s
    | simp only [canon_mkq_iff]

theorem canon_satisfy {kw kt kr ks km kp kv xb xl xm xh xn xc} {s : Chip} {w : Wait} (h_s : s.Canon kw kt kr ks km kp
    kv ⟨xb, none, xl, xm, xh, xn, xc⟩) : (satisfy s w).Canon kw kt kr ks km kp kv ⟨xb, none, xl, xm, xh, xn, xc⟩ := by
  unfold satisfy
  try dsimp only
  repeat' first
    | with_reducible assumption
    | with_reducible apply canon_finish
    | with_reducible apply canon_showWaits
    | with_reducible apply canon_ite
    | with_reducible apply canon_ite_s
    | with_reducible apply canon_ite_fst
    | with_reducible apply canon_ite_fst_s
    | simp only [canon_mkq_iff]

theorem canon_semExamine {kw kt kr ks km kp kv xb xl xm xh xn xc} {s : Chip} {n : Nat} (h_s : s.Canon kw kt kr ks km
    kp kv ⟨xb, none, xl, xm, xh, xn, xc⟩) : (semExamine s n).Canon kw kt kr ks km kp kv ⟨xb, none, xl, xm, xh, xn, xc⟩
    := by
  unfold semExamine
  try dsimp only
  repeat' first
    | with_reducible assumption
    | with_reducible apply canon_semSet
    | with_reducible apply canon_satisfy
    | with_reducible apply canon_foldl
    | with_reducible apply canon_foldl_fst
    | with_reducible apply canon_foldl_rd
    | with_reducible apply canon_foldl_rd_fst
    | with_reducible apply canon_foldl_x
    | with_reducible apply canon_foldl_run_fst
    | with_reducible apply canon_ite
    | with_reducible apply canon_ite_s
    | with_reducible apply canon_ite_fst
    | with_reducible apply canon_ite_fst_s
    | simp only [canon_mk_iff]
    | split
    | intro _

theorem canon_semAdd {kw kt kr ks km kp kv xb xl xm xh xn xc} {s : Chip} {n : Nat} {v : Nat} (h_s : s.Canon kw kt kr
    ks km kp kv ⟨xb, none, xl, xm, xh, xn, xc⟩) : (semAdd s n v).Canon kw kt kr ks km kp kv ⟨xb, none, xl, xm, xh, xn,
    xc⟩ := by
  unfold semAdd
  try dsimp only
  repeat' first
    | with_reducible assumption
    | with_reducible apply canon_semSet
    | with_reducible apply canon_semExamine

theorem canon_signalSem {kw kt kr ks kp kv xn xc} {s : Chip} {o : Origin} {n : Nat} {v : Nat} {set : Bool} (h_s :
    s.Canon kw kt kr ks none kp kv ⟨none, none, none, none, none, xn, xc⟩) : (signalSem s o n v set).Canon kw kt kr ks
    none kp kv ⟨none, none, none, none, none, xn, xc⟩ := by
  unfold signalSem
  try dsimp only
  repeat' first
    | with_reducible assumption
    | with_reducible apply canon_faultQueue
    | with_reducible apply canon_semSet
    | with_reducible apply canon_semExamine
    | with_reducible apply canon_semAdd
    | with_reducible apply canon_ite
    | with_reducible apply canon_ite_s
    | with_reducible apply canon_ite_fst
    | with_reducible apply canon_ite_fst_s
    | simp only [canon_mk_iff]
    | split
    | intro _

theorem canon_syncDone {kw kt kr ks km kp kv xb xl xm xh xn xc} {s : Chip} {o : Origin} {op : Nat} {b : Body} (h_s :
    s.Canon kw kt kr ks km kp kv ⟨xb, none, xl, xm, xh, xn, xc⟩) : (syncDone s o op b).Canon kw kt kr ks km kp kv ⟨xb,
    none, xl, xm, xh, xn, xc⟩ := by
  unfold syncDone
  try dsimp only
  repeat' first
    | with_reducible assumption
    | with_reducible apply canon_finish
    | with_reducible apply canon_charge

theorem canon_nop {kw kt kr ks kp kv xn xc} {s : Chip} {o : Origin} (h_s : s.Canon kw kt kr ks none kp kv ⟨none, none,
    none, none, none, xn, xc⟩) : (nop s o).Canon kw kt kr ks none kp kv ⟨none, none, none, none, none, xn, xc⟩ := by
  unfold nop
  try dsimp only
  repeat' first
    | with_reducible assumption
    | with_reducible apply canon_charge
    | with_reducible apply canon_retireCmd
    | with_reducible apply canon_ite
    | with_reducible apply canon_ite_s
    | with_reducible apply canon_ite_fst
    | with_reducible apply canon_ite_fst_s
    | simp only [canon_mk_iff]
    | split

theorem canon_semSignal {kw kt kr ks kp kv xn xc} {s : Chip} {o : Origin} {b : Body} (h_s : s.Canon kw kt kr ks none
    kp kv ⟨none, none, none, none, none, xn, xc⟩) : (semSignal s o b).Canon kw kt kr ks none kp kv ⟨none, none, none,
    none, none, xn, xc⟩ := by
  unfold semSignal
  try dsimp only
  repeat' first
    | with_reducible assumption
    | with_reducible apply canon_faultQueue
    | with_reducible apply canon_signalSem
    | with_reducible apply canon_syncDone
    | with_reducible apply canon_ite
    | with_reducible apply canon_ite_s
    | with_reducible apply canon_ite_fst
    | with_reducible apply canon_ite_fst_s
    | simp only [canon_mk_iff]
    | split
    | intro _

theorem canon_addWait {kw kt kr ks km kp kv xb xl xm xh xn xc} {s : Chip} {o : Origin} {b : Body} {on : WaitOn} (h_s :
    s.Canon kw kt kr ks km kp kv ⟨xb, none, xl, xm, xh, xn, xc⟩) : (addWait s o b on).Canon kw kt kr ks km kp kv ⟨xb,
    none, xl, xm, xh, xn, xc⟩ := by
  unfold addWait
  try dsimp only
  repeat' first
    | with_reducible assumption
    | with_reducible apply canon_showWaits
    | with_reducible apply canon_ite
    | with_reducible apply canon_ite_s
    | with_reducible apply canon_ite_fst
    | with_reducible apply canon_ite_fst_s
    | simp only [canon_mkq_iff]

theorem canon_semWait {kw kt kr ks kp kv xn xc} {s : Chip} {o : Origin} {b : Body} (h_s : s.Canon kw kt kr ks none kp
    kv ⟨none, none, none, none, none, xn, xc⟩) : (semWait s o b).Canon kw kt kr ks none kp kv ⟨none, none, none, none,
    none, xn, xc⟩ := by
  unfold semWait
  try dsimp only
  repeat' first
    | with_reducible assumption
    | with_reducible apply canon_charge
    | with_reducible apply canon_faultQueue
    | with_reducible apply canon_semSet
    | with_reducible apply canon_syncDone
    | with_reducible apply canon_addWait
    | with_reducible apply canon_ite
    | with_reducible apply canon_ite_s
    | with_reducible apply canon_ite_fst
    | with_reducible apply canon_ite_fst_s
    | simp only [canon_mk_iff]
    | split
    | intro _

theorem canon_barSet {kw kt kr ks km kp kv xb xl xm xh xn xc} {s : Chip} {n : Nat} {x : Bar} (h_s : s.Canon kw kt kr
    ks km kp kv ⟨xb, none, xl, xm, xh, xn, xc⟩) : (barSet s n x).Canon kw kt kr ks km kp kv ⟨xb, none, xl, xm, xh, xn,
    xc⟩ := by
  unfold barSet
  try dsimp only
  repeat' first
    | with_reducible assumption
    | with_reducible apply canon_ite
    | with_reducible apply canon_ite_s
    | with_reducible apply canon_ite_fst
    | with_reducible apply canon_ite_fst_s
    | simp only [canon_mkq_iff]

theorem canon_barAdvance {kw kt kr ks km kp kv xb xl xm xh xn xc} {s : Chip} {n : Nat} (h_s : s.Canon kw kt kr ks km
    kp kv ⟨xb, none, xl, xm, xh, xn, xc⟩) : (barAdvance s n).Canon kw kt kr ks km kp kv ⟨xb, none, xl, xm, xh, xn, xc⟩
    := by
  unfold barAdvance
  try dsimp only
  repeat' first
    | with_reducible assumption
    | with_reducible apply canon_satisfy
    | with_reducible apply canon_barSet
    | with_reducible apply canon_foldl
    | with_reducible apply canon_foldl_fst
    | with_reducible apply canon_foldl_rd
    | with_reducible apply canon_foldl_rd_fst
    | with_reducible apply canon_foldl_x
    | with_reducible apply canon_foldl_run_fst
    | with_reducible apply canon_ite
    | with_reducible apply canon_ite_s
    | with_reducible apply canon_ite_fst
    | with_reducible apply canon_ite_fst_s
    | simp only [canon_mk_iff]
    | split
    | intro _

theorem canon_barArrive {kw kt kr ks km kp kv xb xl xm xh xn xc} {s : Chip} {n : Nat} {target : Nat} (h_s : s.Canon kw
    kt kr ks km kp kv ⟨xb, none, xl, xm, xh, xn, xc⟩) : (barArrive s n target).Canon kw kt kr ks km kp kv ⟨xb, none,
    xl, xm, xh, xn, xc⟩ := by
  unfold barArrive
  try dsimp only
  repeat' first
    | with_reducible assumption
    | with_reducible apply canon_barSet
    | with_reducible apply canon_barAdvance
    | with_reducible apply canon_ite
    | with_reducible apply canon_ite_s
    | with_reducible apply canon_ite_fst
    | with_reducible apply canon_ite_fst_s
    | simp only [canon_mk_iff]
    | split
    | intro _

theorem canon_barWait {kw kt kr ks km kp kv xb xl xm xh xn xc} {s : Chip} {o : Origin} {b : Body} {n : Nat} {g : Nat}
    {wait : Bool} (h_s : s.Canon kw kt kr ks km kp kv ⟨xb, none, xl, xm, xh, xn, xc⟩) : (barWait s o b n g wait).Canon
    kw kt kr ks km kp kv ⟨xb, none, xl, xm, xh, xn, xc⟩ := by
  unfold barWait
  try dsimp only
  repeat' first
    | with_reducible assumption
    | with_reducible apply canon_charge
    | with_reducible apply canon_syncDone
    | with_reducible apply canon_addWait
    | with_reducible apply canon_ite
    | with_reducible apply canon_ite_s
    | with_reducible apply canon_ite_fst
    | with_reducible apply canon_ite_fst_s
    | simp only [canon_mk_iff]
    | split
    | intro _

theorem canon_barMeet {kw kt kr ks kp kv xn xc} {s : Chip} {o : Origin} {b : Body} (h_s : s.Canon kw kt kr ks none kp
    kv ⟨none, none, none, none, none, xn, xc⟩) : (barMeet s o b).Canon kw kt kr ks none kp kv ⟨none, none, none, none,
    none, xn, xc⟩ := by
  unfold barMeet
  try dsimp only
  repeat' first
    | with_reducible assumption
    | with_reducible apply canon_faultQueue
    | with_reducible apply canon_syncDone
    | with_reducible apply canon_barArrive
    | with_reducible apply canon_barWait
    | with_reducible apply canon_ite
    | with_reducible apply canon_ite_s
    | with_reducible apply canon_ite_fst
    | with_reducible apply canon_ite_fst_s
    | simp only [canon_mk_iff]
    | split
    | intro _

theorem canon_barrier {kw kt kr ks kp kv xn xc} {s : Chip} {o : Origin} {b : Body} (h_s : s.Canon kw kt kr ks none kp
    kv ⟨none, none, none, none, none, xn, xc⟩) : (barrier s o b).Canon kw kt kr ks none kp kv ⟨none, none, none, none,
    none, xn, xc⟩ := by
  unfold barrier
  try dsimp only
  repeat' first
    | with_reducible assumption
    | with_reducible apply canon_barWait
    | with_reducible apply canon_barMeet
    | with_reducible apply canon_ite
    | with_reducible apply canon_ite_s
    | with_reducible apply canon_ite_fst
    | with_reducible apply canon_ite_fst_s
    | simp only [canon_mk_iff]
    | split
    | intro _

theorem canon_leaveWait {kw kt kr ks km kp kv xb xl xm xh xn xc} {s : Chip} {w : Wait} (h_s : s.Canon kw kt kr ks km
    kp kv ⟨xb, none, xl, xm, xh, xn, xc⟩) : (leaveWait s w).Canon kw kt kr ks km kp kv ⟨xb, none, xl, xm, xh, xn, xc⟩
    := by
  unfold leaveWait
  try dsimp only
  repeat' first
    | with_reducible assumption
    | with_reducible apply canon_showWaits
    | with_reducible apply canon_ite
    | with_reducible apply canon_ite_s
    | with_reducible apply canon_ite_fst
    | with_reducible apply canon_ite_fst_s
    | simp only [canon_mkq_iff]

theorem canon_waitTimeout {kw kt kr ks kp kv xn xc} {s : Chip} {i : Nat} (h_s : s.Canon kw kt kr ks none kp kv ⟨none,
    none, none, none, none, xn, xc⟩) : (waitTimeout s i).Canon kw kt kr ks none kp kv ⟨none, none, none, none, none,
    xn, xc⟩ := by
  unfold waitTimeout
  try dsimp only
  repeat' first
    | with_reducible assumption
    | with_reducible apply canon_bump
    | with_reducible apply canon_handTo
    | with_reducible apply canon_faultQueue
    | with_reducible apply canon_leaveWait
    | with_reducible apply canon_ite
    | with_reducible apply canon_ite_s
    | with_reducible apply canon_ite_fst
    | with_reducible apply canon_ite_fst_s
    | simp only [canon_mk_iff]
    | split
    | intro _

theorem canon_eventHost {kw kt kr ks kp kv xn xc} {s : Chip} {o : Origin} {b : Body} {host : HostReply} (h_s : s.Canon
    kw kt kr ks none kp kv ⟨none, none, none, none, none, xn, xc⟩) : (eventHost s o b host).Canon kw kt kr ks none kp
    kv ⟨none, none, none, none, none, xn, xc⟩ := by
  unfold eventHost
  try dsimp only
  repeat' first
    | with_reducible assumption
    | with_reducible apply canon_emit
    | with_reducible apply canon_msix
    | with_reducible apply canon_hostError
    | with_reducible apply canon_memPut
    | with_reducible apply canon_admitted
    | with_reducible apply canon_faultQueue
    | with_reducible apply canon_faultMem
    | with_reducible apply canon_syncDone
    | with_reducible apply canon_ite
    | with_reducible apply canon_ite_s
    | with_reducible apply canon_ite_fst
    | with_reducible apply canon_ite_fst_s
    | simp only [canon_mk_iff]
    | split
    | intro _

theorem canon_noteStop {kw kt kr ks km kp kv xb xl xm xh xn xc} {s : Chip} {o : Origin} {b : Body} (h_s : s.Canon kw
    kt kr ks km kp kv ⟨xb, none, xl, xm, xh, xn, xc⟩) : (noteStop s o b).Canon kw kt kr ks km kp kv ⟨xb, none, xl, xm,
    xh, xn, xc⟩ := by
  unfold noteStop
  try dsimp only
  repeat' first
    | with_reducible assumption
    | with_reducible apply canon_ite
    | with_reducible apply canon_ite_s
    | with_reducible apply canon_ite_fst
    | with_reducible apply canon_ite_fst_s
    | simp only [canon_mkq_iff]

theorem canon_weighEnough {kw kt kr ks km kp kv xb xl xm xh xn xc} {s : Chip} {o : Origin} (h_s : s.Canon kw kt kr ks
    km kp kv ⟨xb, none, xl, xm, xh, xn, xc⟩) : (weighEnough s o).Canon kw kt kr ks km kp kv ⟨xb, none, xl, xm, xh, xn,
    xc⟩ := by
  unfold weighEnough
  try dsimp only
  repeat' first
    | with_reducible assumption
    | with_reducible apply canon_stopQueues
    | with_reducible apply canon_charge
    | with_reducible apply canon_syncDone
    | with_reducible apply canon_noteStop
    | with_reducible apply canon_ite
    | with_reducible apply canon_ite_s
    | with_reducible apply canon_ite_fst
    | with_reducible apply canon_ite_fst_s
    | simp only [canon_mk_iff]
    | split
    | intro _

theorem canon_sqDoorbell {kw kt kr ks km kp kv kx} {s : Chip} {via : Via} {p : Nat} {n : Nat} {v : Nat} (h_s : s.Canon
    kw kt kr ks km kp kv kx) : (sqDoorbell s via p n v).Canon kw kt kr ks km kp kv kx := by
  unfold sqDoorbell
  try dsimp only
  repeat' first
    | with_reducible assumption
    | with_reducible apply canon_wr
    | with_reducible apply canon_bump
    | with_reducible apply canon_regionCall
    | with_reducible apply canon_ite
    | with_reducible apply canon_ite_s
    | with_reducible apply canon_ite_fst
    | with_reducible apply canon_ite_fst_s
    | simp only [canon_mk_iff]
    | split
    | intro _

theorem canon_enableQueue {kw kt kr ks kp kv xb xl xm xn xc} {s : Chip} {p : Nat} {n : Nat} (h_s : s.Canon kw kt kr ks
    none kp kv ⟨xb, none, xl, xm, none, xn, xc⟩) : (enableQueue s p n).Canon kw kt kr ks none kp kv ⟨xb, none, xl, xm,
    none, xn, xc⟩ := by
  unfold enableQueue
  try dsimp only
  repeat' first
    | with_reducible assumption
    | with_reducible apply canon_wr
    | with_reducible apply canon_wrAll
    | with_reducible apply canon_showBound
    | with_reducible apply canon_drainQueue
    | with_reducible apply canon_ite
    | with_reducible apply canon_ite_s
    | with_reducible apply canon_ite_fst
    | with_reducible apply canon_ite_fst_s
    | simp only [canon_mk_iff]
    | split
    | intro _

theorem canon_setPending {kw kt kr ks km kp kv kx} {s : Chip} {p : Nat} {n : Nat} {on : Bool} (h_s : s.Canon kw kt kr
    ks km kp kv kx) : (setPending s p n on).Canon kw kt kr ks km kp kv kx := by
  unfold setPending
  try dsimp only
  repeat' first
    | with_reducible assumption
    | with_reducible apply canon_wr
    | with_reducible apply canon_ite
    | with_reducible apply canon_ite_s
    | with_reducible apply canon_ite_fst
    | with_reducible apply canon_ite_fst_s
    | simp only [canon_mk_iff]
    | split
    | intro _

theorem canon_queueEnable {kw kt kr ks kp kv xb xl xm xn xc} {s : Chip} {via : Via} {p : Nat} {n : Nat} (h_s : s.Canon
    kw kt kr ks none kp kv ⟨xb, none, xl, xm, none, xn, xc⟩) : (queueEnable s via p n).Canon kw kt kr ks none kp kv
    ⟨xb, none, xl, xm, none, xn, xc⟩ := by
  unfold queueEnable
  try dsimp only
  repeat' first
    | with_reducible assumption
    | with_reducible apply canon_wr
    | with_reducible apply canon_bump
    | with_reducible apply canon_enableQueue
    | with_reducible apply canon_setPending
    | with_reducible apply canon_ite
    | with_reducible apply canon_ite_s
    | with_reducible apply canon_ite_fst
    | with_reducible apply canon_ite_fst_s
    | simp only [canon_mk_iff]
    | split
    | intro _

theorem canon_queueResume {kw kt kr ks km kp kv kx} {s : Chip} {via : Via} {p : Nat} {n : Nat} (h_s : s.Canon kw kt kr
    ks km kp kv kx) : (queueResume s via p n).Canon kw kt kr ks km kp kv kx := by
  unfold queueResume
  try dsimp only
  repeat' first
    | with_reducible assumption
    | with_reducible apply canon_wr
    | with_reducible apply canon_showStopping
    | with_reducible apply canon_ite
    | with_reducible apply canon_ite_s
    | with_reducible apply canon_ite_fst
    | with_reducible apply canon_ite_fst_s
    | simp only [canon_mk_iff]
    | split
    | intro _

theorem canon_cancelPending {kw kt kr ks km kp kv xm xh xn xc} {s : Chip} {j : Job} (h_s : s.Canon kw kt kr ks km kp
    kv ⟨none, none, none, xm, xh, xn, xc⟩) : (cancelPending s j).Canon kw kt kr ks km kp kv ⟨none, none, none, xm, xh,
    xn, xc⟩ := by
  unfold cancelPending
  try dsimp only
  repeat' first
    | with_reducible assumption
    | with_reducible apply canon_endAccWaits
    | with_reducible apply canon_endWaits
    | with_reducible apply canon_ite
    | with_reducible apply canon_ite_s
    | with_reducible apply canon_ite_fst
    | with_reducible apply canon_ite_fst_s
    | simp only [canon_mkql_iff]

theorem canon_abortJob {kw kt kr ks kp kv xn xc} {s : Chip} {j : Job} {status : Nat} (h_s : s.Canon kw kt kr ks none
    kp kv ⟨none, none, none, none, none, xn, xc⟩) : (abortJob s j status).Canon kw kt kr ks none kp kv ⟨none, none,
    none, none, none, xn, xc⟩ := by
  unfold abortJob
  try dsimp only
  repeat' first
    | with_reducible assumption
    | with_reducible apply canon_setJob
    | with_reducible apply canon_cancelCmds
    | with_reducible apply canon_settle
    | with_reducible apply canon_cancelPending

theorem canon_beginReset {kw kt kr ks kp kv xn xc} {s : Chip} {p : Nat} {n : Nat} {status : Nat} (h_s : s.Canon kw kt
    kr ks none kp kv ⟨none, none, none, none, none, xn, xc⟩) : (beginReset s p n status).Canon kw kt kr ks none kp kv
    ⟨none, none, none, none, none, xn, xc⟩ := by
  unfold beginReset
  try dsimp only
  repeat' first
    | with_reducible assumption
    | with_reducible apply canon_wrAll
    | with_reducible apply canon_resetProgress
    | with_reducible apply canon_abortJob
    | with_reducible apply canon_foldl
    | with_reducible apply canon_foldl_fst
    | with_reducible apply canon_foldl_rd
    | with_reducible apply canon_foldl_rd_fst
    | with_reducible apply canon_foldl_x
    | with_reducible apply canon_foldl_run_fst
    | with_reducible apply canon_ite
    | with_reducible apply canon_ite_s
    | with_reducible apply canon_ite_fst
    | with_reducible apply canon_ite_fst_s
    | simp only [canon_mk_iff]
    | split
    | intro _

theorem canon_resetQueue {kw kt kr ks kp kv xn xc} {s : Chip} {p : Nat} {n : Nat} {status : Nat} (h_s : s.Canon kw kt
    kr ks none kp kv ⟨none, none, none, none, none, xn, xc⟩) : (resetQueue s p n status).Canon kw kt kr ks none kp kv
    ⟨none, none, none, none, none, xn, xc⟩ := by
  unfold resetQueue
  try dsimp only
  repeat' first
    | with_reducible assumption
    | with_reducible apply canon_wrAll
    | with_reducible apply canon_resetProgress
    | with_reducible apply canon_endJob
    | with_reducible apply canon_foldl
    | with_reducible apply canon_foldl_fst
    | with_reducible apply canon_foldl_rd
    | with_reducible apply canon_foldl_rd_fst
    | with_reducible apply canon_foldl_x
    | with_reducible apply canon_foldl_run_fst
    | with_reducible apply canon_ite
    | with_reducible apply canon_ite_s
    | with_reducible apply canon_ite_fst
    | with_reducible apply canon_ite_fst_s
    | simp only [canon_mk_iff]
    | split
    | intro _

theorem canon_sqCqHeadWrite {kw kt kr ks kp kv xb xl xm xn xc} {s : Chip} {via : Via} {p : Nat} {n : Nat} {v : Nat}
    (h_s : s.Canon kw kt kr ks none kp kv ⟨xb, none, xl, xm, none, xn, xc⟩) : (sqCqHeadWrite s via p n v).Canon kw kt
    kr ks none kp kv ⟨xb, none, xl, xm, none, xn, xc⟩ := by
  unfold sqCqHeadWrite
  try dsimp only
  repeat' first
    | with_reducible assumption
    | with_reducible apply canon_wr
    | with_reducible apply canon_drainQueue
    | with_reducible apply canon_ite
    | with_reducible apply canon_ite_s
    | with_reducible apply canon_ite_fst
    | with_reducible apply canon_ite_fst_s
    | simp only [canon_mk_iff]
    | split
    | intro _

theorem canon_sqHostSignal {kw kt kr ks km kp kv xb xl xm xh xn xc} {s : Chip} {via : Via} {p : Nat} {n : Nat} {v :
    Nat} (h_s : s.Canon kw kt kr ks km kp kv ⟨xb, none, xl, xm, xh, xn, xc⟩) : (sqHostSignal s via p n v).Canon kw kt
    kr ks km kp kv ⟨xb, none, xl, xm, xh, xn, xc⟩ := by
  unfold sqHostSignal
  try dsimp only
  repeat' first
    | with_reducible assumption
    | with_reducible apply canon_bump
    | with_reducible apply canon_semAdd
    | with_reducible apply canon_ite
    | with_reducible apply canon_ite_s
    | with_reducible apply canon_ite_fst
    | with_reducible apply canon_ite_fst_s
    | simp only [canon_mk_iff]
    | split
    | intro _

end Sys2Proof.Machine
end

