-- ==== Sys2Proof/Laws/CanonDma.lean ====
section
/-! SUPPORT. The operations of Machine/Dma.lean keep the canonical form. -/
set_option linter.all false
namespace Sys2Proof.Machine

theorem canon_dmaDone {kw kt kr ks km kp kv xb xl xm xh xn xc} {s : Chip} {o : Origin} {op : Nat} {b : Body} (h_s :
    s.Canon kw kt kr ks km kp kv ⟨xb, none, xl, xm, xh, xn, xc⟩) : (dmaDone s o op b).Canon kw kt kr ks km kp kv ⟨xb,
    none, xl, xm, xh, xn, xc⟩ := by
  unfold dmaDone
  try dsimp only
  repeat' first
    | with_reducible assumption
    | with_reducible apply canon_draw
    | with_reducible apply canon_finish
    | with_reducible apply canon_charge

theorem canon_startFills {kw kt kr ks km kv kx} {s : Chip} {o : Origin} {b : Body} (h_s : s.Canon kw kt kr ks km none
    kv kx) : (startFills s o b).Canon kw kt kr ks km none kv kx := by
  unfold startFills
  try dsimp only
  repeat' first
    | with_reducible assumption
    | with_reducible apply canon_wr
    | with_reducible apply canon_bankTouch
    | with_reducible apply canon_foldl
    | with_reducible apply canon_foldl_fst
    | with_reducible apply canon_foldl_rd
    | with_reducible apply canon_foldl_rd_fst
    | with_reducible apply canon_foldl_x
    | with_reducible apply canon_foldl_run_fst
    | with_reducible apply canon_ite
    | with_reducible apply canon_ite_s
    | with_reducible apply canon_ite_fst
    | with_reducible apply canon_ite_fst_s
    | simp only [canon_mk_iff]
    | split
    | intro _

theorem canon_zeroFill {kw kt kr ks kv xn xc} {s : Chip} {o : Origin} {b : Body} (h_s : s.Canon kw kt kr ks none none
    kv ⟨none, none, none, none, none, xn, xc⟩) : (zeroFill s o b).Canon kw kt kr ks none none kv ⟨none, none, none,
    none, none, xn, xc⟩ := by
  unfold zeroFill
  try dsimp only
  repeat' first
    | with_reducible assumption
    | with_reducible apply canon_faultQueue
    | with_reducible apply canon_faultPad
    | with_reducible apply canon_dmaDone
    | with_reducible apply canon_startFills
    | with_reducible apply canon_ite
    | with_reducible apply canon_ite_s
    | with_reducible apply canon_ite_fst
    | with_reducible apply canon_ite_fst_s
    | simp only [canon_mk_iff]
    | split
    | intro _

theorem canon_fillBank {kw kt kr ks km kv kx} {s : Chip} {f : BankFill} (h_s : s.Canon kw kt kr ks km none kv kx) :
    (fillBank s f).Canon kw kt kr ks km none kv kx := by
  unfold fillBank
  try dsimp only
  repeat' first
    | with_reducible assumption
    | with_reducible apply canon_wr
    | with_reducible apply canon_setBank
    | with_reducible apply canon_bankTouch
    | with_reducible apply canon_setBank
    | exact bankWf_nil _ rfl
    | exact bankWf_bankZero _ _ _ (by assumption)
    | exact bankWf_same (by assumption) rfl rfl rfl
    | exact bankWf_same (bankWf_bankPut _ _ _ (by assumption)) rfl rfl rfl
    | with_reducible apply canon_ite
    | with_reducible apply canon_ite_s
    | with_reducible apply canon_ite_fst
    | with_reducible apply canon_ite_fst_s
    | simp only [canon_mk_iff]
    | split
    | intro _

theorem canon_fillOver {kw kt kr ks km kv kx} {s : Chip} {bank : Nat} {f : BankFill} (h_s : s.Canon kw kt kr ks km
    none kv kx) : (fillOver s bank f).Canon kw kt kr ks km none kv kx := by
  unfold fillOver
  try dsimp only
  repeat' first
    | with_reducible assumption
    | with_reducible apply canon_wr
    | with_reducible apply canon_fillBank
    | with_reducible apply canon_ite
    | with_reducible apply canon_ite_s
    | with_reducible apply canon_ite_fst
    | with_reducible apply canon_ite_fst_s
    | simp only [canon_mk_iff]
    | split
    | intro _

theorem canon_fillRefused {kw kt kr ks kp kv xn xc} {s : Chip} {bank : Nat} {f : BankFill} (h_s : s.Canon kw kt kr ks
    none kp kv ⟨none, none, none, none, none, xn, xc⟩) : (fillRefused s bank f).Canon kw kt kr ks none kp kv ⟨none,
    none, none, none, none, xn, xc⟩ := by
  unfold fillRefused
  try dsimp only
  repeat' first
    | with_reducible assumption
    | with_reducible apply canon_wr
    | with_reducible apply canon_handTo
    | with_reducible apply canon_faultPad
    | with_reducible apply canon_dmaDone
    | with_reducible apply canon_foldl
    | with_reducible apply canon_foldl_fst
    | with_reducible apply canon_foldl_rd
    | with_reducible apply canon_foldl_rd_fst
    | with_reducible apply canon_foldl_x
    | with_reducible apply canon_foldl_run_fst
    | with_reducible apply canon_ite
    | with_reducible apply canon_ite_s
    | with_reducible apply canon_ite_fst
    | with_reducible apply canon_ite_fst_s
    | simp only [canon_mk_iff]
    | split
    | intro _

theorem canon_fillComplete {kw kt kr ks kv xn xc} {s : Chip} {bank : Nat} (h_s : s.Canon kw kt kr ks none none kv
    ⟨none, none, none, none, none, xn, xc⟩) : (fillComplete s bank).Canon kw kt kr ks none none kv ⟨none, none, none,
    none, none, xn, xc⟩ := by
  unfold fillComplete
  try dsimp only
  repeat' first
    | with_reducible assumption
    | with_reducible apply canon_setFlag
    | with_reducible apply canon_handTo
    | with_reducible apply canon_dmaDone
    | with_reducible apply canon_fillOver
    | with_reducible apply canon_fillRefused
    | with_reducible apply canon_ite
    | with_reducible apply canon_ite_s
    | with_reducible apply canon_ite_fst
    | with_reducible apply canon_ite_fst_s
    | simp only [canon_mk_iff]
    | split
    | intro _

theorem canon_startRegFill {kw kt kr ks km kp kv kx} {s : Chip} {bank : Nat} (h_s : s.Canon kw kt kr ks km kp kv kx) :
    (startRegFill s bank).Canon kw kt kr ks km kp kv kx := by
  unfold startRegFill
  try dsimp only
  repeat' first
    | with_reducible assumption
    | with_reducible apply canon_wrAll
    | with_reducible apply canon_ite
    | with_reducible apply canon_ite_s
    | with_reducible apply canon_ite_fst
    | with_reducible apply canon_ite_fst_s
    | simp only [canon_mk_iff]

theorem canon_zeroFillGo {kw kt kr ks km kp kv xb xq xl xm xn xc} {s : Chip} {bank : Nat} (h_s : s.Canon kw kt kr ks
    km kp kv ⟨xb, xq, xl, xm, none, xn, xc⟩) : (zeroFillGo s bank).Canon kw kt kr ks km kp kv ⟨xb, xq, xl, xm, none,
    xn, xc⟩ := by
  unfold zeroFillGo
  try dsimp only
  repeat' first
    | with_reducible assumption
    | with_reducible apply canon_wr
    | with_reducible apply canon_setFlag
    | with_reducible apply canon_startRegFill
    | with_reducible apply canon_ite
    | with_reducible apply canon_ite_s
    | with_reducible apply canon_ite_fst
    | with_reducible apply canon_ite_fst_s
    | simp only [canon_mk_iff]
    | split
    | intro _

theorem canon_meetWord {kw kt kr ks kv xn xc} {s : Chip} {b : Nat} {off : Nat} {met : Ecc} (h_s : s.Canon kw kt kr ks
    none none kv ⟨none, none, none, none, none, xn, xc⟩) : (meetWord s b off met).Canon kw kt kr ks none none kv
    ⟨none, none, none, none, none, xn, xc⟩ := by
  unfold meetWord
  try dsimp only
  repeat' first
    | with_reducible assumption
    | with_reducible apply canon_wordError
    | with_reducible apply canon_ite
    | with_reducible apply canon_ite_s
    | with_reducible apply canon_ite_fst
    | with_reducible apply canon_ite_fst_s
    | simp only [canon_mk_iff]
    | split

theorem canon_grantAccess {kw kr ks kv xn xc} {s : Chip} {b : Nat} {a : BankAccess} {met : Ecc} (h_s : s.Canon kw none
    kr ks none none kv ⟨none, none, none, none, none, xn, xc⟩) : (grantAccess s b a met).Canon kw none kr ks none none
    kv ⟨none, none, none, none, none, xn, xc⟩ := by
  unfold grantAccess
  try dsimp only
  repeat' first
    | with_reducible assumption
    | with_reducible apply canon_wr
    | with_reducible apply canon_bump
    | with_reducible apply canon_bump64
    | with_reducible apply canon_bankTouch
    | with_reducible apply canon_meetWord
    | with_reducible apply canon_ite
    | with_reducible apply canon_ite_s
    | with_reducible apply canon_ite_fst
    | with_reducible apply canon_ite_fst_s
    | simp only [canon_mkt_iff]
    | split
    | intro _

theorem canon_bankGrant {kw kr ks kv xn xc} {s : Chip} {b : Nat} {l : List BankAccess} {met : Ecc} (h_s : s.Canon kw
    none kr ks none none kv ⟨none, none, none, none, none, xn, xc⟩) : (bankGrant s b l met).Canon kw none kr ks none
    none kv ⟨none, none, none, none, none, xn, xc⟩ := by
  unfold bankGrant
  try dsimp only
  repeat' first
    | with_reducible assumption
    | with_reducible apply canon_grantAccess
    | with_reducible apply canon_ite
    | with_reducible apply canon_ite_s
    | with_reducible apply canon_ite_fst
    | with_reducible apply canon_ite_fst_s
    | simp only [canon_mk_iff]
    | split
    | intro _

theorem canon_scrubNext {kw kr ks kv xn xc} {s : Chip} {b : Nat} {met : Ecc} (h_s : s.Canon kw none kr ks none none kv
    ⟨none, none, none, none, none, xn, xc⟩) : (scrubNext s b met).Canon kw none kr ks none none kv ⟨none, none, none,
    none, none, xn, xc⟩ := by
  unfold scrubNext
  try dsimp only
  repeat' first
    | with_reducible assumption
    | with_reducible apply canon_wordError
    | with_reducible apply canon_injectWord
    | with_reducible apply canon_meetWord
    | with_reducible apply canon_foldl
    | with_reducible apply canon_foldl_fst
    | with_reducible apply canon_foldl_rd
    | with_reducible apply canon_foldl_rd_fst
    | with_reducible apply canon_foldl_x
    | with_reducible apply canon_foldl_run_fst
    | with_reducible apply canon_ite
    | with_reducible apply canon_ite_s
    | with_reducible apply canon_ite_fst
    | with_reducible apply canon_ite_fst_s
    | simp only [canon_mkt_iff]
    | split
    | intro _

theorem canon_bankScrubRead {kw kr ks kv xn xc} {s : Chip} {b : Nat} {met : Ecc} (h_s : s.Canon kw none kr ks none
    none kv ⟨none, none, none, none, none, xn, xc⟩) : (bankScrubRead s b met).Canon kw none kr ks none none kv ⟨none,
    none, none, none, none, xn, xc⟩ := by
  unfold bankScrubRead
  try dsimp only
  repeat' first
    | with_reducible assumption
    | with_reducible apply canon_scrubNext
    | with_reducible apply canon_ite
    | with_reducible apply canon_ite_s
    | with_reducible apply canon_ite_fst
    | with_reducible apply canon_ite_fst_s
    | simp only [canon_mk_iff]
    | split
    | intro _

theorem canon_faultPlace {kw kt kr ks kp kv xn xc} {s : Chip} {o : Origin} {x : Place} {code : Nat} {n : Nat} (h_s :
    s.Canon kw kt kr ks none kp kv ⟨none, none, none, none, none, xn, xc⟩) : (faultPlace s o x code n).Canon kw kt kr
    ks none kp kv ⟨none, none, none, none, none, xn, xc⟩ := by
  unfold faultPlace
  try dsimp only
  repeat' first
    | with_reducible assumption
    | with_reducible apply canon_faultMem
    | with_reducible apply canon_faultPad
    | with_reducible apply canon_ite
    | with_reducible apply canon_ite_s
    | with_reducible apply canon_ite_fst
    | with_reducible apply canon_ite_fst_s
    | simp only [canon_mk_iff]
    | split
    | intro _

theorem canon_faultHost {kw kt kr ks kp kv xn xc} {s : Chip} {o : Origin} (h_s : s.Canon kw kt kr ks none kp kv ⟨none,
    none, none, none, none, xn, xc⟩) : (faultHost s o).Canon kw kt kr ks none kp kv ⟨none, none, none, none, none, xn,
    xc⟩ := by
  unfold faultHost
  try dsimp only
  repeat' first
    | with_reducible assumption
    | with_reducible apply canon_hostError
    | with_reducible apply canon_faultQueue

theorem canon_placeRead {kw kt kr ks kv xn xc} {s : Chip} {o : Origin} {x : Place} {n : Nat} {host : List Byte} (h_s :
    s.Canon kw kt kr ks none none kv ⟨none, none, none, none, none, xn, xc⟩) : (placeRead s o x n host).1.Canon kw kt
    kr ks none none kv ⟨none, none, none, none, none, xn, xc⟩ := by
  unfold placeRead
  try dsimp only
  repeat' first
    | with_reducible assumption
    | with_reducible apply canon_readMeets
    | with_reducible apply canon_chargeRun
    | with_reducible apply canon_padMeets
    | with_reducible apply canon_ite
    | with_reducible apply canon_ite_s
    | with_reducible apply canon_ite_fst
    | with_reducible apply canon_ite_fst_s
    | simp only [canon_mk_iff]
    | split

theorem canon_placeMarked {kw kt kr ks kv xn xc} {s : Chip} {o : Origin} {x : Place} {l : List Byte} {marks : List
    (Nat × Nat)} (h_s : s.Canon kw kt kr ks none none kv ⟨none, none, none, none, none, xn, xc⟩) : (placeMarked s o x
    l marks).Canon kw kt kr ks none none kv ⟨none, none, none, none, none, xn, xc⟩ := by
  unfold placeMarked
  try dsimp only
  repeat' first
    | with_reducible assumption
    | with_reducible apply canon_emit
    | with_reducible apply canon_memPut
    | with_reducible apply canon_poisonRun
    | with_reducible apply canon_chargeRun
    | with_reducible apply canon_markPoisoned
    | with_reducible apply canon_padPut
    | with_reducible apply canon_padMark
    | with_reducible apply canon_foldl
    | with_reducible apply canon_foldl_fst
    | with_reducible apply canon_foldl_rd
    | with_reducible apply canon_foldl_rd_fst
    | with_reducible apply canon_foldl_x
    | with_reducible apply canon_foldl_run_fst
    | with_reducible apply canon_ite
    | with_reducible apply canon_ite_s
    | with_reducible apply canon_ite_fst
    | with_reducible apply canon_ite_fst_s
    | simp only [canon_mk_iff]
    | split
    | intro _

theorem canon_placeWrite {kw kt kr ks kv xn xc} {s : Chip} {o : Origin} {x : Place} {l : List Byte} {bad : Bool} (h_s
    : s.Canon kw kt kr ks none none kv ⟨none, none, none, none, none, xn, xc⟩) : (placeWrite s o x l bad).Canon kw kt
    kr ks none none kv ⟨none, none, none, none, none, xn, xc⟩ := by
  unfold placeWrite
  try dsimp only
  repeat' first
    | with_reducible assumption
    | with_reducible apply canon_placeMarked

theorem canon_copyRun {kw kt kr ks kv xn xc} {s : Chip} {o : Origin} {src : Place} {dst : Place} {n : Nat} {host :
    List Byte} (h_s : s.Canon kw kt kr ks none none kv ⟨none, none, none, none, none, xn, xc⟩) : (copyRun s o src dst
    n host).1.Canon kw kt kr ks none none kv ⟨none, none, none, none, none, xn, xc⟩ := by
  unfold copyRun
  try dsimp only
  repeat' first
    | with_reducible assumption
    | with_reducible apply canon_faultPlace
    | with_reducible apply canon_placeRead
    | with_reducible apply canon_placeWrite
    | with_reducible apply canon_foldl
    | with_reducible apply canon_foldl_fst
    | with_reducible apply canon_foldl_rd
    | with_reducible apply canon_foldl_rd_fst
    | with_reducible apply canon_foldl_x
    | with_reducible apply canon_foldl_run_fst
    | with_reducible apply canon_ite
    | with_reducible apply canon_ite_s
    | with_reducible apply canon_ite_fst
    | with_reducible apply canon_ite_fst_s
    | simp only [canon_mk_iff]
    | split
    | intro _

theorem canon_copyLinear {kw kt kr ks kv xn xc} {s : Chip} {o : Origin} {src : Place} {dst : Place} {len : Nat} {host
    : List Byte} (h_s : s.Canon kw kt kr ks none none kv ⟨none, none, none, none, none, xn, xc⟩) : (copyLinear s o src
    dst len host).1.Canon kw kt kr ks none none kv ⟨none, none, none, none, none, xn, xc⟩ := by
  unfold copyLinear
  try dsimp only
  repeat' first
    | with_reducible assumption
    | with_reducible apply canon_faultPlace
    | with_reducible apply canon_copyRun
    | with_reducible apply canon_ite
    | with_reducible apply canon_ite_s
    | with_reducible apply canon_ite_fst
    | with_reducible apply canon_ite_fst_s
    | simp only [canon_mk_iff]
    | split
    | intro _

theorem canon_faultWindow {kw kt kr ks kp kv xn xc} {s : Chip} {o : Origin} {a : Nat} (h_s : s.Canon kw kt kr ks none
    kp kv ⟨none, none, none, none, none, xn, xc⟩) : (faultWindow s o a).Canon kw kt kr ks none kp kv ⟨none, none,
    none, none, none, xn, xc⟩ := by
  unfold faultWindow
  try dsimp only
  repeat' first
    | with_reducible assumption
    | with_reducible apply canon_faultPad

theorem canon_putItems {kw kt kr ks kv xn xc} {s : Chip} {o : Origin} {dst : Place} {bad : Bool} {z0 : List (Nat ×
    List Byte)} (h_s : s.Canon kw kt kr ks none none kv ⟨none, none, none, none, none, xn, xc⟩) : (putItems s o dst
    bad z0).1.Canon kw kt kr ks none none kv ⟨none, none, none, none, none, xn, xc⟩ := by
  induction z0 generalizing s o dst bad with
  | nil =>
      unfold putItems
      try dsimp only
      repeat' first
        | with_reducible assumption
  | cons a l ih =>
      unfold putItems
      try dsimp only
      repeat' first
        | with_reducible assumption
        | with_reducible apply ih
        | with_reducible apply canon_faultPlace
        | with_reducible apply canon_placeWrite
        | with_reducible apply canon_ite
        | with_reducible apply canon_ite_s
        | with_reducible apply canon_ite_fst
        | with_reducible apply canon_ite_fst_s
        | simp only [canon_mk_iff]
        | split
        | intro _

theorem canon_copyWindow {kw kt kr ks kv xn xc} {s : Chip} {o : Origin} {b : Body} {src : Nat} {dst : Place} (h_s :
    s.Canon kw kt kr ks none none kv ⟨none, none, none, none, none, xn, xc⟩) : (copyWindow s o b src dst).1.Canon kw
    kt kr ks none none kv ⟨none, none, none, none, none, xn, xc⟩ := by
  unfold copyWindow
  try dsimp only
  repeat' first
    | with_reducible assumption
    | with_reducible apply canon_faultPad
    | with_reducible apply canon_padMeets
    | with_reducible apply canon_faultWindow
    | with_reducible apply canon_putItems
    | with_reducible apply canon_foldl
    | with_reducible apply canon_foldl_fst
    | with_reducible apply canon_foldl_rd
    | with_reducible apply canon_foldl_rd_fst
    | with_reducible apply canon_foldl_x
    | with_reducible apply canon_foldl_run_fst
    | with_reducible apply canon_ite
    | with_reducible apply canon_ite_s
    | with_reducible apply canon_ite_fst
    | with_reducible apply canon_ite_fst_s
    | simp only [canon_mk_iff]
    | split
    | intro _

theorem canon_copyRepeats {kw kt kr ks kv xn xc} {s : Chip} {o : Origin} {b : Body} {host : List Byte} {z0 : Nat} {z1
    : Nat} (h_s : s.Canon kw kt kr ks none none kv ⟨none, none, none, none, none, xn, xc⟩) : (copyRepeats s o b host
    z0 z1).Canon kw kt kr ks none none kv ⟨none, none, none, none, none, xn, xc⟩ := by
  induction z0 generalizing s o b host z1 with
  | zero =>
      unfold copyRepeats
      try dsimp only
      repeat' first
        | with_reducible assumption
  | succ k ih =>
      unfold copyRepeats
      try dsimp only
      repeat' first
        | with_reducible assumption
        | with_reducible apply ih
        | with_reducible apply canon_copyLinear
        | with_reducible apply canon_copyWindow
        | with_reducible apply canon_ite
        | with_reducible apply canon_ite_s
        | with_reducible apply canon_ite_fst
        | with_reducible apply canon_ite_fst_s
        | simp only [canon_mk_iff]
        | split
        | intro _

theorem canon_dmaCopy {kw kt kr ks kv xn xc} {s : Chip} {o : Origin} {b : Body} {host : HostReply} (h_s : s.Canon kw
    kt kr ks none none kv ⟨none, none, none, none, none, xn, xc⟩) : (dmaCopy s o b host).Canon kw kt kr ks none none
    kv ⟨none, none, none, none, none, xn, xc⟩ := by
  unfold dmaCopy
  try dsimp only
  repeat' first
    | with_reducible assumption
    | with_reducible apply canon_runsHeld
    | with_reducible apply canon_faultQueue
    | with_reducible apply canon_dmaDone
    | with_reducible apply canon_faultHost
    | with_reducible apply canon_copyRepeats
    | with_reducible apply canon_ite
    | with_reducible apply canon_ite_s
    | with_reducible apply canon_ite_fst
    | with_reducible apply canon_ite_fst_s
    | simp only [canon_mk_iff]
    | split
    | intro _

theorem canon_updateLine {kw kt kr ks kp kv kx} {s : Chip} {a : Nat} {ty : Nat} {op : Nat} {uns : Bool} {operand :
    List Byte} {bad : Bool} (h_s : s.Canon kw kt kr ks none kp kv kx) : (updateLine s a ty op uns operand bad).Canon
    kw kt kr ks none kp kv kx := by
  unfold updateLine
  try dsimp only
  repeat' first
    | with_reducible assumption
    | with_reducible apply canon_poisonLine
    | with_reducible apply canon_memPut
    | with_reducible apply canon_ite
    | with_reducible apply canon_ite_s
    | with_reducible apply canon_ite_fst
    | with_reducible apply canon_ite_fst_s
    | simp only [canon_mk_iff]
    | split
    | intro _

theorem canon_countGranules {kw kt kr ks km kp kv kx} {s : Chip} {a : Nat} {len : Nat} (h_s : s.Canon kw kt kr ks km
    kp kv kx) : (countGranules s a len).Canon kw kt kr ks km kp kv kx := by
  unfold countGranules
  try dsimp only
  repeat' first
    | with_reducible assumption
    | with_reducible apply canon_bumpWrap
    | with_reducible apply canon_foldl
    | with_reducible apply canon_foldl_fst
    | with_reducible apply canon_foldl_rd
    | with_reducible apply canon_foldl_rd_fst
    | with_reducible apply canon_foldl_x
    | with_reducible apply canon_foldl_run_fst
    | with_reducible apply canon_ite
    | with_reducible apply canon_ite_s
    | with_reducible apply canon_ite_fst
    | with_reducible apply canon_ite_fst_s
    | simp only [canon_mk_iff]
    | split
    | intro _

theorem canon_updateRun {kw kt kr ks kv xn xc} {s : Chip} {o : Origin} {dst : Nat} {src : Place} {ty : Nat} {op : Nat}
    {uns : Bool} {n : Nat} (h_s : s.Canon kw kt kr ks none none kv ⟨none, none, none, none, none, xn, xc⟩) :
    (updateRun s o dst src ty op uns n).1.Canon kw kt kr ks none none kv ⟨none, none, none, none, none, xn, xc⟩ := by
  unfold updateRun
  try dsimp only
  repeat' first
    | with_reducible assumption
    | with_reducible apply canon_readMeets
    | with_reducible apply canon_chargeRun
    | with_reducible apply canon_markPoisoned
    | with_reducible apply canon_faultPlace
    | with_reducible apply canon_placeRead
    | with_reducible apply canon_updateLine
    | with_reducible apply canon_countGranules
    | with_reducible apply canon_foldl
    | with_reducible apply canon_foldl_fst
    | with_reducible apply canon_foldl_rd
    | with_reducible apply canon_foldl_rd_fst
    | with_reducible apply canon_foldl_x
    | with_reducible apply canon_foldl_run_fst
    | with_reducible apply canon_ite
    | with_reducible apply canon_ite_s
    | with_reducible apply canon_ite_fst
    | with_reducible apply canon_ite_fst_s
    | simp only [canon_mk_iff]
    | split
    | intro _

theorem canon_updateGo {kw kt kr ks kv xn xc} {s : Chip} {o : Origin} {b : Body} (h_s : s.Canon kw kt kr ks none none
    kv ⟨none, none, none, none, none, xn, xc⟩) : (updateGo s o b).Canon kw kt kr ks none none kv ⟨none, none, none,
    none, none, xn, xc⟩ := by
  unfold updateGo
  try dsimp only
  repeat' first
    | with_reducible assumption
    | with_reducible apply canon_faultMem
    | with_reducible apply canon_dmaDone
    | with_reducible apply canon_faultPlace
    | with_reducible apply canon_updateRun
    | with_reducible apply canon_ite
    | with_reducible apply canon_ite_s
    | with_reducible apply canon_ite_fst
    | with_reducible apply canon_ite_fst_s
    | simp only [canon_mk_iff]
    | split
    | intro _

theorem canon_memUpdate {kw kt kr ks kv xn xc} {s : Chip} {o : Origin} {b : Body} (h_s : s.Canon kw kt kr ks none none
    kv ⟨none, none, none, none, none, xn, xc⟩) : (memUpdate s o b).Canon kw kt kr ks none none kv ⟨none, none, none,
    none, none, xn, xc⟩ := by
  unfold memUpdate
  try dsimp only
  repeat' first
    | with_reducible assumption
    | with_reducible apply canon_runsHeld
    | with_reducible apply canon_faultJob
    | with_reducible apply canon_faultQueue
    | with_reducible apply canon_dmaDone
    | with_reducible apply canon_updateGo
    | with_reducible apply canon_ite
    | with_reducible apply canon_ite_s
    | with_reducible apply canon_ite_fst
    | with_reducible apply canon_ite_fst_s
    | simp only [canon_mk_iff]
    | split
    | intro _

theorem canon_fetchGo {kw kt kr ks kv xn xc} {s : Chip} {o : Origin} {b : Body} (h_s : s.Canon kw kt kr ks none none
    kv ⟨none, none, none, none, none, xn, xc⟩) : (fetchGo s o b).Canon kw kt kr ks none none kv ⟨none, none, none,
    none, none, xn, xc⟩ := by
  unfold fetchGo
  try dsimp only
  repeat' first
    | with_reducible assumption
    | with_reducible apply canon_readMeets
    | with_reducible apply canon_admitted
    | with_reducible apply canon_markPoisoned
    | with_reducible apply canon_padPut
    | with_reducible apply canon_dmaDone
    | with_reducible apply canon_updateLine
    | with_reducible apply canon_countGranules
    | with_reducible apply canon_ite
    | with_reducible apply canon_ite_s
    | with_reducible apply canon_ite_fst
    | with_reducible apply canon_ite_fst_s
    | simp only [canon_mk_iff]
    | split
    | intro _

theorem canon_memFetch {kw kt kr ks kv xn xc} {s : Chip} {o : Origin} {b : Body} (h_s : s.Canon kw kt kr ks none none
    kv ⟨none, none, none, none, none, xn, xc⟩) : (memFetch s o b).Canon kw kt kr ks none none kv ⟨none, none, none,
    none, none, xn, xc⟩ := by
  unfold memFetch
  try dsimp only
  repeat' first
    | with_reducible assumption
    | with_reducible apply canon_admitted
    | with_reducible apply canon_faultJob
    | with_reducible apply canon_faultQueue
    | with_reducible apply canon_faultMem
    | with_reducible apply canon_faultPad
    | with_reducible apply canon_dmaDone
    | with_reducible apply canon_fetchGo
    | with_reducible apply canon_ite
    | with_reducible apply canon_ite_s
    | with_reducible apply canon_ite_fst
    | with_reducible apply canon_ite_fst_s
    | simp only [canon_mk_iff]
    | split
    | intro _

end Sys2Proof.Machine
end

