-- ==== Sys2Proof/Laws/CanonSched.lean ====
section
/-! SUPPORT. The operations of Machine/Sched.lean keep the canonical form. -/
set_option linter.all false
namespace Sys2Proof.Machine

theorem canon_startSwitch {kw kt kr ks km kp kv kx} {s : Chip} {j : Job} (h_s : s.Canon kw kt kr ks km kp kv kx) :
    (startSwitch s j).Canon kw kt kr ks km kp kv kx := by
  unfold startSwitch
  try dsimp only
  repeat' first
    | with_reducible assumption
    | with_reducible apply canon_wrAll
    | with_reducible apply canon_ite
    | with_reducible apply canon_ite_s
    | with_reducible apply canon_ite_fst
    | with_reducible apply canon_ite_fst_s
    | simp only [canon_mk_iff]
    | split
    | intro _

theorem canon_takeCommand {kw kt kr ks kp kv xn xc} {s : Chip} {id : Nat} {kind : Nat} {c : Command} {last : Bool}
    {head : Nat} (h_s : s.Canon kw kt kr ks none kp kv ⟨none, none, none, none, none, xn, xc⟩) : (takeCommand s id
    kind c last head).Canon kw kt kr ks none kp kv ⟨none, none, none, none, none, xn, xc⟩ := by
  unfold takeCommand
  try dsimp only
  repeat' first
    | with_reducible assumption
    | with_reducible apply canon_setJob
    | with_reducible apply canon_settle
    | with_reducible apply canon_faultOf
    | with_reducible apply canon_joinChain
    | with_reducible apply canon_foldl
    | with_reducible apply canon_foldl_fst
    | with_reducible apply canon_foldl_rd
    | with_reducible apply canon_foldl_rd_fst
    | with_reducible apply canon_foldl_x
    | with_reducible apply canon_foldl_run_fst
    | with_reducible apply canon_ite
    | with_reducible apply canon_ite_s
    | with_reducible apply canon_ite_fst
    | with_reducible apply canon_ite_fst_s
    | simp only [canon_mkq_iff]
    | split
    | intro _

theorem canon_fetchDevice {kw kt kr ks kp kv xb xq xl xm xn xc} {s : Chip} {p : Nat} {a : Nat} {g : Admit} (h_s :
    s.Canon kw kt kr ks none kp kv ⟨xb, xq, xl, xm, none, xn, xc⟩) : (fetchDevice s p a g).1.Canon kw kt kr ks none kp
    kv ⟨xb, xq, xl, xm, none, xn, xc⟩ := by
  unfold fetchDevice
  try dsimp only
  repeat' first
    | with_reducible assumption
    | with_reducible apply canon_readMeets
    | with_reducible apply canon_admitted
    | with_reducible apply canon_ite
    | with_reducible apply canon_ite_s
    | with_reducible apply canon_ite_fst
    | with_reducible apply canon_ite_fst_s
    | simp only [canon_mk_iff]
    | split

theorem canon_fetchHost {kw kt kr ks km kp kv xb xq xl xm xn xc} {s : Chip} {fn : Nat × Nat} {host : HostReply} (h_s :
    s.Canon kw kt kr ks km kp kv ⟨xb, xq, xl, xm, none, xn, xc⟩) : (fetchHost s fn host).1.Canon kw kt kr ks km kp kv
    ⟨xb, xq, xl, xm, none, xn, xc⟩ := by
  unfold fetchHost
  try dsimp only
  repeat' first
    | with_reducible assumption
    | with_reducible apply canon_hostError
    | with_reducible apply canon_ite
    | with_reducible apply canon_ite_s
    | with_reducible apply canon_ite_fst
    | with_reducible apply canon_ite_fst_s
    | simp only [canon_mk_iff]
    | split
    | intro _

theorem canon_fetchBytes {kw kt kr ks kp kv xb xq xl xm xn xc} {s : Chip} {p : Nat} {n : Nat} {host : HostReply} (h_s
    : s.Canon kw kt kr ks none kp kv ⟨xb, xq, xl, xm, none, xn, xc⟩) : (fetchBytes s p n host).1.Canon kw kt kr ks
    none kp kv ⟨xb, xq, xl, xm, none, xn, xc⟩ := by
  unfold fetchBytes
  try dsimp only
  repeat' first
    | with_reducible assumption
    | with_reducible apply canon_fetchDevice
    | with_reducible apply canon_fetchHost
    | with_reducible apply canon_ite
    | with_reducible apply canon_ite_s
    | with_reducible apply canon_ite_fst
    | with_reducible apply canon_ite_fst_s
    | simp only [canon_mk_iff]
    | split
    | intro _

theorem canon_openNew {kw kt kr ks km kp kv xb xl xm xh xn xc} {s : Chip} {j : Job} (h_s : s.Canon kw kt kr ks km kp
    kv ⟨xb, none, xl, xm, xh, xn, xc⟩) : (openNew s j).Canon kw kt kr ks km kp kv ⟨xb, none, xl, xm, xh, xn, xc⟩ := by
  unfold openNew
  try dsimp only
  repeat' first
    | with_reducible assumption
    | with_reducible apply canon_bumpWrap
    | with_reducible apply canon_recount
    | with_reducible apply canon_startSwitch
    | with_reducible apply canon_ite
    | with_reducible apply canon_ite_s
    | with_reducible apply canon_ite_fst
    | with_reducible apply canon_ite_fst_s
    | simp only [canon_mkq_iff]
    | split
    | intro _

theorem canon_takeFetched {kw kt kr ks kp kv xn xc} {s : Chip} {p : Nat} {n : Nat} {c : Command} (h_s : s.Canon kw kt
    kr ks none kp kv ⟨none, none, none, none, none, xn, xc⟩) : (takeFetched s p n c).Canon kw kt kr ks none kp kv
    ⟨none, none, none, none, none, xn, xc⟩ := by
  unfold takeFetched
  try dsimp only
  repeat' first
    | with_reducible assumption
    | with_reducible apply canon_bumpWrap
    | with_reducible apply canon_takeCommand
    | with_reducible apply canon_openNew
    | with_reducible apply canon_ite
    | with_reducible apply canon_ite_s
    | with_reducible apply canon_ite_fst
    | with_reducible apply canon_ite_fst_s
    | simp only [canon_mk_iff]
    | split

theorem canon_failedJob {kw kt kr ks km kp kv xb xl xm xh xn xc} {s : Chip} {p : Nat} {n : Nat} (h_s : s.Canon kw kt
    kr ks km kp kv ⟨xb, none, xl, xm, xh, xn, xc⟩) : (failedJob s p n).1.Canon kw kt kr ks km kp kv ⟨xb, none, xl, xm,
    xh, xn, xc⟩ := by
  unfold failedJob
  try dsimp only
  repeat' first
    | with_reducible assumption
    | with_reducible apply canon_bumpWrap
    | with_reducible apply canon_ite
    | with_reducible apply canon_ite_s
    | with_reducible apply canon_ite_fst
    | with_reducible apply canon_ite_fst_s
    | simp only [canon_mkq_iff]
    | split

theorem canon_fetchError {kw kt kr ks kp kv xn xc} {s : Chip} {p : Nat} {n : Nat} (h_s : s.Canon kw kt kr ks none kp
    kv ⟨none, none, none, none, none, xn, xc⟩) : (fetchError s p n).Canon kw kt kr ks none kp kv ⟨none, none, none,
    none, none, xn, xc⟩ := by
  unfold fetchError
  try dsimp only
  repeat' first
    | with_reducible assumption
    | with_reducible apply canon_wr
    | with_reducible apply canon_setErr
    | with_reducible apply canon_poisonConsumed
    | with_reducible apply canon_setJob
    | with_reducible apply canon_recount
    | with_reducible apply canon_faultOf
    | with_reducible apply canon_failedJob
    | with_reducible apply canon_ite
    | with_reducible apply canon_ite_s
    | with_reducible apply canon_ite_fst
    | with_reducible apply canon_ite_fst_s
    | simp only [canon_mk_iff]
    | split
    | intro _

theorem canon_fetched {kw kt kr ks kp kv xn xc} {p : Nat} {n : Nat} {got : Chip × Option (Option Command)} (h_got :
    got.1.Canon kw kt kr ks none kp kv ⟨none, none, none, none, none, xn, xc⟩) : (fetched p n got).Canon kw kt kr ks
    none kp kv ⟨none, none, none, none, none, xn, xc⟩ := by
  unfold fetched
  try dsimp only
  repeat' first
    | with_reducible assumption
    | with_reducible apply canon_takeFetched
    | with_reducible apply canon_fetchError
    | with_reducible apply canon_ite
    | with_reducible apply canon_ite_s
    | with_reducible apply canon_ite_fst
    | with_reducible apply canon_ite_fst_s
    | simp only [canon_mk_iff]
    | split

theorem canon_commandFetch {kw kt kr ks kp kv xn xc} {s : Chip} {p : Nat} {n : Nat} {host : HostReply} (h_s : s.Canon
    kw kt kr ks none kp kv ⟨none, none, none, none, none, xn, xc⟩) : (commandFetch s p n host).Canon kw kt kr ks none
    kp kv ⟨none, none, none, none, none, xn, xc⟩ := by
  unfold commandFetch
  try dsimp only
  repeat' first
    | with_reducible assumption
    | with_reducible apply canon_regionCall
    | with_reducible apply canon_fetchBytes
    | with_reducible apply canon_fetched
    | with_reducible apply canon_ite
    | with_reducible apply canon_ite_s
    | with_reducible apply canon_ite_fst
    | with_reducible apply canon_ite_fst_s
    | simp only [canon_mk_iff]
    | split
    | intro _

theorem canon_raiseGroup {kw kt kr ks km kp kv xb xl xm xh xn xc} {s : Chip} {e : Engine} {p : Nat} {g : Nat} {others
    : List Nat} (h_s : s.Canon kw kt kr ks km kp kv ⟨xb, none, xl, xm, xh, xn, xc⟩) : (raiseGroup s e p g
    others).Canon kw kt kr ks km kp kv ⟨xb, none, xl, xm, xh, xn, xc⟩ := by
  unfold raiseGroup
  try dsimp only
  repeat' first
    | with_reducible assumption
    | with_reducible apply canon_ite
    | with_reducible apply canon_ite_s
    | with_reducible apply canon_ite_fst
    | with_reducible apply canon_ite_fst_s
    | simp only [canon_mkq_iff]
    | split

theorem canon_takeContext {kw kt kr ks km kp kv xb xl xm xh xn xc} {s : Chip} {e : Engine} {id : Nat} (h_s : s.Canon
    kw kt kr ks km kp kv ⟨xb, none, xl, xm, xh, xn, xc⟩) : (takeContext s e id).Canon kw kt kr ks km kp kv ⟨xb, none,
    xl, xm, xh, xn, xc⟩ := by
  unfold takeContext
  try dsimp only
  repeat' first
    | with_reducible assumption
    | with_reducible apply canon_ite
    | with_reducible apply canon_ite_s
    | with_reducible apply canon_ite_fst
    | with_reducible apply canon_ite_fst_s
    | simp only [canon_mkq_iff]

theorem canon_fillContexts {kw kt kr ks km kp kv xb xl xm xh xn xc} {s : Chip} {e : Engine} (h_s : s.Canon kw kt kr ks
    km kp kv ⟨xb, none, xl, xm, xh, xn, xc⟩) : (fillContexts s e).Canon kw kt kr ks km kp kv ⟨xb, none, xl, xm, xh,
    xn, xc⟩ := by
  unfold fillContexts
  try dsimp only
  repeat' first
    | with_reducible assumption
    | with_reducible apply canon_takeContext
    | with_reducible apply canon_foldl
    | with_reducible apply canon_foldl_fst
    | with_reducible apply canon_foldl_rd
    | with_reducible apply canon_foldl_rd_fst
    | with_reducible apply canon_foldl_x
    | with_reducible apply canon_foldl_run_fst
    | with_reducible apply canon_ite
    | with_reducible apply canon_ite_s
    | with_reducible apply canon_ite_fst
    | with_reducible apply canon_ite_fst_s
    | simp only [canon_mk_iff]
    | split
    | intro _

theorem canon_assignBlocks {kw kt kr ks km kp kv xb xl xm xh xn xc} {s : Chip} (h_s : s.Canon kw kt kr ks km kp kv
    ⟨xb, none, xl, xm, xh, xn, xc⟩) : (assignBlocks s).Canon kw kt kr ks km kp kv ⟨xb, none, xl, xm, xh, xn, xc⟩ := by
  unfold assignBlocks
  try dsimp only
  repeat' first
    | with_reducible assumption
    | with_reducible apply canon_setJob
    | with_reducible apply canon_foldl
    | with_reducible apply canon_foldl_fst
    | with_reducible apply canon_foldl_rd
    | with_reducible apply canon_foldl_rd_fst
    | with_reducible apply canon_foldl_x
    | with_reducible apply canon_foldl_run_fst
    | with_reducible apply canon_ite
    | with_reducible apply canon_ite_s
    | with_reducible apply canon_ite_fst
    | with_reducible apply canon_ite_fst_s
    | simp only [canon_mk_iff]
    | split
    | intro _

theorem canon_traceCmd {kw kt kr ks km kp kv xb xq xl xm xn xc} {s : Chip} {e : Engine} {j : Job} {c : Cmd} (h_s :
    s.Canon kw kt kr ks km kp kv ⟨xb, xq, xl, xm, none, xn, xc⟩) : (traceCmd s e j c).Canon kw kt kr ks km kp kv ⟨xb,
    xq, xl, xm, none, xn, xc⟩ := by
  unfold traceCmd
  try dsimp only
  repeat' first
    | with_reducible assumption
    | with_reducible apply canon_bumpWrap
    | with_reducible apply canon_hostPut
    | with_reducible apply canon_ite
    | with_reducible apply canon_ite_s
    | with_reducible apply canon_ite_fst
    | with_reducible apply canon_ite_fst_s
    | simp only [canon_mk_iff]
    | split
    | intro _

theorem canon_issue {kw kt kr ks km kp kv xb xl xm xn xc} {s : Chip} {e : Engine} {j : Job} {c : Cmd} (h_s : s.Canon
    kw kt kr ks km kp kv ⟨xb, none, xl, xm, none, xn, xc⟩) : (issue s e j c).Canon kw kt kr ks km kp kv ⟨xb, none, xl,
    xm, none, xn, xc⟩ := by
  unfold issue
  try dsimp only
  repeat' first
    | with_reducible assumption
    | with_reducible apply canon_wr
    | with_reducible apply canon_wrAll
    | with_reducible apply canon_setJob
    | with_reducible apply canon_finWakes
    | with_reducible apply canon_traceCmd
    | with_reducible apply canon_ite
    | with_reducible apply canon_ite_s
    | with_reducible apply canon_ite_fst
    | with_reducible apply canon_ite_fst_s
    | simp only [canon_mkq_iff]
    | split
    | intro _

theorem canon_callEngine {kw kt kr ks km kp kv kx} {s : Chip} {e : Engine} (h_s : s.Canon kw kt kr ks km kp kv kx) :
    (callEngine s e).Canon kw kt kr ks km kp kv kx := by
  unfold callEngine
  try dsimp only
  repeat' first
    | with_reducible assumption
    | with_reducible apply canon_regionCall
    | with_reducible apply canon_ite
    | with_reducible apply canon_ite_s
    | with_reducible apply canon_ite_fst
    | with_reducible apply canon_ite_fst_s
    | simp only [canon_mk_iff]
    | split
    | intro _

theorem canon_raisePart {kw kt kr ks km kp kv xb xl xm xh xn xc} {s : Chip} {e : Engine} {l : List Job} {p : Nat} (h_s
    : s.Canon kw kt kr ks km kp kv ⟨xb, none, xl, xm, xh, xn, xc⟩) : (raisePart s e l p).Canon kw kt kr ks km kp kv
    ⟨xb, none, xl, xm, xh, xn, xc⟩ := by
  unfold raisePart
  try dsimp only
  repeat' first
    | with_reducible assumption
    | with_reducible apply canon_raiseGroup
    | with_reducible apply canon_foldl
    | with_reducible apply canon_foldl_fst
    | with_reducible apply canon_foldl_rd
    | with_reducible apply canon_foldl_rd_fst
    | with_reducible apply canon_foldl_x
    | with_reducible apply canon_foldl_run_fst
    | with_reducible apply canon_ite
    | with_reducible apply canon_ite_s
    | with_reducible apply canon_ite_fst
    | with_reducible apply canon_ite_fst_s
    | simp only [canon_mkq_iff]
    | split
    | intro _

theorem canon_raiseReady {kw kt kr ks km kp kv xb xl xm xh xn xc} {s : Chip} {e : Engine} {l : List Job} (h_s :
    s.Canon kw kt kr ks km kp kv ⟨xb, none, xl, xm, xh, xn, xc⟩) : (raiseReady s e l).Canon kw kt kr ks km kp kv ⟨xb,
    none, xl, xm, xh, xn, xc⟩ := by
  unfold raiseReady
  try dsimp only
  repeat' first
    | with_reducible assumption
    | with_reducible apply canon_raisePart
    | with_reducible apply canon_foldl
    | with_reducible apply canon_foldl_fst
    | with_reducible apply canon_foldl_rd
    | with_reducible apply canon_foldl_rd_fst
    | with_reducible apply canon_foldl_x
    | with_reducible apply canon_foldl_run_fst
    | with_reducible apply canon_ite
    | with_reducible apply canon_ite_s
    | with_reducible apply canon_ite_fst
    | with_reducible apply canon_ite_fst_s
    | simp only [canon_mk_iff]
    | split
    | intro _

theorem canon_noteReady {kw kt kr ks km kp kv xb xl xm xh xn xc} {s : Chip} {e : Engine} (h_s : s.Canon kw kt kr ks km
    kp kv ⟨xb, none, xl, xm, xh, xn, xc⟩) : (noteReady s e).Canon kw kt kr ks km kp kv ⟨xb, none, xl, xm, xh, xn, xc⟩
    := by
  unfold noteReady
  try dsimp only
  repeat' first
    | with_reducible assumption
    | with_reducible apply canon_raiseReady

theorem canon_dispatchPick {kw kt kr ks km kp kv kx} {s : Chip} {e : Engine} {l : List Job} (h_s : s.Canon kw kt kr ks
    km kp kv kx) : (dispatchPick s e l).1.Canon kw kt kr ks km kp kv kx := by
  unfold dispatchPick
  try dsimp only
  repeat' first
    | with_reducible assumption
    | with_reducible apply canon_ite
    | with_reducible apply canon_ite_s
    | with_reducible apply canon_ite_fst
    | with_reducible apply canon_ite_fst_s
    | simp only [canon_mk_iff]
    | split

theorem canon_dispatched {kw kt kr ks km kp kv xb xl xm xn xc} {e : Engine} {x : Chip × Option (Job × Cmd)} (h_x :
    x.1.Canon kw kt kr ks km kp kv ⟨xb, none, xl, xm, none, xn, xc⟩) : (dispatched e x).Canon kw kt kr ks km kp kv
    ⟨xb, none, xl, xm, none, xn, xc⟩ := by
  unfold dispatched
  try dsimp only
  repeat' first
    | with_reducible assumption
    | with_reducible apply canon_issue
    | with_reducible apply canon_noteReady
    | with_reducible apply canon_ite
    | with_reducible apply canon_ite_s
    | with_reducible apply canon_ite_fst
    | with_reducible apply canon_ite_fst_s
    | simp only [canon_mk_iff]
    | split

theorem canon_dispatchState {kw kt kr ks kp kv xn xc} {s : Chip} {e : Engine} (h_s : s.Canon kw kt kr ks none kp kv
    ⟨none, none, none, none, none, xn, xc⟩) : (dispatchState s e).Canon kw kt kr ks none kp kv ⟨none, none, none,
    none, none, xn, xc⟩ := by
  unfold dispatchState
  try dsimp only
  repeat' first
    | with_reducible assumption
    | with_reducible apply canon_retryChains
    | with_reducible apply canon_fillContexts
    | with_reducible apply canon_assignBlocks
    | with_reducible apply canon_noteReady

theorem canon_engineDispatch {kw kt kr ks kp kv xn xc} {s : Chip} {e : Engine} (h_s : s.Canon kw kt kr ks none kp kv
    ⟨none, none, none, none, none, xn, xc⟩) : (engineDispatch s e).Canon kw kt kr ks none kp kv ⟨none, none, none,
    none, none, xn, xc⟩ := by
  unfold engineDispatch
  try dsimp only
  repeat' first
    | with_reducible assumption
    | with_reducible apply canon_callEngine
    | with_reducible apply canon_dispatchPick
    | with_reducible apply canon_dispatched
    | with_reducible apply canon_dispatchState
    | with_reducible apply canon_ite
    | with_reducible apply canon_ite_s
    | with_reducible apply canon_ite_fst
    | with_reducible apply canon_ite_fst_s
    | simp only [canon_mk_iff]
    | split
    | intro _

theorem canon_tackWords {kw kt kr ks kv xn xc} {s : Chip} {o : Origin} {a : Nat} {n : Nat} (h_s : s.Canon kw kt kr ks
    none none kv ⟨none, none, none, none, none, xn, xc⟩) : (tackWords s o a n).1.Canon kw kt kr ks none none kv ⟨none,
    none, none, none, none, xn, xc⟩ := by
  simp only [tackWords]
  repeat' first
    | with_reducible assumption
    | with_reducible apply canon_poisonConsumed
    | with_reducible apply canon_padRun
    | with_reducible apply canon_foldl
    | with_reducible apply canon_foldl_fst
    | with_reducible apply canon_foldl_rd
    | with_reducible apply canon_foldl_rd_fst
    | with_reducible apply canon_foldl_x
    | with_reducible apply canon_foldl_run_fst
    | with_reducible apply canon_ite
    | with_reducible apply canon_ite_s
    | with_reducible apply canon_ite_fst
    | with_reducible apply canon_ite_fst_s
    | simp only [canon_mk_iff]
    | split
    | intro _

theorem pair_keeps (P : Chip → Prop) {α β : Type} (c : Prop) [Decidable c] (a : Chip × α) (x : Chip × β) (o : α) (h :
    P a.1)
    (h' : P x.1) : P (if c then a else (x.1, o)).1 := by
  split
  · exact h
  · exact h'

theorem canon_tackBody {kw kt kr ks kv xn xc} {o : Origin} {a : Nat} {h : Chip × Bool} (h_h : h.1.Canon kw kt kr ks
    none none kv ⟨none, none, none, none, none, xn, xc⟩) : (tackBody o a h).1.Canon kw kt kr ks none none kv ⟨none,
    none, none, none, none, xn, xc⟩ :=
  pair_keeps _ _ (h.1, none) _ _ h_h (canon_tackWords h_h)

theorem canon_tackRead {kw kt kr ks kv xn xc} {s : Chip} {o : Origin} {a : Nat} (h_s : s.Canon kw kt kr ks none none
    kv ⟨none, none, none, none, none, xn, xc⟩) : (tackRead s o a).1.Canon kw kt kr ks none none kv ⟨none, none, none,
    none, none, xn, xc⟩ := by
  unfold tackRead
  try dsimp only
  repeat' first
    | with_reducible assumption
    | with_reducible apply canon_tackWords
    | with_reducible apply canon_tackBody
    | with_reducible apply canon_ite
    | with_reducible apply canon_ite_s
    | with_reducible apply canon_ite_fst
    | with_reducible apply canon_ite_fst_s
    | simp only [canon_mk_iff]
    | split
    | intro _

theorem canon_readTack {kw kt kr ks kv xn xc} {q : Nat} {e : Chip × Switch} {v : Nat} (h_e : e.1.Canon kw kt kr ks
    none none kv ⟨none, none, none, none, none, xn, xc⟩) : (readTack q e v).1.Canon kw kt kr ks none none kv ⟨none,
    none, none, none, none, xn, xc⟩ := by
  unfold readTack
  try dsimp only
  repeat' first
    | with_reducible assumption
    | with_reducible apply canon_bump
    | with_reducible apply canon_tackRead
    | with_reducible apply canon_ite
    | with_reducible apply canon_ite_s
    | with_reducible apply canon_ite_fst
    | with_reducible apply canon_ite_fst_s
    | simp only [canon_mk_iff]
    | split
    | intro _

theorem canon_preemptPointReached {kw kt kr ks kv xn xc} {s : Chip} {q : Nat} (h_s : s.Canon kw kt kr ks none none kv
    ⟨none, none, none, none, none, xn, xc⟩) : (preemptPointReached s q).Canon kw kt kr ks none none kv ⟨none, none,
    none, none, none, xn, xc⟩ := by
  unfold preemptPointReached
  try dsimp only
  repeat' first
    | with_reducible assumption
    | with_reducible apply canon_withdrawAt
    | with_reducible apply canon_keepSwitch
    | with_reducible apply canon_planSpill
    | with_reducible apply canon_readTack
    | with_reducible apply canon_foldl
    | with_reducible apply canon_foldl_fst
    | with_reducible apply canon_foldl_rd
    | with_reducible apply canon_foldl_rd_fst
    | with_reducible apply canon_foldl_x
    | with_reducible apply canon_foldl_run_fst
    | with_reducible apply canon_ite
    | with_reducible apply canon_ite_s
    | with_reducible apply canon_ite_fst
    | with_reducible apply canon_ite_fst_s
    | simp only [canon_mk_iff]
    | split
    | intro _

theorem canon_devPut {kw kt kr ks kp kv kx} {s : Chip} {p : Nat} {a : Nat} {l : List Byte} {bad : Bool} (h_s : s.Canon
    kw kt kr ks none kp kv kx) : (devPut s p a l bad).Canon kw kt kr ks none kp kv kx := by
  unfold devPut
  try dsimp only
  repeat' first
    | with_reducible assumption
    | with_reducible apply canon_memPut
    | with_reducible apply canon_poisonRun
    | with_reducible apply canon_chargeRun
    | with_reducible apply canon_ite
    | with_reducible apply canon_ite_s
    | with_reducible apply canon_ite_fst
    | with_reducible apply canon_ite_fst_s
    | simp only [canon_mk_iff]
    | split
    | intro _

theorem canon_padBytes {kw kt kr ks kv xn xc} {s : Chip} {r : Nat} {x : Nat} {len : Nat} (h_s : s.Canon kw kt kr ks
    none none kv ⟨none, none, none, none, none, xn, xc⟩) : (padBytes s r x len).1.Canon kw kt kr ks none none kv
    ⟨none, none, none, none, none, xn, xc⟩ := by
  unfold padBytes
  try dsimp only
  repeat' first
    | with_reducible assumption
    | with_reducible apply canon_bankRun
    | with_reducible apply canon_foldl
    | with_reducible apply canon_foldl_fst
    | with_reducible apply canon_foldl_rd
    | with_reducible apply canon_foldl_rd_fst
    | with_reducible apply canon_foldl_x
    | with_reducible apply canon_foldl_run_fst
    | with_reducible apply canon_ite
    | with_reducible apply canon_ite_s
    | with_reducible apply canon_ite_fst
    | with_reducible apply canon_ite_fst_s
    | simp only [canon_mk_iff]
    | split
    | intro _

theorem canon_spillData {kw kt kr ks kv xn xc} {s : Chip} {q : Nat} {w : Switch} (h_s : s.Canon kw kt kr ks none none
    kv ⟨none, none, none, none, none, xn, xc⟩) : (spillData s q w).1.Canon kw kt kr ks none none kv ⟨none, none, none,
    none, none, xn, xc⟩ := by
  unfold spillData
  try dsimp only
  repeat' first
    | with_reducible assumption
    | with_reducible apply canon_padBytes
    | with_reducible apply canon_foldl
    | with_reducible apply canon_foldl_fst
    | with_reducible apply canon_foldl_rd
    | with_reducible apply canon_foldl_rd_fst
    | with_reducible apply canon_foldl_x
    | with_reducible apply canon_foldl_run_fst
    | with_reducible apply canon_ite
    | with_reducible apply canon_ite_s
    | with_reducible apply canon_ite_fst
    | with_reducible apply canon_ite_fst_s
    | simp only [canon_mk_iff]
    | split
    | intro _

theorem canon_putPart {kw kt kr ks kp kv kx} {r : Nat} {p : Nat} {s : Chip} {e : List (Nat × List Byte × Bool) ×
    Option (Bool × Nat)} (h_s : s.Canon kw kt kr ks none kp kv kx) : (putPart r p s e).Canon kw kt kr ks none kp kv kx
    := by
  unfold putPart
  try dsimp only
  repeat' first
    | with_reducible assumption
    | with_reducible apply canon_countUnit
    | with_reducible apply canon_devPut
    | with_reducible apply canon_foldl
    | with_reducible apply canon_foldl_fst
    | with_reducible apply canon_foldl_rd
    | with_reducible apply canon_foldl_rd_fst
    | with_reducible apply canon_foldl_x
    | with_reducible apply canon_foldl_run_fst
    | with_reducible apply canon_ite
    | with_reducible apply canon_ite_s
    | with_reducible apply canon_ite_fst
    | with_reducible apply canon_ite_fst_s
    | simp only [canon_mk_iff]
    | split
    | intro _

theorem canon_switchFault {kw kt kr ks kp kv xn xc} {s : Chip} {q : Nat} {jobs : List Nat} {r : Nat × Nat} (h_s :
    s.Canon kw kt kr ks none kp kv ⟨none, none, none, none, none, xn, xc⟩) : (switchFault s q jobs r).Canon kw kt kr
    ks none kp kv ⟨none, none, none, none, none, xn, xc⟩ := by
  unfold switchFault
  try dsimp only
  repeat' first
    | with_reducible assumption
    | with_reducible apply canon_refuseAccess
    | with_reducible apply canon_faultOf
    | with_reducible apply canon_foldl
    | with_reducible apply canon_foldl_fst
    | with_reducible apply canon_foldl_rd
    | with_reducible apply canon_foldl_rd_fst
    | with_reducible apply canon_foldl_x
    | with_reducible apply canon_foldl_run_fst
    | with_reducible apply canon_ite
    | with_reducible apply canon_ite_s
    | with_reducible apply canon_ite_fst
    | with_reducible apply canon_ite_fst_s
    | simp only [canon_mk_iff]
    | split
    | intro _

theorem canon_switchOver {kw kt kr ks km kp kv xb xl xm xh xn xc} {s : Chip} {q : Nat} (h_s : s.Canon kw kt kr ks km
    kp kv ⟨xb, none, xl, xm, xh, xn, xc⟩) : (switchOver s q).Canon kw kt kr ks km kp kv ⟨xb, none, xl, xm, xh, xn, xc⟩
    := by
  unfold switchOver
  try dsimp only
  repeat' first
    | with_reducible assumption
    | with_reducible apply canon_stopProgress
    | with_reducible apply canon_releaseSpillWrites
    | with_reducible apply canon_idleFront
    | with_reducible apply canon_startSwitch
    | with_reducible apply canon_ite
    | with_reducible apply canon_ite_s
    | with_reducible apply canon_ite_fst
    | with_reducible apply canon_ite_fst_s
    | simp only [canon_mk_iff]
    | split

theorem canon_spillOver {kw kt kr ks km kp kv xl xm xh xn xc} {s : Chip} {q : Nat} {w : Switch} (h_s : s.Canon kw kt
    kr ks km kp kv ⟨none, none, xl, xm, xh, xn, xc⟩) : (spillOver s q w).Canon kw kt kr ks km kp kv ⟨none, none, xl,
    xm, xh, xn, xc⟩ := by
  unfold spillOver
  try dsimp only
  repeat' first
    | with_reducible assumption
    | with_reducible apply canon_wr
    | with_reducible apply canon_bump
    | with_reducible apply canon_endSet
    | with_reducible apply canon_stopProgress
    | with_reducible apply canon_keepSwitch
    | with_reducible apply canon_foldl
    | with_reducible apply canon_foldl_fst
    | with_reducible apply canon_foldl_rd
    | with_reducible apply canon_foldl_rd_fst
    | with_reducible apply canon_foldl_x
    | with_reducible apply canon_foldl_run_fst
    | with_reducible apply canon_ite
    | with_reducible apply canon_ite_s
    | with_reducible apply canon_ite_fst
    | with_reducible apply canon_ite_fst_s
    | simp only [canon_mk_iff]
    | split
    | intro _

theorem canon_spillStored {kw kt kr ks kv xn xc} {plan : Chip → Nat → Nat → List Byte → List (Byte × Bool) →
    SpillPlan} {s : Chip} {q : Nat} {w : Switch} (h_s : s.Canon kw kt kr ks none none kv ⟨none, none, none, none,
    none, xn, xc⟩) : (spillStored plan s q w).Canon kw kt kr ks none none kv ⟨none, none, none, none, none, xn, xc⟩ :=
    by
  unfold spillStored
  try dsimp only
  repeat' first
    | with_reducible assumption
    | with_reducible apply canon_runsHeld
    | with_reducible apply canon_spillData
    | with_reducible apply canon_putPart
    | with_reducible apply canon_switchFault
    | with_reducible apply canon_switchOver
    | with_reducible apply canon_spillOver
    | with_reducible apply canon_foldl
    | with_reducible apply canon_foldl_fst
    | with_reducible apply canon_foldl_rd
    | with_reducible apply canon_foldl_rd_fst
    | with_reducible apply canon_foldl_x
    | with_reducible apply canon_foldl_run_fst
    | with_reducible apply canon_ite
    | with_reducible apply canon_ite_s
    | with_reducible apply canon_ite_fst
    | with_reducible apply canon_ite_fst_s
    | simp only [canon_mk_iff]
    | split
    | intro _

theorem canon_spillEnd {kw kt kr ks kv xn xc} {plan : Chip → Nat → Nat → List Byte → List (Byte × Bool) → SpillPlan}
    {s : Chip} {q : Nat} (h_s : s.Canon kw kt kr ks none none kv ⟨none, none, none, none, none, xn, xc⟩) : (spillEnd
    plan s q).Canon kw kt kr ks none none kv ⟨none, none, none, none, none, xn, xc⟩ := by
  unfold spillEnd
  try dsimp only
  repeat' first
    | with_reducible assumption
    | with_reducible apply canon_spillStored
    | with_reducible apply canon_ite
    | with_reducible apply canon_ite_s
    | with_reducible apply canon_ite_fst
    | with_reducible apply canon_ite_fst_s
    | simp only [canon_mk_iff]
    | split
    | intro _

theorem canon_resumeFrom {kw kt kr ks km kp kv kx} {s : Chip} {q : Nat} {w : Switch} (h_s : s.Canon kw kt kr ks km kp
    kv kx) : (resumeFrom s q w).Canon kw kt kr ks km kp kv kx := by
  unfold resumeFrom
  try dsimp only
  repeat' first
    | with_reducible assumption
    | with_reducible apply canon_wr
    | with_reducible apply canon_keepSwitch

theorem canon_resumeStart {kw kt kr ks km kp kv kx} {s : Chip} {q : Nat} (h_s : s.Canon kw kt kr ks km kp kv kx) :
    (resumeStart s q).Canon kw kt kr ks km kp kv kx := by
  unfold resumeStart
  try dsimp only
  repeat' first
    | with_reducible assumption
    | with_reducible apply canon_resumeFrom
    | with_reducible apply canon_ite
    | with_reducible apply canon_ite_s
    | with_reducible apply canon_ite_fst
    | with_reducible apply canon_ite_fst_s
    | simp only [canon_mk_iff]
    | split
    | intro _

theorem canon_putSet {kw kt kr ks km kp kv xq xl xm xh xn xc} {s : Chip} {b : Nat} {k : Nat} {narrow : Bool} {holder :
    Nat × Nat × Nat} {l : List (Byte × Bool)} (h_s : s.Canon kw kt kr ks km kp kv ⟨none, xq, xl, xm, xh, xn, xc⟩) :
    (putSet s b k narrow holder l).Canon kw kt kr ks km kp kv ⟨none, xq, xl, xm, xh, xn, xc⟩ := by
  unfold putSet
  try dsimp only
  repeat' first
    | with_reducible assumption
    | with_reducible apply canon_wrAll
    | with_reducible apply canon_setBlock

theorem canon_padBack {kw kt kr ks kv xn xc} {s : Chip} {r : Nat} {a : Nat} {x : Nat} (h_s : s.Canon kw kt kr ks none
    none kv ⟨none, none, none, none, none, xn, xc⟩) : (padBack s r a x).Canon kw kt kr ks none none kv ⟨none, none,
    none, none, none, xn, xc⟩ := by
  unfold padBack
  try dsimp only
  repeat' first
    | with_reducible assumption
    | with_reducible apply canon_readMeets
    | with_reducible apply canon_padPut
    | with_reducible apply canon_foldl
    | with_reducible apply canon_foldl_fst
    | with_reducible apply canon_foldl_rd
    | with_reducible apply canon_foldl_rd_fst
    | with_reducible apply canon_foldl_x
    | with_reducible apply canon_foldl_run_fst
    | with_reducible apply canon_ite
    | with_reducible apply canon_ite_s
    | with_reducible apply canon_ite_fst
    | with_reducible apply canon_ite_fst_s
    | simp only [canon_mk_iff]
    | split
    | intro _

theorem canon_setBack {kw kt kr ks kp kv xq xl xm xn xc} {s : Chip} {a : Nat} {x : Nat × Nat × Bool × (Nat × Nat ×
    Nat)} (h_s : s.Canon kw kt kr ks none kp kv ⟨none, xq, xl, xm, none, xn, xc⟩) : (setBack s a x).Canon kw kt kr ks
    none kp kv ⟨none, xq, xl, xm, none, xn, xc⟩ := by
  unfold setBack
  try dsimp only
  repeat' first
    | with_reducible assumption
    | with_reducible apply canon_readMeets
    | with_reducible apply canon_putSet

theorem canon_restored {kw kt kr ks kv xn xc} {ovr_ : Option Memory} {runs : List (Nat × List (Nat × Nat × Bool))} {s
    : Chip} {q : Nat} {w : Switch} (h_s : s.Canon kw kt kr ks none none kv ⟨none, none, none, none, none, xn, xc⟩)
    (h_over : ∀ m, ovr_ = some m → kw → m.wf = true) : (restored ovr_ runs s q w).Canon kw kt kr ks none none kv
    ⟨none, none, none, none, none, xn, xc⟩ := by
  unfold restored
  try dsimp only
  repeat' first
    | with_reducible assumption
    | intro hw; exact wf_getD h_s h_over hw
    | intro hw; exact h_s.mem_wf hw
    | with_reducible refine canon_setMem ?_ h_s.mem_wf
    | with_reducible refine canon_setMem ?_ (wf_getD h_s h_over)
    | with_reducible apply canon_wr
    | with_reducible apply canon_setMem
    | with_reducible apply canon_unitsCharge
    | with_reducible apply canon_switchFault
    | with_reducible apply canon_switchOver
    | with_reducible apply canon_padBack
    | with_reducible apply canon_setBack
    | with_reducible apply h_over
    | with_reducible apply canon_foldl
    | with_reducible apply canon_foldl_fst
    | with_reducible apply canon_foldl_rd
    | with_reducible apply canon_foldl_rd_fst
    | with_reducible apply canon_foldl_x
    | with_reducible apply canon_foldl_run_fst
    | with_reducible apply canon_ite
    | with_reducible apply canon_ite_s
    | with_reducible apply canon_ite_fst
    | with_reducible apply canon_ite_fst_s
    | simp only [canon_mk_iff]
    | split
    | intro _

theorem canon_resumeOn {kw kt kr ks kv xn xc} {runs : List (Nat × List (Nat × Nat × Bool))} {read : Chip → Chip ×
    Option Memory} {s : Chip} {q : Nat} {w : Switch} (h_read : ∀ a0, a0.Canon kw kt kr ks none none kv ⟨none, none,
    none, none, none, xn, xc⟩ → (read a0).1.Canon kw kt kr ks none none kv ⟨none, none, none, none, none, xn, xc⟩)
    (h_s : s.Canon kw kt kr ks none none kv ⟨none, none, none, none, none, xn, xc⟩) (h_mem : ∀ a : Chip, a.Canon kw kt
    kr ks none none kv ⟨none, none, none, none, none, xn, xc⟩ → ∀ m, (read a).2 = some m → kw → m.wf = true) :
    (resumeOn runs read s q w).Canon kw kt kr ks none none kv ⟨none, none, none, none, none, xn, xc⟩ := by
  unfold resumeOn
  try dsimp only
  repeat' first
    | with_reducible assumption
    | exact h_mem _ h_s
    | with_reducible apply canon_runsHeld
    | with_reducible apply canon_restored
    | with_reducible apply h_read
    | with_reducible apply h_mem
    | exact h_mem _ h_s
    | with_reducible apply canon_ite
    | with_reducible apply canon_ite_s
    | with_reducible apply canon_ite_fst
    | with_reducible apply canon_ite_fst_s
    | simp only [canon_mk_iff]
    | split
    | intro _

end Sys2Proof.Machine
end

