-- ==== Sys2Proof/Laws/CanonTile.lean ====
section
/-! SUPPORT. The operations of Machine/Tile.lean keep the canonical form. -/
set_option linter.all false
namespace Sys2Proof.Machine

theorem canon_startRd {kw kt kr ks km kp kv kx} {s : Chip} (h_s : s.Canon kw kt kr ks km kp kv kx) : (startRd
    s).s.Canon kw kt kr ks km kp kv kx := by
  unfold startRd
  try dsimp only
  repeat' first
    | with_reducible assumption

theorem canon_Rd_stop {kw kt kr ks km kp kv kx} {x : Rd} {code : Nat} {a : Option Nat} (h_x : x.s.Canon kw kt kr ks km
    kp kv kx) : (Rd.stop x code a).s.Canon kw kt kr ks km kp kv kx := by
  unfold Rd.stop
  try dsimp only
  repeat' first
    | with_reducible assumption
    | with_reducible apply canon_ite
    | with_reducible apply canon_ite_s
    | with_reducible apply canon_ite_fst
    | with_reducible apply canon_ite_fst_s
    | simp only [canon_mk_iff]
    | split
    | intro _

theorem canon_Rd_count {kw kt kr ks km kp kv kx} {x : Rd} {code : Nat} {n : Nat} (h_x : x.s.Canon kw kt kr ks km kp kv
    kx) : (Rd.count x code n).s.Canon kw kt kr ks km kp kv kx := by
  unfold Rd.count
  try dsimp only
  repeat' first
    | with_reducible assumption
    | with_reducible apply canon_ite
    | with_reducible apply canon_ite_s
    | with_reducible apply canon_ite_fst
    | with_reducible apply canon_ite_fst_s
    | simp only [canon_mk_iff]
    | split
    | intro _

theorem canon_Rd_taint {kw kt kr ks km kp kv kx} {x : Rd} {b : Bool} (h_x : x.s.Canon kw kt kr ks km kp kv kx) :
    (Rd.taint x b).s.Canon kw kt kr ks km kp kv kx := by
  unfold Rd.taint
  try dsimp only
  repeat' first
    | with_reducible assumption
    | with_reducible apply canon_ite
    | with_reducible apply canon_ite_s
    | with_reducible apply canon_ite_fst
    | with_reducible apply canon_ite_fst_s
    | simp only [canon_mk_iff]
    | split
    | intro _

theorem canon_Rd_note {kw kt kr ks km kp kv kx} {x : Rd} {space : Nat} {a : Nat} (h_x : x.s.Canon kw kt kr ks km kp kv
    kx) : (Rd.note x space a).s.Canon kw kt kr ks km kp kv kx := by
  unfold Rd.note
  try dsimp only
  repeat' first
    | with_reducible assumption

theorem canon_consumed {kw kt kr ks km kp kv kx} {s : Chip} {pg : Page} {o : Origin} {l : List (Nat × Nat)} (h_s :
    s.Canon kw kt kr ks km kp kv kx) : (consumed s pg o l).Canon kw kt kr ks km kp kv kx := by
  unfold consumed
  try dsimp only
  repeat' first
    | with_reducible assumption
    | with_reducible apply canon_poisonConsumed
    | with_reducible apply canon_foldl
    | with_reducible apply canon_foldl_fst
    | with_reducible apply canon_foldl_rd
    | with_reducible apply canon_foldl_rd_fst
    | with_reducible apply canon_foldl_x
    | with_reducible apply canon_foldl_run_fst
    | with_reducible apply canon_ite
    | with_reducible apply canon_ite_s
    | with_reducible apply canon_ite_fst
    | with_reducible apply canon_ite_fst_s
    | simp only [canon_mk_iff]
    | split
    | intro _

theorem canon_Rd_read {kw kt kr ks kv xn xc} {x : Rd} {o : Origin} {a : Nat} {n : Nat} (h_x : x.s.Canon kw kt kr ks
    none none kv ⟨none, none, none, none, none, xn, xc⟩) : (Rd.read x o a n).1.s.Canon kw kt kr ks none none kv ⟨none,
    none, none, none, none, xn, xc⟩ := by
  unfold Rd.read
  try dsimp only
  repeat' first
    | with_reducible assumption
    | with_reducible apply canon_padRun
    | with_reducible apply canon_Rd_stop
    | with_reducible apply canon_Rd_note
    | with_reducible apply canon_ite
    | with_reducible apply canon_ite_s
    | with_reducible apply canon_ite_fst
    | with_reducible apply canon_ite_fst_s
    | simp only [canon_mk_iff]
    | split
    | intro _

theorem canon_Rd_word {kw kt kr ks kv xn xc} {x : Rd} {o : Origin} {a : Nat} (h_x : x.s.Canon kw kt kr ks none none kv
    ⟨none, none, none, none, none, xn, xc⟩) : (Rd.word x o a).1.s.Canon kw kt kr ks none none kv ⟨none, none, none,
    none, none, xn, xc⟩ := by
  unfold Rd.word
  try dsimp only
  repeat' first
    | with_reducible assumption
    | with_reducible apply canon_Rd_read

theorem canon_Rd_putMarked {kw kt kr ks kv xn xc} {x : Rd} {o : Origin} {a : Nat} {l : List Byte} {marks : List (Nat ×
    Nat)} (h_x : x.s.Canon kw kt kr ks none none kv ⟨none, none, none, none, none, xn, xc⟩) : (Rd.putMarked x o a l
    marks).s.Canon kw kt kr ks none none kv ⟨none, none, none, none, none, xn, xc⟩ := by
  unfold Rd.putMarked
  try dsimp only
  repeat' first
    | with_reducible assumption
    | with_reducible apply canon_narrowRun
    | with_reducible apply canon_padPut
    | with_reducible apply canon_padMark
    | with_reducible apply canon_Rd_stop
    | with_reducible apply canon_Rd_taint
    | with_reducible apply canon_foldl
    | with_reducible apply canon_foldl_fst
    | with_reducible apply canon_foldl_rd
    | with_reducible apply canon_foldl_rd_fst
    | with_reducible apply canon_foldl_x
    | with_reducible apply canon_foldl_run_fst
    | with_reducible apply canon_ite
    | with_reducible apply canon_ite_s
    | with_reducible apply canon_ite_fst
    | with_reducible apply canon_ite_fst_s
    | simp only [canon_mk_iff]
    | split
    | intro _

theorem canon_Rd_put {kw kt kr ks kv xn xc} {x : Rd} {o : Origin} {a : Nat} {l : List Byte} {bad : Bool} (h_x :
    x.s.Canon kw kt kr ks none none kv ⟨none, none, none, none, none, xn, xc⟩) : (Rd.put x o a l bad).s.Canon kw kt kr
    ks none none kv ⟨none, none, none, none, none, xn, xc⟩ := by
  unfold Rd.put
  try dsimp only
  repeat' first
    | with_reducible assumption
    | with_reducible apply canon_Rd_putMarked

theorem canon_Rd_countImage {kw kt kr ks km kp kv kx} {x : Rd} {form : Nat} {l : List Byte} {bad : List Bool} (h_x :
    x.s.Canon kw kt kr ks km kp kv kx) : (Rd.countImage x form l bad).s.Canon kw kt kr ks km kp kv kx := by
  unfold Rd.countImage
  try dsimp only
  repeat' first
    | with_reducible assumption
    | with_reducible apply canon_Rd_count
    | with_reducible apply canon_ite
    | with_reducible apply canon_ite_s
    | with_reducible apply canon_ite_fst
    | with_reducible apply canon_ite_fst_s
    | simp only [canon_mk_iff]
    | split

theorem canon_Rd_delta {kw kt kr ks xn xc} {x : Rd} {o : Origin} {a : Nat} (h_x : x.s.Canon kw kt kr ks none none none
    ⟨none, none, none, none, none, xn, xc⟩) : (Rd.delta x o a).1.s.Canon kw kt kr ks none none none ⟨none, none, none,
    none, none, xn, xc⟩ := by
  unfold Rd.delta
  try dsimp only
  repeat' first
    | with_reducible assumption
    | with_reducible apply canon_Rd_stop
    | with_reducible apply canon_Rd_count
    | with_reducible apply canon_Rd_read
    | with_reducible apply canon_Rd_word
    | with_reducible apply canon_ite
    | with_reducible apply canon_ite_s
    | with_reducible apply canon_ite_fst
    | with_reducible apply canon_ite_fst_s
    | simp only [canon_mk_iff]
    | split
    | intro _

theorem canon_Rd_gatherRows {kw kt kr ks kv xn xc} {x : Rd} {o : Origin} {t : Tile} {l : List Nat} (h_x : x.s.Canon kw
    kt kr ks none none kv ⟨none, none, none, none, none, xn, xc⟩) : (Rd.gatherRows x o t l).1.s.Canon kw kt kr ks none
    none kv ⟨none, none, none, none, none, xn, xc⟩ := by
  unfold Rd.gatherRows
  try dsimp only
  repeat' first
    | with_reducible assumption
    | with_reducible apply canon_Rd_count
    | with_reducible apply canon_Rd_taint
    | with_reducible apply canon_Rd_read
    | with_reducible apply canon_foldl
    | with_reducible apply canon_foldl_fst
    | with_reducible apply canon_foldl_rd
    | with_reducible apply canon_foldl_rd_fst
    | with_reducible apply canon_foldl_x
    | with_reducible apply canon_foldl_run_fst
    | with_reducible apply canon_ite
    | with_reducible apply canon_ite_s
    | with_reducible apply canon_ite_fst
    | with_reducible apply canon_ite_fst_s
    | simp only [canon_mk_iff]
    | split
    | intro _

theorem canon_Rd_tile {kw kt kr ks xn xc} {x : Rd} {o : Origin} {a : Nat} {whole : Bool} (h_x : x.s.Canon kw kt kr ks
    none none none ⟨none, none, none, none, none, xn, xc⟩) : (Rd.tile x o a whole).1.s.Canon kw kt kr ks none none
    none ⟨none, none, none, none, none, xn, xc⟩ := by
  unfold Rd.tile
  try dsimp only
  repeat' first
    | with_reducible assumption
    | with_reducible apply canon_Rd_stop
    | with_reducible apply canon_Rd_count
    | with_reducible apply canon_Rd_taint
    | with_reducible apply canon_Rd_read
    | with_reducible apply canon_Rd_countImage
    | with_reducible apply canon_Rd_delta
    | with_reducible apply canon_Rd_gatherRows
    | with_reducible apply canon_ite
    | with_reducible apply canon_ite_s
    | with_reducible apply canon_ite_fst
    | with_reducible apply canon_ite_fst_s
    | simp only [canon_mk_iff]
    | split
    | intro _

theorem canon_Rd_keepers {kw kt kr ks xn xc} {x : Rd} {o : Origin} {a : Nat} {k : Nat} {index : Nat} {first : Nat}
    {last : Nat} (h_x : x.s.Canon kw kt kr ks none none none ⟨none, none, none, none, none, xn, xc⟩) : (Rd.keepers x o
    a k index first last).1.s.Canon kw kt kr ks none none none ⟨none, none, none, none, none, xn, xc⟩ := by
  unfold Rd.keepers
  try dsimp only
  repeat' first
    | with_reducible assumption
    | with_reducible apply canon_Rd_stop
    | with_reducible apply canon_Rd_count
    | with_reducible apply canon_Rd_read
    | with_reducible apply canon_Rd_word
    | with_reducible apply canon_ite
    | with_reducible apply canon_ite_s
    | with_reducible apply canon_ite_fst
    | with_reducible apply canon_ite_fst_s
    | simp only [canon_mk_iff]
    | split
    | intro _

theorem canon_Rd_strap {kw kt kr ks xn xc} {x : Rd} {o : Origin} {a : Nat} {ka : Nat} {index : Nat} {row0 : Nat} {k :
    Nat} {b : Nat} {want : Nat} (h_x : x.s.Canon kw kt kr ks none none none ⟨none, none, none, none, none, xn, xc⟩) :
    (Rd.strap x o a ka index row0 k b want).1.s.Canon kw kt kr ks none none none ⟨none, none, none, none, none, xn,
    xc⟩ := by
  unfold Rd.strap
  try dsimp only
  repeat' first
    | with_reducible assumption
    | with_reducible apply canon_Rd_stop
    | with_reducible apply canon_Rd_count
    | with_reducible apply canon_Rd_taint
    | with_reducible apply canon_Rd_read
    | with_reducible apply canon_Rd_word
    | with_reducible apply canon_Rd_keepers
    | with_reducible apply canon_ite
    | with_reducible apply canon_ite_s
    | with_reducible apply canon_ite_fst
    | with_reducible apply canon_ite_fst_s
    | simp only [canon_mk_iff]
    | split
    | intro _

end Sys2Proof.Machine
end

