-- ==== Sys2Proof/Laws/CanonStroke.lean ====
section
/-! SUPPORT. The operations of Machine/Stroke.lean keep the canonical form. -/
set_option linter.all false
namespace Sys2Proof.Machine

theorem canon_countFmt {kw kt kr ks km kp kv xb xq xl xm xn xc} {s : Chip} {b : Nat} {tag : Nat} {code : Nat} {n :
    Nat} (h_s : s.Canon kw kt kr ks km kp kv ⟨xb, xq, xl, xm, none, xn, xc⟩) : (countFmt s b tag code n).Canon kw kt
    kr ks km kp kv ⟨xb, xq, xl, xm, none, xn, xc⟩ := by
  unfold countFmt
  try dsimp only
  repeat' first
    | with_reducible assumption
    | with_reducible apply canon_wr
    | with_reducible apply canon_wrAll
    | with_reducible apply canon_bump
    | with_reducible apply canon_setFlag
    | with_reducible apply canon_ite
    | with_reducible apply canon_ite_s
    | with_reducible apply canon_ite_fst
    | with_reducible apply canon_ite_fst_s
    | simp only [canon_mk_iff]
    | split
    | intro _

theorem canon_countAll {kw kt kr ks km kp kv xb xq xl xm xn xc} {s : Chip} {b : Nat} {tag : Nat} {l : List (Nat ×
    Nat)} (h_s : s.Canon kw kt kr ks km kp kv ⟨xb, xq, xl, xm, none, xn, xc⟩) : (countAll s b tag l).Canon kw kt kr ks
    km kp kv ⟨xb, xq, xl, xm, none, xn, xc⟩ := by
  unfold countAll
  try dsimp only
  repeat' first
    | with_reducible assumption
    | with_reducible apply canon_countFmt
    | with_reducible apply canon_foldl
    | with_reducible apply canon_foldl_fst
    | with_reducible apply canon_foldl_rd
    | with_reducible apply canon_foldl_rd_fst
    | with_reducible apply canon_foldl_x
    | with_reducible apply canon_foldl_run_fst
    | with_reducible apply canon_ite
    | with_reducible apply canon_ite_s
    | with_reducible apply canon_ite_fst
    | with_reducible apply canon_ite_fst_s
    | simp only [canon_mk_iff]
    | split
    | intro _

theorem canon_faultBlock {kw kt kr ks kp kv xn xc} {s : Chip} {o : Origin} {b : Nat} {code : Nat} {a : Option Nat}
    (h_s : s.Canon kw kt kr ks none kp kv ⟨none, none, none, none, none, xn, xc⟩) : (faultBlock s o b code a).Canon kw
    kt kr ks none kp kv ⟨none, none, none, none, none, xn, xc⟩ := by
  unfold faultBlock
  try dsimp only
  repeat' first
    | with_reducible assumption
    | with_reducible apply canon_faultJob
    | with_reducible apply canon_faultQueue
    | with_reducible apply canon_faultPad
    | with_reducible apply canon_ite
    | with_reducible apply canon_ite_s
    | with_reducible apply canon_ite_fst
    | with_reducible apply canon_ite_fst_s
    | simp only [canon_mk_iff]
    | split
    | intro _

theorem canon_closeRd {kw kt kr ks kp kv xn xc} {x : Rd} {o : Origin} {b : Nat} (h_x : x.s.Canon kw kt kr ks none kp
    kv ⟨none, none, none, none, none, xn, xc⟩) : (closeRd x o b).Canon kw kt kr ks none kp kv ⟨none, none, none, none,
    none, xn, xc⟩ := by
  unfold closeRd
  try dsimp only
  repeat' first
    | with_reducible assumption
    | with_reducible apply canon_markPoisoned
    | with_reducible apply canon_consumed
    | with_reducible apply canon_countAll
    | with_reducible apply canon_faultBlock
    | with_reducible apply canon_ite
    | with_reducible apply canon_ite_s
    | with_reducible apply canon_ite_fst
    | with_reducible apply canon_ite_fst_s
    | simp only [canon_mk_iff]
    | split
    | intro _

theorem canon_readToken {kw kt kr ks xn xc} {x : Rd} {o : Origin} {m : Layout} {shift : Int} {nseg : Nat} {inRange :
    Nat → Bool} (h_x : x.s.Canon kw kt kr ks none none none ⟨none, none, none, none, none, xn, xc⟩) : (readToken x o m
    shift nseg inRange).1.s.Canon kw kt kr ks none none none ⟨none, none, none, none, none, xn, xc⟩ := by
  unfold readToken
  try dsimp only
  repeat' first
    | with_reducible assumption
    | with_reducible apply canon_Rd_read
    | with_reducible apply canon_Rd_keepers
    | with_reducible apply canon_Rd_strap
    | with_reducible apply canon_foldl
    | with_reducible apply canon_foldl_fst
    | with_reducible apply canon_foldl_rd
    | with_reducible apply canon_foldl_rd_fst
    | with_reducible apply canon_foldl_x
    | with_reducible apply canon_foldl_run_fst
    | with_reducible apply canon_ite
    | with_reducible apply canon_ite_s
    | with_reducible apply canon_ite_fst
    | with_reducible apply canon_ite_fst_s
    | simp only [canon_mk_iff]
    | split
    | intro _

theorem canon_readDispatch {kw kt kr ks xn xc} {x : Rd} {o : Origin} {b : Body} (h_x : x.s.Canon kw kt kr ks none none
    none ⟨none, none, none, none, none, xn, xc⟩) : (readDispatch x o b).1.s.Canon kw kt kr ks none none none ⟨none,
    none, none, none, none, xn, xc⟩ := by
  unfold readDispatch
  try dsimp only
  repeat' first
    | with_reducible assumption
    | with_reducible apply canon_Rd_count
    | with_reducible apply canon_Rd_taint
    | with_reducible apply canon_Rd_read
    | with_reducible apply canon_foldl
    | with_reducible apply canon_foldl_fst
    | with_reducible apply canon_foldl_rd
    | with_reducible apply canon_foldl_rd_fst
    | with_reducible apply canon_foldl_x
    | with_reducible apply canon_foldl_run_fst
    | with_reducible apply canon_ite
    | with_reducible apply canon_ite_s
    | with_reducible apply canon_ite_fst
    | with_reducible apply canon_ite_fst_s
    | simp only [canon_mk_iff]
    | split
    | intro _

theorem canon_writeMap {kw kt kr ks kv xn xc} {x : Rd} {o : Origin} {b : Body} {l : List (Nat × Nat)} (h_x : x.s.Canon
    kw kt kr ks none none kv ⟨none, none, none, none, none, xn, xc⟩) : (writeMap x o b l).s.Canon kw kt kr ks none
    none kv ⟨none, none, none, none, none, xn, xc⟩ := by
  unfold writeMap
  try dsimp only
  repeat' first
    | with_reducible assumption
    | with_reducible apply canon_Rd_put
    | with_reducible apply canon_foldl
    | with_reducible apply canon_foldl_fst
    | with_reducible apply canon_foldl_rd
    | with_reducible apply canon_foldl_rd_fst
    | with_reducible apply canon_foldl_x
    | with_reducible apply canon_foldl_run_fst
    | with_reducible apply canon_ite
    | with_reducible apply canon_ite_s
    | with_reducible apply canon_ite_fst
    | with_reducible apply canon_ite_fst_s
    | simp only [canon_mk_iff]
    | split
    | intro _

theorem canon_readLoose {kw kt kr ks xn xc} {x : Rd} {o : Origin} {a : Nat} {top : Nat} {width : Nat} {limit : Nat}
    (h_x : x.s.Canon kw kt kr ks none none none ⟨none, none, none, none, none, xn, xc⟩) : (readLoose x o a top width
    limit).1.s.Canon kw kt kr ks none none none ⟨none, none, none, none, none, xn, xc⟩ := by
  unfold readLoose
  try dsimp only
  repeat' first
    | with_reducible assumption
    | with_reducible apply canon_Rd_stop
    | with_reducible apply canon_Rd_count
    | with_reducible apply canon_Rd_taint
    | with_reducible apply canon_Rd_read
    | with_reducible apply canon_Rd_word
    | with_reducible apply canon_ite
    | with_reducible apply canon_ite_s
    | with_reducible apply canon_ite_fst
    | with_reducible apply canon_ite_fst_s
    | simp only [canon_mk_iff]
    | split
    | intro _

theorem canon_blockPersist {kw kt kr ks kp kv xn xc} {s : Chip} {o : Origin} {b : Nat} {code : Nat} {detail : Nat} {f
    : Option Field} (h_s : s.Canon kw kt kr ks none kp kv ⟨none, none, none, none, none, xn, xc⟩) : (blockPersist s o
    b code detail f).Canon kw kt kr ks none kp kv ⟨none, none, none, none, none, xn, xc⟩ := by
  unfold blockPersist
  try dsimp only
  repeat' first
    | with_reducible assumption
    | with_reducible apply canon_send
    | with_reducible apply canon_report
    | with_reducible apply canon_fenceBlock
    | with_reducible apply canon_ite
    | with_reducible apply canon_ite_s
    | with_reducible apply canon_ite_fst
    | with_reducible apply canon_ite_fst_s
    | simp only [canon_mk_iff]
    | split

theorem canon_residue {kw kt kr ks kp kv xn xc} {s : Chip} {o : Origin} {b : Nat} {r : Residue} (h_s : s.Canon kw kt
    kr ks none kp kv ⟨none, none, none, none, none, xn, xc⟩) : (residue s o b r).Canon kw kt kr ks none kp kv ⟨none,
    none, none, none, none, xn, xc⟩ := by
  unfold residue
  try dsimp only
  repeat' first
    | with_reducible assumption
    | with_reducible apply canon_wrAll
    | with_reducible apply canon_bump
    | with_reducible apply canon_countEvent
    | with_reducible apply canon_report
    | with_reducible apply canon_blockPersist
    | with_reducible apply canon_ite
    | with_reducible apply canon_ite_s
    | with_reducible apply canon_ite_fst
    | with_reducible apply canon_ite_fst_s
    | simp only [canon_mk_iff]
    | split
    | intro _

theorem canon_accError {kw kt kr ks kp kv xn xc} {s : Chip} {o : Origin} {b : Nat} {k : Nat} {ue : Bool} (h_s :
    s.Canon kw kt kr ks none kp kv ⟨none, none, none, none, none, xn, xc⟩) : (accError s o b k ue).Canon kw kt kr ks
    none kp kv ⟨none, none, none, none, none, xn, xc⟩ := by
  unfold accError
  try dsimp only
  repeat' first
    | with_reducible assumption
    | with_reducible apply canon_countEvent
    | with_reducible apply canon_report
    | with_reducible apply canon_setBlock
    | with_reducible apply canon_blockPersist
    | with_reducible apply canon_ite
    | with_reducible apply canon_ite_s
    | with_reducible apply canon_ite_fst
    | with_reducible apply canon_ite_fst_s
    | simp only [canon_mk_iff]
    | split
    | intro _

theorem canon_injectBlock {kw kt kr ks kp kv xn xc} {s : Chip} {o : Origin} {b : Nat} {k : Nat} {planes : Bool} (h_s :
    s.Canon kw kt kr ks none kp kv ⟨none, none, none, none, none, xn, xc⟩) : (injectBlock s o b k planes).Canon kw kt
    kr ks none kp kv ⟨none, none, none, none, none, xn, xc⟩ := by
  unfold injectBlock
  try dsimp only
  repeat' first
    | with_reducible assumption
    | with_reducible apply canon_wr
    | with_reducible apply canon_residue
    | with_reducible apply canon_accError
    | with_reducible apply canon_ite
    | with_reducible apply canon_ite_s
    | with_reducible apply canon_ite_fst
    | with_reducible apply canon_ite_fst_s
    | simp only [canon_mk_iff]
    | split
    | intro _

theorem canon_meetEvents {kw kt kr ks kp kv xn xc} {s : Chip} {o : Origin} {b : Nat} {planes : Bool} {l : List
    PassEvent} (h_s : s.Canon kw kt kr ks none kp kv ⟨none, none, none, none, none, xn, xc⟩) : (meetEvents s o b
    planes l).Canon kw kt kr ks none kp kv ⟨none, none, none, none, none, xn, xc⟩ := by
  unfold meetEvents
  try dsimp only
  repeat' first
    | with_reducible assumption
    | with_reducible apply canon_residue
    | with_reducible apply canon_accError
    | with_reducible apply canon_foldl
    | with_reducible apply canon_foldl_fst
    | with_reducible apply canon_foldl_rd
    | with_reducible apply canon_foldl_rd_fst
    | with_reducible apply canon_foldl_x
    | with_reducible apply canon_foldl_run_fst
    | with_reducible apply canon_ite
    | with_reducible apply canon_ite_s
    | with_reducible apply canon_ite_fst
    | with_reducible apply canon_ite_fst_s
    | simp only [canon_mk_iff]
    | split
    | intro _

theorem canon_takeSets {kw kt kr ks km kp kv xq xl xm xh xn xc} {s : Chip} {b : Nat} {narrow : Bool} {o : Origin} {l :
    List Nat} (h_s : s.Canon kw kt kr ks km kp kv ⟨none, xq, xl, xm, xh, xn, xc⟩) : (takeSets s b narrow o l).Canon kw
    kt kr ks km kp kv ⟨none, xq, xl, xm, xh, xn, xc⟩ := by
  unfold takeSets
  try dsimp only
  repeat' first
    | with_reducible assumption
    | with_reducible apply canon_wrAll
    | with_reducible apply canon_setBlock
    | with_reducible apply canon_foldl
    | with_reducible apply canon_foldl_fst
    | with_reducible apply canon_foldl_rd
    | with_reducible apply canon_foldl_rd_fst
    | with_reducible apply canon_foldl_x
    | with_reducible apply canon_foldl_run_fst
    | with_reducible apply canon_ite
    | with_reducible apply canon_ite_s
    | with_reducible apply canon_ite_fst
    | with_reducible apply canon_ite_fst_s
    | simp only [canon_mk_iff]
    | split
    | intro _

theorem canon_clearSlots {kw kt kr ks km kp kv xq xl xm xh xn xc} {s : Chip} {b : Nat} {narrow : Bool} {first : Nat}
    {n : Nat} {cols : Nat} (h_s : s.Canon kw kt kr ks km kp kv ⟨none, xq, xl, xm, xh, xn, xc⟩) : (clearSlots s b
    narrow first n cols).Canon kw kt kr ks km kp kv ⟨none, xq, xl, xm, xh, xn, xc⟩ := by
  unfold clearSlots
  try dsimp only
  repeat' first
    | with_reducible assumption
    | with_reducible apply canon_setBlock

theorem canon_readWiden {kw kt kr ks xn xc} {x : Rd} {o : Origin} {a : Nat} {first : Nat} {n : Nat} {meets : Nat → Nat
    → Bool} (h_x : x.s.Canon kw kt kr ks none none none ⟨none, none, none, none, none, xn, xc⟩) : (readWiden x o a
    first n meets).1.s.Canon kw kt kr ks none none none ⟨none, none, none, none, none, xn, xc⟩ := by
  unfold readWiden
  try dsimp only
  repeat' first
    | with_reducible assumption
    | with_reducible apply canon_Rd_stop
    | with_reducible apply canon_Rd_read
    | with_reducible apply canon_foldl
    | with_reducible apply canon_foldl_fst
    | with_reducible apply canon_foldl_rd
    | with_reducible apply canon_foldl_rd_fst
    | with_reducible apply canon_foldl_x
    | with_reducible apply canon_foldl_run_fst
    | with_reducible apply canon_ite
    | with_reducible apply canon_ite_s
    | with_reducible apply canon_ite_fst
    | with_reducible apply canon_ite_fst_s
    | simp only [canon_mk_iff]
    | split
    | intro _

theorem canon_widenTokens {kw kt kr ks xn xc} {x : Rd} {o : Origin} {k : Nat} {shift : Int} {ns : Nat} {rung : Nat} {l
    : List (Nat × Nat × Nat × Nat)} (h_x : x.s.Canon kw kt kr ks none none none ⟨none, none, none, none, none, xn,
    xc⟩) : (widenTokens x o k shift ns rung l).1.s.Canon kw kt kr ks none none none ⟨none, none, none, none, none, xn,
    xc⟩ := by
  unfold widenTokens
  try dsimp only
  repeat' first
    | with_reducible assumption
    | with_reducible apply canon_readToken
    | with_reducible apply canon_foldl
    | with_reducible apply canon_foldl_fst
    | with_reducible apply canon_foldl_rd
    | with_reducible apply canon_foldl_rd_fst
    | with_reducible apply canon_foldl_x
    | with_reducible apply canon_foldl_run_fst
    | with_reducible apply canon_ite
    | with_reducible apply canon_ite_s
    | with_reducible apply canon_ite_fst
    | with_reducible apply canon_ite_fst_s
    | simp only [canon_mk_iff]
    | split
    | intro _

theorem canon_runTokens {kw kt kr ks km kp kv xl xm xn xc} {s : Chip} {o : Origin} {b : Nat} {narrow : Bool} {w : Nat
    → Nat → Int} {cols : Nat} {width : Nat} {tileBad : Bool} {l : List (Nat × Token)} (h_s : s.Canon kw kt kr ks km kp
    kv ⟨none, none, xl, xm, none, xn, xc⟩) : (runTokens s o b narrow w cols width tileBad l).Canon kw kt kr ks km kp
    kv ⟨none, none, xl, xm, none, xn, xc⟩ := by
  unfold runTokens
  try dsimp only
  repeat' first
    | with_reducible assumption
    | with_reducible apply canon_bump
    | with_reducible apply canon_setBlock
    | with_reducible apply canon_markPoisoned
    | with_reducible apply canon_countFmt
    | with_reducible apply canon_foldl
    | with_reducible apply canon_foldl_fst
    | with_reducible apply canon_foldl_rd
    | with_reducible apply canon_foldl_rd_fst
    | with_reducible apply canon_foldl_x
    | with_reducible apply canon_foldl_run_fst
    | with_reducible apply canon_ite
    | with_reducible apply canon_ite_s
    | with_reducible apply canon_ite_fst
    | with_reducible apply canon_ite_fst_s
    | simp only [canon_mk_iff]
    | split
    | intro _

theorem canon_countPass {kw kt kr ks km kp kv kx} {s : Chip} {b : Nat} (h_s : s.Canon kw kt kr ks km kp kv kx) :
    (countPass s b).Canon kw kt kr ks km kp kv kx := by
  unfold countPass
  try dsimp only
  repeat' first
    | with_reducible assumption
    | with_reducible apply canon_bump64

theorem canon_strokeDone {kw kt kr ks km kp kv xb xl xm xh xn xc} {s : Chip} {o : Origin} {blk : Fin 256} {b : Body}
    {cycles : Nat} (h_s : s.Canon kw kt kr ks km kp kv ⟨xb, none, xl, xm, xh, xn, xc⟩) : (strokeDone s o blk b
    cycles).Canon kw kt kr ks km kp kv ⟨xb, none, xl, xm, xh, xn, xc⟩ := by
  unfold strokeDone
  try dsimp only
  repeat' first
    | with_reducible assumption
    | with_reducible apply canon_wr
    | with_reducible apply canon_finish
    | with_reducible apply canon_charge

theorem canon_poisonSlots {kw kt kr ks km kp kv xl xm xh xn xc} {s : Chip} {o : Origin} {blk : Nat} {narrow : Bool}
    {first : Nat} {cols : Nat} {l : List Nat} (h_s : s.Canon kw kt kr ks km kp kv ⟨none, none, xl, xm, xh, xn, xc⟩) :
    (poisonSlots s o blk narrow first cols l).Canon kw kt kr ks km kp kv ⟨none, none, xl, xm, xh, xn, xc⟩ := by
  unfold poisonSlots
  try dsimp only
  repeat' first
    | with_reducible assumption
    | with_reducible apply canon_setBlock
    | with_reducible apply canon_markPoisoned
    | with_reducible apply canon_foldl
    | with_reducible apply canon_foldl_fst
    | with_reducible apply canon_foldl_rd
    | with_reducible apply canon_foldl_rd_fst
    | with_reducible apply canon_foldl_x
    | with_reducible apply canon_foldl_run_fst
    | with_reducible apply canon_ite
    | with_reducible apply canon_ite_s
    | with_reducible apply canon_ite_fst
    | with_reducible apply canon_ite_fst_s
    | simp only [canon_mk_iff]
    | split
    | intro _

theorem canon_loosePass {kw kt kr ks km kp kv xl xm xn xc} {s : Chip} {o : Origin} {blk : Nat} {narrow : Bool} {t :
    Tile} {width : Nat} {first : Nat} {l : List Loose} {runs : List (List Nat × List Nat)} (h_s : s.Canon kw kt kr ks
    km kp kv ⟨none, none, xl, xm, none, xn, xc⟩) : (loosePass s o blk narrow t width first l runs).1.Canon kw kt kr ks
    km kp kv ⟨none, none, xl, xm, none, xn, xc⟩ := by
  unfold loosePass
  try dsimp only
  repeat' first
    | with_reducible assumption
    | with_reducible apply canon_wr
    | with_reducible apply canon_runTokens
    | with_reducible apply canon_countPass
    | with_reducible apply canon_poisonSlots
    | with_reducible apply canon_foldl
    | with_reducible apply canon_foldl_fst
    | with_reducible apply canon_foldl_rd
    | with_reducible apply canon_foldl_rd_fst
    | with_reducible apply canon_foldl_x
    | with_reducible apply canon_foldl_run_fst
    | with_reducible apply canon_ite
    | with_reducible apply canon_ite_s
    | with_reducible apply canon_ite_fst
    | with_reducible apply canon_ite_fst_s
    | simp only [canon_mk_iff]
    | split
    | intro _

theorem canon_widenPasses {kw kt kr ks xn xc} {x : Rd} {o : Origin} {blk : Nat} {b : Body} {t : Tile} {narrow : Bool}
    {slotOf : Nat → Nat} {l : List (Nat × Nat × Nat × Nat)} (h_x : x.s.Canon kw kt kr ks none none none ⟨none, none,
    none, none, none, xn, xc⟩) : (widenPasses x o blk b t narrow slotOf l).1.s.Canon kw kt kr ks none none none ⟨none,
    none, none, none, none, xn, xc⟩ := by
  unfold widenPasses
  try dsimp only
  repeat' first
    | with_reducible assumption
    | with_reducible apply canon_widenTokens
    | with_reducible apply canon_runTokens
    | with_reducible apply canon_countPass
    | with_reducible apply canon_foldl
    | with_reducible apply canon_foldl_fst
    | with_reducible apply canon_foldl_rd
    | with_reducible apply canon_foldl_rd_fst
    | with_reducible apply canon_foldl_x
    | with_reducible apply canon_foldl_run_fst
    | with_reducible apply canon_ite
    | with_reducible apply canon_ite_s
    | with_reducible apply canon_ite_fst
    | with_reducible apply canon_ite_fst_s
    | simp only [canon_mk_iff]
    | split
    | intro _

theorem canon_sendBf16 {kw kt kr ks km kp kv kx} {s : Chip} {o : Origin} {blk : Nat} {b : Body} {t : Tile} {slotOf :
    Nat → Nat} {l : List (Nat × Nat × Nat × Nat)} (h_s : s.Canon kw kt kr ks km kp kv kx) : (sendBf16 s o blk b t
    slotOf l).Canon kw kt kr ks km kp kv kx := by
  unfold sendBf16
  try dsimp only
  repeat' first
    | with_reducible assumption
    | with_reducible apply canon_finWakes
    | with_reducible apply canon_Rd_tile
    | with_reducible apply canon_ite
    | with_reducible apply canon_ite_s
    | with_reducible apply canon_ite_fst
    | with_reducible apply canon_ite_fst_s
    | simp only [canon_mk_iff]
    | split
    | intro _

theorem canon_passTile {kw kt kr ks xn xc} {x : Rd} {o : Origin} {blk : Nat} {b : Body} (h_x : x.s.Canon kw kt kr ks
    none none none ⟨none, none, none, none, none, xn, xc⟩) : (passTile x o blk b).1.s.Canon kw kt kr ks none none none
    ⟨none, none, none, none, none, xn, xc⟩ := by
  unfold passTile
  try dsimp only
  repeat' first
    | with_reducible assumption
    | with_reducible apply canon_Rd_read
    | with_reducible apply canon_Rd_delta
    | with_reducible apply canon_Rd_tile
    | unfold passTile.load
    | with_reducible apply canon_ite
    | with_reducible apply canon_ite_s
    | with_reducible apply canon_ite_fst
    | with_reducible apply canon_ite_fst_s
    | simp only [canon_mk_iff]
    | split
    | intro _

theorem canon_passTokens {kw kt kr ks xn xc} {x : Rd} {o : Origin} {b : Body} (h_x : x.s.Canon kw kt kr ks none none
    none ⟨none, none, none, none, none, xn, xc⟩) : (passTokens x o b).1.s.Canon kw kt kr ks none none none ⟨none,
    none, none, none, none, xn, xc⟩ := by
  unfold passTokens
  try dsimp only
  repeat' first
    | with_reducible assumption
    | with_reducible apply canon_readDispatch
    | with_reducible apply canon_writeMap
    | with_reducible apply canon_ite
    | with_reducible apply canon_ite_s
    | with_reducible apply canon_ite_fst
    | with_reducible apply canon_ite_fst_s
    | simp only [canon_mk_iff]
    | split
    | intro _

theorem canon_passRead {kw kt kr ks xn xc} {x : Rd} {o : Origin} {blk : Nat} {b : Body} {l : List (Nat × Nat)} (h_x :
    x.s.Canon kw kt kr ks none none none ⟨none, none, none, none, none, xn, xc⟩) : (passRead x o blk b l).1.s.Canon kw
    kt kr ks none none none ⟨none, none, none, none, none, xn, xc⟩ := by
  unfold passRead
  try dsimp only
  repeat' first
    | with_reducible assumption
    | with_reducible apply canon_Rd_stop
    | with_reducible apply canon_Rd_gatherRows
    | with_reducible apply canon_Rd_tile
    | with_reducible apply canon_readToken
    | with_reducible apply canon_readLoose
    | with_reducible apply canon_readWiden
    | with_reducible apply canon_passTile
    | with_reducible apply canon_foldl
    | with_reducible apply canon_foldl_fst
    | with_reducible apply canon_foldl_rd
    | with_reducible apply canon_foldl_rd_fst
    | with_reducible apply canon_foldl_x
    | with_reducible apply canon_foldl_run_fst
    | with_reducible apply canon_ite
    | with_reducible apply canon_ite_s
    | with_reducible apply canon_ite_fst
    | with_reducible apply canon_ite_fst_s
    | simp only [canon_mk_iff]
    | split
    | intro _

theorem canon_passPlanes {kw kt kr ks km kp kv xl xm xn xc} {s : Chip} {o : Origin} {blk : Nat} {b : Body} {first :
    Nat} {v : PassData} (h_s : s.Canon kw kt kr ks km kp kv ⟨none, none, xl, xm, none, xn, xc⟩) : (passPlanes s o blk
    b first v).1.Canon kw kt kr ks km kp kv ⟨none, none, xl, xm, none, xn, xc⟩ := by
  unfold passPlanes
  try dsimp only
  repeat' first
    | with_reducible assumption
    | with_reducible apply canon_Rd_tile
    | with_reducible apply canon_Rd_keepers
    | with_reducible apply canon_runTokens
    | with_reducible apply canon_countPass
    | with_reducible apply canon_loosePass
    | with_reducible apply canon_ite
    | with_reducible apply canon_ite_s
    | with_reducible apply canon_ite_fst
    | with_reducible apply canon_ite_fst_s
    | simp only [canon_mk_iff]
    | split
    | intro _

theorem canon_passSets {kw kt kr ks km kp kv xq xl xm xh xn xc} {s : Chip} {o : Origin} {blk : Nat} {b : Body} {first
    : Nat} {n : Nat} {v : PassData} (h_s : s.Canon kw kt kr ks km kp kv ⟨none, xq, xl, xm, xh, xn, xc⟩) : (passSets s
    o blk b first n v).Canon kw kt kr ks km kp kv ⟨none, xq, xl, xm, xh, xn, xc⟩ := by
  unfold passSets
  try dsimp only
  repeat' first
    | with_reducible assumption
    | with_reducible apply canon_setBlock
    | with_reducible apply canon_Rd_tile
    | with_reducible apply canon_takeSets
    | with_reducible apply canon_clearSlots
    | with_reducible apply canon_ite
    | with_reducible apply canon_ite_s
    | with_reducible apply canon_ite_fst
    | with_reducible apply canon_ite_fst_s
    | simp only [canon_mk_iff]
    | split
    | intro _

theorem canon_passWidBad {kw kt kr ks km kp kv xl xm xh xn xc} {s : Chip} {o : Origin} {blk : Nat} {b : Body} {first :
    Nat} {n : Nat} {v : PassData} (h_s : s.Canon kw kt kr ks km kp kv ⟨none, none, xl, xm, xh, xn, xc⟩) : (passWidBad
    s o blk b first n v).Canon kw kt kr ks km kp kv ⟨none, none, xl, xm, xh, xn, xc⟩ := by
  unfold passWidBad
  try dsimp only
  repeat' first
    | with_reducible assumption
    | with_reducible apply canon_poisonSlots
    | with_reducible apply canon_ite
    | with_reducible apply canon_ite_s
    | with_reducible apply canon_ite_fst
    | with_reducible apply canon_ite_fst_s
    | simp only [canon_mk_iff]
    | split
    | intro _

theorem canon_passMeets {kw kt kr ks kp kv xn xc} {s : Chip} {o : Origin} {blk : Fin 256} {b : Body} {first : Nat}
    {live : Bool} {events : List PassEvent} (h_s : s.Canon kw kt kr ks none kp kv ⟨none, none, none, none, none, xn,
    xc⟩) : (passMeets s o blk b first live events).Canon kw kt kr ks none kp kv ⟨none, none, none, none, none, xn, xc⟩
    := by
  unfold passMeets
  try dsimp only
  repeat' first
    | with_reducible assumption
    | with_reducible apply canon_injectBlock
    | with_reducible apply canon_meetEvents

theorem canon_passBody {kw kt kr ks xn xc} {x : Rd} {o : Origin} {blk : Fin 256} {b : Body} {first : Nat} {extra :
    Nat} {l : List (Nat × Nat)} {v : PassData} (h_x : x.s.Canon kw kt kr ks none none none ⟨none, none, none, none,
    none, xn, xc⟩) : (passBody x o blk b first extra l v).Canon kw kt kr ks none none none ⟨none, none, none, none,
    none, xn, xc⟩ := by
  unfold passBody
  try dsimp only
  repeat' first
    | with_reducible assumption
    | with_reducible apply canon_charge
    | with_reducible apply canon_Rd_tile
    | with_reducible apply canon_closeRd
    | with_reducible apply canon_strokeDone
    | with_reducible apply canon_widenPasses
    | with_reducible apply canon_sendBf16
    | with_reducible apply canon_passPlanes
    | with_reducible apply canon_passWidBad
    | with_reducible apply canon_ite
    | with_reducible apply canon_ite_s
    | with_reducible apply canon_ite_fst
    | with_reducible apply canon_ite_fst_s
    | simp only [canon_mk_iff]
    | split
    | intro _

theorem canon_passRun {kw kt kr ks xn xc} {x : Rd} {o : Origin} {blk : Fin 256} {b : Body} {first : Nat} {l : List
    (Nat × Nat)} {v : PassData} {events : List PassEvent} (h_x : x.s.Canon kw kt kr ks none none none ⟨none, none,
    none, none, none, xn, xc⟩) : (passRun x o blk b first l v events).Canon kw kt kr ks none none none ⟨none, none,
    none, none, none, xn, xc⟩ := by
  unfold passRun
  try dsimp only
  repeat' first
    | with_reducible assumption
    | with_reducible apply canon_closeRd
    | with_reducible apply canon_passSets
    | with_reducible apply canon_passMeets
    | with_reducible apply canon_passBody
    | with_reducible apply canon_ite
    | with_reducible apply canon_ite_s
    | with_reducible apply canon_ite_fst
    | with_reducible apply canon_ite_fst_s
    | simp only [canon_mk_iff]
    | split
    | intro _

theorem canon_runPass {kw kt kr ks xn xc} {s : Chip} {o : Origin} {blk : Fin 256} {b : Body} {events : List PassEvent}
    (h_s : s.Canon kw kt kr ks none none none ⟨none, none, none, none, none, xn, xc⟩) : (runPass s o blk b
    events).Canon kw kt kr ks none none none ⟨none, none, none, none, none, xn, xc⟩ := by
  unfold runPass
  try dsimp only
  repeat' first
    | with_reducible assumption
    | with_reducible apply canon_startRd
    | with_reducible apply canon_closeRd
    | with_reducible apply canon_strokeDone
    | with_reducible apply canon_passTokens
    | with_reducible apply canon_passRead
    | with_reducible apply canon_passRun
    | with_reducible apply canon_ite
    | with_reducible apply canon_ite_s
    | with_reducible apply canon_ite_fst
    | with_reducible apply canon_ite_fst_s
    | simp only [canon_mk_iff]
    | split
    | intro _

theorem canon_startAccWait {kw kt kr ks xn xc} {s : Chip} {o : Origin} {blk : Fin 256} {b : Body} {events : List
    PassEvent} (h_s : s.Canon kw kt kr ks none none none ⟨none, none, none, none, none, xn, xc⟩) : (startAccWait s o
    blk b events).Canon kw kt kr ks none none none ⟨none, none, none, none, none, xn, xc⟩ := by
  unfold startAccWait
  try dsimp only
  repeat' first
    | with_reducible assumption
    | with_reducible apply canon_setBlock

theorem canon_strokePass {kw kt kr ks xn xc} {s : Chip} {o : Origin} {blk : Fin 256} {b : Body} {events : List
    PassEvent} (h_s : s.Canon kw kt kr ks none none none ⟨none, none, none, none, none, xn, xc⟩) : (strokePass s o blk
    b events).Canon kw kt kr ks none none none ⟨none, none, none, none, none, xn, xc⟩ := by
  unfold strokePass
  try dsimp only
  repeat' first
    | with_reducible assumption
    | with_reducible apply canon_faultQueue
    | with_reducible apply canon_faultPad
    | with_reducible apply canon_faultBlock
    | with_reducible apply canon_strokeDone
    | with_reducible apply canon_runPass
    | with_reducible apply canon_startAccWait
    | with_reducible apply canon_ite
    | with_reducible apply canon_ite_s
    | with_reducible apply canon_ite_fst
    | with_reducible apply canon_ite_fst_s
    | simp only [canon_mk_iff]
    | split
    | intro _

theorem canon_endAccWait {kw kt kr ks km kp kv xl xm xh xn xc} {s : Chip} {blk : Fin 256} {w : AccWait} (h_s : s.Canon
    kw kt kr ks km kp kv ⟨none, none, xl, xm, xh, xn, xc⟩) : (endAccWait s blk w).Canon kw kt kr ks km kp kv ⟨none,
    none, xl, xm, xh, xn, xc⟩ := by
  unfold endAccWait
  try dsimp only
  repeat' first
    | with_reducible assumption
    | with_reducible apply canon_handTo
    | with_reducible apply canon_leaveAccWait

theorem canon_accModeWaitProceed {kw kt kr ks xn xc} {s : Chip} {blk : Fin 256} (h_s : s.Canon kw kt kr ks none none
    none ⟨none, none, none, none, none, xn, xc⟩) : (accModeWaitProceed s blk).Canon kw kt kr ks none none none ⟨none,
    none, none, none, none, xn, xc⟩ := by
  unfold accModeWaitProceed
  try dsimp only
  repeat' first
    | with_reducible assumption
    | with_reducible apply canon_runPass
    | with_reducible apply canon_endAccWait
    | with_reducible apply canon_ite
    | with_reducible apply canon_ite_s
    | with_reducible apply canon_ite_fst
    | with_reducible apply canon_ite_fst_s
    | simp only [canon_mk_iff]
    | split
    | intro _

theorem canon_accModeTimeout {kw kt kr ks kp kv xn xc} {s : Chip} {blk : Fin 256} (h_s : s.Canon kw kt kr ks none kp
    kv ⟨none, none, none, none, none, xn, xc⟩) : (accModeTimeout s blk).Canon kw kt kr ks none kp kv ⟨none, none,
    none, none, none, xn, xc⟩ := by
  unfold accModeTimeout
  try dsimp only
  repeat' first
    | with_reducible assumption
    | with_reducible apply canon_faultBlock
    | with_reducible apply canon_strokeDone
    | with_reducible apply canon_endAccWait
    | with_reducible apply canon_ite
    | with_reducible apply canon_ite_s
    | with_reducible apply canon_ite_fst
    | with_reducible apply canon_ite_fst_s
    | simp only [canon_mk_iff]
    | split
    | intro _

end Sys2Proof.Machine
end

