-- ==== Sys2Proof/Laws/CanonReadout.lean ====
section
/-! SUPPORT. The operations of Machine/Readout.lean keep the canonical form. -/
set_option linter.all false
namespace Sys2Proof.Machine

theorem canon_burnDone {kw kt kr ks km kp kv xb xl xm xh xn xc} {s : Chip} {o : Origin} {blk : Fin 256} {op : Nat} {b
    : Body} {n : Nat} (h_s : s.Canon kw kt kr ks km kp kv ⟨xb, none, xl, xm, xh, xn, xc⟩) : (burnDone s o blk op b
    n).Canon kw kt kr ks km kp kv ⟨xb, none, xl, xm, xh, xn, xc⟩ := by
  unfold burnDone
  try dsimp only
  repeat' first
    | with_reducible assumption
    | with_reducible apply canon_finish
    | with_reducible apply canon_charge

theorem canon_Rd_desc {kw kt kr ks xn xc} {x : Rd} {o : Origin} {a : Nat} (h_x : x.s.Canon kw kt kr ks none none none
    ⟨none, none, none, none, none, xn, xc⟩) : (Rd.desc x o a).1.s.Canon kw kt kr ks none none none ⟨none, none, none,
    none, none, xn, xc⟩ := by
  unfold Rd.desc
  try dsimp only
  repeat' first
    | with_reducible assumption
    | with_reducible apply canon_Rd_stop
    | with_reducible apply canon_Rd_read
    | with_reducible apply canon_ite
    | with_reducible apply canon_ite_s
    | with_reducible apply canon_ite_fst
    | with_reducible apply canon_ite_fst_s
    | simp only [canon_mk_iff]
    | split
    | intro _

theorem canon_Rd_values {kw kt kr ks xn xc} {x : Rd} {o : Origin} {a : Nat} {n : Nat} {size : Nat} (h_x : x.s.Canon kw
    kt kr ks none none none ⟨none, none, none, none, none, xn, xc⟩) : (Rd.values x o a n size).1.s.Canon kw kt kr ks
    none none none ⟨none, none, none, none, none, xn, xc⟩ := by
  unfold Rd.values
  try dsimp only
  repeat' first
    | with_reducible assumption
    | with_reducible apply canon_Rd_read

theorem canon_Rd_putValues {kw kt kr ks xn xc} {x : Rd} {o : Origin} {a : Nat} {l : List (Nat × Bool)} (h_x :
    x.s.Canon kw kt kr ks none none none ⟨none, none, none, none, none, xn, xc⟩) : (Rd.putValues x o a l).s.Canon kw
    kt kr ks none none none ⟨none, none, none, none, none, xn, xc⟩ := by
  unfold Rd.putValues
  try dsimp only
  repeat' first
    | with_reducible assumption
    | with_reducible apply canon_Rd_put
    | with_reducible apply canon_foldl
    | with_reducible apply canon_foldl_fst
    | with_reducible apply canon_foldl_rd
    | with_reducible apply canon_foldl_rd_fst
    | with_reducible apply canon_foldl_x
    | with_reducible apply canon_foldl_run_fst
    | with_reducible apply canon_ite
    | with_reducible apply canon_ite_s
    | with_reducible apply canon_ite_fst
    | with_reducible apply canon_ite_fst_s
    | simp only [canon_mk_iff]
    | split
    | intro _

theorem canon_slotToken {kw kt kr ks kv xn xc} {x : Rd} {o : Origin} {b : Body} {m : Nat} (h_x : x.s.Canon kw kt kr ks
    none none kv ⟨none, none, none, none, none, xn, xc⟩) : (slotToken x o b m).1.s.Canon kw kt kr ks none none kv
    ⟨none, none, none, none, none, xn, xc⟩ := by
  unfold slotToken
  try dsimp only
  repeat' first
    | with_reducible assumption
    | with_reducible apply canon_Rd_taint
    | with_reducible apply canon_Rd_word
    | with_reducible apply canon_ite
    | with_reducible apply canon_ite_s
    | with_reducible apply canon_ite_fst
    | with_reducible apply canon_ite_fst_s
    | simp only [canon_mk_iff]
    | split
    | intro _

theorem canon_readSteps {kw kt kr ks xn xc} {x : Rd} {o : Origin} {b : Body} {d : Desc} {scale : List (Nat × Bool)}
    {act : Option (List Nat × Bool)} {m : Nat} {t : Nat} {gate : Nat} {n : Nat} (h_x : x.s.Canon kw kt kr ks none none
    none ⟨none, none, none, none, none, xn, xc⟩) : (readSteps x o b d scale act m t gate n).1.s.Canon kw kt kr ks none
    none none ⟨none, none, none, none, none, xn, xc⟩ := by
  unfold readSteps
  try dsimp only
  repeat' first
    | with_reducible assumption
    | with_reducible apply canon_Rd_word
    | with_reducible apply canon_Rd_values
    | with_reducible apply canon_ite
    | with_reducible apply canon_ite_s
    | with_reducible apply canon_ite_fst
    | with_reducible apply canon_ite_fst_s
    | simp only [canon_mk_iff]
    | split
    | intro _

theorem canon_readSlot {kw kt kr ks xn xc} {x : Rd} {o : Origin} {blk : Nat} {b : Body} {d : Desc} {narrow : Bool}
    {scale : List (Nat × Bool)} {act : Option (List Nat × Bool)} {first : Nat} {n : Nat} {m : Nat} (h_x : x.s.Canon kw
    kt kr ks none none none ⟨none, none, none, none, none, xn, xc⟩) : (readSlot x o blk b d narrow scale act first n
    m).s.Canon kw kt kr ks none none none ⟨none, none, none, none, none, xn, xc⟩ := by
  unfold readSlot
  try dsimp only
  repeat' first
    | with_reducible assumption
    | with_reducible apply canon_Rd_values
    | with_reducible apply canon_Rd_putValues
    | with_reducible apply canon_slotToken
    | with_reducible apply canon_readSteps
    | with_reducible apply canon_foldl
    | with_reducible apply canon_foldl_fst
    | with_reducible apply canon_foldl_rd
    | with_reducible apply canon_foldl_rd_fst
    | with_reducible apply canon_foldl_x
    | with_reducible apply canon_foldl_run_fst
    | with_reducible apply canon_ite
    | with_reducible apply canon_ite_s
    | with_reducible apply canon_ite_fst
    | with_reducible apply canon_ite_fst_s
    | simp only [canon_mk_iff]
    | split
    | intro _

theorem canon_readAct {kw kt kr ks xn xc} {x : Rd} {o : Origin} {b : Body} (h_x : x.s.Canon kw kt kr ks none none none
    ⟨none, none, none, none, none, xn, xc⟩) : (readAct x o b).1.s.Canon kw kt kr ks none none none ⟨none, none, none,
    none, none, xn, xc⟩ := by
  unfold readAct
  try dsimp only
  repeat' first
    | with_reducible assumption
    | with_reducible apply canon_Rd_stop
    | with_reducible apply canon_Rd_values
    | with_reducible apply canon_ite
    | with_reducible apply canon_ite_s
    | with_reducible apply canon_ite_fst
    | with_reducible apply canon_ite_fst_s
    | simp only [canon_mk_iff]
    | split
    | intro _

theorem canon_readoutLoad {kw kt kr ks xn xc} {x : Rd} {o : Origin} {b : Body} (h_x : x.s.Canon kw kt kr ks none none
    none ⟨none, none, none, none, none, xn, xc⟩) : (readoutLoad x o b).1.s.Canon kw kt kr ks none none none ⟨none,
    none, none, none, none, xn, xc⟩ := by
  unfold readoutLoad
  try dsimp only
  repeat' first
    | with_reducible assumption
    | with_reducible apply canon_Rd_stop
    | with_reducible apply canon_Rd_desc
    | with_reducible apply canon_Rd_values
    | with_reducible apply canon_readAct
    | with_reducible apply canon_ite
    | with_reducible apply canon_ite_s
    | with_reducible apply canon_ite_fst
    | with_reducible apply canon_ite_fst_s
    | simp only [canon_mk_iff]
    | split
    | intro _

theorem canon_readoutSlots {kw kt kr ks xn xc} {y : Rd} {o : Origin} {blk : Nat} {b : Body} {d : Desc} {scale : List
    (Nat × Bool)} {act : Option (List Nat × Bool)} {first : Nat} (h_y : y.s.Canon kw kt kr ks none none none ⟨none,
    none, none, none, none, xn, xc⟩) : (readoutSlots y o blk b d scale act first).s.Canon kw kt kr ks none none none
    ⟨none, none, none, none, none, xn, xc⟩ := by
  unfold readoutSlots
  try dsimp only
  repeat' first
    | with_reducible assumption
    | with_reducible apply canon_readSlot
    | with_reducible apply canon_foldl
    | with_reducible apply canon_foldl_fst
    | with_reducible apply canon_foldl_rd
    | with_reducible apply canon_foldl_rd_fst
    | with_reducible apply canon_foldl_x
    | with_reducible apply canon_foldl_run_fst
    | with_reducible apply canon_ite
    | with_reducible apply canon_ite_s
    | with_reducible apply canon_ite_fst
    | with_reducible apply canon_ite_fst_s
    | simp only [canon_mk_iff]
    | split
    | intro _

theorem canon_readoutEnd {kw kt kr ks kp kv xn xc} {y : Rd} {o : Origin} {blk : Nat} {b : Body} {first : Nat} (h_y :
    y.s.Canon kw kt kr ks none kp kv ⟨none, none, none, none, none, xn, xc⟩) : (readoutEnd y o blk b first).Canon kw
    kt kr ks none kp kv ⟨none, none, none, none, none, xn, xc⟩ := by
  unfold readoutEnd
  try dsimp only
  repeat' first
    | with_reducible assumption
    | with_reducible apply canon_endSet
    | with_reducible apply canon_closeRd
    | with_reducible apply canon_foldl
    | with_reducible apply canon_foldl_fst
    | with_reducible apply canon_foldl_rd
    | with_reducible apply canon_foldl_rd_fst
    | with_reducible apply canon_foldl_x
    | with_reducible apply canon_foldl_run_fst
    | with_reducible apply canon_ite
    | with_reducible apply canon_ite_s
    | with_reducible apply canon_ite_fst
    | with_reducible apply canon_ite_fst_s
    | simp only [canon_mk_iff]
    | split
    | intro _

theorem canon_readoutMeets {kw kt kr ks kp kv xn xc} {s : Chip} {o : Origin} {blk : Fin 256} {b : Body} {first : Nat}
    {events : List PassEvent} (h_s : s.Canon kw kt kr ks none kp kv ⟨none, none, none, none, none, xn, xc⟩) :
    (readoutMeets s o blk b first events).Canon kw kt kr ks none kp kv ⟨none, none, none, none, none, xn, xc⟩ := by
  unfold readoutMeets
  try dsimp only
  repeat' first
    | with_reducible assumption
    | with_reducible apply canon_injectBlock
    | with_reducible apply canon_meetEvents

theorem canon_readout {kw kt kr ks xn xc} {s : Chip} {o : Origin} {blk : Fin 256} {b : Body} {events : List PassEvent}
    (h_s : s.Canon kw kt kr ks none none none ⟨none, none, none, none, none, xn, xc⟩) : (readout s o blk b
    events).Canon kw kt kr ks none none none ⟨none, none, none, none, none, xn, xc⟩ := by
  unfold readout
  try dsimp only
  repeat' first
    | with_reducible assumption
    | with_reducible apply canon_faultQueue
    | with_reducible apply canon_faultPad
    | with_reducible apply canon_startRd
    | with_reducible apply canon_faultBlock
    | with_reducible apply canon_closeRd
    | with_reducible apply canon_burnDone
    | with_reducible apply canon_readoutLoad
    | with_reducible apply canon_readoutSlots
    | with_reducible apply canon_readoutEnd
    | with_reducible apply canon_readoutMeets
    | with_reducible apply canon_ite
    | with_reducible apply canon_ite_s
    | with_reducible apply canon_ite_fst
    | with_reducible apply canon_ite_fst_s
    | simp only [canon_mk_iff]
    | split
    | intro _

end Sys2Proof.Machine
end

