-- ==== Sys2Proof/Laws/CanonQuantise.lean ====
section
/-! SUPPORT. The operations of Machine/Quantise.lean keep the canonical form. -/
set_option linter.all false
namespace Sys2Proof.Machine

theorem canon_claimStream {kw kt kr ks km kp kv xb xq xl xm xn xc} {s : Chip} {o : Origin} {blk : Nat} {e : Engine}
    {op : Nat} {b : Body} {key : Nat} {first : Nat} {last : Nat} (h_s : s.Canon kw kt kr ks km kp kv ⟨xb, xq, xl, xm,
    none, xn, xc⟩) : (claimStream s o blk e op b key first last).Canon kw kt kr ks km kp kv ⟨xb, xq, xl, xm, none, xn,
    xc⟩ := by
  unfold claimStream
  try dsimp only
  repeat' first
    | with_reducible assumption
    | with_reducible apply canon_countFmt
    | with_reducible apply canon_ite
    | with_reducible apply canon_ite_s
    | with_reducible apply canon_ite_fst
    | with_reducible apply canon_ite_fst_s
    | simp only [canon_mk_iff]
    | split
    | intro _

theorem canon_putStrap {kw kt kr ks kv xn xc} {x : Rd} {o : Origin} {d : Desc} {a : Nat} {ka : Nat} {tag : Nat} {exp :
    Nat} {w : Nat} {codes : List Int} {keep : List Nat} {y : List Nat} {row0 : Nat} {bad : Bool} (h_x : x.s.Canon kw
    kt kr ks none none kv ⟨none, none, none, none, none, xn, xc⟩) : (putStrap x o d a ka tag exp w codes keep y row0
    bad).s.Canon kw kt kr ks none none kv ⟨none, none, none, none, none, xn, xc⟩ := by
  unfold putStrap
  try dsimp only
  repeat' first
    | with_reducible assumption
    | with_reducible apply canon_Rd_put
    | with_reducible apply canon_ite
    | with_reducible apply canon_ite_s
    | with_reducible apply canon_ite_fst
    | with_reducible apply canon_ite_fst_s
    | simp only [canon_mk_iff]
    | split
    | intro _

theorem canon_resetWiden {kw kt kr ks kv xn xc} {x : Rd} {o : Origin} {d : Desc} (h_x : x.s.Canon kw kt kr ks none
    none kv ⟨none, none, none, none, none, xn, xc⟩) : (resetWiden x o d).s.Canon kw kt kr ks none none kv ⟨none, none,
    none, none, none, xn, xc⟩ := by
  unfold resetWiden
  try dsimp only
  repeat' first
    | with_reducible assumption
    | with_reducible apply canon_Rd_put
    | with_reducible apply canon_ite
    | with_reducible apply canon_ite_s
    | with_reducible apply canon_ite_fst
    | with_reducible apply canon_ite_fst_s
    | simp only [canon_mk_iff]
    | split
    | intro _

theorem canon_claimWiden {kw kt kr ks xn xc} {x : Rd} {o : Origin} {d : Desc} {need : Nat} (h_x : x.s.Canon kw kt kr
    ks none none none ⟨none, none, none, none, none, xn, xc⟩) : (claimWiden x o d need).1.s.Canon kw kt kr ks none
    none none ⟨none, none, none, none, none, xn, xc⟩ := by
  unfold claimWiden
  try dsimp only
  repeat' first
    | with_reducible assumption
    | with_reducible apply canon_Rd_taint
    | with_reducible apply canon_Rd_read
    | with_reducible apply canon_Rd_put
    | with_reducible apply canon_ite
    | with_reducible apply canon_ite_s
    | with_reducible apply canon_ite_fst
    | with_reducible apply canon_ite_fst_s
    | simp only [canon_mk_iff]
    | split
    | intro _

theorem canon_stormBegins {kw kt kr ks km kp kv xb xq xl xm xn xc} {s : Chip} {p : Nat} {pg : Page} (h_s : s.Canon kw
    kt kr ks km kp kv ⟨xb, xq, xl, xm, none, xn, xc⟩) : (stormBegins s p pg).Canon kw kt kr ks km kp kv ⟨xb, xq, xl,
    xm, none, xn, xc⟩ := by
  unfold stormBegins
  try dsimp only
  repeat' first
    | with_reducible assumption
    | with_reducible apply canon_wr
    | with_reducible apply canon_bump
    | with_reducible apply canon_setFlag
    | with_reducible apply canon_foldl
    | with_reducible apply canon_foldl_fst
    | with_reducible apply canon_foldl_rd
    | with_reducible apply canon_foldl_rd_fst
    | with_reducible apply canon_foldl_x
    | with_reducible apply canon_foldl_run_fst
    | with_reducible apply canon_ite
    | with_reducible apply canon_ite_s
    | with_reducible apply canon_ite_fst
    | with_reducible apply canon_ite_fst_s
    | simp only [canon_mk_iff]

theorem canon_widenCounted {kw kt kr ks km kp kv xb xq xl xm xn xc} {s : Chip} {p : Nat} (h_s : s.Canon kw kt kr ks km
    kp kv ⟨xb, xq, xl, xm, none, xn, xc⟩) : (widenCounted s p).Canon kw kt kr ks km kp kv ⟨xb, xq, xl, xm, none, xn,
    xc⟩ := by
  unfold widenCounted
  try dsimp only
  repeat' first
    | with_reducible assumption
    | with_reducible apply canon_bump
    | with_reducible apply canon_stormBegins
    | with_reducible apply canon_ite
    | with_reducible apply canon_ite_s
    | with_reducible apply canon_ite_fst
    | with_reducible apply canon_ite_fst_s
    | simp only [canon_mk_iff]
    | split
    | intro _

theorem canon_sendWiden {kw kt kr ks km kp kv xb xq xl xm xn xc} {s : Chip} {p : Nat} {q : Nat} {n : Nat} (h_s :
    s.Canon kw kt kr ks km kp kv ⟨xb, xq, xl, xm, none, xn, xc⟩) : (sendWiden s p q n).Canon kw kt kr ks km kp kv ⟨xb,
    xq, xl, xm, none, xn, xc⟩ := by
  unfold sendWiden
  try dsimp only
  repeat' first
    | with_reducible assumption
    | with_reducible apply canon_widenCounted
    | with_reducible apply canon_foldl
    | with_reducible apply canon_foldl_fst
    | with_reducible apply canon_foldl_rd
    | with_reducible apply canon_foldl_rd_fst
    | with_reducible apply canon_foldl_x
    | with_reducible apply canon_foldl_run_fst
    | with_reducible apply canon_ite
    | with_reducible apply canon_ite_s
    | with_reducible apply canon_ite_fst
    | with_reducible apply canon_ite_fst_s
    | simp only [canon_mk_iff]
    | split
    | intro _

theorem canon_putUnits {kw kt kr ks xn xc} {x : Rd} {o : Origin} {d : Desc} {area : Nat} {rung : Nat} {c : Option
    Coded} {y : List Nat} {row0 : Nat} {bad : Bool} (h_x : x.s.Canon kw kt kr ks none none none ⟨none, none, none,
    none, none, xn, xc⟩) : (putUnits x o d area rung c y row0 bad).s.Canon kw kt kr ks none none none ⟨none, none,
    none, none, none, xn, xc⟩ := by
  unfold putUnits
  try dsimp only
  repeat' first
    | with_reducible assumption
    | with_reducible apply canon_Rd_put
    | with_reducible apply canon_putStrap
    | with_reducible apply canon_foldl
    | with_reducible apply canon_foldl_fst
    | with_reducible apply canon_foldl_rd
    | with_reducible apply canon_foldl_rd_fst
    | with_reducible apply canon_foldl_x
    | with_reducible apply canon_foldl_run_fst
    | with_reducible apply canon_ite
    | with_reducible apply canon_ite_s
    | with_reducible apply canon_ite_fst
    | with_reducible apply canon_ite_fst_s
    | simp only [canon_mk_iff]
    | split
    | intro _

theorem canon_writeFirst {kw kt kr ks kv xn xc} {x : Rd} {o : Origin} {d : Desc} {a : Nat} {ka : Nat} {index : Nat}
    {row0 : Nat} {c : Coded} {y : List Nat} {bad : Bool} (h_x : x.s.Canon kw kt kr ks none none kv ⟨none, none, none,
    none, none, xn, xc⟩) : (writeFirst x o d a ka index row0 c y bad).s.Canon kw kt kr ks none none kv ⟨none, none,
    none, none, none, xn, xc⟩ := by
  unfold writeFirst
  try dsimp only
  repeat' first
    | with_reducible assumption
    | with_reducible apply canon_Rd_count
    | with_reducible apply canon_putStrap

theorem canon_quantiseOne {kw kt kr ks xn xc} {x : Rd} {o : Origin} {d : Desc} {t : Nat} {i : Nat} {noise : Option
    (Nat → Nat)} (h_x : x.s.Canon kw kt kr ks none none none ⟨none, none, none, none, none, xn, xc⟩) : (quantiseOne x
    o d t i noise).1.s.Canon kw kt kr ks none none none ⟨none, none, none, none, none, xn, xc⟩ := by
  unfold quantiseOne
  try dsimp only
  repeat' first
    | with_reducible assumption
    | with_reducible apply canon_Rd_count
    | with_reducible apply canon_Rd_put
    | with_reducible apply canon_Rd_values
    | with_reducible apply canon_putStrap
    | with_reducible apply canon_claimWiden
    | with_reducible apply canon_sendWiden
    | with_reducible apply canon_putUnits
    | with_reducible apply canon_writeFirst
    | with_reducible apply canon_ite
    | with_reducible apply canon_ite_s
    | with_reducible apply canon_ite_fst
    | with_reducible apply canon_ite_fst_s
    | simp only [canon_mk_iff]
    | split
    | intro _

theorem canon_quantiseCheck {kw kt kr ks xn xc} {x : Rd} {o : Origin} {b : Body} (h_x : x.s.Canon kw kt kr ks none
    none none ⟨none, none, none, none, none, xn, xc⟩) : (quantiseCheck x o b).1.s.Canon kw kt kr ks none none none
    ⟨none, none, none, none, none, xn, xc⟩ := by
  unfold quantiseCheck
  try dsimp only
  repeat' first
    | with_reducible assumption
    | with_reducible apply canon_Rd_stop
    | with_reducible apply canon_Rd_desc
    | with_reducible apply canon_ite
    | with_reducible apply canon_ite_s
    | with_reducible apply canon_ite_fst
    | with_reducible apply canon_ite_fst_s
    | simp only [canon_mk_iff]
    | split
    | intro _

theorem canon_quantiseWork {kw kt kr ks xn xc} {x : Rd} {o : Origin} {blk : Fin 256} {b : Body} {d : Desc} (h_x :
    x.s.Canon kw kt kr ks none none none ⟨none, none, none, none, none, xn, xc⟩) : (quantiseWork x o blk b
    d).1.s.Canon kw kt kr ks none none none ⟨none, none, none, none, none, xn, xc⟩ := by
  unfold quantiseWork
  try dsimp only
  repeat' first
    | with_reducible assumption
    | with_reducible apply canon_bump
    | with_reducible apply canon_claimStream
    | with_reducible apply canon_resetWiden
    | with_reducible apply canon_quantiseOne
    | with_reducible apply canon_foldl
    | with_reducible apply canon_foldl_fst
    | with_reducible apply canon_foldl_rd
    | with_reducible apply canon_foldl_rd_fst
    | with_reducible apply canon_foldl_x
    | with_reducible apply canon_foldl_run_fst
    | with_reducible apply canon_ite
    | with_reducible apply canon_ite_s
    | with_reducible apply canon_ite_fst
    | with_reducible apply canon_ite_fst_s
    | simp only [canon_mk_iff]
    | split
    | intro _

theorem canon_quantise {kw kt kr ks xn xc} {s : Chip} {o : Origin} {blk : Fin 256} {b : Body} (h_s : s.Canon kw kt kr
    ks none none none ⟨none, none, none, none, none, xn, xc⟩) : (quantise s o blk b).Canon kw kt kr ks none none none
    ⟨none, none, none, none, none, xn, xc⟩ := by
  unfold quantise
  try dsimp only
  repeat' first
    | with_reducible assumption
    | with_reducible apply canon_faultPad
    | with_reducible apply canon_startRd
    | with_reducible apply canon_closeRd
    | with_reducible apply canon_burnDone
    | with_reducible apply canon_quantiseCheck
    | with_reducible apply canon_quantiseWork
    | with_reducible apply canon_ite
    | with_reducible apply canon_ite_s
    | with_reducible apply canon_ite_fst
    | with_reducible apply canon_ite_fst_s
    | simp only [canon_mk_iff]
    | split
    | intro _

theorem canon_stormReset {kw kt kr ks km kp kv kx} {s : Chip} {p : Nat} (h_s : s.Canon kw kt kr ks km kp kv kx) :
    (stormReset s p).Canon kw kt kr ks km kp kv kx := by
  unfold stormReset
  try dsimp only
  repeat' first
    | with_reducible assumption
    | with_reducible apply canon_wrAll
    | with_reducible apply canon_ite
    | with_reducible apply canon_ite_s
    | with_reducible apply canon_ite_fst
    | with_reducible apply canon_ite_fst_s
    | simp only [canon_mk_iff]

theorem canon_widenNoted {kw kt kr ks km kp kv kx} {s : Chip} {p : Nat} {sent : Nat} (h_s : s.Canon kw kt kr ks km kp
    kv kx) : (widenNoted s p sent).Canon kw kt kr ks km kp kv kx := by
  unfold widenNoted
  try dsimp only
  repeat' first
    | with_reducible assumption
    | with_reducible apply canon_ite
    | with_reducible apply canon_ite_s
    | with_reducible apply canon_ite_fst
    | with_reducible apply canon_ite_fst_s
    | simp only [canon_mk_iff]

theorem canon_widenEventNotice {kw kt kr ks km kp kv xb xq xl xm xn xc} {s : Chip} {p : Nat} (h_s : s.Canon kw kt kr
    ks km kp kv ⟨xb, xq, xl, xm, none, xn, xc⟩) : (widenEventNotice s p).Canon kw kt kr ks km kp kv ⟨xb, xq, xl, xm,
    none, xn, xc⟩ := by
  unfold widenEventNotice
  try dsimp only
  repeat' first
    | with_reducible assumption
    | with_reducible apply canon_widenCounted
    | with_reducible apply canon_widenNoted
    | with_reducible apply canon_ite
    | with_reducible apply canon_ite_s
    | with_reducible apply canon_ite_fst
    | with_reducible apply canon_ite_fst_s
    | simp only [canon_mk_iff]
    | split
    | intro _

theorem canon_quadStormed {kw kt kr ks km kp kv kx} {s : Chip} {q : Nat} (h_s : s.Canon kw kt kr ks km kp kv kx) :
    (quadStormed s q).Canon kw kt kr ks km kp kv kx := by
  unfold quadStormed
  try dsimp only
  repeat' first
    | with_reducible assumption
    | with_reducible apply canon_ite
    | with_reducible apply canon_ite_s
    | with_reducible apply canon_ite_fst
    | with_reducible apply canon_ite_fst_s
    | simp only [canon_mk_iff]

theorem canon_stormNotice {kw kt kr ks km kp kv kx} {s : Chip} {q : Nat} (h_s : s.Canon kw kt kr ks km kp kv kx) :
    (stormNotice s q).Canon kw kt kr ks km kp kv kx := by
  unfold stormNotice
  try dsimp only
  repeat' first
    | with_reducible assumption
    | with_reducible apply canon_quadStormed
    | with_reducible apply canon_ite
    | with_reducible apply canon_ite_s
    | with_reducible apply canon_ite_fst
    | with_reducible apply canon_ite_fst_s
    | simp only [canon_mk_iff]
    | split
    | intro _

theorem canon_stormRolled {kw kt kr ks km kp kv kx} {s : Chip} {p : Nat} {len : Nat} {start : Nat} (h_s : s.Canon kw
    kt kr ks km kp kv kx) : (stormRolled s p len start).Canon kw kt kr ks km kp kv kx := by
  unfold stormRolled
  try dsimp only
  repeat' first
    | with_reducible assumption
    | with_reducible apply canon_stormReset
    | with_reducible apply canon_ite
    | with_reducible apply canon_ite_s
    | with_reducible apply canon_ite_fst
    | with_reducible apply canon_ite_fst_s
    | simp only [canon_mk_iff]

theorem canon_stormWindowRollover {kw kt kr ks km kp kv kx} {s : Chip} {p : Nat} (h_s : s.Canon kw kt kr ks km kp kv
    kx) : (stormWindowRollover s p).Canon kw kt kr ks km kp kv kx := by
  unfold stormWindowRollover
  try dsimp only
  repeat' first
    | with_reducible assumption
    | with_reducible apply canon_stormRolled
    | with_reducible apply canon_ite
    | with_reducible apply canon_ite_s
    | with_reducible apply canon_ite_fst
    | with_reducible apply canon_ite_fst_s
    | simp only [canon_mk_iff]
    | split
    | intro _

end Sys2Proof.Machine
end

