-- ==== Sys2Proof/Laws/CanonFinUnit.lean ====
section
/-! SUPPORT. The operations of Machine/FinUnit.lean keep the canonical form. -/
set_option linter.all false
namespace Sys2Proof.Machine

theorem canon_bufferError {kw kt kr ks km kp kv xb xq xl xm xn xc} {s : Chip} {pg : Page} {e : Nat} {x : BufferError}
    {ce : Field × Nat} {ue : Field × Nat} {region : Nat} (h_s : s.Canon kw kt kr ks km kp kv ⟨xb, xq, xl, xm, none,
    xn, xc⟩) : (bufferError s pg e x ce ue region).Canon kw kt kr ks km kp kv ⟨xb, xq, xl, xm, none, xn, xc⟩ := by
  unfold bufferError
  try dsimp only
  repeat' first
    | with_reducible assumption
    | with_reducible apply canon_countEvent
    | with_reducible apply canon_closeWindow
    | with_reducible apply canon_send
    | with_reducible apply canon_report
    | with_reducible apply canon_ite
    | with_reducible apply canon_ite_s
    | with_reducible apply canon_ite_fst
    | with_reducible apply canon_ite_fst_s
    | simp only [canon_mk_iff]
    | split
    | intro _

theorem canon_bufferMeets {kw kt kr ks km kp kv kx} {s : Chip} {pg : Page} {l : List BufferError} {f : Chip →
    BufferError → Chip} (h_s : s.Canon kw kt kr ks km kp kv kx) (h_f : ∀ a0 a1, a0.Canon kw kt kr ks km kp kv kx → (f
    a0 a1).Canon kw kt kr ks km kp kv kx) : (bufferMeets s pg l f).Canon kw kt kr ks km kp kv kx := by
  unfold bufferMeets
  try dsimp only
  repeat' first
    | with_reducible assumption
    | with_reducible apply canon_wr
    | with_reducible apply h_f
    | with_reducible apply canon_foldl

theorem canon_finError {kw kt kr ks km kp kv xb xq xl xm xn xc} {s : Chip} {q : Nat} {x : BufferError} (h_s : s.Canon
    kw kt kr ks km kp kv ⟨xb, xq, xl, xm, none, xn, xc⟩) : (finError s q x).Canon kw kt kr ks km kp kv ⟨xb, xq, xl,
    xm, none, xn, xc⟩ := by
  unfold finError
  try dsimp only
  repeat' first
    | with_reducible assumption
    | with_reducible apply canon_bump
    | with_reducible apply canon_bufferError

theorem canon_finDone {kw kt kr ks km kp kv xb xl xm xh xn xc} {s : Chip} {o : Origin} {b : Body} {n : Nat} (h_s :
    s.Canon kw kt kr ks km kp kv ⟨xb, none, xl, xm, xh, xn, xc⟩) : (finDone s o b n).Canon kw kt kr ks km kp kv ⟨xb,
    none, xl, xm, xh, xn, xc⟩ := by
  unfold finDone
  try dsimp only
  repeat' first
    | with_reducible assumption
    | with_reducible apply canon_bump64
    | with_reducible apply canon_finish
    | with_reducible apply canon_charge

theorem canon_finFault {kw kt kr ks kp kv xn xc} {s : Chip} {o : Origin} {b : Body} (h_s : s.Canon kw kt kr ks none kp
    kv ⟨none, none, none, none, none, xn, xc⟩) : (finFault s o b).Canon kw kt kr ks none kp kv ⟨none, none, none,
    none, none, xn, xc⟩ := by
  unfold finFault
  try dsimp only
  repeat' first
    | with_reducible assumption
    | with_reducible apply canon_faultJob
    | with_reducible apply canon_finDone

theorem canon_finFmt {kw kt kr ks km kp kv xb xq xl xm xn xc} {s : Chip} {q : Nat} {code : Nat} (h_s : s.Canon kw kt
    kr ks km kp kv ⟨xb, xq, xl, xm, none, xn, xc⟩) : (finFmt s q code).Canon kw kt kr ks km kp kv ⟨xb, xq, xl, xm,
    none, xn, xc⟩ := by
  unfold finFmt
  try dsimp only
  repeat' first
    | with_reducible assumption
    | with_reducible apply canon_wr
    | with_reducible apply canon_setFlag
    | with_reducible apply canon_ite
    | with_reducible apply canon_ite_s
    | with_reducible apply canon_ite_fst
    | with_reducible apply canon_ite_fst_s
    | simp only [canon_mk_iff]
    | split
    | intro _

theorem canon_finClose {kw kt kr ks kp kv xn xc} {x : Rd} {o : Origin} (h_x : x.s.Canon kw kt kr ks none kp kv ⟨none,
    none, none, none, none, xn, xc⟩) : (finClose x o).Canon kw kt kr ks none kp kv ⟨none, none, none, none, none, xn,
    xc⟩ := by
  unfold finClose
  try dsimp only
  repeat' first
    | with_reducible assumption
    | with_reducible apply canon_markPoisoned
    | with_reducible apply canon_faultJob
    | with_reducible apply canon_faultPad
    | with_reducible apply canon_consumed
    | with_reducible apply canon_finFmt
    | with_reducible apply canon_foldl
    | with_reducible apply canon_foldl_fst
    | with_reducible apply canon_foldl_rd
    | with_reducible apply canon_foldl_rd_fst
    | with_reducible apply canon_foldl_x
    | with_reducible apply canon_foldl_run_fst
    | with_reducible apply canon_ite
    | with_reducible apply canon_ite_s
    | with_reducible apply canon_ite_fst
    | with_reducible apply canon_ite_fst_s
    | simp only [canon_mk_iff]
    | split
    | intro _

theorem canon_readRows {kw kt kr ks xn xc} {x : Rd} {o : Origin} {device : Bool} {n : Nat} {size : Nat} {l : List Nat}
    (h_x : x.s.Canon kw kt kr ks none none none ⟨none, none, none, none, none, xn, xc⟩) : (readRows x o device n size
    l).1.s.Canon kw kt kr ks none none none ⟨none, none, none, none, none, xn, xc⟩ := by
  unfold readRows
  try dsimp only
  repeat' first
    | with_reducible assumption
    | with_reducible apply canon_readMeets
    | with_reducible apply canon_chargeRun
    | with_reducible apply canon_Rd_note
    | with_reducible apply canon_Rd_values
    | with_reducible apply canon_foldl
    | with_reducible apply canon_foldl_fst
    | with_reducible apply canon_foldl_rd
    | with_reducible apply canon_foldl_rd_fst
    | with_reducible apply canon_foldl_x
    | with_reducible apply canon_foldl_run_fst
    | with_reducible apply canon_ite
    | with_reducible apply canon_ite_s
    | with_reducible apply canon_ite_fst
    | with_reducible apply canon_ite_fst_s
    | simp only [canon_mk_iff]
    | split
    | intro _

theorem canon_Rd_putRow {kw kt kr ks xn xc} {x : Rd} {o : Origin} {a : Nat} {size : Nat} {l : List (Nat × Bool)} (h_x
    : x.s.Canon kw kt kr ks none none none ⟨none, none, none, none, none, xn, xc⟩) : (Rd.putRow x o a size l).s.Canon
    kw kt kr ks none none none ⟨none, none, none, none, none, xn, xc⟩ := by
  unfold Rd.putRow
  try dsimp only
  repeat' first
    | with_reducible assumption
    | with_reducible apply canon_Rd_put
    | with_reducible apply canon_foldl
    | with_reducible apply canon_foldl_fst
    | with_reducible apply canon_foldl_rd
    | with_reducible apply canon_foldl_rd_fst
    | with_reducible apply canon_foldl_x
    | with_reducible apply canon_foldl_run_fst
    | with_reducible apply canon_ite
    | with_reducible apply canon_ite_s
    | with_reducible apply canon_ite_fst
    | with_reducible apply canon_ite_fst_s
    | simp only [canon_mk_iff]
    | split
    | intro _

theorem canon_writeC {kw kt kr ks xn xc} {x : Rd} {o : Origin} {b : Body} {cols : Nat} {elem : Nat → Nat → Nat × Bool
    → Nat × Bool} (h_x : x.s.Canon kw kt kr ks none none none ⟨none, none, none, none, none, xn, xc⟩) : (writeC x o b
    cols elem).s.Canon kw kt kr ks none none none ⟨none, none, none, none, none, xn, xc⟩ := by
  unfold writeC
  try dsimp only
  repeat' first
    | with_reducible assumption
    | with_reducible apply canon_Rd_values
    | with_reducible apply canon_Rd_putRow
    | with_reducible apply canon_foldl
    | with_reducible apply canon_foldl_fst
    | with_reducible apply canon_foldl_rd
    | with_reducible apply canon_foldl_rd_fst
    | with_reducible apply canon_foldl_x
    | with_reducible apply canon_foldl_run_fst
    | with_reducible apply canon_ite
    | with_reducible apply canon_ite_s
    | with_reducible apply canon_ite_fst
    | with_reducible apply canon_ite_fst_s
    | simp only [canon_mk_iff]
    | split
    | intro _

theorem canon_finMatmul {kw kt kr ks xn xc} {x : Rd} {o : Origin} {b : Body} {poison : Bool} (h_x : x.s.Canon kw kt kr
    ks none none none ⟨none, none, none, none, none, xn, xc⟩) : (finMatmul x o b poison).s.Canon kw kt kr ks none none
    none ⟨none, none, none, none, none, xn, xc⟩ := by
  unfold finMatmul
  try dsimp only
  repeat' first
    | with_reducible assumption
    | with_reducible apply canon_Rd_stop
    | with_reducible apply canon_Rd_tile
    | with_reducible apply canon_readRows
    | with_reducible apply canon_writeC
    | with_reducible apply canon_ite
    | with_reducible apply canon_ite_s
    | with_reducible apply canon_ite_fst
    | with_reducible apply canon_ite_fst_s
    | simp only [canon_mk_iff]
    | split
    | intro _

theorem canon_readIds {kw kt kr ks xn xc} {x : Rd} {o : Origin} {b : Body} (h_x : x.s.Canon kw kt kr ks none none none
    ⟨none, none, none, none, none, xn, xc⟩) : (readIds x o b).1.s.Canon kw kt kr ks none none none ⟨none, none, none,
    none, none, xn, xc⟩ := by
  unfold readIds
  try dsimp only
  repeat' first
    | with_reducible assumption
    | with_reducible apply canon_Rd_stop
    | with_reducible apply canon_Rd_values
    | with_reducible apply canon_ite
    | with_reducible apply canon_ite_s
    | with_reducible apply canon_ite_fst
    | with_reducible apply canon_ite_fst_s
    | simp only [canon_mk_iff]
    | split
    | intro _

theorem canon_finGather {kw kt kr ks xn xc} {x : Rd} {o : Origin} {b : Body} {poison : Bool} (h_x : x.s.Canon kw kt kr
    ks none none none ⟨none, none, none, none, none, xn, xc⟩) : (finGather x o b poison).s.Canon kw kt kr ks none none
    none ⟨none, none, none, none, none, xn, xc⟩ := by
  unfold finGather
  try dsimp only
  repeat' first
    | with_reducible assumption
    | with_reducible apply canon_readRows
    | with_reducible apply canon_writeC
    | with_reducible apply canon_readIds
    | with_reducible apply canon_ite
    | with_reducible apply canon_ite_s
    | with_reducible apply canon_ite_fst
    | with_reducible apply canon_ite_fst_s
    | simp only [canon_mk_iff]
    | split
    | intro _

theorem canon_finWork {kw kt kr ks xn xc} {s : Chip} {o : Origin} {b : Body} {met : List BufferError} (h_s : s.Canon
    kw kt kr ks none none none ⟨none, none, none, none, none, xn, xc⟩) : (finWork s o b met).s.Canon kw kt kr ks none
    none none ⟨none, none, none, none, none, xn, xc⟩ := by
  unfold finWork
  try dsimp only
  repeat' first
    | with_reducible assumption
    | with_reducible apply canon_startRd
    | with_reducible apply canon_bufferMeets
    | with_reducible apply canon_finError
    | with_reducible apply canon_finMatmul
    | with_reducible apply canon_finGather
    | with_reducible apply canon_ite
    | with_reducible apply canon_ite_s
    | with_reducible apply canon_ite_fst
    | with_reducible apply canon_ite_fst_s
    | simp only [canon_mk_iff]
    | split
    | intro _

theorem canon_fin {kw kt kr ks xn xc} {s : Chip} {o : Origin} {b : Body} {met : List BufferError} (h_s : s.Canon kw kt
    kr ks none none none ⟨none, none, none, none, none, xn, xc⟩) : (fin s o b met).Canon kw kt kr ks none none none
    ⟨none, none, none, none, none, xn, xc⟩ := by
  unfold fin
  try dsimp only
  repeat' first
    | with_reducible assumption
    | with_reducible apply canon_runsHeld
    | with_reducible apply canon_faultMem
    | with_reducible apply canon_startRd
    | with_reducible apply canon_finDone
    | with_reducible apply canon_finFault
    | with_reducible apply canon_finClose
    | with_reducible apply canon_readIds
    | with_reducible apply canon_finWork
    | with_reducible apply canon_ite
    | with_reducible apply canon_ite_s
    | with_reducible apply canon_ite_fst
    | with_reducible apply canon_ite_fst_s
    | simp only [canon_mk_iff]
    | split
    | intro _

theorem canon_rungValues {kw kt kr ks xn xc} {x : Rd} {i : FinItem} (h_x : x.s.Canon kw kt kr ks none none none ⟨none,
    none, none, none, none, xn, xc⟩) : (rungValues x i).1.s.Canon kw kt kr ks none none none ⟨none, none, none, none,
    none, xn, xc⟩ := by
  unfold rungValues
  try dsimp only
  repeat' first
    | with_reducible assumption
    | with_reducible apply canon_Rd_tile
    | with_reducible apply canon_Rd_values
    | with_reducible apply canon_foldl
    | with_reducible apply canon_foldl_fst
    | with_reducible apply canon_foldl_rd
    | with_reducible apply canon_foldl_rd_fst
    | with_reducible apply canon_foldl_x
    | with_reducible apply canon_foldl_run_fst
    | with_reducible apply canon_ite
    | with_reducible apply canon_ite_s
    | with_reducible apply canon_ite_fst
    | with_reducible apply canon_ite_fst_s
    | simp only [canon_mk_iff]
    | split
    | intro _

theorem canon_widenItem {kw kt kr ks xn xc} {s : Chip} {q : Fin 16} {i : FinItem} {met : List BufferError} (h_s :
    s.Canon kw kt kr ks none none none ⟨none, none, none, none, none, xn, xc⟩) : (widenItem s q i met).Canon kw kt kr
    ks none none none ⟨none, none, none, none, none, xn, xc⟩ := by
  unfold widenItem
  try dsimp only
  repeat' first
    | with_reducible assumption
    | with_reducible apply canon_wr
    | with_reducible apply canon_bump
    | with_reducible apply canon_bump64
    | with_reducible apply canon_setBlock
    | with_reducible apply canon_stampEngine
    | with_reducible apply canon_finish
    | with_reducible apply canon_handTo
    | with_reducible apply canon_markPoisoned
    | with_reducible apply canon_charge
    | with_reducible apply canon_startRd
    | with_reducible apply canon_countFmt
    | with_reducible apply canon_bufferMeets
    | with_reducible apply canon_finError
    | with_reducible apply canon_finClose
    | with_reducible apply canon_rungValues
    | with_reducible apply canon_ite
    | with_reducible apply canon_ite_s
    | with_reducible apply canon_ite_fst
    | with_reducible apply canon_ite_fst_s
    | simp only [canon_mk_iff]
    | split
    | intro _

theorem canon_dropItem {kw kt kr ks km kp kv kx} {s : Chip} {i : FinItem} (h_s : s.Canon kw kt kr ks km kp kv kx) :
    (dropItem s i).Canon kw kt kr ks km kp kv kx := by
  unfold dropItem
  try dsimp only
  repeat' first
    | with_reducible assumption
    | with_reducible apply canon_ite
    | with_reducible apply canon_ite_s
    | with_reducible apply canon_ite_fst
    | with_reducible apply canon_ite_fst_s
    | simp only [canon_mk_iff]

theorem canon_finWidenItem {kw kt kr ks xn xc} {s : Chip} {q : Fin 16} {met : List BufferError} (h_s : s.Canon kw kt
    kr ks none none none ⟨none, none, none, none, none, xn, xc⟩) : (finWidenItem s q met).Canon kw kt kr ks none none
    none ⟨none, none, none, none, none, xn, xc⟩ := by
  unfold finWidenItem
  try dsimp only
  repeat' first
    | with_reducible assumption
    | with_reducible apply canon_widenItem
    | with_reducible apply canon_dropItem
    | with_reducible apply canon_ite
    | with_reducible apply canon_ite_s
    | with_reducible apply canon_ite_fst
    | with_reducible apply canon_ite_fst_s
    | simp only [canon_mk_iff]
    | split
    | intro _

end Sys2Proof.Machine
end

