-- ==== Sys2Proof/Laws/CanonTwin.lean ====
section
/-! SUPPORT. The operations of Machine/Twin.lean keep the canonical form. -/
set_option linter.all false
namespace Sys2Proof.Machine

theorem canon_mirrorLost {kw kt kr ks km kp kv xb xq xl xm xn xc} {s : Chip} {p : Nat} (h_s : s.Canon kw kt kr ks km
    kp kv ⟨xb, xq, xl, xm, none, xn, xc⟩) : (mirrorLost s p).Canon kw kt kr ks km kp kv ⟨xb, xq, xl, xm, none, xn, xc⟩
    := by
  unfold mirrorLost
  try dsimp only
  repeat' first
    | with_reducible assumption
    | with_reducible apply canon_wr
    | with_reducible apply canon_setFlag
    | with_reducible apply canon_ite
    | with_reducible apply canon_ite_s
    | with_reducible apply canon_ite_fst
    | with_reducible apply canon_ite_fst_s
    | simp only [canon_mk_iff]
    | split
    | intro _

theorem canon_setPort {kw kt kr ks km kp kv xb xq xl xh xn xc} {s : Chip} {port : Nat} {f : SrnPort → SrnPort} (h_s :
    s.Canon kw kt kr ks km kp kv ⟨xb, xq, xl, none, xh, xn, xc⟩) : (setPort s port f).Canon kw kt kr ks km kp kv ⟨xb,
    xq, xl, none, xh, xn, xc⟩ := by
  unfold setPort
  try dsimp only
  repeat' first
    | with_reducible assumption
    | with_reducible apply canon_ite
    | with_reducible apply canon_ite_s
    | with_reducible apply canon_ite_fst
    | with_reducible apply canon_ite_fst_s
    | simp only [canon_mkm_iff]

theorem canon_countTx {kw kt kr ks km kp kv xb xq xl xh xn xc} {s : Chip} {port : Nat} {n : Nat} (h_s : s.Canon kw kt
    kr ks km kp kv ⟨xb, xq, xl, none, xh, xn, xc⟩) : (countTx s port n).Canon kw kt kr ks km kp kv ⟨xb, xq, xl, none,
    xh, xn, xc⟩ := by
  unfold countTx
  try dsimp only
  repeat' first
    | with_reducible assumption
    | with_reducible apply canon_bumpWrap
    | with_reducible apply canon_setPort

theorem canon_countRx {kw kt kr ks km kp kv xb xq xl xh xn xc} {s : Chip} {port : Nat} {n : Nat} (h_s : s.Canon kw kt
    kr ks km kp kv ⟨xb, xq, xl, none, xh, xn, xc⟩) : (countRx s port n).Canon kw kt kr ks km kp kv ⟨xb, xq, xl, none,
    xh, xn, xc⟩ := by
  unfold countRx
  try dsimp only
  repeat' first
    | with_reducible assumption
    | with_reducible apply canon_bumpWrap
    | with_reducible apply canon_setPort

theorem canon_mirrorOne {kw kt kr ks km kp kv xb xq xl xh xn xc} {cmd : Option Nat} {p : Nat} {s : Chip} {w : Mirror}
    (h_s : s.Canon kw kt kr ks km kp kv ⟨xb, xq, xl, none, xh, xn, xc⟩) : (mirrorOne cmd p s w).Canon kw kt kr ks km
    kp kv ⟨xb, xq, xl, none, xh, xn, xc⟩ := by
  unfold mirrorOne
  try dsimp only
  repeat' first
    | with_reducible assumption
    | with_reducible apply canon_emit
    | with_reducible apply canon_countTx
    | with_reducible apply canon_ite
    | with_reducible apply canon_ite_s
    | with_reducible apply canon_ite_fst
    | with_reducible apply canon_ite_fst_s
    | simp only [canon_mkm_iff]

theorem canon_mirrorAll {kw kt kr ks km kp kv xb xq xl xn xc} {s : Chip} {p : Nat} {cmd : Option Nat} {l : List
    Mirror} (h_s : s.Canon kw kt kr ks km kp kv ⟨xb, xq, xl, none, none, xn, xc⟩) : (mirrorAll s p cmd l).Canon kw kt
    kr ks km kp kv ⟨xb, xq, xl, none, none, xn, xc⟩ := by
  unfold mirrorAll
  try dsimp only
  repeat' first
    | with_reducible assumption
    | with_reducible apply canon_mirrorLost
    | with_reducible apply canon_mirrorOne
    | with_reducible apply canon_foldl
    | with_reducible apply canon_foldl_fst
    | with_reducible apply canon_foldl_rd
    | with_reducible apply canon_foldl_rd_fst
    | with_reducible apply canon_foldl_x
    | with_reducible apply canon_foldl_run_fst
    | with_reducible apply canon_ite
    | with_reducible apply canon_ite_s
    | with_reducible apply canon_ite_fst
    | with_reducible apply canon_ite_fst_s
    | simp only [canon_mk_iff]
    | split
    | intro _

end Sys2Proof.Machine
end

