-- ==== Sys2Proof/Laws/CanonReader.lean ====
section
/-! SUPPORT. The operations of Machine/Reader.lean keep the canonical form. -/
set_option linter.all false
namespace Sys2Proof.Machine

theorem canon_Rd_girthAdmit {kw kt kr ks km kp kv kx} {x : Rd} {p : Nat} {a : Nat} {n : Nat} {write : Bool} (h_x :
    x.s.Canon kw kt kr ks km kp kv kx) : (Rd.girthAdmit x p a n write).s.Canon kw kt kr ks km kp kv kx := by
  unfold Rd.girthAdmit
  try dsimp only
  repeat' first
    | with_reducible assumption
    | with_reducible apply canon_Rd_stop
    | with_reducible apply canon_ite
    | with_reducible apply canon_ite_s
    | with_reducible apply canon_ite_fst
    | with_reducible apply canon_ite_fst_s
    | simp only [canon_mk_iff]
    | split
    | intro _

theorem canon_Rd_dev {kw kt kr ks kp kv xb xq xl xm xn xc} {x : Rd} {p : Nat} {who : Option Origin} {a : Nat} {n :
    Nat} (h_x : x.s.Canon kw kt kr ks none kp kv ⟨xb, xq, xl, xm, none, xn, xc⟩) : (Rd.dev x p who a n).1.s.Canon kw
    kt kr ks none kp kv ⟨xb, xq, xl, xm, none, xn, xc⟩ := by
  unfold Rd.dev
  try dsimp only
  repeat' first
    | with_reducible assumption
    | with_reducible apply canon_readMeets
    | with_reducible apply canon_Rd_girthAdmit
    | with_reducible apply canon_ite
    | with_reducible apply canon_ite_s
    | with_reducible apply canon_ite_fst
    | with_reducible apply canon_ite_fst_s
    | simp only [canon_mk_iff]
    | split
    | intro _

theorem canon_Rd_devFree {kw kt kr ks kp kv xb xq xl xm xn xc} {x : Rd} {p : Nat} {who : Option Origin} {a : Nat} {n :
    Nat} (h_x : x.s.Canon kw kt kr ks none kp kv ⟨xb, xq, xl, xm, none, xn, xc⟩) : (Rd.devFree x p who a n).1.s.Canon
    kw kt kr ks none kp kv ⟨xb, xq, xl, xm, none, xn, xc⟩ := by
  unfold Rd.devFree
  try dsimp only
  repeat' first
    | with_reducible assumption
    | with_reducible apply canon_draw
    | with_reducible apply canon_Rd_dev
    | with_reducible apply canon_ite
    | with_reducible apply canon_ite_s
    | with_reducible apply canon_ite_fst
    | with_reducible apply canon_ite_fst_s
    | simp only [canon_mk_iff]
    | split
    | intro _

theorem canon_Rd_padFree {kw kt kr ks kv xn xc} {x : Rd} {o : Origin} {a : Nat} {n : Nat} (h_x : x.s.Canon kw kt kr ks
    none none kv ⟨none, none, none, none, none, xn, xc⟩) : (Rd.padFree x o a n).1.s.Canon kw kt kr ks none none kv
    ⟨none, none, none, none, none, xn, xc⟩ := by
  unfold Rd.padFree
  try dsimp only
  repeat' first
    | with_reducible assumption
    | with_reducible apply canon_draw
    | with_reducible apply canon_Rd_read
    | with_reducible apply canon_ite
    | with_reducible apply canon_ite_s
    | with_reducible apply canon_ite_fst
    | with_reducible apply canon_ite_fst_s
    | simp only [canon_mk_iff]
    | split
    | intro _

theorem canon_Rd_plainMarked {kw kt kr ks kp kv kx} {x : Rd} {p : Nat} {a : Nat} {l : List Byte} {marks : List (Nat ×
    Nat)} (h_x : x.s.Canon kw kt kr ks none kp kv kx) : (Rd.plainMarked x p a l marks).s.Canon kw kt kr ks none kp kv
    kx := by
  unfold Rd.plainMarked
  try dsimp only
  repeat' first
    | with_reducible assumption
    | with_reducible apply canon_memPut
    | with_reducible apply canon_poisonRun
    | with_reducible apply canon_Rd_taint
    | with_reducible apply canon_Rd_girthAdmit
    | with_reducible apply canon_foldl
    | with_reducible apply canon_foldl_fst
    | with_reducible apply canon_foldl_rd
    | with_reducible apply canon_foldl_rd_fst
    | with_reducible apply canon_foldl_x
    | with_reducible apply canon_foldl_run_fst
    | with_reducible apply canon_ite
    | with_reducible apply canon_ite_s
    | with_reducible apply canon_ite_fst
    | with_reducible apply canon_ite_fst_s
    | simp only [canon_mk_iff]
    | split
    | intro _

theorem canon_Rd_plainPut {kw kt kr ks kp kv kx} {x : Rd} {p : Nat} {a : Nat} {l : List Byte} {bad : Bool} (h_x :
    x.s.Canon kw kt kr ks none kp kv kx) : (Rd.plainPut x p a l bad).s.Canon kw kt kr ks none kp kv kx := by
  unfold Rd.plainPut
  try dsimp only
  repeat' first
    | with_reducible assumption
    | with_reducible apply canon_Rd_plainMarked

theorem canon_Rd_devPutLines {kw kt kr ks kp kv kx} {x : Rd} {p : Nat} {a : Nat} {l : List Byte} {bad : Keys} (h_x :
    x.s.Canon kw kt kr ks none kp kv kx) : (Rd.devPutLines x p a l bad).s.Canon kw kt kr ks none kp kv kx := by
  unfold Rd.devPutLines
  try dsimp only
  repeat' first
    | with_reducible assumption
    | with_reducible apply canon_Rd_plainMarked
    | with_reducible apply canon_ite
    | with_reducible apply canon_ite_s
    | with_reducible apply canon_ite_fst
    | with_reducible apply canon_ite_fst_s
    | simp only [canon_mk_iff]
    | split
    | intro _

theorem canon_Rd_devPut {kw kt kr ks kp kv kx} {x : Rd} {p : Nat} {a : Nat} {l : List Byte} {bad : Bool} (h_x :
    x.s.Canon kw kt kr ks none kp kv kx) : (Rd.devPut x p a l bad).s.Canon kw kt kr ks none kp kv kx := by
  unfold Rd.devPut
  try dsimp only
  repeat' first
    | with_reducible assumption
    | with_reducible apply canon_Rd_devPutLines

theorem canon_Rd_settle {kw kt kr ks km kp kv xb xq xl xn xc} {x : Rd} {s₀ : Chip} {p : Nat} {cmd : Option Nat} (h_x :
    x.s.Canon kw kt kr ks km kp kv ⟨xb, xq, xl, none, none, xn, xc⟩) (h_s₀ : s₀.Canon kw kt kr ks km kp kv ⟨xb, xq,
    xl, none, none, xn, xc⟩) : (Rd.settle x s₀ p cmd).Canon kw kt kr ks km kp kv ⟨xb, xq, xl, none, none, xn, xc⟩ :=
    by
  unfold Rd.settle
  try dsimp only
  repeat' first
    | with_reducible assumption
    | with_reducible apply canon_unitsWait
    | with_reducible apply canon_unitsCharge
    | with_reducible apply canon_mirrorAll
    | with_reducible apply canon_ite
    | with_reducible apply canon_ite_s
    | with_reducible apply canon_ite_fst
    | with_reducible apply canon_ite_fst_s
    | simp only [canon_mk_iff]
    | split

theorem canon_Rd_refused {kw kt kr ks km kp kv kx} {x : Rd} (h_x : x.s.Canon kw kt kr ks km kp kv kx) : (Rd.refused
    x).Canon kw kt kr ks km kp kv kx := by
  unfold Rd.refused
  try dsimp only
  repeat' first
    | with_reducible assumption
    | with_reducible apply canon_refuseAccess
    | with_reducible apply canon_ite
    | with_reducible apply canon_ite_s
    | with_reducible apply canon_ite_fst
    | with_reducible apply canon_ite_fst_s
    | simp only [canon_mk_iff]
    | split
    | intro _

theorem canon_Rd_drop {kw kt kr ks km kp kv kx} {x : Rd} {bad : Option (Nat × Option Nat)} (h_x : x.s.Canon kw kt kr
    ks km kp kv kx) : (Rd.drop x bad).s.Canon kw kt kr ks km kp kv kx := by
  unfold Rd.drop
  try dsimp only
  repeat' first
    | with_reducible assumption
    | with_reducible apply canon_Rd_refused
    | with_reducible apply canon_ite
    | with_reducible apply canon_ite_s
    | with_reducible apply canon_ite_fst
    | with_reducible apply canon_ite_fst_s
    | simp only [canon_mk_iff]
    | split
    | intro _

theorem canon_slotCorrupt {kw kt kr ks km kp kv xb xq xl xm xn xc} {s : Chip} {r : Nat} {p : Nat} {who : Option
    Origin} {a : Nat} (h_s : s.Canon kw kt kr ks km kp kv ⟨xb, xq, xl, xm, none, xn, xc⟩) : (slotCorrupt s r p who
    a).Canon kw kt kr ks km kp kv ⟨xb, xq, xl, xm, none, xn, xc⟩ := by
  unfold slotCorrupt
  try dsimp only
  repeat' first
    | with_reducible assumption
    | with_reducible apply canon_report

theorem canon_slotFire {kw kt kr ks km kp kv xb xq xl xm xn xc} {s : Chip} {r : Nat} {p : Nat} {who : Option Origin}
    {a : Nat} (h_s : s.Canon kw kt kr ks km kp kv ⟨xb, xq, xl, xm, none, xn, xc⟩) : (slotFire s r p who a).Canon kw kt
    kr ks km kp kv ⟨xb, xq, xl, xm, none, xn, xc⟩ := by
  unfold slotFire
  try dsimp only
  repeat' first
    | with_reducible assumption
    | with_reducible apply canon_wr
    | with_reducible apply canon_slotCorrupt

theorem canon_Rd_lostUnit {kw kt kr ks km kp kv kx} {x : Rd} {s : Chip} {a : Nat} (h_x : x.s.Canon kw kt kr ks km kp
    kv kx) (h_s : s.Canon kw kt kr ks km kp kv kx) : (Rd.lostUnit x s a).1.s.Canon kw kt kr ks km kp kv kx := by
  unfold Rd.lostUnit
  try dsimp only
  repeat' first
    | with_reducible assumption
    | with_reducible apply canon_draw

theorem canon_Rd_unit {kw kt kr ks kp kv xb xq xl xm xn xc} {x : Rd} {p : Nat} {r : Nat} {who : Option Origin} {a :
    Nat} {tag : Nat} (h_x : x.s.Canon kw kt kr ks none kp kv ⟨xb, xq, xl, xm, none, xn, xc⟩) : (Rd.unit x p r who a
    tag).1.s.Canon kw kt kr ks none kp kv ⟨xb, xq, xl, xm, none, xn, xc⟩ := by
  unfold Rd.unit
  try dsimp only
  repeat' first
    | with_reducible assumption
    | with_reducible apply canon_bump64
    | with_reducible apply canon_Rd_dev
    | with_reducible apply canon_slotCorrupt
    | with_reducible apply canon_slotFire
    | with_reducible apply canon_Rd_lostUnit
    | with_reducible apply canon_ite
    | with_reducible apply canon_ite_s
    | with_reducible apply canon_ite_fst
    | with_reducible apply canon_ite_fst_s
    | simp only [canon_mk_iff]
    | split
    | intro _

theorem canon_Rd_putUnit {kw kt kr ks kp kv kx} {x : Rd} {p : Nat} {r : Nat} {a : Nat} {tag : Nat} {l : List Byte}
    {bad : Bool} {encode : Bool} (h_x : x.s.Canon kw kt kr ks none kp kv kx) : (Rd.putUnit x p r a tag l bad
    encode).s.Canon kw kt kr ks none kp kv kx := by
  unfold Rd.putUnit
  try dsimp only
  repeat' first
    | with_reducible assumption
    | with_reducible apply canon_countUnit
    | with_reducible apply canon_Rd_devPut
    | with_reducible apply canon_ite
    | with_reducible apply canon_ite_s
    | with_reducible apply canon_ite_fst
    | with_reducible apply canon_ite_fst_s
    | simp only [canon_mk_iff]
    | split
    | intro _

end Sys2Proof.Machine
end

