-- ==== Sys2Proof/Laws/CanonWalker.lean ====
section
/-! SUPPORT. The operations of Machine/Walker.lean keep the canonical form. -/
set_option linter.all false
namespace Sys2Proof.Machine

theorem canon_setKvPart {kw kt kr ks km kp kx} {s : Chip} {p : Nat} {f : KvPart → KvPart} (h_s : s.Canon kw kt kr ks
    km kp none kx) : (setKvPart s p f).Canon kw kt kr ks km kp none kx := by
  unfold setKvPart
  try dsimp only
  repeat' first
    | with_reducible assumption
    | with_reducible apply canon_ite
    | with_reducible apply canon_ite_s
    | with_reducible apply canon_ite_fst
    | with_reducible apply canon_ite_fst_s
    | simp only [canon_mkv_iff]

theorem canon_Rd_ctx {kw kt kr ks kp kv xb xq xl xm xn xc} {x : Rd} {p : Nat} {r : Nat} {who : Option Origin} (h_x :
    x.s.Canon kw kt kr ks none kp kv ⟨xb, xq, xl, xm, none, xn, xc⟩) : (Rd.ctx x p r who).1.s.Canon kw kt kr ks none
    kp kv ⟨xb, xq, xl, xm, none, xn, xc⟩ := by
  simp only [Rd.ctx]
  repeat' first
    | with_reducible assumption
    | with_reducible apply canon_Rd_stop
    | with_reducible apply canon_Rd_devFree
    | with_reducible apply canon_ite
    | with_reducible apply canon_ite_s
    | with_reducible apply canon_ite_fst
    | with_reducible apply canon_ite_fst_s
    | simp only [canon_mk_iff]
    | split
    | intro _

theorem canon_setModel {kw kt kr ks km kp kx} {s : Chip} {p : Nat} {m : Nat} {l : Option KvLayout} (h_s : s.Canon kw
    kt kr ks km kp none kx) : (setModel s p m l).Canon kw kt kr ks km kp none kx := by
  unfold setModel
  try dsimp only
  repeat' first
    | with_reducible assumption
    | with_reducible apply canon_setKvPart

theorem canon_modelRead {kw kt kr ks kp kv xb xq xl xm xn xc} {p : Nat} {m : Nat} {e : Rd × Option KvCtx} (h_e :
    e.1.s.Canon kw kt kr ks none kp kv ⟨xb, xq, xl, xm, none, xn, xc⟩) : (modelRead p m e).1.s.Canon kw kt kr ks none
    kp kv ⟨xb, xq, xl, xm, none, xn, xc⟩ := by
  unfold modelRead
  try dsimp only
  repeat' first
    | with_reducible assumption
    | with_reducible apply canon_Rd_dev
    | with_reducible apply canon_ite
    | with_reducible apply canon_ite_s
    | with_reducible apply canon_ite_fst
    | with_reducible apply canon_ite_fst_s
    | simp only [canon_mk_iff]
    | split
    | intro _

theorem canon_modelLoaded {kw kt kr ks km kp xb xq xl xn xc} {s : Chip} {r : Nat} {p : Nat} {m : Nat} {x : Rd × Option
    KvLayout} (h_s : s.Canon kw kt kr ks km kp none ⟨xb, xq, xl, none, none, xn, xc⟩) (h_x : x.1.s.Canon kw kt kr ks
    km kp none ⟨xb, xq, xl, none, none, xn, xc⟩) : (modelLoaded s r p m x).Canon kw kt kr ks km kp none ⟨xb, xq, xl,
    none, none, xn, xc⟩ := by
  unfold modelLoaded
  try dsimp only
  repeat' first
    | with_reducible assumption
    | with_reducible apply canon_setFlag
    | with_reducible apply canon_Rd_settle
    | with_reducible apply canon_setModel
    | with_reducible apply canon_ite
    | with_reducible apply canon_ite_s
    | with_reducible apply canon_ite_fst
    | with_reducible apply canon_ite_fst_s
    | simp only [canon_mk_iff]
    | split
    | intro _

theorem canon_pwModelLoad {kw kt kr ks kp xb xq xl xn xc} {s : Chip} {r : Nat} {index : Nat} (h_s : s.Canon kw kt kr
    ks none kp none ⟨xb, xq, xl, none, none, xn, xc⟩) : (pwModelLoad s r index).Canon kw kt kr ks none kp none ⟨xb,
    xq, xl, none, none, xn, xc⟩ := by
  unfold pwModelLoad
  try dsimp only
  repeat' first
    | with_reducible assumption
    | with_reducible apply canon_startRd
    | with_reducible apply canon_Rd_ctx
    | with_reducible apply canon_modelRead
    | with_reducible apply canon_modelLoaded
    | with_reducible apply canon_ite
    | with_reducible apply canon_ite_s
    | with_reducible apply canon_ite_fst
    | with_reducible apply canon_ite_fst_s
    | simp only [canon_mk_iff]
    | split
    | intro _

theorem canon_labDrop {kw kt kr ks km kp kx} {s : Chip} {f : LabEntry → Bool} (h_s : s.Canon kw kt kr ks km kp none
    kx) : (labDrop s f).Canon kw kt kr ks km kp none kx := by
  unfold labDrop
  try dsimp only
  repeat' first
    | with_reducible assumption
    | with_reducible apply canon_ite
    | with_reducible apply canon_ite_s
    | with_reducible apply canon_ite_fst
    | with_reducible apply canon_ite_fst_s
    | simp only [canon_mkv_iff]

theorem canon_Rd_beginWith {kw kt kr ks km kp kx} {x : Rd} {p : Nat} {r : Nat} {cmd : Option Nat} {e : Rd × Option
    KvCtx} (h_x : x.s.Canon kw kt kr ks km kp none kx) (h_e : e.1.s.Canon kw kt kr ks km kp none kx) : (Rd.beginWith x
    p r cmd e).1.s.Canon kw kt kr ks km kp none kx := by
  unfold Rd.beginWith
  try dsimp only
  repeat' first
    | with_reducible assumption
    | with_reducible apply canon_setKvPart
    | with_reducible apply canon_Rd_ctx
    | with_reducible apply canon_ite
    | with_reducible apply canon_ite_s
    | with_reducible apply canon_ite_fst
    | with_reducible apply canon_ite_fst_s
    | simp only [canon_mkv_iff]

theorem canon_Rd_begin {kw kt kr ks kp xb xq xl xm xn xc} {x : Rd} {p : Nat} {r : Nat} {who : Option Origin} {cmd :
    Option Nat} (h_x : x.s.Canon kw kt kr ks none kp none ⟨xb, xq, xl, xm, none, xn, xc⟩) : (Rd.begin x p r who
    cmd).1.s.Canon kw kt kr ks none kp none ⟨xb, xq, xl, xm, none, xn, xc⟩ := by
  unfold Rd.begin
  try dsimp only
  repeat' first
    | with_reducible assumption
    | with_reducible apply canon_Rd_ctx
    | with_reducible apply canon_Rd_beginWith

theorem canon_endWalk {kw kt kr ks km kp kx} {s : Chip} {id : Nat} (h_s : s.Canon kw kt kr ks km kp none kx) :
    (endWalk s id).Canon kw kt kr ks km kp none kx := by
  unfold endWalk
  try dsimp only
  repeat' first
    | with_reducible assumption
    | with_reducible apply canon_labDrop
    | with_reducible apply canon_ite
    | with_reducible apply canon_ite_s
    | with_reducible apply canon_ite_fst
    | with_reducible apply canon_ite_fst_s
    | simp only [canon_mkv_iff]

theorem canon_walkStart {kw kt kr ks kp xb xq xl xn xc} {s : Chip} {p : Nat} {r : Fin 4} {tag : Nat} (h_s : s.Canon kw
    kt kr ks none kp none ⟨xb, xq, xl, none, none, xn, xc⟩) : (walkStart s p r tag).Canon kw kt kr ks none kp none
    ⟨xb, xq, xl, none, none, xn, xc⟩ := by
  unfold walkStart
  try dsimp only
  repeat' first
    | with_reducible assumption
    | with_reducible apply canon_startRd
    | with_reducible apply canon_Rd_settle
    | with_reducible apply canon_Rd_begin
    | with_reducible apply canon_ite
    | with_reducible apply canon_ite_s
    | with_reducible apply canon_ite_fst
    | with_reducible apply canon_ite_fst_s
    | simp only [canon_mk_iff]
    | split
    | intro _

theorem canon_walkEnd {kw kt kr ks km kp kx} {s : Chip} {p : Nat} {id : Nat} (h_s : s.Canon kw kt kr ks km kp none kx)
    : (walkEnd s p id).Canon kw kt kr ks km kp none kx := by
  unfold walkEnd
  try dsimp only
  repeat' first
    | with_reducible assumption
    | with_reducible apply canon_endWalk
    | with_reducible apply canon_ite
    | with_reducible apply canon_ite_s
    | with_reducible apply canon_ite_fst
    | with_reducible apply canon_ite_fst_s
    | simp only [canon_mk_iff]
    | split
    | intro _

theorem canon_labFill {kw kt kr ks km kp kx} {s : Chip} {w : Walk} {seqId : Nat} {gen : Nat} {layer : Nat} {block :
    Nat} {v : Nat} {bad : Bool} (h_s : s.Canon kw kt kr ks km kp none kx) : (labFill s w seqId gen layer block v
    bad).Canon kw kt kr ks km kp none kx := by
  unfold labFill
  try dsimp only
  repeat' first
    | with_reducible assumption
    | with_reducible apply canon_ite
    | with_reducible apply canon_ite_s
    | with_reducible apply canon_ite_fst
    | with_reducible apply canon_ite_fst_s
    | simp only [canon_mkv_iff]

theorem canon_labParity {kw kt kr ks km kp kv xb xq xl xm xn xc} {s : Chip} {w : Walk} (h_s : s.Canon kw kt kr ks km
    kp kv ⟨xb, xq, xl, xm, none, xn, xc⟩) : (labParity s w).Canon kw kt kr ks km kp kv ⟨xb, xq, xl, xm, none, xn, xc⟩
    := by
  unfold labParity
  try dsimp only
  repeat' first
    | with_reducible assumption
    | with_reducible apply canon_report

theorem canon_Rd_listEntry {kw kt kr ks kp xb xq xl xm xn xc} {x : Rd} {w : Walk} {who : Option Origin} {seqId : Nat}
    {gen : Nat} {layer : Nat} {block : Nat} {a : Nat} {fails : Bool} (h_x : x.s.Canon kw kt kr ks none kp none ⟨xb,
    xq, xl, xm, none, xn, xc⟩) : (Rd.listEntry x w who seqId gen layer block a fails).1.s.Canon kw kt kr ks none kp
    none ⟨xb, xq, xl, xm, none, xn, xc⟩ := by
  unfold Rd.listEntry
  try dsimp only
  repeat' first
    | with_reducible assumption
    | with_reducible apply canon_wr
    | with_reducible apply canon_bump
    | with_reducible apply canon_Rd_devFree
    | with_reducible apply canon_labDrop
    | with_reducible apply canon_labFill
    | with_reducible apply canon_labParity
    | with_reducible apply canon_ite
    | with_reducible apply canon_ite_s
    | with_reducible apply canon_ite_fst
    | with_reducible apply canon_ite_fst_s
    | simp only [canon_mk_iff]
    | split
    | intro _

theorem canon_labGroupEnd {kw kt kr ks km kp kx} {s : Chip} {w : Walk} (h_s : s.Canon kw kt kr ks km kp none kx) :
    (labGroupEnd s w).Canon kw kt kr ks km kp none kx := by
  unfold labGroupEnd
  try dsimp only
  repeat' first
    | with_reducible assumption
    | with_reducible apply canon_labDrop
    | with_reducible apply canon_ite
    | with_reducible apply canon_ite_s
    | with_reducible apply canon_ite_fst
    | with_reducible apply canon_ite_fst_s
    | simp only [canon_mk_iff]
    | split
    | intro _

theorem canon_Rd_lose {kw kt kr ks km kp xb xl xm xh xn xc} {x : Rd} {p : Nat} {a : Nat} (h_x : x.s.Canon kw kt kr ks
    km kp none ⟨xb, none, xl, xm, xh, xn, xc⟩) : (Rd.lose x p a).s.Canon kw kt kr ks km kp none ⟨xb, none, xl, xm, xh,
    xn, xc⟩ := by
  unfold Rd.lose
  try dsimp only
  repeat' first
    | with_reducible assumption
    | with_reducible apply canon_send
    | with_reducible apply canon_stopQueues
    | with_reducible apply canon_Rd_stop
    | with_reducible apply canon_setKvPart

theorem canon_Rd_alive {kw kt kr ks km kp kv kx} {x : Rd} {p : Nat} (h_x : x.s.Canon kw kt kr ks km kp kv kx) :
    (Rd.alive x p).s.Canon kw kt kr ks km kp kv kx := by
  unfold Rd.alive
  try dsimp only
  repeat' first
    | with_reducible assumption
    | with_reducible apply canon_Rd_stop
    | with_reducible apply canon_ite
    | with_reducible apply canon_ite_s
    | with_reducible apply canon_ite_fst
    | with_reducible apply canon_ite_fst_s
    | simp only [canon_mk_iff]
    | split
    | intro _

theorem canon_Rd_allocLine {kw kt kr ks kp xb xl xm xn xc} {x : Rd} {p : Nat} {who : Option Origin} {a : Nat} {n :
    Nat} (h_x : x.s.Canon kw kt kr ks none kp none ⟨xb, none, xl, xm, none, xn, xc⟩) : (Rd.allocLine x p who a
    n).1.s.Canon kw kt kr ks none kp none ⟨xb, none, xl, xm, none, xn, xc⟩ := by
  unfold Rd.allocLine
  try dsimp only
  repeat' first
    | with_reducible assumption
    | with_reducible apply canon_Rd_dev
    | with_reducible apply canon_Rd_lose
    | with_reducible apply canon_ite
    | with_reducible apply canon_ite_s
    | with_reducible apply canon_ite_fst
    | with_reducible apply canon_ite_fst_s
    | simp only [canon_mk_iff]
    | split
    | intro _

theorem canon_Rd_alloc {kw kt kr ks kp xb xl xm xn xc} {x : Rd} {p : Nat} {who : Option Origin} {a : Nat} {n : Nat}
    (h_x : x.s.Canon kw kt kr ks none kp none ⟨xb, none, xl, xm, none, xn, xc⟩) : (Rd.alloc x p who a n).1.s.Canon kw
    kt kr ks none kp none ⟨xb, none, xl, xm, none, xn, xc⟩ := by
  unfold Rd.alloc
  try dsimp only
  repeat' first
    | with_reducible assumption
    | with_reducible apply canon_Rd_alive
    | with_reducible apply canon_Rd_allocLine

theorem canon_Rd_refPeek {kw kt kr ks kp xb xl xm xn xc} {x : Rd} {p : Nat} {who : Option Origin} {l : Pool} {f : Nat}
    (h_x : x.s.Canon kw kt kr ks none kp none ⟨xb, none, xl, xm, none, xn, xc⟩) : (Rd.refPeek x p who l f).1.s.Canon
    kw kt kr ks none kp none ⟨xb, none, xl, xm, none, xn, xc⟩ := by
  unfold Rd.refPeek
  try dsimp only
  repeat' first
    | with_reducible assumption
    | with_reducible apply canon_Rd_allocLine

theorem canon_Rd_refGet {kw kt kr ks kp xb xl xm xn xc} {x : Rd} {p : Nat} {who : Option Origin} {l : Pool} {f : Nat}
    (h_x : x.s.Canon kw kt kr ks none kp none ⟨xb, none, xl, xm, none, xn, xc⟩) : (Rd.refGet x p who l f).1.s.Canon kw
    kt kr ks none kp none ⟨xb, none, xl, xm, none, xn, xc⟩ := by
  unfold Rd.refGet
  try dsimp only
  repeat' first
    | with_reducible assumption
    | with_reducible apply canon_Rd_alloc

theorem canon_Rd_depths {kw kt kr ks km kp kv kx} {x : Rd} {p : Nat} (h_x : x.s.Canon kw kt kr ks km kp kv kx) :
    (Rd.depths x p).s.Canon kw kt kr ks km kp kv kx := by
  unfold Rd.depths
  try dsimp only
  repeat' first
    | with_reducible assumption
    | with_reducible apply canon_ite
    | with_reducible apply canon_ite_s
    | with_reducible apply canon_ite_fst
    | with_reducible apply canon_ite_fst_s
    | simp only [canon_mk_iff]
    | split
    | intro _

theorem canon_Rd_refSet {kw kt kr ks kp kv kx} {x : Rd} {p : Nat} {l : Pool} {f : Nat} {n : Nat} (h_x : x.s.Canon kw
    kt kr ks none kp kv kx) : (Rd.refSet x p l f n).s.Canon kw kt kr ks none kp kv kx := by
  unfold Rd.refSet
  try dsimp only
  repeat' first
    | with_reducible assumption
    | with_reducible apply canon_Rd_devPut
    | with_reducible apply canon_Rd_depths

theorem canon_Rd_refUp {kw kt kr ks kp xb xl xm xn xc} {x : Rd} {p : Nat} {who : Option Origin} {l : Pool} {f : Nat}
    (h_x : x.s.Canon kw kt kr ks none kp none ⟨xb, none, xl, xm, none, xn, xc⟩) : (Rd.refUp x p who l f).s.Canon kw kt
    kr ks none kp none ⟨xb, none, xl, xm, none, xn, xc⟩ := by
  unfold Rd.refUp
  try dsimp only
  repeat' first
    | with_reducible assumption
    | with_reducible apply canon_Rd_stop
    | with_reducible apply canon_Rd_refGet
    | with_reducible apply canon_Rd_refSet
    | with_reducible apply canon_ite
    | with_reducible apply canon_ite_s
    | with_reducible apply canon_ite_fst
    | with_reducible apply canon_ite_fst_s
    | simp only [canon_mk_iff]
    | split
    | intro _

theorem canon_Rd_retire {kw kt kr ks kp kx} {x : Rd} {p : Nat} {l : Pool} {tierB : Bool} {f : Nat} (h_x : x.s.Canon kw
    kt kr ks none kp none kx) : (Rd.retire x p l tierB f).s.Canon kw kt kr ks none kp none kx := by
  unfold Rd.retire
  try dsimp only
  repeat' first
    | with_reducible assumption
    | with_reducible apply canon_Rd_devPut
    | with_reducible apply canon_setKvPart
    | with_reducible apply canon_Rd_alive
    | with_reducible apply canon_Rd_depths
    | with_reducible apply canon_ite
    | with_reducible apply canon_ite_s
    | with_reducible apply canon_ite_fst
    | with_reducible apply canon_ite_fst_s
    | simp only [canon_mk_iff]
    | split
    | intro _

theorem canon_Rd_refDown {kw kt kr ks kp xb xl xm xn xc} {x : Rd} {p : Nat} {who : Option Origin} {c : KvCtx} {tierB :
    Bool} {f : Nat} (h_x : x.s.Canon kw kt kr ks none kp none ⟨xb, none, xl, xm, none, xn, xc⟩) : (Rd.refDown x p who
    c tierB f).s.Canon kw kt kr ks none kp none ⟨xb, none, xl, xm, none, xn, xc⟩ := by
  unfold Rd.refDown
  try dsimp only
  repeat' first
    | with_reducible assumption
    | with_reducible apply canon_bump
    | with_reducible apply canon_Rd_refGet
    | with_reducible apply canon_Rd_refSet
    | with_reducible apply canon_Rd_retire
    | with_reducible apply canon_ite
    | with_reducible apply canon_ite_s
    | with_reducible apply canon_ite_fst
    | with_reducible apply canon_ite_fst_s
    | simp only [canon_mk_iff]
    | split
    | intro _

theorem canon_setFree {kw kt kr ks km kp xb xq xl xm xn xc} {s : Chip} {p : Nat} {tierB : Bool} {n : Nat} (h_s :
    s.Canon kw kt kr ks km kp none ⟨xb, xq, xl, xm, none, xn, xc⟩) : (setFree s p tierB n).Canon kw kt kr ks km kp
    none ⟨xb, xq, xl, xm, none, xn, xc⟩ := by
  unfold setFree
  try dsimp only
  repeat' first
    | with_reducible assumption
    | with_reducible apply canon_setFlag
    | with_reducible apply canon_setKvPart
    | with_reducible apply canon_ite
    | with_reducible apply canon_ite_s
    | with_reducible apply canon_ite_fst
    | with_reducible apply canon_ite_fst_s
    | simp only [canon_mk_iff]
    | split
    | intro _

theorem canon_Rd_pop {kw kt kr ks kp xb xl xm xn xc} {x : Rd} {p : Nat} {who : Option Origin} {l : Pool} {tierB :
    Bool} (h_x : x.s.Canon kw kt kr ks none kp none ⟨xb, none, xl, xm, none, xn, xc⟩) : (Rd.pop x p who l
    tierB).1.s.Canon kw kt kr ks none kp none ⟨xb, none, xl, xm, none, xn, xc⟩ := by
  unfold Rd.pop
  try dsimp only
  repeat' first
    | with_reducible assumption
    | with_reducible apply canon_Rd_stop
    | with_reducible apply canon_Rd_alive
    | with_reducible apply canon_Rd_alloc
    | with_reducible apply canon_setFree
    | with_reducible apply canon_ite
    | with_reducible apply canon_ite_s
    | with_reducible apply canon_ite_fst
    | with_reducible apply canon_ite_fst_s
    | simp only [canon_mk_iff]
    | split
    | intro _

theorem canon_Rd_newFrame {kw kt kr ks kp xb xl xm xn xc} {x : Rd} {p : Nat} {who : Option Origin} {c : KvCtx} {tierB
    : Bool} {dim : Nat} (h_x : x.s.Canon kw kt kr ks none kp none ⟨xb, none, xl, xm, none, xn, xc⟩) : (Rd.newFrame x p
    who c tierB dim).1.s.Canon kw kt kr ks none kp none ⟨xb, none, xl, xm, none, xn, xc⟩ := by
  unfold Rd.newFrame
  try dsimp only
  repeat' first
    | with_reducible assumption
    | with_reducible apply canon_Rd_devPut
    | with_reducible apply canon_Rd_refSet
    | with_reducible apply canon_Rd_pop
    | with_reducible apply canon_ite
    | with_reducible apply canon_ite_s
    | with_reducible apply canon_ite_fst
    | with_reducible apply canon_ite_fst_s
    | simp only [canon_mk_iff]
    | split
    | intro _

theorem canon_Rd_pageUnit {kw kt kr ks kp kv xb xq xl xm xn xc} {x : Rd} {p : Nat} {r : Nat} {who : Option Origin} {c
    : KvCtx} {tierB : Bool} {f : Nat} {u : Nat} (h_x : x.s.Canon kw kt kr ks none kp kv ⟨xb, xq, xl, xm, none, xn,
    xc⟩) : (Rd.pageUnit x p r who c tierB f u).1.s.Canon kw kt kr ks none kp kv ⟨xb, xq, xl, xm, none, xn, xc⟩ := by
  unfold Rd.pageUnit
  try dsimp only
  repeat' first
    | with_reducible assumption
    | with_reducible apply canon_readMeets
    | with_reducible apply canon_Rd_girthAdmit
    | with_reducible apply canon_Rd_unit
    | with_reducible apply canon_ite
    | with_reducible apply canon_ite_s
    | with_reducible apply canon_ite_fst
    | with_reducible apply canon_ite_fst_s
    | simp only [canon_mk_iff]
    | split
    | intro _

theorem canon_Rd_page {kw kt kr ks kp kv xb xq xl xm xn xc} {x : Rd} {p : Nat} {r : Nat} {who : Option Origin} {c :
    KvCtx} {tierB : Bool} {f : Nat} (h_x : x.s.Canon kw kt kr ks none kp kv ⟨xb, xq, xl, xm, none, xn, xc⟩) : (Rd.page
    x p r who c tierB f).1.s.Canon kw kt kr ks none kp kv ⟨xb, xq, xl, xm, none, xn, xc⟩ := by
  unfold Rd.page
  try dsimp only
  repeat' first
    | with_reducible assumption
    | with_reducible apply canon_Rd_pageUnit
    | with_reducible apply canon_foldl
    | with_reducible apply canon_foldl_fst
    | with_reducible apply canon_foldl_rd
    | with_reducible apply canon_foldl_rd_fst
    | with_reducible apply canon_foldl_x
    | with_reducible apply canon_foldl_run_fst
    | with_reducible apply canon_ite
    | with_reducible apply canon_ite_s
    | with_reducible apply canon_ite_fst
    | with_reducible apply canon_ite_fst_s
    | simp only [canon_mk_iff]
    | split
    | intro _

theorem canon_Rd_copyLines {kw kt kr ks kp kv xb xq xl xm xn xc} {x : Rd} {p : Nat} {who : Option Origin} {src : Nat}
    {dst : Nat} {n : Nat} (h_x : x.s.Canon kw kt kr ks none kp kv ⟨xb, xq, xl, xm, none, xn, xc⟩) : (Rd.copyLines x p
    who src dst n).s.Canon kw kt kr ks none kp kv ⟨xb, xq, xl, xm, none, xn, xc⟩ := by
  unfold Rd.copyLines
  try dsimp only
  repeat' first
    | with_reducible assumption
    | with_reducible apply canon_Rd_dev
    | with_reducible apply canon_Rd_devPutLines

theorem canon_Rd_copyUnit {kw kt kr ks kp kv xb xq xl xm xn xc} {x : Rd} {p : Nat} {r : Nat} {who : Option Origin} {c
    : KvCtx} {src : Bool × Nat} {dst : Bool × Nat} {encode : Bool} {u : Nat} (h_x : x.s.Canon kw kt kr ks none kp kv
    ⟨xb, xq, xl, xm, none, xn, xc⟩) : (Rd.copyUnit x p r who c src dst encode u).s.Canon kw kt kr ks none kp kv ⟨xb,
    xq, xl, xm, none, xn, xc⟩ := by
  unfold Rd.copyUnit
  try dsimp only
  repeat' first
    | with_reducible assumption
    | with_reducible apply canon_countUnit
    | with_reducible apply canon_Rd_devPut
    | with_reducible apply canon_Rd_putUnit
    | with_reducible apply canon_Rd_pageUnit
    | with_reducible apply canon_Rd_copyLines
    | with_reducible apply canon_ite
    | with_reducible apply canon_ite_s
    | with_reducible apply canon_ite_fst
    | with_reducible apply canon_ite_fst_s
    | simp only [canon_mk_iff]
    | split
    | intro _

theorem canon_Rd_copyFrame {kw kt kr ks kp xb xl xm xn xc} {x : Rd} {p : Nat} {r : Nat} {who : Option Origin} {c :
    KvCtx} {src : Bool × Nat} {dest_ : Bool} {encode : Bool} (h_x : x.s.Canon kw kt kr ks none kp none ⟨xb, none, xl,
    xm, none, xn, xc⟩) : (Rd.copyFrame x p r who c src dest_ encode).1.s.Canon kw kt kr ks none kp none ⟨xb, none, xl,
    xm, none, xn, xc⟩ := by
  unfold Rd.copyFrame
  try dsimp only
  repeat' first
    | with_reducible assumption
    | with_reducible apply canon_Rd_refSet
    | with_reducible apply canon_Rd_pop
    | with_reducible apply canon_Rd_copyLines
    | with_reducible apply canon_Rd_copyUnit
    | with_reducible apply canon_foldl
    | with_reducible apply canon_foldl_fst
    | with_reducible apply canon_foldl_rd
    | with_reducible apply canon_foldl_rd_fst
    | with_reducible apply canon_foldl_x
    | with_reducible apply canon_foldl_run_fst
    | with_reducible apply canon_ite
    | with_reducible apply canon_ite_s
    | with_reducible apply canon_ite_fst
    | with_reducible apply canon_ite_fst_s
    | simp only [canon_mk_iff]
    | split
    | intro _

theorem canon_Rd_advance {kw kt kr ks kp xb xl xm xn xc} {x : Rd} {p : Nat} {l : Pool} {tierB : Bool} {z0 : Nat} (h_x
    : x.s.Canon kw kt kr ks none kp none ⟨xb, none, xl, xm, none, xn, xc⟩) : (Rd.advance x p l tierB z0).s.Canon kw kt
    kr ks none kp none ⟨xb, none, xl, xm, none, xn, xc⟩ := by
  induction z0 generalizing x p l tierB with
  | zero =>
      unfold Rd.advance
      try dsimp only
      repeat' first
        | with_reducible assumption
  | succ k ih =>
      unfold Rd.advance
      try dsimp only
      repeat' first
        | with_reducible assumption
        | with_reducible apply ih
        | with_reducible apply canon_Rd_devPut
        | with_reducible apply canon_setKvPart
        | with_reducible apply canon_Rd_alloc
        | with_reducible apply canon_Rd_depths
        | with_reducible apply canon_Rd_retire
        | with_reducible apply canon_ite
        | with_reducible apply canon_ite_s
        | with_reducible apply canon_ite_fst
        | with_reducible apply canon_ite_fst_s
        | simp only [canon_mk_iff]
        | split
        | intro _

theorem canon_retireAdvanceWith {kw kt kr ks kp xb xl xn xc} {s : Chip} {p : Nat} {tierB : Bool} {e : Rd × Option
    KvCtx} (h_s : s.Canon kw kt kr ks none kp none ⟨xb, none, xl, none, none, xn, xc⟩) (h_e : e.1.s.Canon kw kt kr ks
    none kp none ⟨xb, none, xl, none, none, xn, xc⟩) : (retireAdvanceWith s p tierB e).Canon kw kt kr ks none kp none
    ⟨xb, none, xl, none, none, xn, xc⟩ := by
  unfold retireAdvanceWith
  try dsimp only
  repeat' first
    | with_reducible assumption
    | with_reducible apply canon_Rd_settle
    | with_reducible apply canon_Rd_advance
    | with_reducible apply canon_ite
    | with_reducible apply canon_ite_s
    | with_reducible apply canon_ite_fst
    | with_reducible apply canon_ite_fst_s
    | simp only [canon_mk_iff]
    | split
    | intro _

theorem canon_retireQueueAdvance {kw kt kr ks kp xb xl xn xc} {s : Chip} {p : Nat} {tierB : Bool} (h_s : s.Canon kw kt
    kr ks none kp none ⟨xb, none, xl, none, none, xn, xc⟩) : (retireQueueAdvance s p tierB).Canon kw kt kr ks none kp
    none ⟨xb, none, xl, none, none, xn, xc⟩ := by
  unfold retireQueueAdvance
  try dsimp only
  repeat' first
    | with_reducible assumption
    | with_reducible apply canon_startRd
    | with_reducible apply canon_Rd_ctx
    | with_reducible apply canon_retireAdvanceWith

theorem canon_pwFreeWrite {kw kt kr ks km kp xb xq xl xm xn xc} {s : Chip} {editing : Bool} {r : Nat} {tierB : Bool}
    {v : Nat} (h_s : s.Canon kw kt kr ks km kp none ⟨xb, xq, xl, xm, none, xn, xc⟩) : (pwFreeWrite s editing r tierB
    v).Canon kw kt kr ks km kp none ⟨xb, xq, xl, xm, none, xn, xc⟩ := by
  unfold pwFreeWrite
  try dsimp only
  repeat' first
    | with_reducible assumption
    | with_reducible apply canon_setKvPart
    | with_reducible apply canon_setFree
    | with_reducible apply canon_ite
    | with_reducible apply canon_ite_s
    | with_reducible apply canon_ite_fst
    | with_reducible apply canon_ite_fst_s
    | simp only [canon_mk_iff]
    | split
    | intro _

theorem canon_EditEnv_get {kw kt kr ks kp kv xb xq xl xm xn xc} {v : EditEnv} {x : Rd} {i : Nat} (h_x : x.s.Canon kw
    kt kr ks none kp kv ⟨xb, xq, xl, xm, none, xn, xc⟩) : (EditEnv.get v x i).1.s.Canon kw kt kr ks none kp kv ⟨xb,
    xq, xl, xm, none, xn, xc⟩ := by
  unfold EditEnv.get
  try dsimp only
  repeat' first
    | with_reducible assumption
    | with_reducible apply canon_Rd_devFree
    | with_reducible apply canon_ite
    | with_reducible apply canon_ite_s
    | with_reducible apply canon_ite_fst
    | with_reducible apply canon_ite_fst_s
    | simp only [canon_mk_iff]
    | split
    | intro _

theorem canon_EditEnv_place {kw kt kr ks km kp kv kx} {v : EditEnv} {x : Rd} {n : Nat} (h_x : x.s.Canon kw kt kr ks km
    kp kv kx) : (EditEnv.place v x n).s.Canon kw kt kr ks km kp kv kx := by
  unfold EditEnv.place
  try dsimp only
  repeat' first
    | with_reducible assumption
    | with_reducible apply canon_Rd_stop
    | with_reducible apply canon_ite
    | with_reducible apply canon_ite_s
    | with_reducible apply canon_ite_fst
    | with_reducible apply canon_ite_fst_s
    | simp only [canon_mk_iff]
    | split
    | intro _

theorem canon_EditEnv_put {kw kt kr ks kp kv kx} {v : EditEnv} {e : Edit} {i : Nat} {n : Nat} (h_e : e.x.s.Canon kw kt
    kr ks none kp kv kx) : (EditEnv.put v e i n).x.s.Canon kw kt kr ks none kp kv kx := by
  unfold EditEnv.put
  try dsimp only
  repeat' first
    | with_reducible assumption
    | with_reducible apply canon_Rd_devPut

theorem canon_EditEnv_drop {kw kt kr ks kp xb xl xm xn xc} {v : EditEnv} {e : Edit} {n : Nat} (h_e : e.x.s.Canon kw kt
    kr ks none kp none ⟨xb, none, xl, xm, none, xn, xc⟩) : (EditEnv.drop v e n).x.s.Canon kw kt kr ks none kp none
    ⟨xb, none, xl, xm, none, xn, xc⟩ := by
  unfold EditEnv.drop
  try dsimp only
  repeat' first
    | with_reducible assumption
    | with_reducible apply canon_Rd_refDown
    | with_reducible apply canon_ite
    | with_reducible apply canon_ite_s
    | with_reducible apply canon_ite_fst
    | with_reducible apply canon_ite_fst_s
    | simp only [canon_mk_iff]
    | split

theorem canon_EditEnv_set {kw kt kr ks xn xc} {v : EditEnv} {x : Rd} {i : Nat} {n : Nat} (h_x : x.s.Canon kw kt kr ks
    none none none ⟨none, none, none, none, none, xn, xc⟩) : (EditEnv.set v x i n).x.s.Canon kw kt kr ks none none
    none ⟨none, none, none, none, none, xn, xc⟩ := by
  unfold EditEnv.set
  try dsimp only
  repeat' first
    | with_reducible assumption
    | with_reducible apply canon_Rd_put
    | with_reducible apply canon_Rd_drop
    | with_reducible apply canon_Rd_alive
    | with_reducible apply canon_Rd_refUp
    | with_reducible apply canon_EditEnv_get
    | with_reducible apply canon_EditEnv_place
    | with_reducible apply canon_EditEnv_put
    | with_reducible apply canon_EditEnv_drop
    | with_reducible apply canon_ite
    | with_reducible apply canon_ite_s
    | with_reducible apply canon_ite_fst
    | with_reducible apply canon_ite_fst_s
    | simp only [canon_mk_iff]
    | split

theorem canon_EditEnv_release {kw kt kr ks xn xc} {v : EditEnv} {e : Edit} {i : Nat} (h_e : e.x.s.Canon kw kt kr ks
    none none none ⟨none, none, none, none, none, xn, xc⟩) : (EditEnv.release v e i).x.s.Canon kw kt kr ks none none
    none ⟨none, none, none, none, none, xn, xc⟩ := by
  unfold EditEnv.release
  try dsimp only
  repeat' first
    | with_reducible assumption
    | with_reducible apply canon_Rd_put
    | with_reducible apply canon_Rd_drop
    | with_reducible apply canon_EditEnv_get
    | with_reducible apply canon_EditEnv_put
    | with_reducible apply canon_EditEnv_drop
    | with_reducible apply canon_ite
    | with_reducible apply canon_ite_s
    | with_reducible apply canon_ite_fst
    | with_reducible apply canon_ite_fst_s
    | simp only [canon_mk_iff]
    | split

theorem canon_EditEnv_share {kw kt kr ks xn xc} {v : EditEnv} {src : Nat} {e : Edit} {i : Nat} (h_e : e.x.s.Canon kw
    kt kr ks none none none ⟨none, none, none, none, none, xn, xc⟩) : (EditEnv.share v src e i).x.s.Canon kw kt kr ks
    none none none ⟨none, none, none, none, none, xn, xc⟩ := by
  unfold EditEnv.share
  try dsimp only
  repeat' first
    | with_reducible assumption
    | with_reducible apply canon_Rd_put
    | with_reducible apply canon_Rd_drop
    | with_reducible apply canon_Rd_refUp
    | with_reducible apply canon_EditEnv_get
    | with_reducible apply canon_EditEnv_place
    | with_reducible apply canon_EditEnv_put
    | with_reducible apply canon_EditEnv_drop
    | with_reducible apply canon_ite
    | with_reducible apply canon_ite_s
    | with_reducible apply canon_ite_fst
    | with_reducible apply canon_ite_fst_s
    | simp only [canon_mk_iff]
    | split

theorem canon_EditEnv_move {kw kt kr ks xn xc} {v : EditEnv} {dest_ : Bool} {e : Edit} {i : Nat} (h_e : e.x.s.Canon kw
    kt kr ks none none none ⟨none, none, none, none, none, xn, xc⟩) : (EditEnv.move v dest_ e i).x.s.Canon kw kt kr ks
    none none none ⟨none, none, none, none, none, xn, xc⟩ := by
  unfold EditEnv.move
  try dsimp only
  repeat' first
    | with_reducible assumption
    | with_reducible apply canon_Rd_put
    | with_reducible apply canon_Rd_drop
    | with_reducible apply canon_Rd_copyFrame
    | with_reducible apply canon_EditEnv_get
    | with_reducible apply canon_EditEnv_put
    | with_reducible apply canon_EditEnv_drop
    | with_reducible apply canon_ite
    | with_reducible apply canon_ite_s
    | with_reducible apply canon_ite_fst
    | with_reducible apply canon_ite_fst_s
    | simp only [canon_mk_iff]
    | split

theorem canon_EditEnv_allot {kw kt kr ks xn xc} {v : EditEnv} {dest_ : Bool} {e : Edit} {i : Nat} (h_e : e.x.s.Canon
    kw kt kr ks none none none ⟨none, none, none, none, none, xn, xc⟩) : (EditEnv.allot v dest_ e i).x.s.Canon kw kt
    kr ks none none none ⟨none, none, none, none, none, xn, xc⟩ := by
  unfold EditEnv.allot
  try dsimp only
  repeat' first
    | with_reducible assumption
    | with_reducible apply canon_Rd_put
    | with_reducible apply canon_Rd_newFrame
    | with_reducible apply canon_EditEnv_put
    | with_reducible apply canon_ite
    | with_reducible apply canon_ite_s
    | with_reducible apply canon_ite_fst
    | with_reducible apply canon_ite_fst_s
    | simp only [canon_mk_iff]
    | split

theorem canon_EditEnv_absents {kw kt kr ks kp kv xb xq xl xm xn xc} {v : EditEnv} {x : Rd} {l : List Nat} (h_x :
    x.s.Canon kw kt kr ks none kp kv ⟨xb, xq, xl, xm, none, xn, xc⟩) : (EditEnv.absents v x l).1.s.Canon kw kt kr ks
    none kp kv ⟨xb, xq, xl, xm, none, xn, xc⟩ := by
  unfold EditEnv.absents
  try dsimp only
  repeat' first
    | with_reducible assumption
    | with_reducible apply canon_EditEnv_get
    | with_reducible apply canon_foldl
    | with_reducible apply canon_foldl_fst
    | with_reducible apply canon_foldl_rd
    | with_reducible apply canon_foldl_rd_fst
    | with_reducible apply canon_foldl_x
    | with_reducible apply canon_foldl_run_fst
    | with_reducible apply canon_ite
    | with_reducible apply canon_ite_s
    | with_reducible apply canon_ite_fst
    | with_reducible apply canon_ite_fst_s
    | simp only [canon_mk_iff]
    | split
    | intro _

theorem canon_EditEnv_allocate {kw kt kr ks xn xc} {v : EditEnv} {x : Rd} {dest_ : Bool} {l : List Nat} (h_x :
    x.s.Canon kw kt kr ks none none none ⟨none, none, none, none, none, xn, xc⟩) : (EditEnv.allocate v x dest_
    l).x.s.Canon kw kt kr ks none none none ⟨none, none, none, none, none, xn, xc⟩ := by
  unfold EditEnv.allocate
  try dsimp only
  repeat' first
    | with_reducible assumption
    | with_reducible apply canon_Rd_stop
    | with_reducible apply canon_Rd_alive
    | with_reducible apply canon_Rd_alloc
    | with_reducible apply canon_EditEnv_allot
    | with_reducible apply canon_EditEnv_absents
    | with_reducible apply canon_foldl
    | with_reducible apply canon_foldl_fst
    | with_reducible apply canon_foldl_rd
    | with_reducible apply canon_foldl_rd_fst
    | with_reducible apply canon_foldl_x
    | with_reducible apply canon_foldl_run_fst
    | with_reducible apply canon_ite
    | with_reducible apply canon_ite_s
    | with_reducible apply canon_ite_fst
    | with_reducible apply canon_ite_fst_s
    | simp only [canon_mk_iff]
    | split
    | intro _

theorem canon_EditEnv_run {kw kt kr ks xn xc} {v : EditEnv} {x : Rd} {a : EditArgs} (h_x : x.s.Canon kw kt kr ks none
    none none ⟨none, none, none, none, none, xn, xc⟩) : (EditEnv.run v x a).x.s.Canon kw kt kr ks none none none
    ⟨none, none, none, none, none, xn, xc⟩ := by
  unfold EditEnv.run
  try dsimp only
  repeat' first
    | with_reducible assumption
    | with_reducible apply canon_Rd_stop
    | with_reducible apply canon_Rd_alive
    | with_reducible apply canon_EditEnv_set
    | with_reducible apply canon_EditEnv_release
    | with_reducible apply canon_EditEnv_share
    | with_reducible apply canon_EditEnv_move
    | with_reducible apply canon_EditEnv_allocate
    | with_reducible apply canon_foldl
    | with_reducible apply canon_foldl_fst
    | with_reducible apply canon_foldl_rd
    | with_reducible apply canon_foldl_rd_fst
    | with_reducible apply canon_foldl_x
    | with_reducible apply canon_foldl_run_fst
    | with_reducible apply canon_ite
    | with_reducible apply canon_ite_s
    | with_reducible apply canon_ite_fst
    | with_reducible apply canon_ite_fst_s
    | simp only [canon_mk_iff]
    | split

end Sys2Proof.Machine
end

