-- ==== Sys2Proof/Laws/CanonRein.lean ====
section
/-! SUPPORT. The operations of Machine/Rein.lean keep the canonical form. -/
set_option linter.all false
namespace Sys2Proof.Machine

theorem canon_countRein {kw kt kr ks km kp kv xb xq xl xm xn xc} {s : Chip} {r : Nat} {tag : Nat} {code : Nat} {n :
    Nat} (h_s : s.Canon kw kt kr ks km kp kv ⟨xb, xq, xl, xm, none, xn, xc⟩) : (countRein s r tag code n).Canon kw kt
    kr ks km kp kv ⟨xb, xq, xl, xm, none, xn, xc⟩ := by
  unfold countRein
  try dsimp only
  repeat' first
    | with_reducible assumption
    | with_reducible apply canon_wr
    | with_reducible apply canon_wrAll
    | with_reducible apply canon_bump
    | with_reducible apply canon_setFlag
    | with_reducible apply canon_ite
    | with_reducible apply canon_ite_s
    | with_reducible apply canon_ite_fst
    | with_reducible apply canon_ite_fst_s
    | simp only [canon_mk_iff]
    | split
    | intro _

theorem canon_faultRein {kw kt kr ks kp kv xn xc} {s : Chip} {o : Origin} {code : Nat} {a : Option Nat} (h_s : s.Canon
    kw kt kr ks none kp kv ⟨none, none, none, none, none, xn, xc⟩) : (faultRein s o code a).Canon kw kt kr ks none kp
    kv ⟨none, none, none, none, none, xn, xc⟩ := by
  unfold faultRein
  try dsimp only
  repeat' first
    | with_reducible assumption
    | with_reducible apply canon_setFlag
    | with_reducible apply canon_faultJob
    | with_reducible apply canon_faultQueue
    | with_reducible apply canon_faultMem
    | with_reducible apply canon_faultPad
    | with_reducible apply canon_ite
    | with_reducible apply canon_ite_s
    | with_reducible apply canon_ite_fst
    | with_reducible apply canon_ite_fst_s
    | simp only [canon_mk_iff]
    | split
    | intro _

theorem canon_reinError {kw kt kr ks km kp kv xb xq xl xm xn xc} {s : Chip} {r : Nat} {x : BufferError} (h_s : s.Canon
    kw kt kr ks km kp kv ⟨xb, xq, xl, xm, none, xn, xc⟩) : (reinError s r x).Canon kw kt kr ks km kp kv ⟨xb, xq, xl,
    xm, none, xn, xc⟩ := by
  unfold reinError
  try dsimp only
  repeat' first
    | with_reducible assumption
    | with_reducible apply canon_bump
    | with_reducible apply canon_bufferError

theorem canon_reinCounted {kw kt kr ks km kp kv xb xl xn xc} {x : Rd} {s₀ : Chip} {o : Origin} {op : Nat} {b : Body}
    (h_x : x.s.Canon kw kt kr ks km kp kv ⟨xb, none, xl, none, none, xn, xc⟩) (h_s₀ : s₀.Canon kw kt kr ks km kp kv
    ⟨xb, none, xl, none, none, xn, xc⟩) : (reinCounted x s₀ o op b).Canon kw kt kr ks km kp kv ⟨xb, none, xl, none,
    none, xn, xc⟩ := by
  unfold reinCounted
  try dsimp only
  repeat' first
    | with_reducible assumption
    | with_reducible apply canon_markPoisoned
    | with_reducible apply canon_consumed
    | with_reducible apply canon_Rd_settle
    | with_reducible apply canon_countRein
    | with_reducible apply canon_foldl
    | with_reducible apply canon_foldl_fst
    | with_reducible apply canon_foldl_rd
    | with_reducible apply canon_foldl_rd_fst
    | with_reducible apply canon_foldl_x
    | with_reducible apply canon_foldl_run_fst
    | with_reducible apply canon_ite
    | with_reducible apply canon_ite_s
    | with_reducible apply canon_ite_fst
    | with_reducible apply canon_ite_fst_s
    | simp only [canon_mk_iff]
    | split
    | intro _

theorem canon_reinOver {kw kt kr ks km kp kv xb xl xm xh xn xc} {s : Chip} {o : Origin} {op : Nat} {b : Body} {n :
    Nat} (h_s : s.Canon kw kt kr ks km kp kv ⟨xb, none, xl, xm, xh, xn, xc⟩) : (reinOver s o op b n).Canon kw kt kr ks
    km kp kv ⟨xb, none, xl, xm, xh, xn, xc⟩ := by
  unfold reinOver
  try dsimp only
  repeat' first
    | with_reducible assumption
    | with_reducible apply canon_bump64
    | with_reducible apply canon_finish
    | with_reducible apply canon_charge

theorem canon_reinClose {kw kt kr ks kp kv xn xc} {x : Rd} {s₀ : Chip} {o : Origin} {op : Nat} {b : Body} {n : Nat}
    (h_x : x.s.Canon kw kt kr ks none kp kv ⟨none, none, none, none, none, xn, xc⟩) (h_s₀ : s₀.Canon kw kt kr ks none
    kp kv ⟨none, none, none, none, none, xn, xc⟩) : (reinClose x s₀ o op b n).Canon kw kt kr ks none kp kv ⟨none,
    none, none, none, none, xn, xc⟩ := by
  unfold reinClose
  try dsimp only
  repeat' first
    | with_reducible assumption
    | with_reducible apply canon_Rd_settle
    | with_reducible apply canon_faultRein
    | with_reducible apply canon_reinCounted
    | with_reducible apply canon_reinOver
    | with_reducible apply canon_ite
    | with_reducible apply canon_ite_s
    | with_reducible apply canon_ite_fst
    | with_reducible apply canon_ite_fst_s
    | simp only [canon_mk_iff]
    | split
    | intro _

theorem canon_Rd_batch {kw kt kr ks kv xn xc} {x : Rd} {o : Origin} {base : Nat} {i : Nat} (h_x : x.s.Canon kw kt kr
    ks none none kv ⟨none, none, none, none, none, xn, xc⟩) : (Rd.batch x o base i).1.s.Canon kw kt kr ks none none kv
    ⟨none, none, none, none, none, xn, xc⟩ := by
  unfold Rd.batch
  try dsimp only
  repeat' first
    | with_reducible assumption
    | with_reducible apply canon_Rd_stop
    | with_reducible apply canon_Rd_padFree
    | with_reducible apply canon_ite
    | with_reducible apply canon_ite_s
    | with_reducible apply canon_ite_fst
    | with_reducible apply canon_ite_fst_s
    | simp only [canon_mk_iff]
    | split
    | intro _

theorem canon_Rd_layout {kw kt kr ks km kp kv kx} {x : Rd} {w : Walk} {m : Nat} (h_x : x.s.Canon kw kt kr ks km kp kv
    kx) : (Rd.layout x w m).1.s.Canon kw kt kr ks km kp kv kx := by
  unfold Rd.layout
  try dsimp only
  repeat' first
    | with_reducible assumption
    | with_reducible apply canon_Rd_stop
    | with_reducible apply canon_ite
    | with_reducible apply canon_ite_s
    | with_reducible apply canon_ite_fst
    | with_reducible apply canon_ite_fst_s
    | simp only [canon_mk_iff]
    | split

theorem canon_Rd_walkCtx {kw kt kr ks kp kv xb xq xl xm xn xc} {x : Rd} {w : Walk} (h_x : x.s.Canon kw kt kr ks none
    kp kv ⟨xb, xq, xl, xm, none, xn, xc⟩) : (Rd.walkCtx x w).1.s.Canon kw kt kr ks none kp kv ⟨xb, xq, xl, xm, none,
    xn, xc⟩ := by
  unfold Rd.walkCtx
  try dsimp only
  repeat' first
    | with_reducible assumption
    | with_reducible apply canon_Rd_stop
    | with_reducible apply canon_Rd_ctx
    | with_reducible apply canon_ite
    | with_reducible apply canon_ite_s
    | with_reducible apply canon_ite_fst
    | with_reducible apply canon_ite_fst_s
    | simp only [canon_mk_iff]
    | split

theorem canon_AttendRun_look {kw kt kr ks kp xb xq xl xm xn xc} {a : AttendRun} {o : Origin} {w : Walk} {c : KvCtx} {l
    : KvLayout} {e : BatchEntry} {layer : Nat} {blk : Nat} {parity : List Nat} (h_a : a.x.s.Canon kw kt kr ks none kp
    none ⟨xb, xq, xl, xm, none, xn, xc⟩) : (AttendRun.look a o w c l e layer blk parity).1.x.s.Canon kw kt kr ks none
    kp none ⟨xb, xq, xl, xm, none, xn, xc⟩ := by
  unfold AttendRun.look
  try dsimp only
  repeat' first
    | with_reducible assumption
    | with_reducible apply canon_bump
    | with_reducible apply canon_Rd_devFree
    | with_reducible apply canon_Rd_listEntry
    | with_reducible apply canon_ite
    | with_reducible apply canon_ite_s
    | with_reducible apply canon_ite_fst
    | with_reducible apply canon_ite_fst_s
    | simp only [canon_mk_iff]
    | split

theorem canon_AttendRun_read {kw kt kr ks kv xn xc} {a : AttendRun} {o : Origin} {w : Walk} {c : KvCtx} {g :
    GroupPage} (h_a : a.x.s.Canon kw kt kr ks none none kv ⟨none, none, none, none, none, xn, xc⟩) : (AttendRun.read a
    o w c g).1.x.s.Canon kw kt kr ks none none kv ⟨none, none, none, none, none, xn, xc⟩ := by
  unfold AttendRun.read
  try dsimp only
  repeat' first
    | with_reducible assumption
    | with_reducible apply canon_bump
    | with_reducible apply canon_Rd_note
    | with_reducible apply canon_Rd_page
    | with_reducible apply canon_foldl
    | with_reducible apply canon_foldl_fst
    | with_reducible apply canon_foldl_rd
    | with_reducible apply canon_foldl_rd_fst
    | with_reducible apply canon_foldl_x
    | with_reducible apply canon_foldl_run_fst
    | with_reducible apply canon_ite
    | with_reducible apply canon_ite_s
    | with_reducible apply canon_ite_fst
    | with_reducible apply canon_ite_fst_s
    | simp only [canon_mk_iff]
    | split
    | intro _

theorem canon_attendPage {kw kt kr ks xn xc} {o : Origin} {w : Walk} {c : KvCtx} {l : KvLayout} {v : Attend} {e :
    BatchEntry} {parity : List Nat} {st : AttendRun × List QueryHead} {blk : Nat} (h_st : st.1.x.s.Canon kw kt kr ks
    none none none ⟨none, none, none, none, none, xn, xc⟩) : (attendPage o w c l v e parity st blk).1.x.s.Canon kw kt
    kr ks none none none ⟨none, none, none, none, none, xn, xc⟩ := by
  unfold attendPage
  try dsimp only
  repeat' first
    | with_reducible assumption
    | with_reducible apply canon_bump
    | with_reducible apply canon_bump64
    | with_reducible apply canon_Rd_read
    | with_reducible apply canon_AttendRun_look
    | with_reducible apply canon_AttendRun_read
    | with_reducible apply canon_ite
    | with_reducible apply canon_ite_s
    | with_reducible apply canon_ite_fst
    | with_reducible apply canon_ite_fst_s
    | simp only [canon_mk_iff]
    | split

theorem canon_Rd_queryHead {kw kt kr ks xn xc} {x : Rd} {o : Origin} {l : KvLayout} {v : Attend} {e : BatchEntry} {bad
    : Bool} {j : Nat} (h_x : x.s.Canon kw kt kr ks none none none ⟨none, none, none, none, none, xn, xc⟩) :
    (Rd.queryHead x o l v e bad j).1.s.Canon kw kt kr ks none none none ⟨none, none, none, none, none, xn, xc⟩ := by
  unfold Rd.queryHead
  try dsimp only
  repeat' first
    | with_reducible assumption
    | with_reducible apply canon_Rd_count
    | with_reducible apply canon_Rd_values

theorem canon_attendEntry {kw kt kr ks xn xc} {o : Origin} {w : Walk} {c : KvCtx} {v : Attend} {ue : Bool} {parity :
    List Nat} {a : AttendRun} {e : BatchEntry} (h_a : a.x.s.Canon kw kt kr ks none none none ⟨none, none, none, none,
    none, xn, xc⟩) : (attendEntry o w c v ue parity a e).x.s.Canon kw kt kr ks none none none ⟨none, none, none, none,
    none, xn, xc⟩ := by
  unfold attendEntry
  try dsimp only
  repeat' first
    | with_reducible assumption
    | with_reducible apply canon_bump
    | with_reducible apply canon_Rd_stop
    | with_reducible apply canon_Rd_taint
    | with_reducible apply canon_Rd_putValues
    | with_reducible apply canon_Rd_layout
    | with_reducible apply canon_attendPage
    | with_reducible apply canon_Rd_queryHead
    | with_reducible apply canon_foldl
    | with_reducible apply canon_foldl_fst
    | with_reducible apply canon_foldl_rd
    | with_reducible apply canon_foldl_rd_fst
    | with_reducible apply canon_foldl_x
    | with_reducible apply canon_foldl_run_fst
    | with_reducible apply canon_ite
    | with_reducible apply canon_ite_s
    | with_reducible apply canon_ite_fst
    | with_reducible apply canon_ite_fst_s
    | simp only [canon_mk_iff]
    | split
    | intro _

theorem canon_attendEntries {kw kt kr ks xn xc} {o : Origin} {w : Walk} {c : KvCtx} {v : Attend} {ue : Bool} {parity :
    List Nat} {base : Nat} {z0 : Nat} {z1 : Nat} {z2 : Option BatchEntry} {z3 : AttendRun} (h_z3 : z3.x.s.Canon kw kt
    kr ks none none none ⟨none, none, none, none, none, xn, xc⟩) : (attendEntries o w c v ue parity base z0 z1 z2
    z3).x.s.Canon kw kt kr ks none none none ⟨none, none, none, none, none, xn, xc⟩ := by
  induction z0 generalizing o w c v ue parity base z1 z2 z3 with
  | zero =>
      unfold attendEntries
      try dsimp only
      repeat' first
        | with_reducible assumption
  | succ k ih =>
      unfold attendEntries
      try dsimp only
      repeat' first
        | with_reducible assumption
        | with_reducible apply ih
        | with_reducible apply canon_labGroupEnd
        | with_reducible apply canon_Rd_batch
        | with_reducible apply canon_attendEntry
        | with_reducible apply canon_ite
        | with_reducible apply canon_ite_s
        | with_reducible apply canon_ite_fst
        | with_reducible apply canon_ite_fst_s
        | simp only [canon_mk_iff]
        | split

theorem canon_Rd_walk {kw kt kr ks kp xb xq xl xm xn xc} {x : Rd} {o : Origin} {op : Nat} {b : Body} (h_x : x.s.Canon
    kw kt kr ks none kp none ⟨xb, xq, xl, xm, none, xn, xc⟩) : (Rd.walk x o op b).1.s.Canon kw kt kr ks none kp none
    ⟨xb, xq, xl, xm, none, xn, xc⟩ := by
  unfold Rd.walk
  try dsimp only
  repeat' first
    | with_reducible assumption
    | with_reducible apply canon_Rd_begin
    | with_reducible apply canon_ite
    | with_reducible apply canon_ite_s
    | with_reducible apply canon_ite_fst
    | with_reducible apply canon_ite_fst_s
    | simp only [canon_mk_iff]
    | split

theorem canon_dropWalk {kw kt kr ks km kp kx} {w : Walk} {held : Bool} {s : Chip} (h_s : s.Canon kw kt kr ks km kp
    none kx) : (dropWalk w held s).Canon kw kt kr ks km kp none kx := by
  unfold dropWalk
  try dsimp only
  repeat' first
    | with_reducible assumption
    | with_reducible apply canon_endWalk
    | with_reducible apply canon_ite
    | with_reducible apply canon_ite_s
    | with_reducible apply canon_ite_fst
    | with_reducible apply canon_ite_fst_s
    | simp only [canon_mk_iff]
    | split
    | intro _

theorem canon_reinStart {kw kt kr ks km kp kv xb xq xl xm xn xc} {s : Chip} {o : Origin} {met : List BufferError} (h_s
    : s.Canon kw kt kr ks km kp kv ⟨xb, xq, xl, xm, none, xn, xc⟩) : (reinStart s o met).s.Canon kw kt kr ks km kp kv
    ⟨xb, xq, xl, xm, none, xn, xc⟩ := by
  unfold reinStart
  try dsimp only
  repeat' first
    | with_reducible assumption
    | with_reducible apply canon_startRd
    | with_reducible apply canon_bufferMeets
    | with_reducible apply canon_reinError
    | with_reducible apply canon_ite
    | with_reducible apply canon_ite_s
    | with_reducible apply canon_ite_fst
    | with_reducible apply canon_ite_fst_s
    | simp only [canon_mk_iff]
    | split
    | intro _

theorem canon_attendWork {kw kt kr ks xn xc} {k : Rd × Walk × Bool} {s : Chip} {o : Origin} {b : Body} {met : List
    BufferError} {parity : List Nat} (h_k : k.1.s.Canon kw kt kr ks none none none ⟨none, none, none, none, none, xn,
    xc⟩) (h_s : s.Canon kw kt kr ks none none none ⟨none, none, none, none, none, xn, xc⟩) : (attendWork k s o b met
    parity).x.s.Canon kw kt kr ks none none none ⟨none, none, none, none, none, xn, xc⟩ := by
  unfold attendWork
  try dsimp only
  repeat' first
    | with_reducible assumption
    | with_reducible apply canon_Rd_walkCtx
    | with_reducible apply canon_attendEntries

theorem canon_attendEnd {kw kt kr ks kp xn xc} {a : AttendRun} {k : Rd × Walk × Bool} {s : Chip} {o : Origin} {b :
    Body} (h_a : a.x.s.Canon kw kt kr ks none kp none ⟨none, none, none, none, none, xn, xc⟩) (h_k : k.1.s.Canon kw kt
    kr ks none kp none ⟨none, none, none, none, none, xn, xc⟩) (h_s : s.Canon kw kt kr ks none kp none ⟨none, none,
    none, none, none, xn, xc⟩) : (attendEnd a k s o b).Canon kw kt kr ks none kp none ⟨none, none, none, none, none,
    xn, xc⟩ := by
  unfold attendEnd
  try dsimp only
  repeat' first
    | with_reducible assumption
    | with_reducible apply canon_draw
    | with_reducible apply canon_labGroupEnd
    | with_reducible apply canon_reinClose
    | with_reducible apply canon_dropWalk
    | with_reducible apply canon_ite
    | with_reducible apply canon_ite_s
    | with_reducible apply canon_ite_fst
    | with_reducible apply canon_ite_fst_s
    | simp only [canon_mk_iff]
    | split
    | intro _

theorem canon_reinAttend {kw kt kr ks xn xc} {s : Chip} {o : Origin} {b : Body} {met : List BufferError} {parity :
    List Nat} (h_s : s.Canon kw kt kr ks none none none ⟨none, none, none, none, none, xn, xc⟩) : (reinAttend s o b
    met parity).Canon kw kt kr ks none none none ⟨none, none, none, none, none, xn, xc⟩ := by
  unfold reinAttend
  try dsimp only
  repeat' first
    | with_reducible assumption
    | with_reducible apply canon_Rd_stop
    | with_reducible apply canon_reinClose
    | with_reducible apply canon_Rd_walk
    | with_reducible apply canon_reinStart
    | with_reducible apply canon_attendWork
    | with_reducible apply canon_attendEnd
    | with_reducible apply canon_ite
    | with_reducible apply canon_ite_s
    | with_reducible apply canon_ite_fst
    | with_reducible apply canon_ite_fst_s
    | simp only [canon_mk_iff]
    | split
    | intro _

theorem canon_Rd_staged {kw kt kr ks xn xc} {x : Rd} {o : Origin} {l : KvLayout} {stage : Nat} {token : Nat} {h : Nat}
    (h_x : x.s.Canon kw kt kr ks none none none ⟨none, none, none, none, none, xn, xc⟩) : (Rd.staged x o l stage token
    h).1.s.Canon kw kt kr ks none none none ⟨none, none, none, none, none, xn, xc⟩ := by
  unfold Rd.staged
  try dsimp only
  repeat' first
    | with_reducible assumption
    | with_reducible apply canon_Rd_values

theorem canon_Rd_allRaw {kw kt kr ks kp kv xb xq xl xm xn xc} {x : Rd} {w : Walk} {o : Origin} {tierB : Bool} {f :
    Nat} (h_x : x.s.Canon kw kt kr ks none kp kv ⟨xb, xq, xl, xm, none, xn, xc⟩) : (Rd.allRaw x w o tierB f).1.s.Canon
    kw kt kr ks none kp kv ⟨xb, xq, xl, xm, none, xn, xc⟩ := by
  unfold Rd.allRaw
  try dsimp only
  repeat' first
    | with_reducible assumption
    | with_reducible apply canon_Rd_dev
    | with_reducible apply canon_foldl
    | with_reducible apply canon_foldl_fst
    | with_reducible apply canon_foldl_rd
    | with_reducible apply canon_foldl_rd_fst
    | with_reducible apply canon_foldl_x
    | with_reducible apply canon_foldl_run_fst
    | with_reducible apply canon_ite
    | with_reducible apply canon_ite_s
    | with_reducible apply canon_ite_fst
    | with_reducible apply canon_ite_fst_s
    | simp only [canon_mk_iff]
    | split
    | intro _

theorem canon_Rd_setEntry {kw kt kr ks kp kx} {x : Rd} {w : Walk} {e : BatchEntry} {layer : Nat} {blk : Nat} {a : Nat}
    {v : Nat} (h_x : x.s.Canon kw kt kr ks none kp none kx) : (Rd.setEntry x w e layer blk a v).s.Canon kw kt kr ks
    none kp none kx := by
  unfold Rd.setEntry
  try dsimp only
  repeat' first
    | with_reducible assumption
    | with_reducible apply canon_Rd_devPut
    | with_reducible apply canon_labFill
    | with_reducible apply canon_ite
    | with_reducible apply canon_ite_s
    | with_reducible apply canon_ite_fst
    | with_reducible apply canon_ite_fst_s
    | simp only [canon_mk_iff]
    | split
    | intro _

theorem canon_Rd_appendFrame {kw kt kr ks kp xb xl xm xn xc} {x : Rd} {o : Origin} {w : Walk} {c : KvCtx} {l :
    KvLayout} {v : Append} {e : BatchEntry} {parity : List Nat} (h_x : x.s.Canon kw kt kr ks none kp none ⟨xb, none,
    xl, xm, none, xn, xc⟩) : (Rd.appendFrame x o w c l v e parity).1.s.Canon kw kt kr ks none kp none ⟨xb, none, xl,
    xm, none, xn, xc⟩ := by
  unfold Rd.appendFrame
  try dsimp only
  repeat' first
    | with_reducible assumption
    | with_reducible apply canon_bump
    | with_reducible apply canon_Rd_stop
    | with_reducible apply canon_Rd_taint
    | with_reducible apply canon_Rd_devFree
    | with_reducible apply canon_Rd_listEntry
    | with_reducible apply canon_Rd_refPeek
    | with_reducible apply canon_Rd_refDown
    | with_reducible apply canon_Rd_newFrame
    | with_reducible apply canon_Rd_copyFrame
    | with_reducible apply canon_Rd_allRaw
    | with_reducible apply canon_Rd_setEntry
    | with_reducible apply canon_ite
    | with_reducible apply canon_ite_s
    | with_reducible apply canon_ite_fst
    | with_reducible apply canon_ite_fst_s
    | simp only [canon_mk_iff]
    | split
    | intro _

theorem canon_Rd_pageBit {kw kt kr ks kp kv kx} {x : Rd} {p : Nat} {a : Nat} {off : Nat} {k : Nat} {on : Bool} {bad :
    Bool} (h_x : x.s.Canon kw kt kr ks none kp kv kx) : (Rd.pageBit x p a off k on bad).s.Canon kw kt kr ks none kp kv
    kx := by
  unfold Rd.pageBit
  try dsimp only
  repeat' first
    | with_reducible assumption
    | with_reducible apply canon_Rd_devPut

theorem canon_Rd_putKeys {kw kt kr ks kp kv kx} {x : Rd} {p : Nat} {a : Nat} {l : KvLayout} {h : Nat} {t : Nat} {codes
    : List Int} {bad : Bool} (h_x : x.s.Canon kw kt kr ks none kp kv kx) : (Rd.putKeys x p a l h t codes bad).s.Canon
    kw kt kr ks none kp kv kx := by
  unfold Rd.putKeys
  try dsimp only
  repeat' first
    | with_reducible assumption
    | with_reducible apply canon_Rd_devPut
    | with_reducible apply canon_foldl
    | with_reducible apply canon_foldl_fst
    | with_reducible apply canon_foldl_rd
    | with_reducible apply canon_foldl_rd_fst
    | with_reducible apply canon_foldl_x
    | with_reducible apply canon_foldl_run_fst
    | with_reducible apply canon_ite
    | with_reducible apply canon_ite_s
    | with_reducible apply canon_ite_fst
    | with_reducible apply canon_ite_fst_s
    | simp only [canon_mk_iff]
    | split
    | intro _

theorem canon_Rd_putCodes {kw kt kr ks kp kv kx} {x : Rd} {p : Nat} {a : Nat} {l : KvLayout} {h : Nat} {t : Nat}
    {codes : List Int} {bad : Bool} (h_x : x.s.Canon kw kt kr ks none kp kv kx) : (Rd.putCodes x p a l h t codes
    bad).s.Canon kw kt kr ks none kp kv kx := by
  unfold Rd.putCodes
  try dsimp only
  repeat' first
    | with_reducible assumption
    | with_reducible apply canon_Rd_pageBit
    | with_reducible apply canon_foldl
    | with_reducible apply canon_foldl_fst
    | with_reducible apply canon_foldl_rd
    | with_reducible apply canon_foldl_rd_fst
    | with_reducible apply canon_foldl_x
    | with_reducible apply canon_foldl_run_fst
    | with_reducible apply canon_ite
    | with_reducible apply canon_ite_s
    | with_reducible apply canon_ite_fst
    | with_reducible apply canon_ite_fst_s
    | simp only [canon_mk_iff]
    | split
    | intro _

theorem canon_Rd_pageExps {kw kt kr ks xn xc} {x : Rd} {o : Origin} {l : KvLayout} {stage : Nat} {w : Nat} {tokens :
    List Nat} (h_x : x.s.Canon kw kt kr ks none none none ⟨none, none, none, none, none, xn, xc⟩) : (Rd.pageExps x o l
    stage w tokens).1.s.Canon kw kt kr ks none none none ⟨none, none, none, none, none, xn, xc⟩ := by
  unfold Rd.pageExps
  try dsimp only
  repeat' first
    | with_reducible assumption
    | with_reducible apply canon_Rd_staged
    | with_reducible apply canon_foldl
    | with_reducible apply canon_foldl_fst
    | with_reducible apply canon_foldl_rd
    | with_reducible apply canon_foldl_rd_fst
    | with_reducible apply canon_foldl_x
    | with_reducible apply canon_foldl_run_fst
    | with_reducible apply canon_ite
    | with_reducible apply canon_ite_s
    | with_reducible apply canon_ite_fst
    | with_reducible apply canon_ite_fst_s
    | simp only [canon_mk_iff]
    | split
    | intro _

theorem canon_Rd_headCodes {kw kt kr ks km kp kv kx} {x : Rd} {v : List (Nat × Bool)} {e : Nat} {exp : Bool} {all :
    Bool} {w : Nat} (h_x : x.s.Canon kw kt kr ks km kp kv kx) : (Rd.headCodes x v e exp all w).1.s.Canon kw kt kr ks
    km kp kv kx := by
  unfold Rd.headCodes
  try dsimp only
  repeat' first
    | with_reducible assumption
    | with_reducible apply canon_Rd_count
    | with_reducible apply canon_ite
    | with_reducible apply canon_ite_s
    | with_reducible apply canon_ite_fst
    | with_reducible apply canon_ite_fst_s
    | simp only [canon_mk_iff]
    | split
    | intro _

theorem canon_Rd_clearTail {kw kt kr ks kp kv kx} {x : Rd} {p : Nat} {a : Nat} {l : KvLayout} (h_x : x.s.Canon kw kt
    kr ks none kp kv kx) : (Rd.clearTail x p a l).s.Canon kw kt kr ks none kp kv kx := by
  unfold Rd.clearTail
  try dsimp only
  repeat' first
    | with_reducible assumption
    | with_reducible apply canon_Rd_devPut

theorem canon_Rd_appendCodes {kw kt kr ks xn xc} {x : Rd} {o : Origin} {w : Walk} {c : KvCtx} {l : KvLayout} {v :
    Append} {e : BatchEntry} {later : List BatchEntry} {ue : Bool} {tier : Bool} {f : Nat} (h_x : x.s.Canon kw kt kr
    ks none none none ⟨none, none, none, none, none, xn, xc⟩) : (Rd.appendCodes x o w c l v e later ue tier f).s.Canon
    kw kt kr ks none none none ⟨none, none, none, none, none, xn, xc⟩ := by
  unfold Rd.appendCodes
  try dsimp only
  repeat' first
    | with_reducible assumption
    | with_reducible apply canon_Rd_devFree
    | with_reducible apply canon_Rd_devPut
    | with_reducible apply canon_Rd_staged
    | with_reducible apply canon_Rd_putKeys
    | with_reducible apply canon_Rd_putCodes
    | with_reducible apply canon_Rd_pageExps
    | with_reducible apply canon_Rd_headCodes
    | with_reducible apply canon_Rd_clearTail
    | with_reducible apply canon_foldl
    | with_reducible apply canon_foldl_fst
    | with_reducible apply canon_foldl_rd
    | with_reducible apply canon_foldl_rd_fst
    | with_reducible apply canon_foldl_x
    | with_reducible apply canon_foldl_run_fst
    | with_reducible apply canon_ite
    | with_reducible apply canon_ite_s
    | with_reducible apply canon_ite_fst
    | with_reducible apply canon_ite_fst_s
    | simp only [canon_mk_iff]
    | split
    | intro _

theorem canon_appendEntries {kw kt kr ks xn xc} {o : Origin} {w : Walk} {c : KvCtx} {v : Append} {ue : Bool} {parity :
    List Nat} {base : Nat} {all : List BatchEntry} {z0 : Nat} {z1 : Nat} {z2 : Rd} (h_z2 : z2.s.Canon kw kt kr ks none
    none none ⟨none, none, none, none, none, xn, xc⟩) : (appendEntries o w c v ue parity base all z0 z1 z2).s.Canon kw
    kt kr ks none none none ⟨none, none, none, none, none, xn, xc⟩ := by
  induction z0 generalizing o w c v ue parity base all z1 z2 with
  | zero =>
      unfold appendEntries
      try dsimp only
      repeat' first
        | with_reducible assumption
  | succ k ih =>
      unfold appendEntries
      try dsimp only
      repeat' first
        | with_reducible assumption
        | with_reducible apply ih
        | with_reducible apply canon_Rd_stop
        | with_reducible apply canon_Rd_taint
        | with_reducible apply canon_Rd_drop
        | with_reducible apply canon_EditEnv_drop
        | with_reducible apply canon_Rd_batch
        | with_reducible apply canon_Rd_layout
        | with_reducible apply canon_Rd_appendFrame
        | with_reducible apply canon_Rd_appendCodes
        | with_reducible apply canon_ite
        | with_reducible apply canon_ite_s
        | with_reducible apply canon_ite_fst
        | with_reducible apply canon_ite_fst_s
        | simp only [canon_mk_iff]
        | split
        | intro _

theorem canon_appendWork {kw kt kr ks xn xc} {k : Rd × Walk × Bool} {s : Chip} {o : Origin} {b : Body} {met : List
    BufferError} {parity : List Nat} (h_k : k.1.s.Canon kw kt kr ks none none none ⟨none, none, none, none, none, xn,
    xc⟩) (h_s : s.Canon kw kt kr ks none none none ⟨none, none, none, none, none, xn, xc⟩) : (appendWork k s o b met
    parity).s.Canon kw kt kr ks none none none ⟨none, none, none, none, none, xn, xc⟩ := by
  unfold appendWork
  try dsimp only
  repeat' first
    | with_reducible assumption
    | with_reducible apply canon_Rd_walkCtx
    | with_reducible apply canon_appendEntries

theorem canon_appendEnd {kw kt kr ks kp xn xc} {y : Rd} {k : Rd × Walk × Bool} {s : Chip} {o : Origin} {b : Body} (h_y
    : y.s.Canon kw kt kr ks none kp none ⟨none, none, none, none, none, xn, xc⟩) (h_k : k.1.s.Canon kw kt kr ks none
    kp none ⟨none, none, none, none, none, xn, xc⟩) (h_s : s.Canon kw kt kr ks none kp none ⟨none, none, none, none,
    none, xn, xc⟩) : (appendEnd y k s o b).Canon kw kt kr ks none kp none ⟨none, none, none, none, none, xn, xc⟩ := by
  unfold appendEnd
  try dsimp only
  repeat' first
    | with_reducible assumption
    | with_reducible apply canon_draw
    | with_reducible apply canon_labGroupEnd
    | with_reducible apply canon_reinClose
    | with_reducible apply canon_dropWalk
    | with_reducible apply canon_ite
    | with_reducible apply canon_ite_s
    | with_reducible apply canon_ite_fst
    | with_reducible apply canon_ite_fst_s
    | simp only [canon_mk_iff]
    | split
    | intro _

theorem canon_kvAppend {kw kt kr ks xn xc} {s : Chip} {o : Origin} {b : Body} {met : List BufferError} {parity : List
    Nat} (h_s : s.Canon kw kt kr ks none none none ⟨none, none, none, none, none, xn, xc⟩) : (kvAppend s o b met
    parity).Canon kw kt kr ks none none none ⟨none, none, none, none, none, xn, xc⟩ := by
  unfold kvAppend
  try dsimp only
  repeat' first
    | with_reducible assumption
    | with_reducible apply canon_Rd_stop
    | with_reducible apply canon_reinClose
    | with_reducible apply canon_Rd_walk
    | with_reducible apply canon_reinStart
    | with_reducible apply canon_appendWork
    | with_reducible apply canon_appendEnd
    | with_reducible apply canon_ite
    | with_reducible apply canon_ite_s
    | with_reducible apply canon_ite_fst
    | with_reducible apply canon_ite_fst_s
    | simp only [canon_mk_iff]
    | split
    | intro _

theorem canon_Rd_sequence {kw kt kr ks kp kv xb xq xl xm xn xc} {x : Rd} {p : Nat} {who : Option Origin} {a : Nat}
    (h_x : x.s.Canon kw kt kr ks none kp kv ⟨xb, xq, xl, xm, none, xn, xc⟩) : (Rd.sequence x p who a).1.s.Canon kw kt
    kr ks none kp kv ⟨xb, xq, xl, xm, none, xn, xc⟩ := by
  unfold Rd.sequence
  try dsimp only
  repeat' first
    | with_reducible assumption
    | with_reducible apply canon_Rd_stop
    | with_reducible apply canon_Rd_devFree
    | with_reducible apply canon_ite
    | with_reducible apply canon_ite_s
    | with_reducible apply canon_ite_fst
    | with_reducible apply canon_ite_fst_s
    | simp only [canon_mk_iff]
    | split
    | intro _

theorem canon_pageEditRun {kw kt kr ks xn xc} {x : Rd} {o : Origin} {a : EditArgs} {c : KvCtx} {l : KvLayout} {list :
    Nat} {gen : Nat} {src : Nat} {seq : Nat} (h_x : x.s.Canon kw kt kr ks none none none ⟨none, none, none, none,
    none, xn, xc⟩) : (pageEditRun x o a c l list gen src seq).s.Canon kw kt kr ks none none none ⟨none, none, none,
    none, none, xn, xc⟩ := by
  unfold pageEditRun
  try dsimp only
  repeat' first
    | with_reducible assumption
    | with_reducible apply canon_bump
    | with_reducible apply canon_Rd_plainPut
    | with_reducible apply canon_Rd_refused
    | with_reducible apply canon_EditEnv_run
    | with_reducible apply canon_ite
    | with_reducible apply canon_ite_s
    | with_reducible apply canon_ite_fst
    | with_reducible apply canon_ite_fst_s
    | simp only [canon_mk_iff]
    | split
    | intro _

theorem canon_pageEditEnd {kw kt kr ks kp kv xn xc} {y : Rd} {s : Chip} {o : Origin} {b : Body} (h_y : y.s.Canon kw kt
    kr ks none kp kv ⟨none, none, none, none, none, xn, xc⟩) (h_s : s.Canon kw kt kr ks none kp kv ⟨none, none, none,
    none, none, xn, xc⟩) : (pageEditEnd y s o b).Canon kw kt kr ks none kp kv ⟨none, none, none, none, none, xn, xc⟩
    := by
  unfold pageEditEnd
  try dsimp only
  repeat' first
    | with_reducible assumption
    | with_reducible apply canon_draw
    | with_reducible apply canon_reinClose

theorem canon_editLoad {kw kt kr ks kp kv xb xq xl xm xn xc} {s : Chip} {o : Origin} {b : Body} (h_s : s.Canon kw kt
    kr ks none kp kv ⟨xb, xq, xl, xm, none, xn, xc⟩) : (editLoad s o b).x.s.Canon kw kt kr ks none kp kv ⟨xb, xq, xl,
    xm, none, xn, xc⟩ := by
  unfold editLoad
  try dsimp only
  repeat' first
    | with_reducible assumption
    | with_reducible apply canon_startRd
    | with_reducible apply canon_Rd_ctx
    | with_reducible apply canon_Rd_sequence
    | with_reducible apply canon_ite
    | with_reducible apply canon_ite_s
    | with_reducible apply canon_ite_fst
    | with_reducible apply canon_ite_fst_s
    | simp only [canon_mk_iff]
    | split
    | intro _

theorem canon_pageEditWith {kw kt kr ks xn xc} {s : Chip} {o : Origin} {b : Body} {e : EditLoad} (h_s : s.Canon kw kt
    kr ks none none none ⟨none, none, none, none, none, xn, xc⟩) (h_e : e.x.s.Canon kw kt kr ks none none none ⟨none,
    none, none, none, none, xn, xc⟩) : (pageEditWith s o b e).Canon kw kt kr ks none none none ⟨none, none, none,
    none, none, xn, xc⟩ := by
  unfold pageEditWith
  try dsimp only
  repeat' first
    | with_reducible assumption
    | with_reducible apply canon_Rd_stop
    | with_reducible apply canon_Rd_ctx
    | with_reducible apply canon_reinClose
    | with_reducible apply canon_pageEditRun
    | with_reducible apply canon_pageEditEnd
    | with_reducible apply canon_ite
    | with_reducible apply canon_ite_s
    | with_reducible apply canon_ite_fst
    | with_reducible apply canon_ite_fst_s
    | simp only [canon_mk_iff]
    | split
    | intro _

theorem canon_pageEdit {kw kt kr ks xn xc} {s : Chip} {o : Origin} {b : Body} (h_s : s.Canon kw kt kr ks none none
    none ⟨none, none, none, none, none, xn, xc⟩) : (pageEdit s o b).Canon kw kt kr ks none none none ⟨none, none,
    none, none, none, xn, xc⟩ := by
  simp only [pageEdit]
  repeat' first
    | with_reducible assumption
    | with_reducible apply canon_startRd
    | with_reducible apply canon_Rd_stop
    | with_reducible apply canon_reinClose
    | with_reducible apply canon_editLoad
    | with_reducible apply canon_pageEditWith
    | with_reducible apply canon_ite
    | with_reducible apply canon_ite_s
    | with_reducible apply canon_ite_fst
    | with_reducible apply canon_ite_fst_s
    | simp only [canon_mk_iff]
    | split

theorem canon_pageEditRow {kw kt kr ks xn xc} {op : Nat} {s : Chip} {o : Origin} {b : Body} (h_s : s.Canon kw kt kr ks
    none none none ⟨none, none, none, none, none, xn, xc⟩) : (pageEditRow op s o b).Canon kw kt kr ks none none none
    ⟨none, none, none, none, none, xn, xc⟩ := by
  unfold pageEditRow
  try dsimp only
  repeat' first
    | with_reducible assumption
    | with_reducible apply canon_pageEdit
    | with_reducible apply canon_ite
    | with_reducible apply canon_ite_s
    | with_reducible apply canon_ite_fst
    | with_reducible apply canon_ite_fst_s
    | simp only [canon_mk_iff]
    | split
    | intro _

end Sys2Proof.Machine
end

