-- ==== Sys2Proof/Laws/CanonStartList.lean ====
section
/-! SUPPORT. The operations of Machine/StartList.lean keep the canonical form. -/
set_option linter.all false
namespace Sys2Proof.Machine

theorem canon_setServe {kw kt kr ks km kp kv xb xq xm xh xn xc} {s : Chip} {p : Nat} {f : Serve → Serve} (h_s :
    s.Canon kw kt kr ks km kp kv ⟨xb, xq, none, xm, xh, xn, xc⟩) : (setServe s p f).Canon kw kt kr ks km kp kv ⟨xb,
    xq, none, xm, xh, xn, xc⟩ := by
  unfold setServe
  try dsimp only
  repeat' first
    | with_reducible assumption
    | with_reducible apply canon_ite
    | with_reducible apply canon_ite_s
    | with_reducible apply canon_ite_fst
    | with_reducible apply canon_ite_fst_s
    | simp only [canon_mkl_iff]

theorem canon_setSlot {kw kt kr ks km kp kv xb xq xm xh xn xc} {s : Chip} {p : Nat} {k : Nat} {f : Slot → Slot} (h_s :
    s.Canon kw kt kr ks km kp kv ⟨xb, xq, none, xm, xh, xn, xc⟩) : (setSlot s p k f).Canon kw kt kr ks km kp kv ⟨xb,
    xq, none, xm, xh, xn, xc⟩ := by
  unfold setSlot
  try dsimp only
  repeat' first
    | with_reducible assumption
    | with_reducible apply canon_setServe

theorem canon_Rd_onSlot {kw kt kr ks km kp kv xb xq xm xh xn xc} {x : Rd} {p : Nat} {k : Nat} {f : Slot → Slot} (h_x :
    x.s.Canon kw kt kr ks km kp kv ⟨xb, xq, none, xm, xh, xn, xc⟩) : (Rd.onSlot x p k f).s.Canon kw kt kr ks km kp kv
    ⟨xb, xq, none, xm, xh, xn, xc⟩ := by
  unfold Rd.onSlot
  try dsimp only
  repeat' first
    | with_reducible assumption
    | with_reducible apply canon_setSlot

theorem canon_slBump {kw kt kr ks km kp kv kx} {s : Chip} {p : Nat} {f : Field} (h_s : s.Canon kw kt kr ks km kp kv
    kx) : (slBump s p f).Canon kw kt kr ks km kp kv kx := by
  unfold slBump
  try dsimp only
  repeat' first
    | with_reducible assumption
    | with_reducible apply canon_bump

theorem canon_slFlag {kw kt kr ks km kp kv xb xq xl xm xn xc} {s : Chip} {p : Nat} {f : Field} (h_s : s.Canon kw kt kr
    ks km kp kv ⟨xb, xq, xl, xm, none, xn, xc⟩) : (slFlag s p f).Canon kw kt kr ks km kp kv ⟨xb, xq, xl, xm, none, xn,
    xc⟩ := by
  unfold slFlag
  try dsimp only
  repeat' first
    | with_reducible assumption
    | with_reducible apply canon_setFlag

theorem canon_Rd_calm {kw kt kr ks km kp kv kx} {x : Rd} {bad : Option (Nat × Option Nat)} (h_x : x.s.Canon kw kt kr
    ks km kp kv kx) : (Rd.calm x bad).s.Canon kw kt kr ks km kp kv kx := by
  unfold Rd.calm
  try dsimp only
  repeat' first
    | with_reducible assumption

theorem canon_Rd_own {kw kt kr ks kp xb xl xm xn xc} {x : Rd} {p : Nat} {a : Nat} {l : List Byte} (h_x : x.s.Canon kw
    kt kr ks none kp none ⟨xb, none, xl, xm, none, xn, xc⟩) : (Rd.own x p a l).s.Canon kw kt kr ks none kp none ⟨xb,
    none, xl, xm, none, xn, xc⟩ := by
  unfold Rd.own
  try dsimp only
  repeat' first
    | with_reducible assumption
    | with_reducible apply canon_Rd_plainPut
    | with_reducible apply canon_Rd_drop

theorem canon_Rd_keepAccount {kw kt kr ks km kp kv xb xq xm xh xn xc} {x : Rd} {p : Nat} {a : Nat} {v : Account} (h_x
    : x.s.Canon kw kt kr ks km kp kv ⟨xb, xq, none, xm, xh, xn, xc⟩) : (Rd.keepAccount x p a v).s.Canon kw kt kr ks km
    kp kv ⟨xb, xq, none, xm, xh, xn, xc⟩ := by
  unfold Rd.keepAccount
  try dsimp only
  repeat' first
    | with_reducible assumption
    | with_reducible apply canon_setServe

theorem canon_Rd_account {kw kt kr ks kp xb xm xn xc} {x : Rd} {p : Nat} {a : Nat} (h_x : x.s.Canon kw kt kr ks none
    kp none ⟨xb, none, none, xm, none, xn, xc⟩) : (Rd.account x p a).1.s.Canon kw kt kr ks none kp none ⟨xb, none,
    none, xm, none, xn, xc⟩ := by
  unfold Rd.account
  try dsimp only
  repeat' first
    | with_reducible assumption
    | with_reducible apply canon_Rd_devFree
    | with_reducible apply canon_Rd_drop
    | with_reducible apply canon_EditEnv_drop
    | with_reducible apply canon_Rd_keepAccount
    | with_reducible apply canon_ite
    | with_reducible apply canon_ite_s
    | with_reducible apply canon_ite_fst
    | with_reducible apply canon_ite_fst_s
    | simp only [canon_mk_iff]
    | split

theorem canon_Rd_putAccount {kw kt kr ks kp xb xm xn xc} {x : Rd} {p : Nat} {a : Nat} {v : Account} (h_x : x.s.Canon
    kw kt kr ks none kp none ⟨xb, none, none, xm, none, xn, xc⟩) : (Rd.putAccount x p a v).s.Canon kw kt kr ks none kp
    none ⟨xb, none, none, xm, none, xn, xc⟩ := by
  unfold Rd.putAccount
  try dsimp only
  repeat' first
    | with_reducible assumption
    | with_reducible apply canon_slFlag
    | with_reducible apply canon_Rd_own
    | with_reducible apply canon_Rd_keepAccount
    | with_reducible apply canon_ite
    | with_reducible apply canon_ite_s
    | with_reducible apply canon_ite_fst
    | with_reducible apply canon_ite_fst_s
    | simp only [canon_mk_iff]
    | split
    | intro _

theorem canon_Rd_rollAccount {kw kt kr ks kp xb xm xn xc} {x : Rd} {p : Nat} {bound : Nat} {a : Nat} (h_x : x.s.Canon
    kw kt kr ks none kp none ⟨xb, none, none, xm, none, xn, xc⟩) : (Rd.rollAccount x p bound a).s.Canon kw kt kr ks
    none kp none ⟨xb, none, none, xm, none, xn, xc⟩ := by
  unfold Rd.rollAccount
  try dsimp only
  repeat' first
    | with_reducible assumption
    | with_reducible apply canon_Rd_putAccount
    | with_reducible apply canon_ite
    | with_reducible apply canon_ite_s
    | with_reducible apply canon_ite_fst
    | with_reducible apply canon_ite_fst_s
    | simp only [canon_mk_iff]
    | split
    | intro _

theorem canon_Rd_chargeAccount {kw kt kr ks kp xb xm xn xc} {x : Rd} {p : Nat} {a : Nat} {n : Nat} (h_x : x.s.Canon kw
    kt kr ks none kp none ⟨xb, none, none, xm, none, xn, xc⟩) : (Rd.chargeAccount x p a n).s.Canon kw kt kr ks none kp
    none ⟨xb, none, none, xm, none, xn, xc⟩ := by
  unfold Rd.chargeAccount
  try dsimp only
  repeat' first
    | with_reducible assumption
    | with_reducible apply canon_Rd_account
    | with_reducible apply canon_Rd_putAccount
    | with_reducible apply canon_ite
    | with_reducible apply canon_ite_s
    | with_reducible apply canon_ite_fst
    | with_reducible apply canon_ite_fst_s
    | simp only [canon_mk_iff]
    | split
    | intro _

theorem canon_Rd_publish {kw kt kr ks kp xb xl xm xn xc} {x : Rd} {s₀ : Chip} {p : Nat} (h_x : x.s.Canon kw kt kr ks
    none kp none ⟨xb, none, xl, xm, none, xn, xc⟩) (h_s₀ : s₀.Canon kw kt kr ks none kp none ⟨xb, none, xl, xm, none,
    xn, xc⟩) : (Rd.publish x s₀ p).s.Canon kw kt kr ks none kp none ⟨xb, none, xl, xm, none, xn, xc⟩ := by
  unfold Rd.publish
  try dsimp only
  repeat' first
    | with_reducible assumption
    | with_reducible apply canon_Rd_own
    | with_reducible apply canon_foldl
    | with_reducible apply canon_foldl_fst
    | with_reducible apply canon_foldl_rd
    | with_reducible apply canon_foldl_rd_fst
    | with_reducible apply canon_foldl_x
    | with_reducible apply canon_foldl_run_fst
    | with_reducible apply canon_ite
    | with_reducible apply canon_ite_s
    | with_reducible apply canon_ite_fst
    | with_reducible apply canon_ite_fst_s
    | simp only [canon_mk_iff]
    | split
    | intro _

theorem canon_ownNow {kw kt kr ks kp kv kx} {s : Chip} {p : Nat} {a : Nat} {l : List Byte} (h_s : s.Canon kw kt kr ks
    none kp kv kx) : (ownNow s p a l).Canon kw kt kr ks none kp kv kx := by
  unfold ownNow
  try dsimp only
  repeat' first
    | with_reducible assumption
    | with_reducible apply canon_refuseAccess
    | with_reducible apply canon_memPut
    | with_reducible apply canon_chargeRun
    | with_reducible apply canon_ite
    | with_reducible apply canon_ite_s
    | with_reducible apply canon_ite_fst
    | with_reducible apply canon_ite_fst_s
    | simp only [canon_mk_iff]
    | split
    | intro _

theorem canon_publishNow {kw kt kr ks kp kv xb xq xl xn xc} {s₀ : Chip} {s : Chip} {p : Nat} (h_s₀ : s₀.Canon kw kt kr
    ks none kp kv ⟨xb, xq, xl, none, none, xn, xc⟩) (h_s : s.Canon kw kt kr ks none kp kv ⟨xb, xq, xl, none, none, xn,
    xc⟩) : (publishNow s₀ s p).Canon kw kt kr ks none kp kv ⟨xb, xq, xl, none, none, xn, xc⟩ := by
  unfold publishNow
  try dsimp only
  repeat' first
    | with_reducible assumption
    | with_reducible apply canon_mirrorAll
    | with_reducible apply canon_ownNow
    | with_reducible apply canon_foldl
    | with_reducible apply canon_foldl_fst
    | with_reducible apply canon_foldl_rd
    | with_reducible apply canon_foldl_rd_fst
    | with_reducible apply canon_foldl_x
    | with_reducible apply canon_foldl_run_fst
    | with_reducible apply canon_ite
    | with_reducible apply canon_ite_s
    | with_reducible apply canon_ite_fst
    | with_reducible apply canon_ite_fst_s
    | simp only [canon_mk_iff]
    | split
    | intro _

theorem canon_serveDone {kw kt kr ks km kp kv xb xl xm xn xc} {s : Chip} {o : Origin} {op : Nat} {b : Body} {status :
    Nat} {info : Nat} (h_s : s.Canon kw kt kr ks km kp kv ⟨xb, none, xl, xm, none, xn, xc⟩) : (serveDone s o op b
    status info).Canon kw kt kr ks km kp kv ⟨xb, none, xl, xm, none, xn, xc⟩ := by
  unfold serveDone
  try dsimp only
  repeat' first
    | with_reducible assumption
    | with_reducible apply canon_onJob
    | with_reducible apply canon_finish
    | with_reducible apply canon_slBump
    | with_reducible apply canon_slFlag
    | with_reducible apply canon_ite
    | with_reducible apply canon_ite_s
    | with_reducible apply canon_ite_fst
    | with_reducible apply canon_ite_fst_s
    | simp only [canon_mk_iff]
    | split
    | intro _

theorem canon_Rd_done {kw kt kr ks km kp kv xb xl xm xn xc} {x : Rd} {o : Origin} {op : Nat} {b : Body} {status : Nat}
    {info : Nat} (h_x : x.s.Canon kw kt kr ks km kp kv ⟨xb, none, xl, xm, none, xn, xc⟩) : (Rd.done x o op b status
    info).s.Canon kw kt kr ks km kp kv ⟨xb, none, xl, xm, none, xn, xc⟩ := by
  unfold Rd.done
  try dsimp only
  repeat' first
    | with_reducible assumption
    | with_reducible apply canon_serveDone

theorem canon_faultSl {kw kt kr ks kp kv xn xc} {s : Chip} {o : Origin} {code : Nat} {a : Option Nat} (h_s : s.Canon
    kw kt kr ks none kp kv ⟨none, none, none, none, none, xn, xc⟩) : (faultSl s o code a).Canon kw kt kr ks none kp kv
    ⟨none, none, none, none, none, xn, xc⟩ := by
  unfold faultSl
  try dsimp only
  repeat' first
    | with_reducible assumption
    | with_reducible apply canon_faultJob
    | with_reducible apply canon_faultRein
    | with_reducible apply canon_ite
    | with_reducible apply canon_ite_s
    | with_reducible apply canon_ite_fst
    | with_reducible apply canon_ite_fst_s
    | simp only [canon_mk_iff]
    | split
    | intro _

theorem canon_Rd_failed {kw kt kr ks kp kv xn xc} {x : Rd} {o : Origin} {op : Nat} {b : Body} {code : Nat} {a : Option
    Nat} (h_x : x.s.Canon kw kt kr ks none kp kv ⟨none, none, none, none, none, xn, xc⟩) : (Rd.failed x o op b code
    a).s.Canon kw kt kr ks none kp kv ⟨none, none, none, none, none, xn, xc⟩ := by
  unfold Rd.failed
  try dsimp only
  repeat' first
    | with_reducible assumption
    | with_reducible apply canon_finish
    | with_reducible apply canon_faultSl

theorem canon_Rd_deliver {kw kt kr ks kp xb xm xn xc} {x : Rd} {p : Nat} {k : Nat} {kind : Nat} {token : Nat} (h_x :
    x.s.Canon kw kt kr ks none kp none ⟨xb, none, none, xm, none, xn, xc⟩) : (Rd.deliver x p k kind token).s.Canon kw
    kt kr ks none kp none ⟨xb, none, none, xm, none, xn, xc⟩ := by
  unfold Rd.deliver
  try dsimp only
  repeat' first
    | with_reducible assumption
    | with_reducible apply canon_hostPut
    | with_reducible apply canon_Rd_onSlot
    | with_reducible apply canon_Rd_own
    | with_reducible apply canon_ite
    | with_reducible apply canon_ite_s
    | with_reducible apply canon_ite_fst
    | with_reducible apply canon_ite_fst_s
    | simp only [canon_mk_iff]
    | split
    | intro _

theorem canon_Rd_slEditWith {kw kt kr ks xn xc} {x : Rd} {p : Nat} {list : Nat} {m : Nat} {r : Nat} {a : EditArgs} {c
    : Rd × Option KvCtx} (h_x : x.s.Canon kw kt kr ks none none none ⟨none, none, none, none, none, xn, xc⟩) (h_c :
    c.1.s.Canon kw kt kr ks none none none ⟨none, none, none, none, none, xn, xc⟩) : (Rd.slEditWith x p list m r a
    c).1.s.Canon kw kt kr ks none none none ⟨none, none, none, none, none, xn, xc⟩ := by
  unfold Rd.slEditWith
  try dsimp only
  repeat' first
    | with_reducible assumption
    | with_reducible apply canon_bump
    | with_reducible apply canon_EditEnv_run
    | with_reducible apply canon_Rd_calm
    | with_reducible apply canon_ite
    | with_reducible apply canon_ite_s
    | with_reducible apply canon_ite_fst
    | with_reducible apply canon_ite_fst_s
    | simp only [canon_mk_iff]
    | split
    | intro _

theorem canon_Rd_slEdit {kw kt kr ks xn xc} {x : Rd} {p : Nat} {list : Nat} {m : Nat} {a : EditArgs} (h_x : x.s.Canon
    kw kt kr ks none none none ⟨none, none, none, none, none, xn, xc⟩) : (Rd.slEdit x p list m a).1.s.Canon kw kt kr
    ks none none none ⟨none, none, none, none, none, xn, xc⟩ := by
  unfold Rd.slEdit
  try dsimp only
  repeat' first
    | with_reducible assumption
    | with_reducible apply canon_Rd_ctx
    | with_reducible apply canon_Rd_slEditWith

theorem canon_Rd_editSlot {kw kt kr ks xn xc} {x : Rd} {p : Nat} {k : Nat} {a : EditArgs} (h_x : x.s.Canon kw kt kr ks
    none none none ⟨none, none, none, none, none, xn, xc⟩) : (Rd.editSlot x p k a).1.s.Canon kw kt kr ks none none
    none ⟨none, none, none, none, none, xn, xc⟩ := by
  unfold Rd.editSlot
  try dsimp only
  repeat' first
    | with_reducible assumption
    | with_reducible apply canon_Rd_onSlot
    | with_reducible apply canon_Rd_slEdit
    | with_reducible apply canon_ite
    | with_reducible apply canon_ite_s
    | with_reducible apply canon_ite_fst
    | with_reducible apply canon_ite_fst_s
    | simp only [canon_mk_iff]
    | split
    | intro _

theorem canon_Rd_afterEdit {kw kt kr ks kp xb xl xm xn xc} {e : Rd × Option (Nat × Option Nat)} (h_e : e.1.s.Canon kw
    kt kr ks none kp none ⟨xb, none, xl, xm, none, xn, xc⟩) : (Rd.afterEdit e).s.Canon kw kt kr ks none kp none ⟨xb,
    none, xl, xm, none, xn, xc⟩ := by
  unfold Rd.afterEdit
  try dsimp only
  repeat' first
    | with_reducible assumption
    | with_reducible apply canon_Rd_drop

theorem canon_Rd_tierPages {kw kt kr ks kp kv xb xq xl xm xn xc} {x : Rd} {p : Nat} {list : Nat} {n : Nat} {tierB :
    Bool} (h_x : x.s.Canon kw kt kr ks none kp kv ⟨xb, xq, xl, xm, none, xn, xc⟩) : (Rd.tierPages x p list n
    tierB).1.s.Canon kw kt kr ks none kp kv ⟨xb, xq, xl, xm, none, xn, xc⟩ := by
  unfold Rd.tierPages
  try dsimp only
  repeat' first
    | with_reducible assumption
    | with_reducible apply canon_Rd_devFree
    | with_reducible apply canon_foldl
    | with_reducible apply canon_foldl_fst
    | with_reducible apply canon_foldl_rd
    | with_reducible apply canon_foldl_rd_fst
    | with_reducible apply canon_foldl_x
    | with_reducible apply canon_foldl_run_fst
    | with_reducible apply canon_ite
    | with_reducible apply canon_ite_s
    | with_reducible apply canon_ite_fst
    | with_reducible apply canon_ite_fst_s
    | simp only [canon_mk_iff]
    | split
    | intro _

theorem canon_Rd_blocksInA {kw kt kr ks kp kv xb xq xl xm xn xc} {x : Rd} {p : Nat} {list : Nat} {layers : Nat} {n :
    Nat} (h_x : x.s.Canon kw kt kr ks none kp kv ⟨xb, xq, xl, xm, none, xn, xc⟩) : (Rd.blocksInA x p list layers
    n).1.s.Canon kw kt kr ks none kp kv ⟨xb, xq, xl, xm, none, xn, xc⟩ := by
  unfold Rd.blocksInA
  try dsimp only
  repeat' first
    | with_reducible assumption
    | with_reducible apply canon_Rd_tierPages
    | with_reducible apply canon_foldl
    | with_reducible apply canon_foldl_fst
    | with_reducible apply canon_foldl_rd
    | with_reducible apply canon_foldl_rd_fst
    | with_reducible apply canon_foldl_x
    | with_reducible apply canon_foldl_run_fst
    | with_reducible apply canon_ite
    | with_reducible apply canon_ite_s
    | with_reducible apply canon_ite_fst
    | with_reducible apply canon_ite_fst_s
    | simp only [canon_mk_iff]
    | split
    | intro _

theorem canon_Rd_toState {kw kt kr ks km kp kv xb xq xm xh xn xc} {x : Rd} {p : Nat} {k : Nat} {st : Nat} {at' : Nat}
    (h_x : x.s.Canon kw kt kr ks km kp kv ⟨xb, xq, none, xm, xh, xn, xc⟩) : (Rd.toState x p k st at').s.Canon kw kt kr
    ks km kp kv ⟨xb, xq, none, xm, xh, xn, xc⟩ := by
  unfold Rd.toState
  try dsimp only
  repeat' first
    | with_reducible assumption
    | with_reducible apply canon_Rd_onSlot

theorem canon_Rd_pause {kw kt kr ks xn xc} {x : Rd} {p : Nat} {k : Nat} {at' : Nat} (h_x : x.s.Canon kw kt kr ks none
    none none ⟨none, none, none, none, none, xn, xc⟩) : (Rd.pause x p k at').s.Canon kw kt kr ks none none none ⟨none,
    none, none, none, none, xn, xc⟩ := by
  unfold Rd.pause
  try dsimp only
  repeat' first
    | with_reducible assumption
    | with_reducible apply canon_EditEnv_move
    | with_reducible apply canon_Rd_onSlot
    | with_reducible apply canon_Rd_toState

theorem canon_Rd_terminate {kw kt kr ks km kp kv xb xq xm xh xn xc} {x : Rd} {p : Nat} {k : Nat} {st : Nat} {final :
    Nat} {fault : Nat} {at' : Nat} (h_x : x.s.Canon kw kt kr ks km kp kv ⟨xb, xq, none, xm, xh, xn, xc⟩) :
    (Rd.terminate x p k st final fault at').s.Canon kw kt kr ks km kp kv ⟨xb, xq, none, xm, xh, xn, xc⟩ := by
  unfold Rd.terminate
  try dsimp only
  repeat' first
    | with_reducible assumption
    | with_reducible apply canon_Rd_onSlot
    | with_reducible apply canon_slBump
    | with_reducible apply canon_Rd_toState
    | with_reducible apply canon_ite
    | with_reducible apply canon_ite_s
    | with_reducible apply canon_ite_fst
    | with_reducible apply canon_ite_fst_s
    | simp only [canon_mk_iff]
    | split
    | intro _

theorem canon_freeSlot {kw kt kr ks km kp kv xb xq xm xh xn xc} {s : Chip} {p : Nat} {k : Nat} (h_s : s.Canon kw kt kr
    ks km kp kv ⟨xb, xq, none, xm, xh, xn, xc⟩) : (freeSlot s p k).Canon kw kt kr ks km kp kv ⟨xb, xq, none, xm, xh,
    xn, xc⟩ := by
  unfold freeSlot
  try dsimp only
  repeat' first
    | with_reducible assumption
    | with_reducible apply canon_setServe
    | with_reducible apply canon_ite
    | with_reducible apply canon_ite_s
    | with_reducible apply canon_ite_fst
    | with_reducible apply canon_ite_fst_s
    | simp only [canon_mk_iff]
    | split

theorem canon_Rd_dropEvents {kw kt kr ks km kp kv xb xl xm xn xc} {x : Rd} {t : Slot} (h_x : x.s.Canon kw kt kr ks km
    kp kv ⟨xb, none, xl, xm, none, xn, xc⟩) : (Rd.dropEvents x t).s.Canon kw kt kr ks km kp kv ⟨xb, none, xl, xm,
    none, xn, xc⟩ := by
  unfold Rd.dropEvents
  try dsimp only
  repeat' first
    | with_reducible assumption
    | with_reducible apply canon_Rd_done
    | with_reducible apply canon_foldl
    | with_reducible apply canon_foldl_fst
    | with_reducible apply canon_foldl_rd
    | with_reducible apply canon_foldl_rd_fst
    | with_reducible apply canon_foldl_x
    | with_reducible apply canon_foldl_run_fst
    | with_reducible apply canon_ite
    | with_reducible apply canon_ite_s
    | with_reducible apply canon_ite_fst
    | with_reducible apply canon_ite_fst_s
    | simp only [canon_mk_iff]
    | split
    | intro _

theorem canon_Rd_endSlot {kw kt kr ks xn xc} {x : Rd} {p : Nat} {k : Nat} (h_x : x.s.Canon kw kt kr ks none none none
    ⟨none, none, none, none, none, xn, xc⟩) : (Rd.endSlot x p k).s.Canon kw kt kr ks none none none ⟨none, none, none,
    none, none, xn, xc⟩ := by
  unfold Rd.endSlot
  try dsimp only
  repeat' first
    | with_reducible assumption
    | with_reducible apply canon_setServe
    | with_reducible apply canon_Rd_deliver
    | with_reducible apply canon_Rd_editSlot
    | with_reducible apply canon_Rd_afterEdit
    | with_reducible apply canon_freeSlot
    | with_reducible apply canon_Rd_dropEvents
    | with_reducible apply canon_ite
    | with_reducible apply canon_ite_s
    | with_reducible apply canon_ite_fst
    | with_reducible apply canon_ite_fst_s
    | simp only [canon_mk_iff]
    | split
    | intro _

theorem canon_Rd_reap {kw kt kr ks xn xc} {x : Rd} {p : Nat} (h_x : x.s.Canon kw kt kr ks none none none ⟨none, none,
    none, none, none, xn, xc⟩) : (Rd.reap x p).s.Canon kw kt kr ks none none none ⟨none, none, none, none, none, xn,
    xc⟩ := by
  unfold Rd.reap
  try dsimp only
  repeat' first
    | with_reducible assumption
    | with_reducible apply canon_Rd_endSlot
    | with_reducible apply canon_foldl
    | with_reducible apply canon_foldl_fst
    | with_reducible apply canon_foldl_rd
    | with_reducible apply canon_foldl_rd_fst
    | with_reducible apply canon_foldl_x
    | with_reducible apply canon_foldl_run_fst
    | with_reducible apply canon_ite
    | with_reducible apply canon_ite_s
    | with_reducible apply canon_ite_fst
    | with_reducible apply canon_ite_fst_s
    | simp only [canon_mk_iff]
    | split
    | intro _

theorem canon_Rd_moveFails {kw kt kr ks km kp kv xb xq xm xn xc} {x : Rd} {p : Nat} {k : Nat} (h_x : x.s.Canon kw kt
    kr ks km kp kv ⟨xb, xq, none, xm, none, xn, xc⟩) : (Rd.moveFails x p k).s.Canon kw kt kr ks km kp kv ⟨xb, xq,
    none, xm, none, xn, xc⟩ := by
  unfold Rd.moveFails
  try dsimp only
  repeat' first
    | with_reducible assumption
    | with_reducible apply canon_Rd_onSlot
    | with_reducible apply canon_slBump
    | with_reducible apply canon_slFlag

theorem canon_Rd_moveDue {kw kt kr ks kp xb xm xn xc} {x : Rd} {p : Nat} {k : Nat} (h_x : x.s.Canon kw kt kr ks none
    kp none ⟨xb, none, none, xm, none, xn, xc⟩) : (Rd.moveDue x p k).s.Canon kw kt kr ks none kp none ⟨xb, none, none,
    xm, none, xn, xc⟩ := by
  unfold Rd.moveDue
  try dsimp only
  repeat' first
    | with_reducible assumption
    | with_reducible apply canon_Rd_drop
    | with_reducible apply canon_EditEnv_drop
    | with_reducible apply canon_Rd_onSlot
    | with_reducible apply canon_Rd_tierPages
    | with_reducible apply canon_Rd_moveFails
    | with_reducible apply canon_ite
    | with_reducible apply canon_ite_s
    | with_reducible apply canon_ite_fst
    | with_reducible apply canon_ite_fst_s
    | simp only [canon_mk_iff]
    | split
    | intro _

theorem canon_slotUe {kw kt kr ks km kp kv xb xq xl xm xn xc} {s : Chip} {p : Nat} (h_s : s.Canon kw kt kr ks km kp kv
    ⟨xb, xq, xl, xm, none, xn, xc⟩) : (slotUe s p).Canon kw kt kr ks km kp kv ⟨xb, xq, xl, xm, none, xn, xc⟩ := by
  unfold slotUe
  try dsimp only
  repeat' first
    | with_reducible assumption
    | with_reducible apply canon_report

theorem canon_Rd_slotMeets {kw kt kr ks km kp kv xb xq xm xn xc} {x : Rd} {p : Nat} {k : Nat} {met : Ecc} (h_x :
    x.s.Canon kw kt kr ks km kp kv ⟨xb, xq, none, xm, none, xn, xc⟩) : (Rd.slotMeets x p k met).s.Canon kw kt kr ks km
    kp kv ⟨xb, xq, none, xm, none, xn, xc⟩ := by
  unfold Rd.slotMeets
  try dsimp only
  repeat' first
    | with_reducible assumption
    | with_reducible apply canon_wr
    | with_reducible apply canon_draw
    | with_reducible apply canon_bufferError
    | with_reducible apply canon_Rd_onSlot
    | with_reducible apply canon_Rd_terminate
    | with_reducible apply canon_slotUe
    | with_reducible apply canon_ite
    | with_reducible apply canon_ite_s
    | with_reducible apply canon_ite_fst
    | with_reducible apply canon_ite_fst_s
    | simp only [canon_mk_iff]
    | split
    | intro _

end Sys2Proof.Machine
end

