-- ==== Sys2Proof/Laws/CanonAdmission.lean ====
section
/-! SUPPORT. The operations of Machine/Admission.lean keep the canonical form. -/
set_option linter.all false
namespace Sys2Proof.Machine

theorem canon_correctR {kw kt kr ks km kp kv kx} {s : Chip} {p : Nat} {measured : Nat} {n : Nat} {sum : Nat} (h_s :
    s.Canon kw kt kr ks km kp kv kx) : (correctR s p measured n sum).Canon kw kt kr ks km kp kv kx := by
  unfold correctR
  try dsimp only
  repeat' first
    | with_reducible assumption
    | with_reducible apply canon_wr

theorem canon_Rd_resume {kw kt kr ks kp xn xc} {x : Rd} {p : Nat} {k : Nat} {t : Slot} {o : Origin} {b : Body} (h_x :
    x.s.Canon kw kt kr ks none kp none ⟨none, none, none, none, none, xn, xc⟩) : (Rd.resume x p k t o b).s.Canon kw kt
    kr ks none kp none ⟨none, none, none, none, none, xn, xc⟩ := by
  unfold Rd.resume
  try dsimp only
  repeat' first
    | with_reducible assumption
    | with_reducible apply canon_Rd_onSlot
    | with_reducible apply canon_Rd_calm
    | with_reducible apply canon_Rd_account
    | with_reducible apply canon_Rd_done
    | with_reducible apply canon_Rd_failed
    | with_reducible apply canon_Rd_tierPages
    | with_reducible apply canon_Rd_blocksInA
    | with_reducible apply canon_Rd_toState
    | with_reducible apply canon_ite
    | with_reducible apply canon_ite_s
    | with_reducible apply canon_ite_fst
    | with_reducible apply canon_ite_fst_s
    | simp only [canon_mk_iff]
    | split
    | intro _

theorem canon_Rd_submit {kw kt kr ks xn xc} {x : Rd} {o : Origin} {b : Body} {l : List Byte} (h_x : x.s.Canon kw kt kr
    ks none none none ⟨none, none, none, none, none, xn, xc⟩) : (Rd.submit x o b l).s.Canon kw kt kr ks none none none
    ⟨none, none, none, none, none, xn, xc⟩ := by
  unfold Rd.submit
  try dsimp only
  repeat' first
    | with_reducible assumption
    | with_reducible apply canon_Rd_sequence
    | with_reducible apply canon_setServe
    | with_reducible apply canon_Rd_calm
    | with_reducible apply canon_Rd_account
    | with_reducible apply canon_Rd_done
    | with_reducible apply canon_Rd_failed
    | with_reducible apply canon_Rd_slEdit
    | with_reducible apply canon_Rd_tierPages
    | with_reducible apply canon_Rd_blocksInA
    | with_reducible apply canon_Rd_resume
    | with_reducible apply canon_ite
    | with_reducible apply canon_ite_s
    | with_reducible apply canon_ite_fst
    | with_reducible apply canon_ite_fst_s
    | simp only [canon_mk_iff]
    | split
    | intro _

theorem canon_Rd_descriptor {kw kt kr ks kp kv xb xq xl xm xn xc} {x : Rd} {o : Origin} {b : Body} {host : HostReply}
    (h_x : x.s.Canon kw kt kr ks none kp kv ⟨xb, xq, xl, xm, none, xn, xc⟩) : (Rd.descriptor x o b host).1.s.Canon kw
    kt kr ks none kp kv ⟨xb, xq, xl, xm, none, xn, xc⟩ := by
  unfold Rd.descriptor
  try dsimp only
  repeat' first
    | with_reducible assumption
    | with_reducible apply canon_hostError
    | with_reducible apply canon_Rd_stop
    | with_reducible apply canon_Rd_devFree
    | with_reducible apply canon_ite
    | with_reducible apply canon_ite_s
    | with_reducible apply canon_ite_fst
    | with_reducible apply canon_ite_fst_s
    | simp only [canon_mk_iff]
    | split
    | intro _

end Sys2Proof.Machine
end

