-- ==== Sys2Proof/Laws/CanonServing.lean ====
section
/-! SUPPORT. The operations of Machine/Serving.lean keep the canonical form. -/
set_option linter.all false
namespace Sys2Proof.Machine

theorem canon_Rd_applyEvent {kw kt kr ks xn xc} {x : Rd} {p : Nat} {k : Nat} {at' : Nat} {e : SlotEvent} (h_x :
    x.s.Canon kw kt kr ks none none none ⟨none, none, none, none, none, xn, xc⟩) : (Rd.applyEvent x p k at' e).s.Canon
    kw kt kr ks none none none ⟨none, none, none, none, none, xn, xc⟩ := by
  unfold Rd.applyEvent
  try dsimp only
  repeat' first
    | with_reducible assumption
    | with_reducible apply canon_EditEnv_move
    | with_reducible apply canon_Rd_onSlot
    | with_reducible apply canon_slBump
    | with_reducible apply canon_Rd_done
    | with_reducible apply canon_Rd_deliver
    | with_reducible apply canon_Rd_pause
    | with_reducible apply canon_Rd_terminate
    | with_reducible apply canon_Rd_moveDue
    | with_reducible apply canon_Rd_resume
    | with_reducible apply canon_ite
    | with_reducible apply canon_ite_s
    | with_reducible apply canon_ite_fst
    | with_reducible apply canon_ite_fst_s
    | simp only [canon_mk_iff]
    | split
    | intro _

theorem canon_Rd_drain {kw kt kr ks xn xc} {x : Rd} {p : Nat} {k : Nat} {at' : Nat} {z0 : Nat} (h_x : x.s.Canon kw kt
    kr ks none none none ⟨none, none, none, none, none, xn, xc⟩) : (Rd.drain x p k at' z0).s.Canon kw kt kr ks none
    none none ⟨none, none, none, none, none, xn, xc⟩ := by
  induction z0 generalizing x p k at' with
  | zero =>
      unfold Rd.drain
      try dsimp only
      repeat' first
        | with_reducible assumption
  | succ k ih =>
      unfold Rd.drain
      try dsimp only
      repeat' first
        | with_reducible assumption
        | with_reducible apply ih
        | with_reducible apply canon_Rd_onSlot
        | with_reducible apply canon_Rd_applyEvent
        | with_reducible apply canon_ite
        | with_reducible apply canon_ite_s
        | with_reducible apply canon_ite_fst
        | with_reducible apply canon_ite_fst_s
        | simp only [canon_mk_iff]
        | split
        | intro _

theorem canon_Rd_release {kw kt kr ks xn xc} {x : Rd} {p : Nat} {k : Nat} {at' : Nat} (h_x : x.s.Canon kw kt kr ks
    none none none ⟨none, none, none, none, none, xn, xc⟩) : (Rd.release x p k at').s.Canon kw kt kr ks none none none
    ⟨none, none, none, none, none, xn, xc⟩ := by
  unfold Rd.release
  try dsimp only
  repeat' first
    | with_reducible assumption
    | with_reducible apply canon_Rd_drain
    | with_reducible apply canon_ite
    | with_reducible apply canon_ite_s
    | with_reducible apply canon_ite_fst
    | with_reducible apply canon_ite_fst_s
    | simp only [canon_mk_iff]
    | split

theorem canon_Rd_slotEvent {kw kt kr ks xn xc} {x : Rd} {p : Nat} {k : Nat} {at' : Nat} {e : SlotEvent} (h_x :
    x.s.Canon kw kt kr ks none none none ⟨none, none, none, none, none, xn, xc⟩) : (Rd.slotEvent x p k at' e).s.Canon
    kw kt kr ks none none none ⟨none, none, none, none, none, xn, xc⟩ := by
  unfold Rd.slotEvent
  try dsimp only
  repeat' first
    | with_reducible assumption
    | with_reducible apply canon_Rd_onSlot
    | with_reducible apply canon_Rd_applyEvent
    | with_reducible apply canon_ite
    | with_reducible apply canon_ite_s
    | with_reducible apply canon_ite_fst
    | with_reducible apply canon_ite_fst_s
    | simp only [canon_mk_iff]
    | split
    | intro _

theorem canon_Rd_runTimers {kw kt kr ks xn xc} {x : Rd} {p : Nat} {bound : Nat} {z0 : Nat} (h_x : x.s.Canon kw kt kr
    ks none none none ⟨none, none, none, none, none, xn, xc⟩) : (Rd.runTimers x p bound z0).s.Canon kw kt kr ks none
    none none ⟨none, none, none, none, none, xn, xc⟩ := by
  induction z0 generalizing x p bound with
  | zero =>
      unfold Rd.runTimers
      try dsimp only
      repeat' first
        | with_reducible assumption
  | succ k ih =>
      unfold Rd.runTimers
      try dsimp only
      repeat' first
        | with_reducible assumption
        | with_reducible apply ih
        | with_reducible apply canon_EditEnv_move
        | with_reducible apply canon_Rd_reap
        | with_reducible apply canon_Rd_slotEvent
        | with_reducible apply canon_ite
        | with_reducible apply canon_ite_s
        | with_reducible apply canon_ite_fst
        | with_reducible apply canon_ite_fst_s
        | simp only [canon_mk_iff]
        | split

theorem canon_Rd_timers {kw kt kr ks xn xc} {x : Rd} {p : Nat} {bound : Nat} (h_x : x.s.Canon kw kt kr ks none none
    none ⟨none, none, none, none, none, xn, xc⟩) : (Rd.timers x p bound).s.Canon kw kt kr ks none none none ⟨none,
    none, none, none, none, xn, xc⟩ := by
  unfold Rd.timers
  try dsimp only
  repeat' first
    | with_reducible assumption
    | with_reducible apply canon_Rd_rollAccount
    | with_reducible apply canon_Rd_runTimers
    | with_reducible apply canon_foldl
    | with_reducible apply canon_foldl_fst
    | with_reducible apply canon_foldl_rd
    | with_reducible apply canon_foldl_rd_fst
    | with_reducible apply canon_foldl_x
    | with_reducible apply canon_foldl_run_fst
    | with_reducible apply canon_ite
    | with_reducible apply canon_ite_s
    | with_reducible apply canon_ite_fst
    | with_reducible apply canon_ite_fst_s
    | simp only [canon_mk_iff]
    | split
    | intro _

theorem canon_Rd_tokenOut {kw kt kr ks kv xn xc} {x : Rd} {p : Nat} {st : StepRun} {i : Nat} (h_x : x.s.Canon kw kt kr
    ks none none kv ⟨none, none, none, none, none, xn, xc⟩) : (Rd.tokenOut x p st i).1.s.Canon kw kt kr ks none none
    kv ⟨none, none, none, none, none, xn, xc⟩ := by
  unfold Rd.tokenOut
  try dsimp only
  repeat' first
    | with_reducible assumption
    | with_reducible apply canon_Rd_read
    | with_reducible apply canon_AttendRun_read
    | with_reducible apply canon_Rd_calm

theorem canon_Rd_faultRequest {kw kt kr ks km kp kv xb xq xm xh xn xc} {x : Rd} {p : Nat} {k : Nat} {code : Nat} {at'
    : Nat} (h_x : x.s.Canon kw kt kr ks km kp kv ⟨xb, xq, none, xm, xh, xn, xc⟩) : (Rd.faultRequest x p k code
    at').s.Canon kw kt kr ks km kp kv ⟨xb, xq, none, xm, xh, xn, xc⟩ := by
  unfold Rd.faultRequest
  try dsimp only
  repeat' first
    | with_reducible assumption
    | with_reducible apply canon_Rd_onSlot
    | with_reducible apply canon_Rd_terminate
    | with_reducible apply canon_ite
    | with_reducible apply canon_ite_s
    | with_reducible apply canon_ite_fst
    | with_reducible apply canon_ite_fst_s
    | simp only [canon_mk_iff]
    | split
    | intro _

theorem canon_Rd_progress {kw kt kr ks kp xb xm xn xc} {x : Rd} {p : Nat} {e : Placed} {t0 : Slot} (h_x : x.s.Canon kw
    kt kr ks none kp none ⟨xb, none, none, xm, none, xn, xc⟩) : (Rd.progress x p e t0).s.Canon kw kt kr ks none kp
    none ⟨xb, none, none, xm, none, xn, xc⟩ := by
  unfold Rd.progress
  try dsimp only
  repeat' first
    | with_reducible assumption
    | with_reducible apply canon_Rd_count
    | with_reducible apply canon_Rd_onSlot
    | with_reducible apply canon_Rd_account
    | with_reducible apply canon_Rd_chargeAccount
    | with_reducible apply canon_ite
    | with_reducible apply canon_ite_s
    | with_reducible apply canon_ite_fst
    | with_reducible apply canon_ite_fst_s
    | simp only [canon_mk_iff]
    | split
    | intro _

theorem canon_Rd_toDecode {kw kt kr ks km kp kv xb xq xm xh xn xc} {x : Rd} {p : Nat} {e : Placed} {t0 : Slot} {at' :
    Nat} (h_x : x.s.Canon kw kt kr ks km kp kv ⟨xb, xq, none, xm, xh, xn, xc⟩) : (Rd.toDecode x p e t0 at').s.Canon kw
    kt kr ks km kp kv ⟨xb, xq, none, xm, xh, xn, xc⟩ := by
  unfold Rd.toDecode
  try dsimp only
  repeat' first
    | with_reducible assumption
    | with_reducible apply canon_Rd_toState
    | with_reducible apply canon_ite
    | with_reducible apply canon_ite_s
    | with_reducible apply canon_ite_fst
    | with_reducible apply canon_ite_fst_s
    | simp only [canon_mk_iff]
    | split
    | intro _

theorem canon_Rd_lengthEnd {kw kt kr ks km kp kv xb xq xm xh xn xc} {x : Rd} {p : Nat} {e : Placed} {t0 : Slot} {at' :
    Nat} (h_x : x.s.Canon kw kt kr ks km kp kv ⟨xb, xq, none, xm, xh, xn, xc⟩) : (Rd.lengthEnd x p e t0 at').s.Canon
    kw kt kr ks km kp kv ⟨xb, xq, none, xm, xh, xn, xc⟩ := by
  unfold Rd.lengthEnd
  try dsimp only
  repeat' first
    | with_reducible assumption
    | with_reducible apply canon_Rd_terminate
    | with_reducible apply canon_ite
    | with_reducible apply canon_ite_s
    | with_reducible apply canon_ite_fst
    | with_reducible apply canon_ite_fst_s
    | simp only [canon_mk_iff]
    | split
    | intro _

theorem canon_Rd_deliverToken {kw kt kr ks kp xb xm xn xc} {x : Rd} {p : Nat} {e : Placed} {t0 : Slot} {tok : Nat}
    {at' : Nat} (h_x : x.s.Canon kw kt kr ks none kp none ⟨xb, none, none, xm, none, xn, xc⟩) : (Rd.deliverToken x p e
    t0 tok at').s.Canon kw kt kr ks none kp none ⟨xb, none, none, xm, none, xn, xc⟩ := by
  unfold Rd.deliverToken
  try dsimp only
  repeat' first
    | with_reducible assumption
    | with_reducible apply canon_Rd_onSlot
    | with_reducible apply canon_slBump
    | with_reducible apply canon_Rd_account
    | with_reducible apply canon_Rd_chargeAccount
    | with_reducible apply canon_Rd_deliver
    | with_reducible apply canon_ite
    | with_reducible apply canon_ite_s
    | with_reducible apply canon_ite_fst
    | with_reducible apply canon_ite_fst_s
    | simp only [canon_mk_iff]
    | split
    | intro _

theorem canon_Rd_advanceSlot {kw kt kr ks xn xc} {x : Rd} {p : Nat} {e : Placed} {out : Option Nat} {at' : Nat} (h_x :
    x.s.Canon kw kt kr ks none none none ⟨none, none, none, none, none, xn, xc⟩) : (Rd.advanceSlot x p e out
    at').s.Canon kw kt kr ks none none none ⟨none, none, none, none, none, xn, xc⟩ := by
  unfold Rd.advanceSlot
  try dsimp only
  repeat' first
    | with_reducible assumption
    | with_reducible apply canon_Rd_onSlot
    | with_reducible apply canon_Rd_deliver
    | with_reducible apply canon_Rd_pause
    | with_reducible apply canon_Rd_terminate
    | with_reducible apply canon_Rd_faultRequest
    | with_reducible apply canon_Rd_progress
    | with_reducible apply canon_Rd_toDecode
    | with_reducible apply canon_Rd_lengthEnd
    | with_reducible apply canon_Rd_deliverToken
    | with_reducible apply canon_ite
    | with_reducible apply canon_ite_s
    | with_reducible apply canon_ite_fst
    | with_reducible apply canon_ite_fst_s
    | simp only [canon_mk_iff]
    | split
    | intro _

theorem canon_Rd_leaveStep {kw kt kr ks km kp kv xb xq xm xh xn xc} {x : Rd} {p : Nat} {l : List Placed} (h_x :
    x.s.Canon kw kt kr ks km kp kv ⟨xb, xq, none, xm, xh, xn, xc⟩) : (Rd.leaveStep x p l).s.Canon kw kt kr ks km kp kv
    ⟨xb, xq, none, xm, xh, xn, xc⟩ := by
  unfold Rd.leaveStep
  try dsimp only
  repeat' first
    | with_reducible assumption
    | with_reducible apply canon_Rd_onSlot
    | with_reducible apply canon_foldl
    | with_reducible apply canon_foldl_fst
    | with_reducible apply canon_foldl_rd
    | with_reducible apply canon_foldl_rd_fst
    | with_reducible apply canon_foldl_x
    | with_reducible apply canon_foldl_run_fst
    | with_reducible apply canon_ite
    | with_reducible apply canon_ite_s
    | with_reducible apply canon_ite_fst
    | with_reducible apply canon_ite_fst_s
    | simp only [canon_mk_iff]
    | split
    | intro _

theorem canon_endStep {kw kt kr ks km kp xh xn xc} {s : Chip} {p : Nat} {st : StepRun} {lost : Bool} (h_s : s.Canon kw
    kt kr ks km kp none ⟨none, none, none, none, xh, xn, xc⟩) : (endStep s p st lost).Canon kw kt kr ks km kp none
    ⟨none, none, none, none, xh, xn, xc⟩ := by
  unfold endStep
  try dsimp only
  repeat' first
    | with_reducible assumption
    | with_reducible apply canon_removeJob
    | with_reducible apply canon_dropSets
    | with_reducible apply canon_endWalk
    | with_reducible apply canon_Rd_walk
    | with_reducible apply canon_setServe
    | with_reducible apply canon_ite
    | with_reducible apply canon_ite_s
    | with_reducible apply canon_ite_fst
    | with_reducible apply canon_ite_fst_s
    | simp only [canon_mk_iff]
    | split
    | intro _

theorem canon_Rd_abandonStep {kw kt kr ks xn xc} {x : Rd} {p : Nat} {st : StepRun} {code : Option Nat} {at' : Nat}
    (h_x : x.s.Canon kw kt kr ks none none none ⟨none, none, none, none, none, xn, xc⟩) : (Rd.abandonStep x p st code
    at').s.Canon kw kt kr ks none none none ⟨none, none, none, none, none, xn, xc⟩ := by
  unfold Rd.abandonStep
  try dsimp only
  repeat' first
    | with_reducible assumption
    | with_reducible apply canon_EditEnv_release
    | with_reducible apply canon_slBump
    | with_reducible apply canon_slFlag
    | with_reducible apply canon_Rd_reap
    | with_reducible apply canon_Rd_release
    | with_reducible apply canon_Rd_faultRequest
    | with_reducible apply canon_Rd_leaveStep
    | with_reducible apply canon_endStep
    | with_reducible apply canon_foldl
    | with_reducible apply canon_foldl_fst
    | with_reducible apply canon_foldl_rd
    | with_reducible apply canon_foldl_rd_fst
    | with_reducible apply canon_foldl_x
    | with_reducible apply canon_foldl_run_fst
    | with_reducible apply canon_ite
    | with_reducible apply canon_ite_s
    | with_reducible apply canon_ite_fst
    | with_reducible apply canon_ite_fst_s
    | simp only [canon_mk_iff]
    | split
    | intro _

theorem canon_Rd_finishStep {kw kt kr ks xn xc} {x : Rd} {p : Nat} {st : StepRun} {at' : Nat} (h_x : x.s.Canon kw kt
    kr ks none none none ⟨none, none, none, none, none, xn, xc⟩) : (Rd.finishStep x p st at').s.Canon kw kt kr ks none
    none none ⟨none, none, none, none, none, xn, xc⟩ := by
  unfold Rd.finishStep
  try dsimp only
  repeat' first
    | with_reducible assumption
    | with_reducible apply canon_wr
    | with_reducible apply canon_msix
    | with_reducible apply canon_EditEnv_release
    | with_reducible apply canon_slFlag
    | with_reducible apply canon_Rd_reap
    | with_reducible apply canon_correctR
    | with_reducible apply canon_Rd_release
    | with_reducible apply canon_Rd_tokenOut
    | with_reducible apply canon_Rd_advanceSlot
    | with_reducible apply canon_Rd_leaveStep
    | with_reducible apply canon_endStep
    | with_reducible apply canon_foldl
    | with_reducible apply canon_foldl_fst
    | with_reducible apply canon_foldl_rd
    | with_reducible apply canon_foldl_rd_fst
    | with_reducible apply canon_foldl_x
    | with_reducible apply canon_foldl_run_fst
    | with_reducible apply canon_ite
    | with_reducible apply canon_ite_s
    | with_reducible apply canon_ite_fst
    | with_reducible apply canon_ite_fst_s
    | simp only [canon_mk_iff]
    | split
    | intro _

theorem canon_Rd_dropLost {kw kt kr ks xn xc} {x : Rd} {p : Nat} (h_x : x.s.Canon kw kt kr ks none none none ⟨none,
    none, none, none, none, xn, xc⟩) : (Rd.dropLost x p).s.Canon kw kt kr ks none none none ⟨none, none, none, none,
    none, xn, xc⟩ := by
  unfold Rd.dropLost
  try dsimp only
  repeat' first
    | with_reducible assumption
    | with_reducible apply canon_Rd_abandonStep
    | with_reducible apply canon_ite
    | with_reducible apply canon_ite_s
    | with_reducible apply canon_ite_fst
    | with_reducible apply canon_ite_fst_s
    | simp only [canon_mk_iff]
    | split

theorem canon_Rd_runDue {kw kt kr ks xn xc} {x : Rd} {p : Nat} (h_x : x.s.Canon kw kt kr ks none none none ⟨none,
    none, none, none, none, xn, xc⟩) : (Rd.runDue x p).s.Canon kw kt kr ks none none none ⟨none, none, none, none,
    none, xn, xc⟩ := by
  unfold Rd.runDue
  try dsimp only
  repeat' first
    | with_reducible assumption
    | with_reducible apply canon_Rd_timers
    | with_reducible apply canon_Rd_abandonStep
    | with_reducible apply canon_Rd_finishStep
    | with_reducible apply canon_Rd_dropLost
    | with_reducible apply canon_ite
    | with_reducible apply canon_ite_s
    | with_reducible apply canon_ite_fst
    | with_reducible apply canon_ite_fst_s
    | simp only [canon_mk_iff]
    | split

theorem canon_slStart {kw kt kr ks xn xc} {s : Chip} {p : Nat} (h_s : s.Canon kw kt kr ks none none none ⟨none, none,
    none, none, none, xn, xc⟩) : (slStart s p).s.Canon kw kt kr ks none none none ⟨none, none, none, none, none, xn,
    xc⟩ := by
  unfold slStart
  try dsimp only
  repeat' first
    | with_reducible assumption
    | with_reducible apply canon_startRd
    | with_reducible apply canon_Rd_runDue

theorem canon_slEnd {kw kt kr ks xn xc} {s : Chip} {p : Nat} {cmd : Option Nat} {y : Rd} (h_s : s.Canon kw kt kr ks
    none none none ⟨none, none, none, none, none, xn, xc⟩) (h_y : y.s.Canon kw kt kr ks none none none ⟨none, none,
    none, none, none, xn, xc⟩) : (slEnd s p cmd y).Canon kw kt kr ks none none none ⟨none, none, none, none, none, xn,
    xc⟩ := by
  unfold slEnd
  try dsimp only
  repeat' first
    | with_reducible assumption
    | with_reducible apply canon_Rd_settle
    | with_reducible apply canon_Rd_publish
    | with_reducible apply canon_Rd_reap

theorem canon_slRun {kw kt kr ks xn xc} {s : Chip} {p : Nat} {cmd : Option Nat} {f : Rd → Rd} (h_s : s.Canon kw kt kr
    ks none none none ⟨none, none, none, none, none, xn, xc⟩) (h_f : ∀ a0, a0.s.Canon kw kt kr ks none none none
    ⟨none, none, none, none, none, xn, xc⟩ → (f a0).s.Canon kw kt kr ks none none none ⟨none, none, none, none, none,
    xn, xc⟩) : (slRun s p cmd f).Canon kw kt kr ks none none none ⟨none, none, none, none, none, xn, xc⟩ := by
  unfold slRun
  try dsimp only
  repeat' first
    | with_reducible assumption
    | with_reducible apply canon_slStart
    | with_reducible apply canon_slEnd
    | with_reducible apply h_f

theorem canon_slCommand {kw kt kr ks xn xc} {s : Chip} {o : Origin} {op : Nat} {b : Body} {f : Rd → Rd} (h_s : s.Canon
    kw kt kr ks none none none ⟨none, none, none, none, none, xn, xc⟩) (h_f : ∀ a0, a0.s.Canon kw kt kr ks none none
    none ⟨none, none, none, none, none, xn, xc⟩ → (f a0).s.Canon kw kt kr ks none none none ⟨none, none, none, none,
    none, xn, xc⟩) : (slCommand s o op b f).Canon kw kt kr ks none none none ⟨none, none, none, none, none, xn, xc⟩ :=
    by
  unfold slCommand
  try dsimp only
  repeat' first
    | with_reducible assumption
    | with_reducible apply canon_Rd_failed
    | with_reducible apply canon_slRun
    | with_reducible apply h_f
    | with_reducible apply canon_ite
    | with_reducible apply canon_ite_s
    | with_reducible apply canon_ite_fst
    | with_reducible apply canon_ite_fst_s
    | simp only [canon_mk_iff]
    | split
    | intro _

theorem canon_submitWork {kw kt kr ks xn xc} {o : Origin} {b : Body} {host : HostReply} {x : Rd} (h_x : x.s.Canon kw
    kt kr ks none none none ⟨none, none, none, none, none, xn, xc⟩) : (submitWork o b host x).s.Canon kw kt kr ks none
    none none ⟨none, none, none, none, none, xn, xc⟩ := by
  unfold submitWork
  try dsimp only
  repeat' first
    | with_reducible assumption
    | with_reducible apply canon_Rd_calm
    | with_reducible apply canon_Rd_failed
    | with_reducible apply canon_Rd_submit
    | with_reducible apply canon_Rd_descriptor
    | with_reducible apply canon_ite
    | with_reducible apply canon_ite_s
    | with_reducible apply canon_ite_fst
    | with_reducible apply canon_ite_fst_s
    | simp only [canon_mk_iff]
    | split
    | intro _

theorem canon_serveSubmit {kw kt kr ks xn xc} {s : Chip} {o : Origin} {b : Body} {host : HostReply} (h_s : s.Canon kw
    kt kr ks none none none ⟨none, none, none, none, none, xn, xc⟩) : (serveSubmit s o b host).Canon kw kt kr ks none
    none none ⟨none, none, none, none, none, xn, xc⟩ := by
  unfold serveSubmit
  try dsimp only
  repeat' first
    | with_reducible assumption
    | with_reducible apply canon_slCommand
    | with_reducible apply canon_submitWork

theorem canon_slotWork {kw kt kr ks xn xc} {o : Origin} {op : Nat} {b : Body} {met : Ecc} {x : Rd} (h_x : x.s.Canon kw
    kt kr ks none none none ⟨none, none, none, none, none, xn, xc⟩) : (slotWork o op b met x).s.Canon kw kt kr ks none
    none none ⟨none, none, none, none, none, xn, xc⟩ := by
  unfold slotWork
  try dsimp only
  repeat' first
    | with_reducible assumption
    | with_reducible apply canon_Rd_done
    | with_reducible apply canon_Rd_slotMeets
    | with_reducible apply canon_Rd_slotEvent
    | with_reducible apply canon_ite
    | with_reducible apply canon_ite_s
    | with_reducible apply canon_ite_fst
    | with_reducible apply canon_ite_fst_s
    | simp only [canon_mk_iff]
    | split

theorem canon_serveSlot {kw kt kr ks xn xc} {s : Chip} {o : Origin} {op : Nat} {b : Body} {met : Ecc} (h_s : s.Canon
    kw kt kr ks none none none ⟨none, none, none, none, none, xn, xc⟩) : (serveSlot s o op b met).Canon kw kt kr ks
    none none none ⟨none, none, none, none, none, xn, xc⟩ := by
  unfold serveSlot
  try dsimp only
  repeat' first
    | with_reducible assumption
    | with_reducible apply canon_slCommand
    | with_reducible apply canon_slotWork

theorem canon_serveCancel {kw kt kr ks xn xc} {s : Chip} {o : Origin} {b : Body} {met : Ecc} (h_s : s.Canon kw kt kr
    ks none none none ⟨none, none, none, none, none, xn, xc⟩) : (serveCancel s o b met).Canon kw kt kr ks none none
    none ⟨none, none, none, none, none, xn, xc⟩ := by
  unfold serveCancel
  try dsimp only
  repeat' first
    | with_reducible assumption
    | with_reducible apply canon_serveSlot

theorem canon_servePause {kw kt kr ks xn xc} {s : Chip} {o : Origin} {b : Body} {met : Ecc} (h_s : s.Canon kw kt kr ks
    none none none ⟨none, none, none, none, none, xn, xc⟩) : (servePause s o b met).Canon kw kt kr ks none none none
    ⟨none, none, none, none, none, xn, xc⟩ := by
  unfold servePause
  try dsimp only
  repeat' first
    | with_reducible assumption
    | with_reducible apply canon_serveSlot

theorem canon_serveResume {kw kt kr ks xn xc} {s : Chip} {o : Origin} {b : Body} {met : Ecc} (h_s : s.Canon kw kt kr
    ks none none none ⟨none, none, none, none, none, xn, xc⟩) : (serveResume s o b met).Canon kw kt kr ks none none
    none ⟨none, none, none, none, none, xn, xc⟩ := by
  unfold serveResume
  try dsimp only
  repeat' first
    | with_reducible assumption
    | with_reducible apply canon_serveSlot

theorem canon_serveEdit {kw kt kr ks xn xc} {s : Chip} {o : Origin} {b : Body} {met : Ecc} (h_s : s.Canon kw kt kr ks
    none none none ⟨none, none, none, none, none, xn, xc⟩) : (serveEdit s o b met).Canon kw kt kr ks none none none
    ⟨none, none, none, none, none, xn, xc⟩ := by
  unfold serveEdit
  try dsimp only
  repeat' first
    | with_reducible assumption
    | with_reducible apply canon_serveSlot

theorem canon_accountWork {kw kt kr ks kp xn xc} {o : Origin} {b : Body} {x : Rd} (h_x : x.s.Canon kw kt kr ks none kp
    none ⟨none, none, none, none, none, xn, xc⟩) : (accountWork o b x).s.Canon kw kt kr ks none kp none ⟨none, none,
    none, none, none, xn, xc⟩ := by
  unfold accountWork
  try dsimp only
  repeat' first
    | with_reducible assumption
    | with_reducible apply canon_Rd_account
    | with_reducible apply canon_Rd_putAccount
    | with_reducible apply canon_Rd_done
    | with_reducible apply canon_Rd_failed
    | with_reducible apply canon_ite
    | with_reducible apply canon_ite_s
    | with_reducible apply canon_ite_fst
    | with_reducible apply canon_ite_fst_s
    | simp only [canon_mk_iff]
    | split
    | intro _

theorem canon_serveAccount {kw kt kr ks xn xc} {s : Chip} {o : Origin} {b : Body} (h_s : s.Canon kw kt kr ks none none
    none ⟨none, none, none, none, none, xn, xc⟩) : (serveAccount s o b).Canon kw kt kr ks none none none ⟨none, none,
    none, none, none, xn, xc⟩ := by
  unfold serveAccount
  try dsimp only
  repeat' first
    | with_reducible assumption
    | with_reducible apply canon_slCommand
    | with_reducible apply canon_accountWork

theorem canon_queryWork {kw kt kr ks kp kv xn xc} {o : Origin} {b : Body} {met : Ecc} {x : Rd} (h_x : x.s.Canon kw kt
    kr ks none kp kv ⟨none, none, none, none, none, xn, xc⟩) : (queryWork o b met x).s.Canon kw kt kr ks none kp kv
    ⟨none, none, none, none, none, xn, xc⟩ := by
  unfold queryWork
  try dsimp only
  repeat' first
    | with_reducible assumption
    | with_reducible apply canon_Rd_plainPut
    | with_reducible apply canon_Rd_calm
    | with_reducible apply canon_Rd_done
    | with_reducible apply canon_Rd_failed
    | with_reducible apply canon_Rd_slotMeets
    | with_reducible apply canon_ite
    | with_reducible apply canon_ite_s
    | with_reducible apply canon_ite_fst
    | with_reducible apply canon_ite_fst_s
    | simp only [canon_mk_iff]
    | split
    | intro _

theorem canon_serveQuery {kw kt kr ks xn xc} {s : Chip} {o : Origin} {b : Body} {met : Ecc} (h_s : s.Canon kw kt kr ks
    none none none ⟨none, none, none, none, none, xn, xc⟩) : (serveQuery s o b met).Canon kw kt kr ks none none none
    ⟨none, none, none, none, none, xn, xc⟩ := by
  unfold serveQuery
  try dsimp only
  repeat' first
    | with_reducible assumption
    | with_reducible apply canon_slCommand
    | with_reducible apply canon_queryWork

theorem canon_editCompleteWork {kw kt kr ks xn xc} {p : Nat} {h : Nat} {k : Nat} {edit : Option (Origin × Body)} {x :
    Rd} (h_x : x.s.Canon kw kt kr ks none none none ⟨none, none, none, none, none, xn, xc⟩) : (editCompleteWork p h k
    edit x).s.Canon kw kt kr ks none none none ⟨none, none, none, none, none, xn, xc⟩ := by
  unfold editCompleteWork
  try dsimp only
  repeat' first
    | with_reducible assumption
    | with_reducible apply canon_EditEnv_release
    | with_reducible apply canon_Rd_sequence
    | with_reducible apply canon_Rd_onSlot
    | with_reducible apply canon_Rd_calm
    | with_reducible apply canon_Rd_done
    | with_reducible apply canon_Rd_failed
    | with_reducible apply canon_Rd_editSlot
    | with_reducible apply canon_Rd_release
    | with_reducible apply canon_ite
    | with_reducible apply canon_ite_s
    | with_reducible apply canon_ite_fst
    | with_reducible apply canon_ite_fst_s
    | simp only [canon_mk_iff]
    | split
    | intro _

theorem canon_serveEditComplete {kw kt kr ks xn xc} {s : Chip} {p : Nat} {h : Nat} (h_s : s.Canon kw kt kr ks none
    none none ⟨none, none, none, none, none, xn, xc⟩) : (serveEditComplete s p h).Canon kw kt kr ks none none none
    ⟨none, none, none, none, none, xn, xc⟩ := by
  unfold serveEditComplete
  try dsimp only
  repeat' first
    | with_reducible assumption
    | with_reducible apply canon_slRun
    | with_reducible apply canon_editCompleteWork
    | with_reducible apply canon_ite
    | with_reducible apply canon_ite_s
    | with_reducible apply canon_ite_fst
    | with_reducible apply canon_ite_fst_s
    | simp only [canon_mk_iff]
    | split

theorem canon_stepFinish {kw kt kr ks xn xc} {s : Chip} {p : Nat} (h_s : s.Canon kw kt kr ks none none none ⟨none,
    none, none, none, none, xn, xc⟩) : (stepFinish s p).Canon kw kt kr ks none none none ⟨none, none, none, none,
    none, xn, xc⟩ := by
  unfold stepFinish
  try dsimp only
  repeat' first
    | with_reducible assumption
    | with_reducible apply canon_slRun
    | with_reducible apply canon_ite
    | with_reducible apply canon_ite_s
    | with_reducible apply canon_ite_fst
    | with_reducible apply canon_ite_fst_s
    | simp only [canon_mk_iff]
    | split
    | intro _

theorem canon_accountWindowRollover {kw kt kr ks xn xc} {s : Chip} {p : Nat} {a : Nat} (h_s : s.Canon kw kt kr ks none
    none none ⟨none, none, none, none, none, xn, xc⟩) : (accountWindowRollover s p a).Canon kw kt kr ks none none none
    ⟨none, none, none, none, none, xn, xc⟩ := by
  unfold accountWindowRollover
  try dsimp only
  repeat' first
    | with_reducible assumption
    | with_reducible apply canon_slRun
    | with_reducible apply canon_ite
    | with_reducible apply canon_ite_s
    | with_reducible apply canon_ite_fst
    | with_reducible apply canon_ite_fst_s
    | simp only [canon_mk_iff]
    | split
    | intro _

theorem canon_moveDueRow {kw kt kr ks xn xc} {s : Chip} {p : Nat} {h : Nat} (h_s : s.Canon kw kt kr ks none none none
    ⟨none, none, none, none, none, xn, xc⟩) : (moveDueRow s p h).Canon kw kt kr ks none none none ⟨none, none, none,
    none, none, xn, xc⟩ := by
  unfold moveDueRow
  try dsimp only
  repeat' first
    | with_reducible assumption
    | with_reducible apply canon_EditEnv_move
    | with_reducible apply canon_slRun
    | with_reducible apply canon_ite
    | with_reducible apply canon_ite_s
    | with_reducible apply canon_ite_fst
    | with_reducible apply canon_ite_fst_s
    | simp only [canon_mk_iff]
    | split
    | intro _

theorem canon_ttlExpiry {kw kt kr ks xn xc} {s : Chip} {p : Nat} {h : Nat} (h_s : s.Canon kw kt kr ks none none none
    ⟨none, none, none, none, none, xn, xc⟩) : (ttlExpiry s p h).Canon kw kt kr ks none none none ⟨none, none, none,
    none, none, xn, xc⟩ := by
  unfold ttlExpiry
  try dsimp only
  repeat' first
    | with_reducible assumption
    | with_reducible apply canon_slRun
    | with_reducible apply canon_ite
    | with_reducible apply canon_ite_s
    | with_reducible apply canon_ite_fst
    | with_reducible apply canon_ite_fst_s
    | simp only [canon_mk_iff]
    | split
    | intro _

theorem canon_moveDone {kw kt kr ks km kp kv xb xq xm xh xn xc} {y : Rd} {p : Nat} {k : Nat} {now : Nat} (h_y :
    y.s.Canon kw kt kr ks km kp kv ⟨xb, xq, none, xm, xh, xn, xc⟩) : (moveDone y p k now).s.Canon kw kt kr ks km kp kv
    ⟨xb, xq, none, xm, xh, xn, xc⟩ := by
  unfold moveDone
  try dsimp only
  repeat' first
    | with_reducible assumption
    | with_reducible apply canon_Rd_onSlot
    | with_reducible apply canon_slBump
    | with_reducible apply canon_Rd_toState

theorem canon_moveCompleteWork {kw kt kr ks xn xc} {p : Nat} {h : Nat} {k : Nat} {blocks : Nat} {x : Rd} (h_x :
    x.s.Canon kw kt kr ks none none none ⟨none, none, none, none, none, xn, xc⟩) : (moveCompleteWork p h k blocks
    x).s.Canon kw kt kr ks none none none ⟨none, none, none, none, none, xn, xc⟩ := by
  unfold moveCompleteWork
  try dsimp only
  repeat' first
    | with_reducible assumption
    | with_reducible apply canon_EditEnv_release
    | with_reducible apply canon_Rd_onSlot
    | with_reducible apply canon_Rd_editSlot
    | with_reducible apply canon_Rd_afterEdit
    | with_reducible apply canon_Rd_moveFails
    | with_reducible apply canon_Rd_release
    | with_reducible apply canon_moveDone
    | with_reducible apply canon_ite
    | with_reducible apply canon_ite_s
    | with_reducible apply canon_ite_fst
    | with_reducible apply canon_ite_fst_s
    | simp only [canon_mk_iff]
    | split
    | intro _

theorem canon_boathouseMoveComplete {kw kt kr ks xn xc} {s : Chip} {p : Nat} {h : Nat} (h_s : s.Canon kw kt kr ks none
    none none ⟨none, none, none, none, none, xn, xc⟩) : (boathouseMoveComplete s p h).Canon kw kt kr ks none none none
    ⟨none, none, none, none, none, xn, xc⟩ := by
  unfold boathouseMoveComplete
  try dsimp only
  repeat' first
    | with_reducible assumption
    | with_reducible apply canon_slRun
    | with_reducible apply canon_moveCompleteWork
    | with_reducible apply canon_ite
    | with_reducible apply canon_ite_s
    | with_reducible apply canon_ite_fst
    | with_reducible apply canon_ite_fst_s
    | simp only [canon_mk_iff]
    | split

theorem canon_fetchCompleteWork {kw kt kr ks xn xc} {p : Nat} {h : Nat} {k : Nat} {blocks : Nat} {x : Rd} (h_x :
    x.s.Canon kw kt kr ks none none none ⟨none, none, none, none, none, xn, xc⟩) : (fetchCompleteWork p h k blocks
    x).s.Canon kw kt kr ks none none none ⟨none, none, none, none, none, xn, xc⟩ := by
  unfold fetchCompleteWork
  try dsimp only
  repeat' first
    | with_reducible assumption
    | with_reducible apply canon_EditEnv_release
    | with_reducible apply canon_Rd_onSlot
    | with_reducible apply canon_Rd_editSlot
    | with_reducible apply canon_Rd_afterEdit
    | with_reducible apply canon_Rd_moveFails
    | with_reducible apply canon_Rd_release
    | with_reducible apply canon_ite
    | with_reducible apply canon_ite_s
    | with_reducible apply canon_ite_fst
    | with_reducible apply canon_ite_fst_s
    | simp only [canon_mk_iff]
    | split
    | intro _

theorem canon_boathouseFetchComplete {kw kt kr ks xn xc} {s : Chip} {p : Nat} {h : Nat} (h_s : s.Canon kw kt kr ks
    none none none ⟨none, none, none, none, none, xn, xc⟩) : (boathouseFetchComplete s p h).Canon kw kt kr ks none
    none none ⟨none, none, none, none, none, xn, xc⟩ := by
  unfold boathouseFetchComplete
  try dsimp only
  repeat' first
    | with_reducible assumption
    | with_reducible apply canon_slRun
    | with_reducible apply canon_fetchCompleteWork
    | with_reducible apply canon_ite
    | with_reducible apply canon_ite_s
    | with_reducible apply canon_ite_fst
    | with_reducible apply canon_ite_fst_s
    | simp only [canon_mk_iff]
    | split

theorem canon_resetQueueStep {kw kt kr ks xn xc} {reset : Chip → Chip} {s : Chip} {p : Nat} {n : Nat} (h_reset : ∀ a0,
    a0.Canon kw kt kr ks none none none ⟨none, none, none, none, none, xn, xc⟩ → (reset a0).Canon kw kt kr ks none
    none none ⟨none, none, none, none, none, xn, xc⟩) (h_s : s.Canon kw kt kr ks none none none ⟨none, none, none,
    none, none, xn, xc⟩) : (resetQueueStep reset s p n).Canon kw kt kr ks none none none ⟨none, none, none, none,
    none, xn, xc⟩ := by
  unfold resetQueueStep
  try dsimp only
  repeat' first
    | with_reducible assumption
    | with_reducible apply canon_startRd
    | with_reducible apply canon_Rd_settle
    | with_reducible apply canon_publishNow
    | with_reducible apply canon_Rd_dropLost
    | with_reducible apply h_reset
    | with_reducible apply canon_ite
    | with_reducible apply canon_ite_s
    | with_reducible apply canon_ite_fst
    | with_reducible apply canon_ite_fst_s
    | simp only [canon_mk_iff]
    | split
    | intro _

theorem canon_queueResetNow {kw kt kr ks xn xc} {s : Chip} {p : Nat} {n : Nat} (h_s : s.Canon kw kt kr ks none none
    none ⟨none, none, none, none, none, xn, xc⟩) : (queueResetNow s p n).Canon kw kt kr ks none none none ⟨none, none,
    none, none, none, xn, xc⟩ := by
  unfold queueResetNow
  try dsimp only
  repeat' first
    | with_reducible assumption
    | with_reducible apply canon_beginReset
    | with_reducible apply canon_resetQueueStep
    | with_reducible apply canon_ite
    | with_reducible apply canon_ite_s
    | with_reducible apply canon_ite_fst
    | with_reducible apply canon_ite_fst_s
    | simp only [canon_mk_iff]
    | split
    | intro _

theorem canon_partQueueReset {kw kt kr ks xn xc} {status : Nat} {p : Nat} {s : Chip} {n : Nat} (h_s : s.Canon kw kt kr
    ks none none none ⟨none, none, none, none, none, xn, xc⟩) : (partQueueReset status p s n).Canon kw kt kr ks none
    none none ⟨none, none, none, none, none, xn, xc⟩ := by
  unfold partQueueReset
  try dsimp only
  repeat' first
    | with_reducible assumption
    | with_reducible apply canon_resetQueue
    | with_reducible apply canon_resetQueueStep
    | with_reducible apply canon_ite
    | with_reducible apply canon_ite_s
    | with_reducible apply canon_ite_fst
    | with_reducible apply canon_ite_fst_s
    | simp only [canon_mk_iff]
    | split
    | intro _

theorem canon_queueReset {kw kt kr ks xn xc} {s : Chip} {via : Via} {p : Nat} {n : Nat} {byEnable : Bool} (h_s :
    s.Canon kw kt kr ks none none none ⟨none, none, none, none, none, xn, xc⟩) : (queueReset s via p n byEnable).Canon
    kw kt kr ks none none none ⟨none, none, none, none, none, xn, xc⟩ := by
  unfold queueReset
  try dsimp only
  repeat' first
    | with_reducible assumption
    | with_reducible apply canon_setPending
    | with_reducible apply canon_queueResetNow
    | with_reducible apply canon_ite
    | with_reducible apply canon_ite_s
    | with_reducible apply canon_ite_fst
    | with_reducible apply canon_ite_fst_s
    | simp only [canon_mk_iff]
    | split
    | intro _

theorem canon_resetServe {kw kt kr ks km kp xh xn xc} {s : Chip} {p : Nat} (h_s : s.Canon kw kt kr ks km kp none
    ⟨none, none, none, none, xh, xn, xc⟩) : (resetServe s p).Canon kw kt kr ks km kp none ⟨none, none, none, none, xh,
    xn, xc⟩ := by
  unfold resetServe
  try dsimp only
  repeat' first
    | with_reducible assumption
    | with_reducible apply canon_setServe
    | with_reducible apply canon_freeSlot
    | with_reducible apply canon_endStep
    | with_reducible apply canon_foldl
    | with_reducible apply canon_foldl_fst
    | with_reducible apply canon_foldl_rd
    | with_reducible apply canon_foldl_rd_fst
    | with_reducible apply canon_foldl_x
    | with_reducible apply canon_foldl_run_fst
    | with_reducible apply canon_ite
    | with_reducible apply canon_ite_s
    | with_reducible apply canon_ite_fst
    | with_reducible apply canon_ite_fst_s
    | simp only [canon_mk_iff]
    | split
    | intro _

end Sys2Proof.Machine
end

