-- ==== Sys2Proof/Laws/CanonCatch.lean ====
section
/-! SUPPORT. The operations of Machine/Catch.lean keep the canonical form. -/
set_option linter.all false
namespace Sys2Proof.Machine

theorem canon_Rd_putRequest {kw kt kr ks kv xn xc} {x : Rd} {p : Nat} {st : StepRun} {e : Placed} {i : Nat} {n : Nat}
    (h_x : x.s.Canon kw kt kr ks none none kv ⟨none, none, none, none, none, xn, xc⟩) : (Rd.putRequest x p st e i
    n).s.Canon kw kt kr ks none none kv ⟨none, none, none, none, none, xn, xc⟩ := by
  unfold Rd.putRequest
  try dsimp only
  repeat' first
    | with_reducible assumption
    | with_reducible apply canon_Rd_count
    | with_reducible apply canon_Rd_put
    | with_reducible apply canon_Rd_dev
    | with_reducible apply canon_EditEnv_put
    | with_reducible apply canon_foldl
    | with_reducible apply canon_foldl_fst
    | with_reducible apply canon_foldl_rd
    | with_reducible apply canon_foldl_rd_fst
    | with_reducible apply canon_foldl_x
    | with_reducible apply canon_foldl_run_fst
    | with_reducible apply canon_ite
    | with_reducible apply canon_ite_s
    | with_reducible apply canon_ite_fst
    | with_reducible apply canon_ite_fst_s
    | simp only [canon_mk_iff]
    | split
    | intro _

theorem canon_Rd_putArea {kw kt kr ks kv xn xc} {x : Rd} {p : Nat} {st : StepRun} (h_x : x.s.Canon kw kt kr ks none
    none kv ⟨none, none, none, none, none, xn, xc⟩) : (Rd.putArea x p st).s.Canon kw kt kr ks none none kv ⟨none,
    none, none, none, none, xn, xc⟩ := by
  unfold Rd.putArea
  try dsimp only
  repeat' first
    | with_reducible assumption
    | with_reducible apply canon_Rd_stop
    | with_reducible apply canon_Rd_count
    | with_reducible apply canon_Rd_put
    | with_reducible apply canon_EditEnv_put
    | with_reducible apply canon_Rd_putRequest
    | with_reducible apply canon_foldl
    | with_reducible apply canon_foldl_fst
    | with_reducible apply canon_foldl_rd
    | with_reducible apply canon_foldl_rd_fst
    | with_reducible apply canon_foldl_x
    | with_reducible apply canon_foldl_run_fst
    | with_reducible apply canon_ite
    | with_reducible apply canon_ite_s
    | with_reducible apply canon_ite_fst
    | with_reducible apply canon_ite_fst_s
    | simp only [canon_mk_iff]
    | split
    | intro _

theorem canon_Rd_program {kw kt kr ks kp kv xb xq xl xm xn xc} {x : Rd} {p : Nat} (h_x : x.s.Canon kw kt kr ks none kp
    kv ⟨xb, xq, xl, xm, none, xn, xc⟩) : (Rd.program x p).1.s.Canon kw kt kr ks none kp kv ⟨xb, xq, xl, xm, none, xn,
    xc⟩ := by
  unfold Rd.program
  try dsimp only
  repeat' first
    | with_reducible assumption
    | with_reducible apply canon_Rd_stop
    | with_reducible apply canon_Rd_dev
    | with_reducible apply canon_foldl
    | with_reducible apply canon_foldl_fst
    | with_reducible apply canon_foldl_rd
    | with_reducible apply canon_foldl_rd_fst
    | with_reducible apply canon_foldl_x
    | with_reducible apply canon_foldl_run_fst
    | with_reducible apply canon_ite
    | with_reducible apply canon_ite_s
    | with_reducible apply canon_ite_fst
    | with_reducible apply canon_ite_fst_s
    | simp only [canon_mk_iff]
    | split
    | intro _

theorem canon_stepCommand {kw kt kr ks kp kv xn xc} {s : Chip} {id : Nat} {n : Nat} {i : Nat} {c : Command} {o :
    Origin} (h_s : s.Canon kw kt kr ks none kp kv ⟨none, none, none, none, none, xn, xc⟩) : (stepCommand s id n i c
    o).Canon kw kt kr ks none kp kv ⟨none, none, none, none, none, xn, xc⟩ := by
  unfold stepCommand
  try dsimp only
  repeat' first
    | with_reducible assumption
    | with_reducible apply canon_takeCommand
    | with_reducible apply canon_faultSl
    | with_reducible apply canon_ite
    | with_reducible apply canon_ite_s
    | with_reducible apply canon_ite_fst
    | with_reducible apply canon_ite_fst_s
    | simp only [canon_mk_iff]
    | split
    | intro _

theorem canon_startProgram {kw kt kr ks kp kv xn xc} {s : Chip} {p : Nat} {st : StepRun} {l : List Command} (h_s :
    s.Canon kw kt kr ks none kp kv ⟨none, none, none, none, none, xn, xc⟩) : (startProgram s p st l).Canon kw kt kr ks
    none kp kv ⟨none, none, none, none, none, xn, xc⟩ := by
  unfold startProgram
  try dsimp only
  repeat' first
    | with_reducible assumption
    | with_reducible apply canon_recount
    | with_reducible apply canon_startSwitch
    | with_reducible apply canon_stepCommand
    | with_reducible apply canon_foldl
    | with_reducible apply canon_foldl_fst
    | with_reducible apply canon_foldl_rd
    | with_reducible apply canon_foldl_rd_fst
    | with_reducible apply canon_foldl_x
    | with_reducible apply canon_foldl_run_fst
    | with_reducible apply canon_ite
    | with_reducible apply canon_ite_s
    | with_reducible apply canon_ite_fst
    | with_reducible apply canon_ite_fst_s
    | simp only [canon_mkq_iff]
    | split
    | intro _

theorem canon_Rd_enterStep {kw kt kr ks km kp kv xb xq xm xh xn xc} {x : Rd} {p : Nat} {w : Walk} {e : Placed} (h_x :
    x.s.Canon kw kt kr ks km kp kv ⟨xb, xq, none, xm, xh, xn, xc⟩) : (Rd.enterStep x p w e).s.Canon kw kt kr ks km kp
    kv ⟨xb, xq, none, xm, xh, xn, xc⟩ := by
  unfold Rd.enterStep
  try dsimp only
  repeat' first
    | with_reducible assumption
    | with_reducible apply canon_Rd_onSlot
    | with_reducible apply canon_Rd_toState
    | with_reducible apply canon_ite
    | with_reducible apply canon_ite_s
    | with_reducible apply canon_ite_fst
    | with_reducible apply canon_ite_fst_s
    | simp only [canon_mk_iff]
    | split
    | intro _

theorem canon_Rd_failStep {kw kt kr ks xn xc} {x : Rd} {p : Nat} {st : StepRun} {code : Nat} {a : Option Nat} (h_x :
    x.s.Canon kw kt kr ks none none none ⟨none, none, none, none, none, xn, xc⟩) : (Rd.failStep x p st code a).s.Canon
    kw kt kr ks none none none ⟨none, none, none, none, none, xn, xc⟩ := by
  unfold Rd.failStep
  try dsimp only
  repeat' first
    | with_reducible assumption
    | with_reducible apply canon_faultPad
    | with_reducible apply canon_faultSl
    | with_reducible apply canon_Rd_abandonStep
    | with_reducible apply canon_ite
    | with_reducible apply canon_ite_s
    | with_reducible apply canon_ite_fst
    | with_reducible apply canon_ite_fst_s
    | simp only [canon_mk_iff]
    | split
    | intro _

theorem canon_Rd_catch {kw kt kr ks xn xc} {x : Rd} {p : Nat} {b : Batch} (h_x : x.s.Canon kw kt kr ks none none none
    ⟨none, none, none, none, none, xn, xc⟩) : (Rd.catch x p b).s.Canon kw kt kr ks none none none ⟨none, none, none,
    none, none, xn, xc⟩ := by
  unfold Rd.catch
  try dsimp only
  repeat' first
    | with_reducible assumption
    | with_reducible apply canon_Rd_count
    | with_reducible apply canon_stormReset
    | with_reducible apply canon_Rd_begin
    | with_reducible apply canon_Rd_walk
    | with_reducible apply canon_setServe
    | with_reducible apply canon_Rd_putArea
    | with_reducible apply canon_Rd_program
    | with_reducible apply canon_startProgram
    | with_reducible apply canon_Rd_enterStep
    | with_reducible apply canon_Rd_failStep
    | with_reducible apply canon_foldl
    | with_reducible apply canon_foldl_fst
    | with_reducible apply canon_foldl_rd
    | with_reducible apply canon_foldl_rd_fst
    | with_reducible apply canon_foldl_x
    | with_reducible apply canon_foldl_run_fst
    | with_reducible apply canon_ite
    | with_reducible apply canon_ite_s
    | with_reducible apply canon_ite_fst
    | with_reducible apply canon_ite_fst_s
    | simp only [canon_mk_iff]
    | split
    | intro _

theorem canon_catchWork {kw kt kr ks xn xc} {p : Nat} {x : Rd} (h_x : x.s.Canon kw kt kr ks none none none ⟨none,
    none, none, none, none, xn, xc⟩) : (catchWork p x).s.Canon kw kt kr ks none none none ⟨none, none, none, none,
    none, xn, xc⟩ := by
  unfold catchWork
  try dsimp only
  repeat' first
    | with_reducible assumption
    | with_reducible apply canon_Rd_catch
    | with_reducible apply canon_ite
    | with_reducible apply canon_ite_s
    | with_reducible apply canon_ite_fst
    | with_reducible apply canon_ite_fst_s
    | simp only [canon_mk_iff]
    | split
    | intro _

theorem canon_catchStep {kw kt kr ks xn xc} {s : Chip} {p : Nat} (h_s : s.Canon kw kt kr ks none none none ⟨none,
    none, none, none, none, xn, xc⟩) : (catchStep s p).Canon kw kt kr ks none none none ⟨none, none, none, none, none,
    xn, xc⟩ := by
  unfold catchStep
  try dsimp only
  repeat' first
    | with_reducible assumption
    | with_reducible apply canon_regionCall
    | with_reducible apply canon_slRun
    | with_reducible apply canon_catchWork
    | with_reducible apply canon_ite
    | with_reducible apply canon_ite_s
    | with_reducible apply canon_ite_fst
    | with_reducible apply canon_ite_fst_s
    | simp only [canon_mk_iff]
    | split
    | intro _

theorem canon_drawNoise {kw kt kr ks km kp kv xb xq xm xn xc} {s : Chip} {o : Origin} {blk : Fin 256} {b : Body} {st :
    StepRun} {key : Nat} {count : Nat} (h_s : s.Canon kw kt kr ks km kp kv ⟨xb, xq, none, xm, none, xn, xc⟩) :
    (drawNoise s o blk b st key count).Canon kw kt kr ks km kp kv ⟨xb, xq, none, xm, none, xn, xc⟩ := by
  unfold drawNoise
  try dsimp only
  repeat' first
    | with_reducible assumption
    | with_reducible apply canon_bump
    | with_reducible apply canon_Rd_count
    | with_reducible apply canon_countFmt
    | with_reducible apply canon_claimStream
    | with_reducible apply canon_setServe
    | with_reducible apply canon_ite
    | with_reducible apply canon_ite_s
    | with_reducible apply canon_ite_fst
    | with_reducible apply canon_ite_fst_s
    | simp only [canon_mk_iff]
    | split
    | intro _

theorem canon_sampleOne {kw kt kr ks kv xn xc} {x : Rd} {o : Origin} {blk : Fin 256} {b : Body} {st : StepRun} {i :
    Nat} (h_x : x.s.Canon kw kt kr ks none none kv ⟨none, none, none, none, none, xn, xc⟩) : (sampleOne x o blk b st
    i).1.s.Canon kw kt kr ks none none kv ⟨none, none, none, none, none, xn, xc⟩ := by
  unfold sampleOne
  try dsimp only
  repeat' first
    | with_reducible assumption
    | with_reducible apply canon_draw
    | with_reducible apply canon_Rd_count
    | with_reducible apply canon_Rd_taint
    | with_reducible apply canon_Rd_note
    | with_reducible apply canon_Rd_read
    | with_reducible apply canon_Rd_put
    | with_reducible apply canon_Rd_dev
    | with_reducible apply canon_EditEnv_put
    | with_reducible apply canon_AttendRun_read
    | with_reducible apply canon_drawNoise
    | with_reducible apply canon_ite
    | with_reducible apply canon_ite_s
    | with_reducible apply canon_ite_fst
    | with_reducible apply canon_ite_fst_s
    | simp only [canon_mk_iff]
    | split
    | intro _

theorem canon_sampleWork {kw kt kr ks kv xn xc} {s : Chip} {o : Origin} {blk : Fin 256} {b : Body} {st : StepRun} (h_s
    : s.Canon kw kt kr ks none none kv ⟨none, none, none, none, none, xn, xc⟩) : (sampleWork s o blk b st).1.s.Canon
    kw kt kr ks none none kv ⟨none, none, none, none, none, xn, xc⟩ := by
  unfold sampleWork
  try dsimp only
  repeat' first
    | with_reducible assumption
    | with_reducible apply canon_startRd
    | with_reducible apply canon_sampleOne
    | with_reducible apply canon_foldl
    | with_reducible apply canon_foldl_fst
    | with_reducible apply canon_foldl_rd
    | with_reducible apply canon_foldl_rd_fst
    | with_reducible apply canon_foldl_x
    | with_reducible apply canon_foldl_run_fst
    | with_reducible apply canon_ite
    | with_reducible apply canon_ite_s
    | with_reducible apply canon_ite_fst
    | with_reducible apply canon_ite_fst_s
    | simp only [canon_mk_iff]
    | split
    | intro _

theorem canon_sampleEnd {kw kt kr ks kp kv xn xc} {r : Rd × Nat} {s : Chip} {o : Origin} {blk : Fin 256} {b : Body}
    (h_r : r.1.s.Canon kw kt kr ks none kp kv ⟨none, none, none, none, none, xn, xc⟩) (h_s : s.Canon kw kt kr ks none
    kp kv ⟨none, none, none, none, none, xn, xc⟩) : (sampleEnd r s o blk b).Canon kw kt kr ks none kp kv ⟨none, none,
    none, none, none, xn, xc⟩ := by
  unfold sampleEnd
  try dsimp only
  repeat' first
    | with_reducible assumption
    | with_reducible apply canon_closeRd
    | with_reducible apply canon_burnDone
    | with_reducible apply canon_Rd_settle
    | with_reducible apply canon_ite
    | with_reducible apply canon_ite_s
    | with_reducible apply canon_ite_fst
    | with_reducible apply canon_ite_fst_s
    | simp only [canon_mk_iff]
    | split
    | intro _

theorem canon_serveSample {kw kt kr ks kv xn xc} {s : Chip} {o : Origin} {blk : Fin 256} {b : Body} (h_s : s.Canon kw
    kt kr ks none none kv ⟨none, none, none, none, none, xn, xc⟩) : (serveSample s o blk b).Canon kw kt kr ks none
    none kv ⟨none, none, none, none, none, xn, xc⟩ := by
  unfold serveSample
  try dsimp only
  repeat' first
    | with_reducible assumption
    | with_reducible apply canon_faultQueue
    | with_reducible apply canon_burnDone
    | with_reducible apply canon_faultSl
    | with_reducible apply canon_sampleWork
    | with_reducible apply canon_sampleEnd
    | with_reducible apply canon_ite
    | with_reducible apply canon_ite_s
    | with_reducible apply canon_ite_fst
    | with_reducible apply canon_ite_fst_s
    | simp only [canon_mk_iff]
    | split
    | intro _

end Sys2Proof.Machine
end

