-- ==== Sys2Proof/Laws/CanonSkive.lean ====
section
/-! SUPPORT. The operations of Machine/Skive.lean keep the canonical form. -/
set_option linter.all false
namespace Sys2Proof.Machine

theorem canon_faultSkive {kw kt kr ks kp kv xn xc} {s : Chip} {o : Origin} {code : Nat} {a : Option Nat} (h_s :
    s.Canon kw kt kr ks none kp kv ⟨none, none, none, none, none, xn, xc⟩) : (faultSkive s o code a).Canon kw kt kr ks
    none kp kv ⟨none, none, none, none, none, xn, xc⟩ := by
  unfold faultSkive
  try dsimp only
  repeat' first
    | with_reducible assumption
    | with_reducible apply canon_faultJob
    | with_reducible apply canon_faultQueue
    | with_reducible apply canon_faultMem
    | with_reducible apply canon_faultPad
    | with_reducible apply canon_ite
    | with_reducible apply canon_ite_s
    | with_reducible apply canon_ite_fst
    | with_reducible apply canon_ite_fst_s
    | simp only [canon_mk_iff]
    | split
    | intro _

theorem canon_countSkive {kw kt kr ks km kp kv kx} {s : Chip} {r : Nat} {code : Nat} {n : Nat} (h_s : s.Canon kw kt kr
    ks km kp kv kx) : (countSkive s r code n).Canon kw kt kr ks km kp kv kx := by
  unfold countSkive
  try dsimp only
  repeat' first
    | with_reducible assumption
    | with_reducible apply canon_bump
    | with_reducible apply canon_ite
    | with_reducible apply canon_ite_s
    | with_reducible apply canon_ite_fst
    | with_reducible apply canon_ite_fst_s
    | simp only [canon_mk_iff]
    | split
    | intro _

theorem canon_skiveError {kw kt kr ks km kp kv xb xq xl xm xn xc} {s : Chip} {r : Nat} {x : BufferError} (h_s :
    s.Canon kw kt kr ks km kp kv ⟨xb, xq, xl, xm, none, xn, xc⟩) : (skiveError s r x).Canon kw kt kr ks km kp kv ⟨xb,
    xq, xl, xm, none, xn, xc⟩ := by
  unfold skiveError
  try dsimp only
  repeat' first
    | with_reducible assumption
    | with_reducible apply canon_bump
    | with_reducible apply canon_bufferError

theorem canon_skiveMeets {kw kt kr ks km kp kv xb xq xl xm xn xc} {s : Chip} {r : Nat} {met : List BufferError} (h_s :
    s.Canon kw kt kr ks km kp kv ⟨xb, xq, xl, xm, none, xn, xc⟩) : (skiveMeets s r met).1.Canon kw kt kr ks km kp kv
    ⟨xb, xq, xl, xm, none, xn, xc⟩ := by
  unfold skiveMeets
  try dsimp only
  repeat' first
    | with_reducible assumption
    | with_reducible apply canon_bufferMeets
    | with_reducible apply canon_skiveError
    | with_reducible apply canon_ite
    | with_reducible apply canon_ite_s
    | with_reducible apply canon_ite_fst
    | with_reducible apply canon_ite_fst_s
    | simp only [canon_mk_iff]
    | split
    | intro _

theorem canon_skiveStart {kw kt kr ks km kp kv xb xq xl xm xn xc} {s : Chip} {o : Origin} {met : List BufferError}
    (h_s : s.Canon kw kt kr ks km kp kv ⟨xb, xq, xl, xm, none, xn, xc⟩) : (skiveStart s o met).1.s.Canon kw kt kr ks
    km kp kv ⟨xb, xq, xl, xm, none, xn, xc⟩ := by
  unfold skiveStart
  try dsimp only
  repeat' first
    | with_reducible assumption
    | with_reducible apply canon_startRd
    | with_reducible apply canon_skiveMeets

theorem canon_skiveCounted {kw kt kr ks km kp kv xb xl xn xc} {x : Rd} {s₀ : Chip} {o : Origin} (h_x : x.s.Canon kw kt
    kr ks km kp kv ⟨xb, none, xl, none, none, xn, xc⟩) (h_s₀ : s₀.Canon kw kt kr ks km kp kv ⟨xb, none, xl, none,
    none, xn, xc⟩) : (skiveCounted x s₀ o).Canon kw kt kr ks km kp kv ⟨xb, none, xl, none, none, xn, xc⟩ := by
  unfold skiveCounted
  try dsimp only
  repeat' first
    | with_reducible assumption
    | with_reducible apply canon_markPoisoned
    | with_reducible apply canon_Rd_settle
    | with_reducible apply canon_countSkive
    | with_reducible apply canon_foldl
    | with_reducible apply canon_foldl_fst
    | with_reducible apply canon_foldl_rd
    | with_reducible apply canon_foldl_rd_fst
    | with_reducible apply canon_foldl_x
    | with_reducible apply canon_foldl_run_fst
    | with_reducible apply canon_ite
    | with_reducible apply canon_ite_s
    | with_reducible apply canon_ite_fst
    | with_reducible apply canon_ite_fst_s
    | simp only [canon_mk_iff]
    | split
    | intro _

theorem canon_skiveOver {kw kt kr ks km kp kv xb xl xm xh xn xc} {s : Chip} {o : Origin} {op : Nat} {b : Body} {n :
    Nat} (h_s : s.Canon kw kt kr ks km kp kv ⟨xb, none, xl, xm, xh, xn, xc⟩) : (skiveOver s o op b n).Canon kw kt kr
    ks km kp kv ⟨xb, none, xl, xm, xh, xn, xc⟩ := by
  unfold skiveOver
  try dsimp only
  repeat' first
    | with_reducible assumption
    | with_reducible apply canon_bump64
    | with_reducible apply canon_draw
    | with_reducible apply canon_finish
    | with_reducible apply canon_charge

theorem canon_skiveClose {kw kt kr ks kp kv xn xc} {x : Rd} {s₀ : Chip} {o : Origin} {op : Nat} {b : Body} {n : Nat}
    (h_x : x.s.Canon kw kt kr ks none kp kv ⟨none, none, none, none, none, xn, xc⟩) (h_s₀ : s₀.Canon kw kt kr ks none
    kp kv ⟨none, none, none, none, none, xn, xc⟩) : (skiveClose x s₀ o op b n).Canon kw kt kr ks none kp kv ⟨none,
    none, none, none, none, xn, xc⟩ := by
  unfold skiveClose
  try dsimp only
  repeat' first
    | with_reducible assumption
    | with_reducible apply canon_Rd_settle
    | with_reducible apply canon_faultSkive
    | with_reducible apply canon_skiveCounted
    | with_reducible apply canon_skiveOver
    | with_reducible apply canon_ite
    | with_reducible apply canon_ite_s
    | with_reducible apply canon_ite_fst
    | with_reducible apply canon_ite_fst_s
    | simp only [canon_mk_iff]
    | split
    | intro _

theorem canon_Rd_from {kw kt kr ks kv xn xc} {x : Rd} {o : Origin} {space : Nat} {a : Nat} {n : Nat} (h_x : x.s.Canon
    kw kt kr ks none none kv ⟨none, none, none, none, none, xn, xc⟩) : (Rd.from x o space a n).1.s.Canon kw kt kr ks
    none none kv ⟨none, none, none, none, none, xn, xc⟩ := by
  unfold Rd.from
  try dsimp only
  repeat' first
    | with_reducible assumption
    | with_reducible apply canon_Rd_read
    | with_reducible apply canon_Rd_dev
    | with_reducible apply canon_AttendRun_read
    | with_reducible apply canon_ite
    | with_reducible apply canon_ite_s
    | with_reducible apply canon_ite_fst
    | with_reducible apply canon_ite_fst_s
    | simp only [canon_mk_iff]
    | split
    | intro _

theorem canon_Rd_fromFree {kw kt kr ks kv xn xc} {x : Rd} {o : Origin} {space : Nat} {a : Nat} {n : Nat} (h_x :
    x.s.Canon kw kt kr ks none none kv ⟨none, none, none, none, none, xn, xc⟩) : (Rd.fromFree x o space a n).1.s.Canon
    kw kt kr ks none none kv ⟨none, none, none, none, none, xn, xc⟩ := by
  unfold Rd.fromFree
  try dsimp only
  repeat' first
    | with_reducible assumption
    | with_reducible apply canon_Rd_devFree
    | with_reducible apply canon_Rd_padFree
    | with_reducible apply canon_ite
    | with_reducible apply canon_ite_s
    | with_reducible apply canon_ite_fst
    | with_reducible apply canon_ite_fst_s
    | simp only [canon_mk_iff]
    | split
    | intro _

theorem canon_Rd_intoMarked {kw kt kr ks kv xn xc} {x : Rd} {o : Origin} {space : Nat} {a : Nat} {l : List Byte}
    {marks : List (Nat × Nat)} (h_x : x.s.Canon kw kt kr ks none none kv ⟨none, none, none, none, none, xn, xc⟩) :
    (Rd.intoMarked x o space a l marks).s.Canon kw kt kr ks none none kv ⟨none, none, none, none, none, xn, xc⟩ := by
  unfold Rd.intoMarked
  try dsimp only
  repeat' first
    | with_reducible assumption
    | with_reducible apply canon_Rd_putMarked
    | with_reducible apply canon_Rd_plainMarked
    | with_reducible apply canon_ite
    | with_reducible apply canon_ite_s
    | with_reducible apply canon_ite_fst
    | with_reducible apply canon_ite_fst_s
    | simp only [canon_mk_iff]
    | split
    | intro _

theorem canon_Rd_into {kw kt kr ks kv xn xc} {x : Rd} {o : Origin} {space : Nat} {a : Nat} {l : List Byte} {bad :
    Bool} (h_x : x.s.Canon kw kt kr ks none none kv ⟨none, none, none, none, none, xn, xc⟩) : (Rd.into x o space a l
    bad).s.Canon kw kt kr ks none none kv ⟨none, none, none, none, none, xn, xc⟩ := by
  unfold Rd.into
  try dsimp only
  repeat' first
    | with_reducible assumption
    | with_reducible apply canon_Rd_intoMarked

theorem canon_Rd_blocks {kw kt kr ks kv xn xc} {x : Rd} {o : Origin} {space : Nat} {a : Nat} {len : Nat} (h_x :
    x.s.Canon kw kt kr ks none none kv ⟨none, none, none, none, none, xn, xc⟩) : (Rd.blocks x o space a len).1.s.Canon
    kw kt kr ks none none kv ⟨none, none, none, none, none, xn, xc⟩ := by
  unfold Rd.blocks
  try dsimp only
  repeat' first
    | with_reducible assumption
    | with_reducible apply canon_Rd_from
    | with_reducible apply canon_foldl
    | with_reducible apply canon_foldl_fst
    | with_reducible apply canon_foldl_rd
    | with_reducible apply canon_foldl_rd_fst
    | with_reducible apply canon_foldl_x
    | with_reducible apply canon_foldl_run_fst
    | with_reducible apply canon_ite
    | with_reducible apply canon_ite_s
    | with_reducible apply canon_ite_fst
    | with_reducible apply canon_ite_fst_s
    | simp only [canon_mk_iff]
    | split
    | intro _

theorem canon_compressTable {kw kt kr ks xn xc} {x : Rd} {o : Origin} {b : Body} (h_x : x.s.Canon kw kt kr ks none
    none none ⟨none, none, none, none, none, xn, xc⟩) : (compressTable x o b).1.s.Canon kw kt kr ks none none none
    ⟨none, none, none, none, none, xn, xc⟩ := by
  unfold compressTable
  try dsimp only
  repeat' first
    | with_reducible assumption
    | with_reducible apply canon_Rd_stop
    | with_reducible apply canon_Rd_drop
    | with_reducible apply canon_EditEnv_drop
    | with_reducible apply canon_Rd_fromFree
    | with_reducible apply canon_Rd_blocks
    | with_reducible apply canon_ite
    | with_reducible apply canon_ite_s
    | with_reducible apply canon_ite_fst
    | with_reducible apply canon_ite_fst_s
    | simp only [canon_mk_iff]
    | split
    | intro _

theorem canon_compressStore {kw kt kr ks kv xn xc} {x : Rd} {o : Origin} {b : Body} {t : List Nat} {bad : Bool} {head
    : Bool} {l : List (List Byte × Bool)} (h_x : x.s.Canon kw kt kr ks none none kv ⟨none, none, none, none, none, xn,
    xc⟩) : (compressStore x o b t bad head l).s.Canon kw kt kr ks none none kv ⟨none, none, none, none, none, xn, xc⟩
    := by
  unfold compressStore
  try dsimp only
  repeat' first
    | with_reducible assumption
    | with_reducible apply canon_bump64
    | with_reducible apply canon_Rd_count
    | with_reducible apply canon_Rd_intoMarked
    | with_reducible apply canon_Rd_into
    | with_reducible apply canon_ite
    | with_reducible apply canon_ite_s
    | with_reducible apply canon_ite_fst
    | with_reducible apply canon_ite_fst_s
    | simp only [canon_mk_iff]
    | split
    | intro _

theorem canon_compressWork {kw kt kr ks xn xc} {s : Chip} {o : Origin} {b : Body} {met : List BufferError} (h_s :
    s.Canon kw kt kr ks none none none ⟨none, none, none, none, none, xn, xc⟩) : (compressWork s o b met).1.s.Canon kw
    kt kr ks none none none ⟨none, none, none, none, none, xn, xc⟩ := by
  unfold compressWork
  try dsimp only
  repeat' first
    | with_reducible assumption
    | with_reducible apply canon_Rd_stop
    | with_reducible apply canon_skiveStart
    | with_reducible apply canon_Rd_blocks
    | with_reducible apply canon_compressTable
    | with_reducible apply canon_compressStore
    | with_reducible apply canon_ite
    | with_reducible apply canon_ite_s
    | with_reducible apply canon_ite_fst
    | with_reducible apply canon_ite_fst_s
    | simp only [canon_mk_iff]
    | split
    | intro _

theorem canon_skvCompress {kw kt kr ks xn xc} {s : Chip} {o : Origin} {b : Body} {met : List BufferError} (h_s :
    s.Canon kw kt kr ks none none none ⟨none, none, none, none, none, xn, xc⟩) : (skvCompress s o b met).Canon kw kt
    kr ks none none none ⟨none, none, none, none, none, xn, xc⟩ := by
  unfold skvCompress
  try dsimp only
  repeat' first
    | with_reducible assumption
    | with_reducible apply canon_skiveClose
    | with_reducible apply canon_compressWork

theorem canon_Rd_entry {kw kt kr ks kv xn xc} {x : Rd} {o : Origin} {v : Stream} {k : Nat} (h_x : x.s.Canon kw kt kr
    ks none none kv ⟨none, none, none, none, none, xn, xc⟩) : (Rd.entry x o v k).1.s.Canon kw kt kr ks none none kv
    ⟨none, none, none, none, none, xn, xc⟩ := by
  unfold Rd.entry
  try dsimp only
  repeat' first
    | with_reducible assumption
    | with_reducible apply canon_Rd_fromFree

theorem canon_Rd_decodeBlock {kw kt kr ks kv xn xc} {x : Rd} {o : Origin} {v : Stream} {k : Nat} (h_x : x.s.Canon kw
    kt kr ks none none kv ⟨none, none, none, none, none, xn, xc⟩) : (Rd.decodeBlock x o v k).1.s.Canon kw kt kr ks
    none none kv ⟨none, none, none, none, none, xn, xc⟩ := by
  unfold Rd.decodeBlock
  try dsimp only
  repeat' first
    | with_reducible assumption
    | with_reducible apply canon_Rd_from
    | with_reducible apply canon_Rd_entry
    | with_reducible apply canon_ite
    | with_reducible apply canon_ite_s
    | with_reducible apply canon_ite_fst
    | with_reducible apply canon_ite_fst_s
    | simp only [canon_mk_iff]
    | split
    | intro _

theorem canon_Rd_decodeAll {kw kt kr ks kv xn xc} {o : Origin} {v : Stream} {space : Nat} {strict : Bool} {ue : Bool}
    {z0 : Nat} {z1 : Nat} {z2 : Nat} {z3 : Nat} {z4 : Rd} (h_z4 : z4.s.Canon kw kt kr ks none none kv ⟨none, none,
    none, none, none, xn, xc⟩) : (Rd.decodeAll o v space strict ue z0 z1 z2 z3 z4).1.s.Canon kw kt kr ks none none kv
    ⟨none, none, none, none, none, xn, xc⟩ := by
  induction z0 generalizing o v space strict ue z1 z2 z3 z4 with
  | zero =>
      unfold Rd.decodeAll
      try dsimp only
      repeat' first
        | with_reducible assumption
  | succ k ih =>
      unfold Rd.decodeAll
      try dsimp only
      repeat' first
        | with_reducible assumption
        | with_reducible apply ih
        | with_reducible apply canon_Rd_stop
        | with_reducible apply canon_Rd_count
        | with_reducible apply canon_Rd_into
        | with_reducible apply canon_Rd_decodeBlock
        | with_reducible apply canon_ite
        | with_reducible apply canon_ite_s
        | with_reducible apply canon_ite_fst
        | with_reducible apply canon_ite_fst_s
        | simp only [canon_mk_iff]
        | split
        | intro _

theorem canon_decodeWork {kw kt kr ks xn xc} {s : Chip} {o : Origin} {b : Body} {met : List BufferError} (h_s :
    s.Canon kw kt kr ks none none none ⟨none, none, none, none, none, xn, xc⟩) : (decodeWork s o b met).1.s.Canon kw
    kt kr ks none none none ⟨none, none, none, none, none, xn, xc⟩ := by
  unfold decodeWork
  try dsimp only
  repeat' first
    | with_reducible assumption
    | with_reducible apply canon_Rd_stop
    | with_reducible apply canon_Rd_drop
    | with_reducible apply canon_EditEnv_drop
    | with_reducible apply canon_skiveStart
    | with_reducible apply canon_Rd_fromFree
    | with_reducible apply canon_Rd_entry
    | with_reducible apply canon_Rd_decodeAll
    | with_reducible apply canon_foldl
    | with_reducible apply canon_foldl_fst
    | with_reducible apply canon_foldl_rd
    | with_reducible apply canon_foldl_rd_fst
    | with_reducible apply canon_foldl_x
    | with_reducible apply canon_foldl_run_fst
    | with_reducible apply canon_ite
    | with_reducible apply canon_ite_s
    | with_reducible apply canon_ite_fst
    | with_reducible apply canon_ite_fst_s
    | simp only [canon_mk_iff]
    | split
    | intro _

theorem canon_skvDecode {kw kt kr ks xn xc} {s : Chip} {o : Origin} {b : Body} {met : List BufferError} (h_s : s.Canon
    kw kt kr ks none none none ⟨none, none, none, none, none, xn, xc⟩) : (skvDecode s o b met).Canon kw kt kr ks none
    none none ⟨none, none, none, none, none, xn, xc⟩ := by
  unfold skvDecode
  try dsimp only
  repeat' first
    | with_reducible assumption
    | with_reducible apply canon_skiveClose
    | with_reducible apply canon_decodeWork

theorem canon_Rd_stage {kw kt kr ks kv xn xc} {x : Rd} {o : Origin} {src : Nat} {dst : Nat} {n : Nat} {ue : Bool} (h_x
    : x.s.Canon kw kt kr ks none none kv ⟨none, none, none, none, none, xn, xc⟩) : (Rd.stage x o src dst n ue).s.Canon
    kw kt kr ks none none kv ⟨none, none, none, none, none, xn, xc⟩ := by
  unfold Rd.stage
  try dsimp only
  repeat' first
    | with_reducible assumption
    | with_reducible apply canon_Rd_putMarked
    | with_reducible apply canon_Rd_dev
    | with_reducible apply canon_ite
    | with_reducible apply canon_ite_s
    | with_reducible apply canon_ite_fst
    | with_reducible apply canon_ite_fst_s
    | simp only [canon_mk_iff]
    | split
    | intro _

theorem canon_Rd_stageAll {kw kt kr ks kv xn xc} {o : Origin} {b : Body} {ue : Bool} {z0 : Nat} {z1 : Nat} {z2 : Nat}
    {z3 : Nat} {z4 : Rd} (h_z4 : z4.s.Canon kw kt kr ks none none kv ⟨none, none, none, none, none, xn, xc⟩) :
    (Rd.stageAll o b ue z0 z1 z2 z3 z4).1.s.Canon kw kt kr ks none none kv ⟨none, none, none, none, none, xn, xc⟩ :=
    by
  induction z0 generalizing o b ue z1 z2 z3 z4 with
  | zero =>
      unfold Rd.stageAll
      try dsimp only
      repeat' first
        | with_reducible assumption
  | succ k ih =>
      unfold Rd.stageAll
      try dsimp only
      repeat' first
        | with_reducible assumption
        | with_reducible apply ih
        | with_reducible apply canon_Rd_stop
        | with_reducible apply canon_Rd_put
        | with_reducible apply canon_Rd_desc
        | with_reducible apply canon_Rd_devFree
        | with_reducible apply canon_EditEnv_put
        | with_reducible apply canon_Rd_stage
        | with_reducible apply canon_ite
        | with_reducible apply canon_ite_s
        | with_reducible apply canon_ite_fst
        | with_reducible apply canon_ite_fst_s
        | simp only [canon_mk_iff]
        | split
        | intro _

theorem canon_stageWork {kw kt kr ks kv xn xc} {s : Chip} {o : Origin} {b : Body} {met : List BufferError} (h_s :
    s.Canon kw kt kr ks none none kv ⟨none, none, none, none, none, xn, xc⟩) : (stageWork s o b met).1.s.Canon kw kt
    kr ks none none kv ⟨none, none, none, none, none, xn, xc⟩ := by
  unfold stageWork
  try dsimp only
  repeat' first
    | with_reducible assumption
    | with_reducible apply canon_Rd_stop
    | with_reducible apply canon_Rd_devFree
    | with_reducible apply canon_skiveStart
    | with_reducible apply canon_Rd_stageAll
    | with_reducible apply canon_ite
    | with_reducible apply canon_ite_s
    | with_reducible apply canon_ite_fst
    | with_reducible apply canon_ite_fst_s
    | simp only [canon_mk_iff]
    | split
    | intro _

theorem canon_skvStage {kw kt kr ks kv xn xc} {s : Chip} {o : Origin} {b : Body} {met : List BufferError} (h_s :
    s.Canon kw kt kr ks none none kv ⟨none, none, none, none, none, xn, xc⟩) : (skvStage s o b met).Canon kw kt kr ks
    none none kv ⟨none, none, none, none, none, xn, xc⟩ := by
  unfold skvStage
  try dsimp only
  repeat' first
    | with_reducible assumption
    | with_reducible apply canon_skiveClose
    | with_reducible apply canon_stageWork

theorem canon_frameUnit {kw kt kr ks km kp kv kx} {c : SlotCtx} {ch : Nat} {unit : Nat} {k : Rd × Option KvCtx} (h_k :
    k.1.s.Canon kw kt kr ks km kp kv kx) : (frameUnit c ch unit k).1.s.Canon kw kt kr ks km kp kv kx := by
  unfold frameUnit
  try dsimp only
  repeat' first
    | with_reducible assumption
    | with_reducible apply canon_Rd_unit
    | with_reducible apply canon_ite
    | with_reducible apply canon_ite_s
    | with_reducible apply canon_ite_fst
    | with_reducible apply canon_ite_fst_s
    | simp only [canon_mk_iff]
    | split
    | intro _

theorem canon_Rd_channel {kw kt kr ks kp kv xb xq xl xm xn xc} {x : Rd} {p : Nat} {r : Nat} {ch : Nat} {unit : Nat}
    (h_x : x.s.Canon kw kt kr ks none kp kv ⟨xb, xq, xl, xm, none, xn, xc⟩) : (Rd.channel x p r ch unit).1.s.Canon kw
    kt kr ks none kp kv ⟨xb, xq, xl, xm, none, xn, xc⟩ := by
  unfold Rd.channel
  try dsimp only
  repeat' first
    | with_reducible assumption
    | with_reducible apply canon_Rd_unit
    | with_reducible apply canon_Rd_ctx
    | with_reducible apply canon_frameUnit
    | with_reducible apply canon_ite
    | with_reducible apply canon_ite_s
    | with_reducible apply canon_ite_fst
    | with_reducible apply canon_ite_fst_s
    | simp only [canon_mk_iff]
    | split
    | intro _

theorem canon_unitClose {kw kt kr ks km kp kv xb xq xl xn xc} {x : Rd} {s₀ : Chip} {p : Nat} (h_x : x.s.Canon kw kt kr
    ks km kp kv ⟨xb, xq, xl, none, none, xn, xc⟩) (h_s₀ : s₀.Canon kw kt kr ks km kp kv ⟨xb, xq, xl, none, none, xn,
    xc⟩) : (unitClose x s₀ p).Canon kw kt kr ks km kp kv ⟨xb, xq, xl, none, none, xn, xc⟩ := by
  unfold unitClose
  try dsimp only
  repeat' first
    | with_reducible assumption
    | with_reducible apply canon_refuseAccess
    | with_reducible apply canon_Rd_settle
    | with_reducible apply canon_ite
    | with_reducible apply canon_ite_s
    | with_reducible apply canon_ite_fst
    | with_reducible apply canon_ite_fst_s
    | simp only [canon_mk_iff]
    | split
    | intro _

theorem canon_slotUnitWrite {kw kt kr ks kp kv xb xq xl xn xc} {s : Chip} {p : Nat} {r : Nat} {ch : Nat} {unit : Nat}
    {l : List Byte} {met : List BufferError} (h_s : s.Canon kw kt kr ks none kp kv ⟨xb, xq, xl, none, none, xn, xc⟩) :
    (slotUnitWrite s p r ch unit l met).Canon kw kt kr ks none kp kv ⟨xb, xq, xl, none, none, xn, xc⟩ := by
  unfold slotUnitWrite
  try dsimp only
  repeat' first
    | with_reducible assumption
    | with_reducible apply canon_countUnit
    | with_reducible apply canon_startRd
    | with_reducible apply canon_Rd_unit
    | with_reducible apply canon_Rd_putUnit
    | with_reducible apply canon_skiveMeets
    | with_reducible apply canon_Rd_channel
    | with_reducible apply canon_unitClose
    | with_reducible apply canon_ite
    | with_reducible apply canon_ite_s
    | with_reducible apply canon_ite_fst
    | with_reducible apply canon_ite_fst_s
    | simp only [canon_mk_iff]
    | split
    | intro _

theorem canon_slotUnitRead {kw kt kr ks kp kv xb xq xl xn xc} {s : Chip} {p : Nat} {r : Nat} {ch : Nat} {unit : Nat}
    {met : List BufferError} (h_s : s.Canon kw kt kr ks none kp kv ⟨xb, xq, xl, none, none, xn, xc⟩) : (slotUnitRead s
    p r ch unit met).Canon kw kt kr ks none kp kv ⟨xb, xq, xl, none, none, xn, xc⟩ := by
  unfold slotUnitRead
  try dsimp only
  repeat' first
    | with_reducible assumption
    | with_reducible apply canon_startRd
    | with_reducible apply canon_Rd_dev
    | with_reducible apply canon_Rd_unit
    | with_reducible apply canon_skiveMeets
    | with_reducible apply canon_Rd_channel
    | with_reducible apply canon_unitClose
    | with_reducible apply canon_ite
    | with_reducible apply canon_ite_s
    | with_reducible apply canon_ite_fst
    | with_reducible apply canon_ite_fst_s
    | simp only [canon_mk_iff]
    | split
    | intro _

theorem canon_slotCtxKv {kw kt kr ks kp kv xb xq xl xm xn xc} {s : Chip} {r : Nat} {p : Nat} {e : Rd × List Byte ×
    Bool} (h_s : s.Canon kw kt kr ks none kp kv ⟨xb, xq, xl, xm, none, xn, xc⟩) (h_e : e.1.s.Canon kw kt kr ks none kp
    kv ⟨xb, xq, xl, xm, none, xn, xc⟩) : (slotCtxKv s r p e).x.s.Canon kw kt kr ks none kp kv ⟨xb, xq, xl, xm, none,
    xn, xc⟩ := by
  simp only [slotCtxKv]
  repeat' first
    | with_reducible assumption
    | with_reducible apply canon_Rd_dev
    | with_reducible apply canon_ite
    | with_reducible apply canon_ite_s
    | with_reducible apply canon_ite_fst
    | with_reducible apply canon_ite_fst_s
    | simp only [canon_mk_iff]
    | split

theorem canon_slotCtxRead {kw kt kr ks kp kv xb xq xl xm xn xc} {s : Chip} {r : Nat} {p : Nat} (h_s : s.Canon kw kt kr
    ks none kp kv ⟨xb, xq, xl, xm, none, xn, xc⟩) : (slotCtxRead s r p).x.s.Canon kw kt kr ks none kp kv ⟨xb, xq, xl,
    xm, none, xn, xc⟩ := by
  unfold slotCtxRead
  try dsimp only
  repeat' first
    | with_reducible assumption
    | with_reducible apply canon_startRd
    | with_reducible apply canon_Rd_dev
    | with_reducible apply canon_slotCtxKv

theorem canon_slotCtxTaken {kw kt kr ks km kp kv xb xq xl xn} {s : Chip} {r : Nat} {p : Nat} {e : SlotCtxRead} (h_s :
    s.Canon kw kt kr ks km kp kv ⟨xb, xq, xl, none, none, xn, none⟩) (h_e : e.x.s.Canon kw kt kr ks km kp kv ⟨xb, xq,
    xl, none, none, xn, none⟩) : (slotCtxTaken s r p e).Canon kw kt kr ks km kp kv ⟨xb, xq, xl, none, none, xn, none⟩
    := by
  unfold slotCtxTaken
  try dsimp only
  repeat' first
    | with_reducible assumption
    | with_reducible apply canon_wr
    | with_reducible apply canon_setFlag
    | with_reducible apply canon_unitClose
    | with_reducible apply canon_ite
    | with_reducible apply canon_ite_s
    | with_reducible apply canon_ite_fst
    | with_reducible apply canon_ite_fst_s
    | simp only [canon_mkc_iff]
    | split
    | intro _

theorem canon_slotCtxWith {kw kt kr ks km kp kv xb xq xl xn} {s : Chip} {r : Nat} {p : Nat} {e : SlotCtxRead} (h_s :
    s.Canon kw kt kr ks km kp kv ⟨xb, xq, xl, none, none, xn, none⟩) (h_e : e.x.s.Canon kw kt kr ks km kp kv ⟨xb, xq,
    xl, none, none, xn, none⟩) : (slotCtxWith s r p e).Canon kw kt kr ks km kp kv ⟨xb, xq, xl, none, none, xn, none⟩
    := by
  unfold slotCtxWith
  try dsimp only
  repeat' first
    | with_reducible assumption
    | with_reducible apply canon_Rd_settle
    | with_reducible apply canon_slotCtxTaken
    | with_reducible apply canon_ite
    | with_reducible apply canon_ite_s
    | with_reducible apply canon_ite_fst
    | with_reducible apply canon_ite_fst_s
    | simp only [canon_mk_iff]
    | split
    | intro _

theorem canon_skvCtxLoad {kw kt kr ks kp kv xb xq xl xn} {s : Chip} {r : Nat} {p : Nat} (h_s : s.Canon kw kt kr ks
    none kp kv ⟨xb, xq, xl, none, none, xn, none⟩) : (skvCtxLoad s r p).Canon kw kt kr ks none kp kv ⟨xb, xq, xl,
    none, none, xn, none⟩ := by
  unfold skvCtxLoad
  try dsimp only
  repeat' first
    | with_reducible assumption
    | with_reducible apply canon_slotCtxRead
    | with_reducible apply canon_slotCtxWith

theorem canon_spillComplete {kw kt kr ks kv xn xc} {s : Chip} {q : Nat} (h_s : s.Canon kw kt kr ks none none kv ⟨none,
    none, none, none, none, xn, xc⟩) : (spillComplete s q).Canon kw kt kr ks none none kv ⟨none, none, none, none,
    none, xn, xc⟩ := by
  unfold spillComplete
  try dsimp only
  repeat' first
    | with_reducible assumption
    | with_reducible apply canon_spillEnd

theorem canon_resumeUnit {kw kt kr ks kp kv xb xq xl xm xn xc} {r : Nat} {p : Nat} {tag : Nat → Nat} {e : Chip ×
    Memory} {a : Nat} (h_e : e.1.Canon kw kt kr ks none kp kv ⟨xb, xq, xl, xm, none, xn, xc⟩) : (resumeUnit r p tag e
    a).1.Canon kw kt kr ks none kp kv ⟨xb, xq, xl, xm, none, xn, xc⟩ := by
  unfold resumeUnit
  try dsimp only
  repeat' first
    | with_reducible assumption
    | with_reducible apply canon_bump64
    | with_reducible apply canon_setMem
    | with_reducible apply canon_readMeets
    | with_reducible apply canon_memPut
    | with_reducible apply canon_poisonRun
    | with_reducible apply canon_slotCorrupt
    | with_reducible apply canon_foldl
    | with_reducible apply canon_foldl_fst
    | with_reducible apply canon_foldl_rd
    | with_reducible apply canon_foldl_rd_fst
    | with_reducible apply canon_foldl_x
    | with_reducible apply canon_foldl_run_fst
    | with_reducible apply canon_ite
    | with_reducible apply canon_ite_s
    | with_reducible apply canon_ite_fst
    | with_reducible apply canon_ite_fst_s
    | simp only [canon_mk_iff]
    | split
    | intro _

theorem canon_readUnits {kw kt kr ks kp kv xb xq xl xm xn xc} {r : Nat} {p : Nat} {tag : Nat → Nat} {w : Switch} {s :
    Chip} (h_s : s.Canon kw kt kr ks none kp kv ⟨xb, xq, xl, xm, none, xn, xc⟩) : (readUnits r p tag w s).1.Canon kw
    kt kr ks none kp kv ⟨xb, xq, xl, xm, none, xn, xc⟩ := by
  unfold readUnits
  try dsimp only
  repeat' first
    | with_reducible assumption
    | with_reducible apply canon_resumeUnit
    | with_reducible apply canon_foldl
    | with_reducible apply canon_foldl_fst

theorem wf_poisonRun {kw kt kr ks km kp kv kx} {s : Chip} {m : Memory} {a n : Nat} (h_s : s.Canon kw kt kr ks km kp kv
    kx)
    (h_m : kw → m.wf = true) (hw : kw) : (poisonRun (setMem s m) a n).mem.wf = true :=
  (canon_poisonRun (canon_setMem h_s h_m)).mem_wf hw

theorem wf_putOver {kw kt kr ks km kp kv kx} {s : Chip} {m : Memory} {a : Nat} {l : List Byte}
    (h_s : s.Canon kw kt kr ks km kp kv kx) (h_m : kw → m.wf = true) (hw : kw) : (memPut (setMem s m) a l).mem.wf = true :=
  (canon_memPut (canon_setMem h_s h_m)).mem_wf hw

theorem wf_resumeUnit {kw kt kr ks km kp kv kx} {r p : Nat} {tag : Nat → Nat} {e : Chip × Memory} {a : Nat}
    (h_e : e.1.Canon kw kt kr ks km kp kv kx) (h_m : kw → e.2.wf = true) (hw : kw) :
    (resumeUnit r p tag e a).2.wf = true := by
  have hp := ((memory_wf_iff _).mp (h_m hw)).2.1
  have hb := ((memory_wf_iff _).mp (h_m hw)).1
  have hl := ((memory_wf_iff _).mp (h_m hw)).2.2
  have h_e : e.1.Canon kw none none none none none none ⟨none, none, none, none, none, none, none⟩ := canon_form h_e.w
  unfold resumeUnit
  dsimp only
  repeat' first
    | with_reducible exact memory_wf_mk hb (ksorted_foldl_kadd _ _ hp) hl
    | (with_reducible refine wf_poisonRun (kt := none) (kr := none) (ks := none) (km := none) (kp := none) (kv := none) (kx := ⟨none, none, none, none, none, none, none⟩) ?_ h_m hw)
    | with_reducible assumption
    | with_reducible apply canon_slotCorrupt
    | with_reducible apply canon_readMeets
    | with_reducible apply canon_bump64
    | split
    | (with_reducible refine wf_putOver (kt := none) (kr := none) (ks := none) (km := none) (kp := none) (kv := none) (kx := ⟨none, none, none, none, none, none, none⟩) ?_ h_m hw)

theorem wf_readUnits {kw kt kr ks kv xn xc} {r p : Nat} {tag : Nat → Nat} {w : Switch} {s : Chip} (h_s : s.Canon kw kt
    kr ks none none kv ⟨none, none, none, none, none, xn, xc⟩) {m : Memory}
    (h : (readUnits r p tag w s).2 = some m) (hw : kw) : m.wf = true := by
  have hf : ∀ l : List Nat, (l.foldl (resumeUnit r p tag) (s, s.mem)).1.Canon kw kt kr ks none none kv ⟨none, none, none, none, none, xn, xc⟩ ∧
      (kw → (l.foldl (resumeUnit r p tag) (s, s.mem)).2.wf = true) := fun l =>
    foldl_keeps (P := fun t : Chip × Memory => t.1.Canon kw kt kr ks none none kv ⟨none, none, none, none, none, xn, xc⟩ ∧ (kw → t.2.wf = true)) ⟨h_s, h_s.mem_wf⟩
      (fun t b ht => ⟨canon_resumeUnit ht.1, wf_resumeUnit ht.1 ht.2⟩)
  cases h
  have hm := (memory_wf_iff _).mp ((hf ((recordUnits w).filter (fun a => beforeCut (restoreCut s p (recordRuns s tag w)) a 4096))).2 hw)
  exact memory_wf_mk hm.1 hm.2.1 rfl

theorem canon_resumeEnd {kw kt kr ks kv xn xc} {s : Chip} {q : Nat} {w : Switch} (h_s : s.Canon kw kt kr ks none none
    kv ⟨none, none, none, none, none, xn, xc⟩) : (resumeEnd s q w).Canon kw kt kr ks none none kv ⟨none, none, none,
    none, none, xn, xc⟩ := by
  unfold resumeEnd
  dsimp only
  split
  · exact canon_resumeOn (fun a h => canon_readUnits h) h_s (fun a h m hm hw => wf_readUnits h hm hw)
  · exact canon_resumeOn (fun a h => h) h_s (fun a h m hm => by cases hm)

theorem canon_restoreComplete {kw kt kr ks kv xn xc} {s : Chip} {q : Nat} (h_s : s.Canon kw kt kr ks none none kv
    ⟨none, none, none, none, none, xn, xc⟩) : (restoreComplete s q).Canon kw kt kr ks none none kv ⟨none, none, none,
    none, none, xn, xc⟩ := by
  unfold restoreComplete
  try dsimp only
  repeat' first
    | with_reducible assumption
    | with_reducible apply canon_resumeEnd
    | with_reducible apply canon_ite
    | with_reducible apply canon_ite_s
    | with_reducible apply canon_ite_fst
    | with_reducible apply canon_ite_fst_s
    | simp only [canon_mk_iff]
    | split
    | intro _

end Sys2Proof.Machine
end

