-- ==== Sys2Proof/Laws/CanonHosts.lean ====
section
/-! SUPPORT. The operations of Machine/Hosts.lean keep the canonical form. -/
set_option linter.all false
namespace Sys2Proof.Machine

theorem canon_partCode {kw kt kr ks km kp kv kx} {s : Chip} {p : Nat} {c : Nat} (h_s : s.Canon kw kt kr ks km kp kv
    kx) : (partCode s p c).Canon kw kt kr ks km kp kv kx := by
  unfold partCode
  try dsimp only
  repeat' first
    | with_reducible assumption
    | with_reducible apply canon_wr

theorem canon_setPartState {kw kt kr ks km kp kv kx} {s : Chip} {p : Nat} {v : Nat} (h_s : s.Canon kw kt kr ks km kp
    kv kx) : (setPartState s p v).Canon kw kt kr ks km kp kv kx := by
  unfold setPartState
  try dsimp only
  repeat' first
    | with_reducible assumption
    | with_reducible apply canon_wr

theorem canon_partFlag {kw kt kr ks km kp kv xb xq xl xm xn xc} {s : Chip} {p : Nat} {f : Field} (h_s : s.Canon kw kt
    kr ks km kp kv ⟨xb, xq, xl, xm, none, xn, xc⟩) : (partFlag s p f).Canon kw kt kr ks km kp kv ⟨xb, xq, xl, xm,
    none, xn, xc⟩ := by
  unfold partFlag
  try dsimp only
  repeat' first
    | with_reducible assumption
    | with_reducible apply canon_setFlag

theorem canon_create {kw kt kr ks km kp kv kx} {s : Chip} {p : Nat} (h_s : s.Canon kw kt kr ks km kp kv kx) : (create
    s p).Canon kw kt kr ks km kp kv kx := by
  unfold create
  try dsimp only
  repeat' first
    | with_reducible assumption
    | with_reducible apply canon_partCode
    | with_reducible apply canon_setPartState
    | with_reducible apply canon_ite
    | with_reducible apply canon_ite_s
    | with_reducible apply canon_ite_fst
    | with_reducible apply canon_ite_fst_s
    | simp only [canon_mk_iff]
    | split
    | intro _

theorem canon_clearShares {kw kt kr ks km kp kv xb xl xm xh xn xc} {s : Chip} {p : Nat} {quads : List Nat} (h_s :
    s.Canon kw kt kr ks km kp kv ⟨xb, none, xl, xm, xh, xn, xc⟩) : (clearShares s p quads).Canon kw kt kr ks km kp kv
    ⟨xb, none, xl, xm, xh, xn, xc⟩ := by
  unfold clearShares
  try dsimp only
  repeat' first
    | with_reducible assumption
    | with_reducible apply canon_ite
    | with_reducible apply canon_ite_s
    | with_reducible apply canon_ite_fst
    | with_reducible apply canon_ite_fst_s
    | simp only [canon_mkq_iff]

theorem canon_clearGrants {kw kt kr ks km kp kv kx} {s : Chip} {p : Nat} (h_s : s.Canon kw kt kr ks km kp kv kx) :
    (clearGrants s p).Canon kw kt kr ks km kp kv kx := by
  unfold clearGrants
  try dsimp only
  repeat' first
    | with_reducible assumption
    | with_reducible apply canon_ite
    | with_reducible apply canon_ite_s
    | with_reducible apply canon_ite_fst
    | with_reducible apply canon_ite_fst_s
    | simp only [canon_mk_iff]

theorem canon_clearSync {kw kt kr ks km kp kv xb xl xm xh xn xc} {s : Chip} {p : Nat} (h_s : s.Canon kw kt kr ks km kp
    kv ⟨xb, none, xl, xm, xh, xn, xc⟩) : (clearSync s p).Canon kw kt kr ks km kp kv ⟨xb, none, xl, xm, xh, xn, xc⟩ :=
    by
  unfold clearSync
  try dsimp only
  repeat' first
    | with_reducible assumption
    | with_reducible apply canon_ite
    | with_reducible apply canon_ite_s
    | with_reducible apply canon_ite_fst
    | with_reducible apply canon_ite_fst_s
    | simp only [canon_mkq_iff]

theorem canon_assignQuad {kw kt kr ks km kp kv kx} {p : Nat} {s : Chip} {q : Nat} (h_s : s.Canon kw kt kr ks km kp kv
    kx) : (assignQuad p s q).Canon kw kt kr ks km kp kv kx := by
  unfold assignQuad
  try dsimp only
  repeat' first
    | with_reducible assumption
    | with_reducible apply canon_wr
    | with_reducible apply canon_wrAll
    | with_reducible apply canon_foldl
    | with_reducible apply canon_foldl_fst
    | with_reducible apply canon_foldl_rd
    | with_reducible apply canon_foldl_rd_fst
    | with_reducible apply canon_foldl_x
    | with_reducible apply canon_foldl_run_fst
    | with_reducible apply canon_ite
    | with_reducible apply canon_ite_s
    | with_reducible apply canon_ite_fst
    | with_reducible apply canon_ite_fst_s
    | simp only [canon_mk_iff]
    | split
    | intro _

theorem canon_leaveQuad {kw kt kr ks km kp kv kx} {p : Nat} {s : Chip} {q : Nat} (h_s : s.Canon kw kt kr ks km kp kv
    kx) : (leaveQuad p s q).Canon kw kt kr ks km kp kv kx := by
  unfold leaveQuad
  try dsimp only
  repeat' first
    | with_reducible assumption
    | with_reducible apply canon_wrAll
    | with_reducible apply canon_foldl
    | with_reducible apply canon_foldl_fst
    | with_reducible apply canon_foldl_rd
    | with_reducible apply canon_foldl_rd_fst
    | with_reducible apply canon_foldl_x
    | with_reducible apply canon_foldl_run_fst
    | with_reducible apply canon_ite
    | with_reducible apply canon_ite_s
    | with_reducible apply canon_ite_fst
    | with_reducible apply canon_ite_fst_s
    | simp only [canon_mk_iff]
    | split
    | intro _

theorem canon_createdAs {kw kt kr km kp kv xb xl xm xn xc} {s : Chip} {p : Nat} {quads : List Nat} (h_s : s.Canon kw
    kt kr none km kp kv ⟨xb, none, xl, xm, none, xn, xc⟩) : (createdAs s p quads).Canon kw kt kr none km kp kv ⟨xb,
    none, xl, xm, none, xn, xc⟩ := by
  unfold createdAs
  try dsimp only
  repeat' first
    | with_reducible assumption
    | with_reducible apply canon_wr
    | with_reducible apply canon_stormFrom
    | with_reducible apply canon_partCode
    | with_reducible apply canon_setPartState
    | with_reducible apply canon_partFlag
    | with_reducible apply canon_clearShares
    | with_reducible apply canon_clearGrants
    | with_reducible apply canon_clearSync
    | with_reducible apply canon_assignQuad
    | with_reducible apply canon_foldl
    | with_reducible apply canon_foldl_fst
    | with_reducible apply canon_foldl_rd
    | with_reducible apply canon_foldl_rd_fst
    | with_reducible apply canon_foldl_x
    | with_reducible apply canon_foldl_run_fst
    | with_reducible apply canon_ite
    | with_reducible apply canon_ite_s
    | with_reducible apply canon_ite_fst
    | with_reducible apply canon_ite_fst_s
    | simp only [canon_mks_iff]
    | split
    | intro _

theorem canon_partitionCreated {kw kt kr km kp kv xb xl xm xn xc} {s : Chip} {p : Nat} (h_s : s.Canon kw kt kr none km
    kp kv ⟨xb, none, xl, xm, none, xn, xc⟩) : (partitionCreated s p).Canon kw kt kr none km kp kv ⟨xb, none, xl, xm,
    none, xn, xc⟩ := by
  unfold partitionCreated
  try dsimp only
  repeat' first
    | with_reducible assumption
    | with_reducible apply canon_createdAs
    | with_reducible apply canon_ite
    | with_reducible apply canon_ite_s
    | with_reducible apply canon_ite_fst
    | with_reducible apply canon_ite_fst_s
    | simp only [canon_mk_iff]
    | split
    | intro _

theorem canon_dropWalks {kw kt kr ks km kp kx} {s : Chip} {p : Nat} (h_s : s.Canon kw kt kr ks km kp none kx) :
    (dropWalks s p).Canon kw kt kr ks km kp none kx := by
  unfold dropWalks
  try dsimp only
  repeat' first
    | with_reducible assumption
    | with_reducible apply canon_ite
    | with_reducible apply canon_ite_s
    | with_reducible apply canon_ite_fst
    | with_reducible apply canon_ite_fst_s
    | simp only [canon_mkv_iff]

theorem canon_resetSteps {kw kt kr ks kp xn xc} {s : Chip} {p : Nat} (h_s : s.Canon kw kt kr ks none kp none ⟨none,
    none, none, none, none, xn, xc⟩) : (resetSteps s p).Canon kw kt kr ks none kp none ⟨none, none, none, none, none,
    xn, xc⟩ := by
  unfold resetSteps
  try dsimp only
  repeat' first
    | with_reducible assumption
    | with_reducible apply canon_loseSets
    | with_reducible apply canon_releaseSpillWrites
    | with_reducible apply canon_idleFront
    | with_reducible apply canon_resetQueue
    | with_reducible apply canon_publishNow
    | with_reducible apply canon_resetServe
    | with_reducible apply canon_clearShares
    | with_reducible apply canon_clearGrants
    | with_reducible apply canon_clearSync
    | with_reducible apply canon_dropWalks
    | with_reducible apply canon_foldl
    | with_reducible apply canon_foldl_fst
    | with_reducible apply canon_foldl_rd
    | with_reducible apply canon_foldl_rd_fst
    | with_reducible apply canon_foldl_x
    | with_reducible apply canon_foldl_run_fst
    | with_reducible apply canon_ite
    | with_reducible apply canon_ite_s
    | with_reducible apply canon_ite_fst
    | with_reducible apply canon_ite_fst_s
    | simp only [canon_mkm_iff]
    | split
    | intro _

theorem canon_partitionReset {kw kt kr ks kp xn xc} {s : Chip} {via : Via} {p : Nat} (h_s : s.Canon kw kt kr ks none
    kp none ⟨none, none, none, none, none, xn, xc⟩) : (partitionReset s via p).Canon kw kt kr ks none kp none ⟨none,
    none, none, none, none, xn, xc⟩ := by
  unfold partitionReset
  try dsimp only
  repeat' first
    | with_reducible assumption
    | with_reducible apply canon_partCode
    | with_reducible apply canon_resetSteps
    | with_reducible apply canon_ite
    | with_reducible apply canon_ite_s
    | with_reducible apply canon_ite_fst
    | with_reducible apply canon_ite_fst_s
    | simp only [canon_mk_iff]
    | split
    | intro _

theorem canon_emptyKv {kw kt kr ks km kp kx} {s : Chip} {p : Nat} (h_s : s.Canon kw kt kr ks km kp none kx) : (emptyKv
    s p).Canon kw kt kr ks km kp none kx := by
  unfold emptyKv
  try dsimp only
  repeat' first
    | with_reducible assumption
    | with_reducible apply canon_setKvPart

theorem canon_clearPending {kw kt kr ks km kp kv kx} {s : Chip} {p : Nat} (h_s : s.Canon kw kt kr ks km kp kv kx) :
    (clearPending s p).Canon kw kt kr ks km kp kv kx := by
  unfold clearPending
  try dsimp only
  repeat' first
    | with_reducible assumption
    | with_reducible apply canon_wrAll

theorem canon_endHold {kw kt kr ks km kp kv xb xq xl xm xn xc} {s : Chip} {p : Nat} (h_s : s.Canon kw kt kr ks km kp
    kv ⟨xb, xq, xl, xm, none, xn, xc⟩) : (endHold s p).Canon kw kt kr ks km kp kv ⟨xb, xq, xl, xm, none, xn, xc⟩ := by
  unfold endHold
  try dsimp only
  repeat' first
    | with_reducible assumption
    | with_reducible apply canon_partFlag
    | with_reducible apply canon_ite
    | with_reducible apply canon_ite_s
    | with_reducible apply canon_ite_fst
    | with_reducible apply canon_ite_fst_s
    | simp only [canon_mkh_iff]
    | split
    | intro _

theorem canon_dropHeld {kw kt kr ks km kp kv xb xl xm xh xn xc} {s : Chip} {p : Nat} (h_s : s.Canon kw kt kr ks km kp
    kv ⟨xb, none, xl, xm, xh, xn, xc⟩) : (dropHeld s p).Canon kw kt kr ks km kp kv ⟨xb, none, xl, xm, xh, xn, xc⟩ :=
    by
  unfold dropHeld
  try dsimp only
  repeat' first
    | with_reducible assumption
    | with_reducible apply canon_wr
    | with_reducible apply canon_foldl
    | with_reducible apply canon_foldl_fst
    | with_reducible apply canon_foldl_rd
    | with_reducible apply canon_foldl_rd_fst
    | with_reducible apply canon_foldl_x
    | with_reducible apply canon_foldl_run_fst
    | with_reducible apply canon_ite
    | with_reducible apply canon_ite_s
    | with_reducible apply canon_ite_fst
    | with_reducible apply canon_ite_fst_s
    | simp only [canon_mkq_iff]
    | split
    | intro _

theorem canon_flrEffects {kw kt kr ks kp xn xc} {s : Chip} {p : Nat} {release : Bool} (h_s : s.Canon kw kt kr ks none
    kp none ⟨none, none, none, none, none, xn, xc⟩) : (flrEffects s p release).Canon kw kt kr ks none kp none ⟨none,
    none, none, none, none, xn, xc⟩ := by
  unfold flrEffects
  try dsimp only
  repeat' first
    | with_reducible assumption
    | with_reducible apply canon_wrAll
    | with_reducible apply canon_scrubStart
    | with_reducible apply canon_EditEnv_release
    | with_reducible apply canon_Rd_release
    | with_reducible apply canon_setPartState
    | with_reducible apply canon_resetSteps
    | with_reducible apply canon_emptyKv
    | with_reducible apply canon_clearPending
    | with_reducible apply canon_endHold
    | with_reducible apply canon_dropHeld
    | with_reducible apply canon_ite
    | with_reducible apply canon_ite_s
    | with_reducible apply canon_ite_fst
    | with_reducible apply canon_ite_fst_s
    | simp only [canon_mk_iff]
    | split
    | intro _

theorem canon_resetFunction {kw kt kr ks kp xn xc} {s : Chip} {port : Nat} {fn : Nat} (h_s : s.Canon kw kt kr ks none
    kp none ⟨none, none, none, none, none, xn, xc⟩) : (resetFunction s port fn).Canon kw kt kr ks none kp none ⟨none,
    none, none, none, none, xn, xc⟩ := by
  unfold resetFunction
  try dsimp only
  repeat' first
    | with_reducible assumption
    | with_reducible apply canon_wr
    | with_reducible apply canon_bump
    | with_reducible apply canon_setFunc
    | with_reducible apply canon_setFlag
    | with_reducible apply canon_flrEffects
    | with_reducible apply canon_ite
    | with_reducible apply canon_ite_s
    | with_reducible apply canon_ite_fst
    | with_reducible apply canon_ite_fst_s
    | simp only [canon_mk_iff]
    | split
    | intro _

theorem canon_dropVfs {kw kt kr ks kp xn xc} {s : Chip} {port : Nat} {n : Nat} (h_s : s.Canon kw kt kr ks none kp none
    ⟨none, none, none, none, none, xn, xc⟩) : (dropVfs s port n).Canon kw kt kr ks none kp none ⟨none, none, none,
    none, none, xn, xc⟩ := by
  unfold dropVfs
  try dsimp only
  repeat' first
    | with_reducible assumption
    | with_reducible apply canon_wr
    | with_reducible apply canon_setFunc
    | with_reducible apply canon_resetFunction
    | with_reducible apply canon_foldl
    | with_reducible apply canon_foldl_fst
    | with_reducible apply canon_foldl_rd
    | with_reducible apply canon_foldl_rd_fst
    | with_reducible apply canon_foldl_x
    | with_reducible apply canon_foldl_run_fst
    | with_reducible apply canon_ite
    | with_reducible apply canon_ite_s
    | with_reducible apply canon_ite_fst
    | with_reducible apply canon_ite_fst_s
    | simp only [canon_mk_iff]
    | split
    | intro _

theorem canon_functionLevelReset {kw kt kr ks kp xn xc} {s : Chip} {port : Nat} {fn : Nat} {cause : FlrCause} (h_s :
    s.Canon kw kt kr ks none kp none ⟨none, none, none, none, none, xn, xc⟩) : (functionLevelReset s port fn
    cause).Canon kw kt kr ks none kp none ⟨none, none, none, none, none, xn, xc⟩ := by
  unfold functionLevelReset
  try dsimp only
  repeat' first
    | with_reducible assumption
    | with_reducible apply canon_resetFunction
    | with_reducible apply canon_dropVfs
    | with_reducible apply canon_ite
    | with_reducible apply canon_ite_s
    | with_reducible apply canon_ite_fst
    | with_reducible apply canon_ite_fst_s
    | simp only [canon_mk_iff]
    | split
    | intro _

theorem canon_functionReadinessStatus {kw kt kr ks km kp kv xb xq xl xm xn xc} {s : Chip} {port : Nat} {fn : Nat} (h_s
    : s.Canon kw kt kr ks km kp kv ⟨xb, xq, xl, xm, none, xn, xc⟩) : (functionReadinessStatus s port fn).Canon kw kt
    kr ks km kp kv ⟨xb, xq, xl, xm, none, xn, xc⟩ := by
  unfold functionReadinessStatus
  try dsimp only
  repeat' first
    | with_reducible assumption
    | with_reducible apply canon_emit
    | with_reducible apply canon_setFunc
    | with_reducible apply canon_ite
    | with_reducible apply canon_ite_s
    | with_reducible apply canon_ite_fst
    | with_reducible apply canon_ite_fst_s
    | simp only [canon_mk_iff]
    | split
    | intro _

theorem canon_holdExpiry {kw kt kr ks kp xn xc} {s : Chip} {p : Nat} (h_s : s.Canon kw kt kr ks none kp none ⟨none,
    none, none, none, none, xn, xc⟩) : (holdExpiry s p).Canon kw kt kr ks none kp none ⟨none, none, none, none, none,
    xn, xc⟩ := by
  unfold holdExpiry
  try dsimp only
  repeat' first
    | with_reducible assumption
    | with_reducible apply canon_bump
    | with_reducible apply canon_flrEffects
    | with_reducible apply canon_ite
    | with_reducible apply canon_ite_s
    | with_reducible apply canon_ite_fst
    | with_reducible apply canon_ite_fst_s
    | simp only [canon_mk_iff]
    | split
    | intro _

theorem canon_release {kw kt kr ks kp xn xc} {s : Chip} {p : Nat} (h_s : s.Canon kw kt kr ks none kp none ⟨none, none,
    none, none, none, xn, xc⟩) : (release s p).Canon kw kt kr ks none kp none ⟨none, none, none, none, none, xn, xc⟩
    := by
  unfold release
  try dsimp only
  repeat' first
    | with_reducible assumption
    | with_reducible apply canon_EditEnv_release
    | with_reducible apply canon_Rd_release
    | with_reducible apply canon_partCode
    | with_reducible apply canon_setPartState
    | with_reducible apply canon_flrEffects
    | with_reducible apply canon_holdExpiry
    | with_reducible apply canon_ite
    | with_reducible apply canon_ite_s
    | with_reducible apply canon_ite_fst
    | with_reducible apply canon_ite_fst_s
    | simp only [canon_mkh_iff]
    | split
    | intro _

theorem canon_clearEntries {kw kt ks km kp kv kx} {s : Chip} {p : Nat} (h_s : s.Canon kw kt none ks km kp kv kx) :
    (clearEntries s p).Canon kw kt none ks km kp kv kx := by
  unfold clearEntries
  try dsimp only
  repeat' first
    | with_reducible assumption
    | with_reducible apply canon_wrAll
    | with_reducible apply canon_foldl
    | with_reducible apply canon_foldl_fst
    | with_reducible apply canon_foldl_rd
    | with_reducible apply canon_foldl_rd_fst
    | with_reducible apply canon_foldl_x
    | with_reducible apply canon_foldl_run_fst
    | with_reducible apply canon_ite
    | with_reducible apply canon_ite_s
    | with_reducible apply canon_ite_fst
    | with_reducible apply canon_ite_fst_s
    | simp only [canon_mkr_iff]
    | split
    | intro _

theorem canon_released {kw kt ks km kp xb xm xn xc} {s : Chip} {p : Nat} (h_s : s.Canon kw kt none ks km kp none ⟨xb,
    none, none, xm, none, xn, xc⟩) : (released s p).Canon kw kt none ks km kp none ⟨xb, none, none, xm, none, xn, xc⟩
    := by
  unfold released
  try dsimp only
  repeat' first
    | with_reducible assumption
    | with_reducible apply canon_wrAll
    | with_reducible apply canon_partCode
    | with_reducible apply canon_setPartState
    | with_reducible apply canon_partFlag
    | with_reducible apply canon_clearSync
    | with_reducible apply canon_leaveQuad
    | with_reducible apply canon_clearPending
    | with_reducible apply canon_clearEntries
    | with_reducible apply canon_foldl
    | with_reducible apply canon_foldl_fst
    | with_reducible apply canon_foldl_rd
    | with_reducible apply canon_foldl_rd_fst
    | with_reducible apply canon_foldl_x
    | with_reducible apply canon_foldl_run_fst
    | with_reducible apply canon_ite
    | with_reducible apply canon_ite_s
    | with_reducible apply canon_ite_fst
    | with_reducible apply canon_ite_fst_s
    | simp only [canon_mkvl_iff]

theorem canon_enablePending {kw kt kr ks kp kv xb xl xm xn xc} {s : Chip} {p : Nat} (h_s : s.Canon kw kt kr ks none kp
    kv ⟨xb, none, xl, xm, none, xn, xc⟩) : (enablePending s p).Canon kw kt kr ks none kp kv ⟨xb, none, xl, xm, none,
    xn, xc⟩ := by
  unfold enablePending
  try dsimp only
  repeat' first
    | with_reducible assumption
    | with_reducible apply canon_enableQueue
    | with_reducible apply canon_clearPending
    | with_reducible apply canon_foldl
    | with_reducible apply canon_foldl_fst
    | with_reducible apply canon_foldl_rd
    | with_reducible apply canon_foldl_rd_fst
    | with_reducible apply canon_foldl_x
    | with_reducible apply canon_foldl_run_fst
    | with_reducible apply canon_ite
    | with_reducible apply canon_ite_s
    | with_reducible apply canon_ite_fst
    | with_reducible apply canon_ite_fst_s
    | simp only [canon_mk_iff]
    | split
    | intro _

theorem canon_scrubOver {kw kt ks kp xb xm xn xc} {s : Chip} {p : Nat} {release : Bool} (h_s : s.Canon kw kt none ks
    none kp none ⟨xb, none, none, xm, none, xn, xc⟩) : (scrubOver s p release).Canon kw kt none ks none kp none ⟨xb,
    none, none, xm, none, xn, xc⟩ := by
  unfold scrubOver
  try dsimp only
  repeat' first
    | with_reducible assumption
    | with_reducible apply canon_showScrubs
    | with_reducible apply canon_EditEnv_release
    | with_reducible apply canon_Rd_release
    | with_reducible apply canon_setPartState
    | with_reducible apply canon_partFlag
    | with_reducible apply canon_release
    | with_reducible apply canon_released
    | with_reducible apply canon_enablePending
    | with_reducible apply canon_ite
    | with_reducible apply canon_ite_s
    | with_reducible apply canon_ite_fst
    | with_reducible apply canon_ite_fst_s
    | simp only [canon_mkh_iff]
    | split
    | intro _

theorem canon_releaseScrubComplete {kw kt ks kp xb xm xn xc} {s : Chip} {p : Nat} {step : ScrubStep} (h_s : s.Canon kw
    kt none ks none kp none ⟨xb, none, none, xm, none, xn, xc⟩) : (releaseScrubComplete s p step).Canon kw kt none ks
    none kp none ⟨xb, none, none, xm, none, xn, xc⟩ := by
  unfold releaseScrubComplete
  try dsimp only
  repeat' first
    | with_reducible assumption
    | with_reducible apply canon_showScrubs
    | with_reducible apply canon_scrubStep
    | with_reducible apply canon_EditEnv_release
    | with_reducible apply canon_Rd_release
    | with_reducible apply canon_scrubOver
    | with_reducible apply canon_ite
    | with_reducible apply canon_ite_s
    | with_reducible apply canon_ite_fst
    | with_reducible apply canon_ite_fst_s
    | simp only [canon_mkh_iff]
    | split
    | intro _

theorem canon_enterHold {kw kt kr ks kp xn xc} {port : Nat} {s : Chip} {p : Nat} (h_s : s.Canon kw kt kr ks none kp
    none ⟨none, none, none, none, none, xn, xc⟩) : (enterHold port s p).Canon kw kt kr ks none kp none ⟨none, none,
    none, none, none, xn, xc⟩ := by
  unfold enterHold
  try dsimp only
  repeat' first
    | with_reducible assumption
    | with_reducible apply canon_stopQueues
    | with_reducible apply canon_setPartState
    | with_reducible apply canon_partFlag
    | with_reducible apply canon_flrEffects
    | with_reducible apply canon_ite
    | with_reducible apply canon_ite_s
    | with_reducible apply canon_ite_fst
    | with_reducible apply canon_ite_fst_s
    | simp only [canon_mkh_iff]
    | split
    | intro _

theorem canon_linkDown {kw kt kr ks km kp kv kx} {s : Chip} {port : Nat} (h_s : s.Canon kw kt kr ks km kp kv kx) :
    (linkDown s port).Canon kw kt kr ks km kp kv kx := by
  unfold linkDown
  try dsimp only
  repeat' first
    | with_reducible assumption
    | with_reducible apply canon_wrAll

theorem canon_linkLost {kw kt kr ks kp xn xc} {s : Chip} {port : Nat} (h_s : s.Canon kw kt kr ks none kp none ⟨none,
    none, none, none, none, xn, xc⟩) : (linkLost s port).Canon kw kt kr ks none kp none ⟨none, none, none, none, none,
    xn, xc⟩ := by
  unfold linkLost
  try dsimp only
  repeat' first
    | with_reducible assumption
    | with_reducible apply canon_bump
    | with_reducible apply canon_setFlag
    | with_reducible apply canon_enterHold
    | with_reducible apply canon_linkDown
    | with_reducible apply canon_foldl
    | with_reducible apply canon_foldl_fst
    | with_reducible apply canon_foldl_rd
    | with_reducible apply canon_foldl_rd_fst
    | with_reducible apply canon_foldl_x
    | with_reducible apply canon_foldl_run_fst
    | with_reducible apply canon_ite
    | with_reducible apply canon_ite_s
    | with_reducible apply canon_ite_fst
    | with_reducible apply canon_ite_fst_s
    | simp only [canon_mk_iff]
    | split
    | intro _

theorem canon_surpriseLinkLoss {kw kt kr ks kp xn xc} {s : Chip} {port : Nat} (h_s : s.Canon kw kt kr ks none kp none
    ⟨none, none, none, none, none, xn, xc⟩) : (surpriseLinkLoss s port).Canon kw kt kr ks none kp none ⟨none, none,
    none, none, none, xn, xc⟩ := by
  unfold surpriseLinkLoss
  try dsimp only
  repeat' first
    | with_reducible assumption
    | with_reducible apply canon_linkLost
    | with_reducible apply canon_ite
    | with_reducible apply canon_ite_s
    | with_reducible apply canon_ite_fst
    | with_reducible apply canon_ite_fst_s
    | simp only [canon_mk_iff]
    | split
    | intro _

theorem canon_linkedUp {kw kt kr ks km kp kv xb xq xl xm xn xc} {s : Chip} {port : Nat} {speed : Nat} {width : Nat}
    {flit : Bool} (h_s : s.Canon kw kt kr ks km kp kv ⟨xb, xq, xl, xm, none, xn, xc⟩) : (linkedUp s port speed width
    flit).Canon kw kt kr ks km kp kv ⟨xb, xq, xl, xm, none, xn, xc⟩ := by
  unfold linkedUp
  try dsimp only
  repeat' first
    | with_reducible assumption
    | with_reducible apply canon_wrAll
    | with_reducible apply canon_msixFlush
    | with_reducible apply canon_setFlag
    | with_reducible apply canon_foldl
    | with_reducible apply canon_foldl_fst
    | with_reducible apply canon_foldl_rd
    | with_reducible apply canon_foldl_rd_fst
    | with_reducible apply canon_foldl_x
    | with_reducible apply canon_foldl_run_fst
    | with_reducible apply canon_ite
    | with_reducible apply canon_ite_s
    | with_reducible apply canon_ite_fst
    | with_reducible apply canon_ite_fst_s
    | simp only [canon_mk_iff]
    | split
    | intro _

theorem canon_linkUp {kw kt kr ks km kp kv xb xq xl xm xn xc} {s : Chip} {port : Nat} {speed : Nat} {width : Nat}
    {flit : Bool} (h_s : s.Canon kw kt kr ks km kp kv ⟨xb, xq, xl, xm, none, xn, xc⟩) : (linkUp s port speed width
    flit).Canon kw kt kr ks km kp kv ⟨xb, xq, xl, xm, none, xn, xc⟩ := by
  unfold linkUp
  try dsimp only
  repeat' first
    | with_reducible assumption
    | with_reducible apply canon_linkedUp
    | with_reducible apply canon_ite
    | with_reducible apply canon_ite_s
    | with_reducible apply canon_ite_fst
    | with_reducible apply canon_ite_fst_s
    | simp only [canon_mk_iff]
    | split
    | intro _

theorem canon_reclaimed {kw kt kr ks kp kv xb xl xm xn xc} {s : Chip} {p : Nat} (h_s : s.Canon kw kt kr ks none kp kv
    ⟨xb, none, xl, xm, none, xn, xc⟩) : (reclaimed s p).Canon kw kt kr ks none kp kv ⟨xb, none, xl, xm, none, xn, xc⟩
    := by
  unfold reclaimed
  try dsimp only
  repeat' first
    | with_reducible assumption
    | with_reducible apply canon_msixFlush
    | with_reducible apply canon_drainQueue
    | with_reducible apply canon_partCode
    | with_reducible apply canon_setPartState
    | with_reducible apply canon_endHold
    | with_reducible apply canon_foldl
    | with_reducible apply canon_foldl_fst
    | with_reducible apply canon_foldl_rd
    | with_reducible apply canon_foldl_rd_fst
    | with_reducible apply canon_foldl_x
    | with_reducible apply canon_foldl_run_fst
    | with_reducible apply canon_ite
    | with_reducible apply canon_ite_s
    | with_reducible apply canon_ite_fst
    | with_reducible apply canon_ite_fst_s
    | simp only [canon_mk_iff]
    | split
    | intro _

theorem canon_reclaim {kw kt kr ks kp xn xc} {s : Chip} {via : Via} {p : Nat} (h_s : s.Canon kw kt kr ks none kp none
    ⟨none, none, none, none, none, xn, xc⟩) : (reclaim s via p).Canon kw kt kr ks none kp none ⟨none, none, none,
    none, none, xn, xc⟩ := by
  unfold reclaim
  try dsimp only
  repeat' first
    | with_reducible assumption
    | with_reducible apply canon_partCode
    | with_reducible apply canon_holdExpiry
    | with_reducible apply canon_reclaimed
    | with_reducible apply canon_ite
    | with_reducible apply canon_ite_s
    | with_reducible apply canon_ite_fst
    | with_reducible apply canon_ite_fst_s
    | simp only [canon_mk_iff]
    | split
    | intro _

theorem canon_teardown {kw kt kr ks kp xn xc} {s : Chip} {p : Nat} (h_s : s.Canon kw kt kr ks none kp none ⟨none,
    none, none, none, none, xn, xc⟩) : (teardown s p).Canon kw kt kr ks none kp none ⟨none, none, none, none, none,
    xn, xc⟩ := by
  unfold teardown
  try dsimp only
  repeat' first
    | with_reducible assumption
    | with_reducible apply canon_partCode
    | with_reducible apply canon_flrEffects
    | with_reducible apply canon_holdExpiry
    | with_reducible apply canon_ite
    | with_reducible apply canon_ite_s
    | with_reducible apply canon_ite_fst
    | with_reducible apply canon_ite_fst_s
    | simp only [canon_mk_iff]
    | split
    | intro _

theorem canon_warmReset {kw kt kr ks kp xn xc} {s : Chip} {port : Nat} {hot : Bool} (h_s : s.Canon kw kt kr ks none kp
    none ⟨none, none, none, none, none, xn, xc⟩) : (warmReset s port hot).Canon kw kt kr ks none kp none ⟨none, none,
    none, none, none, xn, xc⟩ := by
  unfold warmReset
  try dsimp only
  repeat' first
    | with_reducible assumption
    | with_reducible apply canon_wr
    | with_reducible apply canon_bump
    | with_reducible apply canon_setFunc
    | with_reducible apply canon_flrEffects
    | with_reducible apply canon_linkDown
    | with_reducible apply canon_foldl
    | with_reducible apply canon_foldl_fst
    | with_reducible apply canon_foldl_rd
    | with_reducible apply canon_foldl_rd_fst
    | with_reducible apply canon_foldl_x
    | with_reducible apply canon_foldl_run_fst
    | with_reducible apply canon_ite
    | with_reducible apply canon_ite_s
    | with_reducible apply canon_ite_fst
    | with_reducible apply canon_ite_fst_s
    | simp only [canon_mk_iff]
    | split
    | intro _

theorem canon_setNumVfs {kw kt kr ks xn xc} {s : Chip} {port : Nat} {n : Nat} (h_s : s.Canon kw kt kr ks none none
    none ⟨none, none, none, none, none, xn, xc⟩) : (setNumVfs s port n).Canon kw kt kr ks none none none ⟨none, none,
    none, none, none, xn, xc⟩ := by
  unfold setNumVfs
  try dsimp only
  repeat' first
    | with_reducible assumption
    | with_reducible apply canon_wr
    | with_reducible apply canon_setFunc
    | with_reducible apply canon_partQueueReset
    | with_reducible apply canon_dropVfs
    | with_reducible apply canon_foldl
    | with_reducible apply canon_foldl_fst
    | with_reducible apply canon_foldl_rd
    | with_reducible apply canon_foldl_rd_fst
    | with_reducible apply canon_foldl_x
    | with_reducible apply canon_foldl_run_fst
    | with_reducible apply canon_ite
    | with_reducible apply canon_ite_s
    | with_reducible apply canon_ite_fst
    | with_reducible apply canon_ite_fst_s
    | simp only [canon_mk_iff]
    | split
    | intro _

theorem canon_configApplied {kw kt kr ks xn xc} {s : Chip} {port : Nat} {fn : Nat} {a : ConfigAccess} (h_s : s.Canon
    kw kt kr ks none none none ⟨none, none, none, none, none, xn, xc⟩) : (configApplied s port fn a).Canon kw kt kr ks
    none none none ⟨none, none, none, none, none, xn, xc⟩ := by
  unfold configApplied
  try dsimp only
  repeat' first
    | with_reducible assumption
    | with_reducible apply canon_setFunc
    | with_reducible apply canon_msixFlush
    | with_reducible apply canon_Rd_read
    | with_reducible apply canon_EditEnv_set
    | with_reducible apply canon_AttendRun_read
    | with_reducible apply canon_setNumVfs
    | with_reducible apply canon_ite
    | with_reducible apply canon_ite_s
    | with_reducible apply canon_ite_fst
    | with_reducible apply canon_ite_fst_s
    | simp only [canon_mk_iff]
    | split
    | intro _

theorem canon_configRequest {kw kt kr ks xn xc} {s : Chip} {port : Nat} {fn : Nat} {a : ConfigAccess} (h_s : s.Canon
    kw kt kr ks none none none ⟨none, none, none, none, none, xn, xc⟩) : (configRequest s port fn a).Canon kw kt kr ks
    none none none ⟨none, none, none, none, none, xn, xc⟩ := by
  unfold configRequest
  try dsimp only
  repeat' first
    | with_reducible assumption
    | with_reducible apply canon_emit
    | with_reducible apply canon_configApplied
    | with_reducible apply canon_ite
    | with_reducible apply canon_ite_s
    | with_reducible apply canon_ite_fst
    | with_reducible apply canon_ite_fst_s
    | simp only [canon_mk_iff]
    | split
    | intro _

theorem canon_onesDone {kw kt kr ks km kp kv kx} {s : Chip} {port : Nat} {fn : Nat} {len : Nat} (h_s : s.Canon kw kt
    kr ks km kp kv kx) : (onesDone s port fn len).Canon kw kt kr ks km kp kv kx := by
  unfold onesDone
  try dsimp only
  repeat' first
    | with_reducible assumption
    | with_reducible apply canon_emit

theorem canon_bar2ReadAt {kw kt kr ks kp kv xb xq xl xm xn xc} {s : Chip} {port : Nat} {fn : Nat} {p : Nat} {a : Nat}
    {len : Nat} {g : Admit} (h_s : s.Canon kw kt kr ks none kp kv ⟨xb, xq, xl, xm, none, xn, xc⟩) : (bar2ReadAt s port
    fn p a len g).Canon kw kt kr ks none kp kv ⟨xb, xq, xl, xm, none, xn, xc⟩ := by
  unfold bar2ReadAt
  try dsimp only
  repeat' first
    | with_reducible assumption
    | with_reducible apply canon_emit
    | with_reducible apply canon_refuseAccess
    | with_reducible apply canon_readMeets
    | with_reducible apply canon_admitted
    | with_reducible apply canon_onesDone
    | with_reducible apply canon_ite
    | with_reducible apply canon_ite_s
    | with_reducible apply canon_ite_fst
    | with_reducible apply canon_ite_fst_s
    | simp only [canon_mk_iff]
    | split
    | intro _

theorem canon_bar2Read {kw kt kr ks kp kv xb xq xl xm xn xc} {s : Chip} {port : Nat} {fn : Nat} {o : Nat} {len : Nat}
    (h_s : s.Canon kw kt kr ks none kp kv ⟨xb, xq, xl, xm, none, xn, xc⟩) : (bar2Read s port fn o len).Canon kw kt kr
    ks none kp kv ⟨xb, xq, xl, xm, none, xn, xc⟩ := by
  unfold bar2Read
  try dsimp only
  repeat' first
    | with_reducible assumption
    | with_reducible apply canon_Rd_girthAdmit
    | with_reducible apply canon_onesDone
    | with_reducible apply canon_bar2ReadAt
    | with_reducible apply canon_ite
    | with_reducible apply canon_ite_s
    | with_reducible apply canon_ite_fst
    | with_reducible apply canon_ite_fst_s
    | simp only [canon_mk_iff]
    | split
    | intro _

theorem canon_bar2WriteAt {kw kt kr ks kp kv kx} {s : Chip} {p : Nat} {a : Nat} {l : List Byte} {g : Admit} (h_s :
    s.Canon kw kt kr ks none kp kv kx) : (bar2WriteAt s p a l g).Canon kw kt kr ks none kp kv kx := by
  unfold bar2WriteAt
  try dsimp only
  repeat' first
    | with_reducible assumption
    | with_reducible apply canon_refuseAccess
    | with_reducible apply canon_memPut
    | with_reducible apply canon_admitted
    | with_reducible apply canon_ite
    | with_reducible apply canon_ite_s
    | with_reducible apply canon_ite_fst
    | with_reducible apply canon_ite_fst_s
    | simp only [canon_mk_iff]
    | split

theorem canon_bar2Write {kw kt kr ks kp kv kx} {s : Chip} {port : Nat} {fn : Nat} {o : Nat} {l : List Byte} (h_s :
    s.Canon kw kt kr ks none kp kv kx) : (bar2Write s port fn o l).Canon kw kt kr ks none kp kv kx := by
  unfold bar2Write
  try dsimp only
  repeat' first
    | with_reducible assumption
    | with_reducible apply canon_Rd_girthAdmit
    | with_reducible apply canon_bar2WriteAt
    | with_reducible apply canon_ite
    | with_reducible apply canon_ite_s
    | with_reducible apply canon_ite_fst
    | with_reducible apply canon_ite_fst_s
    | simp only [canon_mk_iff]
    | split
    | intro _

theorem canon_windowRefuse {kw kt kr ks km kp kv kx} {s : Chip} {port : Nat} {fn : Nat} (h_s : s.Canon kw kt kr ks km
    kp kv kx) : (windowRefuse s port fn).Canon kw kt kr ks km kp kv kx := by
  unfold windowRefuse
  try dsimp only
  repeat' first
    | with_reducible assumption
    | with_reducible apply canon_bump

theorem canon_windowWake {kw kt kr ks km kp kv kx} {s : Chip} {port : Nat} {fn : Nat} {o : Nat} {len : Nat} (h_s :
    s.Canon kw kt kr ks km kp kv kx) : (windowWake s port fn o len).Canon kw kt kr ks km kp kv kx := by
  unfold windowWake
  try dsimp only
  repeat' first
    | with_reducible assumption
    | with_reducible apply canon_regionCall
    | with_reducible apply canon_foldl
    | with_reducible apply canon_foldl_fst
    | with_reducible apply canon_foldl_rd
    | with_reducible apply canon_foldl_rd_fst
    | with_reducible apply canon_foldl_x
    | with_reducible apply canon_foldl_run_fst
    | with_reducible apply canon_ite
    | with_reducible apply canon_ite_s
    | with_reducible apply canon_ite_fst
    | with_reducible apply canon_ite_fst_s
    | simp only [canon_mk_iff]
    | split
    | intro _

theorem canon_windowReadPart {kw kt kr ks kv xn xc} {port : Nat} {fn : Nat} {x : Chip × List Byte × Bool} {e : Nat ×
    Nat} (h_x : x.1.Canon kw kt kr ks none none kv ⟨none, none, none, none, none, xn, xc⟩) : (windowReadPart port fn x
    e).1.Canon kw kt kr ks none none kv ⟨none, none, none, none, none, xn, xc⟩ := by
  unfold windowReadPart
  try dsimp only
  repeat' first
    | with_reducible assumption
    | with_reducible apply canon_padMeets
    | with_reducible apply canon_windowRefuse
    | with_reducible apply canon_ite
    | with_reducible apply canon_ite_s
    | with_reducible apply canon_ite_fst
    | with_reducible apply canon_ite_fst_s
    | simp only [canon_mk_iff]
    | split
    | intro _

theorem canon_windowAnswer {kw kt kr ks km kp kv kx} {r : Chip × List Byte × Bool} {port : Nat} {fn : Nat} {len : Nat}
    (h_r : r.1.Canon kw kt kr ks km kp kv kx) : (windowAnswer r port fn len).Canon kw kt kr ks km kp kv kx := by
  unfold windowAnswer
  try dsimp only
  repeat' first
    | with_reducible assumption
    | with_reducible apply canon_emit

theorem canon_spadWindowRead {kw kt kr ks kv xn xc} {s : Chip} {port : Nat} {fn : Nat} {o : Nat} {len : Nat} (h_s :
    s.Canon kw kt kr ks none none kv ⟨none, none, none, none, none, xn, xc⟩) : (spadWindowRead s port fn o len).Canon
    kw kt kr ks none none kv ⟨none, none, none, none, none, xn, xc⟩ := by
  unfold spadWindowRead
  try dsimp only
  repeat' first
    | with_reducible assumption
    | with_reducible apply canon_onesDone
    | with_reducible apply canon_windowWake
    | with_reducible apply canon_windowReadPart
    | with_reducible apply canon_windowAnswer
    | with_reducible apply canon_foldl
    | with_reducible apply canon_foldl_fst
    | with_reducible apply canon_foldl_rd
    | with_reducible apply canon_foldl_rd_fst
    | with_reducible apply canon_foldl_x
    | with_reducible apply canon_foldl_run_fst
    | with_reducible apply canon_ite
    | with_reducible apply canon_ite_s
    | with_reducible apply canon_ite_fst
    | with_reducible apply canon_ite_fst_s
    | simp only [canon_mk_iff]
    | split
    | intro _

theorem canon_windowWritePart {kw kt kr ks kv xn xc} {port : Nat} {fn : Nat} {o : Nat} {l : List Byte} {t : Chip} {e :
    Nat × Nat} (h_t : t.Canon kw kt kr ks none none kv ⟨none, none, none, none, none, xn, xc⟩) : (windowWritePart port
    fn o l t e).Canon kw kt kr ks none none kv ⟨none, none, none, none, none, xn, xc⟩ := by
  unfold windowWritePart
  try dsimp only
  repeat' first
    | with_reducible assumption
    | with_reducible apply canon_padPut
    | with_reducible apply canon_Rd_drop
    | with_reducible apply canon_EditEnv_drop
    | with_reducible apply canon_windowRefuse
    | with_reducible apply canon_ite
    | with_reducible apply canon_ite_s
    | with_reducible apply canon_ite_fst
    | with_reducible apply canon_ite_fst_s
    | simp only [canon_mk_iff]
    | split
    | intro _

theorem canon_spadWindowWrite {kw kt kr ks kv xn xc} {s : Chip} {port : Nat} {fn : Nat} {o : Nat} {l : List Byte} (h_s
    : s.Canon kw kt kr ks none none kv ⟨none, none, none, none, none, xn, xc⟩) : (spadWindowWrite s port fn o l).Canon
    kw kt kr ks none none kv ⟨none, none, none, none, none, xn, xc⟩ := by
  unfold spadWindowWrite
  try dsimp only
  repeat' first
    | with_reducible assumption
    | with_reducible apply canon_windowWake
    | with_reducible apply canon_windowWritePart
    | with_reducible apply canon_foldl
    | with_reducible apply canon_foldl_fst
    | with_reducible apply canon_foldl_rd
    | with_reducible apply canon_foldl_rd_fst
    | with_reducible apply canon_foldl_x
    | with_reducible apply canon_foldl_run_fst
    | with_reducible apply canon_ite
    | with_reducible apply canon_ite_s
    | with_reducible apply canon_ite_fst
    | with_reducible apply canon_ite_fst_s
    | simp only [canon_mk_iff]
    | split
    | intro _

theorem canon_atomicOpRequest {kw kt kr ks km kp kv xb xq xl xm xn xc} {s : Chip} {port : Nat} {fn : Nat} (h_s :
    s.Canon kw kt kr ks km kp kv ⟨xb, xq, xl, xm, none, xn, xc⟩) : (atomicOpRequest s port fn).Canon kw kt kr ks km kp
    kv ⟨xb, xq, xl, xm, none, xn, xc⟩ := by
  unfold atomicOpRequest
  try dsimp only
  repeat' first
    | with_reducible assumption
    | with_reducible apply canon_emit
    | with_reducible apply canon_setAer
    | with_reducible apply canon_ite
    | with_reducible apply canon_ite_s
    | with_reducible apply canon_ite_fst
    | with_reducible apply canon_ite_fst_s
    | simp only [canon_mk_iff]
    | split
    | intro _

theorem canon_hostCompletionTimeout {kw kt kr ks xn xc} {s : Chip} {o : Origin} (h_s : s.Canon kw kt kr ks none none
    none ⟨none, none, none, none, none, xn, xc⟩) : (hostCompletionTimeout s o).Canon kw kt kr ks none none none ⟨none,
    none, none, none, none, xn, xc⟩ := by
  unfold hostCompletionTimeout
  try dsimp only
  repeat' first
    | with_reducible assumption
    | with_reducible apply canon_handTo
    | with_reducible apply canon_eventHost
    | with_reducible apply canon_dmaCopy
    | with_reducible apply canon_commandFetch
    | with_reducible apply canon_serveSubmit
    | with_reducible apply canon_ite
    | with_reducible apply canon_ite_s
    | with_reducible apply canon_ite_fst
    | with_reducible apply canon_ite_fst_s
    | simp only [canon_mk_iff]
    | split
    | intro _

end Sys2Proof.Machine
end

