-- ==== Sys2Proof/Laws/CanonMesh.lean ====
section
/-! SUPPORT. The operations of Machine/Mesh.lean keep the canonical form. -/
set_option linter.all false
namespace Sys2Proof.Machine

theorem canon_packPayload {kw kt kr ks km kp kv kx} {s : Chip} {r : Nat} {p : Nat} {l : List Byte} {bad : Keys} (h_s :
    s.Canon kw kt kr ks km kp kv kx) : (packPayload s r p l bad).1.Canon kw kt kr ks km kp kv kx := by
  unfold packPayload
  try dsimp only
  repeat' first
    | with_reducible assumption
    | with_reducible apply canon_countUnit
    | with_reducible apply canon_Rd_drop
    | with_reducible apply canon_EditEnv_drop
    | with_reducible apply canon_foldl
    | with_reducible apply canon_foldl_fst
    | with_reducible apply canon_foldl_rd
    | with_reducible apply canon_foldl_rd_fst
    | with_reducible apply canon_foldl_x
    | with_reducible apply canon_foldl_run_fst
    | with_reducible apply canon_ite
    | with_reducible apply canon_ite_s
    | with_reducible apply canon_ite_fst
    | with_reducible apply canon_ite_fst_s
    | simp only [canon_mk_iff]
    | split
    | intro _

theorem canon_unpackUnits {kw kt kr ks km kp kv xb xq xl xm xn xc} {r : Nat} {p : Nat} {z0 : Nat} {z1 : List Nat} {z2
    : List Byte} {z3 : Chip} {z4 : Keys} {z5 : List Byte} (h_z3 : z3.Canon kw kt kr ks km kp kv ⟨xb, xq, xl, xm, none,
    xn, xc⟩) : (unpackUnits r p z0 z1 z2 z3 z4 z5).1.Canon kw kt kr ks km kp kv ⟨xb, xq, xl, xm, none, xn, xc⟩ := by
  induction z1 generalizing r p z0 z2 z3 z4 z5 with
  | nil =>
      unfold unpackUnits
      try dsimp only
      repeat' first
        | with_reducible assumption
  | cons a l ih =>
      unfold unpackUnits
      try dsimp only
      repeat' first
        | with_reducible assumption
        | with_reducible apply ih
        | with_reducible apply canon_bump64
        | with_reducible apply canon_report
        | with_reducible apply canon_Rd_drop
        | with_reducible apply canon_Rd_unit
        | with_reducible apply canon_EditEnv_drop
        | with_reducible apply canon_foldl
        | with_reducible apply canon_foldl_fst
        | with_reducible apply canon_foldl_rd
        | with_reducible apply canon_foldl_rd_fst
        | with_reducible apply canon_foldl_x
        | with_reducible apply canon_foldl_run_fst
        | with_reducible apply canon_ite
        | with_reducible apply canon_ite_s
        | with_reducible apply canon_ite_fst
        | with_reducible apply canon_ite_fst_s
        | simp only [canon_mk_iff]
        | split
        | intro _

theorem canon_unpackPayload {kw kt kr ks km kp kv xb xq xl xm xn xc} {s : Chip} {r : Nat} {p : Nat} {d : Payload} (h_s
    : s.Canon kw kt kr ks km kp kv ⟨xb, xq, xl, xm, none, xn, xc⟩) : (unpackPayload s r p d).1.Canon kw kt kr ks km kp
    kv ⟨xb, xq, xl, xm, none, xn, xc⟩ := by
  unfold unpackPayload
  try dsimp only
  repeat' first
    | with_reducible assumption
    | with_reducible apply canon_unpackUnits

theorem canon_readLines {kw kt kr ks kv xn xc} {s : Chip} {o : Origin} {x : Place} {len : Nat} (h_s : s.Canon kw kt kr
    ks none none kv ⟨none, none, none, none, none, xn, xc⟩) : (readLines s o x len).1.Canon kw kt kr ks none none kv
    ⟨none, none, none, none, none, xn, xc⟩ := by
  unfold readLines
  try dsimp only
  repeat' first
    | with_reducible assumption
    | with_reducible apply canon_placeRead
    | with_reducible apply canon_foldl
    | with_reducible apply canon_foldl_fst
    | with_reducible apply canon_foldl_rd
    | with_reducible apply canon_foldl_rd_fst
    | with_reducible apply canon_foldl_x
    | with_reducible apply canon_foldl_run_fst
    | with_reducible apply canon_ite
    | with_reducible apply canon_ite_s
    | with_reducible apply canon_ite_fst
    | with_reducible apply canon_ite_fst_s
    | simp only [canon_mk_iff]
    | split
    | intro _

theorem canon_poisonLines {kw kt kr ks kp kv kx} {s : Chip} {a : Nat} {n : Nat} {bad : Keys} (h_s : s.Canon kw kt kr
    ks none kp kv kx) : (poisonLines s a n bad).Canon kw kt kr ks none kp kv kx := by
  unfold poisonLines
  try dsimp only
  repeat' first
    | with_reducible assumption
    | with_reducible apply canon_poisonRun
    | with_reducible apply canon_foldl
    | with_reducible apply canon_foldl_fst
    | with_reducible apply canon_foldl_rd
    | with_reducible apply canon_foldl_rd_fst
    | with_reducible apply canon_foldl_x
    | with_reducible apply canon_foldl_run_fst
    | with_reducible apply canon_ite
    | with_reducible apply canon_ite_s
    | with_reducible apply canon_ite_fst
    | with_reducible apply canon_ite_fst_s
    | simp only [canon_mk_iff]
    | split
    | intro _

theorem canon_sendPacket {kw kt kr ks km kp kv xb xq xl xh xn xc} {s : Chip} {port : Nat} {k : Packet} (h_s : s.Canon
    kw kt kr ks km kp kv ⟨xb, xq, xl, none, xh, xn, xc⟩) : (sendPacket s port k).Canon kw kt kr ks km kp kv ⟨xb, xq,
    xl, none, xh, xn, xc⟩ := by
  unfold sendPacket
  try dsimp only
  repeat' first
    | with_reducible assumption
    | with_reducible apply canon_emit
    | with_reducible apply canon_countTx

theorem canon_addXfer {kw kt kr ks km kp kv xb xq xl xh xn xc} {s : Chip} {p : Nat} {who : Option (Origin × Body)}
    {kind : XferKind} {port : Nat} (h_s : s.Canon kw kt kr ks km kp kv ⟨xb, xq, xl, none, xh, xn, xc⟩) : (addXfer s p
    who kind port).Canon kw kt kr ks km kp kv ⟨xb, xq, xl, none, xh, xn, xc⟩ := by
  unfold addXfer
  try dsimp only
  repeat' first
    | with_reducible assumption
    | with_reducible apply canon_ite
    | with_reducible apply canon_ite_s
    | with_reducible apply canon_ite_fst
    | with_reducible apply canon_ite_fst_s
    | simp only [canon_mkm_iff]

theorem canon_dropXfer {kw kt kr ks km kp kv xb xq xl xh xn xc} {s : Chip} {id : Nat} (h_s : s.Canon kw kt kr ks km kp
    kv ⟨xb, xq, xl, none, xh, xn, xc⟩) : (dropXfer s id).Canon kw kt kr ks km kp kv ⟨xb, xq, xl, none, xh, xn, xc⟩ :=
    by
  unfold dropXfer
  try dsimp only
  repeat' first
    | with_reducible assumption
    | with_reducible apply canon_ite
    | with_reducible apply canon_ite_s
    | with_reducible apply canon_ite_fst
    | with_reducible apply canon_ite_fst_s
    | simp only [canon_mkm_iff]

theorem canon_setColl {kw kt kr ks km kp kv xb xq xl xh xn xc} {s : Chip} {id : Nat} {f : Coll → Coll} (h_s : s.Canon
    kw kt kr ks km kp kv ⟨xb, xq, xl, none, xh, xn, xc⟩) : (setColl s id f).Canon kw kt kr ks km kp kv ⟨xb, xq, xl,
    none, xh, xn, xc⟩ := by
  unfold setColl
  try dsimp only
  repeat' first
    | with_reducible assumption
    | with_reducible apply canon_ite
    | with_reducible apply canon_ite_s
    | with_reducible apply canon_ite_fst
    | with_reducible apply canon_ite_fst_s
    | simp only [canon_mkm_iff]

theorem canon_srnFault {kw kt kr ks kp kv xn xc} {s : Chip} {port : Nat} {o : Origin} {op : Nat} {b : Body} {code :
    Nat} (h_s : s.Canon kw kt kr ks none kp kv ⟨none, none, none, none, none, xn, xc⟩) : (srnFault s port o op b
    code).Canon kw kt kr ks none kp kv ⟨none, none, none, none, none, xn, xc⟩ := by
  unfold srnFault
  try dsimp only
  repeat' first
    | with_reducible assumption
    | with_reducible apply canon_handTo
    | with_reducible apply canon_faultJob
    | with_reducible apply canon_faultQueue
    | with_reducible apply canon_dmaDone
    | with_reducible apply canon_ite
    | with_reducible apply canon_ite_s
    | with_reducible apply canon_ite_fst
    | with_reducible apply canon_ite_fst_s
    | simp only [canon_mk_iff]
    | split
    | intro _

theorem canon_loseBuf {kw kt kr ks kp kv kx} {s : Chip} {p : Nat} {c : Coll} (h_s : s.Canon kw kt kr ks none kp kv kx)
    : (loseBuf s p c).Canon kw kt kr ks none kp kv kx := by
  unfold loseBuf
  try dsimp only
  repeat' first
    | with_reducible assumption
    | with_reducible apply canon_draw
    | with_reducible apply canon_memPut
    | with_reducible apply canon_foldl
    | with_reducible apply canon_foldl_fst
    | with_reducible apply canon_foldl_rd
    | with_reducible apply canon_foldl_rd_fst
    | with_reducible apply canon_foldl_x
    | with_reducible apply canon_foldl_run_fst
    | with_reducible apply canon_ite
    | with_reducible apply canon_ite_s
    | with_reducible apply canon_ite_fst
    | with_reducible apply canon_ite_fst_s
    | simp only [canon_mk_iff]
    | split
    | intro _

theorem canon_failXfer {kw kt kr ks kp kv xn xc} {s : Chip} {x : Xfer} {code : Nat} (h_s : s.Canon kw kt kr ks none kp
    kv ⟨none, none, none, none, none, xn, xc⟩) : (failXfer s x code).Canon kw kt kr ks none kp kv ⟨none, none, none,
    none, none, xn, xc⟩ := by
  unfold failXfer
  try dsimp only
  repeat' first
    | with_reducible assumption
    | with_reducible apply canon_mirrorLost
    | with_reducible apply canon_dropXfer
    | with_reducible apply canon_srnFault
    | with_reducible apply canon_loseBuf
    | with_reducible apply canon_ite
    | with_reducible apply canon_ite_s
    | with_reducible apply canon_ite_fst
    | with_reducible apply canon_ite_fst_s
    | simp only [canon_mk_iff]
    | split

theorem canon_landRead {kw kt kr ks kv xn xc} {s : Chip} {o : Origin} {x : Place} {l : List Byte} {bad : Keys} (h_s :
    s.Canon kw kt kr ks none none kv ⟨none, none, none, none, none, xn, xc⟩) : (landRead s o x l bad).1.Canon kw kt kr
    ks none none kv ⟨none, none, none, none, none, xn, xc⟩ := by
  unfold landRead
  try dsimp only
  repeat' first
    | with_reducible assumption
    | with_reducible apply canon_narrowRun
    | with_reducible apply canon_placeMarked
    | with_reducible apply canon_ite
    | with_reducible apply canon_ite_s
    | with_reducible apply canon_ite_fst
    | with_reducible apply canon_ite_fst_s
    | simp only [canon_mk_iff]
    | split
    | intro _

theorem canon_readCome {kw kt kr ks km kp kv xb xq xl xh xn xc} {s : Chip} {id : Nat} (h_s : s.Canon kw kt kr ks km kp
    kv ⟨xb, xq, xl, none, xh, xn, xc⟩) : (readCome s id).Canon kw kt kr ks km kp kv ⟨xb, xq, xl, none, xh, xn, xc⟩ :=
    by
  unfold readCome
  try dsimp only
  repeat' first
    | with_reducible assumption
    | with_reducible apply canon_Rd_read
    | with_reducible apply canon_AttendRun_read
    | with_reducible apply canon_ite
    | with_reducible apply canon_ite_s
    | with_reducible apply canon_ite_fst
    | with_reducible apply canon_ite_fst_s
    | simp only [canon_mkm_iff]

theorem canon_readArrived {kw kt kr ks kv xn xc} {s : Chip} {x : Xfer} {o : Origin} {b : Body} {space : Nat} {dst :
    Nat} {d : Payload} (h_s : s.Canon kw kt kr ks none none kv ⟨none, none, none, none, none, xn, xc⟩) : (readArrived
    s x o b space dst d).Canon kw kt kr ks none none kv ⟨none, none, none, none, none, xn, xc⟩ := by
  unfold readArrived
  try dsimp only
  repeat' first
    | with_reducible assumption
    | with_reducible apply canon_runsHeld
    | with_reducible apply canon_handTo
    | with_reducible apply canon_dmaDone
    | with_reducible apply canon_faultPlace
    | with_reducible apply canon_EditEnv_place
    | with_reducible apply canon_unpackPayload
    | with_reducible apply canon_dropXfer
    | with_reducible apply canon_landRead
    | with_reducible apply canon_readCome
    | with_reducible apply canon_ite
    | with_reducible apply canon_ite_s
    | with_reducible apply canon_ite_fst
    | with_reducible apply canon_ite_fst_s
    | simp only [canon_mk_iff]
    | split
    | intro _

theorem canon_takeAck {kw kt kr ks kv xn xc} {s : Chip} {x : Xfer} {d : Payload} (h_s : s.Canon kw kt kr ks none none
    kv ⟨none, none, none, none, none, xn, xc⟩) : (takeAck s x d).Canon kw kt kr ks none none kv ⟨none, none, none,
    none, none, xn, xc⟩ := by
  unfold takeAck
  try dsimp only
  repeat' first
    | with_reducible assumption
    | with_reducible apply canon_handTo
    | with_reducible apply canon_dmaDone
    | with_reducible apply canon_Rd_read
    | with_reducible apply canon_AttendRun_read
    | with_reducible apply canon_dropXfer
    | with_reducible apply canon_failXfer
    | with_reducible apply canon_readArrived
    | with_reducible apply canon_ite
    | with_reducible apply canon_ite_s
    | with_reducible apply canon_ite_fst
    | with_reducible apply canon_ite_fst_s
    | simp only [canon_mk_iff]
    | split
    | intro _

theorem canon_srnAckArrival {kw kt kr ks kv xn xc} {s : Chip} {id : Nat} {d : Payload} (h_s : s.Canon kw kt kr ks none
    none kv ⟨none, none, none, none, none, xn, xc⟩) : (srnAckArrival s id d).Canon kw kt kr ks none none kv ⟨none,
    none, none, none, none, xn, xc⟩ := by
  unfold srnAckArrival
  try dsimp only
  repeat' first
    | with_reducible assumption
    | with_reducible apply canon_countRx
    | with_reducible apply canon_takeAck
    | with_reducible apply canon_ite
    | with_reducible apply canon_ite_s
    | with_reducible apply canon_ite_fst
    | with_reducible apply canon_ite_fst_s
    | simp only [canon_mk_iff]
    | split
    | intro _

theorem canon_srnRefusalArrival {kw kt kr ks kp kv xn xc} {s : Chip} {id : Nat} {reason : RefusalReason} (h_s :
    s.Canon kw kt kr ks none kp kv ⟨none, none, none, none, none, xn, xc⟩) : (srnRefusalArrival s id reason).Canon kw
    kt kr ks none kp kv ⟨none, none, none, none, none, xn, xc⟩ := by
  unfold srnRefusalArrival
  try dsimp only
  repeat' first
    | with_reducible assumption
    | with_reducible apply canon_failXfer
    | with_reducible apply canon_ite
    | with_reducible apply canon_ite_s
    | with_reducible apply canon_ite_fst
    | with_reducible apply canon_ite_fst_s
    | simp only [canon_mk_iff]
    | split

theorem canon_srnAckTimeout {kw kt kr ks kp kv xn xc} {s : Chip} {id : Nat} (h_s : s.Canon kw kt kr ks none kp kv
    ⟨none, none, none, none, none, xn, xc⟩) : (srnAckTimeout s id).Canon kw kt kr ks none kp kv ⟨none, none, none,
    none, none, xn, xc⟩ := by
  unfold srnAckTimeout
  try dsimp only
  repeat' first
    | with_reducible assumption
    | with_reducible apply canon_failXfer
    | with_reducible apply canon_ite
    | with_reducible apply canon_ite_s
    | with_reducible apply canon_ite_fst
    | with_reducible apply canon_ite_fst_s
    | simp only [canon_mk_iff]
    | split
    | intro _

theorem canon_srnCollTimeout {kw kt kr ks kp kv xn xc} {s : Chip} {id : Nat} (h_s : s.Canon kw kt kr ks none kp kv
    ⟨none, none, none, none, none, xn, xc⟩) : (srnCollTimeout s id).Canon kw kt kr ks none kp kv ⟨none, none, none,
    none, none, xn, xc⟩ := by
  unfold srnCollTimeout
  try dsimp only
  repeat' first
    | with_reducible assumption
    | with_reducible apply canon_failXfer
    | with_reducible apply canon_ite
    | with_reducible apply canon_ite_s
    | with_reducible apply canon_ite_fst
    | with_reducible apply canon_ite_fst_s
    | simp only [canon_mk_iff]
    | split
    | intro _

theorem canon_failColl {kw kt kr ks kp kv xn xc} {s : Chip} {x : Xfer} {o : Origin} {b : Body} {c : Coll} {code : Nat}
    {a : Nat} (h_s : s.Canon kw kt kr ks none kp kv ⟨none, none, none, none, none, xn, xc⟩) : (failColl s x o b c code
    a).Canon kw kt kr ks none kp kv ⟨none, none, none, none, none, xn, xc⟩ := by
  unfold failColl
  try dsimp only
  repeat' first
    | with_reducible assumption
    | with_reducible apply canon_handTo
    | with_reducible apply canon_faultMem
    | with_reducible apply canon_dmaDone
    | with_reducible apply canon_dropXfer
    | with_reducible apply canon_loseBuf

theorem canon_collGo {kw kt kr ks kv xn xc} {z0 : Nat} {z1 : Nat} {z2 : Chip} (h_z2 : z2.Canon kw kt kr ks none none
    kv ⟨none, none, none, none, none, xn, xc⟩) : (collGo z0 z1 z2).Canon kw kt kr ks none none kv ⟨none, none, none,
    none, none, xn, xc⟩ := by
  induction z0 generalizing z1 z2 with
  | zero =>
      unfold collGo
      try dsimp only
      repeat' first
        | with_reducible assumption
  | succ k ih =>
      unfold collGo
      try dsimp only
      repeat' first
        | with_reducible assumption
        | with_reducible apply ih
        | with_reducible apply canon_runsHeld
        | with_reducible apply canon_dmaDone
        | with_reducible apply canon_EditEnv_run
        | with_reducible apply canon_packPayload
        | with_reducible apply canon_readLines
        | with_reducible apply canon_sendPacket
        | with_reducible apply canon_dropXfer
        | with_reducible apply canon_setColl
        | with_reducible apply canon_failXfer
        | with_reducible apply canon_failColl
        | with_reducible apply canon_ite
        | with_reducible apply canon_ite_s
        | with_reducible apply canon_ite_fst
        | with_reducible apply canon_ite_fst_s
        | simp only [canon_mk_iff]
        | split
        | intro _

theorem canon_collsResume {kw kt kr ks kv xn xc} {s : Chip} (h_s : s.Canon kw kt kr ks none none kv ⟨none, none, none,
    none, none, xn, xc⟩) : (collsResume s).Canon kw kt kr ks none none kv ⟨none, none, none, none, none, xn, xc⟩ := by
  unfold collsResume
  try dsimp only
  repeat' first
    | with_reducible assumption
    | with_reducible apply canon_collGo
    | with_reducible apply canon_foldl
    | with_reducible apply canon_foldl_fst
    | with_reducible apply canon_foldl_rd
    | with_reducible apply canon_foldl_rd_fst
    | with_reducible apply canon_foldl_x
    | with_reducible apply canon_foldl_run_fst
    | with_reducible apply canon_ite
    | with_reducible apply canon_ite_s
    | with_reducible apply canon_ite_fst
    | with_reducible apply canon_ite_fst_s
    | simp only [canon_mk_iff]
    | split
    | intro _

theorem canon_memoryGoes {kw kt kr ks kv xn xc} {s : Chip} (h_s : s.Canon kw kt kr ks none none kv ⟨none, none, none,
    none, none, xn, xc⟩) : (memoryGoes s).Canon kw kt kr ks none none kv ⟨none, none, none, none, none, xn, xc⟩ := by
  unfold memoryGoes
  try dsimp only
  repeat' first
    | with_reducible assumption
    | with_reducible apply canon_drainAll
    | with_reducible apply canon_collsResume

theorem canon_checkDigests {kw kt kr ks kp kv xn xc} {s : Chip} (h_s : s.Canon kw kt kr ks none kp kv ⟨none, none,
    none, none, none, xn, xc⟩) : (checkDigests s).Canon kw kt kr ks none kp kv ⟨none, none, none, none, none, xn, xc⟩
    := by
  unfold checkDigests
  try dsimp only
  repeat' first
    | with_reducible assumption
    | with_reducible apply canon_failXfer
    | with_reducible apply canon_foldl
    | with_reducible apply canon_foldl_fst
    | with_reducible apply canon_foldl_rd
    | with_reducible apply canon_foldl_rd_fst
    | with_reducible apply canon_foldl_x
    | with_reducible apply canon_foldl_run_fst
    | with_reducible apply canon_ite
    | with_reducible apply canon_ite_s
    | with_reducible apply canon_ite_fst
    | with_reducible apply canon_ite_fst_s
    | simp only [canon_mk_iff]
    | split
    | intro _

theorem canon_collStart {kw kt kr ks kv xn xc} {s : Chip} {o : Origin} {b : Body} (h_s : s.Canon kw kt kr ks none none
    kv ⟨none, none, none, none, none, xn, xc⟩) : (collStart s o b).Canon kw kt kr ks none none kv ⟨none, none, none,
    none, none, xn, xc⟩ := by
  unfold collStart
  try dsimp only
  repeat' first
    | with_reducible assumption
    | with_reducible apply canon_addXfer
    | with_reducible apply canon_collGo

theorem canon_srnAllreduce {kw kt kr ks kv xn xc} {s : Chip} {o : Origin} {b : Body} (h_s : s.Canon kw kt kr ks none
    none kv ⟨none, none, none, none, none, xn, xc⟩) : (srnAllreduce s o b).Canon kw kt kr ks none none kv ⟨none, none,
    none, none, none, xn, xc⟩ := by
  unfold srnAllreduce
  try dsimp only
  repeat' first
    | with_reducible assumption
    | with_reducible apply canon_runsHeld
    | with_reducible apply canon_faultQueue
    | with_reducible apply canon_faultMem
    | with_reducible apply canon_dmaDone
    | with_reducible apply canon_srnFault
    | with_reducible apply canon_loseBuf
    | with_reducible apply canon_collStart
    | with_reducible apply canon_ite
    | with_reducible apply canon_ite_s
    | with_reducible apply canon_ite_fst
    | with_reducible apply canon_ite_fst_s
    | simp only [canon_mk_iff]
    | split
    | intro _

theorem canon_refuseRemote {kw kt kr ks km kp kv kx} {s : Chip} {port : Nat} (h_s : s.Canon kw kt kr ks km kp kv kx) :
    (refuseRemote s port).1.Canon kw kt kr ks km kp kv kx := by
  unfold refuseRemote
  try dsimp only
  repeat' first
    | with_reducible assumption
    | with_reducible apply canon_bump

theorem canon_refuseRun {kw kt kr ks km kp kv kx} {s : Chip} {port : Nat} {a : Nat} (h_s : s.Canon kw kt kr ks km kp
    kv kx) : (refuseRun s port a).1.Canon kw kt kr ks km kp kv kx := by
  unfold refuseRun
  try dsimp only
  repeat' first
    | with_reducible assumption
    | with_reducible apply canon_refuseAccess
    | with_reducible apply canon_Rd_refused
    | with_reducible apply canon_refuseRemote
    | with_reducible apply canon_ite
    | with_reducible apply canon_ite_s
    | with_reducible apply canon_ite_fst
    | with_reducible apply canon_ite_fst_s
    | simp only [canon_mk_iff]
    | split
    | intro _

theorem canon_writeRemote {kw kt kr ks kp kv xb xq xl xm xn xc} {s : Chip} {port : Nat} {p : Nat} {a : Nat} {d :
    Payload} (h_s : s.Canon kw kt kr ks none kp kv ⟨xb, xq, xl, xm, none, xn, xc⟩) : (writeRemote s port p a
    d).1.Canon kw kt kr ks none kp kv ⟨xb, xq, xl, xm, none, xn, xc⟩ := by
  unfold writeRemote
  try dsimp only
  repeat' first
    | with_reducible assumption
    | with_reducible apply canon_memPut
    | with_reducible apply canon_chargeRun
    | with_reducible apply canon_runsHeld
    | with_reducible apply canon_Rd_done
    | with_reducible apply canon_unpackPayload
    | with_reducible apply canon_poisonLines
    | with_reducible apply canon_refuseRun
    | with_reducible apply canon_ite
    | with_reducible apply canon_ite_s
    | with_reducible apply canon_ite_fst
    | with_reducible apply canon_ite_fst_s
    | simp only [canon_mk_iff]
    | split

theorem canon_updateRemote {kw kt kr ks kp kv xb xq xl xm xn xc} {s : Chip} {p : Nat} {a : Nat} {ty : Nat} {op : Nat}
    {uns : Bool} {d : Payload} (h_s : s.Canon kw kt kr ks none kp kv ⟨xb, xq, xl, xm, none, xn, xc⟩) : (updateRemote s
    p a ty op uns d).Canon kw kt kr ks none kp kv ⟨xb, xq, xl, xm, none, xn, xc⟩ := by
  unfold updateRemote
  try dsimp only
  repeat' first
    | with_reducible assumption
    | with_reducible apply canon_readMeets
    | with_reducible apply canon_chargeRun
    | with_reducible apply canon_updateLine
    | with_reducible apply canon_countGranules
    | with_reducible apply canon_Rd_drop
    | with_reducible apply canon_EditEnv_drop
    | with_reducible apply canon_unpackPayload
    | with_reducible apply canon_foldl
    | with_reducible apply canon_foldl_fst
    | with_reducible apply canon_foldl_rd
    | with_reducible apply canon_foldl_rd_fst
    | with_reducible apply canon_foldl_x
    | with_reducible apply canon_foldl_run_fst
    | with_reducible apply canon_ite
    | with_reducible apply canon_ite_s
    | with_reducible apply canon_ite_fst
    | with_reducible apply canon_ite_fst_s
    | simp only [canon_mk_iff]
    | split
    | intro _

theorem canon_refuseConfig {kw kt kr ks kp kv xn xc} {s : Chip} {port : Nat} {own : Option (Xfer × Coll)} (h_s :
    s.Canon kw kt kr ks none kp kv ⟨none, none, none, none, none, xn, xc⟩) : (refuseConfig s port own).1.Canon kw kt
    kr ks none kp kv ⟨none, none, none, none, none, xn, xc⟩ := by
  unfold refuseConfig
  try dsimp only
  repeat' first
    | with_reducible assumption
    | with_reducible apply canon_bump
    | with_reducible apply canon_Rd_refused
    | with_reducible apply canon_Rd_own
    | with_reducible apply canon_failXfer
    | with_reducible apply canon_ite
    | with_reducible apply canon_ite_s
    | with_reducible apply canon_ite_fst
    | with_reducible apply canon_ite_fst_s
    | simp only [canon_mk_iff]
    | split

theorem canon_takePart {kw kt kr ks kv xn xc} {s : Chip} {port : Nat} {p : Nat} {id : Nat} {len : Nat} {ty : Nat} {op
    : Nat} {uns : Bool} {digest : Nat} {off : Nat} {column : Bool} {gather : Bool} {d : Payload} (h_s : s.Canon kw kt
    kr ks none none kv ⟨none, none, none, none, none, xn, xc⟩) : (takePart s port p id len ty op uns digest off column
    gather d).1.Canon kw kt kr ks none none kv ⟨none, none, none, none, none, xn, xc⟩ := by
  unfold takePart
  try dsimp only
  repeat' first
    | with_reducible assumption
    | with_reducible apply canon_runsHeld
    | with_reducible apply canon_Rd_own
    | with_reducible apply canon_setColl
    | with_reducible apply canon_failXfer
    | with_reducible apply canon_collGo
    | with_reducible apply canon_refuseRun
    | with_reducible apply canon_writeRemote
    | with_reducible apply canon_updateRemote
    | with_reducible apply canon_refuseConfig
    | with_reducible apply canon_ite
    | with_reducible apply canon_ite_s
    | with_reducible apply canon_ite_fst
    | with_reducible apply canon_ite_fst_s
    | simp only [canon_mk_iff]
    | split
    | intro _

theorem canon_takeSignal {kw kt kr ks km kp kv xb xl xm xh xn xc} {s : Chip} {port : Nat} {p : Nat} {n : Nat} {v :
    Nat} (h_s : s.Canon kw kt kr ks km kp kv ⟨xb, none, xl, xm, xh, xn, xc⟩) : (takeSignal s port p n v).1.Canon kw kt
    kr ks km kp kv ⟨xb, none, xl, xm, xh, xn, xc⟩ := by
  unfold takeSignal
  try dsimp only
  repeat' first
    | with_reducible assumption
    | with_reducible apply canon_regionCall
    | with_reducible apply canon_semAdd
    | with_reducible apply canon_Rd_refused
    | with_reducible apply canon_Rd_done
    | with_reducible apply canon_refuseRemote
    | with_reducible apply canon_ite
    | with_reducible apply canon_ite_s
    | with_reducible apply canon_ite_fst
    | with_reducible apply canon_ite_fst_s
    | simp only [canon_mk_iff]
    | split
    | intro _

theorem canon_deliverTo {kw kt kr ks kv xn xc} {s : Chip} {port : Nat} {p : Nat} {body : PacketBody} (h_s : s.Canon kw
    kt kr ks none none kv ⟨none, none, none, none, none, xn, xc⟩) : (deliverTo s port p body).1.Canon kw kt kr ks none
    none kv ⟨none, none, none, none, none, xn, xc⟩ := by
  unfold deliverTo
  try dsimp only
  repeat' first
    | with_reducible assumption
    | with_reducible apply canon_readMeets
    | with_reducible apply canon_chargeRun
    | with_reducible apply canon_runsHeld
    | with_reducible apply canon_Rd_read
    | with_reducible apply canon_AttendRun_read
    | with_reducible apply canon_Rd_done
    | with_reducible apply canon_packPayload
    | with_reducible apply canon_refuseRemote
    | with_reducible apply canon_refuseRun
    | with_reducible apply canon_writeRemote
    | with_reducible apply canon_updateRemote
    | with_reducible apply canon_takePart
    | with_reducible apply canon_takeSignal
    | with_reducible apply canon_ite
    | with_reducible apply canon_ite_s
    | with_reducible apply canon_ite_fst
    | with_reducible apply canon_ite_fst_s
    | simp only [canon_mk_iff]
    | split
    | intro _

theorem canon_epochRefusal {kw kt kr ks km kp kv kx} {s t : Chip} {port e : Nat} (h_s : s.Canon kw kt kr ks km kp kv kx)
    (h : epochRefusal s port e = some t) : t.Canon kw kt kr ks km kp kv kx := by
  unfold epochRefusal at h
  dsimp only at h
  split at h
  · cases h
  · cases h
    exact canon_bump h_s

theorem canon_deliver {kw kt kr ks kv xn xc} {s : Chip} {port : Nat} {k : Packet} (h_s : s.Canon kw kt kr ks none none
    kv ⟨none, none, none, none, none, xn, xc⟩) : (deliver s port k).1.Canon kw kt kr ks none none kv ⟨none, none,
    none, none, none, xn, xc⟩ := by
  unfold deliver
  try dsimp only
  repeat' first
    | with_reducible assumption
    | with_reducible apply canon_Rd_refused
    | with_reducible apply canon_refuseRemote
    | with_reducible apply canon_deliverTo
    | exact canon_epochRefusal (by assumption) (by assumption)
    | with_reducible apply canon_ite
    | with_reducible apply canon_ite_s
    | with_reducible apply canon_ite_fst
    | with_reducible apply canon_ite_fst_s
    | simp only [canon_mk_iff]
    | split

theorem canon_reply {kw kt kr ks km kp kv xb xq xl xh xn xc} {s : Chip} {k : Packet} {n : Nat} {m : Nat → Out} (h_s :
    s.Canon kw kt kr ks km kp kv ⟨xb, xq, xl, none, xh, xn, xc⟩) : (reply s k n m).Canon kw kt kr ks km kp kv ⟨xb, xq,
    xl, none, xh, xn, xc⟩ := by
  unfold reply
  try dsimp only
  repeat' first
    | with_reducible assumption
    | with_reducible apply canon_emit
    | with_reducible apply canon_countTx
    | with_reducible apply canon_ite
    | with_reducible apply canon_ite_s
    | with_reducible apply canon_ite_fst
    | with_reducible apply canon_ite_fst_s
    | simp only [canon_mk_iff]
    | split
    | intro _

theorem canon_packetArrived {kw kt kr ks km kp kv xb xq xl xh xn xc} {port : Nat} {k : Packet} {e : Chip × Delivery}
    (h_e : e.1.Canon kw kt kr ks km kp kv ⟨xb, xq, xl, none, xh, xn, xc⟩) : (packetArrived port k e).Canon kw kt kr ks
    km kp kv ⟨xb, xq, xl, none, xh, xn, xc⟩ := by
  unfold packetArrived
  try dsimp only
  repeat' first
    | with_reducible assumption
    | with_reducible apply canon_countRx
    | with_reducible apply canon_Rd_refused
    | with_reducible apply canon_Rd_done
    | with_reducible apply canon_reply
    | with_reducible apply canon_ite
    | with_reducible apply canon_ite_s
    | with_reducible apply canon_ite_fst
    | with_reducible apply canon_ite_fst_s
    | simp only [canon_mk_iff]
    | split
    | intro _

theorem canon_takePacket {kw kt kr ks kv xn xc} {s : Chip} {port : Nat} {k : Packet} (h_s : s.Canon kw kt kr ks none
    none kv ⟨none, none, none, none, none, xn, xc⟩) : (takePacket s port k).Canon kw kt kr ks none none kv ⟨none,
    none, none, none, none, xn, xc⟩ := by
  unfold takePacket
  try dsimp only
  repeat' first
    | with_reducible assumption
    | with_reducible apply canon_Rd_deliver
    | with_reducible apply canon_srnAckArrival
    | with_reducible apply canon_srnRefusalArrival
    | with_reducible apply canon_deliver
    | with_reducible apply canon_packetArrived
    | with_reducible apply canon_ite
    | with_reducible apply canon_ite_s
    | with_reducible apply canon_ite_fst
    | with_reducible apply canon_ite_fst_s
    | simp only [canon_mk_iff]
    | split

theorem canon_srnPacketArrival {kw kt kr ks kv xn xc} {s : Chip} {port : Nat} {k : Packet} (h_s : s.Canon kw kt kr ks
    none none kv ⟨none, none, none, none, none, xn, xc⟩) : (srnPacketArrival s port k).Canon kw kt kr ks none none kv
    ⟨none, none, none, none, none, xn, xc⟩ := by
  unfold srnPacketArrival
  try dsimp only
  repeat' first
    | with_reducible assumption
    | with_reducible apply canon_takePacket
    | with_reducible apply canon_ite
    | with_reducible apply canon_ite_s
    | with_reducible apply canon_ite_fst
    | with_reducible apply canon_ite_fst_s
    | simp only [canon_mk_iff]
    | split
    | intro _

theorem canon_discardPacket {kw kt kr ks km kp kv xb xq xl xh xn xc} {s : Chip} {port : Nat} {k : Packet} (h_s :
    s.Canon kw kt kr ks km kp kv ⟨xb, xq, xl, none, xh, xn, xc⟩) : (discardPacket s port k).Canon kw kt kr ks km kp kv
    ⟨xb, xq, xl, none, xh, xn, xc⟩ := by
  unfold discardPacket
  try dsimp only
  repeat' first
    | with_reducible assumption
    | with_reducible apply canon_countRx
    | with_reducible apply canon_reply
    | with_reducible apply canon_ite
    | with_reducible apply canon_ite_s
    | with_reducible apply canon_ite_fst
    | with_reducible apply canon_ite_fst_s
    | simp only [canon_mk_iff]
    | split
    | intro _

theorem canon_srnPacketDiscard {kw kt kr ks km kp kv xb xq xl xh xn xc} {s : Chip} {port : Nat} {k : Packet} (h_s :
    s.Canon kw kt kr ks km kp kv ⟨xb, xq, xl, none, xh, xn, xc⟩) : (srnPacketDiscard s port k).Canon kw kt kr ks km kp
    kv ⟨xb, xq, xl, none, xh, xn, xc⟩ := by
  unfold srnPacketDiscard
  try dsimp only
  repeat' first
    | with_reducible assumption
    | with_reducible apply canon_discardPacket
    | with_reducible apply canon_ite
    | with_reducible apply canon_ite_s
    | with_reducible apply canon_ite_fst
    | with_reducible apply canon_ite_fst_s
    | simp only [canon_mk_iff]
    | split
    | intro _

theorem canon_srnPacketForward {kw kt kr ks km kp kv xb xq xl xh xn xc} {s : Chip} {port : Nat} {k : Packet} (h_s :
    s.Canon kw kt kr ks km kp kv ⟨xb, xq, xl, none, xh, xn, xc⟩) : (srnPacketForward s port k).Canon kw kt kr ks km kp
    kv ⟨xb, xq, xl, none, xh, xn, xc⟩ := by
  unfold srnPacketForward
  try dsimp only
  repeat' first
    | with_reducible assumption
    | with_reducible apply canon_countRx
    | with_reducible apply canon_sendPacket
    | with_reducible apply canon_srnPacketDiscard
    | with_reducible apply canon_ite
    | with_reducible apply canon_ite_s
    | with_reducible apply canon_ite_fst
    | with_reducible apply canon_ite_fst_s
    | simp only [canon_mk_iff]
    | split
    | intro _

theorem canon_srnLocal {kw kt kr ks kv xn xc} {s : Chip} {o : Origin} {op : Nat} {b : Body} {kind : XferKind} {body :
    PacketBody} (h_s : s.Canon kw kt kr ks none none kv ⟨none, none, none, none, none, xn, xc⟩) : (srnLocal s o op b
    kind body).Canon kw kt kr ks none none kv ⟨none, none, none, none, none, xn, xc⟩ := by
  unfold srnLocal
  try dsimp only
  repeat' first
    | with_reducible assumption
    | with_reducible apply canon_runsHeld
    | with_reducible apply canon_dmaDone
    | with_reducible apply canon_Rd_refused
    | with_reducible apply canon_Rd_done
    | with_reducible apply canon_Rd_deliver
    | with_reducible apply canon_addXfer
    | with_reducible apply canon_takeAck
    | with_reducible apply canon_srnRefusalArrival
    | with_reducible apply canon_deliver
    | with_reducible apply canon_ite
    | with_reducible apply canon_ite_s
    | with_reducible apply canon_ite_fst
    | with_reducible apply canon_ite_fst_s
    | simp only [canon_mk_iff]
    | split
    | intro _

theorem canon_srnLaunch {kw kt kr ks kv xn xc} {s : Chip} {o : Origin} {op : Nat} {b : Body} {kind : XferKind} {body :
    PacketBody} (h_s : s.Canon kw kt kr ks none none kv ⟨none, none, none, none, none, xn, xc⟩) : (srnLaunch s o op b
    kind body).Canon kw kt kr ks none none kv ⟨none, none, none, none, none, xn, xc⟩ := by
  unfold srnLaunch
  try dsimp only
  repeat' first
    | with_reducible assumption
    | with_reducible apply canon_sendPacket
    | with_reducible apply canon_addXfer
    | with_reducible apply canon_srnLocal
    | with_reducible apply canon_ite
    | with_reducible apply canon_ite_s
    | with_reducible apply canon_ite_fst
    | with_reducible apply canon_ite_fst_s
    | simp only [canon_mk_iff]
    | split

theorem canon_pushGo {kw kt kr ks kv xn xc} {s : Chip} {o : Origin} {op : Nat} {b : Body} {body : Payload →
    PacketBody} (h_s : s.Canon kw kt kr ks none none kv ⟨none, none, none, none, none, xn, xc⟩) : (pushGo s o op b
    body).Canon kw kt kr ks none none kv ⟨none, none, none, none, none, xn, xc⟩ := by
  unfold pushGo
  try dsimp only
  repeat' first
    | with_reducible assumption
    | with_reducible apply canon_packPayload
    | with_reducible apply canon_readLines
    | with_reducible apply canon_srnLaunch

theorem canon_srnPush {kw kt kr ks kv xn xc} {s : Chip} {o : Origin} {op : Nat} {b : Body} {body : Payload →
    PacketBody} (h_s : s.Canon kw kt kr ks none none kv ⟨none, none, none, none, none, xn, xc⟩) : (srnPush s o op b
    body).Canon kw kt kr ks none none kv ⟨none, none, none, none, none, xn, xc⟩ := by
  unfold srnPush
  try dsimp only
  repeat' first
    | with_reducible assumption
    | with_reducible apply canon_runsHeld
    | with_reducible apply canon_dmaDone
    | with_reducible apply canon_faultPlace
    | with_reducible apply canon_srnFault
    | with_reducible apply canon_pushGo
    | with_reducible apply canon_ite
    | with_reducible apply canon_ite_s
    | with_reducible apply canon_ite_fst
    | with_reducible apply canon_ite_fst_s
    | simp only [canon_mk_iff]
    | split
    | intro _

theorem canon_srnWrite {kw kt kr ks kv xn xc} {s : Chip} {o : Origin} {b : Body} (h_s : s.Canon kw kt kr ks none none
    kv ⟨none, none, none, none, none, xn, xc⟩) : (srnWrite s o b).Canon kw kt kr ks none none kv ⟨none, none, none,
    none, none, xn, xc⟩ := by
  unfold srnWrite
  try dsimp only
  repeat' first
    | with_reducible assumption
    | with_reducible apply canon_faultQueue
    | with_reducible apply canon_dmaDone
    | with_reducible apply canon_srnPush
    | with_reducible apply canon_ite
    | with_reducible apply canon_ite_s
    | with_reducible apply canon_ite_fst
    | with_reducible apply canon_ite_fst_s
    | simp only [canon_mk_iff]
    | split
    | intro _

theorem canon_srnUpdate {kw kt kr ks kv xn xc} {s : Chip} {o : Origin} {b : Body} (h_s : s.Canon kw kt kr ks none none
    kv ⟨none, none, none, none, none, xn, xc⟩) : (srnUpdate s o b).Canon kw kt kr ks none none kv ⟨none, none, none,
    none, none, xn, xc⟩ := by
  unfold srnUpdate
  try dsimp only
  repeat' first
    | with_reducible assumption
    | with_reducible apply canon_faultQueue
    | with_reducible apply canon_dmaDone
    | with_reducible apply canon_srnPush
    | with_reducible apply canon_ite
    | with_reducible apply canon_ite_s
    | with_reducible apply canon_ite_fst
    | with_reducible apply canon_ite_fst_s
    | simp only [canon_mk_iff]
    | split
    | intro _

theorem canon_srnRead {kw kt kr ks kv xn xc} {s : Chip} {o : Origin} {b : Body} (h_s : s.Canon kw kt kr ks none none
    kv ⟨none, none, none, none, none, xn, xc⟩) : (srnRead s o b).Canon kw kt kr ks none none kv ⟨none, none, none,
    none, none, xn, xc⟩ := by
  unfold srnRead
  try dsimp only
  repeat' first
    | with_reducible assumption
    | with_reducible apply canon_faultQueue
    | with_reducible apply canon_dmaDone
    | with_reducible apply canon_Rd_read
    | with_reducible apply canon_AttendRun_read
    | with_reducible apply canon_srnFault
    | with_reducible apply canon_srnLaunch
    | with_reducible apply canon_ite
    | with_reducible apply canon_ite_s
    | with_reducible apply canon_ite_fst
    | with_reducible apply canon_ite_fst_s
    | simp only [canon_mk_iff]
    | split
    | intro _

theorem canon_srnSignal {kw kt kr ks kv xn xc} {s : Chip} {o : Origin} {b : Body} (h_s : s.Canon kw kt kr ks none none
    kv ⟨none, none, none, none, none, xn, xc⟩) : (srnSignal s o b).Canon kw kt kr ks none none kv ⟨none, none, none,
    none, none, xn, xc⟩ := by
  unfold srnSignal
  try dsimp only
  repeat' first
    | with_reducible assumption
    | with_reducible apply canon_srnFault
    | with_reducible apply canon_srnLaunch
    | with_reducible apply canon_ite
    | with_reducible apply canon_ite_s
    | with_reducible apply canon_ite_fst
    | with_reducible apply canon_ite_fst_s
    | simp only [canon_mk_iff]
    | split
    | intro _

end Sys2Proof.Machine
end

