-- ==== Sys2Proof/Laws/CanonPair.lean ====
section
/-! SUPPORT. The operations of Machine/Pair.lean keep the canonical form. -/
set_option linter.all false
namespace Sys2Proof.Machine

theorem canon_sendRole {kw kt kr ks km kp kv kx} {s : Chip} {p : Nat} (h_s : s.Canon kw kt kr ks km kp kv kx) :
    (sendRole s p).Canon kw kt kr ks km kp kv kx := by
  unfold sendRole
  try dsimp only
  repeat' first
    | with_reducible assumption
    | with_reducible apply canon_emit
    | with_reducible apply canon_ite
    | with_reducible apply canon_ite_s
    | with_reducible apply canon_ite_fst
    | with_reducible apply canon_ite_fst_s
    | simp only [canon_mk_iff]
    | split
    | intro _

theorem canon_showConflict {kw kt kr ks km kp kv xb xq xl xm xn xc} {s : Chip} {p : Nat} (h_s : s.Canon kw kt kr ks km
    kp kv ⟨xb, xq, xl, xm, none, xn, xc⟩) : (showConflict s p).Canon kw kt kr ks km kp kv ⟨xb, xq, xl, xm, none, xn,
    xc⟩ := by
  unfold showConflict
  try dsimp only
  repeat' first
    | with_reducible assumption
    | with_reducible apply canon_wr
    | with_reducible apply canon_setFlag
    | with_reducible apply canon_mirrorLost
    | with_reducible apply canon_ite
    | with_reducible apply canon_ite_s
    | with_reducible apply canon_ite_fst
    | with_reducible apply canon_ite_fst_s
    | simp only [canon_mk_iff]
    | split
    | intro _

theorem canon_noteRole {kw kt kr ks km kp kv xb xq xl xh xn xc} {s : Chip} {tag : Nat} {role : Nat} (h_s : s.Canon kw
    kt kr ks km kp kv ⟨xb, xq, xl, none, xh, xn, xc⟩) : (noteRole s tag role).Canon kw kt kr ks km kp kv ⟨xb, xq, xl,
    none, xh, xn, xc⟩ := by
  unfold noteRole
  try dsimp only
  repeat' first
    | with_reducible assumption
    | with_reducible apply canon_ite
    | with_reducible apply canon_ite_s
    | with_reducible apply canon_ite_fst
    | with_reducible apply canon_ite_fst_s
    | simp only [canon_mkm_iff]

theorem canon_roleNoticeReceived {kw kt kr ks km kp kv xb xq xl xn xc} {s : Chip} {tag : Nat} {role : Nat} (h_s :
    s.Canon kw kt kr ks km kp kv ⟨xb, xq, xl, none, none, xn, xc⟩) : (roleNoticeReceived s tag role).Canon kw kt kr ks
    km kp kv ⟨xb, xq, xl, none, none, xn, xc⟩ := by
  unfold roleNoticeReceived
  try dsimp only
  repeat' first
    | with_reducible assumption
    | with_reducible apply canon_showConflict
    | with_reducible apply canon_noteRole
    | with_reducible apply canon_foldl
    | with_reducible apply canon_foldl_fst
    | with_reducible apply canon_foldl_rd
    | with_reducible apply canon_foldl_rd_fst
    | with_reducible apply canon_foldl_x
    | with_reducible apply canon_foldl_run_fst
    | with_reducible apply canon_ite
    | with_reducible apply canon_ite_s
    | with_reducible apply canon_ite_fst
    | with_reducible apply canon_ite_fst_s
    | simp only [canon_mk_iff]
    | split
    | intro _

theorem canon_abandonMirrors {kw kt kr ks km kp kv xb xq xl xn xc} {s : Chip} (h_s : s.Canon kw kt kr ks km kp kv ⟨xb,
    xq, xl, none, none, xn, xc⟩) : (abandonMirrors s).Canon kw kt kr ks km kp kv ⟨xb, xq, xl, none, none, xn, xc⟩ :=
    by
  unfold abandonMirrors
  try dsimp only
  repeat' first
    | with_reducible assumption
    | with_reducible apply canon_mirrorLost
    | with_reducible apply canon_foldl
    | with_reducible apply canon_foldl_fst
    | with_reducible apply canon_foldl_rd
    | with_reducible apply canon_foldl_rd_fst
    | with_reducible apply canon_foldl_x
    | with_reducible apply canon_foldl_run_fst
    | with_reducible apply canon_ite
    | with_reducible apply canon_ite_s
    | with_reducible apply canon_ite_fst
    | with_reducible apply canon_ite_fst_s
    | simp only [canon_mkm_iff]
    | split
    | intro _

theorem canon_takeDepths {kw kt kr ks km kp kx} {s : Chip} {p : Nat} {freeA : Nat} {freeB : Nat} {retireA : Nat}
    {retireB : Nat} (h_s : s.Canon kw kt kr ks km kp none kx) : (takeDepths s p freeA freeB retireA retireB).Canon kw
    kt kr ks km kp none kx := by
  unfold takeDepths
  try dsimp only
  repeat' first
    | with_reducible assumption
    | with_reducible apply canon_setKvPart

theorem canon_deliverMirror {kw kt kr ks kp xb xq xl xm xn xc} {s : Chip} {tag : Nat} {w : Mirror} (h_s : s.Canon kw
    kt kr ks none kp none ⟨xb, xq, xl, xm, none, xn, xc⟩) : (deliverMirror s tag w).1.Canon kw kt kr ks none kp none
    ⟨xb, xq, xl, xm, none, xn, xc⟩ := by
  unfold deliverMirror
  try dsimp only
  repeat' first
    | with_reducible assumption
    | with_reducible apply canon_Rd_depths
    | with_reducible apply canon_Rd_done
    | with_reducible apply canon_refuseRemote
    | with_reducible apply canon_writeRemote
    | with_reducible apply canon_takeDepths
    | with_reducible apply canon_ite
    | with_reducible apply canon_ite_s
    | with_reducible apply canon_ite_fst
    | with_reducible apply canon_ite_fst_s
    | simp only [canon_mk_iff]
    | split
    | intro _

theorem canon_mirrorAnswer {kw kt kr ks km kp kv xb xq xl xh xn xc} {xfer : Nat} {n : Nat} {e : Chip × Delivery} (h_e
    : e.1.Canon kw kt kr ks km kp kv ⟨xb, xq, xl, none, xh, xn, xc⟩) : (mirrorAnswer xfer n e).Canon kw kt kr ks km kp
    kv ⟨xb, xq, xl, none, xh, xn, xc⟩ := by
  unfold mirrorAnswer
  try dsimp only
  repeat' first
    | with_reducible assumption
    | with_reducible apply canon_emit
    | with_reducible apply canon_countRx
    | with_reducible apply canon_Rd_refused
    | with_reducible apply canon_Rd_done
    | with_reducible apply canon_ite
    | with_reducible apply canon_ite_s
    | with_reducible apply canon_ite_fst
    | with_reducible apply canon_ite_fst_s
    | simp only [canon_mk_iff]
    | split

theorem canon_mirrorWriteArrival {kw kt kr ks kp xb xq xl xn xc} {s : Chip} {tag : Nat} {epoch : Nat} {xfer : Nat} {w
    : Mirror} (h_s : s.Canon kw kt kr ks none kp none ⟨xb, xq, xl, none, none, xn, xc⟩) : (mirrorWriteArrival s tag
    epoch xfer w).Canon kw kt kr ks none kp none ⟨xb, xq, xl, none, none, xn, xc⟩ := by
  unfold mirrorWriteArrival
  try dsimp only
  repeat' first
    | with_reducible assumption
    | with_reducible apply canon_Rd_refused
    | with_reducible apply canon_deliverMirror
    | with_reducible apply canon_mirrorAnswer
    | exact canon_epochRefusal (by assumption) (by assumption)
    | with_reducible apply canon_ite
    | with_reducible apply canon_ite_s
    | with_reducible apply canon_ite_fst
    | with_reducible apply canon_ite_fst_s
    | simp only [canon_mk_iff]
    | split
    | intro _

theorem canon_installOne {kw kt kr ks kp xb xm xn xc} {p : Nat} {x : Rd} {k : Nat} (h_x : x.s.Canon kw kt kr ks none
    kp none ⟨xb, none, none, xm, none, xn, xc⟩) : (installOne p x k).s.Canon kw kt kr ks none kp none ⟨xb, none, none,
    xm, none, xn, xc⟩ := by
  unfold installOne
  try dsimp only
  repeat' first
    | with_reducible assumption
    | with_reducible apply canon_bump
    | with_reducible apply canon_draw
    | with_reducible apply canon_Rd_devFree
    | with_reducible apply canon_Rd_drop
    | with_reducible apply canon_EditEnv_drop
    | with_reducible apply canon_setServe
    | with_reducible apply canon_Rd_own
    | with_reducible apply canon_ite
    | with_reducible apply canon_ite_s
    | with_reducible apply canon_ite_fst
    | with_reducible apply canon_ite_fst_s
    | simp only [canon_mk_iff]
    | split
    | intro _

theorem canon_promote {kw kt kr ks kp xb xn xc} {s : Chip} {t : Chip} {p : Nat} (h_s : s.Canon kw kt kr ks none kp
    none ⟨xb, none, none, none, none, xn, xc⟩) (h_t : t.Canon kw kt kr ks none kp none ⟨xb, none, none, none, none,
    xn, xc⟩) : (promote s t p).Canon kw kt kr ks none kp none ⟨xb, none, none, none, none, xn, xc⟩ := by
  unfold promote
  try dsimp only
  repeat' first
    | with_reducible assumption
    | with_reducible apply canon_startRd
    | with_reducible apply canon_Rd_settle
    | with_reducible apply canon_installOne
    | with_reducible apply canon_foldl
    | with_reducible apply canon_foldl_fst
    | with_reducible apply canon_foldl_rd
    | with_reducible apply canon_foldl_rd_fst
    | with_reducible apply canon_foldl_x
    | with_reducible apply canon_foldl_run_fst
    | with_reducible apply canon_ite
    | with_reducible apply canon_ite_s
    | with_reducible apply canon_ite_fst
    | with_reducible apply canon_ite_fst_s
    | simp only [canon_mkm_iff]
    | split
    | intro _

theorem canon_roleWritten {kw kt kr ks km kp kv kx} {s : Chip} {p : Nat} {v : Nat} (h_s : s.Canon kw kt kr ks km kp kv
    kx) : (roleWritten s p v).Canon kw kt kr ks km kp kv kx := by
  unfold roleWritten
  try dsimp only
  repeat' first
    | with_reducible assumption
    | with_reducible apply canon_wrAll

theorem canon_twinRoleWrite {kw kt kr ks kp xb xn xc} {s : Chip} {p : Nat} {v : Nat} (h_s : s.Canon kw kt kr ks none
    kp none ⟨xb, none, none, none, none, xn, xc⟩) : (twinRoleWrite s p v).Canon kw kt kr ks none kp none ⟨xb, none,
    none, none, none, xn, xc⟩ := by
  unfold twinRoleWrite
  try dsimp only
  repeat' first
    | with_reducible assumption
    | with_reducible apply canon_sendRole
    | with_reducible apply canon_showConflict
    | with_reducible apply canon_promote
    | with_reducible apply canon_roleWritten
    | with_reducible apply canon_ite
    | with_reducible apply canon_ite_s
    | with_reducible apply canon_ite_fst
    | with_reducible apply canon_ite_fst_s
    | simp only [canon_mk_iff]
    | split
    | intro _

theorem canon_Rd_freeAll {kw kt kr ks kp xb xl xm xn xc} {x : Rd} {p : Nat} {l : Pool} {tierB : Bool} {z0 : Nat} (h_x
    : x.s.Canon kw kt kr ks none kp none ⟨xb, none, xl, xm, none, xn, xc⟩) : (Rd.freeAll x p l tierB z0).s.Canon kw kt
    kr ks none kp none ⟨xb, none, xl, xm, none, xn, xc⟩ := by
  induction z0 generalizing x p l tierB with
  | zero =>
      unfold Rd.freeAll
      try dsimp only
      repeat' first
        | with_reducible assumption
  | succ k ih =>
      unfold Rd.freeAll
      try dsimp only
      repeat' first
        | with_reducible assumption
        | with_reducible apply ih
        | with_reducible apply canon_Rd_devPut
        | with_reducible apply canon_setKvPart
        | with_reducible apply canon_Rd_alloc
        | with_reducible apply canon_Rd_depths
        | with_reducible apply canon_Rd_retire
        | with_reducible apply canon_ite
        | with_reducible apply canon_ite_s
        | with_reducible apply canon_ite_fst
        | with_reducible apply canon_ite_fst_s
        | simp only [canon_mk_iff]
        | split
        | intro _

theorem canon_freeEnd {kw kt kr ks km kp kv xb xq xl xn xc} {x : Rd} {s : Chip} {p : Nat} (h_x : x.s.Canon kw kt kr ks
    km kp kv ⟨xb, xq, xl, none, none, xn, xc⟩) (h_s : s.Canon kw kt kr ks km kp kv ⟨xb, xq, xl, none, none, xn, xc⟩) :
    (freeEnd x s p).Canon kw kt kr ks km kp kv ⟨xb, xq, xl, none, none, xn, xc⟩ := by
  unfold freeEnd
  try dsimp only
  repeat' first
    | with_reducible assumption
    | with_reducible apply canon_Rd_settle
    | with_reducible apply canon_ite
    | with_reducible apply canon_ite_s
    | with_reducible apply canon_ite_fst
    | with_reducible apply canon_ite_fst_s
    | simp only [canon_mkm_iff]
    | split
    | intro _

theorem canon_freeRings {kw kt kr ks kp xb xl xm xn xc} {s : Chip} {p : Nat} {c : KvCtx} {x : Rd} (h_s : s.Canon kw kt
    kr ks none kp none ⟨xb, none, xl, xm, none, xn, xc⟩) (h_x : x.s.Canon kw kt kr ks none kp none ⟨xb, none, xl, xm,
    none, xn, xc⟩) : (freeRings s p c x).s.Canon kw kt kr ks none kp none ⟨xb, none, xl, xm, none, xn, xc⟩ := by
  unfold freeRings
  try dsimp only
  repeat' first
    | with_reducible assumption
    | with_reducible apply canon_Rd_freeAll
    | with_reducible apply canon_ite
    | with_reducible apply canon_ite_s
    | with_reducible apply canon_ite_fst
    | with_reducible apply canon_ite_fst_s
    | simp only [canon_mk_iff]
    | split
    | intro _

theorem canon_twinFreeWith {kw kt kr ks kp xb xl xn xc} {s : Chip} {p : Nat} {e : Rd × Option KvCtx} (h_s : s.Canon kw
    kt kr ks none kp none ⟨xb, none, xl, none, none, xn, xc⟩) (h_e : e.1.s.Canon kw kt kr ks none kp none ⟨xb, none,
    xl, none, none, xn, xc⟩) : (twinFreeWith s p e).Canon kw kt kr ks none kp none ⟨xb, none, xl, none, none, xn, xc⟩
    := by
  unfold twinFreeWith
  try dsimp only
  repeat' first
    | with_reducible assumption
    | with_reducible apply canon_Rd_settle
    | with_reducible apply canon_freeEnd
    | with_reducible apply canon_freeRings
    | with_reducible apply canon_ite
    | with_reducible apply canon_ite_s
    | with_reducible apply canon_ite_fst
    | with_reducible apply canon_ite_fst_s
    | simp only [canon_mk_iff]
    | split
    | intro _

theorem canon_twinRetireFree {kw kt kr ks kp xb xl xn xc} {s : Chip} {p : Nat} (h_s : s.Canon kw kt kr ks none kp none
    ⟨xb, none, xl, none, none, xn, xc⟩) : (twinRetireFree s p).Canon kw kt kr ks none kp none ⟨xb, none, xl, none,
    none, xn, xc⟩ := by
  simp only [twinRetireFree]
  repeat' first
    | with_reducible assumption
    | with_reducible apply canon_startRd
    | with_reducible apply canon_Rd_ctx
    | with_reducible apply canon_twinFreeWith
    | with_reducible apply canon_ite
    | with_reducible apply canon_ite_s
    | with_reducible apply canon_ite_fst
    | with_reducible apply canon_ite_fst_s
    | simp only [canon_mk_iff]
    | split
    | intro _

end Sys2Proof.Machine
end

