-- ==== Sys2Proof/Laws/CanonLinks.lean ====
section
/-! SUPPORT. The operations of Machine/Links.lean keep the canonical form. -/
set_option linter.all false
namespace Sys2Proof.Machine

theorem canon_setLink {kw kt kr ks km kp kv xb xq xl xn xc} {s : Chip} {port : Nat} {v : Nat} {reason : Nat} (h_s :
    s.Canon kw kt kr ks km kp kv ⟨xb, xq, xl, none, none, xn, xc⟩) : (setLink s port v reason).Canon kw kt kr ks km kp
    kv ⟨xb, xq, xl, none, none, xn, xc⟩ := by
  unfold setLink
  try dsimp only
  repeat' first
    | with_reducible assumption
    | with_reducible apply canon_wrAll
    | with_reducible apply canon_setFlag
    | with_reducible apply canon_sendRole
    | with_reducible apply canon_abandonMirrors
    | with_reducible apply canon_foldl
    | with_reducible apply canon_foldl_fst
    | with_reducible apply canon_foldl_rd
    | with_reducible apply canon_foldl_rd_fst
    | with_reducible apply canon_foldl_x
    | with_reducible apply canon_foldl_run_fst
    | with_reducible apply canon_ite
    | with_reducible apply canon_ite_s
    | with_reducible apply canon_ite_fst
    | with_reducible apply canon_ite_fst_s
    | simp only [canon_mk_iff]
    | split
    | intro _

theorem canon_dropLink {kw kt kr ks km kp kv xb xq xl xn xc} {s : Chip} {port : Nat} (h_s : s.Canon kw kt kr ks km kp
    kv ⟨xb, xq, xl, none, none, xn, xc⟩) : (dropLink s port).Canon kw kt kr ks km kp kv ⟨xb, xq, xl, none, none, xn,
    xc⟩ := by
  unfold dropLink
  try dsimp only
  repeat' first
    | with_reducible assumption
    | with_reducible apply canon_setPort
    | with_reducible apply canon_setLink

theorem canon_startTraining {kw kt kr ks km kp kv xb xq xl xn xc} {s : Chip} {port : Nat} (h_s : s.Canon kw kt kr ks
    km kp kv ⟨xb, xq, xl, none, none, xn, xc⟩) : (startTraining s port).Canon kw kt kr ks km kp kv ⟨xb, xq, xl, none,
    none, xn, xc⟩ := by
  unfold startTraining
  try dsimp only
  repeat' first
    | with_reducible assumption
    | with_reducible apply canon_setLink
    | with_reducible apply canon_ite
    | with_reducible apply canon_ite_s
    | with_reducible apply canon_ite_fst
    | with_reducible apply canon_ite_fst_s
    | simp only [canon_mk_iff]
    | split
    | intro _

theorem canon_trainPort {kw kt kr ks km kp kv xb xq xl xn xc} {s : Chip} {port : Nat} (h_s : s.Canon kw kt kr ks km kp
    kv ⟨xb, xq, xl, none, none, xn, xc⟩) : (trainPort s port).Canon kw kt kr ks km kp kv ⟨xb, xq, xl, none, none, xn,
    xc⟩ := by
  unfold trainPort
  try dsimp only
  repeat' first
    | with_reducible assumption
    | with_reducible apply canon_emit
    | with_reducible apply canon_Rd_read
    | with_reducible apply canon_setPort
    | with_reducible apply canon_AttendRun_read
    | with_reducible apply canon_startTraining
    | with_reducible apply canon_ite
    | with_reducible apply canon_ite_s
    | with_reducible apply canon_ite_fst
    | with_reducible apply canon_ite_fst_s
    | simp only [canon_mk_iff]
    | split
    | intro _

theorem canon_trainAll {kw kt kr ks km kp kv xb xq xl xn xc} {s : Chip} (h_s : s.Canon kw kt kr ks km kp kv ⟨xb, xq,
    xl, none, none, xn, xc⟩) : (trainAll s).Canon kw kt kr ks km kp kv ⟨xb, xq, xl, none, none, xn, xc⟩ := by
  unfold trainAll
  try dsimp only
  repeat' first
    | with_reducible assumption
    | with_reducible apply canon_trainPort
    | with_reducible apply canon_foldl

theorem canon_dropAll {kw kt kr ks km kp kv xb xq xl xn xc} {s : Chip} (h_s : s.Canon kw kt kr ks km kp kv ⟨xb, xq,
    xl, none, none, xn, xc⟩) : (dropAll s).Canon kw kt kr ks km kp kv ⟨xb, xq, xl, none, none, xn, xc⟩ := by
  unfold dropAll
  try dsimp only
  repeat' first
    | with_reducible assumption
    | with_reducible apply canon_dropLink
    | with_reducible apply canon_foldl

theorem canon_sendCard {kw kt kr ks km kp kv kx} {s : Chip} {port : Nat} (h_s : s.Canon kw kt kr ks km kp kv kx) :
    (sendCard s port).Canon kw kt kr ks km kp kv kx := by
  unfold sendCard
  try dsimp only
  repeat' first
    | with_reducible assumption
    | with_reducible apply canon_emit
    | with_reducible apply canon_ite
    | with_reducible apply canon_ite_s
    | with_reducible apply canon_ite_fst
    | with_reducible apply canon_ite_fst_s
    | simp only [canon_mk_iff]
    | split
    | intro _

theorem canon_checkCard {kw kt kr ks km kp kv xb xq xl xn xc} {s : Chip} {port : Nat} (h_s : s.Canon kw kt kr ks km kp
    kv ⟨xb, xq, xl, none, none, xn, xc⟩) : (checkCard s port).Canon kw kt kr ks km kp kv ⟨xb, xq, xl, none, none, xn,
    xc⟩ := by
  unfold checkCard
  try dsimp only
  repeat' first
    | with_reducible assumption
    | with_reducible apply canon_wr
    | with_reducible apply canon_setLink
    | with_reducible apply canon_ite
    | with_reducible apply canon_ite_s
    | with_reducible apply canon_ite_fst
    | with_reducible apply canon_ite_fst_s
    | simp only [canon_mk_iff]
    | split
    | intro _

theorem canon_cardTaken {kw kt kr ks kp kv xn xc} {s : Chip} {port : Nat} {card : BitVec 512} (h_s : s.Canon kw kt kr
    ks none kp kv ⟨none, none, none, none, none, xn, xc⟩) : (cardTaken s port card).Canon kw kt kr ks none kp kv
    ⟨none, none, none, none, none, xn, xc⟩ := by
  unfold cardTaken
  try dsimp only
  repeat' first
    | with_reducible assumption
    | with_reducible apply canon_wr
    | with_reducible apply canon_setPort
    | with_reducible apply canon_checkDigests
    | with_reducible apply canon_checkCard
    | with_reducible apply canon_foldl
    | with_reducible apply canon_foldl_fst
    | with_reducible apply canon_foldl_rd
    | with_reducible apply canon_foldl_rd_fst
    | with_reducible apply canon_foldl_x
    | with_reducible apply canon_foldl_run_fst
    | with_reducible apply canon_ite
    | with_reducible apply canon_ite_s
    | with_reducible apply canon_ite_fst
    | with_reducible apply canon_ite_fst_s
    | simp only [canon_mk_iff]
    | split
    | intro _

theorem canon_crewCardReceived {kw kt kr ks kp kv xn xc} {s : Chip} {port : Nat} {card : BitVec 512} (h_s : s.Canon kw
    kt kr ks none kp kv ⟨none, none, none, none, none, xn, xc⟩) : (crewCardReceived s port card).Canon kw kt kr ks
    none kp kv ⟨none, none, none, none, none, xn, xc⟩ := by
  unfold crewCardReceived
  try dsimp only
  repeat' first
    | with_reducible assumption
    | with_reducible apply canon_cardTaken
    | with_reducible apply canon_ite
    | with_reducible apply canon_ite_s
    | with_reducible apply canon_ite_fst
    | with_reducible apply canon_ite_fst_s
    | simp only [canon_mk_iff]
    | split
    | intro _

theorem canon_linkTrained {kw kt kr ks km kp kv xb xq xl xn xc} {s : Chip} {port : Nat} (h_s : s.Canon kw kt kr ks km
    kp kv ⟨xb, xq, xl, none, none, xn, xc⟩) : (linkTrained s port).Canon kw kt kr ks km kp kv ⟨xb, xq, xl, none, none,
    xn, xc⟩ := by
  unfold linkTrained
  try dsimp only
  repeat' first
    | with_reducible assumption
    | with_reducible apply canon_wr
    | with_reducible apply canon_setPort
    | with_reducible apply canon_setLink
    | with_reducible apply canon_sendCard

theorem canon_srnTrainingComplete {kw kt kr ks km kp kv xb xq xl xn xc} {s : Chip} {port : Nat} (h_s : s.Canon kw kt
    kr ks km kp kv ⟨xb, xq, xl, none, none, xn, xc⟩) : (srnTrainingComplete s port).Canon kw kt kr ks km kp kv ⟨xb,
    xq, xl, none, none, xn, xc⟩ := by
  unfold srnTrainingComplete
  try dsimp only
  repeat' first
    | with_reducible assumption
    | with_reducible apply canon_linkTrained
    | with_reducible apply canon_ite
    | with_reducible apply canon_ite_s
    | with_reducible apply canon_ite_fst
    | with_reducible apply canon_ite_fst_s
    | simp only [canon_mk_iff]
    | split
    | intro _

theorem canon_srnRetrainComplete {kw kt kr ks km kp kv xb xq xl xh xn xc} {s : Chip} {port : Nat} (h_s : s.Canon kw kt
    kr ks km kp kv ⟨xb, xq, xl, none, xh, xn, xc⟩) : (srnRetrainComplete s port).Canon kw kt kr ks km kp kv ⟨xb, xq,
    xl, none, xh, xn, xc⟩ := by
  unfold srnRetrainComplete
  try dsimp only
  repeat' first
    | with_reducible assumption
    | with_reducible apply canon_wr
    | with_reducible apply canon_setPort
    | with_reducible apply canon_ite
    | with_reducible apply canon_ite_s
    | with_reducible apply canon_ite_fst
    | with_reducible apply canon_ite_fst_s
    | simp only [canon_mk_iff]
    | split
    | intro _

theorem canon_srnRetrain {kw kt kr ks km kp kv xb xq xl xn xc} {s : Chip} {port : Nat} (h_s : s.Canon kw kt kr ks km
    kp kv ⟨xb, xq, xl, none, none, xn, xc⟩) : (srnRetrain s port).Canon kw kt kr ks km kp kv ⟨xb, xq, xl, none, none,
    xn, xc⟩ := by
  unfold srnRetrain
  try dsimp only
  repeat' first
    | with_reducible assumption
    | with_reducible apply canon_setPort
    | with_reducible apply canon_startTraining
    | with_reducible apply canon_sendCard
    | with_reducible apply canon_ite
    | with_reducible apply canon_ite_s
    | with_reducible apply canon_ite_fst
    | with_reducible apply canon_ite_fst_s
    | simp only [canon_mk_iff]
    | split
    | intro _

theorem canon_dropGroup {kw kt kr ks km kp kv xb xq xl xn xc} {s : Chip} {port : Nat} {g : Nat} (h_s : s.Canon kw kt
    kr ks km kp kv ⟨xb, xq, xl, none, none, xn, xc⟩) : (dropGroup s port g).Canon kw kt kr ks km kp kv ⟨xb, xq, xl,
    none, none, xn, xc⟩ := by
  unfold dropGroup
  try dsimp only
  repeat' first
    | with_reducible assumption
    | with_reducible apply canon_wr
    | with_reducible apply canon_bump
    | with_reducible apply canon_closeWindow
    | with_reducible apply canon_setFlag
    | with_reducible apply canon_send
    | with_reducible apply canon_setPort
    | with_reducible apply canon_dropLink
    | with_reducible apply canon_ite
    | with_reducible apply canon_ite_s
    | with_reducible apply canon_ite_fst
    | with_reducible apply canon_ite_fst_s
    | simp only [canon_mk_iff]
    | split
    | intro _

theorem canon_crcNoted {kw kt kr ks km kp kv kx} {s : Chip} {port : Nat} {g : Nat} (h_s : s.Canon kw kt kr ks km kp kv
    kx) : (crcNoted s port g).Canon kw kt kr ks km kp kv kx := by
  unfold crcNoted
  try dsimp only
  repeat' first
    | with_reducible assumption
    | with_reducible apply canon_bump
    | with_reducible apply canon_emit
    | with_reducible apply canon_countEvent
    | with_reducible apply canon_send

theorem canon_srnFrameCrcFail {kw kt kr ks km kp kv xb xq xl xn xc} {s : Chip} {port : Nat} {g : Nat} (h_s : s.Canon
    kw kt kr ks km kp kv ⟨xb, xq, xl, none, none, xn, xc⟩) : (srnFrameCrcFail s port g).Canon kw kt kr ks km kp kv
    ⟨xb, xq, xl, none, none, xn, xc⟩ := by
  unfold srnFrameCrcFail
  try dsimp only
  repeat' first
    | with_reducible assumption
    | with_reducible apply canon_dropGroup
    | with_reducible apply canon_crcNoted
    | with_reducible apply canon_ite
    | with_reducible apply canon_ite_s
    | with_reducible apply canon_ite_fst
    | with_reducible apply canon_ite_fst_s
    | simp only [canon_mk_iff]
    | split
    | intro _

theorem canon_cableInsert {kw kt kr ks km kp kv xb xq xl xn xc} {s : Chip} {port : Nat} {lanes : Nat} (h_s : s.Canon
    kw kt kr ks km kp kv ⟨xb, xq, xl, none, none, xn, xc⟩) : (cableInsert s port lanes).Canon kw kt kr ks km kp kv
    ⟨xb, xq, xl, none, none, xn, xc⟩ := by
  unfold cableInsert
  try dsimp only
  repeat' first
    | with_reducible assumption
    | with_reducible apply canon_Rd_read
    | with_reducible apply canon_setPort
    | with_reducible apply canon_AttendRun_read
    | with_reducible apply canon_trainPort
    | with_reducible apply canon_ite
    | with_reducible apply canon_ite_s
    | with_reducible apply canon_ite_fst
    | with_reducible apply canon_ite_fst_s
    | simp only [canon_mk_iff]
    | split
    | intro _

theorem canon_cableRemove {kw kt kr ks km kp kv xb xq xl xn xc} {s : Chip} {port : Nat} (h_s : s.Canon kw kt kr ks km
    kp kv ⟨xb, xq, xl, none, none, xn, xc⟩) : (cableRemove s port).Canon kw kt kr ks km kp kv ⟨xb, xq, xl, none, none,
    xn, xc⟩ := by
  unfold cableRemove
  try dsimp only
  repeat' first
    | with_reducible assumption
    | with_reducible apply canon_Rd_read
    | with_reducible apply canon_setPort
    | with_reducible apply canon_AttendRun_read
    | with_reducible apply canon_dropLink

theorem canon_srnSignalLoss {kw kt kr ks km kp kv xb xq xl xn xc} {s : Chip} {port : Nat} (h_s : s.Canon kw kt kr ks
    km kp kv ⟨xb, xq, xl, none, none, xn, xc⟩) : (srnSignalLoss s port).Canon kw kt kr ks km kp kv ⟨xb, xq, xl, none,
    none, xn, xc⟩ := by
  unfold srnSignalLoss
  try dsimp only
  repeat' first
    | with_reducible assumption
    | with_reducible apply canon_setPort
    | with_reducible apply canon_dropLink

theorem canon_srnSignalDetect {kw kt kr ks km kp kv xb xq xl xn xc} {s : Chip} {port : Nat} (h_s : s.Canon kw kt kr ks
    km kp kv ⟨xb, xq, xl, none, none, xn, xc⟩) : (srnSignalDetect s port).Canon kw kt kr ks km kp kv ⟨xb, xq, xl,
    none, none, xn, xc⟩ := by
  unfold srnSignalDetect
  try dsimp only
  repeat' first
    | with_reducible assumption
    | with_reducible apply canon_setPort
    | with_reducible apply canon_startTraining
    | with_reducible apply canon_ite
    | with_reducible apply canon_ite_s
    | with_reducible apply canon_ite_fst
    | with_reducible apply canon_ite_fst_s
    | simp only [canon_mk_iff]
    | split
    | intro _

theorem canon_twinLinkLoss {kw kt kr ks km kp kv xb xq xl xn xc} {s : Chip} (h_s : s.Canon kw kt kr ks km kp kv ⟨xb,
    xq, xl, none, none, xn, xc⟩) : (twinLinkLoss s).Canon kw kt kr ks km kp kv ⟨xb, xq, xl, none, none, xn, xc⟩ := by
  unfold twinLinkLoss
  try dsimp only
  repeat' first
    | with_reducible assumption
    | with_reducible apply canon_srnSignalLoss
    | with_reducible apply canon_ite
    | with_reducible apply canon_ite_s
    | with_reducible apply canon_ite_fst
    | with_reducible apply canon_ite_fst_s
    | simp only [canon_mk_iff]
    | split
    | intro _

theorem canon_linkEnable {kw kt kr ks km kp kv xb xq xl xn xc} {s : Chip} {port : Nat} {on : Bool} (h_s : s.Canon kw
    kt kr ks km kp kv ⟨xb, xq, xl, none, none, xn, xc⟩) : (linkEnable s port on).Canon kw kt kr ks km kp kv ⟨xb, xq,
    xl, none, none, xn, xc⟩ := by
  unfold linkEnable
  try dsimp only
  repeat' first
    | with_reducible assumption
    | with_reducible apply canon_wr
    | with_reducible apply canon_dropLink
    | with_reducible apply canon_startTraining
    | with_reducible apply canon_ite
    | with_reducible apply canon_ite_s
    | with_reducible apply canon_ite_fst
    | with_reducible apply canon_ite_fst_s
    | simp only [canon_mk_iff]
    | split
    | intro _

theorem canon_applyPlacement {kw kt kr ks kp kv xn xc} {s : Chip} {m : Placement} (h_s : s.Canon kw kt kr ks none kp
    kv ⟨none, none, none, none, none, xn, xc⟩) : (applyPlacement s m).Canon kw kt kr ks none kp kv ⟨none, none, none,
    none, none, xn, xc⟩ := by
  unfold applyPlacement
  try dsimp only
  repeat' first
    | with_reducible assumption
    | with_reducible apply canon_wr
    | with_reducible apply canon_wrAll
    | with_reducible apply canon_setFlag
    | with_reducible apply canon_checkDigests
    | with_reducible apply canon_sendCard
    | with_reducible apply canon_checkCard
    | with_reducible apply canon_foldl
    | with_reducible apply canon_foldl_fst
    | with_reducible apply canon_foldl_rd
    | with_reducible apply canon_foldl_rd_fst
    | with_reducible apply canon_foldl_x
    | with_reducible apply canon_foldl_run_fst
    | with_reducible apply canon_ite
    | with_reducible apply canon_ite_s
    | with_reducible apply canon_ite_fst
    | with_reducible apply canon_ite_fst_s
    | simp only [canon_mkm_iff]
    | split
    | intro _

theorem canon_place {kw kt kr ks kp kv xn xc} {s : Chip} {m : Placement} {via : Endpoint} (h_s : s.Canon kw kt kr ks
    none kp kv ⟨none, none, none, none, none, xn, xc⟩) : (place s m via).Canon kw kt kr ks none kp kv ⟨none, none,
    none, none, none, xn, xc⟩ := by
  unfold place
  try dsimp only
  repeat' first
    | with_reducible assumption
    | with_reducible apply canon_answer
    | with_reducible apply canon_applyPlacement
    | with_reducible apply canon_ite
    | with_reducible apply canon_ite_s
    | with_reducible apply canon_ite_fst
    | with_reducible apply canon_ite_fst_s
    | simp only [canon_mk_iff]
    | split
    | intro _

end Sys2Proof.Machine
end

