-- ==== Sys2Proof/Laws/CanonFaults.lean ====
section
/-! SUPPORT. The operations of Machine/Faults.lean keep the canonical form. -/
set_option linter.all false
namespace Sys2Proof.Machine

theorem canon_ringSlot {kw kt kr ks km kp kv xb xq xl xm xn xc} {s : Chip} {r : Logged} (h_s : s.Canon kw kt kr ks km
    kp kv ⟨xb, xq, xl, xm, none, xn, xc⟩) : (ringSlot s r).Canon kw kt kr ks km kp kv ⟨xb, xq, xl, xm, none, xn, xc⟩
    := by
  unfold ringSlot
  try dsimp only
  repeat' first
    | with_reducible assumption
    | with_reducible apply canon_hostPut

theorem canon_ringVector {kw kt kr ks km kp kv xb xq xl xm xn xc} {s : Chip} (h_s : s.Canon kw kt kr ks km kp kv ⟨xb,
    xq, xl, xm, none, xn, xc⟩) : (ringVector s).Canon kw kt kr ks km kp kv ⟨xb, xq, xl, xm, none, xn, xc⟩ := by
  unfold ringVector
  try dsimp only
  repeat' first
    | with_reducible assumption
    | with_reducible apply canon_msix

theorem canon_ringNew {kw kt kr ks km kp kv xb xq xl xm xn xc} {s : Chip} {r : Logged} (h_s : s.Canon kw kt kr ks km
    kp kv ⟨xb, xq, xl, xm, none, xn, xc⟩) : (ringNew s r).Canon kw kt kr ks km kp kv ⟨xb, xq, xl, xm, none, xn, xc⟩ :=
    by
  unfold ringNew
  try dsimp only
  repeat' first
    | with_reducible assumption
    | with_reducible apply canon_wr
    | with_reducible apply canon_ringSlot
    | with_reducible apply canon_ringVector
    | with_reducible apply canon_ite
    | with_reducible apply canon_ite_s
    | with_reducible apply canon_ite_fst
    | with_reducible apply canon_ite_fst_s
    | simp only [canon_mk_iff]
    | split
    | intro _

theorem canon_ringAgain {kw kt kr ks km kp kv xb xq xl xm xn xc} {s : Chip} {r : Logged} (h_s : s.Canon kw kt kr ks km
    kp kv ⟨xb, xq, xl, xm, none, xn, xc⟩) : (ringAgain s r).Canon kw kt kr ks km kp kv ⟨xb, xq, xl, xm, none, xn, xc⟩
    := by
  unfold ringAgain
  try dsimp only
  repeat' first
    | with_reducible assumption
    | with_reducible apply canon_ringSlot
    | with_reducible apply canon_ringVector
    | with_reducible apply canon_ite
    | with_reducible apply canon_ite_s
    | with_reducible apply canon_ite_fst
    | with_reducible apply canon_ite_fst_s
    | simp only [canon_mk_iff]
    | split
    | intro _

theorem canon_showPin {kw kt kr ks km kp kv kx} {s : Chip} (h_s : s.Canon kw kt kr ks km kp kv kx) : (showPin s).Canon
    kw kt kr ks km kp kv kx := by
  unfold showPin
  try dsimp only
  repeat' first
    | with_reducible assumption
    | with_reducible apply canon_wr
    | with_reducible apply canon_emit
    | with_reducible apply canon_ite
    | with_reducible apply canon_ite_s
    | with_reducible apply canon_ite_fst
    | with_reducible apply canon_ite_fst_s
    | simp only [canon_mk_iff]
    | split
    | intro _

theorem canon_pinOccurrence {kw kt kr ks km kp kv xb xq xl xm xn xc} {s : Chip} {c : Cls} (h_s : s.Canon kw kt kr ks
    km kp kv ⟨xb, xq, xl, xm, none, xn, xc⟩) : (pinOccurrence s c).Canon kw kt kr ks km kp kv ⟨xb, xq, xl, xm, none,
    xn, xc⟩ := by
  unfold pinOccurrence
  try dsimp only
  repeat' first
    | with_reducible assumption
    | with_reducible apply canon_setFlag
    | with_reducible apply canon_showPin
    | with_reducible apply canon_ite
    | with_reducible apply canon_ite_s
    | with_reducible apply canon_ite_fst
    | with_reducible apply canon_ite_fst_s
    | simp only [canon_mk_iff]
    | split
    | intro _

theorem canon_faultPulseEnd {kw kt kr ks km kp kv kx} {s : Chip} (h_s : s.Canon kw kt kr ks km kp kv kx) :
    (faultPulseEnd s).Canon kw kt kr ks km kp kv kx := by
  unfold faultPulseEnd
  try dsimp only
  repeat' first
    | with_reducible assumption
    | with_reducible apply canon_showPin
    | with_reducible apply canon_ite
    | with_reducible apply canon_ite_s
    | with_reducible apply canon_ite_fst
    | with_reducible apply canon_ite_fst_s
    | simp only [canon_mk_iff]
    | split
    | intro _

theorem canon_enterFatal {kw kt kr ks km kp kv xb xq xl xn xc} {s : Chip} {seq : Nat} (h_s : s.Canon kw kt kr ks km kp
    kv ⟨xb, xq, xl, none, none, xn, xc⟩) : (enterFatal s seq).Canon kw kt kr ks km kp kv ⟨xb, xq, xl, none, none, xn,
    xc⟩ := by
  unfold enterFatal
  try dsimp only
  repeat' first
    | with_reducible assumption
    | with_reducible apply canon_wr
    | with_reducible apply canon_emit
    | with_reducible apply canon_setAer
    | with_reducible apply canon_dropAll
    | with_reducible apply canon_showPin
    | with_reducible apply canon_foldl
    | with_reducible apply canon_foldl_fst
    | with_reducible apply canon_foldl_rd
    | with_reducible apply canon_foldl_rd_fst
    | with_reducible apply canon_foldl_x
    | with_reducible apply canon_foldl_run_fst
    | with_reducible apply canon_ite
    | with_reducible apply canon_ite_s
    | with_reducible apply canon_ite_fst
    | with_reducible apply canon_ite_fst_s
    | simp only [canon_mk_iff]
    | split
    | intro _

theorem canon_showPending {kw kt kr ks km kp kv kx} {s : Chip} (h_s : s.Canon kw kt kr ks km kp kv kx) : (showPending
    s).Canon kw kt kr ks km kp kv kx := by
  unfold showPending
  try dsimp only
  repeat' first
    | with_reducible assumption
    | with_reducible apply canon_wr

theorem canon_stepEffect {kw kt kr ks xn xc} {s : Chip} {part : Option Nat} {job : Option (Nat × Nat)} {st : Nat} (h_s
    : s.Canon kw kt kr ks none none none ⟨none, none, none, none, none, xn, xc⟩) : (stepEffect s part job st).Canon kw
    kt kr ks none none none ⟨none, none, none, none, none, xn, xc⟩ := by
  unfold stepEffect
  try dsimp only
  repeat' first
    | with_reducible assumption
    | with_reducible apply canon_queueResetNow
    | with_reducible apply canon_resetSteps
    | with_reducible apply canon_flrEffects
    | with_reducible apply canon_ite
    | with_reducible apply canon_ite_s
    | with_reducible apply canon_ite_fst
    | with_reducible apply canon_ite_fst_s
    | simp only [canon_mk_iff]
    | split
    | intro _

theorem canon_advanceOthers {kw kt kr ks km kp kv kx} {s : Chip} {seq : Nat} {part : Option Nat} {st : Nat} (h_s :
    s.Canon kw kt kr ks km kp kv kx) : (advanceOthers s seq part st).Canon kw kt kr ks km kp kv kx := by
  unfold advanceOthers
  try dsimp only
  repeat' first
    | with_reducible assumption
    | with_reducible apply canon_ite
    | with_reducible apply canon_ite_s
    | with_reducible apply canon_ite_fst
    | with_reducible apply canon_ite_fst_s
    | simp only [canon_mk_iff]
    | split
    | intro _

theorem canon_countStep {kw kt kr ks km kp kv kx} {s : Chip} {st : Nat} (h_s : s.Canon kw kt kr ks km kp kv kx) :
    (countStep s st).Canon kw kt kr ks km kp kv kx := by
  unfold countStep
  try dsimp only
  repeat' first
    | with_reducible assumption
    | with_reducible apply canon_bump
    | with_reducible apply canon_ite
    | with_reducible apply canon_ite_s
    | with_reducible apply canon_ite_fst
    | with_reducible apply canon_ite_fst_s
    | simp only [canon_mk_iff]
    | split
    | intro _

theorem canon_logNote {kw kt kr ks km kp kv xb xq xl xm xn xc} {s : Chip} {n : Note} {refSeq : Nat} (h_s : s.Canon kw
    kt kr ks km kp kv ⟨xb, xq, xl, xm, none, xn, xc⟩) : (logNote s n refSeq).1.Canon kw kt kr ks km kp kv ⟨xb, xq, xl,
    xm, none, xn, xc⟩ := by
  unfold logNote
  try dsimp only
  repeat' first
    | with_reducible assumption
    | with_reducible apply canon_bumpWrap
    | with_reducible apply canon_Rd_count
    | with_reducible apply canon_Rd_note
    | with_reducible apply canon_Rd_drop
    | with_reducible apply canon_EditEnv_drop
    | with_reducible apply canon_ringNew
    | with_reducible apply canon_pinOccurrence
    | with_reducible apply canon_ite
    | with_reducible apply canon_ite_s
    | with_reducible apply canon_ite_fst
    | with_reducible apply canon_ite_fst_s
    | simp only [canon_mk_iff]

theorem canon_takeStep {kw kt kr ks xn xc} {s : Chip} {seq : Nat} {part : Option Nat} {job : Option (Nat × Nat)} {st :
    Nat} (h_s : s.Canon kw kt kr ks none none none ⟨none, none, none, none, none, xn, xc⟩) : (takeStep s seq part job
    st).Canon kw kt kr ks none none none ⟨none, none, none, none, none, xn, xc⟩ := by
  unfold takeStep
  try dsimp only
  repeat' first
    | with_reducible assumption
    | with_reducible apply canon_setFlag
    | with_reducible apply canon_enterFatal
    | with_reducible apply canon_stepEffect
    | with_reducible apply canon_advanceOthers
    | with_reducible apply canon_countStep
    | with_reducible apply canon_logNote
    | with_reducible apply canon_ite
    | with_reducible apply canon_ite_s
    | with_reducible apply canon_ite_fst
    | with_reducible apply canon_ite_fst_s
    | simp only [canon_mk_iff]
    | split
    | intro _

theorem canon_dropPending {kw kt kr ks km kp kv kx} {s : Chip} {seq : Nat} (h_s : s.Canon kw kt kr ks km kp kv kx) :
    (dropPending s seq).Canon kw kt kr ks km kp kv kx := by
  unfold dropPending
  try dsimp only
  repeat' first
    | with_reducible assumption
    | with_reducible apply canon_showPending
    | with_reducible apply canon_ite
    | with_reducible apply canon_ite_s
    | with_reducible apply canon_ite_fst
    | with_reducible apply canon_ite_fst_s
    | simp only [canon_mk_iff]

theorem canon_takeDue {kw kt kr ks xn xc} {s : Chip} {seq : Nat} {x : Pending} (h_s : s.Canon kw kt kr ks none none
    none ⟨none, none, none, none, none, xn, xc⟩) : (takeDue s seq x).Canon kw kt kr ks none none none ⟨none, none,
    none, none, none, xn, xc⟩ := by
  unfold takeDue
  try dsimp only
  repeat' first
    | with_reducible assumption
    | with_reducible apply canon_takeStep
    | with_reducible apply canon_ite
    | with_reducible apply canon_ite_s
    | with_reducible apply canon_ite_fst
    | with_reducible apply canon_ite_fst_s
    | simp only [canon_mk_iff]

theorem canon_graceExpiry {kw kt kr ks xn xc} {s : Chip} {seq : Nat} (h_s : s.Canon kw kt kr ks none none none ⟨none,
    none, none, none, none, xn, xc⟩) : (graceExpiry s seq).Canon kw kt kr ks none none none ⟨none, none, none, none,
    none, xn, xc⟩ := by
  unfold graceExpiry
  try dsimp only
  repeat' first
    | with_reducible assumption
    | with_reducible apply canon_dropPending
    | with_reducible apply canon_takeDue
    | with_reducible apply canon_ite
    | with_reducible apply canon_ite_s
    | with_reducible apply canon_ite_fst
    | with_reducible apply canon_ite_fst_s
    | simp only [canon_mk_iff]
    | split
    | intro _

theorem canon_runGraces {kw kt kr ks xn xc} {s : Chip} (h_s : s.Canon kw kt kr ks none none none ⟨none, none, none,
    none, none, xn, xc⟩) : (runGraces s).Canon kw kt kr ks none none none ⟨none, none, none, none, none, xn, xc⟩ := by
  unfold runGraces
  try dsimp only
  repeat' first
    | with_reducible assumption
    | with_reducible apply canon_graceExpiry
    | with_reducible apply canon_foldl

theorem canon_becomePending {kw kt kr ks xn xc} {s : Chip} {r : Logged} (h_s : s.Canon kw kt kr ks none none none
    ⟨none, none, none, none, none, xn, xc⟩) : (becomePending s r).Canon kw kt kr ks none none none ⟨none, none, none,
    none, none, xn, xc⟩ := by
  unfold becomePending
  try dsimp only
  repeat' first
    | with_reducible assumption
    | with_reducible apply canon_bump
    | with_reducible apply canon_setFlag
    | with_reducible apply canon_Rd_note
    | with_reducible apply canon_showPending
    | with_reducible apply canon_takeStep
    | with_reducible apply canon_ite
    | with_reducible apply canon_ite_s
    | with_reducible apply canon_ite_fst
    | with_reducible apply canon_ite_fst_s
    | simp only [canon_mk_iff]
    | split
    | intro _

theorem canon_takeNote {kw kt kr ks xn xc} {s : Chip} {n : Note} (h_s : s.Canon kw kt kr ks none none none ⟨none,
    none, none, none, none, xn, xc⟩) : (takeNote s n).Canon kw kt kr ks none none none ⟨none, none, none, none, none,
    xn, xc⟩ := by
  unfold takeNote
  try dsimp only
  repeat' first
    | with_reducible assumption
    | with_reducible apply canon_Rd_count
    | with_reducible apply canon_ringAgain
    | with_reducible apply canon_pinOccurrence
    | with_reducible apply canon_enterFatal
    | with_reducible apply canon_logNote
    | with_reducible apply canon_becomePending
    | with_reducible apply canon_ite
    | with_reducible apply canon_ite_s
    | with_reducible apply canon_ite_fst
    | with_reducible apply canon_ite_fst_s
    | simp only [canon_mk_iff]
    | split
    | intro _

theorem canon_takeSent {kw kt kr ks xn xc} {s : Chip} {source : Option Nat} (h_s : s.Canon kw kt kr ks none none none
    ⟨none, none, none, none, none, xn, xc⟩) : (takeSent s source).Canon kw kt kr ks none none none ⟨none, none, none,
    none, none, xn, xc⟩ := by
  unfold takeSent
  try dsimp only
  repeat' first
    | with_reducible assumption
    | with_reducible apply canon_takeNote
    | with_reducible apply canon_foldl
    | with_reducible apply canon_foldl_fst
    | with_reducible apply canon_foldl_rd
    | with_reducible apply canon_foldl_rd_fst
    | with_reducible apply canon_foldl_x
    | with_reducible apply canon_foldl_run_fst
    | with_reducible apply canon_ite
    | with_reducible apply canon_ite_s
    | with_reducible apply canon_ite_fst
    | with_reducible apply canon_ite_fst_s
    | simp only [canon_mk_iff]

theorem canon_fcAck {kw kt kr ks xn xc} {s : Chip} {seq : Nat} (h_s : s.Canon kw kt kr ks none none none ⟨none, none,
    none, none, none, xn, xc⟩) : (fcAck s seq).Canon kw kt kr ks none none none ⟨none, none, none, none, none, xn, xc⟩
    := by
  unfold fcAck
  try dsimp only
  repeat' first
    | with_reducible assumption
    | with_reducible apply canon_bump
    | with_reducible apply canon_dropPending
    | with_reducible apply canon_runGraces
    | with_reducible apply canon_takeSent
    | with_reducible apply canon_ite
    | with_reducible apply canon_ite_s
    | with_reducible apply canon_ite_fst
    | with_reducible apply canon_ite_fst_s
    | simp only [canon_mk_iff]
    | split
    | intro _

theorem canon_fatalNow {kw kt kr ks xn xc} {s : Chip} {pg : Page} {f : Field} {n : Note} (h_s : s.Canon kw kt kr ks
    none none none ⟨none, none, none, none, none, xn, xc⟩) : (fatalNow s pg f n).Canon kw kt kr ks none none none
    ⟨none, none, none, none, none, xn, xc⟩ := by
  unfold fatalNow
  try dsimp only
  repeat' first
    | with_reducible assumption
    | with_reducible apply canon_setErr
    | with_reducible apply canon_runGraces
    | with_reducible apply canon_takeNote
    | with_reducible apply canon_takeSent

theorem canon_oldestSent {kw kt kr ks km kp kv kx} {s t : Chip} {pg : Page} {n : Note} (h_s : s.Canon kw kt kr ks km
    kp kv kx)
    (h : oldestSent s pg = some (n, t)) : t.Canon kw kt kr ks km kp kv kx := by
  unfold oldestSent at h
  cases hf : s.faults.inbound.find? (fun n => n.source == pageId pg) with
  | none => rw [hf] at h; cases h
  | some x => rw [hf] at h; cases h; exact canon_mk_iff.mpr h_s

theorem canon_dropNote {kw kt kr ks xn xc} {s : Chip} {n : Note} (h_s : s.Canon kw kt kr ks none none none ⟨none,
    none, none, none, none, xn, xc⟩) : (dropNote s n).Canon kw kt kr ks none none none ⟨none, none, none, none, none,
    xn, xc⟩ := by
  unfold dropNote
  try dsimp only
  repeat' first
    | with_reducible assumption
    | with_reducible apply canon_bump
    | with_reducible apply canon_fatalNow
    | with_reducible apply canon_ite
    | with_reducible apply canon_ite_s
    | with_reducible apply canon_ite_fst
    | with_reducible apply canon_ite_fst_s
    | simp only [canon_mk_iff]
    | split
    | intro _

theorem canon_coxCorrected {kw kt kr ks km kp kv xb xq xl xm xn xc} {s : Chip} (h_s : s.Canon kw kt kr ks km kp kv
    ⟨xb, xq, xl, xm, none, xn, xc⟩) : (coxCorrected s).Canon kw kt kr ks km kp kv ⟨xb, xq, xl, xm, none, xn, xc⟩ := by
  unfold coxCorrected
  try dsimp only
  repeat' first
    | with_reducible assumption
    | with_reducible apply canon_bump
    | with_reducible apply canon_report

theorem canon_loseSync {kw kt kr ks km kp kv xb xl xm xh xn xc} {s : Chip} {p : Nat} (h_s : s.Canon kw kt kr ks km kp
    kv ⟨xb, none, xl, xm, xh, xn, xc⟩) : (loseSync s p).Canon kw kt kr ks km kp kv ⟨xb, none, xl, xm, xh, xn, xc⟩ :=
    by
  unfold loseSync
  try dsimp only
  repeat' first
    | with_reducible assumption
    | with_reducible apply canon_Rd_count
    | with_reducible apply canon_foldl
    | with_reducible apply canon_foldl_fst
    | with_reducible apply canon_foldl_rd
    | with_reducible apply canon_foldl_rd_fst
    | with_reducible apply canon_foldl_x
    | with_reducible apply canon_foldl_run_fst
    | with_reducible apply canon_ite
    | with_reducible apply canon_ite_s
    | with_reducible apply canon_ite_fst
    | with_reducible apply canon_ite_fst_s
    | simp only [canon_mkq_iff]

theorem canon_partitionLost {kw kt kr ks km kp kv xb xl xm xh xn xc} {s : Chip} {pg : Page} {code : Nat} {p : Nat}
    (h_s : s.Canon kw kt kr ks km kp kv ⟨xb, none, xl, xm, xh, xn, xc⟩) : (partitionLost s pg code p).Canon kw kt kr
    ks km kp kv ⟨xb, none, xl, xm, xh, xn, xc⟩ := by
  unfold partitionLost
  try dsimp only
  repeat' first
    | with_reducible assumption
    | with_reducible apply canon_send
    | with_reducible apply canon_stopQueues

theorem canon_unreadable {kw kt kr ks xn xc} {s : Chip} {pg : Page} {p : Nat} (h_s : s.Canon kw kt kr ks none none
    none ⟨none, none, none, none, none, xn, xc⟩) : (unreadable s pg p).Canon kw kt kr ks none none none ⟨none, none,
    none, none, none, xn, xc⟩ := by
  unfold unreadable
  try dsimp only
  repeat' first
    | with_reducible assumption
    | with_reducible apply canon_bump
    | with_reducible apply canon_setKvPart
    | with_reducible apply canon_fatalNow
    | with_reducible apply canon_loseSync
    | with_reducible apply canon_partitionLost
    | with_reducible apply canon_ite
    | with_reducible apply canon_ite_s
    | with_reducible apply canon_ite_fst
    | with_reducible apply canon_ite_fst_s
    | simp only [canon_mk_iff]
    | split
    | intro _

theorem canon_faultRecordArrival {kw kt kr ks xn xc} {s : Chip} {pg : Page} {how : Arrival} (h_s : s.Canon kw kt kr ks
    none none none ⟨none, none, none, none, none, xn, xc⟩) : (faultRecordArrival s pg how).Canon kw kt kr ks none none
    none ⟨none, none, none, none, none, xn, xc⟩ := by
  unfold faultRecordArrival
  try dsimp only
  repeat' first
    | with_reducible assumption
    | with_reducible apply canon_runGraces
    | with_reducible apply canon_takeNote
    | with_reducible apply canon_dropNote
    | with_reducible apply canon_coxCorrected
    | with_reducible apply canon_unreadable
    | exact canon_oldestSent (canon_runGraces (by assumption)) (by assumption)
    | with_reducible apply canon_ite
    | with_reducible apply canon_ite_s
    | with_reducible apply canon_ite_fst
    | with_reducible apply canon_ite_fst_s
    | simp only [canon_mk_iff]
    | split
    | intro _

theorem canon_coxWatchdog {kw kt kr ks xn xc} {s : Chip} (h_s : s.Canon kw kt kr ks none none none ⟨none, none, none,
    none, none, xn, xc⟩) : (coxWatchdog s).Canon kw kt kr ks none none none ⟨none, none, none, none, none, xn, xc⟩ :=
    by
  unfold coxWatchdog
  try dsimp only
  repeat' first
    | with_reducible assumption
    | with_reducible apply canon_fatalNow
    | with_reducible apply canon_ite
    | with_reducible apply canon_ite_s
    | with_reducible apply canon_ite_fst
    | with_reducible apply canon_ite_fst_s
    | simp only [canon_mk_iff]
    | split
    | intro _

theorem canon_startFenceTest {kw kt kr ks km kp kv xq xl xm xh xn xc} {s : Chip} {b : Nat} (h_s : s.Canon kw kt kr ks
    km kp kv ⟨none, xq, xl, xm, xh, xn, xc⟩) : (startFenceTest s b).Canon kw kt kr ks km kp kv ⟨none, xq, xl, xm, xh,
    xn, xc⟩ := by
  unfold startFenceTest
  try dsimp only
  repeat' first
    | with_reducible assumption
    | with_reducible apply canon_wr
    | with_reducible apply canon_loseSets
    | with_reducible apply canon_ite
    | with_reducible apply canon_ite_s
    | with_reducible apply canon_ite_fst
    | with_reducible apply canon_ite_fst_s
    | simp only [canon_mk_iff]

theorem canon_fenceRelease {kw kt kr ks km kp kv xq xl xm xh xn xc} {s : Chip} {b : Nat} (h_s : s.Canon kw kt kr ks km
    kp kv ⟨none, xq, xl, xm, xh, xn, xc⟩) : (fenceRelease s b).Canon kw kt kr ks km kp kv ⟨none, xq, xl, xm, xh, xn,
    xc⟩ := by
  unfold fenceRelease
  try dsimp only
  repeat' first
    | with_reducible assumption
    | with_reducible apply canon_wr
    | with_reducible apply canon_startFenceTest
    | with_reducible apply canon_ite
    | with_reducible apply canon_ite_s
    | with_reducible apply canon_ite_fst
    | with_reducible apply canon_ite_fst_s
    | simp only [canon_mk_iff]
    | split
    | intro _

theorem canon_clearBlockCounts {kw kt kr ks km kp kv kx} {s : Chip} {b : Nat} (h_s : s.Canon kw kt kr ks km kp kv kx)
    : (clearBlockCounts s b).Canon kw kt kr ks km kp kv kx := by
  unfold clearBlockCounts
  try dsimp only
  repeat' first
    | with_reducible assumption
    | with_reducible apply canon_wrAll
    | with_reducible apply canon_closeWindow

theorem canon_releaseBank {kw kt kr ks km kp kv kx} {s : Chip} {b : Nat} (h_s : s.Canon kw kt kr ks km kp kv kx) :
    (releaseBank s b).Canon kw kt kr ks km kp kv kx := by
  unfold releaseBank
  try dsimp only
  repeat' first
    | with_reducible assumption
    | with_reducible apply canon_wrAll
    | with_reducible apply canon_closeWindow
    | with_reducible apply canon_ite
    | with_reducible apply canon_ite_s
    | with_reducible apply canon_ite_fst
    | with_reducible apply canon_ite_fst_s
    | simp only [canon_mk_iff]
    | split
    | intro _

theorem canon_fenceTested {kw kt kr ks km kp kv kx} {s : Chip} {pass : Bool} (h_s : s.Canon kw kt kr ks km kp kv kx) :
    (fenceTested s pass).Canon kw kt kr ks km kp kv kx := by
  unfold fenceTested
  try dsimp only
  repeat' first
    | with_reducible assumption
    | with_reducible apply canon_wrAll
    | with_reducible apply canon_ite
    | with_reducible apply canon_ite_s
    | with_reducible apply canon_ite_fst
    | with_reducible apply canon_ite_fst_s
    | simp only [canon_mk_iff]

theorem canon_fencePassed {kw kt kr ks kp kv xn xc} {s : Chip} {b : Nat} (h_s : s.Canon kw kt kr ks none kp kv ⟨none,
    none, none, none, none, xn, xc⟩) : (fencePassed s b).Canon kw kt kr ks none kp kv ⟨none, none, none, none, none,
    xn, xc⟩ := by
  unfold fencePassed
  try dsimp only
  repeat' first
    | with_reducible assumption
    | with_reducible apply canon_wr
    | with_reducible apply canon_setFlag
    | with_reducible apply canon_setBlock
    | with_reducible apply canon_retryChains
    | with_reducible apply canon_clearBlockCounts
    | with_reducible apply canon_releaseBank

theorem canon_fenceFailed {kw kt kr ks km kp kv xb xq xl xm xn xc} {s : Chip} {b : Nat} (h_s : s.Canon kw kt kr ks km
    kp kv ⟨xb, xq, xl, xm, none, xn, xc⟩) : (fenceFailed s b).Canon kw kt kr ks km kp kv ⟨xb, xq, xl, xm, none, xn,
    xc⟩ := by
  unfold fenceFailed
  try dsimp only
  repeat' first
    | with_reducible assumption
    | with_reducible apply canon_wr
    | with_reducible apply canon_setFlag
    | with_reducible apply canon_send

theorem canon_fenceTestComplete {kw kt kr ks kp kv xn xc} {s : Chip} {pass : Bool} (h_s : s.Canon kw kt kr ks none kp
    kv ⟨none, none, none, none, none, xn, xc⟩) : (fenceTestComplete s pass).Canon kw kt kr ks none kp kv ⟨none, none,
    none, none, none, xn, xc⟩ := by
  unfold fenceTestComplete
  try dsimp only
  repeat' first
    | with_reducible assumption
    | with_reducible apply canon_fenceTested
    | with_reducible apply canon_fencePassed
    | with_reducible apply canon_fenceFailed
    | with_reducible apply canon_ite
    | with_reducible apply canon_ite_s
    | with_reducible apply canon_ite_fst
    | with_reducible apply canon_ite_fst_s
    | simp only [canon_mk_iff]
    | split
    | intro _

theorem canon_d2dFail {kw kt kr ks xn xc} {s : Chip} {r : Nat} (h_s : s.Canon kw kt kr ks none none none ⟨none, none,
    none, none, none, xn, xc⟩) : (d2dFail s r).Canon kw kt kr ks none none none ⟨none, none, none, none, none, xn, xc⟩
    := by
  unfold d2dFail
  try dsimp only
  repeat' first
    | with_reducible assumption
    | with_reducible apply canon_fatalNow

theorem canon_d2dDrop {kw kt kr ks xn xc} {s : Chip} {r : Nat} {g : Nat} (h_s : s.Canon kw kt kr ks none none none
    ⟨none, none, none, none, none, xn, xc⟩) : (d2dDrop s r g).Canon kw kt kr ks none none none ⟨none, none, none,
    none, none, xn, xc⟩ := by
  unfold d2dDrop
  try dsimp only
  repeat' first
    | with_reducible assumption
    | with_reducible apply canon_wr
    | with_reducible apply canon_closeWindow
    | with_reducible apply canon_report
    | with_reducible apply canon_d2dFail
    | with_reducible apply canon_ite
    | with_reducible apply canon_ite_s
    | with_reducible apply canon_ite_fst
    | with_reducible apply canon_ite_fst_s
    | simp only [canon_mk_iff]
    | split
    | intro _

theorem canon_d2dNoted {kw kt kr ks km kp kv xb xq xl xm xn xc} {s : Chip} {r : Nat} {g : Nat} (h_s : s.Canon kw kt kr
    ks km kp kv ⟨xb, xq, xl, xm, none, xn, xc⟩) : (d2dNoted s r g).Canon kw kt kr ks km kp kv ⟨xb, xq, xl, xm, none,
    xn, xc⟩ := by
  unfold d2dNoted
  try dsimp only
  repeat' first
    | with_reducible assumption
    | with_reducible apply canon_countEvent
    | with_reducible apply canon_report

theorem canon_d2dCrcRetry {kw kt kr ks xn xc} {s : Chip} {r : Nat} {g : Nat} (h_s : s.Canon kw kt kr ks none none none
    ⟨none, none, none, none, none, xn, xc⟩) : (d2dCrcRetry s r g).Canon kw kt kr ks none none none ⟨none, none, none,
    none, none, xn, xc⟩ := by
  unfold d2dCrcRetry
  try dsimp only
  repeat' first
    | with_reducible assumption
    | with_reducible apply canon_d2dDrop
    | with_reducible apply canon_d2dNoted
    | with_reducible apply canon_ite
    | with_reducible apply canon_ite_s
    | with_reducible apply canon_ite_fst
    | with_reducible apply canon_ite_fst_s
    | simp only [canon_mk_iff]
    | split
    | intro _

theorem canon_d2dRetrained {kw kt kr ks km kp kv kx} {s : Chip} {r : Nat} (h_s : s.Canon kw kt kr ks km kp kv kx) :
    (d2dRetrained s r).Canon kw kt kr ks km kp kv kx := by
  unfold d2dRetrained
  try dsimp only
  repeat' first
    | with_reducible assumption
    | with_reducible apply canon_ite
    | with_reducible apply canon_ite_s
    | with_reducible apply canon_ite_fst
    | with_reducible apply canon_ite_fst_s
    | simp only [canon_mk_iff]

theorem canon_d2dRetrainComplete {kw kt kr ks xn xc} {s : Chip} {r : Nat} {ok : Bool} (h_s : s.Canon kw kt kr ks none
    none none ⟨none, none, none, none, none, xn, xc⟩) : (d2dRetrainComplete s r ok).Canon kw kt kr ks none none none
    ⟨none, none, none, none, none, xn, xc⟩ := by
  unfold d2dRetrainComplete
  try dsimp only
  repeat' first
    | with_reducible assumption
    | with_reducible apply canon_d2dFail
    | with_reducible apply canon_d2dRetrained
    | with_reducible apply canon_ite
    | with_reducible apply canon_ite_s
    | with_reducible apply canon_ite_fst
    | with_reducible apply canon_ite_fst_s
    | simp only [canon_mk_iff]
    | split
    | intro _

end Sys2Proof.Machine
end

