-- ==== Sys2Proof/Laws/CanonSecurity.lean ====
section
/-! SUPPORT. The operations of Machine/Security.lean keep the canonical form. -/
set_option linter.all false
namespace Sys2Proof.Machine

theorem canon_deriveKeys {kw kt kr km kp kv kx} {s : Chip} (h_s : s.Canon kw kt kr none km kp kv kx) : (deriveKeys
    s).Canon kw kt kr none km kp kv kx := by
  unfold deriveKeys
  try dsimp only
  repeat' first
    | with_reducible assumption
    | with_reducible apply canon_ite
    | with_reducible apply canon_ite_s
    | with_reducible apply canon_ite_fst
    | with_reducible apply canon_ite_fst_s
    | simp only [canon_mks_iff]

theorem canon_setDebug {kw kt kr km kp kv xb xq xl xm xn xc} {s : Chip} {operator : Bool} {deep : Bool} (h_s : s.Canon
    kw kt kr none km kp kv ⟨xb, xq, xl, xm, none, xn, xc⟩) : (setDebug s operator deep).Canon kw kt kr none km kp kv
    ⟨xb, xq, xl, xm, none, xn, xc⟩ := by
  unfold setDebug
  try dsimp only
  repeat' first
    | with_reducible assumption
    | with_reducible apply canon_wrAll
    | with_reducible apply canon_setFlag
    | with_reducible apply canon_deriveKeys
    | with_reducible apply canon_ite
    | with_reducible apply canon_ite_s
    | with_reducible apply canon_ite_fst
    | with_reducible apply canon_ite_fst_s
    | simp only [canon_mks_iff]
    | split
    | intro _

theorem canon_showFuses {kw kt kr ks km kp kv kx} {s : Chip} (h_s : s.Canon kw kt kr ks km kp kv kx) : (showFuses
    s).Canon kw kt kr ks km kp kv kx := by
  unfold showFuses
  try dsimp only
  repeat' first
    | with_reducible assumption
    | with_reducible apply canon_wr
    | with_reducible apply canon_wrAll
    | with_reducible apply canon_foldl
    | with_reducible apply canon_foldl_fst
    | with_reducible apply canon_foldl_rd
    | with_reducible apply canon_foldl_rd_fst
    | with_reducible apply canon_foldl_x
    | with_reducible apply canon_foldl_run_fst
    | with_reducible apply canon_ite
    | with_reducible apply canon_ite_s
    | with_reducible apply canon_ite_fst
    | with_reducible apply canon_ite_fst_s
    | simp only [canon_mk_iff]
    | split
    | intro _

theorem canon_runBoot {kw kt kr km kp kv kx} {s : Chip} (h_s : s.Canon kw kt kr none km kp kv kx) : (runBoot s).Canon
    kw kt kr none km kp kv kx := by
  unfold runBoot
  try dsimp only
  repeat' first
    | with_reducible assumption
    | with_reducible apply canon_wr
    | with_reducible apply canon_wrAll
    | with_reducible apply canon_EditEnv_run
    | with_reducible apply canon_deriveKeys
    | with_reducible apply canon_showFuses
    | with_reducible apply canon_ite
    | with_reducible apply canon_ite_s
    | with_reducible apply canon_ite_fst
    | with_reducible apply canon_ite_fst_s
    | simp only [canon_mks_iff]

theorem canon_coxError {kw kt kr ks km kp kv xb xq xl xm xn xc} {s : Chip} (h_s : s.Canon kw kt kr ks km kp kv ⟨xb,
    xq, xl, xm, none, xn, xc⟩) : (coxError s).Canon kw kt kr ks km kp kv ⟨xb, xq, xl, xm, none, xn, xc⟩ := by
  unfold coxError
  try dsimp only
  repeat' first
    | with_reducible assumption
    | with_reducible apply canon_hostError

theorem canon_supplementKept {kw kt kr km kp kv kx} {s : Chip} {l : List Byte} (h_s : s.Canon kw kt kr none km kp kv
    kx) : (supplementKept s l).Canon kw kt kr none km kp kv kx := by
  unfold supplementKept
  try dsimp only
  repeat' first
    | with_reducible assumption
    | with_reducible apply canon_ite
    | with_reducible apply canon_ite_s
    | with_reducible apply canon_ite_fst
    | with_reducible apply canon_ite_fst_s
    | simp only [canon_mks_iff]

theorem canon_supplementDone {kw kt kr ks km kp kv xb xq xl xm xn xc} {s : Chip} {c : Nat} (h_s : s.Canon kw kt kr ks
    km kp kv ⟨xb, xq, xl, xm, none, xn, xc⟩) : (supplementDone s c).Canon kw kt kr ks km kp kv ⟨xb, xq, xl, xm, none,
    xn, xc⟩ := by
  unfold supplementDone
  try dsimp only
  repeat' first
    | with_reducible assumption
    | with_reducible apply canon_wr
    | with_reducible apply canon_setFlag

theorem canon_secSvnCommit {kw kt kr km kp kv kx} {s : Chip} (h_s : s.Canon kw kt kr none km kp kv kx) : (secSvnCommit
    s).Canon kw kt kr none km kp kv kx := by
  unfold secSvnCommit
  try dsimp only
  repeat' first
    | with_reducible assumption
    | with_reducible apply canon_wr
    | with_reducible apply canon_ite
    | with_reducible apply canon_ite_s
    | with_reducible apply canon_ite_fst
    | with_reducible apply canon_ite_fst_s
    | simp only [canon_mks_iff]
    | split
    | intro _

theorem canon_nonceMade {kw kt kr km kp kv kx} {s : Chip} (h_s : s.Canon kw kt kr none km kp kv kx) : (nonceMade
    s).Canon kw kt kr none km kp kv kx := by
  unfold nonceMade
  try dsimp only
  repeat' first
    | with_reducible assumption
    | with_reducible apply canon_wr
    | with_reducible apply canon_draw
    | with_reducible apply canon_foldl
    | with_reducible apply canon_foldl_fst
    | with_reducible apply canon_foldl_rd
    | with_reducible apply canon_foldl_rd_fst
    | with_reducible apply canon_foldl_x
    | with_reducible apply canon_foldl_run_fst
    | with_reducible apply canon_ite
    | with_reducible apply canon_ite_s
    | with_reducible apply canon_ite_fst
    | with_reducible apply canon_ite_fst_s
    | simp only [canon_mks_iff]
    | split
    | intro _

theorem canon_nonceNew {kw kt kr km kp kv kx} {s : Chip} (h_s : s.Canon kw kt kr none km kp kv kx) : (nonceNew
    s).Canon kw kt kr none km kp kv kx := by
  unfold nonceNew
  try dsimp only
  repeat' first
    | with_reducible assumption
    | with_reducible apply canon_nonceMade
    | with_reducible apply canon_ite
    | with_reducible apply canon_ite_s
    | with_reducible apply canon_ite_fst
    | with_reducible apply canon_ite_fst_s
    | simp only [canon_mk_iff]
    | split
    | intro _

theorem canon_burnLifecycle {kw kt kr km kp kv kx} {s : Chip} {v : Nat} (h_s : s.Canon kw kt kr none km kp kv kx) :
    (burnLifecycle s v).Canon kw kt kr none km kp kv kx := by
  unfold burnLifecycle
  try dsimp only
  repeat' first
    | with_reducible assumption
    | with_reducible apply canon_ite
    | with_reducible apply canon_ite_s
    | with_reducible apply canon_ite_fst
    | with_reducible apply canon_ite_fst_s
    | simp only [canon_mks_iff]

theorem canon_openDeep {kw kt kr km kp kv xb xq xl xm xn xc} {s : Chip} (h_s : s.Canon kw kt kr none km kp kv ⟨xb, xq,
    xl, xm, none, xn, xc⟩) : (openDeep s).Canon kw kt kr none km kp kv ⟨xb, xq, xl, xm, none, xn, xc⟩ := by
  unfold openDeep
  try dsimp only
  repeat' first
    | with_reducible assumption
    | with_reducible apply canon_bump
    | with_reducible apply canon_setDebug

theorem canon_applyToken {kw kt kr km kp kv xb xq xl xm xn xc} {s : Chip} {kind : Nat} {target : Nat} (h_s : s.Canon
    kw kt kr none km kp kv ⟨xb, xq, xl, xm, none, xn, xc⟩) : (applyToken s kind target).Canon kw kt kr none km kp kv
    ⟨xb, xq, xl, xm, none, xn, xc⟩ := by
  unfold applyToken
  try dsimp only
  repeat' first
    | with_reducible assumption
    | with_reducible apply canon_wr
    | with_reducible apply canon_burnLifecycle
    | with_reducible apply canon_openDeep
    | with_reducible apply canon_ite
    | with_reducible apply canon_ite_s
    | with_reducible apply canon_ite_fst
    | with_reducible apply canon_ite_fst_s
    | simp only [canon_mks_iff]
    | split

theorem canon_tokenDone {kw kt kr ks km kp kv xb xq xl xm xn xc} {s : Chip} {c : Nat} (h_s : s.Canon kw kt kr ks km kp
    kv ⟨xb, xq, xl, xm, none, xn, xc⟩) : (tokenDone s c).Canon kw kt kr ks km kp kv ⟨xb, xq, xl, xm, none, xn, xc⟩ :=
    by
  unfold tokenDone
  try dsimp only
  repeat' first
    | with_reducible assumption
    | with_reducible apply canon_wr
    | with_reducible apply canon_setFlag

theorem canon_tokenAnswer {kw kt kr ks km kp kv kx} {s : Chip} {mctp : Option Endpoint} {c : Nat} (h_s : s.Canon kw kt
    kr ks km kp kv kx) : (tokenAnswer s mctp c).Canon kw kt kr ks km kp kv kx := by
  unfold tokenAnswer
  try dsimp only
  repeat' first
    | with_reducible assumption
    | with_reducible apply canon_answer
    | with_reducible apply canon_ite
    | with_reducible apply canon_ite_s
    | with_reducible apply canon_ite_fst
    | with_reducible apply canon_ite_fst_s
    | simp only [canon_mk_iff]
    | split

theorem canon_tokenBusy {kw kt kr km kp kv xb xq xl xm xn xc} {s : Chip} {mctp : Option Endpoint} (h_s : s.Canon kw kt
    kr none km kp kv ⟨xb, xq, xl, xm, none, xn, xc⟩) : (tokenBusy s mctp).Canon kw kt kr none km kp kv ⟨xb, xq, xl,
    xm, none, xn, xc⟩ := by
  unfold tokenBusy
  try dsimp only
  repeat' first
    | with_reducible assumption
    | with_reducible apply canon_tokenDone
    | with_reducible apply canon_tokenAnswer
    | with_reducible apply canon_ite
    | with_reducible apply canon_ite_s
    | with_reducible apply canon_ite_fst
    | with_reducible apply canon_ite_fst_s
    | simp only [canon_mks_iff]

theorem canon_startProcessing {kw kt kr km kp kv kx} {s : Chip} {isSupplement : Bool} {mctp : Option Endpoint} {code :
    Nat} {l : List Byte} (h_s : s.Canon kw kt kr none km kp kv kx) : (startProcessing s isSupplement mctp code
    l).Canon kw kt kr none km kp kv kx := by
  unfold startProcessing
  try dsimp only
  repeat' first
    | with_reducible assumption
    | with_reducible apply canon_wr
    | with_reducible apply canon_ite
    | with_reducible apply canon_ite_s
    | with_reducible apply canon_ite_fst
    | with_reducible apply canon_ite_fst_s
    | simp only [canon_mks_iff]

theorem canon_processed {kw kt kr km kp kv xb xq xl xm xn xc} {s : Chip} {d : TokenWork} (h_s : s.Canon kw kt kr none
    km kp kv ⟨xb, xq, xl, xm, none, xn, xc⟩) : (processed s d).Canon kw kt kr none km kp kv ⟨xb, xq, xl, xm, none, xn,
    xc⟩ := by
  unfold processed
  try dsimp only
  repeat' first
    | with_reducible assumption
    | with_reducible apply canon_supplementKept
    | with_reducible apply canon_supplementDone
    | with_reducible apply canon_applyToken
    | with_reducible apply canon_tokenDone
    | with_reducible apply canon_tokenAnswer
    | with_reducible apply canon_ite
    | with_reducible apply canon_ite_s
    | with_reducible apply canon_ite_fst
    | with_reducible apply canon_ite_fst_s
    | simp only [canon_mk_iff]
    | split
    | intro _

theorem canon_endProcessing {kw kt kr km kp kv xb xq xl xm xn xc} {s : Chip} {isSupplement : Bool} {mctp : Option
    Endpoint} (h_s : s.Canon kw kt kr none km kp kv ⟨xb, xq, xl, xm, none, xn, xc⟩) : (endProcessing s isSupplement
    mctp).Canon kw kt kr none km kp kv ⟨xb, xq, xl, xm, none, xn, xc⟩ := by
  unfold endProcessing
  try dsimp only
  repeat' first
    | with_reducible assumption
    | with_reducible apply canon_wr
    | with_reducible apply canon_processed
    | with_reducible apply canon_ite
    | with_reducible apply canon_ite_s
    | with_reducible apply canon_ite_fst
    | with_reducible apply canon_ite_fst_s
    | simp only [canon_mks_iff]
    | split
    | intro _

theorem canon_takeToken {kw kt kr km kp kv xb xq xl xm xn xc} {s : Chip} {isSupplement : Bool} {mctp : Option
    Endpoint} {ends : Bool} {code : Nat} {l : List Byte} (h_s : s.Canon kw kt kr none km kp kv ⟨xb, xq, xl, xm, none,
    xn, xc⟩) : (takeToken s isSupplement mctp ends code l).Canon kw kt kr none km kp kv ⟨xb, xq, xl, xm, none, xn, xc⟩
    := by
  unfold takeToken
  try dsimp only
  repeat' first
    | with_reducible assumption
    | with_reducible apply canon_tokenBusy
    | with_reducible apply canon_startProcessing
    | with_reducible apply canon_endProcessing
    | with_reducible apply canon_ite
    | with_reducible apply canon_ite_s
    | with_reducible apply canon_ite_fst
    | with_reducible apply canon_ite_fst_s
    | simp only [canon_mk_iff]
    | split
    | intro _

theorem canon_supplement {kw kt kr km kp kv xb xq xl xm xn xc} {s : Chip} {host : HostReply} {part : Processing} (h_s
    : s.Canon kw kt kr none km kp kv ⟨xb, xq, xl, xm, none, xn, xc⟩) : (supplement s host part).Canon kw kt kr none km
    kp kv ⟨xb, xq, xl, xm, none, xn, xc⟩ := by
  unfold supplement
  try dsimp only
  repeat' first
    | with_reducible assumption
    | with_reducible apply canon_coxError
    | with_reducible apply canon_tokenBusy
    | with_reducible apply canon_endProcessing
    | with_reducible apply canon_takeToken
    | with_reducible apply canon_ite
    | with_reducible apply canon_ite_s
    | with_reducible apply canon_ite_fst
    | with_reducible apply canon_ite_fst_s
    | simp only [canon_mk_iff]
    | split
    | intro _

theorem canon_token {kw kt kr km kp kv xb xq xl xm xn xc} {s : Chip} {host : HostReply} {part : Processing} (h_s :
    s.Canon kw kt kr none km kp kv ⟨xb, xq, xl, xm, none, xn, xc⟩) : (token s host part).Canon kw kt kr none km kp kv
    ⟨xb, xq, xl, xm, none, xn, xc⟩ := by
  unfold token
  try dsimp only
  repeat' first
    | with_reducible assumption
    | with_reducible apply canon_coxError
    | with_reducible apply canon_tokenBusy
    | with_reducible apply canon_endProcessing
    | with_reducible apply canon_takeToken
    | with_reducible apply canon_ite
    | with_reducible apply canon_ite_s
    | with_reducible apply canon_ite_fst
    | with_reducible apply canon_ite_fst_s
    | simp only [canon_mk_iff]
    | split
    | intro _

theorem canon_mctpToken {kw kt kr km kp kv xb xq xl xm xn xc} {s : Chip} {offset : Nat} {l : List Byte} {last : Bool}
    {part : Processing} {via : Endpoint} (h_s : s.Canon kw kt kr none km kp kv ⟨xb, xq, xl, xm, none, xn, xc⟩) :
    (mctpToken s offset l last part via).Canon kw kt kr none km kp kv ⟨xb, xq, xl, xm, none, xn, xc⟩ := by
  unfold mctpToken
  try dsimp only
  repeat' first
    | with_reducible assumption
    | with_reducible apply canon_answer
    | with_reducible apply canon_endProcessing
    | with_reducible apply canon_takeToken
    | with_reducible apply canon_ite
    | with_reducible apply canon_ite_s
    | with_reducible apply canon_ite_fst
    | with_reducible apply canon_ite_fst_s
    | simp only [canon_mks_iff]
    | split
    | intro _

theorem canon_openOperator {kw kt kr km kp kv xb xq xl xm xn xc} {s : Chip} (h_s : s.Canon kw kt kr none km kp kv ⟨xb,
    xq, xl, xm, none, xn, xc⟩) : (openOperator s).Canon kw kt kr none km kp kv ⟨xb, xq, xl, xm, none, xn, xc⟩ := by
  unfold openOperator
  try dsimp only
  repeat' first
    | with_reducible assumption
    | with_reducible apply canon_bump
    | with_reducible apply canon_setDebug
    | with_reducible apply canon_ite
    | with_reducible apply canon_ite_s
    | with_reducible apply canon_ite_fst
    | with_reducible apply canon_ite_fst_s
    | simp only [canon_mk_iff]
    | split
    | intro _

theorem canon_closeOperator {kw kt kr km kp kv xb xq xl xm xn xc} {s : Chip} (h_s : s.Canon kw kt kr none km kp kv
    ⟨xb, xq, xl, xm, none, xn, xc⟩) : (closeOperator s).Canon kw kt kr none km kp kv ⟨xb, xq, xl, xm, none, xn, xc⟩ :=
    by
  unfold closeOperator
  try dsimp only
  repeat' first
    | with_reducible assumption
    | with_reducible apply canon_setDebug
    | with_reducible apply canon_ite
    | with_reducible apply canon_ite_s
    | with_reducible apply canon_ite_fst
    | with_reducible apply canon_ite_fst_s
    | simp only [canon_mk_iff]
    | split
    | intro _

theorem canon_debugPortUnlock {kw kt kr km kp kv xb xq xl xm xn xc} {s : Chip} (h_s : s.Canon kw kt kr none km kp kv
    ⟨xb, xq, xl, xm, none, xn, xc⟩) : (debugPortUnlock s).Canon kw kt kr none km kp kv ⟨xb, xq, xl, xm, none, xn, xc⟩
    := by
  unfold debugPortUnlock
  try dsimp only
  repeat' first
    | with_reducible assumption
    | with_reducible apply canon_openDeep
    | with_reducible apply canon_ite
    | with_reducible apply canon_ite_s
    | with_reducible apply canon_ite_fst
    | with_reducible apply canon_ite_fst_s
    | simp only [canon_mk_iff]
    | split
    | intro _

theorem canon_countReads {kw kt kr km kp kv kx} {s : Chip} {l : List Nat} (h_s : s.Canon kw kt kr none km kp kv kx) :
    (countReads s l).Canon kw kt kr none km kp kv kx := by
  unfold countReads
  try dsimp only
  repeat' first
    | with_reducible assumption
    | with_reducible apply canon_foldl
    | with_reducible apply canon_foldl_fst
    | with_reducible apply canon_foldl_rd
    | with_reducible apply canon_foldl_rd_fst
    | with_reducible apply canon_foldl_x
    | with_reducible apply canon_foldl_run_fst
    | with_reducible apply canon_ite
    | with_reducible apply canon_ite_s
    | with_reducible apply canon_ite_fst
    | with_reducible apply canon_ite_fst_s
    | simp only [canon_mks_iff]
    | split
    | intro _

theorem canon_debugMeets {kw kt kr ks kv xn xc} {s : Chip} {d : DebugRead} (h_s : s.Canon kw kt kr ks none none kv
    ⟨none, none, none, none, none, xn, xc⟩) : (debugMeets s d).Canon kw kt kr ks none none kv ⟨none, none, none, none,
    none, xn, xc⟩ := by
  unfold debugMeets
  try dsimp only
  repeat' first
    | with_reducible assumption
    | with_reducible apply canon_readMeets
    | with_reducible apply canon_padMeets
    | with_reducible apply canon_ite
    | with_reducible apply canon_ite_s
    | with_reducible apply canon_ite_fst
    | with_reducible apply canon_ite_fst_s
    | simp only [canon_mk_iff]
    | split
    | intro _

theorem canon_debugGo {kw kt kr km kp kv kx} {s : Chip} (h_s : s.Canon kw kt kr none km kp kv kx) : (debugGo s).Canon
    kw kt kr none km kp kv kx := by
  unfold debugGo
  try dsimp only
  repeat' first
    | with_reducible assumption
    | with_reducible apply canon_wr
    | with_reducible apply canon_ite
    | with_reducible apply canon_ite_s
    | with_reducible apply canon_ite_fst
    | with_reducible apply canon_ite_fst_s
    | simp only [canon_mks_iff]
    | split
    | intro _

theorem canon_debugDone {kw kt kr kv xn xc} {s : Chip} (h_s : s.Canon kw kt kr none none none kv ⟨none, none, none,
    none, none, xn, xc⟩) : (debugDone s).Canon kw kt kr none none none kv ⟨none, none, none, none, none, xn, xc⟩ := by
  unfold debugDone
  try dsimp only
  repeat' first
    | with_reducible assumption
    | with_reducible apply canon_wrAll
    | with_reducible apply canon_countReads
    | with_reducible apply canon_debugMeets
    | with_reducible apply canon_ite
    | with_reducible apply canon_ite_s
    | with_reducible apply canon_ite_fst
    | with_reducible apply canon_ite_fst_s
    | simp only [canon_mks_iff]
    | split

theorem canon_debugRead {kw kt kr kv xn xc} {s : Chip} {part : Processing} (h_s : s.Canon kw kt kr none none none kv
    ⟨none, none, none, none, none, xn, xc⟩) : (debugRead s part).Canon kw kt kr none none none kv ⟨none, none, none,
    none, none, xn, xc⟩ := by
  unfold debugRead
  try dsimp only
  repeat' first
    | with_reducible assumption
    | with_reducible apply canon_debugGo
    | with_reducible apply canon_debugDone
    | with_reducible apply canon_ite
    | with_reducible apply canon_ite_s
    | with_reducible apply canon_ite_fst
    | with_reducible apply canon_ite_fst_s
    | simp only [canon_mk_iff]
    | split
    | intro _

theorem canon_showIde {kw kt kr ks km kp kv kx} {s : Chip} (h_s : s.Canon kw kt kr ks km kp kv kx) : (showIde s).Canon
    kw kt kr ks km kp kv kx := by
  unfold showIde
  try dsimp only
  repeat' first
    | with_reducible assumption
    | with_reducible apply canon_wr

theorem canon_ideFailed {kw kt kr km kp kv xb xq xl xm xn xc} {s : Chip} {k : Nat} (h_s : s.Canon kw kt kr none km kp
    kv ⟨xb, xq, xl, xm, none, xn, xc⟩) : (ideFailed s k).Canon kw kt kr none km kp kv ⟨xb, xq, xl, xm, none, xn, xc⟩
    := by
  unfold ideFailed
  try dsimp only
  repeat' first
    | with_reducible assumption
    | with_reducible apply canon_bump
    | with_reducible apply canon_setFlag
    | with_reducible apply canon_showIde
    | with_reducible apply canon_ite
    | with_reducible apply canon_ite_s
    | with_reducible apply canon_ite_fst
    | with_reducible apply canon_ite_fst_s
    | simp only [canon_mks_iff]

theorem canon_ideIntegrityFail {kw kt kr km kp kv xb xq xl xm xn xc} {s : Chip} {port : Nat} {fn : Nat} (h_s : s.Canon
    kw kt kr none km kp kv ⟨xb, xq, xl, xm, none, xn, xc⟩) : (ideIntegrityFail s port fn).Canon kw kt kr none km kp kv
    ⟨xb, xq, xl, xm, none, xn, xc⟩ := by
  unfold ideIntegrityFail
  try dsimp only
  repeat' first
    | with_reducible assumption
    | with_reducible apply canon_ideFailed
    | with_reducible apply canon_ite
    | with_reducible apply canon_ite_s
    | with_reducible apply canon_ite_fst
    | with_reducible apply canon_ite_fst_s
    | simp only [canon_mk_iff]
    | split
    | intro _

theorem canon_ideSet {kw kt kr km kp kv kx} {s : Chip} {k : Nat} (h_s : s.Canon kw kt kr none km kp kv kx) : (ideSet s
    k).Canon kw kt kr none km kp kv kx := by
  unfold ideSet
  try dsimp only
  repeat' first
    | with_reducible assumption
    | with_reducible apply canon_showIde
    | with_reducible apply canon_ite
    | with_reducible apply canon_ite_s
    | with_reducible apply canon_ite_fst
    | with_reducible apply canon_ite_fst_s
    | simp only [canon_mks_iff]

theorem canon_ideKm {kw kt kr km kp kv xb xq xl xm xn xc} {s : Chip} {port : Nat} {fn : Nat} {id : Nat} (h_s : s.Canon
    kw kt kr none km kp kv ⟨xb, xq, xl, xm, none, xn, xc⟩) : (ideKm s port fn id).Canon kw kt kr none km kp kv ⟨xb,
    xq, xl, xm, none, xn, xc⟩ := by
  unfold ideKm
  try dsimp only
  repeat' first
    | with_reducible assumption
    | with_reducible apply canon_msixFlush
    | with_reducible apply canon_ideSet
    | with_reducible apply canon_ite
    | with_reducible apply canon_ite_s
    | with_reducible apply canon_ite_fst
    | with_reducible apply canon_ite_fst_s
    | simp only [canon_mk_iff]
    | split
    | intro _

theorem canon_spdmAnswer {kw kt kr ks km kp kv kx} {s : Chip} {r : Responder} {x : SpdmAnswer} (h_s : s.Canon kw kt kr
    ks km kp kv kx) : (spdmAnswer s r x).Canon kw kt kr ks km kp kv kx := by
  unfold spdmAnswer
  try dsimp only
  repeat' first
    | with_reducible assumption
    | with_reducible apply canon_emit

theorem canon_inSession {kw kt kr ks km kp kv kx} {s : Chip} {r : Responder} {id : Nat} {secured : Bool} {f : Chip →
    Chip} (h_s : s.Canon kw kt kr ks km kp kv kx) (h_f : ∀ a0, a0.Canon kw kt kr ks km kp kv kx → (f a0).Canon kw kt
    kr ks km kp kv kx) : (inSession s r id secured f).Canon kw kt kr ks km kp kv kx := by
  unfold inSession
  try dsimp only
  repeat' first
    | with_reducible assumption
    | with_reducible apply canon_emit
    | with_reducible apply h_f
    | with_reducible apply canon_ite
    | with_reducible apply canon_ite_s
    | with_reducible apply canon_ite_fst
    | with_reducible apply canon_ite_fst_s
    | simp only [canon_mk_iff]
    | split
    | intro _

theorem canon_setSessions {kw kt kr km kp kv kx} {s : Chip} {l : List Session} (h_s : s.Canon kw kt kr none km kp kv
    kx) : (setSessions s l).Canon kw kt kr none km kp kv kx := by
  unfold setSessions
  try dsimp only
  repeat' first
    | with_reducible assumption
    | with_reducible apply canon_ite
    | with_reducible apply canon_ite_s
    | with_reducible apply canon_ite_fst
    | with_reducible apply canon_ite_fst_s
    | simp only [canon_mks_iff]

theorem canon_spdmRequest {kw kt kr km kp kv kx} {s : Chip} {r : Responder} {q : SpdmRequest} (h_s : s.Canon kw kt kr
    none km kp kv kx) : (spdmRequest s r q).Canon kw kt kr none km kp kv kx := by
  unfold spdmRequest
  try dsimp only
  repeat' first
    | with_reducible assumption
    | with_reducible apply canon_emit
    | with_reducible apply canon_Rd_done
    | with_reducible apply canon_spdmAnswer
    | with_reducible apply canon_inSession
    | with_reducible apply canon_setSessions
    | with_reducible apply canon_ite
    | with_reducible apply canon_ite_s
    | with_reducible apply canon_ite_fst
    | with_reducible apply canon_ite_fst_s
    | simp only [canon_mks_iff]
    | split
    | intro _

end Sys2Proof.Machine
end

