-- ==== Sys2Proof/Laws/CanonPower.lean ====
section
/-! SUPPORT. The operations of Machine/Power.lean keep the canonical form. -/
set_option linter.all false
namespace Sys2Proof.Machine

theorem canon_setPower {kw kt kr ks km kp kv kx} {s : Chip} {f : Power → Power} (h_s : s.Canon kw kt kr ks km kp kv
    kx) : (setPower s f).Canon kw kt kr ks km kp kv kx := by
  unfold setPower
  try dsimp only
  repeat' first
    | with_reducible assumption
    | with_reducible apply canon_ite
    | with_reducible apply canon_ite_s
    | with_reducible apply canon_ite_fst
    | with_reducible apply canon_ite_fst_s
    | simp only [canon_mk_iff]

theorem canon_pmFlag {kw kt kr ks km kp kv xb xq xl xm xn xc} {s : Chip} {f : Field} (h_s : s.Canon kw kt kr ks km kp
    kv ⟨xb, xq, xl, xm, none, xn, xc⟩) : (pmFlag s f).Canon kw kt kr ks km kp kv ⟨xb, xq, xl, xm, none, xn, xc⟩ := by
  unfold pmFlag
  try dsimp only
  repeat' first
    | with_reducible assumption
    | with_reducible apply canon_setFlag

theorem canon_showState {kw kt kr ks km kp kv kx} {s : Chip} (h_s : s.Canon kw kt kr ks km kp kv kx) : (showState
    s).Canon kw kt kr ks km kp kv kx := by
  unfold showState
  try dsimp only
  repeat' first
    | with_reducible assumption
    | with_reducible apply canon_wr

theorem canon_voidArrays {kw kt kr ks km kv xq xl xm xh xn xc} {s : Chip} (h_s : s.Canon kw kt kr ks km none kv ⟨none,
    xq, xl, xm, xh, xn, xc⟩) : (voidArrays s).Canon kw kt kr ks km none kv ⟨none, xq, xl, xm, xh, xn, xc⟩ :=
  ⟨fun hw => (wf_iff _).mpr ⟨h_s.regs_wf hw, h_s.mem_wf hw, padsWf_fresh _ _ rfl⟩, h_s.ct, h_s.cr, h_s.cs, h_s.cm,
    noneOnly _, h_s.cv, ⟨noneOnly _, h_s.cx.q, h_s.cx.l, h_s.cx.m, h_s.cx.h, h_s.cx.n, h_s.cx.c⟩⟩

theorem canon_offState {kw} {s : Chip} (h_s : s.Canon kw none none none none none none ⟨none, none, none, none, none,
    none, none⟩) : (offState s).Canon kw none none none none none none ⟨none, none, none, none, none, none, none⟩ :=
    by
  unfold offState
  try dsimp only
  repeat' first
    | with_reducible assumption
    | with_reducible apply canon_wr
    | exact canon_form (fun _ => rfl)

theorem canon_enterOff {kw} {s : Chip} (h_s : s.Canon kw none none none none none none ⟨none, none, none, none, none,
    none, none⟩) : (enterOff s).Canon kw none none none none none none ⟨none, none, none, none, none, none, none⟩ :=
    by
  unfold enterOff
  try dsimp only
  repeat' first
    | with_reducible assumption
    | with_reducible apply canon_emit
    | with_reducible apply canon_offState
    | with_reducible apply canon_ite
    | with_reducible apply canon_ite_s
    | with_reducible apply canon_ite_fst
    | with_reducible apply canon_ite_fst_s
    | simp only [canon_mk_iff]
    | split
    | intro _

theorem canon_pwrEnAssert {kw kt kr ks km kp kv kx} {s : Chip} (h_s : s.Canon kw kt kr ks km kp kv kx) : (pwrEnAssert
    s).Canon kw kt kr ks km kp kv kx := by
  unfold pwrEnAssert
  try dsimp only
  repeat' first
    | with_reducible assumption
    | with_reducible apply canon_setPower

theorem canon_pwrEnDeassert {kw} {s : Chip} (h_s : s.Canon kw none none none none none none ⟨none, none, none, none,
    none, none, none⟩) : (pwrEnDeassert s).Canon kw none none none none none none ⟨none, none, none, none, none, none,
    none⟩ := by
  unfold pwrEnDeassert
  try dsimp only
  repeat' first
    | with_reducible assumption
    | with_reducible apply canon_setPower
    | with_reducible apply canon_enterOff

theorem canon_hotswapTrip {kw} {s : Chip} (h_s : s.Canon kw none none none none none none ⟨none, none, none, none,
    none, none, none⟩) : (hotswapTrip s).Canon kw none none none none none none ⟨none, none, none, none, none, none,
    none⟩ := by
  unfold hotswapTrip
  try dsimp only
  repeat' first
    | with_reducible assumption
    | with_reducible apply canon_enterOff

theorem canon_sampleMgmt {kw kt kr ks km kp kv kx} {s : Chip} {strap : Nat} (h_s : s.Canon kw kt kr ks km kp kv kx) :
    (sampleMgmt s strap).Canon kw kt kr ks km kp kv kx := by
  unfold sampleMgmt
  try dsimp only
  repeat' first
    | with_reducible assumption
    | with_reducible apply canon_wrAll
    | with_reducible apply canon_Rd_strap
    | with_reducible apply canon_foldl
    | with_reducible apply canon_foldl_fst
    | with_reducible apply canon_foldl_rd
    | with_reducible apply canon_foldl_rd_fst
    | with_reducible apply canon_foldl_x
    | with_reducible apply canon_foldl_run_fst
    | with_reducible apply canon_ite
    | with_reducible apply canon_ite_s
    | with_reducible apply canon_ite_fst
    | with_reducible apply canon_ite_fst_s
    | simp only [canon_mk_iff]
    | split
    | intro _

theorem canon_inputStarted {kw kr ks km kv xq xl xm xh xc} {s : Chip} {mgmtSel : Bool} {sbAddr : Nat} (h_s : s.Canon
    kw none kr ks km none kv ⟨none, xq, xl, xm, xh, none, xc⟩) : (inputStarted s mgmtSel sbAddr).Canon kw none kr ks
    km none kv ⟨none, xq, xl, xm, xh, none, xc⟩ := by
  unfold inputStarted
  try dsimp only
  repeat' first
    | with_reducible assumption
    | with_reducible apply canon_wr
    | with_reducible apply canon_voidArrays
    | with_reducible apply canon_sampleMgmt
    | with_reducible apply canon_ite
    | with_reducible apply canon_ite_s
    | with_reducible apply canon_ite_fst
    | with_reducible apply canon_ite_fst_s
    | simp only [canon_mknt_iff]

theorem canon_startHub {kw kt kr km kp kv kx} {s : Chip} {src : Nat} (h_s : s.Canon kw kt kr none km kp kv kx) :
    (startHub s src).Canon kw kt kr none km kp kv kx := by
  unfold startHub
  try dsimp only
  repeat' first
    | with_reducible assumption
    | with_reducible apply canon_wr
    | with_reducible apply canon_showTierB
    | with_reducible apply canon_ite
    | with_reducible apply canon_ite_s
    | with_reducible apply canon_ite_fst
    | with_reducible apply canon_ite_fst_s
    | simp only [canon_mks_iff]
    | split
    | intro _

theorem canon_inputGoodNow {kw kr km kv xq xl xm xh xc} {s : Chip} {mgmtSel : Bool} {sbAddr : Nat} (h_s : s.Canon kw
    none kr none km none kv ⟨none, xq, xl, xm, xh, none, xc⟩) : (inputGoodNow s mgmtSel sbAddr).Canon kw none kr none
    km none kv ⟨none, xq, xl, xm, xh, none, xc⟩ := by
  unfold inputGoodNow
  try dsimp only
  repeat' first
    | with_reducible assumption
    | with_reducible apply canon_inputStarted
    | with_reducible apply canon_startHub
    | with_reducible apply canon_ite
    | with_reducible apply canon_ite_s
    | with_reducible apply canon_ite_fst
    | with_reducible apply canon_ite_fst_s
    | simp only [canon_mk_iff]
    | split

theorem canon_inputGood {kw kr km kv xq xl xm xh xc} {s : Chip} {mgmtSel : Bool} {sbAddr : Nat} (h_s : s.Canon kw none
    kr none km none kv ⟨none, xq, xl, xm, xh, none, xc⟩) : (inputGood s mgmtSel sbAddr).Canon kw none kr none km none
    kv ⟨none, xq, xl, xm, xh, none, xc⟩ := by
  unfold inputGood
  try dsimp only
  repeat' first
    | with_reducible assumption
    | with_reducible apply canon_inputGoodNow
    | with_reducible apply canon_ite
    | with_reducible apply canon_ite_s
    | with_reducible apply canon_ite_fst
    | with_reducible apply canon_ite_fst_s
    | simp only [canon_mk_iff]
    | split
    | intro _

theorem canon_inputRangeExcursion {kw kt kr ks km kp kv xb xq xl xm xn xc} {s : Chip} {high : Bool} (h_s : s.Canon kw
    kt kr ks km kp kv ⟨xb, xq, xl, xm, none, xn, xc⟩) : (inputRangeExcursion s high).Canon kw kt kr ks km kp kv ⟨xb,
    xq, xl, xm, none, xn, xc⟩ := by
  unfold inputRangeExcursion
  try dsimp only
  repeat' first
    | with_reducible assumption
    | with_reducible apply canon_bump
    | with_reducible apply canon_pmFlag
    | with_reducible apply canon_ite
    | with_reducible apply canon_ite_s
    | with_reducible apply canon_ite_fst
    | with_reducible apply canon_ite_fst_s
    | simp only [canon_mk_iff]
    | split
    | intro _

theorem canon_thermalSample {kw kt kr ks km kp kv xb xq xl xm xn xc} {s : Chip} {b : Nat} {t : Nat} (h_s : s.Canon kw
    kt kr ks km kp kv ⟨xb, xq, xl, xm, none, xn, xc⟩) : (thermalSample s b t).Canon kw kt kr ks km kp kv ⟨xb, xq, xl,
    xm, none, xn, xc⟩ := by
  unfold thermalSample
  try dsimp only
  repeat' first
    | with_reducible assumption
    | with_reducible apply canon_wrAll
    | with_reducible apply canon_setFlag
    | with_reducible apply canon_pmFlag
    | with_reducible apply canon_ite
    | with_reducible apply canon_ite_s
    | with_reducible apply canon_ite_fst
    | with_reducible apply canon_ite_fst_s
    | simp only [canon_mk_iff]
    | split
    | intro _

theorem canon_pmFatal {kw kt kr ks xn xc} {s : Chip} {code : Nat} (h_s : s.Canon kw kt kr ks none none none ⟨none,
    none, none, none, none, xn, xc⟩) : (pmFatal s code).Canon kw kt kr ks none none none ⟨none, none, none, none,
    none, xn, xc⟩ := by
  unfold pmFatal
  try dsimp only
  repeat' first
    | with_reducible assumption
    | with_reducible apply canon_runGraces
    | with_reducible apply canon_takeNote
    | with_reducible apply canon_ite
    | with_reducible apply canon_ite_s
    | with_reducible apply canon_ite_fst
    | with_reducible apply canon_ite_fst_s
    | simp only [canon_mk_iff]
    | split
    | intro _

theorem canon_pmThermalTrip {kw kt kr ks xn xc} {s : Chip} (h_s : s.Canon kw kt kr ks none none none ⟨none, none,
    none, none, none, xn, xc⟩) : (pmThermalTrip s).Canon kw kt kr ks none none none ⟨none, none, none, none, none, xn,
    xc⟩ := by
  unfold pmThermalTrip
  try dsimp only
  repeat' first
    | with_reducible assumption
    | with_reducible apply canon_pmFatal

theorem canon_pmRailTrip {kw kt kr ks xn xc} {s : Chip} (h_s : s.Canon kw kt kr ks none none none ⟨none, none, none,
    none, none, xn, xc⟩) : (pmRailTrip s).Canon kw kt kr ks none none none ⟨none, none, none, none, none, xn, xc⟩ :=
    by
  unfold pmRailTrip
  try dsimp only
  repeat' first
    | with_reducible assumption
    | with_reducible apply canon_pmFatal

theorem canon_crystalStable {kw kt kr ks km kp kv kx} {s : Chip} (h_s : s.Canon kw kt kr ks km kp kv kx) :
    (crystalStable s).Canon kw kt kr ks km kp kv kx := by
  unfold crystalStable
  try dsimp only
  repeat' first
    | with_reducible assumption
    | with_reducible apply canon_wr
    | with_reducible apply canon_ite
    | with_reducible apply canon_ite_s
    | with_reducible apply canon_ite_fst
    | with_reducible apply canon_ite_fst_s
    | simp only [canon_mk_iff]
    | split
    | intro _

theorem canon_crystalFails {kw kt kr ks km kp kv xb xq xl xm xn xc} {s : Chip} (h_s : s.Canon kw kt kr ks km kp kv
    ⟨xb, xq, xl, xm, none, xn, xc⟩) : (crystalFails s).Canon kw kt kr ks km kp kv ⟨xb, xq, xl, xm, none, xn, xc⟩ := by
  unfold crystalFails
  try dsimp only
  repeat' first
    | with_reducible assumption
    | with_reducible apply canon_report
    | with_reducible apply canon_setPower

theorem canon_pmCrystalFail {kw kt kr ks km kp kv xb xq xl xm xn xc} {s : Chip} (h_s : s.Canon kw kt kr ks km kp kv
    ⟨xb, xq, xl, xm, none, xn, xc⟩) : (pmCrystalFail s).Canon kw kt kr ks km kp kv ⟨xb, xq, xl, xm, none, xn, xc⟩ :=
    by
  unfold pmCrystalFail
  try dsimp only
  repeat' first
    | with_reducible assumption
    | with_reducible apply canon_crystalFails
    | with_reducible apply canon_ite
    | with_reducible apply canon_ite_s
    | with_reducible apply canon_ite_fst
    | with_reducible apply canon_ite_fst_s
    | simp only [canon_mk_iff]
    | split
    | intro _

theorem canon_bankOff {kw kt kr ks km kv kx} {s : Chip} {b : Nat} (h_s : s.Canon kw kt kr ks km none kv kx) : (bankOff
    s b).Canon kw kt kr ks km none kv kx := by
  unfold bankOff
  try dsimp only
  repeat' first
    | with_reducible assumption
    | with_reducible apply canon_wr
    | with_reducible apply canon_draw
    | with_reducible apply canon_setBank
    | with_reducible apply canon_setBank
    | exact bankWf_nil _ rfl
    | exact bankWf_bankZero _ _ _ (by assumption)
    | exact bankWf_same (by assumption) rfl rfl rfl
    | exact bankWf_same (bankWf_bankPut _ _ _ (by assumption)) rfl rfl rfl
    | with_reducible apply canon_ite
    | with_reducible apply canon_ite_s
    | with_reducible apply canon_ite_fst
    | with_reducible apply canon_ite_fst_s
    | simp only [canon_mk_iff]
    | split
    | intro _

theorem canon_bankTo {kw kt kr ks km kv kx} {s : Chip} {b : Nat} {v : Nat} (h_s : s.Canon kw kt kr ks km none kv kx) :
    (bankTo s b v).Canon kw kt kr ks km none kv kx := by
  unfold bankTo
  try dsimp only
  repeat' first
    | with_reducible assumption
    | with_reducible apply canon_wr
    | with_reducible apply canon_bankOff
    | with_reducible apply canon_ite
    | with_reducible apply canon_ite_s
    | with_reducible apply canon_ite_fst
    | with_reducible apply canon_ite_fst_s
    | simp only [canon_mk_iff]
    | split
    | intro _

theorem canon_bankRest {kw kt kr ks km kv kx} {s : Chip} {b : Nat} {v : Nat} {met : Bool} (h_s : s.Canon kw kt kr ks
    km none kv kx) : (bankRest s b v met).Canon kw kt kr ks km none kv kx := by
  unfold bankRest
  try dsimp only
  repeat' first
    | with_reducible assumption
    | with_reducible apply canon_bump
    | with_reducible apply canon_bankTouch
    | with_reducible apply canon_bankTo
    | with_reducible apply canon_ite
    | with_reducible apply canon_ite_s
    | with_reducible apply canon_ite_fst
    | with_reducible apply canon_ite_fst_s
    | simp only [canon_mk_iff]
    | split
    | intro _

theorem canon_blockClockGate {kw kt kr ks km kv kx} {s : Chip} {b : Nat} (h_s : s.Canon kw kt kr ks km none kv kx) :
    (blockClockGate s b).Canon kw kt kr ks km none kv kx := by
  unfold blockClockGate
  try dsimp only
  repeat' first
    | with_reducible assumption
    | with_reducible apply canon_wr
    | with_reducible apply canon_bankTo
    | with_reducible apply canon_ite
    | with_reducible apply canon_ite_s
    | with_reducible apply canon_ite_fst
    | with_reducible apply canon_ite_fst_s
    | simp only [canon_mk_iff]
    | split
    | intro _

theorem canon_blockRetainTimeout {kw kt kr ks km kv kx} {s : Chip} {b : Nat} (h_s : s.Canon kw kt kr ks km none kv kx)
    : (blockRetainTimeout s b).Canon kw kt kr ks km none kv kx := by
  unfold blockRetainTimeout
  try dsimp only
  repeat' first
    | with_reducible assumption
    | with_reducible apply canon_wr
    | with_reducible apply canon_stampRegion
    | with_reducible apply canon_bankTo
    | with_reducible apply canon_ite
    | with_reducible apply canon_ite_s
    | with_reducible apply canon_ite_fst
    | with_reducible apply canon_ite_fst_s
    | simp only [canon_mk_iff]
    | split
    | intro _

theorem canon_blockOffTimeout {kw kt kr ks km kv xq xl xm xh xn xc} {s : Chip} {b : Nat} {met : Bool} (h_s : s.Canon
    kw kt kr ks km none kv ⟨none, xq, xl, xm, xh, xn, xc⟩) : (blockOffTimeout s b met).Canon kw kt kr ks km none kv
    ⟨none, xq, xl, xm, xh, xn, xc⟩ := by
  unfold blockOffTimeout
  try dsimp only
  repeat' first
    | with_reducible assumption
    | with_reducible apply canon_wr
    | with_reducible apply canon_loseSets
    | with_reducible apply canon_stampRegion
    | with_reducible apply canon_bankRest
    | with_reducible apply canon_ite
    | with_reducible apply canon_ite_s
    | with_reducible apply canon_ite_fst
    | with_reducible apply canon_ite_fst_s
    | simp only [canon_mk_iff]
    | split
    | intro _

theorem canon_blockAwake {kw kt kr ks km kv kx} {s : Chip} {b : Nat} (h_s : s.Canon kw kt kr ks km none kv kx) :
    (blockAwake s b).Canon kw kt kr ks km none kv kx := by
  unfold blockAwake
  try dsimp only
  repeat' first
    | with_reducible assumption
    | with_reducible apply canon_wr
    | with_reducible apply canon_bump
    | with_reducible apply canon_powerUpBank
    | with_reducible apply canon_setPower
    | with_reducible apply canon_ite
    | with_reducible apply canon_ite_s
    | with_reducible apply canon_ite_fst
    | with_reducible apply canon_ite_fst_s
    | simp only [canon_mk_iff]
    | split
    | intro _

theorem canon_blockWakeComplete {kw kt kr ks km kv kx} {s : Chip} {b : Nat} (h_s : s.Canon kw kt kr ks km none kv kx)
    : (blockWakeComplete s b).Canon kw kt kr ks km none kv kx := by
  unfold blockWakeComplete
  try dsimp only
  repeat' first
    | with_reducible assumption
    | with_reducible apply canon_blockAwake
    | with_reducible apply canon_ite
    | with_reducible apply canon_ite_s
    | with_reducible apply canon_ite_fst
    | with_reducible apply canon_ite_fst_s
    | simp only [canon_mk_iff]
    | split
    | intro _

theorem canon_bankPowerUp {kw kt kr ks km kv kx} {s : Chip} {b : Nat} (h_s : s.Canon kw kt kr ks km none kv kx) :
    (bankPowerUp s b).Canon kw kt kr ks km none kv kx := by
  unfold bankPowerUp
  try dsimp only
  repeat' first
    | with_reducible assumption
    | with_reducible apply canon_bankTouch
    | with_reducible apply canon_ite
    | with_reducible apply canon_ite_s
    | with_reducible apply canon_ite_fst
    | with_reducible apply canon_ite_fst_s
    | simp only [canon_mk_iff]
    | split
    | intro _

theorem canon_bankIdleReturn {kw kt kr ks km kv kx} {s : Chip} {b : Nat} {met : Bool} (h_s : s.Canon kw kt kr ks km
    none kv kx) : (bankIdleReturn s b met).Canon kw kt kr ks km none kv kx := by
  unfold bankIdleReturn
  try dsimp only
  repeat' first
    | with_reducible assumption
    | with_reducible apply canon_bankRest
    | with_reducible apply canon_ite
    | with_reducible apply canon_ite_s
    | with_reducible apply canon_ite_fst
    | with_reducible apply canon_ite_fst_s
    | simp only [canon_mk_iff]
    | split
    | intro _

theorem canon_beginStandby {kw kt kr kp xn xc} {s : Chip} (h_s : s.Canon kw kt kr none none kp none ⟨none, none, none,
    none, none, xn, xc⟩) : (beginStandby s).Canon kw kt kr none none kp none ⟨none, none, none, none, none, xn, xc⟩ :=
    by
  unfold beginStandby
  try dsimp only
  repeat' first
    | with_reducible assumption
    | with_reducible apply canon_wr
    | with_reducible apply canon_resetSteps
    | with_reducible apply canon_linkDown
    | with_reducible apply canon_dropAll
    | with_reducible apply canon_setDebug
    | with_reducible apply canon_setPower
    | with_reducible apply canon_foldl
    | with_reducible apply canon_foldl_fst
    | with_reducible apply canon_foldl_rd
    | with_reducible apply canon_foldl_rd_fst
    | with_reducible apply canon_foldl_x
    | with_reducible apply canon_foldl_run_fst
    | with_reducible apply canon_ite
    | with_reducible apply canon_ite_s
    | with_reducible apply canon_ite_fst
    | with_reducible apply canon_ite_fst_s
    | simp only [canon_mk_iff]
    | split
    | intro _

theorem canon_standbyRequest {kw kt kr kp xn xc} {s : Chip} (h_s : s.Canon kw kt kr none none kp none ⟨none, none,
    none, none, none, xn, xc⟩) : (standbyRequest s).Canon kw kt kr none none kp none ⟨none, none, none, none, none,
    xn, xc⟩ := by
  unfold standbyRequest
  try dsimp only
  repeat' first
    | with_reducible assumption
    | with_reducible apply canon_wr
    | with_reducible apply canon_bump
    | with_reducible apply canon_setPower
    | with_reducible apply canon_pmFlag
    | with_reducible apply canon_beginStandby
    | with_reducible apply canon_ite
    | with_reducible apply canon_ite_s
    | with_reducible apply canon_ite_fst
    | with_reducible apply canon_ite_fst_s
    | simp only [canon_mk_iff]
    | split
    | intro _

theorem canon_standby {kw kt kr kp xn xc} {s : Chip} (h_s : s.Canon kw kt kr none none kp none ⟨none, none, none,
    none, none, xn, xc⟩) : (standby s).Canon kw kt kr none none kp none ⟨none, none, none, none, none, xn, xc⟩ := by
  unfold standby
  try dsimp only
  repeat' first
    | with_reducible assumption
    | with_reducible apply canon_standbyRequest
    | with_reducible apply canon_ite
    | with_reducible apply canon_ite_s
    | with_reducible apply canon_ite_fst
    | with_reducible apply canon_ite_fst_s
    | simp only [canon_mk_iff]
    | split
    | intro _

theorem canon_standbyRetry {kw kt kr kp xn xc} {s : Chip} (h_s : s.Canon kw kt kr none none kp none ⟨none, none, none,
    none, none, xn, xc⟩) : (standbyRetry s).Canon kw kt kr none none kp none ⟨none, none, none, none, none, xn, xc⟩ :=
    by
  unfold standbyRetry
  try dsimp only
  repeat' first
    | with_reducible assumption
    | with_reducible apply canon_setPower
    | with_reducible apply canon_standbyRequest
    | with_reducible apply canon_ite
    | with_reducible apply canon_ite_s
    | with_reducible apply canon_ite_fst
    | with_reducible apply canon_ite_fst_s
    | simp only [canon_mk_iff]
    | split
    | intro _

theorem canon_trimKept {kw kt kr ks km kp kv kx} {s : Chip} (h_s : s.Canon kw kt kr ks km kp kv kx) : (trimKept
    s).Canon kw kt kr ks km kp kv kx := by
  unfold trimKept
  try dsimp only
  repeat' first
    | with_reducible assumption
    | with_reducible apply canon_wr
    | with_reducible apply canon_wrAll
    | with_reducible apply canon_foldl
    | with_reducible apply canon_foldl_fst
    | with_reducible apply canon_foldl_rd
    | with_reducible apply canon_foldl_rd_fst
    | with_reducible apply canon_foldl_x
    | with_reducible apply canon_foldl_run_fst
    | with_reducible apply canon_ite
    | with_reducible apply canon_ite_s
    | with_reducible apply canon_ite_fst
    | with_reducible apply canon_ite_fst_s
    | simp only [canon_mk_iff]
    | split
    | intro _

theorem canon_standbyState {kw xn} {s : Chip} (h_s : s.Canon kw none none none none none none ⟨none, none, none, none,
    none, xn, none⟩) :
    (standbyState s).Canon kw none none none none none none ⟨none, none, none, none, none, xn, none⟩ := by
  unfold standbyState
  refine canon_voidArrays (canon_trimKept ⟨fun hw => (wf_iff _).mpr ⟨?_, ?_, rfl⟩, noneOnly _, noneOnly _, noneOnly _, noneOnly _,
    noneOnly _, noneOnly _, ⟨noneOnly _, noneOnly _, noneOnly _, noneOnly _, noneOnly _, h_s.cx.n, noneOnly _⟩⟩)
  · exact tsorted_filter _ _ (h_s.regs_wf hw)
  · exact memory_wf_mk (cellsWf_filter _ _ (h_s.bytes_wf hw)) (ksorted_filter _ _ (h_s.poison_wf hw))
      (tsorted_filter _ _ (h_s.latent_wf hw))

theorem canon_wakeEvent {kw kt kr km kp kv kx} {s : Chip} {src : Nat} (h_s : s.Canon kw kt kr none km kp kv kx) :
    (wakeEvent s src).Canon kw kt kr none km kp kv kx := by
  unfold wakeEvent
  try dsimp only
  repeat' first
    | with_reducible assumption
    | with_reducible apply canon_setPower
    | with_reducible apply canon_startHub
    | with_reducible apply canon_ite
    | with_reducible apply canon_ite_s
    | with_reducible apply canon_ite_fst
    | with_reducible apply canon_ite_fst_s
    | simp only [canon_mk_iff]
    | split
    | intro _

theorem canon_wake {kw kt kr km kp kv kx} {s : Chip} {via : Endpoint} (h_s : s.Canon kw kt kr none km kp kv kx) :
    (wake s via).Canon kw kt kr none km kp kv kx := by
  unfold wake
  try dsimp only
  repeat' first
    | with_reducible assumption
    | with_reducible apply canon_answer
    | with_reducible apply canon_wakeEvent
    | with_reducible apply canon_ite
    | with_reducible apply canon_ite_s
    | with_reducible apply canon_ite_fst
    | with_reducible apply canon_ite_fst_s
    | simp only [canon_mk_iff]
    | split
    | intro _

theorem canon_alarmWake {kw kt kr km kp kv kx} {s : Chip} (h_s : s.Canon kw kt kr none km kp kv kx) : (alarmWake
    s).Canon kw kt kr none km kp kv kx := by
  unfold alarmWake
  try dsimp only
  repeat' first
    | with_reducible assumption
    | with_reducible apply canon_wakeEvent
    | with_reducible apply canon_ite
    | with_reducible apply canon_ite_s
    | with_reducible apply canon_ite_fst
    | with_reducible apply canon_ite_fst_s
    | simp only [canon_mk_iff]
    | split
    | intro _

theorem canon_standbyEntered {kw xn} {s : Chip} (h_s : s.Canon kw none none none none none none ⟨none, none, none,
    none, none, xn, none⟩) : (standbyEntered s).Canon kw none none none none none none ⟨none, none, none, none, none,
    xn, none⟩ := by
  unfold standbyEntered
  try dsimp only
  repeat' first
    | with_reducible assumption
    | with_reducible apply canon_wrAll
    | with_reducible apply canon_bump
    | with_reducible apply canon_showTierB
    | with_reducible apply canon_setDebug
    | with_reducible apply canon_standbyState

theorem canon_standbyEntryComplete {kw xn} {s : Chip} (h_s : s.Canon kw none none none none none none ⟨none, none,
    none, none, none, xn, none⟩) : (standbyEntryComplete s).Canon kw none none none none none none ⟨none, none, none,
    none, none, xn, none⟩ := by
  unfold standbyEntryComplete
  try dsimp only
  repeat' first
    | with_reducible assumption
    | with_reducible apply canon_startHub
    | with_reducible apply canon_alarmWake
    | with_reducible apply canon_standbyEntered
    | with_reducible apply canon_ite
    | with_reducible apply canon_ite_s
    | with_reducible apply canon_ite_fst
    | with_reducible apply canon_ite_fst_s
    | simp only [canon_mk_iff]
    | split
    | intro _

theorem canon_setPerst {kw kt kr ks km kp kv xb xq xl xm xn xc} {s : Chip} {port : Nat} {level : Bool} {clock : Option
    Bool} (h_s : s.Canon kw kt kr ks km kp kv ⟨xb, xq, xl, xm, none, xn, xc⟩) : (setPerst s port level clock).Canon kw
    kt kr ks km kp kv ⟨xb, xq, xl, xm, none, xn, xc⟩ := by
  unfold setPerst
  try dsimp only
  repeat' first
    | with_reducible assumption
    | with_reducible apply canon_ite
    | with_reducible apply canon_ite_s
    | with_reducible apply canon_ite_fst
    | with_reducible apply canon_ite_fst_s
    | simp only [canon_mkh_iff]

theorem canon_perstDeassert {kw kt kr km kp kv xb xq xl xm xn xc} {s : Chip} {port : Nat} {clock : Bool} (h_s :
    s.Canon kw kt kr none km kp kv ⟨xb, xq, xl, xm, none, xn, xc⟩) : (perstDeassert s port clock).Canon kw kt kr none
    km kp kv ⟨xb, xq, xl, xm, none, xn, xc⟩ := by
  unfold perstDeassert
  try dsimp only
  repeat' first
    | with_reducible assumption
    | with_reducible apply canon_setFlag
    | with_reducible apply canon_setPower
    | with_reducible apply canon_wakeEvent
    | with_reducible apply canon_setPerst
    | with_reducible apply canon_ite
    | with_reducible apply canon_ite_s
    | with_reducible apply canon_ite_fst
    | with_reducible apply canon_ite_fst_s
    | simp only [canon_mkh_iff]
    | split
    | intro _

theorem canon_perstAssert {kw kt kr ks kp xn xc} {s : Chip} {port : Nat} {hot : Bool} (h_s : s.Canon kw kt kr ks none
    kp none ⟨none, none, none, none, none, xn, xc⟩) : (perstAssert s port hot).Canon kw kt kr ks none kp none ⟨none,
    none, none, none, none, xn, xc⟩ := by
  unfold perstAssert
  try dsimp only
  repeat' first
    | with_reducible assumption
    | with_reducible apply canon_setFlag
    | with_reducible apply canon_warmReset
    | with_reducible apply canon_setPerst
    | with_reducible apply canon_ite
    | with_reducible apply canon_ite_s
    | with_reducible apply canon_ite_fst
    | with_reducible apply canon_ite_fst_s
    | simp only [canon_mkh_iff]
    | split
    | intro _

theorem canon_bootChain {kw kt kr km kp kv xb xq xl xn xc} {s : Chip} (h_s : s.Canon kw kt kr none km kp kv ⟨xb, xq,
    xl, none, none, xn, xc⟩) : (bootChain s).Canon kw kt kr none km kp kv ⟨xb, xq, xl, none, none, xn, xc⟩ := by
  unfold bootChain
  try dsimp only
  repeat' first
    | with_reducible assumption
    | with_reducible apply canon_trainAll
    | with_reducible apply canon_runBoot
    | with_reducible apply canon_ite
    | with_reducible apply canon_ite_s
    | with_reducible apply canon_ite_fst
    | with_reducible apply canon_ite_fst_s
    | simp only [canon_mk_iff]
    | split
    | intro _

theorem canon_restorePart {kw kt kr ks km kp kv kx} {s : Chip} {p : Nat} (h_s : s.Canon kw kt kr ks km kp kv kx) :
    (restorePart s p).Canon kw kt kr ks km kp kv kx := by
  unfold restorePart
  try dsimp only
  repeat' first
    | with_reducible assumption
    | with_reducible apply canon_setPartState
    | with_reducible apply canon_assignQuad
    | with_reducible apply canon_foldl

theorem canon_askAgain {kw kt kr ks km kp kv xb xq xl xm xn xc} {s : Chip} {u : Nat} (h_s : s.Canon kw kt kr ks km kp
    kv ⟨xb, xq, xl, xm, none, xn, xc⟩) : (askAgain s u).Canon kw kt kr ks km kp kv ⟨xb, xq, xl, xm, none, xn, xc⟩ :=
    by
  unfold askAgain
  try dsimp only
  repeat' first
    | with_reducible assumption
    | with_reducible apply canon_setFlag
    | with_reducible apply canon_ite
    | with_reducible apply canon_ite_s
    | with_reducible apply canon_ite_fst
    | with_reducible apply canon_ite_fst_s
    | simp only [canon_mk_iff]
    | split
    | intro _

theorem canon_wakeRestored {kw kt kr ks km kp kv xb xq xl xn xc} {s : Chip} (h_s : s.Canon kw kt kr ks km kp kv ⟨xb,
    xq, xl, none, none, xn, xc⟩) : (wakeRestored s).Canon kw kt kr ks km kp kv ⟨xb, xq, xl, none, none, xn, xc⟩ := by
  unfold wakeRestored
  try dsimp only
  repeat' first
    | with_reducible assumption
    | with_reducible apply canon_trainAll
    | with_reducible apply canon_setPower
    | with_reducible apply canon_pmFlag
    | with_reducible apply canon_restorePart
    | with_reducible apply canon_askAgain
    | with_reducible apply canon_foldl

theorem canon_wakeRestoreComplete {kw kt kr ks km kp kv xb xq xl xn xc} {s : Chip} (h_s : s.Canon kw kt kr ks km kp kv
    ⟨xb, xq, xl, none, none, xn, xc⟩) : (wakeRestoreComplete s).Canon kw kt kr ks km kp kv ⟨xb, xq, xl, none, none,
    xn, xc⟩ := by
  unfold wakeRestoreComplete
  try dsimp only
  repeat' first
    | with_reducible assumption
    | with_reducible apply canon_wakeRestored
    | with_reducible apply canon_ite
    | with_reducible apply canon_ite_s
    | with_reducible apply canon_ite_fst
    | with_reducible apply canon_ite_fst_s
    | simp only [canon_mk_iff]
    | split
    | intro _

theorem canon_applyRetired {kw kt ks km kp kv kx} {s : Chip} (h_s : s.Canon kw kt none ks km kp kv kx) : (applyRetired
    s).Canon kw kt none ks km kp kv kx := by
  unfold applyRetired
  try dsimp only
  repeat' first
    | with_reducible assumption
    | with_reducible apply canon_showRetired
    | with_reducible apply canon_foldl
    | with_reducible apply canon_foldl_fst
    | with_reducible apply canon_foldl_rd
    | with_reducible apply canon_foldl_rd_fst
    | with_reducible apply canon_foldl_x
    | with_reducible apply canon_foldl_run_fst
    | with_reducible apply canon_ite
    | with_reducible apply canon_ite_s
    | with_reducible apply canon_ite_fst
    | with_reducible apply canon_ite_fst_s
    | simp only [canon_mkr_iff]
    | split
    | intro _

theorem canon_memoryTrained {kw kt ks km kp kv kx} {s : Chip} (h_s : s.Canon kw kt none ks km kp kv kx) :
    (memoryTrained s).Canon kw kt none ks km kp kv kx := by
  unfold memoryTrained
  try dsimp only
  repeat' first
    | with_reducible assumption
    | with_reducible apply canon_showTierB
    | with_reducible apply canon_setPower
    | with_reducible apply canon_applyRetired
    | with_reducible apply canon_ite
    | with_reducible apply canon_ite_s
    | with_reducible apply canon_ite_fst
    | with_reducible apply canon_ite_fst_s
    | simp only [canon_mk_iff]
    | split
    | intro _

theorem canon_memoryTrainingComplete {kw kt ks km kp kv kx} {s : Chip} (h_s : s.Canon kw kt none ks km kp kv kx) :
    (memoryTrainingComplete s).Canon kw kt none ks km kp kv kx := by
  unfold memoryTrainingComplete
  try dsimp only
  repeat' first
    | with_reducible assumption
    | with_reducible apply canon_memoryTrained
    | with_reducible apply canon_ite
    | with_reducible apply canon_ite_s
    | with_reducible apply canon_ite_fst
    | with_reducible apply canon_ite_fst_s
    | simp only [canon_mk_iff]
    | split
    | intro _

theorem canon_regionSleep {kw kt kr ks km kp kv kx} {s : Chip} {r : Nat} (h_s : s.Canon kw kt kr ks km kp kv kx) :
    (regionSleep s r).Canon kw kt kr ks km kp kv kx := by
  unfold regionSleep
  try dsimp only
  repeat' first
    | with_reducible assumption
    | with_reducible apply canon_wr
    | with_reducible apply canon_showState
    | with_reducible apply canon_ite
    | with_reducible apply canon_ite_s
    | with_reducible apply canon_ite_fst
    | with_reducible apply canon_ite_fst_s
    | simp only [canon_mk_iff]
    | split
    | intro _

theorem canon_regionAwoken {kw kt kr ks km kp kv kx} {s : Chip} {r : Nat} (h_s : s.Canon kw kt kr ks km kp kv kx) :
    (regionAwoken s r).Canon kw kt kr ks km kp kv kx := by
  unfold regionAwoken
  try dsimp only
  repeat' first
    | with_reducible assumption
    | with_reducible apply canon_wr
    | with_reducible apply canon_bump
    | with_reducible apply canon_stampRegion
    | with_reducible apply canon_setPower
    | with_reducible apply canon_showState

theorem canon_regionWakeComplete {kw kt kr xn xc} {s : Chip} {r : Nat} (h_s : s.Canon kw kt kr none none none none
    ⟨none, none, none, none, none, xn, xc⟩) : (regionWakeComplete s r).Canon kw kt kr none none none none ⟨none, none,
    none, none, none, xn, xc⟩ := by
  unfold regionWakeComplete
  try dsimp only
  repeat' first
    | with_reducible assumption
    | with_reducible apply canon_memoryGoes
    | with_reducible apply canon_standbyRetry
    | with_reducible apply canon_regionAwoken
    | with_reducible apply canon_ite
    | with_reducible apply canon_ite_s
    | with_reducible apply canon_ite_fst
    | with_reducible apply canon_ite_fst_s
    | simp only [canon_mk_iff]
    | split
    | intro _

theorem canon_latchSample {kw kt kr ks km kp kv kx} {s : Chip} {r : Readings} (h_s : s.Canon kw kt kr ks km kp kv kx)
    : (latchSample s r).Canon kw kt kr ks km kp kv kx := by
  unfold latchSample
  try dsimp only
  repeat' first
    | with_reducible assumption
    | with_reducible apply canon_wrAll
    | with_reducible apply canon_bump64

theorem canon_ringSample {kw kt kr ks km kp kv xb xq xl xm xn xc} {s : Chip} {l : List Byte} (h_s : s.Canon kw kt kr
    ks km kp kv ⟨xb, xq, xl, xm, none, xn, xc⟩) : (ringSample s l).Canon kw kt kr ks km kp kv ⟨xb, xq, xl, xm, none,
    xn, xc⟩ := by
  unfold ringSample
  try dsimp only
  repeat' first
    | with_reducible assumption
    | with_reducible apply canon_bumpWrap
    | with_reducible apply canon_msix
    | with_reducible apply canon_hostPut
    | with_reducible apply canon_pmFlag

theorem canon_sampleTaken {kw kt kr ks km kp kv kx} {s : Chip} {r : Readings} (h_s : s.Canon kw kt kr ks km kp kv kx)
    : (sampleTaken s r).Canon kw kt kr ks km kp kv kx := by
  unfold sampleTaken
  try dsimp only
  repeat' first
    | with_reducible assumption
    | with_reducible apply canon_setPower
    | with_reducible apply canon_latchSample

theorem canon_telemetrySample {kw kt kr ks km kp kv xb xq xl xm xn xc} {s : Chip} {r : Readings} (h_s : s.Canon kw kt
    kr ks km kp kv ⟨xb, xq, xl, xm, none, xn, xc⟩) : (telemetrySample s r).Canon kw kt kr ks km kp kv ⟨xb, xq, xl, xm,
    none, xn, xc⟩ := by
  unfold telemetrySample
  try dsimp only
  repeat' first
    | with_reducible assumption
    | with_reducible apply canon_ringSample
    | with_reducible apply canon_sampleTaken
    | with_reducible apply canon_ite
    | with_reducible apply canon_ite_s
    | with_reducible apply canon_ite_fst
    | with_reducible apply canon_ite_fst_s
    | simp only [canon_mk_iff]
    | split
    | intro _

end Sys2Proof.Machine
end

