-- ==== Sys2Proof/Laws/CanonMgmt.lean ====
section
/-! SUPPORT. The operations of Machine/Mgmt.lean keep the canonical form. -/
set_option linter.all false
namespace Sys2Proof.Machine

theorem canon_hubCommand {kw kt kr ks km kp kv kx} {s : Chip} {via : Endpoint} {f : Chip → Chip} (h_s : s.Canon kw kt
    kr ks km kp kv kx) (h_f : ∀ a0, a0.Canon kw kt kr ks km kp kv kx → (f a0).Canon kw kt kr ks km kp kv kx) :
    (hubCommand s via f).Canon kw kt kr ks km kp kv kx := by
  unfold hubCommand
  try dsimp only
  repeat' first
    | with_reducible assumption
    | with_reducible apply canon_emit
    | with_reducible apply h_f
    | with_reducible apply canon_ite
    | with_reducible apply canon_ite_s
    | with_reducible apply canon_ite_fst
    | with_reducible apply canon_ite_fst_s
    | simp only [canon_mk_iff]
    | split
    | intro _

theorem canon_mgmtOverride {kw kt kr km kp kv kx} {s : Chip} {v : Option (Fin 2)} {via : Endpoint} (h_s : s.Canon kw
    kt kr none km kp kv kx) : (mgmtOverride s v via).Canon kw kt kr none km kp kv kx := by
  unfold mgmtOverride
  try dsimp only
  repeat' first
    | with_reducible assumption
    | with_reducible apply canon_answer
    | with_reducible apply canon_ite
    | with_reducible apply canon_ite_s
    | with_reducible apply canon_ite_fst
    | with_reducible apply canon_ite_fst_s
    | simp only [canon_mks_iff]
    | split
    | intro _

theorem canon_mctpStandby {kw kt kr kp xn xc} {s : Chip} {via : Endpoint} (h_s : s.Canon kw kt kr none none kp none
    ⟨none, none, none, none, none, xn, xc⟩) : (mctpStandby s via).Canon kw kt kr none none kp none ⟨none, none, none,
    none, none, xn, xc⟩ := by
  unfold mctpStandby
  try dsimp only
  repeat' first
    | with_reducible assumption
    | with_reducible apply canon_answer
    | with_reducible apply canon_standby
    | with_reducible apply canon_hubCommand
    | with_reducible apply canon_ite
    | with_reducible apply canon_ite_s
    | with_reducible apply canon_ite_fst
    | with_reducible apply canon_ite_fst_s
    | simp only [canon_mk_iff]
    | split
    | intro _

theorem canon_mctpTokenChunk {kw kt kr kp xn xc} {s : Chip} {offset : Nat} {l : List Byte} {last : Bool} {part :
    Processing} {via : Endpoint} (h_s : s.Canon kw kt kr none none kp none ⟨none, none, none, none, none, xn, xc⟩) :
    (mctpTokenChunk s offset l last part via).Canon kw kt kr none none kp none ⟨none, none, none, none, none, xn, xc⟩
    := by
  unfold mctpTokenChunk
  try dsimp only
  repeat' first
    | with_reducible assumption
    | with_reducible apply canon_mctpToken
    | with_reducible apply canon_standbyRetry
    | with_reducible apply canon_hubCommand
    | with_reducible apply canon_ite
    | with_reducible apply canon_ite_s
    | with_reducible apply canon_ite_fst
    | with_reducible apply canon_ite_fst_s
    | simp only [canon_mk_iff]
    | split
    | intro _

theorem canon_mctpPlace {kw kt kr ks kp kv xn xc} {s : Chip} {m : Placement} {via : Endpoint} (h_s : s.Canon kw kt kr
    ks none kp kv ⟨none, none, none, none, none, xn, xc⟩) : (mctpPlace s m via).Canon kw kt kr ks none kp kv ⟨none,
    none, none, none, none, xn, xc⟩ := by
  unfold mctpPlace
  try dsimp only
  repeat' first
    | with_reducible assumption
    | with_reducible apply canon_EditEnv_place
    | with_reducible apply canon_place
    | with_reducible apply canon_hubCommand
    | with_reducible apply canon_ite
    | with_reducible apply canon_ite_s
    | with_reducible apply canon_ite_fst
    | with_reducible apply canon_ite_fst_s
    | simp only [canon_mk_iff]
    | split
    | intro _

theorem canon_faultRead {kw kt kr ks km kp kv kx} {s : Chip} {seq : Nat} {via : Endpoint} (h_s : s.Canon kw kt kr ks
    km kp kv kx) : (faultRead s seq via).Canon kw kt kr ks km kp kv kx := by
  unfold faultRead
  try dsimp only
  repeat' first
    | with_reducible assumption
    | with_reducible apply canon_answer
    | with_reducible apply canon_hubCommand
    | with_reducible apply canon_ite
    | with_reducible apply canon_ite_s
    | with_reducible apply canon_ite_fst
    | with_reducible apply canon_ite_fst_s
    | simp only [canon_mk_iff]
    | split
    | intro _

theorem canon_telemetryRead {kw kt kr ks km kp kv kx} {s : Chip} {via : Endpoint} (h_s : s.Canon kw kt kr ks km kp kv
    kx) : (telemetryRead s via).Canon kw kt kr ks km kp kv kx := by
  unfold telemetryRead
  try dsimp only
  repeat' first
    | with_reducible assumption
    | with_reducible apply canon_answer
    | with_reducible apply canon_hubCommand
    | with_reducible apply canon_ite
    | with_reducible apply canon_ite_s
    | with_reducible apply canon_ite_fst
    | with_reducible apply canon_ite_fst_s
    | simp only [canon_mk_iff]
    | split
    | intro _

theorem canon_status {kw kt kr ks km kp kv kx} {s : Chip} {via : Endpoint} (h_s : s.Canon kw kt kr ks km kp kv kx) :
    (status s via).Canon kw kt kr ks km kp kv kx := by
  unfold status
  try dsimp only
  repeat' first
    | with_reducible assumption
    | with_reducible apply canon_answer
    | with_reducible apply canon_ite
    | with_reducible apply canon_ite_s
    | with_reducible apply canon_ite_fst
    | with_reducible apply canon_ite_fst_s
    | simp only [canon_mk_iff]
    | split
    | intro _

theorem canon_mctpUnsupportedCmd {kw kt kr ks km kp kv kx} {s : Chip} {code : Nat} {via : Endpoint} (h_s : s.Canon kw
    kt kr ks km kp kv kx) : (mctpUnsupportedCmd s code via).Canon kw kt kr ks km kp kv kx := by
  unfold mctpUnsupportedCmd
  try dsimp only
  repeat' first
    | with_reducible assumption
    | with_reducible apply canon_emit
    | with_reducible apply canon_hubCommand
    | with_reducible apply canon_ite
    | with_reducible apply canon_ite_s
    | with_reducible apply canon_ite_fst
    | with_reducible apply canon_ite_fst_s
    | simp only [canon_mk_iff]
    | split
    | intro _

theorem canon_setEndpointId {kw kr ks km kp kv kx} {s : Chip} {pcie : Bool} {eid : Nat} (h_s : s.Canon kw none kr ks
    km kp kv kx) : (setEndpointId s pcie eid).Canon kw none kr ks km kp kv kx := by
  unfold setEndpointId
  try dsimp only
  repeat' first
    | with_reducible assumption
    | with_reducible apply canon_answer
    | with_reducible apply canon_ite
    | with_reducible apply canon_ite_s
    | with_reducible apply canon_ite_fst
    | with_reducible apply canon_ite_fst_s
    | simp only [canon_mkt_iff]
    | split
    | intro _

theorem canon_i3cDynamicAddress {kw kr ks km kp kv kx} {s : Chip} {addr : Nat} (h_s : s.Canon kw none kr ks km kp kv
    kx) : (i3cDynamicAddress s addr).Canon kw none kr ks km kp kv kx := by
  unfold i3cDynamicAddress
  try dsimp only
  repeat' first
    | with_reducible assumption
    | with_reducible apply canon_ite
    | with_reducible apply canon_ite_s
    | with_reducible apply canon_ite_fst
    | with_reducible apply canon_ite_fst_s
    | simp only [canon_mkt_iff]
    | split
    | intro _

theorem canon_rstdaa {kw kr ks km kp kv kx} {s : Chip} (h_s : s.Canon kw none kr ks km kp kv kx) : (rstdaa s).Canon kw
    none kr ks km kp kv kx := by
  unfold rstdaa
  try dsimp only
  repeat' first
    | with_reducible assumption
    | with_reducible apply canon_ite
    | with_reducible apply canon_ite_s
    | with_reducible apply canon_ite_fst
    | with_reducible apply canon_ite_fst_s
    | simp only [canon_mkt_iff]
    | split
    | intro _

end Sys2Proof.Machine
end

