-- ==== Sys2Proof/Laws/CanonPages.lean ====
section
/-! SUPPORT. The operations of Machine/Pages.lean keep the canonical form. -/
set_option linter.all false
namespace Sys2Proof.Machine

theorem canon_latch {kw kr ks km kp kv kx} {s : Chip} {pg : Page} {off : Nat} (h_s : s.Canon kw none kr ks km kp kv
    kx) : (latch s pg off).Canon kw none kr ks km kp kv kx := by
  unfold latch
  try dsimp only
  repeat' first
    | with_reducible assumption
    | with_reducible apply canon_ite
    | with_reducible apply canon_ite_s
    | with_reducible apply canon_ite_fst
    | with_reducible apply canon_ite_fst_s
    | simp only [canon_mkt_iff]
    | split
    | intro _

theorem canon_pageRead {kw kr ks km kp kv kx} {s : Chip} {via : Via} {pg : Page} {off : Nat} (h_s : s.Canon kw none kr
    ks km kp kv kx) : (pageRead s via pg off).2.Canon kw none kr ks km kp kv kx := by
  unfold pageRead
  try dsimp only
  repeat' first
    | with_reducible assumption
    | with_reducible apply canon_latch
    | with_reducible apply canon_ite
    | with_reducible apply canon_ite_s
    | with_reducible apply canon_ite_fst
    | with_reducible apply canon_ite_fst_s
    | simp only [canon_mk_iff]
    | split

theorem canon_viaRead {kw kr ks km kp kv kx} {s : Chip} {via : Via} {off : Nat} (h_s : s.Canon kw none kr ks km kp kv
    kx) : (viaRead s via off).2.Canon kw none kr ks km kp kv kx := by
  unfold viaRead
  try dsimp only
  repeat' first
    | with_reducible assumption
    | with_reducible apply canon_Rd_page
    | with_reducible apply canon_pageRead
    | with_reducible apply canon_ite
    | with_reducible apply canon_ite_s
    | with_reducible apply canon_ite_fst
    | with_reducible apply canon_ite_fst_s
    | simp only [canon_mk_iff]
    | split

theorem canon_latchingLoRead {kw kr ks km kp kv kx} {s : Chip} {via : Via} {off : Nat} (h_s : s.Canon kw none kr ks km
    kp kv kx) : (latchingLoRead s via off).Canon kw none kr ks km kp kv kx := by
  unfold latchingLoRead
  try dsimp only
  repeat' first
    | with_reducible assumption
    | with_reducible apply canon_emit
    | with_reducible apply canon_viaRead
    | with_reducible apply canon_ite
    | with_reducible apply canon_ite_s
    | with_reducible apply canon_ite_fst
    | with_reducible apply canon_ite_fst_s
    | simp only [canon_mk_iff]
    | split
    | intro _

end Sys2Proof.Machine
end

