-- ==== Sys2Proof/Laws/CanonPageOps.lean ====
section
/-! SUPPORT. The operations of Machine/PageOps.lean keep the canonical form. -/
set_option linter.all false
namespace Sys2Proof.Machine

theorem canon_vectorAgain {kw kt kr ks km kp kv xb xq xl xm xn xc} {s : Chip} {pg : Page} (h_s : s.Canon kw kt kr ks
    km kp kv ⟨xb, xq, xl, xm, none, xn, xc⟩) : (vectorAgain s pg).Canon kw kt kr ks km kp kv ⟨xb, xq, xl, xm, none,
    xn, xc⟩ := by
  unfold vectorAgain
  try dsimp only
  repeat' first
    | with_reducible assumption
    | with_reducible apply canon_pageVector
    | with_reducible apply canon_ite
    | with_reducible apply canon_ite_s
    | with_reducible apply canon_ite_fst
    | with_reducible apply canon_ite_fst_s
    | simp only [canon_mk_iff]
    | split
    | intro _

theorem canon_clearOnes {kw kt kr ks km kp kv kx} {s : Chip} {pg : Page} {off : Nat} {v : Nat} (h_s : s.Canon kw kt kr
    ks km kp kv kx) : (clearOnes s pg off v).Canon kw kt kr ks km kp kv kx := by
  unfold clearOnes
  try dsimp only
  repeat' first
    | with_reducible assumption
    | with_reducible apply canon_wr
    | with_reducible apply canon_foldl
    | with_reducible apply canon_foldl_fst
    | with_reducible apply canon_foldl_rd
    | with_reducible apply canon_foldl_rd_fst
    | with_reducible apply canon_foldl_x
    | with_reducible apply canon_foldl_run_fst
    | with_reducible apply canon_ite
    | with_reducible apply canon_ite_s
    | with_reducible apply canon_ite_fst
    | with_reducible apply canon_ite_fst_s
    | simp only [canon_mk_iff]
    | split
    | intro _

theorem canon_irqStatClear {kw kt kr ks km kp kv xb xq xl xm xn xc} {s : Chip} {pg : Page} {err : Bool} {v : Nat} (h_s
    : s.Canon kw kt kr ks km kp kv ⟨xb, xq, xl, xm, none, xn, xc⟩) : (irqStatClear s pg err v).Canon kw kt kr ks km kp
    kv ⟨xb, xq, xl, xm, none, xn, xc⟩ := by
  unfold irqStatClear
  try dsimp only
  repeat' first
    | with_reducible assumption
    | with_reducible apply canon_vectorAgain
    | with_reducible apply canon_clearOnes
    | with_reducible apply canon_ite
    | with_reducible apply canon_ite_s
    | with_reducible apply canon_ite_fst
    | with_reducible apply canon_ite_fst_s
    | simp only [canon_mk_iff]
    | split
    | intro _

theorem canon_irqSet {kw kt kr ks km kp kv xb xq xl xm xn xc} {s : Chip} {pg : Page} {v : Nat} (h_s : s.Canon kw kt kr
    ks km kp kv ⟨xb, xq, xl, xm, none, xn, xc⟩) : (irqSet s pg v).Canon kw kt kr ks km kp kv ⟨xb, xq, xl, xm, none,
    xn, xc⟩ := by
  unfold irqSet
  try dsimp only
  repeat' first
    | with_reducible assumption
    | with_reducible apply canon_wr
    | with_reducible apply canon_raised
    | with_reducible apply canon_foldl
    | with_reducible apply canon_foldl_fst
    | with_reducible apply canon_foldl_rd
    | with_reducible apply canon_foldl_rd_fst
    | with_reducible apply canon_foldl_x
    | with_reducible apply canon_foldl_run_fst
    | with_reducible apply canon_ite
    | with_reducible apply canon_ite_s
    | with_reducible apply canon_ite_fst
    | with_reducible apply canon_ite_fst_s
    | simp only [canon_mk_iff]
    | split
    | intro _

theorem canon_interruptMaskWrite {kw kt kr ks km kp kv xb xq xl xm xn xc} {s : Chip} {pg : Page} {err : Bool} {v :
    Nat} (h_s : s.Canon kw kt kr ks km kp kv ⟨xb, xq, xl, xm, none, xn, xc⟩) : (interruptMaskWrite s pg err v).Canon
    kw kt kr ks km kp kv ⟨xb, xq, xl, xm, none, xn, xc⟩ := by
  unfold interruptMaskWrite
  try dsimp only
  repeat' first
    | with_reducible assumption
    | with_reducible apply canon_wr
    | with_reducible apply canon_vectorAgain
    | with_reducible apply canon_ite
    | with_reducible apply canon_ite_s
    | with_reducible apply canon_ite_fst
    | with_reducible apply canon_ite_fst_s
    | simp only [canon_mk_iff]
    | split
    | intro _

theorem canon_resetAll {kw kt kr ks km kp kv kx} {s : Chip} {pg : Page} {l : List Nat} (h_s : s.Canon kw kt kr ks km
    kp kv kx) : (resetAll s pg l).Canon kw kt kr ks km kp kv kx := by
  unfold resetAll
  try dsimp only
  repeat' first
    | with_reducible assumption
    | with_reducible apply canon_resetAt
    | with_reducible apply canon_foldl
    | with_reducible apply canon_foldl_fst
    | with_reducible apply canon_foldl_rd
    | with_reducible apply canon_foldl_rd_fst
    | with_reducible apply canon_foldl_x
    | with_reducible apply canon_foldl_run_fst
    | with_reducible apply canon_ite
    | with_reducible apply canon_ite_s
    | with_reducible apply canon_ite_fst
    | with_reducible apply canon_ite_fst_s
    | simp only [canon_mk_iff]
    | split
    | intro _

theorem canon_clearGirth {kw kt kr ks km kp kv kx} {s : Chip} {u : Nat} (h_s : s.Canon kw kt kr ks km kp kv kx) :
    (clearGirth s u).Canon kw kt kr ks km kp kv kx := by
  unfold clearGirth
  try dsimp only
  repeat' first
    | with_reducible assumption
    | with_reducible apply canon_wrAll
    | with_reducible apply canon_setGirth
    | with_reducible apply canon_foldl
    | with_reducible apply canon_foldl_fst
    | with_reducible apply canon_foldl_rd
    | with_reducible apply canon_foldl_rd_fst
    | with_reducible apply canon_foldl_x
    | with_reducible apply canon_foldl_run_fst
    | with_reducible apply canon_ite
    | with_reducible apply canon_ite_s
    | with_reducible apply canon_ite_fst
    | with_reducible apply canon_ite_fst_s
    | simp only [canon_mk_iff]
    | split
    | intro _

theorem canon_closeSlices {kw kt kr ks km kp kv kx} {s : Chip} {c : Nat} (h_s : s.Canon kw kt kr ks km kp kv kx) :
    (closeSlices s c).Canon kw kt kr ks km kp kv kx := by
  unfold closeSlices
  try dsimp only
  repeat' first
    | with_reducible assumption
    | with_reducible apply canon_closeSpan
    | with_reducible apply canon_ite
    | with_reducible apply canon_ite_s
    | with_reducible apply canon_ite_fst
    | with_reducible apply canon_ite_fst_s
    | simp only [canon_mk_iff]
    | split
    | intro _

theorem canon_closeRows {kw kt kr ks km kp kv kx} {s : Chip} {engine : Nat} (h_s : s.Canon kw kt kr ks km kp kv kx) :
    (closeRows s engine).Canon kw kt kr ks km kp kv kx := by
  unfold closeRows
  try dsimp only
  repeat' first
    | with_reducible assumption
    | with_reducible apply canon_closeSpan

theorem canon_clearSet {kw kt kr ks km kp kv kx} {s : Chip} {pg : Page} {n : Nat} (h_s : s.Canon kw kt kr ks km kp kv
    kx) : (clearSet s pg n).Canon kw kt kr ks km kp kv kx := by
  unfold clearSet
  try dsimp only
  repeat' first
    | with_reducible assumption
    | with_reducible apply canon_wr
    | with_reducible apply canon_wrAll
    | with_reducible apply canon_resetAt
    | with_reducible apply canon_closeWindow
    | with_reducible apply canon_closeSpan
    | with_reducible apply canon_resetAll
    | with_reducible apply canon_clearGirth
    | with_reducible apply canon_closeSlices
    | with_reducible apply canon_closeRows
    | with_reducible apply canon_ite
    | with_reducible apply canon_ite_s
    | with_reducible apply canon_ite_fst
    | with_reducible apply canon_ite_fst_s
    | simp only [canon_mk_iff]
    | split
    | intro _

theorem canon_clearSets {kw kt kr ks km kp kv kx} {s : Chip} {pg : Page} {v : Nat} (h_s : s.Canon kw kt kr ks km kp kv
    kx) : (clearSets s pg v).Canon kw kt kr ks km kp kv kx := by
  unfold clearSets
  try dsimp only
  repeat' first
    | with_reducible assumption
    | with_reducible apply canon_clearSet
    | with_reducible apply canon_foldl
    | with_reducible apply canon_foldl_fst
    | with_reducible apply canon_foldl_rd
    | with_reducible apply canon_foldl_rd_fst
    | with_reducible apply canon_foldl_x
    | with_reducible apply canon_foldl_run_fst
    | with_reducible apply canon_ite
    | with_reducible apply canon_ite_s
    | with_reducible apply canon_ite_fst
    | with_reducible apply canon_ite_fst_s
    | simp only [canon_mk_iff]
    | split
    | intro _

theorem canon_countClear {kw kt kr ks km kp kv kx} {s : Chip} {pg : Page} {v : Nat} (h_s : s.Canon kw kt kr ks km kp
    kv kx) : (countClear s pg v).Canon kw kt kr ks km kp kv kx := by
  unfold countClear
  try dsimp only
  repeat' first
    | with_reducible assumption
    | with_reducible apply canon_clearSets
    | with_reducible apply canon_ite
    | with_reducible apply canon_ite_s
    | with_reducible apply canon_ite_fst
    | with_reducible apply canon_ite_fst_s
    | simp only [canon_mk_iff]
    | split
    | intro _

theorem canon_clearUsed {kw kt kr ks km kp kv xb xl xm xh xn xc} {s : Chip} {q : Nat} (h_s : s.Canon kw kt kr ks km kp
    kv ⟨xb, none, xl, xm, xh, xn, xc⟩) : (clearUsed s q).Canon kw kt kr ks km kp kv ⟨xb, none, xl, xm, xh, xn, xc⟩ :=
    by
  unfold clearUsed
  try dsimp only
  repeat' first
    | with_reducible assumption
    | with_reducible apply canon_ite
    | with_reducible apply canon_ite_s
    | with_reducible apply canon_ite_fst
    | with_reducible apply canon_ite_fst_s
    | simp only [canon_mkq_iff]

theorem canon_clearRest {kw kt kr ks km kp kv xb xl xm xh xn xc} {s : Chip} {pg : Page} (h_s : s.Canon kw kt kr ks km
    kp kv ⟨xb, none, xl, xm, xh, xn, xc⟩) : (clearRest s pg).Canon kw kt kr ks km kp kv ⟨xb, none, xl, xm, xh, xn, xc⟩
    := by
  unfold clearRest
  try dsimp only
  repeat' first
    | with_reducible assumption
    | with_reducible apply canon_wr
    | with_reducible apply canon_resetAt
    | with_reducible apply canon_closeWindow
    | with_reducible apply canon_closeSpan
    | with_reducible apply canon_resetAll
    | with_reducible apply canon_clearSets
    | with_reducible apply canon_clearUsed
    | with_reducible apply canon_foldl
    | with_reducible apply canon_foldl_fst
    | with_reducible apply canon_foldl_rd
    | with_reducible apply canon_foldl_rd_fst
    | with_reducible apply canon_foldl_x
    | with_reducible apply canon_foldl_run_fst
    | with_reducible apply canon_ite
    | with_reducible apply canon_ite_s
    | with_reducible apply canon_ite_fst
    | with_reducible apply canon_ite_fst_s
    | simp only [canon_mk_iff]
    | split
    | intro _

theorem canon_resetPage {kw kt kr ks km kp kv xb xl xm xh xn xc} {s : Chip} {pg : Page} (h_s : s.Canon kw kt kr ks km
    kp kv ⟨xb, none, xl, xm, xh, xn, xc⟩) : (resetPage s pg).Canon kw kt kr ks km kp kv ⟨xb, none, xl, xm, xh, xn, xc⟩
    := by
  unfold resetPage
  try dsimp only
  repeat' first
    | with_reducible assumption
    | with_reducible apply canon_wr
    | with_reducible apply canon_resetAll
    | with_reducible apply canon_clearSets
    | with_reducible apply canon_clearRest

theorem canon_pageCtrlWrite {kw kt kr ks km kp kv xb xl xm xh xn xc} {s : Chip} {pg : Page} {v : Nat} (h_s : s.Canon
    kw kt kr ks km kp kv ⟨xb, none, xl, xm, xh, xn, xc⟩) : (pageCtrlWrite s pg v).Canon kw kt kr ks km kp kv ⟨xb,
    none, xl, xm, xh, xn, xc⟩ := by
  unfold pageCtrlWrite
  try dsimp only
  repeat' first
    | with_reducible assumption
    | with_reducible apply canon_wr
    | with_reducible apply canon_resetPage
    | with_reducible apply canon_ite
    | with_reducible apply canon_ite_s
    | with_reducible apply canon_ite_fst
    | with_reducible apply canon_ite_fst_s
    | simp only [canon_mk_iff]
    | split
    | intro _

theorem canon_pageQuiesce {kw kt kr ks km kp kv xb xl xm xh xn xc} {s : Chip} {pg : Page} {v : Nat} (h_s : s.Canon kw
    kt kr ks km kp kv ⟨xb, none, xl, xm, xh, xn, xc⟩) : (pageQuiesce s pg v).Canon kw kt kr ks km kp kv ⟨xb, none, xl,
    xm, xh, xn, xc⟩ := by
  unfold pageQuiesce
  try dsimp only
  repeat' first
    | with_reducible assumption
    | with_reducible apply canon_pageCtrlWrite

theorem canon_pageEnableWrite {kw kt kr ks km kp kv xb xl xm xh xn xc} {s : Chip} {pg : Page} {v : Nat} (h_s : s.Canon
    kw kt kr ks km kp kv ⟨xb, none, xl, xm, xh, xn, xc⟩) : (pageEnableWrite s pg v).Canon kw kt kr ks km kp kv ⟨xb,
    none, xl, xm, xh, xn, xc⟩ := by
  unfold pageEnableWrite
  try dsimp only
  repeat' first
    | with_reducible assumption
    | with_reducible apply canon_pageCtrlWrite

theorem canon_localReset {kw kt kr ks km kp kv xb xl xm xh xn xc} {s : Chip} {pg : Page} {v : Nat} (h_s : s.Canon kw
    kt kr ks km kp kv ⟨xb, none, xl, xm, xh, xn, xc⟩) : (localReset s pg v).Canon kw kt kr ks km kp kv ⟨xb, none, xl,
    xm, xh, xn, xc⟩ := by
  unfold localReset
  try dsimp only
  repeat' first
    | with_reducible assumption
    | with_reducible apply canon_pageCtrlWrite

theorem canon_injectD2d {kw kt kr ks xn xc} {s : Chip} {drop : Bool} (h_s : s.Canon kw kt kr ks none none none ⟨none,
    none, none, none, none, xn, xc⟩) : (injectD2d s drop).Canon kw kt kr ks none none none ⟨none, none, none, none,
    none, xn, xc⟩ := by
  unfold injectD2d
  try dsimp only
  repeat' first
    | with_reducible assumption
    | with_reducible apply canon_draw
    | with_reducible apply canon_Rd_drop
    | with_reducible apply canon_EditEnv_drop
    | with_reducible apply canon_d2dDrop
    | with_reducible apply canon_d2dCrcRetry
    | with_reducible apply canon_ite
    | with_reducible apply canon_ite_s
    | with_reducible apply canon_ite_fst
    | with_reducible apply canon_ite_fst_s
    | simp only [canon_mk_iff]
    | split
    | intro _

theorem canon_injectNow {kw kt kr ks xn xc} {s : Chip} {pg : Page} {v : Nat} (h_s : s.Canon kw kt kr ks none none none
    ⟨none, none, none, none, none, xn, xc⟩) : (injectNow s pg v).Canon kw kt kr ks none none none ⟨none, none, none,
    none, none, xn, xc⟩ := by
  unfold injectNow
  try dsimp only
  repeat' first
    | with_reducible assumption
    | with_reducible apply canon_coxCorrected
    | with_reducible apply canon_crystalFails
    | with_reducible apply canon_injectD2d
    | with_reducible apply canon_ite
    | with_reducible apply canon_ite_s
    | with_reducible apply canon_ite_fst
    | with_reducible apply canon_ite_fst_s
    | simp only [canon_mk_iff]
    | split
    | intro _

theorem canon_errInject {kw kt kr ks xn xc} {s : Chip} {pg : Page} {v : Nat} (h_s : s.Canon kw kt kr ks none none none
    ⟨none, none, none, none, none, xn, xc⟩) : (errInject s pg v).Canon kw kt kr ks none none none ⟨none, none, none,
    none, none, xn, xc⟩ := by
  unfold errInject
  try dsimp only
  repeat' first
    | with_reducible assumption
    | with_reducible apply canon_wr
    | with_reducible apply canon_injectNow
    | with_reducible apply canon_ite
    | with_reducible apply canon_ite_s
    | with_reducible apply canon_ite_fst
    | with_reducible apply canon_ite_fst_s
    | simp only [canon_mk_iff]
    | split
    | intro _

theorem canon_powerWrite {kw kt kr ks km kp kv kx} {s : Chip} {pg : Page} {v : Nat} (h_s : s.Canon kw kt kr ks km kp
    kv kx) : (powerWrite s pg v).Canon kw kt kr ks km kp kv kx := by
  unfold powerWrite
  try dsimp only
  repeat' first
    | with_reducible assumption
    | with_reducible apply canon_putWord

theorem canon_headerWrite {kw kt kr ks xn xc} {s : Chip} {pg : Page} {off : Nat} {v : Nat} (h_s : s.Canon kw kt kr ks
    none none none ⟨none, none, none, none, none, xn, xc⟩) : (headerWrite s pg off v).Canon kw kt kr ks none none none
    ⟨none, none, none, none, none, xn, xc⟩ := by
  unfold headerWrite
  try dsimp only
  repeat' first
    | with_reducible assumption
    | with_reducible apply canon_irqStatClear
    | with_reducible apply canon_irqSet
    | with_reducible apply canon_interruptMaskWrite
    | with_reducible apply canon_pageCtrlWrite
    | with_reducible apply canon_errInject
    | with_reducible apply canon_powerWrite
    | with_reducible apply canon_ite
    | with_reducible apply canon_ite_s
    | with_reducible apply canon_ite_fst
    | with_reducible apply canon_ite_fst_s
    | simp only [canon_mk_iff]
    | split
    | intro _

theorem canon_putRw {kw kt kr ks km kp kv kx} {s : Chip} {pg : Page} {off : Nat} {v : Nat} (h_s : s.Canon kw kt kr ks
    km kp kv kx) : (putRw s pg off v).Canon kw kt kr ks km kp kv kx := by
  unfold putRw
  try dsimp only
  repeat' first
    | with_reducible assumption
    | with_reducible apply canon_putWord

theorem canon_holdLo {kw kr ks km kp kv kx} {s : Chip} {pg : Page} {off : Nat} {v : Nat} (h_s : s.Canon kw none kr ks
    km kp kv kx) : (holdLo s pg off v).Canon kw none kr ks km kp kv kx := by
  unfold holdLo
  try dsimp only
  repeat' first
    | with_reducible assumption
    | with_reducible apply canon_ite
    | with_reducible apply canon_ite_s
    | with_reducible apply canon_ite_fst
    | with_reducible apply canon_ite_fst_s
    | simp only [canon_mkt_iff]

theorem canon_putPair {kw kr ks km kp kv kx} {s : Chip} {pg : Page} {lo : Nat} {v : Nat} (h_s : s.Canon kw none kr ks
    km kp kv kx) : (putPair s pg lo v).Canon kw none kr ks km kp kv kx := by
  unfold putPair
  try dsimp only
  repeat' first
    | with_reducible assumption
    | with_reducible apply canon_putRw
    | with_reducible apply canon_ite
    | with_reducible apply canon_ite_s
    | with_reducible apply canon_ite_fst
    | with_reducible apply canon_ite_fst_s
    | simp only [canon_mkt_iff]
    | split

theorem canon_clearWord {kw kt kr ks km kp kv kx} {s : Chip} {pg : Page} {off : Nat} {v : Nat} (h_s : s.Canon kw kt kr
    ks km kp kv kx) : (clearWord s pg off v).Canon kw kt kr ks km kp kv kx := by
  unfold clearWord
  try dsimp only
  repeat' first
    | with_reducible assumption
    | with_reducible apply canon_wr
    | with_reducible apply canon_foldl
    | with_reducible apply canon_foldl_fst
    | with_reducible apply canon_foldl_rd
    | with_reducible apply canon_foldl_rd_fst
    | with_reducible apply canon_foldl_x
    | with_reducible apply canon_foldl_run_fst
    | with_reducible apply canon_ite
    | with_reducible apply canon_ite_s
    | with_reducible apply canon_ite_fst
    | with_reducible apply canon_ite_fst_s
    | simp only [canon_mk_iff]
    | split
    | intro _

theorem canon_plainWrite {kw kr ks km kp kv kx} {s : Chip} {pg : Page} {off : Nat} {v : Nat} (h_s : s.Canon kw none kr
    ks km kp kv kx) : (plainWrite s pg off v).Canon kw none kr ks km kp kv kx := by
  unfold plainWrite
  try dsimp only
  repeat' first
    | with_reducible assumption
    | with_reducible apply canon_putRw
    | with_reducible apply canon_holdLo
    | with_reducible apply canon_putPair
    | with_reducible apply canon_clearWord
    | with_reducible apply canon_ite
    | with_reducible apply canon_ite_s
    | with_reducible apply canon_ite_fst
    | with_reducible apply canon_ite_fst_s
    | simp only [canon_mk_iff]
    | split
    | intro _

theorem canon_tokenGo {kw kt kr km kp kv xb xq xl xm xn xc} {s : Chip} {isSupplement : Bool} (h_s : s.Canon kw kt kr
    none km kp kv ⟨xb, xq, xl, xm, none, xn, xc⟩) : (tokenGo s isSupplement).Canon kw kt kr none km kp kv ⟨xb, xq, xl,
    xm, none, xn, xc⟩ := by
  unfold tokenGo
  try dsimp only
  repeat' first
    | with_reducible assumption
    | with_reducible apply canon_draw
    | with_reducible apply canon_supplement
    | with_reducible apply canon_token
    | with_reducible apply canon_ite
    | with_reducible apply canon_ite_s
    | with_reducible apply canon_ite_fst
    | with_reducible apply canon_ite_fst_s
    | simp only [canon_mk_iff]
    | split
    | intro _

theorem canon_secWrite {kw kr kv xn xc} {s : Chip} {off : Nat} {v : Nat} (h_s : s.Canon kw none kr none none none kv
    ⟨none, none, none, none, none, xn, xc⟩) : (secWrite s off v).Canon kw none kr none none none kv ⟨none, none, none,
    none, none, xn, xc⟩ := by
  unfold secWrite
  try dsimp only
  repeat' first
    | with_reducible assumption
    | with_reducible apply canon_wrAll
    | with_reducible apply canon_secSvnCommit
    | with_reducible apply canon_nonceNew
    | with_reducible apply canon_openOperator
    | with_reducible apply canon_closeOperator
    | with_reducible apply canon_debugRead
    | with_reducible apply canon_putRw
    | with_reducible apply canon_plainWrite
    | with_reducible apply canon_tokenGo
    | with_reducible apply canon_ite
    | with_reducible apply canon_ite_s
    | with_reducible apply canon_ite_fst
    | with_reducible apply canon_ite_fst_s
    | simp only [canon_mk_iff]
    | split
    | intro _

theorem canon_fcWrite {kw kr ks xn xc} {s : Chip} {off : Nat} {v : Nat} (h_s : s.Canon kw none kr ks none none none
    ⟨none, none, none, none, none, xn, xc⟩) : (fcWrite s off v).Canon kw none kr ks none none none ⟨none, none, none,
    none, none, xn, xc⟩ := by
  unfold fcWrite
  try dsimp only
  repeat' first
    | with_reducible assumption
    | with_reducible apply canon_showPin
    | with_reducible apply canon_fcAck
    | with_reducible apply canon_fenceRelease
    | with_reducible apply canon_putRw
    | with_reducible apply canon_plainWrite
    | with_reducible apply canon_ite
    | with_reducible apply canon_ite_s
    | with_reducible apply canon_ite_fst
    | with_reducible apply canon_ite_fst_s
    | simp only [canon_mk_iff]
    | split
    | intro _

theorem canon_srnWriteReg {kw kr ks kp xb xn xc} {s : Chip} {port : Nat} {off : Nat} {v : Nat} (h_s : s.Canon kw none
    kr ks none kp none ⟨xb, none, none, none, none, xn, xc⟩) : (srnWriteReg s port off v).Canon kw none kr ks none kp
    none ⟨xb, none, none, none, none, xn, xc⟩ := by
  unfold srnWriteReg
  try dsimp only
  repeat' first
    | with_reducible assumption
    | with_reducible apply canon_twinRoleWrite
    | with_reducible apply canon_srnRetrain
    | with_reducible apply canon_linkEnable
    | with_reducible apply canon_plainWrite
    | with_reducible apply canon_ite
    | with_reducible apply canon_ite_s
    | with_reducible apply canon_ite_fst
    | with_reducible apply canon_ite_fst_s
    | simp only [canon_mk_iff]
    | split
    | intro _

theorem canon_spillWrite {kw kr ks km kp kv kx} {s : Chip} {q : Nat} {off : Nat} {v : Nat} (h_s : s.Canon kw none kr
    ks km kp kv kx) : (spillWrite s q off v).Canon kw none kr ks km kp kv kx := by
  unfold spillWrite
  try dsimp only
  repeat' first
    | with_reducible assumption
    | with_reducible apply canon_holdLo
    | with_reducible apply canon_plainWrite
    | with_reducible apply canon_ite
    | with_reducible apply canon_ite_s
    | with_reducible apply canon_ite_fst
    | with_reducible apply canon_ite_fst_s
    | simp only [canon_mkt_iff]
    | split
    | intro _

theorem canon_qfWrite {kw kr ks km kp kv kx} {s : Chip} {q : Nat} {off : Nat} {v : Nat} (h_s : s.Canon kw none kr ks
    km kp kv kx) : (qfWrite s q off v).Canon kw none kr ks km kp kv kx := by
  unfold qfWrite
  try dsimp only
  repeat' first
    | with_reducible assumption
    | with_reducible apply canon_plainWrite
    | with_reducible apply canon_spillWrite
    | with_reducible apply canon_ite
    | with_reducible apply canon_ite_s
    | with_reducible apply canon_ite_fst
    | with_reducible apply canon_ite_fst_s
    | simp only [canon_mk_iff]
    | split
    | intro _

theorem canon_freeWrite {kw kt kr ks km kp xb xq xl xm xn xc} {s : Chip} {r : Nat} {tierB : Bool} {v : Nat} (h_s :
    s.Canon kw kt kr ks km kp none ⟨xb, xq, xl, xm, none, xn, xc⟩) : (freeWrite s r tierB v).Canon kw kt kr ks km kp
    none ⟨xb, xq, xl, xm, none, xn, xc⟩ := by
  unfold freeWrite
  try dsimp only
  repeat' first
    | with_reducible assumption
    | with_reducible apply canon_pwFreeWrite

theorem canon_pwWrite {kw kr ks kp xb xq xl xn xc} {s : Chip} {r : Nat} {off : Nat} {v : Nat} (h_s : s.Canon kw none
    kr ks none kp none ⟨xb, xq, xl, none, none, xn, xc⟩) : (pwWrite s r off v).Canon kw none kr ks none kp none ⟨xb,
    xq, xl, none, none, xn, xc⟩ := by
  unfold pwWrite
  try dsimp only
  repeat' first
    | with_reducible assumption
    | with_reducible apply canon_pwModelLoad
    | with_reducible apply canon_plainWrite
    | with_reducible apply canon_freeWrite
    | with_reducible apply canon_ite
    | with_reducible apply canon_ite_s
    | with_reducible apply canon_ite_fst
    | with_reducible apply canon_ite_fst_s
    | simp only [canon_mk_iff]
    | split
    | intro _

theorem canon_hbmWrite {kw ks kv xn xc} {s : Chip} {u : Nat} {off : Nat} {v : Nat} (h_s : s.Canon kw none none ks none
    none kv ⟨none, none, none, none, none, xn, xc⟩) : (hbmWrite s u off v).Canon kw none none ks none none kv ⟨none,
    none, none, none, none, xn, xc⟩ := by
  unfold hbmWrite
  try dsimp only
  repeat' first
    | with_reducible assumption
    | with_reducible apply canon_hbmRangeWrite
    | with_reducible apply canon_girthCfgWrite
    | with_reducible apply canon_retireAccept
    | with_reducible apply canon_memoryGoes
    | with_reducible apply canon_plainWrite
    | with_reducible apply canon_ite
    | with_reducible apply canon_ite_s
    | with_reducible apply canon_ite_fst
    | with_reducible apply canon_ite_fst_s
    | simp only [canon_mk_iff]
    | split
    | intro _

theorem canon_tbWrite {kw kv xn xc} {s : Chip} {c : Nat} {off : Nat} {v : Nat} (h_s : s.Canon kw none none none none
    none kv ⟨none, none, none, none, none, xn, xc⟩) : (tbWrite s c off v).Canon kw none none none none none kv ⟨none,
    none, none, none, none, xn, xc⟩ := by
  unfold tbWrite
  try dsimp only
  repeat' first
    | with_reducible assumption
    | with_reducible apply canon_tbSliceWrite
    | with_reducible apply canon_girthCfgWrite
    | with_reducible apply canon_memoryGoes
    | with_reducible apply canon_plainWrite
    | with_reducible apply canon_ite
    | with_reducible apply canon_ite_s
    | with_reducible apply canon_ite_fst
    | with_reducible apply canon_ite_fst_s
    | simp only [canon_mk_iff]
    | split
    | intro _

theorem canon_slWrite {kw kr ks km kp kv kx} {s : Chip} {pg : Page} {off : Nat} {v : Nat} (h_s : s.Canon kw none kr ks
    km kp kv kx) : (slWrite s pg off v).Canon kw none kr ks km kp kv kx := by
  unfold slWrite
  try dsimp only
  repeat' first
    | with_reducible assumption
    | with_reducible apply canon_stormEdge
    | with_reducible apply canon_putRw
    | with_reducible apply canon_plainWrite
    | with_reducible apply canon_ite
    | with_reducible apply canon_ite_s
    | with_reducible apply canon_ite_fst
    | with_reducible apply canon_ite_fst_s
    | simp only [canon_mk_iff]
    | split
    | intro _

theorem canon_slEnableWrite {kw kt kr ks km kp kv kx} {s : Chip} {pg : Page} {on : Bool} (h_s : s.Canon kw kt kr ks km
    kp kv kx) : (slEnableWrite s pg on).Canon kw kt kr ks km kp kv kx := by
  unfold slEnableWrite
  try dsimp only
  repeat' first
    | with_reducible assumption
    | with_reducible apply canon_wr
    | with_reducible apply canon_stormEdge
    | with_reducible apply canon_ite
    | with_reducible apply canon_ite_s
    | with_reducible apply canon_ite_fst
    | with_reducible apply canon_ite_fst_s
    | simp only [canon_mk_iff]
    | split
    | intro _

theorem canon_windowWrite {kw kt kr ks km kp kv kx} {s : Chip} {pg : Page} {off : Nat} {v : Nat} (h_s : s.Canon kw kt
    kr ks km kp kv kx) : (windowWrite s pg off v).Canon kw kt kr ks km kp kv kx := by
  unfold windowWrite
  try dsimp only
  repeat' first
    | with_reducible assumption
    | with_reducible apply canon_putWord

theorem canon_sqCtrlWrite {kw kt kr ks xn xc} {s : Chip} {via : Via} {p : Nat} {n : Nat} {v : Nat} (h_s : s.Canon kw
    kt kr ks none none none ⟨none, none, none, none, none, xn, xc⟩) : (sqCtrlWrite s via p n v).Canon kw kt kr ks none
    none none ⟨none, none, none, none, none, xn, xc⟩ := by
  unfold sqCtrlWrite
  try dsimp only
  repeat' first
    | with_reducible assumption
    | with_reducible apply canon_queueEnable
    | with_reducible apply canon_queueResume
    | with_reducible apply canon_queueReset
    | with_reducible apply canon_ite
    | with_reducible apply canon_ite_s
    | with_reducible apply canon_ite_fst
    | with_reducible apply canon_ite_fst_s
    | simp only [canon_mk_iff]
    | split
    | intro _

theorem canon_sqCfgWrite {kw kr ks km kp kv kx} {s : Chip} {p : Nat} {n : Nat} {off : Nat} {v : Nat} (h_s : s.Canon kw
    none kr ks km kp kv kx) : (sqCfgWrite s p n off v).Canon kw none kr ks km kp kv kx := by
  unfold sqCfgWrite
  try dsimp only
  repeat' first
    | with_reducible assumption
    | with_reducible apply canon_plainWrite
    | with_reducible apply canon_ite
    | with_reducible apply canon_ite_s
    | with_reducible apply canon_ite_fst
    | with_reducible apply canon_ite_fst_s
    | simp only [canon_mk_iff]
    | split
    | intro _

theorem canon_sqWrite {kw kr ks xn xc} {s : Chip} {via : Via} {p : Nat} {n : Nat} {off : Nat} {v : Nat} (h_s : s.Canon
    kw none kr ks none none none ⟨none, none, none, none, none, xn, xc⟩) : (sqWrite s via p n off v).Canon kw none kr
    ks none none none ⟨none, none, none, none, none, xn, xc⟩ := by
  unfold sqWrite
  try dsimp only
  repeat' first
    | with_reducible assumption
    | with_reducible apply canon_sqDoorbell
    | with_reducible apply canon_sqCqHeadWrite
    | with_reducible apply canon_sqHostSignal
    | with_reducible apply canon_sqCtrlWrite
    | with_reducible apply canon_sqCfgWrite
    | with_reducible apply canon_ite
    | with_reducible apply canon_ite_s
    | with_reducible apply canon_ite_fst
    | with_reducible apply canon_ite_fst_s
    | simp only [canon_mk_iff]
    | split
    | intro _

theorem canon_partCtrlWrite {kw kt kr ks kp xn xc} {s : Chip} {via : Via} {p : Nat} {v : Nat} (h_s : s.Canon kw kt kr
    ks none kp none ⟨none, none, none, none, none, xn, xc⟩) : (partCtrlWrite s via p v).Canon kw kt kr ks none kp none
    ⟨none, none, none, none, none, xn, xc⟩ := by
  unfold partCtrlWrite
  try dsimp only
  repeat' first
    | with_reducible assumption
    | with_reducible apply canon_EditEnv_release
    | with_reducible apply canon_Rd_own
    | with_reducible apply canon_Rd_release
    | with_reducible apply canon_create
    | with_reducible apply canon_partitionReset
    | with_reducible apply canon_release
    | with_reducible apply canon_reclaim
    | with_reducible apply canon_teardown
    | with_reducible apply canon_ite
    | with_reducible apply canon_ite_s
    | with_reducible apply canon_ite_fst
    | with_reducible apply canon_ite_fst_s
    | simp only [canon_mk_iff]
    | split
    | intro _

theorem canon_partWrite {kw kr ks kp xn xc} {s : Chip} {via : Via} {p : Nat} {off : Nat} {v : Nat} (h_s : s.Canon kw
    none kr ks none kp none ⟨none, none, none, none, none, xn, xc⟩) : (partWrite s via p off v).Canon kw none kr ks
    none kp none ⟨none, none, none, none, none, xn, xc⟩ := by
  unfold partWrite
  try dsimp only
  repeat' first
    | with_reducible assumption
    | with_reducible apply canon_plainWrite
    | with_reducible apply canon_partCtrlWrite
    | with_reducible apply canon_ite
    | with_reducible apply canon_ite_s
    | with_reducible apply canon_ite_fst
    | with_reducible apply canon_ite_fst_s
    | simp only [canon_mk_iff]
    | split
    | intro _

theorem canon_unitWrite {kw xn} {s : Chip} {via : Via} {pg : Page} {off : Nat} {v : Nat} (h_s : s.Canon kw none none
    none none none none ⟨none, none, none, none, none, xn, none⟩) : (unitWrite s via pg off v).Canon kw none none none
    none none none ⟨none, none, none, none, none, xn, none⟩ := by
  unfold unitWrite
  try dsimp only
  repeat' first
    | with_reducible assumption
    | with_reducible apply canon_zeroFillGo
    | with_reducible apply canon_skvCtxLoad
    | with_reducible apply canon_standby
    | with_reducible apply canon_countClear
    | with_reducible apply canon_plainWrite
    | with_reducible apply canon_secWrite
    | with_reducible apply canon_fcWrite
    | with_reducible apply canon_srnWriteReg
    | with_reducible apply canon_qfWrite
    | with_reducible apply canon_pwWrite
    | with_reducible apply canon_hbmWrite
    | with_reducible apply canon_tbWrite
    | with_reducible apply canon_slWrite
    | with_reducible apply canon_windowWrite
    | with_reducible apply canon_sqWrite
    | with_reducible apply canon_partWrite
    | with_reducible apply canon_ite
    | with_reducible apply canon_ite_s
    | with_reducible apply canon_ite_fst
    | with_reducible apply canon_ite_fst_s
    | simp only [canon_mk_iff]
    | split
    | intro _

theorem canon_scrubbedWrite {kw kr ks xn xc} {s : Chip} {via : Via} {pg : Page} {off : Nat} {v : Nat} (h_s : s.Canon
    kw none kr ks none none none ⟨none, none, none, none, none, xn, xc⟩) : (scrubbedWrite s via pg off v).Canon kw
    none kr ks none none none ⟨none, none, none, none, none, xn, xc⟩ := by
  unfold scrubbedWrite
  try dsimp only
  repeat' first
    | with_reducible assumption
    | with_reducible apply canon_sqDoorbell
    | with_reducible apply canon_queueEnable
    | with_reducible apply canon_queueReset
    | with_reducible apply canon_partitionReset
    | with_reducible apply canon_sqCfgWrite
    | with_reducible apply canon_ite
    | with_reducible apply canon_ite_s
    | with_reducible apply canon_ite_fst
    | with_reducible apply canon_ite_fst_s
    | simp only [canon_mk_iff]
    | split
    | intro _

theorem canon_pageWrite {kw xn} {s : Chip} {via : Via} {pg : Page} {off : Nat} {v : Nat} (h_s : s.Canon kw none none
    none none none none ⟨none, none, none, none, none, xn, none⟩) : (pageWrite s via pg off v).Canon kw none none none
    none none none ⟨none, none, none, none, none, xn, none⟩ := by
  unfold pageWrite
  try dsimp only
  repeat' first
    | with_reducible assumption
    | with_reducible apply canon_headerWrite
    | with_reducible apply canon_unitWrite
    | with_reducible apply canon_scrubbedWrite
    | with_reducible apply canon_ite
    | with_reducible apply canon_ite_s
    | with_reducible apply canon_ite_fst
    | with_reducible apply canon_ite_fst_s
    | simp only [canon_mk_iff]
    | split
    | intro _

theorem canon_registerWrite {kw xn} {s : Chip} {via : Via} {off : Nat} {v : Nat} {be : Nat} (h_s : s.Canon kw none
    none none none none none ⟨none, none, none, none, none, xn, none⟩) : (registerWrite s via off v be).Canon kw none
    none none none none none ⟨none, none, none, none, none, xn, none⟩ := by
  unfold registerWrite
  try dsimp only
  repeat' first
    | with_reducible assumption
    | with_reducible apply canon_Rd_page
    | with_reducible apply canon_pageWrite
    | with_reducible apply canon_ite
    | with_reducible apply canon_ite_s
    | with_reducible apply canon_ite_fst
    | with_reducible apply canon_ite_fst_s
    | simp only [canon_mk_iff]
    | split
    | intro _

theorem canon_jtagAccess {kw xn} {s : Chip} {a : Jtag} (h_s : s.Canon kw none none none none none none ⟨none, none,
    none, none, none, xn, none⟩) : (jtagAccess s a).Canon kw none none none none none none ⟨none, none, none, none,
    none, xn, none⟩ := by
  unfold jtagAccess
  try dsimp only
  repeat' first
    | with_reducible assumption
    | with_reducible apply canon_draw
    | with_reducible apply canon_emit
    | with_reducible apply canon_Rd_page
    | with_reducible apply canon_pageRead
    | with_reducible apply canon_pageWrite
    | with_reducible apply canon_ite
    | with_reducible apply canon_ite_s
    | with_reducible apply canon_ite_fst
    | with_reducible apply canon_ite_fst_s
    | simp only [canon_mks_iff]
    | split
    | intro _

end Sys2Proof.Machine
end

