-- ==== Sys2Proof/Laws/CanonRetire.lean ====
section
/-! SUPPORT. The operations of Machine/Retire.lean keep the canonical form. -/
set_option linter.all false
namespace Sys2Proof.Machine

theorem canon_commandRetire {kw kt kr ks kp kv xn xc} {s : Chip} {o : Origin} {index : Nat} (h_s : s.Canon kw kt kr ks
    none kp kv ⟨none, none, none, none, none, xn, xc⟩) : (commandRetire s o index).Canon kw kt kr ks none kp kv ⟨none,
    none, none, none, none, xn, xc⟩ := by
  unfold commandRetire
  try dsimp only
  repeat' first
    | with_reducible assumption
    | with_reducible apply canon_retireCmd
    | with_reducible apply canon_ite
    | with_reducible apply canon_ite_s
    | with_reducible apply canon_ite_fst
    | with_reducible apply canon_ite_fst_s
    | simp only [canon_mk_iff]
    | split
    | intro _

end Sys2Proof.Machine
end

