-- ==== Sys2Proof/Laws/CanonRun.lean ====
section
/-! SUPPORT. The operations of Machine/Run.lean keep the canonical form. -/
set_option linter.all false
namespace Sys2Proof.Machine

theorem canon_tick {kw kr ks km kp kv xb xq xl xm xh xc} {s : Chip} (h_s : s.Canon kw none kr ks km kp kv ⟨xb, xq, xl,
    xm, xh, none, xc⟩) : (tick s).Canon kw none kr ks km kp kv ⟨xb, xq, xl, xm, xh, none, xc⟩ := by
  unfold tick
  try dsimp only
  repeat' first
    | with_reducible assumption
    | with_reducible apply canon_ite
    | with_reducible apply canon_ite_s
    | with_reducible apply canon_ite_fst
    | with_reducible apply canon_ite_fst_s
    | simp only [canon_mkn_iff]
    | split
    | intro _

end Sys2Proof.Machine
end

