-- ==== Sys2Proof/Laws/CanonExec.lean ====
section
/-! SUPPORT. What each command keeps when exec answers a next state: the canonical form, and the parts of the state that it
never changes (the lists of Safety.lean). -/

set_option linter.all false
namespace Sys2Proof.Machine

set_option Elab.async false

theorem exec_canon_nop {kw kt kr ks kp kv xn xc} {a0 s t} (h : exec (.nop a0) s = .next t) (h_s : s.toChip.Canon kw kt
    kr ks none kp kv ⟨none, none, none, none, none, xn, xc⟩) : t.toChip.Canon kw kt kr ks none kp kv ⟨none, none,
    none, none, none, xn, xc⟩ := by
  simp only [exec, execNop, carry, live, act, driven, drivenLive, through, throughLive] at h
  cases h
  repeat' first
    | with_reducible assumption
    | with_reducible apply canon_whenRunning
    | with_reducible apply canon_whenSo
    | with_reducible apply canon_carriedOut
    | with_reducible apply canon_nop
    | with_reducible apply canon_ite
    | split
    | intro _

theorem exec_canon_strokePass {kw kt kr ks xn xc} {a0 a1 a2 a3 s t} (h : exec (.strokePass a0 a1 a2 a3) s = .next t)
    (h_s : s.toChip.Canon kw kt kr ks none none none ⟨none, none, none, none, none, xn, xc⟩) : t.toChip.Canon kw kt kr
    ks none none none ⟨none, none, none, none, none, xn, xc⟩ := by
  simp only [exec, execStrokePass, carry, live, act, driven, drivenLive, through, throughLive] at h
  cases h
  repeat' first
    | with_reducible assumption
    | with_reducible apply canon_whenRunning
    | with_reducible apply canon_whenSo
    | with_reducible apply canon_carriedOut
    | with_reducible apply canon_strokePass
    | with_reducible apply canon_ite
    | split
    | intro _

theorem exec_canon_accModeWaitProceed {kw kt kr ks xn xc} {a0 s t} (h : exec (.accModeWaitProceed a0) s = .next t)
    (h_s : s.toChip.Canon kw kt kr ks none none none ⟨none, none, none, none, none, xn, xc⟩) : t.toChip.Canon kw kt kr
    ks none none none ⟨none, none, none, none, none, xn, xc⟩ := by
  simp only [exec, execAccModeWaitProceed, carry, live, act, driven, drivenLive, through, throughLive] at h
  cases h
  repeat' first
    | with_reducible assumption
    | with_reducible apply canon_whenRunning
    | with_reducible apply canon_whenSo
    | with_reducible apply canon_carriedOut
    | with_reducible apply canon_accModeWaitProceed
    | with_reducible apply canon_ite
    | split
    | intro _

theorem exec_canon_accModeTimeout {kw kt kr ks kp kv xn xc} {a0 s t} (h : exec (.accModeTimeout a0) s = .next t) (h_s
    : s.toChip.Canon kw kt kr ks none kp kv ⟨none, none, none, none, none, xn, xc⟩) : t.toChip.Canon kw kt kr ks none
    kp kv ⟨none, none, none, none, none, xn, xc⟩ := by
  simp only [exec, execAccModeTimeout, carry, live, act, driven, drivenLive, through, throughLive] at h
  cases h
  repeat' first
    | with_reducible assumption
    | with_reducible apply canon_whenRunning
    | with_reducible apply canon_whenSo
    | with_reducible apply canon_carriedOut
    | with_reducible apply canon_accModeTimeout
    | with_reducible apply canon_ite
    | split
    | intro _

theorem exec_canon_readout {kw kt kr ks xn xc} {a0 a1 a2 a3 s t} (h : exec (.readout a0 a1 a2 a3) s = .next t) (h_s :
    s.toChip.Canon kw kt kr ks none none none ⟨none, none, none, none, none, xn, xc⟩) : t.toChip.Canon kw kt kr ks
    none none none ⟨none, none, none, none, none, xn, xc⟩ := by
  simp only [exec, execReadout, carry, live, act, driven, drivenLive, through, throughLive] at h
  cases h
  repeat' first
    | with_reducible assumption
    | with_reducible apply canon_whenRunning
    | with_reducible apply canon_whenSo
    | with_reducible apply canon_carriedOut
    | with_reducible apply canon_readout
    | with_reducible apply canon_ite
    | split
    | intro _

theorem exec_canon_quantise {kw kt kr ks xn xc} {a0 a1 a2 s t} (h : exec (.quantise a0 a1 a2) s = .next t) (h_s :
    s.toChip.Canon kw kt kr ks none none none ⟨none, none, none, none, none, xn, xc⟩) : t.toChip.Canon kw kt kr ks
    none none none ⟨none, none, none, none, none, xn, xc⟩ := by
  simp only [exec, execQuantise, carry, live, act, driven, drivenLive, through, throughLive] at h
  cases h
  repeat' first
    | with_reducible assumption
    | with_reducible apply canon_whenRunning
    | with_reducible apply canon_whenSo
    | with_reducible apply canon_carriedOut
    | with_reducible apply canon_quantise
    | with_reducible apply canon_ite
    | split
    | intro _

theorem exec_canon_widenEventNotice {kw kt kr ks km kp kv xb xq xl xm xn xc} {a0 s t} (h : exec (.widenEventNotice a0)
    s = .next t) (h_s : s.toChip.Canon kw kt kr ks km kp kv ⟨xb, xq, xl, xm, none, xn, xc⟩) : t.toChip.Canon kw kt kr
    ks km kp kv ⟨xb, xq, xl, xm, none, xn, xc⟩ := by
  simp only [exec, execWidenEventNotice, carry, live, act, driven, drivenLive, through, throughLive] at h
  cases h
  repeat' first
    | with_reducible assumption
    | with_reducible apply canon_whenRunning
    | with_reducible apply canon_whenSo
    | with_reducible apply canon_carriedOut
    | with_reducible apply canon_widenEventNotice
    | with_reducible apply canon_ite
    | split
    | intro _

theorem exec_canon_stormNotice {kw kt kr ks km kp kv kx} {a0 s t} (h : exec (.stormNotice a0) s = .next t) (h_s :
    s.toChip.Canon kw kt kr ks km kp kv kx) : t.toChip.Canon kw kt kr ks km kp kv kx := by
  simp only [exec, execStormNotice, carry, live, act, driven, drivenLive, through, throughLive] at h
  cases h
  repeat' first
    | with_reducible assumption
    | with_reducible apply canon_whenRunning
    | with_reducible apply canon_whenSo
    | with_reducible apply canon_carriedOut
    | with_reducible apply canon_stormNotice
    | with_reducible apply canon_ite
    | split
    | intro _

theorem exec_canon_stormWindowRollover {kw kt kr ks km kp kv kx} {a0 s t} (h : exec (.stormWindowRollover a0) s =
    .next t) (h_s : s.toChip.Canon kw kt kr ks km kp kv kx) : t.toChip.Canon kw kt kr ks km kp kv kx := by
  simp only [exec, execStormWindowRollover, carry, live, act, driven, drivenLive, through, throughLive] at h
  cases h
  repeat' first
    | with_reducible assumption
    | with_reducible apply canon_whenRunning
    | with_reducible apply canon_whenSo
    | with_reducible apply canon_carriedOut
    | with_reducible apply canon_stormWindowRollover
    | with_reducible apply canon_ite
    | split
    | intro _

theorem exec_canon_fin {kw kt kr ks xn xc} {a0 a1 a2 s t} (h : exec (.fin a0 a1 a2) s = .next t) (h_s : s.toChip.Canon
    kw kt kr ks none none none ⟨none, none, none, none, none, xn, xc⟩) : t.toChip.Canon kw kt kr ks none none none
    ⟨none, none, none, none, none, xn, xc⟩ := by
  simp only [exec, execFin, carry, live, act, driven, drivenLive, through, throughLive] at h
  cases h
  repeat' first
    | with_reducible assumption
    | with_reducible apply canon_whenRunning
    | with_reducible apply canon_whenSo
    | with_reducible apply canon_carriedOut
    | with_reducible apply canon_fin
    | with_reducible apply canon_ite
    | split
    | intro _

theorem exec_canon_finWidenItem {kw kt kr ks xn xc} {a0 a1 s t} (h : exec (.finWidenItem a0 a1) s = .next t) (h_s :
    s.toChip.Canon kw kt kr ks none none none ⟨none, none, none, none, none, xn, xc⟩) : t.toChip.Canon kw kt kr ks
    none none none ⟨none, none, none, none, none, xn, xc⟩ := by
  simp only [exec, execFinWidenItem, carry, live, act, driven, drivenLive, through, throughLive] at h
  cases h
  repeat' first
    | with_reducible assumption
    | with_reducible apply canon_whenRunning
    | with_reducible apply canon_whenSo
    | with_reducible apply canon_carriedOut
    | with_reducible apply canon_finWidenItem
    | with_reducible apply canon_ite
    | split
    | intro _

theorem exec_canon_zeroFill {kw kt kr ks kv xn xc} {a0 a1 s t} (h : exec (.zeroFill a0 a1) s = .next t) (h_s :
    s.toChip.Canon kw kt kr ks none none kv ⟨none, none, none, none, none, xn, xc⟩) : t.toChip.Canon kw kt kr ks none
    none kv ⟨none, none, none, none, none, xn, xc⟩ := by
  simp only [exec, execZeroFill, carry, live, act, driven, drivenLive, through, throughLive] at h
  cases h
  repeat' first
    | with_reducible assumption
    | with_reducible apply canon_whenRunning
    | with_reducible apply canon_whenSo
    | with_reducible apply canon_carriedOut
    | with_reducible apply canon_zeroFill
    | with_reducible apply canon_ite
    | split
    | intro _

theorem exec_canon_fillComplete {kw kt kr ks kv xn xc} {a0 s t} (h : exec (.fillComplete a0) s = .next t) (h_s :
    s.toChip.Canon kw kt kr ks none none kv ⟨none, none, none, none, none, xn, xc⟩) : t.toChip.Canon kw kt kr ks none
    none kv ⟨none, none, none, none, none, xn, xc⟩ := by
  simp only [exec, execFillComplete, carry, live, act, driven, drivenLive, through, throughLive] at h
  cases h
  repeat' first
    | with_reducible assumption
    | with_reducible apply canon_whenRunning
    | with_reducible apply canon_whenSo
    | with_reducible apply canon_carriedOut
    | with_reducible apply canon_fillComplete
    | with_reducible apply canon_ite
    | split
    | intro _

theorem exec_canon_dmaCopy {kw kt kr ks kv xn xc} {a0 a1 a2 s t} (h : exec (.dmaCopy a0 a1 a2) s = .next t) (h_s :
    s.toChip.Canon kw kt kr ks none none kv ⟨none, none, none, none, none, xn, xc⟩) : t.toChip.Canon kw kt kr ks none
    none kv ⟨none, none, none, none, none, xn, xc⟩ := by
  simp only [exec, execDmaCopy, carry, live, act, driven, drivenLive, through, throughLive] at h
  cases h
  repeat' first
    | with_reducible assumption
    | with_reducible apply canon_whenRunning
    | with_reducible apply canon_whenSo
    | with_reducible apply canon_carriedOut
    | with_reducible apply canon_dmaCopy
    | with_reducible apply canon_ite
    | split
    | intro _

theorem exec_canon_semSignal {kw kt kr ks kp kv xn xc} {a0 a1 s t} (h : exec (.semSignal a0 a1) s = .next t) (h_s :
    s.toChip.Canon kw kt kr ks none kp kv ⟨none, none, none, none, none, xn, xc⟩) : t.toChip.Canon kw kt kr ks none kp
    kv ⟨none, none, none, none, none, xn, xc⟩ := by
  simp only [exec, execSemSignal, carry, live, act, driven, drivenLive, through, throughLive] at h
  cases h
  repeat' first
    | with_reducible assumption
    | with_reducible apply canon_whenRunning
    | with_reducible apply canon_whenSo
    | with_reducible apply canon_carriedOut
    | with_reducible apply canon_semSignal
    | with_reducible apply canon_ite
    | split
    | intro _

theorem exec_canon_semWait {kw kt kr ks kp kv xn xc} {a0 a1 s t} (h : exec (.semWait a0 a1) s = .next t) (h_s :
    s.toChip.Canon kw kt kr ks none kp kv ⟨none, none, none, none, none, xn, xc⟩) : t.toChip.Canon kw kt kr ks none kp
    kv ⟨none, none, none, none, none, xn, xc⟩ := by
  simp only [exec, execSemWait, carry, live, act, driven, drivenLive, through, throughLive] at h
  cases h
  repeat' first
    | with_reducible assumption
    | with_reducible apply canon_whenRunning
    | with_reducible apply canon_whenSo
    | with_reducible apply canon_carriedOut
    | with_reducible apply canon_semWait
    | with_reducible apply canon_ite
    | split
    | intro _

theorem exec_canon_barrier {kw kt kr ks kp kv xn xc} {a0 a1 s t} (h : exec (.barrier a0 a1) s = .next t) (h_s :
    s.toChip.Canon kw kt kr ks none kp kv ⟨none, none, none, none, none, xn, xc⟩) : t.toChip.Canon kw kt kr ks none kp
    kv ⟨none, none, none, none, none, xn, xc⟩ := by
  simp only [exec, execBarrier, carry, live, act, driven, drivenLive, through, throughLive] at h
  cases h
  repeat' first
    | with_reducible assumption
    | with_reducible apply canon_whenRunning
    | with_reducible apply canon_whenSo
    | with_reducible apply canon_carriedOut
    | with_reducible apply canon_barrier
    | with_reducible apply canon_ite
    | split
    | intro _

theorem exec_canon_waitTimeout {kw kt kr ks kp kv xn xc} {a0 s t} (h : exec (.waitTimeout a0) s = .next t) (h_s :
    s.toChip.Canon kw kt kr ks none kp kv ⟨none, none, none, none, none, xn, xc⟩) : t.toChip.Canon kw kt kr ks none kp
    kv ⟨none, none, none, none, none, xn, xc⟩ := by
  simp only [exec, execWaitTimeout, carry, live, act, driven, drivenLive, through, throughLive] at h
  cases h
  repeat' first
    | with_reducible assumption
    | with_reducible apply canon_whenRunning
    | with_reducible apply canon_whenSo
    | with_reducible apply canon_carriedOut
    | with_reducible apply canon_waitTimeout
    | with_reducible apply canon_ite
    | split
    | intro _

theorem exec_canon_eventHost {kw kt kr ks kp kv xn xc} {a0 a1 a2 s t} (h : exec (.eventHost a0 a1 a2) s = .next t)
    (h_s : s.toChip.Canon kw kt kr ks none kp kv ⟨none, none, none, none, none, xn, xc⟩) : t.toChip.Canon kw kt kr ks
    none kp kv ⟨none, none, none, none, none, xn, xc⟩ := by
  simp only [exec, execEventHost, carry, live, act, driven, drivenLive, through, throughLive] at h
  cases h
  repeat' first
    | with_reducible assumption
    | with_reducible apply canon_whenRunning
    | with_reducible apply canon_whenSo
    | with_reducible apply canon_carriedOut
    | with_reducible apply canon_eventHost
    | with_reducible apply canon_ite
    | split
    | intro _

theorem exec_canon_weighEnough {kw kt kr ks km kp kv xb xl xm xh xn xc} {a0 s t} (h : exec (.weighEnough a0) s = .next
    t) (h_s : s.toChip.Canon kw kt kr ks km kp kv ⟨xb, none, xl, xm, xh, xn, xc⟩) : t.toChip.Canon kw kt kr ks km kp
    kv ⟨xb, none, xl, xm, xh, xn, xc⟩ := by
  simp only [exec, execWeighEnough, carry, live, act, driven, drivenLive, through, throughLive] at h
  cases h
  repeat' first
    | with_reducible assumption
    | with_reducible apply canon_whenRunning
    | with_reducible apply canon_whenSo
    | with_reducible apply canon_carriedOut
    | with_reducible apply canon_carriedOut
    | with_reducible apply canon_weighEnough
    | with_reducible apply canon_ite
    | split
    | intro _

theorem exec_canon_reinAttend {kw kt kr ks xn xc} {a0 a1 a2 a3 s t} (h : exec (.reinAttend a0 a1 a2 a3) s = .next t)
    (h_s : s.toChip.Canon kw kt kr ks none none none ⟨none, none, none, none, none, xn, xc⟩) : t.toChip.Canon kw kt kr
    ks none none none ⟨none, none, none, none, none, xn, xc⟩ := by
  simp only [exec, execReinAttend, carry, live, act, driven, drivenLive, through, throughLive] at h
  cases h
  repeat' first
    | with_reducible assumption
    | with_reducible apply canon_whenRunning
    | with_reducible apply canon_whenSo
    | with_reducible apply canon_carriedOut
    | with_reducible apply canon_reinAttend
    | with_reducible apply canon_ite
    | split
    | intro _

theorem exec_canon_kvAppend {kw kt kr ks xn xc} {a0 a1 a2 a3 s t} (h : exec (.kvAppend a0 a1 a2 a3) s = .next t) (h_s
    : s.toChip.Canon kw kt kr ks none none none ⟨none, none, none, none, none, xn, xc⟩) : t.toChip.Canon kw kt kr ks
    none none none ⟨none, none, none, none, none, xn, xc⟩ := by
  simp only [exec, execKvAppend, carry, live, act, driven, drivenLive, through, throughLive] at h
  cases h
  repeat' first
    | with_reducible assumption
    | with_reducible apply canon_whenRunning
    | with_reducible apply canon_whenSo
    | with_reducible apply canon_carriedOut
    | with_reducible apply canon_kvAppend
    | with_reducible apply canon_ite
    | split
    | intro _

theorem exec_canon_pageEditSet {kw kt kr ks xn xc} {a0 a1 s t} (h : exec (.pageEditSet a0 a1) s = .next t) (h_s :
    s.toChip.Canon kw kt kr ks none none none ⟨none, none, none, none, none, xn, xc⟩) : t.toChip.Canon kw kt kr ks
    none none none ⟨none, none, none, none, none, xn, xc⟩ := by
  simp only [exec, execPageEditSet, carry, live, act, driven, drivenLive, through, throughLive] at h
  cases h
  repeat' first
    | with_reducible assumption
    | with_reducible apply canon_whenRunning
    | with_reducible apply canon_whenSo
    | with_reducible apply canon_carriedOut
    | with_reducible apply canon_pageEditRow
    | with_reducible apply canon_ite
    | split
    | intro _

theorem exec_canon_pageEditAlloc {kw kt kr ks xn xc} {a0 a1 s t} (h : exec (.pageEditAlloc a0 a1) s = .next t) (h_s :
    s.toChip.Canon kw kt kr ks none none none ⟨none, none, none, none, none, xn, xc⟩) : t.toChip.Canon kw kt kr ks
    none none none ⟨none, none, none, none, none, xn, xc⟩ := by
  simp only [exec, execPageEditAlloc, carry, live, act, driven, drivenLive, through, throughLive] at h
  cases h
  repeat' first
    | with_reducible assumption
    | with_reducible apply canon_whenRunning
    | with_reducible apply canon_whenSo
    | with_reducible apply canon_carriedOut
    | with_reducible apply canon_pageEditRow
    | with_reducible apply canon_ite
    | split
    | intro _

theorem exec_canon_pageEditRelease {kw kt kr ks xn xc} {a0 a1 s t} (h : exec (.pageEditRelease a0 a1) s = .next t)
    (h_s : s.toChip.Canon kw kt kr ks none none none ⟨none, none, none, none, none, xn, xc⟩) : t.toChip.Canon kw kt kr
    ks none none none ⟨none, none, none, none, none, xn, xc⟩ := by
  simp only [exec, execPageEditRelease, carry, live, act, driven, drivenLive, through, throughLive] at h
  cases h
  repeat' first
    | with_reducible assumption
    | with_reducible apply canon_whenRunning
    | with_reducible apply canon_whenSo
    | with_reducible apply canon_carriedOut
    | with_reducible apply canon_pageEditRow
    | with_reducible apply canon_ite
    | split
    | intro _

theorem exec_canon_pageEditShare {kw kt kr ks xn xc} {a0 a1 s t} (h : exec (.pageEditShare a0 a1) s = .next t) (h_s :
    s.toChip.Canon kw kt kr ks none none none ⟨none, none, none, none, none, xn, xc⟩) : t.toChip.Canon kw kt kr ks
    none none none ⟨none, none, none, none, none, xn, xc⟩ := by
  simp only [exec, execPageEditShare, carry, live, act, driven, drivenLive, through, throughLive] at h
  cases h
  repeat' first
    | with_reducible assumption
    | with_reducible apply canon_whenRunning
    | with_reducible apply canon_whenSo
    | with_reducible apply canon_carriedOut
    | with_reducible apply canon_pageEditRow
    | with_reducible apply canon_ite
    | split
    | intro _

theorem exec_canon_pageEditMove {kw kt kr ks xn xc} {a0 a1 s t} (h : exec (.pageEditMove a0 a1) s = .next t) (h_s :
    s.toChip.Canon kw kt kr ks none none none ⟨none, none, none, none, none, xn, xc⟩) : t.toChip.Canon kw kt kr ks
    none none none ⟨none, none, none, none, none, xn, xc⟩ := by
  simp only [exec, execPageEditMove, carry, live, act, driven, drivenLive, through, throughLive] at h
  cases h
  repeat' first
    | with_reducible assumption
    | with_reducible apply canon_whenRunning
    | with_reducible apply canon_whenSo
    | with_reducible apply canon_carriedOut
    | with_reducible apply canon_pageEditRow
    | with_reducible apply canon_ite
    | split
    | intro _

theorem exec_canon_walkStart {kw kt kr ks kp xb xq xl xn xc} {a0 a1 a2 s t} (h : exec (.walkStart a0 a1 a2) s = .next
    t) (h_s : s.toChip.Canon kw kt kr ks none kp none ⟨xb, xq, xl, none, none, xn, xc⟩) : t.toChip.Canon kw kt kr ks
    none kp none ⟨xb, xq, xl, none, none, xn, xc⟩ := by
  simp only [exec, execWalkStart, carry, live, act, driven, drivenLive, through, throughLive] at h
  cases h
  repeat' first
    | with_reducible assumption
    | with_reducible apply canon_whenRunning
    | with_reducible apply canon_whenSo
    | with_reducible apply canon_carriedOut
    | with_reducible apply canon_walkStart
    | with_reducible apply canon_ite
    | split
    | intro _

theorem exec_canon_walkEnd {kw kt kr ks km kp kx} {a0 a1 s t} (h : exec (.walkEnd a0 a1) s = .next t) (h_s :
    s.toChip.Canon kw kt kr ks km kp none kx) : t.toChip.Canon kw kt kr ks km kp none kx := by
  simp only [exec, execWalkEnd, carry, live, act, driven, drivenLive, through, throughLive] at h
  cases h
  repeat' first
    | with_reducible assumption
    | with_reducible apply canon_whenRunning
    | with_reducible apply canon_whenSo
    | with_reducible apply canon_carriedOut
    | with_reducible apply canon_walkEnd
    | with_reducible apply canon_ite
    | split
    | intro _

theorem exec_canon_retireQueueAdvance {kw kt kr ks kp xb xl xn xc} {a0 a1 s t} (h : exec (.retireQueueAdvance a0 a1) s
    = .next t) (h_s : s.toChip.Canon kw kt kr ks none kp none ⟨xb, none, xl, none, none, xn, xc⟩) : t.toChip.Canon kw
    kt kr ks none kp none ⟨xb, none, xl, none, none, xn, xc⟩ := by
  simp only [exec, execRetireQueueAdvance, carry, live, act, driven, drivenLive, through, throughLive] at h
  cases h
  repeat' first
    | with_reducible assumption
    | with_reducible apply canon_whenRunning
    | with_reducible apply canon_whenSo
    | with_reducible apply canon_carriedOut
    | with_reducible apply canon_retireQueueAdvance
    | with_reducible apply canon_ite
    | split
    | intro _

theorem exec_canon_skvCompress {kw kt kr ks xn xc} {a0 a1 a2 s t} (h : exec (.skvCompress a0 a1 a2) s = .next t) (h_s
    : s.toChip.Canon kw kt kr ks none none none ⟨none, none, none, none, none, xn, xc⟩) : t.toChip.Canon kw kt kr ks
    none none none ⟨none, none, none, none, none, xn, xc⟩ := by
  simp only [exec, execSkvCompress, carry, live, act, driven, drivenLive, through, throughLive] at h
  cases h
  repeat' first
    | with_reducible assumption
    | with_reducible apply canon_whenRunning
    | with_reducible apply canon_whenSo
    | with_reducible apply canon_carriedOut
    | with_reducible apply canon_skvCompress
    | with_reducible apply canon_ite
    | split
    | intro _

theorem exec_canon_skvDecode {kw kt kr ks xn xc} {a0 a1 a2 s t} (h : exec (.skvDecode a0 a1 a2) s = .next t) (h_s :
    s.toChip.Canon kw kt kr ks none none none ⟨none, none, none, none, none, xn, xc⟩) : t.toChip.Canon kw kt kr ks
    none none none ⟨none, none, none, none, none, xn, xc⟩ := by
  simp only [exec, execSkvDecode, carry, live, act, driven, drivenLive, through, throughLive] at h
  cases h
  repeat' first
    | with_reducible assumption
    | with_reducible apply canon_whenRunning
    | with_reducible apply canon_whenSo
    | with_reducible apply canon_carriedOut
    | with_reducible apply canon_skvDecode
    | with_reducible apply canon_ite
    | split
    | intro _

theorem exec_canon_skvStage {kw kt kr ks kv xn xc} {a0 a1 a2 s t} (h : exec (.skvStage a0 a1 a2) s = .next t) (h_s :
    s.toChip.Canon kw kt kr ks none none kv ⟨none, none, none, none, none, xn, xc⟩) : t.toChip.Canon kw kt kr ks none
    none kv ⟨none, none, none, none, none, xn, xc⟩ := by
  simp only [exec, execSkvStage, carry, live, act, driven, drivenLive, through, throughLive] at h
  cases h
  repeat' first
    | with_reducible assumption
    | with_reducible apply canon_whenRunning
    | with_reducible apply canon_whenSo
    | with_reducible apply canon_carriedOut
    | with_reducible apply canon_skvStage
    | with_reducible apply canon_ite
    | split
    | intro _

theorem exec_canon_slotUnitWrite {kw kt kr ks kp kv xb xq xl xn xc} {a0 a1 a2 a3 a4 a5 s t} (h : exec (.slotUnitWrite
    a0 a1 a2 a3 a4 a5) s = .next t) (h_s : s.toChip.Canon kw kt kr ks none kp kv ⟨xb, xq, xl, none, none, xn, xc⟩) :
    t.toChip.Canon kw kt kr ks none kp kv ⟨xb, xq, xl, none, none, xn, xc⟩ := by
  simp only [exec, execSlotUnitWrite, carry, live, act, driven, drivenLive, through, throughLive] at h
  cases h
  repeat' first
    | with_reducible assumption
    | with_reducible apply canon_whenRunning
    | with_reducible apply canon_whenSo
    | with_reducible apply canon_carriedOut
    | with_reducible apply canon_slotUnitWrite
    | with_reducible apply canon_ite
    | split
    | intro _

theorem exec_canon_slotUnitRead {kw kt kr ks kp kv xb xq xl xn xc} {a0 a1 a2 a3 a4 s t} (h : exec (.slotUnitRead a0 a1
    a2 a3 a4) s = .next t) (h_s : s.toChip.Canon kw kt kr ks none kp kv ⟨xb, xq, xl, none, none, xn, xc⟩) :
    t.toChip.Canon kw kt kr ks none kp kv ⟨xb, xq, xl, none, none, xn, xc⟩ := by
  simp only [exec, execSlotUnitRead, carry, live, act, driven, drivenLive, through, throughLive] at h
  cases h
  repeat' first
    | with_reducible assumption
    | with_reducible apply canon_whenRunning
    | with_reducible apply canon_whenSo
    | with_reducible apply canon_carriedOut
    | with_reducible apply canon_slotUnitRead
    | with_reducible apply canon_ite
    | split
    | intro _

theorem exec_canon_serveSubmit {kw kt kr ks xn xc} {a0 a1 a2 s t} (h : exec (.serveSubmit a0 a1 a2) s = .next t) (h_s
    : s.toChip.Canon kw kt kr ks none none none ⟨none, none, none, none, none, xn, xc⟩) : t.toChip.Canon kw kt kr ks
    none none none ⟨none, none, none, none, none, xn, xc⟩ := by
  simp only [exec, execServeSubmit, carry, live, act, driven, drivenLive, through, throughLive] at h
  cases h
  repeat' first
    | with_reducible assumption
    | with_reducible apply canon_whenRunning
    | with_reducible apply canon_whenSo
    | with_reducible apply canon_carriedOut
    | with_reducible apply canon_serveSubmit
    | with_reducible apply canon_ite
    | split
    | intro _

theorem exec_canon_serveCancel {kw kt kr ks xn xc} {a0 a1 a2 s t} (h : exec (.serveCancel a0 a1 a2) s = .next t) (h_s
    : s.toChip.Canon kw kt kr ks none none none ⟨none, none, none, none, none, xn, xc⟩) : t.toChip.Canon kw kt kr ks
    none none none ⟨none, none, none, none, none, xn, xc⟩ := by
  simp only [exec, execServeCancel, carry, live, act, driven, drivenLive, through, throughLive] at h
  cases h
  repeat' first
    | with_reducible assumption
    | with_reducible apply canon_whenRunning
    | with_reducible apply canon_whenSo
    | with_reducible apply canon_carriedOut
    | with_reducible apply canon_serveCancel
    | with_reducible apply canon_ite
    | split
    | intro _

theorem exec_canon_servePause {kw kt kr ks xn xc} {a0 a1 a2 s t} (h : exec (.servePause a0 a1 a2) s = .next t) (h_s :
    s.toChip.Canon kw kt kr ks none none none ⟨none, none, none, none, none, xn, xc⟩) : t.toChip.Canon kw kt kr ks
    none none none ⟨none, none, none, none, none, xn, xc⟩ := by
  simp only [exec, execServePause, carry, live, act, driven, drivenLive, through, throughLive] at h
  cases h
  repeat' first
    | with_reducible assumption
    | with_reducible apply canon_whenRunning
    | with_reducible apply canon_whenSo
    | with_reducible apply canon_carriedOut
    | with_reducible apply canon_servePause
    | with_reducible apply canon_ite
    | split
    | intro _

theorem exec_canon_serveResume {kw kt kr ks xn xc} {a0 a1 a2 s t} (h : exec (.serveResume a0 a1 a2) s = .next t) (h_s
    : s.toChip.Canon kw kt kr ks none none none ⟨none, none, none, none, none, xn, xc⟩) : t.toChip.Canon kw kt kr ks
    none none none ⟨none, none, none, none, none, xn, xc⟩ := by
  simp only [exec, execServeResume, carry, live, act, driven, drivenLive, through, throughLive] at h
  cases h
  repeat' first
    | with_reducible assumption
    | with_reducible apply canon_whenRunning
    | with_reducible apply canon_whenSo
    | with_reducible apply canon_carriedOut
    | with_reducible apply canon_serveResume
    | with_reducible apply canon_ite
    | split
    | intro _

theorem exec_canon_serveEdit {kw kt kr ks xn xc} {a0 a1 a2 s t} (h : exec (.serveEdit a0 a1 a2) s = .next t) (h_s :
    s.toChip.Canon kw kt kr ks none none none ⟨none, none, none, none, none, xn, xc⟩) : t.toChip.Canon kw kt kr ks
    none none none ⟨none, none, none, none, none, xn, xc⟩ := by
  simp only [exec, execServeEdit, carry, live, act, driven, drivenLive, through, throughLive] at h
  cases h
  repeat' first
    | with_reducible assumption
    | with_reducible apply canon_whenRunning
    | with_reducible apply canon_whenSo
    | with_reducible apply canon_carriedOut
    | with_reducible apply canon_serveEdit
    | with_reducible apply canon_ite
    | split
    | intro _

theorem exec_canon_serveEditComplete {kw kt kr ks xn xc} {a0 a1 s t} (h : exec (.serveEditComplete a0 a1) s = .next t)
    (h_s : s.toChip.Canon kw kt kr ks none none none ⟨none, none, none, none, none, xn, xc⟩) : t.toChip.Canon kw kt kr
    ks none none none ⟨none, none, none, none, none, xn, xc⟩ := by
  simp only [exec, execServeEditComplete, carry, live, act, driven, drivenLive, through, throughLive] at h
  cases h
  repeat' first
    | with_reducible assumption
    | with_reducible apply canon_whenRunning
    | with_reducible apply canon_whenSo
    | with_reducible apply canon_carriedOut
    | with_reducible apply canon_serveEditComplete
    | with_reducible apply canon_ite
    | split
    | intro _

theorem exec_canon_serveAccount {kw kt kr ks xn xc} {a0 a1 s t} (h : exec (.serveAccount a0 a1) s = .next t) (h_s :
    s.toChip.Canon kw kt kr ks none none none ⟨none, none, none, none, none, xn, xc⟩) : t.toChip.Canon kw kt kr ks
    none none none ⟨none, none, none, none, none, xn, xc⟩ := by
  simp only [exec, execServeAccount, carry, live, act, driven, drivenLive, through, throughLive] at h
  cases h
  repeat' first
    | with_reducible assumption
    | with_reducible apply canon_whenRunning
    | with_reducible apply canon_whenSo
    | with_reducible apply canon_carriedOut
    | with_reducible apply canon_serveAccount
    | with_reducible apply canon_ite
    | split
    | intro _

theorem exec_canon_serveQuery {kw kt kr ks xn xc} {a0 a1 a2 s t} (h : exec (.serveQuery a0 a1 a2) s = .next t) (h_s :
    s.toChip.Canon kw kt kr ks none none none ⟨none, none, none, none, none, xn, xc⟩) : t.toChip.Canon kw kt kr ks
    none none none ⟨none, none, none, none, none, xn, xc⟩ := by
  simp only [exec, execServeQuery, carry, live, act, driven, drivenLive, through, throughLive] at h
  cases h
  repeat' first
    | with_reducible assumption
    | with_reducible apply canon_whenRunning
    | with_reducible apply canon_whenSo
    | with_reducible apply canon_carriedOut
    | with_reducible apply canon_serveQuery
    | with_reducible apply canon_ite
    | split
    | intro _

theorem exec_canon_serveSample {kw kt kr ks kv xn xc} {a0 a1 a2 s t} (h : exec (.serveSample a0 a1 a2) s = .next t)
    (h_s : s.toChip.Canon kw kt kr ks none none kv ⟨none, none, none, none, none, xn, xc⟩) : t.toChip.Canon kw kt kr
    ks none none kv ⟨none, none, none, none, none, xn, xc⟩ := by
  simp only [exec, execServeSample, carry, live, act, driven, drivenLive, through, throughLive] at h
  cases h
  repeat' first
    | with_reducible assumption
    | with_reducible apply canon_whenRunning
    | with_reducible apply canon_whenSo
    | with_reducible apply canon_carriedOut
    | with_reducible apply canon_serveSample
    | with_reducible apply canon_ite
    | split
    | intro _

theorem exec_canon_catchStep {kw kt kr ks xn xc} {a0 s t} (h : exec (.catchStep a0) s = .next t) (h_s : s.toChip.Canon
    kw kt kr ks none none none ⟨none, none, none, none, none, xn, xc⟩) : t.toChip.Canon kw kt kr ks none none none
    ⟨none, none, none, none, none, xn, xc⟩ := by
  simp only [exec, execCatchStep, carry, live, act, driven, drivenLive, through, throughLive] at h
  cases h
  repeat' first
    | with_reducible assumption
    | with_reducible apply canon_whenRunning
    | with_reducible apply canon_whenSo
    | with_reducible apply canon_carriedOut
    | with_reducible apply canon_catchStep
    | with_reducible apply canon_ite
    | split
    | intro _

theorem exec_canon_stepFinish {kw kt kr ks xn xc} {a0 s t} (h : exec (.stepFinish a0) s = .next t) (h_s :
    s.toChip.Canon kw kt kr ks none none none ⟨none, none, none, none, none, xn, xc⟩) : t.toChip.Canon kw kt kr ks
    none none none ⟨none, none, none, none, none, xn, xc⟩ := by
  simp only [exec, execStepFinish, carry, live, act, driven, drivenLive, through, throughLive] at h
  cases h
  repeat' first
    | with_reducible assumption
    | with_reducible apply canon_whenRunning
    | with_reducible apply canon_whenSo
    | with_reducible apply canon_carriedOut
    | with_reducible apply canon_stepFinish
    | with_reducible apply canon_ite
    | split
    | intro _

theorem exec_canon_accountWindowRollover {kw kt kr ks xn xc} {a0 a1 s t} (h : exec (.accountWindowRollover a0 a1) s =
    .next t) (h_s : s.toChip.Canon kw kt kr ks none none none ⟨none, none, none, none, none, xn, xc⟩) : t.toChip.Canon
    kw kt kr ks none none none ⟨none, none, none, none, none, xn, xc⟩ := by
  simp only [exec, execAccountWindowRollover, carry, live, act, driven, drivenLive, through, throughLive] at h
  cases h
  repeat' first
    | with_reducible assumption
    | with_reducible apply canon_whenRunning
    | with_reducible apply canon_whenSo
    | with_reducible apply canon_carriedOut
    | with_reducible apply canon_accountWindowRollover
    | with_reducible apply canon_ite
    | split
    | intro _

theorem exec_canon_moveDue {kw kt kr ks xn xc} {a0 a1 s t} (h : exec (.moveDue a0 a1) s = .next t) (h_s :
    s.toChip.Canon kw kt kr ks none none none ⟨none, none, none, none, none, xn, xc⟩) : t.toChip.Canon kw kt kr ks
    none none none ⟨none, none, none, none, none, xn, xc⟩ := by
  simp only [exec, execMoveDue, carry, live, act, driven, drivenLive, through, throughLive] at h
  cases h
  repeat' first
    | with_reducible assumption
    | with_reducible apply canon_whenRunning
    | with_reducible apply canon_whenSo
    | with_reducible apply canon_carriedOut
    | with_reducible apply canon_moveDueRow
    | with_reducible apply canon_ite
    | split
    | intro _

theorem exec_canon_boathouseMoveComplete {kw kt kr ks xn xc} {a0 a1 s t} (h : exec (.boathouseMoveComplete a0 a1) s =
    .next t) (h_s : s.toChip.Canon kw kt kr ks none none none ⟨none, none, none, none, none, xn, xc⟩) : t.toChip.Canon
    kw kt kr ks none none none ⟨none, none, none, none, none, xn, xc⟩ := by
  simp only [exec, execBoathouseMoveComplete, carry, live, act, driven, drivenLive, through, throughLive] at h
  cases h
  repeat' first
    | with_reducible assumption
    | with_reducible apply canon_whenRunning
    | with_reducible apply canon_whenSo
    | with_reducible apply canon_carriedOut
    | with_reducible apply canon_boathouseMoveComplete
    | with_reducible apply canon_ite
    | split
    | intro _

theorem exec_canon_boathouseFetchComplete {kw kt kr ks xn xc} {a0 a1 s t} (h : exec (.boathouseFetchComplete a0 a1) s
    = .next t) (h_s : s.toChip.Canon kw kt kr ks none none none ⟨none, none, none, none, none, xn, xc⟩) :
    t.toChip.Canon kw kt kr ks none none none ⟨none, none, none, none, none, xn, xc⟩ := by
  simp only [exec, execBoathouseFetchComplete, carry, live, act, driven, drivenLive, through, throughLive] at h
  cases h
  repeat' first
    | with_reducible assumption
    | with_reducible apply canon_whenRunning
    | with_reducible apply canon_whenSo
    | with_reducible apply canon_carriedOut
    | with_reducible apply canon_boathouseFetchComplete
    | with_reducible apply canon_ite
    | split
    | intro _

theorem exec_canon_ttlExpiry {kw kt kr ks xn xc} {a0 a1 s t} (h : exec (.ttlExpiry a0 a1) s = .next t) (h_s :
    s.toChip.Canon kw kt kr ks none none none ⟨none, none, none, none, none, xn, xc⟩) : t.toChip.Canon kw kt kr ks
    none none none ⟨none, none, none, none, none, xn, xc⟩ := by
  simp only [exec, execTtlExpiry, carry, live, act, driven, drivenLive, through, throughLive] at h
  cases h
  repeat' first
    | with_reducible assumption
    | with_reducible apply canon_whenRunning
    | with_reducible apply canon_whenSo
    | with_reducible apply canon_carriedOut
    | with_reducible apply canon_ttlExpiry
    | with_reducible apply canon_ite
    | split
    | intro _

theorem exec_canon_memUpdate {kw kt kr ks kv xn xc} {a0 a1 s t} (h : exec (.memUpdate a0 a1) s = .next t) (h_s :
    s.toChip.Canon kw kt kr ks none none kv ⟨none, none, none, none, none, xn, xc⟩) : t.toChip.Canon kw kt kr ks none
    none kv ⟨none, none, none, none, none, xn, xc⟩ := by
  simp only [exec, execMemUpdate, carry, live, act, driven, drivenLive, through, throughLive] at h
  cases h
  repeat' first
    | with_reducible assumption
    | with_reducible apply canon_whenRunning
    | with_reducible apply canon_whenSo
    | with_reducible apply canon_carriedOut
    | with_reducible apply canon_memUpdate
    | with_reducible apply canon_ite
    | split
    | intro _

theorem exec_canon_memFetch {kw kt kr ks kv xn xc} {a0 a1 s t} (h : exec (.memFetch a0 a1) s = .next t) (h_s :
    s.toChip.Canon kw kt kr ks none none kv ⟨none, none, none, none, none, xn, xc⟩) : t.toChip.Canon kw kt kr ks none
    none kv ⟨none, none, none, none, none, xn, xc⟩ := by
  simp only [exec, execMemFetch, carry, live, act, driven, drivenLive, through, throughLive] at h
  cases h
  repeat' first
    | with_reducible assumption
    | with_reducible apply canon_whenRunning
    | with_reducible apply canon_whenSo
    | with_reducible apply canon_carriedOut
    | with_reducible apply canon_memFetch
    | with_reducible apply canon_ite
    | split
    | intro _

theorem exec_canon_srnWrite {kw kt kr ks kv xn xc} {a0 a1 s t} (h : exec (.srnWrite a0 a1) s = .next t) (h_s :
    s.toChip.Canon kw kt kr ks none none kv ⟨none, none, none, none, none, xn, xc⟩) : t.toChip.Canon kw kt kr ks none
    none kv ⟨none, none, none, none, none, xn, xc⟩ := by
  simp only [exec, execSrnWrite, carry, live, act, driven, drivenLive, through, throughLive] at h
  cases h
  repeat' first
    | with_reducible assumption
    | with_reducible apply canon_whenRunning
    | with_reducible apply canon_whenSo
    | with_reducible apply canon_carriedOut
    | with_reducible apply canon_srnWrite
    | with_reducible apply canon_ite
    | split
    | intro _

theorem exec_canon_srnRead {kw kt kr ks kv xn xc} {a0 a1 s t} (h : exec (.srnRead a0 a1) s = .next t) (h_s :
    s.toChip.Canon kw kt kr ks none none kv ⟨none, none, none, none, none, xn, xc⟩) : t.toChip.Canon kw kt kr ks none
    none kv ⟨none, none, none, none, none, xn, xc⟩ := by
  simp only [exec, execSrnRead, carry, live, act, driven, drivenLive, through, throughLive] at h
  cases h
  repeat' first
    | with_reducible assumption
    | with_reducible apply canon_whenRunning
    | with_reducible apply canon_whenSo
    | with_reducible apply canon_carriedOut
    | with_reducible apply canon_srnRead
    | with_reducible apply canon_ite
    | split
    | intro _

theorem exec_canon_srnUpdate {kw kt kr ks kv xn xc} {a0 a1 s t} (h : exec (.srnUpdate a0 a1) s = .next t) (h_s :
    s.toChip.Canon kw kt kr ks none none kv ⟨none, none, none, none, none, xn, xc⟩) : t.toChip.Canon kw kt kr ks none
    none kv ⟨none, none, none, none, none, xn, xc⟩ := by
  simp only [exec, execSrnUpdate, carry, live, act, driven, drivenLive, through, throughLive] at h
  cases h
  repeat' first
    | with_reducible assumption
    | with_reducible apply canon_whenRunning
    | with_reducible apply canon_whenSo
    | with_reducible apply canon_carriedOut
    | with_reducible apply canon_srnUpdate
    | with_reducible apply canon_ite
    | split
    | intro _

theorem exec_canon_srnAllreduce {kw kt kr ks kv xn xc} {a0 a1 s t} (h : exec (.srnAllreduce a0 a1) s = .next t) (h_s :
    s.toChip.Canon kw kt kr ks none none kv ⟨none, none, none, none, none, xn, xc⟩) : t.toChip.Canon kw kt kr ks none
    none kv ⟨none, none, none, none, none, xn, xc⟩ := by
  simp only [exec, execSrnAllreduce, carry, live, act, driven, drivenLive, through, throughLive] at h
  cases h
  repeat' first
    | with_reducible assumption
    | with_reducible apply canon_whenRunning
    | with_reducible apply canon_whenSo
    | with_reducible apply canon_carriedOut
    | with_reducible apply canon_srnAllreduce
    | with_reducible apply canon_ite
    | split
    | intro _

theorem exec_canon_srnSignal {kw kt kr ks kv xn xc} {a0 a1 s t} (h : exec (.srnSignal a0 a1) s = .next t) (h_s :
    s.toChip.Canon kw kt kr ks none none kv ⟨none, none, none, none, none, xn, xc⟩) : t.toChip.Canon kw kt kr ks none
    none kv ⟨none, none, none, none, none, xn, xc⟩ := by
  simp only [exec, execSrnSignal, carry, live, act, driven, drivenLive, through, throughLive] at h
  cases h
  repeat' first
    | with_reducible assumption
    | with_reducible apply canon_whenRunning
    | with_reducible apply canon_whenSo
    | with_reducible apply canon_carriedOut
    | with_reducible apply canon_srnSignal
    | with_reducible apply canon_ite
    | split
    | intro _

theorem exec_canon_srnPacketArrival {kw kt kr ks kv xn xc} {a0 a1 s t} (h : exec (.srnPacketArrival a0 a1) s = .next
    t) (h_s : s.toChip.Canon kw kt kr ks none none kv ⟨none, none, none, none, none, xn, xc⟩) : t.toChip.Canon kw kt
    kr ks none none kv ⟨none, none, none, none, none, xn, xc⟩ := by
  simp only [exec, execSrnPacketArrival, carry, live, act, driven, drivenLive, through, throughLive] at h
  cases h
  repeat' first
    | with_reducible assumption
    | with_reducible apply canon_whenRunning
    | with_reducible apply canon_whenSo
    | with_reducible apply canon_carriedOut
    | with_reducible apply canon_srnPacketArrival
    | with_reducible apply canon_ite
    | split
    | intro _

theorem exec_canon_srnPacketForward {kw kt kr ks km kp kv xb xq xl xh xn xc} {a0 a1 s t} (h : exec (.srnPacketForward
    a0 a1) s = .next t) (h_s : s.toChip.Canon kw kt kr ks km kp kv ⟨xb, xq, xl, none, xh, xn, xc⟩) : t.toChip.Canon kw
    kt kr ks km kp kv ⟨xb, xq, xl, none, xh, xn, xc⟩ := by
  simp only [exec, execSrnPacketForward, carry, live, act, driven, drivenLive, through, throughLive] at h
  cases h
  repeat' first
    | with_reducible assumption
    | with_reducible apply canon_whenRunning
    | with_reducible apply canon_whenSo
    | with_reducible apply canon_carriedOut
    | with_reducible apply canon_srnPacketForward
    | with_reducible apply canon_ite
    | split
    | intro _

theorem exec_canon_srnPacketDiscard {kw kt kr ks km kp kv xb xq xl xh xn xc} {a0 a1 s t} (h : exec (.srnPacketDiscard
    a0 a1) s = .next t) (h_s : s.toChip.Canon kw kt kr ks km kp kv ⟨xb, xq, xl, none, xh, xn, xc⟩) : t.toChip.Canon kw
    kt kr ks km kp kv ⟨xb, xq, xl, none, xh, xn, xc⟩ := by
  simp only [exec, execSrnPacketDiscard, carry, live, act, driven, drivenLive, through, throughLive] at h
  cases h
  repeat' first
    | with_reducible assumption
    | with_reducible apply canon_whenRunning
    | with_reducible apply canon_whenSo
    | with_reducible apply canon_carriedOut
    | with_reducible apply canon_srnPacketDiscard
    | with_reducible apply canon_ite
    | split
    | intro _

theorem exec_canon_srnRefusalArrival {kw kt kr ks kp kv xn xc} {a0 a1 s t} (h : exec (.srnRefusalArrival a0 a1) s =
    .next t) (h_s : s.toChip.Canon kw kt kr ks none kp kv ⟨none, none, none, none, none, xn, xc⟩) : t.toChip.Canon kw
    kt kr ks none kp kv ⟨none, none, none, none, none, xn, xc⟩ := by
  simp only [exec, execSrnRefusalArrival, carry, live, act, driven, drivenLive, through, throughLive] at h
  cases h
  repeat' first
    | with_reducible assumption
    | with_reducible apply canon_whenRunning
    | with_reducible apply canon_whenSo
    | with_reducible apply canon_carriedOut
    | with_reducible apply canon_srnRefusalArrival
    | with_reducible apply canon_ite
    | split
    | intro _

theorem exec_canon_srnAckArrival {kw kt kr ks kv xn xc} {a0 a1 s t} (h : exec (.srnAckArrival a0 a1) s = .next t) (h_s
    : s.toChip.Canon kw kt kr ks none none kv ⟨none, none, none, none, none, xn, xc⟩) : t.toChip.Canon kw kt kr ks
    none none kv ⟨none, none, none, none, none, xn, xc⟩ := by
  simp only [exec, execSrnAckArrival, carry, live, act, driven, drivenLive, through, throughLive] at h
  cases h
  repeat' first
    | with_reducible assumption
    | with_reducible apply canon_whenRunning
    | with_reducible apply canon_whenSo
    | with_reducible apply canon_carriedOut
    | with_reducible apply canon_srnAckArrival
    | with_reducible apply canon_ite
    | split
    | intro _

theorem exec_canon_srnAckTimeout {kw kt kr ks kp kv xn xc} {a0 s t} (h : exec (.srnAckTimeout a0) s = .next t) (h_s :
    s.toChip.Canon kw kt kr ks none kp kv ⟨none, none, none, none, none, xn, xc⟩) : t.toChip.Canon kw kt kr ks none kp
    kv ⟨none, none, none, none, none, xn, xc⟩ := by
  simp only [exec, execSrnAckTimeout, carry, live, act, driven, drivenLive, through, throughLive] at h
  cases h
  repeat' first
    | with_reducible assumption
    | with_reducible apply canon_whenRunning
    | with_reducible apply canon_whenSo
    | with_reducible apply canon_carriedOut
    | with_reducible apply canon_srnAckTimeout
    | with_reducible apply canon_ite
    | split
    | intro _

theorem exec_canon_srnCollTimeout {kw kt kr ks kp kv xn xc} {a0 s t} (h : exec (.srnCollTimeout a0) s = .next t) (h_s
    : s.toChip.Canon kw kt kr ks none kp kv ⟨none, none, none, none, none, xn, xc⟩) : t.toChip.Canon kw kt kr ks none
    kp kv ⟨none, none, none, none, none, xn, xc⟩ := by
  simp only [exec, execSrnCollTimeout, carry, live, act, driven, drivenLive, through, throughLive] at h
  cases h
  repeat' first
    | with_reducible assumption
    | with_reducible apply canon_whenRunning
    | with_reducible apply canon_whenSo
    | with_reducible apply canon_carriedOut
    | with_reducible apply canon_srnCollTimeout
    | with_reducible apply canon_ite
    | split
    | intro _

theorem exec_canon_srnFrameCrcFail {kw kt kr ks km kp kv xb xq xl xn xc} {a0 a1 s t} (h : exec (.srnFrameCrcFail a0
    a1) s = .next t) (h_s : s.toChip.Canon kw kt kr ks km kp kv ⟨xb, xq, xl, none, none, xn, xc⟩) : t.toChip.Canon kw
    kt kr ks km kp kv ⟨xb, xq, xl, none, none, xn, xc⟩ := by
  simp only [exec, execSrnFrameCrcFail, carry, live, act, driven, drivenLive, through, throughLive] at h
  cases h
  repeat' first
    | with_reducible assumption
    | with_reducible apply canon_whenRunning
    | with_reducible apply canon_whenSo
    | with_reducible apply canon_carriedOut
    | with_reducible apply canon_srnFrameCrcFail
    | with_reducible apply canon_ite
    | split
    | intro _

theorem exec_canon_srnRetrainComplete {kw kt kr ks km kp kv xb xq xl xh xn xc} {a0 s t} (h : exec (.srnRetrainComplete
    a0) s = .next t) (h_s : s.toChip.Canon kw kt kr ks km kp kv ⟨xb, xq, xl, none, xh, xn, xc⟩) : t.toChip.Canon kw kt
    kr ks km kp kv ⟨xb, xq, xl, none, xh, xn, xc⟩ := by
  simp only [exec, execSrnRetrainComplete, carry, live, act, driven, drivenLive, through, throughLive] at h
  cases h
  repeat' first
    | with_reducible assumption
    | with_reducible apply canon_whenRunning
    | with_reducible apply canon_whenSo
    | with_reducible apply canon_carriedOut
    | with_reducible apply canon_srnRetrainComplete
    | with_reducible apply canon_ite
    | split
    | intro _

theorem exec_canon_srnTrainingComplete {kw kt kr ks km kp kv xb xq xl xn xc} {a0 s t} (h : exec (.srnTrainingComplete
    a0) s = .next t) (h_s : s.toChip.Canon kw kt kr ks km kp kv ⟨xb, xq, xl, none, none, xn, xc⟩) : t.toChip.Canon kw
    kt kr ks km kp kv ⟨xb, xq, xl, none, none, xn, xc⟩ := by
  simp only [exec, execSrnTrainingComplete, carry, live, act, driven, drivenLive, through, throughLive] at h
  cases h
  repeat' first
    | with_reducible assumption
    | with_reducible apply canon_whenRunning
    | with_reducible apply canon_whenSo
    | with_reducible apply canon_carriedOut
    | with_reducible apply canon_srnTrainingComplete
    | with_reducible apply canon_ite
    | split
    | intro _

theorem exec_canon_crewCardReceived {kw kt kr ks kp kv xn xc} {a0 a1 s t} (h : exec (.crewCardReceived a0 a1) s =
    .next t) (h_s : s.toChip.Canon kw kt kr ks none kp kv ⟨none, none, none, none, none, xn, xc⟩) : t.toChip.Canon kw
    kt kr ks none kp kv ⟨none, none, none, none, none, xn, xc⟩ := by
  simp only [exec, execCrewCardReceived, carry, live, act, driven, drivenLive, through, throughLive] at h
  cases h
  repeat' first
    | with_reducible assumption
    | with_reducible apply canon_whenRunning
    | with_reducible apply canon_whenSo
    | with_reducible apply canon_carriedOut
    | with_reducible apply canon_crewCardReceived
    | with_reducible apply canon_ite
    | split
    | intro _

theorem exec_canon_srnRetrain {kw kt kr ks km kp kv xb xq xl xn xc} {a0 s t} (h : exec (.srnRetrain a0) s = .next t)
    (h_s : s.toChip.Canon kw kt kr ks km kp kv ⟨xb, xq, xl, none, none, xn, xc⟩) : t.toChip.Canon kw kt kr ks km kp kv
    ⟨xb, xq, xl, none, none, xn, xc⟩ := by
  simp only [exec, execSrnRetrain, carry, live, act, driven, drivenLive, through, throughLive] at h
  cases h
  repeat' first
    | with_reducible assumption
    | with_reducible apply canon_whenRunning
    | with_reducible apply canon_whenSo
    | with_reducible apply canon_carriedOut
    | with_reducible apply canon_srnRetrain
    | with_reducible apply canon_ite
    | split
    | intro _

theorem exec_canon_cableInsert {kw kt kr ks km kp kv xb xq xl xn xc} {a0 a1 s t} (h : exec (.cableInsert a0 a1) s =
    .next t) (h_s : s.toChip.Canon kw kt kr ks km kp kv ⟨xb, xq, xl, none, none, xn, xc⟩) : t.toChip.Canon kw kt kr ks
    km kp kv ⟨xb, xq, xl, none, none, xn, xc⟩ := by
  simp only [exec, execCableInsert, carry, live, act, driven, drivenLive, through, throughLive] at h
  cases h
  repeat' first
    | with_reducible assumption
    | with_reducible apply canon_whenRunning
    | with_reducible apply canon_whenSo
    | with_reducible apply canon_carriedOut
    | with_reducible apply canon_cableInsert

theorem exec_canon_cableRemove {kw kt kr ks km kp kv xb xq xl xn xc} {a0 s t} (h : exec (.cableRemove a0) s = .next t)
    (h_s : s.toChip.Canon kw kt kr ks km kp kv ⟨xb, xq, xl, none, none, xn, xc⟩) : t.toChip.Canon kw kt kr ks km kp kv
    ⟨xb, xq, xl, none, none, xn, xc⟩ := by
  simp only [exec, execCableRemove, carry, live, act, driven, drivenLive, through, throughLive] at h
  cases h
  repeat' first
    | with_reducible assumption
    | with_reducible apply canon_whenRunning
    | with_reducible apply canon_whenSo
    | with_reducible apply canon_carriedOut
    | with_reducible apply canon_cableRemove

theorem exec_canon_twinRoleWrite {kw kt kr ks kp xb xn xc} {a0 a1 s t} (h : exec (.twinRoleWrite a0 a1) s = .next t)
    (h_s : s.toChip.Canon kw kt kr ks none kp none ⟨xb, none, none, none, none, xn, xc⟩) : t.toChip.Canon kw kt kr ks
    none kp none ⟨xb, none, none, none, none, xn, xc⟩ := by
  simp only [exec, execTwinRoleWrite, carry, live, act, driven, drivenLive, through, throughLive] at h
  cases h
  repeat' first
    | with_reducible assumption
    | with_reducible apply canon_whenRunning
    | with_reducible apply canon_whenSo
    | with_reducible apply canon_carriedOut
    | with_reducible apply canon_twinRoleWrite
    | with_reducible apply canon_ite
    | split
    | intro _

theorem exec_canon_twinRetireFree {kw kt kr ks kp xb xl xn xc} {a0 s t} (h : exec (.twinRetireFree a0) s = .next t)
    (h_s : s.toChip.Canon kw kt kr ks none kp none ⟨xb, none, xl, none, none, xn, xc⟩) : t.toChip.Canon kw kt kr ks
    none kp none ⟨xb, none, xl, none, none, xn, xc⟩ := by
  simp only [exec, execTwinRetireFree, carry, live, act, driven, drivenLive, through, throughLive] at h
  cases h
  repeat' first
    | with_reducible assumption
    | with_reducible apply canon_whenRunning
    | with_reducible apply canon_whenSo
    | with_reducible apply canon_carriedOut
    | with_reducible apply canon_twinRetireFree
    | with_reducible apply canon_ite
    | split
    | intro _

theorem exec_canon_roleNoticeReceived {kw kt kr ks km kp kv xb xq xl xn xc} {a0 a1 s t} (h : exec (.roleNoticeReceived
    a0 a1) s = .next t) (h_s : s.toChip.Canon kw kt kr ks km kp kv ⟨xb, xq, xl, none, none, xn, xc⟩) : t.toChip.Canon
    kw kt kr ks km kp kv ⟨xb, xq, xl, none, none, xn, xc⟩ := by
  simp only [exec, execRoleNoticeReceived, carry, live, act, driven, drivenLive, through, throughLive] at h
  cases h
  repeat' first
    | with_reducible assumption
    | with_reducible apply canon_whenRunning
    | with_reducible apply canon_whenSo
    | with_reducible apply canon_carriedOut
    | with_reducible apply canon_roleNoticeReceived
    | with_reducible apply canon_ite
    | split
    | intro _

theorem exec_canon_mirrorWriteArrival {kw kt kr ks kp xb xq xl xn xc} {a0 a1 a2 a3 s t} (h : exec (.mirrorWriteArrival
    a0 a1 a2 a3) s = .next t) (h_s : s.toChip.Canon kw kt kr ks none kp none ⟨xb, xq, xl, none, none, xn, xc⟩) :
    t.toChip.Canon kw kt kr ks none kp none ⟨xb, xq, xl, none, none, xn, xc⟩ := by
  simp only [exec, execMirrorWriteArrival, carry, live, act, driven, drivenLive, through, throughLive] at h
  cases h
  repeat' first
    | with_reducible assumption
    | with_reducible apply canon_whenRunning
    | with_reducible apply canon_whenSo
    | with_reducible apply canon_carriedOut
    | with_reducible apply canon_mirrorWriteArrival
    | with_reducible apply canon_ite
    | split
    | intro _

theorem exec_canon_twinLinkLoss {kw kt kr ks km kp kv xb xq xl xn xc} {s t} (h : exec .twinLinkLoss s = .next t) (h_s
    : s.toChip.Canon kw kt kr ks km kp kv ⟨xb, xq, xl, none, none, xn, xc⟩) : t.toChip.Canon kw kt kr ks km kp kv ⟨xb,
    xq, xl, none, none, xn, xc⟩ := by
  simp only [exec, execTwinLinkLoss, carry, live, act, driven, drivenLive, through, throughLive] at h
  cases h
  repeat' first
    | with_reducible assumption
    | with_reducible apply canon_whenRunning
    | with_reducible apply canon_whenSo
    | with_reducible apply canon_carriedOut
    | with_reducible apply canon_twinLinkLoss

theorem exec_canon_place {kw kt kr ks kp kv xn xc} {a0 a1 s t} (h : exec (.place a0 a1) s = .next t) (h_s :
    s.toChip.Canon kw kt kr ks none kp kv ⟨none, none, none, none, none, xn, xc⟩) : t.toChip.Canon kw kt kr ks none kp
    kv ⟨none, none, none, none, none, xn, xc⟩ := by
  simp only [exec, execPlace, carry, live, act, driven, drivenLive, through, throughLive] at h
  cases h
  repeat' first
    | with_reducible assumption
    | with_reducible apply canon_whenRunning
    | with_reducible apply canon_whenSo
    | with_reducible apply canon_carriedOut
    | with_reducible apply canon_mctpPlace

theorem exec_canon_commandFetch {kw kt kr ks kp kv xn xc} {a0 a1 a2 s t} (h : exec (.commandFetch a0 a1 a2) s = .next
    t) (h_s : s.toChip.Canon kw kt kr ks none kp kv ⟨none, none, none, none, none, xn, xc⟩) : t.toChip.Canon kw kt kr
    ks none kp kv ⟨none, none, none, none, none, xn, xc⟩ := by
  simp only [exec, execCommandFetch, carry, live, act, driven, drivenLive, through, throughLive] at h
  cases h
  repeat' first
    | with_reducible assumption
    | with_reducible apply canon_whenRunning
    | with_reducible apply canon_whenSo
    | with_reducible apply canon_carriedOut
    | with_reducible apply canon_commandFetch
    | with_reducible apply canon_ite
    | split
    | intro _

theorem exec_canon_preemptPointReached {kw kt kr ks kv xn xc} {a0 s t} (h : exec (.preemptPointReached a0) s = .next
    t) (h_s : s.toChip.Canon kw kt kr ks none none kv ⟨none, none, none, none, none, xn, xc⟩) : t.toChip.Canon kw kt
    kr ks none none kv ⟨none, none, none, none, none, xn, xc⟩ := by
  simp only [exec, execPreemptPointReached, carry, live, act, driven, drivenLive, through, throughLive] at h
  cases h
  repeat' first
    | with_reducible assumption
    | with_reducible apply canon_whenRunning
    | with_reducible apply canon_whenSo
    | with_reducible apply canon_carriedOut
    | with_reducible apply canon_preemptPointReached
    | with_reducible apply canon_ite
    | split
    | intro _

theorem exec_canon_spillComplete {kw kt kr ks kv xn xc} {a0 s t} (h : exec (.spillComplete a0) s = .next t) (h_s :
    s.toChip.Canon kw kt kr ks none none kv ⟨none, none, none, none, none, xn, xc⟩) : t.toChip.Canon kw kt kr ks none
    none kv ⟨none, none, none, none, none, xn, xc⟩ := by
  simp only [exec, execSpillComplete, carry, live, act, driven, drivenLive, through, throughLive] at h
  cases h
  repeat' first
    | with_reducible assumption
    | with_reducible apply canon_whenRunning
    | with_reducible apply canon_whenSo
    | with_reducible apply canon_carriedOut
    | with_reducible apply canon_spillComplete
    | with_reducible apply canon_ite
    | split
    | intro _

theorem exec_canon_resumeStart {kw kt kr ks km kp kv kx} {a0 s t} (h : exec (.resumeStart a0) s = .next t) (h_s :
    s.toChip.Canon kw kt kr ks km kp kv kx) : t.toChip.Canon kw kt kr ks km kp kv kx := by
  simp only [exec, execResumeStart, carry, live, act, driven, drivenLive, through, throughLive] at h
  cases h
  repeat' first
    | with_reducible assumption
    | with_reducible apply canon_whenRunning
    | with_reducible apply canon_whenSo
    | with_reducible apply canon_carriedOut
    | with_reducible apply canon_resumeStart
    | with_reducible apply canon_ite
    | split
    | intro _

theorem exec_canon_restoreComplete {kw kt kr ks kv xn xc} {a0 s t} (h : exec (.restoreComplete a0) s = .next t) (h_s :
    s.toChip.Canon kw kt kr ks none none kv ⟨none, none, none, none, none, xn, xc⟩) : t.toChip.Canon kw kt kr ks none
    none kv ⟨none, none, none, none, none, xn, xc⟩ := by
  simp only [exec, execRestoreComplete, carry, live, act, driven, drivenLive, through, throughLive] at h
  cases h
  repeat' first
    | with_reducible assumption
    | with_reducible apply canon_whenRunning
    | with_reducible apply canon_whenSo
    | with_reducible apply canon_carriedOut
    | with_reducible apply canon_restoreComplete
    | with_reducible apply canon_ite
    | split
    | intro _

theorem exec_canon_engineDispatch {kw kt kr ks kp kv xn xc} {a0 s t} (h : exec (.engineDispatch a0) s = .next t) (h_s
    : s.toChip.Canon kw kt kr ks none kp kv ⟨none, none, none, none, none, xn, xc⟩) : t.toChip.Canon kw kt kr ks none
    kp kv ⟨none, none, none, none, none, xn, xc⟩ := by
  simp only [exec, execEngineDispatch, carry, live, act, driven, drivenLive, through, throughLive] at h
  cases h
  repeat' first
    | with_reducible assumption
    | with_reducible apply canon_whenRunning
    | with_reducible apply canon_whenSo
    | with_reducible apply canon_carriedOut
    | with_reducible apply canon_engineDispatch
    | with_reducible apply canon_ite
    | split
    | intro _

theorem exec_canon_commandRetire {kw kt kr ks kp kv xn xc} {a0 a1 s t} (h : exec (.commandRetire a0 a1) s = .next t)
    (h_s : s.toChip.Canon kw kt kr ks none kp kv ⟨none, none, none, none, none, xn, xc⟩) : t.toChip.Canon kw kt kr ks
    none kp kv ⟨none, none, none, none, none, xn, xc⟩ := by
  simp only [exec, execCommandRetire, carry, live, act, driven, drivenLive, through, throughLive] at h
  cases h
  repeat' first
    | with_reducible assumption
    | with_reducible apply canon_whenRunning
    | with_reducible apply canon_whenSo
    | with_reducible apply canon_carriedOut
    | with_reducible apply canon_commandRetire
    | with_reducible apply canon_ite
    | split
    | intro _

theorem exec_canon_bankGrant {kw kr ks kv xn xc} {a0 a1 a2 s t} (h : exec (.bankGrant a0 a1 a2) s = .next t) (h_s :
    s.toChip.Canon kw none kr ks none none kv ⟨none, none, none, none, none, xn, xc⟩) : t.toChip.Canon kw none kr ks
    none none kv ⟨none, none, none, none, none, xn, xc⟩ := by
  simp only [exec, execBankGrant, carry, live, act, driven, drivenLive, through, throughLive] at h
  cases h
  repeat' first
    | with_reducible assumption
    | with_reducible apply canon_whenRunning
    | with_reducible apply canon_whenSo
    | with_reducible apply canon_carriedOut
    | with_reducible apply canon_bankGrant
    | with_reducible apply canon_ite
    | split
    | intro _

theorem exec_canon_bankScrubRead {kw kr ks kv xn xc} {a0 a1 s t} (h : exec (.bankScrubRead a0 a1) s = .next t) (h_s :
    s.toChip.Canon kw none kr ks none none kv ⟨none, none, none, none, none, xn, xc⟩) : t.toChip.Canon kw none kr ks
    none none kv ⟨none, none, none, none, none, xn, xc⟩ := by
  simp only [exec, execBankScrubRead, carry, live, act, driven, drivenLive, through, throughLive] at h
  cases h
  repeat' first
    | with_reducible assumption
    | with_reducible apply canon_whenRunning
    | with_reducible apply canon_whenSo
    | with_reducible apply canon_carriedOut
    | with_reducible apply canon_bankScrubRead
    | with_reducible apply canon_ite
    | split
    | intro _

theorem exec_canon_sqDoorbell {kw kt kr ks km kp kv kx} {a0 a1 a2 a3 s t} (h : exec (.sqDoorbell a0 a1 a2 a3) s =
    .next t) (h_s : s.toChip.Canon kw kt kr ks km kp kv kx) : t.toChip.Canon kw kt kr ks km kp kv kx := by
  simp only [exec, execSqDoorbell, carry, live, act, driven, drivenLive, through, throughLive] at h
  cases h
  repeat' first
    | with_reducible assumption
    | with_reducible apply canon_whenRunning
    | with_reducible apply canon_whenSo
    | with_reducible apply canon_carriedOut
    | with_reducible apply canon_sqDoorbell
    | with_reducible apply canon_ite
    | split
    | intro _

theorem exec_canon_queueEnable {kw kt kr ks kp kv xb xl xm xn xc} {a0 a1 a2 s t} (h : exec (.queueEnable a0 a1 a2) s =
    .next t) (h_s : s.toChip.Canon kw kt kr ks none kp kv ⟨xb, none, xl, xm, none, xn, xc⟩) : t.toChip.Canon kw kt kr
    ks none kp kv ⟨xb, none, xl, xm, none, xn, xc⟩ := by
  simp only [exec, execQueueEnable, carry, live, act, driven, drivenLive, through, throughLive] at h
  cases h
  repeat' first
    | with_reducible assumption
    | with_reducible apply canon_whenRunning
    | with_reducible apply canon_whenSo
    | with_reducible apply canon_carriedOut
    | with_reducible apply canon_queueEnable
    | with_reducible apply canon_ite
    | split
    | intro _

theorem exec_canon_queueResume {kw kt kr ks km kp kv kx} {a0 a1 a2 s t} (h : exec (.queueResume a0 a1 a2) s = .next t)
    (h_s : s.toChip.Canon kw kt kr ks km kp kv kx) : t.toChip.Canon kw kt kr ks km kp kv kx := by
  simp only [exec, execQueueResume, carry, live, act, driven, drivenLive, through, throughLive] at h
  cases h
  repeat' first
    | with_reducible assumption
    | with_reducible apply canon_whenRunning
    | with_reducible apply canon_whenSo
    | with_reducible apply canon_carriedOut
    | with_reducible apply canon_queueResume
    | with_reducible apply canon_ite
    | split
    | intro _

theorem exec_canon_queueReset {kw kt kr ks xn xc} {a0 a1 a2 a3 s t} (h : exec (.queueReset a0 a1 a2 a3) s = .next t)
    (h_s : s.toChip.Canon kw kt kr ks none none none ⟨none, none, none, none, none, xn, xc⟩) : t.toChip.Canon kw kt kr
    ks none none none ⟨none, none, none, none, none, xn, xc⟩ := by
  simp only [exec, execQueueReset, carry, live, act, driven, drivenLive, through, throughLive] at h
  cases h
  repeat' first
    | with_reducible assumption
    | with_reducible apply canon_whenRunning
    | with_reducible apply canon_whenSo
    | with_reducible apply canon_carriedOut
    | with_reducible apply canon_queueReset
    | with_reducible apply canon_ite
    | split
    | intro _

theorem exec_canon_sqCqHeadWrite {kw kt kr ks kp kv xb xl xm xn xc} {a0 a1 a2 a3 s t} (h : exec (.sqCqHeadWrite a0 a1
    a2 a3) s = .next t) (h_s : s.toChip.Canon kw kt kr ks none kp kv ⟨xb, none, xl, xm, none, xn, xc⟩) :
    t.toChip.Canon kw kt kr ks none kp kv ⟨xb, none, xl, xm, none, xn, xc⟩ := by
  simp only [exec, execSqCqHeadWrite, carry, live, act, driven, drivenLive, through, throughLive] at h
  cases h
  repeat' first
    | with_reducible assumption
    | with_reducible apply canon_whenRunning
    | with_reducible apply canon_whenSo
    | with_reducible apply canon_carriedOut
    | with_reducible apply canon_sqCqHeadWrite
    | with_reducible apply canon_ite
    | split
    | intro _

theorem exec_canon_sqHostSignal {kw kt kr ks km kp kv xb xl xm xh xn xc} {a0 a1 a2 a3 s t} (h : exec (.sqHostSignal a0
    a1 a2 a3) s = .next t) (h_s : s.toChip.Canon kw kt kr ks km kp kv ⟨xb, none, xl, xm, xh, xn, xc⟩) : t.toChip.Canon
    kw kt kr ks km kp kv ⟨xb, none, xl, xm, xh, xn, xc⟩ := by
  simp only [exec, execSqHostSignal, carry, live, act, driven, drivenLive, through, throughLive] at h
  cases h
  repeat' first
    | with_reducible assumption
    | with_reducible apply canon_whenRunning
    | with_reducible apply canon_whenSo
    | with_reducible apply canon_carriedOut
    | with_reducible apply canon_sqHostSignal
    | with_reducible apply canon_ite
    | split
    | intro _

theorem exec_canon_zeroFillGo {kw kt kr ks km kp kv xb xq xl xm xn xc} {a0 s t} (h : exec (.zeroFillGo a0) s = .next
    t) (h_s : s.toChip.Canon kw kt kr ks km kp kv ⟨xb, xq, xl, xm, none, xn, xc⟩) : t.toChip.Canon kw kt kr ks km kp
    kv ⟨xb, xq, xl, xm, none, xn, xc⟩ := by
  simp only [exec, execZeroFillGo, carry, live, act, driven, drivenLive, through, throughLive] at h
  cases h
  repeat' first
    | with_reducible assumption
    | with_reducible apply canon_whenRunning
    | with_reducible apply canon_whenSo
    | with_reducible apply canon_carriedOut
    | with_reducible apply canon_zeroFillGo
    | with_reducible apply canon_ite
    | split
    | intro _

theorem exec_canon_pwModelLoad {kw kt kr ks kp xb xq xl xn xc} {a0 a1 s t} (h : exec (.pwModelLoad a0 a1) s = .next t)
    (h_s : s.toChip.Canon kw kt kr ks none kp none ⟨xb, xq, xl, none, none, xn, xc⟩) : t.toChip.Canon kw kt kr ks none
    kp none ⟨xb, xq, xl, none, none, xn, xc⟩ := by
  simp only [exec, execPwModelLoad, carry, live, act, driven, drivenLive, through, throughLive] at h
  cases h
  repeat' first
    | with_reducible assumption
    | with_reducible apply canon_whenRunning
    | with_reducible apply canon_whenSo
    | with_reducible apply canon_carriedOut
    | with_reducible apply canon_pwModelLoad
    | with_reducible apply canon_ite
    | split
    | intro _

theorem exec_canon_pwFreeWrite {kw kt kr ks km kp xb xq xl xm xn xc} {a0 a1 a2 s t} (h : exec (.pwFreeWrite a0 a1 a2)
    s = .next t) (h_s : s.toChip.Canon kw kt kr ks km kp none ⟨xb, xq, xl, xm, none, xn, xc⟩) : t.toChip.Canon kw kt
    kr ks km kp none ⟨xb, xq, xl, xm, none, xn, xc⟩ := by
  simp only [exec, execPwFreeWrite, carry, live, act, driven, drivenLive, through, throughLive] at h
  cases h
  repeat' first
    | with_reducible assumption
    | with_reducible apply canon_whenRunning
    | with_reducible apply canon_whenSo
    | with_reducible apply canon_carriedOut
    | with_reducible apply canon_freeWrite
    | with_reducible apply canon_ite
    | split
    | intro _

theorem exec_canon_skvCtxLoad {kw kt kr ks kp kv xb xq xl xn} {a0 a1 s t} (h : exec (.skvCtxLoad a0 a1) s = .next t)
    (h_s : s.toChip.Canon kw kt kr ks none kp kv ⟨xb, xq, xl, none, none, xn, none⟩) : t.toChip.Canon kw kt kr ks none
    kp kv ⟨xb, xq, xl, none, none, xn, none⟩ := by
  simp only [exec, execSkvCtxLoad, carry, live, act, driven, drivenLive, through, throughLive] at h
  cases h
  repeat' first
    | with_reducible assumption
    | with_reducible apply canon_whenRunning
    | with_reducible apply canon_whenSo
    | with_reducible apply canon_carriedOut
    | with_reducible apply canon_skvCtxLoad
    | with_reducible apply canon_ite
    | split
    | intro _

theorem exec_canon_hbmRangeWrite {kw kt kr ks km kp kv kx} {a0 a1 a2 a3 s t} (h : exec (.hbmRangeWrite a0 a1 a2 a3) s
    = .next t) (h_s : s.toChip.Canon kw kt kr ks km kp kv kx) : t.toChip.Canon kw kt kr ks km kp kv kx := by
  simp only [exec, execHbmRangeWrite, carry, live, act, driven, drivenLive, through, throughLive] at h
  cases h
  repeat' first
    | with_reducible assumption
    | with_reducible apply canon_whenRunning
    | with_reducible apply canon_whenSo
    | with_reducible apply canon_carriedOut
    | with_reducible apply canon_hbmRangeWrite
    | with_reducible apply canon_ite
    | split
    | intro _

theorem exec_canon_tbSliceWrite {kw kt km kp kv kx} {a0 s t} (h : exec (.tbSliceWrite a0) s = .next t) (h_s :
    s.toChip.Canon kw kt none none km kp kv kx) : t.toChip.Canon kw kt none none km kp kv kx := by
  simp only [exec, execTbSliceWrite, carry, live, act, driven, drivenLive, through, throughLive] at h
  cases h
  repeat' first
    | with_reducible assumption
    | with_reducible apply canon_whenRunning
    | with_reducible apply canon_whenSo
    | with_reducible apply canon_carriedOut
    | with_reducible apply canon_tbSliceWrite
    | with_reducible apply canon_ite
    | split
    | intro _

theorem exec_canon_girthCfgWrite {kw kt kr ks kv xn xc} {a0 a1 a2 s t} (h : exec (.girthCfgWrite a0 a1 a2) s = .next
    t) (h_s : s.toChip.Canon kw kt kr ks none none kv ⟨none, none, none, none, none, xn, xc⟩) : t.toChip.Canon kw kt
    kr ks none none kv ⟨none, none, none, none, none, xn, xc⟩ := by
  simp only [exec, execGirthCfgWrite, carry, live, act, driven, drivenLive, through, throughLive] at h
  cases h
  repeat' first
    | with_reducible assumption
    | with_reducible apply canon_whenRunning
    | with_reducible apply canon_whenSo
    | with_reducible apply canon_carriedOut
    | with_reducible apply canon_girthCfgWrite
    | with_reducible apply canon_memoryGoes
    | with_reducible apply canon_ite
    | split
    | intro _

theorem exec_canon_girthRefill {kw kt kr ks kv xn xc} {s t} (h : exec .girthRefill s = .next t) (h_s : s.toChip.Canon
    kw kt kr ks none none kv ⟨none, none, none, none, none, xn, xc⟩) : t.toChip.Canon kw kt kr ks none none kv ⟨none,
    none, none, none, none, xn, xc⟩ := by
  simp only [exec, execGirthRefill, carry, live, act, driven, drivenLive, through, throughLive] at h
  cases h
  repeat' first
    | with_reducible assumption
    | with_reducible apply canon_whenRunning
    | with_reducible apply canon_whenSo
    | with_reducible apply canon_carriedOut
    | with_reducible apply canon_girthRefill
    | with_reducible apply canon_memoryGoes
    | with_reducible apply canon_ite
    | split
    | intro _

theorem exec_canon_retireAccept {kw kt ks km kp kv kx} {a0 s t} (h : exec (.retireAccept a0) s = .next t) (h_s :
    s.toChip.Canon kw kt none ks km kp kv kx) : t.toChip.Canon kw kt none ks km kp kv kx := by
  simp only [exec, execRetireAccept, carry, live, act, driven, drivenLive, through, throughLive] at h
  cases h
  repeat' first
    | with_reducible assumption
    | with_reducible apply canon_whenRunning
    | with_reducible apply canon_whenSo
    | with_reducible apply canon_carriedOut
    | with_reducible apply canon_retireAccept
    | with_reducible apply canon_ite
    | split
    | intro _

theorem exec_canon_retireCopyStart {kw kt kr ks km kp kv kx} {a0 s t} (h : exec (.retireCopyStart a0) s = .next t)
    (h_s : s.toChip.Canon kw kt kr ks km kp kv kx) : t.toChip.Canon kw kt kr ks km kp kv kx := by
  simp only [exec, execRetireCopyStart, carry, live, act, driven, drivenLive, through, throughLive] at h
  cases h
  repeat' first
    | with_reducible assumption
    | with_reducible apply canon_whenRunning
    | with_reducible apply canon_whenSo
    | with_reducible apply canon_carriedOut
    | with_reducible apply canon_retireCopyStart
    | with_reducible apply canon_ite
    | split
    | intro _

theorem exec_canon_retireCopyComplete {kw kt xn xc} {a0 a1 s t} (h : exec (.retireCopyComplete a0 a1) s = .next t)
    (h_s : s.toChip.Canon kw kt none none none none none ⟨none, none, none, none, none, xn, xc⟩) : t.toChip.Canon kw
    kt none none none none none ⟨none, none, none, none, none, xn, xc⟩ := by
  simp only [exec, execRetireCopyComplete, carry, live, act, driven, drivenLive, through, throughLive] at h
  cases h
  repeat' first
    | with_reducible assumption
    | with_reducible apply canon_whenRunning
    | with_reducible apply canon_whenSo
    | with_reducible apply canon_carriedOut
    | with_reducible apply canon_retireCopyComplete
    | with_reducible apply canon_memoryGoes
    | with_reducible apply canon_standbyRetry
    | with_reducible apply canon_ite
    | split
    | intro _

theorem exec_canon_patrolScrubRead {kw kr ks kp kv xb xq xl xm xn xc} {a0 a1 s t} (h : exec (.patrolScrubRead a0 a1) s
    = .next t) (h_s : s.toChip.Canon kw none kr ks none kp kv ⟨xb, xq, xl, xm, none, xn, xc⟩) : t.toChip.Canon kw none
    kr ks none kp kv ⟨xb, xq, xl, xm, none, xn, xc⟩ := by
  simp only [exec, execPatrolScrubRead, carry, live, act, driven, drivenLive, through, throughLive] at h
  cases h
  repeat' first
    | with_reducible assumption
    | with_reducible apply canon_whenRunning
    | with_reducible apply canon_whenSo
    | with_reducible apply canon_carriedOut
    | with_reducible apply canon_patrolScrubRead
    | with_reducible apply canon_ite
    | split
    | intro _

theorem exec_canon_tbSelfRefreshEntry {kw kt kr ks km kp kv kx} {s t} (h : exec .tbSelfRefreshEntry s = .next t) (h_s
    : s.toChip.Canon kw kt kr ks km kp kv kx) : t.toChip.Canon kw kt kr ks km kp kv kx := by
  simp only [exec, execTbSelfRefreshEntry, carry, live, act, driven, drivenLive, through, throughLive] at h
  cases h
  repeat' first
    | with_reducible assumption
    | with_reducible apply canon_whenRunning
    | with_reducible apply canon_whenSo
    | with_reducible apply canon_carriedOut
    | with_reducible apply canon_tbSelfRefreshEntry

theorem exec_canon_tierInitComplete {kw kt kr ks kv xn xc} {a0 s t} (h : exec (.tierInitComplete a0) s = .next t) (h_s
    : s.toChip.Canon kw kt kr ks none none kv ⟨none, none, none, none, none, xn, xc⟩) : t.toChip.Canon kw kt kr ks
    none none kv ⟨none, none, none, none, none, xn, xc⟩ := by
  simp only [exec, execTierInitComplete, carry, live, act, driven, drivenLive, through, throughLive] at h
  cases h
  repeat' first
    | with_reducible assumption
    | with_reducible apply canon_whenRunning
    | with_reducible apply canon_whenSo
    | with_reducible apply canon_carriedOut
    | with_reducible apply canon_tierInitComplete
    | with_reducible apply canon_memoryGoes
    | with_reducible apply canon_ite
    | split
    | intro _

theorem exec_canon_releaseScrubComplete {kw kt ks kp xb xm xn xc} {a0 a1 s t} (h : exec (.releaseScrubComplete a0 a1)
    s = .next t) (h_s : s.toChip.Canon kw kt none ks none kp none ⟨xb, none, none, xm, none, xn, xc⟩) : t.toChip.Canon
    kw kt none ks none kp none ⟨xb, none, none, xm, none, xn, xc⟩ := by
  simp only [exec, execReleaseScrubComplete, carry, live, act, driven, drivenLive, through, throughLive] at h
  cases h
  repeat' first
    | with_reducible assumption
    | with_reducible apply canon_whenRunning
    | with_reducible apply canon_whenSo
    | with_reducible apply canon_carriedOut
    | with_reducible apply canon_releaseScrubComplete
    | with_reducible apply canon_ite
    | split
    | intro _

theorem exec_canon_create {kw kt kr ks km kp kv kx} {a0 s t} (h : exec (.create a0) s = .next t) (h_s : s.toChip.Canon
    kw kt kr ks km kp kv kx) : t.toChip.Canon kw kt kr ks km kp kv kx := by
  simp only [exec, execCreate, carry, live, act, driven, drivenLive, through, throughLive] at h
  cases h
  repeat' first
    | with_reducible assumption
    | with_reducible apply canon_whenRunning
    | with_reducible apply canon_whenSo
    | with_reducible apply canon_carriedOut
    | with_reducible apply canon_create
    | with_reducible apply canon_ite
    | split
    | intro _

theorem exec_canon_partitionCreated {kw kt kr km kp kv xb xl xm xn xc} {a0 s t} (h : exec (.partitionCreated a0) s =
    .next t) (h_s : s.toChip.Canon kw kt kr none km kp kv ⟨xb, none, xl, xm, none, xn, xc⟩) : t.toChip.Canon kw kt kr
    none km kp kv ⟨xb, none, xl, xm, none, xn, xc⟩ := by
  simp only [exec, execPartitionCreated, carry, live, act, driven, drivenLive, through, throughLive] at h
  cases h
  repeat' first
    | with_reducible assumption
    | with_reducible apply canon_whenRunning
    | with_reducible apply canon_whenSo
    | with_reducible apply canon_carriedOut
    | with_reducible apply canon_partitionCreated
    | with_reducible apply canon_ite
    | split
    | intro _

theorem exec_canon_partitionReset {kw kt kr ks kp xn xc} {a0 a1 s t} (h : exec (.partitionReset a0 a1) s = .next t)
    (h_s : s.toChip.Canon kw kt kr ks none kp none ⟨none, none, none, none, none, xn, xc⟩) : t.toChip.Canon kw kt kr
    ks none kp none ⟨none, none, none, none, none, xn, xc⟩ := by
  simp only [exec, execPartitionReset, carry, live, act, driven, drivenLive, through, throughLive] at h
  cases h
  repeat' first
    | with_reducible assumption
    | with_reducible apply canon_whenRunning
    | with_reducible apply canon_whenSo
    | with_reducible apply canon_carriedOut
    | with_reducible apply canon_partitionReset
    | with_reducible apply canon_ite
    | split
    | intro _

theorem exec_canon_release {kw kt kr ks kp xn xc} {a0 s t} (h : exec (.release a0) s = .next t) (h_s : s.toChip.Canon
    kw kt kr ks none kp none ⟨none, none, none, none, none, xn, xc⟩) : t.toChip.Canon kw kt kr ks none kp none ⟨none,
    none, none, none, none, xn, xc⟩ := by
  simp only [exec, execRelease, carry, live, act, driven, drivenLive, through, throughLive] at h
  cases h
  repeat' first
    | with_reducible assumption
    | with_reducible apply canon_whenRunning
    | with_reducible apply canon_whenSo
    | with_reducible apply canon_carriedOut
    | with_reducible apply canon_release
    | with_reducible apply canon_ite
    | split
    | intro _

theorem exec_canon_reclaim {kw kt kr ks kp xn xc} {a0 a1 s t} (h : exec (.reclaim a0 a1) s = .next t) (h_s :
    s.toChip.Canon kw kt kr ks none kp none ⟨none, none, none, none, none, xn, xc⟩) : t.toChip.Canon kw kt kr ks none
    kp none ⟨none, none, none, none, none, xn, xc⟩ := by
  simp only [exec, execReclaim, carry, live, act, driven, drivenLive, through, throughLive] at h
  cases h
  repeat' first
    | with_reducible assumption
    | with_reducible apply canon_whenRunning
    | with_reducible apply canon_whenSo
    | with_reducible apply canon_carriedOut
    | with_reducible apply canon_reclaim
    | with_reducible apply canon_ite
    | split
    | intro _

theorem exec_canon_teardown {kw kt kr ks kp xn xc} {a0 s t} (h : exec (.teardown a0) s = .next t) (h_s :
    s.toChip.Canon kw kt kr ks none kp none ⟨none, none, none, none, none, xn, xc⟩) : t.toChip.Canon kw kt kr ks none
    kp none ⟨none, none, none, none, none, xn, xc⟩ := by
  simp only [exec, execTeardown, carry, live, act, driven, drivenLive, through, throughLive] at h
  cases h
  repeat' first
    | with_reducible assumption
    | with_reducible apply canon_whenRunning
    | with_reducible apply canon_whenSo
    | with_reducible apply canon_carriedOut
    | with_reducible apply canon_teardown
    | with_reducible apply canon_ite
    | split
    | intro _

theorem exec_canon_holdExpiry {kw kt kr ks kp xn xc} {a0 s t} (h : exec (.holdExpiry a0) s = .next t) (h_s :
    s.toChip.Canon kw kt kr ks none kp none ⟨none, none, none, none, none, xn, xc⟩) : t.toChip.Canon kw kt kr ks none
    kp none ⟨none, none, none, none, none, xn, xc⟩ := by
  simp only [exec, execHoldExpiry, carry, live, act, driven, drivenLive, through, throughLive] at h
  cases h
  repeat' first
    | with_reducible assumption
    | with_reducible apply canon_whenRunning
    | with_reducible apply canon_whenSo
    | with_reducible apply canon_carriedOut
    | with_reducible apply canon_holdExpiry
    | with_reducible apply canon_ite
    | split
    | intro _

theorem exec_canon_functionLevelReset {kw kt kr ks kp xn xc} {a0 a1 a2 s t} (h : exec (.functionLevelReset a0 a1 a2) s
    = .next t) (h_s : s.toChip.Canon kw kt kr ks none kp none ⟨none, none, none, none, none, xn, xc⟩) : t.toChip.Canon
    kw kt kr ks none kp none ⟨none, none, none, none, none, xn, xc⟩ := by
  simp only [exec, execFunctionLevelReset, carry, live, act, driven, drivenLive, through, throughLive] at h
  cases h
  repeat' first
    | with_reducible assumption
    | with_reducible apply canon_whenRunning
    | with_reducible apply canon_whenSo
    | with_reducible apply canon_carriedOut
    | with_reducible apply canon_functionLevelReset

theorem exec_canon_perstAssert {kw kt kr ks kp xn xc} {a0 a1 s t} (h : exec (.perstAssert a0 a1) s = .next t) (h_s :
    s.toChip.Canon kw kt kr ks none kp none ⟨none, none, none, none, none, xn, xc⟩) : t.toChip.Canon kw kt kr ks none
    kp none ⟨none, none, none, none, none, xn, xc⟩ := by
  simp only [exec, execPerstAssert, carry, live, act, driven, drivenLive, through, throughLive] at h
  cases h
  repeat' first
    | with_reducible assumption
    | with_reducible apply canon_whenRunning
    | with_reducible apply canon_whenSo
    | with_reducible apply canon_carriedOut
    | with_reducible apply canon_perstAssert

theorem exec_canon_perstDeassert {kw kt kr km kp kv xb xq xl xm xn xc} {a0 a1 s t} (h : exec (.perstDeassert a0 a1) s
    = .next t) (h_s : s.toChip.Canon kw kt kr none km kp kv ⟨xb, xq, xl, xm, none, xn, xc⟩) : t.toChip.Canon kw kt kr
    none km kp kv ⟨xb, xq, xl, xm, none, xn, xc⟩ := by
  simp only [exec, execPerstDeassert, carry, live, act, driven, drivenLive, through, throughLive] at h
  cases h
  repeat' first
    | with_reducible assumption
    | with_reducible apply canon_whenRunning
    | with_reducible apply canon_whenSo
    | with_reducible apply canon_carriedOut
    | with_reducible apply canon_perstDeassert

theorem exec_canon_surpriseLinkLoss {kw kt kr ks kp xn xc} {a0 s t} (h : exec (.surpriseLinkLoss a0) s = .next t) (h_s
    : s.toChip.Canon kw kt kr ks none kp none ⟨none, none, none, none, none, xn, xc⟩) : t.toChip.Canon kw kt kr ks
    none kp none ⟨none, none, none, none, none, xn, xc⟩ := by
  simp only [exec, execSurpriseLinkLoss, carry, live, act, driven, drivenLive, through, throughLive] at h
  cases h
  repeat' first
    | with_reducible assumption
    | with_reducible apply canon_whenRunning
    | with_reducible apply canon_whenSo
    | with_reducible apply canon_carriedOut
    | with_reducible apply canon_surpriseLinkLoss

theorem exec_canon_linkUp {kw kt kr ks km kp kv xb xq xl xm xn xc} {a0 a1 a2 a3 s t} (h : exec (.linkUp a0 a1 a2 a3) s
    = .next t) (h_s : s.toChip.Canon kw kt kr ks km kp kv ⟨xb, xq, xl, xm, none, xn, xc⟩) : t.toChip.Canon kw kt kr ks
    km kp kv ⟨xb, xq, xl, xm, none, xn, xc⟩ := by
  simp only [exec, execLinkUp, carry, live, act, driven, drivenLive, through, throughLive] at h
  cases h
  repeat' first
    | with_reducible assumption
    | with_reducible apply canon_whenRunning
    | with_reducible apply canon_whenSo
    | with_reducible apply canon_carriedOut
    | with_reducible apply canon_linkUp

theorem exec_canon_hostCompletionTimeout {kw kt kr ks xn xc} {a0 s t} (h : exec (.hostCompletionTimeout a0) s = .next
    t) (h_s : s.toChip.Canon kw kt kr ks none none none ⟨none, none, none, none, none, xn, xc⟩) : t.toChip.Canon kw kt
    kr ks none none none ⟨none, none, none, none, none, xn, xc⟩ := by
  simp only [exec, execHostCompletionTimeout, carry, live, act, driven, drivenLive, through, throughLive] at h
  cases h
  repeat' first
    | with_reducible assumption
    | with_reducible apply canon_whenRunning
    | with_reducible apply canon_whenSo
    | with_reducible apply canon_carriedOut
    | with_reducible apply canon_hostCompletionTimeout
    | with_reducible apply canon_ite
    | split
    | intro _

theorem exec_canon_configRequest {kw kt kr ks xn xc} {a0 a1 a2 s t} (h : exec (.configRequest a0 a1 a2) s = .next t)
    (h_s : s.toChip.Canon kw kt kr ks none none none ⟨none, none, none, none, none, xn, xc⟩) : t.toChip.Canon kw kt kr
    ks none none none ⟨none, none, none, none, none, xn, xc⟩ := by
  simp only [exec, execConfigRequest, carry, live, act, driven, drivenLive, through, throughLive] at h
  cases h
  repeat' first
    | with_reducible assumption
    | with_reducible apply canon_whenRunning
    | with_reducible apply canon_whenSo
    | with_reducible apply canon_carriedOut
    | with_reducible apply canon_configRequest

theorem exec_canon_bar2Read {kw kt kr ks kp kv xb xq xl xm xn xc} {a0 a1 a2 a3 s t} (h : exec (.bar2Read a0 a1 a2 a3)
    s = .next t) (h_s : s.toChip.Canon kw kt kr ks none kp kv ⟨xb, xq, xl, xm, none, xn, xc⟩) : t.toChip.Canon kw kt
    kr ks none kp kv ⟨xb, xq, xl, xm, none, xn, xc⟩ := by
  simp only [exec, execBar2Read, carry, live, act, driven, drivenLive, through, throughLive] at h
  cases h
  repeat' first
    | with_reducible assumption
    | with_reducible apply canon_whenRunning
    | with_reducible apply canon_whenSo
    | with_reducible apply canon_carriedOut
    | with_reducible apply canon_bar2Read

theorem exec_canon_bar2Write {kw kt kr ks kp kv kx} {a0 a1 a2 a3 s t} (h : exec (.bar2Write a0 a1 a2 a3) s = .next t)
    (h_s : s.toChip.Canon kw kt kr ks none kp kv kx) : t.toChip.Canon kw kt kr ks none kp kv kx := by
  simp only [exec, execBar2Write, carry, live, act, driven, drivenLive, through, throughLive] at h
  cases h
  repeat' first
    | with_reducible assumption
    | with_reducible apply canon_whenRunning
    | with_reducible apply canon_whenSo
    | with_reducible apply canon_carriedOut
    | with_reducible apply canon_bar2Write

theorem exec_canon_spadWindowRead {kw kt kr ks kv xn xc} {a0 a1 a2 a3 s t} (h : exec (.spadWindowRead a0 a1 a2 a3) s =
    .next t) (h_s : s.toChip.Canon kw kt kr ks none none kv ⟨none, none, none, none, none, xn, xc⟩) : t.toChip.Canon
    kw kt kr ks none none kv ⟨none, none, none, none, none, xn, xc⟩ := by
  simp only [exec, execSpadWindowRead, carry, live, act, driven, drivenLive, through, throughLive] at h
  cases h
  repeat' first
    | with_reducible assumption
    | with_reducible apply canon_whenRunning
    | with_reducible apply canon_whenSo
    | with_reducible apply canon_carriedOut
    | with_reducible apply canon_spadWindowRead

theorem exec_canon_spadWindowWrite {kw kt kr ks kv xn xc} {a0 a1 a2 a3 s t} (h : exec (.spadWindowWrite a0 a1 a2 a3) s
    = .next t) (h_s : s.toChip.Canon kw kt kr ks none none kv ⟨none, none, none, none, none, xn, xc⟩) : t.toChip.Canon
    kw kt kr ks none none kv ⟨none, none, none, none, none, xn, xc⟩ := by
  simp only [exec, execSpadWindowWrite, carry, live, act, driven, drivenLive, through, throughLive] at h
  cases h
  repeat' first
    | with_reducible assumption
    | with_reducible apply canon_whenRunning
    | with_reducible apply canon_whenSo
    | with_reducible apply canon_carriedOut
    | with_reducible apply canon_spadWindowWrite

theorem exec_canon_atomicOpRequest {kw kt kr ks km kp kv xb xq xl xm xn xc} {a0 a1 s t} (h : exec (.atomicOpRequest a0
    a1) s = .next t) (h_s : s.toChip.Canon kw kt kr ks km kp kv ⟨xb, xq, xl, xm, none, xn, xc⟩) : t.toChip.Canon kw kt
    kr ks km kp kv ⟨xb, xq, xl, xm, none, xn, xc⟩ := by
  simp only [exec, execAtomicOpRequest, carry, live, act, driven, drivenLive, through, throughLive] at h
  cases h
  repeat' first
    | with_reducible assumption
    | with_reducible apply canon_whenRunning
    | with_reducible apply canon_whenSo
    | with_reducible apply canon_carriedOut
    | with_reducible apply canon_atomicOpRequest

theorem exec_canon_ideIntegrityFail {kw kt kr km kp kv xb xq xl xm xn xc} {a0 a1 s t} (h : exec (.ideIntegrityFail a0
    a1) s = .next t) (h_s : s.toChip.Canon kw kt kr none km kp kv ⟨xb, xq, xl, xm, none, xn, xc⟩) : t.toChip.Canon kw
    kt kr none km kp kv ⟨xb, xq, xl, xm, none, xn, xc⟩ := by
  simp only [exec, execIdeIntegrityFail, carry, live, act, driven, drivenLive, through, throughLive] at h
  cases h
  repeat' first
    | with_reducible assumption
    | with_reducible apply canon_whenRunning
    | with_reducible apply canon_whenSo
    | with_reducible apply canon_carriedOut
    | with_reducible apply canon_ideIntegrityFail

theorem exec_canon_ideKm {kw kt kr km kp kv xb xq xl xm xn xc} {a0 a1 a2 s t} (h : exec (.ideKm a0 a1 a2) s = .next t)
    (h_s : s.toChip.Canon kw kt kr none km kp kv ⟨xb, xq, xl, xm, none, xn, xc⟩) : t.toChip.Canon kw kt kr none km kp
    kv ⟨xb, xq, xl, xm, none, xn, xc⟩ := by
  simp only [exec, execIdeKm, carry, live, act, driven, drivenLive, through, throughLive] at h
  cases h
  repeat' first
    | with_reducible assumption
    | with_reducible apply canon_whenRunning
    | with_reducible apply canon_whenSo
    | with_reducible apply canon_carriedOut
    | with_reducible apply canon_ideKm

theorem exec_canon_spdmRequest {kw kt kr km kp kv kx} {a0 a1 s t} (h : exec (.spdmRequest a0 a1) s = .next t) (h_s :
    s.toChip.Canon kw kt kr none km kp kv kx) : t.toChip.Canon kw kt kr none km kp kv kx := by
  simp only [exec, execSpdmRequest, carry, live, act, driven, drivenLive, through, throughLive] at h
  cases h
  repeat' first
    | with_reducible assumption
    | with_reducible apply canon_whenRunning
    | with_reducible apply canon_whenSo
    | with_reducible apply canon_carriedOut
    | with_reducible apply canon_spdmRequest

theorem exec_canon_secSvnCommit {kw kt kr km kp kv kx} {s t} (h : exec .secSvnCommit s = .next t) (h_s :
    s.toChip.Canon kw kt kr none km kp kv kx) : t.toChip.Canon kw kt kr none km kp kv kx := by
  simp only [exec, execSecSvnCommit, carry, live, act, driven, drivenLive, through, throughLive] at h
  cases h
  repeat' first
    | with_reducible assumption
    | with_reducible apply canon_whenRunning
    | with_reducible apply canon_whenSo
    | with_reducible apply canon_carriedOut
    | with_reducible apply canon_secSvnCommit

theorem exec_canon_openOperator {kw kt kr km kp kv xb xq xl xm xn xc} {s t} (h : exec .openOperator s = .next t) (h_s
    : s.toChip.Canon kw kt kr none km kp kv ⟨xb, xq, xl, xm, none, xn, xc⟩) : t.toChip.Canon kw kt kr none km kp kv
    ⟨xb, xq, xl, xm, none, xn, xc⟩ := by
  simp only [exec, execOpenOperator, carry, live, act, driven, drivenLive, through, throughLive] at h
  cases h
  repeat' first
    | with_reducible assumption
    | with_reducible apply canon_whenRunning
    | with_reducible apply canon_whenSo
    | with_reducible apply canon_carriedOut
    | with_reducible apply canon_openOperator

theorem exec_canon_closeOperator {kw kt kr km kp kv xb xq xl xm xn xc} {s t} (h : exec .closeOperator s = .next t)
    (h_s : s.toChip.Canon kw kt kr none km kp kv ⟨xb, xq, xl, xm, none, xn, xc⟩) : t.toChip.Canon kw kt kr none km kp
    kv ⟨xb, xq, xl, xm, none, xn, xc⟩ := by
  simp only [exec, execCloseOperator, carry, live, act, driven, drivenLive, through, throughLive] at h
  cases h
  repeat' first
    | with_reducible assumption
    | with_reducible apply canon_whenRunning
    | with_reducible apply canon_whenSo
    | with_reducible apply canon_carriedOut
    | with_reducible apply canon_closeOperator

theorem exec_canon_nonceNew {kw kt kr km kp kv kx} {s t} (h : exec .nonceNew s = .next t) (h_s : s.toChip.Canon kw kt
    kr none km kp kv kx) : t.toChip.Canon kw kt kr none km kp kv kx := by
  simp only [exec, execNonceNew, carry, live, act, driven, drivenLive, through, throughLive] at h
  cases h
  repeat' first
    | with_reducible assumption
    | with_reducible apply canon_whenRunning
    | with_reducible apply canon_whenSo
    | with_reducible apply canon_carriedOut
    | with_reducible apply canon_nonceNew

theorem exec_canon_token {kw kt kr kp xn xc} {a0 a1 s t} (h : exec (.token a0 a1) s = .next t) (h_s : s.toChip.Canon
    kw kt kr none none kp none ⟨none, none, none, none, none, xn, xc⟩) : t.toChip.Canon kw kt kr none none kp none
    ⟨none, none, none, none, none, xn, xc⟩ := by
  simp only [exec, execToken, carry, live, act, driven, drivenLive, through, throughLive] at h
  cases h
  repeat' first
    | with_reducible assumption
    | with_reducible apply canon_whenRunning
    | with_reducible apply canon_whenSo
    | with_reducible apply canon_carriedOut
    | with_reducible apply canon_token
    | with_reducible apply canon_standbyRetry
    | with_reducible apply canon_ite
    | split
    | intro _

theorem exec_canon_supplement {kw kt kr kp xn xc} {a0 a1 s t} (h : exec (.supplement a0 a1) s = .next t) (h_s :
    s.toChip.Canon kw kt kr none none kp none ⟨none, none, none, none, none, xn, xc⟩) : t.toChip.Canon kw kt kr none
    none kp none ⟨none, none, none, none, none, xn, xc⟩ := by
  simp only [exec, execSupplement, carry, live, act, driven, drivenLive, through, throughLive] at h
  cases h
  repeat' first
    | with_reducible assumption
    | with_reducible apply canon_whenRunning
    | with_reducible apply canon_whenSo
    | with_reducible apply canon_carriedOut
    | with_reducible apply canon_supplement
    | with_reducible apply canon_standbyRetry
    | with_reducible apply canon_ite
    | split
    | intro _

theorem exec_canon_debugRead {kw kt kr kv xn xc} {a0 s t} (h : exec (.debugRead a0) s = .next t) (h_s : s.toChip.Canon
    kw kt kr none none none kv ⟨none, none, none, none, none, xn, xc⟩) : t.toChip.Canon kw kt kr none none none kv
    ⟨none, none, none, none, none, xn, xc⟩ := by
  simp only [exec, execDebugRead, carry, live, act, driven, drivenLive, through, throughLive] at h
  cases h
  repeat' first
    | with_reducible assumption
    | with_reducible apply canon_whenRunning
    | with_reducible apply canon_whenSo
    | with_reducible apply canon_carriedOut
    | with_reducible apply canon_debugRead
    | with_reducible apply canon_ite
    | split
    | intro _

theorem exec_canon_bootChain {kw kt kr km kp kv xb xq xl xn xc} {s t} (h : exec .bootChain s = .next t) (h_s :
    s.toChip.Canon kw kt kr none km kp kv ⟨xb, xq, xl, none, none, xn, xc⟩) : t.toChip.Canon kw kt kr none km kp kv
    ⟨xb, xq, xl, none, none, xn, xc⟩ := by
  simp only [exec, execBootChain, carry, live, act, driven, drivenLive, through, throughLive] at h
  cases h
  repeat' first
    | with_reducible assumption
    | with_reducible apply canon_whenRunning
    | with_reducible apply canon_whenSo
    | with_reducible apply canon_carriedOut
    | with_reducible apply canon_bootChain

theorem exec_canon_faultRecordArrival {kw kt kr ks xn xc} {a0 a1 s t} (h : exec (.faultRecordArrival a0 a1) s = .next
    t) (h_s : s.toChip.Canon kw kt kr ks none none none ⟨none, none, none, none, none, xn, xc⟩) : t.toChip.Canon kw kt
    kr ks none none none ⟨none, none, none, none, none, xn, xc⟩ := by
  simp only [exec, execFaultRecordArrival, carry, live, act, driven, drivenLive, through, throughLive] at h
  cases h
  repeat' first
    | with_reducible assumption
    | with_reducible apply canon_whenRunning
    | with_reducible apply canon_whenSo
    | with_reducible apply canon_carriedOut
    | with_reducible apply canon_faultRecordArrival

theorem exec_canon_faultPulseEnd {kw kt kr ks km kp kv kx} {s t} (h : exec .faultPulseEnd s = .next t) (h_s :
    s.toChip.Canon kw kt kr ks km kp kv kx) : t.toChip.Canon kw kt kr ks km kp kv kx := by
  simp only [exec, execFaultPulseEnd, carry, live, act, driven, drivenLive, through, throughLive] at h
  cases h
  repeat' first
    | with_reducible assumption
    | with_reducible apply canon_whenRunning
    | with_reducible apply canon_whenSo
    | with_reducible apply canon_carriedOut
    | with_reducible apply canon_faultPulseEnd

theorem exec_canon_graceExpiry {kw kt kr ks xn xc} {a0 s t} (h : exec (.graceExpiry a0) s = .next t) (h_s :
    s.toChip.Canon kw kt kr ks none none none ⟨none, none, none, none, none, xn, xc⟩) : t.toChip.Canon kw kt kr ks
    none none none ⟨none, none, none, none, none, xn, xc⟩ := by
  simp only [exec, execGraceExpiry, carry, live, act, driven, drivenLive, through, throughLive] at h
  cases h
  repeat' first
    | with_reducible assumption
    | with_reducible apply canon_whenRunning
    | with_reducible apply canon_whenSo
    | with_reducible apply canon_carriedOut
    | with_reducible apply canon_graceExpiry

theorem exec_canon_fcAck {kw kt kr ks xn xc} {a0 s t} (h : exec (.fcAck a0) s = .next t) (h_s : s.toChip.Canon kw kt
    kr ks none none none ⟨none, none, none, none, none, xn, xc⟩) : t.toChip.Canon kw kt kr ks none none none ⟨none,
    none, none, none, none, xn, xc⟩ := by
  simp only [exec, execFcAck, carry, live, act, driven, drivenLive, through, throughLive] at h
  cases h
  repeat' first
    | with_reducible assumption
    | with_reducible apply canon_whenRunning
    | with_reducible apply canon_whenSo
    | with_reducible apply canon_carriedOut
    | with_reducible apply canon_fcAck
    | with_reducible apply canon_ite
    | split
    | intro _

theorem exec_canon_fenceRelease {kw kt kr ks km kp kv xq xl xm xh xn xc} {a0 s t} (h : exec (.fenceRelease a0) s =
    .next t) (h_s : s.toChip.Canon kw kt kr ks km kp kv ⟨none, xq, xl, xm, xh, xn, xc⟩) : t.toChip.Canon kw kt kr ks
    km kp kv ⟨none, xq, xl, xm, xh, xn, xc⟩ := by
  simp only [exec, execFenceRelease, carry, live, act, driven, drivenLive, through, throughLive] at h
  cases h
  repeat' first
    | with_reducible assumption
    | with_reducible apply canon_whenRunning
    | with_reducible apply canon_whenSo
    | with_reducible apply canon_carriedOut
    | with_reducible apply canon_fenceRelease
    | with_reducible apply canon_ite
    | split
    | intro _

theorem exec_canon_fenceTestComplete {kw kt kr ks kp kv xn xc} {a0 s t} (h : exec (.fenceTestComplete a0) s = .next t)
    (h_s : s.toChip.Canon kw kt kr ks none kp kv ⟨none, none, none, none, none, xn, xc⟩) : t.toChip.Canon kw kt kr ks
    none kp kv ⟨none, none, none, none, none, xn, xc⟩ := by
  simp only [exec, execFenceTestComplete, carry, live, act, driven, drivenLive, through, throughLive] at h
  cases h
  repeat' first
    | with_reducible assumption
    | with_reducible apply canon_whenRunning
    | with_reducible apply canon_whenSo
    | with_reducible apply canon_carriedOut
    | with_reducible apply canon_fenceTestComplete

theorem exec_canon_d2dCrcRetry {kw kt kr ks xn xc} {a0 a1 s t} (h : exec (.d2dCrcRetry a0 a1) s = .next t) (h_s :
    s.toChip.Canon kw kt kr ks none none none ⟨none, none, none, none, none, xn, xc⟩) : t.toChip.Canon kw kt kr ks
    none none none ⟨none, none, none, none, none, xn, xc⟩ := by
  simp only [exec, execD2dCrcRetry, carry, live, act, driven, drivenLive, through, throughLive] at h
  cases h
  repeat' first
    | with_reducible assumption
    | with_reducible apply canon_whenRunning
    | with_reducible apply canon_whenSo
    | with_reducible apply canon_carriedOut
    | with_reducible apply canon_d2dCrcRetry

theorem exec_canon_d2dRetrainComplete {kw kt kr ks xn xc} {a0 a1 s t} (h : exec (.d2dRetrainComplete a0 a1) s = .next
    t) (h_s : s.toChip.Canon kw kt kr ks none none none ⟨none, none, none, none, none, xn, xc⟩) : t.toChip.Canon kw kt
    kr ks none none none ⟨none, none, none, none, none, xn, xc⟩ := by
  simp only [exec, execD2dRetrainComplete, carry, live, act, driven, drivenLive, through, throughLive] at h
  cases h
  repeat' first
    | with_reducible assumption
    | with_reducible apply canon_whenRunning
    | with_reducible apply canon_whenSo
    | with_reducible apply canon_carriedOut
    | with_reducible apply canon_d2dRetrainComplete

theorem exec_canon_coxWatchdog {kw kt kr ks xn xc} {s t} (h : exec .coxWatchdog s = .next t) (h_s : s.toChip.Canon kw
    kt kr ks none none none ⟨none, none, none, none, none, xn, xc⟩) : t.toChip.Canon kw kt kr ks none none none ⟨none,
    none, none, none, none, xn, xc⟩ := by
  simp only [exec, execCoxWatchdog, carry, live, act, driven, drivenLive, through, throughLive] at h
  cases h
  repeat' first
    | with_reducible assumption
    | with_reducible apply canon_whenRunning
    | with_reducible apply canon_whenSo
    | with_reducible apply canon_carriedOut
    | with_reducible apply canon_coxWatchdog

theorem exec_canon_pwrEnAssert {kw kt kr ks km kp kv kx} {s t} (h : exec .pwrEnAssert s = .next t) (h_s :
    s.toChip.Canon kw kt kr ks km kp kv kx) : t.toChip.Canon kw kt kr ks km kp kv kx := by
  simp only [exec, execPwrEnAssert, carry, live, act, driven, drivenLive, through, throughLive] at h
  cases h
  repeat' first
    | with_reducible assumption
    | with_reducible apply canon_whenRunning
    | with_reducible apply canon_whenSo
    | with_reducible apply canon_carriedOut
    | with_reducible apply canon_pwrEnAssert

theorem exec_canon_pwrEnDeassert {kw} {s t} (h : exec .pwrEnDeassert s = .next t) (h_s : s.toChip.Canon kw none none
    none none none none ⟨none, none, none, none, none, none, none⟩) : t.toChip.Canon kw none none none none none none
    ⟨none, none, none, none, none, none, none⟩ := by
  simp only [exec, execPwrEnDeassert, carry, live, act, driven, drivenLive, through, throughLive] at h
  cases h
  repeat' first
    | with_reducible assumption
    | with_reducible apply canon_whenRunning
    | with_reducible apply canon_whenSo
    | with_reducible apply canon_carriedOut
    | with_reducible apply canon_pwrEnDeassert

theorem exec_canon_inputGood {kw kr km kv xq xl xm xh xc} {a0 a1 s t} (h : exec (.inputGood a0 a1) s = .next t) (h_s :
    s.toChip.Canon kw none kr none km none kv ⟨none, xq, xl, xm, xh, none, xc⟩) : t.toChip.Canon kw none kr none km
    none kv ⟨none, xq, xl, xm, xh, none, xc⟩ := by
  simp only [exec, execInputGood, carry, live, act, driven, drivenLive, through, throughLive] at h
  cases h
  repeat' first
    | with_reducible assumption
    | with_reducible apply canon_whenRunning
    | with_reducible apply canon_whenSo
    | with_reducible apply canon_carriedOut
    | with_reducible apply canon_inputGood

theorem exec_canon_hotswapTrip {kw} {s t} (h : exec .hotswapTrip s = .next t) (h_s : s.toChip.Canon kw none none none
    none none none ⟨none, none, none, none, none, none, none⟩) : t.toChip.Canon kw none none none none none none
    ⟨none, none, none, none, none, none, none⟩ := by
  simp only [exec, execHotswapTrip, carry, live, act, driven, drivenLive, through, throughLive] at h
  cases h
  repeat' first
    | with_reducible assumption
    | with_reducible apply canon_whenRunning
    | with_reducible apply canon_whenSo
    | with_reducible apply canon_carriedOut
    | with_reducible apply canon_hotswapTrip

theorem exec_canon_inputRangeExcursion {kw kt kr ks km kp kv xb xq xl xm xn xc} {a0 s t} (h : exec
    (.inputRangeExcursion a0) s = .next t) (h_s : s.toChip.Canon kw kt kr ks km kp kv ⟨xb, xq, xl, xm, none, xn, xc⟩)
    : t.toChip.Canon kw kt kr ks km kp kv ⟨xb, xq, xl, xm, none, xn, xc⟩ := by
  simp only [exec, execInputRangeExcursion, carry, live, act, driven, drivenLive, through, throughLive] at h
  cases h
  repeat' first
    | with_reducible assumption
    | with_reducible apply canon_whenRunning
    | with_reducible apply canon_whenSo
    | with_reducible apply canon_carriedOut
    | with_reducible apply canon_inputRangeExcursion

theorem exec_canon_thermalSample {kw kt kr ks km kp kv xb xq xl xm xn xc} {a0 a1 s t} (h : exec (.thermalSample a0 a1)
    s = .next t) (h_s : s.toChip.Canon kw kt kr ks km kp kv ⟨xb, xq, xl, xm, none, xn, xc⟩) : t.toChip.Canon kw kt kr
    ks km kp kv ⟨xb, xq, xl, xm, none, xn, xc⟩ := by
  simp only [exec, execThermalSample, carry, live, act, driven, drivenLive, through, throughLive] at h
  cases h
  repeat' first
    | with_reducible assumption
    | with_reducible apply canon_whenRunning
    | with_reducible apply canon_whenSo
    | with_reducible apply canon_carriedOut
    | with_reducible apply canon_thermalSample

theorem exec_canon_pmThermalTrip {kw kt kr ks xn xc} {s t} (h : exec .pmThermalTrip s = .next t) (h_s : s.toChip.Canon
    kw kt kr ks none none none ⟨none, none, none, none, none, xn, xc⟩) : t.toChip.Canon kw kt kr ks none none none
    ⟨none, none, none, none, none, xn, xc⟩ := by
  simp only [exec, execPmThermalTrip, carry, live, act, driven, drivenLive, through, throughLive] at h
  cases h
  repeat' first
    | with_reducible assumption
    | with_reducible apply canon_whenRunning
    | with_reducible apply canon_whenSo
    | with_reducible apply canon_carriedOut
    | with_reducible apply canon_pmThermalTrip

theorem exec_canon_pmRailTrip {kw kt kr ks xn xc} {s t} (h : exec .pmRailTrip s = .next t) (h_s : s.toChip.Canon kw kt
    kr ks none none none ⟨none, none, none, none, none, xn, xc⟩) : t.toChip.Canon kw kt kr ks none none none ⟨none,
    none, none, none, none, xn, xc⟩ := by
  simp only [exec, execPmRailTrip, carry, live, act, driven, drivenLive, through, throughLive] at h
  cases h
  repeat' first
    | with_reducible assumption
    | with_reducible apply canon_whenRunning
    | with_reducible apply canon_whenSo
    | with_reducible apply canon_carriedOut
    | with_reducible apply canon_pmRailTrip

theorem exec_canon_crystalStable {kw kt kr ks km kp kv kx} {s t} (h : exec .crystalStable s = .next t) (h_s :
    s.toChip.Canon kw kt kr ks km kp kv kx) : t.toChip.Canon kw kt kr ks km kp kv kx := by
  simp only [exec, execCrystalStable, carry, live, act, driven, drivenLive, through, throughLive] at h
  cases h
  repeat' first
    | with_reducible assumption
    | with_reducible apply canon_whenRunning
    | with_reducible apply canon_whenSo
    | with_reducible apply canon_carriedOut
    | with_reducible apply canon_crystalStable

theorem exec_canon_pmCrystalFail {kw kt kr ks km kp kv xb xq xl xm xn xc} {s t} (h : exec .pmCrystalFail s = .next t)
    (h_s : s.toChip.Canon kw kt kr ks km kp kv ⟨xb, xq, xl, xm, none, xn, xc⟩) : t.toChip.Canon kw kt kr ks km kp kv
    ⟨xb, xq, xl, xm, none, xn, xc⟩ := by
  simp only [exec, execPmCrystalFail, carry, live, act, driven, drivenLive, through, throughLive] at h
  cases h
  repeat' first
    | with_reducible assumption
    | with_reducible apply canon_whenRunning
    | with_reducible apply canon_whenSo
    | with_reducible apply canon_carriedOut
    | with_reducible apply canon_pmCrystalFail

theorem exec_canon_blockClockGate {kw kt kr ks km kv kx} {a0 s t} (h : exec (.blockClockGate a0) s = .next t) (h_s :
    s.toChip.Canon kw kt kr ks km none kv kx) : t.toChip.Canon kw kt kr ks km none kv kx := by
  simp only [exec, execBlockClockGate, carry, live, act, driven, drivenLive, through, throughLive] at h
  cases h
  repeat' first
    | with_reducible assumption
    | with_reducible apply canon_whenRunning
    | with_reducible apply canon_whenSo
    | with_reducible apply canon_carriedOut
    | with_reducible apply canon_blockClockGate

theorem exec_canon_blockRetainTimeout {kw kt kr ks km kv kx} {a0 s t} (h : exec (.blockRetainTimeout a0) s = .next t)
    (h_s : s.toChip.Canon kw kt kr ks km none kv kx) : t.toChip.Canon kw kt kr ks km none kv kx := by
  simp only [exec, execBlockRetainTimeout, carry, live, act, driven, drivenLive, through, throughLive] at h
  cases h
  repeat' first
    | with_reducible assumption
    | with_reducible apply canon_whenRunning
    | with_reducible apply canon_whenSo
    | with_reducible apply canon_carriedOut
    | with_reducible apply canon_blockRetainTimeout

theorem exec_canon_blockOffTimeout {kw kt kr ks km kv xq xl xm xh xn xc} {a0 a1 s t} (h : exec (.blockOffTimeout a0
    a1) s = .next t) (h_s : s.toChip.Canon kw kt kr ks km none kv ⟨none, xq, xl, xm, xh, xn, xc⟩) : t.toChip.Canon kw
    kt kr ks km none kv ⟨none, xq, xl, xm, xh, xn, xc⟩ := by
  simp only [exec, execBlockOffTimeout, carry, live, act, driven, drivenLive, through, throughLive] at h
  cases h
  repeat' first
    | with_reducible assumption
    | with_reducible apply canon_whenRunning
    | with_reducible apply canon_whenSo
    | with_reducible apply canon_carriedOut
    | with_reducible apply canon_blockOffTimeout

theorem exec_canon_blockWakeComplete {kw kt kr ks km kv kx} {a0 s t} (h : exec (.blockWakeComplete a0) s = .next t)
    (h_s : s.toChip.Canon kw kt kr ks km none kv kx) : t.toChip.Canon kw kt kr ks km none kv kx := by
  simp only [exec, execBlockWakeComplete, carry, live, act, driven, drivenLive, through, throughLive] at h
  cases h
  repeat' first
    | with_reducible assumption
    | with_reducible apply canon_whenRunning
    | with_reducible apply canon_whenSo
    | with_reducible apply canon_carriedOut
    | with_reducible apply canon_blockWakeComplete

theorem exec_canon_bankPowerUp {kw kt kr ks km kv kx} {a0 s t} (h : exec (.bankPowerUp a0) s = .next t) (h_s :
    s.toChip.Canon kw kt kr ks km none kv kx) : t.toChip.Canon kw kt kr ks km none kv kx := by
  simp only [exec, execBankPowerUp, carry, live, act, driven, drivenLive, through, throughLive] at h
  cases h
  repeat' first
    | with_reducible assumption
    | with_reducible apply canon_whenRunning
    | with_reducible apply canon_whenSo
    | with_reducible apply canon_carriedOut
    | with_reducible apply canon_bankPowerUp

theorem exec_canon_bankIdleReturn {kw kt kr ks km kv kx} {a0 a1 s t} (h : exec (.bankIdleReturn a0 a1) s = .next t)
    (h_s : s.toChip.Canon kw kt kr ks km none kv kx) : t.toChip.Canon kw kt kr ks km none kv kx := by
  simp only [exec, execBankIdleReturn, carry, live, act, driven, drivenLive, through, throughLive] at h
  cases h
  repeat' first
    | with_reducible assumption
    | with_reducible apply canon_whenRunning
    | with_reducible apply canon_whenSo
    | with_reducible apply canon_carriedOut
    | with_reducible apply canon_bankIdleReturn

theorem exec_canon_regionSleep {kw kt kr ks km kp kv kx} {a0 s t} (h : exec (.regionSleep a0) s = .next t) (h_s :
    s.toChip.Canon kw kt kr ks km kp kv kx) : t.toChip.Canon kw kt kr ks km kp kv kx := by
  simp only [exec, execRegionSleep, carry, live, act, driven, drivenLive, through, throughLive] at h
  cases h
  repeat' first
    | with_reducible assumption
    | with_reducible apply canon_whenRunning
    | with_reducible apply canon_whenSo
    | with_reducible apply canon_carriedOut
    | with_reducible apply canon_regionSleep

theorem exec_canon_regionWakeComplete {kw kt kr xn xc} {a0 s t} (h : exec (.regionWakeComplete a0) s = .next t) (h_s :
    s.toChip.Canon kw kt kr none none none none ⟨none, none, none, none, none, xn, xc⟩) : t.toChip.Canon kw kt kr none
    none none none ⟨none, none, none, none, none, xn, xc⟩ := by
  simp only [exec, execRegionWakeComplete, carry, live, act, driven, drivenLive, through, throughLive] at h
  cases h
  repeat' first
    | with_reducible assumption
    | with_reducible apply canon_whenRunning
    | with_reducible apply canon_whenSo
    | with_reducible apply canon_carriedOut
    | with_reducible apply canon_regionWakeComplete

theorem exec_canon_standby {kw kt kr kp xn xc} {s t} (h : exec .standby s = .next t) (h_s : s.toChip.Canon kw kt kr
    none none kp none ⟨none, none, none, none, none, xn, xc⟩) : t.toChip.Canon kw kt kr none none kp none ⟨none, none,
    none, none, none, xn, xc⟩ := by
  simp only [exec, execStandby, carry, live, act, driven, drivenLive, through, throughLive] at h
  cases h
  repeat' first
    | with_reducible assumption
    | with_reducible apply canon_whenRunning
    | with_reducible apply canon_whenSo
    | with_reducible apply canon_carriedOut
    | with_reducible apply canon_standby

theorem exec_canon_standbyEntryComplete {kw xn} {s t} (h : exec .standbyEntryComplete s = .next t) (h_s :
    s.toChip.Canon kw none none none none none none ⟨none, none, none, none, none, xn, none⟩) : t.toChip.Canon kw none
    none none none none none ⟨none, none, none, none, none, xn, none⟩ := by
  simp only [exec, execStandbyEntryComplete, carry, live, act, driven, drivenLive, through, throughLive] at h
  cases h
  repeat' first
    | with_reducible assumption
    | with_reducible apply canon_whenRunning
    | with_reducible apply canon_whenSo
    | with_reducible apply canon_carriedOut
    | with_reducible apply canon_standbyEntryComplete

theorem exec_canon_wake {kw kt kr km kp kv kx} {a0 s t} (h : exec (.wake a0) s = .next t) (h_s : s.toChip.Canon kw kt
    kr none km kp kv kx) : t.toChip.Canon kw kt kr none km kp kv kx := by
  simp only [exec, execWake, carry, live, act, driven, drivenLive, through, throughLive] at h
  cases h
  repeat' first
    | with_reducible assumption
    | with_reducible apply canon_whenRunning
    | with_reducible apply canon_whenSo
    | with_reducible apply canon_carriedOut
    | with_reducible apply canon_wake

theorem exec_canon_alarmWake {kw kt kr km kp kv kx} {s t} (h : exec .alarmWake s = .next t) (h_s : s.toChip.Canon kw
    kt kr none km kp kv kx) : t.toChip.Canon kw kt kr none km kp kv kx := by
  simp only [exec, execAlarmWake, carry, live, act, driven, drivenLive, through, throughLive] at h
  cases h
  repeat' first
    | with_reducible assumption
    | with_reducible apply canon_whenRunning
    | with_reducible apply canon_whenSo
    | with_reducible apply canon_carriedOut
    | with_reducible apply canon_alarmWake

theorem exec_canon_wakeRestoreComplete {kw kt kr ks km kp kv xb xq xl xn xc} {s t} (h : exec .wakeRestoreComplete s =
    .next t) (h_s : s.toChip.Canon kw kt kr ks km kp kv ⟨xb, xq, xl, none, none, xn, xc⟩) : t.toChip.Canon kw kt kr ks
    km kp kv ⟨xb, xq, xl, none, none, xn, xc⟩ := by
  simp only [exec, execWakeRestoreComplete, carry, live, act, driven, drivenLive, through, throughLive] at h
  cases h
  repeat' first
    | with_reducible assumption
    | with_reducible apply canon_whenRunning
    | with_reducible apply canon_whenSo
    | with_reducible apply canon_carriedOut
    | with_reducible apply canon_wakeRestoreComplete

theorem exec_canon_memoryTrainingComplete {kw kt ks km kp kv kx} {s t} (h : exec .memoryTrainingComplete s = .next t)
    (h_s : s.toChip.Canon kw kt none ks km kp kv kx) : t.toChip.Canon kw kt none ks km kp kv kx := by
  simp only [exec, execMemoryTrainingComplete, carry, live, act, driven, drivenLive, through, throughLive] at h
  cases h
  repeat' first
    | with_reducible assumption
    | with_reducible apply canon_whenRunning
    | with_reducible apply canon_whenSo
    | with_reducible apply canon_carriedOut
    | with_reducible apply canon_memoryTrainingComplete

theorem exec_canon_telemetrySample {kw kt kr ks km kp kv xb xq xl xm xn xc} {a0 s t} (h : exec (.telemetrySample a0) s
    = .next t) (h_s : s.toChip.Canon kw kt kr ks km kp kv ⟨xb, xq, xl, xm, none, xn, xc⟩) : t.toChip.Canon kw kt kr ks
    km kp kv ⟨xb, xq, xl, xm, none, xn, xc⟩ := by
  simp only [exec, execTelemetrySample, carry, live, act, driven, drivenLive, through, throughLive] at h
  cases h
  repeat' first
    | with_reducible assumption
    | with_reducible apply canon_whenRunning
    | with_reducible apply canon_whenSo
    | with_reducible apply canon_carriedOut
    | with_reducible apply canon_telemetrySample

theorem exec_canon_mgmtOverride {kw kt kr km kp kv kx} {a0 a1 s t} (h : exec (.mgmtOverride a0 a1) s = .next t) (h_s :
    s.toChip.Canon kw kt kr none km kp kv kx) : t.toChip.Canon kw kt kr none km kp kv kx := by
  simp only [exec, execMgmtOverride, carry, live, act, driven, drivenLive, through, throughLive] at h
  cases h
  repeat' first
    | with_reducible assumption
    | with_reducible apply canon_whenRunning
    | with_reducible apply canon_whenSo
    | with_reducible apply canon_carriedOut
    | with_reducible apply canon_mgmtOverride

theorem exec_canon_mctpStandby {kw kt kr kp xn xc} {a0 s t} (h : exec (.mctpStandby a0) s = .next t) (h_s :
    s.toChip.Canon kw kt kr none none kp none ⟨none, none, none, none, none, xn, xc⟩) : t.toChip.Canon kw kt kr none
    none kp none ⟨none, none, none, none, none, xn, xc⟩ := by
  simp only [exec, execMctpStandby, carry, live, act, driven, drivenLive, through, throughLive] at h
  cases h
  repeat' first
    | with_reducible assumption
    | with_reducible apply canon_whenRunning
    | with_reducible apply canon_whenSo
    | with_reducible apply canon_carriedOut
    | with_reducible apply canon_mctpStandby

theorem exec_canon_mctpToken {kw kt kr kp xn xc} {a0 a1 a2 a3 a4 s t} (h : exec (.mctpToken a0 a1 a2 a3 a4) s = .next
    t) (h_s : s.toChip.Canon kw kt kr none none kp none ⟨none, none, none, none, none, xn, xc⟩) : t.toChip.Canon kw kt
    kr none none kp none ⟨none, none, none, none, none, xn, xc⟩ := by
  simp only [exec, execMctpToken, carry, live, act, driven, drivenLive, through, throughLive] at h
  cases h
  repeat' first
    | with_reducible assumption
    | with_reducible apply canon_whenRunning
    | with_reducible apply canon_whenSo
    | with_reducible apply canon_carriedOut
    | with_reducible apply canon_mctpTokenChunk

theorem exec_canon_faultRead {kw kt kr ks km kp kv kx} {a0 a1 s t} (h : exec (.faultRead a0 a1) s = .next t) (h_s :
    s.toChip.Canon kw kt kr ks km kp kv kx) : t.toChip.Canon kw kt kr ks km kp kv kx := by
  simp only [exec, execFaultRead, carry, live, act, driven, drivenLive, through, throughLive] at h
  cases h
  repeat' first
    | with_reducible assumption
    | with_reducible apply canon_whenRunning
    | with_reducible apply canon_whenSo
    | with_reducible apply canon_carriedOut
    | with_reducible apply canon_faultRead

theorem exec_canon_telemetryRead {kw kt kr ks km kp kv kx} {a0 s t} (h : exec (.telemetryRead a0) s = .next t) (h_s :
    s.toChip.Canon kw kt kr ks km kp kv kx) : t.toChip.Canon kw kt kr ks km kp kv kx := by
  simp only [exec, execTelemetryRead, carry, live, act, driven, drivenLive, through, throughLive] at h
  cases h
  repeat' first
    | with_reducible assumption
    | with_reducible apply canon_whenRunning
    | with_reducible apply canon_whenSo
    | with_reducible apply canon_carriedOut
    | with_reducible apply canon_telemetryRead

theorem exec_canon_status {kw kt kr ks km kp kv kx} {a0 s t} (h : exec (.status a0) s = .next t) (h_s : s.toChip.Canon
    kw kt kr ks km kp kv kx) : t.toChip.Canon kw kt kr ks km kp kv kx := by
  simp only [exec, execStatus, carry, live, act, driven, drivenLive, through, throughLive] at h
  cases h
  repeat' first
    | with_reducible assumption
    | with_reducible apply canon_whenRunning
    | with_reducible apply canon_whenSo
    | with_reducible apply canon_carriedOut
    | with_reducible apply canon_status

theorem exec_canon_mctpUnsupportedCmd {kw kt kr ks km kp kv kx} {a0 a1 s t} (h : exec (.mctpUnsupportedCmd a0 a1) s =
    .next t) (h_s : s.toChip.Canon kw kt kr ks km kp kv kx) : t.toChip.Canon kw kt kr ks km kp kv kx := by
  simp only [exec, execMctpUnsupportedCmd, carry, live, act, driven, drivenLive, through, throughLive] at h
  cases h
  repeat' first
    | with_reducible assumption
    | with_reducible apply canon_whenRunning
    | with_reducible apply canon_whenSo
    | with_reducible apply canon_carriedOut
    | with_reducible apply canon_mctpUnsupportedCmd

theorem exec_canon_setEndpointId {kw kr ks km kp kv kx} {a0 a1 s t} (h : exec (.setEndpointId a0 a1) s = .next t) (h_s
    : s.toChip.Canon kw none kr ks km kp kv kx) : t.toChip.Canon kw none kr ks km kp kv kx := by
  simp only [exec, execSetEndpointId, carry, live, act, driven, drivenLive, through, throughLive] at h
  cases h
  repeat' first
    | with_reducible assumption
    | with_reducible apply canon_whenRunning
    | with_reducible apply canon_whenSo
    | with_reducible apply canon_carriedOut
    | with_reducible apply canon_setEndpointId

theorem exec_canon_i3cDynamicAddress {kw kr ks km kp kv kx} {a0 s t} (h : exec (.i3cDynamicAddress a0) s = .next t)
    (h_s : s.toChip.Canon kw none kr ks km kp kv kx) : t.toChip.Canon kw none kr ks km kp kv kx := by
  simp only [exec, execI3cDynamicAddress, carry, live, act, driven, drivenLive, through, throughLive] at h
  cases h
  repeat' first
    | with_reducible assumption
    | with_reducible apply canon_whenRunning
    | with_reducible apply canon_whenSo
    | with_reducible apply canon_carriedOut
    | with_reducible apply canon_i3cDynamicAddress

theorem exec_canon_rstdaa {kw kr ks km kp kv kx} {s t} (h : exec .rstdaa s = .next t) (h_s : s.toChip.Canon kw none kr
    ks km kp kv kx) : t.toChip.Canon kw none kr ks km kp kv kx := by
  simp only [exec, execRstdaa, carry, live, act, driven, drivenLive, through, throughLive] at h
  cases h
  repeat' first
    | with_reducible assumption
    | with_reducible apply canon_whenRunning
    | with_reducible apply canon_whenSo
    | with_reducible apply canon_carriedOut
    | with_reducible apply canon_rstdaa

theorem exec_canon_slEnableWrite {kw kt kr ks km kp kv kx} {a0 a1 s t} (h : exec (.slEnableWrite a0 a1) s = .next t)
    (h_s : s.toChip.Canon kw kt kr ks km kp kv kx) : t.toChip.Canon kw kt kr ks km kp kv kx := by
  simp only [exec, execSlEnableWrite, carry, live, act, driven, drivenLive, through, throughLive] at h
  cases h
  repeat' first
    | with_reducible assumption
    | with_reducible apply canon_whenRunning
    | with_reducible apply canon_whenSo
    | with_reducible apply canon_carriedOut
    | with_reducible apply canon_slEnableWrite
    | with_reducible apply canon_ite
    | split
    | intro _

theorem exec_canon_pageQuiesce {kw kt kr ks km kp kv xb xl xm xh xn xc} {a0 a1 s t} (h : exec (.pageQuiesce a0 a1) s =
    .next t) (h_s : s.toChip.Canon kw kt kr ks km kp kv ⟨xb, none, xl, xm, xh, xn, xc⟩) : t.toChip.Canon kw kt kr ks
    km kp kv ⟨xb, none, xl, xm, xh, xn, xc⟩ := by
  simp only [exec, execPageQuiesce, carry, live, act, driven, drivenLive, through, throughLive] at h
  cases h
  repeat' first
    | with_reducible assumption
    | with_reducible apply canon_whenRunning
    | with_reducible apply canon_whenSo
    | with_reducible apply canon_carriedOut
    | with_reducible apply canon_pageQuiesce
    | with_reducible apply canon_ite
    | split
    | intro _

theorem exec_canon_pageEnableWrite {kw kt kr ks km kp kv xb xl xm xh xn xc} {a0 a1 s t} (h : exec (.pageEnableWrite a0
    a1) s = .next t) (h_s : s.toChip.Canon kw kt kr ks km kp kv ⟨xb, none, xl, xm, xh, xn, xc⟩) : t.toChip.Canon kw kt
    kr ks km kp kv ⟨xb, none, xl, xm, xh, xn, xc⟩ := by
  simp only [exec, execPageEnableWrite, carry, live, act, driven, drivenLive, through, throughLive] at h
  cases h
  repeat' first
    | with_reducible assumption
    | with_reducible apply canon_whenRunning
    | with_reducible apply canon_whenSo
    | with_reducible apply canon_carriedOut
    | with_reducible apply canon_pageEnableWrite
    | with_reducible apply canon_ite
    | split
    | intro _

theorem exec_canon_localReset {kw kt kr ks km kp kv xb xl xm xh xn xc} {a0 a1 s t} (h : exec (.localReset a0 a1) s =
    .next t) (h_s : s.toChip.Canon kw kt kr ks km kp kv ⟨xb, none, xl, xm, xh, xn, xc⟩) : t.toChip.Canon kw kt kr ks
    km kp kv ⟨xb, none, xl, xm, xh, xn, xc⟩ := by
  simp only [exec, execLocalReset, carry, live, act, driven, drivenLive, through, throughLive] at h
  cases h
  repeat' first
    | with_reducible assumption
    | with_reducible apply canon_whenRunning
    | with_reducible apply canon_whenSo
    | with_reducible apply canon_carriedOut
    | with_reducible apply canon_localReset
    | with_reducible apply canon_ite
    | split
    | intro _

theorem exec_canon_irqStatClear {kw kt kr ks km kp kv xb xq xl xm xn xc} {a0 a1 a2 s t} (h : exec (.irqStatClear a0 a1
    a2) s = .next t) (h_s : s.toChip.Canon kw kt kr ks km kp kv ⟨xb, xq, xl, xm, none, xn, xc⟩) : t.toChip.Canon kw kt
    kr ks km kp kv ⟨xb, xq, xl, xm, none, xn, xc⟩ := by
  simp only [exec, execIrqStatClear, carry, live, act, driven, drivenLive, through, throughLive] at h
  cases h
  repeat' first
    | with_reducible assumption
    | with_reducible apply canon_whenRunning
    | with_reducible apply canon_whenSo
    | with_reducible apply canon_carriedOut
    | with_reducible apply canon_irqStatClear
    | with_reducible apply canon_ite
    | split
    | intro _

theorem exec_canon_irqSet {kw kt kr ks km kp kv xb xq xl xm xn xc} {a0 a1 s t} (h : exec (.irqSet a0 a1) s = .next t)
    (h_s : s.toChip.Canon kw kt kr ks km kp kv ⟨xb, xq, xl, xm, none, xn, xc⟩) : t.toChip.Canon kw kt kr ks km kp kv
    ⟨xb, xq, xl, xm, none, xn, xc⟩ := by
  simp only [exec, execIrqSet, carry, live, act, driven, drivenLive, through, throughLive] at h
  cases h
  repeat' first
    | with_reducible assumption
    | with_reducible apply canon_whenRunning
    | with_reducible apply canon_whenSo
    | with_reducible apply canon_carriedOut
    | with_reducible apply canon_irqSet
    | with_reducible apply canon_ite
    | split
    | intro _

theorem exec_canon_interruptMaskWrite {kw kt kr ks km kp kv xb xq xl xm xn xc} {a0 a1 a2 s t} (h : exec
    (.interruptMaskWrite a0 a1 a2) s = .next t) (h_s : s.toChip.Canon kw kt kr ks km kp kv ⟨xb, xq, xl, xm, none, xn,
    xc⟩) : t.toChip.Canon kw kt kr ks km kp kv ⟨xb, xq, xl, xm, none, xn, xc⟩ := by
  simp only [exec, execInterruptMaskWrite, carry, live, act, driven, drivenLive, through, throughLive] at h
  cases h
  repeat' first
    | with_reducible assumption
    | with_reducible apply canon_whenRunning
    | with_reducible apply canon_whenSo
    | with_reducible apply canon_carriedOut
    | with_reducible apply canon_interruptMaskWrite
    | with_reducible apply canon_ite
    | split
    | intro _

theorem exec_canon_errInject {kw kt kr ks xn xc} {a0 a1 s t} (h : exec (.errInject a0 a1) s = .next t) (h_s :
    s.toChip.Canon kw kt kr ks none none none ⟨none, none, none, none, none, xn, xc⟩) : t.toChip.Canon kw kt kr ks
    none none none ⟨none, none, none, none, none, xn, xc⟩ := by
  simp only [exec, execErrInject, carry, live, act, driven, drivenLive, through, throughLive] at h
  cases h
  repeat' first
    | with_reducible assumption
    | with_reducible apply canon_whenRunning
    | with_reducible apply canon_whenSo
    | with_reducible apply canon_carriedOut
    | with_reducible apply canon_errInject
    | with_reducible apply canon_ite
    | split
    | intro _

theorem exec_canon_countClear {kw kt kr ks km kp kv kx} {a0 a1 s t} (h : exec (.countClear a0 a1) s = .next t) (h_s :
    s.toChip.Canon kw kt kr ks km kp kv kx) : t.toChip.Canon kw kt kr ks km kp kv kx := by
  simp only [exec, execCountClear, carry, live, act, driven, drivenLive, through, throughLive] at h
  cases h
  repeat' first
    | with_reducible assumption
    | with_reducible apply canon_whenRunning
    | with_reducible apply canon_whenSo
    | with_reducible apply canon_carriedOut
    | with_reducible apply canon_countClear
    | with_reducible apply canon_ite
    | split
    | intro _

theorem exec_canon_latchingLoRead {kw kr ks km kp kv kx} {a0 a1 s t} (h : exec (.latchingLoRead a0 a1) s = .next t)
    (h_s : s.toChip.Canon kw none kr ks km kp kv kx) : t.toChip.Canon kw none kr ks km kp kv kx := by
  simp only [exec, execLatchingLoRead, carry, live, act, driven, drivenLive, through, throughLive] at h
  cases h
  repeat' first
    | with_reducible assumption
    | with_reducible apply canon_whenRunning
    | with_reducible apply canon_whenSo
    | with_reducible apply canon_carriedOut
    | with_reducible apply canon_latchingLoRead
    | with_reducible apply canon_ite
    | split
    | intro _

theorem exec_canon_registerWrite {kw xn} {a0 a1 a2 a3 s t} (h : exec (.registerWrite a0 a1 a2 a3) s = .next t) (h_s :
    s.toChip.Canon kw none none none none none none ⟨none, none, none, none, none, xn, none⟩) : t.toChip.Canon kw none
    none none none none none ⟨none, none, none, none, none, xn, none⟩ := by
  simp only [exec, execRegisterWrite, carry, live, act, driven, drivenLive, through, throughLive] at h
  cases h
  repeat' first
    | with_reducible assumption
    | with_reducible apply canon_whenRunning
    | with_reducible apply canon_whenSo
    | with_reducible apply canon_carriedOut
    | with_reducible apply canon_registerWrite
    | with_reducible apply canon_ite
    | split
    | intro _

theorem exec_canon_srnSignalLoss {kw kt kr ks km kp kv xb xq xl xn xc} {a0 s t} (h : exec (.srnSignalLoss a0) s =
    .next t) (h_s : s.toChip.Canon kw kt kr ks km kp kv ⟨xb, xq, xl, none, none, xn, xc⟩) : t.toChip.Canon kw kt kr ks
    km kp kv ⟨xb, xq, xl, none, none, xn, xc⟩ := by
  simp only [exec, execSrnSignalLoss, carry, live, act, driven, drivenLive, through, throughLive] at h
  cases h
  repeat' first
    | with_reducible assumption
    | with_reducible apply canon_whenRunning
    | with_reducible apply canon_whenSo
    | with_reducible apply canon_carriedOut
    | with_reducible apply canon_srnSignalLoss

theorem exec_canon_srnSignalDetect {kw kt kr ks km kp kv xb xq xl xn xc} {a0 s t} (h : exec (.srnSignalDetect a0) s =
    .next t) (h_s : s.toChip.Canon kw kt kr ks km kp kv ⟨xb, xq, xl, none, none, xn, xc⟩) : t.toChip.Canon kw kt kr ks
    km kp kv ⟨xb, xq, xl, none, none, xn, xc⟩ := by
  simp only [exec, execSrnSignalDetect, carry, live, act, driven, drivenLive, through, throughLive] at h
  cases h
  repeat' first
    | with_reducible assumption
    | with_reducible apply canon_whenRunning
    | with_reducible apply canon_whenSo
    | with_reducible apply canon_carriedOut
    | with_reducible apply canon_srnSignalDetect

theorem exec_canon_functionReadinessStatus {kw kt kr ks km kp kv xb xq xl xm xn xc} {a0 a1 s t} (h : exec
    (.functionReadinessStatus a0 a1) s = .next t) (h_s : s.toChip.Canon kw kt kr ks km kp kv ⟨xb, xq, xl, xm, none,
    xn, xc⟩) : t.toChip.Canon kw kt kr ks km kp kv ⟨xb, xq, xl, xm, none, xn, xc⟩ := by
  simp only [exec, execFunctionReadinessStatus, carry, live, act, driven, drivenLive, through, throughLive] at h
  cases h
  repeat' first
    | with_reducible assumption
    | with_reducible apply canon_whenRunning
    | with_reducible apply canon_whenSo
    | with_reducible apply canon_carriedOut
    | with_reducible apply canon_functionReadinessStatus

theorem exec_canon_debugPortUnlock {kw kt kr km kp kv xb xq xl xm xn xc} {s t} (h : exec .debugPortUnlock s = .next t)
    (h_s : s.toChip.Canon kw kt kr none km kp kv ⟨xb, xq, xl, xm, none, xn, xc⟩) : t.toChip.Canon kw kt kr none km kp
    kv ⟨xb, xq, xl, xm, none, xn, xc⟩ := by
  simp only [exec, execDebugPortUnlock, carry, live, act, driven, drivenLive, through, throughLive] at h
  cases h
  repeat' first
    | with_reducible assumption
    | with_reducible apply canon_whenRunning
    | with_reducible apply canon_whenSo
    | with_reducible apply canon_carriedOut
    | with_reducible apply canon_debugPortUnlock

theorem exec_canon_jtagAccess {kw xn} {a0 s t} (h : exec (.jtagAccess a0) s = .next t) (h_s : s.toChip.Canon kw none
    none none none none none ⟨none, none, none, none, none, xn, none⟩) : t.toChip.Canon kw none none none none none
    none ⟨none, none, none, none, none, xn, none⟩ := by
  simp only [exec, execJtagAccess, carry, live, act, driven, drivenLive, through, throughLive] at h
  cases h
  repeat' first
    | with_reducible assumption
    | with_reducible apply canon_whenRunning
    | with_reducible apply canon_whenSo
    | with_reducible apply canon_carriedOut
    | with_reducible apply canon_jtagAccess

end Sys2Proof.Machine
end

