-- ==== Sys2Proof/Laws/PerInstr.lean ====
section
/-!
SUPPORT. One lemma per command: where a command that names a page can reach the module, the page it names exists.
-/
namespace Sys2Proof.Laws.WellFormedness

/-- The page a command names. -/
def pageOf : Instr → Option Page
  | .faultRecordArrival pg _ => some pg
  | .slEnableWrite pg _ => some pg
  | .pageQuiesce pg _ => some pg
  | .pageEnableWrite pg _ => some pg
  | .localReset pg _ => some pg
  | .irqStatClear pg _ _ => some pg
  | .irqSet pg _ => some pg
  | .interruptMaskWrite pg _ _ => some pg
  | .errInject pg _ => some pg
  | .countClear pg _ => some pg
  | .jtagAccess (.page pg _ _) => some pg
  | _ => none

/-- The page a command names exists where the command can reach the module (Table 17-5, Table 17-7). -/
def Statement (i : Instr) : Prop := i.wf = true → ∀ pg, pageOf i = some pg → pg.wf = true

theorem nop (o : Origin) : Statement (.nop o) := by
  exact fun _ _ h => nomatch h

theorem strokePass (o : Origin) (blk : Fin 256) (b : Body) (events : List PassEvent) : Statement (.strokePass o blk b events) := by
  exact fun _ _ h => nomatch h

theorem accModeWaitProceed (blk : Fin 256) : Statement (.accModeWaitProceed blk) := by
  exact fun _ _ h => nomatch h

theorem accModeTimeout (blk : Fin 256) : Statement (.accModeTimeout blk) := by
  exact fun _ _ h => nomatch h

theorem readout (o : Origin) (blk : Fin 256) (b : Body) (events : List PassEvent) : Statement (.readout o blk b events) := by
  exact fun _ _ h => nomatch h

theorem quantise (o : Origin) (blk : Fin 256) (b : Body) : Statement (.quantise o blk b) := by
  exact fun _ _ h => nomatch h

theorem widenEventNotice (p : Fin 16) : Statement (.widenEventNotice p) := by
  exact fun _ _ h => nomatch h

theorem stormNotice (q : Fin 16) : Statement (.stormNotice q) := by
  exact fun _ _ h => nomatch h

theorem stormWindowRollover (p : Fin 16) : Statement (.stormWindowRollover p) := by
  exact fun _ _ h => nomatch h

theorem fin (o : Origin) (b : Body) (met : List BufferError) : Statement (.fin o b met) := by
  exact fun _ _ h => nomatch h

theorem finWidenItem (q : Fin 16) (met : List BufferError) : Statement (.finWidenItem q met) := by
  exact fun _ _ h => nomatch h

theorem zeroFill (o : Origin) (b : Body) : Statement (.zeroFill o b) := by
  exact fun _ _ h => nomatch h

theorem fillComplete (bank : Fin 256) : Statement (.fillComplete bank) := by
  exact fun _ _ h => nomatch h

theorem dmaCopy (o : Origin) (b : Body) (host : HostReply) : Statement (.dmaCopy o b host) := by
  exact fun _ _ h => nomatch h

theorem semSignal (o : Origin) (b : Body) : Statement (.semSignal o b) := by
  exact fun _ _ h => nomatch h

theorem semWait (o : Origin) (b : Body) : Statement (.semWait o b) := by
  exact fun _ _ h => nomatch h

theorem barrier (o : Origin) (b : Body) : Statement (.barrier o b) := by
  exact fun _ _ h => nomatch h

theorem waitTimeout (index : Nat) : Statement (.waitTimeout index) := by
  exact fun _ _ h => nomatch h

theorem eventHost (o : Origin) (b : Body) (host : HostReply) : Statement (.eventHost o b host) := by
  exact fun _ _ h => nomatch h

theorem weighEnough (o : Origin) : Statement (.weighEnough o) := by
  exact fun _ _ h => nomatch h

theorem reinAttend (o : Origin) (b : Body) (met : List BufferError) (parity : List Nat) : Statement (.reinAttend o b met parity) := by
  exact fun _ _ h => nomatch h

theorem kvAppend (o : Origin) (b : Body) (met : List BufferError) (parity : List Nat) : Statement (.kvAppend o b met parity) := by
  exact fun _ _ h => nomatch h

theorem pageEditSet (o : Origin) (b : Body) : Statement (.pageEditSet o b) := by
  exact fun _ _ h => nomatch h

theorem pageEditAlloc (o : Origin) (b : Body) : Statement (.pageEditAlloc o b) := by
  exact fun _ _ h => nomatch h

theorem pageEditRelease (o : Origin) (b : Body) : Statement (.pageEditRelease o b) := by
  exact fun _ _ h => nomatch h

theorem pageEditShare (o : Origin) (b : Body) : Statement (.pageEditShare o b) := by
  exact fun _ _ h => nomatch h

theorem pageEditMove (o : Origin) (b : Body) : Statement (.pageEditMove o b) := by
  exact fun _ _ h => nomatch h

theorem walkStart (p : Fin 16) (region : Fin 4) (tag : Nat) : Statement (.walkStart p region tag) := by
  exact fun _ _ h => nomatch h

theorem walkEnd (p : Fin 16) (walk : Nat) : Statement (.walkEnd p walk) := by
  exact fun _ _ h => nomatch h

theorem retireQueueAdvance (p : Fin 16) (tierB : Bool) : Statement (.retireQueueAdvance p tierB) := by
  exact fun _ _ h => nomatch h

theorem skvCompress (o : Origin) (b : Body) (met : List BufferError) : Statement (.skvCompress o b met) := by
  exact fun _ _ h => nomatch h

theorem skvDecode (o : Origin) (b : Body) (met : List BufferError) : Statement (.skvDecode o b met) := by
  exact fun _ _ h => nomatch h

theorem skvStage (o : Origin) (b : Body) (met : List BufferError) : Statement (.skvStage o b met) := by
  exact fun _ _ h => nomatch h

theorem slotUnitWrite (p : Fin 16) (region : Fin 4) (channel : Fin 4) (unit : Nat) (bytes : List Byte) (met : List BufferError) : Statement (.slotUnitWrite p region channel unit bytes met) := by
  exact fun _ _ h => nomatch h

theorem slotUnitRead (p : Fin 16) (region : Fin 4) (channel : Fin 4) (unit : Nat) (met : List BufferError) : Statement (.slotUnitRead p region channel unit met) := by
  exact fun _ _ h => nomatch h

theorem serveSubmit (o : Origin) (b : Body) (descriptor : HostReply) : Statement (.serveSubmit o b descriptor) := by
  exact fun _ _ h => nomatch h

theorem serveCancel (o : Origin) (b : Body) (met : Ecc) : Statement (.serveCancel o b met) := by
  exact fun _ _ h => nomatch h

theorem servePause (o : Origin) (b : Body) (met : Ecc) : Statement (.servePause o b met) := by
  exact fun _ _ h => nomatch h

theorem serveResume (o : Origin) (b : Body) (met : Ecc) : Statement (.serveResume o b met) := by
  exact fun _ _ h => nomatch h

theorem serveEdit (o : Origin) (b : Body) (met : Ecc) : Statement (.serveEdit o b met) := by
  exact fun _ _ h => nomatch h

theorem serveEditComplete (p : Fin 16) (handle : Nat) : Statement (.serveEditComplete p handle) := by
  exact fun _ _ h => nomatch h

theorem serveAccount (o : Origin) (b : Body) : Statement (.serveAccount o b) := by
  exact fun _ _ h => nomatch h

theorem serveQuery (o : Origin) (b : Body) (met : Ecc) : Statement (.serveQuery o b met) := by
  exact fun _ _ h => nomatch h

theorem serveSample (o : Origin) (blk : Fin 256) (b : Body) : Statement (.serveSample o blk b) := by
  exact fun _ _ h => nomatch h

theorem catchStep (p : Fin 16) : Statement (.catchStep p) := by
  exact fun _ _ h => nomatch h

theorem stepFinish (p : Fin 16) : Statement (.stepFinish p) := by
  exact fun _ _ h => nomatch h

theorem accountWindowRollover (p : Fin 16) (account : Nat) : Statement (.accountWindowRollover p account) := by
  exact fun _ _ h => nomatch h

theorem moveDue (p : Fin 16) (handle : Nat) : Statement (.moveDue p handle) := by
  exact fun _ _ h => nomatch h

theorem boathouseMoveComplete (p : Fin 16) (handle : Nat) : Statement (.boathouseMoveComplete p handle) := by
  exact fun _ _ h => nomatch h

theorem boathouseFetchComplete (p : Fin 16) (handle : Nat) : Statement (.boathouseFetchComplete p handle) := by
  exact fun _ _ h => nomatch h

theorem ttlExpiry (p : Fin 16) (handle : Nat) : Statement (.ttlExpiry p handle) := by
  exact fun _ _ h => nomatch h

theorem memUpdate (o : Origin) (b : Body) : Statement (.memUpdate o b) := by
  exact fun _ _ h => nomatch h

theorem memFetch (o : Origin) (b : Body) : Statement (.memFetch o b) := by
  exact fun _ _ h => nomatch h

theorem srnWrite (o : Origin) (b : Body) : Statement (.srnWrite o b) := by
  exact fun _ _ h => nomatch h

theorem srnRead (o : Origin) (b : Body) : Statement (.srnRead o b) := by
  exact fun _ _ h => nomatch h

theorem srnUpdate (o : Origin) (b : Body) : Statement (.srnUpdate o b) := by
  exact fun _ _ h => nomatch h

theorem srnAllreduce (o : Origin) (b : Body) : Statement (.srnAllreduce o b) := by
  exact fun _ _ h => nomatch h

theorem srnSignal (o : Origin) (b : Body) : Statement (.srnSignal o b) := by
  exact fun _ _ h => nomatch h

theorem srnPacketArrival (port : Fin 5) (pkt : Packet) : Statement (.srnPacketArrival port pkt) := by
  exact fun _ _ h => nomatch h

theorem srnPacketForward (port : Fin 5) (pkt : Packet) : Statement (.srnPacketForward port pkt) := by
  exact fun _ _ h => nomatch h

theorem srnPacketDiscard (port : Fin 5) (pkt : Packet) : Statement (.srnPacketDiscard port pkt) := by
  exact fun _ _ h => nomatch h

theorem srnRefusalArrival (xfer : Nat) (reason : RefusalReason) : Statement (.srnRefusalArrival xfer reason) := by
  exact fun _ _ h => nomatch h

theorem srnAckArrival (xfer : Nat) (data : Payload) : Statement (.srnAckArrival xfer data) := by
  exact fun _ _ h => nomatch h

theorem srnAckTimeout (xfer : Nat) : Statement (.srnAckTimeout xfer) := by
  exact fun _ _ h => nomatch h

theorem srnCollTimeout (xfer : Nat) : Statement (.srnCollTimeout xfer) := by
  exact fun _ _ h => nomatch h

theorem srnFrameCrcFail (port : Fin 5) (group : Fin 4) : Statement (.srnFrameCrcFail port group) := by
  exact fun _ _ h => nomatch h

theorem srnRetrainComplete (port : Fin 5) : Statement (.srnRetrainComplete port) := by
  exact fun _ _ h => nomatch h

theorem srnTrainingComplete (port : Fin 5) : Statement (.srnTrainingComplete port) := by
  exact fun _ _ h => nomatch h

theorem crewCardReceived (port : Fin 5) (card : BitVec 512) : Statement (.crewCardReceived port card) := by
  exact fun _ _ h => nomatch h

theorem srnRetrain (port : Fin 5) : Statement (.srnRetrain port) := by
  exact fun _ _ h => nomatch h

theorem cableInsert (port : Fin 5) (lanes : Nat) : Statement (.cableInsert port lanes) := by
  exact fun _ _ h => nomatch h

theorem cableRemove (port : Fin 5) : Statement (.cableRemove port) := by
  exact fun _ _ h => nomatch h

theorem twinRoleWrite (p : Fin 16) (value : Word) : Statement (.twinRoleWrite p value) := by
  exact fun _ _ h => nomatch h

theorem twinRetireFree (p : Fin 16) : Statement (.twinRetireFree p) := by
  exact fun _ _ h => nomatch h

theorem roleNoticeReceived (tag : BitVec 16) (role : Fin 4) : Statement (.roleNoticeReceived tag role) := by
  exact fun _ _ h => nomatch h

theorem mirrorWriteArrival (tag : BitVec 16) (epoch : BitVec 16) (xfer : Nat) (w : Mirror) : Statement (.mirrorWriteArrival tag epoch xfer w) := by
  exact fun _ _ h => nomatch h

theorem twinLinkLoss : Statement (.twinLinkLoss) := by
  exact fun _ _ h => nomatch h

theorem place (m : Placement) (via : Endpoint) : Statement (.place m via) := by
  exact fun _ _ h => nomatch h

theorem commandFetch (p : Fin 16) (n : Fin 64) (host : HostReply) : Statement (.commandFetch p n host) := by
  exact fun _ _ h => nomatch h

theorem preemptPointReached (q : Fin 16) : Statement (.preemptPointReached q) := by
  exact fun _ _ h => nomatch h

theorem spillComplete (q : Fin 16) : Statement (.spillComplete q) := by
  exact fun _ _ h => nomatch h

theorem resumeStart (q : Fin 16) : Statement (.resumeStart q) := by
  exact fun _ _ h => nomatch h

theorem restoreComplete (q : Fin 16) : Statement (.restoreComplete q) := by
  exact fun _ _ h => nomatch h

theorem engineDispatch (e : Engine) : Statement (.engineDispatch e) := by
  exact fun _ _ h => nomatch h

theorem commandRetire (o : Origin) (index : Nat) : Statement (.commandRetire o index) := by
  exact fun _ _ h => nomatch h

theorem bankGrant (bank : Fin 256) (waiting : List BankAccess) (met : Ecc) : Statement (.bankGrant bank waiting met) := by
  exact fun _ _ h => nomatch h

theorem bankScrubRead (bank : Fin 256) (met : Ecc) : Statement (.bankScrubRead bank met) := by
  exact fun _ _ h => nomatch h

theorem sqDoorbell (via : Via) (p : Fin 16) (n : Fin 64) (v : Word) : Statement (.sqDoorbell via p n v) := by
  exact fun _ _ h => nomatch h

theorem queueEnable (via : Via) (p : Fin 16) (n : Fin 64) : Statement (.queueEnable via p n) := by
  exact fun _ _ h => nomatch h

theorem queueResume (via : Via) (p : Fin 16) (n : Fin 64) : Statement (.queueResume via p n) := by
  exact fun _ _ h => nomatch h

theorem queueReset (via : Via) (p : Fin 16) (n : Fin 64) (byEnable : Bool) : Statement (.queueReset via p n byEnable) := by
  exact fun _ _ h => nomatch h

theorem sqCqHeadWrite (via : Via) (p : Fin 16) (n : Fin 64) (v : Word) : Statement (.sqCqHeadWrite via p n v) := by
  exact fun _ _ h => nomatch h

theorem sqHostSignal (via : Via) (p : Fin 16) (n : Fin 64) (v : Word) : Statement (.sqHostSignal via p n v) := by
  exact fun _ _ h => nomatch h

theorem zeroFillGo (bank : Fin 256) : Statement (.zeroFillGo bank) := by
  exact fun _ _ h => nomatch h

theorem pwModelLoad (region : Fin 4) (index : Nat) : Statement (.pwModelLoad region index) := by
  exact fun _ _ h => nomatch h

theorem pwFreeWrite (region : Fin 4) (tierB : Bool) (v : Word) : Statement (.pwFreeWrite region tierB v) := by
  exact fun _ _ h => nomatch h

theorem skvCtxLoad (region : Fin 4) (p : Fin 16) : Statement (.skvCtxLoad region p) := by
  exact fun _ _ h => nomatch h

theorem hbmRangeWrite (stack : Fin 16) (p : Fin 16) (r : Fin 4) (v : Word) : Statement (.hbmRangeWrite stack p r v) := by
  exact fun _ _ h => nomatch h

theorem tbSliceWrite (v : Word) : Statement (.tbSliceWrite v) := by
  exact fun _ _ h => nomatch h

theorem girthCfgWrite (unit : Fin 17) (p : Fin 16) (v : Word) : Statement (.girthCfgWrite unit p v) := by
  exact fun _ _ h => nomatch h

theorem girthRefill : Statement (.girthRefill) := by
  exact fun _ _ h => nomatch h

theorem retireAccept (stack : Fin 16) : Statement (.retireAccept stack) := by
  exact fun _ _ h => nomatch h

theorem retireCopyStart (stack : Fin 16) : Statement (.retireCopyStart stack) := by
  exact fun _ _ h => nomatch h

theorem retireCopyComplete (stack : Fin 16) (granules : Nat) : Statement (.retireCopyComplete stack granules) := by
  exact fun _ _ h => nomatch h

theorem patrolScrubRead (unit : Fin 17) (met : Ecc) : Statement (.patrolScrubRead unit met) := by
  exact fun _ _ h => nomatch h

theorem tbSelfRefreshEntry : Statement (.tbSelfRefreshEntry) := by
  exact fun _ _ h => nomatch h

theorem tierInitComplete (tierB : Bool) : Statement (.tierInitComplete tierB) := by
  exact fun _ _ h => nomatch h

theorem releaseScrubComplete (p : Fin 16) (step : ScrubStep) : Statement (.releaseScrubComplete p step) := by
  exact fun _ _ h => nomatch h

theorem create (p : Fin 16) : Statement (.create p) := by
  exact fun _ _ h => nomatch h

theorem partitionCreated (p : Fin 16) : Statement (.partitionCreated p) := by
  exact fun _ _ h => nomatch h

theorem partitionReset (via : Via) (p : Fin 16) : Statement (.partitionReset via p) := by
  exact fun _ _ h => nomatch h

theorem release (p : Fin 16) : Statement (.release p) := by
  exact fun _ _ h => nomatch h

theorem reclaim (via : Via) (p : Fin 16) : Statement (.reclaim via p) := by
  exact fun _ _ h => nomatch h

theorem teardown (p : Fin 16) : Statement (.teardown p) := by
  exact fun _ _ h => nomatch h

theorem holdExpiry (p : Fin 16) : Statement (.holdExpiry p) := by
  exact fun _ _ h => nomatch h

theorem functionLevelReset (port : Fin 2) (fn : Fin 17) (cause : FlrCause) : Statement (.functionLevelReset port fn cause) := by
  exact fun _ _ h => nomatch h

theorem perstAssert (port : Fin 2) (hot : Bool) : Statement (.perstAssert port hot) := by
  exact fun _ _ h => nomatch h

theorem perstDeassert (port : Fin 2) (clock : Bool) : Statement (.perstDeassert port clock) := by
  exact fun _ _ h => nomatch h

theorem surpriseLinkLoss (port : Fin 2) : Statement (.surpriseLinkLoss port) := by
  exact fun _ _ h => nomatch h

theorem linkUp (port : Fin 2) (speed : Fin 8) (width : Fin 16) (flit : Bool) : Statement (.linkUp port speed width flit) := by
  exact fun _ _ h => nomatch h

theorem hostCompletionTimeout (o : Origin) : Statement (.hostCompletionTimeout o) := by
  exact fun _ _ h => nomatch h

theorem configRequest (port : Fin 2) (fn : Fin 17) (a : ConfigAccess) : Statement (.configRequest port fn a) := by
  exact fun _ _ h => nomatch h

theorem bar2Read (port : Fin 2) (fn : Fin 17) (offset len : Nat) : Statement (.bar2Read port fn offset len) := by
  exact fun _ _ h => nomatch h

theorem bar2Write (port : Fin 2) (fn : Fin 17) (offset : Nat) (bytes : List Byte) : Statement (.bar2Write port fn offset bytes) := by
  exact fun _ _ h => nomatch h

theorem spadWindowRead (port : Fin 2) (fn : Fin 17) (offset len : Nat) : Statement (.spadWindowRead port fn offset len) := by
  exact fun _ _ h => nomatch h

theorem spadWindowWrite (port : Fin 2) (fn : Fin 17) (offset : Nat) (bytes : List Byte) : Statement (.spadWindowWrite port fn offset bytes) := by
  exact fun _ _ h => nomatch h

theorem atomicOpRequest (port : Fin 2) (fn : Fin 17) : Statement (.atomicOpRequest port fn) := by
  exact fun _ _ h => nomatch h

theorem ideIntegrityFail (port : Fin 2) (fn : Fin 17) : Statement (.ideIntegrityFail port fn) := by
  exact fun _ _ h => nomatch h

theorem ideKm (port : Fin 2) (fn : Fin 17) (session : Nat) : Statement (.ideKm port fn session) := by
  exact fun _ _ h => nomatch h

theorem spdmRequest (r : Responder) (q : SpdmRequest) : Statement (.spdmRequest r q) := by
  exact fun _ _ h => nomatch h

theorem secSvnCommit : Statement (.secSvnCommit) := by
  exact fun _ _ h => nomatch h

theorem openOperator : Statement (.openOperator) := by
  exact fun _ _ h => nomatch h

theorem closeOperator : Statement (.closeOperator) := by
  exact fun _ _ h => nomatch h

theorem nonceNew : Statement (.nonceNew) := by
  exact fun _ _ h => nomatch h

theorem token (host : HostReply) (part : Processing) : Statement (.token host part) := by
  exact fun _ _ h => nomatch h

theorem supplement (host : HostReply) (part : Processing) : Statement (.supplement host part) := by
  exact fun _ _ h => nomatch h

theorem debugRead (part : Processing) : Statement (.debugRead part) := by
  exact fun _ _ h => nomatch h

theorem bootChain : Statement (.bootChain) := by
  exact fun _ _ h => nomatch h

theorem faultRecordArrival (source : Page) (how : Arrival) : Statement (.faultRecordArrival source how) := by
  intro h pg hp
  cases hp
  exact h

theorem faultPulseEnd : Statement (.faultPulseEnd) := by
  exact fun _ _ h => nomatch h

theorem graceExpiry (seq : Word) : Statement (.graceExpiry seq) := by
  exact fun _ _ h => nomatch h

theorem fcAck (seq : Word) : Statement (.fcAck seq) := by
  exact fun _ _ h => nomatch h

theorem fenceRelease (blk : Fin 256) : Statement (.fenceRelease blk) := by
  exact fun _ _ h => nomatch h

theorem fenceTestComplete (pass : Bool) : Statement (.fenceTestComplete pass) := by
  exact fun _ _ h => nomatch h

theorem d2dCrcRetry (region : Fin 4) (group : Fin 8) : Statement (.d2dCrcRetry region group) := by
  exact fun _ _ h => nomatch h

theorem d2dRetrainComplete (region : Fin 4) (ok : Bool) : Statement (.d2dRetrainComplete region ok) := by
  exact fun _ _ h => nomatch h

theorem coxWatchdog : Statement (.coxWatchdog) := by
  exact fun _ _ h => nomatch h

theorem pwrEnAssert : Statement (.pwrEnAssert) := by
  exact fun _ _ h => nomatch h

theorem pwrEnDeassert : Statement (.pwrEnDeassert) := by
  exact fun _ _ h => nomatch h

theorem inputGood (mgmtSel : Bool) (sbAddr : Fin 8) : Statement (.inputGood mgmtSel sbAddr) := by
  exact fun _ _ h => nomatch h

theorem hotswapTrip : Statement (.hotswapTrip) := by
  exact fun _ _ h => nomatch h

theorem inputRangeExcursion (high : Bool) : Statement (.inputRangeExcursion high) := by
  exact fun _ _ h => nomatch h

theorem thermalSample (blk : Fin 256) (tempC : Byte) : Statement (.thermalSample blk tempC) := by
  exact fun _ _ h => nomatch h

theorem pmThermalTrip : Statement (.pmThermalTrip) := by
  exact fun _ _ h => nomatch h

theorem pmRailTrip : Statement (.pmRailTrip) := by
  exact fun _ _ h => nomatch h

theorem crystalStable : Statement (.crystalStable) := by
  exact fun _ _ h => nomatch h

theorem pmCrystalFail : Statement (.pmCrystalFail) := by
  exact fun _ _ h => nomatch h

theorem blockClockGate (blk : Fin 256) : Statement (.blockClockGate blk) := by
  exact fun _ _ h => nomatch h

theorem blockRetainTimeout (blk : Fin 256) : Statement (.blockRetainTimeout blk) := by
  exact fun _ _ h => nomatch h

theorem blockOffTimeout (blk : Fin 256) (met : Bool) : Statement (.blockOffTimeout blk met) := by
  exact fun _ _ h => nomatch h

theorem blockWakeComplete (blk : Fin 256) : Statement (.blockWakeComplete blk) := by
  exact fun _ _ h => nomatch h

theorem bankPowerUp (bank : Fin 256) : Statement (.bankPowerUp bank) := by
  exact fun _ _ h => nomatch h

theorem bankIdleReturn (bank : Fin 256) (met : Bool) : Statement (.bankIdleReturn bank met) := by
  exact fun _ _ h => nomatch h

theorem regionSleep (region : Fin 4) : Statement (.regionSleep region) := by
  exact fun _ _ h => nomatch h

theorem regionWakeComplete (region : Fin 4) : Statement (.regionWakeComplete region) := by
  exact fun _ _ h => nomatch h

theorem standby : Statement (.standby) := by
  exact fun _ _ h => nomatch h

theorem standbyEntryComplete : Statement (.standbyEntryComplete) := by
  exact fun _ _ h => nomatch h

theorem wake (via : Endpoint) : Statement (.wake via) := by
  exact fun _ _ h => nomatch h

theorem alarmWake : Statement (.alarmWake) := by
  exact fun _ _ h => nomatch h

theorem wakeRestoreComplete : Statement (.wakeRestoreComplete) := by
  exact fun _ _ h => nomatch h

theorem memoryTrainingComplete : Statement (.memoryTrainingComplete) := by
  exact fun _ _ h => nomatch h

theorem telemetrySample (r : Readings) : Statement (.telemetrySample r) := by
  exact fun _ _ h => nomatch h

theorem mgmtOverride (value : Option (Fin 2)) (via : Endpoint) : Statement (.mgmtOverride value via) := by
  exact fun _ _ h => nomatch h

theorem mctpStandby (via : Endpoint) : Statement (.mctpStandby via) := by
  exact fun _ _ h => nomatch h

theorem mctpToken (offset : Nat) (bytes : List Byte) (last : Bool) (part : Processing) (via : Endpoint) :
    Statement (.mctpToken offset bytes last part via) := by
  exact fun _ _ h => nomatch h

theorem faultRead (seq : Word) (via : Endpoint) : Statement (.faultRead seq via) := by
  exact fun _ _ h => nomatch h

theorem telemetryRead (via : Endpoint) : Statement (.telemetryRead via) := by
  exact fun _ _ h => nomatch h

theorem status (via : Endpoint) : Statement (.status via) := by
  exact fun _ _ h => nomatch h

theorem mctpUnsupportedCmd (code : Byte) (via : Endpoint) : Statement (.mctpUnsupportedCmd code via) := by
  exact fun _ _ h => nomatch h

theorem setEndpointId (pcie : Bool) (eid : Byte) : Statement (.setEndpointId pcie eid) := by
  exact fun _ _ h => nomatch h

theorem i3cDynamicAddress (addr : BitVec 7) : Statement (.i3cDynamicAddress addr) := by
  exact fun _ _ h => nomatch h

theorem rstdaa : Statement (.rstdaa) := by
  exact fun _ _ h => nomatch h

theorem slEnableWrite (page : Page) (on : Bool) : Statement (.slEnableWrite page on) := by
  intro h pg hp
  cases hp
  first | exact h | (simp only [Instr.wf, Bool.and_eq_true] at h; exact h.1)

theorem pageQuiesce (page : Page) (v : Word) : Statement (.pageQuiesce page v) := by
  intro h pg hp
  cases hp
  first | exact h | (simp only [Instr.wf, Bool.and_eq_true] at h; exact h.1)

theorem pageEnableWrite (page : Page) (v : Word) : Statement (.pageEnableWrite page v) := by
  intro h pg hp
  cases hp
  first | exact h | (simp only [Instr.wf, Bool.and_eq_true] at h; exact h.1)

theorem localReset (page : Page) (v : Word) : Statement (.localReset page v) := by
  intro h pg hp
  cases hp
  first | exact h | (simp only [Instr.wf, Bool.and_eq_true] at h; exact h.1)

theorem irqStatClear (page : Page) (err : Bool) (v : Word) : Statement (.irqStatClear page err v) := by
  intro h pg hp
  cases hp
  first | exact h | (simp only [Instr.wf, Bool.and_eq_true] at h; exact h.1)

theorem irqSet (page : Page) (v : Word) : Statement (.irqSet page v) := by
  intro h pg hp
  cases hp
  first | exact h | (simp only [Instr.wf, Bool.and_eq_true] at h; exact h.1)

theorem interruptMaskWrite (page : Page) (err : Bool) (v : Word) : Statement (.interruptMaskWrite page err v) := by
  intro h pg hp
  cases hp
  first | exact h | (simp only [Instr.wf, Bool.and_eq_true] at h; exact h.1)

theorem errInject (page : Page) (v : Word) : Statement (.errInject page v) := by
  intro h pg hp
  cases hp
  first | exact h | (simp only [Instr.wf, Bool.and_eq_true] at h; exact h.1)

theorem countClear (page : Page) (v : Word) : Statement (.countClear page v) := by
  intro h pg hp
  cases hp
  first | exact h | (simp only [Instr.wf, Bool.and_eq_true] at h; exact h.1)

theorem latchingLoRead (via : Via) (offset : Nat) : Statement (.latchingLoRead via offset) := by
  exact fun _ _ h => nomatch h

theorem registerWrite (via : Via) (offset : Nat) (v : Word) (be : BitVec 4) : Statement (.registerWrite via offset v be) := by
  exact fun _ _ h => nomatch h

theorem srnSignalLoss (port : Fin 5) : Statement (.srnSignalLoss port) := by
  exact fun _ _ h => nomatch h

theorem srnSignalDetect (port : Fin 5) : Statement (.srnSignalDetect port) := by
  exact fun _ _ h => nomatch h

theorem functionReadinessStatus (port : Fin 2) (fn : Fin 17) : Statement (.functionReadinessStatus port fn) := by
  exact fun _ _ h => nomatch h

theorem debugPortUnlock : Statement (.debugPortUnlock) := by
  exact fun _ _ h => nomatch h

theorem jtagAccess (a : Jtag) : Statement (.jtagAccess a) := by
  intro h pg hp
  cases a <;> simp_all [pageOf, Instr.wf, Jtag.wf]

end Sys2Proof.Laws.WellFormedness
end

