-- ==== Sys2Proof/Laws/Sems.lean ====
section
/-! SUPPORT. Faulting a job and ending a command leave every semaphore as it is. -/
set_option linter.all false
namespace Sys2Proof.Machine

/-- The semaphores are as named. -/
abbrev Sems (k : Table Nat) (s : Chip) : Prop := s.q.sems = k

theorem canon_q (s : Chip) : s.Canon False none none none none none none ⟨none, some s.q, none, none, none, none,
    none⟩ :=
  ⟨False.elim, noneOnly _, noneOnly _, noneOnly _, noneOnly _, noneOnly _, noneOnly _,
    ⟨noneOnly _, someOnly _, noneOnly _, noneOnly _, noneOnly _, noneOnly _, noneOnly _⟩⟩

/-- What keeps the queues keeps the semaphores. -/
theorem sems_via {k : Table Nat} {s t : Chip}
    (h : t.Canon False none none none none none none ⟨none, some s.q, none, none, none, none, none⟩) (h_s : Sems k s) : Sems k t :=
  (congrArg Queues.sems (h.cx.q _ rfl)).symm.trans h_s

theorem sems_foldl {k : Table Nat} {α : Type} {f : Chip → α → Chip} {l : List α} {s : Chip} (h_s : Sems k s)
    (h : ∀ t a, Sems k t → Sems k (f t a)) : Sems k (l.foldl f s) := by
  induction l generalizing s with
  | nil => exact h_s
  | cons a l ih => exact ih (h _ _ h_s)

theorem sems_foldl_fst {k : Table Nat} {α β : Type} {f : Chip × β → α → Chip × β} {l : List α} {s : Chip × β} (h_s :
    Sems k s.1)
    (h : ∀ t a, Sems k t.1 → Sems k (f t a).1) : Sems k (l.foldl f s).1 := by
  induction l generalizing s with
  | nil => exact h_s
  | cons a l ih => exact ih (h _ _ h_s)

theorem sems_wr {k : Table Nat} {s : Chip} {pg : Page} {f : Field} {v : Nat} (h : Sems k s) : Sems k (wr s pg f v) :=
  sems_via (canon_wr (canon_q _)) h

theorem sems_wrAll {k : Table Nat} {s : Chip} {pg : Page} {l : List (Field × Nat)} (h : Sems k s) : Sems k (wrAll s pg
    l) :=
  sems_via (canon_wrAll (canon_q _)) h

theorem sems_send {k : Table Nat} {s : Chip} {pg : Page} {n : Note} (h : Sems k s) : Sems k (send s pg n) :=
  sems_via (canon_send (canon_q _)) h

theorem sems_report {k : Table Nat} {s : Chip} {pg : Page} {f : Field} {n : Note} (h : Sems k s) : Sems k (report s pg
    f n) :=
  sems_via (canon_report (canon_q _)) h

theorem sems_setBlock {k : Table Nat} {s : Chip} {b : Nat} {f : Block → Block} (h : Sems k s) : Sems k (setBlock s b
    f) :=
  sems_via (canon_setBlock (canon_q _)) h

theorem sems_stampRegion {k : Table Nat} {s : Chip} {r : Nat} (h : Sems k s) : Sems k (stampRegion s r) :=
  sems_via (canon_stampRegion (canon_q _)) h

theorem sems_stampEngine {k : Table Nat} {s : Chip} {e : Engine} (h : Sems k s) : Sems k (stampEngine s e) :=
  sems_via (canon_stampEngine (canon_q _)) h

theorem sems_recount {k : Table Nat} {s : Chip} {p : Nat} {n : Nat} {q : Nat} (h : Sems k s) : Sems k (recount s p n
    q) :=
  sems_via (canon_recount (canon_q _)) h

theorem sems_showBound {k : Table Nat} {s : Chip} {p : Nat} {q : Nat} (h : Sems k s) : Sems k (showBound s p q) :=
  sems_via (canon_showBound (canon_q _)) h

theorem sems_showWaits {k : Table Nat} {s : Chip} {q : Nat} (h : Sems k s) : Sems k (showWaits s q) :=
  sems_via (canon_showWaits (canon_q _)) h

theorem sems_showStopping {k : Table Nat} {s : Chip} {p : Nat} (h : Sems k s) : Sems k (showStopping s p) :=
  sems_via (canon_showStopping (canon_q _)) h

theorem sems_keepSwitch {k : Table Nat} {s : Chip} {q : Nat} {x : Switch} (h : Sems k s) : Sems k (keepSwitch s q x) :=
  sems_via (canon_keepSwitch (canon_q _)) h

theorem sems_spillShort {k : Table Nat} {s : Chip} {q : Nat} {w : Switch} (h : Sems k s) : Sems k (spillShort s q w) :=
  sems_via (canon_spillShort (canon_q _)) h

theorem sems_releaseSpillWrites {k : Table Nat} {s : Chip} {p : Nat} (h : Sems k s) : Sems k (releaseSpillWrites s p) :=
  sems_via (canon_releaseSpillWrites (canon_q _)) h

theorem sems_idleFront {k : Table Nat} {s : Chip} {q : Nat} (h : Sems k s) : Sems k (idleFront s q) :=
  sems_via (canon_idleFront (canon_q _)) h

theorem sems_writeRecord {k : Table Nat} {s : Chip} {r : HeldRecord} (h : Sems k s) : Sems k (writeRecord s r) :=
  sems_via (canon_writeRecord (canon_q _)) h

theorem sems_recordWaits {k : Table Nat} {s : Chip} {p : Nat} {n : Nat} {quad : Nat} (h : Sems k s) : Sems k
    (recordWaits s p n quad) :=
  sems_via (canon_recordWaits (canon_q _)) h

theorem sems_dropSets {k : Table Nat} {s : Chip} {j : Job} (h : Sems k s) : Sems k (dropSets s j) :=
  sems_via (canon_dropSets (canon_q _)) h

theorem sems_setJob {k : Table Nat} {s : Chip} {id : Nat} {f : Job → Job} (h_s : Sems k s) : Sems k (setJob s id f) :=
    by
  unfold setJob
  try dsimp only
  repeat' first
    | with_reducible assumption

theorem sems_finish {k : Table Nat} {s : Chip} {o : Origin} {e : Engine} {op : Nat} {b : Body} (h_s : Sems k s) : Sems
    k (finish s o e op b) := by
  unfold finish
  try dsimp only
  repeat' first
    | with_reducible assumption
    | with_reducible apply sems_setJob
    | with_reducible apply sems_stampEngine
    | split

theorem sems_cancelCmds {k : Table Nat} {s : Chip} {j : Job} {f : Cmd → Cmd} (h_s : Sems k s) : Sems k (cancelCmds s j
    f) := by
  unfold cancelCmds
  try dsimp only
  repeat' first
    | with_reducible assumption
    | with_reducible apply sems_setJob

theorem sems_stopProgress {k : Table Nat} {s : Chip} {p : Nat} (h_s : Sems k s) : Sems k (stopProgress s p) := by
  unfold stopProgress
  try dsimp only
  repeat' first
    | with_reducible assumption
    | with_reducible apply sems_wr
    | with_reducible apply sems_finish
    | with_reducible apply sems_foldl
    | with_reducible apply sems_foldl_fst
    | split
    | intro _

theorem sems_resetOver {k : Table Nat} {s : Chip} {p : Nat} {n : Nat} (h_s : Sems k s) : Sems k (resetOver s p n) := by
  unfold resetOver
  try dsimp only
  repeat' first
    | with_reducible assumption
    | with_reducible apply sems_wrAll
    | with_reducible apply sems_showBound
    | with_reducible apply sems_showStopping
    | with_reducible apply sems_stopProgress

theorem sems_resetProgress {k : Table Nat} {s : Chip} {p : Nat} {n : Nat} (h_s : Sems k s) : Sems k (resetProgress s p
    n) := by
  unfold resetProgress
  try dsimp only
  repeat' first
    | with_reducible assumption
    | with_reducible apply sems_resetOver
    | split

theorem sems_withdrawWaits {k : Table Nat} {s : Chip} {j : Job} (h_s : Sems k s) : Sems k (withdrawWaits s j) := by
  unfold withdrawWaits
  try dsimp only
  repeat' first
    | with_reducible assumption
    | with_reducible apply sems_setJob
    | with_reducible apply sems_showWaits

theorem sems_withdrawAt {k : Table Nat} {s : Chip} {here : List Nat} (h_s : Sems k s) : Sems k (withdrawAt s here) := by
  unfold withdrawAt
  try dsimp only
  repeat' first
    | with_reducible assumption
    | with_reducible apply sems_withdrawWaits
    | with_reducible apply sems_foldl
    | with_reducible apply sems_foldl_fst
    | split
    | intro _

theorem sems_planSpill {k : Table Nat} {s : Chip} {q : Nat} {w : Switch} {here : List Nat} (h_s : Sems k s) : Sems k
    (planSpill s q w here) := by
  unfold planSpill
  try dsimp only
  repeat' first
    | with_reducible assumption
    | with_reducible apply sems_wr
    | with_reducible apply sems_withdrawAt
    | with_reducible apply sems_keepSwitch
    | with_reducible apply sems_spillShort
    | split

theorem sems_victimEnded {k : Table Nat} {s : Chip} {q : Nat} {w : Switch} {id : Nat} (h_s : Sems k s) : Sems k
    (victimEnded s q w id) := by
  unfold victimEnded
  try dsimp only
  repeat' first
    | with_reducible assumption
    | with_reducible apply sems_wr
    | with_reducible apply sems_keepSwitch
    | with_reducible apply sems_planSpill
    | with_reducible apply sems_releaseSpillWrites
    | with_reducible apply sems_idleFront
    | split

theorem sems_dropVictim {k : Table Nat} {s : Chip} {id : Nat} (h_s : Sems k s) : Sems k (dropVictim s id) := by
  unfold dropVictim
  try dsimp only
  repeat' first
    | with_reducible assumption
    | with_reducible apply sems_victimEnded
    | with_reducible apply sems_foldl
    | with_reducible apply sems_foldl_fst
    | split
    | intro _

theorem sems_complete {k : Table Nat} {s : Chip} {r : HeldRecord} {quad : Nat} (h_s : Sems k s) : Sems k (complete s r
    quad) := by
  unfold complete
  try dsimp only
  repeat' first
    | with_reducible assumption
    | with_reducible apply sems_writeRecord
    | with_reducible apply sems_recordWaits
    | split

theorem sems_chargeRaw {k : Table Nat} {s : Chip} {e : Engine} {o : Origin} {n : Nat} (h_s : Sems k s) : Sems k
    (chargeRaw s e o n) := by
  unfold chargeRaw
  try dsimp only
  repeat' first
    | with_reducible assumption

theorem sems_charge {k : Table Nat} {s : Chip} {e : Engine} {o : Origin} {n : Nat} (h_s : Sems k s) : Sems k (charge s
    e o n) := by
  unfold charge
  try dsimp only
  repeat' first
    | with_reducible assumption
    | with_reducible apply sems_chargeRaw

theorem sems_leaveAccWait {k : Table Nat} {s : Chip} {b : Nat} {w : AccWait} (h_s : Sems k s) : Sems k (leaveAccWait s
    b w) := by
  unfold leaveAccWait
  try dsimp only
  repeat' first
    | with_reducible assumption
    | with_reducible apply sems_wr
    | with_reducible apply sems_setBlock
    | with_reducible apply sems_chargeRaw

theorem sems_endAccWaits {k : Table Nat} {s : Chip} {gone : Origin → Body → Bool} (h_s : Sems k s) : Sems k
    (endAccWaits s gone) := by
  unfold endAccWaits
  try dsimp only
  repeat' first
    | with_reducible assumption
    | with_reducible apply sems_leaveAccWait
    | with_reducible apply sems_foldl
    | with_reducible apply sems_foldl_fst
    | split
    | intro _

theorem sems_removeJob {k : Table Nat} {s : Chip} {j : Job} (h_s : Sems k s) : Sems k (removeJob s j) := by
  unfold removeJob
  try dsimp only
  repeat' first
    | with_reducible assumption
    | with_reducible apply sems_stampRegion
    | with_reducible apply sems_cancelCmds
    | with_reducible apply sems_recount
    | with_reducible apply sems_showWaits
    | with_reducible apply sems_dropVictim
    | with_reducible apply sems_endAccWaits

theorem sems_endJob {k : Table Nat} {s : Chip} {j : Job} {status : Nat} {info : Nat} (h_s : Sems k s) : Sems k (endJob
    s j status info) := by
  unfold endJob
  try dsimp only
  repeat' first
    | with_reducible assumption
    | with_reducible apply sems_stopProgress
    | with_reducible apply sems_resetProgress
    | with_reducible apply sems_complete
    | with_reducible apply sems_removeJob
    | with_reducible apply sems_dropSets
    | split

theorem sems_settle {k : Table Nat} {s : Chip} {id : Nat} (h_s : Sems k s) : Sems k (settle s id) := by
  unfold settle
  try dsimp only
  repeat' first
    | with_reducible assumption
    | with_reducible apply sems_setJob
    | with_reducible apply sems_endJob
    | split

theorem sems_endWaits {k : Table Nat} {s : Chip} {gone : Origin → Body → Bool} {q : Nat} (h_s : Sems k s) : Sems k
    (endWaits s gone q) := by
  unfold endWaits
  try dsimp only
  repeat' first
    | with_reducible assumption
    | with_reducible apply sems_showWaits

theorem sems_markJob {k : Table Nat} {s : Chip} {j : Job} {code : Nat} {info : Nat} (h_s : Sems k s) : Sems k (markJob
    s j code info) := by
  unfold markJob
  try dsimp only
  repeat' first
    | with_reducible assumption
    | with_reducible apply sems_setJob
    | with_reducible apply sems_cancelCmds
    | with_reducible apply sems_endWaits

theorem sems_faultOf {k : Table Nat} {s : Chip} {pg : Page} {f : Option Field} {o : Origin} {j : Option Job} {code :
    Nat} {addr : Option (Nat × Nat)} (h_s : Sems k s) : Sems k (faultOf s pg f o j code addr) := by
  unfold faultOf
  try dsimp only
  repeat' first
    | with_reducible assumption
    | with_reducible apply sems_wrAll
    | with_reducible apply sems_send
    | with_reducible apply sems_report
    | with_reducible apply sems_settle
    | with_reducible apply sems_markJob
    | split

theorem sems_faultJob {k : Table Nat} {s : Chip} {pg : Page} {f : Option Field} {o : Origin} {code : Nat} {addr :
    Option (Nat × Nat)} (h_s : Sems k s) : Sems k (faultJob s pg f o code addr) := by
  unfold faultJob
  try dsimp only
  repeat' first
    | with_reducible assumption
    | with_reducible apply sems_faultOf

theorem sems_faultQueue {k : Table Nat} {s : Chip} {o : Origin} {code : Nat} (h_s : Sems k s) : Sems k (faultQueue s o
    code) := by
  unfold faultQueue
  try dsimp only
  repeat' first
    | with_reducible assumption
    | with_reducible apply sems_faultJob

theorem sems_syncDone {k : Table Nat} {s : Chip} {o : Origin} {op : Nat} {b : Body} (h_s : Sems k s) : Sems k
    (syncDone s o op b) := by
  unfold syncDone
  try dsimp only
  repeat' first
    | with_reducible assumption
    | with_reducible apply sems_finish
    | with_reducible apply sems_charge

end Sys2Proof.Machine
end

