-- ==== Sys2Proof/Laws/State.lean ====
section
/-!
SUPPORT. What each named update of the module leaves alone, one lemma per field; what the read of a register, of a byte of
memory and of a byte of a bank gives after a write; and what the shared ends of a command's meaning answer.
-/
namespace Sys2Proof.Machine

/-! ### The queue -/

@[simp] theorem withPending_toChip (s : State) (l : List Instr) : (s.withPending l).toChip = s.toChip := rfl
@[simp] theorem withPending_pending (s : State) (l : List Instr) : (s.withPending l).pending = l := rfl

/-- A change of the module is always answered with a next state, which has the same queue. -/
theorem act_eq (s : State) (f : Chip → Chip) : act s f = .next ⟨f s.toChip, s.pending⟩ := rfl

/-- A command of an engine changes the module while it runs, and leaves it alone otherwise. -/
theorem live_eq (s : State) (f : Chip → Chip) :
    live s f = .next ⟨if running s.toChip = true then f s.toChip else s.toChip, s.pending⟩ := by
  simp only [live, act, whenRunning]

/-- A command of the host driver changes the module while the driver's link is up, and leaves it alone otherwise. -/
theorem driven_eq (s : State) (f : Chip → Chip) :
    driven s f = .next ⟨if driverOpen s.toChip = true then f s.toChip else s.toChip, s.pending⟩ := by
  simp only [driven, act, whenSo]

/-- One that needs the module running changes it while both hold. -/
theorem drivenLive_eq (s : State) (f : Chip → Chip) : drivenLive s f =
    .next ⟨if running s.toChip = true then (if driverOpen s.toChip = true then f s.toChip else s.toChip) else s.toChip, s.pending⟩ := by
  simp only [drivenLive, live, act, whenRunning, whenSo]

/-- An access through a function changes the module while the function's link is up, and leaves it alone otherwise. -/
theorem through_eq (s : State) (via : Via) (f : Chip → Chip) :
    through s via f = .next ⟨if viaOpen s.toChip via = true then f s.toChip else s.toChip, s.pending⟩ := by
  simp only [through, act, whenSo]

/-- One that needs the module running changes it while both hold. -/
theorem throughLive_eq (s : State) (via : Via) (f : Chip → Chip) : throughLive s via f =
    .next ⟨if running s.toChip = true then (if viaOpen s.toChip via = true then f s.toChip else s.toChip) else s.toChip,
      s.pending⟩ := by
  simp only [throughLive, live, act, whenRunning, whenSo]

/-! ### wr -/

@[simp] theorem wr_now (s : Chip) (pg : Page) (f : Field) (v : Nat) : (wr s pg f v).now = s.now := rfl
@[simp] theorem wr_xtal (s : Chip) (pg : Page) (f : Field) (v : Nat) : (wr s pg f v).xtal = s.xtal := rfl
@[simp] theorem wr_fresh (s : Chip) (pg : Page) (f : Field) (v : Nat) : (wr s pg f v).fresh = s.fresh := rfl
@[simp] theorem wr_out (s : Chip) (pg : Page) (f : Field) (v : Nat) : (wr s pg f v).out = s.out := rfl
@[simp] theorem wr_heldLo (s : Chip) (pg : Page) (f : Field) (v : Nat) : (wr s pg f v).heldLo = s.heldLo := rfl
@[simp] theorem wr_latchHi (s : Chip) (pg : Page) (f : Field) (v : Nat) : (wr s pg f v).latchHi = s.latchHi := rfl
@[simp] theorem wr_mem (s : Chip) (pg : Page) (f : Field) (v : Nat) : (wr s pg f v).mem = s.mem := rfl
@[simp] theorem wr_retire (s : Chip) (pg : Page) (f : Field) (v : Nat) : (wr s pg f v).retire = s.retire := rfl
@[simp] theorem wr_slices (s : Chip) (pg : Page) (f : Field) (v : Nat) : (wr s pg f v).slices = s.slices := rfl
@[simp] theorem wr_girth (s : Chip) (pg : Page) (f : Field) (v : Nat) : (wr s pg f v).girth = s.girth := rfl
@[simp] theorem wr_patrol (s : Chip) (pg : Page) (f : Field) (v : Nat) : (wr s pg f v).patrol = s.patrol := rfl
@[simp] theorem wr_patrolFrom (s : Chip) (pg : Page) (f : Field) (v : Nat) : (wr s pg f v).patrolFrom = s.patrolFrom := rfl
@[simp] theorem wr_pads (s : Chip) (pg : Page) (f : Field) (v : Nat) : (wr s pg f v).pads = s.pads := rfl
@[simp] theorem wr_fills (s : Chip) (pg : Page) (f : Field) (v : Nat) : (wr s pg f v).fills = s.fills := rfl
@[simp] theorem wr_scrubPos (s : Chip) (pg : Page) (f : Field) (v : Nat) : (wr s pg f v).scrubPos = s.scrubPos := rfl
@[simp] theorem wr_bankTurn (s : Chip) (pg : Page) (f : Field) (v : Nat) : (wr s pg f v).bankTurn = s.bankTurn := rfl
@[simp] theorem wr_blocks (s : Chip) (pg : Page) (f : Field) (v : Nat) : (wr s pg f v).blocks = s.blocks := rfl
@[simp] theorem wr_prec (s : Chip) (pg : Page) (f : Field) (v : Nat) : (wr s pg f v).prec = s.prec := rfl
@[simp] theorem wr_q (s : Chip) (pg : Page) (f : Field) (v : Nat) : (wr s pg f v).q = s.q := rfl
@[simp] theorem wr_switches (s : Chip) (pg : Page) (f : Field) (v : Nat) : (wr s pg f v).switches = s.switches := rfl
@[simp] theorem wr_spillHeld (s : Chip) (pg : Page) (f : Field) (v : Nat) : (wr s pg f v).spillHeld = s.spillHeld := rfl
@[simp] theorem wr_kv (s : Chip) (pg : Page) (f : Field) (v : Nat) : (wr s pg f v).kv = s.kv := rfl
@[simp] theorem wr_slots (s : Chip) (pg : Page) (f : Field) (v : Nat) : (wr s pg f v).slots = s.slots := rfl
@[simp] theorem wr_serve (s : Chip) (pg : Page) (f : Field) (v : Nat) : (wr s pg f v).serve = s.serve := rfl
@[simp] theorem wr_hosts (s : Chip) (pg : Page) (f : Field) (v : Nat) : (wr s pg f v).hosts = s.hosts := rfl
@[simp] theorem wr_sec (s : Chip) (pg : Page) (f : Field) (v : Nat) : (wr s pg f v).sec = s.sec := rfl
@[simp] theorem wr_mesh (s : Chip) (pg : Page) (f : Field) (v : Nat) : (wr s pg f v).mesh = s.mesh := rfl
@[simp] theorem wr_faults (s : Chip) (pg : Page) (f : Field) (v : Nat) : (wr s pg f v).faults = s.faults := rfl
@[simp] theorem wr_power (s : Chip) (pg : Page) (f : Field) (v : Nat) : (wr s pg f v).power = s.power := rfl
@[simp] theorem wr_bus (s : Chip) (pg : Page) (f : Field) (v : Nat) : (wr s pg f v).bus = s.bus := rfl

/-! ### emit -/

@[simp] theorem emit_now (s : Chip) (m : Out) : (emit s m).now = s.now := rfl
@[simp] theorem emit_xtal (s : Chip) (m : Out) : (emit s m).xtal = s.xtal := rfl
@[simp] theorem emit_fresh (s : Chip) (m : Out) : (emit s m).fresh = s.fresh := rfl
@[simp] theorem emit_regs (s : Chip) (m : Out) : (emit s m).regs = s.regs := rfl
@[simp] theorem emit_heldLo (s : Chip) (m : Out) : (emit s m).heldLo = s.heldLo := rfl
@[simp] theorem emit_latchHi (s : Chip) (m : Out) : (emit s m).latchHi = s.latchHi := rfl
@[simp] theorem emit_mem (s : Chip) (m : Out) : (emit s m).mem = s.mem := rfl
@[simp] theorem emit_retire (s : Chip) (m : Out) : (emit s m).retire = s.retire := rfl
@[simp] theorem emit_slices (s : Chip) (m : Out) : (emit s m).slices = s.slices := rfl
@[simp] theorem emit_girth (s : Chip) (m : Out) : (emit s m).girth = s.girth := rfl
@[simp] theorem emit_patrol (s : Chip) (m : Out) : (emit s m).patrol = s.patrol := rfl
@[simp] theorem emit_patrolFrom (s : Chip) (m : Out) : (emit s m).patrolFrom = s.patrolFrom := rfl
@[simp] theorem emit_pads (s : Chip) (m : Out) : (emit s m).pads = s.pads := rfl
@[simp] theorem emit_fills (s : Chip) (m : Out) : (emit s m).fills = s.fills := rfl
@[simp] theorem emit_scrubPos (s : Chip) (m : Out) : (emit s m).scrubPos = s.scrubPos := rfl
@[simp] theorem emit_bankTurn (s : Chip) (m : Out) : (emit s m).bankTurn = s.bankTurn := rfl
@[simp] theorem emit_blocks (s : Chip) (m : Out) : (emit s m).blocks = s.blocks := rfl
@[simp] theorem emit_prec (s : Chip) (m : Out) : (emit s m).prec = s.prec := rfl
@[simp] theorem emit_q (s : Chip) (m : Out) : (emit s m).q = s.q := rfl
@[simp] theorem emit_switches (s : Chip) (m : Out) : (emit s m).switches = s.switches := rfl
@[simp] theorem emit_spillHeld (s : Chip) (m : Out) : (emit s m).spillHeld = s.spillHeld := rfl
@[simp] theorem emit_kv (s : Chip) (m : Out) : (emit s m).kv = s.kv := rfl
@[simp] theorem emit_slots (s : Chip) (m : Out) : (emit s m).slots = s.slots := rfl
@[simp] theorem emit_serve (s : Chip) (m : Out) : (emit s m).serve = s.serve := rfl
@[simp] theorem emit_hosts (s : Chip) (m : Out) : (emit s m).hosts = s.hosts := rfl
@[simp] theorem emit_sec (s : Chip) (m : Out) : (emit s m).sec = s.sec := rfl
@[simp] theorem emit_mesh (s : Chip) (m : Out) : (emit s m).mesh = s.mesh := rfl
@[simp] theorem emit_faults (s : Chip) (m : Out) : (emit s m).faults = s.faults := rfl
@[simp] theorem emit_power (s : Chip) (m : Out) : (emit s m).power = s.power := rfl
@[simp] theorem emit_bus (s : Chip) (m : Out) : (emit s m).bus = s.bus := rfl

/-! ### setMem -/

@[simp] theorem setMem_now (s : Chip) (m : Memory) : (setMem s m).now = s.now := rfl
@[simp] theorem setMem_xtal (s : Chip) (m : Memory) : (setMem s m).xtal = s.xtal := rfl
@[simp] theorem setMem_fresh (s : Chip) (m : Memory) : (setMem s m).fresh = s.fresh := rfl
@[simp] theorem setMem_out (s : Chip) (m : Memory) : (setMem s m).out = s.out := rfl
@[simp] theorem setMem_regs (s : Chip) (m : Memory) : (setMem s m).regs = s.regs := rfl
@[simp] theorem setMem_heldLo (s : Chip) (m : Memory) : (setMem s m).heldLo = s.heldLo := rfl
@[simp] theorem setMem_latchHi (s : Chip) (m : Memory) : (setMem s m).latchHi = s.latchHi := rfl
@[simp] theorem setMem_retire (s : Chip) (m : Memory) : (setMem s m).retire = s.retire := rfl
@[simp] theorem setMem_slices (s : Chip) (m : Memory) : (setMem s m).slices = s.slices := rfl
@[simp] theorem setMem_girth (s : Chip) (m : Memory) : (setMem s m).girth = s.girth := rfl
@[simp] theorem setMem_patrol (s : Chip) (m : Memory) : (setMem s m).patrol = s.patrol := rfl
@[simp] theorem setMem_patrolFrom (s : Chip) (m : Memory) : (setMem s m).patrolFrom = s.patrolFrom := rfl
@[simp] theorem setMem_pads (s : Chip) (m : Memory) : (setMem s m).pads = s.pads := rfl
@[simp] theorem setMem_fills (s : Chip) (m : Memory) : (setMem s m).fills = s.fills := rfl
@[simp] theorem setMem_scrubPos (s : Chip) (m : Memory) : (setMem s m).scrubPos = s.scrubPos := rfl
@[simp] theorem setMem_bankTurn (s : Chip) (m : Memory) : (setMem s m).bankTurn = s.bankTurn := rfl
@[simp] theorem setMem_blocks (s : Chip) (m : Memory) : (setMem s m).blocks = s.blocks := rfl
@[simp] theorem setMem_prec (s : Chip) (m : Memory) : (setMem s m).prec = s.prec := rfl
@[simp] theorem setMem_q (s : Chip) (m : Memory) : (setMem s m).q = s.q := rfl
@[simp] theorem setMem_switches (s : Chip) (m : Memory) : (setMem s m).switches = s.switches := rfl
@[simp] theorem setMem_spillHeld (s : Chip) (m : Memory) : (setMem s m).spillHeld = s.spillHeld := rfl
@[simp] theorem setMem_kv (s : Chip) (m : Memory) : (setMem s m).kv = s.kv := rfl
@[simp] theorem setMem_slots (s : Chip) (m : Memory) : (setMem s m).slots = s.slots := rfl
@[simp] theorem setMem_serve (s : Chip) (m : Memory) : (setMem s m).serve = s.serve := rfl
@[simp] theorem setMem_hosts (s : Chip) (m : Memory) : (setMem s m).hosts = s.hosts := rfl
@[simp] theorem setMem_sec (s : Chip) (m : Memory) : (setMem s m).sec = s.sec := rfl
@[simp] theorem setMem_mesh (s : Chip) (m : Memory) : (setMem s m).mesh = s.mesh := rfl
@[simp] theorem setMem_faults (s : Chip) (m : Memory) : (setMem s m).faults = s.faults := rfl
@[simp] theorem setMem_power (s : Chip) (m : Memory) : (setMem s m).power = s.power := rfl
@[simp] theorem setMem_bus (s : Chip) (m : Memory) : (setMem s m).bus = s.bus := rfl

/-! ### memPut -/

@[simp] theorem memPut_now (s : Chip) (a : Nat) (l : List Byte) : (memPut s a l).now = s.now := rfl
@[simp] theorem memPut_xtal (s : Chip) (a : Nat) (l : List Byte) : (memPut s a l).xtal = s.xtal := rfl
@[simp] theorem memPut_fresh (s : Chip) (a : Nat) (l : List Byte) : (memPut s a l).fresh = s.fresh := rfl
@[simp] theorem memPut_out (s : Chip) (a : Nat) (l : List Byte) : (memPut s a l).out = s.out := rfl
@[simp] theorem memPut_regs (s : Chip) (a : Nat) (l : List Byte) : (memPut s a l).regs = s.regs := rfl
@[simp] theorem memPut_heldLo (s : Chip) (a : Nat) (l : List Byte) : (memPut s a l).heldLo = s.heldLo := rfl
@[simp] theorem memPut_latchHi (s : Chip) (a : Nat) (l : List Byte) : (memPut s a l).latchHi = s.latchHi := rfl
@[simp] theorem memPut_retire (s : Chip) (a : Nat) (l : List Byte) : (memPut s a l).retire = s.retire := rfl
@[simp] theorem memPut_slices (s : Chip) (a : Nat) (l : List Byte) : (memPut s a l).slices = s.slices := rfl
@[simp] theorem memPut_girth (s : Chip) (a : Nat) (l : List Byte) : (memPut s a l).girth = s.girth := rfl
@[simp] theorem memPut_patrol (s : Chip) (a : Nat) (l : List Byte) : (memPut s a l).patrol = s.patrol := rfl
@[simp] theorem memPut_patrolFrom (s : Chip) (a : Nat) (l : List Byte) : (memPut s a l).patrolFrom = s.patrolFrom := rfl
@[simp] theorem memPut_pads (s : Chip) (a : Nat) (l : List Byte) : (memPut s a l).pads = s.pads := rfl
@[simp] theorem memPut_fills (s : Chip) (a : Nat) (l : List Byte) : (memPut s a l).fills = s.fills := rfl
@[simp] theorem memPut_scrubPos (s : Chip) (a : Nat) (l : List Byte) : (memPut s a l).scrubPos = s.scrubPos := rfl
@[simp] theorem memPut_bankTurn (s : Chip) (a : Nat) (l : List Byte) : (memPut s a l).bankTurn = s.bankTurn := rfl
@[simp] theorem memPut_blocks (s : Chip) (a : Nat) (l : List Byte) : (memPut s a l).blocks = s.blocks := rfl
@[simp] theorem memPut_prec (s : Chip) (a : Nat) (l : List Byte) : (memPut s a l).prec = s.prec := rfl
@[simp] theorem memPut_q (s : Chip) (a : Nat) (l : List Byte) : (memPut s a l).q = s.q := rfl
@[simp] theorem memPut_switches (s : Chip) (a : Nat) (l : List Byte) : (memPut s a l).switches = s.switches := rfl
@[simp] theorem memPut_spillHeld (s : Chip) (a : Nat) (l : List Byte) : (memPut s a l).spillHeld = s.spillHeld := rfl
@[simp] theorem memPut_kv (s : Chip) (a : Nat) (l : List Byte) : (memPut s a l).kv = s.kv := rfl
@[simp] theorem memPut_slots (s : Chip) (a : Nat) (l : List Byte) : (memPut s a l).slots = s.slots := rfl
@[simp] theorem memPut_serve (s : Chip) (a : Nat) (l : List Byte) : (memPut s a l).serve = s.serve := rfl
@[simp] theorem memPut_hosts (s : Chip) (a : Nat) (l : List Byte) : (memPut s a l).hosts = s.hosts := rfl
@[simp] theorem memPut_sec (s : Chip) (a : Nat) (l : List Byte) : (memPut s a l).sec = s.sec := rfl
@[simp] theorem memPut_mesh (s : Chip) (a : Nat) (l : List Byte) : (memPut s a l).mesh = s.mesh := rfl
@[simp] theorem memPut_faults (s : Chip) (a : Nat) (l : List Byte) : (memPut s a l).faults = s.faults := rfl
@[simp] theorem memPut_power (s : Chip) (a : Nat) (l : List Byte) : (memPut s a l).power = s.power := rfl
@[simp] theorem memPut_bus (s : Chip) (a : Nat) (l : List Byte) : (memPut s a l).bus = s.bus := rfl

/-! ### memZero -/

@[simp] theorem memZero_now (s : Chip) (a n : Nat) : (memZero s a n).now = s.now := rfl
@[simp] theorem memZero_xtal (s : Chip) (a n : Nat) : (memZero s a n).xtal = s.xtal := rfl
@[simp] theorem memZero_fresh (s : Chip) (a n : Nat) : (memZero s a n).fresh = s.fresh := rfl
@[simp] theorem memZero_out (s : Chip) (a n : Nat) : (memZero s a n).out = s.out := rfl
@[simp] theorem memZero_regs (s : Chip) (a n : Nat) : (memZero s a n).regs = s.regs := rfl
@[simp] theorem memZero_heldLo (s : Chip) (a n : Nat) : (memZero s a n).heldLo = s.heldLo := rfl
@[simp] theorem memZero_latchHi (s : Chip) (a n : Nat) : (memZero s a n).latchHi = s.latchHi := rfl
@[simp] theorem memZero_retire (s : Chip) (a n : Nat) : (memZero s a n).retire = s.retire := rfl
@[simp] theorem memZero_slices (s : Chip) (a n : Nat) : (memZero s a n).slices = s.slices := rfl
@[simp] theorem memZero_girth (s : Chip) (a n : Nat) : (memZero s a n).girth = s.girth := rfl
@[simp] theorem memZero_patrol (s : Chip) (a n : Nat) : (memZero s a n).patrol = s.patrol := rfl
@[simp] theorem memZero_patrolFrom (s : Chip) (a n : Nat) : (memZero s a n).patrolFrom = s.patrolFrom := rfl
@[simp] theorem memZero_pads (s : Chip) (a n : Nat) : (memZero s a n).pads = s.pads := rfl
@[simp] theorem memZero_fills (s : Chip) (a n : Nat) : (memZero s a n).fills = s.fills := rfl
@[simp] theorem memZero_scrubPos (s : Chip) (a n : Nat) : (memZero s a n).scrubPos = s.scrubPos := rfl
@[simp] theorem memZero_bankTurn (s : Chip) (a n : Nat) : (memZero s a n).bankTurn = s.bankTurn := rfl
@[simp] theorem memZero_blocks (s : Chip) (a n : Nat) : (memZero s a n).blocks = s.blocks := rfl
@[simp] theorem memZero_prec (s : Chip) (a n : Nat) : (memZero s a n).prec = s.prec := rfl
@[simp] theorem memZero_q (s : Chip) (a n : Nat) : (memZero s a n).q = s.q := rfl
@[simp] theorem memZero_switches (s : Chip) (a n : Nat) : (memZero s a n).switches = s.switches := rfl
@[simp] theorem memZero_spillHeld (s : Chip) (a n : Nat) : (memZero s a n).spillHeld = s.spillHeld := rfl
@[simp] theorem memZero_kv (s : Chip) (a n : Nat) : (memZero s a n).kv = s.kv := rfl
@[simp] theorem memZero_slots (s : Chip) (a n : Nat) : (memZero s a n).slots = s.slots := rfl
@[simp] theorem memZero_serve (s : Chip) (a n : Nat) : (memZero s a n).serve = s.serve := rfl
@[simp] theorem memZero_hosts (s : Chip) (a n : Nat) : (memZero s a n).hosts = s.hosts := rfl
@[simp] theorem memZero_sec (s : Chip) (a n : Nat) : (memZero s a n).sec = s.sec := rfl
@[simp] theorem memZero_mesh (s : Chip) (a n : Nat) : (memZero s a n).mesh = s.mesh := rfl
@[simp] theorem memZero_faults (s : Chip) (a n : Nat) : (memZero s a n).faults = s.faults := rfl
@[simp] theorem memZero_power (s : Chip) (a n : Nat) : (memZero s a n).power = s.power := rfl
@[simp] theorem memZero_bus (s : Chip) (a n : Nat) : (memZero s a n).bus = s.bus := rfl

/-! ### setBank -/

@[simp] theorem setBank_now (s : Chip) (b : Nat) (f : Bank → Bank) : (setBank s b f).now = s.now := rfl
@[simp] theorem setBank_xtal (s : Chip) (b : Nat) (f : Bank → Bank) : (setBank s b f).xtal = s.xtal := rfl
@[simp] theorem setBank_fresh (s : Chip) (b : Nat) (f : Bank → Bank) : (setBank s b f).fresh = s.fresh := rfl
@[simp] theorem setBank_out (s : Chip) (b : Nat) (f : Bank → Bank) : (setBank s b f).out = s.out := rfl
@[simp] theorem setBank_regs (s : Chip) (b : Nat) (f : Bank → Bank) : (setBank s b f).regs = s.regs := rfl
@[simp] theorem setBank_heldLo (s : Chip) (b : Nat) (f : Bank → Bank) : (setBank s b f).heldLo = s.heldLo := rfl
@[simp] theorem setBank_latchHi (s : Chip) (b : Nat) (f : Bank → Bank) : (setBank s b f).latchHi = s.latchHi := rfl
@[simp] theorem setBank_mem (s : Chip) (b : Nat) (f : Bank → Bank) : (setBank s b f).mem = s.mem := rfl
@[simp] theorem setBank_retire (s : Chip) (b : Nat) (f : Bank → Bank) : (setBank s b f).retire = s.retire := rfl
@[simp] theorem setBank_slices (s : Chip) (b : Nat) (f : Bank → Bank) : (setBank s b f).slices = s.slices := rfl
@[simp] theorem setBank_girth (s : Chip) (b : Nat) (f : Bank → Bank) : (setBank s b f).girth = s.girth := rfl
@[simp] theorem setBank_patrol (s : Chip) (b : Nat) (f : Bank → Bank) : (setBank s b f).patrol = s.patrol := rfl
@[simp] theorem setBank_patrolFrom (s : Chip) (b : Nat) (f : Bank → Bank) : (setBank s b f).patrolFrom = s.patrolFrom := rfl
@[simp] theorem setBank_fills (s : Chip) (b : Nat) (f : Bank → Bank) : (setBank s b f).fills = s.fills := rfl
@[simp] theorem setBank_scrubPos (s : Chip) (b : Nat) (f : Bank → Bank) : (setBank s b f).scrubPos = s.scrubPos := rfl
@[simp] theorem setBank_bankTurn (s : Chip) (b : Nat) (f : Bank → Bank) : (setBank s b f).bankTurn = s.bankTurn := rfl
@[simp] theorem setBank_blocks (s : Chip) (b : Nat) (f : Bank → Bank) : (setBank s b f).blocks = s.blocks := rfl
@[simp] theorem setBank_prec (s : Chip) (b : Nat) (f : Bank → Bank) : (setBank s b f).prec = s.prec := rfl
@[simp] theorem setBank_q (s : Chip) (b : Nat) (f : Bank → Bank) : (setBank s b f).q = s.q := rfl
@[simp] theorem setBank_switches (s : Chip) (b : Nat) (f : Bank → Bank) : (setBank s b f).switches = s.switches := rfl
@[simp] theorem setBank_spillHeld (s : Chip) (b : Nat) (f : Bank → Bank) : (setBank s b f).spillHeld = s.spillHeld := rfl
@[simp] theorem setBank_kv (s : Chip) (b : Nat) (f : Bank → Bank) : (setBank s b f).kv = s.kv := rfl
@[simp] theorem setBank_slots (s : Chip) (b : Nat) (f : Bank → Bank) : (setBank s b f).slots = s.slots := rfl
@[simp] theorem setBank_serve (s : Chip) (b : Nat) (f : Bank → Bank) : (setBank s b f).serve = s.serve := rfl
@[simp] theorem setBank_hosts (s : Chip) (b : Nat) (f : Bank → Bank) : (setBank s b f).hosts = s.hosts := rfl
@[simp] theorem setBank_sec (s : Chip) (b : Nat) (f : Bank → Bank) : (setBank s b f).sec = s.sec := rfl
@[simp] theorem setBank_mesh (s : Chip) (b : Nat) (f : Bank → Bank) : (setBank s b f).mesh = s.mesh := rfl
@[simp] theorem setBank_faults (s : Chip) (b : Nat) (f : Bank → Bank) : (setBank s b f).faults = s.faults := rfl
@[simp] theorem setBank_power (s : Chip) (b : Nat) (f : Bank → Bank) : (setBank s b f).power = s.power := rfl
@[simp] theorem setBank_bus (s : Chip) (b : Nat) (f : Bank → Bank) : (setBank s b f).bus = s.bus := rfl

/-! ### setBlock -/

@[simp] theorem setBlock_now (s : Chip) (b : Nat) (f : Block → Block) : (setBlock s b f).now = s.now := rfl
@[simp] theorem setBlock_xtal (s : Chip) (b : Nat) (f : Block → Block) : (setBlock s b f).xtal = s.xtal := rfl
@[simp] theorem setBlock_fresh (s : Chip) (b : Nat) (f : Block → Block) : (setBlock s b f).fresh = s.fresh := rfl
@[simp] theorem setBlock_out (s : Chip) (b : Nat) (f : Block → Block) : (setBlock s b f).out = s.out := rfl
@[simp] theorem setBlock_regs (s : Chip) (b : Nat) (f : Block → Block) : (setBlock s b f).regs = s.regs := rfl
@[simp] theorem setBlock_heldLo (s : Chip) (b : Nat) (f : Block → Block) : (setBlock s b f).heldLo = s.heldLo := rfl
@[simp] theorem setBlock_latchHi (s : Chip) (b : Nat) (f : Block → Block) : (setBlock s b f).latchHi = s.latchHi := rfl
@[simp] theorem setBlock_mem (s : Chip) (b : Nat) (f : Block → Block) : (setBlock s b f).mem = s.mem := rfl
@[simp] theorem setBlock_retire (s : Chip) (b : Nat) (f : Block → Block) : (setBlock s b f).retire = s.retire := rfl
@[simp] theorem setBlock_slices (s : Chip) (b : Nat) (f : Block → Block) : (setBlock s b f).slices = s.slices := rfl
@[simp] theorem setBlock_girth (s : Chip) (b : Nat) (f : Block → Block) : (setBlock s b f).girth = s.girth := rfl
@[simp] theorem setBlock_patrol (s : Chip) (b : Nat) (f : Block → Block) : (setBlock s b f).patrol = s.patrol := rfl
@[simp] theorem setBlock_patrolFrom (s : Chip) (b : Nat) (f : Block → Block) : (setBlock s b f).patrolFrom = s.patrolFrom := rfl
@[simp] theorem setBlock_pads (s : Chip) (b : Nat) (f : Block → Block) : (setBlock s b f).pads = s.pads := rfl
@[simp] theorem setBlock_fills (s : Chip) (b : Nat) (f : Block → Block) : (setBlock s b f).fills = s.fills := rfl
@[simp] theorem setBlock_scrubPos (s : Chip) (b : Nat) (f : Block → Block) : (setBlock s b f).scrubPos = s.scrubPos := rfl
@[simp] theorem setBlock_bankTurn (s : Chip) (b : Nat) (f : Block → Block) : (setBlock s b f).bankTurn = s.bankTurn := rfl
@[simp] theorem setBlock_prec (s : Chip) (b : Nat) (f : Block → Block) : (setBlock s b f).prec = s.prec := rfl
@[simp] theorem setBlock_q (s : Chip) (b : Nat) (f : Block → Block) : (setBlock s b f).q = s.q := rfl
@[simp] theorem setBlock_switches (s : Chip) (b : Nat) (f : Block → Block) : (setBlock s b f).switches = s.switches := rfl
@[simp] theorem setBlock_spillHeld (s : Chip) (b : Nat) (f : Block → Block) : (setBlock s b f).spillHeld = s.spillHeld := rfl
@[simp] theorem setBlock_kv (s : Chip) (b : Nat) (f : Block → Block) : (setBlock s b f).kv = s.kv := rfl
@[simp] theorem setBlock_slots (s : Chip) (b : Nat) (f : Block → Block) : (setBlock s b f).slots = s.slots := rfl
@[simp] theorem setBlock_serve (s : Chip) (b : Nat) (f : Block → Block) : (setBlock s b f).serve = s.serve := rfl
@[simp] theorem setBlock_hosts (s : Chip) (b : Nat) (f : Block → Block) : (setBlock s b f).hosts = s.hosts := rfl
@[simp] theorem setBlock_sec (s : Chip) (b : Nat) (f : Block → Block) : (setBlock s b f).sec = s.sec := rfl
@[simp] theorem setBlock_mesh (s : Chip) (b : Nat) (f : Block → Block) : (setBlock s b f).mesh = s.mesh := rfl
@[simp] theorem setBlock_faults (s : Chip) (b : Nat) (f : Block → Block) : (setBlock s b f).faults = s.faults := rfl
@[simp] theorem setBlock_power (s : Chip) (b : Nat) (f : Block → Block) : (setBlock s b f).power = s.power := rfl
@[simp] theorem setBlock_bus (s : Chip) (b : Nat) (f : Block → Block) : (setBlock s b f).bus = s.bus := rfl

/-! ### setKvPart -/

@[simp] theorem setKvPart_now (s : Chip) (p : Nat) (f : KvPart → KvPart) : (setKvPart s p f).now = s.now := rfl
@[simp] theorem setKvPart_xtal (s : Chip) (p : Nat) (f : KvPart → KvPart) : (setKvPart s p f).xtal = s.xtal := rfl
@[simp] theorem setKvPart_fresh (s : Chip) (p : Nat) (f : KvPart → KvPart) : (setKvPart s p f).fresh = s.fresh := rfl
@[simp] theorem setKvPart_out (s : Chip) (p : Nat) (f : KvPart → KvPart) : (setKvPart s p f).out = s.out := rfl
@[simp] theorem setKvPart_regs (s : Chip) (p : Nat) (f : KvPart → KvPart) : (setKvPart s p f).regs = s.regs := rfl
@[simp] theorem setKvPart_heldLo (s : Chip) (p : Nat) (f : KvPart → KvPart) : (setKvPart s p f).heldLo = s.heldLo := rfl
@[simp] theorem setKvPart_latchHi (s : Chip) (p : Nat) (f : KvPart → KvPart) : (setKvPart s p f).latchHi = s.latchHi := rfl
@[simp] theorem setKvPart_mem (s : Chip) (p : Nat) (f : KvPart → KvPart) : (setKvPart s p f).mem = s.mem := rfl
@[simp] theorem setKvPart_retire (s : Chip) (p : Nat) (f : KvPart → KvPart) : (setKvPart s p f).retire = s.retire := rfl
@[simp] theorem setKvPart_slices (s : Chip) (p : Nat) (f : KvPart → KvPart) : (setKvPart s p f).slices = s.slices := rfl
@[simp] theorem setKvPart_girth (s : Chip) (p : Nat) (f : KvPart → KvPart) : (setKvPart s p f).girth = s.girth := rfl
@[simp] theorem setKvPart_patrol (s : Chip) (p : Nat) (f : KvPart → KvPart) : (setKvPart s p f).patrol = s.patrol := rfl
@[simp] theorem setKvPart_patrolFrom (s : Chip) (p : Nat) (f : KvPart → KvPart) : (setKvPart s p f).patrolFrom = s.patrolFrom := rfl
@[simp] theorem setKvPart_pads (s : Chip) (p : Nat) (f : KvPart → KvPart) : (setKvPart s p f).pads = s.pads := rfl
@[simp] theorem setKvPart_fills (s : Chip) (p : Nat) (f : KvPart → KvPart) : (setKvPart s p f).fills = s.fills := rfl
@[simp] theorem setKvPart_scrubPos (s : Chip) (p : Nat) (f : KvPart → KvPart) : (setKvPart s p f).scrubPos = s.scrubPos := rfl
@[simp] theorem setKvPart_bankTurn (s : Chip) (p : Nat) (f : KvPart → KvPart) : (setKvPart s p f).bankTurn = s.bankTurn := rfl
@[simp] theorem setKvPart_blocks (s : Chip) (p : Nat) (f : KvPart → KvPart) : (setKvPart s p f).blocks = s.blocks := rfl
@[simp] theorem setKvPart_prec (s : Chip) (p : Nat) (f : KvPart → KvPart) : (setKvPart s p f).prec = s.prec := rfl
@[simp] theorem setKvPart_q (s : Chip) (p : Nat) (f : KvPart → KvPart) : (setKvPart s p f).q = s.q := rfl
@[simp] theorem setKvPart_switches (s : Chip) (p : Nat) (f : KvPart → KvPart) : (setKvPart s p f).switches = s.switches := rfl
@[simp] theorem setKvPart_spillHeld (s : Chip) (p : Nat) (f : KvPart → KvPart) : (setKvPart s p f).spillHeld = s.spillHeld := rfl
@[simp] theorem setKvPart_slots (s : Chip) (p : Nat) (f : KvPart → KvPart) : (setKvPart s p f).slots = s.slots := rfl
@[simp] theorem setKvPart_serve (s : Chip) (p : Nat) (f : KvPart → KvPart) : (setKvPart s p f).serve = s.serve := rfl
@[simp] theorem setKvPart_hosts (s : Chip) (p : Nat) (f : KvPart → KvPart) : (setKvPart s p f).hosts = s.hosts := rfl
@[simp] theorem setKvPart_sec (s : Chip) (p : Nat) (f : KvPart → KvPart) : (setKvPart s p f).sec = s.sec := rfl
@[simp] theorem setKvPart_mesh (s : Chip) (p : Nat) (f : KvPart → KvPart) : (setKvPart s p f).mesh = s.mesh := rfl
@[simp] theorem setKvPart_faults (s : Chip) (p : Nat) (f : KvPart → KvPart) : (setKvPart s p f).faults = s.faults := rfl
@[simp] theorem setKvPart_power (s : Chip) (p : Nat) (f : KvPart → KvPart) : (setKvPart s p f).power = s.power := rfl
@[simp] theorem setKvPart_bus (s : Chip) (p : Nat) (f : KvPart → KvPart) : (setKvPart s p f).bus = s.bus := rfl

/-! ### setServe -/

@[simp] theorem setServe_now (s : Chip) (p : Nat) (f : Serve → Serve) : (setServe s p f).now = s.now := rfl
@[simp] theorem setServe_xtal (s : Chip) (p : Nat) (f : Serve → Serve) : (setServe s p f).xtal = s.xtal := rfl
@[simp] theorem setServe_fresh (s : Chip) (p : Nat) (f : Serve → Serve) : (setServe s p f).fresh = s.fresh := rfl
@[simp] theorem setServe_out (s : Chip) (p : Nat) (f : Serve → Serve) : (setServe s p f).out = s.out := rfl
@[simp] theorem setServe_regs (s : Chip) (p : Nat) (f : Serve → Serve) : (setServe s p f).regs = s.regs := rfl
@[simp] theorem setServe_heldLo (s : Chip) (p : Nat) (f : Serve → Serve) : (setServe s p f).heldLo = s.heldLo := rfl
@[simp] theorem setServe_latchHi (s : Chip) (p : Nat) (f : Serve → Serve) : (setServe s p f).latchHi = s.latchHi := rfl
@[simp] theorem setServe_mem (s : Chip) (p : Nat) (f : Serve → Serve) : (setServe s p f).mem = s.mem := rfl
@[simp] theorem setServe_retire (s : Chip) (p : Nat) (f : Serve → Serve) : (setServe s p f).retire = s.retire := rfl
@[simp] theorem setServe_slices (s : Chip) (p : Nat) (f : Serve → Serve) : (setServe s p f).slices = s.slices := rfl
@[simp] theorem setServe_girth (s : Chip) (p : Nat) (f : Serve → Serve) : (setServe s p f).girth = s.girth := rfl
@[simp] theorem setServe_patrol (s : Chip) (p : Nat) (f : Serve → Serve) : (setServe s p f).patrol = s.patrol := rfl
@[simp] theorem setServe_patrolFrom (s : Chip) (p : Nat) (f : Serve → Serve) : (setServe s p f).patrolFrom = s.patrolFrom := rfl
@[simp] theorem setServe_pads (s : Chip) (p : Nat) (f : Serve → Serve) : (setServe s p f).pads = s.pads := rfl
@[simp] theorem setServe_fills (s : Chip) (p : Nat) (f : Serve → Serve) : (setServe s p f).fills = s.fills := rfl
@[simp] theorem setServe_scrubPos (s : Chip) (p : Nat) (f : Serve → Serve) : (setServe s p f).scrubPos = s.scrubPos := rfl
@[simp] theorem setServe_bankTurn (s : Chip) (p : Nat) (f : Serve → Serve) : (setServe s p f).bankTurn = s.bankTurn := rfl
@[simp] theorem setServe_blocks (s : Chip) (p : Nat) (f : Serve → Serve) : (setServe s p f).blocks = s.blocks := rfl
@[simp] theorem setServe_prec (s : Chip) (p : Nat) (f : Serve → Serve) : (setServe s p f).prec = s.prec := rfl
@[simp] theorem setServe_q (s : Chip) (p : Nat) (f : Serve → Serve) : (setServe s p f).q = s.q := rfl
@[simp] theorem setServe_switches (s : Chip) (p : Nat) (f : Serve → Serve) : (setServe s p f).switches = s.switches := rfl
@[simp] theorem setServe_spillHeld (s : Chip) (p : Nat) (f : Serve → Serve) : (setServe s p f).spillHeld = s.spillHeld := rfl
@[simp] theorem setServe_kv (s : Chip) (p : Nat) (f : Serve → Serve) : (setServe s p f).kv = s.kv := rfl
@[simp] theorem setServe_slots (s : Chip) (p : Nat) (f : Serve → Serve) : (setServe s p f).slots = s.slots := rfl
@[simp] theorem setServe_hosts (s : Chip) (p : Nat) (f : Serve → Serve) : (setServe s p f).hosts = s.hosts := rfl
@[simp] theorem setServe_sec (s : Chip) (p : Nat) (f : Serve → Serve) : (setServe s p f).sec = s.sec := rfl
@[simp] theorem setServe_mesh (s : Chip) (p : Nat) (f : Serve → Serve) : (setServe s p f).mesh = s.mesh := rfl
@[simp] theorem setServe_faults (s : Chip) (p : Nat) (f : Serve → Serve) : (setServe s p f).faults = s.faults := rfl
@[simp] theorem setServe_power (s : Chip) (p : Nat) (f : Serve → Serve) : (setServe s p f).power = s.power := rfl
@[simp] theorem setServe_bus (s : Chip) (p : Nat) (f : Serve → Serve) : (setServe s p f).bus = s.bus := rfl

/-! ### setFunc -/

@[simp] theorem setFunc_now (s : Chip) (port fn : Nat) (f : Func → Func) : (setFunc s port fn f).now = s.now := rfl
@[simp] theorem setFunc_xtal (s : Chip) (port fn : Nat) (f : Func → Func) : (setFunc s port fn f).xtal = s.xtal := rfl
@[simp] theorem setFunc_fresh (s : Chip) (port fn : Nat) (f : Func → Func) : (setFunc s port fn f).fresh = s.fresh := rfl
@[simp] theorem setFunc_out (s : Chip) (port fn : Nat) (f : Func → Func) : (setFunc s port fn f).out = s.out := rfl
@[simp] theorem setFunc_regs (s : Chip) (port fn : Nat) (f : Func → Func) : (setFunc s port fn f).regs = s.regs := rfl
@[simp] theorem setFunc_heldLo (s : Chip) (port fn : Nat) (f : Func → Func) : (setFunc s port fn f).heldLo = s.heldLo := rfl
@[simp] theorem setFunc_latchHi (s : Chip) (port fn : Nat) (f : Func → Func) : (setFunc s port fn f).latchHi = s.latchHi := rfl
@[simp] theorem setFunc_mem (s : Chip) (port fn : Nat) (f : Func → Func) : (setFunc s port fn f).mem = s.mem := rfl
@[simp] theorem setFunc_retire (s : Chip) (port fn : Nat) (f : Func → Func) : (setFunc s port fn f).retire = s.retire := rfl
@[simp] theorem setFunc_slices (s : Chip) (port fn : Nat) (f : Func → Func) : (setFunc s port fn f).slices = s.slices := rfl
@[simp] theorem setFunc_girth (s : Chip) (port fn : Nat) (f : Func → Func) : (setFunc s port fn f).girth = s.girth := rfl
@[simp] theorem setFunc_patrol (s : Chip) (port fn : Nat) (f : Func → Func) : (setFunc s port fn f).patrol = s.patrol := rfl
@[simp] theorem setFunc_patrolFrom (s : Chip) (port fn : Nat) (f : Func → Func) : (setFunc s port fn f).patrolFrom = s.patrolFrom := rfl
@[simp] theorem setFunc_pads (s : Chip) (port fn : Nat) (f : Func → Func) : (setFunc s port fn f).pads = s.pads := rfl
@[simp] theorem setFunc_fills (s : Chip) (port fn : Nat) (f : Func → Func) : (setFunc s port fn f).fills = s.fills := rfl
@[simp] theorem setFunc_scrubPos (s : Chip) (port fn : Nat) (f : Func → Func) : (setFunc s port fn f).scrubPos = s.scrubPos := rfl
@[simp] theorem setFunc_bankTurn (s : Chip) (port fn : Nat) (f : Func → Func) : (setFunc s port fn f).bankTurn = s.bankTurn := rfl
@[simp] theorem setFunc_blocks (s : Chip) (port fn : Nat) (f : Func → Func) : (setFunc s port fn f).blocks = s.blocks := rfl
@[simp] theorem setFunc_prec (s : Chip) (port fn : Nat) (f : Func → Func) : (setFunc s port fn f).prec = s.prec := rfl
@[simp] theorem setFunc_q (s : Chip) (port fn : Nat) (f : Func → Func) : (setFunc s port fn f).q = s.q := rfl
@[simp] theorem setFunc_switches (s : Chip) (port fn : Nat) (f : Func → Func) : (setFunc s port fn f).switches = s.switches := rfl
@[simp] theorem setFunc_spillHeld (s : Chip) (port fn : Nat) (f : Func → Func) : (setFunc s port fn f).spillHeld = s.spillHeld := rfl
@[simp] theorem setFunc_kv (s : Chip) (port fn : Nat) (f : Func → Func) : (setFunc s port fn f).kv = s.kv := rfl
@[simp] theorem setFunc_slots (s : Chip) (port fn : Nat) (f : Func → Func) : (setFunc s port fn f).slots = s.slots := rfl
@[simp] theorem setFunc_serve (s : Chip) (port fn : Nat) (f : Func → Func) : (setFunc s port fn f).serve = s.serve := rfl
@[simp] theorem setFunc_sec (s : Chip) (port fn : Nat) (f : Func → Func) : (setFunc s port fn f).sec = s.sec := rfl
@[simp] theorem setFunc_mesh (s : Chip) (port fn : Nat) (f : Func → Func) : (setFunc s port fn f).mesh = s.mesh := rfl
@[simp] theorem setFunc_faults (s : Chip) (port fn : Nat) (f : Func → Func) : (setFunc s port fn f).faults = s.faults := rfl
@[simp] theorem setFunc_power (s : Chip) (port fn : Nat) (f : Func → Func) : (setFunc s port fn f).power = s.power := rfl
@[simp] theorem setFunc_bus (s : Chip) (port fn : Nat) (f : Func → Func) : (setFunc s port fn f).bus = s.bus := rfl

/-! ### setPort -/

@[simp] theorem setPort_now (s : Chip) (port : Nat) (f : SrnPort → SrnPort) : (setPort s port f).now = s.now := rfl
@[simp] theorem setPort_xtal (s : Chip) (port : Nat) (f : SrnPort → SrnPort) : (setPort s port f).xtal = s.xtal := rfl
@[simp] theorem setPort_fresh (s : Chip) (port : Nat) (f : SrnPort → SrnPort) : (setPort s port f).fresh = s.fresh := rfl
@[simp] theorem setPort_out (s : Chip) (port : Nat) (f : SrnPort → SrnPort) : (setPort s port f).out = s.out := rfl
@[simp] theorem setPort_regs (s : Chip) (port : Nat) (f : SrnPort → SrnPort) : (setPort s port f).regs = s.regs := rfl
@[simp] theorem setPort_heldLo (s : Chip) (port : Nat) (f : SrnPort → SrnPort) : (setPort s port f).heldLo = s.heldLo := rfl
@[simp] theorem setPort_latchHi (s : Chip) (port : Nat) (f : SrnPort → SrnPort) : (setPort s port f).latchHi = s.latchHi := rfl
@[simp] theorem setPort_mem (s : Chip) (port : Nat) (f : SrnPort → SrnPort) : (setPort s port f).mem = s.mem := rfl
@[simp] theorem setPort_retire (s : Chip) (port : Nat) (f : SrnPort → SrnPort) : (setPort s port f).retire = s.retire := rfl
@[simp] theorem setPort_slices (s : Chip) (port : Nat) (f : SrnPort → SrnPort) : (setPort s port f).slices = s.slices := rfl
@[simp] theorem setPort_girth (s : Chip) (port : Nat) (f : SrnPort → SrnPort) : (setPort s port f).girth = s.girth := rfl
@[simp] theorem setPort_patrol (s : Chip) (port : Nat) (f : SrnPort → SrnPort) : (setPort s port f).patrol = s.patrol := rfl
@[simp] theorem setPort_patrolFrom (s : Chip) (port : Nat) (f : SrnPort → SrnPort) : (setPort s port f).patrolFrom = s.patrolFrom := rfl
@[simp] theorem setPort_pads (s : Chip) (port : Nat) (f : SrnPort → SrnPort) : (setPort s port f).pads = s.pads := rfl
@[simp] theorem setPort_fills (s : Chip) (port : Nat) (f : SrnPort → SrnPort) : (setPort s port f).fills = s.fills := rfl
@[simp] theorem setPort_scrubPos (s : Chip) (port : Nat) (f : SrnPort → SrnPort) : (setPort s port f).scrubPos = s.scrubPos := rfl
@[simp] theorem setPort_bankTurn (s : Chip) (port : Nat) (f : SrnPort → SrnPort) : (setPort s port f).bankTurn = s.bankTurn := rfl
@[simp] theorem setPort_blocks (s : Chip) (port : Nat) (f : SrnPort → SrnPort) : (setPort s port f).blocks = s.blocks := rfl
@[simp] theorem setPort_prec (s : Chip) (port : Nat) (f : SrnPort → SrnPort) : (setPort s port f).prec = s.prec := rfl
@[simp] theorem setPort_q (s : Chip) (port : Nat) (f : SrnPort → SrnPort) : (setPort s port f).q = s.q := rfl
@[simp] theorem setPort_switches (s : Chip) (port : Nat) (f : SrnPort → SrnPort) : (setPort s port f).switches = s.switches := rfl
@[simp] theorem setPort_spillHeld (s : Chip) (port : Nat) (f : SrnPort → SrnPort) : (setPort s port f).spillHeld = s.spillHeld := rfl
@[simp] theorem setPort_kv (s : Chip) (port : Nat) (f : SrnPort → SrnPort) : (setPort s port f).kv = s.kv := rfl
@[simp] theorem setPort_slots (s : Chip) (port : Nat) (f : SrnPort → SrnPort) : (setPort s port f).slots = s.slots := rfl
@[simp] theorem setPort_serve (s : Chip) (port : Nat) (f : SrnPort → SrnPort) : (setPort s port f).serve = s.serve := rfl
@[simp] theorem setPort_hosts (s : Chip) (port : Nat) (f : SrnPort → SrnPort) : (setPort s port f).hosts = s.hosts := rfl
@[simp] theorem setPort_sec (s : Chip) (port : Nat) (f : SrnPort → SrnPort) : (setPort s port f).sec = s.sec := rfl
@[simp] theorem setPort_faults (s : Chip) (port : Nat) (f : SrnPort → SrnPort) : (setPort s port f).faults = s.faults := rfl
@[simp] theorem setPort_power (s : Chip) (port : Nat) (f : SrnPort → SrnPort) : (setPort s port f).power = s.power := rfl
@[simp] theorem setPort_bus (s : Chip) (port : Nat) (f : SrnPort → SrnPort) : (setPort s port f).bus = s.bus := rfl

/-! ### setPower -/

@[simp] theorem setPower_now (s : Chip) (f : Power → Power) : (setPower s f).now = s.now := rfl
@[simp] theorem setPower_xtal (s : Chip) (f : Power → Power) : (setPower s f).xtal = s.xtal := rfl
@[simp] theorem setPower_fresh (s : Chip) (f : Power → Power) : (setPower s f).fresh = s.fresh := rfl
@[simp] theorem setPower_out (s : Chip) (f : Power → Power) : (setPower s f).out = s.out := rfl
@[simp] theorem setPower_regs (s : Chip) (f : Power → Power) : (setPower s f).regs = s.regs := rfl
@[simp] theorem setPower_heldLo (s : Chip) (f : Power → Power) : (setPower s f).heldLo = s.heldLo := rfl
@[simp] theorem setPower_latchHi (s : Chip) (f : Power → Power) : (setPower s f).latchHi = s.latchHi := rfl
@[simp] theorem setPower_mem (s : Chip) (f : Power → Power) : (setPower s f).mem = s.mem := rfl
@[simp] theorem setPower_retire (s : Chip) (f : Power → Power) : (setPower s f).retire = s.retire := rfl
@[simp] theorem setPower_slices (s : Chip) (f : Power → Power) : (setPower s f).slices = s.slices := rfl
@[simp] theorem setPower_girth (s : Chip) (f : Power → Power) : (setPower s f).girth = s.girth := rfl
@[simp] theorem setPower_patrol (s : Chip) (f : Power → Power) : (setPower s f).patrol = s.patrol := rfl
@[simp] theorem setPower_patrolFrom (s : Chip) (f : Power → Power) : (setPower s f).patrolFrom = s.patrolFrom := rfl
@[simp] theorem setPower_pads (s : Chip) (f : Power → Power) : (setPower s f).pads = s.pads := rfl
@[simp] theorem setPower_fills (s : Chip) (f : Power → Power) : (setPower s f).fills = s.fills := rfl
@[simp] theorem setPower_scrubPos (s : Chip) (f : Power → Power) : (setPower s f).scrubPos = s.scrubPos := rfl
@[simp] theorem setPower_bankTurn (s : Chip) (f : Power → Power) : (setPower s f).bankTurn = s.bankTurn := rfl
@[simp] theorem setPower_blocks (s : Chip) (f : Power → Power) : (setPower s f).blocks = s.blocks := rfl
@[simp] theorem setPower_prec (s : Chip) (f : Power → Power) : (setPower s f).prec = s.prec := rfl
@[simp] theorem setPower_q (s : Chip) (f : Power → Power) : (setPower s f).q = s.q := rfl
@[simp] theorem setPower_switches (s : Chip) (f : Power → Power) : (setPower s f).switches = s.switches := rfl
@[simp] theorem setPower_spillHeld (s : Chip) (f : Power → Power) : (setPower s f).spillHeld = s.spillHeld := rfl
@[simp] theorem setPower_kv (s : Chip) (f : Power → Power) : (setPower s f).kv = s.kv := rfl
@[simp] theorem setPower_slots (s : Chip) (f : Power → Power) : (setPower s f).slots = s.slots := rfl
@[simp] theorem setPower_serve (s : Chip) (f : Power → Power) : (setPower s f).serve = s.serve := rfl
@[simp] theorem setPower_hosts (s : Chip) (f : Power → Power) : (setPower s f).hosts = s.hosts := rfl
@[simp] theorem setPower_sec (s : Chip) (f : Power → Power) : (setPower s f).sec = s.sec := rfl
@[simp] theorem setPower_mesh (s : Chip) (f : Power → Power) : (setPower s f).mesh = s.mesh := rfl
@[simp] theorem setPower_faults (s : Chip) (f : Power → Power) : (setPower s f).faults = s.faults := rfl
@[simp] theorem setPower_bus (s : Chip) (f : Power → Power) : (setPower s f).bus = s.bus := rfl

/-! ### Registers -/

/-- A field reads, right after it is written, as the value written cut to its width. -/
theorem rd_wr_same (s : Chip) (pg : Page) (f : Field) (v : Nat) (h : tsorted s.regs = true) :
    rd (wr s pg f v) pg f = v % 2 ^ width f := by
  unfold rd wr regsSet
  dsimp only
  split
  · rename_i hv
    simp [tgetD, h, hv]
  · simp [tgetD]

/-- Another field reads as before. -/
theorem rd_wr_ne (s : Chip) (pg pg' : Page) (f f' : Field) (v : Nat) (h : key pg' f' ≠ key pg f) :
    rd (wr s pg f v) pg' f' = rd s pg' f' := by
  unfold rd wr regsSet
  dsimp only
  split <;> simp [tgetD, h]

@[simp] theorem rd_emit (s : Chip) (m : Out) (pg : Page) (f : Field) : rd (emit s m) pg f = rd s pg f := rfl
@[simp] theorem rd_setMem (s : Chip) (m : Memory) (pg : Page) (f : Field) : rd (setMem s m) pg f = rd s pg f := rfl
@[simp] theorem rd_memPut (s : Chip) (a : Nat) (l : List Byte) (pg : Page) (f : Field) : rd (memPut s a l) pg f = rd s pg f := rfl
@[simp] theorem rd_setBank (s : Chip) (b : Nat) (g : Bank → Bank) (pg : Page) (f : Field) :
    rd (setBank s b g) pg f = rd s pg f := rfl
@[simp] theorem rd_setPower (s : Chip) (g : Power → Power) (pg : Page) (f : Field) : rd (setPower s g) pg f = rd s pg f := rfl

/-! ### Memory -/

/-- A byte reads, right after it is written, as the value written. -/
theorem cellGet_cellSet_same (m : List Host.Cell) (a : Nat) (v : Byte) (h : tsorted m = true) :
    cellGet (cellSet m a v) a = v := by
  unfold cellGet cellSet
  split
  · rename_i hv
    simp [tgetD, h, hv]
  · simp [tgetD]

/-- Another byte reads as before. -/
theorem cellGet_cellSet_ne (m : List Host.Cell) (a x : Nat) (v : Byte) (h : x ≠ a) : cellGet (cellSet m a v) x = cellGet m x := by
  unfold cellGet cellSet
  split <;> simp [tgetD, h]

/-- A byte outside a run reads as before the run is written. -/
theorem cellGet_cellsPut_out (m : List Host.Cell) (a x : Nat) (l : List Byte) (h : x < a ∨ a + l.length ≤ x) :
    cellGet (cellsPut m a l) x = cellGet m x := by
  induction l generalizing m a with
  | nil => rfl
  | cons b l ih =>
    simp only [cellsPut]
    simp only [List.length_cons] at h
    rw [ih _ _ (by omega), cellGet_cellSet_ne _ _ _ _ (by omega)]

/-- A byte of a run reads as the run has it. -/
theorem cellGet_cellsPut_in (m : List Host.Cell) (a i : Nat) (l : List Byte) (h : cellsWf m = true) (hi : i < l.length) :
    cellGet (cellsPut m a l) (a + i) = l[i] := by
  induction l generalizing m a i with
  | nil => simp at hi
  | cons b l ih =>
    simp only [cellsPut]
    cases i with
    | zero =>
      rw [cellGet_cellsPut_out _ _ _ _ (by omega)]
      exact cellGet_cellSet_same _ _ _ ((cellsWf_iff m).mp h).1
    | succ i =>
      have hl : i < l.length := by simpa using hi
      have := ih (cellSet m a b) (a + 1) i (cellsWf_cellSet m a b h) hl
      rw [show a + (i + 1) = a + 1 + i by omega, this]
      rfl

/-- A byte of memory outside the run that is stored reads as before. -/
theorem memPut_outside (s : Chip) (a x : Nat) (l : List Byte) (h : x < a ∨ a + l.length ≤ x) :
    cellGet (memPut s a l).mem.bytes x = cellGet s.mem.bytes x := cellGet_cellsPut_out _ _ _ _ h

/-- A run of memory reads, right after it is stored, as what was stored. -/
theorem memRead_memPut (s : Chip) (a : Nat) (l : List Byte) (h : s.mem.wf = true) : memRead (memPut s a l) a l.length = l := by
  have hb := ((memory_wf_iff _).mp h).1
  apply List.ext_getElem
  · simp [memRead, span]
  · intro i h1 h2
    simp only [memRead, span, List.map_map, List.getElem_map, List.getElem_range, Function.comp_apply]
    exact cellGet_cellsPut_in _ _ _ _ hb h2

/-! ### Banks -/

/-- What a byte of a bank that nothing has written reads as is not changed by a write. -/
@[simp] theorem bankGround_bankSet (x : Bank) (o : Nat) (v : Byte) (b k : Nat) :
    bankGround (bankSet x o v) b k = bankGround x b k := rfl

/-- Another byte of a bank reads as before. -/
theorem bankByte_bankSet_ne (x : Bank) (o k : Nat) (v : Byte) (b : Nat) (h : k ≠ o) :
    bankByte (bankSet x o v) b k = bankByte x b k := by
  unfold bankByte
  rw [bankGround_bankSet]
  simp only [bankSet]
  split <;> simp [tgetD, h]

/-- A byte of a bank outside a run reads as before the run is written. -/
theorem bankByte_bankPut_out (x : Bank) (o k : Nat) (l : List Byte) (b : Nat) (h : k < o ∨ o + l.length ≤ k) :
    bankByte (bankPut x o l) b k = bankByte x b k := by
  induction l generalizing x o with
  | nil => rfl
  | cons v l ih =>
    simp only [bankPut]
    simp only [List.length_cons] at h
    rw [ih _ _ (by omega), bankByte_bankSet_ne _ _ _ _ _ (by omega)]

/-! ### Semaphores -/

/-- A semaphore reads what was set, in any canonical table. -/
theorem semVal_semSet_same (c : Chip) (n v : Nat) (h : tsorted c.q.sems = true) : semVal (semSet c n v) n = v := by
  unfold semVal semSet
  dsimp only
  split
  · rename_i hv; simp [tgetD, h, hv]
  · simp [tgetD]

/-- Setting one semaphore leaves every other. -/
theorem semVal_semSet_ne (c : Chip) (n m v : Nat) (h : m ≠ n) : semVal (semSet c n v) m = semVal c m := by
  unfold semVal semSet
  dsimp only
  split <;> simp [tgetD, h]

/-- Setting a semaphore keeps the table's canonical form. -/
theorem sems_semSet (c : Chip) (n v : Nat) (h : tsorted c.q.sems = true) : tsorted (semSet c n v).q.sems = true := by
  unfold semSet
  dsimp only
  split
  · exact tsorted_tdel _ _ h
  · exact tsorted_tset _ _ _ h

/-- Nothing waits, so examining a semaphore's waiters does nothing. -/
theorem semExamine_none (c : Chip) (n : Nat) (h : c.q.waits = []) : semExamine c n = c := by
  simp [semExamine, h]

end Sys2Proof.Machine
end

