-- ==== Sys2Proof/Tests/Slice0.lean ====
section
/-!
SUPPORT. Tests of the model: ill-formed terms that WellFormed refuses, the worked examples of the spec, and for every statement
with hypotheses a state and operands that meet them all (the theorems named witness_…, numbered by clause).
-/
section
set_option Elab.async false
set_option exponentiation.threshold 600
open Sys2Proof Sys2Proof.Machine

namespace Tests
/-- The module right after reset. -/
def base : Chip := State.reset.toChip
/-- Partition 0, queue 0, tag 0, quad 0. -/
def o0 : Origin := { part := 0, queue := 0, tag := 0, quad := 0, step := false }
/-- The body that holds `v` at offset `off`. -/
def bodyAt (off v : Nat) : Body := BitVec.ofNat 384 (v * 2 ^ (8 * (off - 0x10)))
/-- A NOP that issued. -/
def nopCmd : Cmd := { index := 0, seq := 0, raw := 0, copies := [{ engine := .sync 0, fate := .issued, shift := 0 }],
                      retired := false, dropped := false, arrived := none, sent := none }
/-- A job of one command. -/
def jobOf (k : Cmd) : Job :=
  { id := 0, part := 0, queue := 0, tag := 0, quad := 0, urgent := false, group := 0, step := false, cmds := [k],
    ended := false, irq := false, head := 0, tack := 0, fault := none, poisoned := false, mapped := [], outcome := none,
    endedAt := none, abort := none }
/-- The module with that job live. -/
def withJob (k : Cmd) : Chip := { base with q := { base.q with jobs := [jobOf k], nextJob := 1, nextSeq := 1 } }
/-- The module where a command of opcode `n` was cancelled after it had issued. -/
def cancelled (n : Nat) : Chip := { base with q := { base.q with cancelled := [(o0, n, 0)] } }
/-- A semaphore wait. -/
def wait0 : Wait := { origin := o0, body := 0, on := .sem 0 1 false, since := 0 }
/-- The module with a wait that has lasted a minute. -/
def waiting : Chip := wr { base with q := { base.q with waits := [wait0] }, now := 60000000000 } (.qf 0) Reg.QF_CFG_WAIT_TIMEOUT 1
/-- The module with its firmware running and the link of its management port up: the host driver reaches it. -/
def driver (s : Chip) : Chip := { wr s (.pci 0) Reg.PCI_LINK_STAT_DL_UP 1 with sec := { s.sec with booted := true } }
/-- Partition 0 holds quads 0 to 3 and all of stack 0; memory is up; every region is awake. -/
def ready : Chip :=
  let s := [0, 1, 2, 3].foldl (fun t q => wr (wr t (.qf q) Reg.QF_STAT_OWNED 1) (.qf q) Reg.QF_STAT_PARTITION 0) base
  let s := wr (wr s (.hbm 0) (Reg.HBM_RANGE_VALID 0 0) 1) (.hbm 0) (Reg.HBM_RANGE_LAST 0 0) 1487
  let s := wr (wr s (.part 0) Reg.HUB_PART_STATE_STATE 2) .pm Reg.PM_REGION_STAT_AWAKE 15
  driver { s with power := { s.power with tierA := true, tierB := true, trained := true } }
/-- As `ready`, with port 0 up and physical function 0 a bus master that partition 0 is bound to. -/
def linked : Chip :=
  setFunc (wr ready (.part 0) Reg.HUB_PART_BIND_PF0 1) 0 0
    (fun f => { f with busMaster := true })
/-- As `ready`, with bank 0 zero throughout. -/
def zeroPad : Chip := setBank ready 0 (fun x => bankZero x 0 bankSize)
/-- As that, with a tile of FORM 3 at address 0 and its image at 1000H. -/
def tiled : Chip := padPut zeroPad 0 0 [0, 0, 0, 0x30, 0, 0x10, 0, 0] false none
/-- A pass of loose values, one token. -/
def passBody0 : Body := bodyAt 0x20 0x00100000
/-- A READOUT of one column. -/
def readBody0 : Body := 0
/-- Set 0 of block 0 live in narrow mode. -/
def narrowSet : Chip := wr (wr base (.blk 0) Reg.BLK_ACC_STATE_LIVE 1) (.blk 0) Reg.BLK_ACC_STATE_NARROW 1
/-- A pass that waits since time 0. -/
def accWait0 : AccWait := { origin := o0, body := 0, events := [], since := 0, sets := [], freed := false }
/-- The module at time `t` with that pass waiting at block 0. -/
def accWaiting (t : Nat) : Chip := setBlock { base with now := t } 0 (fun x => { x with wait := some accWait0 })
/-- A wide pass that waits for set 0, live in narrow mode, long after its timeout. -/
def accWait1 : AccWait := { accWait0 with sets := [0] }
def accStuck : Chip := setBlock { narrowSet with now := 70000000 } 0 (fun x => { x with wait := some accWait1 })
/-- A QUANTISE's pads. -/
def quantReady : Chip := padPut zeroPad 0 0 [1] false none
/-- The module with a widening notice and a storm notice on their way. -/
def storming : Chip :=
  { ready with prec := { ready.prec with widenSent := [(0, 1)], stormSent := [0] }, now := 100000000 }
/-- A fill of one piece. -/
def fill0 (who : Option (Origin × Body)) : BankFill := { bank := 0, first := 0, last := 512, touched := false, origin := who }
/-- The module with that fill. -/
def filling (who : Option (Origin × Body)) : Chip := { base with fills := [fill0 who] }
/-- A tile of no cells. -/
def tile0 : Tile := (passTile (startRd tiled) o0 0 passBody0).2.1
/-- An item of block 0. -/
def item0 : FinItem := { origin := o0, blk := 0, body := 0, slot := 0, entry := (0, 0, 0, 0), tile := tile0 }
/-- The module with that item. -/
def widening : Chip := { base with prec := { base.prec with items := [item0] } }
/-- A context of two frames in tier A. -/
def kvCtx0 : KvCtx :=
  { models := 1, table := 0,
    a := { frames := 2, base := 0x10000, summary := 0x20000, ref := 0x30000, free := 0x30040, retire := 0x30080 },
    b := { frames := 0, base := 0, summary := 0, ref := 0, free := 0, retire := 0 } }
/-- A layout of one head, one layer and 8 positions. -/
def lay0 : KvLayout := { heads := 1, dim := 64, kw := 2, vw := 2, pos := 8, layers := 1 }
/-- As `zeroPad`, with the context at 80H, an absent page list at 40000H, a sequence record at 50000H and one free frame. -/
def kvChip : Chip :=
  let s := wr zeroPad (.pw 0) (Reg.PW_CTX_LO_ADDR_LO 0) 1
  let s := memPut (memPut (memPut s (128 + 0x10) (toBytes 8 0x10000)) (128 + 0x20) (toBytes 4 2)) (128 + 0x28) (toBytes 8 0x20000)
  let s := memPut (memPut (memPut s (128 + 0x38) (toBytes 8 0x30000)) (128 + 0x48) (toBytes 8 0x30040)) (128 + 0x58) (toBytes 8 0x30080)
  let s := memPut (memPut s 0x40000 (toBytes 8 (2 ^ 64 - 1))) 0x50000 (toBytes 8 0x40000)
  let s := memPut s 0x50010 (toBytes 8 0x40004)
  let s := setKvPart s 0 (fun k => { k with models := [(0, lay0)], freeA := 1 })
  padPut s 0 8 (toBytes 8 0x40000) false none
/-- A REIN_ATTEND of one entry. -/
def attendBody : Body := BitVec.ofNat 384 ((0x3F800000 * 2 ^ 128) + (0x24000000 * 2 ^ 160))
/-- A KV_APPEND of one entry. -/
def appendBody : Body := 0
/-- A page edit of one block, of kind `n`, with the second sequence as source. -/
def editBody (n : Nat) : Body := BitVec.ofNat 384 (0x50000 + n * 2 ^ 93 + 2 ^ 96 + 0x50010 * 2 ^ 192)
/-- A REIN_ATTEND that issued. -/
def attendCmd : Cmd := { index := 0, seq := 7, raw := 0x200000, copies := [{ engine := .rein 0, fate := .issued, shift := 0 }],
                         retired := false, dropped := false, arrived := none, sent := none }
/-- A walk of a command that has gone. -/
def walk0 : Walk := { id := 0, part := 0, region := 0, epoch := 0, models := [], ctx := none, fault := (0, 0), cmd := some 9 }
/-- The module with that walk. -/
def walking : Chip := { base with kv := { base.kv with walks := [walk0] } }
/-- Slot units of tier A in use, not encoded. -/
def slotCtx0 : SlotCtx := { enable := 0, tagA := 0x60000, tagB := 0, spill := 0 }
/-- As `kvChip`, with slot units. -/
def slotChip : Chip := { kvChip with slots := [(0, slotCtx0)] }
/-- Unit 0 of channel 0. -/
def chan0 : Nat × Nat × Bool := (0x10000, 0x60000, false)
/-- As `zeroPad`, with a stream at 1000H of one raw block of 64 bytes, its table of 8-bit codes, and a VARIANT and a BASE image
of one tile at 4000H and 5000H. -/
def skvChip : Chip :=
  let s := memPut zeroPad 0x1004 (toBytes 4 64 ++ toBytes 4 64)
  let s := memPut s 0x1020 (List.replicate 10 0x88 ++ List.replicate 6 0 ++ List.replicate 12 0x88)
  memPut (memPut (memPut s 0x1040 (toBytes 4 (2 ^ 31))) 0x4004 (toBytes 4 1)) 0x5004 (toBytes 4 1)
/-- SKV_COMPRESS of 64 bytes with TABLE_IN. -/
def compressBody : Body := BitVec.ofNat 384 (0x2000 + 0x1000 * 2 ^ 64 + 64 * 2 ^ 128 + 0x50000002 * 2 ^ 160)
/-- SKV_DECODE of one block. -/
def decodeBody : Body := BitVec.ofNat 384 (0x1000 + 0x3000 * 2 ^ 64 + 0x50000000 * 2 ^ 160)
/-- SKV_STAGE of one tile. -/
def stageBody : Body := BitVec.ofNat 384 (0x4000 + 0x5000 * 2 ^ 64 + 2 ^ 288)
/-- A slot in state `n`, one page list block of an absent page, 8 tokens of its prompt left. -/
def slotIn (n : Nat) : Slot :=
  let t := slotOfDesc kvChip 0 [] lay0 0 0 0
  { t with state := n, promptLeft := 8, listAddr := 0x40000, listBlocks := 1, turnLeft := 8, maxNew := 8 }
/-- As `kvChip`, its Start list enabled with step queue 0 ACTIVE, and slot 0. -/
def withSlot (t : Slot) : Chip :=
  let s := wr (wr kvChip (.sl 0) Reg.SL_CFG_ENABLE 1) (.sq 0 0) Reg.SQ_STAT_STATE 1
  let s := wr (wr s (.sl 0) Reg.SL_BATCH_LIMITS_MAX_TOKENS 64) (.sl 0) Reg.SL_BATCH_LIMITS_MAX_DECODE 16
  setServe { s with now := 1000000 } 0 (fun v => { v with slots := [(0, t)] })
def serving (n : Nat) : Chip := withSlot (slotIn n)
def editingSlot : Slot := { slotIn 1 with editing := true, edit := some (o0, 0) }
def movingSlot : Slot := { slotIn 4 with moving := true }
def fetchingSlot : Slot := { slotIn 5 with fetching := true }
def timed (k : Timer) : Chip := withSlot { slotIn 4 with timer := k, due := 1 }
/-- A step of the Start list, its origin, and the job it runs. -/
def oStep : Origin := { o0 with step := true }
def step0 : StepRun :=
  { no := 1, catchAt := 0, queue := 0, quad := 0, lead := 0, area := 0x100000, nt := 1, placed := [], entries := 0, sum := 0,
    walk := 0, job := 0, drawn := [] }
def stepping : Chip := setServe (serving 1) 0 (fun v => { v with step := some step0, stepNo := 1 })
def stepDone : Chip :=
  { stepping with q := { stepping.q with jobs := [{ jobOf nopCmd with step := true, endedAt := some 5 }], nextJob := 1 } }
def account0 : Account :=
  { budget := 1, windowUs := 1000, origin := 0, used := 0, throttled := false, chargePrompt := false, decline := false,
    total := 0, next := 1000 }
def accounts : Chip := setServe (serving 1) 0 (fun v => { v with accounts := [(0, account0)] })
/-- Every Serrun port UP in a mesh of 2 by 2, this module at (0, 0), the firmware running. -/
def meshed : Chip :=
  let s := [0, 1, 2, 3, 4].foldl (fun t k => wr (wr t (.srn k) Reg.SRN_LINK_STAT_STATE 5) (.srn k) Reg.SRN_LINK_STAT_GROUPS 15) kvChip
  let s := wr (wr s (.srn 0) Reg.SRN_MESH_CFG_DIM_X_M1 1) (.srn 0) Reg.SRN_MESH_CFG_DIM_Y_M1 1
  { s with sec := { s.sec with booted := true } }
/-- An SRN command of 64 bytes from address 0 to module (0, 0). -/
def srnBody : Body := bodyAt 0x20 64
/-- A packet for column `x`. -/
def packet (x : Fin 64) : Packet :=
  { srcX := 0, srcY := 1, dstX := x, dstY := 0, twin := false, epoch := 0, tag := 0, xfer := 0, last := true, body := .signal 0 1 }
/-- A transfer of the origin's command. -/
def xfer0 (k : XferKind) : Xfer := { id := 0, part := 0, who := some (o0, 0), kind := k, started := 0, port := 0 }
/-- The module, a day later, with that transfer. -/
def flying (k : XferKind) : Chip :=
  { meshed with mesh := { meshed.mesh with xfers := [xfer0 k], nextXfer := 1 }, now := 86400000000000 }
def inFlight : Chip := flying (.write 0x60)
/-- As that, as soon as it started. -/
def soon (k : XferKind) : Chip := { flying k with now := 0 }
def coll0 : Coll :=
  { id := 0, addr := 0, len := 256, ty := 0, op := 0, uns := false, got := [0, 0, 0, 0], sent := [0, 0, 0, 0] }
def collecting : Chip := flying (.coll coll0)
def retraining : Chip := setPort meshed 0 (fun x => { x with retraining := true })
def training : Chip :=
  wr (setPort (wr meshed (.srn 0) Reg.SRN_LINK_STAT_STATE 1) 0 (fun x => { x with cable := some 64, read := true, signal := true }))
    (.srn 0) Reg.SRN_LINK_CTRL_ENABLE 1
def promotedChip : Chip := { kvChip with mesh := { kvChip.mesh with promoted := [0] } }
/-- Queue 0 of partition 0 ACTIVE. -/
def active : Chip := wr ready (.sq 0 0) Reg.SQ_STAT_STATE 1
/-- As that, with one command of the host's to fetch. -/
def queued : Chip := wr (wr (wr linked (.sq 0 0) Reg.SQ_STAT_STATE 1) (.sq 0 0) Reg.SQ_PI_PI 1) (.sq 0 0) Reg.SQ_CFG_LOC 0
/-- A command that waits at the sync engine, and one that is done there. -/
def waitingCmd : Cmd := { nopCmd with copies := [{ engine := .sync 0, fate := .queued, shift := 0 }] }
def doneCmd : Cmd := { nopCmd with copies := [{ engine := .sync 0, fate := .done, shift := 0 }] }
def dispatchable : Chip := { active with q := { active.q with jobs := [jobOf waitingCmd], nextJob := 1, nextSeq := 1 } }
def dispatchPair : Job × Cmd := (jobOf waitingCmd, waitingCmd)
/-- A job at a preemption point that another preempts. -/
def switch0 : Switch :=
  { urgent := 1, victims := [0], atPoint := [], read := [], named := [], spill := [], short := false, past := [], sets := [], gone := [], base := 0, started := 0, resumed := 0 }
def switching (n : Nat) : Chip :=
  let s := wr ready (.qf 0) Reg.QF_PREEMPT_STAT_STATE n
  { s with switches := [(0, switch0)], q := { s.q with jobs := [jobOf waitingCmd], nextJob := 2 } }
/-- As `switching 1`, the victim at its point. -/
def switchingAt : Chip :=
  let k : Cmd := { nopCmd with retired := true, sent := some 0, copies := [{ engine := .sync 0, fate := .done, shift := 0 }] }
  { switching 1 with q := { (switching 1).q with jobs := [jobOf k] } }
def access0 : BankAccess := { requester := .scrubber, port := 0, offset := 0, write := false, waited := 0 }
def scrub0 : Scrub := { part := 0, release := true, perStack := [], slices := [] }
def scrub1 : Scrub := { scrub0 with slices := [0, 1] }
/-- As `linked`, the firmware running. -/
def booted : Chip := linked
/-- As that, partition 0 bound to the function, and bank 0 zero. -/
def bar : Chip := setBank booted 0 (fun x => bankZero x 0 bankSize)
/-- As that, with no partition bound to the function. -/
def unbound : Chip := wr (wr bar (.part 0) Reg.HUB_PART_BIND_PF0 0) (.part 0) Reg.HUB_PART_BIND_VF 1
/-- As `bar`, the partition without its range. -/
def walled : Chip := wr bar (.hbm 0) (Reg.HBM_RANGE_VALID 0 0) 0
/-- Partition 0 named with all 16 quads, bound to the management function, its pads clean. -/
def creatable : Chip :=
  { wr (wr (driver base) (.part 0) Reg.HUB_PART_QUADS_QUADS 65535) (.part 0) Reg.HUB_PART_BIND_PF0 1 with
    power := { base.power with trained := true } }
def heldOver : Chip :=
  let s := wr ready (.part 0) Reg.HUB_PART_STATE_STATE 3
  { s with hosts := { s.hosts with holds := [(0, 5)] }, now := 6 }
/-- A copy of host memory that issued. -/
def copyCmd : Cmd :=
  { nopCmd with raw := BitVec.ofNat 512 (0x60000 + 0x80000000 * 2 ^ 288), copies := [{ engine := .dma 0, fate := .issued, shift := 0 }] }
/-- A token or a supplement in processing. -/
def tokenWork (sup : Bool) : TokenWork := { isSupplement := sup, code := 1, bytes := [], mctp := none }
def inToken (sup : Bool) : Chip := { booted with sec := { booted.sec with processing := some (tokenWork sup) } }
def session0 : Session := { id := 0, responder := .doe (.pf 0), secured := true }
def inSessions : Chip := { booted with sec := { booted.sec with sessions := [session0], nextSession := 1 } }
/-- A record of the Cox. -/
def note0 : Note := plainNote .cox .corrected 0xA3
def inbound : Chip := { base with faults := { base.faults with inbound := [note0] } }
def sent0 : Note × Chip := (note0, { inbound with faults := { inbound.faults with inbound := [] } })
/-- A pending record whose grace ends at 1 ms. -/
def pending0 : Pending := { seq := 0, grace := 1000000, ends := 1000000, step := 1, part := none, job := none }
def gracing : Chip := { driver base with faults := { base.faults with pending := [pending0] } }
/-- A token of the management controller in processing. -/
def chunkWork : TokenWork := { isSupplement := false, code := 1, bytes := [], mctp := some .sideband }
def inChunks : Chip := { booted with sec := { booted.sec with processing := some chunkWork } }
def overdueChip : Chip := { gracing with now := 1000000 }
/-- Block 0 fenced, and its test running. -/
def fenced : Chip := wr (driver base) .fc (Reg.FC_FENCE_FENCED 0) 1
def testing : Chip := { fenced with faults := { fenced.faults with testing := some 0 } }
/-- Readings of a sample. -/
def readings0 : Readings :=
  { vinMv := 0, iin := 0, pin := 0, conv := 0, region0 := 0, region1 := 0, region2 := 0, region3 := 0, hbm := 0, tierB := 0,
    hub := 0, blockMax := 0, hbmMax := 0, hubT := 0, plate := 0, energyMj := 0 }
/-- Block 0 idle for a second, with both times set. -/
def resting : Chip :=
  let s := wr (wr (wr ready (.blk 0) Reg.PWR_STAT_STATE 1) (.blk 0) Reg.PWR_CTRL_RETAIN_US 1) (.blk 0) Reg.PWR_CTRL_OFF_MS 1
  { s with now := 1000000000 }
/-- Bank 0 awake for a second above its block. -/
def returning : Chip :=
  let s := wr (wr (wr ready (.blk 0) Reg.PWR_STAT_STATE 2) (.spb 0) Reg.SPB_STAT_POWER 0) (.spb 0) Reg.PWR_CTRL_RETAIN_US 1
  { s with now := 1000000000 }
/-- Every block of region 0 at rest for a second. -/
def sleepy : Chip :=
  let s := (List.range 64).foldl (fun t b => wr t (.blk b) Reg.PWR_STAT_STATE 3) ready
  { wr s .pm Reg.PM_REGION_CFG_IDLE_US 1 with now := 1000000000 }
/-- DEEP open. -/
def deep : Chip := setDebug booted false true
/-- As `linked`, the other port's link up too. -/
def other : Chip := wr linked (.pci 1) Reg.PCI_LINK_STAT_DL_UP 1
/-- The firmware runs from copy 1, whose SVN is 3. -/
def copyRuns : Chip :=
  let s := wr booted .sec Reg.SEC_BOOT_STAT_SVN 3
  { s with sec := { s.sec with runningB := some true } }

/-! ### WellFormed refuses an ill-formed term for each of its checks -/

/-- Pages that no module has: each type of page past its last one. -/
def noPages : List Page :=
  [.pci 2, .srn 5, .tb 16, .part 16, .sq 16 0, .sq 0 64, .rein 4, .skv 4, .pw 4, .sl 4, .hbm 16, .qf 16, .fin 16, .blk 256,
   .spb 256, .vfWin 2 1, .vfWin 0 0, .vfWin 0 17, .fwPart 16]

theorem test_wf_page_refused : noPages.all (fun pg => !pg.wf) = true := by decide
theorem test_wf_page_accepted :
    [Page.pci 1, .srn 4, .tb 15, .part 15, .sq 15 63, .rein 3, .hbm 15, .qf 15, .blk 255, .spb 255, .vfWin 1 16, .fc].all
      (fun pg => pg.wf) = true := by decide

/-- A packet with that body. -/
def packetOf (b : PacketBody) : Packet :=
  { srcX := 0, srcY := 0, dstX := 0, dstY := 0, twin := false, epoch := 0, tag := 0, xfer := 0, last := true, body := b }

/-- A placement of the module alone. -/
def placement : Placement :=
  { meshB := false, dimXM1 := 0, dimYM1 := 0, x := 0, y := 0, epoch := 0, record := List.replicate 256 0 }

/-- One ill-formed term, or more, for each check of `Instr.wf`. -/
def illFormed : List Instr :=
  [.slotUnitWrite 0 0 0 0 (List.replicate 4097 0),
   .srnAckArrival 0 { bytes := [1], bad := [], tags := [1, 2] },
   .srnAckArrival 0 { bytes := [1, 2], bad := [1, 0], tags := [] },
   .srnPacketArrival 0 (packetOf (.write 0 { bytes := [1, 2], bad := [1], tags := [] })),
   .srnPacketForward 0 (packetOf (.update 0 { bytes := [1], bad := [], tags := [1, 2] } 0 0 false)),
   .srnPacketDiscard 0 (packetOf (.part 0 0 0 0 false 0 0 false false { bytes := [1], bad := [], tags := [1, 2] })),
   .mirrorWriteArrival 0 0 0 (.image 0 0 []), .mirrorWriteArrival 0 0 0 (.image 4 0 (List.replicate 32 0)),
   .place { placement with record := [] },
   .bankGrant 0 [{ requester := .scrubber, port := 0, write := false, offset := 0x200000, waited := 0 }] .clean,
   .sqDoorbell (.vf 0 0) 0 0 0,
   .bar2Read 0 1 0 0, .bar2Write 0 1 0 [], .spadWindowRead 0 1 0 0, .spadWindowWrite 0 1 0 [],
   .faultRecordArrival (.pci 2) .arrived, .mctpToken 0 (List.replicate 1025 0) true .whole, .mctpUnsupportedCmd 8,
   .slEnableWrite (.qf 0) true, .slEnableWrite (.sl 4) true, .localReset (.fwPart 0) 0, .pageQuiesce (.blk 256) 0,
   .pageEnableWrite (.spb 256) 0, .irqStatClear (.fwPart 1) false 0, .irqSet (.srn 5) 0, .interruptMaskWrite (.hbm 16) false 0,
   .errInject (.pw 4) 0, .countClear (.fwPart 2) 0, .latchingLoRead (.pf 0) 2, .registerWrite (.pf 0) 0x8000000 0 15,
   .registerWrite (.vf 0 1) 0x800000 0 15, .jtagAccess (.page .hub 0x1000 none)]

theorem test_wf_instr_refused : illFormed.all (fun i => !i.wf) = true := by decide +kernel
theorem test_wf_instr_accepted :
    [Instr.slotUnitWrite 0 0 0 0 (List.replicate 4096 0), .srnAckArrival 0 { bytes := [1], bad := [0], tags := [1] },
     .place placement, .sqDoorbell (.vf 0 1) 0 0 0, .bar2Read 0 1 0 1, .mctpUnsupportedCmd 9, .mctpUnsupportedCmd 0,
     .slEnableWrite .fwSl true, .registerWrite (.vf 0 1) 0x7FFFFC 0 15, .jtagAccess (.page .hub 0xFFC none), .wake].all
      (fun i => i.wf) = true := by decide +kernel

/-! ### The worked examples of the spec -/

/-- Packing five weights (02): the byte 0x9A holds the trit codes 1, 0, 2, 2, 1; 0xF5 decodes as five zero weights. -/
theorem test_trits : (List.range 5).map (byteTrit 0x9A) = [1, 0, 2, 2, 1] ∧ (List.range 5).map (byteTrit 0xF5) = [0, 0, 0, 0, 0] := by
  decide
/-- A stitched group (02): 0x56 gives −1 at row 10 and +1 at row 13; 0x4A gives 0 at row 10. -/
theorem test_stitched : stitchWeight 0x56 2 = -1 ∧ stitchWeight 0x56 5 = 1 ∧ stitchWeight 0x4A 2 = 0 := by decide
/-- A delta entry (02): −1 at 0x0664; a following entry with that position is ignored and counted. -/
theorem test_delta : mergeDelta [(0x06648000, false), (0x06644000, false)] = ([(0x0664, 2)], 1, 0) := by decide
/-- A 4-bit strap (02): the head is stored as E0 01 74 7C. -/
theorem test_strap_head : (strapBytes 124 4 true false true (List.replicate 480 0)).take 4 = [0xE0, 0x01, 0x74, 0x7C] := by
  decide +kernel
/-- The same strap: element 37, of code −6, sets bit 5 of words 5 and 7 alone. -/
theorem test_strap_planes :
    let l := strapBytes 124 4 true false true ((List.range 480).map (fun k => if k = 37 then -6 else 0))
    [4, 5, 6, 7].map (fun m => ofBytes ((l.drop (4 + 4 * m)).take 4)) = [0, 32, 0, 32] := by decide +kernel
/-- A narrow pair (02): 0x80FF_FFE0_012C holds 300 and −2 at E = 128. -/
theorem test_narrow_pair : accOpen true 0x80FFFFE0012C = { e := 128, lanes := [300, -2] } := by decide
/-- Two straps in one pass (03): segment sums 5 at EXP 124 and −3 at EXP 126 give −448; at EXP 116 the first gives 1. -/
theorem test_plane_sum :
    planeSum (fun k => if k < 128 then 1 else -1) [(3, 124, true, [31]), (15, 126, true, [7])] 126 4 0 = -448 ∧ asr 1280 10 = 1 := by
  decide +kernel
/-- Headroom absorbs the outliers (04): EXP 126; 37.5, 12.0 and 5.0 go to the keeper slot; 3.0, 2.5 and 0.8 take codes 6, 5 and 2. -/
theorem test_headroom :
    let c := quantiseStrap [0x42160000, 0x3F4CCCCD, 0x41400000, 0x40400000, 0x40A00000, 0x40200000] 4
      [2 ^ 26 + 2 * 2 ^ 20 + 3 * 2 ^ 15 + 124] none
    c.exp = 126 ∧ c.keep = [0, 2, 4] ∧ c.excess = [] ∧ c.codes = [0, 2, 0, 6, 0, 5] := by decide +kernel
/-- The region's address space (05): 0x0004_0000 is in bank 0 of quad 0, 0x0260_0000 is offset 0 of bank 3 of quad 1. -/
theorem test_bank_of : bankOf 0 0x00040000 = 0 ∧ bankOf 0 0x02600000 = 16 + 3 ∧ padAddr 19 0 = 0x02600000 := by decide
/-- One block (10): its symbols' codes fill the bytes 0x5F 0xFB, and the first code read is class 34's. -/
theorem test_skive_block :
    let t := (List.range 64).map (fun c => if c = 34 then 1 else if c = 6 ∨ c = 55 then 2 else 0)
    let syms := [runSym 3, literalSym (skvMap false 7), runSym 4092]
    syms = [(34, 0, 0), (6, 0, 0), (55, 2043, 11)] ∧ packBits 3 (syms.flatMap (symBits (codesOf t))) = [0x5F, 0xFB] ∧
    nextClass (codesOf t) 15 0 0 (unpackBits [0x5F]) = some (34, [true, false, true, true, true, true, true]) := by decide +kernel
/-- The header of that block: byte 0x23 holds 0x02, byte 0x31 0x01 and byte 0x3B 0x20, where the lengths start at 0x20. -/
theorem test_skive_lengths :
    let l := lengthBytes ((List.range 64).map (fun c => if c = 34 then 1 else if c = 6 ∨ c = 55 then 2 else 0))
    l.getD 0x03 0 = 0x02 ∧ l.getD 0x11 0 = 0x01 ∧ l.getD 0x1B 0 = 0x20 := by decide +kernel
/-- Channel 9 of stack 5 (11): stack offset 0x7D_0900 is served at stack offset 0x17_4004_0800. -/
theorem test_remap : remap 0x7D0900 9 = 0x1740040800 := by decide
/-- Resuming a caller's turn (09): the model's times, and R after a step that measures 80,000,000 ns. The example's times come out
of R291 with C at 6,000,000 fs, which is 6,000 ps: log 12. -/
def modelled : Chip :=
  wrAll ready (slPage ready 0) [(Reg.SL_MODEL_A_A, 2000000), (Reg.SL_MODEL_B_B, 6000000), (Reg.SL_MODEL_C_C, 6000000),
    (Reg.SL_MODEL_R_R, 65536), (Reg.SL_CFG_GAIN, 3)]
theorem test_step_model :
    modelTime modelled 0 2600 7620300 = 63321800 ∧ modelTime modelled 0 3200 9600600 = 78803600 ∧
    slCfg (correctR modelled 0 80000000 3200 9600600) 0 Reg.SL_MODEL_R_R = 65660 := by decide +kernel
/-- Quiescing and resetting block 137 (17), steps 1 and 2: the directory and the page's identity. -/
theorem test_directory :
    let c := registerWrite base (.pf 0) 0x060 19 15
    (viaRead c (.pf 0) 0x064).1 = 0x00220100 ∧ (viaRead c (.pf 0) 0x068).1 = 0x12000001 ∧ (viaRead c (.pf 0) 0x1289000).1 = 0x00228901 := by decide +kernel
/-- Steps 3 to 5, on a block with no work: PAGE_STAT reads 0x0000_0085 once drained, and ENABLE is 1 after the reset. -/
theorem test_local_reset :
    let c := pageQuiesce ready (.blk 137) 0x00280002
    pageStat c (.blk 137) = 0x85 ∧ rd (localReset c (.blk 137) 0x00280005) (.blk 137) Reg.PAGE_CTRL_ENABLE = 1 := by decide +kernel
end Tests

/-! ### Witnesses of the statements' hypotheses -/

theorem witness_SyncCommandsRun_1 :
    ∃ (c : Chip) (o : Origin) (e : Nat × Nat),
      running c = true ∧
      c.q.jobs.findSome? (fun j => if fromOrigin o j then (j.cmds.find? (fun k => unfinished k && hdrOpcode k.raw == 0 &&
        k.copies.any (fun x => x.engine == syncOf o && x.fate == .issued))).map (fun k => (j.id, k.index)) else none) = some e :=
  ⟨Tests.withJob Tests.nopCmd, Tests.o0, (0, 0), by decide +kernel⟩

theorem witness_SyncCommandsRun_2 :
    ∃ (c : Chip) (o : Origin) (b : Body) (c' : Chip),
      running c = true ∧
      stillToDo c o (syncOf o) 0x10 b = true ∧
      handTo c o (syncOf o) 0x10 b = c' ∧
      mayFollow c' o (syncOf o) 0x10 b = true ∧
      semOwned c' o.part.val (bf b 0x10 15 0) = true :=
  ⟨Tests.base, Tests.o0, 0, _, by decide +kernel, by decide +kernel, rfl, by decide +kernel, by decide +kernel⟩

theorem witness_SyncCommandsRun_3 :
    ∃ (c : Chip) (o : Origin) (b : Body) (c' : Chip),
      running c = true ∧
      stillToDo c o (syncOf o) 0x11 b = true ∧
      handTo c o (syncOf o) 0x11 b = c' ∧
      semOwned c' o.part.val (bf b 0x10 15 0) = true ∧
      bw b 0x14 ≤ semVal c' (bf b 0x10 15 0) :=
  ⟨Tests.base, Tests.o0, 0, _, by decide +kernel, by decide +kernel, rfl, by decide +kernel, by decide +kernel⟩

theorem witness_SyncCommandsRun_4 :
    ∃ (c : Chip) (o : Origin) (b : Body) (c' : Chip),
      running c = true ∧
      stillToDo c o (syncOf o) 0x11 b = true ∧
      handTo c o (syncOf o) 0x11 b = c' ∧
      semOwned c' o.part.val (bf b 0x10 15 0) = true ∧
      semVal c' (bf b 0x10 15 0) < bw b 0x14 :=
  ⟨Tests.base, Tests.o0, 0x100000000, _, by decide +kernel, by decide +kernel, rfl, by decide +kernel, by decide +kernel⟩

theorem witness_SyncCommandsRun_5 :
    ∃ (c : Chip) (o : Origin) (b : Body) (c' : Chip),
      running c = true ∧
      stillToDo c o (syncOf o) 0x12 b = true ∧
      handTo c o (syncOf o) 0x12 b = c' ∧
      (runningCmd c' o (syncOf o) 0x12 b).bind (fun k => k.arrived) = none ∧
      mayFollow c' o (syncOf o) 0x12 b = true ∧
      barOwned c' o.part.val (bf b 0x10 11 0) = true ∧
      bb b 0x10 16 = true ∧
      bb b 0x10 17 = false ∧
      bf b 0x14 15 0 ≠ 0 ∧
      ((barOf c' (bf b 0x10 11 0)).count = 0 ∨ (barOf c' (bf b 0x10 11 0)).target = bf b 0x14 15 0) :=
  ⟨Tests.base, Tests.o0, 0x100010000, _, by decide +kernel, by decide +kernel, rfl, by decide +kernel, by decide +kernel, by decide +kernel, by decide +kernel, by decide +kernel, by decide +kernel, by decide +kernel⟩

theorem witness_SyncCommandsRun_6 :
    ∃ (c : Chip) (o : Origin) (b : Body) (c' : Chip),
      running c = true ∧
      stillToDo c o (syncOf o) 0x12 b = true ∧
      handTo c o (syncOf o) 0x12 b = c' ∧
      (runningCmd c' o (syncOf o) 0x12 b).bind (fun k => k.arrived) = none ∧
      barOwned c' o.part.val (bf b 0x10 11 0) = true ∧
      bb b 0x10 16 = false ∧
      bb b 0x10 17 = true :=
  ⟨Tests.base, Tests.o0, 0x20000, _, by decide +kernel, by decide +kernel, rfl, by decide +kernel, by decide +kernel, by decide +kernel, by decide +kernel⟩

theorem witness_SyncCommandsRun_7 :
    ∃ (c : Chip) (o : Origin) (b : Body) (g : Nat) (c' : Chip),
      running c = true ∧
      stillToDo c o (syncOf o) 0x12 b = true ∧
      handTo c o (syncOf o) 0x12 b = c' ∧
      (runningCmd c' o (syncOf o) 0x12 b).bind (fun k => k.arrived) = some g ∧
      (barOf c' (bf b 0x10 11 0)).generation ≠ g :=
  ⟨Tests.withJob { Tests.nopCmd with raw := 0x120000, arrived := some 1 }, Tests.o0, 0, 1, _, by decide +kernel, by decide +kernel, rfl, by decide +kernel, by decide +kernel⟩

theorem witness_SyncCommandsRun_8 :
    ∃ (c : Chip) (o : Origin) (b : Body) (c' : Chip),
      running c = true ∧
      stillToDo c o (syncOf o) 0x13 b = true ∧
      handTo c o (syncOf o) 0x13 b = c' ∧
      mayFollow c' o (syncOf o) 0x13 b = true ∧
      bf b 0x20 31 30 = 1 ∧
      bb b 0x20 16 = false ∧
      girthAdmit c' o.part.val (bq b 0x10) 8 true = .go :=
  ⟨Tests.ready, Tests.o0, Tests.bodyAt 0x20 0x40000000, _, by decide +kernel, by decide +kernel, rfl, by decide +kernel, by decide +kernel, by decide +kernel, by decide +kernel⟩

theorem witness_SyncCommandsRun_9 :
    ∃ (c : Chip) (o : Origin) (b : Body) (c' : Chip),
      running c = true ∧
      stillToDo c o (syncOf o) 0x13 b = true ∧
      handTo c o (syncOf o) 0x13 b = c' ∧
      mayFollow c' o (syncOf o) 0x13 b = true ∧
      bf b 0x20 31 30 = 2 ∧
      bb b 0x20 16 = true ∧
      hostReady c' (boundFunc c' o.part.val).1 (boundFunc c' o.part.val).2 = true :=
  ⟨Tests.linked, Tests.o0, Tests.bodyAt 0x20 0x80010000, _, by decide +kernel, by decide +kernel, rfl, by decide +kernel, by decide +kernel, by decide +kernel, by decide +kernel⟩

theorem witness_SyncCommandsRun_10 :
    ∃ (c : Chip) (o : Origin) (c' : Chip),
      running c = true ∧
      stillToDo c o (syncOf o) 0x14 (weighBody c o) = true ∧
      handTo c o (syncOf o) 0x14 (weighBody c o) = c' ∧
      mayFollow c' o (syncOf o) 0x14 (weighBody c' o) = true ∧
      (goingQueues c' o.part.val).isEmpty = false :=
  ⟨wr Tests.base (.sq 0 0) Reg.SQ_STAT_STATE 1, Tests.o0, _, by decide +kernel, by decide +kernel, rfl, by decide +kernel, by decide +kernel⟩

theorem witness_SyncCommandsRun_11 :
    ∃ (c : Chip) (i : Nat) (w : Wait),
      running c = true ∧
      c.q.waits[i]? = some w ∧
      waitExpired c w = true :=
  ⟨Tests.waiting, 0, Tests.wait0, by decide +kernel⟩

theorem witness_SyncCommandsRun_12 :
    ∃ (c : Chip) (o : Origin) (b : Body),
      running c = true ∧
      stillToDo c o (syncOf o) 0x10 b = false :=
  ⟨Tests.cancelled 0x10, Tests.o0, 0, by decide +kernel⟩

theorem witness_SyncCommandsRun_13 :
    ∃ (c : Chip) (o : Origin) (b : Body),
      running c = true ∧
      stillToDo c o (syncOf o) 0x11 b = false :=
  ⟨Tests.cancelled 0x11, Tests.o0, 0, by decide +kernel⟩

theorem witness_SyncCommandsRun_14 :
    ∃ (c : Chip) (o : Origin) (b : Body),
      running c = true ∧
      stillToDo c o (syncOf o) 0x12 b = false :=
  ⟨Tests.cancelled 0x12, Tests.o0, 0, by decide +kernel⟩

theorem witness_SyncCommandsRun_15 :
    ∃ (c : Chip) (o : Origin) (b : Body),
      running c = true ∧
      stillToDo c o (syncOf o) 0x13 b = false :=
  ⟨Tests.cancelled 0x13, Tests.o0, 0, by decide +kernel⟩

theorem witness_StrokePassesRun_1 :
    ∃ (c : Chip) (o : Origin) (blk : Fin 256) (b : Body) (events : List PassEvent) (d : Rd × List (Nat × Nat)) (e : Rd × PassData) (t : Chip) (lv : Bool) (c' : Chip),
      running c = true ∧
      stillToDo c o (.stroke blk) 1 b = true ∧
      handTo c o (.stroke blk) 1 b = c' ∧
      blockFenced c' blk.val = false ∧
      (block c' blk.val).wait = none ∧
      passInvalid b = false ∧
      passMisaligned b = none ∧
      slotsBad (bb b 0x20 23) (bf b 0x24 24 16) (bf b 0x24 8 0 + 1) = false ∧
      modeConflict c' blk.val (bb b 0x20 23) (passTouches c' o blk b) = false ∧
      passTokens (startRd c') o b = d ∧
      (bf b 0x20 21 20 = 2 → d.2.isEmpty = false) ∧
      passRead d.1 o blk.val b d.2 = e ∧
      e.1.bad = none ∧
      passSets e.1.s o blk.val b (passFirst c' o blk b) d.2.length e.2 = t ∧
      passLive { e.1 with s := t } o b d.2 e.2 = lv ∧
      blockFenced (passMeets t o blk b (passFirst c' o blk b) lv events) blk.val = false :=
  ⟨Tests.tiled, Tests.o0, 0, Tests.passBody0, [], _, _, _, _, _, by decide +kernel, by decide +kernel, rfl, by decide +kernel, by decide +kernel, by decide +kernel, by decide +kernel, by decide +kernel, by decide +kernel, rfl, by decide +kernel, rfl, by decide +kernel, rfl, rfl, by decide +kernel⟩

theorem witness_StrokePassesRun_2 :
    ∃ (c : Chip) (o : Origin) (blk : Fin 256) (b : Body) (c' : Chip),
      running c = true ∧
      stillToDo c o (.stroke blk) 1 b = true ∧
      handTo c o (.stroke blk) 1 b = c' ∧
      blockFenced c' blk.val = false ∧
      (block c' blk.val).wait = none ∧
      passInvalid b = false ∧
      passMisaligned b = none ∧
      slotsBad (bb b 0x20 23) (bf b 0x24 24 16) (bf b 0x24 8 0 + 1) = false ∧
      modeConflict c' blk.val (bb b 0x20 23) (passTouches c' o blk b) = true :=
  ⟨Tests.narrowSet, Tests.o0, 0, 0, _, by decide +kernel, by decide +kernel, rfl, by decide +kernel, by decide +kernel, by decide +kernel, by decide +kernel, by decide +kernel, by decide +kernel⟩

theorem witness_StrokePassesRun_3 :
    ∃ (c : Chip) (blk : Fin 256) (w : AccWait),
      running c = true ∧
      (block c blk.val).wait = some w ∧
      waitFree c blk w = true :=
  ⟨Tests.accWaiting 0, 0, Tests.accWait0, by decide +kernel⟩

theorem witness_StrokePassesRun_4 :
    ∃ (c : Chip) (blk : Fin 256) (w : AccWait),
      running c = true ∧
      (block c blk.val).wait = some w ∧
      waitFree c blk w = false ∧
      accExpired c blk.val w = true :=
  ⟨Tests.accStuck, 0, Tests.accWait1, by decide +kernel⟩

theorem witness_BurnisherCommandsRun_1 :
    ∃ (c : Chip) (o : Origin) (blk : Fin 256) (b : Body) (events : List PassEvent) (c' : Chip),
      running c = true ∧
      stillToDo c o (.burnisher blk) 2 b = true ∧
      handTo c o (.burnisher blk) 2 b = c' ∧
      blockFenced c' blk.val = false ∧
      readoutInvalid b = false ∧
      readoutMisaligned b = none ∧
      slotsBad (bb b 0x2C 23) (bf b 0x30 24 16) (bf b 0x30 8 0 + 1) = false ∧
      modeConflict c' blk.val (bb b 0x2C 23) (setsOf (bb b 0x2C 23) (readoutFirst c' o blk b) (bf b 0x30 8 0 + 1)) = false ∧
      (readoutLoad (startRd c') o b).1.bad = none ∧
      blockFenced (readoutMeets (readoutLoad (startRd c') o b).1.s o blk b (readoutFirst c' o blk b) events) blk.val = false :=
  ⟨Tests.zeroPad, Tests.o0, 0, Tests.readBody0, [], _, by decide +kernel, by decide +kernel, rfl, by decide +kernel, by decide +kernel, by decide +kernel, by decide +kernel, by decide +kernel, by decide +kernel, by decide +kernel⟩

theorem witness_BurnisherCommandsRun_2 :
    ∃ (c : Chip) (o : Origin) (blk : Fin 256) (b : Body) (c' : Chip),
      running c = true ∧
      stillToDo c o (.burnisher blk) 3 b = true ∧
      handTo c o (.burnisher blk) 3 b = c' ∧
      blockFenced c' blk.val = false ∧
      bw b 0x10 % 32 = 0 ∧
      (quantiseCheck (startRd c') o b).1.bad = none :=
  ⟨Tests.quantReady, Tests.o0, 0, 0, _, by decide +kernel, by decide +kernel, rfl, by decide +kernel, by decide +kernel, by decide +kernel⟩

theorem witness_FinCommandsRun_1 :
    ∃ (c : Chip) (o : Origin) (b : Body) (c' : Chip),
      running c = true ∧
      stillToDo c o (finOf o) 4 b = true ∧
      handTo c o (finOf o) 4 b = c' ∧
      finInvalid b = false ∧
      finIdsBad c' o b = false ∧
      (finRuns (startRd c') o b).find? (fun r => (memRefusal c' o.part.val r.1 r.2.1 false).isSome) = none ∧
      runsWait c' o.part.val [finRuns (startRd c') o b] = false :=
  ⟨Tests.base, Tests.o0, 0, _, by decide +kernel, by decide +kernel, rfl, by decide +kernel, by decide +kernel, by decide +kernel, by decide +kernel⟩

theorem witness_FinCommandsRun_2 :
    ∃ (c : Chip) (q : Fin 16) (i : FinItem),
      running c = true ∧
      c.prec.items.find? (fun i => i.blk / 16 == q.val) = some i ∧
      (rd c (.fin q.val) Reg.FIN_CFG_WIDEN_FIRST ≠ 0 ∨ (readyJobs c (.fin q)).isEmpty = true) ∧
      blockFenced c i.blk = false :=
  ⟨Tests.widening, 0, Tests.item0, by decide +kernel⟩

theorem witness_StormEventsRun_1 :
    ∃ (c : Chip) (p : Fin 16),
      running c = true ∧
      tgetD c.prec.widenSent p.val 0 ≠ 0 ∧
      leadQuad c p.val < 16 :=
  ⟨Tests.storming, 0, by decide +kernel⟩

theorem witness_StormEventsRun_2 :
    ∃ (c : Chip) (q : Fin 16),
      running c = true ∧
      kmem c.prec.stormSent q.val = true :=
  ⟨Tests.storming, 0, by decide +kernel⟩

theorem witness_StormEventsRun_3 :
    ∃ (c : Chip) (p : Fin 16),
      running c = true ∧
      partState c p.val ≠ 0 ∧
      servingOn c p.val = false ∧
      tgetD c.prec.stormAt p.val 0 + stormLength c p.val ≤ c.now :=
  ⟨Tests.storming, 0, by decide +kernel⟩

theorem witness_DmaCommandsRun_1 :
    ∃ (c : Chip) (o : Origin) (b : Body) (c' : Chip),
      running c = true ∧
      stillToDo c o (dmaOf o) 5 b = true ∧
      handTo c o (dmaOf o) 5 b = c' ∧
      bw b 0x10 % 512 = 0 ∧
      bw b 0x14 % 512 = 0 ∧
      padRefusal c' o.part.val (o.quad.val / 4) (bw b 0x10) (bw b 0x14) 1 = none ∧
      bw b 0x14 ≠ 0 ∧
      c'.fills.any (fun f => f.origin == some (o, b)) = false :=
  ⟨Tests.ready, Tests.o0, Tests.bodyAt 0x14 512, _, by decide +kernel, by decide +kernel, rfl, by decide +kernel, by decide +kernel, by decide +kernel, by decide +kernel, by decide +kernel⟩

theorem witness_DmaCommandsRun_2 :
    ∃ (c : Chip) (bank : Fin 256) (f : BankFill),
      running c = true ∧
      c.fills.find? (fun f => f.bank == bank.val) = some f ∧
      bankFenced c bank.val = false ∧
      f.origin = none :=
  ⟨Tests.filling none, 0, Tests.fill0 none, by decide +kernel⟩

theorem witness_DmaCommandsRun_3 :
    ∃ (c : Chip) (bank : Fin 256) (f : BankFill) (o : Origin) (b : Body),
      running c = true ∧
      c.fills.find? (fun f => f.bank == bank.val) = some f ∧
      bankFenced c bank.val = false ∧
      f.origin = some (o, b) :=
  ⟨Tests.filling (some (Tests.o0, 0)), 0, Tests.fill0 (some (Tests.o0, 0)), Tests.o0, 0, by decide +kernel⟩

theorem witness_DmaCommandsRun_4 :
    ∃ (c : Chip) (o : Origin) (b : Body) (host : HostReply) (c' : Chip),
      running c = true ∧
      stillToDo c o (dmaOf o) 6 b = true ∧
      handTo c o (dmaOf o) 6 b = c' ∧
      copyInvalid b = false ∧
      runsWait c' o.part.val (copyRuns b) = false ∧
      (copyHost b = true → hostReady c' (boundFunc c' o.part.val).1 (boundFunc c' o.part.val).2 = true ∧ host ≠ .error) :=
  ⟨Tests.ready, Tests.o0, 0, .data [], _, by decide +kernel, by decide +kernel, rfl, by decide +kernel, by decide +kernel, by decide +kernel⟩

theorem witness_DmaCommandsRun_5 :
    ∃ (c : Chip) (o : Origin) (b : Body) (c' : Chip),
      running c = true ∧
      stillToDo c o (dmaOf o) 0x50 b = true ∧
      handTo c o (dmaOf o) 0x50 b = c' ∧
      updateInvalid b = false ∧
      unitOf (bq b 0x10) ≠ some 16 ∧
      runsWait c' o.part.val (updateRuns b) = false :=
  ⟨Tests.ready, Tests.o0, Tests.bodyAt 0x20 4, _, by decide +kernel, by decide +kernel, rfl, by decide +kernel, by decide +kernel, by decide +kernel⟩

theorem witness_DmaCommandsRun_6 :
    ∃ (c : Chip) (o : Origin) (b : Body) (c' : Chip),
      running c = true ∧
      stillToDo c o (dmaOf o) 0x51 b = true ∧
      handTo c o (dmaOf o) 0x51 b = c' ∧
      bf b 0x24 25 24 ≠ 3 ∧
      bq b 0x10 % elemSize (bf b 0x24 27 26) = 0 ∧
      bw b 0x20 % 8 = 0 ∧
      unitOf (bq b 0x10) ≠ some 16 ∧
      padCheck c' o.part.val (o.quad.val / 4) (bw b 0x20) 8 8 = none ∧
      girthAdmit c' o.part.val (bq b 0x10) (elemSize (bf b 0x24 27 26)) true = .go :=
  ⟨Tests.ready, Tests.o0, 0, _, by decide +kernel, by decide +kernel, rfl, by decide +kernel, by decide +kernel, by decide +kernel, by decide +kernel, by decide +kernel, by decide +kernel⟩

theorem witness_KvCommandsRun_1 :
    ∃ (c : Chip) (o : Origin) (b : Body) (met : List BufferError) (parity : List Nat) (k : Rd × Walk × Bool) (a : AttendRun) (c' : Chip),
      running c = true ∧
      stillToDo c o (reinOf o) 0x20 b = true ∧
      handTo c o (reinOf o) 0x20 b = c' ∧
      attendInvalid (attendOf b) = false ∧
      bw b 0x10 % 32 = 0 ∧
      (reinStart c' o met).walk o 0x20 b = k ∧
      attendWork k c' o b met parity = a ∧
      a.x.hold = none ∧
      a.x.bad = none :=
  ⟨Tests.kvChip, Tests.o0, Tests.attendBody, [], [], _, _, _, by decide +kernel, by decide +kernel, rfl, by decide +kernel, by decide +kernel, rfl, rfl, by decide +kernel, by decide +kernel⟩

theorem witness_KvCommandsRun_2 :
    ∃ (c : Chip) (o : Origin) (b : Body) (met : List BufferError) (parity : List Nat) (k : Rd × Walk × Bool) (y : Rd) (c' : Chip),
      running c = true ∧
      stillToDo c o (reinOf o) 0x21 b = true ∧
      handTo c o (reinOf o) 0x21 b = c' ∧
      bw b 0x10 % 32 = 0 ∧
      (reinStart c' o met).walk o 0x21 b = k ∧
      appendWork k c' o b met parity = y ∧
      y.hold = none ∧
      y.bad = none :=
  ⟨Tests.kvChip, Tests.o0, Tests.appendBody, [], [], _, _, _, by decide +kernel, by decide +kernel, rfl, by decide +kernel, rfl, rfl, by decide +kernel, by decide +kernel⟩

theorem witness_KvCommandsRun_3 :
    ∃ (c : Chip) (o : Origin) (b : Body) (e : EditLoad) (k : KvCtx) (v : KvLayout) (y : Rd) (c' : Chip),
      running c = true ∧
      stillToDo c o (reinOf o) 0x22 b = true ∧
      handTo c o (reinOf o) 0x22 b = c' ∧
      (editArgsOf b).op = 0 ∧
      editCode b = none ∧
      editLoad c' o b = e ∧
      e.ctx = some k ∧
      e.lay = some v ∧
      e.x.ended = false ∧
      pageEditRun e.x o (editArgsOf b) k v e.list e.gen e.src (bq b 0x10) = y ∧
      y.hold = none ∧
      y.bad = none :=
  ⟨Tests.kvChip, Tests.o0, Tests.editBody 0, _, Tests.kvCtx0, Tests.lay0, _, _, by decide +kernel, by decide +kernel, rfl, by decide +kernel, by decide +kernel, rfl, by decide +kernel, by decide +kernel, by decide +kernel, rfl, by decide +kernel, by decide +kernel⟩

theorem witness_KvCommandsRun_4 :
    ∃ (c : Chip) (o : Origin) (b : Body) (e : EditLoad) (k : KvCtx) (v : KvLayout) (y : Rd) (c' : Chip),
      running c = true ∧
      stillToDo c o (reinOf o) 0x22 b = true ∧
      handTo c o (reinOf o) 0x22 b = c' ∧
      (editArgsOf b).op = 1 ∧
      editCode b = none ∧
      editLoad c' o b = e ∧
      e.ctx = some k ∧
      e.lay = some v ∧
      e.x.ended = false ∧
      pageEditRun e.x o (editArgsOf b) k v e.list e.gen e.src (bq b 0x10) = y ∧
      y.hold = none ∧
      y.bad = none :=
  ⟨Tests.kvChip, Tests.o0, Tests.editBody 1, _, Tests.kvCtx0, Tests.lay0, _, _, by decide +kernel, by decide +kernel, rfl, by decide +kernel, by decide +kernel, rfl, by decide +kernel, by decide +kernel, by decide +kernel, rfl, by decide +kernel, by decide +kernel⟩

theorem witness_KvCommandsRun_5 :
    ∃ (c : Chip) (o : Origin) (b : Body) (e : EditLoad) (k : KvCtx) (v : KvLayout) (y : Rd) (c' : Chip),
      running c = true ∧
      stillToDo c o (reinOf o) 0x22 b = true ∧
      handTo c o (reinOf o) 0x22 b = c' ∧
      (editArgsOf b).op = 2 ∧
      editCode b = none ∧
      editLoad c' o b = e ∧
      e.ctx = some k ∧
      e.lay = some v ∧
      e.x.ended = false ∧
      pageEditRun e.x o (editArgsOf b) k v e.list e.gen e.src (bq b 0x10) = y ∧
      y.hold = none ∧
      y.bad = none :=
  ⟨Tests.kvChip, Tests.o0, Tests.editBody 2, _, Tests.kvCtx0, Tests.lay0, _, _, by decide +kernel, by decide +kernel, rfl, by decide +kernel, by decide +kernel, rfl, by decide +kernel, by decide +kernel, by decide +kernel, rfl, by decide +kernel, by decide +kernel⟩

theorem witness_KvCommandsRun_6 :
    ∃ (c : Chip) (o : Origin) (b : Body) (e : EditLoad) (k : KvCtx) (v : KvLayout) (y : Rd) (c' : Chip),
      running c = true ∧
      stillToDo c o (reinOf o) 0x22 b = true ∧
      handTo c o (reinOf o) 0x22 b = c' ∧
      (editArgsOf b).op = 3 ∧
      editCode b = none ∧
      editLoad c' o b = e ∧
      e.ctx = some k ∧
      e.lay = some v ∧
      e.x.ended = false ∧
      pageEditRun e.x o (editArgsOf b) k v e.list e.gen e.src (bq b 0x10) = y ∧
      y.hold = none ∧
      y.bad = none :=
  ⟨Tests.kvChip, Tests.o0, Tests.editBody 3, _, Tests.kvCtx0, Tests.lay0, _, _, by decide +kernel, by decide +kernel, rfl, by decide +kernel, by decide +kernel, rfl, by decide +kernel, by decide +kernel, by decide +kernel, rfl, by decide +kernel, by decide +kernel⟩

theorem witness_KvCommandsRun_7 :
    ∃ (c : Chip) (o : Origin) (b : Body) (e : EditLoad) (k : KvCtx) (v : KvLayout) (y : Rd) (c' : Chip),
      running c = true ∧
      stillToDo c o (reinOf o) 0x22 b = true ∧
      handTo c o (reinOf o) 0x22 b = c' ∧
      (editArgsOf b).op = 4 ∧
      editCode b = none ∧
      editLoad c' o b = e ∧
      e.ctx = some k ∧
      e.lay = some v ∧
      e.x.ended = false ∧
      pageEditRun e.x o (editArgsOf b) k v e.list e.gen e.src (bq b 0x10) = y ∧
      y.hold = none ∧
      y.bad = none :=
  ⟨Tests.kvChip, Tests.o0, Tests.editBody 4, _, Tests.kvCtx0, Tests.lay0, _, _, by decide +kernel, by decide +kernel, rfl, by decide +kernel, by decide +kernel, rfl, by decide +kernel, by decide +kernel, by decide +kernel, rfl, by decide +kernel, by decide +kernel⟩

theorem witness_WalksAndRetirementRun_1 :
    ∃ (c : Chip) (p : Fin 16) (region : Fin 4) (tag : Nat),
      running c = true ∧
      reinRuns c p.val region tag = true ∧
      c.kv.walks.any (fun w => w.cmd == some tag) = false :=
  ⟨Tests.withJob Tests.attendCmd, 0, 0, 7, by decide +kernel⟩

theorem witness_WalksAndRetirementRun_2 :
    ∃ (c : Chip) (p : Fin 16) (walk : Nat) (w : Walk),
      running c = true ∧
      c.kv.walks.find? (fun w => w.id == walk && w.part == p.val) = some w ∧
      walkBusy c w = false :=
  ⟨Tests.walking, 0, 0, Tests.walk0, by decide +kernel⟩

theorem witness_WalksAndRetirementRun_3 :
    ∃ (c : Chip) (p : Fin 16) (tierB : Bool) (e : Rd × Option KvCtx) (k : KvCtx),
      running c = true ∧
      (startRd c).ctx p.val (allocRegion c p.val) none = e ∧
      e.2 = some k ∧
      (pool k tierB).frames ≠ 0 ∧
      (kvPart c p.val).lost = false :=
  ⟨Tests.kvChip, 0, false, _, Tests.kvCtx0, by decide +kernel, rfl, by decide +kernel, by decide +kernel, by decide +kernel⟩

theorem witness_SkiveCommandsRun_1 :
    ∃ (c : Chip) (o : Origin) (b : Body) (met : List BufferError) (w : Rd × Nat) (c' : Chip),
      running c = true ∧
      stillToDo c o (skiveOf o) 0x30 b = true ∧
      handTo c o (skiveOf o) 0x30 b = c' ∧
      compressWork c' o b met = w ∧
      w.1.hold = none ∧
      w.1.bad = none :=
  ⟨Tests.skvChip, Tests.o0, Tests.compressBody, [], _, _, by decide +kernel, by decide +kernel, rfl, rfl, by decide +kernel, by decide +kernel⟩

theorem witness_SkiveCommandsRun_2 :
    ∃ (c : Chip) (o : Origin) (b : Body) (met : List BufferError) (w : Rd × Nat) (c' : Chip),
      running c = true ∧
      stillToDo c o (skiveOf o) 0x31 b = true ∧
      handTo c o (skiveOf o) 0x31 b = c' ∧
      decodeWork c' o b met = w ∧
      w.1.hold = none ∧
      w.1.bad = none :=
  ⟨Tests.skvChip, Tests.o0, Tests.decodeBody, [], _, _, by decide +kernel, by decide +kernel, rfl, rfl, by decide +kernel, by decide +kernel⟩

theorem witness_SkiveCommandsRun_3 :
    ∃ (c : Chip) (o : Origin) (b : Body) (met : List BufferError) (w : Rd × Nat) (c' : Chip),
      running c = true ∧
      stillToDo c o (skiveOf o) 0x32 b = true ∧
      handTo c o (skiveOf o) 0x32 b = c' ∧
      stageWork c' o b met = w ∧
      w.1.hold = none ∧
      w.1.bad = none :=
  ⟨Tests.skvChip, Tests.o0, Tests.stageBody, [], _, _, by decide +kernel, by decide +kernel, rfl, rfl, by decide +kernel, by decide +kernel⟩

theorem witness_SkiveCommandsRun_4 :
    ∃ (c : Chip) (p : Fin 16) (region : Fin 4) (channel : Fin 4) (unit : Nat) (met : List BufferError) (k : Rd × Option (Nat × Nat × Bool)) (e : Nat × Nat × Bool),
      running c = true ∧
      channel.val ≠ 3 ∧
      (startRd (skiveMeets c region.val met).1).channel p.val region.val
        channel.val unit = k ∧
      k.2 = some e :=
  ⟨Tests.slotChip, 0, 0, 0, 0, [], _, Tests.chan0, by decide +kernel, by decide +kernel, rfl, by decide +kernel⟩

theorem witness_SkiveCommandsRun_5 :
    ∃ (c : Chip) (p : Fin 16) (region : Fin 4) (channel : Fin 4) (bytes : List Byte) (k : SlotCtx) (v : List Byte × Nat) (f : List Byte × Nat),
      running c = true ∧
      channel.val = 3 ∧
      slotCtx c region.val p.val = some k ∧
      (bytes.take 4096 ++ List.replicate (4096 - bytes.length) 0, 0) = v ∧
      (if bit k.enable 3 then slotForm v.1 else v) = f :=
  ⟨Tests.slotChip, 0, 0, 3, [], Tests.slotCtx0, _, _, by decide +kernel, by decide +kernel, by decide +kernel, rfl, rfl⟩

theorem witness_SkiveCommandsRun_6 :
    ∃ (c : Chip) (p : Fin 16) (region : Fin 4) (channel : Fin 4) (unit : Nat) (met : List BufferError) (k : Rd × Option (Nat × Nat × Bool)) (e : Nat × Nat × Bool) (u : Rd × Option (List Byte) × Bool),
      running c = true ∧
      (startRd (skiveMeets c region.val met).1).channel p.val region.val
        channel.val unit = k ∧
      k.2 = some e ∧
      k.1.unit p.val region.val none e.1 e.2.1 = u :=
  ⟨Tests.slotChip, 0, 0, 0, 0, [], _, Tests.chan0, _, by decide +kernel, rfl, by decide +kernel, rfl⟩

theorem witness_SlotCommandsRun_1 :
    ∃ (c : Chip) (o : Origin) (b : Body) (x : Rd) (k : Nat) (c' : Chip),
      running c = true ∧
      stillToDo c o (startListOf o) 0x41 b = true ∧
      handTo c o (startListOf o) 0x41 b = c' ∧
      slStart c' o.part.val = x ∧
      slCfg x.s o.part.val Reg.SL_CFG_ENABLE ≠ 0 ∧
      slotNamed x.s o.part.val (bw b 0x10) = some k :=
  ⟨Tests.serving 1, Tests.o0, 0, _, 0, _, by decide +kernel, by decide +kernel, rfl, rfl, by decide +kernel, by decide +kernel⟩

theorem witness_SlotCommandsRun_2 :
    ∃ (c : Chip) (o : Origin) (b : Body) (x : Rd) (c' : Chip),
      running c = true ∧
      stillToDo c o (startListOf o) 0x41 b = true ∧
      handTo c o (startListOf o) 0x41 b = c' ∧
      slStart c' o.part.val = x ∧
      slCfg x.s o.part.val Reg.SL_CFG_ENABLE ≠ 0 ∧
      slotNamed x.s o.part.val (bw b 0x10) = none :=
  ⟨Tests.serving 1, Tests.o0, 1, _, _, by decide +kernel, by decide +kernel, rfl, rfl, by decide +kernel, by decide +kernel⟩

theorem witness_SlotCommandsRun_3 :
    ∃ (c : Chip) (o : Origin) (b : Body) (x : Rd) (k : Nat) (c' : Chip),
      running c = true ∧
      stillToDo c o (startListOf o) 0x42 b = true ∧
      handTo c o (startListOf o) 0x42 b = c' ∧
      slStart c' o.part.val = x ∧
      slCfg x.s o.part.val Reg.SL_CFG_ENABLE ≠ 0 ∧
      slotNamed x.s o.part.val (bw b 0x10) = some k :=
  ⟨Tests.serving 1, Tests.o0, 0, _, 0, _, by decide +kernel, by decide +kernel, rfl, rfl, by decide +kernel, by decide +kernel⟩

theorem witness_SlotCommandsRun_4 :
    ∃ (c : Chip) (o : Origin) (b : Body) (x : Rd) (c' : Chip),
      running c = true ∧
      stillToDo c o (startListOf o) 0x42 b = true ∧
      handTo c o (startListOf o) 0x42 b = c' ∧
      slStart c' o.part.val = x ∧
      slCfg x.s o.part.val Reg.SL_CFG_ENABLE ≠ 0 ∧
      slotNamed x.s o.part.val (bw b 0x10) = none :=
  ⟨Tests.serving 1, Tests.o0, 1, _, _, by decide +kernel, by decide +kernel, rfl, rfl, by decide +kernel, by decide +kernel⟩

theorem witness_SlotCommandsRun_5 :
    ∃ (c : Chip) (o : Origin) (b : Body) (x : Rd) (k : Nat) (c' : Chip),
      running c = true ∧
      stillToDo c o (startListOf o) 0x43 b = true ∧
      handTo c o (startListOf o) 0x43 b = c' ∧
      slStart c' o.part.val = x ∧
      slCfg x.s o.part.val Reg.SL_CFG_ENABLE ≠ 0 ∧
      slotNamed x.s o.part.val (bw b 0x10) = some k :=
  ⟨Tests.serving 1, Tests.o0, 0, _, 0, _, by decide +kernel, by decide +kernel, rfl, rfl, by decide +kernel, by decide +kernel⟩

theorem witness_SlotCommandsRun_6 :
    ∃ (c : Chip) (o : Origin) (b : Body) (x : Rd) (c' : Chip),
      running c = true ∧
      stillToDo c o (startListOf o) 0x43 b = true ∧
      handTo c o (startListOf o) 0x43 b = c' ∧
      slStart c' o.part.val = x ∧
      slCfg x.s o.part.val Reg.SL_CFG_ENABLE ≠ 0 ∧
      slotNamed x.s o.part.val (bw b 0x10) = none :=
  ⟨Tests.serving 1, Tests.o0, 1, _, _, by decide +kernel, by decide +kernel, rfl, rfl, by decide +kernel, by decide +kernel⟩

theorem witness_SlotCommandsRun_7 :
    ∃ (c : Chip) (o : Origin) (b : Body) (x : Rd) (k : Nat) (c' : Chip),
      running c = true ∧
      stillToDo c o (startListOf o) 0x44 b = true ∧
      handTo c o (startListOf o) 0x44 b = c' ∧
      slStart c' o.part.val = x ∧
      slCfg x.s o.part.val Reg.SL_CFG_ENABLE ≠ 0 ∧
      slotNamed x.s o.part.val (bw b 0x10) = some k :=
  ⟨Tests.serving 1, Tests.o0, 0, _, 0, _, by decide +kernel, by decide +kernel, rfl, rfl, by decide +kernel, by decide +kernel⟩

theorem witness_SlotCommandsRun_8 :
    ∃ (c : Chip) (o : Origin) (b : Body) (x : Rd) (c' : Chip),
      running c = true ∧
      stillToDo c o (startListOf o) 0x44 b = true ∧
      handTo c o (startListOf o) 0x44 b = c' ∧
      slStart c' o.part.val = x ∧
      slCfg x.s o.part.val Reg.SL_CFG_ENABLE ≠ 0 ∧
      slotNamed x.s o.part.val (bw b 0x10) = none :=
  ⟨Tests.serving 1, Tests.o0, 1, _, _, by decide +kernel, by decide +kernel, rfl, rfl, by decide +kernel, by decide +kernel⟩

theorem witness_ServeCommandsRun_1 :
    ∃ (c : Chip) (o : Origin) (b : Body) (descriptor : HostReply) (x : Rd) (e : Rd × List Byte) (c' : Chip),
      running c = true ∧
      stillToDo c o (startListOf o) 0x40 b = true ∧
      handTo c o (startListOf o) 0x40 b = c' ∧
      slStart c' o.part.val = x ∧
      slCfg x.s o.part.val Reg.SL_CFG_ENABLE ≠ 0 ∧
      bq b 0x10 % 128 = 0 ∧
      (bf b 0x18 1 0 = 1 ∨ bf b 0x18 1 0 = 2) ∧
      x.descriptor o b descriptor = e ∧
      e.1.bad = none ∧
      e.1.hold = none :=
  ⟨Tests.serving 1, Tests.o0, Tests.bodyAt 0x18 1, .data [], _, _, _, by decide +kernel, by decide +kernel, rfl, rfl, by decide +kernel, by decide +kernel, by decide +kernel, rfl, by decide +kernel, by decide +kernel⟩

theorem witness_ServeCommandsRun_2 :
    ∃ (c : Chip) (o : Origin) (b : Body) (x : Rd) (e : Rd × Account) (c' : Chip),
      running c = true ∧
      stillToDo c o (startListOf o) 0x45 b = true ∧
      handTo c o (startListOf o) 0x45 b = c' ∧
      slStart c' o.part.val = x ∧
      slCfg x.s o.part.val Reg.SL_CFG_ENABLE ≠ 0 ∧
      1000 ≤ bw b 0x18 ∧
      bw b 0x18 ≤ 60000000 ∧
      x.account o.part.val (bf b 0x10 11 0) = e :=
  ⟨Tests.serving 1, Tests.o0, Tests.bodyAt 0x18 1000, _, _, _, by decide +kernel, by decide +kernel, rfl, rfl, by decide +kernel, by decide +kernel, by decide +kernel, rfl⟩

theorem witness_ServeCommandsRun_3 :
    ∃ (c : Chip) (o : Origin) (b : Body) (met : Ecc) (x : Rd) (k : Nat) (y : Rd) (c' : Chip),
      running c = true ∧
      stillToDo c o (startListOf o) 0x46 b = true ∧
      handTo c o (startListOf o) 0x46 b = c' ∧
      slStart c' o.part.val = x ∧
      slCfg x.s o.part.val Reg.SL_CFG_ENABLE ≠ 0 ∧
      slotNamed x.s o.part.val (bw b 0x10) = some k ∧
      bq b 0x14 % 128 = 0 ∧
      (x.slotMeets o.part.val k met).plainPut o.part.val (bq b 0x14) (imageBytes (slotImage (x.slotMeets o.part.val k met).s o.part.val k)) false = y ∧
      y.bad = none :=
  ⟨Tests.serving 1, Tests.o0, 0, .clean, _, 0, _, _, by decide +kernel, by decide +kernel, rfl, rfl, by decide +kernel, by decide +kernel, by decide +kernel, rfl, by decide +kernel⟩

theorem witness_ServeCommandsRun_4 :
    ∃ (c : Chip) (o : Origin) (blk : Fin 256) (b : Body) (st : StepRun) (r : Rd × Nat) (c' : Chip),
      running c = true ∧
      stillToDo c o (.burnisher blk) 0x47 b = true ∧
      handTo c o (.burnisher blk) 0x47 b = c' ∧
      blockFenced c' blk.val = false ∧
      (serve c' o.part.val).step = some st ∧
      o.step = true ∧
      bf b 0x18 23 0 ≠ 0 ∧
      sampleWork c' o blk b st = r ∧
      r.1.hold = none ∧
      r.1.bad = none :=
  ⟨Tests.stepping, Tests.oStep, 0, Tests.bodyAt 0x18 1, Tests.step0, _, _, by decide +kernel, by decide +kernel, rfl, by decide +kernel, by decide +kernel, by decide +kernel, by decide +kernel, rfl, by decide +kernel, by decide +kernel⟩

theorem witness_StartListEventsRun_1 :
    ∃ (c : Chip) (p : Fin 16) (x : Rd),
      running c = true ∧
      catchOpen c p.val = true ∧
      (formBatch c p.val).placed.isEmpty = false ∧
      regionAwake c (leadQuad c p.val / 4) = true ∧
      slStart c p.val = x ∧
      catchOpen x.s p.val = true ∧
      (formBatch x.s p.val).placed.isEmpty = false :=
  ⟨Tests.serving 1, 0, _, by decide +kernel, by decide +kernel, by decide +kernel, by decide +kernel, rfl, by decide +kernel, by decide +kernel⟩

theorem witness_StartListEventsRun_2 :
    ∃ (c : Chip) (p : Fin 16),
      running c = true ∧
      (stepEnded c p.val).isSome = true :=
  ⟨Tests.stepDone, 0, by decide +kernel⟩

theorem witness_StartListEventsRun_3 :
    ∃ (c : Chip) (p : Fin 16) (account : Nat) (v : Account),
      running c = true ∧
      tget (serve c p.val).accounts account = some v ∧
      v.next ≠ 0 ∧
      v.next ≤ c.now :=
  ⟨Tests.accounts, 0, 0, Tests.account0, by decide +kernel⟩

theorem witness_StartListEventsRun_4 :
    ∃ (c : Chip) (p : Fin 16) (handle : Nat),
      running c = true ∧
      (slotWhere c p.val handle (fun t => t.timer == .move && decide (t.due ≤ c.now))).isSome = true :=
  ⟨Tests.timed .move, 0, 0, by decide +kernel⟩

theorem witness_StartListEventsRun_5 :
    ∃ (c : Chip) (p : Fin 16) (handle : Nat),
      running c = true ∧
      (slotWhere c p.val handle (fun t => t.timer == .expiry && decide (t.due ≤ c.now))).isSome = true :=
  ⟨Tests.timed .expiry, 0, 0, by decide +kernel⟩

theorem witness_StartListEventsRun_6 :
    ∃ (c : Chip) (p : Fin 16) (handle : Nat) (k : Nat) (t : Slot) (o : Origin) (b : Body) (x : Rd),
      running c = true ∧
      slotWhere c p.val handle (fun t => t.editing) = some (k, t) ∧
      t.edit = some (o, b) ∧
      slStart c p.val = x ∧
      (slotNamed x.s p.val handle).isSome = true :=
  ⟨Tests.withSlot Tests.editingSlot, 0, 0, 0, Tests.editingSlot, Tests.o0, 0, _, by decide +kernel, by decide +kernel, by decide +kernel, rfl, by decide +kernel⟩

theorem witness_StartListEventsRun_7 :
    ∃ (c : Chip) (p : Fin 16) (handle : Nat) (k : Nat) (t : Slot) (x : Rd) (e : Rd × Option (Nat × Option Nat)),
      running c = true ∧
      slotWhere c p.val handle (fun t => t.moving) = some (k, t) ∧
      slStart c p.val = x ∧
      (slotNamed x.s p.val handle).isNone = false ∧
      x.editSlot p.val k (wholeEdit 4 t.listBlocks true 0) = e ∧
      e.2 = none :=
  ⟨Tests.withSlot Tests.movingSlot, 0, 0, 0, Tests.movingSlot, _, _, by decide +kernel, by decide +kernel, rfl, by decide +kernel, rfl, by decide +kernel⟩

theorem witness_StartListEventsRun_8 :
    ∃ (c : Chip) (p : Fin 16) (handle : Nat) (k : Nat) (t : Slot) (x : Rd) (e : Rd × Option (Nat × Option Nat)),
      running c = true ∧
      slotWhere c p.val handle (fun t => t.fetching) = some (k, t) ∧
      slStart c p.val = x ∧
      (slotNamed x.s p.val handle).isNone = false ∧
      x.editSlot p.val k (wholeEdit 4 t.listBlocks false 0) = e ∧
      e.2 = none :=
  ⟨Tests.withSlot Tests.fetchingSlot, 0, 0, 0, Tests.fetchingSlot, _, _, by decide +kernel, by decide +kernel, rfl, by decide +kernel, rfl, by decide +kernel⟩

theorem witness_SerrunCommandsRun_1 :
    ∃ (c : Chip) (o : Origin) (b : Body) (c' : Chip),
      running c = true ∧
      stillToDo c o (dmaOf o) 0x60 b = true ∧
      handTo c o (dmaOf o) 0x60 b = c' ∧
      srnLenBad b = false ∧
      bf b 0x24 31 30 ≤ 1 ∧
      srnBlocked c' b = none ∧
      runsWait c' o.part.val [if bf b 0x24 31 30 = 1 then [(bq b 0x10, bw b 0x20, false)] else []] = false ∧
      (placePrefix c' o { space := bf b 0x24 31 30, addr := bq b 0x10 } (bw b 0x20) false).2 = none :=
  ⟨Tests.meshed, Tests.o0, Tests.srnBody, _, by decide +kernel, by decide +kernel, rfl, by decide +kernel, by decide +kernel, by decide +kernel, by decide +kernel, by decide +kernel⟩

theorem witness_SerrunCommandsRun_2 :
    ∃ (c : Chip) (o : Origin) (b : Body) (c' : Chip),
      running c = true ∧
      stillToDo c o (dmaOf o) 0x62 b = true ∧
      handTo c o (dmaOf o) 0x62 b = c' ∧
      srnUpdateBad b = false ∧
      srnBlocked c' b = none ∧
      runsWait c' o.part.val [if bf b 0x24 31 30 = 1 then [(bq b 0x10, bw b 0x20, false)] else []] = false ∧
      (placePrefix c' o { space := bf b 0x24 31 30, addr := bq b 0x10 } (bw b 0x20) false).2 = none :=
  ⟨Tests.meshed, Tests.o0, Tests.srnBody, _, by decide +kernel, by decide +kernel, rfl, by decide +kernel, by decide +kernel, by decide +kernel, by decide +kernel⟩

theorem witness_SerrunCommandsRun_3 :
    ∃ (c : Chip) (o : Origin) (b : Body) (c' : Chip),
      running c = true ∧
      stillToDo c o (dmaOf o) 0x61 b = true ∧
      handTo c o (dmaOf o) 0x61 b = c' ∧
      srnLenBad b = false ∧
      bf b 0x24 29 28 ≤ 1 ∧
      srnBlocked c' b = none :=
  ⟨Tests.meshed, Tests.o0, Tests.srnBody, _, by decide +kernel, by decide +kernel, rfl, by decide +kernel, by decide +kernel, by decide +kernel⟩

theorem witness_SerrunCommandsRun_4 :
    ∃ (c : Chip) (o : Origin) (b : Body) (c' : Chip),
      running c = true ∧
      stillToDo c o (dmaOf o) 0x64 b = true ∧
      handTo c o (dmaOf o) 0x64 b = c' ∧
      mayFollow c' o (dmaOf o) 0x64 b = true ∧
      srnBlocked c' b = none :=
  ⟨Tests.meshed, Tests.o0, Tests.srnBody, _, by decide +kernel, by decide +kernel, rfl, by decide +kernel, by decide +kernel⟩

theorem witness_SerrunCommandsRun_5 :
    ∃ (c : Chip) (o : Origin) (b : Body) (c' : Chip),
      running c = true ∧
      stillToDo c o (dmaOf o) 0x63 b = true ∧
      handTo c o (dmaOf o) 0x63 b = c' ∧
      collInvalid c' b = false ∧
      runsWait c' o.part.val [[(bq b 0x10, bw b 0x20, true)]] = false ∧
      memRefusal c' o.part.val (bq b 0x10) (bw b 0x20) true = none ∧
      collOutside c' = false ∧
      badDigest c' = none :=
  ⟨Tests.meshed, Tests.o0, Tests.bodyAt 0x20 256, _, by decide +kernel, by decide +kernel, rfl, by decide +kernel, by decide +kernel, by decide +kernel, by decide +kernel, by decide +kernel⟩

theorem witness_SerrunCommandsRun_6 :
    ∃ (c : Chip) (o : Origin) (b : Body) (port : Nat) (c' : Chip),
      running c = true ∧
      stillToDo c o (dmaOf o) 0x63 b = true ∧
      handTo c o (dmaOf o) 0x63 b = c' ∧
      collInvalid c' b = false ∧
      runsWait c' o.part.val [[(bq b 0x10, bw b 0x20, true)]] = false ∧
      memRefusal c' o.part.val (bq b 0x10) (bw b 0x20) true = none ∧
      (collOutside c' = true ∧ port = 0 ∨ collOutside c' = false ∧ badDigest c' = some port) :=
  ⟨{ Tests.meshed with mesh := { Tests.meshed.mesh with x1 := 2 } }, Tests.o0, Tests.bodyAt 0x20 768, 0, _, by decide +kernel, by decide +kernel, rfl, by decide +kernel, by decide +kernel, by decide +kernel, by decide +kernel⟩

theorem witness_SerrunPacketsMove_1 :
    ∃ (c : Chip) (port : Fin 5) (k : Packet),
      running c = true ∧
      linkUpAt c port.val = true ∧
      isMine c k = true ∧
      isAnswer k.body = false :=
  ⟨Tests.meshed, 0, Tests.packet 0, by decide +kernel⟩

theorem witness_SerrunPacketsMove_2 :
    ∃ (c : Chip) (port : Fin 5) (k : Packet) (data : Payload),
      running c = true ∧
      linkUpAt c port.val = true ∧
      isMine c k = true ∧
      k.body = .ack data :=
  ⟨Tests.meshed, 0, { Tests.packet 0 with body := .ack noPayload }, noPayload, by decide +kernel⟩

theorem witness_SerrunPacketsMove_3 :
    ∃ (c : Chip) (port : Fin 5) (k : Packet) (reason : RefusalReason),
      running c = true ∧
      linkUpAt c port.val = true ∧
      isMine c k = true ∧
      k.body = .refusal reason :=
  ⟨Tests.meshed, 0, { Tests.packet 0 with body := .refusal .epoch }, .epoch, by decide +kernel⟩

theorem witness_SerrunPacketsMove_4 :
    ∃ (c : Chip) (port : Fin 5) (k : Packet) (q : Nat),
      running c = true ∧
      linkUpAt c port.val = true ∧
      isMine c k = false ∧
      routePort c k.dstX.val k.dstY.val = some q ∧
      linkUpAt c q = true :=
  ⟨Tests.meshed, 0, Tests.packet 1, 1, by decide +kernel⟩

theorem witness_SerrunPacketsMove_5 :
    ∃ (c : Chip) (k : Packet) (q : Nat),
      running c = true ∧
      isMine c k = false ∧
      routePort c k.dstX.val k.dstY.val = some q ∧
      linkUpAt c q = false :=
  ⟨Tests.base, Tests.packet 1, 1, by decide +kernel⟩

theorem witness_SerrunPacketsMove_6 :
    ∃ (c : Chip) (xfer : Nat) (x : Xfer),
      running c = true ∧
      xferById c xfer = some x :=
  ⟨Tests.inFlight, 0, Tests.xfer0 (.write 0x60), by decide +kernel⟩

theorem witness_SerrunPacketsMove_7 :
    ∃ (c : Chip) (xfer : Nat) (data : Payload) (x : Xfer) (o : Origin) (b : Body) (op : Nat) (t : Chip),
      running c = true ∧
      xferById c xfer = some x ∧
      (if hasCome x then c else countRx c x.port data.bytes.length) = t ∧
      ackLate t x = false ∧
      x.kind = .write op ∧
      x.who = some (o, b) :=
  ⟨Tests.soon (.write 0x60), 0, noPayload, Tests.xfer0 (.write 0x60), Tests.o0, 0, 0x60, _, by decide +kernel, by decide +kernel, rfl, by decide +kernel, by decide +kernel, by decide +kernel⟩

theorem witness_SerrunPacketsMove_8 :
    ∃ (c : Chip) (xfer : Nat) (data : Payload) (x : Xfer) (o : Origin) (b : Body) (t : Chip),
      running c = true ∧
      xferById c xfer = some x ∧
      (if hasCome x then c else countRx c x.port data.bytes.length) = t ∧
      ackLate t x = false ∧
      x.kind = .signal ∧
      x.who = some (o, b) :=
  ⟨Tests.soon (.signal), 0, noPayload, Tests.xfer0 (.signal), Tests.o0, 0, _, by decide +kernel, by decide +kernel, rfl, by decide +kernel, by decide +kernel, by decide +kernel⟩

theorem witness_SerrunPacketsMove_9 :
    ∃ (c : Chip) (xfer : Nat) (data : Payload) (x : Xfer) (o : Origin) (b : Body) (space : Nat) (dst : Nat) (come : Bool) (t : Chip),
      running c = true ∧
      xferById c xfer = some x ∧
      (if hasCome x then c else countRx c x.port data.bytes.length) = t ∧
      ackLate t x = false ∧
      x.kind = .read space dst come ∧
      x.who = some (o, b) :=
  ⟨Tests.soon (.read 0 0 false), 0, noPayload, Tests.xfer0 (.read 0 0 false), Tests.o0, 0, 0, 0, false, _, by decide +kernel, by decide +kernel, rfl, by decide +kernel, by decide +kernel, by decide +kernel⟩

theorem witness_SerrunPacketsMove_10 :
    ∃ (c : Chip) (xfer : Nat) (data : Payload) (x : Xfer) (t : Chip),
      running c = true ∧
      xferById c xfer = some x ∧
      (if hasCome x then c else countRx c x.port data.bytes.length) = t ∧
      ackLate t x = true :=
  ⟨Tests.inFlight, 0, noPayload, Tests.xfer0 (.write 0x60), _, by decide +kernel, by decide +kernel, rfl, by decide +kernel⟩

theorem witness_SerrunPacketsMove_11 :
    ∃ (c : Chip) (xfer : Nat) (x : Xfer),
      running c = true ∧
      xferById c xfer = some x ∧
      ackCounts x.kind = true ∧
      x.started + msOf (rd c (.srn 0) Reg.SRN_ACK_CFG_ACK_TIMEOUT) ≤ c.now :=
  ⟨Tests.inFlight, 0, Tests.xfer0 (.write 0x60), by decide +kernel⟩

theorem witness_SerrunPacketsMove_12 :
    ∃ (c : Chip) (xfer : Nat) (x : Xfer) (k : Coll),
      running c = true ∧
      xferById c xfer = some x ∧
      x.kind = .coll k ∧
      x.started + msOf (rd c (.srn 0) Reg.SRN_ACK_CFG_COLL_TIMEOUT) ≤ c.now :=
  ⟨Tests.collecting, 0, Tests.xfer0 (.coll Tests.coll0), Tests.coll0, by decide +kernel⟩

theorem witness_SerrunLinksMove_1 :
    ∃ (c : Chip) (port : Fin 5) (g : Fin 4),
      running c = true ∧
      2 ≤ linkState c port.val ∧
      bit (rd c (.srn port.val) Reg.SRN_LINK_STAT_GROUPS) g.val = true :=
  ⟨Tests.meshed, 0, 0, by decide +kernel⟩

theorem witness_SerrunLinksMove_2 :
    ∃ (c : Chip) (port : Fin 5),
      running c = true ∧
      2 ≤ linkState c port.val ∧
      (srnPort c port.val).retraining = true :=
  ⟨Tests.retraining, 0, by decide +kernel⟩

theorem witness_SerrunLinksMove_3 :
    ∃ (c : Chip) (port : Fin 5),
      running c = true ∧
      linkState c port.val = 1 ∧
      canTrain c port.val = true :=
  ⟨Tests.training, 0, by decide +kernel⟩

theorem witness_SerrunLinksMove_4 :
    ∃ (c : Chip) (port : Fin 5),
      running c = true ∧
      2 ≤ linkState c port.val :=
  ⟨Tests.meshed, 0, by decide +kernel⟩

theorem witness_SerrunLinksMove_5 :
    ∃ (c : Chip),
      running c = true ∧
      driverOpen c = true :=
  ⟨Tests.meshed, by decide +kernel⟩

theorem witness_SerrunLinksMove_6 :
    ∃ (c : Chip),
      hubOn c = true ∧
      c.sec.booted = true :=
  ⟨Tests.meshed, by decide +kernel⟩

theorem witness_TwinCommandsRun_1 :
    ∃ (c : Chip) (p : Fin 16) (value : Word),
      running c = true ∧
      driverOpen c = true ∧
      tagTaken c p.val (value.toNat % 2 ^ 16) = false :=
  ⟨Tests.linked, 0, 0, by decide +kernel⟩

theorem witness_TwinCommandsRun_2 :
    ∃ (c : Chip) (p : Fin 16) (e : Rd × Option KvCtx) (k : KvCtx),
      running c = true ∧
      kmem c.mesh.promoted p.val = true ∧
      kvBusy c p.val = false ∧
      (startRd c).ctx p.val (allocRegion c p.val) none = e ∧
      e.2 = some k ∧
      (kvPart c p.val).lost = false :=
  ⟨Tests.promotedChip, 0, _, Tests.kvCtx0, by decide +kernel, by decide +kernel, by decide +kernel, rfl, by decide +kernel, by decide +kernel⟩

theorem witness_TwinCommandsRun_3 :
    ∃ (c : Chip),
      running c = true ∧
      linkUpAt c 4 = true :=
  ⟨Tests.meshed, by decide +kernel⟩

theorem witness_TwinCommandsRun_4 :
    ∃ (c : Chip) (epoch : BitVec 16),
      running c = true ∧
      linkUpAt c 4 = true ∧
      (epochRefusal c 4 epoch.toNat).isNone = true :=
  ⟨Tests.meshed, 0, by decide +kernel⟩

theorem witness_TwinCommandsRun_5 :
    ∃ (c : Chip),
      linkUpAt c 4 = true :=
  ⟨Tests.meshed, by decide +kernel⟩

theorem witness_TwinCommandsRun_6 :
    ∃ (c : Chip) (via : Endpoint),
      endpointOpen c via = true ∧
      hubOn c = true ∧
      firmwareOn c = true :=
  ⟨Tests.meshed, .sideband, by decide +kernel⟩

theorem witness_QueuesFetchAndDispatch_1 :
    ∃ (c : Chip) (p : Fin 16) (n : Fin 64) (host : HostReply) (t : Chip) (k : Command),
      running c = true ∧
      queueState c p.val n.val = 1 ∧
      rd c (.sq p.val n.val) Reg.SQ_PI_PI ≠ rd c (.sq p.val n.val) Reg.SQ_CI_CI ∧
      regionAwake c (rd c (.sq p.val n.val) Reg.SQ_CFG_QUAD / 4) = true ∧
      fetchBytes c p.val n.val host = (t, some (some k)) :=
  ⟨Tests.queued, 0, 0, .data [], Tests.queued, 0, by decide +kernel⟩

theorem witness_QueuesFetchAndDispatch_2 :
    ∃ (c : Chip) (e : Engine) (t : Chip) (x : Chip × Option (Job × Cmd)) (k : Job × Cmd),
      running c = true ∧
      dispatchState c e = t ∧
      engineBusy t e = false ∧
      (readyJobs t e).isEmpty = false ∧
      engineOpen t e = true ∧
      dispatchPick t e (readyJobs t e) = x ∧
      x.2 = some k :=
  ⟨Tests.dispatchable, .sync 0, _, _, Tests.dispatchPair, by decide +kernel, rfl, by decide +kernel, by decide +kernel, by decide +kernel, rfl, by decide +kernel⟩

theorem witness_QueuesFetchAndDispatch_3 :
    ∃ (c : Chip) (o : Origin) (index : Nat) (j : Job),
      running c = true ∧
      retiringJob c o index = some j :=
  ⟨Tests.withJob Tests.doneCmd, Tests.o0, 0, Tests.jobOf Tests.doneCmd, by decide +kernel⟩

theorem witness_PreemptionRuns_1 :
    ∃ (c : Chip) (q : Fin 16) (w : Switch) (k : List Nat) (e : Chip × Switch),
      running c = true ∧
      tget c.switches q.val = some w ∧
      rd c (.qf q.val) Reg.QF_PREEMPT_STAT_STATE = 1 ∧
      victimsAt c w = k ∧
      k.foldl (readTack q.val) (c, w) = e ∧
      k.length = w.victims.length :=
  ⟨Tests.switchingAt, 0, Tests.switch0, _, _, by decide +kernel, by decide +kernel, by decide +kernel, rfl, rfl, by decide +kernel⟩

theorem witness_PreemptionRuns_2 :
    ∃ (c : Chip) (q : Fin 16) (w : Switch) (k : List Nat) (e : Chip × Switch),
      running c = true ∧
      tget c.switches q.val = some w ∧
      rd c (.qf q.val) Reg.QF_PREEMPT_STAT_STATE = 1 ∧
      victimsAt c w = k ∧
      k.foldl (readTack q.val) (c, w) = e ∧
      k.length < w.victims.length :=
  ⟨Tests.switching 1, 0, Tests.switch0, _, _, by decide +kernel, by decide +kernel, by decide +kernel, rfl, rfl, by decide +kernel⟩

theorem witness_PreemptionRuns_3 :
    ∃ (c : Chip) (q : Fin 16) (w : Switch) (v : Switch) (p : Nat) (d : Chip × List (Byte × Bool)) (x : SpillPlan),
      running c = true ∧
      tget c.switches q.val = some w ∧
      rd c (.qf q.val) Reg.QF_PREEMPT_STAT_STATE = 2 ∧
      (quadOwner c q.val).getD 0 = p ∧
      spillSets c w = v ∧
      spillData c q.val v = d ∧
      planSlots (q.val / 4) c p v.base (spillHeader c q.val v) d.2 = x ∧
      runsWait c p x.runs = false ∧
      firstRefusal c p x.runs = none :=
  ⟨Tests.switching 2, 0, Tests.switch0, _, _, _, _, by decide +kernel, by decide +kernel, by decide +kernel, rfl, rfl, rfl, rfl, by decide +kernel, by decide +kernel⟩

theorem witness_PreemptionRuns_4 :
    ∃ (c : Chip) (q : Fin 16) (w : Switch),
      running c = true ∧
      tget c.switches q.val = some w ∧
      rd c (.qf q.val) Reg.QF_PREEMPT_STAT_STATE = 3 ∧
      c.q.jobs.any (fun j => j.urgent && j.quad == q.val) = false :=
  ⟨Tests.switching 3, 0, Tests.switch0, by decide +kernel⟩

theorem witness_PreemptionRuns_5 :
    ∃ (c : Chip) (q : Fin 16) (w : Switch),
      running c = true ∧
      tget c.switches q.val = some w ∧
      rd c (.qf q.val) Reg.QF_PREEMPT_STAT_STATE = 4 ∧
      (slotCtx c (q.val / 4) ((quadOwner c q.val).getD 0)).isNone = true ∧
      runsWait c ((quadOwner c q.val).getD 0) ((restoreRuns c w).map (fun e => e.2)) = false :=
  ⟨Tests.switching 4, 0, Tests.switch0, by decide +kernel⟩

theorem witness_PreemptionRuns_6 :
    ∃ (c : Chip) (q : Fin 16) (w : Switch) (p : Nat) (k : SlotCtx) (tag : Nat → Nat) (runs : List (Nat × List (Nat × Nat × Bool))) (e : Chip × Option Memory),
      running c = true ∧
      tget c.switches q.val = some w ∧
      rd c (.qf q.val) Reg.QF_PREEMPT_STAT_STATE = 4 ∧
      (quadOwner c q.val).getD 0 = p ∧
      slotCtx c (q.val / 4) p = some k ∧
      spillTag c p k = tag ∧
      recordRuns c tag w = runs ∧
      runsWait c p (runs.map (fun e => e.2)) = false ∧
      readUnits (q.val / 4) p tag w c = e :=
  ⟨{ Tests.switching 4 with slots := [(0, Tests.slotCtx0)] }, 0, Tests.switch0, _, Tests.slotCtx0, _, _, _, by decide +kernel, by decide +kernel, by decide +kernel, rfl, by decide +kernel, rfl, rfl, by decide +kernel, rfl⟩

theorem witness_BankEventsRun_1 :
    ∃ (c : Chip) (bank : Fin 256) (waiting : List BankAccess) (a : BankAccess),
      running c = true ∧
      bankFenced c bank.val = false ∧
      chooseAccess (fun k => tgetD c.bankTurn (bank.val * 8 + k) 0) waiting = some a :=
  ⟨Tests.base, 0, [Tests.access0], Tests.access0, by decide +kernel⟩

theorem witness_BankEventsRun_2 :
    ∃ (c : Chip) (bank : Fin 256),
      running c = true ∧
      rd c (.spb bank.val) Reg.SPB_CFG_SCRUB_EN ≠ 0 ∧
      bankFenced c bank.val = false ∧
      rd c (.spb bank.val) Reg.SPB_STAT_POWER = 0 :=
  ⟨wr (wr Tests.base (.spb 0) Reg.SPB_CFG_SCRUB_EN 1) (.spb 0) Reg.SPB_STAT_POWER 0, 0, by decide +kernel⟩

theorem witness_BankEventsRun_3 :
    ∃ (c : Chip) (bank : Fin 256),
      running c = true ∧
      driverOpen c = true ∧
      bankFenced c bank.val = false ∧
      rd c (.spb bank.val) Reg.SPB_ZF_STAT_BUSY ≠ 1 ∧
      rd c (.spb bank.val) Reg.SPB_ZF_RANGE_FIRST ≤ rd c (.spb bank.val) Reg.SPB_ZF_RANGE_LAST :=
  ⟨Tests.linked, 0, by decide +kernel⟩

theorem witness_BankEventsRun_4 :
    ∃ (c : Chip) (bank : Fin 256),
      running c = true ∧
      driverOpen c = true ∧
      bankFenced c bank.val = false ∧
      rd c (.spb bank.val) Reg.SPB_ZF_STAT_BUSY ≠ 1 ∧
      rd c (.spb bank.val) Reg.SPB_ZF_RANGE_LAST < rd c (.spb bank.val) Reg.SPB_ZF_RANGE_FIRST :=
  ⟨wr (wr Tests.linked (.spb 0) Reg.SPB_ZF_RANGE_FIRST 2) (.spb 0) Reg.SPB_ZF_RANGE_LAST 1, 0, by decide +kernel⟩

theorem witness_QueuePageWritesRun_1 :
    ∃ (c : Chip) (via : Via) (p : Fin 16) (n : Fin 64) (v : Word),
      running c = true ∧
      viaOpen c via = true ∧
      reaches c via p.val = true ∧
      partState c p.val ≠ 4 ∧
      queueState c p.val n.val ≠ 0 ∧
      queueState c p.val n.val ≠ 4 ∧
      v.toNat ≠ rd c (.sq p.val n.val) Reg.SQ_PI_PI ∧
      (v.toNat + 2 ^ 32 - rd c (.sq p.val n.val) Reg.SQ_PI_PI) % 2 ^ 32 < 2 ^ 31 ∧
      (v.toNat + 2 ^ 32 - rd c (.sq p.val n.val) Reg.SQ_CI_CI) % 2 ^ 32 ≤ 2 ^ rd c (.sq p.val n.val) Reg.SQ_CFG_SIZE_LOG2 :=
  ⟨Tests.active, .pf 0, 0, 0, 1, by decide +kernel⟩

theorem witness_QueuePageWritesRun_2 :
    ∃ (c : Chip) (via : Via) (p : Fin 16),
      running c = true ∧
      viaOpen c via = true ∧
      reaches c via p.val = true ∧
      partState c p.val ≠ 4 ∧
      partState c p.val ≠ 5 :=
  ⟨Tests.ready, .pf 0, 0, by decide +kernel⟩

theorem witness_QueuePageWritesRun_3 :
    ∃ (c : Chip) (via : Via) (p : Fin 16) (n : Fin 64),
      running c = true ∧
      viaOpen c via = true ∧
      reaches c via p.val = true ∧
      partState c p.val ≠ 4 ∧
      queueState c p.val n.val = 3 :=
  ⟨wr Tests.ready (.sq 0 0) Reg.SQ_STAT_STATE 3, .pf 0, 0, 0, by decide +kernel⟩

theorem witness_QueuePageWritesRun_4 :
    ∃ (c : Chip) (via : Via) (p : Fin 16),
      running c = true ∧
      viaOpen c via = true ∧
      reaches c via p.val = true ∧
      partState c p.val ≠ 4 :=
  ⟨Tests.ready, .pf 0, 0, by decide +kernel⟩

theorem witness_QueuePageWritesRun_5 :
    ∃ (c : Chip) (via : Via) (p : Fin 16) (n : Fin 64) (v : Word),
      running c = true ∧
      viaOpen c via = true ∧
      reaches c via p.val = true ∧
      partState c p.val ≠ 4 ∧
      (v.toNat + 2 ^ 32 - rd c (.sq p.val n.val) Reg.SQ_CQ_HEAD_HEAD) % 2 ^ 32 ≤ cqUnread c p.val n.val :=
  ⟨Tests.ready, .pf 0, 0, 0, 0, by decide +kernel⟩

theorem witness_QueuePageWritesRun_6 :
    ∃ (c : Chip) (via : Via) (p : Fin 16) (v : Word),
      running c = true ∧
      viaOpen c via = true ∧
      reaches c via p.val = true ∧
      partState c p.val ≠ 4 ∧
      semOwned c p.val (bits v.toNat 31 16) = true ∧
      semVal c (bits v.toNat 31 16) + bits v.toNat 15 0 ≤ semTop :=
  ⟨Tests.ready, .pf 0, 0, 1, by decide +kernel⟩

theorem witness_QueuePageWritesRun_7 :
    ∃ (c : Chip) (via : Via) (p : Fin 16) (v : Word),
      running c = true ∧
      viaOpen c via = true ∧
      reaches c via p.val = true ∧
      partState c p.val ≠ 4 ∧
      (semOwned c p.val (bits v.toNat 31 16) = false ∨ semTop < semVal c (bits v.toNat 31 16) + bits v.toNat 15 0) :=
  ⟨Tests.ready, .pf 0, 0, 0xFFFF0001, by decide +kernel⟩

theorem witness_WalkerPageWritesRun_1 :
    ∃ (c : Chip) (region : Fin 4) (index : Nat) (p : Nat) (e : Rd × Option KvCtx) (k : Rd × Option KvLayout),
      running c = true ∧
      driverOpen c = true ∧
      walkerPart c region.val = p ∧
      (quadsOf c p).isEmpty = false ∧
      allocRegion c p = region.val ∧
      (startRd c).ctx p region.val none = e ∧
      modelRead p (index % 16) e = k ∧
      k.1.hold = none :=
  ⟨Tests.kvChip, 0, 0, _, _, _, by decide +kernel, by decide +kernel, rfl, by decide +kernel, by decide +kernel, rfl, rfl, by decide +kernel⟩

theorem witness_WalkerPageWritesRun_2 :
    ∃ (c : Chip) (region : Fin 4) (p : Nat),
      running c = true ∧
      driverOpen c = true ∧
      rd c (.pw region.val) Reg.PW_PART_SEL_PARTITION = p ∧
      (quadsOf c p).isEmpty = false ∧
      allocRegion c p = region.val ∧
      kvBusy c p = false ∧
      editing c p = false :=
  ⟨Tests.kvChip, 0, _, by decide +kernel, by decide +kernel, rfl, by decide +kernel, by decide +kernel, by decide +kernel, by decide +kernel⟩

theorem witness_WalkerPageWritesRun_3 :
    ∃ (c : Chip) (region : Fin 4) (p : Fin 16) (e : SlotCtxRead),
      running c = true ∧
      driverOpen c = true ∧
      slotCtxRead c region.val p.val = e ∧
      e.x.hold = none :=
  ⟨Tests.kvChip, 0, 0, _, by decide +kernel, by decide +kernel, rfl, by decide +kernel⟩

theorem witness_MemoryPageWritesRun_1 :
    ∃ (c : Chip) (stack : Fin 16) (p : Fin 16) (v : Word),
      running c = true ∧
      driverOpen c = true ∧
      rangeReason c stack.val p.val v.toNat = 0 :=
  ⟨Tests.linked, 0, 0, 0, by decide +kernel⟩

theorem witness_MemoryPageWritesRun_2 :
    ∃ (c : Chip) (stack : Fin 16) (p : Fin 16) (v : Word),
      running c = true ∧
      driverOpen c = true ∧
      rangeReason c stack.val p.val v.toNat ≠ 0 :=
  ⟨Tests.linked, 0, 0, 0x87FF0000, by decide +kernel⟩

theorem witness_MemoryPageWritesRun_3 :
    ∃ (c : Chip) (v : Word) (n : Nat) (e : Slice),
      running c = true ∧
      driverOpen c = true ∧
      rd c (.tb 0) Reg.TB_SLICE_SEL_SLICE = n ∧
      sliceEntry c n = e ∧
      sliceReason e v.toNat = 0 :=
  ⟨Tests.linked, 0, 0, sliceEntry Tests.base 0, by decide +kernel⟩

theorem witness_MemoryPageWritesRun_4 :
    ∃ (c : Chip) (v : Word) (n : Nat) (e : Slice),
      running c = true ∧
      driverOpen c = true ∧
      rd c (.tb 0) Reg.TB_SLICE_SEL_SLICE = n ∧
      sliceEntry c n = e ∧
      sliceReason e v.toNat ≠ 0 :=
  ⟨Tests.linked, 0xA0000000, 0, sliceEntry Tests.base 0, by decide +kernel⟩

theorem witness_MemoryPageWritesRun_5 :
    ∃ (c : Chip) (unit : Fin 17) (p : Fin 16) (v : Word) (t : Chip),
      running c = true ∧
      driverOpen c = true ∧
      (if unit.val < 16 then
      wrAll c (.hbm unit.val) [(Reg.HBM_GIRTH_CFG_RATE p.val, bits v.toNat 31 16), (Reg.HBM_GIRTH_CFG_BURST p.val, bits v.toNat 15 0)]
    else wrAll c (.tb 0) [(Reg.TB_GIRTH_CFG_RATE p.val, bits v.toNat 31 16), (Reg.TB_GIRTH_CFG_BURST p.val, bits v.toNat 15 0)]) = t :=
  ⟨Tests.linked, 0, 0, 0, _, by decide +kernel, by decide +kernel, rfl⟩

theorem witness_MemoryPageWritesRun_6 :
    ∃ (c : Chip),
      running c = true :=
  ⟨Tests.base, by decide +kernel⟩

theorem witness_MemoryEventsRun_1 :
    ∃ (c : Chip) (stack : Fin 16),
      running c = true ∧
      driverOpen c = true ∧
      rd c (.hbm stack.val) Reg.HBM_STAT_RETIRE_STATE = 1 :=
  ⟨wr Tests.linked (.hbm 0) Reg.HBM_STAT_RETIRE_STATE 1, 0, by decide +kernel⟩

theorem witness_MemoryEventsRun_2 :
    ∃ (c : Chip) (stack : Fin 16),
      running c = true ∧
      rd c (.hbm stack.val) Reg.HBM_STAT_RETIRE_STATE = 1 ∧
      kmem c.retire stack.val = true :=
  ⟨{ wr Tests.base (.hbm 0) Reg.HBM_STAT_RETIRE_STATE 1 with retire := [0] }, 0, by decide +kernel⟩

theorem witness_MemoryEventsRun_3 :
    ∃ (c : Chip) (stack : Fin 16) (n : Nat) (m : Nat),
      running c = true ∧
      rd c (.hbm stack.val) Reg.HBM_STAT_RETIRE_STATE = 2 ∧
      min (rd c (.hbm stack.val) Reg.HBM_RETIRE_PROGRESS_COPIED + n) retireGranules = m ∧
      m ≠ retireGranules :=
  ⟨wr Tests.base (.hbm 0) Reg.HBM_STAT_RETIRE_STATE 2, 0, 1, _, by decide +kernel, by decide +kernel, rfl, by decide +kernel⟩

theorem witness_MemoryEventsRun_4 :
    ∃ (c : Chip) (stack : Fin 16) (n : Nat),
      running c = true ∧
      rd c (.hbm stack.val) Reg.HBM_STAT_RETIRE_STATE = 2 ∧
      min (rd c (.hbm stack.val) Reg.HBM_RETIRE_PROGRESS_COPIED + n) retireGranules = retireGranules :=
  ⟨wr Tests.base (.hbm 0) Reg.HBM_STAT_RETIRE_STATE 2, 0, retireGranules, by decide +kernel⟩

theorem witness_MemoryEventsRun_5 :
    ∃ (c : Chip) (unit : Fin 17),
      running c = true ∧
      patrolOn c unit.val = true :=
  ⟨wr Tests.ready (.hbm 0) Reg.HBM_CFG_PATROL_EN 1, 0, by decide +kernel⟩

theorem witness_MemoryEventsRun_6 :
    ∃ (c : Chip),
      running c = true ∧
      rd c (.tb 0) Reg.TB_CFG_SR_IDLE ≠ 0 ∧
      c.power.tierB = true ∧
      c.hosts.scrubs.all (fun x => x.slices.isEmpty) = true ∧
      rd c (.tb 0) Reg.TB_STAT_POWER = 0 ∧
      c.power.lastTierB + rd c (.tb 0) Reg.TB_CFG_SR_IDLE * 1000 ≤ c.now :=
  ⟨{ wr (wr Tests.ready (.tb 0) Reg.TB_CFG_SR_IDLE 1) (.tb 0) Reg.TB_STAT_POWER 0 with now := 1000000 }, by decide +kernel⟩

theorem witness_MemoryEventsRun_7 :
    ∃ (c : Chip),
      running c = true ∧
      c.power.trained = true ∧
      c.power.tierA = false :=
  ⟨{ Tests.ready with power := { Tests.ready.power with tierA := false } }, by decide +kernel⟩

theorem witness_MemoryEventsRun_8 :
    ∃ (c : Chip),
      running c = true ∧
      c.power.trained = true ∧
      c.power.tierB = false :=
  ⟨{ Tests.ready with power := { Tests.ready.power with tierB := false } }, by decide +kernel⟩

theorem witness_MemoryEventsRun_9 :
    ∃ (c : Chip) (p : Fin 16) (step : ScrubStep) (x : Scrub) (e : Chip × Scrub),
      running c = true ∧
      c.hosts.scrubs.find? (fun x => x.part == p.val) = some x ∧
      scrubStep c x step = e ∧
      (e.2.perStack.isEmpty && e.2.slices.isEmpty) = true :=
  ⟨{ Tests.base with hosts := { Tests.base.hosts with scrubs := [Tests.scrub0] } }, 0, .rest, Tests.scrub0, _, by decide +kernel, by decide +kernel, rfl, by decide +kernel⟩

theorem witness_MemoryEventsRun_10 :
    ∃ (c : Chip) (p : Fin 16) (step : ScrubStep) (x : Scrub) (e : Chip × Scrub),
      running c = true ∧
      c.hosts.scrubs.find? (fun x => x.part == p.val) = some x ∧
      scrubStep c x step = e ∧
      (e.2.perStack.isEmpty && e.2.slices.isEmpty) = false :=
  ⟨{ Tests.base with hosts := { Tests.base.hosts with scrubs := [Tests.scrub1] } }, 0, .slice, Tests.scrub1, _, by decide +kernel, by decide +kernel, rfl, by decide +kernel⟩

theorem witness_PartitionCommandsRun_1 :
    ∃ (c : Chip) (p : Fin 16),
      running c = true ∧
      driverOpen c = true ∧
      partState c p.val = 0 ∧
      createCode c p.val = 0 :=
  ⟨Tests.creatable, 0, by decide +kernel⟩

theorem witness_PartitionCommandsRun_2 :
    ∃ (c : Chip) (p : Fin 16) (k : List Nat),
      running c = true ∧
      partState c p.val = 1 ∧
      namedQuads c p.val = k ∧
      c.fills.any (fun f => k.contains (f.bank / 16)) = false :=
  ⟨wr Tests.base (.part 0) Reg.HUB_PART_STATE_STATE 1, 0, namedQuads Tests.base 0, by decide +kernel⟩

theorem witness_PartitionCommandsRun_3 :
    ∃ (c : Chip) (via : Via) (p : Fin 16),
      running c = true ∧
      viaOpen c via = true ∧
      reaches c via p.val = true ∧
      (isMgmt c via = true ∨ rd c (.part p.val) Reg.HUB_PART_CFG_TENANT_RESET ≠ 0) ∧
      partState c p.val = 2 :=
  ⟨Tests.ready, .pf 0, 0, by decide +kernel⟩

theorem witness_PartitionCommandsRun_4 :
    ∃ (c : Chip) (p : Fin 16),
      running c = true ∧
      driverOpen c = true ∧
      holdOver c p.val = false ∧
      (partState c p.val = 2 ∨ partState c p.val = 3) :=
  ⟨Tests.ready, 0, by decide +kernel⟩

theorem witness_PartitionCommandsRun_5 :
    ∃ (c : Chip) (p : Fin 16),
      running c = true ∧
      driverOpen c = true ∧
      holdOver c p.val = false ∧
      partState c p.val = 4 :=
  ⟨wr Tests.ready (.part 0) Reg.HUB_PART_STATE_STATE 4, 0, by decide +kernel⟩

theorem witness_PartitionCommandsRun_6 :
    ∃ (c : Chip) (via : Via) (p : Fin 16),
      running c = true ∧
      viaOpen c via = true ∧
      reaches c via p.val = true ∧
      holdOver c p.val = false ∧
      partState c p.val = 3 :=
  ⟨wr Tests.ready (.part 0) Reg.HUB_PART_STATE_STATE 3, .pf 0, 0, by decide +kernel⟩

theorem witness_PartitionCommandsRun_7 :
    ∃ (c : Chip) (p : Fin 16),
      running c = true ∧
      driverOpen c = true ∧
      holdOver c p.val = false ∧
      partState c p.val = 3 :=
  ⟨wr Tests.ready (.part 0) Reg.HUB_PART_STATE_STATE 3, 0, by decide +kernel⟩

theorem witness_PartitionCommandsRun_8 :
    ∃ (c : Chip) (p : Fin 16),
      running c = true ∧
      holdOver c p.val = true :=
  ⟨Tests.heldOver, 0, by decide +kernel⟩

theorem witness_HostLinkEventsRun_1 :
    ∃ (c : Chip) (port : Fin 2) (fn : Fin 17),
      hubOn c = true ∧
      c.sec.booted = true ∧
      funcPresent c port.val fn.val = true ∧
      dlUp c port.val = true :=
  ⟨Tests.booted, 0, 0, by decide +kernel⟩

theorem witness_HostLinkEventsRun_2 :
    ∃ (c : Chip),
      hubOn c = true ∧
      c.sec.booted = true :=
  ⟨Tests.booted, by decide +kernel⟩

theorem witness_HostLinkEventsRun_3 :
    ∃ (c : Chip) (port : Fin 2) (n : Fin 17),
      hubOn c = true ∧
      c.sec.booted = true ∧
      n.val < rd c (.pci port.val) Reg.PCI_LINK_STAT_NUM_VFS :=
  ⟨wr Tests.booted (.pci 0) Reg.PCI_LINK_STAT_NUM_VFS 4, 0, 0, by decide +kernel⟩

theorem witness_HostLinkEventsRun_4 :
    ∃ (c : Chip) (port : Fin 2),
      hubOn c = true ∧
      dlUp c port.val = true :=
  ⟨Tests.booted, 0, by decide +kernel⟩

theorem witness_HostLinkEventsRun_5 :
    ∃ (c : Chip) (port : Fin 2) (t : Chip),
      hubOn c = true ∧
      perst c port.val = false ∧
      setPerst c port.val true none = t :=
  ⟨{ Tests.booted with hosts := { Tests.booted.hosts with perst0 := false } }, 0, _, by decide +kernel, by decide +kernel, rfl⟩

theorem witness_HostLinkEventsRun_6 :
    ∃ (c : Chip) (port : Fin 2) (clock : Bool) (t : Chip),
      perst c port.val = true ∧
      powerState c ≠ 0 ∧
      powerState c ≠ 1 ∧
      rd c .pm Reg.PM_STAT_ENTERING ≠ 1 ∧
      kmem c.hosts.warm port.val = true ∧
      setPerst c port.val false (some clock) = t :=
  ⟨{ Tests.base with hosts := { Tests.base.hosts with perst0 := true, warm := [0] } }, 0, false, _, by decide +kernel, by decide +kernel, by decide +kernel, by decide +kernel, by decide +kernel, rfl⟩

theorem witness_HostLinkEventsRun_7 :
    ∃ (c : Chip) (port : Fin 2),
      hubOn c = true ∧
      dlUp c port.val = true :=
  ⟨Tests.booted, 0, by decide +kernel⟩

theorem witness_HostLinkEventsRun_8 :
    ∃ (c : Chip) (port : Fin 2) (speed : Fin 8) (width : Fin 16) (flit : Bool),
      linkMayRise c port.val speed.val width.val flit = true :=
  ⟨{ Tests.base with hosts := { Tests.base.hosts with perst0 := false } }, 0, 5, 8, true, by decide +kernel⟩

theorem witness_HostLinkEventsRun_9 :
    ∃ (c : Chip) (o : Origin) (k : Cmd) (b : Body) (t : Chip),
      running c = true ∧
      (c.q.jobs.filter (fromOrigin o)).findSome? hostCommand = some k ∧
      hdrOpcode k.raw = 0x06 ∧
      bodyOf k.raw = b ∧
      copyInvalid b = false ∧
      handTo c o (dmaOf o) 0x06 b = t ∧
      runsWait t o.part.val (copyRuns b) = false ∧
      copyHost b = true :=
  ⟨{ Tests.linked with q := { Tests.linked.q with jobs := [Tests.jobOf Tests.copyCmd] } }, Tests.o0, Tests.copyCmd, bodyOf Tests.copyCmd.raw, _, by decide +kernel, by decide +kernel, by decide +kernel, by decide +kernel, by decide +kernel, rfl, by decide +kernel, by decide +kernel⟩

theorem witness_HostRequestsAnswered_1 :
    ∃ (c : Chip) (port : Fin 2) (fn : Fin 17),
      hubOn c = true ∧
      dlUp c port.val = true ∧
      c.sec.booted = true ∧
      funcPresent c port.val fn.val = true ∧
      (func c port.val fn.val).resetting = false :=
  ⟨Tests.booted, 0, 0, by decide +kernel⟩

theorem witness_HostRequestsAnswered_2 :
    ∃ (c : Chip) (port : Fin 2),
      hubOn c = true ∧
      dlUp c port.val = true ∧
      c.sec.booted = false :=
  ⟨{ Tests.linked with sec := { Tests.linked.sec with booted := false } }, 0, by decide +kernel⟩

theorem witness_HostRequestsAnswered_3 :
    ∃ (c : Chip) (port : Fin 2) (fn : Fin 17) (offset : Nat) (len : Nat) (p : Nat),
      barOpen c port.val fn.val = true ∧
      len ≠ 0 ∧
      readyPart c port.val fn.val = some p ∧
      girthAdmit c p (bar2Addr c port.val fn.val p offset) len false = .go :=
  ⟨Tests.bar, 0, 0, 0, 4, 0, by decide +kernel⟩

theorem witness_HostRequestsAnswered_4 :
    ∃ (c : Chip) (port : Fin 2) (fn : Fin 17) (offset : Nat) (bytes : List Byte) (p : Nat),
      barOpen c port.val fn.val = true ∧
      bytes.isEmpty = false ∧
      readyPart c port.val fn.val = some p ∧
      girthAdmit c p (bar2Addr c port.val fn.val p offset) bytes.length true = .go :=
  ⟨Tests.bar, 0, 0, 0, [1], 0, by decide +kernel⟩

theorem witness_HostRequestsAnswered_5 :
    ∃ (c : Chip) (port : Fin 2) (fn : Fin 17) (offset : Nat) (len : Nat) (p : Nat) (code : Nat),
      barOpen c port.val fn.val = true ∧
      len ≠ 0 ∧
      readyPart c port.val fn.val = some p ∧
      girthAdmit c p (bar2Addr c port.val fn.val p offset) len false = .refuse code :=
  ⟨Tests.walled, 0, 0, 0, 4, 0, 0x78, by decide +kernel⟩

theorem witness_HostRequestsAnswered_6 :
    ∃ (c : Chip) (port : Fin 2) (fn : Fin 17) (len : Nat),
      barOpen c port.val fn.val = true ∧
      len ≠ 0 ∧
      readyPart c port.val fn.val = none :=
  ⟨Tests.unbound, 0, 0, 4, by decide +kernel⟩

theorem witness_HostRequestsAnswered_7 :
    ∃ (c : Chip) (port : Fin 2) (fn : Fin 17) (offset : Nat) (bytes : List Byte) (p : Nat) (code : Nat),
      barOpen c port.val fn.val = true ∧
      bytes.isEmpty = false ∧
      readyPart c port.val fn.val = some p ∧
      girthAdmit c p (bar2Addr c port.val fn.val p offset) bytes.length true = .refuse code :=
  ⟨Tests.walled, 0, 0, 0, [1], 0, 0x78, by decide +kernel⟩

theorem witness_HostRequestsAnswered_8 :
    ∃ (c : Chip) (port : Fin 2) (fn : Fin 17) (bytes : List Byte),
      barOpen c port.val fn.val = true ∧
      bytes.isEmpty = false ∧
      readyPart c port.val fn.val = none :=
  ⟨Tests.unbound, 0, 0, [1], by decide +kernel⟩

theorem witness_HostRequestsAnswered_9 :
    ∃ (c : Chip) (port : Fin 2) (fn : Fin 17) (offset : Nat) (len : Nat),
      windowThere c port.val fn.val offset len = true ∧
      inFatal c = false ∧
      windowSleeps c port.val fn.val offset len = false :=
  ⟨Tests.bar, 0, 0, 0, 4, by decide +kernel⟩

theorem witness_HostRequestsAnswered_10 :
    ∃ (c : Chip) (port : Fin 2) (fn : Fin 17) (offset : Nat) (bytes : List Byte),
      windowThere c port.val fn.val offset bytes.length = true ∧
      inFatal c = false ∧
      windowSleeps c port.val fn.val offset bytes.length = false :=
  ⟨Tests.bar, 0, 0, 0, [1], by decide +kernel⟩

theorem witness_HostRequestsAnswered_11 :
    ∃ (c : Chip) (port : Fin 2) (fn : Fin 17),
      hubOn c = true ∧
      dlUp c port.val = true ∧
      kmem c.sec.ideInsecure (funcNo port.val fn.val) = false :=
  ⟨Tests.booted, 0, 0, by decide +kernel⟩

theorem witness_SecurityCommandsRun_1 :
    ∃ (c : Chip) (port : Fin 2) (fn : Fin 17),
      firmwareOn c = true ∧
      kmem c.sec.ideSecure (funcNo port.val fn.val) = true :=
  ⟨{ Tests.booted with sec := { Tests.booted.sec with ideSecure := [0] } }, 0, 0, by decide +kernel⟩

theorem witness_SecurityCommandsRun_2 :
    ∃ (c : Chip) (port : Fin 2) (fn : Fin 17) (session : Nat),
      firmwareOn c = true ∧
      funcPresent c port.val fn.val = true ∧
      ownSession c port.val fn.val session = true :=
  ⟨Tests.inSessions, 0, 0, 0, by decide +kernel⟩

theorem witness_SecurityCommandsRun_3 :
    ∃ (c : Chip) (r : Responder),
      powerState c ≠ 1 ∧
      responderOn c r = true :=
  ⟨Tests.booted, .doe (.pf 0), by decide +kernel⟩

theorem witness_SecurityCommandsRun_4 :
    ∃ (c : Chip) (r : Responder),
      powerState c ≠ 1 ∧
      responderOn c r = true :=
  ⟨Tests.booted, .doe (.pf 0), by decide +kernel⟩

theorem witness_SecurityCommandsRun_5 :
    ∃ (c : Chip) (r : Responder),
      powerState c ≠ 1 ∧
      responderOn c r = true :=
  ⟨Tests.booted, .doe (.pf 0), by decide +kernel⟩

theorem witness_SecurityCommandsRun_6 :
    ∃ (c : Chip) (r : Responder) (n : Nat) (b : List Byte),
      powerState c ≠ 1 ∧
      responderOn c r = true ∧
      measurement c r n = some b :=
  ⟨Tests.booted, .doe (.pf 0), 1, (measurement Tests.booted (.doe (.pf 0)) 1).getD [], by decide +kernel⟩

theorem witness_SecurityCommandsRun_7 :
    ∃ (c : Chip) (r : Responder),
      powerState c ≠ 1 ∧
      responderOn c r = true :=
  ⟨Tests.booted, .doe (.pf 0), by decide +kernel⟩

theorem witness_SecurityCommandsRun_8 :
    ∃ (c : Chip) (r : Responder) (id : Nat) (x : Session),
      powerState c ≠ 1 ∧
      responderOn c r = true ∧
      sessionOf c r id = some x :=
  ⟨Tests.inSessions, .doe (.pf 0), 0, Tests.session0, by decide +kernel⟩

theorem witness_SecurityCommandsRun_9 :
    ∃ (c : Chip) (r : Responder) (id : Nat) (x : Session),
      powerState c ≠ 1 ∧
      responderOn c r = true ∧
      sessionOf c r id = some x ∧
      x.secured = true :=
  ⟨Tests.inSessions, .doe (.pf 0), 0, Tests.session0, by decide +kernel⟩

theorem witness_SecurityCommandsRun_10 :
    ∃ (c : Chip),
      driverOpen c = true ∧
      firmwareOn c = true ∧
      c.sec.runningB.isSome = true ∧
      c.sec.fuses.minSvn < rd c .sec Reg.SEC_BOOT_STAT_SVN :=
  ⟨{ wr Tests.booted .sec Reg.SEC_BOOT_STAT_SVN 3 with sec := { Tests.booted.sec with runningB := some false } }, by decide +kernel⟩

theorem witness_SecurityCommandsRun_11 :
    ∃ (c : Chip),
      driverOpen c = true ∧
      firmwareOn c = true ∧
      operatorBit c = false :=
  ⟨Tests.booted, by decide +kernel⟩

theorem witness_SecurityCommandsRun_12 :
    ∃ (c : Chip),
      driverOpen c = true ∧
      firmwareOn c = true :=
  ⟨Tests.booted, by decide +kernel⟩

theorem witness_SecurityCommandsRun_13 :
    ∃ (c : Chip),
      driverOpen c = true ∧
      firmwareOn c = true :=
  ⟨Tests.booted, by decide +kernel⟩

theorem witness_SecurityCommandsRun_14 :
    ∃ (c : Chip) (host : HostReply) (b : List Byte) (k : Nat),
      driverOpen c = true ∧
      firmwareOn c = true ∧
      c.sec.processing = none ∧
      coxRead c host = some b ∧
      checkToken c (b.take tokenLen) = k :=
  ⟨Tests.bar, .data [], [], _, by decide +kernel, by decide +kernel, by decide +kernel, by decide +kernel, rfl⟩

theorem witness_SecurityCommandsRun_15 :
    ∃ (c : Chip) (host : HostReply) (b : List Byte) (k : Nat),
      driverOpen c = true ∧
      firmwareOn c = true ∧
      c.sec.processing = none ∧
      coxRead c host = some b ∧
      checkToken c (b.take tokenLen) = k :=
  ⟨Tests.bar, .data [], [], _, by decide +kernel, by decide +kernel, by decide +kernel, by decide +kernel, rfl⟩

theorem witness_SecurityCommandsRun_16 :
    ∃ (c : Chip) (d : TokenWork),
      driverOpen c = true ∧
      firmwareOn c = true ∧
      c.sec.processing = some d ∧
      d.isSupplement = false ∧
      d.mctp = none :=
  ⟨Tests.inToken false, Tests.tokenWork false, by decide +kernel⟩

theorem witness_SecurityCommandsRun_17 :
    ∃ (c : Chip) (part : Processing),
      driverOpen c = true ∧
      firmwareOn c = true ∧
      c.sec.processing.isSome = true ∧
      part ≠ .finish :=
  ⟨Tests.inToken false, .whole, by decide +kernel⟩

theorem witness_SecurityCommandsRun_18 :
    ∃ (c : Chip) (host : HostReply) (b : List Byte) (k : Nat),
      driverOpen c = true ∧
      firmwareOn c = true ∧
      c.sec.processing = none ∧
      coxRead c host = some b ∧
      checkCopy c b = k :=
  ⟨Tests.bar, .data [], [], _, by decide +kernel, by decide +kernel, by decide +kernel, by decide +kernel, rfl⟩

theorem witness_SecurityCommandsRun_19 :
    ∃ (c : Chip) (host : HostReply) (b : List Byte) (k : Nat),
      driverOpen c = true ∧
      firmwareOn c = true ∧
      c.sec.processing = none ∧
      coxRead c host = some b ∧
      checkCopy c b = k :=
  ⟨Tests.bar, .data [], [], _, by decide +kernel, by decide +kernel, by decide +kernel, by decide +kernel, rfl⟩

theorem witness_SecurityCommandsRun_20 :
    ∃ (c : Chip) (d : TokenWork),
      driverOpen c = true ∧
      firmwareOn c = true ∧
      c.sec.processing = some d ∧
      d.isSupplement = true ∧
      d.mctp = none :=
  ⟨Tests.inToken true, Tests.tokenWork true, by decide +kernel⟩

theorem witness_SecurityCommandsRun_21 :
    ∃ (c : Chip) (part : Processing),
      driverOpen c = true ∧
      firmwareOn c = true ∧
      c.sec.processing.isSome = true ∧
      part ≠ .finish :=
  ⟨Tests.inToken true, .whole, by decide +kernel⟩

theorem witness_SecurityCommandsRun_22 :
    ∃ (c : Chip),
      driverOpen c = true ∧
      firmwareOn c = true ∧
      debugState c ≠ 0 ∧
      c.sec.reading = none :=
  ⟨wr Tests.booted .sec Reg.SEC_DEBUG_STAT_STATE 1, by decide +kernel⟩

theorem witness_SecurityCommandsRun_23 :
    ∃ (c : Chip) (d : DebugRead) (t : Chip) (x : Nat × Bool × List Nat),
      driverOpen c = true ∧
      c.sec.reading = some d ∧
      debugMeets { c with sec := { c.sec with reading := none } } d = t ∧
      debugData t d = x :=
  ⟨{ Tests.booted with sec := { Tests.booted.sec with reading := some (debugNamed Tests.booted) } }, debugNamed Tests.booted, _, _, by decide +kernel, by decide +kernel, rfl, rfl⟩

theorem witness_SecurityCommandsRun_24 :
    ∃ (c : Chip),
      driverOpen c = true ∧
      firmwareOn c = true ∧
      debugState c ≠ 0 ∧
      c.sec.reading = none :=
  ⟨wr Tests.booted .sec Reg.SEC_DEBUG_STAT_STATE 1, by decide +kernel⟩

theorem witness_SecurityCommandsRun_25 :
    ∃ (c : Chip),
      running c = true ∧
      c.sec.booted = false :=
  ⟨Tests.base, by decide +kernel⟩

theorem witness_FaultEventsRun_1 :
    ∃ (c : Chip) (pg : Page) (t : Chip) (x : Note × Chip),
      hubOn c = true ∧
      runGraces c = t ∧
      oldestSent t pg = some x :=
  ⟨Tests.inbound, .cox, _, Tests.sent0, by decide +kernel, rfl, by decide +kernel⟩

theorem witness_FaultEventsRun_2 :
    ∃ (c : Chip) (pg : Page) (t : Chip) (x : Note × Chip),
      hubOn c = true ∧
      runGraces c = t ∧
      oldestSent t pg = some x :=
  ⟨Tests.inbound, .cox, _, Tests.sent0, by decide +kernel, rfl, by decide +kernel⟩

theorem witness_FaultEventsRun_3 :
    ∃ (c : Chip) (t : Chip),
      hubOn c = true ∧
      runGraces c = t ∧
      running t = true :=
  ⟨Tests.base, _, by decide +kernel, rfl, by decide +kernel⟩

theorem witness_FaultEventsRun_4 :
    ∃ (c : Chip) (t : Chip),
      hubOn c = true ∧
      runGraces c = t ∧
      running t = true :=
  ⟨Tests.base, _, by decide +kernel, rfl, by decide +kernel⟩

theorem witness_FaultEventsRun_5 :
    ∃ (c : Chip) (e : Nat),
      c.faults.pulseEnd = some e ∧
      e ≤ c.now :=
  ⟨{ Tests.base with faults := { Tests.base.faults with pulseEnd := some 0 } }, 0, by decide +kernel⟩

theorem witness_FaultEventsRun_6 :
    ∃ (c : Chip) (seq : Word) (x : Pending),
      running c = true ∧
      overdue c seq.toNat = some x ∧
      x.step ≤ rd c .fc Reg.FC_CFG_CEILING :=
  ⟨Tests.overdueChip, 0, Tests.pending0, by decide +kernel⟩

theorem witness_FaultEventsRun_7 :
    ∃ (c : Chip) (seq : Word) (x : Pending),
      running c = true ∧
      overdue c seq.toNat = some x ∧
      rd c .fc Reg.FC_CFG_CEILING < x.step :=
  ⟨wr Tests.overdueChip .fc Reg.FC_CFG_CEILING 0, 0, Tests.pending0, by decide +kernel⟩

theorem witness_FaultEventsRun_8 :
    ∃ (c : Chip) (seq : Word) (t : Chip),
      driverOpen c = true ∧
      hubOn c = true ∧
      takeSent (runGraces c) none = t ∧
      t.faults.pending.any (fun x => x.seq == seq.toNat) = true :=
  ⟨Tests.gracing, 0, _, by decide +kernel, by decide +kernel, rfl, by decide +kernel⟩

theorem witness_FaultEventsRun_9 :
    ∃ (c : Chip) (seq : Word) (t : Chip),
      driverOpen c = true ∧
      hubOn c = true ∧
      takeSent (runGraces c) none = t ∧
      t.faults.pending.any (fun x => x.seq == seq.toNat) = false :=
  ⟨Tests.linked, 0, _, by decide +kernel, by decide +kernel, rfl, by decide +kernel⟩

theorem witness_FaultEventsRun_10 :
    ∃ (c : Chip) (blk : Fin 256) (t : Chip),
      running c = true ∧
      driverOpen c = true ∧
      wr c .fc Reg.FC_FENCE_CTRL_BLOCK blk.val = t ∧
      rd t .fc Reg.FC_FENCE_STAT_BUSY = 0 ∧
      blockFenced t blk.val = true :=
  ⟨Tests.fenced, 0, _, by decide +kernel, by decide +kernel, rfl, by decide +kernel, by decide +kernel⟩

theorem witness_FaultEventsRun_11 :
    ∃ (c : Chip) (blk : Fin 256) (t : Chip),
      running c = true ∧
      driverOpen c = true ∧
      wr c .fc Reg.FC_FENCE_CTRL_BLOCK blk.val = t ∧
      rd t .fc Reg.FC_FENCE_STAT_BUSY = 0 ∧
      blockFenced t blk.val = false :=
  ⟨Tests.linked, 0, _, by decide +kernel, by decide +kernel, rfl, by decide +kernel, by decide +kernel⟩

theorem witness_FaultEventsRun_12 :
    ∃ (c : Chip) (b : Nat),
      running c = true ∧
      c.faults.testing = some b :=
  ⟨Tests.testing, 0, by decide +kernel⟩

theorem witness_FaultEventsRun_13 :
    ∃ (c : Chip) (b : Nat),
      running c = true ∧
      c.faults.testing = some b :=
  ⟨Tests.testing, 0, by decide +kernel⟩

theorem witness_FaultEventsRun_14 :
    ∃ (c : Chip) (r : Fin 4) (g : Fin 8) (t : Chip),
      running c = true ∧
      bit (rd c .hub Reg.HUB_D2D_STAT_GROUPS) (8 * r.val + g.val) = true ∧
      d2dNoted c r.val g.val = t :=
  ⟨Tests.base, 0, 0, _, by decide +kernel, by decide +kernel, rfl⟩

theorem witness_FaultEventsRun_15 :
    ∃ (c : Chip) (r : Fin 4),
      running c = true ∧
      kmem c.faults.d2d r.val = true :=
  ⟨{ Tests.base with faults := { Tests.base.faults with d2d := [0] } }, 0, by decide +kernel⟩

theorem witness_FaultEventsRun_16 :
    ∃ (c : Chip) (r : Fin 4),
      running c = true ∧
      kmem c.faults.d2d r.val = true :=
  ⟨{ Tests.base with faults := { Tests.base.faults with d2d := [0] } }, 0, by decide +kernel⟩

theorem witness_FaultEventsRun_17 :
    ∃ (c : Chip),
      running c = true :=
  ⟨Tests.base, by decide +kernel⟩

theorem witness_PowerEventsRun_3 :
    ∃ (c : Chip),
      powerState c = 0 ∧
      c.power.pwrEn = true ∧
      c.power.early = none :=
  ⟨setPower (enterOff Tests.base) (fun w => { w with pwrEn := true }), by decide +kernel⟩

theorem witness_PowerEventsRun_4 :
    ∃ (c : Chip) (src : Nat),
      powerState c = 0 ∧
      c.power.pwrEn = true ∧
      c.power.early = some src :=
  ⟨setPower (enterOff Tests.base) (fun w => { w with pwrEn := true, early := some 2 }), 2, by decide +kernel⟩

theorem witness_PowerEventsRun_6 :
    ∃ (c : Chip),
      hubOn c = true :=
  ⟨Tests.base, by decide +kernel⟩

theorem witness_PowerEventsRun_7 :
    ∃ (c : Chip) (blk : Fin 256) (temp : Byte) (r : Nat) (t : Chip),
      running c = true ∧
      rd c (.blk blk.val) Reg.PWR_STAT_STATE ≠ 3 ∧
      rd c (.blk blk.val) Reg.BLK_ISSUE_RATE = r ∧
      wrAll c (.blk blk.val) [(Reg.PWR_STAT_TEMP_C, temp.toNat), (Reg.BLK_ISSUE_RATE, nextRate c r temp.toNat)] = t :=
  ⟨Tests.base, 0, default, _, _, by decide +kernel, by decide +kernel, rfl, rfl⟩

theorem witness_PowerEventsRun_8 :
    ∃ (c : Chip),
      hubOn c = true :=
  ⟨Tests.base, by decide +kernel⟩

theorem witness_PowerEventsRun_9 :
    ∃ (c : Chip),
      hubOn c = true :=
  ⟨Tests.base, by decide +kernel⟩

theorem witness_PowerEventsRun_10 :
    ∃ (c : Chip),
      powerState c ≠ 0 ∧
      c.power.crystalFailed = false :=
  ⟨Tests.base, by decide +kernel⟩

theorem witness_PowerEventsRun_11 :
    ∃ (c : Chip),
      hubOn c = true ∧
      rd c .pm Reg.PM_STAT_CRYSTAL_OK = 0 ∧
      c.power.crystalFailed = false ∧
      2000000000 ≤ c.now :=
  ⟨{ Tests.base with now := 2000000000 }, by decide +kernel⟩

theorem witness_PowerEventsRun_12 :
    ∃ (c : Chip),
      driverOpen c = true ∧
      hubOn c = true ∧
      rd c .pm Reg.PM_STAT_ENTERING ≠ 1 ∧
      c.power.standbyHeld = false ∧
      standbyReason c ≠ 0 :=
  ⟨Tests.linked, by decide +kernel⟩

theorem witness_PowerEventsRun_13 :
    ∃ (c : Chip),
      driverOpen c = true ∧
      hubOn c = true ∧
      rd c .pm Reg.PM_STAT_ENTERING ≠ 1 ∧
      c.power.standbyHeld = false ∧
      standbyReason c = 0 ∧
      standbyWaits c = false :=
  ⟨wr Tests.linked .pm Reg.PM_STAT_CRYSTAL_OK 1, by decide +kernel⟩

theorem witness_PowerEventsRun_14 :
    ∃ (c : Chip),
      driverOpen c = true ∧
      hubOn c = true ∧
      rd c .pm Reg.PM_STAT_ENTERING ≠ 1 ∧
      c.power.standbyHeld = false ∧
      standbyReason c = 0 ∧
      standbyWaits c = true :=
  ⟨wr (wr Tests.linked .pm Reg.PM_STAT_CRYSTAL_OK 1) (.hbm 0) Reg.HBM_STAT_RETIRE_STATE 2, by decide +kernel⟩

theorem witness_PowerEventsRun_15 :
    ∃ (c : Chip),
      hubOn c = true ∧
      rd c .pm Reg.PM_STAT_ENTERING = 1 ∧
      c.sec.processing = none ∧
      inFatal c = false ∧
      c.power.wakeHeld = none :=
  ⟨wr Tests.base .pm Reg.PM_STAT_ENTERING 1, by decide +kernel⟩

theorem witness_PowerEventsRun_16 :
    ∃ (c : Chip) (src : Nat),
      hubOn c = true ∧
      rd c .pm Reg.PM_STAT_ENTERING = 1 ∧
      c.sec.processing = none ∧
      inFatal c = false ∧
      c.power.wakeHeld = some src :=
  ⟨setPower (wr Tests.base .pm Reg.PM_STAT_ENTERING 1) (fun w => { w with wakeHeld := some 1 }), 1, by decide +kernel⟩

theorem witness_PowerEventsRun_17 :
    ∃ (c : Chip) (via : Endpoint),
      endpointOpen c via = true :=
  ⟨Tests.base, .sideband, by decide +kernel⟩

theorem witness_PowerEventsRun_18 :
    ∃ (c : Chip),
      alarmDue c = true ∧
      powerState c = 1 :=
  ⟨wr (wr Tests.base .pm Reg.PM_STAT_STATE 1) .pm Reg.PM_WAKE_CFG_ALARM_EN 1, by decide +kernel⟩

theorem witness_PowerEventsRun_19 :
    ∃ (c : Chip),
      running c = true ∧
      c.power.restoring = true ∧
      c.sec.booted = true :=
  ⟨setPower Tests.booted (fun w => { w with restoring := true }), by decide +kernel⟩

theorem witness_PowerEventsRun_20 :
    ∃ (c : Chip),
      running c = true ∧
      c.sec.booted = true ∧
      c.power.trained = false :=
  ⟨setPower Tests.booted (fun w => { w with trained := false }), by decide +kernel⟩

theorem witness_PowerEventsRun_21 :
    ∃ (c : Chip) (r : Readings) (t : Chip),
      hubOn c = true ∧
      sampleDue c = true ∧
      sampleTaken c r = t :=
  ⟨{ Tests.base with now := 2000000000 }, Tests.readings0, _, by decide +kernel, by decide +kernel, rfl⟩

theorem witness_IdleStatesRun_1 :
    ∃ (c : Chip) (blk : Fin 256),
      mayRest c blk.val = true ∧
      blockPower c blk.val = 0 ∧
      rd c (.blk blk.val) Reg.PWR_CTRL_GATE_EN = 1 :=
  ⟨wr (wr Tests.base (.blk 0) Reg.PWR_STAT_STATE 0) (.blk 0) Reg.PWR_CTRL_GATE_EN 1, 0, by decide +kernel⟩

theorem witness_IdleStatesRun_2 :
    ∃ (c : Chip) (blk : Fin 256),
      mayRetain c blk.val = true :=
  ⟨Tests.resting, 0, by decide +kernel⟩

theorem witness_IdleStatesRun_3 :
    ∃ (c : Chip) (blk : Fin 256),
      mayOff c blk.val = true :=
  ⟨Tests.resting, 0, by decide +kernel⟩

theorem witness_IdleStatesRun_4 :
    ∃ (c : Chip) (blk : Fin 256),
      running c = true ∧
      kmem c.power.blockWaking blk.val = true ∧
      regionAwake c (blk.val / 64) = true :=
  ⟨setPower Tests.ready (fun w => { w with blockWaking := [0] }), 0, by decide +kernel⟩

theorem witness_IdleStatesRun_5 :
    ∃ (c : Chip) (bank : Fin 256),
      running c = true ∧
      bankPower c bank.val = 3 ∧
      regionAwake c (bank.val / 64) = true :=
  ⟨wr Tests.ready (.spb 0) Reg.SPB_STAT_POWER 3, 0, by decide +kernel⟩

theorem witness_IdleStatesRun_6 :
    ∃ (c : Chip) (bank : Fin 256),
      mayReturn c bank.val = true :=
  ⟨Tests.returning, 0, by decide +kernel⟩

theorem witness_IdleStatesRun_7 :
    ∃ (c : Chip) (r : Fin 4),
      maySleep c r.val = true :=
  ⟨Tests.sleepy, 0, by decide +kernel⟩

theorem witness_IdleStatesRun_8 :
    ∃ (c : Chip) (r : Fin 4),
      running c = true ∧
      kmem c.power.waking r.val = true :=
  ⟨setPower Tests.base (fun w => { w with waking := [0] }), 0, by decide +kernel⟩

theorem witness_ManagementCommandsRun_1 :
    ∃ (c : Chip) (via : Endpoint),
      endpointOpen c via = true :=
  ⟨Tests.base, .sideband, by decide +kernel⟩

theorem witness_ManagementCommandsRun_2 :
    ∃ (c : Chip) (via : Endpoint),
      hubOn c = true ∧
      endpointOpen c via = true :=
  ⟨Tests.base, .sideband, by decide +kernel⟩

theorem witness_ManagementCommandsRun_3 :
    ∃ (c : Chip) (offset : Nat) (bytes : List Byte) (part : Processing) (via : Endpoint),
      firmwareOn c = true ∧
      endpointOpen c via = true ∧
      bytes.length ≤ 1024 ∧
      offset = (if offset = 0 then [] else c.sec.chunks).length ∧
      part ≠ .finish :=
  ⟨Tests.booted, 0, [], .whole, .sideband, by decide +kernel⟩

theorem witness_ManagementCommandsRun_4 :
    ∃ (c : Chip) (offset : Nat) (bytes : List Byte) (all : List Byte) (part : Processing) (via : Endpoint) (k : Nat),
      firmwareOn c = true ∧
      endpointOpen c via = true ∧
      bytes.length ≤ 1024 ∧
      (if offset = 0 then [] else c.sec.chunks) ++ bytes = all ∧
      offset = (if offset = 0 then [] else c.sec.chunks).length ∧
      part ≠ .finish ∧
      checkToken { c with sec := { c.sec with chunks := [] } } all = k :=
  ⟨Tests.booted, 0, [], _, .whole, .sideband, _, by decide +kernel, by decide +kernel, by decide +kernel, rfl, by decide +kernel, by decide +kernel, rfl⟩

theorem witness_ManagementCommandsRun_5 :
    ∃ (c : Chip) (via : Endpoint) (d : TokenWork),
      firmwareOn c = true ∧
      endpointOpen c via = true ∧
      c.sec.processing = some d ∧
      d.isSupplement = false ∧
      d.mctp = some via :=
  ⟨Tests.inChunks, .sideband, Tests.chunkWork, by decide +kernel⟩

theorem witness_ManagementCommandsRun_6 :
    ∃ (c : Chip) (via : Endpoint),
      hubOn c = true ∧
      endpointOpen c via = true :=
  ⟨Tests.base, .sideband, by decide +kernel⟩

theorem witness_ManagementCommandsRun_7 :
    ∃ (c : Chip) (via : Endpoint),
      hubOn c = true ∧
      endpointOpen c via = true :=
  ⟨Tests.base, .sideband, by decide +kernel⟩

theorem witness_ManagementCommandsRun_8 :
    ∃ (c : Chip) (via : Endpoint),
      endpointOpen c via = true :=
  ⟨Tests.base, .sideband, by decide +kernel⟩

theorem witness_ManagementCommandsRun_9 :
    ∃ (c : Chip) (code : Byte) (via : Endpoint),
      hubOn c = true ∧
      endpointOpen c via = true ∧
      (code.toNat = 0 ∨ 8 < code.toNat) :=
  ⟨Tests.base, 9, .sideband, by decide +kernel⟩

theorem witness_ManagementCommandsRun_10 :
    ∃ (c : Chip) (via : Endpoint),
      endpointOpen c via = true ∧
      hubOn c = false :=
  ⟨wr Tests.base .pm Reg.PM_STAT_STATE 1, .sideband, by decide +kernel⟩

theorem witness_ManagementCommandsRun_11 :
    ∃ (c : Chip) (via : Endpoint),
      endpointOpen c via = true ∧
      hubOn c = false :=
  ⟨wr Tests.base .pm Reg.PM_STAT_STATE 1, .sideband, by decide +kernel⟩

theorem witness_ManagementCommandsRun_12 :
    ∃ (c : Chip) (via : Endpoint),
      endpointOpen c via = true ∧
      hubOn c = false :=
  ⟨wr Tests.base .pm Reg.PM_STAT_STATE 1, .sideband, by decide +kernel⟩

theorem witness_ManagementCommandsRun_13 :
    ∃ (c : Chip) (via : Endpoint),
      endpointOpen c via = true ∧
      hubOn c = false :=
  ⟨wr Tests.base .pm Reg.PM_STAT_STATE 1, .sideband, by decide +kernel⟩

theorem witness_ManagementCommandsRun_14 :
    ∃ (c : Chip),
      endpointOpen c .pcie = true :=
  ⟨Tests.booted, by decide +kernel⟩

theorem witness_ManagementCommandsRun_15 :
    ∃ (c : Chip),
      endpointOpen c .sideband = true :=
  ⟨Tests.base, by decide +kernel⟩

theorem witness_ManagementCommandsRun_16 :
    ∃ (c : Chip),
      powerState c ≠ 0 :=
  ⟨Tests.base, by decide +kernel⟩

theorem witness_ManagementCommandsRun_17 :
    ∃ (c : Chip),
      powerState c ≠ 0 :=
  ⟨Tests.base, by decide +kernel⟩

theorem witness_PageCommandsRun_1 :
    ∃ (c : Chip) (pg : Page) (t : Page) (r : Nat),
      driverOpen c = true ∧
      (pg = .fwSl ∨ pg = .sl r) ∧
      headerOpen c pg = true ∧
      slTarget c pg = some t :=
  ⟨Tests.linked, .fwSl, .fwPart 0, 0, by decide +kernel⟩

theorem witness_PageCommandsRun_2 :
    ∃ (c : Chip) (pg : Page),
      driverOpen c = true ∧
      headerOpen c pg = true :=
  ⟨Tests.linked, .pm, by decide +kernel⟩

theorem witness_PageCommandsRun_3 :
    ∃ (c : Chip) (pg : Page),
      driverOpen c = true ∧
      headerOpen c pg = true :=
  ⟨Tests.linked, .pm, by decide +kernel⟩

theorem witness_PageCommandsRun_4 :
    ∃ (c : Chip) (pg : Page),
      driverOpen c = true ∧
      headerOpen c pg = true :=
  ⟨Tests.linked, .pm, by decide +kernel⟩

theorem witness_PageCommandsRun_5 :
    ∃ (c : Chip) (pg : Page),
      driverOpen c = true ∧
      headerOpen c pg = true :=
  ⟨Tests.linked, .pm, by decide +kernel⟩

theorem witness_PageCommandsRun_6 :
    ∃ (c : Chip) (pg : Page),
      driverOpen c = true ∧
      headerOpen c pg = true :=
  ⟨Tests.linked, .pm, by decide +kernel⟩

theorem witness_PageCommandsRun_7 :
    ∃ (c : Chip) (pg : Page),
      driverOpen c = true ∧
      headerOpen c pg = true :=
  ⟨Tests.linked, .pm, by decide +kernel⟩

theorem witness_PageCommandsRun_8 :
    ∃ (c : Chip) (pg : Page),
      driverOpen c = true ∧
      headerOpen c pg = true :=
  ⟨Tests.linked, .pm, by decide +kernel⟩

theorem witness_PageCommandsRun_9 :
    ∃ (c : Chip) (pg : Page),
      driverOpen c = true ∧
      headerOpen c pg = true ∧
      (pg = .hub ∨ pg = .cox ∨ pg = .pm) :=
  ⟨Tests.linked, .pm, by decide +kernel⟩

theorem witness_PageCommandsRun_10 :
    ∃ (c : Chip) (pg : Page),
      driverOpen c = true ∧
      headerOpen c pg = true ∧
      (pg ≠ .hub ∧ pg ≠ .cox ∧ pg ≠ .pm) :=
  ⟨Tests.linked, .fc, by decide +kernel⟩

theorem witness_PageCommandsRun_11 :
    ∃ (c : Chip) (pg : Page) (t : Page),
      driverOpen c = true ∧
      headerOpen c pg = true ∧
      slTarget c pg = some t :=
  ⟨Tests.linked, .pm, .pm, by decide +kernel⟩

theorem witness_PageCommandsRun_12 :
    ∃ (c : Chip) (via : Via) (off : Nat),
      viaOpen c via = true ∧
      hubOn c = true ∧
      off % 4 = 0 ∧
      reach c via off ≠ .absent :=
  ⟨Tests.booted, .pf 0, 0, by decide +kernel⟩

theorem witness_PageCommandsRun_13 :
    ∃ (c : Chip) (via : Via) (off : Nat) (pg : Page),
      viaOpen c via = true ∧
      hubOn c = true ∧
      off % 4 = 0 ∧
      reach c via off = .page pg :=
  ⟨Tests.booted, .pf 0, 0, .hub, by decide +kernel⟩

theorem witness_PageCommandsRun_15 :
    ∃ (c : Chip) (p : Fin 5),
      (srnPort c p.val).cable.isNone = false :=
  ⟨Tests.training, 0, by decide +kernel⟩

theorem witness_PageCommandsRun_16 :
    ∃ (c : Chip) (port : Fin 2) (fn : Fin 17),
      hubOn c = true ∧
      funcPresent c port.val fn.val = true ∧
      (func c port.val fn.val).resetting = true ∧
      dlUp c port.val = true :=
  ⟨setFunc Tests.booted 0 0 (fun f => { f with resetting := true }), 0, 0, by decide +kernel⟩

theorem witness_PageCommandsRun_17 :
    ∃ (c : Chip),
      hubOn c = true ∧
      lifecycle c = 0 ∧
      deepBit c = false :=
  ⟨wr Tests.base .sec Reg.SEC_LIFECYCLE_STATE 0, by decide +kernel⟩

theorem witness_PageCommandsRun_18 :
    ∃ (c : Chip),
      powerState c ≠ 0 :=
  ⟨Tests.base, by decide +kernel⟩

theorem witness_PageCommandsRun_19 :
    ∃ (c : Chip),
      hubOn c = true ∧
      deepBit c = true :=
  ⟨Tests.deep, by decide +kernel⟩

theorem witness_PageCommandsRun_20 :
    ∃ (c : Chip) (d : Nat × Chip),
      hubOn c = true ∧
      deepBit c = true ∧
      draw c = d :=
  ⟨Tests.deep, _, by decide +kernel, by decide +kernel, rfl⟩

theorem witness_PageCommandsRun_21 :
    ∃ (c : Chip),
      hubOn c = true ∧
      deepBit c = true :=
  ⟨Tests.deep, by decide +kernel⟩

theorem witness_PageCommandsRun_22 :
    ∃ (c : Chip),
      hubOn c = true ∧
      deepBit c = true :=
  ⟨Tests.deep, by decide +kernel⟩

theorem witness_PageCommandsRun_23 :
    ∃ (c : Chip) (pg : Page) (off : Nat),
      hubOn c = true ∧
      deepBit c = true ∧
      headerPage pg = true ∧
      off % 4 = 0 ∧
      off < 4096 :=
  ⟨Tests.deep, .hub, 0, by decide +kernel⟩

theorem witness_PageCommandsRun_24 :
    ∃ (c : Chip) (pg : Page) (off : Nat),
      hubOn c = true ∧
      deepBit c = true ∧
      headerPage pg = true ∧
      off % 4 = 0 ∧
      off < 4096 :=
  ⟨Tests.deep, .hub, 0, by decide +kernel⟩

theorem witness_StepRunsFront : ∃ (i : Instr) (l : List Instr) (s : State), s.pending = i :: l :=
  ⟨.wake, [], { State.reset with pending := [.wake] }, rfl⟩

theorem witness_IdleTick_off : ∃ (s : State), s.pending = [] ∧ powerState s.toChip = 0 := ⟨⟨enterOff Tests.base, []⟩, by decide +kernel⟩
theorem witness_IdleTick_standby : ∃ (s : State), s.pending = [] ∧ powerState s.toChip = 1 :=
  ⟨⟨wr Tests.base .pm Reg.PM_STAT_STATE 1, []⟩, by decide +kernel⟩
theorem witness_IdleTick_on : ∃ (s : State), s.pending = [] ∧ powerState s.toChip ≠ 0 ∧ powerState s.toChip ≠ 1 :=
  ⟨State.reset, by decide +kernel⟩

theorem witness_ShutDriverChangesNothing_driver : ∃ (i : Instr) (s : State), i.byDriver = true ∧ driverOpen s.toChip = false :=
  ⟨.nonceNew, State.reset, by decide +kernel⟩
theorem witness_ShutDriverChangesNothing_via : ∃ (i : Instr) (s : State) (v : Via), i.via = some v ∧ viaOpen s.toChip v = false :=
  ⟨.latchingLoRead (.pf 0) 0, State.reset, .pf 0, by decide +kernel⟩




theorem witness_WfKept : ∃ (s t : State), s.toChip.wf = true ∧ s.queueWf = true ∧ step s = .next t :=
  ⟨{ State.reset with pending := [.wake] }, _, by decide, by decide, rfl⟩

theorem witness_MemoryKept_1 : ∃ (i : Instr) (s t : State), i.mayStore = false ∧ exec i s = .next t :=
  ⟨.wake, State.reset, _, rfl, rfl⟩
theorem witness_MemoryKept_2 : ∃ (i : Instr) (s t : State), i.mayRetire = false ∧ exec i s = .next t :=
  ⟨.semWait Tests.o0 0, State.reset, _, rfl, rfl⟩

theorem witness_PadsAndSetsKept_1 : ∃ (i : Instr) (s t : State), i.mayTouchPads = false ∧ exec i s = .next t :=
  ⟨.semWait Tests.o0 0, State.reset, _, rfl, rfl⟩
theorem witness_PadsAndSetsKept_2 : ∃ (i : Instr) (s t : State), i.mayTouchSets = false ∧ exec i s = .next t :=
  ⟨.wake, State.reset, _, rfl, rfl⟩

theorem witness_QueuesKept_1 : ∃ (i : Instr) (s t : State), i.mayTouchQueues = false ∧ exec i s = .next t :=
  ⟨.wake, State.reset, _, rfl, rfl⟩
theorem witness_QueuesKept_2 : ∃ (i : Instr) (s t : State), i.mayTouchServe = false ∧ exec i s = .next t :=
  ⟨.wake, State.reset, _, rfl, rfl⟩
theorem witness_QueuesKept_3 : ∃ (i : Instr) (s t : State), i.mayTouchWalkers = false ∧ exec i s = .next t :=
  ⟨.semWait Tests.o0 0, State.reset, _, rfl, rfl⟩
theorem witness_QueuesKept_4 : ∃ (i : Instr) (s t : State), i.mayTouchContexts = false ∧ exec i s = .next t :=
  ⟨.semWait Tests.o0 0, State.reset, _, rfl, rfl⟩

theorem witness_MeshAndHostsKept_1 : ∃ (i : Instr) (s t : State), i.mayTouchMesh = false ∧ exec i s = .next t :=
  ⟨.wake, State.reset, _, rfl, rfl⟩
theorem witness_MeshAndHostsKept_2 : ∃ (i : Instr) (s t : State), i.mayTouchHosts = false ∧ exec i s = .next t :=
  ⟨.status, State.reset, _, rfl, rfl⟩

theorem witness_SecurityKept : ∃ (i : Instr) (s t : State), i.mayTouchSecurity = false ∧ exec i s = .next t :=
  ⟨.semWait Tests.o0 0, State.reset, _, rfl, rfl⟩

theorem witness_ClocksKept_1 : ∃ (i : Instr) (s t : State), i.mayTouchClocks = false ∧ exec i s = .next t :=
  ⟨.semWait Tests.o0 0, State.reset, _, rfl, rfl⟩
theorem witness_ClocksKept_2 : ∃ (i : Instr) (s t : State), i.mayTouchTime = false ∧ exec i s = .next t :=
  ⟨.semWait Tests.o0 0, State.reset, _, rfl, rfl⟩

theorem witness_ScopesKeep : ∃ (i : Instr) (s t : State), i.resets = true ∧ exec i s = .next t ∧ (∀ via p n e, i ≠ .queueReset via p n e) :=
  ⟨.partitionReset (.pf 0) 0, State.reset, _, rfl, rfl, fun _ _ _ _ h => by cases h⟩

theorem witness_StoppedModuleIdles_stopped : ∃ (i : Instr) (s : State), i.worksStopped = false ∧ running s.toChip = false :=
  ⟨.semWait Tests.o0 0, ⟨enterOff Tests.base, []⟩, by decide +kernel⟩
theorem witness_StoppedModuleIdles_off : ∃ (i : Instr) (s : State), i.worksInOff = false ∧ powerState s.toChip = 0 :=
  ⟨.wake, ⟨enterOff Tests.base, []⟩, by decide +kernel⟩

theorem witness_PowerRemovedIsOff : ∃ (c : Chip), powerState c ≠ 0 := ⟨Tests.base, by decide +kernel⟩

theorem witness_AcknowledgedRecordLeaves_pending : ∃ (c t : Chip) (seq : Word), driverOpen c = true ∧ hubOn c = true ∧ takeSent (runGraces c) none = t ∧
    t.faults.pending.any (fun x => x.seq == seq.toNat) = true :=
  ⟨Tests.gracing, _, 0, by decide +kernel, by decide +kernel, rfl, by decide +kernel⟩
theorem witness_AcknowledgedRecordLeaves_stale : ∃ (c t : Chip) (seq : Word), driverOpen c = true ∧ hubOn c = true ∧ takeSent (runGraces c) none = t ∧
    t.faults.pending.any (fun x => x.seq == seq.toNat) = false :=
  ⟨Tests.linked, _, 0, by decide +kernel, by decide +kernel, rfl, by decide +kernel⟩

theorem witness_LiveSetsKeepBlocksOn_live : ∃ (c : Chip) (b : Fin 256), rd c (.blk b.val) Reg.BLK_ACC_STATE_LIVE ≠ 0 :=
  ⟨wr Tests.resting (.blk 0) Reg.BLK_ACC_STATE_LIVE 1, 0, by decide +kernel⟩
theorem witness_LiveSetsKeepBlocksOn_off : ∃ (c : Chip) (b : Fin 256), mayOff c b.val = true ∧ tsorted c.regs = true :=
  ⟨Tests.resting, 0, by decide +kernel⟩

theorem witness_OtherPortsRegisters : ∃ (c : Chip) (port : Fin 2) (off : Nat), hubOn c = true ∧ viaOpen c (.pf port) = true ∧
    port.val ≠ mgmtPort c ∧ off % 4 = 0 ∧ off < 4096 ∧ inFatal c = false := ⟨Tests.other, 1, 0x44, by decide +kernel⟩
theorem witness_OtherPortsRegisters_above : ∃ (c : Chip) (port : Fin 2) (off : Nat), hubOn c = true ∧ viaOpen c (.pf port) = true ∧
    port.val ≠ mgmtPort c ∧ off % 4 = 0 ∧ 4096 ≤ off := ⟨Tests.other, 1, 4096, by decide +kernel⟩

theorem witness_SemaphoreSignalled_set : ∃ (c d : Chip) (o : Origin) (b : Body), running c = true ∧
    stillToDo c o (syncOf o) 0x10 b = true ∧ handTo c o (syncOf o) 0x10 b = d ∧ mayFollow d o (syncOf o) 0x10 b = true ∧
    semOwned d o.part.val (bf b 0x10 15 0) = true ∧
    d.q.waits.all (fun w => match w.on with | .sem m _ _ => m != bf b 0x10 15 0 | .bar _ _ => true) = true ∧ tsorted d.q.sems = true ∧ bb b 0x10 16 = true :=
  ⟨Tests.base, _, Tests.o0, 0x500010000, by decide +kernel, by decide +kernel, rfl, by decide +kernel⟩
theorem witness_SemaphoreSignalled_add : ∃ (c d : Chip) (o : Origin) (b : Body), running c = true ∧
    stillToDo c o (syncOf o) 0x10 b = true ∧ handTo c o (syncOf o) 0x10 b = d ∧ mayFollow d o (syncOf o) 0x10 b = true ∧
    semOwned d o.part.val (bf b 0x10 15 0) = true ∧
    d.q.waits.all (fun w => match w.on with | .sem m _ _ => m != bf b 0x10 15 0 | .bar _ _ => true) = true ∧ tsorted d.q.sems = true ∧ bb b 0x10 16 = false ∧
    semVal c (bf b 0x10 15 0) + bw b 0x14 ≤ 2 ^ 32 - 1 :=
  ⟨Tests.base, _, Tests.o0, 0xFFFFFFFF00000000, by decide +kernel, by decide +kernel, rfl, by decide +kernel⟩
theorem witness_SemaphoreSignalled_top : ∃ (c d : Chip) (o : Origin) (b : Body), running c = true ∧
    stillToDo c o (syncOf o) 0x10 b = true ∧ handTo c o (syncOf o) 0x10 b = d ∧ mayFollow d o (syncOf o) 0x10 b = true ∧
    semOwned d o.part.val (bf b 0x10 15 0) = true ∧
    d.q.waits.all (fun w => match w.on with | .sem m _ _ => m != bf b 0x10 15 0 | .bar _ _ => true) = true ∧ tsorted d.q.sems = true ∧ bb b 0x10 16 = false ∧
    2 ^ 32 - 1 < semVal c (bf b 0x10 15 0) + bw b 0x14 :=
  ⟨semSet Tests.base 0 1, _, Tests.o0, 0xFFFFFFFF00000000, by decide +kernel, by decide +kernel, rfl, by decide +kernel⟩


theorem witness_SecurityVersionCommitted_raised : ∃ (c : Chip) (v : Nat), rd c .sec Reg.SEC_BOOT_STAT_SVN = v ∧
    driverOpen c = true ∧ hubOn c = true ∧ c.sec.booted = true ∧ c.sec.runningB.isSome = true ∧ c.sec.fuses.minSvn < v ∧ tsorted c.regs = true :=
  ⟨Tests.copyRuns, 3, by decide +kernel⟩
theorem witness_SecurityVersionCommitted_kept : ∃ (c : Chip) (v : Nat), rd c .sec Reg.SEC_BOOT_STAT_SVN = v ∧ v ≤ c.sec.fuses.minSvn :=
  ⟨Tests.base, 0, by decide +kernel⟩

theorem witness_MasksReadBack : ∃ (c : Chip) (pg : Page) (f : Field) (n : Nat), driverOpen c = true ∧ headerOpen c pg = true ∧ tsorted c.regs = true ∧
    (if true = true then Reg.ERR_MASK_MASK else Reg.IRQ_EN_EN) = f ∧ definedBits pg (if true = true then 0x01C else 0x010) = n :=
  ⟨Tests.linked, .pm, _, _, by decide +kernel, by decide +kernel, by decide +kernel, rfl, rfl⟩

theorem witness_Bar2WriteStores : ∃ (c : Chip) (port : Fin 2) (fn : Fin 17) (offset : Nat) (bytes : List Byte) (p a : Nat),
    c.mem.wf = true ∧ barOpen c port.val fn.val = true ∧ bytes ≠ [] ∧ readyPart c port.val fn.val = some p ∧
    bar2Addr c port.val fn.val p offset = a ∧ girthAdmit c p a bytes.length true = .go :=
  ⟨Tests.bar, 0, 0, 0, [1], 0, _, by decide +kernel, by decide +kernel, by decide +kernel, by decide +kernel, rfl, by decide +kernel⟩

theorem witness_Bar2WriteDropped_refused : ∃ (c : Chip) (port : Fin 2) (fn : Fin 17) (offset : Nat) (bytes : List Byte) (p a k : Nat),
    barOpen c port.val fn.val = true ∧ readyPart c port.val fn.val = some p ∧ bar2Addr c port.val fn.val p offset = a ∧
    girthAdmit c p a bytes.length true = .refuse k :=
  ⟨Tests.walled, 0, 0, 0, [1], 0, _, 0x78, by decide +kernel, by decide +kernel, rfl, by decide +kernel⟩
theorem witness_Bar2WriteDropped_unbound : ∃ (c : Chip) (port : Fin 2) (fn : Fin 17), barOpen c port.val fn.val = true ∧
    ∀ p, partOf c port.val fn.val = some p → partState c p ≠ 2 :=
  ⟨Tests.unbound, 0, 0, by decide +kernel, by
    have h : partOf Tests.unbound 0 0 = none := by decide +kernel
    intro p hp; exact absurd (h.symm.trans hp) (by simp)⟩

theorem witness_FillZeroes : ∃ (c : Chip) (b : Fin 256) (f : BankFill), running c = true ∧
    c.fills.find? (fun f => f.bank == b.val) = some f ∧ bankFenced c b.val = false ∧ f.origin = none ∧ f.first < f.last ∧
    rd c (.spb b.val) Reg.SPB_STAT_POWER ≠ 3 := ⟨Tests.filling none, 0, Tests.fill0 none, by decide +kernel⟩

theorem witness_SkiveSymbolsReadBack : ∃ (v : Byte) (n : Nat), v ≠ 0 ∧ 1 ≤ n ∧ n ≤ 4096 := ⟨255, 4096, by decide⟩

theorem witness_SkiveBlocksReadBack : ∃ (t : List Nat) (map : Bool) (block : List Byte), t.length = 64 ∧ (∀ n ∈ t, n ≤ 15) ∧
    tableValid t = true ∧ block.length ≤ 4096 ∧ coversBlock t map block = true :=
  ⟨[1, 2] ++ List.replicate 30 0 ++ [2] ++ List.replicate 31 0, false, [1, 2, 0, 1], by decide +kernel⟩

end
end

section
/-!
PROOF. The statements of chapter 00 (scope): the registers right after reset (R14) and the two interrupt masks of a page (R11, R487).
-/
namespace Sys2Proof.Machine

/-! ### The page's vector -/

/-- MSI-X (R353) sends a message, or changes the pending set of the function, or does nothing. -/
theorem msix_cases (s : Chip) (port fn vector : Nat) : msix s port fn vector = s ∨
    (∃ m, msix s port fn vector = emit s m) ∨ (∃ f, msix s port fn vector = setFunc s port fn f) := by
  unfold msix
  split
  · exact .inl rfl
  · split
    · exact .inr (.inl ⟨_, rfl⟩)
    · exact .inr (.inr ⟨_, rfl⟩)

/-- Sending a page's vector again (R487) is MSI-X of the management PF0, or nothing where the summary is 0. -/
theorem vectorAgain_cases (s : Chip) (pg : Page) : vectorAgain s pg = s ∨
    vectorAgain s pg = msix s (mgmtPort s) 0 (rd s pg Reg.PAGE_CTRL_VECTOR) := by
  unfold vectorAgain
  split
  · exact .inr rfl
  · exact .inl rfl

/-- What neither a message out of the module nor a change of a function touches, the page's vector does not touch. -/
theorem vectorAgain_keeps {α : Type} (part : Chip → α) (hemit : ∀ s m, part (emit s m) = part s)
    (hfunc : ∀ s port fn f, part (setFunc s port fn f) = part s) (s : Chip) (pg : Page) :
    part (vectorAgain s pg) = part s := by
  rcases vectorAgain_cases s pg with h | h
  · rw [h]
  · rw [h]
    rcases msix_cases s (mgmtPort s) 0 (rd s pg Reg.PAGE_CTRL_VECTOR) with h | ⟨m, h⟩ | ⟨f, h⟩
    · rw [h]
    · rw [h, hemit]
    · rw [h, hfunc]

@[simp] theorem vectorAgain_regs (s : Chip) (pg : Page) : (vectorAgain s pg).regs = s.regs :=
  vectorAgain_keeps Chip.regs emit_regs setFunc_regs s pg

@[simp] theorem vectorAgain_mem (s : Chip) (pg : Page) : (vectorAgain s pg).mem = s.mem :=
  vectorAgain_keeps Chip.mem emit_mem setFunc_mem s pg

@[simp] theorem vectorAgain_pads (s : Chip) (pg : Page) : (vectorAgain s pg).pads = s.pads :=
  vectorAgain_keeps Chip.pads emit_pads setFunc_pads s pg

/-- What a field reads is a matter of the register table alone. -/
theorem rd_congr {s t : Chip} (h : s.regs = t.regs) (pg : Page) (f : Field) : rd s pg f = rd t pg f := by
  simp only [rd, h]

@[simp] theorem rd_vectorAgain (s : Chip) (pg pg' : Page) (f : Field) : rd (vectorAgain s pg) pg' f = rd s pg' f :=
  rd_congr (vectorAgain_regs s pg) pg' f

/-! ### The masks -/

/-- The mask a write of INTERRUPT_MASK_WRITE goes to: ERR_MASK for errors, IRQ_EN for causes (Table 17-3). -/
def maskField (err : Bool) : Field := if err = true then Reg.ERR_MASK_MASK else Reg.IRQ_EN_EN

/-- Where the flags stand that a mask belongs to: ERR_STAT for errors, IRQ_STAT for causes (Table 17-3). -/
def flagOffset (err : Bool) : Nat := if err = true then 0x01C else 0x010

/-- On a page whose header answers, a mask is written in the bits the page defines, and the vector may go out again (R487). -/
theorem interruptMaskWrite_open (s : Chip) (pg : Page) (err : Bool) (v : Nat) (h : headerOpen s pg = true) :
    interruptMaskWrite s pg err v = vectorAgain (wr s pg (maskField err) (v &&& definedBits pg (flagOffset err))) pg := by
  simp only [interruptMaskWrite, h, if_true]
  cases err <;> rfl

/-- While the host driver has its access, INTERRUPT_MASK_WRITE is the page's mask write, and the queue stays. -/
theorem exec_interruptMaskWrite (c : Chip) (l : List Instr) (pg : Page) (err : Bool) (v : Word) (h : driverOpen c = true) :
    exec (.interruptMaskWrite pg err v) ⟨c, l⟩ = .next ⟨interruptMaskWrite c pg err v.toNat, l⟩ := by
  have hexec : exec (.interruptMaskWrite pg err v) ⟨c, l⟩ = driven ⟨c, l⟩ (fun c => interruptMaskWrite c pg err v.toNat) := rfl
  rw [hexec, driven_eq, if_pos h]

/-- Settles O55: the command is a write of one field, and the vector that may follow it changes no register, memory or bank. -/
theorem masksReadBack : Obligations.MasksReadBack := by
  intro c l pg err v f n hdriver hheader hsorted hf hn
  have hf : maskField err = f := hf
  have hn : definedBits pg (flagOffset err) = n := hn
  have hwrite : interruptMaskWrite c pg err v.toNat = vectorAgain (wr c pg f (v.toNat &&& n)) pg := by
    rw [interruptMaskWrite_open c pg err v.toNat hheader, hf, hn]
  refine ⟨_, hwrite ▸ exec_interruptMaskWrite c l pg err v hdriver, ?_, ?_, ?_, ?_⟩
  · rw [rd_vectorAgain, rd_wr_same _ _ _ _ hsorted]
  · intro pg' f' hkey
    rw [rd_vectorAgain, rd_wr_ne _ _ _ _ _ _ hkey]
  · rw [vectorAgain_mem, wr_mem]
  · rw [vectorAgain_pads, wr_pads]

/-! ### Right after reset -/

/-- Right after reset no register is listed, so every field of every page reads as its Reset column says (R14). -/
theorem rd_reset (pg : Page) (f : Field) : rd State.reset.toChip pg f = f.reset := rfl

/-- Settles O37: no register is listed right after reset, and the values written out are the Reset columns of their fields. -/
theorem resetRegisters : Obligations.ResetRegisters :=
  ⟨rd_reset, rd_reset _ _, rd_reset _ _, rd_reset _ _, rd_reset _ _, fun _ => rd_reset _ _, fun _ => rd_reset _ _,
    fun _ => rd_reset _ _, fun _ => rd_reset _ _, fun _ => rd_reset _ _, rfl, rfl, rfl⟩

end Sys2Proof.Machine
end

section
/-!
PROOF. The statement of chapter 02 (formats): the Skive engine's byte mapping (R297), and the trits of a packed byte (R33).
-/
namespace Sys2Proof.Machine

/-! ### The byte mapping (R297) -/

@[simp] theorem skvMap_false (v : Nat) : skvMap false v = v := rfl

/-- Under MAP 1 a byte that is not negative is doubled. -/
theorem skvMap_true_of_lt {v : Nat} (h : v < 128) : skvMap true v = 2 * v := if_pos h

/-- Under MAP 1 a negative byte goes to an odd value; the byte -1 goes to 1. -/
theorem skvMap_true_of_ge {v : Nat} (h : 128 ≤ v) : skvMap true v = 511 - 2 * v := if_neg (Nat.not_lt.mpr h)

@[simp] theorem skvMap_zero (m : Bool) : skvMap m 0 = 0 := by cases m <;> rfl

@[simp] theorem skvUnmap_false (m : Nat) : skvUnmap false m = m := rfl

theorem skvUnmap_true (m : Nat) : skvUnmap true m = if m % 2 = 0 then m / 2 else 255 - m / 2 := rfl

/-- The mapping loses nothing: its parity tells the sign, and its half the distance from 0 or from -1. -/
theorem skvUnmap_skvMap (m : Bool) {v : Nat} (h : v < 256) : skvUnmap m (skvMap m v) = v := by
  cases m with
  | false => rfl
  | true =>
    rw [skvUnmap_true]
    rcases Nat.lt_or_ge v 128 with hpos | hneg
    · rw [skvMap_true_of_lt hpos, if_pos (by omega)]
      omega
    · rw [skvMap_true_of_ge hneg, if_neg (by omega)]
      omega

/-- The arithmetic shift by 7 spreads the sign bit over the byte: zeros for a byte that is not negative. -/
theorem sshiftRight_seven_of_lt {v : Byte} (h : v.toNat < 128) : v.sshiftRight 7 = 0#8 := by
  apply BitVec.eq_of_toInt_eq
  rw [BitVec.toInt_sshiftRight, BitVec.toInt_eq_toNat_cond, Int.shiftRight_eq_div_pow, BitVec.toInt_zero]
  omega

/-- Ones for a negative byte: the shift leaves -1. -/
theorem sshiftRight_seven_of_ge {v : Byte} (h : 128 ≤ v.toNat) : v.sshiftRight 7 = BitVec.allOnes 8 := by
  apply BitVec.eq_of_toInt_eq
  rw [BitVec.toInt_sshiftRight, BitVec.toInt_eq_toNat_cond, Int.shiftRight_eq_div_pow, BitVec.toInt_allOnes]
  omega

/-- MAP 1 is R297's formula: the XOR is with 0 for a byte that is not negative, and inverts the doubled byte for a negative one. -/
theorem skvMap_true_eq_xor (v : Byte) : skvMap true v.toNat = ((v <<< 1) ^^^ (v.sshiftRight 7)).toNat := by
  rcases Nat.lt_or_ge v.toNat 128 with hpos | hneg
  · rw [skvMap_true_of_lt hpos, sshiftRight_seven_of_lt hpos, BitVec.xor_zero, BitVec.toNat_shiftLeft, Nat.shiftLeft_eq]
    omega
  · rw [skvMap_true_of_ge hneg, sshiftRight_seven_of_ge hneg, BitVec.xor_allOnes, BitVec.toNat_not, BitVec.toNat_shiftLeft,
      Nat.shiftLeft_eq]
    omega

/-! ### The trits of a packed byte (R33) -/

/-- The trits of a valid packed byte are the base-3 digits of its value. -/
theorem byteTrit_ofNat {n : Nat} (h : n < 243) (i : Nat) : byteTrit (BitVec.ofNat 8 n) i = n / 3 ^ i % 3 := by
  have hval : (BitVec.ofNat 8 n).toNat = n := (BitVec.toNat_ofNat n 8).trans (Nat.mod_eq_of_lt (by omega))
  rw [byteTrit, hval, if_neg (by omega)]

/-- R33's value of five trit codes is below 243, and its base-3 digits are the codes. -/
theorem byteTrit_packed (t0 t1 t2 t3 t4 : Fin 3) :
    let v := BitVec.ofNat 8 (t0.val + 3 * t1.val + 9 * t2.val + 27 * t3.val + 81 * t4.val)
    byteTrit v 0 = t0.val ∧ byteTrit v 1 = t1.val ∧ byteTrit v 2 = t2.val ∧ byteTrit v 3 = t3.val ∧ byteTrit v 4 = t4.val := by
  have hlt : t0.val + 3 * t1.val + 9 * t2.val + 27 * t3.val + 81 * t4.val < 243 := by omega
  simp only [byteTrit_ofNat hlt]
  omega

/-- Settles O53: MAP 1 by the sign of the byte, and the trits as base-3 digits. -/
theorem bytesMappedAndPacked : Obligations.BytesMappedAndPacked :=
  ⟨fun v => skvMap_false v.toNat, skvMap_true_eq_xor, rfl, rfl, rfl, skvMap_zero, fun m v => skvUnmap_skvMap m v.isLt,
    byteTrit_packed, rfl, rfl, rfl⟩

end Sys2Proof.Machine
end

section
/-!
PROOF. The statements of chapter 04 (precision): the Fin units' commands and widened items (R128, R135 to R138, R185), and
widening notices and storms (R129, R130).
-/
namespace Sys2Proof.Machine

/-! ### Commands and events while the module runs -/

/-- While the module runs, an event of an engine has its effect, and the queue stays. -/
theorem live_of_running {c : Chip} (l : List Instr) (f : Chip → Chip) (hrun : running c = true) :
    live ⟨c, l⟩ f = .next ⟨f c, l⟩ := by
  rw [live_eq, if_pos hrun]

/-- A command that is still to be done is carried out with its job in hand (R178). -/
theorem carriedOut_of_stillToDo {c : Chip} {o : Origin} {e : Engine} {op : Nat} {b : Body} (f : Chip → Chip)
    (htodo : stillToDo c o e op b = true) : carriedOut c o e op b f = f (handTo c o e op b) := if_pos htodo

/-- While the module runs, a command of an engine that is still to be done has its effect with its job in hand. -/
theorem carry_of_stillToDo {c : Chip} {o : Origin} {e : Engine} {op : Nat} {b : Body} (l : List Instr) (f : Chip → Chip)
    (hrun : running c = true) (htodo : stillToDo c o e op b = true) :
    carry ⟨c, l⟩ o e op b f = .next ⟨f (handTo c o e op b), l⟩ := by
  rw [carry, live_of_running l _ hrun, carriedOut_of_stillToDo f htodo]

/-! ### FIN (R135 to R138, R185) -/

/-- A FIN whose fields and ids are in order, with no row refused and no regulator short of credit, does its mode's
arithmetic and is done after its cycles. -/
theorem fin_of_granted {c : Chip} {o : Origin} {b : Body} (met : List BufferError) (hfields : finInvalid b = false)
    (hids : finIdsBad c o b = false)
    (hgrant : (finRuns (startRd c) o b).find? (fun r => (memRefusal c o.part.val r.1 r.2.1 false).isSome) = none)
    (hcredit : runsWait c o.part.val [finRuns (startRd c) o b] = false) :
    fin c o b met = finDone (finClose (finWork c o b met) o) o b (finCycles b) := by
  simp only [fin, hfields, hids, hgrant, hcredit, Bool.false_eq_true, if_false]

/-! ### The widened items (R128) -/

/-- The quad's oldest item is carried out where items go first or no job waits for the unit, and its block is not fenced. -/
theorem finWidenItem_of_first {c : Chip} {q : Fin 16} {i : FinItem} (met : List BufferError)
    (hitem : c.prec.items.find? (fun i => i.blk / 16 == q.val) = some i)
    (hturn : rd c (.fin q.val) Reg.FIN_CFG_WIDEN_FIRST ≠ 0 ∨ (readyJobs c (.fin q)).isEmpty = true)
    (hfence : blockFenced c i.blk = false) :
    finWidenItem c q met = widenItem (dropItem c i) q i met := by
  have hgo : ¬ (rd c (.fin q.val) Reg.FIN_CFG_WIDEN_FIRST = 0 ∧ !(readyJobs c (.fin q)).isEmpty) := by
    rintro ⟨hlast, hjobs⟩
    rcases hturn with hfirst | hidle
    · exact hfirst hlast
    · simp [hidle] at hjobs
  simp only [finWidenItem, hitem, if_neg hgo, hfence, Bool.false_eq_true, if_false]

/-- Settles O4: FIN is carried out with its job in hand, and FIN_WIDEN_ITEM is an event of a running module. -/
theorem finCommandsRun : Obligations.FinCommandsRun := by
  refine ⟨?_, ?_⟩
  · intro c l o b met c' hrun htodo hhand hfields hids hgrant hcredit
    have hexec : exec (.fin o b met) ⟨c, l⟩ = carry ⟨c, l⟩ o (finOf o) 4 b (fun c => fin c o b met) := rfl
    rw [hexec, carry_of_stillToDo l _ hrun htodo, hhand, fin_of_granted met hfields hids hgrant hcredit]
  · intro c l q i met hrun hitem hturn hfence
    have hexec : exec (.finWidenItem q met) ⟨c, l⟩ = live ⟨c, l⟩ (fun c => finWidenItem c q met) := rfl
    rw [hexec, live_of_running l _ hrun, finWidenItem_of_first met hitem hturn hfence]

/-! ### Notices and storm windows (R129, R130) -/

/-- A widen event on its way to the lead quad's front is counted there (R129). -/
theorem widenEventNotice_of_sent {c : Chip} {p : Nat} (hsent : tgetD c.prec.widenSent p 0 ≠ 0) (hlead : leadQuad c p < 16) :
    widenEventNotice c p = widenCounted (widenNoted c p (tgetD c.prec.widenSent p 0)) p :=
  if_neg (not_or.mpr ⟨hsent, Nat.not_le.mpr hlead⟩)

/-- A storm notice on its way to a quad reaches it (R130). -/
theorem stormNotice_of_sent {c : Chip} {q : Nat} (hsent : kmem c.prec.stormSent q = true) :
    stormNotice c q = quadStormed c q := if_pos hsent

/-- A window that has ended rolls over while the partition is there and runs no serving steps (R129). -/
theorem stormWindowRollover_of_ended {c : Chip} {p : Nat} (hpart : partState c p ≠ 0) (hidle : servingOn c p = false)
    (hended : tgetD c.prec.stormAt p 0 + stormLength c p ≤ c.now) :
    stormWindowRollover c p = stormRolled c p (stormLength c p) (tgetD c.prec.stormAt p 0) := by
  have hopen : ¬ (partState c p = 0 ∨ servingOn c p = true) := by simp [hpart, hidle]
  simp only [stormWindowRollover, if_neg hopen, if_neg (Nat.not_lt.mpr hended)]

/-- Settles O5: each of the three is an event of a running module whose condition holds. -/
theorem stormEventsRun : Obligations.StormEventsRun := by
  refine ⟨?_, ?_, ?_⟩
  · intro c l p hrun hsent hlead
    have hexec : exec (.widenEventNotice p) ⟨c, l⟩ = live ⟨c, l⟩ (fun c => widenEventNotice c p.val) := rfl
    rw [hexec, live_of_running l _ hrun, widenEventNotice_of_sent hsent hlead]
  · intro c l q hrun hsent
    have hexec : exec (.stormNotice q) ⟨c, l⟩ = live ⟨c, l⟩ (fun c => stormNotice c q.val) := rfl
    rw [hexec, live_of_running l _ hrun, stormNotice_of_sent hsent]
  · intro c l p hrun hpart hidle hended
    have hexec : exec (.stormWindowRollover p) ⟨c, l⟩ = live ⟨c, l⟩ (fun c => stormWindowRollover c p.val) := rfl
    rw [hexec, live_of_running l _ hrun, stormWindowRollover_of_ended hpart hidle hended]

end Sys2Proof.Machine
end

section
/-!
PROOF. The statements of chapter 05 (scratchpads): what every step and command keeps of the module (R155, R346, R361), the zero
fills (R156 to R158), and the banks' grants, scrub reads and register fills (R149, R162).
-/
namespace Sys2Proof.Machine

/-! ### What a command keeps -/

/-- A part that is named, to be kept at `x`, where the command may not change it. -/
def keptUnless {α : Type} (may : Bool) (x : α) : Option α := if may then none else some x

/-- What the lists of Safety.lean let command `i` change from `s` to `t`: a part of the module on whose list the command does not
stand is kept, and so is the canonical form, where `kw` asks for it. -/
def Keeps (i : Instr) (kw : Prop) (s t : Chip) : Prop :=
  t.Canon kw (keptUnless i.mayTouchClocks s.clocks) (keptUnless i.mayRetire (s.retire, s.slices))
    (keptUnless i.mayTouchSecurity s.sec) (keptUnless i.mayStore s.mem) (keptUnless i.mayTouchPads s.pads)
    (keptUnless i.mayTouchWalkers s.kv)
    ⟨keptUnless i.mayTouchSets s.blocks, keptUnless i.mayTouchQueues s.q, keptUnless i.mayTouchServe s.serve,
      keptUnless i.mayTouchMesh s.mesh, keptUnless i.mayTouchHosts s.hosts, keptUnless i.mayTouchTime (s.now, s.xtal),
      keptUnless i.mayTouchContexts s.slots⟩

theorem keptUnless_of_not {α : Type} {may : Bool} (x : α) (h : may = false) : keptUnless may x = some x := by
  rw [h]; rfl

theorem eq_of_keptUnless {α : Type} {may : Bool} {x : α} : ∀ y, keptUnless may x = some y → y = x := by
  intro y h
  cases may with
  | true => cases h
  | false => exact (Option.some.inj h).symm

/-- A command that changes nothing keeps whatever it must. -/
theorem keeps_self (i : Instr) {kw : Prop} {s : Chip} (h : kw → s.wf = true) : Keeps i kw s s :=
  ⟨h, eq_of_keptUnless, eq_of_keptUnless, eq_of_keptUnless, eq_of_keptUnless, eq_of_keptUnless, eq_of_keptUnless,
    ⟨eq_of_keptUnless, eq_of_keptUnless, eq_of_keptUnless, eq_of_keptUnless, eq_of_keptUnless, eq_of_keptUnless,
      eq_of_keptUnless⟩⟩

/-- Every command keeps the canonical form, and each part of the module on whose list it does not stand: Laws/CanonExec.lean says
it of one command after another. -/
theorem exec_keeps {i : Instr} {kw : Prop} {s t : State} (h : exec i s = .next t) (hw : kw → s.toChip.wf = true) :
    Keeps i kw s.toChip t.toChip := by
  have hs := keeps_self i hw
  cases i with
  | nop => exact exec_canon_nop h hs
  | strokePass => exact exec_canon_strokePass h hs
  | accModeWaitProceed => exact exec_canon_accModeWaitProceed h hs
  | accModeTimeout => exact exec_canon_accModeTimeout h hs
  | readout => exact exec_canon_readout h hs
  | quantise => exact exec_canon_quantise h hs
  | widenEventNotice => exact exec_canon_widenEventNotice h hs
  | stormNotice => exact exec_canon_stormNotice h hs
  | stormWindowRollover => exact exec_canon_stormWindowRollover h hs
  | fin => exact exec_canon_fin h hs
  | finWidenItem => exact exec_canon_finWidenItem h hs
  | zeroFill => exact exec_canon_zeroFill h hs
  | fillComplete => exact exec_canon_fillComplete h hs
  | dmaCopy => exact exec_canon_dmaCopy h hs
  | semSignal => exact exec_canon_semSignal h hs
  | semWait => exact exec_canon_semWait h hs
  | barrier => exact exec_canon_barrier h hs
  | waitTimeout => exact exec_canon_waitTimeout h hs
  | eventHost => exact exec_canon_eventHost h hs
  | weighEnough => exact exec_canon_weighEnough h hs
  | reinAttend => exact exec_canon_reinAttend h hs
  | kvAppend => exact exec_canon_kvAppend h hs
  | pageEditSet => exact exec_canon_pageEditSet h hs
  | pageEditAlloc => exact exec_canon_pageEditAlloc h hs
  | pageEditRelease => exact exec_canon_pageEditRelease h hs
  | pageEditShare => exact exec_canon_pageEditShare h hs
  | pageEditMove => exact exec_canon_pageEditMove h hs
  | walkStart => exact exec_canon_walkStart h hs
  | walkEnd => exact exec_canon_walkEnd h hs
  | retireQueueAdvance => exact exec_canon_retireQueueAdvance h hs
  | skvCompress => exact exec_canon_skvCompress h hs
  | skvDecode => exact exec_canon_skvDecode h hs
  | skvStage => exact exec_canon_skvStage h hs
  | slotUnitWrite => exact exec_canon_slotUnitWrite h hs
  | slotUnitRead => exact exec_canon_slotUnitRead h hs
  | serveSubmit => exact exec_canon_serveSubmit h hs
  | serveCancel => exact exec_canon_serveCancel h hs
  | servePause => exact exec_canon_servePause h hs
  | serveResume => exact exec_canon_serveResume h hs
  | serveEdit => exact exec_canon_serveEdit h hs
  | serveEditComplete => exact exec_canon_serveEditComplete h hs
  | serveAccount => exact exec_canon_serveAccount h hs
  | serveQuery => exact exec_canon_serveQuery h hs
  | serveSample => exact exec_canon_serveSample h hs
  | catchStep => exact exec_canon_catchStep h hs
  | stepFinish => exact exec_canon_stepFinish h hs
  | accountWindowRollover => exact exec_canon_accountWindowRollover h hs
  | moveDue => exact exec_canon_moveDue h hs
  | boathouseMoveComplete => exact exec_canon_boathouseMoveComplete h hs
  | boathouseFetchComplete => exact exec_canon_boathouseFetchComplete h hs
  | ttlExpiry => exact exec_canon_ttlExpiry h hs
  | memUpdate => exact exec_canon_memUpdate h hs
  | memFetch => exact exec_canon_memFetch h hs
  | srnWrite => exact exec_canon_srnWrite h hs
  | srnRead => exact exec_canon_srnRead h hs
  | srnUpdate => exact exec_canon_srnUpdate h hs
  | srnAllreduce => exact exec_canon_srnAllreduce h hs
  | srnSignal => exact exec_canon_srnSignal h hs
  | srnPacketArrival => exact exec_canon_srnPacketArrival h hs
  | srnPacketForward => exact exec_canon_srnPacketForward h hs
  | srnPacketDiscard => exact exec_canon_srnPacketDiscard h hs
  | srnRefusalArrival => exact exec_canon_srnRefusalArrival h hs
  | srnAckArrival => exact exec_canon_srnAckArrival h hs
  | srnAckTimeout => exact exec_canon_srnAckTimeout h hs
  | srnCollTimeout => exact exec_canon_srnCollTimeout h hs
  | srnFrameCrcFail => exact exec_canon_srnFrameCrcFail h hs
  | srnRetrainComplete => exact exec_canon_srnRetrainComplete h hs
  | srnTrainingComplete => exact exec_canon_srnTrainingComplete h hs
  | crewCardReceived => exact exec_canon_crewCardReceived h hs
  | srnRetrain => exact exec_canon_srnRetrain h hs
  | cableInsert => exact exec_canon_cableInsert h hs
  | cableRemove => exact exec_canon_cableRemove h hs
  | twinRoleWrite => exact exec_canon_twinRoleWrite h hs
  | twinRetireFree => exact exec_canon_twinRetireFree h hs
  | roleNoticeReceived => exact exec_canon_roleNoticeReceived h hs
  | mirrorWriteArrival => exact exec_canon_mirrorWriteArrival h hs
  | twinLinkLoss => exact exec_canon_twinLinkLoss h hs
  | place => exact exec_canon_place h hs
  | commandFetch => exact exec_canon_commandFetch h hs
  | preemptPointReached => exact exec_canon_preemptPointReached h hs
  | spillComplete => exact exec_canon_spillComplete h hs
  | resumeStart => exact exec_canon_resumeStart h hs
  | restoreComplete => exact exec_canon_restoreComplete h hs
  | engineDispatch => exact exec_canon_engineDispatch h hs
  | commandRetire => exact exec_canon_commandRetire h hs
  | bankGrant => exact exec_canon_bankGrant h hs
  | bankScrubRead => exact exec_canon_bankScrubRead h hs
  | sqDoorbell => exact exec_canon_sqDoorbell h hs
  | queueEnable => exact exec_canon_queueEnable h hs
  | queueResume => exact exec_canon_queueResume h hs
  | queueReset => exact exec_canon_queueReset h hs
  | sqCqHeadWrite => exact exec_canon_sqCqHeadWrite h hs
  | sqHostSignal => exact exec_canon_sqHostSignal h hs
  | zeroFillGo => exact exec_canon_zeroFillGo h hs
  | pwModelLoad => exact exec_canon_pwModelLoad h hs
  | pwFreeWrite => exact exec_canon_pwFreeWrite h hs
  | skvCtxLoad => exact exec_canon_skvCtxLoad h hs
  | hbmRangeWrite => exact exec_canon_hbmRangeWrite h hs
  | tbSliceWrite => exact exec_canon_tbSliceWrite h hs
  | girthCfgWrite => exact exec_canon_girthCfgWrite h hs
  | girthRefill => exact exec_canon_girthRefill h hs
  | retireAccept => exact exec_canon_retireAccept h hs
  | retireCopyStart => exact exec_canon_retireCopyStart h hs
  | retireCopyComplete => exact exec_canon_retireCopyComplete h hs
  | patrolScrubRead => exact exec_canon_patrolScrubRead h hs
  | tbSelfRefreshEntry => exact exec_canon_tbSelfRefreshEntry h hs
  | tierInitComplete => exact exec_canon_tierInitComplete h hs
  | releaseScrubComplete => exact exec_canon_releaseScrubComplete h hs
  | create => exact exec_canon_create h hs
  | partitionCreated => exact exec_canon_partitionCreated h hs
  | partitionReset => exact exec_canon_partitionReset h hs
  | release => exact exec_canon_release h hs
  | reclaim => exact exec_canon_reclaim h hs
  | teardown => exact exec_canon_teardown h hs
  | holdExpiry => exact exec_canon_holdExpiry h hs
  | functionLevelReset => exact exec_canon_functionLevelReset h hs
  | perstAssert => exact exec_canon_perstAssert h hs
  | perstDeassert => exact exec_canon_perstDeassert h hs
  | surpriseLinkLoss => exact exec_canon_surpriseLinkLoss h hs
  | linkUp => exact exec_canon_linkUp h hs
  | hostCompletionTimeout => exact exec_canon_hostCompletionTimeout h hs
  | configRequest => exact exec_canon_configRequest h hs
  | bar2Read => exact exec_canon_bar2Read h hs
  | bar2Write => exact exec_canon_bar2Write h hs
  | spadWindowRead => exact exec_canon_spadWindowRead h hs
  | spadWindowWrite => exact exec_canon_spadWindowWrite h hs
  | atomicOpRequest => exact exec_canon_atomicOpRequest h hs
  | ideIntegrityFail => exact exec_canon_ideIntegrityFail h hs
  | ideKm => exact exec_canon_ideKm h hs
  | spdmRequest => exact exec_canon_spdmRequest h hs
  | secSvnCommit => exact exec_canon_secSvnCommit h hs
  | openOperator => exact exec_canon_openOperator h hs
  | closeOperator => exact exec_canon_closeOperator h hs
  | nonceNew => exact exec_canon_nonceNew h hs
  | token => exact exec_canon_token h hs
  | supplement => exact exec_canon_supplement h hs
  | debugRead => exact exec_canon_debugRead h hs
  | bootChain => exact exec_canon_bootChain h hs
  | faultRecordArrival => exact exec_canon_faultRecordArrival h hs
  | faultPulseEnd => exact exec_canon_faultPulseEnd h hs
  | graceExpiry => exact exec_canon_graceExpiry h hs
  | fcAck => exact exec_canon_fcAck h hs
  | fenceRelease => exact exec_canon_fenceRelease h hs
  | fenceTestComplete => exact exec_canon_fenceTestComplete h hs
  | d2dCrcRetry => exact exec_canon_d2dCrcRetry h hs
  | d2dRetrainComplete => exact exec_canon_d2dRetrainComplete h hs
  | coxWatchdog => exact exec_canon_coxWatchdog h hs
  | pwrEnAssert => exact exec_canon_pwrEnAssert h hs
  | pwrEnDeassert => exact exec_canon_pwrEnDeassert h hs
  | inputGood => exact exec_canon_inputGood h hs
  | hotswapTrip => exact exec_canon_hotswapTrip h hs
  | inputRangeExcursion => exact exec_canon_inputRangeExcursion h hs
  | thermalSample => exact exec_canon_thermalSample h hs
  | pmThermalTrip => exact exec_canon_pmThermalTrip h hs
  | pmRailTrip => exact exec_canon_pmRailTrip h hs
  | crystalStable => exact exec_canon_crystalStable h hs
  | pmCrystalFail => exact exec_canon_pmCrystalFail h hs
  | blockClockGate => exact exec_canon_blockClockGate h hs
  | blockRetainTimeout => exact exec_canon_blockRetainTimeout h hs
  | blockOffTimeout => exact exec_canon_blockOffTimeout h hs
  | blockWakeComplete => exact exec_canon_blockWakeComplete h hs
  | bankPowerUp => exact exec_canon_bankPowerUp h hs
  | bankIdleReturn => exact exec_canon_bankIdleReturn h hs
  | regionSleep => exact exec_canon_regionSleep h hs
  | regionWakeComplete => exact exec_canon_regionWakeComplete h hs
  | standby => exact exec_canon_standby h hs
  | standbyEntryComplete => exact exec_canon_standbyEntryComplete h hs
  | wake => exact exec_canon_wake h hs
  | alarmWake => exact exec_canon_alarmWake h hs
  | wakeRestoreComplete => exact exec_canon_wakeRestoreComplete h hs
  | memoryTrainingComplete => exact exec_canon_memoryTrainingComplete h hs
  | telemetrySample => exact exec_canon_telemetrySample h hs
  | mgmtOverride => exact exec_canon_mgmtOverride h hs
  | mctpStandby => exact exec_canon_mctpStandby h hs
  | mctpToken => exact exec_canon_mctpToken h hs
  | faultRead => exact exec_canon_faultRead h hs
  | telemetryRead => exact exec_canon_telemetryRead h hs
  | status => exact exec_canon_status h hs
  | mctpUnsupportedCmd => exact exec_canon_mctpUnsupportedCmd h hs
  | setEndpointId => exact exec_canon_setEndpointId h hs
  | i3cDynamicAddress => exact exec_canon_i3cDynamicAddress h hs
  | rstdaa => exact exec_canon_rstdaa h hs
  | slEnableWrite => exact exec_canon_slEnableWrite h hs
  | pageQuiesce => exact exec_canon_pageQuiesce h hs
  | pageEnableWrite => exact exec_canon_pageEnableWrite h hs
  | localReset => exact exec_canon_localReset h hs
  | irqStatClear => exact exec_canon_irqStatClear h hs
  | irqSet => exact exec_canon_irqSet h hs
  | interruptMaskWrite => exact exec_canon_interruptMaskWrite h hs
  | errInject => exact exec_canon_errInject h hs
  | countClear => exact exec_canon_countClear h hs
  | latchingLoRead => exact exec_canon_latchingLoRead h hs
  | registerWrite => exact exec_canon_registerWrite h hs
  | srnSignalLoss => exact exec_canon_srnSignalLoss h hs
  | srnSignalDetect => exact exec_canon_srnSignalDetect h hs
  | functionReadinessStatus => exact exec_canon_functionReadinessStatus h hs
  | debugPortUnlock => exact exec_canon_debugPortUnlock h hs
  | jtagAccess => exact exec_canon_jtagAccess h hs

/-- Every command's meaning is a change of the module (R8): it answers a next state, with the queue unchanged. -/
theorem exec_eq_next (i : Instr) (s : State) : ∃ c, exec i s = .next ⟨c, s.pending⟩ := by
  cases i <;> exact ⟨_, rfl⟩

theorem exec_pending {i : Instr} {s t : State} (h : exec i s = .next t) : t.pending = s.pending := by
  obtain ⟨c, hc⟩ := exec_eq_next i s
  rw [hc] at h
  cases h
  rfl

theorem exec_wf {i : Instr} {s t : State} (h : exec i s = .next t) (hw : s.toChip.wf = true) : t.toChip.wf = true :=
  (exec_keeps h fun _ : True => hw).w trivial

/-! ### The canonical form along a run -/

/-- Settles O38: right after reset nothing is listed, and nothing waits. -/
theorem wfReset : Obligations.WfReset := ⟨wf_reset, rfl⟩

theorem step_of_nil {s : State} (h : s.pending = []) : step s = act s tick := by
  simp only [step, h]

theorem step_of_cons {s : State} {i : Instr} {rest : List Instr} (h : s.pending = i :: rest) :
    step s = exec i (s.withPending rest) := by
  simp only [step, h]

theorem tick_wf {c : Chip} (h : c.wf = true) : (tick c).wf = true :=
  (canon_tick (canon_form fun _ : True => h)).w trivial

/-- What waits behind a well-formed command is well formed. -/
theorem queueWf_tail {s : State} {i : Instr} {rest : List Instr} (h : s.pending = i :: rest) (hq : s.queueWf = true) :
    rest.all Instr.wf = true := by
  rw [State.queueWf, h, List.all_cons, Bool.and_eq_true] at hq
  exact hq.2

/-- Settles O39: a step is a tick of local time, or the front command with the rest of the queue. -/
theorem wfKept : Obligations.WfKept := by
  intro s t hwf hqueue hstep
  cases hp : s.pending with
  | nil =>
    rw [step_of_nil hp, act_eq] at hstep
    cases hstep
    exact ⟨tick_wf hwf, hqueue⟩
  | cons i rest =>
    rw [step_of_cons hp] at hstep
    refine ⟨exec_wf hstep hwf, ?_⟩
    rw [State.queueWf, exec_pending hstep]
    exact queueWf_tail hp hqueue

/-! ### Scratchpads and accumulator files -/

theorem exec_pads {i : Instr} {s t : State} (h : exec i s = .next t) (hno : i.mayTouchPads = false) : t.pads = s.pads :=
  ((exec_keeps h False.elim).cp _ (keptUnless_of_not _ hno)).symm

theorem exec_blocks {i : Instr} {s t : State} (h : exec i s = .next t) (hno : i.mayTouchSets = false) : t.blocks = s.blocks :=
  ((exec_keeps h False.elim).cx.b _ (keptUnless_of_not _ hno)).symm

/-- A bank is a matter of the table of banks alone. -/
theorem bank_congr {s t : Chip} (h : t.pads = s.pads) (b : Nat) : bank t b = bank s b := by
  rw [bank, bank, h]

/-- So is what a run of a scratchpad reads as. -/
theorem padRead_congr {s t : Chip} (h : t.pads = s.pads) (r a n : Nat) : padRead t r a n = padRead s r a n := by
  have hbyte : padByte t r = padByte s r := funext fun x => by rw [padByte, padByte, bank_congr h]
  rw [padRead, padRead, hbyte]

/-- Settles O41: both parts stand among those that `exec_keeps` keeps. -/
theorem padsAndSetsKept : Obligations.PadsAndSetsKept :=
  ⟨fun _ _ _ hno h => ⟨exec_pads h hno, padRead_congr (exec_pads h hno)⟩, fun _ _ _ hno h => exec_blocks h hno⟩

/-! ### Resets narrower than a cold one (Table 12-3) -/

theorem exec_retire_slices {i : Instr} {s t : State} (h : exec i s = .next t) (hno : i.mayRetire = false) :
    (t.retire, t.slices) = (s.retire, s.slices) :=
  ((exec_keeps h False.elim).cr _ (keptUnless_of_not _ hno)).symm

theorem exec_slots {i : Instr} {s t : State} (h : exec i s = .next t) (hno : i.mayTouchContexts = false) : t.slots = s.slots :=
  ((exec_keeps h False.elim).cx.c _ (keptUnless_of_not _ hno)).symm

theorem exec_sec {i : Instr} {s t : State} (h : exec i s = .next t) (hno : i.mayTouchSecurity = false) : t.sec = s.sec :=
  ((exec_keeps h False.elim).cs _ (keptUnless_of_not _ hno)).symm

theorem exec_clocks {i : Instr} {s t : State} (h : exec i s = .next t) (hno : i.mayTouchClocks = false) :
    t.toChip.clocks = s.toChip.clocks :=
  ((exec_keeps h False.elim).ct _ (keptUnless_of_not _ hno)).symm

/-- A reset of Instr.resets stands on none of the lists of retirements, contexts, security and clocks; of the banks, only a
queue's does. -/
theorem resets_scope {i : Instr} (h : i.resets = true) : i.mayRetire = false ∧ i.mayTouchContexts = false ∧
    i.mayTouchSecurity = false ∧ i.mayTouchClocks = false ∧
    ((∀ via p n e, i ≠ .queueReset via p n e) → i.mayTouchPads = false) := by
  cases i with
  | queueReset via p n e => exact ⟨rfl, rfl, rfl, rfl, fun hne => absurd rfl (hne via p n e)⟩
  | perstAssert | surpriseLinkLoss | functionLevelReset | release | reclaim | teardown | holdExpiry | partitionReset
  | fenceTestComplete => exact ⟨rfl, rfl, rfl, rfl, fun _ => rfl⟩
  | _ => exact absurd h Bool.false_ne_true

/-- Settles O46: each part that the statement names is kept by every command that does not stand on its list. -/
theorem scopesKeep : Obligations.ScopesKeep := by
  intro i s t hreset h
  obtain ⟨hretire, hcontexts, hsecurity, hclocks, hpads⟩ := resets_scope hreset
  obtain ⟨hretired, hslices⟩ := Prod.mk.inj (exec_retire_slices h hretire)
  have hclock := exec_clocks h hclocks
  simp only [Chip.clocks, Prod.mk.injEq] at hclock
  obtain ⟨hnow, hxtal, -, -, -, -, -, -, hbus⟩ := hclock
  exact ⟨hslices, hretired, exec_slots h hcontexts, exec_sec h hsecurity, hnow, hxtal, hbus, fun hne => exec_pads h (hpads hne)⟩

/-! ### The bytes of a bank after a fill (R156) -/

/-- What a table reads after a filter on its keys. -/
theorem tget_tkeep {α : Type} (m : Table α) (p : Nat → Bool) (k : Nat) :
    tget (tkeep m p) k = if p k = true then tget m k else none := by
  induction m with
  | nil => simp [tkeep, tget]
  | cons e m ih =>
    obtain ⟨j, a⟩ := e
    simp only [tkeep] at ih
    by_cases hj : j = k
    · subst hj
      cases hp : p j <;> simp [tkeep, tget, hp, ih]
    · cases hp : p j <;> simp [tkeep, tget, hp, ih, hj]

theorem le_foldl_max (l : List (Nat × Nat)) (a : Nat) :
    a ≤ l.foldl (fun x e => max x e.2) a ∧ ∀ e ∈ l, e.2 ≤ l.foldl (fun x e => max x e.2) a := by
  induction l generalizing a with
  | nil => simp
  | cons e l ih =>
    obtain ⟨hstart, hrest⟩ := ih (max a e.2)
    refine ⟨le_trans (le_max_left _ _) hstart, fun x hx => ?_⟩
    rcases List.mem_cons.mp hx with rfl | hx
    · exact le_trans (le_max_right _ _) hstart
    · exact hrest x hx

/-- The merged ranges cover the range added, and all that was covered before. -/
theorem addRange_keeps {l : List (Nat × Nat)} {a b o : Nat}
    (h : l.any (fun e => decide (e.1 ≤ o ∧ o < e.2)) = true ∨ (a ≤ o ∧ o < b)) :
    (addRange l a b).any (fun e => decide (e.1 ≤ o ∧ o < e.2)) = true := by
  have hlo := foldl_min_le (l.filter (fun e => decide (e.1 ≤ b ∧ a ≤ e.2))) a
  have hhi := le_foldl_max (l.filter (fun e => decide (e.1 ≤ b ∧ a ≤ e.2))) b
  simp only [addRange, List.any_append, List.any_cons, List.any_nil, Bool.or_false, Bool.or_eq_true, decide_eq_true_eq]
  rcases h with h | h
  · obtain ⟨e, he, ho⟩ := List.any_eq_true.mp h
    have ho := of_decide_eq_true ho
    by_cases hbelow : e.2 < a
    · exact .inl (.inl (List.any_eq_true.mpr ⟨e, List.mem_filter.mpr ⟨he, decide_eq_true hbelow⟩, decide_eq_true ho⟩))
    by_cases habove : b < e.1
    · exact .inr (List.any_eq_true.mpr ⟨e, List.mem_filter.mpr ⟨he, decide_eq_true habove⟩, decide_eq_true ho⟩)
    have hmeets : e ∈ l.filter (fun e => decide (e.1 ≤ b ∧ a ≤ e.2)) :=
      List.mem_filter.mpr ⟨he, decide_eq_true ⟨Nat.not_lt.mp habove, Nat.not_lt.mp hbelow⟩⟩
    exact .inl (.inr ⟨le_trans (hlo.2 e hmeets) ho.1, lt_of_lt_of_le ho.2 (hhi.2 e hmeets)⟩)
  · exact .inl (.inr ⟨le_trans hlo.1 h.1, lt_of_lt_of_le h.2 hhi.1⟩)

/-- What no write has reached reads zero in the range of a fill. -/
theorem bankGround_bankZero_in (x : Bank) {first last k : Nat} (b : Nat) (hk : first ≤ k ∧ k < last) :
    bankGround (bankZero x first last) b k = 0 := by
  by_cases hz : (first = 0 ∧ last = bankSize) ∨ x.fill = .zero
  · have hfill : (bankZero x first last).fill = .zero := by
      rcases hz with hwhole | hzero
      · exact if_pos hwhole
      · simp [bankZero, hzero]
    simp [bankGround, hfill]
  · have hcover : zeroedAt (bankZero x first last) k = true := by
      simp only [zeroedAt, bankZero, if_neg hz]
      exact addRange_keeps (.inr hk)
    rw [bankGround, hcover, if_pos rfl]

/-- Outside the range of a fill, which is not the whole bank, what no write has reached reads as before. -/
theorem bankGround_bankZero_out (x : Bank) {first last k : Nat} (b : Nat) (hwhole : ¬ (first = 0 ∧ last = bankSize))
    (hk : ¬ (first ≤ k ∧ k < last)) : bankGround (bankZero x first last) b k = bankGround x b k := by
  have hfill : (bankZero x first last).fill = x.fill := if_neg hwhole
  by_cases hz : x.fill = .zero
  · simp [bankGround, hfill, hz]
  · have hcover : zeroedAt (bankZero x first last) k = zeroedAt x k := by
      have hz : ¬ ((first = 0 ∧ last = bankSize) ∨ x.fill = .zero) := not_or.mpr ⟨hwhole, hz⟩
      simp only [zeroedAt, bankZero, if_neg hz]
      exact Bool.eq_iff_iff.mpr ⟨fun h => (addRange_covers _ _ _ _ h).resolve_right hk, fun h => addRange_keeps (.inl h)⟩
    rw [bankGround, bankGround, hcover, hfill]

/-- A fill leaves the listed bytes outside its range. -/
theorem tget_bankZero_cells (x : Bank) {first last k : Nat} (hwhole : ¬ (first = 0 ∧ last = bankSize)) :
    tget (bankZero x first last).cells k = if first ≤ k ∧ k < last then none else tget x.cells k := by
  have hcells : (bankZero x first last).cells = tkeep x.cells (fun o => !(decide (first ≤ o ∧ o < last))) := by
    simp only [bankZero, if_neg hwhole, tkeep]
  rw [hcells, tget_tkeep]
  by_cases hk : first ≤ k ∧ k < last <;> simp [hk]

/-- After a fill every byte of its range is zero (R156). -/
theorem bankByte_bankZero_in (x : Bank) {first last k : Nat} (b : Nat) (hk : first ≤ k ∧ k < last) :
    bankByte (bankZero x first last) b k = 0 := by
  have hcell : tget (bankZero x first last).cells k = none := by
    by_cases hwhole : first = 0 ∧ last = bankSize
    · simp [bankZero, hwhole, tget]
    · rw [tget_bankZero_cells x hwhole, if_pos hk]
  rw [bankByte, tgetD, hcell]
  exact bankGround_bankZero_in x b hk

/-- After a fill every other byte of the bank is as before. -/
theorem bankByte_bankZero_out (x : Bank) {first last k : Nat} (b : Nat) (hsize : k < bankSize) (hk : k < first ∨ last ≤ k) :
    bankByte (bankZero x first last) b k = bankByte x b k := by
  have hwhole : ¬ (first = 0 ∧ last = bankSize) := by omega
  have hout : ¬ (first ≤ k ∧ k < last) := by omega
  rw [bankByte, bankByte, bankGround_bankZero_out x b hwhole hout, tgetD, tgetD, tget_bankZero_cells x hwhole, if_neg hout]

/-! ### The end of a fill through the page (R156) -/

@[simp] theorem bank_setBank_same (s : Chip) (b : Nat) (f : Bank → Bank) : bank (setBank s b f) b = f (bank s b) :=
  tgetD_tset_same _ _ _ _

/-- An access to a bank that is not OFF changes no bank (R163). -/
theorem bankTouch_pads {s : Chip} {b : Nat} (h : rd s (.spb b) Reg.SPB_STAT_POWER ≠ 3) : (bankTouch s b).pads = s.pads := by
  simp only [bankTouch, if_neg h]
  split <;> rfl

/-- The fill's effect on its bank, where the bank is not OFF. -/
theorem bank_fillBank {s : Chip} {f : BankFill} (h : rd s (.spb f.bank) Reg.SPB_STAT_POWER ≠ 3) :
    bank (fillBank s f) f.bank = bankZero (bank s f.bank) f.first f.last := by
  have hpads : (fillBank s f).pads =
      (setBank (bankTouch s f.bank) f.bank (fun x => bankZero x f.first f.last)).pads := by
    unfold fillBank
    split <;> rfl
  rw [bank_congr hpads, bank_setBank_same, bank_congr (bankTouch_pads h)]

theorem bank_fillOver {s : Chip} {f : BankFill} (h : rd s (.spb f.bank) Reg.SPB_STAT_POWER ≠ 3) :
    bank (fillOver s f.bank f) f.bank = bankZero (bank s f.bank) f.first f.last := by
  have hpads : (fillOver s f.bank f).pads = (fillBank { s with fills := s.fills.erase f } f).pads := by
    simp only [fillOver, wr_pads]
    split <;> rfl
  have hpower : rd { s with fills := s.fills.erase f } (.spb f.bank) Reg.SPB_STAT_POWER ≠ 3 := h
  rw [bank_congr hpads, bank_fillBank hpower]
  rfl

theorem fillOver_mem (s : Chip) (b : Nat) (f : BankFill) : (fillOver s b f).mem = s.mem :=
  ((canon_fillOver (kw := False) (s := s) ⟨False.elim, noneOnly _, noneOnly _, noneOnly _, someOnly _, noneOnly _, noneOnly _,
    kept_none _⟩).cm _ rfl).symm

/-- Setting a flag, and the page's vector that may follow it (R487), changes neither external memory nor a bank. -/
theorem setFlag_mem_pads (s : Chip) (pg : Page) (f : Field) : (setFlag s pg f).mem = s.mem ∧ (setFlag s pg f).pads = s.pads := by
  have hkept := canon_setFlag (kw := False) (s := s) (pg := pg) (f := f) ⟨False.elim, noneOnly _, noneOnly _, noneOnly _,
    someOnly _, someOnly _, noneOnly _, kept_none _⟩
  exact ⟨(hkept.cm _ rfl).symm, (hkept.cp _ rfl).symm⟩

/-- The end of a fill through the page: its bank shows ZF_DONE. -/
theorem fillComplete_of_page {c : Chip} {b : Nat} {f : BankFill} (hfill : c.fills.find? (fun f => f.bank == b) = some f)
    (hfence : bankFenced c b = false) (hpage : f.origin = none) :
    fillComplete c b = setFlag (fillOver c b f) (.spb b) Reg.SPB_IRQ_STAT_ZF_DONE := by
  simp only [fillComplete, hfill, hfence, hpage, Bool.false_eq_true, if_false]

/-- Settles O58: the fill's bank is what `bankZero` leaves, and no later part of the command reaches a bank. -/
theorem fillZeroes : Obligations.FillZeroes := by
  intro c l b f hrun hfill hfence hpage hrange hpower
  have hbank : f.bank = b.val := by simpa using List.find?_some hfill
  have hexec : exec (.fillComplete b) ⟨c, l⟩ = live ⟨c, l⟩ (fun c => fillComplete c b.val) := rfl
  rw [hexec, live_of_running l _ hrun, fillComplete_of_page hfill hfence hpage]
  obtain ⟨hmem, hpads⟩ := setFlag_mem_pads (fillOver c b.val f) (.spb b.val) Reg.SPB_IRQ_STAT_ZF_DONE
  refine ⟨_, rfl, ?_⟩
  rw [bank_congr hpads, hmem, fillOver_mem, ← hbank, bank_fillOver (hbank ▸ hpower)]
  exact ⟨fun k hlo hhi => bankByte_bankZero_in _ _ ⟨hlo, hhi⟩, fun k hout hsize => bankByte_bankZero_out _ _ hsize hout, rfl⟩

/-! ### Grants, scrub reads and register fills (R149, R156, R162) -/

theorem bankGrant_of_chosen {c : Chip} {b : Nat} {waiting : List BankAccess} {a : BankAccess} (met : Ecc)
    (hfence : bankFenced c b = false)
    (hchosen : chooseAccess (fun k => tgetD c.bankTurn (b * 8 + k) 0) waiting = some a) :
    bankGrant c b waiting met = grantAccess c b a met := by
  simp only [bankGrant, hfence, hchosen, Bool.false_eq_true, if_false]

theorem bankScrubRead_of_awake {c : Chip} {b : Nat} (met : Ecc) (hon : rd c (.spb b) Reg.SPB_CFG_SCRUB_EN ≠ 0)
    (hfence : bankFenced c b = false) (hawake : rd c (.spb b) Reg.SPB_STAT_POWER = 0) :
    bankScrubRead c b met = scrubNext c b met :=
  if_neg (by simp [hon, hfence, hawake])

/-- ZERO_FILL_GO of a bank that is neither fenced nor BUSY turns on whether its range is empty. -/
theorem zeroFillGo_of_idle {c : Chip} {b : Nat} (hfence : bankFenced c b = false)
    (hidle : rd c (.spb b) Reg.SPB_ZF_STAT_BUSY ≠ 1) :
    zeroFillGo c b = if rd c (.spb b) Reg.SPB_ZF_RANGE_LAST < rd c (.spb b) Reg.SPB_ZF_RANGE_FIRST then
      setFlag (wr c (.spb b) Reg.SPB_ZF_STAT_DONE 1) (.spb b) Reg.SPB_IRQ_STAT_ZF_DONE else startRegFill c b :=
  if_neg (by simp [hfence, hidle])

/-- A register of the host driver that answers while the module runs has its effect where both hold. -/
theorem drivenLive_of_open {c : Chip} (l : List Instr) (f : Chip → Chip) (hrun : running c = true) (hopen : driverOpen c = true) :
    drivenLive ⟨c, l⟩ f = .next ⟨f c, l⟩ := by
  rw [drivenLive_eq, if_pos hrun, if_pos hopen]

/-- Settles O19: grants and scrub reads are events of a running module, and ZERO_FILL_GO is a write of the host driver. -/
theorem bankEventsRun : Obligations.BankEventsRun := by
  have hgo : ∀ (c : Chip) (l : List Instr) (b : Fin 256), running c = true → driverOpen c = true →
      exec (.zeroFillGo b) ⟨c, l⟩ = .next ⟨zeroFillGo c b.val, l⟩ := fun c l b => drivenLive_of_open l _
  refine ⟨?_, ?_, ?_, ?_⟩
  · intro c l b waiting met a hrun hfence hchosen
    have hexec : exec (.bankGrant b waiting met) ⟨c, l⟩ = live ⟨c, l⟩ (fun c => bankGrant c b.val waiting met) := rfl
    rw [hexec, live_of_running l _ hrun, bankGrant_of_chosen met hfence hchosen]
  · intro c l b met hrun hon hfence hawake
    have hexec : exec (.bankScrubRead b met) ⟨c, l⟩ = live ⟨c, l⟩ (fun c => bankScrubRead c b.val met) := rfl
    rw [hexec, live_of_running l _ hrun, bankScrubRead_of_awake met hon hfence hawake]
  · intro c l b hrun hopen hfence hidle hrange
    rw [hgo c l b hrun hopen, zeroFillGo_of_idle hfence hidle, if_neg (Nat.not_lt.mpr hrange)]
  · intro c l b hrun hopen hfence hidle hempty
    rw [hgo c l b hrun hopen, zeroFillGo_of_idle hfence hidle, if_pos hempty]

end Sys2Proof.Machine
end

section
/-!
PROOF. The statements of chapter 06 (commands): synchronisation and queue control (R177, R190 to R197), the commands of the Stroke
array, the Burnishers and the DMA engines (R181 to R187, R330 to R333), fetch, dispatch and retirement (R169, R179, R205), and the
writes of a queue page (R168 to R199).
-/
namespace Sys2Proof.Machine

/-! ### Commands that were cancelled, and accesses through a function -/

/-- A command that was cancelled after its issue is passed over (R178). -/
theorem carry_of_cancelled {c : Chip} {o : Origin} {e : Engine} {op : Nat} {b : Body} (l : List Instr) (f : Chip → Chip)
    (hrun : running c = true) (hgone : stillToDo c o e op b = false) :
    carry ⟨c, l⟩ o e op b f = .next ⟨passOver c o op b, l⟩ := by
  have hover : carriedOut c o e op b f = passOver c o op b := if_neg (by simp [hgone])
  rw [carry, live_of_running l _ hrun, hover]

/-- A register of a function that answers while the module runs has its effect where both hold. -/
theorem throughLive_of_open {c : Chip} {via : Via} (l : List Instr) (f : Chip → Chip) (hrun : running c = true)
    (hopen : viaOpen c via = true) : throughLive ⟨c, l⟩ via f = .next ⟨f c, l⟩ := by
  rw [throughLive_eq, if_pos hrun, if_pos hopen]

/-! ### Semaphores (R191, R192) -/

theorem semVal_congr {s t : Chip} (h : s.q.sems = t.q.sems) (n : Nat) : semVal s n = semVal t n := by
  rw [semVal, semVal, h]

theorem handTo_sems (s : Chip) (o : Origin) (e : Engine) (op : Nat) (b : Body) : (handTo s o e op b).q.sems = s.q.sems := by
  unfold handTo
  split <;> rfl

/-- Where no wait is on the semaphore, its examination satisfies none (R192). -/
theorem semExamine_of_unwaited {s : Chip} {n : Nat}
    (hfree : ∀ w ∈ s.q.waits, ∀ m thresh consume, w.on = .sem m thresh consume → m ≠ n) : semExamine s n = s := by
  unfold semExamine
  rw [List.foldl_ext (g := fun t _ => t), List.foldl_fixed]
  intro t w hw
  cases hon : w.on with
  | sem m thresh consume => exact if_neg fun h => hfree w hw m thresh consume hon h.1
  | bar => rfl

/-- SEM_SIGNAL's change where nothing waits (R191): the value is set or added to, and an addition that would pass the largest value
faults the job. -/
theorem signalSem_of_unwaited {s : Chip} {o : Origin} {n v x : Nat} {set : Bool}
    (hfree : ∀ w ∈ s.q.waits, ∀ m thresh consume, w.on = .sem m thresh consume → m ≠ n)
    (hx : (if set = true then v else min (semVal s n + v) semTop) = x) :
    signalSem s o n v set =
      if set = false ∧ semTop < semVal s n + v then faultQueue (semSet s n x) o 0x46 else semSet s n x := by
  have hexamined (y : Nat) : semExamine (semSet s n y) n = semSet s n y := semExamine_of_unwaited hfree
  subst hx
  cases set with
  | true => simp [signalSem, hexamined]
  | false => simp [signalSem, semAdd, hexamined]

/-- SEM_SIGNAL of a semaphore of its partition, once the earlier commands of its job have retired (R191). -/
theorem semSignal_of_owned {s : Chip} {o : Origin} {b : Body} (hfollow : mayFollow s o (syncOf o) 0x10 b = true)
    (hown : semOwned s o.part.val (bf b 0x10 15 0) = true) :
    semSignal s o b = syncDone (signalSem s o (bf b 0x10 15 0) (bw b 0x14) (bb b 0x10 16)) o 0x10 b := by
  simp only [semSignal, hfollow, hown, Bool.not_true, Bool.false_eq_true, if_false, if_true]

theorem exec_semSignal {c : Chip} {o : Origin} {b : Body} (l : List Instr) (hrun : running c = true)
    (htodo : stillToDo c o (syncOf o) 0x10 b = true) :
    exec (.semSignal o b) ⟨c, l⟩ = .next ⟨semSignal (handTo c o (syncOf o) 0x10 b) o b, l⟩ :=
  carry_of_stillToDo l _ hrun htodo

/-- Settles O52: with nothing waiting, the signal writes its one semaphore, and neither the fault nor the command's end touches
any. -/
theorem semaphoreSignalled : Obligations.SemaphoreSignalled := by
  intro c d l o b n v x hrun htodo hhand hfollow hn hv hown hwaits hsorted hx
  have hval (m : Nat) : semVal c m = semVal d m := semVal_congr (hhand ▸ handTo_sems c o _ _ b).symm m
  have hfree : ∀ w ∈ d.q.waits, ∀ m thresh consume, w.on = .sem m thresh consume → m ≠ n := by
    intro w hw m thresh consume hon
    simpa [hon] using List.all_eq_true.mp hwaits w hw
  rw [hval] at hx
  rw [exec_semSignal l hrun htodo, hhand, semSignal_of_owned hfollow (hn ▸ hown), hn, hv, signalSem_of_unwaited hfree hx, hval]
  have hsems (p : Prop) [Decidable p] :
      Sems (semSet d n x).q.sems (syncDone (if p then faultQueue (semSet d n x) o 0x46 else semSet d n x) o 0x10 b) := by
    apply sems_syncDone
    split
    · exact sems_faultQueue rfl
    · rfl
  refine ⟨_, rfl, ?_, fun m hm => ?_, rfl⟩
  · rw [semVal_congr (hsems _), semVal_semSet_same d n x hsorted]
  · rw [semVal_congr (hsems _), semVal_semSet_ne d n m x hm, hval]

/-! ### NOP, SEM_WAIT, barriers, host events and WEIGH_ENOUGH (R177, R192 to R197) -/

/-- SEM_WAIT of a semaphore that has reached its threshold takes it where DEC is set, and is done (R192). -/
theorem semWait_of_reached {s : Chip} {o : Origin} {b : Body} (hown : semOwned s o.part.val (bf b 0x10 15 0) = true)
    (hreached : bw b 0x14 ≤ semVal s (bf b 0x10 15 0)) :
    semWait s o b = syncDone (if bb b 0x10 16 then semSet s (bf b 0x10 15 0) (semVal s (bf b 0x10 15 0) - bw b 0x14) else s) o 0x11 b := by
  simp only [semWait, hown, if_pos hreached, Bool.not_true, Bool.false_eq_true, if_false]

/-- SEM_WAIT of a semaphore below its threshold waits (R192). -/
theorem semWait_of_below {s : Chip} {o : Origin} {b : Body} (hown : semOwned s o.part.val (bf b 0x10 15 0) = true)
    (hbelow : semVal s (bf b 0x10 15 0) < bw b 0x14) :
    semWait s o b = addWait (charge s (syncOf o) o 1) o b (.sem (bf b 0x10 15 0) (bw b 0x14) (bb b 0x10 16)) := by
  simp only [semWait, hown, if_neg (Nat.not_le.mpr hbelow), Bool.not_true, Bool.false_eq_true, if_false]

/-- A barrier command that has not arrived meets its counter once an arrival may follow its job's earlier commands (R193). -/
theorem barrier_of_new {s : Chip} {o : Origin} {b : Body}
    (hnew : (runningCmd s o (syncOf o) 0x12 b).bind (fun k => k.arrived) = none)
    (hfollow : bb b 0x10 16 = true → mayFollow s o (syncOf o) 0x12 b = true) : barrier s o b = barMeet s o b := by
  have hgo : (bb b 0x10 16 && !(mayFollow s o (syncOf o) 0x12 b)) = false := by
    cases harrive : bb b 0x10 16 with
    | false => rfl
    | true => simp [hfollow harrive]
  simp only [barrier, hnew, hgo, Bool.false_eq_true, if_false]

/-- An arrival that does not wait (R193), with a target that its generation has or may still take. -/
theorem barMeet_of_arrival {s : Chip} {o : Origin} {b : Body} (hown : barOwned s o.part.val (bf b 0x10 11 0) = true)
    (harrive : bb b 0x10 16 = true) (hwait : bb b 0x10 17 = false) (htarget : bf b 0x14 15 0 ≠ 0)
    (hsame : (barOf s (bf b 0x10 11 0)).count = 0 ∨ (barOf s (bf b 0x10 11 0)).target = bf b 0x14 15 0) :
    barMeet s o b = syncDone (barArrive s (bf b 0x10 11 0) (bf b 0x14 15 0)) o 0x12 b := by
  have hagree : ¬ ((barOf s (bf b 0x10 11 0)).count ≠ 0 ∧ (barOf s (bf b 0x10 11 0)).target ≠ bf b 0x14 15 0) := by tauto
  simp [barMeet, barWait, hown, harrive, hwait, htarget, hagree]

/-- A barrier command that only waits (R193) waits for the end of the counter's generation. -/
theorem barMeet_of_wait {s : Chip} {o : Origin} {b : Body} (hown : barOwned s o.part.val (bf b 0x10 11 0) = true)
    (harrive : bb b 0x10 16 = false) (hwait : bb b 0x10 17 = true) :
    barMeet s o b = addWait (charge s (syncOf o) o 1) o b (.bar (bf b 0x10 11 0) (barOf s (bf b 0x10 11 0)).generation) := by
  simp [barMeet, barWait, hown, harrive, hwait]

/-- One that arrived before a switch withdrew its wait is done once its generation has passed (R193, R211). -/
theorem barrier_of_passed {s : Chip} {o : Origin} {b : Body} {g : Nat}
    (harrived : (runningCmd s o (syncOf o) 0x12 b).bind (fun k => k.arrived) = some g)
    (hpassed : (barOf s (bf b 0x10 11 0)).generation ≠ g) : barrier s o b = syncDone s o 0x12 b := by
  simp [barrier, barWait, harrived, hpassed]

/-- EVENT_HOST to device memory, with no MSI-X, of a request that its controller admits (R194). -/
theorem eventHost_of_device {s : Chip} {o : Origin} {b : Body} (host : HostReply) (hfollow : mayFollow s o (syncOf o) 0x13 b = true)
    (hspace : bf b 0x20 31 30 = 1) (hquiet : bb b 0x20 16 = false) (hgo : girthAdmit s o.part.val (bq b 0x10) 8 true = .go) :
    eventHost s o b host =
      syncDone (memPut (admitted s o.part.val (bq b 0x10) 8 true) (bq b 0x10) (toBytes 8 (bq b 0x18))) o 0x13 b := by
  simp only [eventHost, hfollow, hspace, hquiet, hgo, Bool.not_true, Bool.false_eq_true, if_false]

/-- EVENT_HOST to the host, with its MSI-X, where the function may send and the host answers (R194). -/
theorem eventHost_of_host {s : Chip} {o : Origin} {b : Body} (bytes : List Byte) (hfollow : mayFollow s o (syncOf o) 0x13 b = true)
    (hspace : bf b 0x20 31 30 = 2) (hirq : bb b 0x20 16 = true)
    (hready : hostReady s (boundFunc s o.part.val).1 (boundFunc s o.part.val).2 = true) :
    eventHost s o b (.data bytes) =
      syncDone (msix (emit s (.hostWrite (boundFunc s o.part.val).1 (boundFunc s o.part.val).2 (bq b 0x10) (toBytes 8 (bq b 0x18))))
        (boundFunc s o.part.val).1 (boundFunc s o.part.val).2 (bf b 0x20 10 0)) o 0x13 b := by
  have hanswered : (HostReply.data bytes != .error) = true := by simp
  simp only [eventHost, hfollow, hspace, hirq, hready, hanswered, Bool.and_true, Bool.not_true, Bool.false_eq_true, if_false, if_true]

/-- WEIGH_ENOUGH stops the queues of its partition while one of them still goes (R197). -/
theorem weighEnough_of_going {s : Chip} {o : Origin} (hfollow : mayFollow s o (syncOf o) 0x14 (weighBody s o) = true)
    (hgoing : (goingQueues s o.part.val).isEmpty = false) :
    weighEnough s o = stopQueues (noteStop (charge s (syncOf o) o 1) o (weighBody s o)) o.part.val := by
  simp only [weighEnough, hfollow, hgoing, Bool.not_true, Bool.false_eq_true, if_false]

/-- A wait whose half-open interval has ended leaves the list, and its job faults (R196). -/
theorem waitTimeout_of_expired {s : Chip} {i : Nat} {w : Wait} (hwait : s.q.waits[i]? = some w) (hexpired : waitExpired s w = true) :
    waitTimeout s i = leaveWait (faultQueue (bump (handTo s w.origin (syncOf w.origin) (waitOp w) w.body) (.qf w.origin.quad.val)
      Reg.QF_WAIT_TIMEOUTS 1) w.origin 0x48) w := by
  simp only [waitTimeout, hwait, hexpired, if_true]

theorem exec_semWait {c : Chip} {o : Origin} {b : Body} (l : List Instr) (hrun : running c = true)
    (htodo : stillToDo c o (syncOf o) 0x11 b = true) :
    exec (.semWait o b) ⟨c, l⟩ = .next ⟨semWait (handTo c o (syncOf o) 0x11 b) o b, l⟩ :=
  carry_of_stillToDo l _ hrun htodo

theorem exec_barrier {c : Chip} {o : Origin} {b : Body} (l : List Instr) (hrun : running c = true)
    (htodo : stillToDo c o (syncOf o) 0x12 b = true) :
    exec (.barrier o b) ⟨c, l⟩ = .next ⟨barrier (handTo c o (syncOf o) 0x12 b) o b, l⟩ :=
  carry_of_stillToDo l _ hrun htodo

theorem exec_eventHost {c : Chip} {o : Origin} {b : Body} (l : List Instr) (host : HostReply) (hrun : running c = true)
    (htodo : stillToDo c o (syncOf o) 0x13 b = true) :
    exec (.eventHost o b host) ⟨c, l⟩ = .next ⟨eventHost (handTo c o (syncOf o) 0x13 b) o b host, l⟩ :=
  carry_of_stillToDo l _ hrun htodo

/-- Settles O1: NOP and WAIT_TIMEOUT are events of a running module; the others are carried out with their job in hand, or passed
over where they were cancelled. -/
theorem syncCommandsRun : Obligations.SyncCommandsRun := by
  refine ⟨?nop, ?semSignal, ?semWaitReached, ?semWaitBelow, ?barrierArrives, ?barrierWaits, ?barrierPassed, ?eventToDevice,
    ?eventToHost, ?weighEnough, ?waitTimeout, ?semSignalCancelled, ?semWaitCancelled, ?barrierCancelled, ?eventHostCancelled⟩
  case nop =>
    intro c l o e hrun hissued
    have hexec : exec (.nop o) ⟨c, l⟩ = live ⟨c, l⟩ (fun c => nop c o) := rfl
    rw [hexec, live_of_running l _ hrun]
    simp only [nop, hissued]
  case semSignal =>
    intro c l o b c' hrun htodo hhand hfollow hown
    rw [exec_semSignal l hrun htodo, hhand, semSignal_of_owned hfollow hown]
  case semWaitReached =>
    intro c l o b c' hrun htodo hhand hown hreached
    rw [exec_semWait l hrun htodo, hhand, semWait_of_reached hown hreached]
  case semWaitBelow =>
    intro c l o b c' hrun htodo hhand hown hbelow
    rw [exec_semWait l hrun htodo, hhand, semWait_of_below hown hbelow]
  case barrierArrives =>
    intro c l o b c' hrun htodo hhand hnew hfollow hown harrive hwait htarget hsame
    rw [exec_barrier l hrun htodo, hhand, barrier_of_new hnew fun _ => hfollow,
      barMeet_of_arrival hown harrive hwait htarget hsame]
  case barrierWaits =>
    intro c l o b c' hrun htodo hhand hnew hown harrive hwait
    rw [exec_barrier l hrun htodo, hhand, barrier_of_new hnew (by simp [harrive]), barMeet_of_wait hown harrive hwait]
  case barrierPassed =>
    intro c l o b g c' hrun htodo hhand harrived hpassed
    rw [exec_barrier l hrun htodo, hhand, barrier_of_passed harrived hpassed]
  case eventToDevice =>
    intro c l o b host c' hrun htodo hhand hfollow hspace hquiet hgo
    rw [exec_eventHost l host hrun htodo, hhand, eventHost_of_device host hfollow hspace hquiet hgo]
  case eventToHost =>
    intro c l o b bytes c' hrun htodo hhand hfollow hspace hirq hready
    rw [exec_eventHost l (.data bytes) hrun htodo, hhand, eventHost_of_host bytes hfollow hspace hirq hready]
  case weighEnough =>
    intro c l o c' hrun htodo hhand hfollow hgoing
    have hexec : exec (.weighEnough o) ⟨c, l⟩ = carry ⟨c, l⟩ o (syncOf o) 0x14 (weighBody c o) (fun c => weighEnough c o) := rfl
    rw [hexec, carry_of_stillToDo l _ hrun htodo, hhand, weighEnough_of_going hfollow hgoing]
  case waitTimeout =>
    intro c l i w hrun hwait hexpired
    have hexec : exec (.waitTimeout i) ⟨c, l⟩ = live ⟨c, l⟩ (fun c => waitTimeout c i) := rfl
    rw [hexec, live_of_running l _ hrun, waitTimeout_of_expired hwait hexpired]
  case semSignalCancelled =>
    intro c l o b hrun hgone
    exact carry_of_cancelled l _ hrun hgone
  case semWaitCancelled =>
    intro c l o b hrun hgone
    exact carry_of_cancelled l _ hrun hgone
  case barrierCancelled =>
    intro c l o b hrun hgone
    exact carry_of_cancelled l _ hrun hgone
  case eventHostCancelled =>
    intro c l o b host hrun hgone
    exact carry_of_cancelled l _ hrun hgone

/-! ### The Stroke array (R132, R133, R181) -/

/-- STROKE_PASS on a block that is neither fenced nor waited for, with its fields and its slots in range, turns on whether a set of
its own is live in the other mode (R132, R181). -/
theorem strokePass_of_inOrder {s : Chip} {o : Origin} {blk : Fin 256} {b : Body} (events : List PassEvent)
    (hfence : blockFenced s blk.val = false) (hfree : (block s blk.val).wait = none) (hfields : passInvalid b = false)
    (haligned : passMisaligned b = none) (hslots : slotsBad (bb b 0x20 23) (bf b 0x24 24 16) (bf b 0x24 8 0 + 1) = false) :
    strokePass s o blk b events = if modeConflict s blk.val (bb b 0x20 23) (passTouches s o blk b) = true then
      startAccWait s o blk b events else runPass s o blk b events := by
  have hidle : ¬ (blockFenced s blk.val = true ∨ (block s blk.val).wait.isSome = true) := by simp [hfence, hfree]
  simp only [strokePass, if_neg hidle, hfields, haligned, hslots, Bool.false_eq_true, if_false]

/-- A pass that has tokens, where its tokens must come from a list, and that reads its data without a fault goes through the
lanes. -/
theorem runPass_of_read {s : Chip} {o : Origin} {blk : Fin 256} {b : Body} (events : List PassEvent)
    (htokens : bf b 0x20 21 20 = 2 → (passTokens (startRd s) o b).2.isEmpty = false)
    (hread : (passRead (passTokens (startRd s) o b).1 o blk.val b (passTokens (startRd s) o b).2).1.bad = none) :
    runPass s o blk b events = passRun (passRead (passTokens (startRd s) o b).1 o blk.val b (passTokens (startRd s) o b).2).1 o blk b
      (passFirst s o blk b) (passTokens (startRd s) o b).2
      (passRead (passTokens (startRd s) o b).1 o blk.val b (passTokens (startRd s) o b).2).2 events := by
  have hsome : ¬ (bf b 0x20 21 20 = 2 ∧ (passTokens (startRd s) o b).2.isEmpty = true ∧
      (passTokens (startRd s) o b).1.bad.isNone = true) := by
    rintro ⟨hlist, hempty, -⟩
    simp [htokens hlist] at hempty
  simp only [runPass, if_neg hsome, hread, Option.isSome_none, Bool.false_eq_true, if_false]

/-- The lanes compute where the events of the pass leave its block unfenced (R96). -/
theorem passRun_of_unfenced {x : Rd} {o : Origin} {blk : Fin 256} {b : Body} {first : Nat} {l : List (Nat × Nat)} {v : PassData}
    {events : List PassEvent} {t : Chip} {lv : Bool} (hsets : passSets x.s o blk.val b first l.length v = t)
    (hlive : passLive { x with s := t } o b l v = lv)
    (hfence : blockFenced (passMeets t o blk b first lv events) blk.val = false) :
    passRun x o blk b first l v events = passBody { x with s := passMeets t o blk b first lv events } o blk b first
      (recomputeCycles t blk.val lv events) l v := by
  simp only [passRun, hsets, hlive, hfence, Bool.false_eq_true, if_false]

/-- A waiting pass runs where its sets came free of the other mode before the timeout (R133). -/
theorem accModeWaitProceed_of_free {s : Chip} {blk : Fin 256} {w : AccWait} (hwait : (block s blk.val).wait = some w)
    (hfree : waitFree s blk w = true) : accModeWaitProceed s blk = runPass (endAccWait s blk w) w.origin blk w.body w.events := by
  simp only [accModeWaitProceed, hwait, hfree, if_true]

/-- A waiting pass whose sets did not come free is discarded from the timeout on (R133). -/
theorem accModeTimeout_of_expired {s : Chip} {blk : Fin 256} {w : AccWait} (hwait : (block s blk.val).wait = some w)
    (hlive : waitFree s blk w = false) (hexpired : accExpired s blk.val w = true) :
    accModeTimeout s blk = strokeDone (faultBlock (endAccWait s blk w) w.origin blk.val 0x27 none) w.origin blk w.body 0 := by
  simp only [accModeTimeout, hwait, hlive, hexpired, Bool.not_true, Bool.or_false, Bool.false_eq_true, if_false]

theorem exec_strokePass {c : Chip} {o : Origin} {blk : Fin 256} {b : Body} (l : List Instr) (events : List PassEvent)
    (hrun : running c = true) (htodo : stillToDo c o (.stroke blk) 1 b = true) :
    exec (.strokePass o blk b events) ⟨c, l⟩ = .next ⟨strokePass (handTo c o (.stroke blk) 1 b) o blk b events, l⟩ :=
  carry_of_stillToDo l _ hrun htodo

/-- Settles O2: a pass is carried out with its job in hand; the two ends of its wait are events of a running module. -/
theorem strokePassesRun : Obligations.StrokePassesRun := by
  refine ⟨?runs, ?waits, ?proceeds, ?expires⟩
  case runs =>
    intro c l o blk b events d e t lv c' hrun htodo hhand hfence hfree hfields haligned hslots hmode htokens hlist hread hbad hsets
      hlive hunfenced
    subst htokens hread
    rw [exec_strokePass l events hrun htodo, hhand, strokePass_of_inOrder events hfence hfree hfields haligned hslots,
      if_neg (by simp [hmode]), runPass_of_read events hlist hbad, passRun_of_unfenced hsets hlive hunfenced]
  case waits =>
    intro c l o blk b events c' hrun htodo hhand hfence hfree hfields haligned hslots hmode
    rw [exec_strokePass l events hrun htodo, hhand, strokePass_of_inOrder events hfence hfree hfields haligned hslots, if_pos hmode]
  case proceeds =>
    intro c l blk w hrun hwait hfree
    have hexec : exec (.accModeWaitProceed blk) ⟨c, l⟩ = live ⟨c, l⟩ (fun c => accModeWaitProceed c blk) := rfl
    rw [hexec, live_of_running l _ hrun, accModeWaitProceed_of_free hwait hfree]
  case expires =>
    intro c l blk w hrun hwait hlive hexpired
    have hexec : exec (.accModeTimeout blk) ⟨c, l⟩ = live ⟨c, l⟩ (fun c => accModeTimeout c blk) := rfl
    rw [hexec, live_of_running l _ hrun, accModeTimeout_of_expired hwait hlive hexpired]

/-! ### The Burnishers (R98, R117, R134, R183, R184) -/

/-- READOUT with its fields and its slots in order, and none of its sets live in the other mode, loads its tables, meets its events
and reads its slots out (R98, R134, R183). -/
theorem readout_of_inOrder {s : Chip} {o : Origin} {blk : Fin 256} {b : Body} (events : List PassEvent)
    (hfence : blockFenced s blk.val = false) (hfields : readoutInvalid b = false) (haligned : readoutMisaligned b = none)
    (hslots : slotsBad (bb b 0x2C 23) (bf b 0x30 24 16) (bf b 0x30 8 0 + 1) = false)
    (hmode : modeConflict s blk.val (bb b 0x2C 23) (setsOf (bb b 0x2C 23) (readoutFirst s o blk b) (bf b 0x30 8 0 + 1)) = false)
    (hload : (readoutLoad (startRd s) o b).1.bad = none)
    (hunfenced : blockFenced (readoutMeets (readoutLoad (startRd s) o b).1.s o blk b (readoutFirst s o blk b) events) blk.val = false) :
    readout s o blk b events =
      (let k := readoutLoad (startRd s) o b
       let y := readoutSlots { k.1 with s := readoutMeets k.1.s o blk b (readoutFirst s o blk b) events } o blk.val b
         k.2.1 k.2.2.1 k.2.2.2 (readoutFirst s o blk b)
       burnDone (readoutEnd y o blk.val b (readoutFirst s o blk b)) o blk 2 b (readoutCycles b)) := by
  simp only [readout, hfence, hfields, haligned, hslots, hmode, hload, hunfenced, Option.isSome_none, Bool.false_eq_true, if_false]

/-- QUANTISE whose descriptor and straps are in order computes its straps (R117, R184). -/
theorem quantise_of_inOrder {s : Chip} {o : Origin} {blk : Fin 256} {b : Body} (hfence : blockFenced s blk.val = false)
    (haligned : bw b 0x10 % 32 = 0) (hcheck : (quantiseCheck (startRd s) o b).1.bad = none) :
    quantise s o blk b =
      (let e := quantiseCheck (startRd s) o b
       let r := quantiseWork e.1 o blk b e.2
       burnDone (closeRd r.1 o blk.val) o blk 3 b r.2) := by
  simp only [quantise, hfence, if_neg (not_not_intro haligned), hcheck, Option.isSome_none, Bool.false_eq_true, if_false]

/-- Settles O3: both are carried out with their job in hand. -/
theorem burnisherCommandsRun : Obligations.BurnisherCommandsRun := by
  refine ⟨?readout, ?quantise⟩
  case readout =>
    intro c l o blk b events c' hrun htodo hhand hfence hfields haligned hslots hmode hload hunfenced
    have hexec : exec (.readout o blk b events) ⟨c, l⟩ =
        carry ⟨c, l⟩ o (.burnisher blk) 2 b (fun c => readout c o blk b events) := rfl
    rw [hexec, carry_of_stillToDo l _ hrun htodo, hhand,
      readout_of_inOrder events hfence hfields haligned hslots hmode hload hunfenced]
  case quantise =>
    intro c l o blk b c' hrun htodo hhand hfence haligned hcheck
    have hexec : exec (.quantise o blk b) ⟨c, l⟩ = carry ⟨c, l⟩ o (.burnisher blk) 3 b (fun c => quantise c o blk b) := rfl
    rw [hexec, carry_of_stillToDo l _ hrun htodo, hhand, quantise_of_inOrder hfence haligned hcheck]

/-! ### The DMA engines (R156, R186, R187, R330 to R333) -/

/-- ZERO_FILL of pads of its partition starts its fills, where they are not under way already (R187). -/
theorem zeroFill_of_granted {s : Chip} {o : Origin} {b : Body} (haligned : bw b 0x10 % 512 = 0) (hlength : bw b 0x14 % 512 = 0)
    (hpads : padRefusal s o.part.val (o.quad.val / 4) (bw b 0x10) (bw b 0x14) 1 = none) (hsome : bw b 0x14 ≠ 0)
    (hnew : s.fills.any (fun f => f.origin == some (o, b)) = false) : zeroFill s o b = startFills s o b := by
  simp only [zeroFill, if_neg (not_not_intro haligned), if_neg (not_not_intro hlength), hpads, if_neg hsome, hnew,
    Bool.false_eq_true, if_false]

/-- The end of a command's fill in one bank: with none left of its command, the command is done (R156, R187). -/
theorem fillComplete_of_command {s : Chip} {bank : Nat} {f : BankFill} {e : Origin × Body}
    (hfill : s.fills.find? (fun f => f.bank == bank) = some f) (hfence : bankFenced s bank = false) (horigin : f.origin = some e) :
    fillComplete s bank = (let t := fillOver s bank f
      if t.fills.any (fun g => g.origin == some e) then t
      else dmaDone (handTo t e.1 (dmaOf e.1) 0x05 e.2) e.1 0x05 e.2) := by
  simp only [fillComplete, hfill, hfence, horigin, Bool.false_eq_true, if_false]

/-- DMA_COPY with its fields in order, credit for its runs and a host that answers where it reaches one, copies its repeats
(R186). -/
theorem dmaCopy_of_granted {s : Chip} {o : Origin} {b : Body} {host : HostReply} (hfields : copyInvalid b = false)
    (hcredit : runsWait s o.part.val (copyRuns b) = false)
    (hhost : copyHost b = true → hostReady s (boundFunc s o.part.val).1 (boundFunc s o.part.val).2 = true ∧ host ≠ .error) :
    dmaCopy s o b host = dmaDone (copyRepeats s o b (replyBytes host) (bf b 0x30 31 24 + 1) 0) o 0x06 b := by
  have hanswers : (copyHost b && (!(hostReady s (boundFunc s o.part.val).1 (boundFunc s o.part.val).2) || host == .error)) = false := by
    cases hreach : copyHost b with
    | false => rfl
    | true => simp [hhost hreach]
  simp only [dmaCopy, hfields, hcredit, hanswers, Bool.false_eq_true, if_false]

/-- MEM_UPDATE of memory that has an adder, with credit for its runs (R330, R331, R333). -/
theorem memUpdate_of_granted {s : Chip} {o : Origin} {b : Body} (hfields : updateInvalid b = false)
    (hadder : unitOf (bq b 0x10) ≠ some 16) (hcredit : runsWait s o.part.val (updateRuns b) = false) :
    memUpdate s o b = updateGo s o b := by
  simp only [memUpdate, hfields, if_neg hadder, hcredit, Bool.false_eq_true, if_false]

/-- MEM_FETCH of an aligned element of memory that has an adder, with its result in a pad of its partition and its request admitted
(R330, R331, R333). -/
theorem memFetch_of_granted {s : Chip} {o : Origin} {b : Body} (hop : bf b 0x24 25 24 ≠ 3)
    (haligned : bq b 0x10 % elemSize (bf b 0x24 27 26) = 0) (hresult : bw b 0x20 % 8 = 0) (hadder : unitOf (bq b 0x10) ≠ some 16)
    (hpad : padCheck s o.part.val (o.quad.val / 4) (bw b 0x20) 8 8 = none)
    (hgo : girthAdmit s o.part.val (bq b 0x10) (elemSize (bf b 0x24 27 26)) true = .go) : memFetch s o b = fetchGo s o b := by
  have hfields : ¬ (bf b 0x24 25 24 = 3 ∨ bq b 0x10 % elemSize (bf b 0x24 27 26) ≠ 0 ∨ bw b 0x20 % 8 ≠ 0) := by
    simp [hop, haligned, hresult]
  simp only [memFetch, if_neg hfields, if_neg hadder, hpad, hgo]

/-- Settles O6: the end of a bank's fill is an event of a running module; the others are carried out with their job in hand. -/
theorem dmaCommandsRun : Obligations.DmaCommandsRun := by
  have hcomplete : ∀ (c : Chip) (l : List Instr) (bank : Fin 256), running c = true →
      exec (.fillComplete bank) ⟨c, l⟩ = .next ⟨fillComplete c bank.val, l⟩ := fun c l bank => live_of_running l _
  refine ⟨?zeroFill, ?fillOfPage, ?fillOfCommand, ?copy, ?update, ?fetch⟩
  case zeroFill =>
    intro c l o b c' hrun htodo hhand haligned hlength hpads hsome hnew
    have hexec : exec (.zeroFill o b) ⟨c, l⟩ = carry ⟨c, l⟩ o (dmaOf o) 5 b (fun c => zeroFill c o b) := rfl
    rw [hexec, carry_of_stillToDo l _ hrun htodo, hhand, zeroFill_of_granted haligned hlength hpads hsome hnew]
  case fillOfPage =>
    intro c l bank f hrun hfill hfence horigin
    rw [hcomplete c l bank hrun, fillComplete_of_page hfill hfence horigin]
  case fillOfCommand =>
    intro c l bank f o b hrun hfill hfence horigin
    rw [hcomplete c l bank hrun, fillComplete_of_command hfill hfence horigin]
  case copy =>
    intro c l o b host c' hrun htodo hhand hfields hcredit hhost
    have hexec : exec (.dmaCopy o b host) ⟨c, l⟩ = carry ⟨c, l⟩ o (dmaOf o) 6 b (fun c => dmaCopy c o b host) := rfl
    rw [hexec, carry_of_stillToDo l _ hrun htodo, hhand, dmaCopy_of_granted hfields hcredit hhost]
  case update =>
    intro c l o b c' hrun htodo hhand hfields hadder hcredit
    have hexec : exec (.memUpdate o b) ⟨c, l⟩ = carry ⟨c, l⟩ o (dmaOf o) 0x50 b (fun c => memUpdate c o b) := rfl
    rw [hexec, carry_of_stillToDo l _ hrun htodo, hhand, memUpdate_of_granted hfields hadder hcredit]
  case fetch =>
    intro c l o b c' hrun htodo hhand hop haligned hresult hadder hpad hgo
    have hexec : exec (.memFetch o b) ⟨c, l⟩ = carry ⟨c, l⟩ o (dmaOf o) 0x51 b (fun c => memFetch c o b) := rfl
    rw [hexec, carry_of_stillToDo l _ hrun htodo, hhand, memFetch_of_granted hop haligned hresult hadder hpad hgo]

/-! ### Fetch, dispatch and retirement (R169, R179, R205) -/

/-- An ACTIVE queue that has commands left, with its region awake, takes the one that its fetch answers (R169). -/
theorem commandFetch_of_active {s t : Chip} {p n : Nat} {host : HostReply} {k : Command} (hactive : queueState s p n = 1)
    (hahead : rd s (.sq p n) Reg.SQ_PI_PI ≠ rd s (.sq p n) Reg.SQ_CI_CI)
    (hawake : regionAwake s (rd s (.sq p n) Reg.SQ_CFG_QUAD / 4) = true)
    (hfetched : fetchBytes s p n host = (t, some (some k))) : commandFetch s p n host = takeFetched t p n k := by
  have hgo : ¬ (queueState s p n ≠ 1 ∨ rd s (.sq p n) Reg.SQ_PI_PI = rd s (.sq p n) Reg.SQ_CI_CI) := by simp [hactive, hahead]
  simp only [commandFetch, if_neg hgo, hawake, hfetched, fetched, Bool.not_true, Bool.false_eq_true, if_false]

/-- An engine that is open and not busy, with jobs ready for it, issues the command picked (R205). -/
theorem engineDispatch_of_ready {s t : Chip} {e : Engine} {x : Chip × Option (Job × Cmd)} {k : Job × Cmd}
    (hstate : dispatchState s e = t) (hidle : engineBusy t e = false) (hready : (readyJobs t e).isEmpty = false)
    (hopen : engineOpen t e = true) (hpick : dispatchPick t e (readyJobs t e) = x) (hsome : x.2 = some k) :
    engineDispatch s e = noteReady (issue x.1 e k.1 k.2) e := by
  simp only [engineDispatch, hstate, hidle, hready, hopen, hpick, dispatched, hsome, Bool.or_false, Bool.not_true,
    Bool.false_eq_true, if_false]

/-- A command that may retire does so while the module runs (R179). -/
theorem commandRetire_of_retiring {s : Chip} {o : Origin} {index : Nat} {j : Job} (hrun : running s = true)
    (hjob : retiringJob s o index = some j) : commandRetire s o index = retireCmd s j.id index := by
  simp only [commandRetire, hjob, hrun, if_true]

/-- Settles O17: each of the three is an event of a running module whose condition holds. -/
theorem queuesFetchAndDispatch : Obligations.QueuesFetchAndDispatch := by
  refine ⟨?fetch, ?dispatch, ?retire⟩
  case fetch =>
    intro c l p n host t k hrun hactive hahead hawake hfetched
    have hexec : exec (.commandFetch p n host) ⟨c, l⟩ = live ⟨c, l⟩ (fun c => commandFetch c p.val n.val host) := rfl
    rw [hexec, live_of_running l _ hrun, commandFetch_of_active hactive hahead hawake hfetched]
  case dispatch =>
    intro c l e t x k hrun hstate hidle hready hopen hpick hsome
    have hexec : exec (.engineDispatch e) ⟨c, l⟩ = live ⟨c, l⟩ (fun c => engineDispatch c e) := rfl
    rw [hexec, live_of_running l _ hrun, engineDispatch_of_ready hstate hidle hready hopen hpick hsome]
  case retire =>
    intro c l o index j hrun hjob
    have hexec : exec (.commandRetire o index) ⟨c, l⟩ = live ⟨c, l⟩ (fun c => commandRetire c o index) := rfl
    rw [hexec, live_of_running l _ hrun, commandRetire_of_retiring hrun hjob]

/-! ### Writes of a queue page (R168 to R199) -/

/-- A doorbell of a READY queue that moves PI forward by at most the ring's size (R170). -/
theorem sqDoorbell_of_forward {s : Chip} {via : Via} {p n v : Nat} (hreach : reaches s via p = true) (hpart : partState s p ≠ 4)
    (hon : queueState s p n ≠ 0) (hsettled : queueState s p n ≠ 4) (hmoved : v ≠ rd s (.sq p n) Reg.SQ_PI_PI)
    (hforward : (v + 2 ^ 32 - rd s (.sq p n) Reg.SQ_PI_PI) % 2 ^ 32 < 2 ^ 31)
    (hfits : (v + 2 ^ 32 - rd s (.sq p n) Reg.SQ_CI_CI) % 2 ^ 32 ≤ 2 ^ rd s (.sq p n) Reg.SQ_CFG_SIZE_LOG2) :
    sqDoorbell s via p n v =
      regionCall (wr s (.sq p n) Reg.SQ_PI_PI v) (rd s (.sq p n) Reg.SQ_CFG_QUAD / 4) := by
  simp only [sqDoorbell, hreach, if_neg hpart, if_neg (not_or.mpr ⟨hon, hsettled⟩), if_neg hmoved, if_neg (Nat.not_le.mpr hforward),
    if_neg (Nat.not_lt.mpr hfits), ge_iff_le, gt_iff_lt, Bool.not_true, Bool.false_eq_true, if_false]

/-- An enable outside SCRUBBING and RELEASING (R168). -/
theorem queueEnable_of_ready {s : Chip} {via : Via} {p n : Nat} (hreach : reaches s via p = true) (hscrub : partState s p ≠ 4)
    (hrelease : partState s p ≠ 5) : queueEnable s via p n = enableQueue s p n := by
  have hopen : (!(reaches s via p) || partState s p == 5) = false := by simp [hreach, hrelease]
  simp only [queueEnable, hopen, if_neg hscrub, Bool.false_eq_true, if_false]

/-- A resume of a STOPPED queue (R198). -/
theorem queueResume_of_stopped {s : Chip} {via : Via} {p n : Nat} (hreach : reaches s via p = true) (hpart : partState s p ≠ 4)
    (hstopped : queueState s p n = 3) : queueResume s via p n = showStopping (wr s (.sq p n) Reg.SQ_STAT_STATE 1) p :=
  if_pos (by simp [hreach, hpart, hstopped])

/-- A reset outside SCRUBBING (R199). -/
theorem queueReset_of_ready {s : Chip} {via : Via} {p n : Nat} (byEnable : Bool) (hreach : reaches s via p = true)
    (hpart : partState s p ≠ 4) : queueReset s via p n byEnable = resetQueueStep (fun t => beginReset t p n 0x0200) s p n := by
  simp only [queueReset, queueResetNow, hreach, if_neg hpart, Bool.not_true, Bool.false_eq_true, if_false]

/-- A completion head up to the unread records frees them (R173, R175). -/
theorem sqCqHeadWrite_of_unread {s : Chip} {via : Via} {p n v : Nat} (hreach : reaches s via p = true) (hpart : partState s p ≠ 4)
    (hunread : (v + 2 ^ 32 - rd s (.sq p n) Reg.SQ_CQ_HEAD_HEAD) % 2 ^ 32 ≤ cqUnread s p n) :
    sqCqHeadWrite s via p n v = drainQueue (wr s (.sq p n) Reg.SQ_CQ_HEAD_HEAD v) p n := by
  have hopen : ¬ ((!(reaches s via p)) = true ∨ partState s p = 4) := by simp [hreach, hpart]
  simp only [sqCqHeadWrite, if_neg hopen, gt_iff_lt, if_neg (Nat.not_lt.mpr hunread)]

/-- A host signal outside SCRUBBING turns on whether the semaphore is the partition's and can take the sum (R195). -/
theorem sqHostSignal_of_ready {s : Chip} {via : Via} {p n v : Nat} (hreach : reaches s via p = true) (hpart : partState s p ≠ 4) :
    sqHostSignal s via p n v =
      if semOwned s p (bits v 31 16) = false ∨ semTop < semVal s (bits v 31 16) + bits v 15 0 then
        bump s (.sq p n) Reg.SQ_IGNORED_HOST_REJECT 1
      else semAdd s (bits v 31 16) (bits v 15 0) := by
  have hopen : ¬ (reaches s via p = false ∨ partState s p = 4) := by simp [hreach, hpart]
  simp only [sqHostSignal, Bool.not_eq_true', if_neg hopen, gt_iff_lt]

/-- Settles O20: each is a write through a function whose link is up, while the module runs. -/
theorem queuePageWritesRun : Obligations.QueuePageWritesRun := by
  have hsignal : ∀ (c : Chip) (l : List Instr) (via : Via) (p : Fin 16) (n : Fin 64) (v : Word), running c = true →
      viaOpen c via = true →
      exec (.sqHostSignal via p n v) ⟨c, l⟩ = .next ⟨sqHostSignal c via p.val n.val v.toNat, l⟩ :=
    fun c l via p n v => throughLive_of_open l _
  refine ⟨?doorbell, ?enable, ?resume, ?reset, ?head, ?signal, ?reject⟩
  case doorbell =>
    intro c l via p n v hrun hopen hreach hpart hon hsettled hmoved hforward hfits
    have hexec : exec (.sqDoorbell via p n v) ⟨c, l⟩ =
        throughLive ⟨c, l⟩ via (fun c => sqDoorbell c via p.val n.val v.toNat) := rfl
    rw [hexec, throughLive_of_open l _ hrun hopen, sqDoorbell_of_forward hreach hpart hon hsettled hmoved hforward hfits]
  case enable =>
    intro c l via p n hrun hopen hreach hscrub hrelease
    have hexec : exec (.queueEnable via p n) ⟨c, l⟩ = throughLive ⟨c, l⟩ via (fun c => queueEnable c via p.val n.val) := rfl
    rw [hexec, throughLive_of_open l _ hrun hopen, queueEnable_of_ready hreach hscrub hrelease]
  case resume =>
    intro c l via p n hrun hopen hreach hpart hstopped
    have hexec : exec (.queueResume via p n) ⟨c, l⟩ = throughLive ⟨c, l⟩ via (fun c => queueResume c via p.val n.val) := rfl
    rw [hexec, throughLive_of_open l _ hrun hopen, queueResume_of_stopped hreach hpart hstopped]
  case reset =>
    intro c l via p n byEnable hrun hopen hreach hpart
    have hexec : exec (.queueReset via p n byEnable) ⟨c, l⟩ =
        throughLive ⟨c, l⟩ via (fun c => queueReset c via p.val n.val byEnable) := rfl
    rw [hexec, throughLive_of_open l _ hrun hopen, queueReset_of_ready byEnable hreach hpart]
  case head =>
    intro c l via p n v hrun hopen hreach hpart hunread
    have hexec : exec (.sqCqHeadWrite via p n v) ⟨c, l⟩ =
        throughLive ⟨c, l⟩ via (fun c => sqCqHeadWrite c via p.val n.val v.toNat) := rfl
    rw [hexec, throughLive_of_open l _ hrun hopen, sqCqHeadWrite_of_unread hreach hpart hunread]
  case signal =>
    intro c l via p n v hrun hopen hreach hpart hown hfits
    rw [hsignal c l via p n v hrun hopen, sqHostSignal_of_ready hreach hpart,
      if_neg (not_or.mpr ⟨by simp [hown], Nat.not_lt.mpr hfits⟩)]
  case reject =>
    intro c l via p n v hrun hopen hreach hpart hrefused
    rw [hsignal c l via p n v hrun hopen, sqHostSignal_of_ready hreach hpart, if_pos hrefused]

end Sys2Proof.Machine
end

section
/-!
PROOF. The statements of chapter 07 (scheduling): a preemption's stages (R211 to R224).
-/
namespace Sys2Proof.Machine

/-! ### A switch in progress at a quad front -/

/-- While a front is STOPPING, its victims' tack lists are read, and the spill is planned once all of them stand at their points
(R211, R214, R219). -/
theorem preemptPointReached_of_stopping {s : Chip} {q : Nat} {w : Switch} {k : List Nat} {e : Chip × Switch}
    (hswitch : tget s.switches q = some w) (hstate : rd s (.qf q) Reg.QF_PREEMPT_STAT_STATE = 1) (hhere : victimsAt s w = k)
    (hread : k.foldl (readTack q) (s, w) = e) :
    preemptPointReached s q =
      if k.length < w.victims.length then keepSwitch (withdrawAt e.1 k) q { e.2 with atPoint := k } else planSpill e.1 q e.2 k := by
  subst hhere hread
  simp only [preemptPointReached, hswitch, hstate, if_true]

/-- A SPILLING front stores its record as its plan lays it out (R221). -/
theorem spillComplete_of_spilling {s : Chip} {q : Nat} {w : Switch} (hswitch : tget s.switches q = some w)
    (hstate : rd s (.qf q) Reg.QF_PREEMPT_STAT_STATE = 2) : spillComplete s q = spillStored (planSlots (q / 4)) s q w := by
  simp only [spillComplete, spillEnd, hswitch, hstate, ne_eq, not_true_eq_false, if_false]

/-- A record whose writes neither wait nor are refused is stored, and the spill is over (R222, R223). -/
theorem spillStored_of_admitted {plan : Chip → Nat → Nat → List Byte → List (Byte × Bool) → SpillPlan} {s : Chip} {q p : Nat}
    {w v : Switch} {d : Chip × List (Byte × Bool)} {x : SpillPlan} (hpart : (quadOwner s q).getD 0 = p) (hsets : spillSets s w = v)
    (hdata : spillData s q v = d) (hplan : plan s p v.base (spillHeader s q v) d.2 = x) (hgo : runsWait s p x.runs = false)
    (hgranted : firstRefusal s p x.runs = none) :
    spillStored plan s q w = spillOver ((x.parts.take (partsMade s p x.runs)).foldl (putPart (q / 4) p) d.1) q v := by
  subst hpart hsets hdata hplan
  simp only [spillStored, hgo, hgranted, Bool.false_eq_true, if_false]

/-- A SWITCHED front whose quad has no URGENT job left begins to resume (R224). -/
theorem resumeStart_of_switched {s : Chip} {q : Nat} {w : Switch} (hswitch : tget s.switches q = some w)
    (hstate : rd s (.qf q) Reg.QF_PREEMPT_STAT_STATE = 3) (hcalm : s.q.jobs.any (fun j => j.urgent && j.quad == q) = false) :
    resumeStart s q = resumeFrom s q w := by
  have hready := not_or.mpr ⟨not_not.mpr hstate, Bool.eq_false_iff.mp hcalm⟩
  simp only [resumeStart, hswitch, if_neg hready]

/-- A RESTORING front ends its resume (R224). -/
theorem restoreComplete_of_restoring {s : Chip} {q : Nat} {w : Switch} (hswitch : tget s.switches q = some w)
    (hstate : rd s (.qf q) Reg.QF_PREEMPT_STAT_STATE = 4) : restoreComplete s q = resumeEnd s q w := by
  simp only [restoreComplete, hswitch, hstate, if_true]

/-- A resume whose reads do not wait restores what it reads (R222). -/
theorem resumeOn_of_admitted {runs : List (Nat × List (Nat × Nat × Bool))} {read : Chip → Chip × Option Memory} {s : Chip} {q : Nat}
    {w : Switch} (hgo : runsWait s ((quadOwner s q).getD 0) (runs.map (fun e => e.2)) = false) :
    resumeOn runs read s q w = restored (read s).2 runs (read s).1 q w :=
  if_neg (by simp [hgo])

/-- Without a slot context of the partition, the record is read as it is (R312). -/
theorem resumeEnd_of_raw {s : Chip} {q : Nat} {w : Switch} (hraw : slotCtx s (q / 4) ((quadOwner s q).getD 0) = none) :
    resumeEnd s q w = resumeOn (restoreRuns s w) (fun t => (t, none)) s q w := by
  simp only [resumeEnd, hraw]

/-- With a slot context of the partition, the record is read unit by unit (R312). -/
theorem resumeEnd_of_slots {s : Chip} {q p : Nat} {w : Switch} {k : SlotCtx} (hpart : (quadOwner s q).getD 0 = p)
    (hslots : slotCtx s (q / 4) p = some k) :
    resumeEnd s q w =
      resumeOn (recordRuns s (spillTag s p k) w) (readUnits (q / 4) p (spillTag s p k) w) s q w := by
  subst hpart
  simp only [resumeEnd, hslots]

theorem exec_preemptPointReached {c : Chip} (l : List Instr) (q : Fin 16) (hrun : running c = true) :
    exec (.preemptPointReached q) ⟨c, l⟩ = .next ⟨preemptPointReached c q.val, l⟩ := live_of_running l _ hrun

theorem exec_restoreComplete {c : Chip} (l : List Instr) (q : Fin 16) (hrun : running c = true) :
    exec (.restoreComplete q) ⟨c, l⟩ = .next ⟨restoreComplete c q.val, l⟩ := live_of_running l _ hrun

/-- Settles O18: each stage is an event of a running module whose condition holds at the front. -/
theorem preemptionRuns : Obligations.PreemptionRuns := by
  refine ⟨?planned, ?awaited, ?spill, ?resume, ?raw, ?slots⟩
  case planned =>
    intro c l q w k e hrun hswitch hstate hhere hread hall
    rw [exec_preemptPointReached l q hrun, preemptPointReached_of_stopping hswitch hstate hhere hread, if_neg hall.not_lt]
  case awaited =>
    intro c l q w k e hrun hswitch hstate hhere hread hsome
    rw [exec_preemptPointReached l q hrun, preemptPointReached_of_stopping hswitch hstate hhere hread, if_pos hsome]
  case spill =>
    intro c l q w v p d x hrun hswitch hstate hpart hsets hdata hplan hgo hgranted
    have hexec : exec (.spillComplete q) ⟨c, l⟩ = live ⟨c, l⟩ (fun c => spillComplete c q.val) := rfl
    rw [hexec, live_of_running l _ hrun, spillComplete_of_spilling hswitch hstate,
      spillStored_of_admitted hpart hsets hdata hplan hgo hgranted]
  case resume =>
    intro c l q w hrun hswitch hstate hcalm
    have hexec : exec (.resumeStart q) ⟨c, l⟩ = live ⟨c, l⟩ (fun c => resumeStart c q.val) := rfl
    rw [hexec, live_of_running l _ hrun, resumeStart_of_switched hswitch hstate hcalm]
  case raw =>
    intro c l q w hrun hswitch hstate hraw hgo
    rw [exec_restoreComplete l q hrun, restoreComplete_of_restoring hswitch hstate,
      resumeEnd_of_raw (Option.isNone_iff_eq_none.mp hraw), resumeOn_of_admitted hgo]
  case slots =>
    intro c l q w p k tag runs e hrun hswitch hstate hpart hslots htag hruns hgo hread
    subst hpart htag hruns hread
    rw [exec_restoreComplete l q hrun, restoreComplete_of_restoring hswitch hstate, resumeEnd_of_slots rfl hslots,
      resumeOn_of_admitted hgo]

end Sys2Proof.Machine
end

section
/-!
PROOF. The statements of chapter 08 (attention and the key-value cache): what every command keeps of the queues, the Start list, the
walkers and the slot contexts; REIN_ATTEND, KV_APPEND and PAGE_EDIT (R233 to R245, R249 to R251); walks and retire rings (R246,
R252); and the writes of a walker's or a Skive engine's page (R231, R258, R310, R517).
-/
namespace Sys2Proof.Machine

/-! ### Queues, the Start list and the walkers -/

theorem exec_queues {i : Instr} {s t : State} (h : exec i s = .next t) (hno : i.mayTouchQueues = false) : t.q = s.q :=
  ((exec_keeps h False.elim).cx.q _ (keptUnless_of_not _ hno)).symm

theorem exec_serve {i : Instr} {s t : State} (h : exec i s = .next t) (hno : i.mayTouchServe = false) : t.serve = s.serve :=
  ((exec_keeps h False.elim).cx.l _ (keptUnless_of_not _ hno)).symm

theorem exec_walkers {i : Instr} {s t : State} (h : exec i s = .next t) (hno : i.mayTouchWalkers = false) : t.kv = s.kv :=
  ((exec_keeps h False.elim).cv _ (keptUnless_of_not _ hno)).symm

/-- Settles O42: each of the four parts stands among those that `exec_keeps` keeps. -/
theorem queuesKept : Obligations.QueuesKept :=
  ⟨fun _ _ _ hno h => exec_queues h hno, fun _ _ _ hno h => exec_serve h hno, fun _ _ _ hno h => exec_walkers h hno,
    fun _ _ _ hno h => exec_slots h hno⟩

/-! ### The end of a Rein command (R256, R257) -/

/-- A Rein command that neither waits nor has faulted is counted, charged and done. -/
theorem reinClose_of_done {x : Rd} {s : Chip} {o : Origin} {op : Nat} {b : Body} {n : Nat} (hhold : x.hold = none)
    (hbad : x.bad = none) : reinClose x s o op b n = reinOver (reinCounted x s o op b) o op b n := by
  simp only [reinClose, hhold, hbad, Option.isSome_none, Bool.false_eq_true, if_false]

/-! ### REIN_ATTEND (R236 to R243) -/

/-- A REIN_ATTEND whose entries neither waited nor faulted ends its lane group, is done after its cycles, and drops a walk that it
started for itself. -/
theorem attendEnd_of_done {a : AttendRun} {k : Rd × Walk × Bool} {s : Chip} {o : Origin} {b : Body} (hhold : a.x.hold = none)
    (hbad : a.x.bad = none) :
    attendEnd a k s o b =
      dropWalk k.2.1 k.2.2 (reinOver (reinCounted { a.x with s := labGroupEnd (draw a.x.s).2 k.2.1 } s o 0x20 b) o 0x20 b
        (cdiv a.cost 262144 + 60 + Config.freeNat (draw a.x.s).1)) := by
  have hgo : attendEnd a k s o b = dropWalk k.2.1 k.2.2 (reinClose { a.x with s := labGroupEnd (draw a.x.s).2 k.2.1 } s o 0x20 b
      (cdiv a.cost 262144 + 60 + Config.freeNat (draw a.x.s).1)) := if_neg (by simp [hhold])
  rw [hgo, reinClose_of_done (by exact hhold) (by exact hbad)]

/-- A REIN_ATTEND whose fields are in order (R238, R241) and whose batch is aligned (R240) attends over its entries, under the walk
that it has or starts. -/
theorem reinAttend_of_ordered {s : Chip} {o : Origin} {b : Body} {met : List BufferError} {k : Rd × Walk × Bool} (parity : List Nat)
    (hfields : attendInvalid (attendOf b) = false) (haligned : bw b 0x10 % 32 = 0) (hwalk : (reinStart s o met).walk o 0x20 b = k) :
    reinAttend s o b met parity = attendEnd (attendWork k s o b met parity) k s o b := by
  simp only [reinAttend, hfields, haligned, hwalk, bne_self_eq_false, Bool.false_eq_true, if_false]

/-! ### KV_APPEND (R244, R245) -/

/-- A KV_APPEND whose entries neither waited nor faulted ends its lane group, is done after its cycles, and drops a walk that it
started for itself. -/
theorem appendEnd_of_done {y : Rd} {k : Rd × Walk × Bool} {s : Chip} {o : Origin} {b : Body} (hhold : y.hold = none)
    (hbad : y.bad = none) :
    appendEnd y k s o b =
      dropWalk k.2.1 k.2.2 (reinOver (reinCounted { y with s := labGroupEnd (draw y.s).2 k.2.1 } s o 0x21 b) o 0x21 b
        (Config.freeNat (draw y.s).1)) := by
  have hgo : appendEnd y k s o b = dropWalk k.2.1 k.2.2 (reinClose { y with s := labGroupEnd (draw y.s).2 k.2.1 } s o 0x21 b
      (Config.freeNat (draw y.s).1)) := if_neg (by simp [hhold])
  rw [hgo, reinClose_of_done (by exact hhold) (by exact hbad)]

/-- A KV_APPEND whose batch is aligned (R240) appends its entries, under the walk that it has or starts. -/
theorem kvAppend_of_aligned {s : Chip} {o : Origin} {b : Body} {met : List BufferError} {k : Rd × Walk × Bool} (parity : List Nat)
    (haligned : bw b 0x10 % 32 = 0) (hwalk : (reinStart s o met).walk o 0x21 b = k) :
    kvAppend s o b met parity = appendEnd (appendWork k s o b met parity) k s o b := by
  simp only [kvAppend, haligned, hwalk, bne_self_eq_false, Bool.false_eq_true, if_false]

/-! ### PAGE_EDIT (R249 to R251) -/

/-- A page edit whose context and layout are read, with no access waiting or stopping it, makes its edit. -/
theorem pageEditWith_of_loaded {s : Chip} {o : Origin} {b : Body} {e : EditLoad} {k : KvCtx} {v : KvLayout} (hctx : e.ctx = some k)
    (hlay : e.lay = some v) (hread : e.x.ended = false) :
    pageEditWith s o b e = pageEditEnd (pageEditRun e.x o (editArgsOf b) k v e.list e.gen e.src (bq b 0x10)) s o b := by
  simp only [pageEditWith, hctx, hlay, hread, Bool.false_eq_true, if_false]

/-- A page edit whose fields are in order goes on with what it reads first. -/
theorem pageEdit_of_ordered {s : Chip} {o : Origin} {b : Body} (hfields : editCode b = none) :
    pageEdit s o b = pageEditWith s o b (editLoad s o b) := by
  rw [pageEdit, hfields]

/-- A page edit that neither waits nor has faulted is done. -/
theorem pageEditEnd_of_done {y : Rd} {s : Chip} {o : Origin} {b : Body} (hhold : y.hold = none) (hbad : y.bad = none) :
    pageEditEnd y s o b =
      reinOver (reinCounted { y with s := (draw y.s).2 } s o 0x22 b) o 0x22 b (Config.freeNat (draw y.s).1) :=
  reinClose_of_done (x := { y with s := (draw y.s).2 }) hhold hbad

/-- The row of kind `op` carries out a PAGE_EDIT of that kind. -/
theorem carry_pageEditRow_of_loaded {c c' : Chip} {o : Origin} {b : Body} {e : EditLoad} {k : KvCtx} {v : KvLayout} {y : Rd}
    {op : Nat} (l : List Instr) (hrun : running c = true) (htodo : stillToDo c o (reinOf o) 0x22 b = true)
    (hhand : handTo c o (reinOf o) 0x22 b = c') (hop : (editArgsOf b).op = op) (hfields : editCode b = none)
    (hload : editLoad c' o b = e) (hctx : e.ctx = some k) (hlay : e.lay = some v) (hread : e.x.ended = false)
    (hedit : pageEditRun e.x o (editArgsOf b) k v e.list e.gen e.src (bq b 0x10) = y) (hhold : y.hold = none) (hbad : y.bad = none) :
    carry ⟨c, l⟩ o (reinOf o) 0x22 b (fun c => pageEditRow op c o b) =
      .next ⟨reinOver (reinCounted { y with s := (draw y.s).2 } c' o 0x22 b) o 0x22 b (Config.freeNat (draw y.s).1), l⟩ := by
  rw [carry_of_stillToDo l _ hrun htodo, hhand, pageEditRow, if_pos (Or.inl hop), pageEdit_of_ordered hfields, hload,
    pageEditWith_of_loaded hctx hlay hread, hedit, pageEditEnd_of_done hhold hbad]

/-- Settles O7: each is carried out with its job in hand; the five edits are one command's rows. -/
theorem kvCommandsRun : Obligations.KvCommandsRun := by
  refine ⟨?attend, ?append, ?set, ?alloc, ?release, ?share, ?move⟩
  case attend =>
    intro c l o b met parity k a c' hrun htodo hhand hfields haligned hwalk hwork hhold hbad
    have hexec : exec (.reinAttend o b met parity) ⟨c, l⟩ =
        carry ⟨c, l⟩ o (reinOf o) 0x20 b (fun c => reinAttend c o b met parity) := rfl
    rw [hexec, carry_of_stillToDo l _ hrun htodo, hhand, reinAttend_of_ordered parity hfields haligned hwalk, hwork,
      attendEnd_of_done hhold hbad]
  case append =>
    intro c l o b met parity k y c' hrun htodo hhand haligned hwalk hwork hhold hbad
    have hexec : exec (.kvAppend o b met parity) ⟨c, l⟩ =
        carry ⟨c, l⟩ o (reinOf o) 0x21 b (fun c => kvAppend c o b met parity) := rfl
    rw [hexec, carry_of_stillToDo l _ hrun htodo, hhand, kvAppend_of_aligned parity haligned hwalk, hwork,
      appendEnd_of_done hhold hbad]
  case set => exact fun _ l _ _ _ _ _ _ _ => carry_pageEditRow_of_loaded l
  case alloc => exact fun _ l _ _ _ _ _ _ _ => carry_pageEditRow_of_loaded l
  case release => exact fun _ l _ _ _ _ _ _ _ => carry_pageEditRow_of_loaded l
  case share => exact fun _ l _ _ _ _ _ _ _ => carry_pageEditRow_of_loaded l
  case move => exact fun _ l _ _ _ _ _ _ _ => carry_pageEditRow_of_loaded l

/-! ### Walks and retire rings (R246, R252) -/

/-- A command that the region's Rein engine runs and that has no walk yet starts one (R246). -/
theorem walkStart_of_unwalked {s : Chip} {p tag : Nat} {r : Fin 4} (hruns : reinRuns s p r tag = true)
    (hnew : s.kv.walks.any (fun w => w.cmd == some tag) = false) :
    walkStart s p r tag = ((startRd s).begin p r.val none (some tag)).1.settle s p none :=
  if_pos (by simp only [hruns, hnew, Bool.not_false, Bool.and_self])

/-- A walk whose command or step is over ends (R246). -/
theorem walkEnd_of_idle {s : Chip} {p id : Nat} {w : Walk} (hwalk : s.kv.walks.find? (fun w => w.id == id && w.part == p) = some w)
    (hidle : walkBusy s w = false) : walkEnd s p id = endWalk s id := by
  simp only [walkEnd, hwalk, hidle, Bool.false_eq_true, if_false]

/-- A retire ring of a tier in use, under a valid context, advances while its allocator's state is known (R252, R517). -/
theorem retireAdvanceWith_of_known {s : Chip} {p : Nat} {tierB : Bool} {e : Rd × Option KvCtx} {k : KvCtx} (hctx : e.2 = some k)
    (hused : (pool k tierB).frames ≠ 0) (hknown : (kvPart s p).lost = false) :
    retireAdvanceWith s p tierB e =
      (e.1.advance p (pool k tierB) tierB (retireTail (kvPart s p) tierB - retireHead (kvPart s p) tierB)).settle s p none := by
  simp only [retireAdvanceWith, hctx, hused, hknown, decide_false, Bool.or_self, Bool.false_eq_true, if_false]

/-- Settles O8: each of the three is an event of a running module whose condition holds. -/
theorem walksAndRetirementRun : Obligations.WalksAndRetirementRun := by
  refine ⟨?start, ?done, ?advance⟩
  case start =>
    intro c l p region tag hrun hruns hnew
    have hexec : exec (.walkStart p region tag) ⟨c, l⟩ = live ⟨c, l⟩ (fun c => walkStart c p.val region tag) := rfl
    rw [hexec, live_of_running l _ hrun, walkStart_of_unwalked hruns hnew]
  case done =>
    intro c l p walk w hrun hwalk hidle
    have hexec : exec (.walkEnd p walk) ⟨c, l⟩ = live ⟨c, l⟩ (fun c => walkEnd c p.val walk) := rfl
    rw [hexec, live_of_running l _ hrun, walkEnd_of_idle hwalk hidle]
  case advance =>
    intro c l p tierB e k hrun hread hctx hused hknown
    have hexec : exec (.retireQueueAdvance p tierB) ⟨c, l⟩ = live ⟨c, l⟩ (fun c => retireQueueAdvance c p.val tierB) := rfl
    rw [hexec, live_of_running l _ hrun, retireQueueAdvance, hread, retireAdvanceWith_of_known hctx hused hknown]

/-! ### Writes of a walker's or a Skive engine's page (R231, R258, R310, R517) -/

/-- The allocator walker of the selected partition, whose reads do not wait, takes or rejects the model as it reads (R231). -/
theorem pwModelLoad_of_read {s : Chip} {r index p : Nat} {e : Rd × Option KvCtx} {k : Rd × Option KvLayout}
    (hpart : walkerPart s r = p) (hquads : (quadsOf s p).isEmpty = false) (hregion : allocRegion s p = r)
    (hctx : (startRd s).ctx p r none = e) (hmodel : modelRead p (index % 16) e = k) (hhold : k.1.hold = none) :
    pwModelLoad s r index = setFlag (setModel (k.1.settle s p none) p (index % 16) k.2) (.pw r) Reg.PW_IRQ_STAT_MODEL_DONE := by
  have hhere : (allocRegion s p != r) = false := by simp [hregion]
  simp only [pwModelLoad, hpart, hquads, hhere, hctx, hmodel, modelLoaded, hhold, Option.isSome_none, Bool.or_self,
    Bool.false_eq_true, if_false]

/-- The allocator walker of the selected partition, with no walk and no edit of it, takes a free depth, and its state is no longer
lost (R258, R517). -/
theorem freeWrite_of_idle {s : Chip} {r p v : Nat} {tierB : Bool} (hpart : rd s (.pw r) Reg.PW_PART_SEL_PARTITION = p)
    (hquads : (quadsOf s p).isEmpty = false) (hregion : allocRegion s p = r) (hwalks : kvBusy s p = false)
    (hedits : editing s p = false) :
    freeWrite s r tierB v = setFree (setKvPart s p (fun k => { k with lost := false })) p tierB (bits v 30 0) := by
  have hhere : (allocRegion s p != r) = false := by simp [hregion]
  simp only [freeWrite, pwFreeWrite, hpart, hquads, hhere, hwalks, hedits, Bool.or_self, Bool.false_eq_true, if_false]

/-- A slot context's load whose reads do not wait takes the context or rejects it (R310). -/
theorem skvCtxLoad_of_read {s : Chip} {r p : Nat} {e : SlotCtxRead} (hread : slotCtxRead s r p = e) (hhold : e.x.hold = none) :
    skvCtxLoad s r p = slotCtxTaken s r p e := by
  simp only [skvCtxLoad, hread, slotCtxWith, hhold, Option.isSome_none, Bool.false_eq_true, if_false]

/-- Settles O21: each is a write of the host driver, while the module runs. -/
theorem walkerPageWritesRun : Obligations.WalkerPageWritesRun := by
  refine ⟨?model, ?free, ?slots⟩
  case model =>
    intro c l region index p e k hrun hopen hpart hquads hregion hctx hmodel hhold
    have hexec : exec (.pwModelLoad region index) ⟨c, l⟩ = drivenLive ⟨c, l⟩ (fun c => pwModelLoad c region.val index) := rfl
    rw [hexec, drivenLive_of_open l _ hrun hopen, pwModelLoad_of_read hpart hquads hregion hctx hmodel hhold]
  case free =>
    intro c l region tierB v p hrun hopen hpart hquads hregion hwalks hedits
    have hexec : exec (.pwFreeWrite region tierB v) ⟨c, l⟩ =
        drivenLive ⟨c, l⟩ (fun c => freeWrite c region.val tierB v.toNat) := rfl
    rw [hexec, drivenLive_of_open l _ hrun hopen, freeWrite_of_idle hpart hquads hregion hwalks hedits]
  case slots =>
    intro c l region p e hrun hopen hread hhold
    have hexec : exec (.skvCtxLoad region p) ⟨c, l⟩ = drivenLive ⟨c, l⟩ (fun c => skvCtxLoad c region.val p.val) := rfl
    rw [hexec, drivenLive_of_open l _ hrun hopen, skvCtxLoad_of_read hread hhold]

end Sys2Proof.Machine
end

section
/-!
PROOF. The statements of chapter 09 (serving): the commands of the Start list (R262, R264 to R266, R270, R281 to R290), SERVE_SAMPLE
(R278, R279), catches (R273 to R276), and the events of steps, windows, timers, edits, moves and fetches (R250, R277, R286 to R289).
-/
namespace Sys2Proof.Machine

/-! ### Events of the Start list (R281) -/

/-- An event of the Start list works on what the events that are due by now have left (R281). -/
theorem slRun_of_start {s : Chip} {p : Nat} {x : Rd} (cmd : Option Nat) (f : Rd → Rd) (hstart : slStart s p = x) :
    slRun s p cmd f = slEnd s p cmd (f x) := by
  rw [slRun, hstart]

/-- With the Start list enabled once the events due have run, a serving command does its work (R264). -/
theorem slCommand_of_enabled {s : Chip} {o : Origin} {op : Nat} {b : Body} {x : Rd} (f : Rd → Rd)
    (hstart : slStart s o.part.val = x) (hon : slCfg x.s o.part.val Reg.SL_CFG_ENABLE ≠ 0) :
    slCommand s o op b f = slEnd s o.part.val (servingCmd s o op b) (f x) := by
  rw [slCommand, slRun_of_start _ _ hstart, if_neg hon]

/-- A serving command that is still to be done reaches the enabled Start list with its job in hand. -/
theorem carry_slCommand_of_enabled {c c' : Chip} {o : Origin} {op : Nat} {b : Body} {x : Rd} (l : List Instr) (f : Rd → Rd)
    (hrun : running c = true) (htodo : stillToDo c o (startListOf o) op b = true) (hhand : handTo c o (startListOf o) op b = c')
    (hstart : slStart c' o.part.val = x) (hon : slCfg x.s o.part.val Reg.SL_CFG_ENABLE ≠ 0) :
    carry ⟨c, l⟩ o (startListOf o) op b (fun c => slCommand c o op b f) =
      .next ⟨slEnd c' o.part.val (servingCmd c' o op b) (f x), l⟩ := by
  rw [carry_of_stillToDo l _ hrun htodo, hhand, slCommand_of_enabled f hstart hon]

/-! ### SERVE_CANCEL, SERVE_PAUSE, SERVE_RESUME and SERVE_EDIT (R262, R281 to R283, R289) -/

/-- A handle that names a live slot makes the command an event of that slot, with the command's stamp (R262, R282). -/
theorem slotWork_of_named {o : Origin} {op : Nat} {b : Body} {x : Rd} {k : Nat} (met : Ecc)
    (hslot : slotNamed x.s o.part.val (bw b 0x10) = some k) :
    slotWork o op b met x = (x.slotMeets o.part.val k met).slotEvent o.part.val k x.s.now (.command op o b) := by
  simp only [slotWork, hslot]

/-- A handle that names no slot ends the command with NOT_LIVE (R262). -/
theorem slotWork_of_unnamed {o : Origin} {op : Nat} {b : Body} {x : Rd} (met : Ecc)
    (hslot : slotNamed x.s o.part.val (bw b 0x10) = none) : slotWork o op b met x = x.done o op b 0x307 0 := by
  simp only [slotWork, hslot]

/-- Each of the four commands, with a handle that names a live slot. -/
theorem carry_serveSlot_of_named {c c' : Chip} {o : Origin} {op : Nat} {b : Body} {x : Rd} {k : Nat} (l : List Instr) (met : Ecc)
    (hrun : running c = true) (htodo : stillToDo c o (startListOf o) op b = true) (hhand : handTo c o (startListOf o) op b = c')
    (hstart : slStart c' o.part.val = x) (hon : slCfg x.s o.part.val Reg.SL_CFG_ENABLE ≠ 0)
    (hslot : slotNamed x.s o.part.val (bw b 0x10) = some k) :
    carry ⟨c, l⟩ o (startListOf o) op b (fun c => serveSlot c o op b met) =
      .next ⟨slEnd c' o.part.val (servingCmd c' o op b)
        ((x.slotMeets o.part.val k met).slotEvent o.part.val k x.s.now (.command op o b)), l⟩ := by
  simp only [serveSlot]
  rw [carry_slCommand_of_enabled l _ hrun htodo hhand hstart hon, slotWork_of_named met hslot]

/-- Each of the four commands, with a handle that names no slot. -/
theorem carry_serveSlot_of_unnamed {c c' : Chip} {o : Origin} {op : Nat} {b : Body} {x : Rd} (l : List Instr) (met : Ecc)
    (hrun : running c = true) (htodo : stillToDo c o (startListOf o) op b = true) (hhand : handTo c o (startListOf o) op b = c')
    (hstart : slStart c' o.part.val = x) (hon : slCfg x.s o.part.val Reg.SL_CFG_ENABLE ≠ 0)
    (hslot : slotNamed x.s o.part.val (bw b 0x10) = none) :
    carry ⟨c, l⟩ o (startListOf o) op b (fun c => serveSlot c o op b met) =
      .next ⟨slEnd c' o.part.val (servingCmd c' o op b) (x.done o op b 0x307 0), l⟩ := by
  simp only [serveSlot]
  rw [carry_slCommand_of_enabled l _ hrun htodo hhand hstart hon, slotWork_of_unnamed met hslot]

/-- Settles O10: the four commands differ in their opcode alone. -/
theorem slotCommandsRun : Obligations.SlotCommandsRun := by
  refine ⟨?cancel, ?cancelUnnamed, ?pause, ?pauseUnnamed, ?resume, ?resumeUnnamed, ?edit, ?editUnnamed⟩
  case cancel => exact fun _ l _ _ met _ _ _ => carry_serveSlot_of_named l met
  case cancelUnnamed => exact fun _ l _ _ met _ _ => carry_serveSlot_of_unnamed l met
  case pause => exact fun _ l _ _ met _ _ _ => carry_serveSlot_of_named l met
  case pauseUnnamed => exact fun _ l _ _ met _ _ => carry_serveSlot_of_unnamed l met
  case resume => exact fun _ l _ _ met _ _ _ => carry_serveSlot_of_named l met
  case resumeUnnamed => exact fun _ l _ _ met _ _ => carry_serveSlot_of_unnamed l met
  case edit => exact fun _ l _ _ met _ _ _ => carry_serveSlot_of_named l met
  case editUnnamed => exact fun _ l _ _ met _ _ => carry_serveSlot_of_unnamed l met

/-! ### SERVE_SUBMIT, SERVE_ACCOUNT, SERVE_QUERY and SERVE_SAMPLE (R265, R270, R278, R287, R290) -/

/-- A submission whose fields are in order and whose descriptor is read, with no fault and no wait, is submitted (R265, R290). -/
theorem submitWork_of_read {o : Origin} {b : Body} {host : HostReply} {x : Rd} {e : Rd × List Byte} (haligned : bq b 0x10 % 128 = 0)
    (hspace : bf b 0x18 1 0 = 1 ∨ bf b 0x18 1 0 = 2) (hread : x.descriptor o b host = e) (hbad : e.1.bad = none)
    (hhold : e.1.hold = none) : submitWork o b host x = e.1.submit o b e.2 := by
  have hfields : ¬ (bq b 0x10 % 128 ≠ 0 ∨ bf b 0x18 1 0 = 0 ∨ bf b 0x18 1 0 = 3) := by omega
  simp only [submitWork, if_neg hfields, hread, hbad, hhold, Option.isSome_none, Bool.false_eq_true, if_false]

/-- An account whose window is in range is set from the command (R287). -/
theorem accountWork_of_inRange {o : Origin} {b : Body} {x : Rd} {e : Rd × Account} (hlow : 1000 ≤ bw b 0x18)
    (hhigh : bw b 0x18 ≤ 60000000) (hread : x.account o.part.val (bf b 0x10 11 0) = e) :
    accountWork o b x =
      (e.1.putAccount o.part.val (bf b 0x10 11 0) (accountSet e.2 b x.s.now)).done o 0x45 b 0x301 0 := by
  have hrange : ¬ (bw b 0x18 < 1000 ∨ bw b 0x18 > 60000000) := by omega
  simp only [accountWork, if_neg hrange, hread]

/-- A query of a live slot writes the slot's image to an aligned DST (R270, R283). -/
theorem queryWork_of_named {o : Origin} {b : Body} {met : Ecc} {x y : Rd} {k : Nat}
    (hslot : slotNamed x.s o.part.val (bw b 0x10) = some k) (haligned : bq b 0x14 % 128 = 0)
    (hput : (x.slotMeets o.part.val k met).plainPut o.part.val (bq b 0x14)
      (imageBytes (slotImage (x.slotMeets o.part.val k met).s o.part.val k)) false = y)
    (hbad : y.bad = none) : queryWork o b met x = y.done o 0x46 b 0x301 0 := by
  simp only [queryWork, hslot, if_neg (not_not.mpr haligned), hput, hbad]

/-- A SERVE_SAMPLE of the running step, on a block that is not fenced, goes through its sequences (R278). -/
theorem serveSample_of_step {s : Chip} {o : Origin} {blk : Fin 256} {b : Body} {st : StepRun} (hfence : blockFenced s blk.val = false)
    (hrunning : (serve s o.part.val).step = some st) (hstep : o.step = true) (hsome : bf b 0x18 23 0 ≠ 0) :
    serveSample s o blk b = sampleEnd (sampleWork s o blk b st) s o blk b := by
  simp only [serveSample, hfence, hrunning, hstep, if_neg hsome, Bool.not_true, Bool.false_eq_true, if_false]

/-- A SERVE_SAMPLE that did not wait is done after its cycles (R278). -/
theorem sampleEnd_of_done {r : Rd × Nat} {s : Chip} {o : Origin} {blk : Fin 256} {b : Body} (hhold : r.1.hold = none) :
    sampleEnd r s o blk b =
      burnDone (closeRd { r.1 with s := r.1.settle s o.part.val none } o blk.val) o blk 0x47 b r.2 :=
  if_neg (by simp [hhold])

/-- Settles O11: three are commands of the enabled Start list, and SERVE_SAMPLE is one of its Burnisher. -/
theorem serveCommandsRun : Obligations.ServeCommandsRun := by
  refine ⟨?submit, ?account, ?query, ?sample⟩
  case submit =>
    intro c l o b descriptor x e c' hrun htodo hhand hstart hon haligned hspace hread hbad hhold
    have hexec : exec (.serveSubmit o b descriptor) ⟨c, l⟩ =
        carry ⟨c, l⟩ o (startListOf o) 0x40 b (fun c => slCommand c o 0x40 b (submitWork o b descriptor)) := rfl
    rw [hexec, carry_slCommand_of_enabled l _ hrun htodo hhand hstart hon, submitWork_of_read haligned hspace hread hbad hhold]
  case account =>
    intro c l o b x e c' hrun htodo hhand hstart hon hlow hhigh hread
    have hexec : exec (.serveAccount o b) ⟨c, l⟩ =
        carry ⟨c, l⟩ o (startListOf o) 0x45 b (fun c => slCommand c o 0x45 b (accountWork o b)) := rfl
    rw [hexec, carry_slCommand_of_enabled l _ hrun htodo hhand hstart hon, accountWork_of_inRange hlow hhigh hread]
  case query =>
    intro c l o b met x k y c' hrun htodo hhand hstart hon hslot haligned hput hbad
    have hexec : exec (.serveQuery o b met) ⟨c, l⟩ =
        carry ⟨c, l⟩ o (startListOf o) 0x46 b (fun c => slCommand c o 0x46 b (queryWork o b met)) := rfl
    rw [hexec, carry_slCommand_of_enabled l _ hrun htodo hhand hstart hon, queryWork_of_named hslot haligned hput hbad]
  case sample =>
    intro c l o blk b st r c' hrun htodo hhand hfence hrunning hstep hsome hwork hhold _
    have hexec : exec (.serveSample o blk b) ⟨c, l⟩ =
        carry ⟨c, l⟩ o (.burnisher blk) 0x47 b (fun c => serveSample c o blk b) := rfl
    rw [hexec, carry_of_stillToDo l _ hrun htodo, hhand, serveSample_of_step hfence hrunning hstep hsome, hwork,
      sampleEnd_of_done hhold]

/-! ### Catches (R273 to R276) -/

/-- Where the step's region is awake, a catch is an event of the Start list (R273, R460). -/
theorem catchStep_of_awake {s : Chip} {p : Nat} (hawake : regionAwake s (leadQuad s p / 4) = true) :
    catchStep s p = slRun s p none (catchWork p) :=
  if_neg (by simp [hawake])

/-- A catch that is still open once the events due have run takes the batch of the slots that are then eligible (R273, R275). -/
theorem catchWork_of_open {p : Nat} {x : Rd} (hopen : catchOpen x.s p = true) (hsome : (formBatch x.s p).placed.isEmpty = false) :
    catchWork p x = x.catch p (formBatch x.s p) :=
  if_pos (by simp [hopen, hsome])

/-! ### Steps, windows and timers that are due (R277, R286, R288) -/

/-- The end of a step is an event of the Start list with nothing of its own: what is due is handled first (R277, R281). -/
theorem stepFinish_of_ended {s : Chip} {p : Nat} (hended : (stepEnded s p).isSome = true) :
    stepFinish s p = slEnd s p none (slStart s p) := if_pos hended

/-- So is the end of an account's window (R286). -/
theorem accountWindowRollover_of_over {s : Chip} {p a : Nat} {v : Account} (haccount : tget (serve s p).accounts a = some v)
    (hset : v.next ≠ 0) (hover : v.next ≤ s.now) : accountWindowRollover s p a = slEnd s p none (slStart s p) := by
  simp only [accountWindowRollover, haccount, if_pos (And.intro hset hover), slRun]

/-- So is a slot's move that is due (R288). -/
theorem moveDueRow_of_due {s : Chip} {p h : Nat}
    (hdue : (slotWhere s p h (fun t => t.timer == .move && decide (t.due ≤ s.now))).isSome = true) :
    moveDueRow s p h = slEnd s p none (slStart s p) := if_pos hdue

/-- So is a slot's expiry (R288). -/
theorem ttlExpiry_of_due {s : Chip} {p h : Nat}
    (hdue : (slotWhere s p h (fun t => t.timer == .expiry && decide (t.due ≤ s.now))).isSome = true) :
    ttlExpiry s p h = slEnd s p none (slStart s p) := if_pos hdue

/-! ### The ends of edits, moves and fetches (R250, R283, R288, R289) -/

/-- A slot that shows EDITING ends its edit for the command that it holds (R250, R283). -/
theorem serveEditComplete_of_editing {s : Chip} {p h k : Nat} {t : Slot} {o : Origin} {b : Body} {x : Rd}
    (hslot : slotWhere s p h (fun t => t.editing) = some (k, t)) (hedit : t.edit = some (o, b)) (hstart : slStart s p = x) :
    serveEditComplete s p h = slEnd s p (servingCmd s o 0x44 b) (editCompleteWork p h k (some (o, b)) x) := by
  simp only [serveEditComplete, hslot, hedit, slRun_of_start _ _ hstart]

/-- A slot that shows MOVING ends its move (R288). -/
theorem boathouseMoveComplete_of_moving {s : Chip} {p h k : Nat} {t : Slot} {x : Rd}
    (hslot : slotWhere s p h (fun t => t.moving) = some (k, t)) (hstart : slStart s p = x) :
    boathouseMoveComplete s p h = slEnd s p none (moveCompleteWork p h k t.listBlocks x) := by
  simp only [boathouseMoveComplete, hslot, slRun_of_start _ _ hstart]

/-- A move whose pages all went to tier B leaves its slot BOATHOUSED, counted and free of the move (R288). -/
theorem moveCompleteWork_of_moved {p h k n : Nat} {x : Rd} {e : Rd × Option (Nat × Option Nat)}
    (hlive : (slotNamed x.s p h).isNone = false) (hedit : x.editSlot p k (wholeEdit 4 n true 0) = e) (hgone : e.2 = none) :
    moveCompleteWork p h k n x =
      (moveDone ((Rd.afterEdit e).onSlot p k (fun t => { t with moving := false })) p k x.s.now).release p k x.s.now := by
  simp only [moveCompleteWork, hlive, hedit, hgone, Option.isSome_none, Bool.false_eq_true, if_false]

/-- A slot that shows FETCHING ends its fetch (R289). -/
theorem boathouseFetchComplete_of_fetching {s : Chip} {p h k : Nat} {t : Slot} {x : Rd}
    (hslot : slotWhere s p h (fun t => t.fetching) = some (k, t)) (hstart : slStart s p = x) :
    boathouseFetchComplete s p h = slEnd s p none (fetchCompleteWork p h k t.listBlocks x) := by
  simp only [boathouseFetchComplete, hslot, slRun_of_start _ _ hstart]

/-- A fetch whose pages all came back to tier A leaves its slot free of it (R289). -/
theorem fetchCompleteWork_of_fetched {p h k n : Nat} {x : Rd} {e : Rd × Option (Nat × Option Nat)}
    (hlive : (slotNamed x.s p h).isNone = false) (hedit : x.editSlot p k (wholeEdit 4 n false 0) = e) (hback : e.2 = none) :
    fetchCompleteWork p h k n x = (((Rd.afterEdit e).onSlot p k (fun t => { t with fetching := false })).onSlot p k
      (fun t => { t with moveFailed := false })).release p k x.s.now := by
  simp only [fetchCompleteWork, hlive, hedit, hback, Option.isSome_none, Bool.false_eq_true, if_false]

/-- Settles O12: each is an event of a running module whose condition holds. -/
theorem startListEventsRun : Obligations.StartListEventsRun := by
  refine ⟨?formed, ?step, ?window, ?move, ?expiry, ?edited, ?moved, ?fetched⟩
  case formed =>
    intro c l p x hrun _ _ hawake hstart hopen hsome
    have hexec : exec (.catchStep p) ⟨c, l⟩ = live ⟨c, l⟩ (fun c => catchStep c p.val) := rfl
    rw [hexec, live_of_running l _ hrun, catchStep_of_awake hawake, slRun_of_start _ _ hstart, catchWork_of_open hopen hsome]
  case step =>
    intro c l p hrun hended
    have hexec : exec (.stepFinish p) ⟨c, l⟩ = live ⟨c, l⟩ (fun c => stepFinish c p.val) := rfl
    rw [hexec, live_of_running l _ hrun, stepFinish_of_ended hended]
  case window =>
    intro c l p account v hrun haccount hset hover
    have hexec : exec (.accountWindowRollover p account) ⟨c, l⟩ =
        live ⟨c, l⟩ (fun c => accountWindowRollover c p.val account) := rfl
    rw [hexec, live_of_running l _ hrun, accountWindowRollover_of_over haccount hset hover]
  case move =>
    intro c l p handle hrun hdue
    have hexec : exec (.moveDue p handle) ⟨c, l⟩ = live ⟨c, l⟩ (fun c => moveDueRow c p.val handle) := rfl
    rw [hexec, live_of_running l _ hrun, moveDueRow_of_due hdue]
  case expiry =>
    intro c l p handle hrun hdue
    have hexec : exec (.ttlExpiry p handle) ⟨c, l⟩ = live ⟨c, l⟩ (fun c => ttlExpiry c p.val handle) := rfl
    rw [hexec, live_of_running l _ hrun, ttlExpiry_of_due hdue]
  case edited =>
    intro c l p handle k t o b x hrun hslot hedit hstart _
    have hexec : exec (.serveEditComplete p handle) ⟨c, l⟩ = live ⟨c, l⟩ (fun c => serveEditComplete c p.val handle) := rfl
    rw [hexec, live_of_running l _ hrun, serveEditComplete_of_editing hslot hedit hstart]
  case moved =>
    intro c l p handle k t x e hrun hslot hstart hlive hedit hgone
    have hexec : exec (.boathouseMoveComplete p handle) ⟨c, l⟩ =
        live ⟨c, l⟩ (fun c => boathouseMoveComplete c p.val handle) := rfl
    rw [hexec, live_of_running l _ hrun, boathouseMoveComplete_of_moving hslot hstart,
      moveCompleteWork_of_moved hlive hedit hgone]
  case fetched =>
    intro c l p handle k t x e hrun hslot hstart hlive hedit hback
    have hexec : exec (.boathouseFetchComplete p handle) ⟨c, l⟩ =
        live ⟨c, l⟩ (fun c => boathouseFetchComplete c p.val handle) := rfl
    rw [hexec, live_of_running l _ hrun, boathouseFetchComplete_of_fetching hslot hstart,
      fetchCompleteWork_of_fetched hlive hedit hback]

end Sys2Proof.Machine
end

section
/-!
PROOF. The statement of chapter 17 (register map): the registers every page has (R485 to R488), register writes and latched reads
(R11, R479, R481), signals of a Serrun port (R408, R418), readiness (R364), and the debug port and JTAG (R398, R399).
-/
namespace Sys2Proof.Machine

/-! ### Accesses that are answered (R355) -/

/-- While the host driver has its access, its register access has its effect, and the queue stays. -/
theorem driven_of_open {c : Chip} (l : List Instr) (f : Chip → Chip) (hopen : driverOpen c = true) :
    driven ⟨c, l⟩ f = .next ⟨f c, l⟩ := by
  rw [driven_eq, if_pos hopen]

/-- While a function answers, a register access through it has its effect, and the queue stays. -/
theorem through_of_open {c : Chip} {via : Via} (l : List Instr) (f : Chip → Chip) (hopen : viaOpen c via = true) :
    through ⟨c, l⟩ via f = .next ⟨f c, l⟩ := by
  rw [through_eq, if_pos hopen]

/-! ### Writes of a page's header, of SL_CFG.ENABLE and of COUNT_CLEAR (R108, R296, R487, R488) -/

/-- SL_CFG.ENABLE is written on the page that the write of a Start list page reaches (R295, R296). -/
theorem slEnableWrite_of_open {s : Chip} {pg t : Page} {r : Nat} (on : Bool) (hpage : pg = .fwSl ∨ pg = .sl r)
    (hopen : headerOpen s pg = true) (htarget : slTarget s pg = some t) :
    slEnableWrite s pg on = stormEdge s (wr s t Reg.SL_CFG_ENABLE (if on then 1 else 0)) := by
  rcases hpage with rfl | rfl
  · simp only [slEnableWrite, hopen, htarget, Bool.and_self, if_true]
  · simp only [slEnableWrite, hopen, htarget, Bool.and_self, if_true]

/-- A W1C write clears the ones it holds, and the vector may go out again (R487). -/
theorem irqStatClear_of_open {s : Chip} {pg : Page} (err : Bool) (v : Nat) (hopen : headerOpen s pg = true) :
    irqStatClear s pg err v = vectorAgain (clearOnes s pg (if err then 0x01C else 0x010) v) pg := if_pos hopen

/-- IRQ_SET sets the page's flags for which it holds a 1 (R487). -/
theorem irqSet_of_open {s : Chip} {pg : Page} (v : Nat) (hopen : headerOpen s pg = true) :
    irqSet s pg v =
      raised (summary s pg) (((irqFields pg).filter (fun f => bit v f.lo)).foldl (fun t f => wr t pg f 1) s) pg := if_pos hopen

/-- Injections into the hub, the Cox and the power manager fire at once (R488, log 121). -/
theorem errInject_of_immediate {s : Chip} {pg : Page} (v : Nat) (hopen : headerOpen s pg = true)
    (hpage : pg = .hub ∨ pg = .cox ∨ pg = .pm) : errInject s pg v = injectNow s pg v := by
  rcases hpage with rfl | rfl | rfl
  · exact if_neg (by simp [hopen])
  · exact if_neg (by simp [hopen])
  · exact if_neg (by simp [hopen])

/-- Injections into any other page arm those of its errors that can be injected (R488). -/
theorem errInject_of_armed {s : Chip} {pg : Page} (v : Nat) (hopen : headerOpen s pg = true) (hhub : pg ≠ .hub) (hcox : pg ≠ .cox)
    (hpm : pg ≠ .pm) :
    errInject s pg v = wr s pg Reg.ERR_INJECT_ARM (rd s pg Reg.ERR_INJECT_ARM ||| (v &&& injectable pg)) := by
  -- `hhub`, `hcox` and `hpm` choose the last arm of the match on the page.
  simp only [errInject, hopen, Bool.not_true, Bool.false_eq_true, if_false]

/-- COUNT_CLEAR clears the counters of the page that the write reaches (R108, R295). -/
theorem countClear_of_open {s : Chip} {pg t : Page} (v : Nat) (hopen : headerOpen s pg = true) (htarget : slTarget s pg = some t) :
    countClear s pg v = clearSets s t v := by
  simp only [countClear, hopen, htarget, if_true]

/-! ### Reads and writes through a function (R11, R479, R481) -/

/-- A read of a whole register that the function reaches completes with its value, and latches what its read latches (R481). -/
theorem latchingLoRead_of_reached {s : Chip} {via : Via} {off : Nat} (hhub : hubOn s = true) (haligned : off % 4 = 0)
    (hreach : reach s via off ≠ .absent) :
    latchingLoRead s via off = emit (viaRead s via off).2 (.register (viaRead s via off).1) :=
  if_neg (by simp [hhub, haligned, hreach])

/-- A write of a whole register of a page that the function reaches goes to that page (R11). -/
theorem registerWrite_of_reached {s : Chip} {via : Via} {off : Nat} {pg : Page} (v : Nat) (hhub : hubOn s = true)
    (haligned : off % 4 = 0) (hreach : reach s via off = .page pg) :
    registerWrite s via off v 15 = pageWrite s via pg (off % 4096) v := by
  simp only [registerWrite, hhub, haligned, hreach, Bool.not_true, bne_self_eq_false, Bool.or_self, Bool.false_eq_true, if_false]

/-! ### Signals, readiness and the debug port (R364, R398, R408) -/

/-- The return of the signal of a port that has a cable starts its training (R408). -/
theorem srnSignalDetect_of_cabled {s : Chip} {port : Nat} (hcable : (srnPort s port).cable.isNone = false) :
    srnSignalDetect s port = startTraining (setPort s port (fun x => { x with signal := true })) port :=
  if_neg (by simp [hcable])

/-- A function that comes out of its reset with its link up reports its readiness (R364). -/
theorem functionReadinessStatus_of_resetting {s : Chip} {port fn : Nat} (hhub : hubOn s = true)
    (hpresent : funcPresent s port fn = true) (hreset : (func s port fn).resetting = true) (hlink : dlUp s port = true) :
    functionReadinessStatus s port fn =
      emit (setFunc s port fn (fun f => { f with resetting := false })) (.readiness port fn) :=
  if_pos (by simp [hhub, hpresent, hreset, hlink])

/-- The debug port of a development part opens DEEP (R398). -/
theorem debugPortUnlock_of_development {s : Chip} (hhub : hubOn s = true) (hdevelopment : lifecycle s = 0)
    (hshut : deepBit s = false) : debugPortUnlock s = openDeep s :=
  if_pos (by simp [hhub, hdevelopment, hshut])

/-! ### JTAG (R399) -/

/-- Boundary scan works with power, DEEP or not (R399). -/
theorem jtagAccess_boundaryScan_of_powered {s : Chip} (hpower : powerState s ≠ 0) :
    jtagAccess s .boundaryScan = emit s .boundaryScan := if_neg hpower

section
variable {s : Chip} (hhub : hubOn s = true) (hdeep : deepBit s = true)
include hhub hdeep

theorem jtagAccess_scanWrite_of_deep (position : Nat) (w : Word) : jtagAccess s (.internalScan position (some w)) =
    { s with sec := { s.sec with scan := tset s.sec.scan position w.toNat } } := if_neg (by simp [hhub, hdeep])

/-- A scan position shows what was last written to it, and until then the free value that is drawn (log 123). -/
theorem jtagAccess_scanRead_of_deep (position : Nat) : jtagAccess s (.internalScan position none) =
    emit (draw s).2 (.jtag (tgetD s.sec.scan position (Config.freeNat (draw s).1 % 2 ^ 32))) := if_neg (by simp [hhub, hdeep])

theorem jtagAccess_coxWrite_of_deep (addr : Nat) (w : Word) : jtagAccess s (.cox addr (some w)) =
    { s with sec := { s.sec with cox := tset s.sec.cox addr w.toNat } } := if_neg (by simp [hhub, hdeep])

theorem jtagAccess_coxRead_of_deep (addr : Nat) : jtagAccess s (.cox addr none) =
    emit s (.jtag (tgetD s.sec.cox addr (Config.coxWord addr).toNat)) := if_neg (by simp [hhub, hdeep])

/-- A register of a page is written by the rules of the management function (R399, log 102). -/
theorem jtagAccess_pageWrite_of_deep {pg : Page} {off : Nat} (w : Word) (hpage : headerPage pg = true) (haligned : off % 4 = 0)
    (hoff : off < 4096) : jtagAccess s (.page pg off (some w)) = pageWrite s (mgmtVia s) pg off w.toNat :=
  if_neg (by simp [hhub, hdeep, hpage, haligned, hoff])

/-- A register of a page is read by the same rules, and latches what its read latches (R399, R481). -/
theorem jtagAccess_pageRead_of_deep {pg : Page} {off : Nat} (hpage : headerPage pg = true) (haligned : off % 4 = 0)
    (hoff : off < 4096) : jtagAccess s (.page pg off none) =
      emit (pageRead s (mgmtVia s) pg off).2 (.jtag (pageRead s (mgmtVia s) pg off).1) :=
  if_neg (by simp [hhub, hdeep, hpage, haligned, hoff])

end

theorem exec_jtagAccess (c : Chip) (l : List Instr) (a : Jtag) : exec (.jtagAccess a) ⟨c, l⟩ = .next ⟨jtagAccess c a, l⟩ := rfl

/-- Settles O32: the header's writes are the host driver's, register accesses go through a function, and signals, readiness, the
debug port and JTAG come from outside. -/
theorem pageCommandsRun : Obligations.PageCommandsRun := by
  refine ⟨?slEnable, ?quiesce, ?enable, ?reset, ?clear, ?set, ?errMask, ?irqMask, ?injectNow, ?injectArm, ?counts, ?read, ?write,
    ?signalLoss, ?signalDetect, ?readiness, ?unlock, ?boundaryScan, ?scanWrite, ?scanRead, ?coxWrite, ?coxRead, ?pageWrite,
    ?pageRead⟩
  case slEnable =>
    intro c l pg t r on hdriver hpage hopen htarget
    have hexec : exec (.slEnableWrite pg on) ⟨c, l⟩ = driven ⟨c, l⟩ (fun c => slEnableWrite c pg on) := rfl
    rw [hexec, driven_of_open l _ hdriver, slEnableWrite_of_open on hpage hopen htarget]
  case quiesce => exact fun c l pg v hdriver _ => driven_of_open l (fun c => pageCtrlWrite c pg (v.toNat ||| 2)) hdriver
  case enable => exact fun c l pg v hdriver _ => driven_of_open l (fun c => pageCtrlWrite c pg (v.toNat ||| 1)) hdriver
  case reset => exact fun c l pg v hdriver _ => driven_of_open l (fun c => pageCtrlWrite c pg (v.toNat ||| 4)) hdriver
  case clear =>
    intro c l pg err v hdriver hopen
    have hexec : exec (.irqStatClear pg err v) ⟨c, l⟩ = driven ⟨c, l⟩ (fun c => irqStatClear c pg err v.toNat) := rfl
    rw [hexec, driven_of_open l _ hdriver, irqStatClear_of_open err _ hopen]
  case set =>
    intro c l pg v hdriver hopen
    have hexec : exec (.irqSet pg v) ⟨c, l⟩ = driven ⟨c, l⟩ (fun c => irqSet c pg v.toNat) := rfl
    rw [hexec, driven_of_open l _ hdriver, irqSet_of_open _ hopen]
  case errMask =>
    intro c l pg v hdriver hopen
    rw [exec_interruptMaskWrite c l pg true v hdriver, interruptMaskWrite_open c pg true _ hopen]
    rfl
  case irqMask =>
    intro c l pg v hdriver hopen
    rw [exec_interruptMaskWrite c l pg false v hdriver, interruptMaskWrite_open c pg false _ hopen]
    rfl
  case injectNow =>
    intro c l pg v hdriver hopen hpage
    have hexec : exec (.errInject pg v) ⟨c, l⟩ = driven ⟨c, l⟩ (fun c => errInject c pg v.toNat) := rfl
    rw [hexec, driven_of_open l _ hdriver, errInject_of_immediate _ hopen hpage]
  case injectArm =>
    rintro c l pg v hdriver hopen ⟨hhub, hcox, hpm⟩
    have hexec : exec (.errInject pg v) ⟨c, l⟩ = driven ⟨c, l⟩ (fun c => errInject c pg v.toNat) := rfl
    rw [hexec, driven_of_open l _ hdriver, errInject_of_armed _ hopen hhub hcox hpm]
  case counts =>
    intro c l pg t v hdriver hopen htarget
    have hexec : exec (.countClear pg v) ⟨c, l⟩ = driven ⟨c, l⟩ (fun c => countClear c pg v.toNat) := rfl
    rw [hexec, driven_of_open l _ hdriver, countClear_of_open _ hopen htarget]
  case read =>
    intro c l via off hvia hhub haligned hreach
    have hexec : exec (.latchingLoRead via off) ⟨c, l⟩ = through ⟨c, l⟩ via (fun c => latchingLoRead c via off) := rfl
    rw [hexec, through_of_open l _ hvia, latchingLoRead_of_reached hhub haligned hreach]
  case write =>
    intro c l via off v pg hvia hhub haligned hreach
    have hexec : exec (.registerWrite via off v 15) ⟨c, l⟩ = through ⟨c, l⟩ via (fun c => registerWrite c via off v.toNat 15) := rfl
    rw [hexec, through_of_open l _ hvia, registerWrite_of_reached _ hhub haligned hreach]
  case signalLoss => exact fun _ _ _ => rfl
  case signalDetect =>
    intro c l p hcable
    have hexec : exec (.srnSignalDetect p) ⟨c, l⟩ = .next ⟨srnSignalDetect c p.val, l⟩ := rfl
    rw [hexec, srnSignalDetect_of_cabled hcable]
  case readiness =>
    intro c l port fn hhub hpresent hreset hlink
    have hexec : exec (.functionReadinessStatus port fn) ⟨c, l⟩ = .next ⟨functionReadinessStatus c port.val fn.val, l⟩ := rfl
    rw [hexec, functionReadinessStatus_of_resetting hhub hpresent hreset hlink]
  case unlock =>
    intro c l hhub hdevelopment hshut
    have hexec : exec .debugPortUnlock ⟨c, l⟩ = .next ⟨debugPortUnlock c, l⟩ := rfl
    rw [hexec, debugPortUnlock_of_development hhub hdevelopment hshut]
  case boundaryScan =>
    intro c l hpower
    rw [exec_jtagAccess, jtagAccess_boundaryScan_of_powered hpower]
  case scanWrite =>
    intro c l position w hhub hdeep
    rw [exec_jtagAccess, jtagAccess_scanWrite_of_deep hhub hdeep]
  case scanRead =>
    rintro c l position _ hhub hdeep rfl
    rw [exec_jtagAccess, jtagAccess_scanRead_of_deep hhub hdeep]
  case coxWrite =>
    intro c l addr w hhub hdeep
    rw [exec_jtagAccess, jtagAccess_coxWrite_of_deep hhub hdeep]
  case coxRead =>
    intro c l addr hhub hdeep
    rw [exec_jtagAccess, jtagAccess_coxRead_of_deep hhub hdeep]
  case pageWrite =>
    intro c l pg off w hhub hdeep hpage haligned hoff
    rw [exec_jtagAccess, jtagAccess_pageWrite_of_deep hhub hdeep w hpage haligned hoff]
  case pageRead =>
    intro c l pg off hhub hdeep hpage haligned hoff
    rw [exec_jtagAccess, jtagAccess_pageRead_of_deep hhub hdeep hpage haligned hoff]

end Sys2Proof.Machine
end

section
/-!
PROOF. The statements of chapter 10 (compression): symbols and classes (R297, R298), code tables (R299), a block's round trip (R300,
R301), and the Skive commands and slot units (R301 to R307, R311 to R315).
-/
namespace Sys2Proof.Machine

/-! ### Symbols and classes (R298) -/

/-- The symbol stands for the bytes `out` as Table 10-1 has it: its class is not reserved, its extra value fits the class's extra
bits, and the two are read as `out`. -/
def standsFor (map : Bool) (x : Sym) (out : List Byte) : Prop :=
  symBytes map x.1 x.2.1 = some out ∧ x.2.2 = extraBits x.1 ∧ x.2.1 < 2 ^ x.2.2 ∧ classUsed x.1 = true

theorem symBytes_literal {map : Bool} {c x : Nat} (h : c ≤ 15) : symBytes map c x = some [BitVec.ofNat 8 (skvUnmap map (c + 1))] :=
  if_pos h

theorem symBytes_lastLiterals {map : Bool} {x : Nat} (h : x ≠ 127) :
    symBytes map 19 x = some [BitVec.ofNat 8 (skvUnmap map (129 + x))] := if_neg h

/-- From class 32 on the classes are those of the runs. -/
theorem symBytes_run {map : Bool} {c x : Nat} (h : 32 ≤ c) :
    symBytes map c x =
      if 32 ≤ c ∧ c ≤ 47 then some (List.replicate (c - 31) 0)
      else if 48 ≤ c ∧ c ≤ 55 then some (List.replicate (2 ^ (c - 44) + 1 + x) 0)
      else none := by
  simp only [symBytes]
  rw [if_neg (by omega), if_neg (by omega), if_neg (by omega), if_neg (by omega), if_neg (by omega)]

theorem symBytes_shortRun {map : Bool} {c x : Nat} (hlow : 32 ≤ c) (hhigh : c ≤ 47) :
    symBytes map c x = some (List.replicate (c - 31) 0) := by
  rw [symBytes_run hlow, if_pos ⟨hlow, hhigh⟩]

theorem symBytes_longRun {map : Bool} {c x : Nat} (hlow : 48 ≤ c) (hhigh : c ≤ 55) :
    symBytes map c x = some (List.replicate (2 ^ (c - 44) + 1 + x) 0) := by
  rw [symBytes_run (by omega), if_neg (by omega), if_pos ⟨hlow, hhigh⟩]

theorem extraBits_eq_zero {c : Nat} (h : c ≤ 15 ∨ 20 ≤ c ∧ c ≤ 47) : extraBits c = 0 := by
  rw [extraBits, if_neg (by omega), if_neg (by omega)]

theorem extraBits_longRun {c : Nat} (hlow : 48 ≤ c) (hhigh : c ≤ 55) : extraBits c = c - 44 := by
  rw [extraBits, if_neg (by omega), if_pos ⟨hlow, hhigh⟩]

theorem classUsed_iff {c : Nat} : classUsed c = true ↔ c ≤ 19 ∨ 32 ≤ c ∧ c ≤ 55 := by simp [classUsed]

/-- The literal symbol of a mapped value stands for its byte: each range of Table 10-1 gives back its class's first value and the
offset from it. -/
theorem standsFor_literalSym (map : Bool) {m : Nat} (hpos : 0 < m) (hlt : m < 256) :
    standsFor map (literalSym m) [BitVec.ofNat 8 (skvUnmap map m)] := by
  have hoffset (first : Nat) (h : first ≤ m) :
      some [BitVec.ofNat 8 (skvUnmap map (first + (m - first)))] = some [BitVec.ofNat 8 (skvUnmap map m)] := by
    rw [Nat.add_sub_cancel' h]
  unfold literalSym
  split_ifs with h16 h32 h64 h128
  · refine ⟨?_, (extraBits_eq_zero (by omega)).symm, Nat.one_pos, classUsed_iff.mpr (by omega)⟩
    rw [symBytes_literal (by omega), Nat.sub_add_cancel hpos]
  · exact ⟨hoffset 17 (by omega), rfl, (by omega : m - 17 < 2 ^ 4), rfl⟩
  · exact ⟨hoffset 33 (by omega), rfl, (by omega : m - 33 < 2 ^ 5), rfl⟩
  · exact ⟨hoffset 65 (by omega), rfl, (by omega : m - 65 < 2 ^ 6), rfl⟩
  · exact ⟨(symBytes_lastLiterals (by omega : m - 129 ≠ 127)).trans (hoffset 129 (by omega)), rfl,
      (by omega : m - 129 < 2 ^ 7), rfl⟩

/-- The mapping leaves the non-zero bytes non-zero. -/
theorem skvMap_pos (map : Bool) {v : Nat} (hpos : 0 < v) (hlt : v < 256) : 0 < skvMap map v := by
  unfold skvMap
  split_ifs <;> omega

theorem skvMap_lt (map : Bool) {v : Nat} (h : v < 256) : skvMap map v < 256 := by
  unfold skvMap
  split_ifs <;> omega

/-- The symbol of a non-zero byte stands for that byte. -/
theorem standsFor_byte (map : Bool) {v : Byte} (h : v ≠ 0) : standsFor map (literalSym (skvMap map v.toNat)) [v] := by
  have hpos : 0 < v.toNat := Nat.pos_of_ne_zero fun hzero => h (BitVec.eq_of_toNat_eq hzero)
  have hlit := standsFor_literalSym map (skvMap_pos map hpos v.isLt) (skvMap_lt map v.isLt)
  rwa [skvUnmap_skvMap map v.isLt, BitVec.ofNat_toNat, BitVec.setWidth_eq] at hlit

/-- The symbol of a run stands for the run: a long run of `n` bytes is of the class that its highest bit gives, and what that bit
leaves is the extra value. -/
theorem standsFor_runSym (map : Bool) {n : Nat} (hpos : 1 ≤ n) (hle : n ≤ 4096) : standsFor map (runSym n) (List.replicate n 0) := by
  unfold runSym
  split_ifs with h16
  · refine ⟨?_, (extraBits_eq_zero (by omega)).symm, Nat.one_pos, classUsed_iff.mpr (by omega)⟩
    rw [symBytes_shortRun (by omega) (by omega), Nat.add_sub_cancel_left]
  · have hne : n - 1 ≠ 0 := by omega
    have hlow : 4 ≤ Nat.log2 (n - 1) := (Nat.le_log2 hne).mpr (by omega)
    have hhigh : Nat.log2 (n - 1) < 12 := (Nat.log2_lt hne).mpr (by omega)
    have hself : 2 ^ Nat.log2 (n - 1) ≤ n - 1 := Nat.log2_self_le hne
    have hnext : n - 1 < 2 ^ (Nat.log2 (n - 1) + 1) := Nat.lt_log2_self
    rw [Nat.pow_succ] at hnext
    generalize Nat.log2 (n - 1) = k at *
    have hk : k - 4 + 4 = k := Nat.sub_add_cancel hlow
    have hclass : 48 + (k - 4) - 44 = k := by omega
    simp only [standsFor, hk]
    refine ⟨?_, ?_, by omega, classUsed_iff.mpr (by omega)⟩
    · rw [symBytes_longRun (by omega) (by omega), hclass, Nat.add_sub_cancel' (by omega)]
    · rw [extraBits_longRun (by omega) (by omega), hclass]

/-- Settles O59: the classes of Table 10-1 are told apart by a literal's mapped value, and by a run's length. -/
theorem skiveSymbolsReadBack : Obligations.SkiveSymbolsReadBack :=
  ⟨fun map _ hne => ⟨_, _, _, rfl, standsFor_byte map hne⟩, fun map _ hpos hle => ⟨_, _, _, rfl, standsFor_runSym map hpos hle⟩⟩

/-! ### The symbols of a block (R298) -/

/-- The symbols stand for the bytes, each for one byte or more of them. -/
inductive Spells (map : Bool) : List Sym → List Byte → Prop where
  | nil : Spells map [] []
  | cons {x : Sym} {out : List Byte} {xs : List Sym} {l : List Byte} (hx : standsFor map x out) (hout : out ≠ [])
      (hxs : Spells map xs l) : Spells map (x :: xs) (out ++ l)

/-- The run that ends stands before the symbols that follow it. -/
theorem Spells.run {map : Bool} {z : Nat} {xs : List Sym} {l : List Byte} (hz : z ≤ 4096) (hxs : Spells map xs l) :
    Spells map ((if z = 0 then [] else [runSym z]) ++ xs) (List.replicate z 0 ++ l) := by
  split_ifs with hzero
  · subst hzero
    exact hxs
  · exact .cons (standsFor_runSym map (Nat.pos_of_ne_zero hzero) hz) (by simpa using hzero) hxs

/-- With `z` zero bytes in hand, the symbols of what follows stand for those and for what follows. -/
theorem spells_symsFrom (map : Bool) (l : List Byte) (z : Nat) (h : z + l.length ≤ 4096) :
    Spells map (symsFrom map z l) (List.replicate z 0 ++ l) := by
  induction l generalizing z with
  | nil => simpa [symsFrom] using Spells.run h .nil
  | cons v l ih =>
    rw [List.length_cons] at h
    by_cases hv : v = 0
    · have hrun := ih (z + 1) (by omega)
      rw [List.replicate_succ', List.append_assoc, List.singleton_append] at hrun
      simpa only [symsFrom, hv, if_true] using hrun
    · have hnext : Spells map (literalSym (skvMap map v.toNat) :: symsFrom map 0 l) (v :: l) :=
        .cons (standsFor_byte map hv) (by simp) (ih 0 (by omega))
      simpa only [symsFrom, hv, if_false] using Spells.run (by omega) hnext

theorem spells_blockSyms (map : Bool) {block : List Byte} (h : block.length ≤ 4096) : Spells map (blockSyms map block) block := by
  simpa [blockSyms] using spells_symsFrom map block 0 (by omega)

/-! ### Bits and their value (R300) -/

@[simp] theorem bitsMsb_zero (v : Nat) : bitsMsb 0 v = [] := rfl

theorem bitsMsb_succ (n v : Nat) : bitsMsb (n + 1) v = bit v n :: bitsMsb n v := by
  simp only [bitsMsb, List.range_succ_eq_map, List.map_cons, List.map_map]
  congr 1
  refine List.map_congr_left fun i _ => ?_
  simp only [Function.comp_apply, Nat.succ_eq_add_one]
  congr 1
  omega

@[simp] theorem length_bitsMsb (n v : Nat) : (bitsMsb n v).length = n := by simp [bitsMsb]

/-- The value of bits read so far with one more bit, as the decoder has it. -/
def addBit (a : Nat) (b : Bool) : Nat := 2 * a + (if b then 1 else 0)

theorem addBit_div_two (a : Nat) (b : Bool) : addBit a b / 2 = a := by
  rw [addBit]
  split_ifs <;> omega

/-- The bit below those of `v / 2 ^ (k + 1)` makes them `v / 2 ^ k`. -/
theorem addBit_bit (v k : Nat) : addBit (v / 2 ^ (k + 1)) (bit v k) = v / 2 ^ k := by
  rw [Nat.pow_succ, ← Nat.div_div_eq_div_mul]
  simp only [addBit, bit, beq_iff_eq]
  split_ifs <;> omega

/-- Reading the `n` lowest bits of `v` after those above them gives `v`. -/
theorem foldl_addBit_bitsMsb_div (n v : Nat) : (bitsMsb n v).foldl addBit (v / 2 ^ n) = v := by
  induction n with
  | zero => simp
  | succ n ih => rw [bitsMsb_succ, List.foldl_cons, addBit_bit, ih]

theorem foldl_addBit_bitsMsb {n v : Nat} (h : v < 2 ^ n) : (bitsMsb n v).foldl addBit 0 = v := by
  simpa only [Nat.div_eq_of_lt h] using foldl_addBit_bitsMsb_div n v

/-- Above the bits `l` stands what was read before them. -/
theorem foldl_addBit_div (l : List Bool) (a : Nat) : l.foldl addBit a / 2 ^ l.length = a := by
  induction l generalizing a with
  | nil => simp
  | cons b l ih => rw [List.foldl_cons, List.length_cons, Nat.pow_succ, ← Nat.div_div_eq_div_mul, ih, addBit_div_two]

theorem bit_foldl_addBit (l : List Bool) (a : Nat) (b : Bool) : bit (l.foldl addBit (addBit a b)) l.length = b := by
  rw [bit, foldl_addBit_div]
  cases b <;> simp [addBit]

/-- The bits of the value of `l` are `l`. -/
theorem bitsMsb_foldl_addBit (l : List Bool) (a : Nat) : bitsMsb l.length (l.foldl addBit a) = l := by
  induction l generalizing a with
  | nil => rfl
  | cons b l ih => rw [List.foldl_cons, List.length_cons, bitsMsb_succ, bit_foldl_addBit, ih]

theorem foldl_addBit_lt (l : List Bool) : l.foldl addBit 0 < 2 ^ l.length :=
  (Nat.div_eq_zero_iff_lt (Nat.two_pow_pos _)).mp (foldl_addBit_div l 0)

/-! ### Bits in bytes (R300) -/

/-- The eight bits that the next byte takes, zeros where there are no more. -/
def byteBits (l : List Bool) : List Bool := (List.range 8).map (fun i => l.getD i false)

@[simp] theorem length_byteBits (l : List Bool) : (byteBits l).length = 8 := by simp [byteBits]

/-- The first `n` elements as `getD` reads them, with the default after the end. -/
theorem map_getD_range {α : Type} (d : α) (l : List α) (n : Nat) :
    (List.range n).map (fun i => l.getD i d) = l.take n ++ List.replicate (n - l.length) d := by
  induction n generalizing l with
  | zero => simp
  | succ n ih =>
    cases l with
    | nil => simp [List.map_const']
    | cons b l => simpa [List.range_succ_eq_map, Function.comp_def] using ih l

theorem packBits_succ {l : List Bool} (n : Nat) (h : l ≠ []) :
    packBits (n + 1) l = BitVec.ofNat 8 ((byteBits l).foldl addBit 0) :: packBits n (l.drop 8) := by
  have hempty : l.isEmpty = false := by simpa using h
  simp only [packBits, hempty, Bool.false_eq_true, if_false, byteBits, List.foldl_map]
  rfl

theorem unpackBits_append (l m : List Byte) : unpackBits (l ++ m) = unpackBits l ++ unpackBits m := List.flatMap_append

/-- A packed byte unpacks to its bits. -/
theorem unpackBits_cons_byteBits (l : List Bool) (m : List Byte) :
    unpackBits (BitVec.ofNat 8 ((byteBits l).foldl addBit 0) :: m) = byteBits l ++ unpackBits m := by
  have hlt := foldl_addBit_lt (byteBits l)
  have hbits := bitsMsb_foldl_addBit (byteBits l) 0
  rw [length_byteBits] at hlt hbits
  simp only [unpackBits, List.flatMap_cons, BitVec.toNat_ofNat, Nat.mod_eq_of_lt hlt, hbits]

/-- Bits packed into enough bytes come back first when the bytes are unpacked; what follows them fills the last byte. -/
theorem prefix_unpackBits_packBits (n : Nat) (l : List Bool) (h : l.length ≤ 8 * n) : l <+: unpackBits (packBits n l) := by
  induction n generalizing l with
  | zero => simp [List.eq_nil_of_length_eq_zero (by omega : l.length = 0)]
  | succ n ih =>
    by_cases hnil : l = []
    · simp [hnil]
    · rw [packBits_succ n hnil, unpackBits_cons_byteBits, byteBits, map_getD_range]
      by_cases hlen : l.length ≤ 8
      · rw [List.take_of_length_le hlen, List.append_assoc]
        exact List.prefix_append _ _
      · rw [Nat.sub_eq_zero_of_le (by omega), List.replicate_zero, List.append_nil]
        nth_rw 1 [← List.take_append_drop 8 l]
        rw [List.prefix_append_right_inj]
        exact ih _ (by rw [List.length_drop]; omega)

/-! ### Canonical codes (R299) -/

/-- The classes of a table come in order: by length, and by class number where lengths are equal. -/
theorem sortedClasses_pairwise (t : List Nat) :
    (sortedClasses t).Pairwise (fun a b => a.1 < b.1 ∨ (a.1 = b.1 ∧ a.2 < b.2)) := by
  rw [sortedClasses, List.pairwise_flatMap]
  constructor
  · intro n _
    rw [List.pairwise_map]
    exact (List.pairwise_lt_range.filter _).imp fun hlt => .inr ⟨rfl, hlt⟩
  · rw [span, List.pairwise_map]
    refine List.pairwise_lt_range.imp fun hlt => ?_
    simp only [List.mem_map]
    rintro _ ⟨c, _, rfl⟩ _ ⟨d, _, rfl⟩
    exact .inl (Nat.add_lt_add_left hlt 1)

theorem mem_sortedClasses {t : List Nat} {n c : Nat} :
    (n, c) ∈ sortedClasses t ↔ (1 ≤ n ∧ n ≤ 15) ∧ c < 64 ∧ t.getD c 0 = n := by
  simp only [sortedClasses, span, List.mem_flatMap, List.mem_map, List.mem_filter, List.mem_range, beq_iff_eq, Prod.mk.injEq]
  constructor
  · rintro ⟨_, ⟨i, hi, rfl⟩, d, hd, rfl, rfl⟩
    exact ⟨by omega, hd⟩
  · rintro ⟨hn, hc⟩
    exact ⟨n, ⟨n - 1, by omega, by omega⟩, c, hc, rfl, rfl⟩

/-- The lengths of the classes rise from `len` to 15 at most. -/
def lengthsRise (len : Nat) (l : List (Nat × Nat)) : Prop :=
  (∀ x ∈ l, len ≤ x.1 ∧ x.1 ≤ 15) ∧ l.Pairwise (fun a b => a.1 ≤ b.1)

theorem lengthsRise_cons {len n c : Nat} {l : List (Nat × Nat)} (h : lengthsRise len ((n, c) :: l)) :
    len ≤ n ∧ n ≤ 15 ∧ lengthsRise n l := by
  obtain ⟨hrange, hrise⟩ := h
  obtain ⟨hfirst, hrest⟩ := List.pairwise_cons.mp hrise
  obtain ⟨hlen, hn⟩ := hrange _ List.mem_cons_self
  exact ⟨hlen, hn, fun x hx => ⟨hfirst x hx, (hrange x (List.mem_cons_of_mem _ hx)).2⟩, hrest⟩

theorem lengthsRise_sortedClasses (t : List Nat) : lengthsRise 0 (sortedClasses t) :=
  ⟨fun _ hx => ⟨Nat.zero_le _, (mem_sortedClasses.mp hx).1.2⟩, (sortedClasses_pairwise t).imp fun h => by omega⟩

/-- A code of `n` bits stands for the `2 ^ (15 - n)` strings of 15 bits that begin with it; this is the first of them. -/
def codeStart (e : Nat × Nat × Nat) : Nat := e.2.1 * 2 ^ (15 - e.1)

/-- The first string of 15 bits after those that begin with the code. -/
def codeEnd (e : Nat × Nat × Nat) : Nat := (e.2.1 + 1) * 2 ^ (15 - e.1)

/-- The share of the strings of 15 bits that the classes' codes take. -/
def codeSpace (l : List (Nat × Nat)) : Nat := (l.map (fun x => 2 ^ (15 - x.1))).sum

/-- Every class of the list gets a code of its length, in the list's order. -/
theorem map_assignCodes (len code : Nat) (l : List (Nat × Nat)) : (assignCodes len code l).map (fun e => (e.1, e.2.2)) = l := by
  induction l generalizing len code with
  | nil => rfl
  | cons x l ih => simp only [assignCodes, List.map_cons, ih]

/-- A code with zeros after it starts where it did. -/
theorem mul_pow_sub {len n : Nat} (code : Nat) (hlen : len ≤ n) (hn : n ≤ 15) :
    code * 2 ^ (n - len) * 2 ^ (15 - n) = code * 2 ^ (15 - len) := by
  rw [Nat.mul_assoc, ← Nat.pow_add]
  congr 2
  omega

/-- The codes after `code` start at it or later. -/
theorem le_codeStart {len code : Nat} {l : List (Nat × Nat)} (h : lengthsRise len l) :
    ∀ e ∈ assignCodes len code l, code * 2 ^ (15 - len) ≤ codeStart e := by
  induction l generalizing len code with
  | nil => simp [assignCodes]
  | cons x l ih =>
    obtain ⟨n, c⟩ := x
    obtain ⟨hlen, hn, hrest⟩ := lengthsRise_cons h
    have hstart := mul_pow_sub code hlen hn
    intro e he
    rcases List.mem_cons.mp he with rfl | he
    · exact hstart.ge
    · have hlater := ih hrest e he
      rw [Nat.add_mul, hstart] at hlater
      omega

/-- No code's strings reach into those of a later code. -/
theorem assignCodes_pairwise {len code : Nat} {l : List (Nat × Nat)} (h : lengthsRise len l) :
    (assignCodes len code l).Pairwise (fun e f => codeEnd e ≤ codeStart f) := by
  induction l generalizing len code with
  | nil => exact .nil
  | cons x l ih =>
    obtain ⟨_, _, hrest⟩ := lengthsRise_cons h
    exact .cons (le_codeStart hrest) (ih hrest)

/-- The codes after `code` take the space of their classes and no more. -/
theorem codeEnd_le {len code : Nat} {l : List (Nat × Nat)} (h : lengthsRise len l) :
    ∀ e ∈ assignCodes len code l, codeEnd e ≤ code * 2 ^ (15 - len) + codeSpace l := by
  induction l generalizing len code with
  | nil => simp [assignCodes]
  | cons x l ih =>
    obtain ⟨n, c⟩ := x
    obtain ⟨hlen, hn, hrest⟩ := lengthsRise_cons h
    have hstart := mul_pow_sub code hlen hn
    have hspace : codeSpace ((n, c) :: l) = 2 ^ (15 - n) + codeSpace l := List.sum_cons
    intro e he
    rcases List.mem_cons.mp he with rfl | he
    · simp only [codeEnd, Nat.add_mul, hstart]
      omega
    · have hlater := ih hrest e he
      rw [Nat.add_mul, hstart] at hlater
      omega

/-! ### The space of a valid table (R299) -/

/-- The classes with a code, by class number alone. -/
def codedClasses (t : List Nat) : List (Nat × Nat) :=
  ((List.range 64).filter (fun c => t.getD c 0 != 0)).map (fun c => (t.getD c 0, c))

theorem getD_le {t : List Nat} {b : Nat} (hmax : ∀ n ∈ t, n ≤ b) (c : Nat) : t.getD c 0 ≤ b := by
  by_cases hc : c < t.length
  · rw [List.getD_eq_getElem _ _ hc]
    exact hmax _ (List.getElem_mem hc)
  · rw [List.getD_eq_default _ _ (by omega)]
    exact Nat.zero_le b

theorem sortedClasses_perm {t : List Nat} (hmax : ∀ n ∈ t, n ≤ 15) : (sortedClasses t).Perm (codedClasses t) := by
  have hsorted : (sortedClasses t).Nodup := (sortedClasses_pairwise t).imp fun h hEq => by subst hEq; omega
  have hcoded : (codedClasses t).Nodup :=
    (List.nodup_range.filter _).map fun _ _ h => congrArg Prod.snd h
  refine (List.perm_ext_iff_of_nodup hsorted hcoded).mpr fun ⟨n, c⟩ => ?_
  rw [mem_sortedClasses]
  simp only [codedClasses, List.mem_map, List.mem_filter, List.mem_range, bne_iff_ne, Prod.mk.injEq]
  constructor
  · rintro ⟨hn, hc, rfl⟩
    exact ⟨c, ⟨hc, by omega⟩, rfl, rfl⟩
  · rintro ⟨_, ⟨hc, hne⟩, rfl, rfl⟩
    exact ⟨⟨by omega, getD_le hmax _⟩, hc, rfl⟩

theorem codeSpace_codedClasses {t : List Nat} (hlen : t.length = 64) :
    codeSpace (codedClasses t) = (t.filter (fun n => n != 0)).foldl (fun a n => a + 2 ^ (15 - n)) 0 := by
  have htable : t = (List.range 64).map (fun c => t.getD c 0) := by
    rw [map_getD_range, hlen, List.take_of_length_le hlen.le, Nat.sub_self, List.replicate_zero, List.append_nil]
  conv_rhs => rw [htable, List.filter_map, List.foldl_map]
  rw [codeSpace, codedClasses, List.map_map, List.sum_eq_foldl, List.foldl_map]
  rfl

/-- The codes of a valid table have room in 15 bits. -/
theorem codeSpace_le {t : List Nat} (hlen : t.length = 64) (hmax : ∀ n ∈ t, n ≤ 15) (hvalid : tableValid t = true) :
    codeSpace (sortedClasses t) ≤ 2 ^ 15 := by
  rw [tableValid, Bool.and_eq_true, decide_eq_true_eq, ← codeSpace_codedClasses hlen] at hvalid
  rw [codeSpace, ((sortedClasses_perm hmax).map _).sum_eq]
  exact hvalid.2

/-! ### Codes of which none begins another (R299) -/

/-- What a decoder needs of codes: each has 1 to 15 bits, and none begins another. -/
structure PrefixCode (codes : List (Nat × Nat × Nat)) : Prop where
  length_pos : ∀ e ∈ codes, 1 ≤ e.1
  length_le : ∀ e ∈ codes, e.1 ≤ 15
  value_lt : ∀ e ∈ codes, e.2.1 < 2 ^ e.1
  eq_of_prefix : ∀ e ∈ codes, ∀ f ∈ codes, e.1 ≤ f.1 → f.2.1 / 2 ^ (f.1 - e.1) = e.2.1 → e = f

/-- No string of 15 bits begins with both codes. -/
def codesApart (e f : Nat × Nat × Nat) : Prop := codeEnd e ≤ codeStart f ∨ codeEnd f ≤ codeStart e

/-- A code and one that it begins have strings in common: those of the longer code. -/
theorem not_codesApart_of_prefix {e f : Nat × Nat × Nat} (hle : e.1 ≤ f.1) (hf : f.1 ≤ 15)
    (hprefix : f.2.1 / 2 ^ (f.1 - e.1) = e.2.1) : ¬ codesApart e f := by
  have hpos : 0 < 2 ^ (f.1 - e.1) := Nat.two_pow_pos _
  have hfrom : e.2.1 * 2 ^ (f.1 - e.1) ≤ f.2.1 := hprefix ▸ Nat.div_mul_le_self _ _
  have hto : f.2.1 < (e.2.1 + 1) * 2 ^ (f.1 - e.1) := hprefix ▸ Nat.lt_mul_of_div_lt (Nat.lt_succ_self _) hpos
  have hstart : codeStart e ≤ codeStart f := by
    rw [codeStart, ← mul_pow_sub e.2.1 hle hf]
    exact Nat.mul_le_mul_right _ hfrom
  have hend : codeEnd f ≤ codeEnd e := by
    rw [codeEnd, codeEnd, ← mul_pow_sub (e.2.1 + 1) hle hf]
    exact Nat.mul_le_mul_right _ hto
  have hsome : codeStart f < codeEnd f := Nat.mul_lt_mul_of_pos_right (Nat.lt_succ_self _) (Nat.two_pow_pos _)
  rintro (h | h) <;> omega

theorem codesOf_pairwise (t : List Nat) : (codesOf t).Pairwise codesApart :=
  (assignCodes_pairwise (lengthsRise_sortedClasses t)).imp Or.inl

/-- A code's length and class are those of a class with a code, and conversely. -/
theorem exists_code_iff {t : List Nat} {n c : Nat} : (∃ v, (n, v, c) ∈ codesOf t) ↔ (n, c) ∈ sortedClasses t := by
  rw [← map_assignCodes 0 0 (sortedClasses t)]
  simp [codesOf]

theorem length_of_mem_codesOf {t : List Nat} {e : Nat × Nat × Nat} (he : e ∈ codesOf t) : 1 ≤ e.1 ∧ e.1 ≤ 15 :=
  (mem_sortedClasses.mp (exists_code_iff.mp ⟨e.2.1, he⟩)).1

/-- A code that ends inside the strings of 15 bits fits its length. -/
theorem value_lt_of_codeEnd_le {e : Nat × Nat × Nat} (hlen : e.1 ≤ 15) (hend : codeEnd e ≤ 2 ^ 15) : e.2.1 < 2 ^ e.1 := by
  have hsplit : 2 ^ 15 = 2 ^ e.1 * 2 ^ (15 - e.1) := by rw [← Nat.pow_add, Nat.add_sub_cancel' hlen]
  exact Nat.le_of_mul_le_mul_right (hsplit ▸ hend) (Nat.two_pow_pos _)

/-- Of the canonical codes of a valid table, none begins another. -/
theorem prefixCode_codesOf {t : List Nat} (hlen : t.length = 64) (hmax : ∀ n ∈ t, n ≤ 15) (hvalid : tableValid t = true) :
    PrefixCode (codesOf t) where
  length_pos _ he := (length_of_mem_codesOf he).1
  length_le _ he := (length_of_mem_codesOf he).2
  value_lt e he := by
    have hend := codeEnd_le (lengthsRise_sortedClasses t) e he
    have hspace := codeSpace_le hlen hmax hvalid
    exact value_lt_of_codeEnd_le (length_of_mem_codesOf he).2 (by omega)
  eq_of_prefix e he f hf hle hprefix := by
    have hsymm : Std.Symm codesApart := ⟨fun _ _ => Or.symm⟩
    by_contra hne
    exact not_codesApart_of_prefix hle (length_of_mem_codesOf hf).2 hprefix ((codesOf_pairwise t).forall he hf hne)

/-! ### Reading a code (R300) -/

/-- Of the codes, only `e` itself begins as `e` does without its last `k` bits, and only where `k` is 0. -/
theorem find?_code {codes : List (Nat × Nat × Nat)} (hcodes : PrefixCode codes) {e : Nat × Nat × Nat} (he : e ∈ codes) {k : Nat}
    (hk : k ≤ e.1) :
    codes.find? (fun f => f.1 == e.1 - k && f.2.1 == e.2.1 / 2 ^ k) = if k = 0 then some e else none := by
  have honly : ∀ f ∈ codes, f.1 = e.1 - k → f.2.1 = e.2.1 / 2 ^ k → f = e := fun f hf hlen hvalue =>
    hcodes.eq_of_prefix f hf e he (by omega) (by rw [hlen, Nat.sub_sub_self hk, hvalue])
  cases hfind : codes.find? (fun f => f.1 == e.1 - k && f.2.1 == e.2.1 / 2 ^ k) with
  | none =>
    have hnone := List.find?_eq_none.mp hfind e he
    rw [if_neg]
    rintro rfl
    simp at hnone
  | some f =>
    have hmem := List.mem_of_find?_eq_some hfind
    have htest := List.find?_some hfind
    simp only [Bool.and_eq_true, beq_iff_eq] at htest
    have hfe := honly f hmem htest.1 htest.2
    have hpos := hcodes.length_pos e he
    rw [hfe] at htest ⊢
    rw [if_pos (by omega)]

/-- With all but the last `k` bits of a code read, the decoder reads those and names the code's class. -/
theorem nextClass_code {codes : List (Nat × Nat × Nat)} (hcodes : PrefixCode codes) {e : Nat × Nat × Nat} (he : e ∈ codes)
    (tail : List Bool) {k fuel : Nat} (hpos : 1 ≤ k) (hk : k ≤ e.1) (hfuel : k ≤ fuel) :
    nextClass codes fuel (e.1 - k) (e.2.1 / 2 ^ k) (bitsMsb k e.2.1 ++ tail) = some (e.2.2, tail) := by
  induction k generalizing fuel with
  | zero => omega
  | succ k ih =>
    obtain ⟨fuel, rfl⟩ : ∃ n, fuel = n + 1 := ⟨fuel - 1, by omega⟩
    have hlen : e.1 - (k + 1) + 1 = e.1 - k := by omega
    have hvalue : 2 * (e.2.1 / 2 ^ (k + 1)) + (if bit e.2.1 k then 1 else 0) = e.2.1 / 2 ^ k := addBit_bit _ _
    rw [bitsMsb_succ, List.cons_append, nextClass]
    simp only [hvalue, hlen, find?_code hcodes he (Nat.le_of_succ_le hk)]
    cases k with
    | zero => rfl
    | succ k => exact ih (by omega) (by omega) (by omega)

/-- The bits of a code name its class, whatever follows them. -/
theorem nextClass_bitsMsb {codes : List (Nat × Nat × Nat)} (hcodes : PrefixCode codes) {e : Nat × Nat × Nat} (he : e ∈ codes)
    (tail : List Bool) : nextClass codes 15 0 0 (bitsMsb e.1 e.2.1 ++ tail) = some (e.2.2, tail) := by
  have hread := nextClass_code hcodes he tail (hcodes.length_pos e he) le_rfl (hcodes.length_le e he)
  rwa [Nat.sub_self, Nat.div_eq_of_lt (hcodes.value_lt e he)] at hread

/-! ### Reading symbols (R300, R308) -/

/-- One of the codes is the class's. -/
def coded (codes : List (Nat × Nat × Nat)) (c : Nat) : Prop := ∃ e ∈ codes, e.2.2 = c

/-- The bits of a symbol name its class, and its extra bits stand next. -/
theorem nextClass_symBits {codes : List (Nat × Nat × Nat)} (hcodes : PrefixCode codes) {x : Sym} (hx : coded codes x.1)
    (tail : List Bool) :
    nextClass codes 15 0 0 (symBits codes x ++ tail) = some (x.1, bitsMsb x.2.2 x.2.1 ++ tail) := by
  obtain ⟨f, hf, hclass⟩ := hx
  cases hfind : codes.find? (fun e => e.2.2 == x.1) with
  | none => exact absurd (by simpa using hclass) (List.find?_eq_none.mp hfind f hf)
  | some e =>
    have hsame : e.2.2 = x.1 := by simpa using List.find?_some hfind
    simp only [symBits, hfind]
    rw [List.append_assoc, nextClass_bitsMsb hcodes (List.mem_of_find?_eq_some hfind), hsame]

/-- A symbol's bits are read as the bytes that it stands for, where the block has room for them. -/
theorem decodeFrom_symBits {codes : List (Nat × Nat × Nat)} (hcodes : PrefixCode codes) {map : Bool} {x : Sym} {out : List Byte}
    (hx : standsFor map x out) (hcoded : coded codes x.1) (tail : List Bool) {n : Nat} (k : Nat) (hpos : n ≠ 0)
    (hroom : out.length ≤ n) :
    decodeFrom codes map (k + 1) n (symBits codes x ++ tail) =
      (out ++ (decodeFrom codes map k (n - out.length) tail).1, (decodeFrom codes map k (n - out.length) tail).2) := by
  obtain ⟨hbytes, hextra, hfits, _⟩ := hx
  have hlen := length_bitsMsb x.2.2 x.2.1
  have hshort : ¬ (bitsMsb x.2.2 x.2.1 ++ tail).length < x.2.2 := by simp
  have hvalue : (bitsMsb x.2.2 x.2.1).foldl (fun a b => 2 * a + (if b then 1 else 0)) 0 = x.2.1 := foldl_addBit_bitsMsb hfits
  rw [decodeFrom, if_neg hpos, nextClass_symBits hcodes hcoded]
  simp only [← hextra, if_neg hshort, List.take_left' hlen, List.drop_left' hlen, hvalue, hbytes, if_neg (Nat.not_lt.mpr hroom)]

/-- The bits of symbols are read as the bytes that they stand for, whatever follows them. -/
theorem decodeFrom_of_spells {codes : List (Nat × Nat × Nat)} (hcodes : PrefixCode codes) {map : Bool} {xs : List Sym}
    {l : List Byte} (hxs : Spells map xs l) (hcoded : ∀ x ∈ xs, coded codes x.1) (tail : List Bool) {k : Nat} (hk : l.length ≤ k) :
    decodeFrom codes map k l.length (xs.flatMap (symBits codes) ++ tail) = (l, true) := by
  induction hxs generalizing k with
  | nil => cases k <;> rfl
  | @cons x out xs l hx hout _ ih =>
    have hpos : 0 < out.length := List.length_pos_iff.mpr hout
    rw [List.length_append] at hk ⊢
    obtain ⟨k, rfl⟩ : ∃ n, k = n + 1 := ⟨k - 1, by omega⟩
    rw [List.flatMap_cons, List.append_assoc,
      decodeFrom_symBits hcodes hx (hcoded x List.mem_cons_self) _ k (by omega) (Nat.le_add_right _ _), Nat.add_sub_cancel_left,
      ih (fun y hy => hcoded y (List.mem_cons_of_mem _ hy)) (by omega)]

/-! ### Blocks (R300, R301) -/

/-- A class to which a table gives a length has a code. -/
theorem coded_of_length {t : List Nat} (hlen : t.length = 64) (hmax : ∀ n ∈ t, n ≤ 15) {c : Nat} (hc : t.getD c 0 ≠ 0) :
    coded (codesOf t) c := by
  have hclass : c < 64 := by
    by_contra hout
    exact hc (List.getD_eq_default _ _ (by omega))
  obtain ⟨v, hv⟩ := exists_code_iff.mpr
    (mem_sortedClasses.mpr ⟨⟨Nat.pos_of_ne_zero hc, getD_le hmax c⟩, hclass, rfl⟩)
  exact ⟨_, hv, rfl⟩

theorem coded_of_coversBlock {t : List Nat} (hlen : t.length = 64) (hmax : ∀ n ∈ t, n ≤ 15) {map : Bool} {block : List Byte}
    (hcovers : coversBlock t map block = true) : ∀ x ∈ blockSyms map block, coded (codesOf t) x.1 := by
  intro x hx
  have hcode := List.all_eq_true.mp hcovers x hx
  exact coded_of_length hlen hmax (by simpa using hcode)

/-- The bits of an encoded block are its symbols' bits, and others after them. -/
theorem unpackBits_encodeBits (t : List Nat) (map : Bool) (block rest : List Byte) :
    ∃ tail, unpackBits (encodeBits t map block ++ rest) = (blockSyms map block).flatMap (symBits (codesOf t)) ++ tail := by
  obtain ⟨fill, hfill⟩ := prefix_unpackBits_packBits
    (((blockSyms map block).flatMap (symBits (codesOf t))).length / 8 + 1) ((blockSyms map block).flatMap (symBits (codesOf t)))
    (by omega)
  refine ⟨fill ++ unpackBits rest, ?_⟩
  rw [unpackBits_append, ← List.append_assoc, hfill, encodeBits]

/-- Settles O60: the encoder's bits are those of symbols that stand for the block, and as no code begins another the decoder reads
one symbol after another. -/
theorem skiveBlocksReadBack : Obligations.SkiveBlocksReadBack := by
  intro t map block rest hlen hmax hvalid hshort hcovers
  obtain ⟨tail, htail⟩ := unpackBits_encodeBits t map block rest
  have hread := decodeFrom_of_spells (prefixCode_codesOf hlen hmax hvalid) (spells_blockSyms map hshort)
    (coded_of_coversBlock hlen hmax hcovers) tail le_rfl
  simp only [decodeBits, htail, hread, Nat.sub_self, List.replicate_zero, List.append_nil]

/-! ### The Skive commands (R301 to R307, R314, R315) -/

/-- A command that neither waits nor is stopped counts its conditions, and is charged and done. -/
theorem skiveClose_of_done {x : Rd} (s₀ : Chip) (o : Origin) (op : Nat) (b : Body) (n : Nat) (hhold : x.hold = none)
    (hbad : x.bad = none) : skiveClose x s₀ o op b n = skiveOver (skiveCounted x s₀ o) o op b n := by
  simp only [skiveClose, hhold, hbad, Option.isSome_none, Bool.false_eq_true, if_false]

/-- Each of the three commands, with its work `w`. -/
theorem carry_skiveClose {c c' : Chip} {o : Origin} {op : Nat} {b : Body} {work : Chip → Rd × Nat} {w : Rd × Nat} (l : List Instr)
    (hrun : running c = true) (htodo : stillToDo c o (skiveOf o) op b = true) (hhand : handTo c o (skiveOf o) op b = c')
    (hwork : work c' = w) (hhold : w.1.hold = none) (hbad : w.1.bad = none) :
    carry ⟨c, l⟩ o (skiveOf o) op b (fun s => skiveClose (work s).1 s o op b (work s).2) =
      .next ⟨skiveOver (skiveCounted w.1 c' o) o op b w.2, l⟩ := by
  rw [carry_of_stillToDo l _ hrun htodo, hhand, hwork, skiveClose_of_done c' o op b w.2 hhold hbad]

/-! ### Slot units (R309 to R313) -/

section
variable {s : Chip} {p r ch unit : Nat} {met : List BufferError}

/-- A unit of a channel with storage is written at its place, in whole units, with its tag (R309, R311). -/
theorem slotUnitWrite_of_stored {k : Rd × Option (Nat × Nat × Bool)} {e : Nat × Nat × Bool} (bytes : List Byte) (hch : ch ≠ 3)
    (hplace : (startRd (skiveMeets s r met).1).channel p r ch unit = k) (hsome : k.2 = some e) :
    slotUnitWrite s p r ch unit bytes met =
      unitClose (k.1.putUnit p r e.1 e.2.1 (bytes.take 4096 ++ List.replicate (4096 - bytes.length) 0) (skiveMeets s r met).2 e.2.2)
        s p := by
  simp only [slotUnitWrite, if_neg hch, hplace, hsome]

/-- A unit of a Serrun payload is counted in the form in which it goes out (R309, log 62). -/
theorem slotUnitWrite_of_serrun {k : SlotCtx} {v f : List Byte × Nat} {bytes : List Byte} (hch : ch = 3)
    (hctx : slotCtx s r p = some k) (hunit : (bytes.take 4096 ++ List.replicate (4096 - bytes.length) 0, 0) = v)
    (hform : (if bit k.enable 3 then slotForm v.1 else v) = f) :
    slotUnitWrite s p r ch unit bytes met = countUnit (skiveMeets s r met).1 r (bit f.2 31) f.1.length := by
  subst hunit
  simp only [slotUnitWrite, if_pos hch, hctx, hform]

/-- A unit of a channel with storage is read by its tag (R311, R313). -/
theorem slotUnitRead_of_stored {k : Rd × Option (Nat × Nat × Bool)} {e : Nat × Nat × Bool} {u : Rd × Option (List Byte) × Bool}
    (hplace : (startRd (skiveMeets s r met).1).channel p r ch unit = k) (hsome : k.2 = some e)
    (hread : k.1.unit p r none e.1 e.2.1 = u) :
    slotUnitRead s p r ch unit met =
      unitClose (if u.2.1.isNone && !u.2.2 then (u.1.dev p none e.1 4096).1 else u.1) s p := by
  simp only [slotUnitRead, hplace, hsome, hread]

end

/-- Settles O9: the three commands differ in their work, and a slot unit is an event of a running module. -/
theorem skiveCommandsRun : Obligations.SkiveCommandsRun := by
  refine ⟨?compress, ?decode, ?stage, ?write, ?serrun, ?read⟩
  case compress => exact fun _ l o b met _ _ => carry_skiveClose (work := fun s => compressWork s o b met) l
  case decode => exact fun _ l o b met _ _ => carry_skiveClose (work := fun s => decodeWork s o b met) l
  case stage => exact fun _ l o b met _ _ => carry_skiveClose (work := fun s => stageWork s o b met) l
  case write =>
    intro c l p region channel unit bytes met k e hrun hch hplace hsome
    have hexec : exec (.slotUnitWrite p region channel unit bytes met) ⟨c, l⟩ =
        live ⟨c, l⟩ (fun c => slotUnitWrite c p.val region.val channel.val unit bytes met) := rfl
    rw [hexec, live_of_running l _ hrun, slotUnitWrite_of_stored bytes hch hplace hsome]
  case serrun =>
    intro c l p region channel unit bytes met k v f hrun hch hctx hunit hform
    have hexec : exec (.slotUnitWrite p region channel unit bytes met) ⟨c, l⟩ =
        live ⟨c, l⟩ (fun c => slotUnitWrite c p.val region.val channel.val unit bytes met) := rfl
    rw [hexec, live_of_running l _ hrun, slotUnitWrite_of_serrun hch hctx hunit hform]
  case read =>
    intro c l p region channel unit met k e u hrun hplace hsome hread
    have hexec : exec (.slotUnitRead p region channel unit met) ⟨c, l⟩ =
        live ⟨c, l⟩ (fun c => slotUnitRead c p.val region.val channel.val unit met) := rfl
    rw [hexec, live_of_running l _ hrun, slotUnitRead_of_stored hplace hsome hread]

end Sys2Proof.Machine
end

section
/-!
PROOF. The statements of chapter 11 (memory): what leaves external memory and its maps alone (R322, R323, R339), writes of the
memory pages and the refill (R325, R327, R344), retirement, patrol, self-refresh, initialisation and release scrubs (R336 to
R347, R363, R367), and BAR2 writes that are dropped (R324, R357).
-/
namespace Sys2Proof.Machine

/-! ### External memory, retirements and the slice map -/

theorem exec_mem {i : Instr} {s t : State} (h : exec i s = .next t) (hno : i.mayStore = false) : t.mem = s.mem :=
  ((exec_keeps h False.elim).cm _ (keptUnless_of_not _ hno)).symm

/-- What a run of external memory reads as is a matter of the memory alone. -/
theorem memRead_congr {s t : Chip} (h : t.mem = s.mem) (a n : Nat) : memRead t a n = memRead s a n := by
  rw [memRead, memRead, h]

/-- Settles O40: memory, and retirements with the slice map, stand among the parts that `exec_keeps` keeps. -/
theorem memoryKept : Obligations.MemoryKept :=
  ⟨fun _ _ _ hno h => ⟨exec_mem h hno, memRead_congr (exec_mem h hno)⟩,
    fun _ _ _ hno h => Prod.mk.inj (exec_retire_slices h hno)⟩

/-! ### BAR2 writes that are dropped (R324, R357) -/

/-- A refused access is counted in one register of its controller, or nowhere, where no unit has the address (R324). -/
theorem refuseAccess_cases (s : Chip) (a : Nat) (host : Bool) : refuseAccess s a host = s ∨
    ∃ pg f v, refuseAccess s a host = wr s pg f v := by
  unfold refuseAccess
  split
  · exact .inl rfl
  · split <;> split <;> exact .inr ⟨_, _, _, rfl⟩

/-- What no register write touches, the count of a refused access does not touch. -/
theorem refuseAccess_keeps {α : Type} (part : Chip → α) (hwr : ∀ s pg f v, part (wr s pg f v) = part s) (s : Chip) (a : Nat)
    (host : Bool) : part (refuseAccess s a host) = part s := by
  rcases refuseAccess_cases s a host with h | ⟨pg, f, v, h⟩
  · rw [h]
  · rw [h, hwr]

/-- A write with a byte in it goes to the READY partition of the function, at the address its window gives (R356). -/
theorem bar2Write_of_ready {s : Chip} {port fn o p : Nat} {bytes : List Byte} (hopen : barOpen s port fn = true)
    (hbytes : bytes.isEmpty = false) (hready : readyPart s port fn = some p) :
    bar2Write s port fn o bytes =
      bar2WriteAt s p (bar2Addr s port fn p o) bytes (girthAdmit s p (bar2Addr s port fn p o) bytes.length true) := by
  simp only [bar2Write, hopen, hbytes, hready, Bool.not_true, Bool.or_self, Bool.false_eq_true, if_false]

/-- Where no READY partition is reached, a write does nothing (R357). -/
theorem bar2Write_of_unready {s : Chip} {port fn : Nat} (o : Nat) (bytes : List Byte) (hready : readyPart s port fn = none) :
    bar2Write s port fn o bytes = s := by
  simp only [bar2Write, hready, ite_self]

theorem bar2Write_nil (s : Chip) (port fn o : Nat) : bar2Write s port fn o [] = s := by
  simp only [bar2Write, List.isEmpty_nil, Bool.or_true, if_true]

/-- A write that the access check refuses is counted at its controller, or is empty and does nothing (R324). -/
theorem bar2Write_of_refused {s : Chip} {port fn o p k : Nat} {bytes : List Byte} (hopen : barOpen s port fn = true)
    (hready : readyPart s port fn = some p) (hrefuse : girthAdmit s p (bar2Addr s port fn p o) bytes.length true = .refuse k) :
    bar2Write s port fn o bytes = s ∨ bar2Write s port fn o bytes = refuseAccess s (bar2Addr s port fn p o) true := by
  cases bytes with
  | nil => exact .inl (bar2Write_nil s port fn o)
  | cons b l =>
    right
    rw [bar2Write_of_ready hopen List.isEmpty_cons hready, hrefuse]
    rfl

/-- A function reaches no READY partition where the one bound to it, if any, is not READY. -/
theorem readyPart_of_unready {s : Chip} {port fn : Nat} (h : ∀ p, partOf s port fn = some p → partState s p ≠ 2) :
    readyPart s port fn = none := by
  rw [readyPart]
  split
  · rfl
  · exact Option.filter_eq_none_iff.mpr fun p hp => by simpa using h p hp

/-- Settles O57: a refused write is at most counted in a register, and one without a READY partition does nothing. -/
theorem bar2WriteDropped : Obligations.Bar2WriteDropped := by
  intro c l port fn offset bytes hopen
  have hexec : exec (.bar2Write port fn offset bytes) ⟨c, l⟩ = .next ⟨bar2Write c port.val fn.val offset bytes, l⟩ := rfl
  refine ⟨?refused, ?unready⟩
  case refused =>
    intro p a k hready haddr hrefuse
    subst haddr
    refine ⟨_, hexec, ?_⟩
    rcases bar2Write_of_refused hopen hready hrefuse with h | h
    · rw [h]
      exact ⟨rfl, rfl, rfl, rfl, rfl⟩
    · rw [h]
      exact ⟨refuseAccess_keeps _ wr_mem _ _ _, refuseAccess_keeps _ wr_pads _ _ _, refuseAccess_keeps _ wr_q _ _ _,
        refuseAccess_keeps _ wr_faults _ _ _, refuseAccess_keeps _ wr_out _ _ _⟩
  case unready =>
    intro hstate
    rw [hexec, bar2Write_of_unready offset bytes (readyPart_of_unready hstate)]

/-! ### Writes of the memory pages, and the refill (R325, R327, R344) -/

/-- A range entry that no check of R325 refuses is written. -/
theorem hbmRangeWrite_of_inOrder {s : Chip} {u p v : Nat} (r : Nat) (hreason : rangeReason s u p v = 0) :
    hbmRangeWrite s u p r v =
      wrAll s (.hbm u) [(Reg.HBM_RANGE_VALID p r, bits v 31 31), (Reg.HBM_RANGE_RO p r, bits v 30 30),
        (Reg.HBM_RANGE_LAST p r, bits v 26 16), (Reg.HBM_RANGE_FIRST p r, bits v 10 0)] :=
  if_pos hreason

/-- The check that refuses a range entry is shown, with the entry's place (R325). -/
theorem hbmRangeWrite_of_refused {s : Chip} {u p v : Nat} (r : Nat) (hreason : rangeReason s u p v ≠ 0) :
    hbmRangeWrite s u p r v =
      wrAll s (.hbm u) [(Reg.HBM_RANGE_STAT_REASON, rangeReason s u p v), (Reg.HBM_RANGE_STAT_PARTITION, p),
        (Reg.HBM_RANGE_STAT_RANGE, r)] :=
  if_neg hreason

/-- A slice entry that no check of R325 refuses is written; a retired one stays retired (R344). -/
theorem tbSliceWrite_of_inOrder {s : Chip} {v n : Nat} {e : Slice} (hsel : rd s (.tb 0) Reg.TB_SLICE_SEL_SLICE = n)
    (hentry : sliceEntry s n = e) (hreason : sliceReason e v = 0) :
    tbSliceWrite s v =
      putSlice s n { valid := bit v 31, ro := bit v 30, retired := e.retired || bit v 29, owner := bits v 3 0 } := by
  simp only [tbSliceWrite, hsel, hentry, hreason, if_true]

/-- The check that refuses a slice entry is shown (R325). -/
theorem tbSliceWrite_of_refused {s : Chip} {v n : Nat} {e : Slice} (hsel : rd s (.tb 0) Reg.TB_SLICE_SEL_SLICE = n)
    (hentry : sliceEntry s n = e) (hreason : sliceReason e v ≠ 0) :
    tbSliceWrite s v = wr s (.tb 0) Reg.TB_SLICE_STAT_REASON (sliceReason e v) := by
  simp only [tbSliceWrite, hsel, hentry, if_neg hreason]

/-- A register of the host driver on a range entry, while the module runs. -/
theorem exec_hbmRangeWrite {c : Chip} (l : List Instr) (stack p : Fin 16) (r : Fin 4) (v : Word) (hrun : running c = true)
    (hopen : driverOpen c = true) :
    exec (.hbmRangeWrite stack p r v) ⟨c, l⟩ = .next ⟨hbmRangeWrite c stack.val p.val r.val v.toNat, l⟩ :=
  drivenLive_of_open l _ hrun hopen

theorem exec_tbSliceWrite {c : Chip} (l : List Instr) (v : Word) (hrun : running c = true) (hopen : driverOpen c = true) :
    exec (.tbSliceWrite v) ⟨c, l⟩ = .next ⟨tbSliceWrite c v.toNat, l⟩ :=
  drivenLive_of_open l _ hrun hopen

/-- Settles O22: three are writes of the host driver, whose checks decide them, and the refill is an event of a running module. -/
theorem memoryPageWritesRun : Obligations.MemoryPageWritesRun := by
  refine ⟨?range, ?rangeRefused, ?slice, ?sliceRefused, ?girth, ?refill⟩
  case range =>
    intro c l stack p r v hrun hopen hreason
    rw [exec_hbmRangeWrite l stack p r v hrun hopen, hbmRangeWrite_of_inOrder r.val hreason]
  case rangeRefused =>
    intro c l stack p r v hrun hopen hreason
    rw [exec_hbmRangeWrite l stack p r v hrun hopen, hbmRangeWrite_of_refused r.val hreason]
  case slice =>
    intro c l v n e hrun hopen hsel hentry hreason
    rw [exec_tbSliceWrite l v hrun hopen, tbSliceWrite_of_inOrder hsel hentry hreason]
  case sliceRefused =>
    intro c l v n e hrun hopen hsel hentry hreason
    rw [exec_tbSliceWrite l v hrun hopen, tbSliceWrite_of_refused hsel hentry hreason]
  case girth =>
    intro c l unit p v t hrun hopen ht
    have hexec : exec (.girthCfgWrite unit p v) ⟨c, l⟩ =
        drivenLive ⟨c, l⟩ (fun c => memoryGoes (girthCfgWrite c unit.val p.val v.toNat)) := rfl
    rw [hexec, drivenLive_of_open l _ hrun hopen, girthCfgWrite, ht]
  case refill =>
    exact fun c l hrun => live_of_running l (fun c => memoryGoes (girthRefill c)) hrun

/-! ### Retirement, patrol, self-refresh, initialisation and release scrubs -/

/-- A retirement that the stack asks for is accepted (R339). -/
theorem retireAccept_of_requested {s : Chip} {u : Nat} (hstate : rd s (.hbm u) Reg.HBM_STAT_RETIRE_STATE = 1) :
    retireAccept s u = { s with retire := kadd s.retire u } := if_pos hstate

/-- The copy of an accepted retirement starts at its first granule (R340). -/
theorem retireCopyStart_of_accepted {s : Chip} {u : Nat} (hstate : rd s (.hbm u) Reg.HBM_STAT_RETIRE_STATE = 1)
    (haccepted : kmem s.retire u = true) :
    retireCopyStart s u = wrAll s (.hbm u) [(Reg.HBM_STAT_RETIRE_STATE, 2), (Reg.HBM_RETIRE_PROGRESS_COPIED, 0)] :=
  if_pos (by simp [hstate, haccepted])

/-- A copy that has granules left goes on (R341). -/
theorem retireCopyComplete_of_left {s : Chip} {u n m : Nat} (hstate : rd s (.hbm u) Reg.HBM_STAT_RETIRE_STATE = 2)
    (hto : min (rd s (.hbm u) Reg.HBM_RETIRE_PROGRESS_COPIED + n) retireGranules = m) (hleft : m ≠ retireGranules) :
    retireCopyComplete s u n = copyTo s u m := by
  simp only [retireCopyComplete, hstate, hto, ne_eq, not_true_eq_false, if_false, if_neg hleft]

/-- With its last granule the copy is over (R341, R342). -/
theorem retireCopyComplete_of_last {s : Chip} {u n : Nat} (hstate : rd s (.hbm u) Reg.HBM_STAT_RETIRE_STATE = 2)
    (hto : min (rd s (.hbm u) Reg.HBM_RETIRE_PROGRESS_COPIED + n) retireGranules = retireGranules) :
    retireCopyComplete s u n = copyOver (copyTo s u retireGranules) u := by
  simp only [retireCopyComplete, hstate, hto, ne_eq, not_true_eq_false, if_false, if_true]

/-- While the module runs, a copy goes on, and what waits for memory, or for standby, with it (R467). -/
theorem exec_retireCopyComplete {c : Chip} (l : List Instr) (stack : Fin 16) (n : Nat) (hrun : running c = true) :
    exec (.retireCopyComplete stack n) ⟨c, l⟩ = .next ⟨standbyRetry (memoryGoes (retireCopyComplete c stack.val n)), l⟩ :=
  live_of_running l _ hrun

/-- Tier B goes to self-refresh after SR_IDLE microseconds without an access or a scrub (R345). -/
theorem tbSelfRefreshEntry_of_idle {s : Chip} (hidle : rd s (.tb 0) Reg.TB_CFG_SR_IDLE ≠ 0) (hready : s.power.tierB = true)
    (hscrub : s.hosts.scrubs.all (fun x => x.slices.isEmpty) = true) (hpower : rd s (.tb 0) Reg.TB_STAT_POWER = 0)
    (hpast : s.power.lastTierB + rd s (.tb 0) Reg.TB_CFG_SR_IDLE * 1000 ≤ s.now) :
    tbSelfRefreshEntry s = showTierB s 1 :=
  if_pos (by simp only [bne_iff_ne.mpr hidle, hready, hscrub, hpower, decide_eq_true hpast, beq_self_eq_true, Bool.and_self])

/-- The end of tier A's initialisation: every line is zero, and accesses are granted (R346). -/
theorem tierInitComplete_tierA {s : Chip} (htrained : s.power.trained = true) (htier : s.power.tierA = false) :
    tierInitComplete s false = memReady { memZero s 0 (16 * stackSize) with power := { s.power with tierA := true } } := by
  simp only [tierInitComplete, htrained, htier, Bool.not_true, Bool.false_eq_true, if_false]

/-- The end of tier B's, whose controllers show full power from then on (R345, R346). -/
theorem tierInitComplete_tierB {s : Chip} (htrained : s.power.trained = true) (htier : s.power.tierB = false) :
    tierInitComplete s true = memReady (showTierB { memZero s tierBBase (2 ^ 40) with
      power := { s.power with tierB := true, lastTierB := s.now } } 0) := by
  simp only [tierInitComplete, htrained, htier, Bool.not_true, Bool.false_eq_true, if_false, if_true]

theorem exec_tierInitComplete {c : Chip} (l : List Instr) (tierB : Bool) (hrun : running c = true) :
    exec (.tierInitComplete tierB) ⟨c, l⟩ = .next ⟨memoryGoes (tierInitComplete c tierB), l⟩ :=
  live_of_running l _ hrun

/-- The step that zeroes the last of a partition's memory ends its scrub (R347). -/
theorem releaseScrubComplete_of_last {s : Chip} {p : Nat} {step : ScrubStep} {x : Scrub} {e : Chip × Scrub}
    (hscrub : s.hosts.scrubs.find? (fun x => x.part == p) = some x) (hstep : scrubStep s x step = e)
    (hleft : (e.2.perStack.isEmpty && e.2.slices.isEmpty) = true) :
    releaseScrubComplete s p step = scrubOver e.1 p x.release := by
  simp only [releaseScrubComplete, hscrub, hstep, hleft, if_true]

/-- Any other step shows what is left of the scrub (R347). -/
theorem releaseScrubComplete_of_left {s : Chip} {p : Nat} {step : ScrubStep} {x : Scrub} {e : Chip × Scrub}
    (hscrub : s.hosts.scrubs.find? (fun x => x.part == p) = some x) (hstep : scrubStep s x step = e)
    (hleft : (e.2.perStack.isEmpty && e.2.slices.isEmpty) = false) :
    releaseScrubComplete s p step = showScrubs { e.1 with hosts := { e.1.hosts with
      scrubs := e.1.hosts.scrubs.map (fun y => if y.part = p then e.2 else y) } } := by
  simp only [releaseScrubComplete, hscrub, hstep, hleft, Bool.false_eq_true, if_false]

theorem exec_releaseScrubComplete {c : Chip} (l : List Instr) (p : Fin 16) (step : ScrubStep) (hrun : running c = true) :
    exec (.releaseScrubComplete p step) ⟨c, l⟩ = .next ⟨releaseScrubComplete c p.val step, l⟩ :=
  live_of_running l _ hrun

/-- Settles O23: an acceptance is a write of the host driver, and the others are events of a running module whose condition
holds. -/
theorem memoryEventsRun : Obligations.MemoryEventsRun := by
  refine ⟨?accept, ?start, ?copy, ?copyEnd, ?patrol, ?selfRefresh, ?tierA, ?tierB, ?scrubEnd, ?scrub⟩
  case accept =>
    intro c l stack hrun hopen hstate
    have hexec : exec (.retireAccept stack) ⟨c, l⟩ = drivenLive ⟨c, l⟩ (fun c => retireAccept c stack.val) := rfl
    rw [hexec, drivenLive_of_open l _ hrun hopen, retireAccept_of_requested hstate]
  case start =>
    intro c l stack hrun hstate haccepted
    have hexec : exec (.retireCopyStart stack) ⟨c, l⟩ = live ⟨c, l⟩ (fun c => retireCopyStart c stack.val) := rfl
    rw [hexec, live_of_running l _ hrun, retireCopyStart_of_accepted hstate haccepted]
  case copy =>
    intro c l stack n m hrun hstate hto hleft
    rw [exec_retireCopyComplete l stack n hrun, retireCopyComplete_of_left hstate hto hleft]
  case copyEnd =>
    intro c l stack n hrun hstate hto
    rw [exec_retireCopyComplete l stack n hrun, retireCopyComplete_of_last hstate hto]
  case patrol =>
    intro c l unit met hrun hon
    have hexec : exec (.patrolScrubRead unit met) ⟨c, l⟩ = live ⟨c, l⟩ (fun c => patrolScrubRead c unit.val met) := rfl
    rw [hexec, live_of_running l _ hrun, patrolScrubRead, if_pos hon]
  case selfRefresh =>
    intro c l hrun hidle hready hscrub hpower hpast
    have hexec : exec .tbSelfRefreshEntry ⟨c, l⟩ = live ⟨c, l⟩ tbSelfRefreshEntry := rfl
    rw [hexec, live_of_running l _ hrun, tbSelfRefreshEntry_of_idle hidle hready hscrub hpower hpast]
  case tierA =>
    intro c l hrun htrained htier
    rw [exec_tierInitComplete l false hrun, tierInitComplete_tierA htrained htier]
  case tierB =>
    intro c l hrun htrained htier
    rw [exec_tierInitComplete l true hrun, tierInitComplete_tierB htrained htier]
  case scrubEnd =>
    intro c l p step x e hrun hscrub hstep hleft
    rw [exec_releaseScrubComplete l p step hrun, releaseScrubComplete_of_last hscrub hstep hleft]
  case scrub =>
    intro c l p step x e hrun hscrub hstep hleft
    rw [exec_releaseScrubComplete l p step hrun, releaseScrubComplete_of_left hscrub hstep hleft]

end Sys2Proof.Machine
end

section
/-!
PROOF. The statements of chapter 12 (hosts and partitions): what every command keeps of the mesh and of the hosts (R355, R413,
R415), BAR2 writes that are granted (R356, R357), functions that do not answer (R355), partition commands and holds (R358 to
R371), function-level resets, PERST and links (R351, R360 to R365, R472, R504), and the commands of the management bus (R354,
R386, R509 to R511).
-/
namespace Sys2Proof.Machine

/-! ### The mesh and the hosts -/

theorem exec_mesh {i : Instr} {s t : State} (h : exec i s = .next t) (hno : i.mayTouchMesh = false) : t.mesh = s.mesh :=
  ((exec_keeps h False.elim).cx.m _ (keptUnless_of_not _ hno)).symm

theorem exec_hosts {i : Instr} {s t : State} (h : exec i s = .next t) (hno : i.mayTouchHosts = false) : t.hosts = s.hosts :=
  ((exec_keeps h False.elim).cx.h _ (keptUnless_of_not _ hno)).symm

/-- Settles O43: both parts stand among those that `exec_keeps` keeps. -/
theorem meshAndHostsKept : Obligations.MeshAndHostsKept :=
  ⟨fun _ _ _ hno h => exec_mesh h hno, fun _ _ _ hno h => exec_hosts h hno⟩

/-! ### A command whose effect is known -/

/-- A change of the module is answered with what it makes of the module. -/
theorem act_of_eq {c t : Chip} {f : Chip → Chip} (l : List Instr) (h : f c = t) : act ⟨c, l⟩ f = .next ⟨t, l⟩ := by
  rw [act_eq, ← h]

theorem live_of_eq {c t : Chip} {f : Chip → Chip} (l : List Instr) (hrun : running c = true) (h : f c = t) :
    live ⟨c, l⟩ f = .next ⟨t, l⟩ := by
  rw [live_of_running l f hrun, h]

theorem drivenLive_of_eq {c t : Chip} {f : Chip → Chip} (l : List Instr) (hrun : running c = true) (hopen : driverOpen c = true)
    (h : f c = t) : drivenLive ⟨c, l⟩ f = .next ⟨t, l⟩ := by
  rw [drivenLive_of_open l f hrun hopen, h]

theorem throughLive_of_eq {c t : Chip} {via : Via} {f : Chip → Chip} (l : List Instr) (hrun : running c = true)
    (hopen : viaOpen c via = true) (h : f c = t) : throughLive ⟨c, l⟩ via f = .next ⟨t, l⟩ := by
  rw [throughLive_of_open l f hrun hopen, h]

/-! ### BAR2 writes that are granted (R356, R357) -/

/-- A request's fate is a matter of registers, regulators and waits: memory is as it was. -/
theorem admitted_mem (s : Chip) (p a len : Nat) (write : Bool) : (admitted s p a len write).mem = s.mem :=
  ((canon_admitted (canon_self s False False.elim)).cm _ rfl).symm

theorem admitted_pads (s : Chip) (p a len : Nat) (write : Bool) : (admitted s p a len write).pads = s.pads :=
  ((canon_admitted (canon_self s False False.elim)).cp _ rfl).symm

/-- A granted write is charged, and its bytes stored at the address its window gives. -/
theorem bar2Write_of_granted {s : Chip} {port fn o p : Nat} {bytes : List Byte} (hopen : barOpen s port fn = true)
    (hbytes : bytes ≠ []) (hready : readyPart s port fn = some p)
    (hgo : girthAdmit s p (bar2Addr s port fn p o) bytes.length true = .go) :
    bar2Write s port fn o bytes =
      memPut (admitted s p (bar2Addr s port fn p o) bytes.length true) (bar2Addr s port fn p o) bytes := by
  rw [bar2Write_of_ready hopen (List.isEmpty_eq_false_iff.mpr hbytes) hready, hgo]
  rfl

/-- Settles O56: the charge touches no byte, and the store touches those of its run alone. -/
theorem bar2WriteStores : Obligations.Bar2WriteStores := by
  intro c l port fn offset bytes p a hwf hopen hbytes hready haddr hgo
  subst haddr
  have hcharged := admitted_mem c p (bar2Addr c port.val fn.val p offset) bytes.length true
  refine ⟨_, act_of_eq l (bar2Write_of_granted hopen hbytes hready hgo), ?read, ?outside, ?pads⟩
  case read => exact memRead_memPut _ _ _ (hcharged ▸ hwf)
  case outside =>
    intro x hx
    rw [memPut_outside _ _ _ _ hx, hcharged]
  case pads => rw [memPut_pads, admitted_pads]

/-! ### Functions that do not answer (R355) -/

/-- While the host driver does not have its access, its register access changes nothing. -/
theorem driven_of_shut {s : State} (f : Chip → Chip) (hshut : driverOpen s.toChip = false) : driven s f = .next s := by
  rw [driven_eq, hshut]
  rfl

theorem drivenLive_of_shut {s : State} (f : Chip → Chip) (hshut : driverOpen s.toChip = false) : drivenLive s f = .next s := by
  rw [drivenLive_eq, hshut]
  simp only [Bool.false_eq_true, if_false, ite_self]

/-- While a function does not answer, a register access through it changes nothing. -/
theorem through_of_shut {s : State} {via : Via} (f : Chip → Chip) (hshut : viaOpen s.toChip via = false) :
    through s via f = .next s := by
  rw [through_eq, hshut]
  rfl

theorem throughLive_of_shut {s : State} {via : Via} (f : Chip → Chip) (hshut : viaOpen s.toChip via = false) :
    throughLive s via f = .next s := by
  rw [throughLive_eq, hshut]
  simp only [Bool.false_eq_true, if_false, ite_self]

/-- Each command of the host driver is a register access of it. -/
theorem exec_of_driverShut {i : Instr} {s : State} (h : i.byDriver = true) (hshut : driverOpen s.toChip = false) :
    exec i s = .next s := by
  cases i with
  | srnRetrain | zeroFillGo | pwModelLoad | pwFreeWrite | skvCtxLoad | hbmRangeWrite | tbSliceWrite | girthCfgWrite
  | retireAccept | create | release | teardown => exact drivenLive_of_shut _ hshut
  | twinRoleWrite | secSvnCommit | openOperator | closeOperator | nonceNew | token | supplement | debugRead | fcAck
  | fenceRelease | standby | slEnableWrite | pageQuiesce | pageEnableWrite | localReset | irqStatClear | irqSet
  | interruptMaskWrite | errInject | countClear => exact driven_of_shut _ hshut
  | _ => exact absurd h Bool.false_ne_true

/-- Each access that comes through a function is a register access through it. -/
theorem exec_of_viaShut {i : Instr} {s : State} {v : Via} (h : i.via = some v) (hshut : viaOpen s.toChip v = false) :
    exec i s = .next s := by
  cases i with
  | sqDoorbell | queueEnable | queueResume | queueReset | sqCqHeadWrite | sqHostSignal | partitionReset | reclaim =>
    obtain rfl := Option.some.inj h
    exact throughLive_of_shut _ hshut
  | latchingLoRead | registerWrite =>
    obtain rfl := Option.some.inj h
    exact through_of_shut _ hshut
  | _ => exact absurd h nofun

/-- Settles O35: such a command is a register access, which asks first that its function answers. -/
theorem shutDriverChangesNothing : Obligations.ShutDriverChangesNothing :=
  ⟨fun _ _ h hshut => exec_of_driverShut h hshut, fun _ _ _ h hshut => exec_of_viaShut h hshut⟩

/-! ### Partition commands and holds (R358, R359, R362, R366, R367, R370) -/

/-- A configuration that passes Table 12-2 is taken: the partition enters CREATING (R358). -/
theorem create_of_passed {s : Chip} {p : Nat} (hstate : partState s p = 0) (hcode : createCode s p = 0) :
    create s p = setPartState s p 1 := by
  simp only [create, hstate, hcode, ne_eq, not_true_eq_false, if_false, if_true]

/-- With no fill left in a named bank, a partition in CREATING is READY (R359). -/
theorem partitionCreated_of_zeroed {s : Chip} {p : Nat} (hstate : partState s p = 1)
    (hfills : s.fills.any (fun f => (namedQuads s p).contains (f.bank / 16)) = false) :
    partitionCreated s p = createdAs s p (namedQuads s p) := by
  simp only [partitionCreated, hstate, hfills, ne_eq, not_true_eq_false, Bool.false_eq_true, or_self, if_false]

/-- A READY partition is reset by the management function, or by a tenant that may (R362, R375). -/
theorem partitionReset_of_ready {s : Chip} {via : Via} {p : Nat} (hreach : reaches s via p = true)
    (hmay : isMgmt s via = true ∨ rd s (.part p) Reg.HUB_PART_CFG_TENANT_RESET ≠ 0) (hstate : partState s p = 2) :
    partitionReset s via p = partCode (resetSteps s p) p 0 := by
  have hgo : (!(reaches s via p) || (!(isMgmt s via) && rd s (.part p) Reg.HUB_PART_CFG_TENANT_RESET == 0)) = false := by
    rcases hmay with hmay | hmay <;> simp [hreach, hmay]
  simp only [partitionReset, hgo, hstate, Bool.false_eq_true, ne_eq, not_true_eq_false, if_false]

/-- A hold interval that is over brings the function-level reset effects (R370). -/
theorem holdExpiry_of_over {s : Chip} {p : Nat} (hover : holdOver s p = true) :
    holdExpiry s p = flrEffects (bump s (.pci (boundFunc s p).1) Reg.PCI_EVENTS_HOLD_EXPIRED 1) p false := if_pos hover

theorem holdExpiry_of_lasting {s : Chip} {p : Nat} (hover : holdOver s p = false) : holdExpiry s p = s :=
  if_neg (ne_true_of_eq_false hover)

/-- A partition that is READY or held is released by the function-level reset effects (R367). -/
theorem release_of_readyOrHeld {s : Chip} {p : Nat} (hover : holdOver s p = false)
    (hstate : partState s p = 2 ∨ partState s p = 3) : release s p = flrEffects s p true := by
  simp only [release, holdExpiry_of_lasting hover, if_pos hstate]

/-- While a partition's scrub runs, a release is asked for at its end (R366, R367). -/
theorem release_of_scrubbing {s : Chip} {p : Nat} (hover : holdOver s p = false) (hstate : partState s p = 4) :
    release s p = setPartState { s with hosts := { s.hosts with
      scrubs := s.hosts.scrubs.map (fun x => if x.part = p then { x with release := true } else x) } } p 5 := by
  have hneither : ¬ (partState s p = 2 ∨ partState s p = 3) := by simp [hstate]
  simp only [release, holdExpiry_of_lasting hover, if_neg hneither, if_pos hstate]

/-- A held partition is reclaimed (R370). -/
theorem reclaim_of_held {s : Chip} {via : Via} {p : Nat} (hreach : reaches s via p = true) (hover : holdOver s p = false)
    (hstate : partState s p = 3) : reclaim s via p = reclaimed s p := by
  simp only [reclaim, hreach, holdExpiry_of_lasting hover, hstate, Bool.not_true, Bool.false_eq_true, ne_eq, not_true_eq_false,
    if_false]

/-- A held partition is torn down (R370). -/
theorem teardown_of_held {s : Chip} {p : Nat} (hover : holdOver s p = false) (hstate : partState s p = 3) :
    teardown s p = partCode (flrEffects s p false) p 0 := by
  simp only [teardown, holdExpiry_of_lasting hover, if_pos hstate]

/-- Settles O24: the partition's state, and its hold, decide what each of its commands does. -/
theorem partitionCommandsRun : Obligations.PartitionCommandsRun := by
  refine ⟨?create, ?created, ?reset, ?release, ?scrubbing, ?reclaim, ?teardown, ?expiry⟩
  case create =>
    intro c l p hrun hopen hstate hcode
    exact drivenLive_of_eq l hrun hopen (create_of_passed hstate hcode)
  case created =>
    intro c l p k hrun hstate hnamed hfills
    subst hnamed
    exact live_of_eq l hrun (partitionCreated_of_zeroed hstate hfills)
  case reset =>
    intro c l via p hrun hopen hreach hmay hstate
    exact throughLive_of_eq l hrun hopen (partitionReset_of_ready hreach hmay hstate)
  case release =>
    intro c l p hrun hopen hover hstate
    exact drivenLive_of_eq l hrun hopen (release_of_readyOrHeld hover hstate)
  case scrubbing =>
    intro c l p hrun hopen hover hstate
    exact drivenLive_of_eq l hrun hopen (release_of_scrubbing hover hstate)
  case reclaim =>
    intro c l via p hrun hopen hreach hover hstate
    exact throughLive_of_eq l hrun hopen (reclaim_of_held hreach hover hstate)
  case teardown =>
    intro c l p hrun hopen hover hstate
    exact drivenLive_of_eq l hrun hopen (teardown_of_held hover hstate)
  case expiry =>
    intro c l p hrun hover
    exact live_of_eq l hrun (holdExpiry_of_over hover)

/-! ### Function-level resets (R361, R363) -/

/-- While the hub runs verified firmware, the cause of a function-level reset decides whom it reaches. -/
theorem functionLevelReset_of_flr {s : Chip} {port fn : Nat} (hhub : hubOn s = true) (hboot : s.sec.booted = true)
    (hthere : funcPresent s port fn = true) (hlink : dlUp s port = true) :
    functionLevelReset s port fn .flr =
      if fn = 0 then resetFunction (dropVfs s port 0) port 0 else resetFunction s port fn := by
  simp only [functionLevelReset, hhub, hboot, hthere, hlink, Bool.not_true, Bool.or_self, Bool.false_eq_true, if_false]

theorem functionLevelReset_of_vfEnableCleared {s : Chip} {port : Nat} (fn : Nat) (hhub : hubOn s = true)
    (hboot : s.sec.booted = true) : functionLevelReset s port fn .vfEnableCleared = dropVfs s port 0 := by
  simp only [functionLevelReset, hhub, hboot, Bool.not_true, Bool.or_self, Bool.false_eq_true, if_false]

theorem functionLevelReset_of_numVfsLowered {s : Chip} {port : Nat} {n : Fin 17} (fn : Nat) (hhub : hubOn s = true)
    (hboot : s.sec.booted = true) (hlower : n.val < rd s (.pci port) Reg.PCI_LINK_STAT_NUM_VFS) :
    functionLevelReset s port fn (.numVfsLowered n) = dropVfs s port n.val := by
  simp only [functionLevelReset, hhub, hboot, Bool.not_true, Bool.or_self, Bool.false_eq_true, if_false, if_pos hlower]

/-! ### PERST_N (R361, R472, R504) -/

@[simp] theorem rd_setPerst (s : Chip) (port : Nat) (level : Bool) (clock : Option Bool) (pg : Page) (f : Field) :
    rd (setPerst s port level clock) pg f = rd s pg f := rfl

@[simp] theorem powerState_setPerst (s : Chip) (port : Nat) (level : Bool) (clock : Option Bool) :
    powerState (setPerst s port level clock) = powerState s := rfl

@[simp] theorem hubOn_setPerst (s : Chip) (port : Nat) (level : Bool) (clock : Option Bool) :
    hubOn (setPerst s port level clock) = hubOn s := rfl

@[simp] theorem setPerst_warm (s : Chip) (port : Nat) (level : Bool) (clock : Option Bool) :
    (setPerst s port level clock).hosts.warm = s.hosts.warm := by
  unfold setPerst
  split <;> rfl

/-- A hot reset takes a port whose link is up through a warm reset, which ends at once (R361). -/
theorem perstAssert_of_hot {s : Chip} {port : Nat} (hhub : hubOn s = true) (hlink : dlUp s port = true) :
    perstAssert s port true = setFlag (warmReset s port true) (.pci port) Reg.PCI_IRQ_STAT_PERST := by
  simp only [perstAssert, hhub, hlink, Bool.and_self, if_true]

/-- The assertion of PERST_N gives up the port's clock, and starts a warm reset of a port of a running hub (R361). -/
theorem perstAssert_of_released {s : Chip} {port : Nat} (hhub : hubOn s = true) (hlevel : perst s port = false) :
    perstAssert s port false = (let t := setPerst s port true none
      warmReset { t with hosts := { t.hosts with warm := kadd t.hosts.warm port } } port false) := by
  simp only [perstAssert, hlevel, hubOn_setPerst, hhub, Bool.false_eq_true, if_false, if_true]

/-- The release of PERST_N in a module that has power and enters no standby fixes the port's clock, and ends its warm reset
(R472, R504). -/
theorem perstDeassert_of_warm {s : Chip} {port : Nat} (clock : Bool) (hlevel : perst s port = true) (hpower : powerState s ≠ 0)
    (hawake : powerState s ≠ 1) (hstay : rd s .pm Reg.PM_STAT_ENTERING ≠ 1) (hwarm : kmem s.hosts.warm port = true) :
    perstDeassert s port clock = (let t := setPerst s port false (some clock)
      setFlag { t with hosts := { t.hosts with warm := kdel t.hosts.warm port } } (.pci port) Reg.PCI_IRQ_STAT_PERST) := by
  simp [perstDeassert, hlevel, hpower, hawake, hstay, hwarm]

/-! ### Links, and host memory that does not answer (R351, R353, R368) -/

/-- A link that was up is lost (R368). -/
theorem surpriseLinkLoss_of_up {s : Chip} {port : Nat} (hhub : hubOn s = true) (hlink : dlUp s port = true) :
    surpriseLinkLoss s port = linkLost s port := if_pos (by rw [hhub, hlink]; rfl)

/-- A copy of host memory that is not answered ends with the host error, once it has credit for its runs (R353, R186). -/
theorem dmaCopy_of_hostError {s : Chip} {o : Origin} {b : Body} (hfields : copyInvalid b = false)
    (hcredit : runsWait s o.part.val (copyRuns b) = false) (hhost : copyHost b = true) :
    dmaCopy s o b .error = dmaDone (faultHost s o) o 0x06 b := by
  simp only [dmaCopy, hfields, hcredit, hhost, beq_self_eq_true, Bool.or_true, Bool.and_self, Bool.false_eq_true, if_false,
    if_true]

/-- A completion timeout fails the copy that waits for host memory, with its job in hand (R353). -/
theorem hostCompletionTimeout_of_copy {s : Chip} {o : Origin} {k : Cmd}
    (hwaits : (s.q.jobs.filter (fromOrigin o)).findSome? hostCommand = some k) (hcopy : hdrOpcode k.raw = 0x06) :
    hostCompletionTimeout s o = dmaCopy (handTo s o (dmaOf o) 0x06 (bodyOf k.raw)) o (bodyOf k.raw) .error := by
  simp only [hostCompletionTimeout, hwaits, hcopy, if_true]

/-- Settles O25: each is an event of a hub that runs, whose condition holds. -/
theorem hostLinkEventsRun : Obligations.HostLinkEventsRun := by
  refine ⟨?flr, ?vfEnable, ?numVfs, ?hot, ?assert, ?deassert, ?lost, ?up, ?timeout⟩
  case flr =>
    intro c l port fn hhub hboot hthere hlink
    exact act_of_eq l (functionLevelReset_of_flr hhub hboot hthere hlink)
  case vfEnable =>
    intro c l port fn hhub hboot
    exact act_of_eq l (functionLevelReset_of_vfEnableCleared fn.val hhub hboot)
  case numVfs =>
    intro c l port fn n hhub hboot hlower
    exact act_of_eq l (functionLevelReset_of_numVfsLowered fn.val hhub hboot hlower)
  case hot =>
    intro c l port hhub hlink
    exact act_of_eq l (perstAssert_of_hot hhub hlink)
  case assert =>
    intro c l port t hhub hlevel hset
    subst hset
    exact act_of_eq l (perstAssert_of_released hhub hlevel)
  case deassert =>
    intro c l port clock t hlevel hpower hawake hstay hwarm hset
    subst hset
    exact act_of_eq (f := fun c => perstDeassert c port.val clock) l
      (perstDeassert_of_warm clock hlevel hpower hawake hstay hwarm)
  case lost =>
    intro c l port hhub hlink
    exact act_of_eq l (surpriseLinkLoss_of_up hhub hlink)
  case up =>
    intro c l port speed width flit hmay
    exact act_of_eq l (if_pos hmay)
  case timeout =>
    intro c l o k b t hrun hwaits hcopy hbody hfields hhand hcredit hhost
    subst hbody hhand
    exact live_of_eq l hrun
      ((hostCompletionTimeout_of_copy hwaits hcopy).trans (dmaCopy_of_hostError hfields hcredit hhost))

/-! ### The management bus (R354, R509, R510, R511) -/

/-- A command for the hub has its effect where its endpoint answers and the hub runs. -/
theorem hubCommand_of_hubOn {s : Chip} {via : Endpoint} (f : Chip → Chip) (hopen : endpointOpen s via = true)
    (hhub : hubOn s = true) : hubCommand s via f = f s := by
  simp only [hubCommand, hopen, hhub, Bool.not_true, Bool.false_eq_true, if_false, if_true]

/-- While the hub does not run, the endpoint answers ERROR_NOT_READY (R511). -/
theorem hubCommand_of_hubOff {s : Chip} {via : Endpoint} (f : Chip → Chip) (hopen : endpointOpen s via = true)
    (hhub : hubOn s = false) : hubCommand s via f = emit s (.mctpNotReady via (eidOf s via)) := by
  simp only [hubCommand, hopen, hhub, Bool.not_true, Bool.false_eq_true, if_false]

theorem hubOn_of_firmwareOn {s : Chip} (h : firmwareOn s = true) : hubOn s = true := (Bool.and_eq_true_iff.mp h).1

/-- A code that Table 18-5 reserves is unsupported (R510). -/
theorem mctpUnsupportedCmd_of_reserved {s : Chip} {code : Nat} {via : Endpoint} (hopen : endpointOpen s via = true)
    (hhub : hubOn s = true) (hcode : code = 0 ∨ 8 < code) :
    mctpUnsupportedCmd s code via = emit s (.mctpUnsupported via (eidOf s via)) := by
  have hreserved : ¬ (1 ≤ code ∧ code ≤ 8) := by omega
  rw [mctpUnsupportedCmd, if_neg hreserved, hubCommand_of_hubOn _ hopen hhub]

/-- Where its endpoint answers, an EID is taken, and the answer carries it (R510). -/
theorem setEndpointId_of_pcie {s : Chip} (eid : Nat) (hopen : endpointOpen s .pcie = true) :
    setEndpointId s true eid = answer { s with bus := { s.bus with eidPcie := eid } } .pcie 0 [BitVec.ofNat 8 eid] := if_pos hopen

theorem setEndpointId_of_sideband {s : Chip} (eid : Nat) (hopen : endpointOpen s .sideband = true) :
    setEndpointId s false eid = answer { s with bus := { s.bus with eidSideband := eid } } .sideband 0 [BitVec.ofNat 8 eid] :=
  if_pos hopen

/-! ### Tokens of the management controller (R386, R510) -/

/-- The bytes of a token that were there before a chunk: a chunk at offset 0 starts anew. -/
def chunksBefore (s : Chip) (offset : Nat) : List Byte := if offset = 0 then [] else s.sec.chunks

/-- A token's checks do not look at the chunks that are kept. -/
theorem checkToken_withChunks (s : Chip) (kept bytes : List Byte) :
    checkToken { s with sec := { s.sec with chunks := kept } } bytes = checkToken s bytes := rfl

/-- A chunk that comes next is judged by whether it is the token's last. -/
theorem mctpToken_of_next {s : Chip} {offset : Nat} {bytes : List Byte} {part : Processing} (last : Bool) (via : Endpoint)
    (hfirmware : firmwareOn s = true) (hlength : bytes.length ≤ 1024) (hnext : offset = (chunksBefore s offset).length)
    (hpart : part ≠ .finish) :
    mctpToken s offset bytes last part via =
      if last then
        takeToken { s with sec := { s.sec with chunks := [] } } false (some via) (part == .whole)
          (checkToken s (chunksBefore s offset ++ bytes)) (chunksBefore s offset ++ bytes)
      else answer { s with sec := { s.sec with chunks := chunksBefore s offset ++ bytes } } via 5 [0] := by
  have hjoins : ¬ offset ≠ (if offset = 0 then [] else s.sec.chunks).length := not_not_intro hnext
  simp only [mctpToken, hfirmware, if_neg hpart, if_neg hlength.not_gt, if_neg hjoins, chunksBefore, Bool.not_true,
    Bool.false_eq_true, if_false]

/-- The processing of a token that the endpoint delivered ends (R386). -/
theorem mctpToken_of_finish {s : Chip} {via : Endpoint} {d : TokenWork} (offset : Nat) (bytes : List Byte) (last : Bool)
    (hfirmware : firmwareOn s = true) (hwork : s.sec.processing = some d) (hkind : d.isSupplement = false)
    (hvia : d.mctp = some via) :
    mctpToken s offset bytes last .finish via =
      processed (wr { s with sec := { s.sec with processing := none } } .sec Reg.SEC_TOKEN_STAT_BUSY 0) d := by
  simp only [mctpToken, endProcessing, hfirmware, hwork, hkind, hvia, and_self, Bool.not_true, Bool.false_eq_true, if_false,
    if_true]

/-- While the firmware runs and the endpoint answers, MCTP_TOKEN is its chunk's delivery, and what standby waits for may be over
with it (R467). -/
theorem exec_mctpToken {c : Chip} {via : Endpoint} (l : List Instr) (offset : Nat) (bytes : List Byte) (last : Bool)
    (part : Processing) (hopen : endpointOpen c via = true) (hfirmware : firmwareOn c = true) :
    exec (.mctpToken offset bytes last part via) ⟨c, l⟩ = .next ⟨standbyRetry (mctpToken c offset bytes last part via), l⟩ :=
  act_of_eq (f := fun c => mctpTokenChunk c offset bytes last part via) l
    (hubCommand_of_hubOn _ hopen (hubOn_of_firmwareOn hfirmware))

/-- Settles O31: where the endpoint answers, each command is carried out, by a hub that runs where it is one for the hub. -/
theorem managementCommandsRun : Obligations.ManagementCommandsRun := by
  refine ⟨?override, ?standby, ?chunk, ?last, ?finish, ?fault, ?telemetry, ?status, ?unsupported, ?standbyOff, ?faultOff,
    ?telemetryOff, ?tokenOff, ?pcie, ?sideband, ?i3c, ?rstdaa⟩
  case override =>
    intro c l v via hopen
    exact act_of_eq l (if_pos hopen)
  case standby =>
    intro c l via hhub hopen
    exact act_of_eq (f := fun c => mctpStandby c via) l (hubCommand_of_hubOn _ hopen hhub)
  case chunk =>
    intro c l offset bytes part via hfirmware hopen hlength hnext hpart
    rw [exec_mctpToken l offset bytes false part hopen hfirmware,
      mctpToken_of_next false via hfirmware hlength hnext hpart]
    rfl
  case last =>
    intro c l offset bytes all part via k hfirmware hopen hlength hall hnext hpart hcheck
    subst hall hcheck
    rw [checkToken_withChunks, exec_mctpToken l offset bytes true part hopen hfirmware,
      mctpToken_of_next true via hfirmware hlength hnext hpart]
    rfl
  case finish =>
    intro c l offset bytes last via d hfirmware hopen hwork hkind hvia
    rw [exec_mctpToken l offset bytes last .finish hopen hfirmware,
      mctpToken_of_finish offset bytes last hfirmware hwork hkind hvia]
  case fault =>
    intro c l seq via hhub hopen
    exact act_of_eq (f := fun c => faultRead c seq.toNat via) l (hubCommand_of_hubOn _ hopen hhub)
  case telemetry =>
    intro c l via hhub hopen
    exact act_of_eq (f := fun c => telemetryRead c via) l (hubCommand_of_hubOn _ hopen hhub)
  case status =>
    intro c l via hopen
    exact act_of_eq l (if_pos hopen)
  case unsupported =>
    intro c l code via hhub hopen hcode
    exact act_of_eq l (mctpUnsupportedCmd_of_reserved hopen hhub hcode)
  case standbyOff =>
    intro c l via hopen hhub
    exact act_of_eq (f := fun c => mctpStandby c via) l (hubCommand_of_hubOff _ hopen hhub)
  case faultOff =>
    intro c l seq via hopen hhub
    exact act_of_eq (f := fun c => faultRead c seq.toNat via) l (hubCommand_of_hubOff _ hopen hhub)
  case telemetryOff =>
    intro c l via hopen hhub
    exact act_of_eq (f := fun c => telemetryRead c via) l (hubCommand_of_hubOff _ hopen hhub)
  case tokenOff =>
    intro c l offset bytes last part via hopen hhub
    exact act_of_eq (f := fun c => mctpTokenChunk c offset bytes last part via) l (hubCommand_of_hubOff _ hopen hhub)
  case pcie =>
    intro c l eid hopen
    exact act_of_eq (f := fun c => setEndpointId c true eid.toNat) l (setEndpointId_of_pcie eid.toNat hopen)
  case sideband =>
    intro c l eid hopen
    exact act_of_eq (f := fun c => setEndpointId c false eid.toNat) l (setEndpointId_of_sideband eid.toNat hopen)
  case i3c =>
    intro c l a hpower
    exact act_of_eq l (if_neg hpower)
  case rstdaa =>
    intro c l hpower
    exact act_of_eq l (if_neg hpower)

end Sys2Proof.Machine
end

section
/-!
PROOF. The statements of chapter 13 (security): what every command keeps of the security state (R377, R399), the commit of the
security version (R385), requests of the hosts (R323, R353, R356, R357, R382, R493, R494), and the commands of the security
page, of IDE, SPDM and the boot (R380 to R400).
-/
namespace Sys2Proof.Machine

/-! ### The security state -/

/-- Settles O44: the security state stands among the parts that `exec_keeps` keeps. -/
theorem securityKept : Obligations.SecurityKept := fun _ _ _ hno h => exec_sec h hno

/-! ### Commands of the host driver whose effect is known -/

theorem driven_of_eq {c t : Chip} {f : Chip → Chip} (l : List Instr) (hopen : driverOpen c = true) (h : f c = t) :
    driven ⟨c, l⟩ f = .next ⟨t, l⟩ := by
  rw [driven_of_open l f hopen, h]

/-! ### The commit of the security version (R385) -/

/-- The module once MIN_SVN is burnt to `v` and shown. -/
def svnCommitted (s : Chip) (v : Nat) : Chip :=
  wr { s with sec := { s.sec with fuses := { s.sec.fuses with minSvn := v } } } .sec Reg.SEC_FUSE_STAT_MIN_SVN v

/-- Firmware that runs from a supplement copy above the fused MIN_SVN commits its SVN. -/
theorem secSvnCommit_of_higher {s : Chip} (hfirmware : firmwareOn s = true) (hcopy : s.sec.runningB.isSome = true)
    (hhigher : s.sec.fuses.minSvn < rd s .sec Reg.SEC_BOOT_STAT_SVN) :
    secSvnCommit s = svnCommitted s (rd s .sec Reg.SEC_BOOT_STAT_SVN) :=
  if_pos (by simp [hfirmware, hcopy, hhigher])

/-- An SVN that is not above the fused MIN_SVN is not committed. -/
theorem secSvnCommit_of_not_higher {s : Chip} (hlow : rd s .sec Reg.SEC_BOOT_STAT_SVN ≤ s.sec.fuses.minSvn) :
    secSvnCommit s = s :=
  if_neg (by simp [hlow])

/-- A command of the host driver that would change nothing leaves the state as it is, whether or not the driver has its access. -/
theorem next_of_unchangedSo {s : State} {b : Bool} {c : Chip} (h : c = s.toChip) :
    (.next { s with toChip := if b then c else s.toChip } : Host.Outcome State Fault Refusal) = .next s := by
  rw [h, ite_self]

/-- Settles O54: the commit writes one fuse and the one field that shows it. -/
theorem securityVersionCommitted : Obligations.SecurityVersionCommitted := by
  intro c l v hv
  subst hv
  refine ⟨?higher, ?notHigher⟩
  case higher =>
    intro hopen hhub hboot hcopy hhigher
    have hfirmware : firmwareOn c = true := by rw [firmwareOn, hhub, hboot]; rfl
    refine ⟨_, driven_of_eq l hopen (secSvnCommit_of_higher hfirmware hcopy hhigher), rfl, ?shown, ?others, rfl, rfl⟩
    case shown => exact fun hsorted => rd_wr_same _ _ _ _ hsorted
    case others => exact fun pg f hkey => rd_wr_ne _ _ _ _ _ _ hkey
  case notHigher => exact fun hlow => next_of_unchangedSo (secSvnCommit_of_not_higher hlow)

/-! ### Requests of the hosts (R323, R353, R356, R357, R382, R493, R494) -/

/-- A configuration request of a function that is there, booted and not resetting takes effect and is answered (R382). -/
theorem configRequest_of_booted {s : Chip} {port fn : Nat} (a : ConfigAccess) (hhub : hubOn s = true) (hlink : dlUp s port = true)
    (hboot : s.sec.booted = true) (hpresent : funcPresent s port fn = true) (hready : (func s port fn).resetting = false) :
    configRequest s port fn a = emit (configApplied s port fn a) (.configDone port fn (configAnswer s port fn a)) := by
  simp only [configRequest, hhub, hlink, hboot, hpresent, hready, Bool.not_true, Bool.or_self, Bool.false_eq_true, if_false]

/-- Before boot, every configuration request is answered with a retry (R382). -/
theorem configRequest_of_unbooted {s : Chip} {port : Nat} (fn : Nat) (a : ConfigAccess) (hhub : hubOn s = true)
    (hlink : dlUp s port = true) (hboot : s.sec.booted = false) : configRequest s port fn a = emit s (.configRetry port fn) := by
  simp only [configRequest, hhub, hlink, hboot, Bool.not_true, Bool.not_false, Bool.or_self, Bool.false_eq_true, if_false, if_true]

/-- A read of one byte or more goes to the READY partition of the function, at the address its window gives (R356). -/
theorem bar2Read_of_ready {s : Chip} {port fn o len p : Nat} (hopen : barOpen s port fn = true) (hlen : len ≠ 0)
    (hready : readyPart s port fn = some p) :
    bar2Read s port fn o len =
      bar2ReadAt s port fn p (bar2Addr s port fn p o) len (girthAdmit s p (bar2Addr s port fn p o) len false) := by
  simp [bar2Read, hopen, hlen, hready]

/-- Where no READY partition is reached, a read answers ones (R357). -/
theorem bar2Read_of_unready {s : Chip} {port fn len : Nat} (o : Nat) (hopen : barOpen s port fn = true) (hlen : len ≠ 0)
    (hready : readyPart s port fn = none) : bar2Read s port fn o len = onesDone s port fn len := by
  simp [bar2Read, hopen, hlen, hready]

/-- A read through a scratchpad window that is there and wakes no region goes through its parts in order (R493, R494). -/
theorem spadWindowRead_of_awake {s : Chip} {port fn o len : Nat} (hthere : windowThere s port fn o len = true)
    (hfatal : inFatal s = false) (hawake : windowSleeps s port fn o len = false) :
    spadWindowRead s port fn o len =
      windowAnswer ((windowParts o len).foldl (windowReadPart port fn) (s, [], false)) port fn len := by
  simp only [spadWindowRead, hthere, hfatal, hawake, Bool.not_true, Bool.false_eq_true, if_false]

theorem spadWindowWrite_of_awake {s : Chip} {port fn o : Nat} {bytes : List Byte}
    (hthere : windowThere s port fn o bytes.length = true) (hfatal : inFatal s = false)
    (hawake : windowSleeps s port fn o bytes.length = false) :
    spadWindowWrite s port fn o bytes = (windowParts o bytes.length).foldl (windowWritePart port fn o bytes) s := by
  simp only [spadWindowWrite, hthere, hfatal, hawake, Bool.not_true, Bool.or_self, Bool.false_eq_true, if_false]

/-- An AtomicOp on a function whose stream is not insecure is unsupported (R353). -/
theorem atomicOpRequest_of_secure {s : Chip} {port fn : Nat} (hhub : hubOn s = true) (hlink : dlUp s port = true)
    (hstream : kmem s.sec.ideInsecure (funcNo port fn) = false) :
    atomicOpRequest s port fn =
      emit (if funcPresent s port fn then setAer s port fn 20 else s) (.unsupported port fn) :=
  if_pos (by simp [hhub, hlink, hstream])

/-- Settles O26: the link, the boot and the function's state decide each answer; the grant check decides those of BAR2. -/
theorem hostRequestsAnswered : Obligations.HostRequestsAnswered := by
  refine ⟨?config, ?retry, ?readGo, ?writeGo, ?readRefused, ?readUnready, ?writeRefused, ?writeUnready, ?padRead, ?padWrite,
    ?atomic⟩
  case config =>
    intro c l port fn a hhub hlink hboot hpresent hready
    exact act_of_eq l (configRequest_of_booted a hhub hlink hboot hpresent hready)
  case retry =>
    intro c l port fn a hhub hlink hboot
    exact act_of_eq l (configRequest_of_unbooted fn.val a hhub hlink hboot)
  case readGo =>
    intro c l port fn offset len p hopen hlen hready hgo
    exact act_of_eq l ((bar2Read_of_ready hopen hlen hready).trans (by rw [hgo]; rfl))
  case writeGo =>
    intro c l port fn offset bytes p hopen hbytes hready hgo
    exact act_of_eq l (bar2Write_of_granted hopen (List.isEmpty_eq_false_iff.mp hbytes) hready hgo)
  case readRefused =>
    intro c l port fn offset len p code hopen hlen hready hrefuse
    exact act_of_eq l ((bar2Read_of_ready hopen hlen hready).trans (by rw [hrefuse]; rfl))
  case readUnready =>
    intro c l port fn offset len hopen hlen hready
    exact act_of_eq l (bar2Read_of_unready offset hopen hlen hready)
  case writeRefused =>
    intro c l port fn offset bytes p code hopen hbytes hready hrefuse
    exact act_of_eq l ((bar2Write_of_ready hopen hbytes hready).trans (by rw [hrefuse]; rfl))
  case writeUnready =>
    intro c l port fn offset bytes hopen hbytes hready
    exact act_of_eq l (bar2Write_of_unready offset bytes hready)
  case padRead =>
    intro c l port fn offset len hthere hfatal hawake
    exact act_of_eq l (spadWindowRead_of_awake hthere hfatal hawake)
  case padWrite =>
    intro c l port fn offset bytes hthere hfatal hawake
    exact act_of_eq l (spadWindowWrite_of_awake hthere hfatal hawake)
  case atomic =>
    intro c l port fn hhub hlink hstream
    exact act_of_eq l (atomicOpRequest_of_secure hhub hlink hstream)

/-! ### IDE (R396, R397) -/

/-- A failure of a secure stream makes it insecure (R397). -/
theorem ideIntegrityFail_of_secure {s : Chip} {port fn : Nat} (hfirmware : firmwareOn s = true)
    (hsecure : kmem s.sec.ideSecure (funcNo port fn) = true) : ideIntegrityFail s port fn = ideFailed s (funcNo port fn) :=
  if_neg (by simp [hfirmware, hsecure])

/-- Key management in a secured session of the function makes its stream secure (R396). -/
theorem ideKm_of_ownSession {s : Chip} {port fn id : Nat} (hfirmware : firmwareOn s = true)
    (hpresent : funcPresent s port fn = true) (hown : ownSession s port fn id = true) :
    ideKm s port fn id = msixFlush (ideSet s (funcNo port fn)) port fn :=
  if_neg (by simp [hfirmware, hpresent, hown])

/-! ### SPDM (R392): what a responder answers, once it answers at all -/

section
variable {s : Chip} {r : Responder} (hawake : powerState s ≠ 1) (hon : responderOn s r = true)
include hawake hon

theorem spdmRequest_version : spdmRequest s r .version = spdmAnswer s r (.version 1 4) := by
  simp only [spdmRequest, if_neg hawake, hon, Bool.not_true, Bool.false_eq_true, if_false]

theorem spdmRequest_algorithms :
    spdmRequest s r .algorithms = spdmAnswer s r (.algorithms .slhDsaShake128f .sha3of256 .mlKem768 .aes256Gcm) := by
  simp only [spdmRequest, if_neg hawake, hon, Bool.not_true, Bool.false_eq_true, if_false]

theorem spdmRequest_certificate : spdmRequest s r .certificate = spdmAnswer s r (.certificate (slot0 s)) := by
  simp only [spdmRequest, if_neg hawake, hon, Bool.not_true, Bool.false_eq_true, if_false]

theorem spdmRequest_measurements {n : Nat} {bytes : List Byte} (hblock : measurement s r n = some bytes) :
    spdmRequest s r (.measurements n) = spdmAnswer s r (.measurements [(n, bytes)] (golushElement s) (aliasKey s).pub) := by
  simp only [spdmRequest, if_neg hawake, hon, hblock, Bool.not_true, Bool.false_eq_true, if_false]

/-- A key exchange opens a session, not yet secured, under the next number. -/
theorem spdmRequest_keyExchange :
    spdmRequest s r .keyExchange = spdmAnswer { s with sec := { s.sec with
      sessions := s.sec.sessions ++ [{ id := s.sec.nextSession, responder := r, secured := false }],
      nextSession := s.sec.nextSession + 1 } } r (.keyExchange s.sec.nextSession) := by
  simp only [spdmRequest, if_neg hawake, hon, Bool.not_true, Bool.false_eq_true, if_false]

/-- A finish secures the responder's session that it names. -/
theorem spdmRequest_finish {id : Nat} {x : Session} (hsession : sessionOf s r id = some x) :
    spdmRequest s r (.finish id) = spdmAnswer (setSessions s (s.sec.sessions.map (fun x =>
      if x.id = id then { x with secured := true } else x))) r .done := by
  simp only [spdmRequest, inSession, if_neg hawake, hon, hsession, Bool.not_true, Bool.false_and, Bool.false_eq_true, if_false]

/-- An end closes the responder's secured session that it names. -/
theorem spdmRequest_endSession {id : Nat} {x : Session} (hsession : sessionOf s r id = some x) (hsecured : x.secured = true) :
    spdmRequest s r (.endSession id) =
      spdmAnswer (setSessions s (s.sec.sessions.filter (fun x => x.id != id))) r .done := by
  simp only [spdmRequest, inSession, if_neg hawake, hon, hsession, hsecured, Bool.not_true, Bool.and_false, Bool.false_eq_true,
    if_false]

end

/-! ### The OPERATOR state and the boot chain (R380 to R382, R398) -/

theorem openOperator_of_closed {s : Chip} (hfirmware : firmwareOn s = true) (hclosed : operatorBit s = false) :
    openOperator s = setDebug (bump s .sec Reg.SEC_DEBUG_STAT_OPERATOR_OPENS 1) true (deepBit s) :=
  if_neg (by simp [hfirmware, hclosed])

/-- The boot chain runs where the module runs unbooted, and the Serrun links train after it (R380 to R382). -/
theorem bootChain_of_unbooted {s : Chip} (hrun : running s = true) (hboot : s.sec.booted = false) :
    bootChain s = trainAll (runBoot s) :=
  if_pos (by simp [hrun, hboot])

/-! ### Tokens and supplements (R384, R386, R387) -/

/-- One that comes while none is processed has its checks made; it is processed to its end where it is not only a start. -/
theorem takeToken_of_idle {s : Chip} {code : Nat} (isSupplement ends : Bool) (mctp : Option Endpoint) (bytes : List Byte)
    (hidle : s.sec.processing = none) :
    takeToken s isSupplement mctp ends code bytes =
      if ends then endProcessing (startProcessing s isSupplement mctp code bytes) isSupplement mctp
      else startProcessing s isSupplement mctp code bytes := by
  simp only [takeToken, hidle, Option.isSome_none, Bool.false_eq_true, if_false]

/-- The processing that is under way ends where the command is for it. -/
theorem endProcessing_of_own {s : Chip} {d : TokenWork} (hwork : s.sec.processing = some d) :
    endProcessing s d.isSupplement d.mctp =
      processed (wr { s with sec := { s.sec with processing := none } } .sec Reg.SEC_TOKEN_STAT_BUSY 0) d := by
  simp only [endProcessing, hwork, and_self, if_true]

section
variable {s : Chip} (hfirmware : firmwareOn s = true)
include hfirmware

/-- A token that is read while none is processed has its checks made (R386, R387). -/
theorem token_of_read {host : HostReply} {bytes : List Byte} {part : Processing} (hpart : part ≠ .finish)
    (hidle : s.sec.processing = none) (hread : coxRead s host = some bytes) :
    token s host part =
      takeToken s false none (part == .whole) (checkToken s (bytes.take tokenLen)) (bytes.take tokenLen) := by
  simp only [token, hfirmware, if_neg hpart, hidle, hread, Option.isSome_none, Bool.not_true, Bool.false_eq_true, if_false]

theorem token_finish (host : HostReply) : token s host .finish = endProcessing s false none := by
  simp only [token, hfirmware, Bool.not_true, Bool.false_eq_true, if_false, if_true]

/-- A token that comes while one is processed is answered BUSY (R386). -/
theorem token_of_busy {part : Processing} (host : HostReply) (hpart : part ≠ .finish) (hbusy : s.sec.processing.isSome = true) :
    token s host part = tokenBusy s none := by
  simp only [token, hfirmware, if_neg hpart, hbusy, Bool.not_true, Bool.false_eq_true, if_false, if_true]

/-- A supplement that is read while none is processed has its checks made (R384). -/
theorem supplement_of_read {host : HostReply} {bytes : List Byte} {part : Processing} (hpart : part ≠ .finish)
    (hidle : s.sec.processing = none) (hread : coxRead s host = some bytes) :
    supplement s host part = takeToken s true none (part == .whole) (checkCopy s bytes) bytes := by
  simp only [supplement, hfirmware, if_neg hpart, hidle, hread, Option.isSome_none, Bool.not_true, Bool.false_eq_true, if_false]

theorem supplement_finish (host : HostReply) : supplement s host .finish = endProcessing s true none := by
  simp only [supplement, hfirmware, Bool.not_true, Bool.false_eq_true, if_false, if_true]

theorem supplement_of_busy {part : Processing} (host : HostReply) (hpart : part ≠ .finish)
    (hbusy : s.sec.processing.isSome = true) : supplement s host part = tokenBusy s none := by
  simp only [supplement, hfirmware, if_neg hpart, hbusy, Bool.not_true, Bool.false_eq_true, if_false, if_true]

end

/-- TOKEN through the host driver: what standby waits for may be over with it (R467). -/
theorem exec_token {c t : Chip} {host : HostReply} {part : Processing} (l : List Instr) (hopen : driverOpen c = true)
    (h : token c host part = t) : exec (.token host part) ⟨c, l⟩ = .next ⟨standbyRetry t, l⟩ :=
  driven_of_eq (f := fun c => standbyRetry (token c host part)) l hopen (congrArg standbyRetry h)

theorem exec_supplement {c t : Chip} {host : HostReply} {part : Processing} (l : List Instr) (hopen : driverOpen c = true)
    (h : supplement c host part = t) : exec (.supplement host part) ⟨c, l⟩ = .next ⟨standbyRetry t, l⟩ :=
  driven_of_eq (f := fun c => standbyRetry (supplement c host part)) l hopen (congrArg standbyRetry h)

/-! ### Debug reads (R400) -/

/-- The module once a debug read has named its address. -/
def debugStarted (s : Chip) : Chip :=
  wr { s with sec := { s.sec with reading := some (debugNamed s) } } .sec Reg.SEC_DBG_STAT_BUSY 1

/-- Outside CLOSED a read that meets none under way names its address. -/
theorem debugGo_of_open {s : Chip} (hfirmware : firmwareOn s = true) (hopen : debugState s ≠ 0) (hidle : s.sec.reading = none) :
    debugGo s = debugStarted s :=
  if_neg (by simp [hfirmware, hopen, hidle])

/-- A read that is under way shows its data, and is over. -/
theorem debugDone_of_reading {s : Chip} {d : DebugRead} (hreading : s.sec.reading = some d) :
    debugDone s =
      (let t := debugMeets { s with sec := { s.sec with reading := none } } d
       let x := debugData t d
       wrAll (countReads t x.2.2) .sec [(Reg.SEC_DBG_STAT_BUSY, 0), (Reg.SEC_DBG_DATA_LO_DATA, x.1),
         (Reg.SEC_DBG_DATA_HI_DATA, x.1 / 2 ^ 32), (Reg.SEC_DBG_STAT_POISON, if x.2.1 then 1 else 0)]) := by
  simp only [debugDone, hreading]

theorem debugRead_whole_of_open {s : Chip} (hfirmware : firmwareOn s = true) (hopen : debugState s ≠ 0)
    (hidle : s.sec.reading = none) : debugRead s .whole = debugDone (debugStarted s) := by
  simp only [debugRead, hidle, debugGo_of_open hfirmware hopen hidle, Option.isSome_none, Bool.false_eq_true, if_false]

/-- Settles O27: the host driver's commands ask for its access, all ask for the firmware, and each for its own condition. -/
theorem securityCommandsRun : Obligations.SecurityCommandsRun := by
  refine ⟨?ideFail, ?ideKm, ?version, ?algorithms, ?certificate, ?measurements, ?keyExchange, ?finish, ?endSession, ?commit,
    ?openOp, ?closeOp, ?nonce, ?tokenWhole, ?tokenStart, ?tokenFinish, ?tokenBusy, ?suppWhole, ?suppStart, ?suppFinish, ?suppBusy,
    ?debugStart, ?debugFinish, ?debugWhole, ?boot⟩
  case ideFail =>
    intro c l port fn hfirmware hsecure
    exact act_of_eq l (ideIntegrityFail_of_secure hfirmware hsecure)
  case ideKm =>
    intro c l port fn session hfirmware hpresent hown
    exact act_of_eq (f := fun c => ideKm c port.val fn.val session) l (ideKm_of_ownSession hfirmware hpresent hown)
  case version => exact fun c l r hawake hon => act_of_eq l (spdmRequest_version hawake hon)
  case algorithms => exact fun c l r hawake hon => act_of_eq l (spdmRequest_algorithms hawake hon)
  case certificate => exact fun c l r hawake hon => act_of_eq l (spdmRequest_certificate hawake hon)
  case measurements =>
    intro c l r n bytes hawake hon hblock
    exact act_of_eq l (spdmRequest_measurements hawake hon hblock)
  case keyExchange => exact fun c l r hawake hon => act_of_eq l (spdmRequest_keyExchange hawake hon)
  case finish =>
    intro c l r id x hawake hon hsession
    exact act_of_eq l (spdmRequest_finish hawake hon hsession)
  case endSession =>
    intro c l r id x hawake hon hsession hsecured
    exact act_of_eq l (spdmRequest_endSession hawake hon hsession hsecured)
  case commit =>
    intro c l hopen hfirmware hcopy hhigher
    exact driven_of_eq l hopen (secSvnCommit_of_higher hfirmware hcopy hhigher)
  case openOp =>
    intro c l hopen hfirmware hclosed
    exact driven_of_eq l hopen (openOperator_of_closed hfirmware hclosed)
  case closeOp => exact fun c l hopen hfirmware => driven_of_eq l hopen (if_pos hfirmware)
  case nonce => exact fun c l hopen hfirmware => driven_of_eq l hopen (if_pos hfirmware)
  case tokenWhole =>
    intro c l host bytes k hopen hfirmware hidle hread hcheck
    subst hcheck
    exact exec_token l hopen ((token_of_read (part := .whole) hfirmware nofun hidle hread).trans
      (takeToken_of_idle false true none _ hidle))
  case tokenStart =>
    intro c l host bytes k hopen hfirmware hidle hread hcheck
    subst hcheck
    exact exec_token l hopen ((token_of_read (part := .start) hfirmware nofun hidle hread).trans
      (takeToken_of_idle false false none _ hidle))
  case tokenFinish =>
    intro c l host d hopen hfirmware hwork hkind hvia
    exact exec_token l hopen ((token_finish hfirmware host).trans (hkind ▸ hvia ▸ endProcessing_of_own hwork))
  case tokenBusy =>
    intro c l host part hopen hfirmware hbusy hpart
    exact exec_token l hopen (token_of_busy hfirmware host hpart hbusy)
  case suppWhole =>
    intro c l host bytes k hopen hfirmware hidle hread hcheck
    subst hcheck
    exact exec_supplement l hopen ((supplement_of_read (part := .whole) hfirmware nofun hidle hread).trans
      (takeToken_of_idle true true none _ hidle))
  case suppStart =>
    intro c l host bytes k hopen hfirmware hidle hread hcheck
    subst hcheck
    exact exec_supplement l hopen ((supplement_of_read (part := .start) hfirmware nofun hidle hread).trans
      (takeToken_of_idle true false none _ hidle))
  case suppFinish =>
    intro c l host d hopen hfirmware hwork hkind hvia
    exact exec_supplement l hopen ((supplement_finish hfirmware host).trans (hkind ▸ hvia ▸ endProcessing_of_own hwork))
  case suppBusy =>
    intro c l host part hopen hfirmware hbusy hpart
    exact exec_supplement l hopen (supplement_of_busy hfirmware host hpart hbusy)
  case debugStart =>
    intro c l hopen hfirmware hstate hidle
    exact driven_of_eq (f := fun c => debugRead c .start) l hopen (debugGo_of_open hfirmware hstate hidle)
  case debugFinish =>
    intro c l d t x hopen hreading ht hx
    subst ht hx
    exact driven_of_eq (f := fun c => debugRead c .finish) l hopen (debugDone_of_reading hreading)
  case debugWhole =>
    intro c l hopen hfirmware hstate hidle
    exact driven_of_eq l hopen (debugRead_whole_of_open hfirmware hstate hidle)
  case boot => exact fun c l hrun hboot => act_of_eq l (bootChain_of_unbooted hrun hboot)

end Sys2Proof.Machine
end

section
/-!
PROOF. The statements of chapter 14 (mesh): Serrun commands and packets (R415 to R425), Serrun links, cards and cables (R409 to
R412, R512, R513), and the twin pair and the placement (R413, R426 to R429).
-/
namespace Sys2Proof.Machine

/-! ### Serrun commands (R416, R418, R419, R421, R423 to R425) -/

/-- A command with its source granted reads and packs it and sends it, where its destination can be reached. -/
theorem srnPush_of_granted {s : Chip} {o : Origin} {b : Body} (op : Nat) (body : Payload → PacketBody)
    (hreach : srnBlocked s b = none)
    (hcredit : runsWait s o.part.val [if bf b 0x24 31 30 = 1 then [(bq b 0x10, bw b 0x20, false)] else []] = false)
    (hgrant : (placePrefix s o { space := bf b 0x24 31 30, addr := bq b 0x10 } (bw b 0x20) false).2 = none) :
    srnPush s o op b body = pushGo s o op b body := by
  simp only [srnPush, hreach, hcredit, hgrant, Bool.false_eq_true, if_false]

theorem srnWrite_of_inOrder {s : Chip} {o : Origin} {b : Body} (hlen : srnLenBad b = false) (hspace : bf b 0x24 31 30 ≤ 1) :
    srnWrite s o b = srnPush s o 0x60 b (fun d => .write (bq b 0x18) d) :=
  if_neg (by simp [hlen, hspace])

theorem srnUpdate_of_inOrder {s : Chip} {o : Origin} {b : Body} (hfields : srnUpdateBad b = false) :
    srnUpdate s o b =
      srnPush s o 0x62 b (fun d => .update (bq b 0x18) d (bf b 0x24 27 26) (bf b 0x24 25 24) (bb b 0x24 23)) :=
  if_neg (by simp [hfields])

theorem srnRead_of_inOrder {s : Chip} {o : Origin} {b : Body} (hlen : srnLenBad b = false) (hspace : bf b 0x24 29 28 ≤ 1)
    (hreach : srnBlocked s b = none) :
    srnRead s o b = srnLaunch s o 0x61 b (.read (bf b 0x24 29 28) (bq b 0x18) false) (.read (bq b 0x10) (bw b 0x20)) := by
  simp [srnRead, hlen, hspace, hreach]

/-- SRN_SIGNAL goes once the earlier commands of its job have retired (R421). -/
theorem srnSignal_of_following {s : Chip} {o : Origin} {b : Body} (hfollow : mayFollow s o (dmaOf o) 0x64 b = true)
    (hreach : srnBlocked s b = none) :
    srnSignal s o b = srnLaunch s o 0x64 b .signal (.signal (bf b 0x10 15 0) (bw b 0x14)) := by
  simp only [srnSignal, hfollow, hreach, Bool.not_true, Bool.false_eq_true, if_false]

section
variable {s : Chip} {o : Origin} {b : Body} (hfields : collInvalid s b = false)
  (hcredit : runsWait s o.part.val [[(bq b 0x10, bw b 0x20, true)]] = false)
  (hgrant : memRefusal s o.part.val (bq b 0x10) (bw b 0x20) true = none)
include hfields hcredit hgrant

/-- A collective whose buffer is granted starts where nothing is in its way (R416). -/
theorem srnAllreduce_of_clear (hclear : collBlocked s = none) : srnAllreduce s o b = collStart s o b := by
  simp only [srnAllreduce, hfields, hcredit, hgrant, hclear, Bool.false_eq_true, if_false]

/-- What is in its way faults it before anything is sent, and its buffer is free (R416, R425). -/
theorem srnAllreduce_of_blocked {port code : Nat} (hblocked : collBlocked s = some (port, code)) :
    srnAllreduce s o b = srnFault (loseBuf s o.part.val (collOfBody b)) port o 0x63 b code := by
  simp only [srnAllreduce, hfields, hcredit, hgrant, hblocked, Bool.false_eq_true, if_false]

end

/-- Nothing is in a collective's way where its members are inside the mesh and its partners' digests agree (R416, R425). -/
theorem collBlocked_of_clear {s : Chip} (hinside : collOutside s = false) (hdigest : badDigest s = none) :
    collBlocked s = none := by
  simp only [collBlocked, hinside, hdigest, Bool.false_eq_true, if_false, Option.map_none]

/-- A member outside the mesh is in its way, or, where there is none, a partner with another digest. -/
theorem collBlocked_of_blocked {s : Chip} {port : Nat}
    (h : collOutside s = true ∧ port = 0 ∨ collOutside s = false ∧ badDigest s = some port) :
    collBlocked s = some (port, if collOutside s then 0x94 else 0x92) := by
  rcases h with ⟨houtside, rfl⟩ | ⟨hinside, hdigest⟩
  · simp only [collBlocked, houtside, if_true]
  · simp only [collBlocked, hinside, hdigest, Bool.false_eq_true, if_false, Option.map_some]

/-- Settles O13: each is carried out with its job in hand, and what would fault or hold it is out of its way. -/
theorem serrunCommandsRun : Obligations.SerrunCommandsRun := by
  refine ⟨?write, ?update, ?read, ?signal, ?allreduce, ?blocked⟩
  case write =>
    intro c l o b c' hrun htodo hhand hlen hspace hreach hcredit hgrant
    have hexec : exec (.srnWrite o b) ⟨c, l⟩ = carry ⟨c, l⟩ o (dmaOf o) 0x60 b (fun c => srnWrite c o b) := rfl
    rw [hexec, carry_of_stillToDo l _ hrun htodo, hhand, srnWrite_of_inOrder hlen hspace,
      srnPush_of_granted _ _ hreach hcredit hgrant]
  case update =>
    intro c l o b c' hrun htodo hhand hfields hreach hcredit hgrant
    have hexec : exec (.srnUpdate o b) ⟨c, l⟩ = carry ⟨c, l⟩ o (dmaOf o) 0x62 b (fun c => srnUpdate c o b) := rfl
    rw [hexec, carry_of_stillToDo l _ hrun htodo, hhand, srnUpdate_of_inOrder hfields,
      srnPush_of_granted _ _ hreach hcredit hgrant]
  case read =>
    intro c l o b c' hrun htodo hhand hlen hspace hreach
    have hexec : exec (.srnRead o b) ⟨c, l⟩ = carry ⟨c, l⟩ o (dmaOf o) 0x61 b (fun c => srnRead c o b) := rfl
    rw [hexec, carry_of_stillToDo l _ hrun htodo, hhand, srnRead_of_inOrder hlen hspace hreach]
  case signal =>
    intro c l o b c' hrun htodo hhand hfollow hreach
    have hexec : exec (.srnSignal o b) ⟨c, l⟩ = carry ⟨c, l⟩ o (dmaOf o) 0x64 b (fun c => srnSignal c o b) := rfl
    rw [hexec, carry_of_stillToDo l _ hrun htodo, hhand, srnSignal_of_following hfollow hreach]
  all_goals
    have hexec (c : Chip) (l : List Instr) (o : Origin) (b : Body) : exec (.srnAllreduce o b) ⟨c, l⟩ =
      carry ⟨c, l⟩ o (dmaOf o) 0x63 b (fun c => srnAllreduce c o b) := rfl
  case allreduce =>
    intro c l o b c' hrun htodo hhand hfields hcredit hgrant hinside hdigest
    rw [hexec, carry_of_stillToDo l _ hrun htodo, hhand, srnAllreduce_of_clear hfields hcredit hgrant
      (collBlocked_of_clear hinside hdigest)]
  case blocked =>
    intro c l o b port c' hrun htodo hhand hfields hcredit hgrant hblocked
    rw [hexec, carry_of_stillToDo l _ hrun htodo, hhand, srnAllreduce_of_blocked hfields hcredit hgrant
      (collBlocked_of_blocked hblocked)]

/-! ### Packets on the links (R416 to R418, R420) -/

section
variable {s : Chip} {port : Nat} {k : Packet} (hrun : running s = true)
include hrun

/-- A packet for this module that arrives on a link that is UP is taken. -/
theorem srnPacketArrival_of_mine (hup : linkUpAt s port = true) (hmine : isMine s k = true) :
    srnPacketArrival s port k = takePacket s port k :=
  if_neg (by simp [hrun, hup, hmine])

/-- A packet for another module goes on where the next link is UP. -/
theorem srnPacketForward_of_up {q : Nat} (hup : linkUpAt s port = true) (hother : isMine s k = false)
    (hroute : routePort s k.dstX.val k.dstY.val = some q) (hnext : linkUpAt s q = true) :
    srnPacketForward s port k = sendPacket (countRx s port (bodyData k.body).bytes.length) q k := by
  simp only [srnPacketForward, hrun, hup, hother, hroute, hnext, Bool.not_true, Bool.or_self, Bool.false_eq_true, if_false,
    if_true]

/-- A packet for another module whose next link is not UP is discarded. -/
theorem srnPacketDiscard_of_down {q : Nat} (hother : isMine s k = false)
    (hroute : routePort s k.dstX.val k.dstY.val = some q) (hnext : linkUpAt s q = false) :
    srnPacketDiscard s port k = discardPacket s port k := by
  simp only [srnPacketDiscard, hrun, hother, hroute, hnext, Bool.not_true, Bool.or_self, Bool.false_eq_true, if_false]

end

/-- A request is delivered; answers are told apart by their body. -/
theorem takePacket_of_request {s : Chip} {port : Nat} {k : Packet} (hrequest : isAnswer k.body = false) :
    takePacket s port k = packetArrived port k (deliver s port k) := by
  cases hbody : k.body with
  | ack => simp [hbody, isAnswer] at hrequest
  | refusal => simp [hbody, isAnswer] at hrequest
  | _ => simp only [takePacket, hbody]

theorem takePacket_of_ack {s : Chip} {port : Nat} {k : Packet} {d : Payload} (hbody : k.body = .ack d) :
    takePacket s port k = srnAckArrival s k.xfer d := by
  simp only [takePacket, hbody]

theorem takePacket_of_refusal {s : Chip} {port : Nat} {k : Packet} {r : RefusalReason} (hbody : k.body = .refusal r) :
    takePacket s port k = srnRefusalArrival s k.xfer r := by
  simp only [takePacket, hbody]

/-! ### The ends of transfers (R415, R418, R421, R422, R425) -/

section
variable {s : Chip} {id : Nat} {x : Xfer} (hlive : xferById s id = some x)
include hlive

theorem srnRefusalArrival_of_live (r : RefusalReason) :
    srnRefusalArrival s id r = failXfer s x (if ackLate s x then 0x90 else refusalCode r) := by
  simp only [srnRefusalArrival, hlive]

/-- An acknowledgement of a live transfer is counted, once, and taken (R422). -/
theorem srnAckArrival_of_live (d : Payload) :
    srnAckArrival s id d = takeAck (if hasCome x then s else countRx s x.port d.bytes.length) x d := by
  simp only [srnAckArrival, hlive]

/-- A transfer that waits for an acknowledgement fails at its timeout (R421). -/
theorem srnAckTimeout_of_over (hcounts : ackCounts x.kind = true)
    (hover : x.started + msOf (rd s (.srn 0) Reg.SRN_ACK_CFG_ACK_TIMEOUT) ≤ s.now) :
    srnAckTimeout s id = failXfer s x 0x90 := by
  simp only [srnAckTimeout, hlive, ackLate, hcounts, decide_eq_true hover, Bool.and_self, if_true]

/-- A collective fails at its own timeout (R425). -/
theorem srnCollTimeout_of_over {k : Coll} (hkind : x.kind = .coll k)
    (hover : x.started + msOf (rd s (.srn 0) Reg.SRN_ACK_CFG_COLL_TIMEOUT) ≤ s.now) :
    srnCollTimeout s id = failXfer s x 0x95 := by
  simp only [srnCollTimeout, hlive, hkind, collLate, decide_eq_true hover, if_true]

end

section
variable {s : Chip} {x : Xfer} (d : Payload)

theorem takeAck_of_late (hlate : ackLate s x = true) : takeAck s x d = failXfer s x 0x90 := if_pos hlate

variable {o : Origin} {b : Body} (hintime : ackLate s x = false) (hwho : x.who = some (o, b))
include hintime hwho

/-- In time, a write or an update of a command ends. -/
theorem takeAck_of_write {op : Nat} (hkind : x.kind = .write op) :
    takeAck s x d = dmaDone (handTo (dropXfer s x.id) o (dmaOf o) op b) o op b := by
  simp only [takeAck, xferOp, hintime, hwho, hkind, Bool.false_eq_true, if_false]

/-- In time, a signal of a command ends. -/
theorem takeAck_of_signal (hkind : x.kind = .signal) :
    takeAck s x d = dmaDone (handTo (dropXfer s x.id) o (dmaOf o) 0x64 b) o 0x64 b := by
  simp only [takeAck, xferOp, hintime, hwho, hkind, Bool.false_eq_true, if_false]

/-- In time, a read's data lands. -/
theorem takeAck_of_read {space dst : Nat} {come : Bool} (hkind : x.kind = .read space dst come) :
    takeAck s x d = readArrived s x o b space dst d := by
  simp only [takeAck, hintime, hwho, hkind, Bool.false_eq_true, if_false]

end

/-- Settles O14: each is an event of a running module; a packet's body, and its transfer's kind and age, decide its effect. -/
theorem serrunPacketsMove : Obligations.SerrunPacketsMove := by
  refine ⟨?request, ?ack, ?refusal, ?forward, ?discard, ?refused, ?wrote, ?signalled, ?hasRead, ?late, ?timeout, ?coll⟩
  case request =>
    intro c l port k hrun hup hmine hrequest
    exact live_of_eq l hrun ((srnPacketArrival_of_mine hrun hup hmine).trans (takePacket_of_request hrequest))
  case ack =>
    intro c l port k d hrun hup hmine hbody
    exact live_of_eq l hrun ((srnPacketArrival_of_mine hrun hup hmine).trans (takePacket_of_ack hbody))
  case refusal =>
    intro c l port k reason hrun hup hmine hbody
    exact live_of_eq l hrun ((srnPacketArrival_of_mine hrun hup hmine).trans (takePacket_of_refusal hbody))
  case forward =>
    intro c l port k q hrun hup hother hroute hnext
    exact live_of_eq l hrun (srnPacketForward_of_up hrun hup hother hroute hnext)
  case discard =>
    intro c l port k q hrun hother hroute hnext
    exact live_of_eq l hrun (srnPacketDiscard_of_down hrun hother hroute hnext)
  case refused =>
    intro c l xfer reason x hrun hlive
    exact live_of_eq l hrun (srnRefusalArrival_of_live hlive reason)
  case wrote =>
    intro c l xfer d x o b op t hrun hlive hcounted hintime hkind hwho
    subst hcounted
    exact live_of_eq l hrun ((srnAckArrival_of_live hlive d).trans (takeAck_of_write d hintime hwho hkind))
  case signalled =>
    intro c l xfer d x o b t hrun hlive hcounted hintime hkind hwho
    subst hcounted
    exact live_of_eq l hrun ((srnAckArrival_of_live hlive d).trans (takeAck_of_signal d hintime hwho hkind))
  case hasRead =>
    intro c l xfer d x o b space dst come t hrun hlive hcounted hintime hkind hwho
    subst hcounted
    exact live_of_eq l hrun ((srnAckArrival_of_live hlive d).trans (takeAck_of_read d hintime hwho hkind))
  case late =>
    intro c l xfer d x t hrun hlive hcounted hlate
    subst hcounted
    exact live_of_eq l hrun ((srnAckArrival_of_live hlive d).trans (takeAck_of_late d hlate))
  case timeout =>
    intro c l xfer x hrun hlive hcounts hover
    exact live_of_eq l hrun (srnAckTimeout_of_over hlive hcounts hover)
  case coll =>
    intro c l xfer x k hrun hlive hkind hover
    exact live_of_eq l hrun (srnCollTimeout_of_over hlive hkind hover)

/-! ### Links, cards and cables (R409 to R412, R512, R513) -/

/-- A frame error of a lane group in use of a trained link is noted, and drops the group at its threshold (R409, R410). -/
theorem srnFrameCrcFail_of_used {s : Chip} {port g : Nat} (hrun : running s = true) (htrained : 2 ≤ linkState s port)
    (hused : bit (rd s (.srn port) Reg.SRN_LINK_STAT_GROUPS) g = true) :
    srnFrameCrcFail s port g = if groupWorn (crcNoted s port g) port g then dropGroup (crcNoted s port g) port g
      else crcNoted s port g :=
  if_neg (by simp [hrun, Nat.lt_of_succ_le htrained, hused])

theorem srnRetrainComplete_of_retraining {s : Chip} {port : Nat} (htrained : 2 ≤ linkState s port)
    (hretraining : (srnPort s port).retraining = true) :
    srnRetrainComplete s port = wr (setPort s port (fun x => { x with retraining := false })) (.srn port)
      Reg.SRN_LINK_STAT_GROUPS (groupsLeft s port) :=
  if_neg (by simp [Nat.lt_of_succ_le htrained, hretraining])

theorem srnTrainingComplete_of_training {s : Chip} {port : Nat} (htraining : linkState s port = 1)
    (hcan : canTrain s port = true) : srnTrainingComplete s port = linkTrained s port :=
  if_neg (by simp [htraining, hcan])

theorem crewCardReceived_of_trained {s : Chip} {port : Nat} (card : BitVec 512) (hrun : running s = true)
    (htrained : 2 ≤ linkState s port) : crewCardReceived s port card = cardTaken s port card :=
  if_neg (by simp [hrun, Nat.lt_of_succ_le htrained])

/-- A retrain forgets the dropped groups; it starts a link that is not trained, and sends a card on one that is (R410, R411). -/
theorem srnRetrain_of_running {s : Chip} (port : Nat) (hrun : running s = true) :
    srnRetrain s port = (let t := setPort s port (fun x => { x with dropped := [] })
      if linkState t port < 2 then startTraining t port
      else sendCard (setPort t port (fun x => { x with retraining := true })) port) :=
  if_neg (by simp [hrun])

/-- A cable that is inserted while the firmware runs is read, and its port is trained (R512, R513). -/
theorem cableInsert_of_booted {s : Chip} (port lanes : Nat) (hhub : hubOn s = true) (hboot : s.sec.booted = true) :
    cableInsert s port lanes =
      trainPort (setPort s port (fun x => { x with cable := some lanes, read := false, signal := true })) port :=
  if_pos (Bool.and_eq_true_iff.mpr ⟨hhub, hboot⟩)

/-- Settles O15: each is an event of a running module but the cables', which come at any time. -/
theorem serrunLinksMove : Obligations.SerrunLinksMove := by
  refine ⟨?crc, ?retrained, ?trained, ?card, ?retrain, ?insert, ?remove⟩
  case crc =>
    intro c l port g hrun htrained hused
    exact live_of_eq l hrun (srnFrameCrcFail_of_used hrun htrained hused)
  case retrained =>
    intro c l port hrun htrained hretraining
    exact live_of_eq l hrun (srnRetrainComplete_of_retraining htrained hretraining)
  case trained =>
    intro c l port hrun htraining hcan
    exact live_of_eq l hrun (srnTrainingComplete_of_training htraining hcan)
  case card =>
    intro c l port card hrun htrained
    exact live_of_eq l hrun (crewCardReceived_of_trained card hrun htrained)
  case retrain => exact fun c l port hrun hopen => drivenLive_of_eq l hrun hopen (srnRetrain_of_running port.val hrun)
  case insert =>
    intro c l port lanes hhub hboot
    exact act_of_eq (f := fun c => cableInsert c port.val lanes) l (cableInsert_of_booted port.val lanes hhub hboot)
  case remove => exact fun c l port => act_of_eq l (f := fun c => cableRemove c port.val) rfl

/-! ### The twin pair and the placement (R413, R426 to R429) -/

/-- A role write with a tag that no other receiving partition has sets the configuration, sends the role, shows a conflict, and
promotes a partition that leaves STANDBY for PRIMARY (R426, R429). -/
theorem twinRoleWrite_of_free {s : Chip} {p v : Nat} (hrun : running s = true) (hfree : tagTaken s p (v % 2 ^ 16) = false) :
    twinRoleWrite s p v = (let t := showConflict (sendRole (roleWritten s p v) p) p
      if twinRole s p = 2 ∧ bits v 30 29 = 1 then promote s t p else t) :=
  if_neg (by simp only [hrun, hfree, Bool.not_true, Bool.or_self, Bool.false_eq_true, not_false_eq_true])

/-- With its allocator's context read, a partition that is not lost frees its retire rings (R429). -/
theorem twinFreeWith_of_read {s : Chip} {p : Nat} {e : Rd × Option KvCtx} {k : KvCtx} (hread : e.2 = some k)
    (hkept : (kvPart s p).lost = false) : twinFreeWith s p e = freeEnd (freeRings s p k e.1) s p := by
  simp only [twinFreeWith, hread, hkept, Bool.false_eq_true, if_false]

/-- A promoted partition with no walk reads its allocator's context. -/
theorem twinRetireFree_of_idle {s : Chip} {p : Nat} (hpromoted : kmem s.mesh.promoted p = true) (hidle : kvBusy s p = false) :
    twinRetireFree s p = twinFreeWith s p ((startRd s).ctx p (allocRegion s p) none) :=
  if_neg (by simp [hpromoted, hidle])

theorem roleNoticeReceived_of_up {s : Chip} (tag role : Nat) (hrun : running s = true) (hup : linkUpAt s 4 = true) :
    roleNoticeReceived s tag role = (List.range 16).foldl showConflict (noteRole s tag role) :=
  if_neg (by simp [hrun, hup])

/-- A mirrored write of this epoch is stored and answered (R427). -/
theorem mirrorWriteArrival_of_epoch {s : Chip} {epoch : Nat} (tag xfer : Nat) (w : Mirror) (hrun : running s = true)
    (hup : linkUpAt s 4 = true) (hepoch : (epochRefusal s 4 epoch).isNone = true) :
    mirrorWriteArrival s tag epoch xfer w = mirrorAnswer xfer (mirrorLen w) (deliverMirror s tag w) := by
  simp only [mirrorWriteArrival, hrun, hup, Option.isNone_iff_eq_none.mp hepoch, Bool.not_true, Bool.or_self,
    Bool.false_eq_true, if_false]

/-- A placement message that comes while the firmware runs is placed, or refused (R413). -/
theorem mctpPlace_of_firmwareOn {s : Chip} {via : Endpoint} (m : Placement) (hopen : endpointOpen s via = true)
    (hhub : hubOn s = true) (hfirmware : firmwareOn s = true) : mctpPlace s m via = place s m via := by
  rw [mctpPlace, hubCommand_of_hubOn _ hopen hhub, if_pos hfirmware]

/-- Settles O16: the role write is the host driver's, the placement comes by an endpoint, and the others are events. -/
theorem twinCommandsRun : Obligations.TwinCommandsRun := by
  refine ⟨?role, ?free, ?notice, ?mirror, ?loss, ?place⟩
  case role =>
    intro c l p value hrun hopen hfree
    exact driven_of_eq l hopen (twinRoleWrite_of_free hrun hfree)
  case free =>
    intro c l p e k hrun hpromoted hidle hctx hread hkept
    subst hctx
    exact live_of_eq l hrun ((twinRetireFree_of_idle hpromoted hidle).trans (twinFreeWith_of_read hread hkept))
  case notice =>
    intro c l tag role hrun hup
    exact live_of_eq l hrun (roleNoticeReceived_of_up tag.toNat role.val hrun hup)
  case mirror =>
    intro c l tag epoch xfer w hrun hup hepoch
    exact live_of_eq l hrun (mirrorWriteArrival_of_epoch tag.toNat xfer w hrun hup hepoch)
  case loss => exact fun c l hup => act_of_eq (f := twinLinkLoss) l (if_pos hup)
  case place =>
    intro c l m via hopen hhub hfirmware
    exact act_of_eq (f := fun c => mctpPlace c m via) l (mctpPlace_of_firmwareOn m hopen hhub hfirmware)

end Sys2Proof.Machine
end

section
/-!
PROOF. The statements of chapter 15 (faults): what a module that does not run, or is in OFF, leaves unchanged (R450, R456, R457),
acknowledgements of fault records (R446), and the events of the Fault Collector, the fence and the die-to-die links (R434 to R450).
-/
namespace Sys2Proof.Machine

/-! ### A module that does not run (R450, R456) -/

/-- A command that would change nothing leaves the state as it is. -/
theorem next_of_unchanged {s : State} {c : Chip} (h : c = s.toChip) :
    (.next { s with toChip := c } : Host.Outcome State Fault Refusal) = .next s := by
  rw [h]

/-- While the module does not run, an event of a running module changes nothing. -/
theorem live_of_stopped {s : State} (f : Chip → Chip) (hstop : running s.toChip = false) : live s f = .next s := by
  rw [live_eq, if_neg (ne_true_of_eq_false hstop)]

section
variable {s : Chip} (hstop : running s = false)
include hstop

/-- Where a block, a bank or a region may rest, the module runs. -/
theorem mayRest_of_stopped (b : Nat) : mayRest s b = false := by simp [mayRest, hstop]

theorem mayRetain_of_stopped (b : Nat) : mayRetain s b = false := by simp [mayRetain, mayRest_of_stopped hstop]

theorem mayOff_of_stopped (b : Nat) : mayOff s b = false := by simp [mayOff, mayRest_of_stopped hstop]

theorem mayReturn_of_stopped (b : Nat) : mayReturn s b = false := by simp [mayReturn, hstop]

theorem maySleep_of_stopped (r : Nat) : maySleep s r = false := by simp [maySleep, hstop]

/-- A fence test ends while the module runs. -/
theorem fenceTestComplete_of_stopped (pass : Bool) : fenceTestComplete s pass = s := by
  cases htest : s.faults.testing <;> simp [fenceTestComplete, htest, hstop]

end

/-- A command that does not stand in Instr.worksStopped waits for the module to run. -/
theorem exec_of_stopped {i : Instr} {s : State} (h : i.worksStopped = false) (hstop : running s.toChip = false) :
    exec i s = .next s := by
  cases i with
  | nop | strokePass | accModeWaitProceed | accModeTimeout | readout | quantise | widenEventNotice | stormNotice
  | stormWindowRollover | fin | finWidenItem | zeroFill | fillComplete | dmaCopy | semSignal | semWait | barrier | waitTimeout
  | eventHost | weighEnough | reinAttend | kvAppend | pageEditSet | pageEditAlloc | pageEditRelease | pageEditShare | pageEditMove
  | walkStart | walkEnd | retireQueueAdvance | skvCompress | skvDecode | skvStage | slotUnitWrite | slotUnitRead | serveSubmit
  | serveCancel | servePause | serveResume | serveEdit | serveEditComplete | serveAccount | serveQuery | serveSample | catchStep
  | stepFinish | accountWindowRollover | moveDue | boathouseMoveComplete | boathouseFetchComplete | ttlExpiry | memUpdate
  | memFetch | srnWrite | srnRead | srnUpdate | srnAllreduce | srnSignal | srnPacketArrival | srnPacketForward | srnPacketDiscard
  | srnRefusalArrival | srnAckArrival | srnAckTimeout | srnCollTimeout | srnFrameCrcFail | srnRetrainComplete
  | srnTrainingComplete | crewCardReceived | srnRetrain | twinRetireFree | roleNoticeReceived | mirrorWriteArrival | commandFetch
  | preemptPointReached | spillComplete | resumeStart | restoreComplete | engineDispatch | commandRetire | bankGrant
  | bankScrubRead | sqDoorbell | queueEnable | queueResume | queueReset | sqCqHeadWrite | sqHostSignal | zeroFillGo | pwModelLoad
  | pwFreeWrite | skvCtxLoad | hbmRangeWrite | tbSliceWrite | girthCfgWrite | girthRefill | retireAccept | retireCopyStart
  | retireCopyComplete | patrolScrubRead | tbSelfRefreshEntry | tierInitComplete | releaseScrubComplete | create
  | partitionCreated | partitionReset | release | reclaim | teardown | holdExpiry | hostCompletionTimeout =>
    exact live_of_stopped _ hstop
  | twinRoleWrite p v => exact next_of_unchangedSo (by simp [twinRoleWrite, hstop])
  | fenceRelease b => exact next_of_unchangedSo (by simp [fenceRelease, hstop])
  | bootChain => exact next_of_unchanged (by simp [bootChain, hstop])
  | fenceTestComplete pass => exact next_of_unchanged (fenceTestComplete_of_stopped hstop pass)
  | d2dCrcRetry r g => exact next_of_unchanged (by simp [d2dCrcRetry, hstop])
  | d2dRetrainComplete r ok => exact next_of_unchanged (by simp [d2dRetrainComplete, hstop])
  | coxWatchdog => exact next_of_unchanged (by simp [coxWatchdog, hstop])
  | thermalSample b t => exact next_of_unchanged (by simp [thermalSample, hstop])
  | blockClockGate b => exact next_of_unchanged (by simp [blockClockGate, mayRest_of_stopped hstop])
  | blockRetainTimeout b => exact next_of_unchanged (by simp [blockRetainTimeout, mayRetain_of_stopped hstop])
  | blockOffTimeout b met => exact next_of_unchanged (by simp [blockOffTimeout, mayOff_of_stopped hstop])
  | blockWakeComplete b => exact next_of_unchanged (by simp [blockWakeComplete, hstop])
  | bankPowerUp b => exact next_of_unchanged (by simp [bankPowerUp, hstop])
  | bankIdleReturn b met => exact next_of_unchanged (by simp [bankIdleReturn, mayReturn_of_stopped hstop])
  | regionSleep r => exact next_of_unchanged (by simp [regionSleep, maySleep_of_stopped hstop])
  | regionWakeComplete r => exact next_of_unchanged (by simp [regionWakeComplete, hstop])
  | wakeRestoreComplete => exact next_of_unchanged (by simp [wakeRestoreComplete, hstop])
  | memoryTrainingComplete => exact next_of_unchanged (by simp [memoryTrainingComplete, hstop])
  | _ => exact absurd h Bool.true_eq_false.mp

/-! ### A module in OFF (R456, R457) -/

section
variable {s : Chip} (hoff : powerState s = 0)
include hoff

theorem hubOn_of_off : hubOn s = false := by simp [hubOn, hoff]

theorem running_of_off : running s = false := by simp [running, hubOn_of_off hoff]

theorem firmwareOn_of_off : firmwareOn s = false := by simp [firmwareOn, hubOn_of_off hoff]

theorem barOpen_of_off (port fn : Nat) : barOpen s port fn = false := by simp [barOpen, hubOn_of_off hoff]

theorem driverOpen_of_off : driverOpen s = false := barOpen_of_off hoff _ _

theorem viaOpen_of_off (via : Via) : viaOpen s via = false := by
  cases via with
  | pf port => exact barOpen_of_off hoff _ _
  | vf port n => exact barOpen_of_off hoff _ _

/-- No endpoint of the management bus answers. -/
theorem endpointOpen_of_off (via : Endpoint) : endpointOpen s via = false := by
  cases via with
  | sideband => simp [endpointOpen, hoff]
  | pcie => simp [endpointOpen, hubOn_of_off hoff]

theorem hubCommand_of_off (via : Endpoint) (f : Chip → Chip) : hubCommand s via f = s := by
  simp [hubCommand, endpointOpen_of_off hoff]

theorem responderOn_of_off (r : Responder) : responderOn s r = false := by simp [responderOn, firmwareOn_of_off hoff]

theorem windowThere_of_off (port fn o len : Nat) : windowThere s port fn o len = false := by
  simp [windowThere, barOpen_of_off hoff]

theorem jtagAccess_of_off (a : Jtag) : jtagAccess s a = s := by
  cases a <;> simp [jtagAccess, hoff, hubOn_of_off hoff]

end

/-- A command that does not stand in Instr.worksInOff waits for the hub, or for an endpoint or the power that OFF takes away. -/
theorem exec_of_off {i : Instr} {s : State} (h : i.worksInOff = false) (hoff : powerState s.toChip = 0) : exec i s = .next s := by
  have hhub := hubOn_of_off hoff
  have hfirmware := firmwareOn_of_off hoff
  cases hworks : i.worksStopped with
  | false => exact exec_of_stopped hworks (running_of_off hoff)
  | true =>
    cases i with
    | secSvnCommit | openOperator | closeOperator | nonceNew | token | supplement | debugRead | fcAck | standby | slEnableWrite
    | pageQuiesce | pageEnableWrite | localReset | irqStatClear | irqSet | interruptMaskWrite | errInject | countClear =>
      exact driven_of_shut _ (driverOpen_of_off hoff)
    | latchingLoRead | registerWrite => exact through_of_shut _ (viaOpen_of_off hoff _)
    | place | mctpStandby | mctpToken | faultRead | telemetryRead => exact next_of_unchanged (hubCommand_of_off hoff _ _)
    | mctpUnsupportedCmd => exact next_of_unchanged (by simp [mctpUnsupportedCmd, hubCommand_of_off hoff])
    | wake => exact next_of_unchanged (by simp [wake, endpointOpen_of_off hoff])
    | mgmtOverride => exact next_of_unchanged (by simp [mgmtOverride, endpointOpen_of_off hoff])
    | status => exact next_of_unchanged (by simp [status, endpointOpen_of_off hoff])
    | setEndpointId => exact next_of_unchanged (by simp [setEndpointId, endpointOpen_of_off hoff])
    | bar2Read => exact next_of_unchanged (by simp [bar2Read, barOpen_of_off hoff])
    | bar2Write => exact next_of_unchanged (by simp [bar2Write, barOpen_of_off hoff])
    | spadWindowRead => exact next_of_unchanged (by simp [spadWindowRead, windowThere_of_off hoff])
    | spadWindowWrite => exact next_of_unchanged (by simp [spadWindowWrite, windowThere_of_off hoff])
    | functionLevelReset => exact next_of_unchanged (by simp [functionLevelReset, hhub])
    | surpriseLinkLoss => exact next_of_unchanged (by simp [surpriseLinkLoss, hhub])
    | linkUp => exact next_of_unchanged (by simp [linkUp, linkMayRise, hhub])
    | configRequest => exact next_of_unchanged (by simp [configRequest, hhub])
    | atomicOpRequest => exact next_of_unchanged (by simp [atomicOpRequest, hhub])
    | functionReadinessStatus => exact next_of_unchanged (by simp [functionReadinessStatus, hhub])
    | ideIntegrityFail => exact next_of_unchanged (by simp [ideIntegrityFail, hfirmware])
    | ideKm => exact next_of_unchanged (by simp [ideKm, hfirmware])
    | spdmRequest => exact next_of_unchanged (by simp [spdmRequest, hoff, responderOn_of_off hoff])
    | debugPortUnlock => exact next_of_unchanged (by simp [debugPortUnlock, hhub])
    | faultRecordArrival => exact next_of_unchanged (by simp [faultRecordArrival, hhub])
    | graceExpiry => exact next_of_unchanged (by simp [graceExpiry, hhub])
    | inputRangeExcursion => exact next_of_unchanged (by simp [inputRangeExcursion, hhub])
    | pmThermalTrip => exact next_of_unchanged (by simp [pmThermalTrip, pmFatal, hhub])
    | pmRailTrip => exact next_of_unchanged (by simp [pmRailTrip, pmFatal, hhub])
    | pmCrystalFail => exact next_of_unchanged (by simp [pmCrystalFail, hhub])
    | standbyEntryComplete => exact next_of_unchanged (by simp [standbyEntryComplete, hhub])
    | telemetrySample => exact next_of_unchanged (by simp [telemetrySample, hhub])
    | hotswapTrip => exact next_of_unchanged (by simp [hotswapTrip, enterOff, hoff])
    | crystalStable => exact next_of_unchanged (by simp [crystalStable, hoff])
    | i3cDynamicAddress => exact next_of_unchanged (by simp [i3cDynamicAddress, hoff])
    | rstdaa => exact next_of_unchanged (by simp [rstdaa, hoff])
    | jtagAccess a => exact next_of_unchanged (jtagAccess_of_off hoff a)
    | cableInsert | cableRemove | twinLinkLoss | perstAssert | perstDeassert | faultPulseEnd | pwrEnAssert | pwrEnDeassert
    | inputGood | srnSignalLoss | srnSignalDetect | alarmWake => exact absurd h Bool.true_eq_false.mp
    | _ => exact absurd hworks Bool.false_ne_true

/-- Settles O47: the commands of a running module are told apart by what they ask for first. -/
theorem stoppedModuleIdles : Obligations.StoppedModuleIdles :=
  ⟨fun _ _ h hstop => exec_of_stopped h hstop, fun _ _ h hoff => exec_of_off h hoff⟩

/-! ### Acknowledgements and grace periods (R444, R446) -/

/-- With the hub on, an acknowledgement comes after the ends of intervals and the records sent before it (R446, log 90). -/
theorem fcAck_of_hubOn {s : Chip} (seq : Nat) (hhub : hubOn s = true) :
    fcAck s seq = (let t := takeSent (runGraces s) none
      if t.faults.pending.any (fun x => x.seq == seq) then dropPending t seq else bump t .fc Reg.FC_ESC_COUNT_ACK_STALE 1) :=
  if_neg (by simp [hhub])

theorem exec_fcAck {c u : Chip} (l : List Instr) (seq : Word) (hopen : driverOpen c = true) (h : fcAck c seq.toNat = u) :
    exec (.fcAck seq) ⟨c, l⟩ = .next ⟨u, l⟩ :=
  driven_of_eq l hopen h

/-- An acknowledgement of a pending record drops it. -/
theorem fcAck_of_pending {s : Chip} {seq : Nat} (hhub : hubOn s = true)
    (hpending : (takeSent (runGraces s) none).faults.pending.any (fun x => x.seq == seq) = true) :
    fcAck s seq = dropPending (takeSent (runGraces s) none) seq := by
  rw [fcAck_of_hubOn seq hhub]
  exact if_pos hpending

/-- One of no pending record is counted as stale. -/
theorem fcAck_of_stale {s : Chip} {seq : Nat} (hhub : hubOn s = true)
    (hstale : (takeSent (runGraces s) none).faults.pending.any (fun x => x.seq == seq) = false) :
    fcAck s seq = bump (takeSent (runGraces s) none) .fc Reg.FC_ESC_COUNT_ACK_STALE 1 := by
  rw [fcAck_of_hubOn seq hhub]
  exact if_neg (ne_true_of_eq_false hstale)

@[simp] theorem dropPending_pending (s : Chip) (seq : Nat) :
    (dropPending s seq).faults.pending = s.faults.pending.filter (fun x => x.seq != seq) := rfl

@[simp] theorem dropPending_log (s : Chip) (seq : Nat) : (dropPending s seq).faults.log = s.faults.log := rfl

/-- Of the registers, dropping a pending record shows in FC_STAT.PENDING alone. -/
theorem rd_dropPending (s : Chip) (seq : Nat) {pg : Page} {f : Field} (hkey : key pg f ≠ key .fc Reg.FC_STAT_PENDING) :
    rd (dropPending s seq) pg f = rd s pg f := by
  rw [dropPending, showPending, rd_wr_ne _ _ _ _ _ _ hkey]
  rfl

/-- A record that was dropped is not overdue. -/
theorem overdue_dropPending (s : Chip) (seq : Nat) : overdue (dropPending s seq) seq = none := by
  rw [overdue, dropPending_pending, List.find?_eq_none]
  intro x hx
  have hne : x.seq ≠ seq := by simpa using List.of_mem_filter hx
  simp [hne]

theorem graceExpiry_of_none {s : Chip} {seq : Nat} (hnone : overdue s seq = none) : graceExpiry s seq = s := by
  simp only [graceExpiry, hnone, ite_self]

/-- Settles O49: dropping a record takes it from the pending set, and what is not pending is not overdue. -/
theorem acknowledgedRecordLeaves : Obligations.AcknowledgedRecordLeaves := by
  intro c l seq t hopen hhub ht
  subst ht
  refine ⟨?pending, ?stale⟩
  case pending =>
    intro hpending
    refine ⟨_, exec_fcAck l seq hopen (fcAck_of_pending hhub hpending), dropPending_pending _ _, dropPending_log _ _,
      fun pg f hkey => rd_dropPending _ _ hkey, ?_⟩
    exact act_of_eq (f := fun c => graceExpiry c seq.toNat) l (graceExpiry_of_none (overdue_dropPending _ _))
  case stale => exact fun hstale => exec_fcAck l seq hopen (fcAck_of_stale hhub hstale)

/-! ### Records on their way, and the fault pin (R434, R436, R449) -/

section
variable {s : Chip} (pg : Page) (hhub : hubOn s = true)
include hhub

/-- A record that is on its way is taken once the ends of intervals that came before it are. -/
theorem faultRecordArrival_of_arrived {x : Note × Chip} (hsent : oldestSent (runGraces s) pg = some x) :
    faultRecordArrival s pg .arrived = takeNote x.2 x.1 := by
  simp only [faultRecordArrival, hhub, hsent, Bool.not_true, Bool.false_eq_true, if_false]

/-- One that is dropped on its way is counted as lost (log 67). -/
theorem faultRecordArrival_of_dropped {x : Note × Chip} (hsent : oldestSent (runGraces s) pg = some x) :
    faultRecordArrival s pg .dropped = dropNote x.2 x.1 := by
  simp only [faultRecordArrival, hhub, hsent, Bool.not_true, Bool.false_eq_true, if_false]

/-- A corrected error of the Cox line's memory is reported while the module runs (log 58). -/
theorem faultRecordArrival_of_corrected (hrun : running (runGraces s) = true) :
    faultRecordArrival s .cox .corrected = coxCorrected (runGraces s) := by
  simp only [faultRecordArrival, hhub, hrun, Bool.not_true, Bool.false_eq_true, and_self, if_false, if_true]

/-- An unreadable word of a page's memory is reported as its table says (log 58). -/
theorem faultRecordArrival_of_unreadable (p : Fin 16) (hrun : running (runGraces s) = true) :
    faultRecordArrival s pg (.unreadable p) = unreadable (runGraces s) pg p.val := by
  simp only [faultRecordArrival, hhub, hrun, Bool.not_true, Bool.false_eq_true, if_false, if_true]

end

/-- The pulse of the fault pin ends at its time (R449). -/
theorem faultPulseEnd_of_over {s : Chip} {e : Nat} (hpulse : s.faults.pulseEnd = some e) (hover : e ≤ s.now) :
    faultPulseEnd s = showPin { s with faults := { s.faults with pulseEnd := none } } := by
  simp only [faultPulseEnd, hpulse, if_pos hover]

/-- A module that runs has its hub on, and is not in FATAL. -/
theorem running_iff {s : Chip} : running s = true ↔ hubOn s = true ∧ inFatal s = false := by
  simp [running]

/-- The end of a grace period drops the record where its next step lies beyond CEILING, and takes the step otherwise (R444). -/
theorem graceExpiry_of_overdue {s : Chip} {seq : Nat} {x : Pending} (hrun : running s = true) (hover : overdue s seq = some x) :
    graceExpiry s seq = if rd s .fc Reg.FC_CFG_CEILING < x.step then dropPending s seq else takeDue s seq x := by
  obtain ⟨hhub, hfatal⟩ := running_iff.mp hrun
  simp only [graceExpiry, hhub, hfatal, hover, Bool.not_true, Bool.or_self, Bool.false_eq_true, if_false, gt_iff_lt]

/-! ### The fence, die-to-die links and the Cox watchdog (R439, R442, R450) -/

/-- A fence release writes the block, and, while no test runs, starts the test of a fenced one or answers that it is not
fenced. -/
theorem fenceRelease_of_idle {s : Chip} {b : Nat} (hrun : running s = true)
    (hidle : rd (wr s .fc Reg.FC_FENCE_CTRL_BLOCK b) .fc Reg.FC_FENCE_STAT_BUSY = 0) :
    fenceRelease s b = (let t := wr s .fc Reg.FC_FENCE_CTRL_BLOCK b
      if blockFenced t b then startFenceTest t b else wr t .fc Reg.FC_FENCE_STAT_RESULT 3) := by
  cases hfence : blockFenced (wr s .fc Reg.FC_FENCE_CTRL_BLOCK b) b <;> simp [fenceRelease, hrun, hidle, hfence]

theorem exec_fenceRelease {c u : Chip} (l : List Instr) (blk : Fin 256) (hopen : driverOpen c = true)
    (h : fenceRelease c blk.val = u) : exec (.fenceRelease blk) ⟨c, l⟩ = .next ⟨u, l⟩ :=
  driven_of_eq l hopen h

/-- The test's end releases its block, or keeps it fenced. -/
theorem fenceTestComplete_of_testing {s : Chip} {b : Nat} (pass : Bool) (hrun : running s = true)
    (htest : s.faults.testing = some b) :
    fenceTestComplete s pass = if pass then fencePassed (fenceTested s pass) b else fenceFailed (fenceTested s pass) b := by
  simp only [fenceTestComplete, htest, hrun, Bool.not_true, Bool.false_eq_true, if_false]

/-- A retry on a lane group in use is noted, and drops a worn group. -/
theorem d2dCrcRetry_of_used {s : Chip} {r g : Nat} (hrun : running s = true)
    (hused : bit (rd s .hub Reg.HUB_D2D_STAT_GROUPS) (8 * r + g) = true) :
    d2dCrcRetry s r g = if d2dWorn (d2dNoted s r g) r g then d2dDrop (d2dNoted s r g) r g else d2dNoted s r g :=
  if_neg (by simp [hrun, hused])

/-- A retrain of a die-to-die link ends, in order or not. -/
theorem d2dRetrainComplete_of_retraining {s : Chip} {r : Nat} (ok : Bool) (hrun : running s = true)
    (hretrain : kmem s.faults.d2d r = true) :
    d2dRetrainComplete s r ok = if ok then d2dRetrained s r else d2dFail (d2dRetrained s r) r :=
  if_neg (by simp [hrun, hretrain])

/-- A Cox watchdog is a FATAL record (R450). -/
theorem coxWatchdog_of_running {s : Chip} (hrun : running s = true) :
    coxWatchdog s = fatalNow s .cox Reg.COX_ERR_STAT_WATCHDOG (plainNote .cox .fatal 0xA5) := by
  rw [coxWatchdog, if_pos hrun]

/-- Settles O28: each is an event of a hub or a module that runs, or a write of the host driver. -/
theorem faultEventsRun : Obligations.FaultEventsRun := by
  refine ⟨?arrived, ?dropped, ?corrected, ?unreadable, ?pulse, ?step, ?beyond, ?ack, ?stale, ?fenced, ?unfenced, ?passed, ?failed,
    ?d2dRetry, ?d2dTrained, ?d2dFailed, ?watchdog⟩
  case arrived =>
    intro c l pg t x hhub ht hsent
    subst ht
    exact act_of_eq (f := fun c => faultRecordArrival c pg .arrived) l (faultRecordArrival_of_arrived pg hhub hsent)
  case dropped =>
    intro c l pg t x hhub ht hsent
    subst ht
    exact act_of_eq (f := fun c => faultRecordArrival c pg .dropped) l (faultRecordArrival_of_dropped pg hhub hsent)
  case corrected =>
    intro c l t hhub ht hrun
    subst ht
    exact act_of_eq (f := fun c => faultRecordArrival c .cox .corrected) l (faultRecordArrival_of_corrected hhub hrun)
  case unreadable =>
    intro c l pg p t hhub ht hrun
    subst ht
    exact act_of_eq (f := fun c => faultRecordArrival c pg (.unreadable p)) l (faultRecordArrival_of_unreadable pg hhub p hrun)
  case pulse => exact fun c l e hpulse hover => act_of_eq l (faultPulseEnd_of_over hpulse hover)
  case step =>
    intro c l seq x hrun hover hwithin
    exact act_of_eq l ((graceExpiry_of_overdue hrun hover).trans (if_neg hwithin.not_gt))
  case beyond =>
    intro c l seq x hrun hover hbeyond
    exact act_of_eq l ((graceExpiry_of_overdue hrun hover).trans (if_pos hbeyond))
  case ack =>
    intro c l seq t hopen hhub ht hpending
    subst ht
    exact exec_fcAck l seq hopen (fcAck_of_pending hhub hpending)
  case stale =>
    intro c l seq t hopen hhub ht hstale
    subst ht
    exact exec_fcAck l seq hopen (fcAck_of_stale hhub hstale)
  case fenced =>
    intro c l blk t hrun hopen ht hidle hfence
    subst ht
    exact exec_fenceRelease l blk hopen ((fenceRelease_of_idle hrun hidle).trans (if_pos hfence))
  case unfenced =>
    intro c l blk t hrun hopen ht hidle hfence
    subst ht
    exact exec_fenceRelease l blk hopen ((fenceRelease_of_idle hrun hidle).trans (if_neg (ne_true_of_eq_false hfence)))
  case passed =>
    intro c l b hrun htest
    exact act_of_eq (f := fun c => fenceTestComplete c true) l
      ((fenceTestComplete_of_testing true hrun htest).trans (if_pos rfl))
  case failed =>
    intro c l b hrun htest
    exact act_of_eq (f := fun c => fenceTestComplete c false) l
      ((fenceTestComplete_of_testing false hrun htest).trans (if_neg Bool.false_ne_true))
  case d2dRetry =>
    intro c l r g t hrun hused ht
    subst ht
    exact act_of_eq l (d2dCrcRetry_of_used hrun hused)
  case d2dTrained =>
    intro c l r hrun hretrain
    exact act_of_eq (f := fun c => d2dRetrainComplete c r.val true) l
      ((d2dRetrainComplete_of_retraining true hrun hretrain).trans (if_pos rfl))
  case d2dFailed =>
    intro c l r hrun hretrain
    exact act_of_eq (f := fun c => d2dRetrainComplete c r.val false) l
      ((d2dRetrainComplete_of_retraining false hrun hretrain).trans (if_neg Bool.false_ne_true))
  case watchdog => exact fun c l hrun => act_of_eq (f := coxWatchdog) l (coxWatchdog_of_running hrun)

end Sys2Proof.Machine
end

section
/-!
PROOF. The statements of chapter 16 (power and boot): local time and what counts it (R465, R466, R481), the loss of the module's
state in OFF (R457), the idle states of blocks, banks and regions (R163, R456 to R461), and the power inputs, trips, samples,
STANDBY and wakes (R455 to R474).
-/
namespace Sys2Proof.Machine

/-! ### Local time, latches and positions (R465, R481) -/

theorem exec_time {i : Instr} {s t : State} (h : exec i s = .next t) (hno : i.mayTouchTime = false) :
    (t.now, t.xtal) = (s.now, s.xtal) :=
  ((exec_keeps h False.elim).cx.n _ (keptUnless_of_not _ hno)).symm

/-- Settles O45: the clocks, and local time with its crystal, stand among the parts that `exec_keeps` keeps. -/
theorem clocksKept : Obligations.ClocksKept := by
  refine ⟨?clocks, ?time⟩
  case clocks =>
    intro i s t hno h
    simpa only [Chip.clocks, Prod.mk.injEq] using exec_clocks h hno
  case time => exact fun i s t hno h => Prod.mk.inj (exec_time h hno)

theorem tick_of_off {s : Chip} (h : powerState s = 0) : tick s = s := if_pos h

theorem tick_of_standby {s : Chip} (h : powerState s = 1) :
    tick s = { s with now := s.now + 30517 + (s.xtal + 37) / 64, xtal := (s.xtal + 37) % 64 } := by
  rw [tick, if_neg (by omega), if_pos h]

theorem tick_of_hubPower {s : Chip} (hpower : powerState s ≠ 0) (hawake : powerState s ≠ 1) :
    tick s = { s with now := s.now + 1 } := by
  rw [tick, if_neg hpower, if_neg hawake]

/-- Settles O34: on an empty queue a step is one tick of local time. -/
theorem idleTick : Obligations.IdleTick := by
  intro s hempty
  rw [step_of_nil hempty, act_eq]
  refine ⟨?off, ?standby, ?on⟩
  case off => exact fun h => by rw [tick_of_off h]
  case standby => exact fun h => by rw [tick_of_standby h]
  case on => exact fun hpower hawake => by rw [tick_of_hubPower hpower hawake]

/-! ### OFF (R457) -/

/-- Entering OFF loses the module's state; of what is left, only the messages that left the module may be one more. -/
theorem enterOff_of_powered {s : Chip} (hpower : powerState s ≠ 0) : ∃ out, enterOff s = { offState s with out := out } := by
  rw [enterOff, if_neg hpower]
  split
  · exact ⟨_, rfl⟩
  · exact ⟨_, rfl⟩

theorem powerState_offState (s : Chip) : powerState (offState s) = 0 := rd_wr_same _ _ _ _ rfl

/-- In OFF every register field but PM_STAT.STATE is at its reset value. -/
theorem rd_offState (s : Chip) {pg : Page} {f : Field} (hkey : key pg f ≠ key .pm Reg.PM_STAT_STATE) :
    rd (offState s) pg f = f.reset := rd_wr_ne _ _ _ _ _ _ hkey

theorem exec_pwrEnDeassert (c : Chip) (l : List Instr) :
    exec .pwrEnDeassert ⟨c, l⟩ = .next ⟨setPower (enterOff c) (fun w => { w with pwrEn := false }), l⟩ := rfl

/-- Settles O48: what OFF leaves is the reset state with the fuses and the flash. -/
theorem powerRemovedIsOff : Obligations.PowerRemovedIsOff := by
  intro c l hpower
  obtain ⟨out, hout⟩ := enterOff_of_powered hpower
  refine ⟨_, exec_pwrEnDeassert c l, ?_⟩
  rw [hout]
  exact ⟨powerState_offState c, rfl, fun pg f hkey => rd_offState c hkey, rfl, rfl, rfl, rfl, rfl, rfl, rfl, rfl⟩

/-! ### Registers of another page -/

/-- A field that lies within a page of 4 KiB: in its offset, and in its word. -/
def inPage (f : Field) : Bool := decide (f.off < 4096 ∧ f.lo < 32)

/-- A write to one page leaves the fields of every other. -/
theorem rd_wr_otherPage {s : Chip} {pg pg' : Page} {f f' : Field} (v : Nat) (hf : inPage f = true) (hf' : inPage f' = true)
    (hpage : pageIndex pg' ≠ pageIndex pg) : rd (wr s pg f v) pg' f' = rd s pg' f' := by
  obtain ⟨hoff, hlo⟩ := of_decide_eq_true hf
  obtain ⟨hoff', hlo'⟩ := of_decide_eq_true hf'
  exact rd_wr_ne _ _ _ _ _ _ (by unfold key; omega)

section
variable {pg : Page} {f : Field} {b : Nat} (hf : inPage f = true) (hpage : pageIndex pg ≠ pageIndex (.spb b))
include hf hpage

/-- What a bank's changes of power write is on the bank's own page (R163, R164). -/
theorem rd_bankOff_otherPage (s : Chip) : rd (bankOff s b) pg f = rd s pg f := by
  rw [bankOff, rd_wr_otherPage _ (by decide) hf hpage]
  rfl

theorem rd_powerUpBank_otherPage (s : Chip) : rd (powerUpBank s b) pg f = rd s pg f := by
  simp only [powerUpBank, wrAll, List.foldl_cons, List.foldl_nil]
  rw [rd_wr_otherPage _ (by decide) hf hpage, rd_wr_otherPage _ (by decide) hf hpage]
  rfl

theorem rd_bankTouch_otherPage (s : Chip) : rd (bankTouch s b) pg f = rd s pg f := by
  have hawake : rd (if rd s (.spb b) Reg.SPB_STAT_POWER = 3 then powerUpBank s b
      else if rd s (.spb b) Reg.SPB_STAT_POWER = 0 then s else wr s (.spb b) Reg.SPB_STAT_POWER 0) pg f = rd s pg f := by
    split
    · exact rd_powerUpBank_otherPage hf hpage s
    · split
      · rfl
      · exact rd_wr_otherPage _ (by decide) hf hpage
  exact hawake

theorem rd_bankTo_otherPage (s : Chip) (v : Nat) : rd (bankTo s b v) pg f = rd s pg f := by
  by_cases hstop : (if rd s (.spb b) Reg.SPB_CFG_HOLD = 1 then min v 2 else v) = 3
  · simp only [bankTo, if_pos hstop]
    split
    · rfl
    · exact rd_bankOff_otherPage hf hpage s
  · simp only [bankTo, if_neg hstop]
    exact rd_wr_otherPage _ (by decide) hf hpage

theorem rd_bankRest_otherPage (s : Chip) (v : Nat) (met : Bool) : rd (bankRest s b v met) pg f = rd s pg f := by
  unfold bankRest
  dsimp only
  split
  · rw [rd_bankTouch_otherPage hf hpage, bump, rd_wr_otherPage _ (by decide) hf hpage, rd_bankTo_otherPage hf hpage]
  · exact rd_bankTo_otherPage hf hpage s v

end

/-- The page of a block is none of a bank. -/
theorem pageIndex_blk_ne_spb {b : Nat} (k : Nat) (hb : b < 256) : pageIndex (.blk b) ≠ pageIndex (.spb k) := by
  simp only [pageIndex]
  omega

/-- Of the module itself, the accumulator files are kept. -/
theorem canon_blocksOnly (s : Chip) :
    s.Canon False none none none none none none ⟨some s.blocks, none, none, none, none, none, none⟩ :=
  ⟨False.elim, noneOnly _, noneOnly _, noneOnly _, noneOnly _, noneOnly _, noneOnly _,
    ⟨someOnly _, noneOnly _, noneOnly _, noneOnly _, noneOnly _, noneOnly _, noneOnly _⟩⟩

/-- A bank's changes of power leave the accumulator files. -/
theorem bankRest_blocks (s : Chip) (b v : Nat) (met : Bool) : (bankRest s b v met).blocks = s.blocks :=
  ((canon_bankRest (canon_blocksOnly s)).cx.b _ rfl).symm

/-! ### Blocks that go to OFF (R131, R459) -/

/-- A block's accumulator file is a matter of the table of blocks alone. -/
theorem block_congr {s t : Chip} (h : t.blocks = s.blocks) (b : Nat) : block t b = block s b := by
  rw [block, block, h]

/-- The loss of a block's sets leaves its file fresh, with undefined words. -/
theorem block_loseSets (s : Chip) (b : Nat) : block (loseSets s b) b = { freshBlock with ground := .free s.fresh } :=
  tgetD_tset_same _ _ _ _

theorem rd_loseSets_live {s : Chip} (b : Nat) (hsorted : tsorted s.regs = true) :
    rd (loseSets s b) (.blk b) Reg.BLK_ACC_STATE_LIVE = 0 :=
  rd_wr_same s (.blk b) Reg.BLK_ACC_STATE_LIVE 0 hsorted

theorem blockPower_loseSets (s : Chip) (b : Nat) : blockPower (loseSets s b) b = blockPower s b :=
  rd_wr_ne s (.blk b) (.blk b) Reg.BLK_ACC_STATE_LIVE Reg.PWR_STAT_STATE 0 (by
    simp only [key, Reg.PWR_STAT_STATE, Reg.BLK_ACC_STATE_LIVE, Reg.fld]
    omega)

/-- The module as a block enters OFF: the region's idle time starts where its block was awake, and the block shows OFF. -/
def blockStopped (s : Chip) (b : Nat) : Chip :=
  wr (if blockPower s b < 2 then stampRegion s (b / 64) else s) (.blk b) Reg.PWR_STAT_STATE 3

/-- Where it starts, a region's idle time is in no register. -/
theorem tsorted_stampedIf {s : Chip} (r : Nat) (p : Prop) [Decidable p] (hsorted : tsorted s.regs = true) :
    tsorted (if p then stampRegion s r else s).regs = true := by
  split <;> exact hsorted

theorem blockStopped_fresh (s : Chip) (b : Nat) : (blockStopped s b).fresh = s.fresh := by
  rw [blockStopped, wr_fresh]
  split <;> rfl

theorem tsorted_blockStopped {s : Chip} (b : Nat) (hsorted : tsorted s.regs = true) : tsorted (blockStopped s b).regs = true :=
  tsorted_regsSet _ (.blk b) Reg.PWR_STAT_STATE 3 (tsorted_stampedIf (b / 64) (blockPower s b < 2) hsorted)

theorem blockPower_blockStopped {s : Chip} (b : Nat) (hsorted : tsorted s.regs = true) : blockPower (blockStopped s b) b = 3 :=
  rd_wr_same (if blockPower s b < 2 then stampRegion s (b / 64) else s) _ _ 3 (tsorted_stampedIf _ _ hsorted)

theorem blockOffTimeout_of_mayOff {s : Chip} {b : Nat} (met : Bool) (hoff : mayOff s b = true) :
    blockOffTimeout s b met = bankRest (loseSets (blockStopped s b) b) b 3 met := if_pos hoff

/-- A block with a live set does not go to OFF. -/
theorem mayOff_of_live {s : Chip} {b : Nat} (hlive : rd s (.blk b) Reg.BLK_ACC_STATE_LIVE ≠ 0) : mayOff s b = false := by
  simp [mayOff, hlive]

theorem exec_blockOffTimeout (c : Chip) (l : List Instr) (b : Fin 256) (met : Bool) :
    exec (.blockOffTimeout b met) ⟨c, l⟩ = .next ⟨blockOffTimeout c b.val met, l⟩ := rfl

/-- Settles O50: the sets are lost before the bank goes to OFF, and what meets the bank stays on the bank's page. -/
theorem liveSetsKeepBlocksOn : Obligations.LiveSetsKeepBlocksOn := by
  intro c l b met
  rw [exec_blockOffTimeout]
  refine ⟨?live, ?off⟩
  case live =>
    intro hlive
    rw [blockOffTimeout, if_neg (ne_true_of_eq_false (mayOff_of_live hlive))]
  case off =>
    intro hoff hsorted
    have hother := pageIndex_blk_ne_spb b.val b.isLt
    have hstopped := tsorted_blockStopped b.val hsorted
    refine ⟨_, rfl, ?_⟩
    rw [blockOffTimeout_of_mayOff met hoff]
    refine ⟨?power, ?noneLive, ?words⟩
    case power =>
      rw [blockPower, rd_bankRest_otherPage (by decide) hother]
      exact (blockPower_loseSets _ _).trans (blockPower_blockStopped b.val hsorted)
    case noneLive => rw [rd_bankRest_otherPage (by decide) hother, rd_loseSets_live b.val hstopped]
    case words => rw [block_congr (bankRest_blocks _ _ _ _), block_loseSets, blockStopped_fresh]

/-! ### Idle states (R163, R456, R458 to R461) -/

/-- An idle block that is awake gates its clock where GATE_EN is set (R458). -/
theorem blockClockGate_of_idle {s : Chip} {b : Nat} (hrest : mayRest s b = true) (hawake : blockPower s b = 0)
    (hgate : rd s (.blk b) Reg.PWR_CTRL_GATE_EN = 1) :
    blockClockGate s b = bankTo (wr s (.blk b) Reg.PWR_STAT_STATE 1) b 1 :=
  if_pos (by simp [hrest, hawake, hgate])

/-- An idle block that may retain goes to retention, and its region's idle time starts (R458, R461). -/
theorem blockRetainTimeout_of_mayRetain {s : Chip} {b : Nat} (hretain : mayRetain s b = true) :
    blockRetainTimeout s b = stampRegion (bankTo (wr s (.blk b) Reg.PWR_STAT_STATE 2) b 2) (b / 64) := if_pos hretain

/-- A block's wake ends once its region is awake (R460). -/
theorem blockWakeComplete_of_waking {s : Chip} {b : Nat} (hrun : running s = true) (hwaking : kmem s.power.blockWaking b = true)
    (hregion : regionAwake s (b / 64) = true) : blockWakeComplete s b = blockAwake s b :=
  if_neg (by simp [hrun, hwaking, hregion])

/-- A bank in OFF powers up by an access of its own (R163). -/
theorem bankPowerUp_of_off {s : Chip} {b : Nat} (hrun : running s = true) (hoff : bankPower s b = 3)
    (hregion : regionAwake s (b / 64) = true) : bankPowerUp s b = bankTouch s b :=
  if_pos (by simp [hrun, hoff, hregion])

/-- An idle bank returns to its block's state (R163). -/
theorem bankIdleReturn_of_mayReturn {s : Chip} {b : Nat} (met : Bool) (hreturn : mayReturn s b = true) :
    bankIdleReturn s b met = bankRest s b (blockPower s b) met := if_pos hreturn

theorem regionSleep_of_maySleep {s : Chip} {r : Nat} (hsleep : maySleep s r = true) :
    regionSleep s r =
      showState (wr s .pm Reg.PM_REGION_STAT_AWAKE (putBit (rd s .pm Reg.PM_REGION_STAT_AWAKE) r false)) := if_pos hsleep

/-- A region's wake ends with the region awake, and what waited for it goes on (R460). -/
theorem regionWakeComplete_of_waking {s : Chip} {r : Nat} (hrun : running s = true) (hwaking : kmem s.power.waking r = true) :
    regionWakeComplete s r = standbyRetry (memoryGoes (regionAwoken s r)) :=
  if_neg (by simp [hrun, hwaking])

/-- Settles O30: each is an event whose timer, wake or access is due. -/
theorem idleStatesRun : Obligations.IdleStatesRun := by
  refine ⟨?gate, ?retain, ?off, ?wake, ?powerUp, ?idle, ?sleep, ?regionWake⟩
  case gate => exact fun c l blk hrest hawake hgate => act_of_eq l (blockClockGate_of_idle hrest hawake hgate)
  case retain => exact fun c l blk hretain => act_of_eq l (blockRetainTimeout_of_mayRetain hretain)
  case off =>
    intro c l blk met hoff
    rw [exec_blockOffTimeout, blockOffTimeout_of_mayOff met hoff]
    rfl
  case wake => exact fun c l blk hrun hwaking hregion => act_of_eq l (blockWakeComplete_of_waking hrun hwaking hregion)
  case powerUp => exact fun c l bank hrun hoff hregion => act_of_eq l (bankPowerUp_of_off hrun hoff hregion)
  case idle =>
    intro c l bank met hreturn
    exact act_of_eq (f := fun c => bankIdleReturn c bank.val met) l (bankIdleReturn_of_mayReturn met hreturn)
  case sleep => exact fun c l r hsleep => act_of_eq l (regionSleep_of_maySleep hsleep)
  case regionWake => exact fun c l r hrun hwaking => act_of_eq l (regionWakeComplete_of_waking hrun hwaking)

/-! ### Power inputs, trips and samples (R455, R457, R462, R463, R473) -/

/-- A good input with PWR_EN asserted takes the module out of OFF (R457, R465). -/
theorem inputGood_of_charging {s : Chip} (mgmtSel : Bool) (sbAddr : Nat) (hoff : powerState s = 0) (hpwrEn : s.power.pwrEn = true) :
    inputGood s mgmtSel sbAddr = inputGoodNow s mgmtSel sbAddr :=
  if_neg (by simp [hoff, hpwrEn])

/-- Where no PERST_N rose meanwhile, the module is in STANDBY. -/
theorem inputGoodNow_of_none {s : Chip} (mgmtSel : Bool) (sbAddr : Nat) (hearly : s.power.early = none) :
    inputGoodNow s mgmtSel sbAddr = inputStarted s mgmtSel sbAddr := by
  simp only [inputGoodNow, hearly]

/-- Where one did, the hub starts (R473, log 49). -/
theorem inputGoodNow_of_early {s : Chip} {src : Nat} (mgmtSel : Bool) (sbAddr : Nat) (hearly : s.power.early = some src) :
    inputGoodNow s mgmtSel sbAddr = startHub (inputStarted s mgmtSel sbAddr) src := by
  simp only [inputGoodNow, hearly]

theorem inputRangeExcursion_of_hubOn {s : Chip} (high : Bool) (hhub : hubOn s = true) :
    inputRangeExcursion s high =
      pmFlag (bump s .pm (if high then Reg.PM_EVENTS_INPUT_HIGH else Reg.PM_EVENTS_INPUT_LOW) 1) Reg.PM_IRQ_STAT_INPUT_RANGE :=
  if_pos hhub

/-- A sample of a block that is not in OFF sets its temperature and its issue rate; leaving the full rate is flagged (R462). -/
theorem thermalSample_of_on {s : Chip} {b : Nat} (t : Nat) (hrun : running s = true)
    (hon : rd s (.blk b) Reg.PWR_STAT_STATE ≠ 3) :
    thermalSample s b t = (let r := rd s (.blk b) Reg.BLK_ISSUE_RATE
      let s' := wrAll s (.blk b) [(Reg.PWR_STAT_TEMP_C, t), (Reg.BLK_ISSUE_RATE, nextRate s r t)]
      if r = 16 ∧ nextRate s r t < 16 then pmFlag (setFlag s' (.blk b) Reg.BLK_IRQ_STAT_THROTTLE) Reg.PM_IRQ_STAT_THROTTLE
      else s') :=
  if_neg (by simp [hrun, hon])

/-- A trip of the power manager is a FATAL record, after the ends of grace periods that came before it (R450, R463). -/
theorem pmFatal_of_hubOn {s : Chip} (code : Nat) (hhub : hubOn s = true) :
    pmFatal s code = takeNote (runGraces s) { plainNote .pm .fatal code with stamp := s.now } := if_pos hhub

/-! ### The crystal (R464) -/

theorem crystalStable_of_sound {s : Chip} (hpower : powerState s ≠ 0) (hsound : s.power.crystalFailed = false) :
    crystalStable s = wr s .pm Reg.PM_STAT_CRYSTAL_OK 1 :=
  if_neg (by simp [hpower, hsound])

/-- From 2 s on, a crystal that is not stable has failed. -/
theorem pmCrystalFail_of_late {s : Chip} (hhub : hubOn s = true) (hunstable : rd s .pm Reg.PM_STAT_CRYSTAL_OK = 0)
    (hsound : s.power.crystalFailed = false) (hlate : 2000000000 ≤ s.now) : pmCrystalFail s = crystalFails s :=
  if_neg (by simp [hhub, hunstable, hsound, hlate])

/-! ### STANDBY (R467 to R470) -/

/-- A request is looked at while none is under way. -/
theorem standby_of_idle {s : Chip} (hhub : hubOn s = true) (hidle : rd s .pm Reg.PM_STAT_ENTERING ≠ 1)
    (hnone : s.power.standbyHeld = false) : standby s = standbyRequest s :=
  if_neg (by simp [hhub, hidle, hnone])

/-- A request for which there is a reason against it is refused. -/
theorem standbyRequest_of_reason {s : Chip} (hreason : standbyReason s ≠ 0) :
    standbyRequest s = pmFlag (bump (wr s .pm Reg.PM_STAT_REFUSAL (standbyReason s)) .pm Reg.PM_EVENTS_REFUSALS 1)
      Reg.PM_IRQ_STAT_REFUSED := if_pos hreason

/-- One for which there is none begins, or waits for what it must wait for. -/
theorem standbyRequest_of_noReason {s : Chip} (hreason : standbyReason s = 0) :
    standbyRequest s = if standbyWaits s then setPower s (fun w => { w with standbyHeld := true }) else beginStandby s :=
  if_neg (not_not_intro hreason)

section
variable {s : Chip} (hhub : hubOn s = true) (hentering : rd s .pm Reg.PM_STAT_ENTERING = 1)
  (hidle : s.sec.processing = none) (hfatal : inFatal s = false)
include hhub hentering hidle hfatal

/-- The entry ends outside FATAL; the alarm may wake the module at once. -/
theorem standbyEntryComplete_of_noWake (hwake : s.power.wakeHeld = none) :
    standbyEntryComplete s = alarmWake (standbyEntered s) := by
  simp [standbyEntryComplete, hhub, hentering, hidle, hfatal, hwake]

/-- A wake that was held during the entry starts the hub. -/
theorem standbyEntryComplete_of_wake {src : Nat} (hwake : s.power.wakeHeld = some src) :
    standbyEntryComplete s = startHub (standbyEntered s) src := by
  simp [standbyEntryComplete, hhub, hentering, hidle, hfatal, hwake]

end

/-! ### Wakes and telemetry (R470 to R472, R474) -/

theorem wake_of_endpointOpen {s : Chip} {via : Endpoint} (hopen : endpointOpen s via = true) :
    wake s via = answer (wakeEvent s 1) via 1 [] := if_pos hopen

/-- The alarm starts the hub of a module in STANDBY (R470). -/
theorem alarmWake_of_standby {s : Chip} (hdue : alarmDue s = true) (hstandby : powerState s = 1) :
    alarmWake s = startHub s 4 := by
  have hgo : (alarmDue s && (powerState s == 1 || rd s .pm Reg.PM_STAT_ENTERING == 1)) = true := by simp [hdue, hstandby]
  rw [alarmWake, if_pos hgo, wakeEvent, if_pos hstandby]

/-- What STANDBY kept is restored once the firmware runs (R471). -/
theorem wakeRestoreComplete_of_booted {s : Chip} (hrun : running s = true) (hrestoring : s.power.restoring = true)
    (hboot : s.sec.booted = true) : wakeRestoreComplete s = wakeRestored s :=
  if_neg (by simp [hrun, hrestoring, hboot])

/-- The memory is trained once the firmware runs (R472). -/
theorem memoryTrainingComplete_of_booted {s : Chip} (hrun : running s = true) (hboot : s.sec.booted = true)
    (huntrained : s.power.trained = false) : memoryTrainingComplete s = memoryTrained s :=
  if_neg (by simp [hrun, hboot, huntrained])

/-- A sample whose period is over is latched, and goes to the ring where there is one (R474). -/
theorem telemetrySample_of_due {s : Chip} (r : Readings) (hhub : hubOn s = true) (hdue : sampleDue s = true) :
    telemetrySample s r = (let t := sampleTaken s r
      if telemRing t then ringSample t (sampleBytes s r s.now s.power.telemSeq) else t) :=
  if_neg (by simp [hhub, hdue])

/-- Settles O29: the power state, the hub and the entry to STANDBY decide what each event does. -/
theorem powerEventsRun : Obligations.PowerEventsRun := by
  refine ⟨?assert, ?deassert, ?good, ?goodEarly, ?trip, ?range, ?thermal, ?thermalTrip, ?railTrip, ?stable, ?crystalFail,
    ?refused, ?begins, ?waits, ?entered, ?enteredWake, ?wake, ?alarm, ?restored, ?trained, ?sample⟩
  case assert => exact fun _ _ => rfl
  case deassert => exact exec_pwrEnDeassert
  case good =>
    intro c l m a hoff hpwrEn hearly
    exact act_of_eq (f := fun c => inputGood c m a.val) l
      ((inputGood_of_charging m a.val hoff hpwrEn).trans (inputGoodNow_of_none m a.val hearly))
  case goodEarly =>
    intro c l m a src hoff hpwrEn hearly
    exact act_of_eq (f := fun c => inputGood c m a.val) l
      ((inputGood_of_charging m a.val hoff hpwrEn).trans (inputGoodNow_of_early m a.val hearly))
  case trip => exact fun _ _ => rfl
  case range =>
    intro c l high hhub
    exact act_of_eq (f := fun c => inputRangeExcursion c high) l (inputRangeExcursion_of_hubOn high hhub)
  case thermal =>
    intro c l blk temp r t hrun hon hr ht
    subst hr ht
    exact act_of_eq (f := fun c => thermalSample c blk.val temp.toNat) l (thermalSample_of_on temp.toNat hrun hon)
  case thermalTrip => exact fun c l hhub => act_of_eq (f := pmThermalTrip) l (pmFatal_of_hubOn 0xB1 hhub)
  case railTrip => exact fun c l hhub => act_of_eq (f := pmRailTrip) l (pmFatal_of_hubOn 0xB0 hhub)
  case stable => exact fun c l hpower hsound => act_of_eq l (crystalStable_of_sound hpower hsound)
  case crystalFail =>
    intro c l hhub hunstable hsound hlate
    exact act_of_eq (f := pmCrystalFail) l (pmCrystalFail_of_late hhub hunstable hsound hlate)
  case refused =>
    intro c l hopen hhub hidle hnone hreason
    exact driven_of_eq l hopen ((standby_of_idle hhub hidle hnone).trans (standbyRequest_of_reason hreason))
  case begins =>
    intro c l hopen hhub hidle hnone hreason hready
    exact driven_of_eq l hopen ((standby_of_idle hhub hidle hnone).trans
      ((standbyRequest_of_noReason hreason).trans (if_neg (ne_true_of_eq_false hready))))
  case waits =>
    intro c l hopen hhub hidle hnone hreason hwaits
    exact driven_of_eq l hopen ((standby_of_idle hhub hidle hnone).trans
      ((standbyRequest_of_noReason hreason).trans (if_pos hwaits)))
  case entered =>
    intro c l hhub hentering hidle hfatal hwake
    exact act_of_eq l (standbyEntryComplete_of_noWake hhub hentering hidle hfatal hwake)
  case enteredWake =>
    intro c l src hhub hentering hidle hfatal hwake
    exact act_of_eq l (standbyEntryComplete_of_wake hhub hentering hidle hfatal hwake)
  case wake => exact fun c l via hopen => act_of_eq (f := fun c => wake c via) l (wake_of_endpointOpen hopen)
  case alarm => exact fun c l hdue hstandby => act_of_eq l (alarmWake_of_standby hdue hstandby)
  case restored => exact fun c l hrun hrestoring hboot => act_of_eq l (wakeRestoreComplete_of_booted hrun hrestoring hboot)
  case trained => exact fun c l hrun hboot huntrained => act_of_eq l (memoryTrainingComplete_of_booted hrun hboot huntrained)
  case sample =>
    intro c l r t hhub hdue ht
    subst ht
    exact act_of_eq (f := fun c => telemetrySample c r) l (telemetrySample_of_due r hhub hdue)

end Sys2Proof.Machine
end

section
/-!
PROOF. The statements of chapter 17 (register map) about the step itself (R480), and about the copy of the hub page on the port
that is not the management port (R491).
-/
namespace Sys2Proof.Machine

/-! ### The step (R480) -/

/-- Settles O33: a step takes the front command and leaves the rest in the queue. -/
theorem stepRunsFront : Obligations.StepRunsFront := fun _ _ _ hfront => step_of_cons hfront

/-- Settles O36: every command's meaning is a change of the module alone. -/
theorem everyCommandCompletes : Obligations.EveryCommandCompletes := by
  intro i s
  obtain ⟨c, hc⟩ := exec_eq_next i s
  exact ⟨⟨c, s.pending⟩, hc, rfl⟩

/-! ### The other port's registers (R491) -/

section
variable {s : Chip} {port : Fin 2} {off : Nat} (hport : port.val ≠ mgmtPort s)
include hport

/-- PF0 of the other port reaches the copy of the hub page, and nothing above it. -/
theorem reach_otherPort : reach s (.pf port) off = if off < 4096 then .copy else .absent := if_neg hport

theorem reach_otherPort_of_lt (hlow : off < 4096) : reach s (.pf port) off = .copy := by
  rw [reach_otherPort hport, if_pos hlow]

theorem reach_otherPort_of_ge (hhigh : 4096 ≤ off) : reach s (.pf port) off = .absent := by
  rw [reach_otherPort hport, if_neg hhigh.not_gt]

/-- Outside FATAL a read of the copy answers what the hub page reads, and latches nothing. -/
theorem viaRead_otherPort (hlow : off < 4096) (hfatal : inFatal s = false) :
    viaRead s (.pf port) off = (readReg s .hub off, s) := by
  simp only [viaRead, reach_otherPort_of_lt hport hlow, hfatal, Bool.false_eq_true, if_false, Nat.mod_eq_of_lt hlow]

theorem latchingLoRead_otherPort (hhub : hubOn s = true) (haligned : off % 4 = 0) (hlow : off < 4096)
    (hfatal : inFatal s = false) : latchingLoRead s (.pf port) off = emit s (.register (readReg s .hub off)) := by
  have hreach : reach s (.pf port) off ≠ .absent := by
    rw [reach_otherPort_of_lt hport hlow]
    nofun
  rw [latchingLoRead_of_reached hhub haligned hreach, viaRead_otherPort hport hlow hfatal]

/-- A read above the copy reaches nothing. -/
theorem latchingLoRead_otherPort_above (hhigh : 4096 ≤ off) : latchingLoRead s (.pf port) off = s :=
  if_pos (by simp [reach_otherPort_of_ge hport hhigh])

/-- No write through PF0 of the other port reaches a page. -/
theorem registerWrite_otherPort (v be : Nat) : registerWrite s (.pf port) off v be = s := by
  rcases Nat.lt_or_ge off 4096 with hlow | hhigh
  · simp only [registerWrite, reach_otherPort_of_lt hport hlow, ite_self]
  · simp only [registerWrite, reach_otherPort_of_ge hport hhigh, ite_self]

end

theorem exec_latchingLoRead {c : Chip} {via : Via} (l : List Instr) (off : Nat) (hopen : viaOpen c via = true) :
    exec (.latchingLoRead via off) ⟨c, l⟩ = .next ⟨latchingLoRead c via off, l⟩ := through_of_open l _ hopen

/-- Settles O51: that function reaches the copy of the hub page alone. -/
theorem otherPortsRegisters : Obligations.OtherPortsRegisters := by
  intro c l port off v be hhub hopen hport haligned
  rw [exec_latchingLoRead l off hopen]
  refine ⟨?read, ?write, ?above⟩
  case read => exact fun hlow hfatal => by rw [latchingLoRead_otherPort hport hhub haligned hlow hfatal]
  case write =>
    have hexec : exec (.registerWrite (.pf port) off v be) ⟨c, l⟩ =
      through ⟨c, l⟩ (.pf port) (fun c => registerWrite c (.pf port) off v.toNat be.toNat) := rfl
    rw [hexec, through_of_open l _ hopen, registerWrite_otherPort hport]
  case above => exact fun hhigh => by rw [latchingLoRead_otherPort_above hport hhigh]

end Sys2Proof.Machine
end
